-- ==== Sys2Proof/Word.lean ====
section
/-! DEFINITION. The machine's word types (R2, R3): 32-bit registers, 64-bit pairs, bytes. -/

namespace Sys2Proof

/-- A 32-bit register value or instruction word. -/
abbrev Word := BitVec 32

/-- A 64-bit value: a register pair (R59) or an address. -/
abbrev Word64 := BitVec 64

/-- A byte of memory. -/
abbrev Byte := BitVec 8

/-- A cause code (R413). -/
abbrev Cause := BitVec 8

/-- The pair Vn, Vn+1 as one value: Vn holds the low half (R59). -/
def pairOf (lo hi : Word) : Word64 := hi ++ lo

/-- Bits [31:0] of a pair. -/
def loHalf (x : Word64) : Word := x.setWidth 32

/-- Bits [63:32] of a pair. -/
def hiHalf (x : Word64) : Word := (x >>> 32).setWidth 32

end Sys2Proof
end

