-- ==== Sys2Proof/Config.lean ====
section
/-! DEFINITION. What an implementation fixes (constants of the package, R12) and the free values: opaque constants
without a body, so that nothing can be proved of a particular value. Each free value is applied to the counter
State.free and to what tells its uses within one step apart. -/

namespace Sys2Proof.Config

/-- Compute dies of the package (R12). -/
def dies : Nat := 8
/-- Clusters of a die (R12). -/
def clustersPerDie : Nat := 24
/-- Cores of a cluster (R12). -/
def coresPerCluster : Nat := 4
/-- Cores of the package (R12). -/
def cores : Nat := 768
/-- Bytes of a cluster's scratchpad (R12). -/
def scratchBytes : Nat := 3 * 1024 * 1024
/-- Bytes of device memory (R12): 768 GiB. -/
def deviceBytes : Nat := 768 * 1024 * 1024 * 1024
/-- Bytes of a cluster's staging store (R254). -/
def stagingBytes : Nat := 1024 * 1024
/-- Keys of a core's convergence table (R29). -/
def tableEntries : Nat := 256
/-- Memory requests in flight for one core (R165). -/
def coreRequests : Nat := 512
/-- Memory requests in flight for one die (R165). -/
def dieRequests : Nat := 49152

/-- PRESUMED (log entry 7): device physical address 0 stands at this physical address of a page-table entry; the spec
does not say which physical addresses of an entry lie in the HDM range (R387). -/
def hdmBase : Nat := 0

/-- Free: which of the candidate values of an element a read inside a latency window, or before a WAIT, returns
(R82, R137). Arguments: the counter, the fibre, the element. -/
opaque freeIndex : Nat → Nat → Nat → Nat

/-- Free: a 32-bit value that the spec leaves open. Arguments: the counter and what tells uses apart. -/
opaque freeWord : Nat → Nat → Nat → BitVec 32

/-- Free: which of the allowed free segments an allocation takes (R318). -/
opaque freeSegment : Nat → Nat → Nat

/-- Free: the device physical address at which firmware places the threshold area (R375, R391). -/
opaque thresholdArea : Nat

/-- Free: the result of FRCP for an input, the same on every core (R104). -/
opaque frcp : BitVec 32 → BitVec 32
/-- Free: the result of FRSQ for an input (R104). -/
opaque frsq : BitVec 32 → BitVec 32
/-- Free: the result of FEX2 for an input (R104). -/
opaque fex2 : BitVec 32 → BitVec 32
/-- Free: the result of FLG2 for an input (R104). -/
opaque flg2 : BitVec 32 → BitVec 32
/-- Free: the result of FSIN for an input (R104). -/
opaque fsin : BitVec 32 → BitVec 32
/-- Free: the result of FCOS for an input (R104). -/
opaque fcos : BitVec 32 → BitVec 32

/-- Free: whether Tamob can translate a continuation of another revision, whose safe-point maps the machine does not hold (R344). -/
opaque translates : Nat → Bool
/-- Free: a byte of a translated continuation (R344). Arguments: the counter, the physical address. -/
opaque translated : Nat → Nat → BitVec 8

/-- Free: the length in units of 64 bytes of a section of a crew image whose size the spec does not give (R372). Arguments: the section, what
it holds. -/
opaque imageUnits {α : Type} : Nat → α → Nat

/-- Free: whether a TDI uses an IDE stream of its head, which the spec does not say (R400). Arguments: head, TDI, stream. -/
opaque tdiStream : Nat → Nat → Nat → Bool

/-- Free: a byte of a section of a crew image whose layout the spec does not give (R372). Arguments: the section, what it holds, the offset. -/
opaque imageByte {α : Type} : Nat → α → Nat → BitVec 8

/-- Free: where the revision stands in the header of a crew image, whose layout the spec does not give (R372). -/
opaque revisionAt : Nat

/-- Free: a field of the header of a firmware image, whose offsets the spec does not give (R404): 0 the magic, 1 the kind, 2 and 3 the
revision of the ISA (R1), 4 the body length, 5 the security version, 6 and 7 the offsets of the two signatures. Arguments: the field, the 256
bytes of the header. -/
opaque imageField : Nat → List (BitVec 8) → Nat
/-- Free: the digest of the body in the header of a firmware image, whose offset the spec does not give (R404). -/
opaque imageDigest : List (BitVec 8) → List (BitVec 8)
/-- Free: SHA-384, which the spec names and does not define (R400, R404). -/
opaque sha384 : List (BitVec 8) → List (BitVec 8)
/-- Free: the initial SYS_ROUTE and the operating point in millivolts of a configuration image, whose layout the spec does not give (R405).
Argument: its body. -/
opaque configRoute : List (BitVec 8) → BitVec 26
/-- The operating point. -/
opaque configPoint : List (BitVec 8) → Nat

/-- Free: the digest of the boot ROM (R405). -/
opaque romDigest : List (BitVec 8)
/-- Free: the certificates of the Skovrin root, of the model and of the part's DeviceID key (R406). -/
opaque rootCert : List (BitVec 8)
/-- The model's. -/
opaque modelCert : List (BitVec 8)
/-- That of the DeviceID key, which the unclonable function yields. -/
opaque deviceCert : List (BitVec 8)
/-- Free: the Alias key of a part for its measurements (R406). -/
opaque aliasKey {α : Type} : α → List (BitVec 8)
/-- Free: the certificate that the DeviceID key issues for an Alias key (R406). -/
opaque aliasCert : List (BitVec 8) → List (BitVec 8)
/-- Free: the signature of a nonce with a key (R400). -/
opaque sign : List (BitVec 8) → Nat → List (BitVec 8)

end Sys2Proof.Config
end

