-- ==== Sys2Proof/Syntax.lean ====
section
/-! DEFINITION. The steps of the machine: one constructor of Instr per row of spec/opcode_table.json. The first 183
are the instruction words (R66 to R80), decoded into operand types; the other 103 are the events of engines, homes,
links, hosts and firmware, which have no word and carry what tells one occurrence from another. -/

namespace Sys2Proof

/-- Guard of a word (R69): every lane, or the lanes where P at a depth 0 to 6 is false or true. -/
inductive Guard where
  | all
  | unlessP (depth : Fin 7)
  | ifP (depth : Fin 7)
deriving DecidableEq, Repr

/-- Integer constant selectors 0x70 to 0x77 (R70), by their place in the row. F32 constants 0x78 to 0x7E likewise. -/
inductive Sel where
  | v (n : Fin 64)
  | g (n : Fin 32)
  | latch (k : Fin 4)
  | vx (x : Fin 4)
  | q (n : Fin 4)
  | int (k : Fin 8)
  | flt (k : Fin 7)
  | imm
deriving DecidableEq, Repr

/-- Compare conditions (R79). -/
inductive Cond where
  | eq | ne | lt | le | gt | ge | ord | uno | ueq | ult | ule | ugt | uge
deriving DecidableEq, Repr

/-- Push modes (R79, R111). -/
inductive PushMode where
  | push | repl | and | or | pushn
deriving DecidableEq, Repr

/-- Access sizes of format M (R67, R159). -/
inductive Size where
  | s8 | z8 | s16 | z16 | w32 | w64 | w128
deriving DecidableEq, Repr

/-- Atomic functions (R79, R169). -/
inductive AtomFn where
  | add | sub | mins | maxs | minz | maxz | and | or | xor | xchg | cas | fadd | incw | add64 | cas64
deriving DecidableEq, Repr

/-- Memory orders (R74). -/
inductive Order where
  | relaxed | acq | rel | ar
deriving DecidableEq, Repr

/-- Scopes (R196). -/
inductive Scope where
  | core | cluster | die | package | system
deriving DecidableEq, Repr

/-- Cache policies (R162). -/
inductive CachePolicy where
  | normal | nt | wc | keep
deriving DecidableEq, Repr

/-- Guard, NW and D of formats A and I (R67). -/
structure LaneHdr where
  g : Guard
  nw : Bool
  d : Fin 64
deriving DecidableEq, Repr

/-- Guard, condition and push mode of format C (R67). -/
structure CmpHdr where
  g : Guard
  cc : Cond
  pm : PushMode
deriving DecidableEq, Repr

/-- Guard, token, data register and address base of format M (R67). -/
structure MemHdr where
  g : Guard
  k : Fin 16
  d : Fin 64
  ab : Sel
deriving DecidableEq, Repr

/-- Token, operand and G register of an unguarded format E word (R67). -/
structure EngHdr where
  k : Fin 16
  a : Sel
  c : Fin 32
deriving DecidableEq, Repr

/-- Guard, token, operand and register of a guarded format E word (R67, R321). -/
structure GEngHdr where
  g : Guard
  k : Fin 16
  a : Sel
  b : Fin 32
deriving DecidableEq, Repr

/-- Guard, operand and register of an immediate EFFECT or SPAWN word, whose K is 0 (R321). -/
structure EffHdr where
  g : Guard
  a : Sel
  b : Fin 32
deriving DecidableEq, Repr

/-- What an uncorrectable error strikes (R408, R409): HBM or an L2 (device), host memory, an agent's L1 or write-combining buffer at a line, a
saddlebag at a device address, the staged bytes of a copy of a crew, a scratchpad, the registers of a fibre or of a crew, or a plane. -/
inductive PoisonSite where
  | device (addr len : Nat)
  | l2 (addr len : Nat)
  | l1 (agent addr len : Nat)
  | saddlebag (core addr len : Nat)
  | staging (crew op off len : Nat)
  | hostMem (addr len : Nat)
  | scratch (cluster addr len : Nat)
  | fibre (crew fid : Nat)
  | uniform (crew : Nat)
  | plane (cluster pair : Nat) (shadow : Bool)
deriving DecidableEq, Repr

/-- The host's answer to a Page Request (R183). -/
inductive PageReply where
  | success | invalid | failure
deriving DecidableEq, Repr

/-- A unit that power gating turns off (R168). -/
inductive GateUnit where
  | scratchBank (cluster bank : Nat)
  | l1Way (core way : Nat)
  | l2Way (die way : Nat)
deriving DecidableEq, Repr

/-- What a transport frame is or carries (R217, R307): a frame whose check fails, an acknowledgement or a negative one alone, a frame whose
message is another event's, or an access of an agent of a peer chip to global memory: a merge, a read, an atomic, and TAKE, GIVE and
EXACT of an allowance counter (R193). chip and unit name the agent, ord is the order of the access, at SYSTEM scope where it has one, and
chips the chip set of its gang (R196); bad holds the offsets of the bytes of a merge that carry a poison mark (R409). -/
inductive LinkBody where
  | bad
  | ack
  | nack
  | data
  | write (chip unit pa : Nat) (bytes : List Byte) (bad : List Nat) (ord : Order) (chips : List Nat)
  | read (chip unit pa n : Nat) (ord : Order) (chips : List Nat)
  | atomic (chip unit pa : Nat) (af : AtomFn) (v c : Nat) (ord : Order) (chips : List Nat)
  | take (chip pa n : Nat)
  | give (chip pa n : Nat)
  | exact (chip pa : Nat)
deriving DecidableEq, Repr

/-- The units of a matrix engine (R261). -/
inductive MatrixUnit where
  | array | loader | control
deriving DecidableEq, Repr

/-- The identity of a message (R287): source and destination gang chip numbers, endpoint and tag, within a gang. -/
structure MsgId where
  gang : Nat
  src : Nat
  dst : Nat
  ep : Nat
  tag : Nat
deriving DecidableEq, Repr

/-- A range granted to a message (R297). -/
structure GrantRange where
  off : Nat
  size : Nat
  epoch : Nat
deriving DecidableEq, Repr

/-- The messages of the start of a multi-chip gang (R364): the accepting chip asks this one for a proposal, with its packet or node, the launch
block, the chip set, its queue and the PASID; a chip answers; or the accepting chip names the agreed tick. -/
inductive TickMsg where
  | ask (chip queue pasid : Nat) (packet block : List Byte) (chips : List Nat)
  | propose (chip tick : Nat)
  | agreed (tick : Nat)
deriving DecidableEq, Repr

/-- SPDM requests (R400, R405 to R407): those served below READY, a challenge with its nonce, the opening of a session that may bind a TDI,
the set-up of the keys of an IDE stream by IDE_KM within a session, and the others. -/
inductive SpdmKind where
  | version | capabilities | algorithms | digests | certificate | challenge (nonce : Nat) | measurements
  | openSession (session : Nat) (tdi : Option Nat) | keySetup (session stream : Nat) | other
deriving DecidableEq, Repr

/-- TDISP requests (R401). -/
inductive TdispKind where
  | lock | start | stop
deriving DecidableEq, Repr

/-- The three occupancy counters of a phase (R373). -/
inductive OccKind where
  | busy | idle | parked
deriving DecidableEq, Repr

/-- A read of an occupancy counter: the head that reads, and the counter (R373, R407). -/
structure OccRead where
  head : Fin 2
  kind : OccKind
deriving DecidableEq, Repr

/-- What a write of XL_FLUSH says beside its PASID (R181): the head that writes, and ALL. -/
structure FlushWrite where
  head : Fin 2
  all : Bool
deriving DecidableEq, Repr

/-- What a head does at a register of the management space (R389). -/
inductive RegAct where
  | write (val : Word64)
  | read
deriving DecidableEq, Repr

/-- What a host does at an address (R194, R214 to R216): it writes, or reads n bytes, or from then on aborts, or no longer aborts, accesses to
n bytes of its memory; or it masks an interrupt vector (R374). -/
inductive HostAct where
  | write (bytes : List Byte)
  | read (n : Nat)
  | abort (n : Nat) (on : Bool)
  | mask (vector : Nat)
deriving DecidableEq, Repr

/-- How a stage of bring-up ends (R404, R407): it is done, it fails, or the check of the images rejects one, with cause 0xB9 or 0xBA. -/
inductive StageEnd where
  | done
  | failed
  | badSignature
  | badFormat
deriving DecidableEq, Repr

/-- One step of the machine: a row of the opcode table. -/
inductive Instr where
  -- lane integer (R98 to R100)
  | iadd (h : LaneHdr) (a b : Sel)
  | isub (h : LaneHdr) (a b : Sel)
  | imul (h : LaneHdr) (a b : Sel)
  | imulhs (h : LaneHdr) (a b : Sel)
  | imulhz (h : LaneHdr) (a b : Sel)
  | imad (h : LaneHdr) (a b : Sel)
  | imins (h : LaneHdr) (a b : Sel)
  | imaxs (h : LaneHdr) (a b : Sel)
  | iminz (h : LaneHdr) (a b : Sel)
  | imaxz (h : LaneHdr) (a b : Sel)
  | iabs (h : LaneHdr) (a : Sel)
  | andL (h : LaneHdr) (a b : Sel)
  | orL (h : LaneHdr) (a b : Sel)
  | xorL (h : LaneHdr) (a b : Sel)
  | andn (h : LaneHdr) (a b : Sel)
  | shl (h : LaneHdr) (a b : Sel)
  | shr (h : LaneHdr) (a b : Sel)
  | sar (h : LaneHdr) (a b : Sel)
  | rol (h : LaneHdr) (a b : Sel)
  | bfxz (h : LaneHdr) (a b : Sel)
  | bfxs (h : LaneHdr) (a b : Sel)
  | bfi (h : LaneHdr) (a b : Sel)
  | popc (h : LaneHdr) (a : Sel)
  | clz (h : LaneHdr) (a : Sel)
  | brev (h : LaneHdr) (a : Sel)
  | sel (h : LaneHdr) (a b : Sel)
  | mov (h : LaneHdr) (a : Sel)
  | iaddi (h : LaneHdr) (a : Sel) (imm : BitVec 7)
  | shli (h : LaneHdr) (a : Sel) (imm : BitVec 7)
  | shri (h : LaneHdr) (a : Sel) (imm : BitVec 7)
  | sari (h : LaneHdr) (a : Sel) (imm : BitVec 7)
  -- lane f32 (R101 to R104)
  | fadd (h : LaneHdr) (a b : Sel)
  | fsub (h : LaneHdr) (a b : Sel)
  | fmul (h : LaneHdr) (a b : Sel)
  | ffma (h : LaneHdr) (a b : Sel)
  | fmin (h : LaneHdr) (a b : Sel)
  | fmax (h : LaneHdr) (a b : Sel)
  | fabs (h : LaneHdr) (a : Sel)
  | fneg (h : LaneHdr) (a : Sel)
  | frcp (h : LaneHdr) (a : Sel)
  | frsq (h : LaneHdr) (a : Sel)
  | fsqrt (h : LaneHdr) (a : Sel)
  | fdiv (h : LaneHdr) (a b : Sel)
  | fex2 (h : LaneHdr) (a : Sel)
  | flg2 (h : LaneHdr) (a : Sel)
  | fsin (h : LaneHdr) (a : Sel)
  | fcos (h : LaneHdr) (a : Sel)
  | frnd (h : LaneHdr) (a : Sel)
  | fcpys (h : LaneHdr) (a b : Sel)
  -- packed 16-bit (R105)
  | hadd2 (h : LaneHdr) (a b : Sel)
  | hmul2 (h : LaneHdr) (a b : Sel)
  | hfma2 (h : LaneHdr) (a b : Sel)
  | hmin2 (h : LaneHdr) (a b : Sel)
  | hmax2 (h : LaneHdr) (a b : Sel)
  | badd2 (h : LaneHdr) (a b : Sel)
  | bmul2 (h : LaneHdr) (a b : Sel)
  | bfma2 (h : LaneHdr) (a b : Sel)
  | bmin2 (h : LaneHdr) (a b : Sel)
  | bmax2 (h : LaneHdr) (a b : Sel)
  -- conversions and byte movement (R106 to R109, R68)
  | cvt (h : LaneHdr) (a : Sel) (code : Fin 26)
  | cvtFswap (h : LaneHdr) (a : Sel)
  | pack (h : LaneHdr) (a b : Sel)
  | prm (h : LaneHdr) (a b : Sel)
  | movi (h : LaneHdr) (imm : BitVec 14)
  -- compares and the predicate stack (R110 to R113)
  | icmps (h : CmpHdr) (a b : Sel)
  | icmpz (h : CmpHdr) (a b : Sel)
  | fcmp (h : CmpHdr) (a b : Sel)
  | itst (h : CmpHdr) (a b : Sel)
  | pdup (g : Guard)
  | pdrop (g : Guard)
  | pnot (g : Guard)
  | pand (g : Guard)
  | por (g : Guard)
  | pxor (g : Guard)
  | pswap (g : Guard)
  | pset0 (g : Guard)
  | pset1 (g : Guard)
  -- lane exchange (R114 to R117)
  | xchgIdx (g : Guard) (d : Fin 64) (a : Sel)
  | xchgUp (g : Guard) (d : Fin 64) (a : Sel) (k : Fin 32)
  | xchgDown (g : Guard) (d : Fin 64) (a : Sel) (k : Fin 32)
  | xchgBfly (g : Guard) (d : Fin 64) (a : Sel) (k : Fin 32)
  | voteAll (g : Guard) (d : Fin 32) (depth : BitVec 7)
  | voteAny (g : Guard) (d : Fin 32) (depth : BitVec 7)
  | voteEq (g : Guard) (d : Fin 32) (a : Sel)
  | voteBal (g : Guard) (d : Fin 32) (depth : BitVec 7)
  | rfl (h : LaneHdr) (a : Sel)
  -- index registers and special registers (R118 to R121)
  | xdef (g : Guard) (x : Fin 4) (base : Fin 64) (b : Sel)
  | xset (g : Guard) (x : Fin 4) (a : Sel)
  | xadd (g : Guard) (x : Fin 4) (a : Sel)
  | sread (h : LaneHdr) (reg : Fin 19)
  -- uniform datapath (R124 to R127)
  | uadd (d : Fin 32) (a b : Sel)
  | usub (d : Fin 32) (a b : Sel)
  | umul (d : Fin 32) (a b : Sel)
  | umad (d : Fin 32) (a b : Sel)
  | uand (d : Fin 32) (a b : Sel)
  | uor (d : Fin 32) (a b : Sel)
  | uxor (d : Fin 32) (a b : Sel)
  | ushl (d : Fin 32) (a b : Sel)
  | ushr (d : Fin 32) (a b : Sel)
  | usar (d : Fin 32) (a b : Sel)
  | umov (d : Fin 32) (a : Sel)
  | uaddi (d : Fin 32) (a : Sel) (imm : BitVec 7)
  | ucmps (cc : Cond) (pm : PushMode) (a b : Sel)
  | ucmpz (cc : Cond) (pm : PushMode) (a b : Sel)
  | usel (d : Fin 32) (a b : Sel)
  | uld (d : Fin 32) (a b : Sel)
  -- control flow (R129 to R131, R34, R37)
  | bra (g : Guard) (disp : BitVec 21)
  | brx (g : Guard) (a : Sel)
  | call (g : Guard) (disp : BitVec 21)
  | callx (g : Guard) (a : Sel)
  | ret (g : Guard)
  | exit (g : Guard)
  | split (g : Guard) (j : Fin 8)
  | join (g : Guard) (j : Fin 8)
  -- waiting (R135 to R150)
  | wait (g : Guard) (k : Fin 16) (t : Fin 64)
  | waitmem (g : Guard) (d : Fin 64) (ab : Sel) (wide : Bool)
  | bari (g : Guard) (n : Fin 16) (a : Sel)
  | bara (g : Guard) (n : Fin 16)
  | barw (g : Guard) (n : Fin 16)
  | barrd (g : Guard) (n : Fin 16) (d : Fin 32)
  | qput (g : Guard) (q : Fin 4) (a : Sel)
  | tkrd (h : LaneHdr) (k : Fin 16)
  | nop
  -- memory (R158 to R174)
  | ldg (h : MemHdr) (sz : Size)
  | stg (h : MemHdr) (sz : Size)
  | ldx (h : MemHdr) (sz : Size)
  | stx (h : MemHdr) (sz : Size)
  | ldf (h : MemHdr) (sz : Size)
  | stf (h : MemHdr) (sz : Size)
  | ldc (h : MemHdr) (sz : Size)
  | atom (h : MemHdr) (af : AtomFn)
  | atomn (h : MemHdr) (af : AtomFn)
  | fence (g : Guard) (o : Order) (sc : Scope)
  | ifence (g : Guard) (sc : Scope)
  | allowInit (h : MemHdr)
  | allowTake (h : MemHdr)
  | allowGive (h : MemHdr)
  | allowExact (h : MemHdr)
  | allowProbe (h : MemHdr)
  | cachePref (h : MemHdr)
  | cacheClean (h : MemHdr)
  | cacheDiscard (h : MemHdr)
  | cacheIcinv (h : MemHdr)
  -- copy engine (R242 to R250)
  | xload (h : EngHdr)
  | xstore (h : EngHdr)
  | xmove (h : EngHdr)
  | xgather (h : GEngHdr)
  | xfill (h : EngHdr)
  | xpub (k : Fin 16) (c : Fin 32)
  -- matrix engine (R262 to R276)
  | mclaim (k : Fin 16)
  | mrel (k : Fin 16)
  | mldw (h : EngHdr)
  | mswap (k : Fin 16)
  | mstream (h : EngHdr)
  | mzero (h : EngHdr)
  | mstore (h : EngHdr)
  | mstat (k : Fin 16) (c : Fin 32)
  -- bulk transfer (R288 to R306)
  | bxsend (h : EngHdr)
  | bxrecv (h : EngHdr)
  | bxcancel (h : EngHdr)
  | bxstat (h : EngHdr)
  -- frame engine (R321 to R345)
  | hinst (h : EffHdr)
  | hpop (g : Guard)
  | perform (h : EffHdr)
  | resume (h : EffHdr)
  | drop (g : Guard) (k : Fin 16) (a : Sel)
  | kstat (h : GEngHdr)
  | kpack (h : GEngHdr)
  | kunpack (h : GEngHdr)
  | spawn (h : EffHdr)
  -- system (R396, R397)
  | segw (a : Sel) (c : Fin 32)
  | segr (a : Sel) (c : Fin 32)
  | csrr (a : Sel) (c : Fin 32)
  | csrw (a : Sel) (c : Fin 32)
  | eret (c : Fin 32)
  | trap (a : Sel)
  | intr (a : Sel)
  | halt
  -- hints (R73 to R77)
  | hintImm (imm : BitVec 22)
  | hintImmx (imm : BitVec 10)
  | hintMod (hi : BitVec 6) (emod : BitVec 4) (strict : Bool) (cp : BitVec 2) (scope ord : BitVec 3) (sat : Bool) (rm : BitVec 2)
  | hintSched (long : Bool) (pv : Bool) (phase : BitVec 4)
  | hintDly (n : BitVec 5)
  -- completions, errors and homes (R133, R19, R409, R209, R170, R203, R201)
  | completion (op : Nat)
  | transientFault (op : Nat)
  | uncorrectableError (site : PoisonSite)
  | mergeAtHome (agent line : Nat)
  | atomicAtHome (op : Nat)
  | drainRequest (agent : Nat)
  | cleanByteExpiry (agent : Nat)
  -- translation (R180 to R183)
  | leaseExpiry
  | walkDone (op : Nat)
  | pageRequestResponse (req : Nat) (reply : PageReply)
  | pageRequestTimeout (req : Nat)
  | xlFlush (w : FlushWrite) (pasid : Nat)
  | flushDone
  -- power gating (R168)
  | powerGate (u : GateUnit)
  | unitWake (u : GateUnit)
  -- allowance counters (R189 to R193)
  | allowHomeRequest (op : Nat)
  | slotReturn (core addr : Nat)
  | joinNotice (op : Nat)
  -- hosts (R214, R215)
  | hostSnoop (line : Nat)
  | ownershipResponse (line : Nat) (granted : Bool)
  | backInvalidateDone (line : Nat)
  | hostWrite (head : Fin 2) (addr : Nat) (act : HostAct) (order : Bool)
  -- scheduling and engines (R46, R251, R259, R261)
  | schedulingRound (die : Nat)
  | copyStart (crew : Nat)
  | claimGrant (cluster : Nat)
  | matrixOpStart (cluster : Nat) (u : MatrixUnit)
  -- bulk transfer (R291 to R308)
  | bulkRequest (id : MsgId) (len pri : Nat) (port : Nat) (bytes : List Byte)
  | requestRetry (send : Nat)
  | grantIssue (port : Nat)
  | grantArrival (send : Nat) (r : GrantRange)
  | bulkData (id : MsgId) (off epoch : Nat) (bytes : List Byte)
  | grantExpiry (msg grant : Nat)
  | pause (id : MsgId)
  | bulkResume (id : MsgId) (off : Nat)
  | doneNotice (send : Nat)
  | truncatedNotice (send : Nat)
  | orphanedNotice (send : Nat)
  | cancelledNotice (id : MsgId) (toSender : Bool)
  | peerFaultNotice (id : MsgId) (toSender : Bool)
  | sourcePathLoss (msg : Nat)
  | sendUnreachable (send : Nat)
  | linkFrame (port seq ack : Nat) (body : LinkBody)
  | ackTimeout (port : Nat)
  | linkUpRetry (port : Nat)
  | linkUp (port maj min lowMaj rtt : Nat)
  -- command engine: queues and packets (R353 to R360)
  | notify (head : Fin 2) (q wptr : Nat)
  | slotRead (q : Nat)
  | packetStart (q idx : Nat)
  | nopPacket (q idx : Nat)
  | launch (q idx : Nat)
  | graph (q idx : Nat)
  | barrierPacket (q idx : Nat)
  | signalPacket (q idx : Nat)
  | packetComplete (q idx : Nat)
  -- gangs (R364, R365)
  | tickProposal (gang : Nat) (m : TickMsg)
  | startTick (gang : Nat)
  | chipsetTimeout (gang : Nat)
  | crewPlacement (gang pipe die x0 y0 : Nat)
  -- command graphs (R366 to R369)
  | kernelNode (graph node : Nat)
  | condNode (graph node : Nat)
  | signalNode (graph node : Nat)
  | xferNode (graph node : Nat)
  | noteNode (graph node : Nat)
  | nodeComplete (graph node : Nat)
  -- pre-emption (R370, R371)
  | preemptDecision (crew : Nat)
  | drainTimeout (crew : Nat)
  | saveComplete (crew : Nat)
  | restore (crew die x0 y0 : Nat)
  -- occupancy, interrupts and heads (R373 to R376)
  | occRead (core phase : Nat) (k : OccRead)
  | vectorTimer (v : Nat)
  | vectorUnmask (v : Nat)
  | heartbeat (head : Fin 2)
  | heartbeatTimeout (head : Fin 2)
  | headLinkDown (head : Fin 2)
  | ceAdopt (head : Fin 2) (epoch : Nat)
  -- mailbox functions (R393, R414)
  | version (head : Fin 2)
  | queueCreate (head : Fin 2)
  | queueDisable (head : Fin 2)
  | pasidRegister (head : Fin 2)
  | codeLoad (head : Fin 2)
  | imageStage (head : Fin 2) (signed : Bool)
  | evring (head : Fin 2)
  | tdiDefine (head : Fin 2)
  | dbgHalt (head : Fin 2)
  | dbgRead (head : Fin 2)
  | dbgResume (head : Fin 2)
  | registerWrite (head : Fin 2) (off : Nat) (act : RegAct)
  -- service, security, bring-up (R398 to R407)
  | reportAnswerTimeout (n : Nat)
  | spdmRequest (head : Fin 2) (k : SpdmKind)
  | tdiStop (head : Fin 2) (tdi : Nat)
  | sessionExpiry (head : Fin 2) (session : Nat)
  | ideIntegrityFailure (head : Fin 2) (stream : Nat)
  | reset
  | bringupStageDone (e : StageEnd)
  -- power, RAS and time (R408 to R411, R373)
  | powerLimit (millivolts : Nat)
  | thermalThrottle
  | thermalTrip
  | patrolScrub (stack : Nat)
  | serviceCoreFailure (core : Nat)
  | cycle (ticks : Nat)
  | tdispRequest (head : Fin 2) (tdi : Nat) (k : TdispKind)
  | hostUnreachableTimeout
  | gangTermination (gang chip : Nat) (ended : Bool)
deriving DecidableEq, Repr

end Sys2Proof
end

