-- ==== Sys2Proof/Machine/State.lean ====
section
/-! DEFINITION. The state of the machine as plain data: everything the spec gives the package, and the model's own fields
(agenda, cur, free). Maps are lists of (key, value) pairs in rising key order; an absent key reads as the field's reset value.
Register contents are bit vectors; addresses, counts and identifiers are Nat. -/

namespace Sys2Proof.Machine

/-- A map from numbers, in rising key order. -/
abbrev KMap (α : Type) := List (Nat × α)

/-- A memory: (address, byte) pairs, addresses strictly rising, no byte equal to 0, which an unlisted address reads as. -/
abbrev Mem := List Host.Cell

/-! ## Ordering records (R195 to R211) -/

/-- Whom an entry of a release record names (R202, R203, R206): one agent, every core of some dies, or of a cluster. -/
inductive RelWho where
  | agent (a : Nat)
  | dies (ds : List Nat)
  | cluster (c : Nat)
deriving DecidableEq, Repr

/-- An entry of a release record or an observed set (R202, R203, R206). -/
structure RelEntry where
  who : RelWho
  scope : Scope
deriving DecidableEq, Repr

/-- A release that a written value carries (R197): the releasing core, the number of the release among its agent's, its scope, and the chip
set of the releaser's gang, which its SYSTEM instance takes in (R196). -/
structure RelTag where
  core : Nat
  num : Nat
  scope : Scope
  chips : List Nat := []
deriving DecidableEq, Repr

/-- A byte held in an L1 (R201, R207): its value, whether it is dirty, the releases its agent had performed before its
latest write, the releases the value carries, the tick at which it was fetched, and its poison mark, which travels with it (R409). -/
structure L1Byte where
  val : Byte
  dirty : Bool
  cnt : Nat
  tags : List RelTag
  tick : Nat
  poison : Bool := false
deriving DecidableEq, Repr

/-- A line of an L1 or of a write-combining buffer (R201): bytes by offset, the writer crew of the dirty bytes, the release
record copied at the fill, and the virtual address the line was written under. -/
structure L1Line where
  bytes : KMap L1Byte
  writer : Option Nat
  rel : List RelEntry
  va : Nat
deriving DecidableEq, Repr

/-- An agent's caches: L1 and write-combining lines by line number, the number of releases performed (R207), and the latest of them that an
acquire of another agent has synchronised with (R208). -/
structure Agent where
  l1 : KMap L1Line := []
  wc : KMap L1Line := []
  releases : Nat := 0
  synced : Nat := 0
deriving DecidableEq, Repr

/-- An open entry of a write record (R208): the agent, plain or atomic, and for each byte offset the release count that it
carries. -/
structure OpenEntry where
  agent : Nat
  atomic : Bool
  bytes : KMap Nat
deriving DecidableEq, Repr

/-- What a home keeps for a line (R202, R208, R214, R215): release record, open entries, crowded flag; for a host line, whether it is owned,
refusals in a row, whether a request for ownership is outstanding, whether ownership is kept for a change not applied yet, and whether the
host's snoop waits for that; for a device line, whether a host may cache it and has been sent a snoop for it; and the tick of the latest
merge, for the replacement of proxy records. -/
structure HomeLine where
  rel : List RelEntry := []
  opens : List OpenEntry := []
  crowded : Bool := false
  owned : Bool := false
  refusals : Nat := 0
  asked : Bool := false
  keep : Bool := false
  snoopDue : Bool := false
  shared : Bool := false
  snooped : Bool := false
  last : Nat := 0
deriving DecidableEq, Repr

/-- A race-log entry (R210). -/
structure RaceEntry where
  va : Nat
  mask : Nat
  other : Nat
  cause : Cause
deriving DecidableEq, Repr

/-! ## Translation (R175 to R185) -/

/-- A cached leaf (R176, R179, R180). -/
structure TlbEntry where
  pasid : Nat
  vpage : Nat
  level : Nat
  ppn : Nat
  r : Bool
  w : Bool
  x : Bool
  d : Bool
  cacheable : Bool
  lease : Nat
deriving DecidableEq, Repr

/-- A registered PASID (R414). -/
structure Pasid where
  root : Nat
  levels : Nat
  enabled : Bool
  fbase : Nat
  fsize : Nat
  head : Nat
deriving DecidableEq, Repr

/-- Who waits for a Page Request (R183, R319, R252, R304, R356): for a crew that starts or is restored, with the cause of its
termination at a denial (R127, R319); for a node, with the cause with which it fails at a denial (R367 to R369), or none for a page of
its graph object, whose denial puts the queue in ERROR (R356); and for the DONE bit of a replay entry of a record (R335, R336). -/
inductive PageWaiter where
  | fibre (crew fid : Nat)
  | op (id : Nat)
  | held (crew id : Nat)
  | queue (q : Nat)
  | packet (q idx : Nat)
  | node (graph node : Nat) (fail : Option Cause)
  | crew (id : Nat) (c : Cause)
  | entry (rec entry : Nat)
deriving DecidableEq, Repr

/-- An outstanding Page Request (R183). -/
structure PageReq where
  pasid : Nat
  page : Nat
  write : Bool
  sent : Nat
  waiters : List PageWaiter
deriving DecidableEq, Repr

/-! ## Fibres (R38, R45, R81 to R86, R107, R138) -/

/-- A write whose latency window may be open (R82), or a token result before its WAIT (R137). due is the own-stream position from which
its value is seen; for a G register dues holds that position for each writing fibre, and due is the cycle from which other groups see it.
tok is the token whose WAIT closes it, fids the fibres that may make that WAIT; prev is the value before it, val its own. -/
structure LatWrite (α : Type) where
  due : Nat
  dues : KMap Nat := []
  tok : Option Nat := none
  fids : List Nat := []
  prev : α
  val : α
deriving DecidableEq, Repr

/-- An index register (R38): base register number, bound and index. -/
structure XReg where
  base : Nat := 0
  bound : Nat := 0
  index : Nat := 0
deriving DecidableEq, Repr

/-- One update of FSTAT in the own stream (R107): flags set, or the whole register written by FSWAP. -/
structure FUpd where
  due : Nat
  flags : Word
  swap : Option Word
deriving DecidableEq, Repr

/-- A completion token (R38); eng holds the completions of engine operations whose global writes the next WAIT acquires
(R220), as releases of the engines' agents. -/
structure Tok where
  count : Nat := 0
  err : Bool := false
  cause : Cause := 0
  eng : List RelTag := []
deriving DecidableEq, Repr

/-- A pending mark (R138): the token it is on, or none where the first WAIT on any token clears it, whether the operation has completed,
and the own-stream position of the operation's word, or none where the token and the register alone tell the operation (R334). -/
structure Pend where
  tok : Option Nat
  done : Bool
  pos : Option Nat := none
deriving DecidableEq, Repr

/-- A pending mark of a G register (R138): the fibres of the issuing group, or none where any fibre of the crew may clear
it, the token, whether the operation has completed, and the operation. -/
structure GPend where
  fids : Option (List Nat)
  tok : Option Nat
  done : Bool
  op : Nat := 0
deriving DecidableEq, Repr

/-- Address spaces (R154). -/
inductive Space where
  | global | scratch | frame | const
deriving DecidableEq, Repr

/-- Functions of ALLOW (R188). -/
inductive AllowFn where
  | init | take | give | exact | probe
deriving DecidableEq, Repr

/-- Functions of CACHE (R174). -/
inductive CacheFn where
  | pref | clean | discard | icinv
deriving DecidableEq, Repr

/-- What a memory request does (R158 to R174, R188). -/
inductive MemFn where
  | load (sz : Size)
  | store (sz : Size)
  | atom (af : AtomFn) (result : Bool)
  | fence (o : Order)
  | ifence
  | allow (f : AllowFn)
  | cache (f : CacheFn)
deriving DecidableEq, Repr

/-- A memory request of one lane (R15, R134, R335): the word and MOD payload for replay entries, the effective address,
the registers and data of R160, order, scope, policy, the trap enables of R122, and the cause and page of a failed attempt. -/
structure MemReq where
  fn : MemFn
  space : Space
  word : Nat
  modw : Nat
  k : Nat
  d : Nat
  ea : Nat
  n : Nat
  data : List Word
  order : Order
  scope : Scope
  cp : CachePolicy
  traps : Nat
  cause : Cause
  page : Nat
  seq : Nat
  pos : Nat
deriving DecidableEq, Repr

/-- An effect (R326, R330): label, cause, payload, destination (a V register, 0x40 for V0 and V1, 0xFF for none), resume
point, whether a program performed it, for a fetch fault the page and the word that is fetched again (R184), for a fault
at WAITMEM its read (R142), whether rpc is the word at which it arises (EXIT, RESUME, a fetch), not the next one (R330),
and for REVISION the record of the foreign continuation (R344). -/
structure Eff where
  label : Nat
  cause : Cause
  payload : Word
  dst : Nat := 0xFF
  rpc : Nat
  prog : Bool := false
  fetch : Option (Nat × Nat) := none
  mon : Option (MemReq × Bool) := none
  stay : Bool := false
  cont : Option Nat := none
deriving DecidableEq, Repr

/-- Why a fibre is parked (R45); a fibre at the wait of an EXIT or RESUME stays at that word (R37, R339); effect is an effect whose
capture waits for the fibre's memory operations (R328) or for a page of its frame (R319). -/
inductive Park where
  | effect (e : Eff)
  | wait (k t : Nat) (stay : Bool)
  | waitmem (r : MemReq) (wide : Bool)
  | barw (n phase : Nat)
  | join (j : Nat)
  | held (id : Nat)
  | page (rpc : Nat) (stay : Bool)
deriving DecidableEq, Repr

/-- Where a fibre is (R45): loose since a cycle, in a formed group, in the overflow queue, or parked. -/
inductive FState where
  | loose (cycle : Nat)
  | formed (g : Nat)
  | overflow
  | parked (p : Park)
deriving DecidableEq, Repr

/-- A fibre (R38). pos is its own-stream position (R81), last the cycle of its latest issue; vwin, pwin and xwin hold the latest writes of
registers, oldest first; wrote holds the position of the latest lane write of a register (R137); merr the issue number of the oldest access
that left an error on a token (R164); seg is the address of the current segment, so that the frame pointer is seg + 32; chain names the
segments of its replay entries while its crew is saved (R372). preempted says that it performs PREEMPT at its next switch point, preemptDue
that it has come to it and is parked there (R370). -/
structure Fibre where
  v : KMap Word := []
  vwin : KMap (List (LatWrite Word)) := []
  wrote : KMap Nat := []
  p : BitVec 7 := 0
  pwin : List (LatWrite (BitVec 7)) := []
  k : KMap Tok := []
  x : KMap XReg := []
  xwin : KMap (List (LatWrite XReg)) := []
  fstat : Word := 0
  fpend : List FUpd := []
  effmask : Word64 := 0
  pc : Nat := 0
  seg : Nat := 0
  depth : Nat := 1
  tickhi : Word := 0
  pos : Nat := 0
  last : Nat := 0
  st : FState := .loose 0
  replay : List MemReq := []
  attached : List MemReq := []
  chain : List Nat := []
  merr : KMap Nat := []
  pend : KMap Pend := []
  observed : List RelEntry := []
  read : List RelTag := []
  fences : List RelTag := []
  raced : Bool := false
  preempted : Bool := false
  preemptDue : Bool := false
  poisoned : Bool := false
deriving DecidableEq, Repr

/-! ## Groups and issue (R30, R31, R40, R76, R84) -/

/-- A bypass latch (R84, R85): the group position of its producer, its latency and its value on each fibre. -/
structure Latch where
  pos : Nat
  lat : Nat
  vals : KMap Word
deriving DecidableEq, Repr

/-- The pending hint set (R76): at most one of each kind, with the address of the run's first HINT. -/
structure Hints where
  imm : Option (BitVec 22) := none
  immx : Option (BitVec 10) := none
  mod : Option (BitVec 22) := none
  sched : Option (Bool × Bool × BitVec 4) := none
  dly : Bool := false
  first : Nat := 0
deriving DecidableEq, Repr

/-- A formed group (R30, R31). fids stand in lane order; fpc and fcycle are the program counter and cycle of formation. -/
structure Group where
  fids : List Nat
  pc : Nat
  fpc : Nat
  fcycle : Nat
  last : Nat := 0
  pos : Nat := 0
  latches : List Latch := []
  hints : Hints := {}
deriving DecidableEq, Repr

/-- The MOD fields of a word (R74). -/
structure Mod where
  emod : Nat := 0
  cp : Nat := 0
  scope : Nat := 0
  ord : Nat := 0
  sat : Bool := false
  rm : Nat := 0
deriving DecidableEq, Repr

/-- The context of the executing word: crew, group and its state at issue, core, address, word, immediate, MOD fields,
strictness, whether the word has waited (R148), and the tokens that its wait was on (R37). -/
structure Issue where
  crew : Nat
  gid : Option Nat
  grp : Group
  core : Nat
  pc : Nat
  word : Nat
  imm : Option Word
  mod : Mod
  modw : Nat
  strict : Bool
  again : Bool := false
  waited : List Nat := []
deriving DecidableEq, Repr

/-- What a held word waits for. -/
inductive HoldFor where
  | tokens
  | queue
  | page
deriving DecidableEq, Repr

/-- A word that waits at its place with parked fibres, in parking order (R37, R148, R319, R328, R339, R397). -/
structure Held where
  instr : Instr
  iss : Issue
  why : HoldFor
deriving DecidableEq, Repr

/-! ## Engine operations (R15, R227 to R286, R314 to R347) -/

/-- Whose token an operation counts on (R132, R336): a fibre, or a continuation record at a device address. -/
inductive Owner where
  | fibre (crew fid k : Nat)
  | cont (rec k entry : Nat)
deriving DecidableEq, Repr

/-- A copy-engine operation (R242 to R256): claim is the staging that it holds while it runs, err the cause of a failed check. -/
structure CopyOp where
  fn : Nat
  pub : Bool
  rnd : Nat
  rsd : Option Word
  toff : Nat
  src : Nat
  rows : Nat
  acc : Bool
  pattern : Word
  lanes : List (Nat × Nat)
  record : Option (List Byte)
  lfsr : Option Word
  claim : Nat := 0
  err : Cause := 0
deriving DecidableEq, Repr

/-- A matrix operation (R262 to R276). -/
structure MatOp where
  fn : Nat
  pub : Bool
  rz : Bool
  int : Bool
  toff : Nat
  a : Nat
  atile : Nat
deriving DecidableEq, Repr

/-- A frame-engine operation that counts on a token (R340 to R343): its function, the handle, the image address, the register b,
the own-stream position of its word, whether it has taken its continuation, with the physical address of the record, and whether the
page that it waits for is one of a frame heap. -/
structure FrameOp where
  fn : Nat
  addr : Nat
  image : Nat
  b : Nat
  pos : Nat
  taken : Bool := false
  heap : Bool := false
  record : Nat := 0
deriving DecidableEq, Repr

/-- A BXCANCEL or BXSTAT (R305, R306): what it names, its token and first G register, and the values due there. -/
structure BulkQuery where
  stat : Bool
  side : Bool
  id : MsgId
  any : Bool
  k : Nat
  c : Nat
  vals : List Word := []
deriving DecidableEq, Repr

/-- What an operation in flight is. send and recv name the bulk engine's records; query is BXCANCEL or BXSTAT. -/
inductive OpKind where
  | mem (r : MemReq) (crew fid : Nat)
  | copy (c : CopyOp)
  | matrix (m : MatOp) (pair : Option Nat)
  | frame (f : FrameOp) (fid : Nat)
  | send
  | recv
  | query (q : BulkQuery)
deriving DecidableEq, Repr

/-- Stages of an operation. -/
inductive OpStage where
  | issued | running | atHome | done | logged
deriving DecidableEq, Repr

/-- A request record of an engine (R15, R19). issuer is the crew whose G registers and PASID it uses. -/
structure Op where
  kind : OpKind
  issuer : Nat
  core : Nat
  word : Nat := 0
  modw : Nat := 0
  owners : List Owner
  bar : Option Nat := none
  stage : OpStage := .issued
  replays : Nat := 0
  page : Option Nat := none
  pa : Nat := 0
  uncached : Bool := false
  lease : Nat := 0
  walked : Bool := false
deriving DecidableEq, Repr

/-- A copy whose shutter is closed (R254): its operation, staged footprint, pending arrival and size, and the offsets of staged bytes that
carry a poison mark (R409). -/
structure Shutter where
  op : Nat
  base : Nat
  bytes : List Byte
  bar : Option Nat
  poison : List Nat := []
deriving DecidableEq, Repr

/-- A matrix plane (R258): weights by k + 128 n and scale codes by 4 n + b, and its poison mark, which travels with it (R409). -/
structure Plane where
  k : Nat
  n : Nat
  int : Bool
  w : List (BitVec 16)
  ws : List Byte
  poisoned : Bool := false
deriving DecidableEq, Repr

/-- A result buffer with unopened results (R277): its binding, contents, the footprints written, and the owners of the last
operation written into it. -/
structure ResBuf where
  toff : Nat
  bytes : List Byte
  len : Nat
  owners : List Owner
  lastOp : Nat
deriving DecidableEq, Repr

/-- A claim on a matrix engine (R259, R260, R277). -/
structure Claim where
  queue : List Nat
  pair : Option Nat
  active : Option Plane
  shadow : Option Plane
  bufs : List ResBuf
  mrel : Bool
deriving DecidableEq, Repr

/-! ## Crews and gangs (R24 to R28, R39, R316, R361 to R372) -/

/-- A join register (R34): recorded fibres, and arrived fibres with the address after their JOIN. -/
structure JoinReg where
  record : List Nat := []
  arrived : List (Nat × Nat) := []
deriving DecidableEq, Repr

/-- A barrier (R143, R206); eng counts the arrivals of engines in the phase, which a save withdraws (R20, R256). -/
structure Barrier where
  expected : Nat := 0
  arrived : Nat := 0
  phase : Nat := 0
  eng : Nat := 0
  rel : List RelEntry := []
  tags : List RelTag := []
deriving DecidableEq, Repr

/-- A segment register (R155). -/
structure SegReg where
  base : Nat := 0
  limit : Nat := 0
deriving DecidableEq, Repr

/-- A completion for a fibre of a saved crew, of an operation that another crew issued and whose continuation the fibre has resumed: it waits in
the crew's image (R20, R336). -/
structure LateDone where
  fid : Nat
  k : Nat
  cause : Option Cause
  eng : List RelTag
  regs : List Nat
  pos : Nat
  vals : List Word
deriving DecidableEq, Repr

/-- The life of a crew (R371). -/
inductive Life where
  | pending | starting | running | draining | saving | saved | halting | halted | restoring | flushing | ended
  | terminated
deriving DecidableEq, Repr

/-- A crew: header, uniform state, fibres, groups and engine queues (R24 to R44, R127, R143 to R148, R155, R210, R240). A
saved crew's record is its image (R372). home is the core it stands on; gwin holds the latest writes of G registers, oldest first, gwrote
the number that the next operation was to have at the latest uniform write of a register (R137); tag is the crew tag and tags every tag that it
holds (R316); lost is the cause of a write-back of its segments that failed (R319); used holds the segments in use of its heap, records those that once held
a record, copies the copy queue in issue order. -/
structure Crew where
  gang : Nat := 0
  x : Nat := 0
  y : Nat := 0
  z : Nat := 0
  stage : Nat := 0
  n : Nat := 1
  b : Nat := 64
  tag : Nat := 0
  strict : Bool := false
  fuse : Bool := false
  idem : Bool := false
  kid : Nat := 0
  system : Bool := false
  life : Life := .pending
  home : Option Nat := none
  pasid : Nat := 0
  entry : Nat := 0
  g : KMap Word := []
  split : BitVec 32 := 0
  gwin : KMap (List (LatWrite Word)) := []
  gwrote : KMap Nat := []
  gpend : KMap GPend := []
  joins : KMap JoinReg := []
  bars : KMap Barrier := []
  queues : KMap (List Word) := []
  segScratch : SegReg := {}
  segFrame : SegReg := {}
  segConst : SegReg := {}
  window : List Byte := []
  lfsr : Word := 1
  seed : Word := 1
  phase : BitVec 4 := 0
  raceLog : List RaceEntry := []
  raceLost : Bool := false
  used : List Nat := []
  records : List Nat := []
  emergency : Bool := false
  copies : List Nat := []
  shutters : List Shutter := []
  claims : List Claim := []
  intFirst : Nat := 0
  intLen : Nat := 0
  dx : Int := 0
  dy : Int := 0
  qmask : BitVec 4 := 0
  fibres : KMap Fibre := []
  groups : KMap Group := []
  held : KMap Held := []
  created : Nat := 0
  exited : Nat := 0
  firstIssue : Option Nat := none
  savedAt : Nat := 0
  savedTicks : Nat := 0
  parkedSince : Option Nat := none
  choiceTick : Nat := 0
  deferred : List (Nat × Cause × List RelTag) := []
  withdrawn : List Nat := []
  scratchArea : SegReg := {}
  frameArea : SegReg := {}
  scratchImage : List Byte := []
  image : Bool := true
  saveTag : Option RelTag := none
  lost : Option Cause := none
  late : List LateDone := []
  tags : List Nat := []
deriving DecidableEq, Repr

/-- Where a gang comes from: a packet, a graph node, the service runtime, or the chip that has accepted it (R364). -/
inductive GangSrc where
  | packet (q idx : Nat)
  | node (graph node : Nat)
  | service
  | peer (chip : Nat)
deriving DecidableEq, Repr

/-- The launch fields of a gang (R361, R362). -/
structure Launch where
  entry : Nat := 0
  gx : Nat := 1
  gy : Nat := 1
  gz : Nat := 1
  n : Nat := 1
  s : Nat := 1
  b : Nat := 8
  fuse : Bool := false
  strict : Bool := false
  idem : Bool := false
  scratch : Nat := 0
  frame : Nat := 4194304
  nchip : Nat := 1
  tick : Nat := 0
  cset : Nat := 0
  args : KMap Word := []
  cbase : Nat := 0
  climit : Nat := 0
  seed : Word := 1
  kid : Nat := 0
  intFirst : Nat := 0
  intLen : Nat := 0
  dx : Int := 0
  dy : Int := 0
  qmask : BitVec 4 := 0
deriving DecidableEq, Repr

/-- A gang (R24, R363, R364): its 64-bit identifier, launch fields, origin, PASID, chip set, tick proposals, agreed tick,
number of crews that have ended, chips ended, the pool of segments of ended crews' heaps (R319), the releases of the cores
whose crews have ended (R359), and its place in the order of acceptance (R365). -/
structure Gang where
  ident : Nat
  launch : Launch
  src : GangSrc
  queue : Nat
  pasid : Nat
  chips : List Nat
  mine : Nat
  proposals : KMap Nat
  start : Option Nat
  asked : Nat
  crews : List Nat
  ended : Nat
  chipsEnded : List Nat
  terminated : Bool
  failed : Bool
  pool : List SegReg
  poolUsed : List Nat
  poolRecords : List Nat
  ends : List RelTag
  order : Nat := 0
deriving DecidableEq, Repr

/-! ## Cores, dies and clusters -/

/-- An allowance slot (R189): the counter's device address and units, least recently used first in the list. -/
structure Slot where
  addr : Nat
  units : Nat
deriving DecidableEq, Repr

/-- A segment in a saddlebag (R320): the virtual address, the crew that reached it last, its AGE, the bytes written since it was filled, and
the offsets of bytes that carry a poison mark (R409); its other bytes are those of its home. -/
structure SaddleSeg where
  va : Nat
  crew : Nat
  age : Nat
  bytes : KMap Byte
  poison : List Nat := []
deriving DecidableEq, Repr

/-- A core; reports holds HOME of allowance counters as their homes last reported it to the core (R193), and blocked says that a word of
its crews waits in this cycle for a host to give up a line (R214, R215). -/
structure Core where
  cycle : Nat := 0
  occ : KMap Nat := []
  issued : Bool := false
  lastCrew : Option Nat := none
  lastPhase : Nat := 0
  overflow : List (Nat × Nat) := []
  icache : KMap Word := []
  slots : List Slot := []
  tlb : List TlbEntry := []
  saddle : KMap SaddleSeg := []
  reports : KMap Nat := []
  blocked : Bool := false
deriving DecidableEq, Repr

/-- A die: die TLB and code copy store (R179, R218), a crew of the saved pipeline for which a scheduling round makes room, and the tick of
the latest round that made room (R46). -/
structure Die where
  tlb : List TlbEntry := []
  code : KMap Word := []
  promised : Option Nat := none
  rounded : Option Nat := none
deriving DecidableEq, Repr

/-- A cluster: fusion (R167) and the matrix engine's pending claims, pair owners and last served pairs (R258 to R261). -/
structure Cluster where
  fused : Bool := false
  pending : List Nat := []
  pairs : KMap Nat := []
  lastArray : Nat := 3
  lastLoader : Nat := 3
  lastControl : Nat := 3
deriving DecidableEq, Repr

/-! ## Bulk transfer (R287 to R309) -/

/-- A send record (R291, R302), under the number of its operation: issued at the tick since, requested when its request has left, refused since the
tick of a refusal, grants not served yet, and the BXCANCEL operations that wait for its end. -/
structure Send where
  crew : Nat
  id : MsgId
  addr : Nat
  len : Nat
  pri : Nat
  since : Nat := 0
  requested : Bool := false
  accepted : Bool := false
  refused : Option Nat := none
  sent : Nat := 0
  epoch : Nat := 0
  grants : List GrantRange := []
  paused : Bool := false
  cancels : List Nat := []
deriving DecidableEq, Repr

/-- The end of a receive whose record is not written yet (R294, R300): status, lengths and tag, the message whose sender is
to be told, whether it is told, and the I/O die that writes. -/
structure RecvEnd where
  status : Nat
  rlen : Nat
  mlen : Nat
  tag : Nat
  msg : Option MsgId
  tell : Bool
  io : Nat
deriving DecidableEq, Repr

/-- A posted receive (R293), under the number of its operation. -/
structure Recv where
  crew : Nat
  ep : Nat
  addr : Nat
  len : Nat
  tag : Nat
  any : Bool
  record : Nat
  bound : Option Nat := none
  ending : Option RecvEnd := none
deriving DecidableEq, Repr

/-- A grant outstanding (R297, R299): left holds its ranges that have not arrived. -/
structure Grant where
  off : Nat
  size : Nat
  epoch : Nat
  issued : Nat
  begun : Bool
  left : List (Nat × Nat)
deriving DecidableEq, Repr

/-- States of a message in the Wicket (R300). -/
inductive MsgState where
  | unmatched | ready | flight | paused
deriving DecidableEq, Repr

/-- A message in the Wicket (R296), under a number that rises with acceptance: u holds the ranges to be granted, missing those that have not arrived, wait bytes
that have arrived and are not written (the prefix store holds them while the message is unbound), since the later of its entry
into READY and its last grant. -/
structure Msg where
  id : MsgId
  len : Nat
  pri : Nat
  port : Nat
  pre : Nat
  recv : Option Nat
  u : List (Nat × Nat)
  missing : List (Nat × Nat)
  wait : List (Nat × List Byte)
  grants : KMap Grant := []
  ign : Nat := 0
  epoch : Nat := 0
  since : Nat
  state : MsgState
  notReady : Bool := false
deriving DecidableEq, Repr

/-- A link port (R307 to R309): unacked holds its last unacknowledged frames, by sequence number with the chip that each goes to, waiting
the chips of frames not sent yet, sentAt the tick from which the time without an acknowledgement runs, and downAt the tick since which the
port is down. -/
structure Port where
  up : Bool := false
  rtt : Nat := 0
  wgmax : Nat := 0
  wg : Nat := 0
  maj : Nat := 0
  min : Nat := 0
  sendSeq : Nat := 0
  recvSeq : Nat := 0
  unacked : List (Nat × Nat) := []
  waiting : List Nat := []
  replays : Nat := 0
  sentAt : Nat := 0
  downAt : Nat := 0
deriving DecidableEq, Repr

/-- What the package sends over its links to peer chips, the accesses of its agents to their memories and the answers to theirs among
them (R217); bad holds the offsets of bytes with a poison mark (R409). -/
inductive LinkMsg where
  | request (id : MsgId) (len pri : Nat) (bytes : List Byte)
  | data (id : MsgId) (off epoch : Nat) (bytes : List Byte)
  | grant (id : MsgId) (r : GrantRange)
  | pause (id : MsgId)
  | resume (id : MsgId) (off : Nat)
  | done (id : MsgId)
  | truncated (id : MsgId)
  | orphaned (id : MsgId)
  | cancelled (id : MsgId) (toSender : Bool)
  | peerFault (id : MsgId) (toSender : Bool)
  | refuse (id : MsgId)
  | launch (gang queue pasid : Nat) (l : Launch) (chips : List Nat)
  | tick (gang tick : Nat)
  | start (gang tick : Nat)
  | gangEnded (gang : Nat)
  | gangTerminated (gang : Nat)
  | read (unit pa n : Nat)
  | write (unit pa : Nat) (bytes : KMap Byte) (bad : List Nat)
  | value (unit pa : Nat) (bytes : List Byte) (bad : List Nat)
  | failed (unit pa : Nat) (cause : Cause)
  | raced (unit line mask other : Nat) (cause : Cause)
deriving DecidableEq, Repr

/-! ## Command engine (R353 to R376) -/

/-- States of a queue (R353). -/
inductive QState where
  | disabled | active | error | adopting
deriving DecidableEq, Repr

/-- States of a packet after acceptance (R358). -/
inductive PState where
  | accepted | waiting | running | complete | rejected | discarded
deriving DecidableEq, Repr

/-- An accepted packet (R355, R358): its 64 bytes, state, the launch that its checks have read with the chip set, its gang or graph, and
its number in the order of acceptance (R365). -/
structure Packet where
  bytes : List Byte
  state : PState
  launch : Option (Launch × List Nat) := none
  gang : Option Nat := none
  graph : Option Nat := none
  ended : Bool := false
  seq : Nat := 0
deriving DecidableEq, Repr

/-- A work queue (R353, R354, R375). -/
structure Queue where
  ring : Nat := 0
  logsz : Nat := 4
  pri : Nat := 0
  head : Nat := 0
  vermin : Nat := 0
  vermaj : Nat := 0
  pasid : Nat := 0
  vec : Nat := 0
  state : QState := .disabled
  errc : Cause := 0
  erridx : Nat := 0
  wptr : Nat := 0
  rptr : Nat := 0
  done : Nat := 0
  page : Option Nat := none
  packets : KMap Packet := []
deriving DecidableEq, Repr

/-- A running graph (R367): its packet, number of nodes, nodes running, nodes whose work has ended with its releases, COND nodes
that wait to re-arm, gangs of KERNEL nodes, whether it has stopped, and the NOTE nodes whose value a host has denied (R369). -/
structure GraphRun where
  q : Nat
  idx : Nat
  addr : Nat
  nnode : Nat
  running : List Nat := []
  done : List (Nat × List RelTag) := []
  rearm : List Nat := []
  gangs : KMap Nat := []
  stopped : Bool := false
  unread : List Nat := []
deriving DecidableEq, Repr

/-- An interrupt vector (R374). head is the head of the queue of its latest event. -/
structure Vector where
  pend : Nat := 0
  time : Nat := 0
  cnt : Nat := 1
  masked : Bool := false
  first : Nat := 0
  head : Nat := 0
deriving DecidableEq, Repr

/-! ## Hosts, service and security (R375, R387 to R411) -/

/-- A firmware mailbox (R392): payload bytes by offset from 0x100, the function that GO has started with its place in the order of arrival
at both mailboxes, and FUNC as it was last written. -/
structure Mailbox where
  busy : Bool := false
  status : Nat := 0
  func : Nat := 0
  payload : KMap Byte := []
  agreed : Bool := false
  reg : Nat := 0
  seq : Nat := 0
deriving DecidableEq, Repr

/-- A head: link, heartbeat, threshold of failure, event ring, event count, NR bit. -/
structure Head where
  linkUp : Bool := true
  hb : Nat := 0
  failed : Bool := false
  ring : Option (Nat × Nat × Nat) := none
  evw : Nat := 0
  nr : Bool := false
  mail : Mailbox := {}
deriving DecidableEq, Repr

/-- A report (R398, R399). -/
structure Report where
  tick : Nat
  gang : Nat
  queue : Nat
  cause : Cause
  cls : Nat
  fibre : Nat
  pc : Nat
  head : Nat
deriving DecidableEq, Repr

/-- An entry of the service cores' race report (R211): the report, and the race-log entry that it copies, where there is one. -/
structure RaceNote where
  report : Report
  entry : Option RaceEntry
deriving DecidableEq, Repr

/-- States of a TDI (R401). -/
inductive TdiState where
  | unlocked | locked | run | error
deriving DecidableEq, Repr

/-- A TDI (R401): its queues, PASIDs, state, binding session and stream. -/
structure Tdi where
  queues : List Nat
  pasids : List Nat
  state : TdiState
  session : Option Nat
deriving DecidableEq, Repr

/-- A firmware or configuration image (R404, R405): its kind, security version and the digest of its body, and what a configuration image sets:
the initial SYS_ROUTE and the operating point. -/
structure Image where
  kind : Nat
  svn : Nat
  digest : List Byte
  route : BitVec 26
  point : Nat
deriving DecidableEq, Repr

/-- An SPDM measurement block (R405): its index, the security version measured, and the digest. -/
structure Measure where
  index : Nat
  svn : Nat
  digest : List Byte
deriving DecidableEq, Repr

/-- An answer to an SPDM request (R400, R405 to R407): the version, the sessions and streams that a head holds, the algorithms, the digest of
the chain in slot 0, the chain, a signed challenge, the measurement blocks, a session opened, the keys of a stream set up, an answer to
another request, ResponseNotReady, or an error. -/
inductive SpdmAnswer where
  | version (maj min : Nat)
  | capabilities (sessions streams : Nat)
  | algorithms
  | digests (chain : List Byte)
  | certificate (chain : List (List Byte))
  | challenge (sig : List Byte)
  | measurements (blocks : List Measure)
  | session (id : Nat)
  | keySetup (stream : Nat)
  | other
  | notReady
  | refused
deriving DecidableEq, Repr

/-- What leaves the package toward a host: an MSI-X message, a Page Request, a back-invalidate snoop, a request for the ownership of a host
line, a register's value, a response to an SPDM, IDE or TDISP request. -/
inductive HostOut where
  | msix (head vector : Nat)
  | pageRequest (head pasid page : Nat) (write : Bool)
  | backInvalidate (line : Nat)
  | ownRequest (line : Nat)
  | value (head off val : Nat)
  | spdm (head : Nat) (a : SpdmAnswer)
  | tdisp (head tdi : Nat) (ok : Bool)
deriving DecidableEq, Repr

/-- The whole state of the package, with the model's own fields first (log entries 1, 2 and 5). -/
structure State where
  agenda : List Instr := []
  cur : Option Issue := none
  free : Nat := 0
  nextId : Nat := 1
  tick : Nat := 0
  stage : Nat := 0
  thr : Nat := 0
  route : BitVec 26 := 0x3FFFFFF
  xlLease : Nat := 16
  xlHorizon : Nat := 0
  flushBusy : Bool := false
  flushAll : Bool := false
  flushPasid : Nat := 0
  flushOps : List Nat := []
  dev : Mem := []
  host : Mem := []
  scratch : Mem := []
  poisonDev : List Nat := []
  poisonScratch : List Nat := []
  hostAbort : List Nat := []
  gated : List GateUnit := []
  agents : KMap Agent := []
  homes : KMap HomeLine := []
  tags : KMap (List RelTag) := []
  holders : KMap (List Nat) := []
  cores : KMap Core := []
  dies : KMap Die := []
  clusters : KMap Cluster := []
  crews : KMap Crew := []
  gangs : KMap Gang := []
  tagCounter : Nat := 0
  accepts : Nat := 0
  mails : Nat := 0
  launches : Nat := 0
  sysId : Nat := 0
  ops : KMap Op := []
  pages : KMap PageReq := []
  pasids : KMap Pasid := []
  prefixUnits : Nat := 4
  bxGrants : BitVec 32 := 0
  bxExpired : BitVec 16 := 0
  bxOrphaned : BitVec 16 := 0
  sends : KMap Send := []
  recvs : KMap Recv := []
  msgs : KMap Msg := []
  ports : KMap Port := []
  routes : KMap (List Nat) := []
  linkOut : List (Nat × LinkMsg) := []
  queues : KMap Queue := []
  graphs : KMap GraphRun := []
  pool : List (Nat × Nat) := []
  poolWait : List (Nat × Nat) := []
  lifetimes : KMap (List Nat) := []
  vectors : KMap Vector := []
  heads : KMap Head := []
  epoch : Nat := 0
  primary : Nat := 0
  failover : Bool := false
  held : List Report := []
  svcLog : List Report := []
  asking : List (Nat × Report) := []
  raceReport : List RaceNote := []
  tdis : KMap Tdi := []
  sessions : List (Nat × Nat) := []
  streams : List (Nat × Nat) := []
  ideKeys : List (Nat × Nat) := []
  staged : Option Image := none
  images : KMap Image := []
  failedCores : List Nat := []
  millivolts : Nat := 450
  throttled : Bool := false
  tripped : Bool := false
  scrubs : Nat := 0
  hostDown : Option Nat := none
  hostOut : List HostOut := []
deriving DecidableEq, Repr

/-- The package right after reset (R391, R405, R407 and the reset columns of the spec): stage ROM, every memory listing
nothing, no crew, gang, queue or operation. Fields for which the spec gives no reset value hold the value that log entry 3
or 4 names. -/
def State.reset : State := {}

/-- Why the machine stops. -/
inductive Fault where
  /-- Raised by a word's meaning when the state holds no issue context for it; step never does this. Safe: no rule of the
  spec reaches it (log entry 2). -/
  | noIssue
deriving DecidableEq, Repr

/-- Why a meaning is refused. -/
inductive Refusal where
  /-- An instruction without a meaning in this model. Safe: nothing is claimed of it. -/
  | notModelled (mnemonic : String)
deriving DecidableEq, Repr

end Sys2Proof.Machine
end

