-- ==== Sys2Proof/Machine/Assoc.lean ====
section
/-! DEFINITION. Maps as lists of pairs, byte strings, and small list helpers that every other file of the machine uses. -/

namespace Sys2Proof.Machine

/-- The value at a key. -/
def kget {α : Type} : KMap α → Nat → Option α
  | [], _ => none
  | (j, a) :: m, k => if k = j then some a else kget m k

/-- The value at a key, or the default of an absent key. -/
def kgetD {α : Type} (m : KMap α) (k : Nat) (d : α) : α := (kget m k).getD d

/-- The map with a key set. -/
def kset {α : Type} : KMap α → Nat → α → KMap α
  | [], k, a => [(k, a)]
  | (j, b) :: m, k, a => if k < j then (k, a) :: (j, b) :: m else if k = j then (k, a) :: m else (j, b) :: kset m k a

/-- The map without a key. -/
def kdel {α : Type} (m : KMap α) (k : Nat) : KMap α := m.filter fun e => e.1 != k

/-- The map with a function applied at a key that it holds. -/
def kmod {α : Type} (m : KMap α) (k : Nat) (f : α → α) : KMap α :=
  match kget m k with
  | some a => kset m k (f a)
  | none => m

/-- The map with a function applied at every key. -/
def kmap {α : Type} (m : KMap α) (f : Nat → α → α) : KMap α := m.map fun e => (e.1, f e.1 e.2)

/-- The keys. -/
def kkeys {α : Type} (m : KMap α) : List Nat := m.map Prod.fst

/-- The first entry whose value passes a test. -/
def kfind {α : Type} (m : KMap α) (p : Nat → α → Bool) : Option (Nat × α) := m.find? fun e => p e.1 e.2

/-- Bytes as a little-endian number (R3). -/
def leNat : List Byte → Nat
  | [] => 0
  | b :: bs => b.toNat + 256 * leNat bs

/-- The n low bytes of a number, little-endian (R3). -/
def leBytes : Nat → Nat → List Byte
  | 0, _ => []
  | n + 1, x => BitVec.ofNat 8 x :: leBytes n (x / 256)

/-- Bytes [lo, lo + n) of a string, as a little-endian number; bytes beyond its end read 0. -/
def fieldLe (bs : List Byte) (lo n : Nat) : Nat := leNat ((bs.drop lo).take n)

/-- Bits [hi : lo] of a number. -/
def bitsOf (x hi lo : Nat) : Nat := x / 2 ^ lo % 2 ^ (hi + 1 - lo)

/-- Bit k of a number. -/
def bitOf (x k : Nat) : Bool := x / 2 ^ k % 2 == 1

/-- A list with an element at an index replaced by bytes of another from there on. -/
def overlay (bs : List Byte) (off : Nat) (new : List Byte) : List Byte :=
  bs.take off ++ new ++ bs.drop (off + new.length)

/-- Two's-complement value of a 32-bit word as a signed integer. -/
def sgn (w : Word) : Int := w.toInt

/-- Signed value of the low n bits of a number. -/
def sext (n x : Nat) : Int := if x % 2 ^ n < 2 ^ (n - 1) then (x % 2 ^ n : Nat) else (x % 2 ^ n : Nat) - 2 ^ n

/-- The 32 bits of an integer: `bits(x, 32)`. -/
def bits32 (x : Int) : Word := BitVec.ofInt 32 x

/-- `sat_s32` (R58). -/
def satS32 (x : Int) : Word :=
  if x < -2147483648 then 0x80000000 else if x > 2147483647 then 0x7FFFFFFF else BitVec.ofInt 32 x

/-- `sat_z32` (R58). -/
def satZ32 (x : Int) : Word := if x < 0 then 0 else if x > 4294967295 then 0xFFFFFFFF else BitVec.ofInt 32 x

/-- An element replaced where a list holds it, without repeats added. -/
def insertNew (x : Nat) (l : List Nat) : List Nat := if l.contains x then l else l ++ [x]

/-- Insertion of a number into a rising list. -/
def insertUp (x : Nat) : List Nat → List Nat
  | [] => [x]
  | y :: l => if x ≤ y then x :: y :: l else y :: insertUp x l

/-- A list of numbers in rising order. -/
def sortUp (l : List Nat) : List Nat := l.foldr insertUp []

/-- The ceiling of a quotient. -/
def ceilDiv (a b : Nat) : Nat := (a + b - 1) / b

/-- The free value numbered i of a list of candidates with a newest one: which is chosen is not defined (R82). -/
def pickOf {α : Type} (newest : α) (olds : List α) (i : Nat) : α :=
  match olds with
  | [] => newest
  | _ :: _ => ((newest :: olds)[i % (olds.length + 1)]?).getD newest

/-! ## Latency windows (R82, R120, R137) -/

/-- A read at an own-stream position lies inside the window of a write, or before the WAIT that covers it. -/
def LatWrite.openAt {α : Type} (w : LatWrite α) (pos : Nat) : Bool := w.tok.isSome || decide (pos < w.due)

/-- The values that a read may return beside the newest, over the latest writes, oldest first: the value of every write whose window is
open, and the value before a write when it and every later one are open. A write that is seen hides all before it (R82). -/
def oldsOf {α : Type} (isOpen : LatWrite α → Bool) : List (LatWrite α) → List α
  | [] => []
  | w :: ws => (if isOpen w then w.val :: (if ws.all isOpen then [w.prev] else []) else []) ++ oldsOf isOpen ws

/-- A write added to the latest ones; those before which every window has closed are forgotten. -/
def addWrite {α : Type} (isOpen : LatWrite α → Bool) (l : List (LatWrite α)) (w : LatWrite α) : List (LatWrite α) :=
  (l.dropWhile fun x => !isOpen x) ++ [w]

/-- The map with a list changed, and its entry removed when nothing is left of it. -/
def kfilterLists {α : Type} (m : KMap (List α)) (k : List α → List α) : KMap (List α) :=
  (kmap m fun _ l => k l).filter fun e => !e.2.isEmpty

/-- A WAIT on a token has returned: the results that it covers are seen (R137). -/
def seenBy {α : Type} (covers : LatWrite α → Bool) (l : List (LatWrite α)) : List (LatWrite α) :=
  l.map fun w => if covers w then { w with tok := none } else w

end Sys2Proof.Machine
end

