-- ==== Sys2Proof/Machine/Float.lean ====
section
/-! DEFINITION. Floating-point arithmetic (R48 to R62, R102, R103, R122): encodings, exact values as signed dyadic numbers,
one rounding, and the operations over it. Exceptions are FSTAT's flag bits [4:0]. -/

namespace Sys2Proof.Machine

/-- A binary floating-point format (R48): exponent bits, fraction bits, bias. -/
structure Fmt where
  w : Nat
  f : Nat
  bias : Nat
deriving DecidableEq, Repr

/-- binary32 (R49). -/
def f32 : Fmt := ⟨8, 23, 127⟩
/-- binary16 (R49). -/
def f16 : Fmt := ⟨5, 10, 15⟩
/-- C16, bf16 (R49). -/
def c16 : Fmt := ⟨8, 7, 127⟩

/-- A number: NaN (signalling or quiet), an infinity, or (-1)^neg * m * 2^e exactly, zeros with their sign included. -/
inductive Num where
  | nan (sig : Bool)
  | inf (neg : Bool)
  | fin (neg : Bool) (m : Nat) (e : Int)
deriving DecidableEq, Repr

/-- Flags of FSTAT raised by exceptions (R64). -/
def excNV : Word := 1
/-- Divide-by-zero. -/
def excDZ : Word := 2
/-- Overflow. -/
def excOF : Word := 4
/-- Underflow. -/
def excUF : Word := 8
/-- Inexact. -/
def excNX : Word := 16

/-- The sign bit, exponent and fraction of an encoding give its number (R48). -/
def unpack (F : Fmt) (x : Nat) : Num :=
  let s := x / 2 ^ (F.w + F.f) % 2 == 1
  let e := x / 2 ^ F.f % 2 ^ F.w
  let f := x % 2 ^ F.f
  if e = 2 ^ F.w - 1 then
    if f = 0 then .inf s else .nan (f < 2 ^ (F.f - 1))
  else if e = 0 then .fin s f (1 - F.bias - F.f)
  else .fin s (2 ^ F.f + f) ((e : Int) - F.bias - F.f)

/-- The canonical NaN (R49, R55). -/
def canonNaN (F : Fmt) : Nat := (2 ^ F.w - 1) * 2 ^ F.f + 2 ^ (F.f - 1)

/-- The sign bit in place. -/
def signBit (F : Fmt) (neg : Bool) : Nat := if neg then 2 ^ (F.w + F.f) else 0

/-- Infinity. -/
def infBits (F : Fmt) (neg : Bool) : Nat := signBit F neg + (2 ^ F.w - 1) * 2 ^ F.f

/-- The largest finite value. -/
def maxBits (F : Fmt) (neg : Bool) : Nat := signBit F neg + (2 ^ F.w - 1) * 2 ^ F.f - 1

/-- Whether rounding adds one unit, from the quotient, the remainder and the shift (R51): mode codes 0 RNE, 1 RZ, 2 RUP,
3 RDN. -/
def roundsUp (rm : Nat) (neg : Bool) (r rem half : Nat) : Bool :=
  match rm with
  | 0 => half < rem || (rem == half && r % 2 == 1)
  | 1 => false
  | 2 => !neg && rem != 0
  | _ => neg && rem != 0

/-- m * 2^e rounded to a multiple of 2^q: the multiple, and whether it is inexact. -/
def roundAt (rm : Nat) (neg : Bool) (m : Nat) (e q : Int) : Nat × Bool :=
  if q ≤ e then (m * 2 ^ (e - q).toNat, false)
  else
    let k := (q - e).toNat
    let r := m / 2 ^ k
    let rem := m % 2 ^ k
    (if roundsUp rm neg r rem (2 ^ (k - 1)) && k != 0 then r + 1 else r, rem != 0)

/-- The rounding of a finite value to a format (R50 to R53): encoding and exceptions. Overflow arises as R52 says: under RZ and RDN the rounded
magnitude of 0x7F7F_FFFF of R54's example is the largest finite one, so that inexact alone is raised there, though the example's row lists both
for all four modes (DESIGN CHOICE, log entry 149). -/
def roundFin (F : Fmt) (rm : Nat) (neg : Bool) (m : Nat) (e : Int) : Nat × Word :=
  if m = 0 then (signBit F neg, 0)
  else
    let top : Int := e + Nat.log2 m
    let emin : Int := 1 - F.bias
    let q := max (top - F.f) (emin - F.f)
    let (r, nx) := roundAt rm neg m e q
    let (r0, _) := roundAt rm neg m e (top - F.f)
    let tiny := (if (emin - (top - F.f)) ≤ 0 then false else r0 < 2 ^ (emin - (top - F.f)).toNat)
    let field : Int := if r < 2 ^ F.f then r else (q + F.f + F.bias) * 2 ^ F.f + (r - 2 ^ F.f : Nat)
    if field ≥ ((2 ^ F.w - 1) * 2 ^ F.f : Nat) then
      (if rm = 0 ∨ (rm = 2 ∧ neg = false) ∨ (rm = 3 ∧ neg = true) then infBits F neg else maxBits F neg, excOF ||| excNX)
    else
      (signBit F neg + field.toNat, (if nx then excNX else 0) ||| (if tiny && nx then excUF else 0))

/-- `round(x, mode)` of a number; a NaN gives the canonical NaN and raises nothing here. -/
def roundNum (F : Fmt) (rm : Nat) : Num → Nat × Word
  | .nan _ => (canonNaN F, 0)
  | .inf s => (infBits F s, 0)
  | .fin s m e => roundFin F rm s m e

/-- Invalid for a signalling NaN input (R56). -/
def sigExc : Num → Word
  | .nan true => excNV
  | _ => 0

/-- The number is a NaN. -/
def Num.isNaN : Num → Bool
  | .nan _ => true
  | _ => false

/-- The sign of a number. -/
def Num.neg : Num → Bool
  | .nan _ => false
  | .inf s => s
  | .fin s _ _ => s

/-- The negated number (subtraction). -/
def Num.negate : Num → Num
  | .nan s => .nan s
  | .inf s => .inf !s
  | .fin s m e => .fin (!s) m e

/-- The signed integer of a finite value at exponent q ≤ e. -/
def signedAt (neg : Bool) (m : Nat) (e q : Int) : Int :=
  let a : Int := (m * 2 ^ (e - q).toNat : Nat)
  if neg then -a else a

/-- The exact sum (R54, R56), with the invalid exception of opposite infinities and of signalling inputs. -/
def addNum (rm : Nat) (a b : Num) : Num × Word :=
  match a, b with
  | .nan s, .nan t => (.nan false, if s || t then excNV else 0)
  | .nan s, _ => (.nan false, if s then excNV else 0)
  | _, .nan t => (.nan false, if t then excNV else 0)
  | .inf s, .inf t => if s = t then (.inf s, 0) else (.nan false, excNV)
  | .inf s, .fin _ _ _ => (.inf s, 0)
  | .fin _ _ _, .inf t => (.inf t, 0)
  | .fin s m e, .fin t n g =>
    let q := min e g
    let x := signedAt s m e q + signedAt t n g q
    if x = 0 then (.fin (if m = 0 ∧ n = 0 ∧ s = t then s else decide (rm = 3)) 0 q, 0)
    else (.fin (decide (x < 0)) x.natAbs q, 0)

/-- The exact product (R54, R56). -/
def mulNum (a b : Num) : Num × Word :=
  match a, b with
  | .nan s, .nan t => (.nan false, if s || t then excNV else 0)
  | .nan s, _ => (.nan false, if s then excNV else 0)
  | _, .nan t => (.nan false, if t then excNV else 0)
  | .inf s, .inf t => (.inf (s != t), 0)
  | .inf s, .fin t n _ => if n = 0 then (.nan false, excNV) else (.inf (s != t), 0)
  | .fin s m _, .inf t => if m = 0 then (.nan false, excNV) else (.inf (s != t), 0)
  | .fin s m e, .fin t n g => (.fin (s != t) (m * n) (e + g), 0)

/-- The rounded sum. -/
def fadd (F : Fmt) (rm a b : Nat) : Nat × Word :=
  let (x, e) := addNum rm (unpack F a) (unpack F b)
  let (r, e') := roundNum F rm x
  (r, e ||| e')

/-- The exact difference. A difference of zeros of the same sign keeps that sign, and one of zeros of different signs has the sign of any
other difference that is exactly zero (R54). -/
def subNum (rm : Nat) (a b : Num) : Num × Word :=
  match a, b with
  | .fin s 0 e, .fin t 0 g => (.fin (if s = t then s else decide (rm = 3)) 0 (min e g), 0)
  | _, _ => addNum rm a b.negate

/-- The rounded difference. -/
def fsub (F : Fmt) (rm a b : Nat) : Nat × Word :=
  let (x, e) := subNum rm (unpack F a) (unpack F b)
  let (r, e') := roundNum F rm x
  (r, e ||| e')

/-- The rounded product. -/
def fmul (F : Fmt) (rm a b : Nat) : Nat × Word :=
  let (x, e) := mulNum (unpack F a) (unpack F b)
  let (r, e') := roundNum F rm x
  (r, e ||| e')

/-- d + a * b with one rounding; 0 * infinity is invalid even when d is a quiet NaN (R101). -/
def ffma (F : Fmt) (rm d a b : Nat) : Nat × Word :=
  let (p, e) := mulNum (unpack F a) (unpack F b)
  let (x, e') := addNum rm (unpack F d) p
  let (r, e'') := roundNum F rm x
  (r, e ||| e' ||| e'')

/-- A quotient m / n at more bits than any format needs, with the remainder folded into the last bit. -/
def quotient (m n : Nat) : Nat × Int :=
  let k := 80 + Nat.log2 n
  let q := m * 2 ^ k / n
  (2 * q + (if m * 2 ^ k % n = 0 then 0 else 1), -(k : Int) - 1)

/-- The rounded quotient (R56, R101). -/
def fdiv (F : Fmt) (rm a b : Nat) : Nat × Word :=
  match unpack F a, unpack F b with
  | .nan s, y => (canonNaN F, (if s then excNV else 0) ||| sigExc y)
  | _, .nan t => (canonNaN F, if t then excNV else 0)
  | .inf _, .inf _ => (canonNaN F, excNV)
  | .inf s, .fin t _ _ => (infBits F (s != t), 0)
  | .fin s _ _, .inf t => (signBit F (s != t), 0)
  | .fin s m e, .fin t n g =>
    if n = 0 then
      if m = 0 then (canonNaN F, excNV) else (infBits F (s != t), excDZ)
    else
      let (q, k) := quotient m n
      roundFin F rm (s != t) q (e - g + k)

/-- The integer square root of n, given that its root has at most k bits. -/
def isqrt : Nat → Nat → Nat → Nat
  | 0, _, r => r
  | k + 1, n, r => isqrt k n (if (r + 2 ^ k) * (r + 2 ^ k) ≤ n then r + 2 ^ k else r)

/-- The rounded square root (R56, R101). -/
def fsqrt (F : Fmt) (rm a : Nat) : Nat × Word :=
  match unpack F a with
  | .nan s => (canonNaN F, if s then excNV else 0)
  | .inf s => if s then (canonNaN F, excNV) else (infBits F false, 0)
  | .fin s m e =>
    if m = 0 then (signBit F s, 0)
    else if s then (canonNaN F, excNV)
    else
      let up : Nat := if e % 2 = 0 then 60 else 61
      let n := m * 2 ^ up
      let r := isqrt 64 n 0
      roundFin F rm false (2 * r + (if r * r = n then 0 else 1)) ((e - up) / 2 - 1)

/-- Whether a ≤ b by value, with -0 below +0 (R102). -/
def leNum : Num → Num → Bool
  | .inf s, b => s || (match b with | .inf t => !t | _ => false)
  | _, .inf t => !t
  | .fin s m e, .fin t n g =>
    let q := min e g
    let x := signedAt s m e q
    let y := signedAt t n g q
    x < y || (x == y && (x != 0 || s || !t))
  | _, _ => false

/-- Minimum or maximum of two encodings (R102). -/
def fminmax (F : Fmt) (isMax : Bool) (a b : Nat) : Nat × Word :=
  let x := unpack F a
  let y := unpack F b
  let exc := sigExc x ||| sigExc y
  match x.isNaN, y.isNaN with
  | true, true => (canonNaN F, exc)
  | true, false => (b, exc)
  | false, true => (a, exc)
  | false, false =>
    let aFirst := leNum x y
    (if isMax then (if aFirst then b else a) else (if aFirst then a else b), exc)

/-- FRND: rounding to an integral value without inexact (R103). -/
def frnd (F : Fmt) (rm a : Nat) : Nat × Word :=
  match unpack F a with
  | .nan s => (canonNaN F, if s then excNV else 0)
  | .inf s => (infBits F s, 0)
  | .fin s m e =>
    let (r, _) := roundAt rm s m e 0
    ((roundFin F rm s r 0).1, 0)

/-- Conversion between formats (R60): NaN gives the canonical NaN, a signalling one raises invalid. -/
def fconv (F G : Fmt) (rm a : Nat) : Nat × Word :=
  let x := unpack F a
  let (r, e) := roundNum G rm x
  (r, sigExc x ||| e)

/-- Conversion of an integer to a format (R60). -/
def ofInt (G : Fmt) (rm : Nat) (x : Int) : Nat × Word := roundFin G rm (decide (x < 0)) x.natAbs 0

/-- Conversion of a format to s32 or z32 (R60). -/
def toInt32 (F : Fmt) (signed : Bool) (rm a : Nat) : Word × Word :=
  match unpack F a with
  | .nan _ => (0, excNV)
  | .inf s => (if signed then (if s then 0x80000000 else 0x7FFFFFFF) else (if s then 0 else 0xFFFFFFFF), excNV)
  | .fin s m e =>
    let (r, nx) := roundAt rm s m e 0
    let x : Int := if s then -(r : Int) else r
    let inRange := if signed then -2147483648 ≤ x && x ≤ 2147483647 else 0 ≤ x && x ≤ 4294967295
    (if signed then satS32 x else satZ32 x, if inRange then (if nx then excNX else 0) else excNV)

/-- The relation of FCMP's conditions (R79, R110): less, equal or greater of two numbers that are not NaN, zeros equal. -/
def cmpNum (x y : Num) : Ordering :=
  match x, y with
  | .inf s, .inf t => if s = t then .eq else if s then .lt else .gt
  | .inf s, _ => if s then .lt else .gt
  | _, .inf t => if t then .gt else .lt
  | .fin s m e, .fin t n g =>
    let q := min e g
    compare (signedAt s m e q) (signedAt t n g q)
  | _, _ => .eq

/-- The truth of a condition of FCMP (R79) and its exceptions (R112). -/
def fcmpRel (cc : Cond) (a b : Nat) : Bool × Word :=
  let x := unpack f32 a
  let y := unpack f32 b
  let uno := x.isNaN || y.isNaN
  let o := cmpNum x y
  let r := match cc with
    | .eq => !uno && o == .eq
    | .ne => uno || o != .eq
    | .lt => !uno && o == .lt
    | .le => !uno && o != .gt
    | .gt => !uno && o == .gt
    | .ge => !uno && o != .lt
    | .ord => !uno
    | .uno => uno
    | .ueq => uno || o == .eq
    | .ult => uno || o == .lt
    | .ule => uno || o != .gt
    | .ugt => uno || o == .gt
    | .uge => uno || o != .lt
  (r, sigExc x ||| sigExc y)

end Sys2Proof.Machine
end

