-- ==== Sys2Proof/Machine/CopyFormat.lean ====
section
/-! DEFINITION. The storage formats of the copy engine (R227 to R230, R238, R239, R241), tile layouts (R233, R234) and shape
records (R231, R232, R235, R236). -/

namespace Sys2Proof.Machine

/-! ## Formats (R227, R228) -/

/-- A format word's fields. -/
structure TFmt where
  word : Nat
  int : Bool
  s : Nat
  e : Nat
  m : Nat
  ieee : Bool
  bias : Nat
deriving DecidableEq, Repr

/-- The fields of a format word (R227). -/
def tfmtOf (w : Nat) : TFmt := ⟨w, bitOf w 15, bitsOf w 14 14, bitsOf w 13 11, bitsOf w 10 8, bitOf w 7, bitsOf w 6 0⟩

/-- The wide format of a word (R228). -/
def wideOf (w : Nat) : Option Fmt :=
  if w = 0x0081 then some f16 else if w = 0x0082 then some c16 else if w = 0x0083 then some f32 else none

/-- A legal narrow format (R228). -/
def TFmt.narrow (f : TFmt) : Bool :=
  if f.int then f.e == 0 && !f.ieee && f.bias == 0 && decide (1 ≤ f.m) && decide (2 ≤ f.s + f.m) && decide (f.s + f.m ≤ 8)
  else decide (2 ≤ f.s + f.e + f.m) && decide (f.s + f.e + f.m ≤ 8) && decide (1 ≤ f.e) &&
    (!f.ieee || (decide (2 ≤ f.e) && decide (1 ≤ f.m)))

/-- A legal format word (R228). -/
def TFmt.legal (f : TFmt) : Bool := (wideOf f.word).isSome || f.narrow

/-- The width of an element (R228). -/
def TFmt.width (f : TFmt) : Nat :=
  match wideOf f.word with
  | some g => 1 + g.w + g.f
  | none => f.s + f.e + f.m

/-! ## Decoding (R229, R230) -/

/-- The value of a narrow code (R229). -/
def TFmt.decode (f : TFmt) (x : Nat) : Num :=
  let neg := f.s == 1 && bitOf x (f.e + f.m)
  let m := x % 2 ^ f.m
  if f.int then .fin (neg && m != 0) m 0
  else
    let e := x / 2 ^ f.m % 2 ^ f.e
    let emax := 2 ^ f.e - 1
    if f.ieee && e == emax then (if m = 0 then .inf neg else .nan false)
    else if !f.ieee && e == emax && m == 2 ^ f.m - 1 then .nan false
    else if e = 0 then .fin neg m (1 - f.bias - f.m)
    else .fin neg (2 ^ f.m + m) ((e : Int) - f.bias - f.m)

/-- The value of an element code of any legal format. -/
def TFmt.num (f : TFmt) (x : Nat) : Num :=
  match wideOf f.word with
  | some g => unpack g x
  | none => f.decode x

/-- The largest finite magnitude of a narrow format as m * 2^e (R229). -/
def TFmt.maxF (f : TFmt) : Nat × Int :=
  let emax := 2 ^ f.e - 1
  if f.int then (2 ^ f.m - 1, 0)
  else if f.ieee then (2 ^ (f.m + 1) - 1, (emax : Int) - 1 - f.bias - f.m)
  else if 1 ≤ f.m then (2 ^ (f.m + 1) - 2, (emax : Int) - f.bias - f.m)
  else if emax = 1 then (0, 0) else (1, (emax : Int) - 1 - f.bias)

/-- The magnitude code of the largest finite value of a narrow float. -/
def TFmt.maxCode (f : TFmt) : Nat :=
  let emax := 2 ^ f.e - 1
  if f.ieee then emax * 2 ^ f.m - 1 else if 1 ≤ f.m then emax * 2 ^ f.m + 2 ^ f.m - 2 else emax - 1

/-- The code written for NaN: the canonical NaN of a float, 0 of an integer (R229, R238). -/
def TFmt.nanCode (f : TFmt) : Nat :=
  match wideOf f.word with
  | some g => canonNaN g
  | none =>
    let emax := 2 ^ f.e - 1
    if f.int then 0 else if f.ieee then emax * 2 ^ f.m + 2 ^ (f.m - 1) else emax * 2 ^ f.m + (2 ^ f.m - 1)

/-! ## Compression (R238, R239) -/

/-- Rounding modes of a copy: RND codes 0 RNE, 1 RZ and 2 SR (R243). m * 2^e at a multiple of 2^q: under SR the upper
neighbour when the draw is below the scaled distance (R239). -/
def roundSr (mode u m : Nat) (e q : Int) : Nat :=
  if mode = 2 then
    if q ≤ e then m * 2 ^ (e - q).toNat
    else
      let k := (q - e).toNat
      m / 2 ^ k + (if u < m % 2 ^ k * 65536 / 2 ^ k then 1 else 0)
  else (roundAt mode false m e q).1

/-- The magnitude code of m * 2^e rounded with an unbounded exponent, for a fraction of f bits and a bias. -/
def magCode (mode u f bias m : Nat) (e : Int) : Nat :=
  if m = 0 then 0
  else
    let q := max (e + Nat.log2 m - f) (1 - (bias : Int) - f)
    let r := roundSr mode u m e q
    if r < 2 ^ f then r else ((q + f + bias) * 2 ^ f + (r - 2 ^ f : Nat)).toNat

/-- The magnitude code of m * 2^e with overflow (R52, R238): to the code of infinity under RNE and SR where the format has
one, else to the largest finite value. -/
def boundCode (mode u f bias maxCode : Nat) (inf : Option Nat) (m : Nat) (e : Int) : Nat :=
  if mode = 1 then min (magCode 1 0 f bias m e) maxCode
  else
    let near := magCode 0 0 f bias m e
    if mode = 2 ∧ magCode 1 0 f bias m e < maxCode then magCode 2 u f bias m e
    else if near ≤ maxCode then near else inf.getD maxCode

/-- `round_fmt` (R238): the code of a number, with the draw u for SR. -/
def TFmt.code (f : TFmt) (mode u : Nat) (x : Num) : Nat :=
  match wideOf f.word with
  | some g =>
    match x with
    | .nan _ => canonNaN g
    | .inf s => infBits g s
    | .fin s m e =>
      signBit g s + boundCode mode u g.f g.bias ((2 ^ g.w - 1) * 2 ^ g.f - 1) (some ((2 ^ g.w - 1) * 2 ^ g.f)) m e
  | none =>
    let sign := fun (s : Bool) => if s then 2 ^ (f.e + f.m) else 0
    match x with
    | .nan _ => f.nanCode
    | .inf s =>
      if f.s = 0 ∧ s = true then 0
      else if f.int then sign s + (2 ^ f.m - 1)
      else sign s + (if f.ieee then (2 ^ f.e - 1) * 2 ^ f.m else f.maxCode)
    | .fin s m e =>
      if f.s = 0 ∧ s = true then 0
      else if f.int then
        let r := min (roundSr mode u m e 0) (2 ^ f.m - 1)
        if r = 0 then 0 else sign s + r
      else sign s + boundCode mode u f.m f.bias f.maxCode (if f.ieee then some ((2 ^ f.e - 1) * 2 ^ f.m) else none) m e

/-! ## Scales (R62, R241) -/

/-- A value multiplied by the scale of a code; 0xFF gives NaN (R62). -/
def scaleNum (x : Num) (code : Nat) : Num :=
  if code = 255 then .nan false
  else match x with
    | .fin s m e => .fin s m (e + code - 127)
    | .inf s => .inf s
    | .nan q => .nan q

/-- m * 2^e ≤ n * 2^d. -/
def leDyadic (m : Nat) (e : Int) (n : Nat) (d : Int) : Bool :=
  let p := min e d
  decide (m * 2 ^ (e - p).toNat ≤ n * 2 ^ (d - p).toNat)

/-- The largest finite magnitude of a list of values, (0, 0) if none (R241). -/
def maxFinite (l : List Num) : Nat × Int :=
  l.foldl (fun a x => match x with
    | .fin _ m e => if leDyadic m e a.1 a.2 then a else (m, e)
    | .inf _ | .nan _ => a) (0, 0)

/-- The scale code of a block (R241). -/
def TFmt.scaleCode (f : TFmt) (l : List Num) : Nat :=
  if l.any Num.isNaN then 255
  else
    let a := maxFinite l
    if a.1 = 0 then 127
    else ((List.range 255).find? fun (e : Nat) => leDyadic a.1 (a.2 + 127 - e) f.maxF.1 f.maxF.2).getD 254

/-- The code of an element of a block whose scale is e (R241). -/
def TFmt.blockCode (f : TFmt) (mode u e : Nat) (x : Num) : Nat :=
  if e = 255 then f.nanCode
  else match x with
    | .fin s m d => f.code mode u (.fin s m (d + 127 - e))
    | .inf s => f.code mode u (.inf s)
    | .nan q => f.code mode u (.nan q)

/-- One step of the LFSR (R240). -/
def lfsrStep (w : Word) : Word := if w.getLsbD 0 then (w >>> 1) ^^^ 0x80200003 else w >>> 1

/-- The states of the LFSR after each of n steps. -/
def lfsrRun (w : Word) : Nat → List Word
  | 0 => []
  | n + 1 => lfsrStep w :: lfsrRun (lfsrStep w) n

/-! ## Shape records (R235) -/

/-- A shape record. -/
structure Shape where
  base : Nat
  sbase : Nat
  fmt : TFmt
  rank : Nat
  flags : Nat
  ext : List Nat
  str : List Nat
  tx : List Nat
  org : List Nat
deriving DecidableEq, Repr

/-- The record in 64 bytes, extents and origins at and above RANK taken as 1 and 0 (R231, R235). -/
def shapeOf (bs : List Byte) : Shape :=
  let rank := fieldLe bs 18 1
  let own := fun (d : Nat) (l : List Nat) => (List.range 4).map fun k => if k < rank then l.getD k d else d
  { base := fieldLe bs 0 8, sbase := fieldLe bs 8 8, fmt := tfmtOf (fieldLe bs 16 2), rank := rank, flags := fieldLe bs 19 1
    ext := own 1 ((List.range 4).map fun k => fieldLe bs (20 + 4 * k) 4)
    str := own 0 (0 :: (List.range 3).map fun k => fieldLe bs (36 + 4 * k) 4)
    tx := (List.range 4).map fun k => fieldLe bs (48 + k) 1
    org := own 0 [fieldLe bs 52 4, fieldLe bs 56 4, fieldLe bs 60 2, fieldLe bs 62 2] }

/-- Entry k of a list of a record. -/
def dim (l : List Nat) (k : Nat) : Nat := l.getD k 0

/-- The scratchpad side is an f32 tile. -/
def Shape.acc (r : Shape) : Bool := bitOf r.flags 0

/-- Rows of the tile (R235). -/
def Shape.rows (r : Shape) : Nat := dim r.tx 1 * dim r.tx 2 * dim r.tx 3

/-- Bytes of a tile of rows in the scratchpad (R233, R234). -/
def tileBytes (acc : Bool) (rows : Nat) : Nat := if acc then 512 * rows else 260 * rows

/-- Blocks of a row of the plane (R232). -/
def Shape.blocks (r : Shape) : Nat := ceilDiv (dim r.ext 0) 32

/-- The checks of R236, 1 to 5; canon says whether an address is canonical. -/
def Shape.check (r : Shape) (store : Bool) (canon : Nat → Bool) : Option Cause :=
  let w := r.fmt.width
  let below := (List.range 4).filter fun k => k < r.rank
  let last := dim r.org 0 + dim r.tx 0
  let plane := r.blocks * dim r.ext 1 * dim r.ext 2 * dim r.ext 3
  if !r.fmt.legal || r.flags / 2 != 0 then some 0x65
  else if !(decide (1 ≤ r.rank) && decide (r.rank ≤ 4)) || (below.any fun k => dim r.ext k == 0) || dim r.tx 0 == 0 ||
      decide (128 < dim r.tx 0) || (r.tx.any fun t => t == 0) ||
      ((List.range 4).any fun k => decide (r.rank ≤ k) && dim r.tx k != 1) ||
      (below.any fun k => decide (dim r.ext k ≤ dim r.org k)) then some 0x62
  else if !canon r.base || r.base % 16 != 0 || (below.any fun k => dim r.str k % 16 != 0) ||
      (store && w % 8 != 0 && (dim r.org 0 * w % 8 != 0 || (last * w % 8 != 0 && decide (last < dim r.ext 0)))) then some 0x63
  else if store && ((decide (1 < r.rank) && decide (dim r.str 1 < ceilDiv (dim r.ext 0 * w) 8)) ||
      (decide (2 < r.rank) && decide (dim r.str 2 < dim r.str 1 * dim r.ext 1)) ||
      (decide (3 < r.rank) && decide (dim r.str 3 < dim r.str 2 * dim r.ext 2))) then some 0x64
  else if r.sbase != 0 && ((wideOf r.fmt.word).isSome || !canon r.sbase || !canon (r.sbase + plane - 1) ||
      decide (r.sbase < 2 ^ 63 ∧ 2 ^ 63 ≤ r.sbase + plane - 1) ||
      dim r.org 0 % 32 != 0 || (store && dim r.tx 0 % 32 != 0 && decide (last < dim r.ext 0))) then some 0x66
  else none

/-- The checks of R248 on the fields that XGATHER uses. -/
def Shape.checkGather (r : Shape) : Option Cause :=
  if !r.fmt.legal || r.flags / 2 != 0 then some 0x65
  else if dim r.tx 0 == 0 || decide (128 < dim r.tx 0) then some 0x62
  else if r.sbase != 0 then some 0x66
  else none

/-- Where row r of a tile lies in memory (R231, R232, R235): row address, in-bounds columns, and the address of its first
scale byte; none when the row is out of bounds. -/
def Shape.row (r : Shape) (k : Nat) : Option (Nat × Nat × Nat) :=
  let i1 := dim r.org 1 + k % dim r.tx 1
  let i2 := dim r.org 2 + k / dim r.tx 1 % dim r.tx 2
  let i3 := dim r.org 3 + k / (dim r.tx 1 * dim r.tx 2)
  if dim r.ext 1 ≤ i1 ∨ dim r.ext 2 ≤ i2 ∨ dim r.ext 3 ≤ i3 then none
  else some (r.base + i1 * dim r.str 1 + i2 * dim r.str 2 + i3 * dim r.str 3,
    min (dim r.tx 0) (dim r.ext 0 - dim r.org 0),
    r.sbase + dim r.org 0 / 32 + r.blocks * (i1 + dim r.ext 1 * (i2 + dim r.ext 2 * i3)))

/-! ## Tiles (R233, R234) -/

/-- The byte offset of element j of row r of a C16 tile (R233). -/
def c16At (r j : Nat) : Nat := 256 * r + 16 * ((j / 8) ^^^ (r % 16)) + 2 * (j % 8)

/-- The byte offset of element j of row r of an f32 tile (R234). -/
def f32At (r j : Nat) : Nat := 512 * r + 16 * ((j / 4) ^^^ (r % 16)) + 4 * (j % 4)

/-- The bytes of row r of a C16 tile from its elements in order. -/
def c16Row (r : Nat) (el : List Nat) : List Byte :=
  (List.range 16).flatMap fun p => (List.range 8).flatMap fun i => leBytes 2 (el.getD (8 * (p ^^^ (r % 16)) + i) 0)

/-- The bytes of row r of an f32 tile from its elements in order. -/
def f32Row (r : Nat) (el : List Nat) : List Byte :=
  (List.range 32).flatMap fun p => (List.range 4).flatMap fun i =>
    leBytes 4 (el.getD (4 * (p ^^^ (r % 16)) + i) 0)

/-- A C16 tile from its rows and their four scale codes. -/
def c16Tile (rows : List (List Nat × List Nat)) : List Byte :=
  ((rows.zipIdx).flatMap fun x => c16Row x.2 x.1.1) ++
    rows.flatMap fun x => (List.range 4).map fun b => BitVec.ofNat 8 (x.2.getD b 127)

/-- An f32 tile from its rows. -/
def f32Tile (rows : List (List Nat)) : List Byte := (rows.zipIdx).flatMap fun x => f32Row x.2 x.1

/-- An element of a tile in the scratchpad as a number: C16 times the tile scale of its block, or f32 (R246). -/
def tileNum (acc : Bool) (rows : Nat) (bs : List Byte) (r j : Nat) : Num :=
  if acc then unpack f32 (fieldLe bs (f32At r j) 4)
  else scaleNum (unpack c16 (fieldLe bs (c16At r j) 2)) (fieldLe bs (256 * rows + 4 * r + j / 32) 1)

end Sys2Proof.Machine
end

