-- ==== Sys2Proof/WellFormed.lean ====
section
/-! DEFINITION. Which instructions have a word (R67 to R80): the checks of a word's fields that the operand types of
Instr do not already make. An event (a row of the table without a word) is not a word. -/

namespace Sys2Proof

/-- Positions A and B of formats A, I and C accept every selector (R71). -/
def Sel.okLane (_ : Sel) : Bool := true

/-- Positions of format U, and A of format E (R71): G registers, constants and IMM. -/
def Sel.okUniform : Sel → Bool
  | .g _ | .int _ | .flt _ | .imm => true
  | .v _ | .latch _ | .vx _ | .q _ => false

/-- Position AB of format M (R71). -/
def Sel.okBase : Sel → Bool
  | .v _ | .g _ | .latch _ | .vx _ | .int _ => true
  | .q _ | .flt _ | .imm => false

/-- Position A of XGATHER, EFFECT, SPAWN and BAR (R71): every selector but a queue. -/
def Sel.okEngine : Sel → Bool
  | .q _ => false
  | .v _ | .g _ | .latch _ | .vx _ | .int _ | .flt _ | .imm => true

/-- The selector names an operand that can be read as a 64-bit pair (R72). -/
def Sel.okPair : Sel → Bool
  | .v _ | .int _ | .imm => true
  | .g n => n.val ≤ 30
  | .latch _ | .vx _ | .q _ | .flt _ => false

/-- Conditions of ICMPS, ICMPZ, UCMPS and UCMPZ (R79). -/
def Cond.okInt : Cond → Bool
  | .eq | .ne | .lt | .le | .gt | .ge => true
  | .ord | .uno | .ueq | .ult | .ule | .ugt | .uge => false

/-- Conditions of ITST (R79): .ZERO and .NZ. -/
def Cond.okTest : Cond → Bool
  | .eq | .ne => true
  | .lt | .le | .gt | .ge | .ord | .uno | .ueq | .ult | .ule | .ugt | .uge => false

/-- Sizes that a store accepts (R159). -/
def Size.okStore : Size → Bool
  | .s8 | .s16 => false
  | .z8 | .z16 | .w32 | .w64 | .w128 => true

/-- Functions that ATOMN accepts (R79). -/
def AtomFn.okNoResult : AtomFn → Bool
  | .xchg | .cas | .cas64 => false
  | .add | .sub | .mins | .maxs | .minz | .maxz | .and | .or | .xor | .fadd | .incw | .add64 => true

/-- With NW = 1 the destination field is 0 (R67). -/
def LaneHdr.ok (h : LaneHdr) : Bool := !h.nw || h.d.val == 0

/-- The row of the table has a word (the first 183 rows). -/
def Instr.isWord (i : Instr) : Bool := i.ctorIdx < 183

/-- The instruction has a word that the checks 1 to 5 of R87 and its selector checks let through. Its hints, privilege
and immediate limits are checked when it issues. -/
def Instr.wellFormed : Instr → Bool
  | .iadd h _ _ | .isub h _ _ | .imul h _ _ | .imulhs h _ _ | .imulhz h _ _ | .imad h _ _ | .imins h _ _
  | .imaxs h _ _ | .iminz h _ _ | .imaxz h _ _ | .andL h _ _ | .orL h _ _ | .xorL h _ _ | .andn h _ _
  | .shl h _ _ | .shr h _ _ | .sar h _ _ | .rol h _ _ | .bfxz h _ _ | .bfxs h _ _ | .bfi h _ _ | .sel h _ _
  | .fadd h _ _ | .fsub h _ _ | .fmul h _ _ | .ffma h _ _ | .fmin h _ _ | .fmax h _ _ | .fdiv h _ _ | .fcpys h _ _
  | .hadd2 h _ _ | .hmul2 h _ _ | .hfma2 h _ _ | .hmin2 h _ _ | .hmax2 h _ _
  | .badd2 h _ _ | .bmul2 h _ _ | .bfma2 h _ _ | .bmin2 h _ _ | .bmax2 h _ _ | .pack h _ _ | .prm h _ _ => h.ok
  | .iabs h _ | .popc h _ | .clz h _ | .brev h _ | .mov h _ | .iaddi h _ _ | .shli h _ _ | .shri h _ _ | .sari h _ _
  | .fabs h _ | .fneg h _ | .frcp h _ | .frsq h _ | .fsqrt h _ | .fex2 h _ | .flg2 h _ | .fsin h _ | .fcos h _
  | .frnd h _ | .cvt h _ _ | .cvtFswap h _ | .rfl h _ | .tkrd h _ => h.ok
  | .movi h _ | .sread h _ => h.ok
  | .icmps h _ _ | .icmpz h _ _ => h.cc.okInt
  | .fcmp _ _ _ => true
  | .itst h _ _ => h.cc.okTest
  | .pdup _ | .pdrop _ | .pnot _ | .pand _ | .por _ | .pxor _ | .pswap _ | .pset0 _ | .pset1 _ => true
  | .xchgIdx _ _ _ | .xchgUp _ _ _ _ | .xchgDown _ _ _ _ | .xchgBfly _ _ _ _ => true
  | .voteAll _ _ _ | .voteAny _ _ _ | .voteEq _ _ _ | .voteBal _ _ _ => true
  | .xdef _ _ _ _ | .xset _ _ _ | .xadd _ _ _ => true
  | .uadd _ a b | .usub _ a b | .umul _ a b | .umad _ a b | .uand _ a b | .uor _ a b | .uxor _ a b | .ushl _ a b
  | .ushr _ a b | .usar _ a b | .usel _ a b | .uld _ a b => a.okUniform && b.okUniform
  | .umov _ a | .uaddi _ a _ => a.okUniform
  | .ucmps cc _ a b | .ucmpz cc _ a b => cc.okInt && (a.okUniform && b.okUniform)
  | .bra _ _ | .brx _ _ | .call _ _ | .callx _ _ | .ret _ | .exit _ | .split _ _ | .join _ _ | .wait _ _ _ => true
  | .waitmem _ _ ab _ => ab.okBase
  | .bari _ _ a => a.okEngine
  | .bara _ _ | .barw _ _ | .barrd _ _ _ | .qput _ _ _ | .nop => true
  | .ldg h _ | .ldx h _ | .ldf h _ | .ldc h _ => h.ab.okBase
  | .stg h sz | .stx h sz | .stf h sz => sz.okStore && h.ab.okBase
  | .atom h _ => h.ab.okBase
  | .atomn h af => af.okNoResult && h.ab.okBase
  | .fence _ o _ => o != .relaxed
  | .ifence _ _ => true
  | .allowInit h | .allowTake h | .allowGive h | .allowExact h | .allowProbe h
  | .cachePref h | .cacheClean h | .cacheDiscard h | .cacheIcinv h => h.ab.okBase
  | .xload h | .xstore h | .xmove h | .xfill h | .mldw h | .mstream h | .mzero h | .mstore h
  | .bxsend h | .bxrecv h | .bxcancel h | .bxstat h => h.a.okUniform
  | .xgather h | .kstat h | .kpack h | .kunpack h => h.a.okEngine
  | .xpub _ _ | .mclaim _ | .mrel _ | .mswap _ | .mstat _ _ | .hpop _ => true
  | .hinst h | .perform h | .resume h | .spawn h => h.a.okEngine
  | .drop _ _ a => a.okEngine
  | .segw a _ | .segr a _ | .csrr a _ | .csrw a _ => a.okUniform
  | .eret _ | .halt => true
  | .trap a | .intr a => a.okUniform
  | .hintImm _ | .hintImmx _ | .hintMod _ _ _ _ _ _ _ _ | .hintDly _ => true
  | .hintSched _ pv phase => pv || phase == 0
  | .completion _ | .transientFault _ | .uncorrectableError _ | .mergeAtHome _ _ | .atomicAtHome _ | .drainRequest _
  | .cleanByteExpiry _ | .leaseExpiry | .walkDone _ | .pageRequestResponse _ _ | .pageRequestTimeout _ | .xlFlush _ _
  | .flushDone | .powerGate _ | .unitWake _ | .allowHomeRequest _ | .slotReturn _ _ | .joinNotice _ | .hostSnoop _
  | .ownershipResponse _ _ | .backInvalidateDone _ | .hostWrite _ _ _ _ | .schedulingRound _ | .copyStart _
  | .claimGrant _ | .matrixOpStart _ _ | .bulkRequest _ _ _ _ _ | .requestRetry _ | .grantIssue _ | .grantArrival _ _
  | .bulkData _ _ _ _ | .grantExpiry _ _ | .pause _ | .bulkResume _ _ | .doneNotice _ | .truncatedNotice _
  | .orphanedNotice _ | .cancelledNotice _ _ | .peerFaultNotice _ _ | .sourcePathLoss _ | .sendUnreachable _
  | .linkFrame _ _ _ _ | .ackTimeout _ | .linkUpRetry _ | .linkUp _ _ _ _ _ | .notify _ _ _ | .slotRead _
  | .packetStart _ _ | .nopPacket _ _ | .launch _ _ | .graph _ _ | .barrierPacket _ _ | .signalPacket _ _
  | .packetComplete _ _ | .tickProposal _ _ | .startTick _ | .chipsetTimeout _ | .crewPlacement _ _ _ _ _
  | .kernelNode _ _ | .condNode _ _ | .signalNode _ _ | .xferNode _ _ | .noteNode _ _ | .nodeComplete _ _
  | .preemptDecision _ | .drainTimeout _ | .saveComplete _ | .restore _ _ _ _ | .occRead _ _ _ | .vectorTimer _
  | .vectorUnmask _ | .heartbeat _ | .heartbeatTimeout _ | .headLinkDown _ | .ceAdopt _ _ | .version _ | .queueCreate _
  | .queueDisable _ | .pasidRegister _ | .codeLoad _ | .imageStage _ _ | .evring _ | .tdiDefine _ | .dbgHalt _
  | .dbgRead _ | .dbgResume _ | .registerWrite _ _ _ | .reportAnswerTimeout _ | .spdmRequest _ _ | .tdiStop _ _
  | .sessionExpiry _ _ | .ideIntegrityFailure _ _ | .reset | .bringupStageDone _ | .powerLimit _ | .thermalThrottle
  | .thermalTrip | .patrolScrub _ | .serviceCoreFailure _ | .cycle _ | .tdispRequest _ _ _ | .hostUnreachableTimeout
  | .gangTermination _ _ _ => true

end Sys2Proof
end

