-- ==== Sys2Proof/Decode.lean ====
section
/-! DEFINITION. The decoder, total on every 32-bit word (R66 to R80), and the encoder beside it. The decoder makes the
checks 1 to 5 of R87 and the selector checks 0x08 and 0x09 of its sixth, in R87's order, and names the cause of the first
that fails. The checks that need the issuing group (a missing IMM, pairs, hints, privilege, immediate limits) are made at
issue. Fields are read with division and remainder on Nat. -/

namespace Sys2Proof

/-- What a word decodes to: an instruction, or the cause of the first check of R87 that fails. -/
inductive Decoded where
  | ok (i : Instr)
  | fault (c : Cause)
deriving DecidableEq, Repr

/-- The 4-bit guard code (R69). -/
def Guard.code : Guard → Nat
  | .all => 0
  | .unlessP d => d.val + 1
  | .ifP d => d.val + 8

/-- The guard of a 4-bit code; 15 has none (R69). -/
def guardOf (n : Nat) : Option Guard :=
  if n = 0 then some .all
  else if n < 8 then some (.unlessP (Fin.ofNat 7 (n - 1)))
  else if n < 15 then some (.ifP (Fin.ofNat 7 (n - 8)))
  else none

/-- The 7-bit selector code (R70). -/
def Sel.code : Sel → Nat
  | .v n => n.val
  | .g n => n.val + 64
  | .latch k => k.val + 96
  | .vx x => x.val + 100
  | .q n => n.val + 104
  | .int k => k.val + 112
  | .flt k => k.val + 120
  | .imm => 127

/-- The selector of a 7-bit code; 0x6C to 0x6F have none (R70). -/
def selOf (n : Nat) : Option Sel :=
  if n < 64 then some (.v (Fin.ofNat 64 n))
  else if n < 96 then some (.g (Fin.ofNat 32 (n - 64)))
  else if n < 100 then some (.latch (Fin.ofNat 4 (n - 96)))
  else if n < 104 then some (.vx (Fin.ofNat 4 (n - 100)))
  else if n < 108 then some (.q (Fin.ofNat 4 (n - 104)))
  else if n < 112 then none
  else if n < 120 then some (.int (Fin.ofNat 8 (n - 112)))
  else if n < 127 then some (.flt (Fin.ofNat 7 (n - 120)))
  else some .imm

/-- The condition code (R79). -/
def Cond.code : Cond → Nat
  | .eq => 0 | .ne => 1 | .lt => 2 | .le => 3 | .gt => 4 | .ge => 5 | .ord => 6 | .uno => 7 | .ueq => 8 | .ult => 9
  | .ule => 10 | .ugt => 11 | .uge => 12

/-- The condition of a code (R79). -/
def condOf : Nat → Option Cond
  | 0 => some .eq | 1 => some .ne | 2 => some .lt | 3 => some .le | 4 => some .gt | 5 => some .ge | 6 => some .ord
  | 7 => some .uno | 8 => some .ueq | 9 => some .ult | 10 => some .ule | 11 => some .ugt | 12 => some .uge | _ => none

/-- The push-mode code (R79). -/
def PushMode.code : PushMode → Nat
  | .push => 0 | .repl => 1 | .and => 2 | .or => 3 | .pushn => 4

/-- The push mode of a code (R79). -/
def pushModeOf : Nat → Option PushMode
  | 0 => some .push | 1 => some .repl | 2 => some .and | 3 => some .or | 4 => some .pushn | _ => none

/-- The SZ code (R67). -/
def Size.code : Size → Nat
  | .s8 => 0 | .z8 => 1 | .s16 => 2 | .z16 => 3 | .w32 => 4 | .w64 => 5 | .w128 => 6

/-- The size of an SZ code (R67). -/
def sizeOf? : Nat → Option Size
  | 0 => some .s8 | 1 => some .z8 | 2 => some .s16 | 3 => some .z16 | 4 => some .w32 | 5 => some .w64 | 6 => some .w128
  | _ => none

/-- The AF code (R79). -/
def AtomFn.code : AtomFn → Nat
  | .add => 0 | .sub => 1 | .mins => 2 | .maxs => 3 | .minz => 4 | .maxz => 5 | .and => 6 | .or => 7 | .xor => 8
  | .xchg => 9 | .cas => 10 | .fadd => 11 | .incw => 12 | .add64 => 13 | .cas64 => 14

/-- The function of an AF code; 0xF is reserved (R79). -/
def atomFnOf : Nat → Option AtomFn
  | 0 => some .add | 1 => some .sub | 2 => some .mins | 3 => some .maxs | 4 => some .minz | 5 => some .maxz
  | 6 => some .and | 7 => some .or | 8 => some .xor | 9 => some .xchg | 10 => some .cas | 11 => some .fadd
  | 12 => some .incw | 13 => some .add64 | 14 => some .cas64 | _ => none

/-- The ORD code (R74). -/
def Order.code : Order → Nat
  | .relaxed => 0 | .acq => 1 | .rel => 2 | .ar => 3

/-- The order of an ORD code (R74). -/
def orderOf : Nat → Option Order
  | 0 => some .relaxed | 1 => some .acq | 2 => some .rel | 3 => some .ar | _ => none

/-- The SCOPE code (R74). -/
def Scope.code : Scope → Nat
  | .core => 0 | .cluster => 1 | .die => 2 | .package => 3 | .system => 4

/-- The scope of a SCOPE code (R74). -/
def scopeOf : Nat → Option Scope
  | 0 => some .core | 1 => some .cluster | 2 => some .die | 3 => some .package | 4 => some .system | _ => none

/-- Check 3 of R87 on the guard field [24:21]: code 15 is cause 0x05 (R69). -/
def withGuard (w : Nat) (k : Guard → Decoded) : Decoded :=
  match guardOf (w / 2097152 % 16) with
  | some g => k g
  | none => .fault 0x05

/-- Check 3 of R87 on a word that must be unguarded: causes 0x05 and 0x06 (R69). -/
def noGuard (w : Nat) (k : Decoded) : Decoded :=
  if w / 2097152 % 16 = 15 then .fault 0x05 else if w / 2097152 % 16 = 0 then k else .fault 0x06

/-- A field that must be 0: cause 0x07 (R67). -/
def zeroField (n : Nat) (k : Decoded) : Decoded := if n = 0 then k else .fault 0x07

/-- NW = 1 where R84 forbids it: cause 0x17, in place of the cause 0x07 of a field that is not 0. -/
def noNw (w : Nat) (k : Decoded) : Decoded := if w / 1048576 % 2 = 0 then k else .fault 0x17

/-- One selector: 0x6C to 0x6F are cause 0x08, and a selector that the position does not accept is cause 0x09 (R70, R71). -/
def withSel (n : Nat) (ok : Sel → Bool) (k : Sel → Decoded) : Decoded :=
  match selOf n with
  | some a => if ok a then k a else .fault 0x09
  | none => .fault 0x08

/-- Two selectors of one kind of position: cause 0x08 of either comes before cause 0x09 (R87). -/
def withSel2 (m n : Nat) (ok : Sel → Bool) (k : Sel → Sel → Decoded) : Decoded :=
  match selOf m, selOf n with
  | some a, some b => if ok a && ok b then k a b else .fault 0x09
  | _, _ => .fault 0x08

/-- Guard, NW and D of formats A and I; with NW = 1, D must be 0 (R67). -/
def withLane (w : Nat) (k : LaneHdr → Decoded) : Decoded :=
  withGuard w fun g =>
    if w / 1048576 % 2 = 1 ∧ w / 16384 % 64 ≠ 0 then .fault 0x07
    else k ⟨g, w / 1048576 % 2 == 1, Fin.ofNat 64 (w / 16384)⟩

/-- Format A with two sources. -/
def decLane2 (w : Nat) (mk : LaneHdr → Sel → Sel → Instr) : Decoded :=
  withLane w fun h => withSel2 (w / 128 % 128) (w % 128) Sel.okLane fun a b => .ok (mk h a b)

/-- Format A with one source and B = 0 (R68). -/
def decLane1 (w : Nat) (mk : LaneHdr → Sel → Instr) : Decoded :=
  withLane w fun h => zeroField (w % 128) (withSel (w / 128 % 128) Sel.okLane fun a => .ok (mk h a))

/-- Format I with one source and IMM7. -/
def decLaneImm (w : Nat) (mk : LaneHdr → Sel → BitVec 7 → Instr) : Decoded :=
  withLane w fun h => withSel (w / 128 % 128) Sel.okLane fun a => .ok (mk h a (BitVec.ofNat 7 w))

/-- CVT: B is the conversion code; 0x1B to 0x7F are cause 0x0E (R106). -/
def decCvt (w : Nat) : Decoded :=
  withLane w fun h =>
    if w % 128 < 27 then
      withSel (w / 128 % 128) Sel.okLane fun a =>
        .ok (if w % 128 = 26 then .cvtFswap h a else .cvt h a (Fin.ofNat 26 (w % 128)))
    else .fault 0x0E

/-- MOVI: A and IMM7 are one 14-bit immediate (R68). -/
def decMovi (w : Nat) : Decoded := withLane w fun h => .ok (.movi h (BitVec.ofNat 14 w))

/-- Condition and push mode: causes 0x0B and 0x0C (R79). -/
def withCond (cc pm : Nat) (ok : Cond → Bool) (k : Cond → PushMode → Decoded) : Decoded :=
  match condOf cc with
  | some c =>
    if ok c then
      match pushModeOf pm with
      | some p => k c p
      | none => .fault 0x0C
    else .fault 0x0B
  | none => .fault 0x0B

/-- Format C. -/
def decCmp (w : Nat) (ok : Cond → Bool) (mk : CmpHdr → Sel → Sel → Instr) : Decoded :=
  withGuard w fun g => withCond (w / 131072 % 16) (w / 16384 % 8) ok fun c p =>
    withSel2 (w / 128 % 128) (w % 128) Sel.okLane fun a b => .ok (mk ⟨g, c, p⟩ a b)

/-- PSTK: CC is the function, and PM, A and B are 0 (R68, R79). -/
def decPstk (w : Nat) : Decoded :=
  withGuard w fun g => zeroField (w % 131072)
    (match w / 131072 % 16 with
    | 0 => .ok (.pdup g) | 1 => .ok (.pdrop g) | 2 => .ok (.pnot g) | 3 => .ok (.pand g) | 4 => .ok (.por g)
    | 5 => .ok (.pxor g) | 6 => .ok (.pswap g) | 7 => .ok (.pset0 g) | 8 => .ok (.pset1 g) | _ => .fault 0x0A)

/-- XCHG: IMM7[6:5] is the variant, and k is 0 for IDX (R68). -/
def decXchg (w : Nat) : Decoded :=
  withGuard w fun g =>
    noNw w (if w / 32 % 4 = 0 ∧ w % 32 ≠ 0 then .fault 0x07
    else withSel (w / 128 % 128) Sel.okLane fun a =>
      match w / 32 % 4 with
      | 0 => .ok (.xchgIdx g (Fin.ofNat 64 (w / 16384)) a)
      | 1 => .ok (.xchgUp g (Fin.ofNat 64 (w / 16384)) a (Fin.ofNat 32 w))
      | 2 => .ok (.xchgDown g (Fin.ofNat 64 (w / 16384)) a (Fin.ofNat 32 w))
      | _ => .ok (.xchgBfly g (Fin.ofNat 64 (w / 16384)) a (Fin.ofNat 32 w)))

/-- VOTE: D[19] is 0, B is the variant; A is a selector for EQ and a depth otherwise (R68). -/
def decVote (w : Nat) : Decoded :=
  withGuard w fun g => noNw w (zeroField (w / 524288 % 2)
    (match w % 128 with
    | 0 => .ok (.voteAll g (Fin.ofNat 32 (w / 16384)) (BitVec.ofNat 7 (w / 128)))
    | 1 => .ok (.voteAny g (Fin.ofNat 32 (w / 16384)) (BitVec.ofNat 7 (w / 128)))
    | 2 => withSel (w / 128 % 128) Sel.okLane fun a => .ok (.voteEq g (Fin.ofNat 32 (w / 16384)) a)
    | 3 => .ok (.voteBal g (Fin.ofNat 32 (w / 16384)) (BitVec.ofNat 7 (w / 128)))
    | _ => .fault 0x0A))

/-- XDEF (R68). -/
def decXdef (w : Nat) : Decoded :=
  withGuard w fun g => noNw w (zeroField (w / 65536 % 16 + w / 8192 % 2)
    (withSel (w % 128) Sel.okLane fun b => .ok (.xdef g (Fin.ofNat 4 (w / 16384)) (Fin.ofNat 64 (w / 128)) b)))

/-- XSET, XADD and QPUT (R68). -/
def decXset (w : Nat) (mk : Guard → Fin 4 → Sel → Instr) : Decoded :=
  withGuard w fun g => noNw w (zeroField (w / 65536 % 16 + w % 128)
    (withSel (w / 128 % 128) Sel.okLane fun a => .ok (mk g (Fin.ofNat 4 (w / 16384)) a)))

/-- SREAD: A[13:7] is the special register; 0x13 to 0x7F are cause 0x0F (R68, R121). -/
def decSread (w : Nat) : Decoded :=
  withLane w fun h => zeroField (w % 128)
    (if w / 128 % 128 < 19 then .ok (.sread h (Fin.ofNat 19 (w / 128 % 128))) else .fault 0x0F)

/-- TKRD: A[13:11] is 0 and A[10:7] the token (R68). -/
def decTkrd (w : Nat) : Decoded :=
  withLane w fun h => zeroField (w / 2048 % 8 + w % 128) (.ok (.tkrd h (Fin.ofNat 16 (w / 128))))

/-- NOP: [24:0] is 0 (R68, R84). -/
def decNop (w : Nat) : Decoded :=
  withGuard w fun g => noNw w (zeroField (g.code + w % 1048576) (.ok .nop))

/-- Format U with two sources. -/
def decUni (w : Nat) (mk : Fin 32 → Sel → Sel → Instr) : Decoded :=
  zeroField (w / 524288 % 64) (withSel2 (w / 128 % 128) (w % 128) Sel.okUniform fun a b =>
    .ok (mk (Fin.ofNat 32 (w / 16384)) a b))

/-- UMOV: B is 0 (R68). -/
def decUmov (w : Nat) : Decoded :=
  zeroField (w / 524288 % 64 + w % 128) (withSel (w / 128 % 128) Sel.okUniform fun a =>
    .ok (.umov (Fin.ofNat 32 (w / 16384)) a))

/-- UADDI: B is IMM7 (R68). -/
def decUaddi (w : Nat) : Decoded :=
  zeroField (w / 524288 % 64) (withSel (w / 128 % 128) Sel.okUniform fun a =>
    .ok (.uaddi (Fin.ofNat 32 (w / 16384)) a (BitVec.ofNat 7 w)))

/-- UCMPS and UCMPZ: [23:20] is CC, [19:17] PM, and [24] and [16:14] are 0 (R68). -/
def decUcmp (w : Nat) (mk : Cond → PushMode → Sel → Sel → Instr) : Decoded :=
  zeroField (w / 16777216 % 2 + w / 16384 % 8) (withCond (w / 1048576 % 16) (w / 131072 % 8) Cond.okInt fun c p =>
    withSel2 (w / 128 % 128) (w % 128) Sel.okUniform fun a b => .ok (mk c p a b))

/-- BRA and CALL, format J. -/
def decBranch (w : Nat) (mk : Guard → BitVec 21 → Instr) : Decoded :=
  withGuard w fun g => .ok (mk g (BitVec.ofNat 21 w))

/-- BRX and CALLX: D, NW and B are 0 (R68). -/
def decBrx (w : Nat) (mk : Guard → Sel → Instr) : Decoded :=
  withGuard w fun g => noNw w (zeroField (w / 16384 % 64 + w % 128)
    (withSel (w / 128 % 128) Sel.okLane fun a => .ok (mk g a)))

/-- RET and EXIT: DISP is 0 (R68). -/
def decRet (w : Nat) (mk : Guard → Instr) : Decoded := withGuard w fun g => zeroField (w % 2097152) (.ok (mk g))

/-- SPLIT and JOIN: DISP[20:3] is 0 (R68). -/
def decSplit (w : Nat) (mk : Guard → Fin 8 → Instr) : Decoded :=
  withGuard w fun g => zeroField (w / 8 % 262144) (.ok (mk g (Fin.ofNat 8 w)))

/-- WAIT: FN and A are 0, and B is the threshold (R68). -/
def decWait (w : Nat) : Decoded :=
  withGuard w fun g => zeroField (w / 64 % 2048) (.ok (.wait g (Fin.ofNat 16 (w / 131072)) (Fin.ofNat 64 w)))

/-- WAITMEM: K and bit 0 are 0, SZ is 4 or 5 (R68, R141). -/
def decWaitmem (w : Nat) : Decoded :=
  withGuard w fun g => zeroField (w / 131072 % 16 + w % 2)
    (if w / 4 % 4 = 2 then
      withSel (w / 16 % 128) Sel.okBase fun ab => .ok (.waitmem g (Fin.ofNat 64 (w / 2048)) ab (w / 2 % 2 == 1))
    else .fault 0x0D)

/-- BAR: FN is the variant (R68, R143). An unassigned FN requires only B[5] = 0 before its cause 0x0A. -/
def decBar (w : Nat) : Decoded :=
  withGuard w fun g => zeroField (w / 32 % 2)
    (match w / 8192 % 16 with
    | 0 => zeroField (w % 32) (withSel (w / 64 % 128) Sel.okEngine fun a => .ok (.bari g (Fin.ofNat 16 (w / 131072)) a))
    | 1 => zeroField (w % 8192) (.ok (.bara g (Fin.ofNat 16 (w / 131072))))
    | 2 => zeroField (w % 8192) (.ok (.barw g (Fin.ofNat 16 (w / 131072))))
    | 3 => zeroField (w / 64 % 128) (.ok (.barrd g (Fin.ofNat 16 (w / 131072)) (Fin.ofNat 32 w)))
    | _ => .fault 0x0A)

/-- Guard, token, D and address base of format M; the selector check runs with k's other checks before it made. -/
def withMem (w : Nat) (g : Guard) (k : MemHdr → Decoded) : Decoded :=
  withSel (w / 16 % 128) Sel.okBase fun ab => k ⟨g, Fin.ofNat 16 (w / 131072), Fin.ofNat 64 (w / 2048), ab⟩

/-- Loads and stores: bit 0 is 0; SZ 7 or a size not accepted is cause 0x0D (R67, R159). -/
def decMem (w : Nat) (ok : Size → Bool) (mk : MemHdr → Size → Instr) : Decoded :=
  withGuard w fun g => zeroField (w % 2)
    (match sizeOf? (w / 2 % 8) with
    | some sz => if ok sz then withMem w g fun h => .ok (mk h sz) else .fault 0x0D
    | none => .fault 0x0D)

/-- ATOM and ATOMN: [3:0] is the function AF (R67, R79). -/
def decAtom (w : Nat) (ok : AtomFn → Bool) (mk : MemHdr → AtomFn → Instr) : Decoded :=
  withGuard w fun g =>
    match atomFnOf (w % 16) with
    | some af => if ok af then withMem w g fun h => .ok (mk h af) else .fault 0x0A
    | none => .fault 0x0A

/-- FENCE and IFENCE: K, D[16], AB and bit 0 are 0; a bad SZ, order or scope is cause 0x0A (R68, R171, R172). -/
def decFence (w : Nat) : Decoded :=
  withGuard w fun g => zeroField (w / 65536 % 32 + w / 16 % 128 + w % 2)
    (match scopeOf (w / 2048 % 8), orderOf (w / 16384 % 4) with
    | some sc, some o =>
      match w / 2 % 8, o with
      | 0, .relaxed => .fault 0x0A
      | 0, .acq => .ok (.fence g .acq sc)
      | 0, .rel => .ok (.fence g .rel sc)
      | 0, .ar => .ok (.fence g .ar sc)
      | 1, .relaxed => .ok (.ifence g sc)
      | _, _ => .fault 0x0A
    | _, _ => .fault 0x0A)

/-- ALLOW: SZ is the function (R68, R188). -/
def decAllow (w : Nat) : Decoded :=
  withGuard w fun g => zeroField (w % 2)
    (match w / 2 % 8 with
    | 0 => withMem w g fun h => .ok (.allowInit h)
    | 1 => withMem w g fun h => .ok (.allowTake h)
    | 2 => withMem w g fun h => .ok (.allowGive h)
    | 3 => withMem w g fun h => .ok (.allowExact h)
    | 4 => withMem w g fun h => .ok (.allowProbe h)
    | _ => .fault 0x0A)

/-- CACHE: SZ is the function (R68, R174). -/
def decCache (w : Nat) : Decoded :=
  withGuard w fun g => zeroField (w % 2)
    (match w / 2 % 8 with
    | 0 => withMem w g fun h => .ok (.cachePref h)
    | 1 => withMem w g fun h => .ok (.cacheClean h)
    | 2 => withMem w g fun h => .ok (.cacheDiscard h)
    | 3 => withMem w g fun h => .ok (.cacheIcinv h)
    | _ => .fault 0x0A)

/-- An unguarded format E word: token, A and G register. -/
def withEng (w : Nat) (k : EngHdr → Decoded) : Decoded :=
  withSel (w / 64 % 128) Sel.okUniform fun a => k ⟨Fin.ofNat 16 (w / 131072), a, Fin.ofNat 32 w⟩

/-- A guarded format E word with a token. -/
def withGEng (w : Nat) (g : Guard) (k : GEngHdr → Decoded) : Decoded :=
  withSel (w / 64 % 128) Sel.okEngine fun a => k ⟨g, Fin.ofNat 16 (w / 131072), a, Fin.ofNat 32 w⟩

/-- An immediate EFFECT or SPAWN word, whose K is 0. -/
def withEff (w : Nat) (g : Guard) (k : EffHdr → Decoded) : Decoded :=
  zeroField (w / 131072 % 16) (withSel (w / 64 % 128) Sel.okEngine fun a => k ⟨g, a, Fin.ofNat 32 w⟩)

/-- XCOPY: XGATHER alone takes a guard (R69, R79, R242). An unassigned FN must be unguarded too. -/
def decXcopy (w : Nat) : Decoded :=
  if w / 8192 % 16 = 3 then
    withGuard w fun g => zeroField (w / 32 % 2) (withGEng w g fun h => .ok (.xgather h))
  else
    noGuard w (zeroField (w / 32 % 2)
      (match w / 8192 % 16 with
      | 0 => withEng w fun h => .ok (.xload h)
      | 1 => withEng w fun h => .ok (.xstore h)
      | 2 => withEng w fun h => .ok (.xmove h)
      | 4 => withEng w fun h => .ok (.xfill h)
      | _ => .fault 0x0A))

/-- XPUB: A is 0, FN is 0 or cause 0x0A (R68). -/
def decXpub (w : Nat) : Decoded :=
  noGuard w (zeroField (w / 32 % 256)
    (if w / 8192 % 16 = 0 then .ok (.xpub (Fin.ofNat 16 (w / 131072)) (Fin.ofNat 32 w)) else .fault 0x0A))

/-- MATRIX (R79, R262). -/
def decMatrix (w : Nat) : Decoded :=
  noGuard w (zeroField (w / 32 % 2)
    (match w / 8192 % 16 with
    | 0 => zeroField (w % 8192) (.ok (.mclaim (Fin.ofNat 16 (w / 131072))))
    | 1 => zeroField (w % 8192) (.ok (.mrel (Fin.ofNat 16 (w / 131072))))
    | 2 => withEng w fun h => .ok (.mldw h)
    | 3 => zeroField (w % 8192) (.ok (.mswap (Fin.ofNat 16 (w / 131072))))
    | 4 => withEng w fun h => .ok (.mstream h)
    | 5 => withEng w fun h => .ok (.mzero h)
    | 6 => withEng w fun h => .ok (.mstore h)
    | 7 => zeroField (w / 64 % 128) (.ok (.mstat (Fin.ofNat 16 (w / 131072)) (Fin.ofNat 32 w)))
    | _ => .fault 0x0A))

/-- BULK (R79, R288). -/
def decBulk (w : Nat) : Decoded :=
  noGuard w (zeroField (w / 32 % 2)
    (match w / 8192 % 16 with
    | 0 => withEng w fun h => .ok (.bxsend h)
    | 1 => withEng w fun h => .ok (.bxrecv h)
    | 2 => withEng w fun h => .ok (.bxcancel h)
    | 3 => withEng w fun h => .ok (.bxstat h)
    | _ => .fault 0x0A))

/-- EFFECT (R79, R321). -/
def decEffect (w : Nat) : Decoded :=
  withGuard w fun g => zeroField (w / 32 % 2)
    (match w / 8192 % 16 with
    | 0 => withEff w g fun h => .ok (.hinst h)
    | 1 => zeroField (w / 131072 % 16 + w % 8192) (.ok (.hpop g))
    | 2 => withEff w g fun h => .ok (.perform h)
    | 3 => withEff w g fun h => .ok (.resume h)
    | 4 => zeroField (w % 32) (withSel (w / 64 % 128) Sel.okEngine fun a => .ok (.drop g (Fin.ofNat 16 (w / 131072)) a))
    | 5 => withGEng w g fun h => .ok (.kstat h)
    | 6 => withGEng w g fun h => .ok (.kpack h)
    | 7 => withGEng w g fun h => .ok (.kunpack h)
    | _ => .fault 0x0A)

/-- SPAWN: FN is 0 or cause 0x0A (R68, R321). -/
def decSpawn (w : Nat) : Decoded :=
  withGuard w fun g => zeroField (w / 32 % 2 + w / 131072 % 16)
    (if w / 8192 % 16 = 0 then withEff w g fun h => .ok (.spawn h) else .fault 0x0A)

/-- SYS: K is 0 (R396). -/
def decSys (w : Nat) : Decoded :=
  noGuard w (zeroField (w / 32 % 2 + w / 131072 % 16)
    (match w / 8192 % 16 with
    | 0 => withSel (w / 64 % 128) Sel.okUniform fun a => .ok (.segw a (Fin.ofNat 32 w))
    | 1 => withSel (w / 64 % 128) Sel.okUniform fun a => .ok (.segr a (Fin.ofNat 32 w))
    | 2 => withSel (w / 64 % 128) Sel.okUniform fun a => .ok (.csrr a (Fin.ofNat 32 w))
    | 3 => withSel (w / 64 % 128) Sel.okUniform fun a => .ok (.csrw a (Fin.ofNat 32 w))
    | 4 => zeroField (w / 64 % 128) (.ok (.eret (Fin.ofNat 32 w)))
    | 5 => zeroField (w % 32) (withSel (w / 64 % 128) Sel.okUniform fun a => .ok (.trap a))
    | 6 => zeroField (w % 32) (withSel (w / 64 % 128) Sel.okUniform fun a => .ok (.intr a))
    | 7 => zeroField (w % 8192) (.ok .halt)
    | _ => .fault 0x0A))

/-- HINT words: KIND 5 to 7 are cause 0x11; payload bits that must be 0 and a PHASE without PV are cause 0x16 (R73). A
MOD payload is checked against its consumer (R74). -/
def decHint (w : Nat) : Decoded :=
  match w / 4194304 % 8 with
  | 0 => .ok (.hintImm (BitVec.ofNat 22 w))
  | 1 => if w / 1024 % 4096 = 0 then .ok (.hintImmx (BitVec.ofNat 10 w)) else .fault 0x16
  | 2 => .ok (.hintMod (BitVec.ofNat 6 (w / 65536)) (BitVec.ofNat 4 (w / 4096)) (w / 2048 % 2 == 1) (BitVec.ofNat 2 (w / 512))
      (BitVec.ofNat 3 (w / 64)) (BitVec.ofNat 3 (w / 8)) (w / 4 % 2 == 1) (BitVec.ofNat 2 w))
  | 3 =>
    if w / 64 % 65536 = 0 ∧ (w / 16 % 2 = 1 ∨ w % 16 = 0) then
      .ok (.hintSched (w / 32 % 2 == 1) (w / 16 % 2 == 1) (BitVec.ofNat 4 w))
    else .fault 0x16
  | 4 => if w / 32 % 131072 = 0 then .ok (.hintDly (BitVec.ofNat 5 w)) else .fault 0x16
  | _ => .fault 0x11

/-- The word of a major opcode (R78), checks 2 and on of R87. -/
def decodeOp (op w : Nat) : Decoded :=
  match op with
  | 0 => .fault 0x02
  | 1 => decLane2 w .iadd
  | 2 => decLane2 w .isub
  | 3 => decLane2 w .imul
  | 4 => decLane2 w .imulhs
  | 5 => decLane2 w .imulhz
  | 6 => decLane2 w .imad
  | 7 => decLane2 w .imins
  | 8 => decLane2 w .imaxs
  | 9 => decLane2 w .iminz
  | 10 => decLane2 w .imaxz
  | 11 => decLane1 w .iabs
  | 12 => decLane2 w .andL
  | 13 => decLane2 w .orL
  | 14 => decLane2 w .xorL
  | 15 => decLane2 w .andn
  | 16 => decLane2 w .shl
  | 17 => decLane2 w .shr
  | 18 => decLane2 w .sar
  | 19 => decLane2 w .rol
  | 20 => decLane2 w .bfxz
  | 21 => decLane2 w .bfxs
  | 22 => decLane2 w .bfi
  | 23 => decLane1 w .popc
  | 24 => decLane1 w .clz
  | 25 => decLane1 w .brev
  | 26 => decLane2 w .sel
  | 27 => decLane1 w .mov
  | 28 => decLaneImm w .iaddi
  | 29 => decLaneImm w .shli
  | 30 => decLaneImm w .shri
  | 31 => decLaneImm w .sari
  | 32 => decLane2 w .fadd
  | 33 => decLane2 w .fsub
  | 34 => decLane2 w .fmul
  | 35 => decLane2 w .ffma
  | 36 => decLane2 w .fmin
  | 37 => decLane2 w .fmax
  | 38 => decLane1 w .fabs
  | 39 => decLane1 w .fneg
  | 40 => decLane1 w .frcp
  | 41 => decLane1 w .frsq
  | 42 => decLane1 w .fsqrt
  | 43 => decLane2 w .fdiv
  | 44 => decLane1 w .fex2
  | 45 => decLane1 w .flg2
  | 46 => decLane1 w .fsin
  | 47 => decLane1 w .fcos
  | 48 => decLane1 w .frnd
  | 49 => decLane2 w .fcpys
  | 50 => decLane2 w .hadd2
  | 51 => decLane2 w .hmul2
  | 52 => decLane2 w .hfma2
  | 53 => decLane2 w .hmin2
  | 54 => decLane2 w .hmax2
  | 55 => decLane2 w .badd2
  | 56 => decLane2 w .bmul2
  | 57 => decLane2 w .bfma2
  | 58 => decLane2 w .bmin2
  | 59 => decLane2 w .bmax2
  | 60 => decCvt w
  | 61 => decLane2 w .pack
  | 62 => decLane2 w .prm
  | 63 => decMovi w
  | 64 => decCmp w Cond.okInt .icmps
  | 65 => decCmp w Cond.okInt .icmpz
  | 66 => decCmp w (fun _ => true) .fcmp
  | 67 => decCmp w Cond.okTest .itst
  | 68 => decPstk w
  | 69 => decXchg w
  | 70 => decVote w
  | 71 => decLane1 w .rfl
  | 72 => decXdef w
  | 73 => decXset w .xset
  | 74 => decXset w .xadd
  | 75 => decSread w
  | 76 => decUni w .uadd
  | 77 => decUni w .usub
  | 78 => decUni w .umul
  | 79 => decUni w .umad
  | 80 => decUni w .uand
  | 81 => decUni w .uor
  | 82 => decUni w .uxor
  | 83 => decUni w .ushl
  | 84 => decUni w .ushr
  | 85 => decUni w .usar
  | 86 => decUmov w
  | 87 => decUaddi w
  | 88 => decUcmp w .ucmps
  | 89 => decUcmp w .ucmpz
  | 90 => decUni w .usel
  | 91 => decUni w .uld
  | 92 => decBranch w .bra
  | 93 => decBrx w .brx
  | 94 => decBranch w .call
  | 95 => decBrx w .callx
  | 96 => decRet w .ret
  | 97 => decRet w .exit
  | 98 => decSplit w .split
  | 99 => decSplit w .join
  | 100 => decWait w
  | 101 => decWaitmem w
  | 102 => decBar w
  | 103 => decXset w .qput
  | 104 => decTkrd w
  | 105 => decNop w
  | 106 => decMem w (fun _ => true) .ldg
  | 107 => decMem w Size.okStore .stg
  | 108 => decMem w (fun _ => true) .ldx
  | 109 => decMem w Size.okStore .stx
  | 110 => decMem w (fun _ => true) .ldf
  | 111 => decMem w Size.okStore .stf
  | 112 => decMem w (fun _ => true) .ldc
  | 113 => decAtom w (fun _ => true) .atom
  | 114 => decAtom w AtomFn.okNoResult .atomn
  | 115 => decFence w
  | 116 => decAllow w
  | 117 => decCache w
  | 118 => decXcopy w
  | 119 => decXpub w
  | 120 => decMatrix w
  | 121 => decBulk w
  | 122 => decEffect w
  | 123 => decSpawn w
  | 124 => decSys w
  | 125 => .fault 0x04
  | 126 => decHint w
  | 127 => .fault 0x03
  | _ => .fault 0x04

/-- The decoder: the instruction of a 32-bit word, or the cause of the first failing check of R87. Check 1: the all-zero
word is cause 0x00 and the all-ones word cause 0x01. -/
def decodeWord (w : Nat) : Decoded :=
  if w = 0 then .fault 0x00
  else if w = 4294967295 then .fault 0x01
  else decodeOp (w / 33554432) w

/-- OP and guard. -/
def encGuard (op : Nat) (g : Guard) : Nat := op * 33554432 + g.code * 2097152

/-- OP, guard, NW and D of formats A and I, with A and B. -/
def encLane (op : Nat) (h : LaneHdr) (a b : Nat) : Nat :=
  encGuard op h.g + h.nw.toNat * 1048576 + h.d.val * 16384 + a * 128 + b

/-- Format C. -/
def encCmp (op : Nat) (h : CmpHdr) (a b : Sel) : Nat :=
  encGuard op h.g + h.cc.code * 131072 + h.pm.code * 16384 + a.code * 128 + b.code

/-- Format M with its low four bits. -/
def encMem (op : Nat) (h : MemHdr) (low : Nat) : Nat :=
  encGuard op h.g + h.k.val * 131072 + h.d.val * 2048 + h.ab.code * 16 + low

/-- An unguarded format E word. -/
def encEng (op fn : Nat) (h : EngHdr) : Nat :=
  op * 33554432 + h.k.val * 131072 + fn * 8192 + h.a.code * 64 + h.c.val

/-- A guarded format E word with a token. -/
def encGEng (op fn : Nat) (h : GEngHdr) : Nat :=
  encGuard op h.g + h.k.val * 131072 + fn * 8192 + h.a.code * 64 + h.b.val

/-- An immediate EFFECT or SPAWN word. -/
def encEff (op fn : Nat) (h : EffHdr) : Nat :=
  encGuard op h.g + fn * 8192 + h.a.code * 64 + h.b.val

/-- The encoder: the word of an instruction (R67, R68, R78, R79). An event has no word, and gives the all-zero word, which
is no instruction. -/
def encodeWord : Instr → Nat
  | .iadd h a b => encLane 1 h a.code b.code
  | .isub h a b => encLane 2 h a.code b.code
  | .imul h a b => encLane 3 h a.code b.code
  | .imulhs h a b => encLane 4 h a.code b.code
  | .imulhz h a b => encLane 5 h a.code b.code
  | .imad h a b => encLane 6 h a.code b.code
  | .imins h a b => encLane 7 h a.code b.code
  | .imaxs h a b => encLane 8 h a.code b.code
  | .iminz h a b => encLane 9 h a.code b.code
  | .imaxz h a b => encLane 10 h a.code b.code
  | .iabs h a => encLane 11 h a.code 0
  | .andL h a b => encLane 12 h a.code b.code
  | .orL h a b => encLane 13 h a.code b.code
  | .xorL h a b => encLane 14 h a.code b.code
  | .andn h a b => encLane 15 h a.code b.code
  | .shl h a b => encLane 16 h a.code b.code
  | .shr h a b => encLane 17 h a.code b.code
  | .sar h a b => encLane 18 h a.code b.code
  | .rol h a b => encLane 19 h a.code b.code
  | .bfxz h a b => encLane 20 h a.code b.code
  | .bfxs h a b => encLane 21 h a.code b.code
  | .bfi h a b => encLane 22 h a.code b.code
  | .popc h a => encLane 23 h a.code 0
  | .clz h a => encLane 24 h a.code 0
  | .brev h a => encLane 25 h a.code 0
  | .sel h a b => encLane 26 h a.code b.code
  | .mov h a => encLane 27 h a.code 0
  | .iaddi h a imm => encLane 28 h a.code imm.toNat
  | .shli h a imm => encLane 29 h a.code imm.toNat
  | .shri h a imm => encLane 30 h a.code imm.toNat
  | .sari h a imm => encLane 31 h a.code imm.toNat
  | .fadd h a b => encLane 32 h a.code b.code
  | .fsub h a b => encLane 33 h a.code b.code
  | .fmul h a b => encLane 34 h a.code b.code
  | .ffma h a b => encLane 35 h a.code b.code
  | .fmin h a b => encLane 36 h a.code b.code
  | .fmax h a b => encLane 37 h a.code b.code
  | .fabs h a => encLane 38 h a.code 0
  | .fneg h a => encLane 39 h a.code 0
  | .frcp h a => encLane 40 h a.code 0
  | .frsq h a => encLane 41 h a.code 0
  | .fsqrt h a => encLane 42 h a.code 0
  | .fdiv h a b => encLane 43 h a.code b.code
  | .fex2 h a => encLane 44 h a.code 0
  | .flg2 h a => encLane 45 h a.code 0
  | .fsin h a => encLane 46 h a.code 0
  | .fcos h a => encLane 47 h a.code 0
  | .frnd h a => encLane 48 h a.code 0
  | .fcpys h a b => encLane 49 h a.code b.code
  | .hadd2 h a b => encLane 50 h a.code b.code
  | .hmul2 h a b => encLane 51 h a.code b.code
  | .hfma2 h a b => encLane 52 h a.code b.code
  | .hmin2 h a b => encLane 53 h a.code b.code
  | .hmax2 h a b => encLane 54 h a.code b.code
  | .badd2 h a b => encLane 55 h a.code b.code
  | .bmul2 h a b => encLane 56 h a.code b.code
  | .bfma2 h a b => encLane 57 h a.code b.code
  | .bmin2 h a b => encLane 58 h a.code b.code
  | .bmax2 h a b => encLane 59 h a.code b.code
  | .cvt h a code => encLane 60 h a.code code.val
  | .cvtFswap h a => encLane 60 h a.code 26
  | .pack h a b => encLane 61 h a.code b.code
  | .prm h a b => encLane 62 h a.code b.code
  | .movi h imm => encLane 63 h 0 imm.toNat
  | .icmps h a b => encCmp 64 h a b
  | .icmpz h a b => encCmp 65 h a b
  | .fcmp h a b => encCmp 66 h a b
  | .itst h a b => encCmp 67 h a b
  | .pdup g => encGuard 68 g + 0 * 131072
  | .pdrop g => encGuard 68 g + 1 * 131072
  | .pnot g => encGuard 68 g + 2 * 131072
  | .pand g => encGuard 68 g + 3 * 131072
  | .por g => encGuard 68 g + 4 * 131072
  | .pxor g => encGuard 68 g + 5 * 131072
  | .pswap g => encGuard 68 g + 6 * 131072
  | .pset0 g => encGuard 68 g + 7 * 131072
  | .pset1 g => encGuard 68 g + 8 * 131072
  | .xchgIdx g d a => encGuard 69 g + d.val * 16384 + a.code * 128
  | .xchgUp g d a k => encGuard 69 g + d.val * 16384 + a.code * 128 + 32 + k.val
  | .xchgDown g d a k => encGuard 69 g + d.val * 16384 + a.code * 128 + 64 + k.val
  | .xchgBfly g d a k => encGuard 69 g + d.val * 16384 + a.code * 128 + 96 + k.val
  | .voteAll g d depth => encGuard 70 g + d.val * 16384 + depth.toNat * 128
  | .voteAny g d depth => encGuard 70 g + d.val * 16384 + depth.toNat * 128 + 1
  | .voteEq g d a => encGuard 70 g + d.val * 16384 + a.code * 128 + 2
  | .voteBal g d depth => encGuard 70 g + d.val * 16384 + depth.toNat * 128 + 3
  | .rfl h a => encLane 71 h a.code 0
  | .xdef g x base b => encGuard 72 g + x.val * 16384 + base.val * 128 + b.code
  | .xset g x a => encGuard 73 g + x.val * 16384 + a.code * 128
  | .xadd g x a => encGuard 74 g + x.val * 16384 + a.code * 128
  | .sread h reg => encLane 75 h reg.val 0
  | .uadd d a b => 76 * 33554432 + d.val * 16384 + a.code * 128 + b.code
  | .usub d a b => 77 * 33554432 + d.val * 16384 + a.code * 128 + b.code
  | .umul d a b => 78 * 33554432 + d.val * 16384 + a.code * 128 + b.code
  | .umad d a b => 79 * 33554432 + d.val * 16384 + a.code * 128 + b.code
  | .uand d a b => 80 * 33554432 + d.val * 16384 + a.code * 128 + b.code
  | .uor d a b => 81 * 33554432 + d.val * 16384 + a.code * 128 + b.code
  | .uxor d a b => 82 * 33554432 + d.val * 16384 + a.code * 128 + b.code
  | .ushl d a b => 83 * 33554432 + d.val * 16384 + a.code * 128 + b.code
  | .ushr d a b => 84 * 33554432 + d.val * 16384 + a.code * 128 + b.code
  | .usar d a b => 85 * 33554432 + d.val * 16384 + a.code * 128 + b.code
  | .umov d a => 86 * 33554432 + d.val * 16384 + a.code * 128
  | .uaddi d a imm => 87 * 33554432 + d.val * 16384 + a.code * 128 + imm.toNat
  | .ucmps cc pm a b => 88 * 33554432 + cc.code * 1048576 + pm.code * 131072 + a.code * 128 + b.code
  | .ucmpz cc pm a b => 89 * 33554432 + cc.code * 1048576 + pm.code * 131072 + a.code * 128 + b.code
  | .usel d a b => 90 * 33554432 + d.val * 16384 + a.code * 128 + b.code
  | .uld d a b => 91 * 33554432 + d.val * 16384 + a.code * 128 + b.code
  | .bra g disp => encGuard 92 g + disp.toNat
  | .brx g a => encGuard 93 g + a.code * 128
  | .call g disp => encGuard 94 g + disp.toNat
  | .callx g a => encGuard 95 g + a.code * 128
  | .ret g => encGuard 96 g
  | .exit g => encGuard 97 g
  | .split g j => encGuard 98 g + j.val
  | .join g j => encGuard 99 g + j.val
  | .wait g k t => encGuard 100 g + k.val * 131072 + t.val
  | .waitmem g d ab wide => encGuard 101 g + d.val * 2048 + ab.code * 16 + (if wide then 10 else 8)
  | .bari g n a => encGuard 102 g + n.val * 131072 + a.code * 64
  | .bara g n => encGuard 102 g + n.val * 131072 + 8192
  | .barw g n => encGuard 102 g + n.val * 131072 + 16384
  | .barrd g n d => encGuard 102 g + n.val * 131072 + 24576 + d.val
  | .qput g q a => encGuard 103 g + q.val * 16384 + a.code * 128
  | .tkrd h k => encLane 104 h k.val 0
  | .nop => 105 * 33554432
  | .ldg h sz => encMem 106 h (sz.code * 2)
  | .stg h sz => encMem 107 h (sz.code * 2)
  | .ldx h sz => encMem 108 h (sz.code * 2)
  | .stx h sz => encMem 109 h (sz.code * 2)
  | .ldf h sz => encMem 110 h (sz.code * 2)
  | .stf h sz => encMem 111 h (sz.code * 2)
  | .ldc h sz => encMem 112 h (sz.code * 2)
  | .atom h af => encMem 113 h af.code
  | .atomn h af => encMem 114 h af.code
  | .fence g o sc => encGuard 115 g + o.code * 16384 + sc.code * 2048
  | .ifence g sc => encGuard 115 g + sc.code * 2048 + 2
  | .allowInit h => encMem 116 h 0
  | .allowTake h => encMem 116 h 2
  | .allowGive h => encMem 116 h 4
  | .allowExact h => encMem 116 h 6
  | .allowProbe h => encMem 116 h 8
  | .cachePref h => encMem 117 h 0
  | .cacheClean h => encMem 117 h 2
  | .cacheDiscard h => encMem 117 h 4
  | .cacheIcinv h => encMem 117 h 6
  | .xload h => encEng 118 0 h
  | .xstore h => encEng 118 1 h
  | .xmove h => encEng 118 2 h
  | .xgather h => encGEng 118 3 h
  | .xfill h => encEng 118 4 h
  | .xpub k c => 119 * 33554432 + k.val * 131072 + c.val
  | .mclaim k => 120 * 33554432 + k.val * 131072 + 0
  | .mrel k => 120 * 33554432 + k.val * 131072 + 8192
  | .mldw h => encEng 120 2 h
  | .mswap k => 120 * 33554432 + k.val * 131072 + 24576
  | .mstream h => encEng 120 4 h
  | .mzero h => encEng 120 5 h
  | .mstore h => encEng 120 6 h
  | .mstat k c => 120 * 33554432 + k.val * 131072 + 57344 + c.val
  | .bxsend h => encEng 121 0 h
  | .bxrecv h => encEng 121 1 h
  | .bxcancel h => encEng 121 2 h
  | .bxstat h => encEng 121 3 h
  | .hinst h => encEff 122 0 h
  | .hpop g => encGuard 122 g + 8192
  | .perform h => encEff 122 2 h
  | .resume h => encEff 122 3 h
  | .drop g k a => encGuard 122 g + k.val * 131072 + 32768 + a.code * 64
  | .kstat h => encGEng 122 5 h
  | .kpack h => encGEng 122 6 h
  | .kunpack h => encGEng 122 7 h
  | .spawn h => encEff 123 0 h
  | .segw a c => 124 * 33554432 + 0 + a.code * 64 + c.val
  | .segr a c => 124 * 33554432 + 8192 + a.code * 64 + c.val
  | .csrr a c => 124 * 33554432 + 16384 + a.code * 64 + c.val
  | .csrw a c => 124 * 33554432 + 24576 + a.code * 64 + c.val
  | .eret c => 124 * 33554432 + 32768 + c.val
  | .trap a => 124 * 33554432 + 40960 + a.code * 64
  | .intr a => 124 * 33554432 + 49152 + a.code * 64
  | .halt => 124 * 33554432 + 57344
  | .hintImm imm => 126 * 33554432 + imm.toNat
  | .hintImmx imm => 126 * 33554432 + 4194304 + imm.toNat
  | .hintMod hi emod strict cp scope ord sat rm =>
    126 * 33554432 + 8388608 + hi.toNat * 65536 + emod.toNat * 4096 + strict.toNat * 2048 + cp.toNat * 512 + scope.toNat * 64
      + ord.toNat * 8 + sat.toNat * 4 + rm.toNat
  | .hintSched long pv phase => 126 * 33554432 + 12582912 + long.toNat * 32 + pv.toNat * 16 + phase.toNat
  | .hintDly n => 126 * 33554432 + 16777216 + n.toNat
  | .completion _ | .transientFault _ | .uncorrectableError _ | .mergeAtHome _ _ | .atomicAtHome _ | .drainRequest _
  | .cleanByteExpiry _ | .leaseExpiry | .walkDone _ | .pageRequestResponse _ _ | .pageRequestTimeout _ | .xlFlush _ _
  | .flushDone | .powerGate _ | .unitWake _ | .allowHomeRequest _ | .slotReturn _ _ | .joinNotice _ | .hostSnoop _
  | .ownershipResponse _ _ | .backInvalidateDone _ | .hostWrite _ _ _ _ | .schedulingRound _ | .copyStart _
  | .claimGrant _ | .matrixOpStart _ _ | .bulkRequest _ _ _ _ _ | .requestRetry _ | .grantIssue _ | .grantArrival _ _
  | .bulkData _ _ _ _ | .grantExpiry _ _ | .pause _ | .bulkResume _ _ | .doneNotice _ | .truncatedNotice _
  | .orphanedNotice _ | .cancelledNotice _ _ | .peerFaultNotice _ _ | .sourcePathLoss _ | .sendUnreachable _
  | .linkFrame _ _ _ _ | .ackTimeout _ | .linkUpRetry _ | .linkUp _ _ _ _ _ | .notify _ _ _ | .slotRead _
  | .packetStart _ _ | .nopPacket _ _ | .launch _ _ | .graph _ _ | .barrierPacket _ _ | .signalPacket _ _
  | .packetComplete _ _ | .tickProposal _ _ | .startTick _ | .chipsetTimeout _ | .crewPlacement _ _ _ _ _
  | .kernelNode _ _ | .condNode _ _ | .signalNode _ _ | .xferNode _ _ | .noteNode _ _ | .nodeComplete _ _
  | .preemptDecision _ | .drainTimeout _ | .saveComplete _ | .restore _ _ _ _ | .occRead _ _ _ | .vectorTimer _
  | .vectorUnmask _ | .heartbeat _ | .heartbeatTimeout _ | .headLinkDown _ | .ceAdopt _ _ | .version _ | .queueCreate _
  | .queueDisable _ | .pasidRegister _ | .codeLoad _ | .imageStage _ _ | .evring _ | .tdiDefine _ | .dbgHalt _
  | .dbgRead _ | .dbgResume _ | .registerWrite _ _ _ | .reportAnswerTimeout _ | .spdmRequest _ _ | .tdiStop _ _
  | .sessionExpiry _ _ | .ideIntegrityFailure _ _ | .reset | .bringupStageDone _ | .powerLimit _ | .thermalThrottle
  | .thermalTrip | .patrolScrub _ | .serviceCoreFailure _ | .cycle _ | .tdispRequest _ _ _ | .hostUnreachableTimeout
  | .gangTermination _ _ _ => 0
/-- The words of an instruction: its one word. -/
def encode (i : Instr) : List Word := [BitVec.ofNat 32 (encodeWord i)]

/-- The instruction that the decoder reads from the bits w of a table row; every word is 32 bits. -/
def decodeTableWord (nbits w : Nat) : Option Instr :=
  match decodeWord (w % 2 ^ nbits % 4294967296) with
  | .ok i => some i
  | .fault _ => none

/-- The word is a function header (R80): OP 0x7F, HSIG 0x1A5, bits [15:3] zero. -/
def isHeader (w : Nat) : Bool := w / 65536 == 65445 && w / 8 % 8192 == 0

/-- The budget a header states: 8 x (BUD + 1) (R80). -/
def headerBudget (w : Nat) : Nat := (w % 8 + 1) * 8

end Sys2Proof
end

