-- ==== Sys2Proof/Machine/Flags.lean ====
section
/-! DEFINITION. FSTAT (R63 to R65, R107): the register with its updates still inside their latency windows, the trap
decision, and the causes of arithmetic traps. -/

namespace Sys2Proof.Machine

/-- FSTAT after one update (R107): flags are set on top of a value that FSWAP wrote. -/
def FUpd.apply (u : FUpd) (v : Word) : Word := (u.swap.getD v) ||| u.flags

/-- FSTAT with every update of the own stream applied. -/
def Fibre.fstatNow (f : Fibre) : Word := f.fpend.foldl (fun v u => u.apply v) f.fstat

/-- FSTAT as a word at the fibre's position sees it (R107): an update inside its window is seen or not, freely. -/
def Fibre.fstatSeen (f : Fibre) (pick : Nat → Nat) : Word :=
  (f.fpend.foldl (fun (vi : Word × Nat) u =>
    (if u.due ≤ f.pos || pick vi.2 % 2 == 0 then u.apply vi.1 else vi.1, vi.2 + 1)) (f.fstat, 0)).1

/-- FSTAT's updates whose windows have closed, oldest first, are folded into its value. -/
def settleFstat (pos : Nat) : List FUpd → Word → List FUpd × Word
  | [], v => ([], v)
  | u :: us, v => if u.due ≤ pos then settleFstat pos us (u.apply v) else (u :: us, v)

/-- An update put among the pending ones in the order in which they are written. -/
def insertUpd (u : FUpd) : List FUpd → List FUpd
  | [] => [u]
  | w :: ws => if w.due ≤ u.due then w :: insertUpd u ws else u :: w :: ws

/-- An update added at the fibre's position with a latency. -/
def Fibre.updFstat (f : Fibre) (lat : Nat) (flags : Word) (swap : Option Word) : Fibre :=
  if flags = 0 ∧ swap = none then f
  else
    let (us, v) := settleFstat f.pos f.fpend f.fstat
    { f with fstat := v, fpend := insertUpd ⟨f.pos + lat, flags, swap⟩ us }

/-- Flags set by a word that waits (R122), on top of every update of an earlier word. -/
def Fibre.setFlags (f : Fibre) (flags : Word) : Fibre :=
  if flags = 0 then f
  else match settleFstat f.pos f.fpend f.fstat with
    | ([], v) => { f with fstat := v ||| flags, fpend := [] }
    | (us, v) => { f with fstat := v, fpend := us ++ [⟨f.pos, flags, none⟩] }

/-- FSTAT settled: every fixed-latency result written (R83). -/
def Fibre.settled (f : Fibre) : Fibre := { f with fstat := f.fstatNow, fpend := [] }

/-- The exceptions whose traps are enabled: flags [4:0] against enables [12:8] (R64). -/
def trapSet (exc enables : Word) : Word := exc &&& (enables >>> 8) &&& 0x1F

/-- The cause of the lowest trap of a nonempty set (R64): 0x20 invalid to 0x24 inexact. -/
def trapCause (t : Word) : Cause :=
  if t &&& 1 ≠ 0 then 0x20 else if t &&& 2 ≠ 0 then 0x21 else if t &&& 4 ≠ 0 then 0x22
  else if t &&& 8 ≠ 0 then 0x23 else 0x24

/-- The flag that the cause of an atomic's arithmetic error names (R122), or 0. -/
def atomFlag (c : Cause) : Word :=
  if c = 0x25 ∨ c = 0x29 then 1 else if c = 0x26 ∨ c = 0x2A then 4
  else if c = 0x27 ∨ c = 0x2B then 8 else if c = 0x28 ∨ c = 0x2C then 16 else 0

/-- The reserved bits of FSTAT (R63): [31:13] and [7:5]. -/
def fstatReserved : Word := 0xFFFFE0E0

end Sys2Proof.Machine
end

