-- ==== Sys2Proof/Machine/Memory.lean ====
section
/-! DEFINITION. The three memories: device, host and scratchpad (R12, R153, R155). An unlisted address reads 0 (log entry 4). Physical addresses
below 768 GiB are device memory, those with bit 55 set lie in the memory of peer chips, the others in the memory of the host that the head
of the PASID serves (log entry 7). -/

namespace Sys2Proof.Machine

/-- The byte at an address. -/
def memRead : Mem → Nat → Byte
  | [], _ => 0
  | (a, b) :: m, k => if k = a then b else memRead m k

/-- The memory with a byte written; writing 0 removes the entry, which keeps the form canonical. -/
def memWrite : Mem → Nat → Byte → Mem
  | [], k, v => if v = 0 then [] else [(k, v)]
  | (a, b) :: m, k, v =>
    if k < a then (if v = 0 then (a, b) :: m else (k, v) :: (a, b) :: m)
    else if k = a then (if v = 0 then m else (k, v) :: m)
    else (a, b) :: memWrite m k v

/-- Addresses strictly rising from a bound, and no byte equal to 0. -/
def memWfFrom : Nat → Mem → Bool
  | _, [] => true
  | lo, (a, b) :: m => decide (lo ≤ a) && b != 0 && memWfFrom (a + 1) m

/-- The canonical form of a memory. -/
def Memory.wf (m : Mem) : Bool := memWfFrom 0 m

/-- n bytes from an address on. -/
def memBytes (m : Mem) (a : Nat) : Nat → List Byte
  | 0 => []
  | n + 1 => memRead m a :: memBytes m (a + 1) n

/-- Bytes written from an address on. -/
def memWrites (m : Mem) (a : Nat) : List Byte → Mem
  | [] => m
  | b :: bs => memWrites (memWrite m a b) (a + 1) bs

/-- The physical address lies in device memory (R153, R387; log entry 7). -/
def isDevice (pa : Nat) : Bool := Config.hdmBase ≤ pa && decide (pa < Config.hdmBase + Config.deviceBytes)

/-- The physical address lies in the memory of a peer chip: bit 55 of the address of a page-table entry is set (R217; log entry 122). -/
def isPeer (pa : Nat) : Bool := decide (pa < 2 ^ 56) && pa / 2 ^ 55 == 1

/-- The chip to which a peer address belongs: bits [54:40]. -/
def peerChip (pa : Nat) : Nat := pa / 2 ^ 40 % 2 ^ 15

/-- The physical address lies in host memory, whose home is a proxy home (R153). -/
def isHost (pa : Nat) : Bool := !isDevice pa && !isPeer pa

/-- An address of the memory of the host at a head: each head has a host memory of its own (R153). -/
def hostPa (head a : Nat) : Nat := 2 ^ 56 * head + a

/-- The head whose host memory holds an address. -/
def hostHead (pa : Nat) : Nat := pa / 2 ^ 56

/-- The place that an address of a page-table entry names for a PASID: device memory, also where it is written as the chip's own peer
address, a peer chip's memory, or the memory of the host at the head bound to the PASID (R153). -/
def State.physOf (s : State) (pasid a : Nat) : Nat :=
  if isDevice a then a
  else if isPeer a then
    if peerChip a = s.sysId ∧ isDevice (a % 2 ^ 40) = true then a % 2 ^ 40 else a
  else hostPa (((kget s.pasids pasid).map Pasid.head).getD 0) a

/-- The byte at a physical address, at its home; what peer chips hold is kept beside what the hosts hold. -/
def State.readPa (s : State) (pa : Nat) : Byte := if isDevice pa then memRead s.dev pa else memRead s.host pa

/-- A byte stored at a physical address, at its home. -/
def State.writePa (s : State) (pa : Nat) (b : Byte) : State :=
  if isDevice pa then { s with dev := memWrite s.dev pa b } else { s with host := memWrite s.host pa b }

/-- n bytes at a physical address, at their homes. -/
def State.readPas (s : State) (pa n : Nat) : List Byte := (List.range n).map fun i => s.readPa (pa + i)

/-- Bytes stored from a physical address on. -/
def State.writePas (s : State) (pa : Nat) (bs : List Byte) : State :=
  (bs.foldl (fun (t : State × Nat) b => (t.1.writePa t.2 b, t.2 + 1)) (s, pa)).1

/-- A little-endian number of n bytes at a physical address. -/
def State.readNat (s : State) (pa n : Nat) : Nat := leNat (s.readPas pa n)

/-- The key of a scratchpad byte: cluster and byte address in its scratchpad. -/
def scratchKey (cluster addr : Nat) : Nat := cluster * Config.scratchBytes + addr

/-- n bytes of a cluster's scratchpad. -/
def State.readScratch (s : State) (cluster addr n : Nat) : List Byte := memBytes s.scratch (scratchKey cluster addr) n

/-- The first key of the releases of scratchpad bytes, above every physical address. -/
def scratchTagBase : Nat := 2 ^ 64

/-- The key under which the releases that a scratchpad byte carries are kept, beside those of physical addresses. -/
def scratchTag (cluster addr : Nat) : Nat := scratchTagBase + scratchKey cluster addr

/-- Bytes stored to a cluster's scratchpad. -/
def State.writeScratch (s : State) (cluster addr : Nat) (bs : List Byte) : State :=
  let k := scratchKey cluster addr
  { s with scratch := memWrites s.scratch k bs
           tags := s.tags.filter fun e => !(decide (scratchTagBase + k ≤ e.1) && decide (e.1 < scratchTagBase + k + bs.length))
           poisonScratch := s.poisonScratch.filter fun a => !(decide (k ≤ a) && decide (a < k + bs.length)) }

/-- A byte of the scratchpads lies in a bank of a cluster (R166). -/
def inBank (cluster bank key : Nat) : Bool := key / Config.scratchBytes == cluster && key % Config.scratchBytes / 16 % 32 == bank

/-- A gated unit woken: a scratchpad bank reads as zero (R168). -/
def State.wake (s : State) (u : GateUnit) : State :=
  let t := { s with gated := s.gated.filter fun g => g != u }
  match u with
  | .scratchBank cluster bank =>
    { t with scratch := t.scratch.filter fun b => !inBank cluster bank b.1
             poisonScratch := t.poisonScratch.filter fun a => !inBank cluster bank a
             tags := t.tags.filter fun e => !(decide (scratchTagBase ≤ e.1) && inBank cluster bank (e.1 - scratchTagBase)) }
  | .l1Way _ _ | .l2Way _ _ => t

/-- A unit is a bank of a cluster that holds one of n bytes of its scratchpad. -/
def gateCovers (u : GateUnit) (cluster addr n : Nat) : Bool :=
  match u with
  | .scratchBank c b => c == cluster && (List.range (min n 512)).any fun i => (addr + i) / 16 % 32 == b
  | .l1Way _ _ | .l2Way _ _ => false

/-- The gated banks that an access to n bytes of a cluster's scratchpad reaches woken before it (R168; log entry 141). -/
def State.wakeRange (s : State) (cluster addr n : Nat) : State :=
  (s.gated.filter fun u => gateCovers u cluster addr n).foldl State.wake s

/-- The compute die of a core (R13). -/
def dieOf (core : Nat) : Nat := core / 96

/-- The cluster of a core, numbered over the package (R13). -/
def clusterOf (core : Nat) : Nat := core / 4

/-- A core's position in its cluster (R13). -/
def positionOf (core : Nat) : Nat := core % 4

/-- The core at a column and row of a die's core mesh (R13). -/
def coreAt (die x y : Nat) : Nat := 96 * die + 4 * ((y / 2) * 6 + x / 2) + (y % 2) * 2 + x % 2

/-- The die whose L2 is the home of a device line, the HBM stacks dealt out by line (R153); the interleave is not stated. -/
def homeDie (pa : Nat) : Nat := pa / 128 % 8

/-- The state of a core. -/
def State.core (s : State) (c : Nat) : Core := kgetD s.cores c {}

/-- The state with a function applied to a core. -/
def State.modCore (s : State) (c : Nat) (f : Core → Core) : State := { s with cores := kset s.cores c (f (s.core c)) }

/-- The state of a cluster. -/
def State.cluster (s : State) (c : Nat) : Cluster := kgetD s.clusters c {}

/-- The state with a function applied to a cluster. -/
def State.modCluster (s : State) (c : Nat) (f : Cluster → Cluster) : State :=
  { s with clusters := kset s.clusters c (f (s.cluster c)) }

/-- The state of a die. -/
def State.die (s : State) (d : Nat) : Die := kgetD s.dies d {}

/-- The state with a function applied to a die. -/
def State.modDie (s : State) (d : Nat) (f : Die → Die) : State := { s with dies := kset s.dies d (f (s.die d)) }

/-- A crew; one that is no more counts as ended. -/
def State.crew (s : State) (c : Nat) : Crew := kgetD s.crews c { life := .ended }

/-- The state with a function applied to a crew that exists. -/
def State.modCrew (s : State) (c : Nat) (f : Crew → Crew) : State := { s with crews := kmod s.crews c f }

/-- A fibre of a crew. -/
def Crew.fibre (c : Crew) (fid : Nat) : Fibre := kgetD c.fibres fid {}

/-- The crew with a function applied to a fibre that exists. -/
def Crew.modFibre (c : Crew) (fid : Nat) (f : Fibre → Fibre) : Crew := { c with fibres := kmod c.fibres fid f }

/-- The state with a function applied to a fibre. -/
def State.modFibre (s : State) (crew fid : Nat) (f : Fibre → Fibre) : State := s.modCrew crew fun c => c.modFibre fid f

/-- A fibre's register. -/
def Fibre.getV (f : Fibre) (n : Nat) : Word := kgetD f.v n 0

/-- A crew's uniform register. -/
def Crew.getG (c : Crew) (n : Nat) : Word := kgetD c.g n 0

/-- A fibre's token. -/
def Fibre.tok (f : Fibre) (n : Nat) : Tok := kgetD f.k n {}

/-- A barrier. -/
def Crew.bar (c : Crew) (n : Nat) : Barrier := kgetD c.bars n {}

/-- The free value counter moved on, so that a later use of a free value differs. -/
def State.bump (s : State) : State := { s with free := s.free + 1 }

/-- A fresh identifier. -/
def State.fresh (s : State) : Nat × State := (s.nextId, { s with nextId := s.nextId + 1 })

end Sys2Proof.Machine
end

