-- ==== Sys2Proof/Machine/Links.lean ====
section
/-! DEFINITION. The chip-to-chip links as their users see them (R287, R307, R308): which ports reach a chip, the frames of a message, and
the sending of frames. -/

namespace Sys2Proof.Machine

/-- The ports that reach a chip: those that the state's routes name, or every port where they name none (R308; log entry 126). -/
def State.reach (s : State) (chip port : Nat) : Bool :=
  match kget s.routes chip with
  | some l => l.contains port
  | none => true

/-- There is a working path to a chip: some port that reaches it is up (R308). -/
def State.hasPath (s : State) (chip : Nat) : Bool := s.ports.any fun p => p.2.up && s.reach chip p.1

/-- The tick since which no port that reaches a chip has been up. -/
def State.pathLost (s : State) (chip : Nat) : Nat :=
  (s.ports.filter fun p => s.reach chip p.1).foldl (fun t p => max t p.2.downAt) 0

/-- A chip has had no working path for 2 ms (R292, R299, R308). -/
def State.pathGone (s : State) (chip : Nat) : Bool := !s.hasPath chip && decide (s.pathLost chip + 2000000 ≤ s.tick)

/-- The transport frames of a message, of up to 4 KiB of payload each (R307). -/
def LinkMsg.frames : LinkMsg → Nat
  | .request _ _ _ bs | .data _ _ _ bs => max 1 (ceilDiv bs.length 4096)
  | .grant _ _ | .pause _ | .resume _ _ | .done _ | .truncated _ | .orphaned _ | .cancelled _ _ | .peerFault _ _ | .refuse _
  | .launch _ _ _ _ _ | .tick _ _ | .start _ _ | .gangEnded _ | .gangTerminated _ | .read _ _ _ | .write _ _ _ _ | .value _ _ _ _ | .failed _ _ _
  | .raced _ _ _ _ _ => 1

/-- Unacknowledged frames that a port keeps (R307). -/
def portFrames : Nat := 256

/-- The waiting frames of a port sent, as far as it keeps unacknowledged ones (R307). -/
def Port.fill (p : Port) (now : Nat) : Port :=
  let l := p.waiting.take (portFrames - p.unacked.length)
  { p with unacked := p.unacked ++ l.zipIdx.map fun c => ((p.sendSeq + c.2) % 65536, c.1)
           waiting := p.waiting.drop l.length
           sendSeq := (p.sendSeq + l.length) % 65536
           sentAt := if p.unacked.isEmpty then now else p.sentAt }

/-- n more frames to a chip given to a port. -/
def Port.sendFrames (p : Port) (now chip n : Nat) : Port := { p with waiting := p.waiting ++ List.replicate n chip }.fill now

/-- The port on which frames to a chip go: the first one up that reaches it, or, with no working path, the first that reaches it, where
they wait. -/
def State.portFor (s : State) (chip : Nat) : Option (Nat × Port) :=
  match kfind s.ports fun k p => p.up && s.reach chip k with
  | some x => some x
  | none => kfind s.ports fun k _ => s.reach chip k

/-- Frames to a chip sent on a port that reaches it. -/
def State.sendFrames (s : State) (chip n : Nat) : State :=
  match s.portFor chip with
  | some (k, p) =>
    { s with ports := kset s.ports k (if p.up then p.sendFrames s.tick chip n
                                      else { p with waiting := p.waiting ++ List.replicate n chip }) }
  | none => s

/-- A message given to the links, or to the chip itself. -/
def State.tellChip (s : State) (chip : Nat) (m : LinkMsg) : State :=
  let t := { s with linkOut := s.linkOut ++ [(chip, m)] }
  if chip = s.sysId then t else t.sendFrames chip m.frames

end Sys2Proof.Machine
end

