-- ==== Sys2Proof/Machine/Cache.lean ====
section
/-! DEFINITION. Caches and homes (R195 to R217): L1 and write-combining lines, merges and their race checks, ownership of host
lines, drains, releases, acquires, and the closing of open entries. What may fail answers the state with the cause, or none. -/

namespace Sys2Proof.Machine

/-! ## Agents and scopes -/

/-- The agent through which a core's accesses are made (R167, R195). -/
def State.agentOf (s : State) (core : Nat) : Nat :=
  if core < 768 && (s.cluster (clusterOf core)).fused then 1000 + clusterOf core else core

/-- The agent of a cluster's copy engine (R195). -/
def copyAgent (cluster : Nat) : Nat := 2000 + cluster
/-- The agent of a bulk transfer engine (R195). -/
def bulkAgent (io : Nat) : Nat := 3000 + io
/-- The agent of the page walker of a die (R195); that of the engines' walks is 4008 (log entry 127). -/
def walkAgent (die : Nat) : Nat := 4000 + die
/-- The agent of a host head (R195). -/
def headAgent (head : Nat) : Nat := 5000 + head
/-- The agent of a unit of a peer chip (R217): agents are identified by chip and unit. -/
def peerAgent (chip unit : Nat) : Nat := 10000 * (chip + 1) + unit % 10000

/-- The chip of an agent: 0 for this chip, and the number of a peer with 1 added. -/
def chipOf (a : Nat) : Nat := a / 10000

/-- An agent of a host. -/
def isHeadAgent (a : Nat) : Bool := 5000 ≤ a && decide (a < 10000)

/-- A core that belongs to an agent of cores. -/
def agentCore (a : Nat) : Nat := if 1000 ≤ a ∧ a < 2000 then (a - 1000) * 4 else a

/-- A core where a releaser stands: a core itself, or a copy engine's cluster. -/
def placeOf (c : Nat) : Nat := if 2000 ≤ c ∧ c < 3000 then (c - 2000) * 4 else c

/-- The chip number of an agent's package. -/
def State.chipNumber (s : State) (a : Nat) : Nat := if chipOf a = 0 then s.sysId else chipOf a - 1

/-- Core or engine o lies in the instance of core or engine c at a scope (R167, R196, R217): SYSTEM takes in the package, the peer chips of
the chip set of c's gang, and the hosts, PACKAGE what is on the chip, and the narrower scopes cores and copy engines. A host thread has no
gang, and its instance takes in every chip (R216). -/
def State.inScope (s : State) (c : Nat) (sc : Scope) (chips : List Nat) (o : Nat) : Bool :=
  let near := decide (c < 3000) && decide (o < 3000)
  match sc with
  | .core => s.agentOf c == s.agentOf o
  | .cluster => c == o || (near && clusterOf (placeOf c) == clusterOf (placeOf o))
  | .die => c == o || (near && dieOf (placeOf c) == dieOf (placeOf o))
  | .package => c == o || (chipOf c == chipOf o && !isHeadAgent c && !isHeadAgent o)
  | .system => chipOf c == chipOf o || isHeadAgent c || isHeadAgent o || chips.contains (s.chipNumber o)

/-- The entry names the agent (R202, R203, R206). -/
def RelEntry.names (e : RelEntry) (a : Nat) : Bool :=
  match e.who with
  | .agent b => a == b
  | .dies ds => decide (a < 2000) && ds.contains (dieOf (agentCore a))
  | .cluster c => decide (a < 2000) && clusterOf (agentCore a) == c

/-- Scopes in their order, CORE to SYSTEM (R196). -/
def scopeNum : Scope → Nat
  | .core => 0 | .cluster => 1 | .die => 2 | .package => 3 | .system => 4

/-- The wider of two scopes. -/
def scopeMax (a b : Scope) : Scope := if scopeNum a ≤ scopeNum b then b else a

/-- The dies that an entry names. -/
def RelEntry.dies (e : RelEntry) : List Nat :=
  match e.who with
  | .agent a => [dieOf (agentCore a)]
  | .dies ds => ds
  | .cluster c => [c / 24]

/-- An entry added to a record of up to n: one more replaces them all with every core of their dies, at the widest scope
(R202, R203). -/
def addEntry (n : Nat) (l : List RelEntry) (e : RelEntry) : List RelEntry :=
  if l.contains e then l
  else if l.length < n then l ++ [e]
  else
    let all := l ++ [e]
    [⟨.dies ((all.flatMap RelEntry.dies).eraseDups), all.foldl (fun sc x => scopeMax sc x.scope) .core⟩]

/-- The release tags of a list with another added, without repeats. -/
def addTags (l m : List RelTag) : List RelTag := m.foldl (fun acc t => if acc.contains t then acc else acc ++ [t]) l

/-- An agent's caches. -/
def State.agent (s : State) (a : Nat) : Agent := kgetD s.agents a {}

/-- The state with a function applied to an agent. -/
def State.modAgent (s : State) (a : Nat) (f : Agent → Agent) : State := { s with agents := kset s.agents a (f (s.agent a)) }

/-- What a home keeps for a line. -/
def State.home (s : State) (line : Nat) : HomeLine := kgetD s.homes line {}

/-- The state with a function applied to a home line. -/
def State.modHome (s : State) (line : Nat) (f : HomeLine → HomeLine) : State :=
  { s with homes := kset s.homes line (f (s.home line)) }

/-- An empty L1 line. -/
def emptyLine : L1Line := ⟨[], none, [], 0⟩

/-! ## Race log (R210) -/

/-- A race event for a crew: its log holds 16 entries, and one more sets the lost flag. -/
def Crew.logRace (c : Crew) (e : RaceEntry) : Crew :=
  if c.raceLog.length < 16 then { c with raceLog := c.raceLog ++ [e] } else { c with raceLost := true }

/-! ## Ways to memory (R194, R217) -/

/-- The outcome of a change that may fail: the state, and the cause of a failure. -/
abbrev Tried := State × Option Cause

/-- Tries in order; the first cause is kept, and every one is made. -/
def State.tryAll {α : Type} (s : State) (l : List α) (f : State → α → Tried) : Tried :=
  l.foldl (fun (r : Tried) x => let u := f r.1 x; (u.1, match r.2 with | some c => some c | none => u.2)) (s, none)

/-- One try after another, where the first has not failed. -/
def Tried.andThen (r : Tried) (f : State → Tried) : Tried :=
  match r with
  | (s, none) => f s
  | (s, some c) => (s, some c)

/-- Why a physical address cannot be reached (R194): no working path to a peer chip, no host reachable for 2 ms, or a host abort. -/
def State.reachCause (s : State) (pa n : Nat) : Option Cause :=
  if isDevice pa then none
  else if isPeer pa then (if s.hasPath (peerChip pa) then none else some 0x5B)
  else if (s.hostDown.map fun t => decide (t + 2000000 ≤ s.tick)).getD false then some 0x57
  else if s.hostAbort.any fun a => pa ≤ a && decide (a < pa + n) then some 0x4C
  else none

/-- Whether any of n bytes at a physical address carries a poison mark (R409). -/
def State.poisoned (s : State) (pa n : Nat) : Bool := s.poisonDev.any fun a => pa ≤ a && decide (a < pa + n)

/-- Why data at a physical address cannot be read (R194, R409): poison, or no way to it. -/
def State.dataCause (s : State) (pa n : Nat) : Option Cause :=
  if s.poisoned pa n then some 0x4D else s.reachCause pa n

/-! ## Merges at homes (R207 to R209, R214) -/

/-- The bytes of a merge that overlap another agent's open entries of a kind. -/
def overlapOf (h : HomeLine) (a : Nat) (atomic : Bool) (bs : KMap L1Byte) : List Nat :=
  (kkeys bs).filter fun o => h.opens.any fun e => e.agent != a && e.atomic == atomic && (kget e.bytes o).isSome

/-- The agents other than a that hold open entries. -/
def otherAgents (h : HomeLine) (a : Nat) : List Nat :=
  ((h.opens.filter fun e => e.agent != a && !e.bytes.isEmpty).map OpenEntry.agent).eraseDups

/-- A's open entry of a kind extended with bytes and their release counts (R208). A plain and an atomic entry of one agent count as that
agent's (log entry 128). -/
def extendOpen (l : List OpenEntry) (a : Nat) (atomic : Bool) (bs : List (Nat × Nat)) : List OpenEntry :=
  if l.any fun e => e.agent == a && e.atomic == atomic then
    l.map fun e =>
      if e.agent == a && e.atomic == atomic then { e with bytes := bs.foldl (fun m b => kset m b.1 b.2) e.bytes } else e
  else l ++ [⟨a, atomic, bs.foldl (fun m b => kset m b.1 b.2) []⟩]

/-- A write to a byte of an allowance counter discards every slot for it (R187). -/
def State.dropCounter (s : State) (pa : Nat) : State :=
  let c := pa / 64 * 64
  match kget s.holders c with
  | none => s
  | some _ =>
    { s with holders := kdel s.holders c
             cores := kmap s.cores fun _ k => { k with slots := k.slots.filter fun x => x.addr != c } }

/-- What goes before a change of a line at its home: a back-invalidate snoop where a host may cache it (R215), and a request for ownership
of a host line that is not owned (R214). State.orSnoop sends what stands at the end of hostOut and puts off the change. -/
def State.claimLine (s : State) (line : Nat) : State :=
  let h := s.home line
  if h.shared then { s with hostOut := s.hostOut ++ [.backInvalidate line] }
  else if isHost (line * 128) && !h.owned then { s with hostOut := s.hostOut ++ [.ownRequest line] }
  else s

/-- A byte put at its home, with the releases that the value carries and its poison mark (R409), which is the CXL poison indication where the
home is a host's; ownership is no longer kept for it. -/
def State.placeByte (s : State) (pa : Nat) (b : L1Byte) : State :=
  let t := (s.dropCounter pa).writePa pa b.val
  let u := { t with tags := if b.tags.isEmpty then kdel t.tags pa else kset t.tags pa b.tags
                    poisonDev := let l := t.poisonDev.filter fun p => p != pa
                             if b.poison then l ++ [pa] else l }
  if (u.home (pa / 128)).keep then u.modHome (pa / 128) fun h => { h with keep := false } else u

/-- A byte applied at its home by an agent of the device. -/
def State.applyByte (s : State) (pa : Nat) (b : L1Byte) : State := (s.claimLine (pa / 128)).placeByte pa b

/-- Bytes applied at their homes from an address on. -/
def State.applyBytes (s : State) (pa : Nat) (l : List L1Byte) : State :=
  (l.foldl (fun (t : State × Nat) b => (t.1.applyByte t.2 b, t.2 + 1)) (s, pa)).1

/-- Bytes written at their homes by an engine of the device that is no agent of a race check: the frame engine and the allowance counters
(R186, R208, R215, R320). They go as any change does, and leave no poison mark. -/
def State.writeHome (s : State) (pa : Nat) (bs : List Byte) : State :=
  let t := (List.range ((pa + bs.length + 127) / 128 - pa / 128)).foldl (fun (u : State) i => u.claimLine (pa / 128 + i)) s
  { t.writePas pa bs with poisonDev := t.poisonDev.filter fun p => !(decide (pa ≤ p) && decide (p < pa + bs.length)) }

/-- The mask of byte offsets. -/
def maskOf (l : List Nat) : Nat := l.foldl (fun m o => m + 2 ^ o) 0

/-- Proxy records of an I/O die (R208). -/
def proxyRecords : Nat := 65536

/-- A line with a write record. -/
def HomeLine.recorded (h : HomeLine) : Bool := h.crowded || !h.opens.isEmpty

/-- Room for the write record of a host line on the I/O die of its head: with 65,536 in use, the least recently merged one is dropped
(R208). -/
def State.proxyRoom (s : State) (line : Nat) : State :=
  if !isHost (line * 128) || (s.home line).recorded then s
  else
    let l := s.homes.filter fun h => isHost (h.1 * 128) && hostHead (h.1 * 128) == hostHead (line * 128) && h.2.recorded
    if l.length < proxyRecords then s
    else match l.foldl (fun (m : Option (Nat × Nat)) h => match m with
        | some (k, t) => if h.2.last < t then some (h.1, h.2.last) else some (k, t)
        | none => some (h.1, h.2.last)) none with
      | some (k, _) => s.modHome k fun h => { h with opens := [], crowded := false }
      | none => s

/-- The write record after a write of an agent of a kind (R208): crowded from the moment a third agent writes. A byte that a release
followed with which another agent has synchronised already (number synced) opens nothing. -/
def HomeLine.note (h : HomeLine) (a : Nat) (atomic : Bool) (synced : Nat) (bs : List (Nat × Nat)) (now : Nat) : HomeLine :=
  let crowded := h.crowded || decide (2 ≤ (otherAgents h a).length)
  let new := bs.filter fun b => decide (synced ≤ b.2)
  { h with crowded := crowded
           opens := if new.isEmpty || crowded && !(h.opens.any fun e => e.agent == a) then h.opens else extendOpen h.opens a atomic new
           last := now }

/-- Why a merge or an atomic of a line fails (R194, R214): ownership refused 8 times, or no way to its home. -/
def State.mergeCause (s : State) (line : Nat) : Option Cause :=
  if isHost (line * 128) && decide (8 ≤ (s.home line).refusals) then some 0x5F else s.reachCause (line * 128) 128

/-- A failed change of a line: refusals are counted anew (R214). -/
def State.refuse (s : State) (line : Nat) (c : Cause) : Tried :=
  (if c = 0x5F then s.modHome line fun h => { h with refusals := 0 } else s, some c)

/-- The race event of dropped bytes, if there are any: it goes to the crew whose bytes they are, or to the peer chip of the agent
(R210, R217). -/
def State.raceEvent (s : State) (a : Nat) (crew : Option Nat) (line va other : Nat) (l : List Nat) (c : Cause) : State :=
  if l.isEmpty then s
  else match crew with
    | some w => s.modCrew w fun r => r.logRace ⟨va / 128 * 128, maskOf l, other, c⟩
    | none => if chipOf a = 0 then s else s.tellChip (chipOf a - 1) (.raced (a % 10000) line (maskOf l) other c)

/-- A merge of a peer chip's line sent over the links to its home (R217). -/
def State.tellMerge (s : State) (a line : Nat) (bs : KMap L1Byte) : State :=
  if isPeer (line * 128) && chipOf a == 0 then
    s.tellChip (peerChip (line * 128)) (.write a (line * 128) (bs.map fun b => (b.1, b.2.val)) ((bs.filter fun b => b.2.poison).map Prod.fst))
  else s

/-- A merge of an agent's bytes of a line at its home (R209): its home is an L2, a proxy home or a peer chip's home. -/
def State.merge (s : State) (a : Nat) (crew : Option Nat) (line va : Nat) (bs : KMap L1Byte) : Tried :=
  if bs.isEmpty then (s, none)
  else match s.mergeCause line with
  | some c => s.refuse line c
  | none =>
    let s0 := s.proxyRoom line
    let h := s0.home line
    let crowded := h.crowded || decide (2 ≤ (otherAgents h a).length)
    let plain := if crowded then [] else overlapOf h a false bs
    let atom := if crowded then [] else overlapOf h a true bs
    let keep := bs.filter fun b => !plain.contains b.1 && !atom.contains b.1
    let s1 := keep.foldl (fun t b => t.applyByte (line * 128 + b.1) b.2) s0
    let s2 := (s1.modHome line fun h => h.note a false (s.agent a).synced (bs.map fun b => (b.1, b.2.cnt)) s.tick).tellMerge a line keep
    let other := ((otherAgents h a).head?).getD 0
    ((s2.raceEvent a crew line va other plain (if isHost (line * 128) then 0x5A else 0x58)).raceEvent a crew line va other
      (atom.filter fun o => !plain.contains o) 0x5D, none)

/-- The dirty bytes of a line. -/
def L1Line.dirty (l : L1Line) : KMap L1Byte := l.bytes.filter fun b => b.2.dirty

/-- The line with every dirty byte made clean; its 8 µs run from the tick of its store (R213; log entry 129). -/
def L1Line.cleaned (l : L1Line) : L1Line := { l with bytes := kmap l.bytes fun _ b => { b with dirty := false }, writer := none }

/-- The lines of a map with a function applied at one, without those that hold no byte. -/
def modLine (m : KMap L1Line) (line : Nat) (f : L1Line → L1Line) : KMap L1Line := (kmod m line f).filter fun e => !e.2.bytes.isEmpty

/-- A line without its bytes [off, off + n). -/
def L1Line.without (l : L1Line) (off n : Nat) : L1Line :=
  { l with bytes := l.bytes.filter fun b => !(decide (off ≤ b.1) && decide (b.1 < off + n)) }

/-- A line without the bytes of another. -/
def L1Line.minus (l m : L1Line) : L1Line := { l with bytes := l.bytes.filter fun b => (kget m.bytes b.1).isNone }

/-- The dirty bytes of one L1 line merged at their home; they stay as clean bytes (R213). -/
def State.mergeLine (s : State) (a line : Nat) : Tried :=
  match kget (s.agent a).l1 line with
  | none => (s, none)
  | some l =>
    if l.dirty.isEmpty then (s, none)
    else (s.merge a l.writer line l.va l.dirty).andThen fun t =>
      (t.modAgent a fun g => { g with l1 := kmod g.l1 line L1Line.cleaned }, none)

/-- One line of the write-combining buffer merged at its home (R162); older clean bytes of it leave the L1. -/
def State.mergeWc (s : State) (a line : Nat) : Tried :=
  match kget (s.agent a).wc line with
  | none => (s, none)
  | some l => (s.merge a l.writer line l.va l.bytes).andThen fun t =>
      (t.modAgent a fun g => { g with wc := kdel g.wc line, l1 := modLine g.l1 line fun k => k.minus l }, none)

/-- A drain of an agent (R203, R204): every dirty byte of its L1 and of its write-combining buffer is merged at its home, and then its
entries leave every release record. An entry that names every core of some dies or of a cluster stays (log entry 130). -/
def State.drain (s : State) (a : Nat) : Tried :=
  ((s.tryAll (kkeys (s.agent a).l1) fun t line => t.mergeLine a line).andThen fun t =>
    t.tryAll (kkeys (t.agent a).wc) fun u line => u.mergeWc a line).andThen fun t =>
      let gone := fun (l : List RelEntry) => l.filter fun e => e.who != .agent a
      ({ t with homes := kmap t.homes fun _ h => { h with rel := gone h.rel }
                crews := kmap t.crews fun _ c => { c with bars := kmap c.bars fun _ b => { b with rel := gone b.rel } } }, none)

/-- Every clean byte of an agent's L1 is invalidated (R203). -/
def State.invalidate (s : State) (a : Nat) : State :=
  s.modAgent a fun g =>
    { g with l1 := (kmap g.l1 fun _ l => { l with bytes := l.dirty, rel := [] }).filter fun e => !e.2.bytes.isEmpty }

/-! ## Reads and writes of an agent -/

/-- An L1 byte that may still be read: a dirty byte, or a clean byte fetched at most 8 µs before now (R201). -/
def L1Byte.live (b : L1Byte) (now : Nat) : Bool := b.dirty || decide (now ≤ b.tick + 8000)

/-- The bytes of an L1 line that may still be read. -/
def L1Line.live (l : L1Line) (now : Nat) : L1Line := { l with bytes := l.bytes.filter fun b => b.2.live now }

/-- What a read returns: bytes, release record entries and releases carried. -/
structure ReadRes where
  bytes : List Byte
  rel : List RelEntry
  tags : List RelTag
deriving DecidableEq, Repr

/-- The byte as the agent sees it: its write-combining buffer, then its L1 (only dirty bytes when atHome), else the home. -/
def State.seeByte (s : State) (a pa : Nat) (atHome : Bool) : L1Byte :=
  let find := fun (m : KMap L1Line) => (kget m (pa / 128)).bind fun l => kget l.bytes (pa % 128)
  match find (s.agent a).wc with
  | some b => b
  | none =>
    match (find (s.agent a).l1).filter fun b => b.dirty || (!atHome && b.live s.tick) with
    | some b => b
    | none => ⟨s.readPa pa, false, 0, kgetD s.tags pa [], s.tick, s.poisonDev.contains pa⟩

/-- Lines of the L1 of one core (R12): 192 KiB. -/
def l1Lines : Nat := 1536

/-- The lines of an agent's L1 that share the L1 of one core with a line (R167): all of a core's, and in a fused cluster, whose lines are
each held in the L1 of core position (ea div 128) mod 4, those of its position; an address and its translation agree in these bits. -/
def State.roomMates (s : State) (a line : Nat) : List Nat :=
  (kkeys (s.agent a).l1).filter fun k => !(decide (1000 ≤ a) && decide (a < 2000)) || k % 4 == line % 4

/-- Room for a line in an agent's L1: with every line in use, one leaves it by eviction, its dirty bytes merged at their home (R201); which
one, the spec leaves open. -/
def State.makeRoom (s : State) (a line : Nat) : Tried :=
  let keys := s.roomMates a line
  if keys.contains line || decide (keys.length < l1Lines) then (s, none)
  else
    let k := keys.getD (Config.freeIndex s.free a line % keys.length) 0
    (s.mergeLine a k).andThen fun t => (t.modAgent a fun g => { g with l1 := kdel g.l1 k }, none)

/-- The bytes of a line at its home that a fill brings into an L1: those that can be read. -/
def State.fillBytes (s : State) (line : Nat) : KMap L1Byte :=
  ((List.range 128).filter fun i => (s.dataCause (line * 128 + i) 1).isNone).map fun i =>
    (i, ⟨s.readPa (line * 128 + i), false, 0, kgetD s.tags (line * 128 + i) [], s.tick, false⟩)

/-- A line filled from its home: the dirty bytes stay, and every other byte is fetched (R203). -/
def State.filled (s : State) (l : L1Line) (line : Nat) : L1Line :=
  { l with rel := (s.home line).rel, bytes := l.dirty.foldl (fun m b => kset m b.1 b.2) (s.fillBytes line) }

/-- The line's copies in an agent's L1 and write-combining buffer hold n bytes that may still be read (R201). -/
def State.l1Holds (s : State) (a pa n : Nat) : Bool :=
  let l := (kgetD (s.agent a).l1 (pa / 128) emptyLine).live s.tick
  let w := kgetD (s.agent a).wc (pa / 128) emptyLine
  (List.range n).all fun i => (kget l.bytes (pa % 128 + i)).isSome || (kget w.bytes (pa % 128 + i)).isSome

/-- A read of n bytes of one line by an agent (R199, R203, R213): served from the L1 when it holds them all and atHome is false, else at the
home. A read at the home brings the whole line into the L1 where alloc says so and there is room, and the older clean bytes of the line
leave it either way, so that no later read sees them. -/
def State.readLine (s : State) (a pa n : Nat) (atHome alloc : Bool) : State × ReadRes :=
  let line := pa / 128
  let l := kgetD (s.agent a).l1 line emptyLine
  if !atHome && s.l1Holds a pa n then
    let bs := (List.range n).map fun i => s.seeByte a (pa + i) false
    (s, ⟨bs.map L1Byte.val, l.rel, bs.foldl (fun m b => addTags m b.tags) []⟩)
  else
    let bs := (List.range n).map fun i => s.seeByte a (pa + i) true
    let res : ReadRes := ⟨bs.map L1Byte.val, (s.home line).rel, bs.foldl (fun m b => addTags m b.tags) []⟩
    match (if alloc then s.makeRoom a line else (s, some 0)) with
    | (t, none) => (t.modAgent a fun g => { g with l1 := kset g.l1 line (t.filled (kgetD g.l1 line emptyLine) line) }, res)
    | (_, some _) => (s.modAgent a fun g => { g with l1 := modLine g.l1 line fun l => { l with bytes := l.dirty } }, res)

/-- Bytes from an offset of a line on, as a writer leaves them. -/
def lineBytes (off : Nat) (bs : List Byte) (dirty : Bool) (cnt : Nat) (tags : List RelTag) (now : Nat) : KMap L1Byte :=
  bs.zipIdx.map fun b => (off + b.2, ⟨b.1, dirty, cnt, tags, now, false⟩)

/-- A line with bytes put over its own. -/
def L1Line.put (l : L1Line) (m : KMap L1Byte) : L1Line := { l with bytes := m.foldl (fun k b => kset k b.1 b.2) l.bytes }

/-- A line with bytes put over those of them that it holds. -/
def L1Line.update (l : L1Line) (m : KMap L1Byte) : L1Line :=
  { l with bytes := m.foldl (fun k b => if (kget k b.1).isSome then kset k b.1 b.2 else k) l.bytes }

/-- What goes before a store by a crew to a line, whatever its policy (R201): dirty bytes of another crew, in the L1 or in the
write-combining buffer, are merged first. -/
def State.handOver (s : State) (a : Nat) (crew : Option Nat) (line : Nat) : Tried :=
  let l := kgetD (s.agent a).l1 line emptyLine
  (if !l.dirty.isEmpty && l.writer != crew then s.mergeLine a line else (s, none)).andThen fun t =>
    let w := kgetD (t.agent a).wc line emptyLine
    if !w.bytes.isEmpty && w.writer != crew then t.mergeWc a line else (t, none)

/-- A store of one line's bytes into the L1, left dirty (R160, R201). Dirty bytes of another crew are merged first; bytes that it
overwrites in the write-combining buffer are gone. -/
def State.storeL1 (s : State) (a crew pa va : Nat) (bs : List Byte) (tags : List RelTag) : Tried :=
  let line := pa / 128
  ((s.handOver a (some crew) line).andThen fun t => t.makeRoom a line).andThen fun t =>
      (t.modAgent a fun g =>
        { g with l1 := kset g.l1 line { (kgetD g.l1 line emptyLine).put (lineBytes (pa % 128) bs true g.releases tags s.tick) with
                                          writer := some crew, va := va }
                 wc := modLine g.wc line fun l => l.without (pa % 128) bs.length }, none)

/-- Bytes of one line written past the L1 (NT stores and release stores; R162, R202): merged at the home, with the copies that the L1 holds
of them made equal and clean, and those of the write-combining buffer gone; another crew's dirty bytes go first (R201). -/
def State.storeHome (s : State) (a : Nat) (crew : Option Nat) (pa va : Nat) (bs : List Byte) (tags : List RelTag) : Tried :=
  let line := pa / 128
  let m := lineBytes (pa % 128) bs false (s.agent a).releases tags s.tick
  ((s.handOver a crew line).andThen fun t => t.merge a crew line va m).andThen fun t =>
    (t.modAgent a fun g => { g with l1 := kmod g.l1 line fun l => l.update m
                                    wc := modLine g.wc line fun l => l.without (pa % 128) bs.length }, none)

/-- Bytes of one line put into the write-combining buffer (R162). Bytes of another crew are merged first, and those that it overwrites in
the L1 are gone. -/
def State.storeWc (s : State) (a crew pa va : Nat) (bs : List Byte) (tags : List RelTag) : Tried :=
  let line := pa / 128
  (s.handOver a (some crew) line).andThen fun t =>
    (t.modAgent a fun g =>
      { g with l1 := modLine g.l1 line fun k => k.without (pa % 128) bs.length
               wc := kset g.wc line { (kgetD g.wc line emptyLine).put (lineBytes (pa % 128) bs true g.releases tags s.tick) with
                                        writer := some crew, va := va } }, none)

/-- Pieces of a range that each lie in one line: address and bytes. -/
def linePieces : Nat → Nat → List Byte → List (Nat × List Byte)
  | 0, _, _ => []
  | _ + 1, _, [] => []
  | n + 1, pa, bs =>
    let k := 128 - pa % 128
    (pa, bs.take k) :: linePieces n (pa + k) (bs.drop k)

/-- A write of an engine at the homes, as an agent of its own (R219). -/
def State.engineWrite (s : State) (a : Nat) (crew : Option Nat) (pa va : Nat) (bs : List Byte) : Tried :=
  s.tryAll (linePieces (bs.length / 128 + 2) pa bs) fun t p =>
    t.merge a crew (p.1 / 128) (va + (p.1 - pa)) (lineBytes (p.1 % 128) p.2 false (t.agent a).releases [] s.tick)

/-- An atomic applied at its home by an agent (R170, R208, R209): applied whole, opening or extending the agent's atomic
entry, each byte keeping the releases that it carries, with the agent's own added. -/
def State.atomicWrite (s : State) (a pa : Nat) (bs : List Byte) (tags : List RelTag) : State :=
  let line := pa / 128
  let s0 := s.proxyRoom line
  let l := bs.zipIdx.map fun b => (⟨b.1, false, 0, addTags (kgetD s.tags (pa + b.2) []) tags, s.tick, false⟩ : L1Byte)
  let cnt := (s.agent a).releases
  let t := (s0.applyBytes pa l).modHome line fun h => h.note a true (s.agent a).synced ((List.range bs.length).map fun i => (pa % 128 + i, cnt)) s.tick
  (t.tellMerge a line (lineBytes (pa % 128) bs false cnt [] s.tick)).modAgent a fun g =>
    { g with l1 := modLine g.l1 line fun l => l.without (pa % 128) bs.length }

/-! ## Releases and acquires (R197, R202 to R206, R208) -/

/-- The tag of a release that a core performs next at a scope for a gang with a chip set. -/
def State.nextTag (s : State) (core : Nat) (sc : Scope) (chips : List Nat := []) : RelTag :=
  ⟨core, (s.agent (s.agentOf core)).releases + 1, sc, chips⟩

/-- A release performed by a core: its number among its agent's releases, as a tag. -/
def State.release (s : State) (core : Nat) (sc : Scope) (chips : List Nat := []) : State × RelTag :=
  (s.modAgent (s.agentOf core) fun g => { g with releases := g.releases + 1 }, s.nextTag core sc chips)

/-- A home line without an agent's open entries up to one of its releases. -/
def HomeLine.close (h : HomeLine) (a num : Nat) : HomeLine :=
  let opens := (h.opens.map fun e =>
    if e.agent == a then { e with bytes := e.bytes.filter fun b => decide (num ≤ b.2) } else e).filter
      fun e => !e.bytes.isEmpty
  { h with opens := opens, crowded := h.crowded && !opens.isEmpty }

/-- The open entries of an agent closed up to one of its releases (R208), in every home; bytes that it wrote before and that are merged
later open nothing. -/
def State.closeEntries (s : State) (a num : Nat) : State :=
  { s with homes := kmap s.homes fun _ h => h.close a num }.modAgent a fun g => { g with synced := max g.synced num }

/-- The chip set of a crew's gang. -/
def State.gangChips (s : State) (crew : Nat) : List Nat := ((kget s.gangs (s.crew crew).gang).map Gang.chips).getD []

/-- An acquire by a core, for a gang with a chip set, at a scope synchronises with the releases of the tags whose scopes reach (R197). -/
def State.synchronise (s : State) (core : Nat) (sc : Scope) (chips : List Nat) (tags : List RelTag) : State :=
  tags.foldl (fun t g =>
    if t.agentOf g.core != t.agentOf core && t.inScope g.core g.scope g.chips core && t.inScope core sc chips g.core then
      t.closeEntries (t.agentOf g.core) g.num
    else t) s

/-- Steps 2 and 3 of R203, or of R204 at the wider scopes: the observed agents are drained, and then clean bytes invalidated. The cause of a
drain that fails is answered with the state after both. -/
def State.acquire (s : State) (core : Nat) (sc : Scope) (observed : List RelEntry) : Tried :=
  match sc with
  | .core => (s, none)
  | .package | .system => (s.invalidate (s.agentOf core), none)
  | .cluster | .die =>
    let who := (kkeys s.agents).filter fun a => decide (a < 2000) && observed.any fun e =>
      e.names a && s.inScope (agentCore a) e.scope [] core && s.inScope core sc [] (agentCore a)
    let (t, c) := s.tryAll who State.drain
    (t.invalidate (t.agentOf core), c)

/-- A lazy release access leaves an entry in its line's record (R202). -/
def State.recordRelease (s : State) (core line : Nat) (sc : Scope) : State :=
  s.modHome line fun h => { h with rel := addEntry 4 h.rel ⟨.agent (s.agentOf core), sc⟩ }

/-- The bytes of a line that are dirty or were fetched at a tick not before the bound. -/
def L1Line.young (l : L1Line) (bound : Nat) : L1Line :=
  { l with bytes := l.bytes.filter fun b => b.2.dirty || decide (bound ≤ b.2.tick) }

/-- Clean bytes fetched more than 8 us ago leave an agent's L1 (R201). -/
def State.expireClean (s : State) (a : Nat) : State :=
  s.modAgent a fun g =>
    { g with l1 := (kmap g.l1 fun _ l => l.young (s.tick - 8000)).filter fun e => !e.2.bytes.isEmpty }

/-! ## Changes that wait for a host (R214, R215) -/

/-- What a change at homes has to wait for: the messages that it adds to hostOut for lines that a host may cache or owns. -/
def newSnoops (s t : State) : List HostOut :=
  ((t.hostOut.drop s.hostOut.length).filter fun m => match m with
    | .backInvalidate _ | .ownRequest _ => true
    | .msix _ _ | .pageRequest _ _ _ _ | .value _ _ _ | .spdm _ _ | .tdisp _ _ _ => false).eraseDups

/-- The link of a head is up. -/
def State.headUp (s : State) (head : Nat) : Bool := (kgetD s.heads head {}).linkUp

/-- A snoop or a request for ownership sent once, through a head whose link is up (R388). -/
def State.sendSnoop (s : State) (m : HostOut) : State :=
  match m with
  | .backInvalidate line =>
    if (s.home line).snooped || !(s.headUp 0 || s.headUp 1) then s
    else { s.modHome line fun h => { h with snooped := true } with hostOut := s.hostOut ++ [m] }
  | .ownRequest line =>
    if (s.home line).asked || !s.headUp (hostHead (line * 128)) then s
    else { s.modHome line fun h => { h with asked := true } with hostOut := s.hostOut ++ [m] }
  | .msix _ _ | .pageRequest _ _ _ _ | .value _ _ _ | .spdm _ _ | .tdisp _ _ _ => s

/-- A change at homes, or, where it touches a line that a host may cache or owns, the snoops and requests that go before it (R214, R215). -/
def State.orSnoop (s t : State) : State :=
  match newSnoops s t with
  | [] => t
  | l => l.foldl State.sendSnoop s

end Sys2Proof.Machine
end

