-- ==== Sys2Proof/Machine/Translate.lean ====
section
/-! DEFINITION. Translation (R156, R175 to R182): the walk of an Sv48 or Sv57 table, the checks of R177, the A and D bits,
TLBs and their leases. -/

namespace Sys2Proof.Machine

/-- What an access needs of a page (R177). -/
inductive Acc where
  | load | store | discard | fetch | clean
deriving DecidableEq, Repr

/-- The outcome of a translation. -/
inductive Xl where
  | ok (pa : Nat) (cacheable : Bool)
  | fault (c : Cause)
deriving DecidableEq, Repr

/-- The address is canonical for a table of the given depth (R156): bits [63:47] or [63:56] equal. -/
def canonical (levels ea : Nat) : Bool :=
  let k := if levels = 5 then 56 else 47
  decide (ea < 2 ^ k) || (decide (2 ^ 64 - 2 ^ k ≤ ea) && decide (ea < 2 ^ 64))

/-- The target lies in the canonical 57-bit range (R66). -/
def canonical57 (ea : Nat) : Bool := canonical 5 ea

/-- The registered PASID, if it is enabled (R177, first row). -/
def State.pasid? (s : State) (p : Nat) : Option Pasid := (kget s.pasids p).filter fun x => x.enabled

/-- The depth of a PASID's table; 4 when it is not registered. -/
def State.levels (s : State) (p : Nat) : Nat := ((kget s.pasids p).map Pasid.levels).getD 4

/-- The permissions of a leaf against an access (R177). -/
def permit (acc : Acc) (r w x : Bool) : Option Cause :=
  match acc with
  | .load => if r then none else some 0x44
  | .store => if w then none else some 0x44
  | .discard => if w then none else some 0x5E
  | .fetch => if x then none else some 0x1E
  | .clean => none

/-- A walk from a table at a level down (R176 to R178): the leaf's address in memory and its TLB entry, or a cause. -/
def walkFrom (s : State) (pasid va : Nat) (acc : Acc) : Nat → Nat → Except Cause (Nat × TlbEntry)
  | 0, _ => .error 0x48
  | level + 1, table =>
    let at_ := s.physOf pasid (table * 4096 + 8 * (va / 2 ^ (12 + 9 * level) % 512))
    let e := s.readNat at_ 8
    let r := bitOf e 1
    let w := bitOf e 2
    let x := bitOf e 3
    let ppn := bitsOf e 53 10
    if s.poisoned at_ 8 then .error 0x4A
    else match s.reachCause at_ 8 with
    | some c => .error c
    | none =>
    if !bitOf e 0 then .error 0x43
    else if bitOf e 63 || bitsOf e 62 61 == 3 || bitsOf e 60 54 != 0 || (w && !r) then .error 0x48
    else if !r && !w && !x then
      if level = 0 then .error 0x48 else walkFrom s pasid va acc level ppn
    else if level ≥ 3 then .error 0x48
    else if ppn % 2 ^ (9 * level) ≠ 0 then .error 0x5C
    else if !bitOf e 4 then .error 0x47
    else match permit acc r w x with
      | some c => .error c
      | none => .ok (at_, ⟨pasid, va / 2 ^ (12 + 9 * level), level, ppn, r, w, x, bitOf e 7, bitsOf e 62 61 == 0,
          s.tick + s.xlLease * 1000⟩)

/-- The physical address through an entry. -/
def TlbEntry.pa (t : TlbEntry) (va : Nat) : Nat := t.ppn * 4096 + va % 2 ^ (12 + 9 * t.level)

/-- The entry translates this address now: same page, lease not ended, D set for a write (R178, R180). -/
def TlbEntry.hits (t : TlbEntry) (tick pasid va : Nat) (acc : Acc) : Bool :=
  t.pasid == pasid && t.vpage == va / 2 ^ (12 + 9 * t.level) && decide (tick < t.lease) && (acc != .store || t.d)

/-- A walk with its effects (R178): A, and D for a store, are set in the leaf before the entry is used, by an atomic of the page walker at
the home of the leaf. -/
def State.walk (s : State) (walker pasid va : Nat) (acc : Acc) : State × Except Cause TlbEntry :=
  match s.pasid? pasid with
  | none => (s, .error 0x49)
  | some p =>
    if !canonical p.levels va then (s, .error 0x42)
    else match walkFrom s pasid va acc p.levels p.root with
      | .error c => (s, .error c)
      | .ok (at_, t) =>
        let e := s.readNat at_ 1
        let setA := e ||| 0x40
        let e' := if acc == .store then setA ||| 0x80 else setA
        if e' = e then (s, .ok { t with d := t.d || acc == .store })
        else match s.mergeCause (at_ / 128) with
          | some c => ((s.refuse (at_ / 128) c).1, .error c)
          | none => (s.atomicWrite walker at_ [BitVec.ofNat 8 e'] [], .ok { t with d := t.d || acc == .store })

/-- The page walker that serves the engines (log entry 127). -/
def engineWalker : Nat := walkAgent 8

/-- A walk for an engine, which holds no TLB of its own. -/
def State.engineXl (s : State) (pasid va : Nat) (acc : Acc) : State × Xl :=
  match s.walk engineWalker pasid va acc with
  | (s', .error c) => (s', .fault c)
  | (s', .ok t) => (s', .ok (s'.physOf pasid (t.pa va)) t.cacheable)

/-- The newest n entries of a TLB with one more: which entry a full TLB loses is the model's choice, the one filled longest ago (R179; log
entry 150). -/
def tlbAdd (n : Nat) (t : TlbEntry) (l : List TlbEntry) : List TlbEntry := (t :: l).take n

/-- Translation for a core (R177 to R180): through its TLB, its die's TLB, or a walk that fills both. -/
def State.coreXl (s : State) (core pasid va : Nat) (acc : Acc) : State × Xl :=
  match s.pasid? pasid with
  | none => (s, .fault 0x49)
  | some _ =>
    match ((s.core core).tlb ++ (s.die (dieOf core)).tlb).find? fun t => t.hits s.tick pasid va acc with
    | some t =>
      match permit acc t.r t.w t.x with
      | some c => (s, .fault c)
      | none => (s, .ok (s.physOf pasid (t.pa va)) t.cacheable)
    | none =>
      match s.walk (walkAgent (dieOf core)) pasid va acc with
      | (s', .error c) => (s', .fault c)
      | (s', .ok t) =>
        let s1 := s'.modCore core fun c => { c with tlb := tlbAdd 256 t c.tlb }
        let s2 := s1.modDie (dieOf core) fun d => { d with tlb := tlbAdd 16384 t d.tlb }
        ({ s2 with xlHorizon := max s2.xlHorizon t.lease }, .ok (s2.physOf pasid (t.pa va)) t.cacheable)

end Sys2Proof.Machine
end

