-- ==== Sys2Proof/Machine/BulkBase.lean ====
section
/-! DEFINITION. What the bulk transfer engine keeps (R287 to R305): ranges of bytes, receive records, notices to peer chips, and
the cancelling of the sends and receives of a crew that is terminated (R303). -/

namespace Sys2Proof.Machine

/-! ## Ranges of bytes, as disjoint (low, high) pairs in rising order -/

/-- The number of bytes of a set of ranges. -/
def rangeSize (l : List (Nat × Nat)) : Nat := l.foldl (fun n r => n + (r.2 - r.1)) 0

/-- The bytes of a set within [lo, hi). -/
def rangeIn (l : List (Nat × Nat)) (lo hi : Nat) : List (Nat × Nat) :=
  (l.map fun r => (max r.1 lo, min r.2 hi)).filter fun r => decide (r.1 < r.2)

/-- The bytes of a set outside [lo, hi). -/
def rangeOut (l : List (Nat × Nat)) (lo hi : Nat) : List (Nat × Nat) :=
  (l.flatMap fun r => [(r.1, min r.2 lo), (max r.1 hi, r.2)]).filter fun r => decide (r.1 < r.2)

/-- The bytes of [lo, hi), or none when it is empty. -/
def rangeOf (lo hi : Nat) : List (Nat × Nat) := if lo < hi then [(lo, hi)] else []

/-- A range put among others, joined with those that it meets. -/
def rangeAdd (r : Nat × Nat) : List (Nat × Nat) → List (Nat × Nat)
  | [] => [r]
  | q :: l =>
    if r.2 < q.1 then r :: q :: l
    else if q.2 < r.1 then q :: rangeAdd r l
    else rangeAdd (min r.1 q.1, max r.2 q.2) l

/-- Ranges put among others. -/
def rangeAdds (l m : List (Nat × Nat)) : List (Nat × Nat) := m.foldl (fun acc r => rangeAdd r acc) l

/-! ## Peers (R287, R307) -/

/-- The system chip identifier of a gang chip number. -/
def State.chipId (s : State) (gang n : Nat) : Nat := (((kget s.gangs gang).map Gang.chips).getD []).getD n s.sysId

/-- A message to the sender of a message. -/
def State.tellSource (s : State) (id : MsgId) (m : LinkMsg) : State := s.tellChip (s.chipId id.gang id.src) m

/-- A message to the receiver of a message. -/
def State.tellDest (s : State) (id : MsgId) (m : LinkMsg) : State := s.tellChip (s.chipId id.gang id.dst) m

/-- The port that stands for a message of the chip to itself, which arrives through no port. -/
def ownPort : Nat := 16

/-- The I/O die whose engine serves a port (R14). -/
def ioOf (port : Nat) : Nat := if port < 16 then port / 8 else 0

/-! ## Receive records (R294) -/

/-- Terminal states of R300 as STATUS writes them. -/
def stDone : Nat := 0
/-- TRUNCATED. -/
def stTruncated : Nat := 1
/-- ORPHANED. -/
def stOrphaned : Nat := 2
/-- CANCELLED. -/
def stCancelled : Nat := 3

/-- The 16 bytes of a receive record. -/
def RecvEnd.bytes (e : RecvEnd) : List Byte :=
  leBytes 4 (e.status + ((e.msg.map MsgId.src).getD 0) % 1024 * 256) ++ leBytes 4 e.rlen ++ leBytes 4 e.mlen ++ leBytes 4 e.tag

/-- Bytes of a message that its buffer takes. -/
def Msg.room (m : Msg) (r : Recv) : Nat := min m.len r.len

/-- The length of the longest range [0, x) of the buffer that has been written. -/
def Msg.written (m : Msg) (r : Recv) : Nat :=
  ((m.missing.map Prod.fst) ++ (m.wait.map Prod.fst)).foldl min (m.room r)

/-- The end of a receive that a message is bound to. -/
def Msg.ending (m : Msg) (r : Recv) (status : Nat) (tell : Bool) : RecvEnd :=
  { status := status, rlen := if status ≤ stTruncated then m.room r else m.written r, mlen := m.len, tag := m.id.tag
    msg := some m.id, tell := tell, io := ioOf m.port }

/-- The end of a receive that was never bound (R305). -/
def Recv.unbound (r : Recv) : RecvEnd := ⟨stCancelled, 0, 0, r.tag, none, false, 0⟩

/-- The notice that the sender of a message gets of a terminal state (R300). -/
def endNotice (id : MsgId) (status : Nat) : LinkMsg :=
  if status = stDone then .done id else if status = stTruncated then .truncated id
  else if status = stOrphaned then .orphaned id else .cancelled id true

/-! ## Termination (R303) -/

/-- The record of a receive of a crew that is terminated, where its page is there. -/
def State.lastRecord (s : State) (pasid : Nat) (r : Recv) (e : RecvEnd) : State :=
  if r.record = 0 then s
  else match s.engineXl pasid r.record .store with
    | (t, .ok pa _) => (t.engineWrite (bulkAgent e.io) (some r.crew) pa r.record e.bytes).1
    | (_, .fault _) => s

/-- Every receive of a crew cancelled, with its record, its message and the notice to its sender. -/
def State.cancelRecv (s : State) (x : Nat × Recv) : State :=
  let r := x.2
  let pasid := (s.crew r.crew).pasid
  let m := r.bound.bind fun b => kget s.msgs b
  let e := match r.ending, m with
    | some e, _ => e
    | none, some m => m.ending r stCancelled true
    | none, none => r.unbound
  let t := { (s.lastRecord pasid r e) with recvs := kdel s.recvs x.1, msgs := match r.bound with | some b => kdel s.msgs b | none => s.msgs }
  match e.msg with
  | some id => if e.tell then t.tellSource id (endNotice id e.status) else t
  | none => t

/-- The BXCANCEL operations that waited for a send know their result (R305). -/
def State.answerCancels (s : State) (x : Send) (val : Word) : State :=
  { s with ops := x.cancels.foldl (fun m c => kmod m c fun o =>
      match o.kind with
      | .query q => { o with kind := .query { q with vals := [val] }, stage := .atHome }
      | _ => o) s.ops }

/-- A send record of a crew cancelled: its receiver is told that the sender is gone. -/
def State.cancelSend (s : State) (x : Nat × Send) : State :=
  let t := { s with sends := kdel s.sends x.1 }.answerCancels x.2 1
  if x.2.requested then t.tellDest x.2.id (.peerFault x.2.id false) else t

/-- Every send and posted receive of a crew cancelled, with the peers' notices (R303). -/
def State.cancelBulk (s : State) (crew : Nat) : State :=
  let t := (s.sends.filter fun e => e.2.crew == crew).foldl State.cancelSend s
  (t.recvs.filter fun e => e.2.crew == crew).foldl State.cancelRecv t

end Sys2Proof.Machine
end

