-- ==== Sys2Proof/Machine/Frames.lean ====
section
/-! DEFINITION. Frame segments (R314 to R320): accesses of the frame engine through the saddlebag, the segment header and
hinge record, allocation and freeing of segments, and the stack of a fibre. -/

namespace Sys2Proof.Machine

/-- Why an access of the frame engine does not succeed (R319): a page to be requested, or an effect. -/
inductive FrErr where
  | page (va : Nat) (write : Bool)
  | effect (label : Nat) (cause : Cause)
deriving DecidableEq, Repr

/-- The result of a frame-engine action: the state after it, and a value or an error. -/
abbrev FrRes (α : Type) := State × Except FrErr α

/-- One frame-engine action after another. -/
def frThen {α β : Type} (r : FrRes α) (k : State → α → FrRes β) : FrRes β :=
  match r with
  | (s, .ok a) => k s a
  | (s, .error e) => (s, .error e)

/-- The core on which a crew stands. -/
def Crew.core (c : Crew) : Nat := c.home.getD 0

/-- Translation of a frame-engine access (R319): cacheable device memory only. -/
def State.frameXl (s : State) (crew va : Nat) (acc : Acc) : FrRes Nat :=
  match s.coreXl (s.crew crew).core (s.crew crew).pasid va acc with
  | (t, .ok pa cacheable) => (t, if cacheable && isDevice pa then .ok pa else .error (.effect 0 0x9F))
  | (t, .fault c) =>
    (t, .error (if c = 0x43 ∨ c = 0x44 then .page va (acc == .store)
                else if c = 0x4A then .effect 12 0x4A else .effect 0 0x9F))

/-- A byte of a segment as a core's saddlebag holds it. -/
def State.segByte (s : State) (core pa : Nat) : Byte :=
  match kget (s.core core).saddle (pa / 1024) with
  | some g => (kget g.bytes (pa % 1024)).getD (s.readPa pa)
  | none => s.readPa pa

/-- A byte of n bytes of a segment carries a poison mark, in a core's saddlebag or at its home (R409). -/
def State.segPoison (s : State) (core pa n : Nat) : Bool :=
  match kget (s.core core).saddle (pa / 1024) with
  | some g => (List.range n).any fun i =>
      g.poison.contains (pa % 1024 + i) || (s.poisonDev.contains (pa + i) && (kget g.bytes (pa % 1024 + i)).isNone)
  | none => s.poisoned pa n

/-- A segment of a saddlebag merged at the home at pa with its poison marks (R208, R320, R409), and removed. -/
def State.mergeSeg (s : State) (core key pa : Nat) : State :=
  match kget (s.core core).saddle key with
  | none => s
  | some g =>
    let t := g.bytes.foldl (fun (t : State) b => t.applyByte (pa + b.1) ⟨b.2, false, 0, [], t.tick, g.poison.contains b.1⟩) s
    t.modCore core fun c => { c with saddle := kdel c.saddle key }

/-- A segment merged at the home from which it was filled, and dropped. -/
def State.dropSeg (s : State) (core key : Nat) : State := s.mergeSeg core key (key * 1024)

/-- A segment written back by no instruction of a fibre of its crew (R319): its address is translated again. A page that is not there is
asked for; with any other outcome the crew is to be terminated. A segment that holds nothing new is only dropped. -/
def State.writeBack (s : State) (core key : Nat) : FrRes Unit :=
  match (kget (s.core core).saddle key).filter fun g => !g.bytes.isEmpty with
  | none => (s.dropSeg core key, .ok ())
  | some g =>
    match s.frameXl g.crew g.va .store with
    | (t, .ok pa) => (t.mergeSeg core key pa, .ok ())
    | (t, .error (.page va w)) => (t, .error (.page va w))
    | (t, .error (.effect _ c)) =>
      ((t.modCore core fun k => { k with saddle := kdel k.saddle key }).modCrew g.crew fun x => { x with lost := some c }, .ok ())

/-- The segment of a saddlebag with the oldest AGE, by its difference from the tick modulo 2^32 (R320). -/
def oldestSeg (now : Nat) (m : KMap SaddleSeg) : Option Nat :=
  (m.foldl (fun (best : Option (Nat × Nat)) g =>
    let d := (now + 4294967296 - g.2.age) % 4294967296
    match best with
    | some (k, e) => if e < d then some (g.1, d) else some (k, e)
    | none => some (g.1, d)) none).map Prod.fst

/-- A segment that is needed is filled from its home, where the saddlebag lacks it, and is the crew's that reaches it from then on; with 128
segments in it the oldest makes room (R320). -/
def State.saddleFill (s : State) (core crew va pa : Nat) : FrRes Unit :=
  let key := pa / 1024
  if (kget (s.core core).saddle key).isSome then
    (s.modCore core fun c => { c with saddle := kmod c.saddle key fun g => { g with crew := crew, va := va / 1024 * 1024 } }, .ok ())
  else
    let room : FrRes Unit := if 128 ≤ (s.core core).saddle.length then
        match oldestSeg (s.tick / 1024 % 4294967296) (s.core core).saddle with
        | some k => s.writeBack core k
        | none => (s, .ok ())
      else (s, .ok ())
    frThen room fun t _ => (t.modCore core fun c =>
      { c with saddle := kset c.saddle key ⟨va / 1024 * 1024, crew, t.readNat (key * 1024 + 28) 4, [], []⟩ }, .ok ())

/-- n bytes of a segment; poisoned ones give POISON (R409). -/
def State.frameRead (s : State) (crew va n : Nat) : FrRes (List Byte) :=
  frThen (s.frameXl crew va .load) fun t pa =>
    if t.segPoison (t.crew crew).core pa n then (t, .error (.effect 12 0x4D))
    else frThen (t.saddleFill (t.crew crew).core crew va pa) fun u _ =>
      (u, .ok ((List.range n).map fun i => u.segByte (u.crew crew).core (pa + i)))

/-- Bytes written to a segment that a core's saddlebag holds, its AGE among them. -/
def SaddleSeg.put (g : SaddleSeg) (off : Nat) (bs : List Byte) : SaddleSeg :=
  { g with
    bytes := (bs.foldl (fun (m : KMap Byte × Nat) b => (kset m.1 m.2 b, m.2 + 1)) (g.bytes, off)).1
    poison := g.poison.filter fun o => !(decide (off ≤ o) && decide (o < off + bs.length))
    age := if off ≤ 28 ∧ 32 ≤ off + bs.length then fieldLe bs (28 - off) 4 else g.age }

/-- Bytes written to a segment through a core's saddlebag (R320). -/
def State.saddleWrite (s : State) (core crew va pa : Nat) (bs : List Byte) : FrRes Unit :=
  frThen (s.saddleFill core crew va pa) fun t _ =>
    (t.modCore core fun c => { c with saddle := kmod c.saddle (pa / 1024) fun g => g.put (pa % 1024) bs }, .ok ())

/-- Bytes written to a segment. -/
def State.frameWrite (s : State) (crew va : Nat) (bs : List Byte) : FrRes Unit :=
  frThen (s.frameXl crew va .store) fun t pa => t.saddleWrite (t.crew crew).core crew va pa bs

/-! ## Segment headers and hinge records (R315, R323) -/

/-- The 32-byte header of a segment (R315). -/
def segHeader (link kind : Nat) (emerg : Bool) (rpc : Nat) (valid : Bool) (owner age : Nat) : List Byte :=
  leBytes 8 (link / 1024 * 1024 + kind * 256 + (if emerg then 128 else 0)) ++ leBytes 8 rpc ++
    leBytes 8 (if valid then 1 else 0) ++ leBytes 4 owner ++ leBytes 4 age

/-- Bytes 0 to 63 of a hinge segment's frame (R323). -/
def hingeRecord (mask hpc saved : Nat) : List Byte :=
  leBytes 8 mask ++ leBytes 8 hpc ++ leBytes 8 saved ++ leBytes 40 0

/-- What a segment's header and hinge record say. -/
structure SegHead where
  va : Nat
  link : Nat
  kind : Nat
  rpc : Nat
  valid : Bool
  mask : Nat
  hpc : Nat
  saved : Nat
  active : Bool
deriving DecidableEq, Repr

/-- A segment's header and hinge record read from its first 57 bytes. -/
def segHeadOf (va : Nat) (bs : List Byte) : SegHead :=
  let l := fieldLe bs 0 8
  { va := va
    link := l / 1024 * 1024
    kind := bitsOf l 9 8
    rpc := fieldLe bs 8 8
    valid := bitOf (fieldLe bs 16 1) 0
    mask := fieldLe bs 32 8
    hpc := fieldLe bs 40 8
    saved := fieldLe bs 48 8
    active := bitOf (fieldLe bs 56 1) 0 }

/-- The header of a segment. -/
def State.segHead (s : State) (crew va : Nat) : FrRes SegHead :=
  frThen (s.frameRead crew va 57) fun t bs => (t, .ok (segHeadOf va bs))

/-- The owner field of a fibre's segment (R315). -/
def ownerOf (tag fid : Nat) : Nat := tag % 4194304 * 1024 + fid % 1024

/-- The owner field of a segment that is free or belongs to a continuation (R315). -/
def noOwner : Nat := 0xFFFFFFFF

/-- The search down a stack for the nearest segment that passes a test (R326): the segments passed, top first, and the one
found. -/
def State.searchDown (s : State) (crew : Nat) (test : SegHead → Bool) :
    Nat → Nat → List SegHead → FrRes (Option (List SegHead × SegHead))
  | 0, _, _ => (s, .ok none)
  | n + 1, va, above =>
    match s.segHead crew va with
    | (t, .error e) => (t, .error e)
    | (t, .ok h) =>
      if test h then (t, .ok (some (above, h)))
      else if h.link = 0 then (t, .ok none)
      else t.searchDown crew test n h.link (above ++ [h])

/-! ## Allocation (R317 to R319) -/

/-- The segment addresses of a heap, without its highest, the emergency segment (R318). -/
def SegReg.ordinary (g : SegReg) : List Nat := (List.range (g.limit / 1024 - 1)).map fun i => g.base + 1024 * i

/-- The address of a heap's emergency segment (R318). -/
def SegReg.emergency (g : SegReg) : Nat := g.base + (g.limit / 1024 - 1) * 1024

/-- The address lies in a heap. -/
def SegReg.holds (g : SegReg) (va : Nat) : Bool := decide (g.base ≤ va) && decide (va < g.base + g.limit)

/-- The free segments of a crew's heap that an allocation may take (R318). -/
def Crew.freeSegs (c : Crew) (rec : Bool) : List Nat :=
  c.segFrame.ordinary.filter fun a => !c.used.contains a && (rec || !c.records.contains a)

/-- The free segments of a gang's pool that an allocation may take (R318, R319). -/
def Gang.freeSegs (g : Gang) (rec : Bool) : List Nat :=
  (g.pool.flatMap fun r => r.ordinary ++ [r.emergency]).filter fun a =>
    !g.poolUsed.contains a && (rec || !g.poolRecords.contains a)

/-- One of a list of free segments: which is not defined (R318). -/
def State.chooseSeg (s : State) : List Nat → Option Nat
  | [] => none
  | [a] => some a
  | a :: l => some (((a :: l)[Config.freeSegment s.free s.nextId % (l.length + 1)]?).getD a)

/-- A segment taken for a crew (R318), from its heap or else its gang's pool, which an ended crew's heap has joined; rec when it will hold
a record. -/
def State.allocSeg (s : State) (crew : Nat) (rec : Bool) : State × Option Nat :=
  let c := s.crew crew
  match s.chooseSeg (if c.life = .ended then [] else c.freeSegs rec) with
  | some a =>
    (s.bump.modCrew crew fun c =>
      { c with used := insertUp a c.used, records := if rec then insertNew a c.records else c.records }, some a)
  | none =>
    match (kget s.gangs c.gang).bind fun g => (s.chooseSeg (g.freeSegs rec)).map fun a => (g, a) with
    | some (g, a) =>
      let g' := { g with poolUsed := insertUp a g.poolUsed
                         poolRecords := if rec then insertNew a g.poolRecords else g.poolRecords }
      ({ s.bump with gangs := kset s.gangs c.gang g' }, some a)
    | none => (s, none)

/-- n segments that will hold no record, or none of them. -/
def State.allocSegs (s : State) (crew : Nat) : Nat → Option (State × List Nat)
  | 0 => some (s, [])
  | n + 1 =>
    match s.allocSeg crew false with
    | (t, some va) => (t.allocSegs crew n).map fun r => (r.1, va :: r.2)
    | (_, none) => none

/-- A record segment and n segments for its replay entries, or none of them (R318): one that has held a record holds only records. -/
def State.allocRecord (s : State) (crew n : Nat) : Option (State × Nat × List Nat) :=
  match s.allocSeg crew true with
  | (t, some va) => (t.allocSegs crew n).map fun r => (r.1, va, r.2)
  | (_, none) => none

/-- The record kept of a segment of a gang no longer in use. -/
def State.unuseSeg (s : State) (gang va : Nat) : State :=
  match kfind s.crews fun _ c => c.gang == gang && c.life != .ended && c.segFrame.holds va with
  | some (id, _) =>
    s.modCrew id fun c =>
      { c with used := c.used.filter fun a => a != va
               emergency := c.emergency && c.segFrame.emergency != va }
  | none => { s with gangs := kmod s.gangs gang fun g => { g with poolUsed := g.poolUsed.filter fun a => a != va } }

/-- A segment freed: its OWNER says so, and it returns to the free list of the heap that contains it (R315, R318). It leaves the saddlebag for
its home, where the next holder, on whichever core, fills it from (DEDUCED, log entry 160). -/
def State.freeSeg (s : State) (crew va : Nat) : FrRes Unit :=
  frThen (s.frameXl crew va .store) fun t pa =>
  frThen (t.saddleWrite (t.crew crew).core crew (va + 24) (pa + 24) (leBytes 4 noOwner)) fun u _ =>
    ((u.mergeSeg (u.crew crew).core (pa / 1024) (pa / 1024 * 1024)).unuseSeg (u.crew crew).gang va, .ok ())

/-! ## The stack of a fibre (R317, R322, R324) -/

/-- AGE of a segment that becomes current now (R315). -/
def State.age (s : State) : Nat := s.tick / 1024 % 4294967296

/-- A segment becomes the current segment of a fibre (R314, R315). -/
def State.setCurrent (s : State) (crew fid va : Nat) : FrRes Unit :=
  frThen (s.frameWrite crew (va + 28) (leBytes 4 s.age)) fun t _ =>
    (t.modFibre crew fid fun f => { f with seg := va }, .ok ())

/-- A new segment on top of a fibre's stack (R317, R322), or the causes 0x99 and 0x98; nothing changes when it fails. -/
def State.pushSeg (s : State) (crew fid kind rpc : Nat) (valid : Bool) (frame : List Byte) : FrRes Unit :=
  let c := s.crew crew
  let f := c.fibre fid
  if 256 ≤ f.depth then (s, .error (.effect 0 0x99))
  else
    match s.allocSeg crew false with
    | (_, none) => (s, .error (.effect 0 0x98))
    | (t, some va) =>
      match t.frameWrite crew va (segHeader f.seg kind false rpc valid (ownerOf c.tag fid) s.age ++ frame) with
      | (_, .error e) => (s, .error e)
      | (u, .ok _) => (u.modFibre crew fid fun f => { f with seg := va, depth := f.depth + 1 }, .ok ())

/-- The current segment of a fibre freed, the next older one becoming current (R317, R324). -/
def State.popSeg (s : State) (crew fid : Nat) (h : SegHead) : FrRes Unit :=
  frThen (s.setCurrent crew fid h.link) fun t _ =>
  frThen (t.freeSeg crew h.va) fun u _ =>
    (u.modFibre crew fid fun f => { f with depth := f.depth - 1 }, .ok ())

/-- The first segment of a new fibre: an ordinary one whose VALID is 0 (R317), or none. -/
def State.firstSeg (s : State) (crew fid : Nat) : FrRes Nat :=
  match s.allocSeg crew false with
  | (_, none) => (s, .error (.effect 0 0x98))
  | (t, some va) =>
    match t.frameWrite crew va (segHeader 0 0 false 0 false (ownerOf (t.crew crew).tag fid) s.age) with
    | (_, .error e) => (s, .error e)
    | (u, .ok _) => (u, .ok va)

/-- Every segment on a stack freed, from the top down (R37, R318). -/
def State.freeStack (s : State) (crew : Nat) : Nat → Nat → FrRes Unit
  | 0, _ => (s, .ok ())
  | n + 1, va =>
    frThen (s.segHead crew va) fun t h =>
    frThen (t.freeSeg crew va) fun u _ =>
      if h.link = 0 then (u, .ok ()) else u.freeStack crew n h.link

/-- The header of a crew's emergency segment written at its home when the crew starts: it is free, with EMERG = 1 (R315, R318). -/
def State.initEmergency (s : State) (crew : Nat) : FrRes Unit :=
  frThen (s.frameXl crew (s.crew crew).segFrame.emergency .store) fun t pa =>
    (t.writeHome pa (segHeader 0 0 true 0 false noOwner 0), .ok ())

/-- The segments of a crew that a saddlebag holds. -/
def State.saddleKeys (s : State) (core crew : Nat) : List Nat := ((s.core core).saddle.filter fun g => g.2.crew == crew).map Prod.fst

/-- Every segment of a crew that ends merged where it was filled from, and dropped. -/
def State.flushSaddle (s : State) (core : Nat) (crew : Nat) : State :=
  (s.saddleKeys core crew).foldl (fun t k => t.dropSeg core k) s

/-- Every segment of a crew that a saddlebag holds written back, at a save (R320). -/
def State.saveSaddle (s : State) (core : Nat) (crew : Nat) : FrRes Unit :=
  (s.saddleKeys core crew).foldl (fun r k => frThen r fun t _ => t.writeBack core k) (s, .ok ())

end Sys2Proof.Machine
end

