-- ==== Sys2Proof/Machine/Report.lean ====
section
/-! DEFINITION. Reports to the service cores and the hosts (R398, R399), interrupt events (R374), and the end and the
termination of crews and gangs (R37, R210, R303, R319, R331, R359, R364, R373). -/

namespace Sys2Proof.Machine

/-! ## Interrupts (R374, R388) -/

/-- An interrupt vector. -/
def State.vector (s : State) (v : Nat) : Vector := kgetD s.vectors v {}

/-- A head. -/
def State.head (s : State) (h : Nat) : Head := kgetD s.heads h {}

/-- The state with a function applied to a head. -/
def State.modHead (s : State) (h : Nat) (f : Head → Head) : State := { s with heads := kset s.heads h (f (s.head h)) }

/-- The one message of a vector whose count is above 0, sent through a head whose link is up (R374, R388). -/
def State.sendVector (s : State) (v : Nat) : State :=
  let x := s.vector v
  if x.masked || x.pend == 0 || !(s.head x.head).linkUp then s
  else { s with vectors := kset s.vectors v { x with pend := 0 }, hostOut := s.hostOut ++ [.msix x.head v] }

/-- An interrupt event on a vector, of a queue of a head (R374). PEND has 16 bits, and a count of 65,536 reads 0 with no message due (DESIGN
CHOICE, log entry 159). -/
def State.vectorEvent (s : State) (v head : Nat) : State :=
  let x := s.vector v
  let y := { x with pend := (x.pend + 1) % 65536, first := if x.pend = 0 then s.tick else x.first, head := head }
  let t := { s with vectors := kset s.vectors v y }
  if y.cnt ≤ y.pend then t.sendVector v else t

/-! ## Reports (R398, R399) -/

/-- The routing class of a cause (R398). -/
def causeClass (c : Cause) : Nat :=
  if c = 0x58 ∨ c = 0x59 ∨ c = 0x5A ∨ c = 0x5D then 12 else c.toNat / 16

/-- The 32 bytes of an event-ring entry (R399). -/
def Report.bytes (r : Report) : List Byte :=
  leBytes 8 r.tick ++ leBytes 8 r.gang ++ leBytes 2 r.queue ++ [r.cause, BitVec.ofNat 8 r.cls] ++ leBytes 4 r.fibre ++
    leBytes 8 r.pc

/-- The agent through which the service cores write for a head (log entry 127). -/
def serviceAgent (head : Nat) : Nat := 3500 + head

/-- A report written into its head's event ring with release order at SYSTEM scope (R399), or held by the service cores while none is
registered or the head's link is down (R388). -/
def State.toHost (s : State) (r : Report) : State :=
  match (s.head r.head).ring.filter fun _ => (s.head r.head).linkUp with
  | some (base, logsz, vec) =>
    let k := (s.head r.head).evw
    let (u, tag) := s.release (serviceAgent r.head) .system
    let at_ := hostPa r.head (base + 32 * (k % 2 ^ logsz))
    let t := { u with host := memWrites u.host at_ r.bytes
                      tags := (List.range 32).foldl (fun m i => kset m (at_ + i) [tag]) u.tags }
    (t.modHead r.head fun h => { h with evw := h.evw + 1 }).vectorEvent vec r.head
  | none => { s with held := if s.held.length < 4096 then s.held ++ [r] else s.held.drop 1 ++ [r] }

/-- A report to the owner that SYS_ROUTE names for its class (R398). The service cores log it and answer UNHANDLED at once
unless all of them have failed. A report does not pass one about the same gang that waits for their answer. -/
def State.report (s : State) (r : Report) : State :=
  let before := (s.asking.filter fun e => e.2.gang == r.gang).getLast?
  let own := s.route.toNat / 4 ^ r.cls % 4
  let dead := decide (24 ≤ s.failedCores.length)
  let logged := if own % 2 = 1 && !dead then { s with svcLog := s.svcLog ++ [r] } else s
  if own = 2 then
    match before with
    | some e => { s with asking := s.asking ++ [(e.1, r)] }
    | none => s.toHost r
  else if own = 3 then
    if dead then { s with asking := s.asking ++ [(s.tick, r)] } else logged.toHost r
  else logged

/-- The head of a queue. -/
def State.queueHead (s : State) (q : Nat) : Nat := ((kget s.queues q).map Queue.head).getD 0

/-- A report about a gang. -/
def State.gangReport (s : State) (gang : Nat) (c : Cause) (fid pc : Nat) : State :=
  let q := ((kget s.gangs gang).map Gang.queue).getD 0
  s.report ⟨s.tick, gang, q, c, causeClass c, fid, pc, s.queueHead q⟩

/-- A report about no fibre. -/
def noFibre : Nat := 0xFFFFFFFF

/-! ## Crews (R37, R210, R282, R319, R331, R359, R371, R373) -/

/-- An operation that a continuation still tracks (R336). -/
def Op.tracked (o : Op) : Bool := o.owners.any fun w => match w with | .cont _ _ _ => true | .fibre _ _ _ => false

/-- A crew's fibres, groups, held words, queued copies, shutters and claims discarded, and its operations with them, except
those that a continuation tracks when keep is true. A tracked matrix operation that is still queued has lost its claim and never starts
(DESIGN CHOICE, log entry 157). -/
def State.clearCrew (s : State) (crew : Nat) (life : Life) (keep : Bool) : State :=
  let c := s.crew crew
  let cl := clusterOf c.core
  let t := s.modCrew crew fun c =>
    { c with life := life, fibres := [], groups := [], held := [], claims := [], late := []
             copies := if keep then c.copies else [], shutters := if keep then c.shutters.filter fun h =>
               ((kget s.ops h.op).map Op.tracked).getD false else [] }
  let t1 := if c.home.isNone then t else t.modCluster cl fun k =>
    { k with pending := k.pending.filter fun x => x != crew, pairs := k.pairs.filter fun p => p.2 != crew }
  let t2 := if c.home.isNone then t1 else t1.modCore c.core fun k => { k with overflow := k.overflow.filter fun e => e.1 != crew }
  { t2 with ops := t2.ops.filter fun o => o.2.issuer != crew || (keep && o.2.tracked) }

/-- The waiting race-log entries of a crew reported in log order, then RACE_LOG_LOST (R210). -/
def State.reportRaces (s : State) (crew : Nat) : State :=
  let c := s.crew crew
  let t := c.raceLog.foldl (fun (t : State) e => t.gangReport c.gang e.cause noFibre e.va) s
  let u := if c.raceLost then t.gangReport c.gang 0x59 noFibre 0 else t
  u.modCrew crew fun c => { c with raceLog := [], raceLost := false }

/-- A lifetime added to a KID's last 31, the KID first in order of recency among at most 256 (R373). -/
def addLifetime (m : KMap (List Nat)) (kid t : Nat) : KMap (List Nat) :=
  let old := kgetD m kid []
  ((kid, (old ++ [t]).drop (old.length + 1 - 31)) :: m.filter fun e => e.1 != kid).take 256

/-- A crew's heap joins its gang's pool (R319). -/
def State.poolHeap (s : State) (crew : Nat) : State :=
  let c := s.crew crew
  let em := if c.emergency then [c.segFrame.emergency] else []
  { s with gangs := kmod s.gangs c.gang fun g =>
      { g with pool := g.pool ++ [c.segFrame]
               poolUsed := g.poolUsed ++ c.used ++ em
               poolRecords := g.poolRecords ++ c.records ++ em } }

/-- The crews of a gang that run on its own chip (R24, R364). -/
def Gang.crewCount (g : Gang) : Nat :=
  ceilDiv (g.launch.gx * g.launch.gy * g.launch.gz - g.mine) g.launch.nchip * g.launch.s

/-- The chip that has accepted a gang which another chip runs a part of (R364). -/
def Gang.host (g : Gang) : Option Nat :=
  match g.src with
  | .peer c => some c
  | .packet _ _ | .node _ _ | .service => none

/-- Another chip has accepted the gang. -/
def Gang.guest (g : Gang) : Bool := g.host.isSome

/-- A gang has ended: each of its crews here and, on the chip that has accepted it, each of its other chips (R364). -/
def State.gangFinished (s : State) (gang : Nat) : Bool :=
  match kget s.gangs gang with
  | some g => decide ((if g.terminated then g.crews.length else g.crewCount) ≤ g.ended) &&
      (g.guest || g.chips.all fun ch => ch == s.sysId || g.chipsEnded.contains ch)
  | none => false

/-- An engine operation, a send or a posted receive of a crew is still in flight. -/
def State.inFlight (s : State) (crew : Nat) : Bool :=
  (s.ops.any fun o => o.2.issuer == crew) || (s.sends.any fun x => x.2.crew == crew) || s.recvs.any fun x => x.2.crew == crew

/-- A crew wrote bytes that wait in a cache to be merged, because their merge failed when it ended (log entry 146): their race events are
still to be reported for it (R210). -/
def State.leftDirty (s : State) (crew : Nat) : Bool :=
  s.agents.any fun a => (a.2.l1.any fun l => l.2.writer == some crew) || a.2.wc.any fun l => l.2.writer == some crew

/-- Every heap and crew of a gang that has ended is released (R319), so that no handle of it names a record; the record of a crew stays while
an operation that a continuation tracked is in flight, whose results no continuation takes any more, or bytes of it wait to be merged. And a
chip that has not accepted the gang tells the one that has. -/
def State.releaseGang (s : State) (gang : Nat) : State :=
  if s.gangFinished gang then
    let mine := fun (c : Nat) => (s.crew c).gang == gang
    let t := { s with
      gangs := kmod s.gangs gang fun g => { g with pool := [], poolUsed := [], poolRecords := [] }
      crews := kmap (s.crews.filter fun c => c.2.gang != gang || s.inFlight c.1 || s.leftDirty c.1) fun _ c =>
        if c.gang = gang then { c with segFrame := {}, frameArea := {}, used := [], records := [] } else c
      ops := kmap s.ops fun _ o => if mine o.issuer then { o with owners := o.owners.filter fun w => match w with
        | .cont _ _ _ => false
        | .fibre _ _ _ => true } else o }
    match (kget s.gangs gang).bind Gang.host with
    | some c => t.tellChip c (.gangEnded gang)
    | none => t
  else s

/-- One more crew of a gang has ended. -/
def State.countEnded (s : State) (gang : Nat) : State :=
  { s with gangs := kmod s.gangs gang fun g => { g with ended := g.ended + 1 } }.releaseGang gang

/-- The release of a core whose crew has ended kept with the gang (R359). -/
def State.noteEnd (s : State) (gang : Nat) (tag : RelTag) : State :=
  { s with gangs := kmod s.gangs gang fun g => { g with ends := addTags g.ends [tag] } }

/-- A crew ends when its last fibre exits (R37): its core drains as a release at SYSTEM scope (R359), its race log is reported (R210), its heap joins the
pool (R319), and its lifetime is recorded (R373). -/
def State.endCrew (s : State) (crew : Nat) : State :=
  let c := s.crew crew
  let (t, tag) := ((s.flushSaddle c.core crew).drain (s.agentOf c.core)).1.release c.core .system
  let u := ((t.poolHeap crew).reportRaces crew).noteEnd c.gang tag
  let life := s.tick - c.firstIssue.getD s.tick - c.savedTicks
  ({ (u.clearCrew crew .ended true) with lifetimes := addLifetime u.lifetimes c.kid life }).countEnded c.gang

/-- A crew's life has not ended. -/
def Crew.alive (c : Crew) : Bool := c.life != .ended && c.life != .terminated

/-- One crew terminated, without a report of its own (R331, R364, R371). -/
def State.killCrew (s : State) (crew : Nat) : State :=
  let c := s.crew crew
  if !c.alive then s
  else
    let t := if c.home.isSome && c.life != .saved && c.life != .halted then
        let (u, tag) := ((s.flushSaddle c.core crew).drain (s.agentOf c.core)).1.release c.core .system
        u.noteEnd c.gang tag
      else s
    (((t.reportRaces crew).cancelBulk crew).clearCrew crew .terminated false).countEnded c.gang

/-- A gang terminated (R364): every crew on every chip, and one report by the accepting chip for the gang with the cause given. -/
def State.killGang (s : State) (gang : Nat) (c : Cause) : State :=
  match kget s.gangs gang with
  | none => s
  | some g =>
    if g.terminated then s
    else
      let t := (g.chips.filter fun ch => ch != s.sysId).foldl (fun (r : State) ch => r.tellChip ch (.gangTerminated gang))
        { s with gangs := kmod s.gangs gang fun g => { g with terminated := true } }
      let u := if g.guest then t else t.gangReport gang c noFibre 0
      (g.crews.filter fun k => (kget s.crews k).isSome).foldl (fun (r : State) k => r.killCrew k) u

/-- A crew terminated with a cause reported, and its gang with it (R331, R364). -/
def State.terminate (s : State) (crew : Nat) (c : Cause) (fid pc : Nat) : State :=
  let k := s.crew crew
  if !k.alive then s else (s.gangReport k.gang c fid pc).killGang k.gang 0xA9

end Sys2Proof.Machine
end

