-- ==== Sys2Proof/Machine/Ops.lean ====
section
/-! DEFINITION. The named operations of the lane and frame engines: the convergence table and groups (R29 to R32, R45),
taking an effect and returning from one (R326 to R332, R339), continuation records (R333 to R337), Page Requests (R183,
R185), tokens (R133 to R135). -/

namespace Sys2Proof.Machine

/-! ## The convergence table (R29 to R32) -/

/-- The crew stands on the core and its fibres may be in the core's convergence table. -/
def Crew.on (c : Crew) (core : Nat) : Bool :=
  c.home == some core &&
    (c.life == .running || c.life == .draining || c.life == .saving || c.life == .halting || c.life == .restoring)

/-- The keys (crew, pc) in use in a core's convergence table: those of loose fibres and of formed groups (R29, R31). -/
def State.tableKeys (s : State) (core : Nat) : List (Nat × Nat) :=
  ((s.crews.filter fun c => c.2.on core).flatMap fun c =>
    (c.2.fibres.filterMap fun f => match f.2.st with | .loose _ => some (c.1, f.2.pc) | _ => none) ++
      c.2.groups.map fun g => (c.1, g.2.fpc)).eraseDups

/-- The fibres that live on a core. -/
def State.population (s : State) (core : Nat) : Nat :=
  (s.crews.filter fun c => c.2.on core).foldl (fun n c => n + c.2.fibres.length) 0

/-- A fibre with this key finds no entry (R32). A core with at most 256 fibres never fills its table. -/
def State.tableFull (s : State) (core crew pc : Nat) : Bool :=
  decide (Config.tableEntries < s.population core) &&
    (let k := s.tableKeys core
     decide (Config.tableEntries ≤ k.length) && !k.contains (crew, pc))

/-- A fibre enters the convergence table at its pc, or joins the tail of the overflow queue (R32). -/
def State.enter (s : State) (crew fid : Nat) : State :=
  let c := s.crew crew
  let f := c.fibre fid
  if s.tableFull c.core crew f.pc then
    (s.modFibre crew fid fun f => { f with st := .overflow }).modCore c.core fun k =>
      { k with overflow := k.overflow ++ [(crew, fid)] }
  else s.modFibre crew fid fun f => { f with st := .loose (s.core c.core).cycle }

/-- Free entries go to the head of the overflow queue, with every queued fibre of the same key (R32). -/
def State.settle (s : State) (core : Nat) : Nat → State
  | 0 => s
  | n + 1 =>
    match (s.core core).overflow with
    | [] => s
    | (crew, fid) :: _ =>
      let pc := ((s.crew crew).fibre fid).pc
      if s.tableFull core crew pc then s
      else
        let same := (s.core core).overflow.filter fun e => e.1 == crew && ((s.crew crew).fibre e.2).pc == pc
        let t := s.modCore core fun k => { k with overflow := k.overflow.filter fun e => !same.contains e }
        (same.foldl (fun (t : State) e => t.modFibre e.1 e.2 fun f => { f with st := .loose (t.core core).cycle }) t).settle
          core n

/-- A fibre parks (R45). -/
def State.park (s : State) (crew fid : Nat) (p : Park) : State := s.modFibre crew fid fun f => { f with st := .parked p }

/-- A group ceases to exist (R31): its fibres that are still in it enter the table at their pcs. -/
def State.dissolve (s : State) (crew gid : Nat) : State :=
  match kget (s.crew crew).groups gid with
  | none => s
  | some g =>
    let t := s.modCrew crew fun c => { c with groups := kdel c.groups gid }
    let core := (s.crew crew).core
    let u := t.settle core (t.core core).overflow.length
    g.fids.foldl (fun (r : State) fid =>
      if ((r.crew crew).fibre fid).st == .formed gid then r.enter crew fid else r) u

/-- A fibre leaves its group, which ends (R65): the others become loose at their pcs. -/
def State.leaveGroup (s : State) (crew fid : Nat) : State :=
  match ((s.crew crew).fibre fid).st with
  | .formed g => s.dissolve crew g
  | _ => s

/-! ## Causes (R413) -/

/-- The label of a cause (R413). -/
def labelOf (c : Cause) : Nat :=
  let n := c.toNat
  if 0x20 ≤ n ∧ n ≤ 0x2C then 4
  else if 0x30 ≤ n ∧ n ≤ 0x35 ∨ n = 0x3A then 9
  else if n = 0x3B ∨ n = 0x94 then 8
  else if n = 0x43 ∨ n = 0x44 ∨ n = 0x56 then 3
  else if n = 0x4A ∨ n = 0x4D ∨ n = 0x6A ∨ n = 0x7D ∨ n = 0x87 ∨ n = 0xB1 ∨ n = 0xB2 then 12
  else if n = 0x58 ∨ n = 0x59 ∨ n = 0x5A ∨ n = 0x5D then 5
  else if n = 0x5B ∨ n = 0x6F ∨ n = 0x8A ∨ n = 0x8B ∨ n = 0x8D ∨ n = 0x8F then 6
  else if 0x62 ≤ n ∧ n ≤ 0x69 ∨ n = 0x6B ∨ n = 0x6C ∨ n = 0x6E ∨ 0x74 ≤ n ∧ n ≤ 0x7B ∨ n = 0x7F ∨ n = 0x85 ∨ n = 0x86 ∨
    n = 0x88 ∨ n = 0x89 ∨ n = 0x8C ∨ n = 0x8E then 7
  else if n = 0x95 then 11
  else if n = 0xAC then 10
  else if n = 0xBC then 13
  else 0

/-- A cause that keeps its request's record (R134): the translation causes that lead to PAGE. -/
def retryable (c : Cause) : Bool := c == 0x43 || c == 0x44 || c == 0x56

/-! ## Page Requests (R183, R185, R252, R304, R319, R356) -/

/-- A Page Request for a waiter, through the head of the PASID; requests for one page are shared (R183), and one that no live link can
carry is not sent (R388), so that it is not answered either. -/
def State.pageRequest (s : State) (pasid page : Nat) (write : Bool) (w : PageWaiter) : State :=
  match kfind s.pages fun _ p => p.pasid == pasid && p.page == page with
  | some (id, _) => { s with pages := kmod s.pages id fun p => { p with waiters := p.waiters ++ [w] } }
  | none =>
    let head := ((kget s.pasids pasid).map Pasid.head).getD 0
    let t := s.fresh
    { t.2 with pages := kset t.2.pages t.1 ⟨pasid, page, write, s.tick, [w]⟩
               hostOut := if (kgetD s.heads head {}).linkUp then t.2.hostOut ++ [.pageRequest head pasid page write] else t.2.hostOut }

/-- Some Page Request still has this waiter. -/
def State.pageWaits (s : State) (w : PageWaiter) : Bool := s.pages.any fun p => p.2.waiters.contains w

/-- An effect that the device raises with a cause: its label and payload are the cause's (R330, R413). -/
def causeEff (c : Cause) (rpc : Nat) : Eff := { label := labelOf c, cause := c, payload := c.setWidth 32, rpc := rpc }

/-- The PC of an effect in a report (R399): the address of the word at which it arises. -/
def Eff.pc (e : Eff) : Nat := if e.stay || e.cause == 0x96 then e.rpc else e.rpc - 4

/-- FAULT with a cause (R330). -/
def faultEff (c : Cause) (rpc : Nat) : Eff := { label := 0, cause := c, payload := c.setWidth 32, rpc := rpc }

/-! ## Registers written at once -/

/-- A fibre's register written with no window: the value of a resume, of an effect or of a completion. -/
def Fibre.setV (f : Fibre) (n : Nat) (v : Word) : Fibre := { f with v := kset f.v n v, vwin := kdel f.vwin n }

/-- Every fixed-latency result of the fibre written (R83). -/
def Fibre.closed (f : Fibre) : Fibre :=
  { f with fstat := f.fstatNow, fpend := [], vwin := kfilterLists f.vwin fun l => l.filter fun w => w.tok.isSome, pwin := [], xwin := [] }

/-- The uniform results of a fibre's issued words written (R83). -/
def Crew.closedG (c : Crew) (fid : Nat) : Crew :=
  { c with gwin := kmap c.gwin fun _ l => l.map fun w =>
      if (kget w.dues fid).isSome then { w with due := 0, dues := [] } else w }

/-- A 64-bit value written to a destination of R334: a V register, V0 and V1 (0x40), or none. -/
def Fibre.deliverTo (f : Fibre) (dst : Nat) (lo hi : Word) : Fibre :=
  if dst < 64 then f.setV dst lo else if dst = 0x40 then (f.setV 0 lo).setV 1 hi else f

/-- A fibre goes on at a resume point as a loose fibre, with 0 written to dst (R331). -/
def State.goOn (s : State) (crew fid : Nat) (e : Eff) : State :=
  (s.modFibre crew fid fun f => { f.deliverTo e.dst 0 0 with pc := e.rpc }).enter crew fid

/-! ## Continuation records (R333 to R335) -/

/-- The token bytes of R334. -/
def tokBytes (t : Tok) : List Byte := [BitVec.ofNat 8 (t.count % 64 + if t.err then 64 else 0), t.cause]

/-- The 128-byte continuation header (R334). -/
def contHeader (state : Nat) (c : Crew) (ident : Nat) (f : Fibre) (e : Eff) (gen nseg top bottom kmask nreplay replay : Nat) :
    List Byte :=
  [BitVec.ofNat 8 state, 0, 1, BitVec.ofNat 8 (c.b / 8 - 1)] ++ leBytes 2 (gen % 1024) ++ leBytes 2 nseg ++
    leBytes 8 ident ++ leBytes 8 e.rpc ++ [BitVec.ofNat 8 e.label, e.cause, BitVec.ofNat 8 e.dst, f.p.setWidth 8] ++
    leBytes 4 e.payload.toNat ++ leBytes 8 top ++ leBytes 8 bottom ++ leBytes 8 kmask ++
    ((List.range 16).flatMap fun n => tokBytes (f.tok n)) ++
    leBytes 8 ((kkeys f.pend).foldl (fun m n => m + 2 ^ n) 0) ++ leBytes 4 f.fstat.toNat ++ leBytes 4 nreplay ++
    leBytes 8 replay ++ leBytes 16 0

/-- An index register as R335 lays it out. -/
def xBytes (x : XReg) : List Byte := leBytes 4 (x.base % 64 + 64 * (x.bound % 1024) + 65536 * (x.index % 1024))

/-- The 272-byte register body (R335). -/
def contBody (b : Nat) (f : Fibre) : List Byte :=
  ((List.range 64).flatMap fun n => leBytes 4 (if n < b then (f.getV n).toNat else 0)) ++
    (List.range 4).flatMap fun n => xBytes (kgetD f.x n {})

/-- A replay entry (R335): kind 0 REISSUE, 1 ATTACHED, 2 TRACK. -/
def replayEntry (kind : Nat) (cause : Cause) (word modw ea : Nat) (data : List Word) : List Byte :=
  leBytes 4 (word / 2 ^ 25 * 2 ^ 25 + word % 2 ^ 21) ++
    leBytes 4 (modw % 2 ^ 22 + cause.toNat * 2 ^ 22 + kind * 2 ^ 30) ++ leBytes 8 ea ++
    (List.range 4).flatMap fun i => leBytes 4 (data.getD i 0).toNat

/-- The entry of a memory request. -/
def MemReq.entry (r : MemReq) (kind : Nat) : List Byte := replayEntry kind r.cause r.word r.modw r.ea r.data

/-- The engine operations counted on a fibre's tokens and not completed, which a capture tracks (R328). -/
def State.trackedOps (s : State) (crew fid : Nat) : List (Nat × Op) :=
  s.ops.filter fun o => o.2.stage != .done && o.2.owners.any fun w => match w with
    | .fibre c f _ => c == crew && f == fid
    | .cont _ _ _ => false

/-- A memory operation of the fibre that has not completed (R328). -/
def State.memBusy (s : State) (crew fid : Nat) : Bool :=
  s.ops.any fun o => match o.2.kind with
    | .mem _ c f => c == crew && f == fid && o.2.stage != .done
    | _ => false

/-- Is the operation one that capture waits for. -/
def Op.isMem (o : Op) : Bool := match o.kind with | .mem _ _ _ => true | _ => false

/-- The replay entries of a capture (R328): REISSUE, ATTACHED in issue order, then TRACK. -/
def State.replayEntries (s : State) (crew fid : Nat) : List (List Byte) :=
  let f := (s.crew crew).fibre fid
  (f.replay.map fun r => r.entry 0) ++ (f.attached.map fun r => r.entry 1) ++
    ((s.trackedOps crew fid).filter fun o => !o.2.isMem).map fun o => replayEntry 2 0 o.2.word o.2.modw o.1 []

/-- Entries dealt out to replay segments, 31 to a segment (R335). -/
def chunks31 : Nat → List (List Byte) → List (List (List Byte))
  | 0, _ => []
  | n + 1, l => if l.isEmpty then [] else l.take 31 :: chunks31 n (l.drop 31)

/-- Bytes padded with zeros to n. -/
def padTo (n : Nat) (bs : List Byte) : List Byte := bs ++ leBytes (n - bs.length) 0

/-- A segment written whole at its home and dropped from the core's saddlebag (R329). -/
def State.writeSegHome (s : State) (crew va : Nat) (bs : List Byte) : FrRes Nat :=
  frThen (s.frameXl crew va .store) fun t pa =>
    let u := t.modCore (t.crew crew).core fun c => { c with saddle := kdel c.saddle (pa / 1024) }
    (u.writeHome pa (padTo 1024 bs), .ok pa)

/-- The replay segments of a record written, chained through LINK (R335). -/
def State.writeReplay (s : State) (crew : Nat) : List Nat → List (List (List Byte)) → FrRes Unit
  | va :: more, c :: cs =>
    frThen (s.writeSegHome crew va (segHeader (more.headD 0) 2 false 0 false noOwner s.age ++ c.flatten)) fun t _ =>
      t.writeReplay crew more cs
  | _, _ => (s, .ok ())

/-- The captured segments linked into the continuation: OWNER set, and the bottom's LINK 0 (R328). -/
def State.unlinkSegs (s : State) (crew : Nat) : List SegHead → FrRes Unit
  | [] => (s, .ok ())
  | h :: hs =>
    frThen (s.frameWrite crew (h.va + 24) (leBytes 4 noOwner)) fun t _ =>
      if hs.isEmpty then t.frameWrite crew h.va (leBytes 8 (h.kind * 256)) else t.unlinkSegs crew hs

/-- The captured segments merged at their homes and dropped from the saddlebag (R329). -/
def State.homeSegs (s : State) (crew : Nat) : List SegHead → FrRes Unit
  | [] => (s, .ok ())
  | h :: hs =>
    frThen (s.frameXl crew h.va .load) fun t pa => (t.dropSeg (t.crew crew).core (pa / 1024)).homeSegs crew hs

/-- The GEN of the next continuation in a record segment (R333). -/
def State.nextGen (s : State) (crew va : Nat) (before : Bool) : FrRes Nat :=
  if before then frThen (s.frameRead crew (va + 36) 2) fun t bs => (t, .ok ((leNat bs + 1) % 1024)) else (s, .ok 1)

/-- The operations that a capture tracks become the continuation's: their owner is its record (R336). -/
def State.trackOps (s : State) (crew fid rec : Nat) (first : Nat) : State :=
  let ids := ((s.trackedOps crew fid).filter fun o => !o.2.isMem).map Prod.fst
  { s with ops := kmap s.ops fun id o => if ids.contains id then
      { o with owners := o.owners.map fun w => match w with
          | .fibre c f k => if c == crew && f == fid then .cont rec k (first + (ids.findIdx fun x => x == id)) else w
          | .cont _ _ _ => w } else o }

/-- The releases that a record carries: the capture's with its STATE, and with each token the completions of engine operations that its
next WAIT acquires (R220, R329). -/
def State.setContTags (s : State) (pa : Nat) (tag : RelTag) (f : Fibre) : State :=
  { s with tags := (List.range 16).foldl (fun m n => kset m (pa + 32 + 56 + 2 * n) (f.tok n).eng) (kset s.tags (pa + 32) [tag]) }

/-- The fibre's state moved into a record, and the fibre started at the hinge's handler (R326, R328, R329). -/
def State.captureInto (s : State) (crew fid : Nat) (e : Eff) (above : List SegHead) (h : SegHead) (rec : Nat)
    (reps : List Nat) (emerg before : Bool) : FrRes Unit :=
  let c := s.crew crew
  let f := (c.fibre fid).closed
  let entries := s.replayEntries crew fid
  let bottom := (above.getLast?.map SegHead.va).getD 0
  let top := (above.head?.map SegHead.va).getD 0
  let kmask := above.foldl (fun m x => if x.kind = 1 then m ||| x.mask else m) 0
  let link := if emerg then 0 else reps.headD 0
  let replay := if entries.isEmpty then 0 else if emerg then rec else reps.headD 0
  frThen (s.nextGen crew rec before) fun s1 gen =>
  frThen (s1.unlinkSegs crew above) fun s2 _ =>
  frThen (s2.homeSegs crew above) fun s3 _ =>
  frThen (s3.writeReplay crew reps (chunks31 reps.length entries)) fun s4 _ =>
  frThen (s4.writeSegHome crew rec (segHeader link 2 emerg 0 false noOwner s.age ++
      contHeader 1 c c.gang f e gen above.length top bottom kmask entries.length replay ++ contBody c.b f ++
      (if emerg then entries.flatten else []))) fun s5 pa =>
  frThen (s5.frameWrite crew (h.va + 56) [1]) fun s6 _ =>
  frThen (if above.isEmpty then (s6, .ok ()) else s6.frameWrite crew (h.va + 28) (leBytes 4 s.age)) fun s7 _ =>
    let (s8, tag) := (s7.drain (s7.agentOf c.core)).1.release c.core .package
    let s9 := s8.setContTags pa tag f
    let s10 := s9.trackOps crew fid pa (f.replay.length + f.attached.length)
    let s11 := (s10.leaveGroup crew fid).modCrew crew fun c =>
      { c.closedG fid with
               gpend := c.gpend.filter fun g => !((g.2.fids.getD []).contains fid)
               emergency := c.emergency || emerg }
    let s12 := s11.modFibre crew fid fun _ =>
      { f with v := kset (kset (kset (kset f.v 0 (BitVec.ofNat 32 (rec / 1024 * 1024 + gen))) 1
                  (BitVec.ofNat 32 (rec / 4294967296))) 2 (BitVec.ofNat 32 e.label)) 3 e.payload
               vwin := [], k := [], pend := [], replay := [], attached := [], merr := []
               seg := h.va, depth := f.depth - above.length
               effmask := BitVec.ofNat 64 (h.saved ||| h.mask), pc := h.hpc }
    (s12.enter crew fid, .ok ())

/-! ## Delivering an effect (R326 to R332) -/

/-- The nearest hinge of the fibre that handles a label, and the segments above it (R326). EFFMASK tells when there is none
(R325). -/
def State.hingeFor (s : State) (crew fid label : Nat) : FrRes (Option (List SegHead × SegHead)) :=
  let f := (s.crew crew).fibre fid
  if f.effmask.getLsbD label then
    s.searchDown crew (fun h => h.kind == 1 && !h.active && bitOf h.mask label) 256 f.seg []
  else (s, .ok none)

/-- A delivery whose frame access fails while it is FAULT or POISON for another such failure: it waits for the page, or the crew is
terminated (R319). -/
def State.hardBlocked (s : State) (crew fid : Nat) (e : Eff) : FrErr → State
  | .page va w =>
    ((s.leaveGroup crew fid).park crew fid (.effect e)).pageRequest (s.crew crew).pasid (va / 4096) w (.fibre crew fid)
  | .effect _ c => s.terminate crew c fid e.pc

/-- The emergency path of R326: FAULT with cause 0x98 into the crew's emergency segment; blocked says what follows a frame access that
fails, which leaves the fibre and its stack as they were. -/
def State.emergencyCapture (s : State) (blocked : FrErr → State) (crew fid : Nat) (e : Eff) : State :=
  let c := s.crew crew
  let e' := { e with label := 0, cause := 0x98, payload := 0x98, dst := 0xFF }
  if c.emergency then s.terminate crew 0x9A fid e.pc
  else
    match s.hingeFor crew fid 0 with
    | (_, .error x) => blocked x
    | (t, .ok none) => t.terminate crew 0x98 fid e.pc
    | (t, .ok (some (above, h))) =>
      if 18 < (t.replayEntries crew fid).length then t.terminate crew 0x9A fid e.pc
      else
        let rec_ := c.segFrame.emergency
        let u := t.modCrew crew fun c => { c with records := insertNew rec_ c.records }
        match u.captureInto crew fid e' above h rec_ [] true (c.records.contains rec_) with
        | (_, .error x) => blocked x
        | (v, .ok _) => v

/-- The capture of R326 and R328 at a hinge. It waits for the fibre's memory operations. -/
def State.capture (s : State) (blocked : FrErr → State) (crew fid : Nat) (e : Eff) (above : List SegHead) (h : SegHead) : State :=
  if s.memBusy crew fid then (s.leaveGroup crew fid).park crew fid (.effect e)
  else
    let n := (s.replayEntries crew fid).length
    match s.allocRecord crew (ceilDiv n 31) with
    | some (t, rec_, reps) =>
      let c := s.crew crew
      let before := c.records.contains rec_ || ((kget s.gangs c.gang).map fun g => g.poolRecords.contains rec_).getD false
      match t.captureInto crew fid e above h rec_ reps false before with
      | (_, .error x) => blocked x
      | (u, .ok _) => u
    | none => s.emergencyCapture blocked crew fid e

/-- Label 0 delivered: to a hinge, or the crew is terminated with the cause (R331). -/
def State.faultTo (s : State) (blocked : FrErr → State) (crew fid : Nat) (e : Eff) : State :=
  match s.hingeFor crew fid 0 with
  | (_, .error x) => blocked x
  | (t, .ok none) => t.terminate crew e.cause fid e.pc
  | (t, .ok (some (above, h))) => t.capture blocked crew fid e above h

/-- An effect whose default is FAULT with the same cause, or FAULT itself, delivered (R331). -/
def State.hardTo (s : State) (blocked : FrErr → State) (crew fid : Nat) (e : Eff) : State :=
  match s.hingeFor crew fid e.label with
  | (_, .error x) => blocked x
  | (t, .ok (some (above, h))) => t.capture blocked crew fid e above h
  | (t, .ok none) => t.faultTo blocked crew fid { e with label := 0 }

/-- A delivery whose frame access fails (R319): it waits for the page, or FAULT with cause 0x9F, or POISON with 0x4A or 0x4D, comes in its
place, at the same resume point (log entry 48). -/
def State.effectBlocked (s : State) (crew fid : Nat) (e : Eff) : FrErr → State
  | .page va w => s.hardBlocked crew fid e (.page va w)
  | .effect l c =>
    let x : Eff := { label := l, cause := c, payload := c.setWidth 32, rpc := e.rpc, stay := e.stay }
    s.hardTo (s.hardBlocked crew fid x) crew fid x

/-- Label 0 delivered: to a hinge, or the crew is terminated with the cause (R331). -/
def State.deliverFault (s : State) (crew fid : Nat) (e : Eff) : State := s.faultTo (s.effectBlocked crew fid e) crew fid e

/-- A request put among others in the order in which they issued (R185). -/
def insertReq (r : MemReq) : List MemReq → List MemReq
  | [] => [r]
  | q :: l => if r.seq < q.seq then r :: q :: l else q :: insertReq r l

/-- A request that needs its page writable (R177): a store, an atomic, or an operation of ALLOW that changes its counter. -/
def MemReq.writes (r : MemReq) : Bool :=
  match r.fn with
  | .store _ | .atom _ _ | .allow .init | .allow .take | .allow .give | .allow .exact => true
  | .load _ | .fence _ | .ifence | .allow .probe | .cache _ => false

/-- The pages that the records of cause 0x43 and 0x44 on the fibre's replay list name, each once (R185), and whether one of them needs it
writable. -/
def Fibre.pagesNeeded (f : Fibre) : List (Nat × Bool) :=
  let l := f.replay.filter fun r => r.cause == 0x43 || r.cause == 0x44
  ((l.map MemReq.page).eraseDups).map fun p => (p, l.any fun r => r.page == p && r.writes)

/-- Step 1 of R185: every attached record moves to the replay list, in issue order, its token counting it again, and every
token's error is cleared. -/
def Fibre.detachAll (f : Fibre) : Fibre :=
  let k := kmap f.k fun n t =>
    { t with count := t.count + (f.attached.filter fun r => r.k == n).length, err := false, cause := 0 }
  { f with k := k, merr := [], replay := f.attached.foldl (fun l r => insertReq r l) f.replay, attached := [] }

/-- The lowest token that holds an error. -/
def Fibre.errToken (f : Fibre) : Option Nat := (List.range 16).find? fun n => (f.tok n).err

/-- The fibre parks for the Page Requests that it needs, with the resume point of a denial; when it needs none, the caller lets
it go on. -/
def State.requestPages (s : State) (crew fid rpc : Nat) (stay : Bool) (pages : List (Nat × Bool)) : State :=
  let p := (s.crew crew).pasid
  pages.foldl (fun (t : State) x => t.pageRequest p x.1 x.2 (.fibre crew fid))
    ((s.leaveGroup crew fid).park crew fid (.page rpc stay))

/-- A fibre's replay list issued again, in issue order and without counting again (R135, R140, R185). -/
def State.reissue (s : State) (crew fid : Nat) : State :=
  let f := (s.crew crew).fibre fid
  let core := (s.crew crew).core
  let t := f.replay.foldl (fun (t : State) r =>
    let (id, u) := t.fresh
    { u with ops := kset u.ops id { kind := .mem { r with cause := 0, page := 0 } crew fid, issuer := crew, core := core,
                                    word := r.word, modw := r.modw, owners := [.fibre crew fid r.k] } }) s
  t.modFibre crew fid fun f => { f with replay := [] }

/-- An effect of a token's cause that no hinge of its own label handles becomes FAULT (R331). -/
def State.deliverHard (s : State) (crew fid : Nat) (e : Eff) : State := s.hardTo (s.effectBlocked crew fid e) crew fid e

/-- The captured segments of a continuation, top first. -/
def State.contSegs (s : State) (crew : Nat) : Nat → Nat → FrRes (List SegHead)
  | 0, _ => (s, .ok [])
  | n + 1, va =>
    frThen (s.segHead crew va) fun t h => frThen (t.contSegs crew n h.link) fun u l => (u, .ok (h :: l))

/-- n bytes of a continuation that Tamob has rewritten: their values are not defined. -/
def State.rewrite (s : State) (pa n : Nat) : State := s.writeHome pa ((List.range n).map fun k => Config.translated s.free (pa + k))

/-- The frames of a continuation rewritten: the return addresses, the handler addresses, and the bytes of the functions' frames. -/
def State.rewriteSegs (s : State) (crew : Nat) : List SegHead → FrRes Unit
  | [] => (s, .ok ())
  | h :: hs =>
    frThen (s.frameXl crew h.va .store) fun t pa =>
      let u := t.dropSeg (t.crew crew).core (pa / 1024)
      let v := if h.valid then u.rewrite (pa + 8) 8 else u
      let w := if h.kind = 1 then (v.rewrite (pa + 40) 8).rewrite (pa + 96) 928 else v.rewrite (pa + 32) 992
      w.rewriteSegs crew hs

/-- A continuation of another revision translated in place (step 2 of R344): its resume PC, register body and frames, and the revision.
The record is at pa. -/
def State.translateCont (s : State) (crew pa : Nat) : FrRes Unit :=
  frThen (s.contSegs crew (s.readNat (pa + 38) 2) (s.readNat (pa + 64) 8)) fun t segs =>
  frThen (t.rewriteSegs crew segs) fun u _ =>
    ((((u.rewrite (pa + 48) 8).rewrite (pa + 160) 272).writeHome (pa + 33) [0, 1]).bump, .ok ())

/-- REVISION without a hinge (R344): the continuation is translated and the resumer executes its RESUME again, or it performs FAULT with
cause 0x96 there. -/
def State.tamob (s : State) (crew fid : Nat) (e : Eff) : State :=
  let bad := s.deliverFault crew fid { e with label := 0, cause := 0x96, payload := 0x96 }
  match e.cont with
  | none => bad
  | some pa =>
    if Config.translates s.free then
      match (s.leaveGroup crew fid).translateCont crew pa with
      | (_, .error _) => bad
      | (t, .ok _) => (t.modFibre crew fid fun f => { f with pc := e.rpc }).enter crew fid
    else bad

/-- The service runtime's handling of PAGE without a hinge (R183 to R185). -/
def State.pageDefault (s : State) (crew fid : Nat) (e : Eff) : State :=
  let f := (s.crew crew).fibre fid
  let s0 := s.modFibre crew fid fun f => { f with pc := e.rpc }
  let after := if e.stay then e.rpc else e.rpc + 4
  if e.cause = 0x56 then
    let s1 := s0.modFibre crew fid Fibre.detachAll
    match (List.range 16).find? fun n => (f.tok n).err && !retryable (f.tok n).cause with
    | some n => (s1.modFibre crew fid fun g => g.setFlags (atomFlag (f.tok n).cause)).deliverHard crew fid
        { causeEff (f.tok n).cause after with stay := e.stay }
    | none =>
      if f.detachAll.pagesNeeded.isEmpty then ((s1.reissue crew fid).leaveGroup crew fid).enter crew fid
      else s1.requestPages crew fid after e.stay f.detachAll.pagesNeeded
  else
    match e.fetch, e.mon with
    | some (page, pc), _ => (s0.modFibre crew fid fun f => { f with pc := pc }).requestPages crew fid e.rpc true [(page, false)]
    | none, some (r, wide) =>
      (s0.requestPages crew fid e.rpc false [(r.ea / 4096, false)]).park crew fid (.waitmem r wide)
    | none, none => s0.requestPages crew fid after e.stay f.pagesNeeded

/-- A crew halts for the debugger (R331, R410): it is saved, and 0xBC is reported. One that an effect of the same word has ended halts no
more. -/
def State.haltCrew (s : State) (crew fid pc : Nat) : State :=
  let c := s.crew crew
  if !c.alive then s
  else (s.modCrew crew fun c => { c with life := .halting }).gangReport c.gang 0xBC fid pc

/-- The default of a label with no hinge (R331, R332). -/
def State.defaultOf (s : State) (crew fid : Nat) (e : Eff) : State :=
  let unhandled := fun (_ : Unit) => s.deliverFault crew fid { e with label := 0, cause := 0x9D, payload := 0x9D, dst := 0xFF }
  let same := fun (c : Cause) => s.deliverFault crew fid { e with label := 0, cause := c, payload := c.setWidth 32 }
  match e.label with
  | 0 => if e.prog then unhandled () else s.terminate crew e.cause fid e.pc
  | 1 => (s.leaveGroup crew fid).goOn crew fid e
  | 2 =>
    if e.prog then unhandled ()
    else (s.leaveGroup crew fid).modFibre crew fid fun f =>
      { f with pc := e.rpc, st := .parked (.wait (e.payload.toNat / 256 % 16) (e.payload.toNat % 64) e.stay) }
  | 3 => if e.prog then unhandled () else s.pageDefault crew fid e
  | 5 =>
    let g := (s.crew crew).gang
    let q := ((kget s.gangs g).map Gang.queue).getD 0
    let r : Report := ⟨s.tick, g, q, e.cause, 12, fid, e.payload.toNat, s.queueHead q⟩
    ({ s with raceReport := s.raceReport ++ [({ report := r, entry := none } : RaceNote)] }.leaveGroup crew fid).goOn crew fid e
  | 10 => (s.leaveGroup crew fid).goOn crew fid e
  | 11 => if e.prog then unhandled () else s.tamob crew fid e
  | 13 => ((s.leaveGroup crew fid).goOn crew fid { e with dst := 0xFF }).haltCrew crew fid e.pc
  | n => if e.prog || decide (14 ≤ n) then unhandled () else same e.cause

/-- An effect delivered to a fibre (R326): to the nearest hinge that handles its label, or by the label's default. -/
def State.deliver (s : State) (crew fid : Nat) (e : Eff) : State :=
  if (s.crew crew).alive then
    match s.hingeFor crew fid e.label with
    | (_, .error x) => s.effectBlocked crew fid e x
    | (t, .ok none) => t.defaultOf crew fid e
    | (t, .ok (some (above, h))) => t.capture (s.effectBlocked crew fid e) crew fid e above h
  else s

/-- Effects delivered to fibres of a crew, in order. -/
def State.deliverAll (s : State) (crew : Nat) (l : List (Nat × Eff)) : State :=
  l.foldl (fun (t : State) x => t.deliver crew x.1 x.2) s

/-! ## Tokens (R132 to R135) -/

/-- A token's count raised by one. -/
def Fibre.countUp (f : Fibre) (k : Nat) : Fibre := { f with k := kset f.k k { f.tok k with count := (f.tok k).count + 1 } }

/-- A token's count lowered by a completion, with its error (R133, R134). -/
def Tok.complete (t : Tok) (c : Option Cause) : Tok :=
  match c with
  | none => { t with count := t.count - 1 }
  | some c => if t.err then { t with count := t.count - 1 } else { t with count := t.count - 1, err := true, cause := c }

/-- An errored token taken by a WAIT (R135): the error cleared, and its retryable records moved to the replay list. -/
def Fibre.takeError (f : Fibre) (k : Nat) : Fibre :=
  let mine := f.attached.filter fun r => r.k == k
  { f.setFlags (atomFlag (f.tok k).cause) with
           k := kset f.k k { f.tok k with err := false, cause := 0, count := (f.tok k).count + mine.length }
           merr := kdel f.merr k
           replay := mine.foldl (fun l r => insertReq r l) f.replay
           attached := f.attached.filter fun r => r.k != k }

/-- The effect of an errored token at a WAIT, EXIT or RESUME at pc (R37, R135, R330, R339). -/
def State.tokenError (s : State) (crew fid k pc : Nat) (here : Bool) : State :=
  let c := (((s.crew crew).fibre fid).tok k).cause
  let t := s.modFibre crew fid fun f => f.takeError k
  t.deliver crew fid (causeEff c (if here || labelOf c == 3 then pc else pc + 4))

/-- A fibre counts nothing on any token. -/
def Fibre.tokensIdle (f : Fibre) : Bool := f.k.all fun t => t.2.count == 0

end Sys2Proof.Machine
end

