-- ==== Sys2Proof/Machine/Operands.lean ====
section
/-! DEFINITION. Operands and results of the lane engine: the guard (R69), selectors (R70 to R72), latency windows and strict
mode (R82, R86, R120, R137, R138), latches (R84, R85), uniform registers (R42, R43), the end of a word (R31), and words that
wait with parked fibres (R148). -/

namespace Sys2Proof.Machine

/-- A meaning that needs the issue context; it consumes the context and a use of the free counter. -/
def withIssue (s : State) (k : Issue → State → State) : Host.Outcome State Fault Refusal :=
  match s.cur with
  | none => .fault .noIssue
  | some i => .next (k i { s with cur := none, free := s.free + 1 })

/-- Why an operand or a result is refused on a lane: an effect's label and cause. -/
abbrev LaneErr := Nat × Cause

/-- The effect of a lane error at a word: it resumes at the next word (R330). -/
def laneEff (e : LaneErr) (pc : Nat) : Eff := { label := e.1, cause := e.2, payload := e.2.setWidth 32, rpc := pc + 4 }

/-- STRICT with cause 0x35, a window (R86). -/
def strictWindow : LaneErr := (9, 0x35)
/-- STRICT with cause 0x31, a pending register (R138). -/
def strictPending : LaneErr := (9, 0x31)
/-- STRICT with cause 0x34, an invalid latch (R85). -/
def strictLatch : LaneErr := (9, 0x34)

/-! ## V registers and P (R82, R86, R137, R138) -/

/-- A value read through the latest writes of its register (R82). -/
def readWin {α : Type} (now : α) (l : List (LatWrite α)) (pos pick : Nat) : α := pickOf now (oldsOf (fun w => w.openAt pos) l) pick

/-- Some write's window is open at a position, the WAIT for a token result apart (R82, R86). -/
def inLat {α : Type} (l : List (LatWrite α)) (pos : Nat) : Bool := l.any fun w => decide (pos < w.due)

/-- A value written after others: it stays, or that of an earlier write inside whose window it falls, or of a token result before its WAIT
(R82, R137). -/
def overWin {α : Type} (val : α) (l : List (LatWrite α)) (pos pick : Nat) : α :=
  pickOf val ((l.filter fun w => w.openAt pos).map LatWrite.val) pick

/-- A register as a word at the fibre's position sees it (R82, R137). -/
def Fibre.seeV (f : Fibre) (n pick : Nat) : Word := readWin (f.getV n) (kgetD f.vwin n []) f.pos pick

/-- The register is inside a latency window. -/
def Fibre.inWin (f : Fibre) (n : Nat) : Bool := inLat (kgetD f.vwin n []) f.pos

/-- What strict mode says of a read or write of a V register. -/
def Fibre.strictV (f : Fibre) (strict : Bool) (n : Nat) : Option LaneErr :=
  if strict && (kget f.pend n).isSome then some strictPending
  else if strict && f.inWin n then some strictWindow else none

/-- A result written to a register with a latency. -/
def Fibre.putV (f : Fibre) (lat n : Nat) (val : Word) (pick : Nat) : Fibre :=
  let l := kgetD f.vwin n []
  { f with v := kset f.v n (overWin val l f.pos pick), wrote := kset f.wrote n f.pos
           vwin := kset f.vwin n (addWrite (fun w => w.openAt f.pos) l { due := f.pos + lat, prev := f.getV n, val := val }) }

/-- The P stack is inside a window. -/
def Fibre.inPWin (f : Fibre) : Bool := inLat f.pwin f.pos

/-- The whole P stack as a word sees it (R82). -/
def Fibre.seeP (f : Fibre) (pick : Nat) : BitVec 7 := readWin f.p f.pwin f.pos pick

/-- A new P stack with a latency. -/
def Fibre.putP (f : Fibre) (lat : Nat) (p : BitVec 7) (pick : Nat) : Fibre :=
  { f with p := overWin p f.pwin f.pos pick
           pwin := addWrite (fun w => w.openAt f.pos) f.pwin { due := f.pos + lat, prev := f.p, val := p } }

/-- A push (R111): P[d] moves to P[d + 1], P[6] is discarded. -/
def pushP (p : BitVec 7) (r : Bool) : BitVec 7 := (p <<< 1) ||| (if r then 1 else 0)

/-- A drop from depth 1 on, with P[0] given (R113). -/
def dropP (p : BitVec 7) (v : Bool) : BitVec 7 := ((p >>> 1) &&& 0x7E) ||| (if v then 1 else 0)

/-- P with its top entry replaced. -/
def replP (p : BitVec 7) (v : Bool) : BitVec 7 := (p &&& 0x7E) ||| (if v then 1 else 0)

/-- The index register as a word sees it (R120). -/
def Fibre.seeX (f : Fibre) (x pick : Nat) : XReg := readWin (kgetD f.x x {}) (kgetD f.xwin x []) f.pos pick

/-- The index register is inside a window. -/
def Fibre.inXWin (f : Fibre) (x : Nat) : Bool := inLat (kgetD f.xwin x []) f.pos

/-- An index register written with the L6 latency of R118. -/
def Fibre.putX (f : Fibre) (x : Nat) (r : XReg) (pick : Nat) : Fibre :=
  let cur := kgetD f.x x {}
  let l := kgetD f.xwin x []
  { f with x := kset f.x x (overWin r l f.pos pick)
           xwin := kset f.xwin x (addWrite (fun w => w.openAt f.pos) l { due := f.pos + 6, prev := cur, val := r }) }

/-! ## G registers (R42, R43, R82, R137, R138) -/

/-- Some fibre of a list wrote it and is not yet at the position from which it sees it (R82). -/
def LatWrite.ownOpen (w : LatWrite Word) (c : Crew) (fids : List Nat) : Bool :=
  fids.any fun f => ((kget w.dues f).map fun d => decide ((c.fibre f).pos < d)).getD false

/-- The window of a uniform write is open for a group at a cycle: by own-stream distance for the fibres that wrote, by cycles for the
others (R82). -/
def LatWrite.openFor (w : LatWrite Word) (c : Crew) (fids : List Nat) (cycle : Nat) : Bool :=
  w.ownOpen c fids || (decide (cycle < w.due) && fids.any fun f => (kget w.dues f).isNone)

/-- The window of a uniform write is open for some group of the crew. -/
def LatWrite.openAny (w : LatWrite Word) (c : Crew) (cycle : Nat) : Bool :=
  w.tok.isSome || decide (cycle < w.due) || w.ownOpen c (kkeys w.dues)

/-- A G register as a group sees it. -/
def Crew.seeG (c : Crew) (n : Nat) (fids : List Nat) (cycle pick : Nat) : Word :=
  pickOf (c.getG n) (oldsOf (fun w => w.tok.isSome || w.openFor c fids cycle) (kgetD c.gwin n [])) pick

/-- What strict mode says of a read or write of a G register, its split bit apart. -/
def Crew.strictG (c : Crew) (strict : Bool) (n : Nat) (fids : List Nat) (cycle : Nat) : Option LaneErr :=
  if strict && (kget c.gpend n).isSome then some strictPending
  else if strict && (kgetD c.gwin n []).any (fun w => w.openFor c fids cycle) then some strictWindow else none

/-- A group holds every live fibre of the crew (R42). -/
def Crew.wholeGroup (c : Crew) (fids : List Nat) : Bool := c.fibres.all fun f => fids.contains f.1

/-- The split bit of a register after a write by a group (R42, R43). -/
def Crew.splitAfter (c : Crew) (n : Nat) (fids : List Nat) : BitVec 32 :=
  if c.wholeGroup fids then c.split &&& ~~~((1 : BitVec 32) <<< n) else c.split ||| ((1 : BitVec 32) <<< n)

/-- A uniform write by a group (R42, R43, R82, R137), when the next operation is to have the number next. Inside the window of an earlier
write of the same fibres, or before the WAIT for a token result, the value of that write may stay; over another group's write the later stays. -/
def Crew.putG (c : Crew) (lat n : Nat) (val : Word) (fids : List Nat) (cycle next pick : Nat) : Crew :=
  let cur := c.getG n
  let l := kgetD c.gwin n []
  { c with g := kset c.g n (pickOf val ((l.filter fun w => w.tok.isSome || w.ownOpen c fids).map LatWrite.val) pick)
           split := c.splitAfter n fids
           gwrote := kset c.gwrote n next
           gwin := kset c.gwin n (addWrite (fun w => w.openAny c cycle) l
             { due := cycle + lat, dues := fids.map fun f => (f, (c.fibre f).pos + lat), prev := cur, val := val }) }

/-! ## Selectors (R70 to R72) -/

/-- The 32-bit pattern of an integer constant selector (R70). -/
def intConst (k : Fin 8) : Word := ([0, 1, 2, 3, 4, 8, 16, 0xFFFFFFFF] : List Word).getD k.val 0

/-- The f32 pattern of a constant selector (R70). -/
def fltConst (k : Fin 7) : Word :=
  ([0x3F000000, 0x3F800000, 0x40000000, 0x40800000, 0xBF800000, 0xBF000000, 0x7F800000] : List Word).getD k.val 0

/-- What a lane reads its operands from: the crew and group before the word, and the free counter. -/
structure Env where
  iss : Issue
  crew : Crew
  cycle : Nat
  free : Nat

/-- The environment of a word. -/
def envOf (i : Issue) (s : State) : Env := ⟨i, s.crew i.crew, (s.core i.core).cycle, s.free⟩

/-- The free index of an element of a fibre read as the operand numbered i. -/
def Env.pick (e : Env) (fid elem i : Nat) : Nat := Config.freeIndex e.free fid (elem + 256 * i)

/-- A V register read as operand i. -/
def Env.readV (e : Env) (f : Fibre) (fid n i : Nat) : Except LaneErr Word :=
  match f.strictV e.iss.strict n with
  | some x => .error x
  | none => .ok (f.seeV n (e.pick fid n i))

/-- A G register read as operand i: the same value in every lane. -/
def Env.readG (e : Env) (n i : Nat) : Except LaneErr Word :=
  match e.crew.strictG e.iss.strict n e.iss.grp.fids e.cycle with
  | some x => .error x
  | none => .ok (e.crew.seeG n e.iss.grp.fids e.cycle (e.pick 4096 (100 + n) i))

/-- A latch read (R84, R85). -/
def Env.readLatch (e : Env) (fid k : Nat) : Except LaneErr Word :=
  match e.iss.grp.latches[k]? with
  | some l =>
    if l.pos + l.lat ≤ e.iss.grp.pos then .ok (kgetD l.vals fid 0)
    else if e.iss.strict then .error strictLatch else .ok 0
  | none => if e.iss.strict then .error strictLatch else .ok 0

/-- The register that V[Xn] names on a lane, or its fault (R120). -/
def Env.indexed (e : Env) (f : Fibre) (fid x i : Nat) : Except LaneErr Nat :=
  if e.iss.strict && f.inXWin x then .error strictWindow
  else
    let r := f.seeX x (e.pick fid (70 + x) i)
    if r.index < r.bound then .ok (r.base + r.index) else .error (0, 0x36)

/-- The value that a selector delivers on a lane (R70); pop is the value popped for a queue selector. -/
def Env.read (e : Env) (f : Fibre) (fid : Nat) (a : Sel) (i : Nat) (pop : Word) : Except LaneErr Word :=
  match a with
  | .v n => e.readV f fid n.val i
  | .g n => e.readG n.val i
  | .latch k => e.readLatch fid k.val
  | .vx x => match e.indexed f fid x.val i with
    | .ok n => e.readV f fid n i
    | .error x => .error x
  | .q _ => .ok pop
  | .int k => .ok (intConst k)
  | .flt k => .ok (fltConst k)
  | .imm => .ok (e.iss.imm.getD 0)

/-- A 32-bit value sign-extended to a pair. -/
def signPair (w : Word) : Word × Word := (w, if w.msb then 0xFFFFFFFF else 0)

/-- The pair that a selector delivers (R72): low and high half. -/
def Env.readPair (e : Env) (f : Fibre) (fid : Nat) (a : Sel) (i : Nat) : Except LaneErr (Word × Word) :=
  match a with
  | .v n =>
    match e.readV f fid n.val i, e.readV f fid (n.val + 1) i with
    | .ok lo, .ok hi => .ok (lo, hi)
    | .error x, _ => .error x
    | _, .error x => .error x
  | .g n =>
    match e.readG n.val i, e.readG (n.val + 1) i with
    | .ok lo, .ok hi => .ok (lo, hi)
    | .error x, _ => .error x
    | _, .error x => .error x
  | .int k => .ok (signPair (intConst k))
  | .imm => .ok (signPair (e.iss.imm.getD 0))
  | .latch _ | .vx _ | .q _ | .flt _ => .ok (0, 0)

/-- Registers Vn to V(n + m - 1) lie below the budget (R96). -/
def vFits (b n m : Nat) : Bool := decide (n + m ≤ b)

/-- A selector's V registers lie below the budget (R96): m registers of it are read. -/
def selFits (a : Sel) (b m : Nat) : Bool :=
  match a with
  | .v n => vFits b n.val m
  | .g _ | .latch _ | .vx _ | .q _ | .int _ | .flt _ | .imm => true

/-- The G registers that a selector reads: m of them. -/
def selRegs (a : Sel) (m : Nat) : List Nat :=
  match a with
  | .g n => (List.range m).map fun i => n.val + i
  | .v _ | .latch _ | .vx _ | .q _ | .int _ | .flt _ | .imm => []

/-- Some register of a list has its split bit set and the word is strict (R43, R128). -/
def Env.splitRead (e : Env) (regs : List Nat) : Bool := e.iss.strict && regs.any fun n => e.crew.split.getLsbD n

/-! ## The guard (R69) -/

/-- A guard over a stack. -/
def guardHolds (g : Guard) (p : BitVec 7) : Bool :=
  match g with
  | .all => true
  | .unlessP d => !p.getLsbD d.val
  | .ifP d => p.getLsbD d.val

/-- The guard reads P. -/
def guardReadsP (g : Guard) : Bool := match g with | .all => false | .unlessP _ | .ifP _ => true

/-- The fibres of a group by its guard: selected, excluded, and refused because strict mode forbids the read of P (R86). -/
structure Lanes where
  sel : List Nat
  out : List Nat
  bad : List (Nat × Eff)

/-- The selection of a guard over the issuing group. A word that has waited runs on the fibres that parked at it. -/
def Env.lanes (e : Env) (g : Guard) : Lanes :=
  if e.iss.again then ⟨e.iss.grp.fids, [], []⟩
  else e.iss.grp.fids.foldl (fun (l : Lanes) fid =>
    let f := e.crew.fibre fid
    if guardReadsP g && e.iss.strict && f.inPWin then { l with bad := l.bad ++ [(fid, laneEff strictWindow e.iss.pc)] }
    else if guardHolds g (f.seeP (e.pick fid 64 0)) then { l with sel := l.sel ++ [fid] }
    else { l with out := l.out ++ [fid] }) ⟨[], [], []⟩

/-! ## The end of a word (R31, R65, R370) -/

/-- The fibres of a group that are still in it continue at an address. -/
def State.setPcs (s : State) (crew : Nat) (fids : List Nat) (pc : Nat) : State :=
  fids.foldl (fun (t : State) fid => t.modFibre crew fid fun f => { f with pc := pc }) s

/-- A fibre taken out of the overflow queue, if it is there. -/
def State.leaveOverflow (s : State) (crew fid : Nat) : State :=
  match ((s.crew crew).fibre fid).st with
  | .overflow => s.modCore (s.crew crew).core fun k => { k with overflow := k.overflow.filter fun e => e != (crew, fid) }
  | .loose _ | .formed _ | .parked _ => s

/-- PREEMPT for a fibre of a draining crew that has come to a switch point (R370): one that is parked there performs it when its wait
ends. -/
def State.preemptFibre (s : State) (crew fid : Nat) : State :=
  let f := (s.crew crew).fibre fid
  if !f.preempted then s
  else match f.st with
    | .parked _ => s.modFibre crew fid fun f => { f with preemptDue := true }
    | .loose _ | .formed _ | .overflow =>
      let u := s.modFibre crew fid fun f => { f with preempted := false, preemptDue := false }
      if f.effmask.getLsbD 10 then (u.leaveOverflow crew fid).deliver crew fid (causeEff 0xAC f.pc) else u

/-- PREEMPT for the fibres of a draining crew that have come to a switch point (R370). -/
def State.preemptNotice (s : State) (crew : Nat) (fids : List Nat) : State :=
  if (s.crew crew).life == .draining then fids.foldl (fun (t : State) fid => t.preemptFibre crew fid) s else s

/-- PREEMPT for the fibres of draining crews whose wait at a switch point has ended (R370). -/
def State.preemptLate (s : State) : State :=
  (s.crews.filter fun c => c.2.life == .draining).foldl (fun (t : State) c =>
    (c.2.fibres.filter fun f => f.2.preemptDue).foldl (fun (u : State) f => u.preemptFibre c.1 f.1) t) s

/-- The issuing group dissolved after a switch point (R31). -/
def State.endSwitch (s : State) (i : Issue) : State :=
  (match i.gid with | some g => s.dissolve i.crew g | none => s).preemptNotice i.crew i.grp.fids

/-- The end of a word after which every fibre continues at the next word: effects are delivered, and the group goes on
unless an effect or a switch point ends it. -/
def State.endWord (s : State) (i : Issue) (latches : List Latch) (switch : Bool) (bad : List (Nat × Eff)) : State :=
  let t := s.setPcs i.crew i.grp.fids (i.pc + 4)
  if switch || !bad.isEmpty then
    let u := t.deliverAll i.crew (i.grp.fids.flatMap fun f => bad.filter fun x => x.1 == f)
    if switch then u.endSwitch i else match i.gid with | some g => u.dissolve i.crew g | none => u
  else
    match i.gid with
    | some g => t.modCrew i.crew fun c =>
        { c with groups := kmod c.groups g fun x => { x with pc := i.pc + 4, latches := latches } }
    | none => t

/-- An effect on every fibre of the issuing group, which executes the word on no lane (R87, R96, R128). -/
def State.groupEffect (s : State) (i : Issue) (e : LaneErr) : State :=
  s.endWord i i.grp.latches false (i.grp.fids.map fun f => (f, laneEff e i.pc))

/-- The latches after a producer (R84). -/
def Issue.produce (i : Issue) (lat : Nat) (vals : KMap Word) : List Latch := (⟨i.grp.pos, lat, vals⟩ :: i.grp.latches).take 4

/-! ## Words that wait with parked fibres -/

/-- Fibres park at a word that waits. -/
def State.parkHeld (s : State) (i : Issue) (instr : Instr) (sel : List Nat) (why : HoldFor) (waited : List Nat) : Nat × State :=
  let (id, s1) := s.fresh
  let s2 := s1.setPcs i.crew sel i.pc
  let s3 := sel.foldl (fun (t : State) f => t.park i.crew f (.held id)) s2
  let h : Held := ⟨instr, { i with gid := none, grp := { i.grp with fids := sel }, waited := waited }, why⟩
  (id, s3.modCrew i.crew fun c => { c with held := kset c.held id h })

/-- A word waits: its selected fibres park at it, the others go on at the next word, and the group ends. -/
def State.holdWord (s : State) (i : Issue) (instr : Instr) (sel : List Nat) (why : HoldFor) : State :=
  let s1 := s.setPcs i.crew (i.grp.fids.filter fun f => !sel.contains f) (i.pc + 4)
  (s1.parkHeld i instr sel why []).2.endSwitch i

/-- A fibre parks at its word until the host answers a Page Request for an access of the frame engine (R319). -/
def State.holdPage (s : State) (i : Issue) (instr : Instr) (fid va : Nat) (w : Bool) : State :=
  let (id, t) := s.parkHeld i instr [fid] .page []
  t.pageRequest (t.crew i.crew).pasid (va / 4096) w (.held i.crew id)

/-! ## Queues (R147, R148) -/

/-- The crew of a stage of the same pipeline. -/
def State.stageCrew (s : State) (c : Crew) (stage : Nat) : Option (Nat × Crew) :=
  kfind s.crews fun _ d => d.gang == c.gang && d.x == c.x && d.y == c.y && d.z == c.z && d.stage == stage

/-- The queue that a selector pops. -/
def selQueue (a : Sel) : List Nat :=
  match a with
  | .q n => [n.val]
  | .v _ | .g _ | .latch _ | .vx _ | .int _ | .flt _ | .imm => []

/-- What a queue access finds: it can run, it waits, or it is the fault of R147. -/
inductive QueueGo where
  | run | wait | bad
deriving DecidableEq, Repr

/-- The entries of a queue. -/
def Crew.queue (c : Crew) (q : Nat) : List Word := kgetD c.queues q []

/-- The pops of a word on n lanes, for one queue that it uses m times a lane (R147, R148). A word whose pops exceed what the queue still
holds after its pusher has ended is the fault too, and takes no value (DESIGN CHOICE, log entry 137). -/
def State.popState (s : State) (crew q m n : Nat) : QueueGo :=
  let c := s.crew crew
  if c.stage = 0 then .bad
  else if n * m ≤ (c.queue q).length then .run
  else match s.stageCrew c (c.stage - 1) with
    | some (_, p) => if p.alive then .wait else .bad
    | none => .wait

/-- The pushes of a word on n lanes. -/
def State.pushState (s : State) (crew q n : Nat) : QueueGo :=
  let c := s.crew crew
  let stages := ((kget s.gangs c.gang).map fun g => g.launch.s).getD 1
  if stages ≤ c.stage + 1 || !c.qmask.getLsbD q then .bad
  else match s.stageCrew c (c.stage + 1) with
    | some (_, p) => if !p.alive then .bad else if (p.queue q).length + n ≤ 256 then .run else .wait
    | none => .wait

/-- The queue ends that an instruction uses: pops of queues, once for each use. -/
def popsOf (l : List Sel) : List Nat := l.flatMap selQueue

/-- What the pops of a word on n lanes find, all its queues together. -/
def State.popsState (s : State) (crew : Nat) (qs : List Nat) (n : Nat) : QueueGo :=
  let rs := qs.eraseDups.map fun q => s.popState crew q (qs.count q) n
  if rs.contains .bad then .bad else if rs.contains .wait then .wait else .run

/-- The values popped by a lane: for each use in order, from its queue (R148, R163). -/
def popLane : List Nat → KMap (List Word) → List Word × KMap (List Word)
  | [], m => ([], m)
  | q :: qs, m =>
    let l := kgetD m q []
    let r := popLane qs (kset m q (l.drop 1))
    (l.headD 0 :: r.1, r.2)

/-- The values popped by lanes in order, and the queues after. -/
def popLanes (qs : List Nat) : List Nat → KMap (List Word) → KMap (List Word) × KMap (List Word)
  | [], m => ([], m)
  | fid :: fids, m =>
    let (vals, m1) := popLane qs m
    let (rest, m2) := popLanes qs fids m1
    ((fid, vals) :: rest, m2)

end Sys2Proof.Machine
end

