-- ==== Sys2Proof/Machine/Fetch.lean ====
section
/-! DEFINITION. Instruction fetch (R66, R80, R177, R184, R218): targets, the translated read of a word through the core's
instruction cache and its die's copy store, and function headers. -/

namespace Sys2Proof.Machine

/-- The cause of a target that a transfer refuses (R66): misaligned, for indirect transfers, or non-canonical. -/
def targetCause (t : Nat) (indirect : Bool) : Option Cause :=
  if indirect && t % 4 != 0 then some 0x1A else if !canonical57 t then some 0x1B else none

/-- The target of a direct branch or call: PC + 4 * sext(DISP), modulo 2^64. -/
def directTarget (pc : Nat) (disp : BitVec 21) : Nat := (BitVec.ofNat 64 pc + (disp.signExtend 64 <<< 2)).toNat

/-- The key of a fetched word in the instruction stores: PASID and virtual address. -/
def codeKey (pasid va : Nat) : Nat := pasid * 2 ^ 64 + va

/-- A word of a home, freely old or new where a store of an instruction cache still holds it (R218). -/
def State.codeWord (s : State) (core key pa : Nat) : State × Word :=
  match kget (s.core core).icache key with
  | some w => (s, w)
  | none =>
    let home := isDevice pa && homeDie pa == dieOf core
    let w := match (kget (s.die (dieOf core)).code key).filter fun _ => !home with
      | some w => w
      | none => BitVec.ofNat 32 (s.readNat pa 4)
    let t := s.modCore core fun c => { c with icache := kset c.icache key w }
    (if home then t else t.modDie (dieOf core) fun d => { d with code := kset d.code key w }, w)

/-- The word at an address as a core fetches it for a PASID, or the cause of the fetch fault (R177, R184). -/
def State.fetchWord (s : State) (core pasid va : Nat) : State × Except Cause Word :=
  match s.coreXl core pasid va .fetch with
  | (t, .fault c) => (t, .error c)
  | (t, .ok pa _) =>
    let key := codeKey pasid va
    match (if (kget (t.core core).icache key).isSome then none else t.dataCause pa 4) with
    | some c => (t, .error c)
    | none => let r := t.codeWord core key pa; (r.1, .ok r.2)

/-- The effect of a fetch fault (R184, R330): it resumes at the unfetched word, and the default of PAGE fetches again at
refetch. -/
def fetchEff (c : Cause) (va rpc refetch : Nat) : Eff :=
  { causeEff c rpc with fetch := if retryable c then some (va / 4096, refetch) else none, stay := true }

/-- The budget that a function header gives, if the word is a valid header (R80). -/
def headerBudget (w : Word) : Option Nat :=
  let n := w.toNat
  if bitsOf n 31 25 = 0x7F ∧ bitsOf n 24 16 = 0x1A5 ∧ bitsOf n 15 3 = 0 then some (8 * (n % 8 + 1)) else none

end Sys2Proof.Machine
end

