-- ==== Sys2Proof/Machine/Engine.lean ====
section
/-! DEFINITION. What every engine operation shares (R15 to R18, R132 to R138, R140, R143 to R146, R220, R277, R278, R336):
counting on tokens, completion on a fibre or a continuation record, register results, the return of a WAIT, and barriers. -/

namespace Sys2Proof.Machine

/-! ## Counting (R132) -/

/-- The fibres of a list that can count on a token, with the count raised, and STRICT 0x30 for the others (R132). -/
def State.countOn (s : State) (i : Issue) (k : Nat) (fids : List Nat) : State × List Nat × List (Nat × Eff) :=
  let full := fun fid => decide (63 ≤ (((s.crew i.crew).fibre fid).tok k).count)
  let parts := fids.filter fun fid => !full fid
  let bad := (fids.filter full).map fun fid => (fid, laneEff (9, 0x30) i.pc)
  (parts.foldl (fun (t : State) fid => t.modFibre i.crew fid fun f => f.countUp k) s, parts, bad)

/-! ## Results in registers (R137, R138) -/

/-- A token result written to a register at completion: a read before the WAIT sees it or the old value, and a lane write
after the issue leaves either (R137). -/
def Fibre.land (f : Fibre) (k pos n : Nat) (val : Word) (pick : Nat) : Fibre :=
  let cur := f.getV n
  let later := (kget f.wrote n).any fun p => decide (pos < p)
  { f with v := kset f.v n (if later then pickOf val [cur] pick else val)
           vwin := kset f.vwin n (addWrite (fun w => w.openAt f.pos) (kgetD f.vwin n [])
             { due := 0, tok := some k, prev := cur, val := val }) }

/-- Results in consecutive registers. -/
def Fibre.landAll (f : Fibre) (k pos n : Nat) (vals : List Word) (pick : Nat → Nat) : Fibre :=
  (vals.foldl (fun (r : Fibre × Nat) v => (r.1.land k pos (n + r.2) v (pick (n + r.2)), r.2 + 1)) (f, 0)).1

/-- Registers marked pending on a token at the issue of a word in strict mode (R138). -/
def Fibre.markPend (f : Fibre) (k : Nat) (regs : List Nat) : Fibre :=
  { f with pend := regs.foldl (fun m n => kset m n ⟨some k, false, some f.pos⟩) f.pend }

/-- The pending marks of registers whose operation, of the word at an own-stream position, has completed with a result or an error (R138). -/
def Fibre.markDone (f : Fibre) (k pos : Nat) (regs : List Nat) : Fibre :=
  { f with pend := regs.foldl (fun m n => kmod m n fun p =>
      if p.tok == some k && p.pos.all fun q => q == pos then { p with done := true } else p) f.pend }

/-- The token results of the operation id written to G registers at completion, as uniform writes of the issuing fibres (R42, R137); a
uniform write after the operation's issue leaves either value. -/
def Crew.landG (c : Crew) (id k n : Nat) (vals : List Word) (fids : List Nat) (pick : Nat → Nat) : Crew :=
  (vals.foldl (fun (r : Crew × Nat) v =>
    let m := n + r.2
    let cur := r.1.getG m
    let later := (kget r.1.gwrote m).any fun x => decide (id < x)
    ({ r.1 with
        g := kset r.1.g m (if later then pickOf v [cur] (pick m) else v)
        split := r.1.splitAfter m fids
        gwin := kset r.1.gwin m (kgetD r.1.gwin m [] ++ [{ due := 0, tok := some k, fids := fids, prev := cur, val := v }]) },
     r.2 + 1)) (c, 0)).1

/-- The pending marks of G registers whose operation has completed (R138). -/
def Crew.markDoneG (c : Crew) (id : Nat) (regs : List Nat) : Crew :=
  { c with gpend := regs.foldl (fun m n => kmod m n fun p => if p.op == id then { p with done := true } else p) c.gpend }

/-! ## Result buffers of the matrix engine (R277, R278) -/

/-- A result buffer opened as one event: its footprint goes to the scratchpad (R278). -/
def State.openBuf (s : State) (crew : Nat) (b : ResBuf) : State :=
  let c := s.crew crew
  let at_ := c.segScratch.base + b.toff
  (s.wakeRange (clusterOf c.core) at_ b.len).writeScratch (clusterOf c.core) at_ (b.bytes.take b.len)

/-- The unopened buffers of a crew's claims that pass a test opened, and emptied. -/
def State.openBufs (s : State) (crew : Nat) (test : ResBuf → Bool) : State :=
  let bufs := (s.crew crew).claims.flatMap fun k => k.bufs.filter test
  (bufs.foldl (fun (t : State) b => t.openBuf crew b) s).modCrew crew fun c =>
    { c with claims := c.claims.map fun k => { k with bufs := k.bufs.filter fun b => !test b } }

/-! ## The return of a WAIT (R135, R138, R220, R278) -/

/-- Marks and windows of a fibre that a normal return of a WAIT on a token closes. -/
def Fibre.waited (f : Fibre) (k : Nat) : Fibre :=
  { f with pend := f.pend.filter fun p => p.2.tok.isSome && !(p.2.tok == some k && p.2.done)
           vwin := kmap f.vwin fun _ l => seenBy (fun w => w.tok == some k) l
           k := kmod f.k k fun t => { t with eng := [] } }

/-- Marks and windows of a crew's G registers that it closes. -/
def Crew.waited (c : Crew) (fid k : Nat) : Crew :=
  { c with gpend := c.gpend.filter fun p =>
             !(p.2.fids.isNone || (p.2.tok == some k && p.2.done && (p.2.fids.getD []).contains fid))
           gwin := kmap c.gwin fun _ l => seenBy (fun w => w.tok == some k && (w.fids.isEmpty || w.fids.contains fid)) l }

/-- The normal return of a WAIT on a token: pending marks clear (R138), result buffers open (R278), and the completions of
engine operations with global writes are acquired at PACKAGE scope (R220), and those of sends at SYSTEM scope (R292). -/
def State.waitReturn (s : State) (crew fid k : Nat) : State :=
  let eng := (((s.crew crew).fibre fid).tok k).eng
  let t := (s.modFibre crew fid fun f => f.waited k).modCrew crew fun c => c.waited fid k
  let u := t.openBufs crew fun b => (b.owners.contains (.fibre crew fid k)) && (kget t.ops b.lastOp).isNone
  if eng.isEmpty then u
  else
    let core := (u.crew crew).core
    let sc := if eng.any fun t => t.scope == .system then Scope.system else .package
    (((u.acquire core sc []).1).synchronise core sc (u.gangChips crew) eng).modFibre crew fid fun f => { f with observed := [] }

/-- A fibre whose wait on a token can return does so (R135). At a WAIT it takes the token's error or goes on; at an EXIT or RESUME it
looks at its tokens again, and takes an error, at that word (R37, R339). -/
def State.finishWait (s : State) (crew fid k : Nat) (stay : Bool) : State :=
  let f := (s.crew crew).fibre fid
  if (f.tok k).err then (if stay then s.enter crew fid else s.tokenError crew fid k f.pc false)
  else ((s.waitReturn crew fid k).modFibre crew fid fun f => { f with pc := if stay then f.pc else f.pc + 4 }).enter crew fid

/-- A parked fibre looks again after a completion: at its WAIT (R135), or at a capture that waited for its memory
operations (R328). -/
def State.recheck (s : State) (crew fid : Nat) : State :=
  let f := (s.crew crew).fibre fid
  match f.st with
  | .parked (.wait k t stay) => if (f.tok k).count ≤ t then s.finishWait crew fid k stay else s
  | .parked (.effect e) =>
    if s.memBusy crew fid || s.pageWaits (.fibre crew fid) then s else s.deliver crew fid e
  | _ => s

/-! ## Continuation records (R334 to R336) -/

/-- The physical address of a field of the continuation header in the record segment at rec. -/
def contAt (rec off : Nat) : Nat := rec + 32 + off

/-- A token of a continuation record. -/
def State.contTok (s : State) (rec k : Nat) : Tok :=
  let n := s.readNat (contAt rec (56 + 2 * k)) 2
  { count := n % 64, err := bitOf n 6, cause := BitVec.ofNat 8 (n / 256), eng := kgetD s.tags (contAt rec (56 + 2 * k)) [] }

/-- The physical address of a replay entry of a record (R335), walking the chain of replay segments, or the address and the cause of an access
that fails. -/
def State.replayPa (s : State) (pasid : Nat) : Nat → Nat → Nat → Except (Nat × Cause) Nat
  | 0, va, _ => .error (va, 0x9F)
  | n + 1, va, entry =>
    match (s.engineXl pasid va .store).2 with
    | .fault c => .error (va, c)
    | .ok pa _ => if entry < 31 then .ok (pa + 32 + 32 * entry)
                  else s.replayPa pasid n (s.readNat pa 8 / 1024 * 1024) (entry - 31)

/-- The gang of the continuation in a record (R334). -/
def State.recGang (s : State) (rec : Nat) : Nat := s.readNat (contAt rec 8) 8

/-- The PASID of its gang. -/
def State.recPasid (s : State) (rec : Nat) : Nat := ((kget s.gangs (s.recGang rec)).map Gang.pasid).getD 0

/-- The physical address of an entry of a record: in the record itself when it is an emergency record (R318). -/
def State.entryPa (s : State) (rec entry : Nat) : Except (Nat × Cause) Nat :=
  if bitOf (s.readNat rec 1) 7 then .ok (contAt rec (400 + 32 * entry))
  else s.replayPa (s.recPasid rec) (entry / 31 + 1) (s.readNat (contAt rec 104) 8) entry

/-- A gang whose frame heap cannot be reached by an access that no instruction of a fibre caused (R319): 0x9F is reported, and the gang is
terminated as with a crew of it. -/
def State.loseRecord (s : State) (rec : Nat) : State := (s.gangReport (s.recGang rec) 0x9F noFibre 0).killGang (s.recGang rec) 0xA9

/-- DONE set in an entry of a record (R335, R336): a page that is not there is asked for first (R319). -/
def State.setDone (s : State) (rec entry : Nat) : State :=
  match s.entryPa rec entry with
  | .ok pa => s.writeHome (pa + 16) [1]
  | .error (va, c) =>
    if c = 0x43 ∨ c = 0x44 then s.pageRequest (s.recPasid rec) (va / 4096) true (.entry rec entry) else s.loseRecord rec

/-- The completion of a tracked operation applied to a record (R336): its token, the DONE bit of its entry, its register
results, and the releases that the next WAIT acquires (R220). -/
def State.completeCont (s : State) (rec k entry : Nat) (c : Option Cause) (eng : List RelTag) (reg : Nat) (vals : List Word) : State :=
  let t := (s.contTok rec k).complete c
  let s0 := s.writeHome (contAt rec (56 + 2 * k)) (tokBytes t)
  let s1 := { s0 with tags := kset s0.tags (contAt rec (56 + 2 * k)) (addTags t.eng eng) }
  let s2 := (vals.foldl (fun (r : State × Nat) v =>
    (r.1.writeHome (contAt rec (128 + 4 * (reg + r.2))) (leBytes 4 v.toNat), r.2 + 1)) (s1, 0)).1
  s2.setDone rec entry

/-! ## Completion (R133, R134) -/

/-- A crew that is in its image: no engine writes its registers, tokens, barriers or scratchpad (R20). -/
def Crew.imaged (c : Crew) : Bool := c.life == .saved || c.life == .halted || c.life == .restoring

/-- A completion counted on an owner: the registers that the operation writes are no longer waited for, and hold its results if it has
any. One for a fibre of a saved crew waits in the crew's image (R20). -/
def State.completeFor (s : State) (w : Owner) (c : Option Cause) (eng : List RelTag) (regs : List Nat) (pos : Nat)
    (vals : List Word) : State :=
  match w with
  | .fibre crew fid k =>
    if (s.crew crew).imaged then s.modCrew crew fun x => { x with late := x.late ++ [⟨fid, k, c, eng, regs, pos, vals⟩] }
    else
    let t := (s.bump.modFibre crew fid fun f =>
      let g := (f.landAll k pos (regs.headD 0) vals fun n => Config.freeIndex s.free fid n).markDone k pos regs
      { g with k := kset g.k k { (g.tok k).complete c with eng := addTags (g.tok k).eng eng } })
    t.recheck crew fid
  | .cont rec k entry => s.completeCont rec k entry c eng (regs.headD 0) vals

/-- A completion counted on every owner of an operation. -/
def State.completeAll (s : State) (o : Op) (c : Option Cause) (eng : List RelTag) : State :=
  o.owners.foldl (fun (t : State) w => t.completeFor w c eng [] 0 []) s

/-! ## Barriers (R18, R143 to R146, R206) -/

/-- An entry added to a barrier's record: a fifth names every core of the cluster (R206). -/
def addBarEntry (l : List RelEntry) (a cluster : Nat) : List RelEntry :=
  if l.contains ⟨.agent a, .cluster⟩ || l.contains ⟨.cluster cluster, .cluster⟩ then l
  else if l.length < 4 then l ++ [⟨.agent a, .cluster⟩]
  else [⟨.cluster cluster, .cluster⟩]

/-- The acquire at CLUSTER scope through a barrier's record of a fibre released from BARW or at BARRD (R146, R206): steps 2 to 5 of R203, with
the cause of a drain that fails, which closes nothing (R214). -/
def State.barAcquire (s : State) (crew fid n : Nat) : Tried :=
  let c := s.crew crew
  let b := c.bar n
  let seen := b.rel.foldl (addEntry 8) (c.fibre fid).observed
  let (t, err) := s.acquire c.core .cluster seen
  let u := t.modFibre crew fid fun f => { f with observed := [] }
  (if err.isNone then u.synchronise c.core .cluster [] b.tags else u, err)

/-- A fibre released from BARW goes on at the next word, or takes there the cause with which its acquire ends (R206, R214). -/
def State.barRelease (s : State) (crew fid n : Nat) : State :=
  match s.barAcquire crew fid n with
  | (t, none) => t.enter crew fid
  | (t, some c) => (t.enter crew fid).deliver crew fid (causeEff c ((t.crew crew).fibre fid).pc)

/-- A barrier with a function applied. -/
def State.modBar (s : State) (crew n : Nat) (k : Barrier → Barrier) : State :=
  s.modCrew crew fun c => { c with bars := kset c.bars n (k (c.bar n)) }

/-- The fibres parked in BARW for a phase of a barrier. -/
def Crew.barWaiters (c : Crew) (n phase : Nat) : List Nat :=
  (c.fibres.filter fun f => f.2.st == .parked (.barw n phase)).map Prod.fst

/-- A phase that completes releases its BARW fibres in the same cycle (R144). -/
def State.completePhase (s : State) (crew n : Nat) : State :=
  let b := (s.crew crew).bar n
  let t := s.modBar crew n fun b => { b with phase := (b.phase + 1) % 65536, arrived := 0, eng := 0 }
  ((s.crew crew).barWaiters n b.phase).foldl (fun (u : State) fid => u.barRelease crew fid n) t

/-- One arrival on a barrier whose release record and tags are in place (R144). -/
def State.countArrival (s : State) (crew n : Nat) : State :=
  let b := (s.crew crew).bar n
  let t := s.modBar crew n fun b => { b with arrived := (b.arrived + 1) % 4096 }
  if b.expected ≠ 0 ∧ b.expected ≤ b.arrived + 1 then t.completePhase crew n else t

/-- A fibre's arrival: a release at CLUSTER scope (R146, R206). -/
def State.arriveFibre (s : State) (crew n : Nat) : State :=
  let core := (s.crew crew).core
  let (t, tag) := s.release core .cluster
  (t.modBar crew n fun b =>
    { b with rel := addBarEntry b.rel (t.agentOf core) (clusterOf core), tags := addTags b.tags [tag] }).countArrival crew n

/-- An engine's arrival: a release of its agent at CLUSTER scope, with no entry in the record (R18, R146, R206). -/
def State.arriveEngine (s : State) (crew n : Nat) (agent : Option Nat) : State :=
  let s0 := s.modBar crew n fun b => { b with eng := b.eng + 1 }
  match agent with
  | none => s0.countArrival crew n
  | some a =>
    let (t, tag) := s0.release a .cluster
    (t.modBar crew n fun b => { b with tags := addTags b.tags [tag] }).countArrival crew n

/-- The arrival of an operation that names a barrier (R18). -/
def State.arriveOp (s : State) (crew : Nat) (bar : Option Nat) (agent : Option Nat) : State :=
  match bar with
  | none => s
  | some n => s.arriveEngine crew n agent

end Sys2Proof.Machine
end

