-- ==== Sys2Proof/Machine/Sels.lean ====
section
/-! DEFINITION. Which operands an instruction has: its selectors, those read as pairs (R72), its guard, whether it has an
offset (R154), and its queue ends. -/

namespace Sys2Proof.Machine

/-- The selectors of an instruction. -/
def allSels : Instr → List Sel
  | .iadd _ a b | .isub _ a b | .imul _ a b | .imulhs _ a b | .imulhz _ a b | .imad _ a b | .imins _ a b
  | .imaxs _ a b | .iminz _ a b | .imaxz _ a b | .andL _ a b | .orL _ a b | .xorL _ a b | .andn _ a b
  | .shl _ a b | .shr _ a b | .sar _ a b | .rol _ a b | .bfxz _ a b | .bfxs _ a b | .bfi _ a b | .sel _ a b
  | .fadd _ a b | .fsub _ a b | .fmul _ a b | .ffma _ a b | .fmin _ a b | .fmax _ a b | .fdiv _ a b
  | .fcpys _ a b | .hadd2 _ a b | .hmul2 _ a b | .hfma2 _ a b | .hmin2 _ a b | .hmax2 _ a b | .badd2 _ a b
  | .bmul2 _ a b | .bfma2 _ a b | .bmin2 _ a b | .bmax2 _ a b | .pack _ a b | .prm _ a b | .icmps _ a b
  | .icmpz _ a b | .fcmp _ a b | .itst _ a b | .uadd _ a b | .usub _ a b | .umul _ a b | .umad _ a b
  | .uand _ a b | .uor _ a b | .uxor _ a b | .ushl _ a b | .ushr _ a b | .usar _ a b | .ucmps _ _ a b
  | .ucmpz _ _ a b | .usel _ a b | .uld _ a b => [a, b]
  | .iabs _ a | .popc _ a | .clz _ a | .brev _ a | .mov _ a | .iaddi _ a _ | .shli _ a _ | .shri _ a _
  | .sari _ a _ | .fabs _ a | .fneg _ a | .frcp _ a | .frsq _ a | .fsqrt _ a | .fex2 _ a | .flg2 _ a
  | .fsin _ a | .fcos _ a | .frnd _ a | .cvt _ a _ | .cvtFswap _ a | .xchgIdx _ _ a | .xchgUp _ _ a _
  | .xchgDown _ _ a _ | .xchgBfly _ _ a _ | .voteEq _ _ a | .rfl _ a | .xset _ _ a | .xadd _ _ a | .umov _ a
  | .uaddi _ a _ | .brx _ a | .callx _ a | .bari _ _ a | .qput _ _ a | .drop _ _ a | .segw a _ | .segr a _
  | .csrr a _ | .csrw a _ | .trap a | .intr a => [a]
  | .xdef _ _ _ b => [b]
  | .waitmem _ _ ab _ => [ab]
  | .ldg h _ | .stg h _ | .ldx h _ | .stx h _ | .ldf h _ | .stf h _ | .ldc h _ | .atom h _ | .atomn h _
  | .allowInit h | .allowTake h | .allowGive h | .allowExact h | .allowProbe h | .cachePref h | .cacheClean h
  | .cacheDiscard h | .cacheIcinv h => [h.ab]
  | .xload h | .xstore h | .xmove h | .xgather h | .xfill h | .mldw h | .mstream h | .mzero h | .mstore h
  | .bxsend h | .bxrecv h | .bxcancel h | .bxstat h | .hinst h | .perform h | .resume h | .kstat h | .kpack h
  | .kunpack h | .spawn h => [h.a]
  | .movi _ _ | .pdup _ | .pdrop _ | .pnot _ | .pand _ | .por _ | .pxor _ | .pswap _ | .pset0 _ | .pset1 _
  | .voteAll _ _ _ | .voteAny _ _ _ | .voteBal _ _ _ | .sread _ _ | .bra _ _ | .call _ _ | .ret _ | .exit _
  | .split _ _ | .join _ _ | .wait _ _ _ | .bara _ _ | .barw _ _ | .barrd _ _ _ | .tkrd _ _ | .nop
  | .fence _ _ _ | .ifence _ _ | .xpub _ _ | .mclaim _ | .mrel _ | .mswap _ | .mstat _ _ | .hpop _ | .eret _
  | .halt | .hintImm _ | .hintImmx _ | .hintMod _ _ _ _ _ _ _ _ | .hintSched _ _ _ | .hintDly _
  | .completion _ | .transientFault _ | .uncorrectableError _ | .mergeAtHome _ _ | .atomicAtHome _
  | .drainRequest _ | .cleanByteExpiry _ | .leaseExpiry | .walkDone _ | .pageRequestResponse _ _
  | .pageRequestTimeout _ | .xlFlush _ _ | .flushDone | .powerGate _ | .unitWake _ | .allowHomeRequest _
  | .slotReturn _ _ | .joinNotice _ | .hostSnoop _ | .ownershipResponse _ _ | .backInvalidateDone _
  | .hostWrite _ _ _ _ | .schedulingRound _ | .copyStart _ | .claimGrant _ | .matrixOpStart _ _
  | .bulkRequest _ _ _ _ _ | .requestRetry _ | .grantIssue _ | .grantArrival _ _ | .bulkData _ _ _ _
  | .grantExpiry _ _ | .pause _ | .bulkResume _ _ | .doneNotice _ | .truncatedNotice _ | .orphanedNotice _
  | .cancelledNotice _ _ | .peerFaultNotice _ _ | .sourcePathLoss _ | .sendUnreachable _ | .linkFrame _ _ _ _
  | .ackTimeout _ | .linkUpRetry _ | .linkUp _ _ _ _ _ | .notify _ _ _ | .slotRead _ | .packetStart _ _
  | .nopPacket _ _ | .launch _ _ | .graph _ _ | .barrierPacket _ _ | .signalPacket _ _ | .packetComplete _ _
  | .tickProposal _ _ | .startTick _ | .chipsetTimeout _ | .crewPlacement _ _ _ _ _ | .kernelNode _ _
  | .condNode _ _ | .signalNode _ _ | .xferNode _ _ | .noteNode _ _ | .nodeComplete _ _ | .preemptDecision _
  | .drainTimeout _ | .saveComplete _ | .restore _ _ _ _ | .occRead _ _ _ | .vectorTimer _ | .vectorUnmask _
  | .heartbeat _ | .heartbeatTimeout _ | .headLinkDown _ | .ceAdopt _ _ | .version _ | .queueCreate _
  | .queueDisable _ | .pasidRegister _ | .codeLoad _ | .imageStage _ _ | .evring _ | .tdiDefine _
  | .dbgHalt _ | .dbgRead _ | .dbgResume _ | .registerWrite _ _ _ | .reportAnswerTimeout _ | .spdmRequest _ _
  | .tdiStop _ _ | .sessionExpiry _ _ | .ideIntegrityFailure _ _ | .reset | .bringupStageDone _
  | .powerLimit _ | .thermalThrottle | .thermalTrip | .patrolScrub _ | .serviceCoreFailure _ | .cycle _
  | .tdispRequest _ _ _ | .hostUnreachableTimeout | .gangTermination _ _ _ => []

/-- The selectors of formats A, I and C, which may pop queues, A before B (R71, R163). -/
def laneSels : Instr → List Sel
  | .iadd _ a b | .isub _ a b | .imul _ a b | .imulhs _ a b | .imulhz _ a b | .imad _ a b | .imins _ a b
  | .imaxs _ a b | .iminz _ a b | .imaxz _ a b | .andL _ a b | .orL _ a b | .xorL _ a b | .andn _ a b
  | .shl _ a b | .shr _ a b | .sar _ a b | .rol _ a b | .bfxz _ a b | .bfxs _ a b | .bfi _ a b | .sel _ a b
  | .fadd _ a b | .fsub _ a b | .fmul _ a b | .ffma _ a b | .fmin _ a b | .fmax _ a b | .fdiv _ a b
  | .fcpys _ a b | .hadd2 _ a b | .hmul2 _ a b | .hfma2 _ a b | .hmin2 _ a b | .hmax2 _ a b | .badd2 _ a b
  | .bmul2 _ a b | .bfma2 _ a b | .bmin2 _ a b | .bmax2 _ a b | .pack _ a b | .prm _ a b | .icmps _ a b
  | .icmpz _ a b | .fcmp _ a b | .itst _ a b => [a, b]
  | .iabs _ a | .popc _ a | .clz _ a | .brev _ a | .mov _ a | .iaddi _ a _ | .shli _ a _ | .shri _ a _
  | .sari _ a _ | .fabs _ a | .fneg _ a | .frcp _ a | .frsq _ a | .fsqrt _ a | .fex2 _ a | .flg2 _ a
  | .fsin _ a | .fcos _ a | .frnd _ a | .cvt _ a _ | .cvtFswap _ a | .xchgIdx _ _ a | .xchgUp _ _ a _
  | .xchgDown _ _ a _ | .xchgBfly _ _ a _ | .voteEq _ _ a | .rfl _ a | .xset _ _ a | .xadd _ _ a | .brx _ a
  | .callx _ a | .qput _ _ a => [a]
  | .xdef _ _ _ b => [b]
  | .movi _ _ | .pdup _ | .pdrop _ | .pnot _ | .pand _ | .por _ | .pxor _ | .pswap _ | .pset0 _ | .pset1 _
  | .voteAll _ _ _ | .voteAny _ _ _ | .voteBal _ _ _ | .sread _ _ | .uadd _ _ _ | .usub _ _ _ | .umul _ _ _
  | .umad _ _ _ | .uand _ _ _ | .uor _ _ _ | .uxor _ _ _ | .ushl _ _ _ | .ushr _ _ _ | .usar _ _ _
  | .umov _ _ | .uaddi _ _ _ | .ucmps _ _ _ _ | .ucmpz _ _ _ _ | .usel _ _ _ | .uld _ _ _ | .bra _ _
  | .call _ _ | .ret _ | .exit _ | .split _ _ | .join _ _ | .wait _ _ _ | .waitmem _ _ _ _ | .bari _ _ _
  | .bara _ _ | .barw _ _ | .barrd _ _ _ | .tkrd _ _ | .nop | .ldg _ _ | .stg _ _ | .ldx _ _ | .stx _ _
  | .ldf _ _ | .stf _ _ | .ldc _ _ | .atom _ _ | .atomn _ _ | .fence _ _ _ | .ifence _ _ | .allowInit _
  | .allowTake _ | .allowGive _ | .allowExact _ | .allowProbe _ | .cachePref _ | .cacheClean _
  | .cacheDiscard _ | .cacheIcinv _ | .xload _ | .xstore _ | .xmove _ | .xgather _ | .xfill _ | .xpub _ _
  | .mclaim _ | .mrel _ | .mldw _ | .mswap _ | .mstream _ | .mzero _ | .mstore _ | .mstat _ _ | .bxsend _
  | .bxrecv _ | .bxcancel _ | .bxstat _ | .hinst _ | .hpop _ | .perform _ | .resume _ | .drop _ _ _
  | .kstat _ | .kpack _ | .kunpack _ | .spawn _ | .segw _ _ | .segr _ _ | .csrr _ _ | .csrw _ _ | .eret _
  | .trap _ | .intr _ | .halt | .hintImm _ | .hintImmx _ | .hintMod _ _ _ _ _ _ _ _ | .hintSched _ _ _
  | .hintDly _ | .completion _ | .transientFault _ | .uncorrectableError _ | .mergeAtHome _ _
  | .atomicAtHome _ | .drainRequest _ | .cleanByteExpiry _ | .leaseExpiry | .walkDone _
  | .pageRequestResponse _ _ | .pageRequestTimeout _ | .xlFlush _ _ | .flushDone | .powerGate _ | .unitWake _
  | .allowHomeRequest _ | .slotReturn _ _ | .joinNotice _ | .hostSnoop _ | .ownershipResponse _ _
  | .backInvalidateDone _ | .hostWrite _ _ _ _ | .schedulingRound _ | .copyStart _ | .claimGrant _
  | .matrixOpStart _ _ | .bulkRequest _ _ _ _ _ | .requestRetry _ | .grantIssue _ | .grantArrival _ _
  | .bulkData _ _ _ _ | .grantExpiry _ _ | .pause _ | .bulkResume _ _ | .doneNotice _ | .truncatedNotice _
  | .orphanedNotice _ | .cancelledNotice _ _ | .peerFaultNotice _ _ | .sourcePathLoss _ | .sendUnreachable _
  | .linkFrame _ _ _ _ | .ackTimeout _ | .linkUpRetry _ | .linkUp _ _ _ _ _ | .notify _ _ _ | .slotRead _
  | .packetStart _ _ | .nopPacket _ _ | .launch _ _ | .graph _ _ | .barrierPacket _ _ | .signalPacket _ _
  | .packetComplete _ _ | .tickProposal _ _ | .startTick _ | .chipsetTimeout _ | .crewPlacement _ _ _ _ _
  | .kernelNode _ _ | .condNode _ _ | .signalNode _ _ | .xferNode _ _ | .noteNode _ _ | .nodeComplete _ _
  | .preemptDecision _ | .drainTimeout _ | .saveComplete _ | .restore _ _ _ _ | .occRead _ _ _
  | .vectorTimer _ | .vectorUnmask _ | .heartbeat _ | .heartbeatTimeout _ | .headLinkDown _ | .ceAdopt _ _
  | .version _ | .queueCreate _ | .queueDisable _ | .pasidRegister _ | .codeLoad _ | .imageStage _ _
  | .evring _ | .tdiDefine _ | .dbgHalt _ | .dbgRead _ | .dbgResume _ | .registerWrite _ _ _
  | .reportAnswerTimeout _ | .spdmRequest _ _ | .tdiStop _ _ | .sessionExpiry _ _ | .ideIntegrityFailure _ _
  | .reset | .bringupStageDone _ | .powerLimit _ | .thermalThrottle | .thermalTrip | .patrolScrub _
  | .serviceCoreFailure _ | .cycle _ | .tdispRequest _ _ _ | .hostUnreachableTimeout | .gangTermination _ _ _ => []

/-- The selectors that an instruction reads as 64-bit pairs (R72). -/
def pairSels : Instr → List Sel
  | .cvt _ a code => if code.val = 24 ∨ code.val = 25 then [a] else []
  | .prm _ a _ | .brx _ a | .callx _ a | .drop _ _ a => [a]
  | .waitmem _ _ ab _ => [ab]
  | .ldg h _ | .stg h _ | .atom h _ | .atomn h _ | .allowInit h | .allowTake h | .allowGive h | .allowExact h
  | .allowProbe h | .cachePref h | .cacheClean h | .cacheDiscard h | .cacheIcinv h => [h.ab]
  | .xgather h | .hinst h | .resume h | .kstat h | .kpack h | .kunpack h | .spawn h => [h.a]
  | .iadd _ _ _ | .isub _ _ _ | .imul _ _ _ | .imulhs _ _ _ | .imulhz _ _ _ | .imad _ _ _ | .imins _ _ _
  | .imaxs _ _ _ | .iminz _ _ _ | .imaxz _ _ _ | .iabs _ _ | .andL _ _ _ | .orL _ _ _ | .xorL _ _ _
  | .andn _ _ _ | .shl _ _ _ | .shr _ _ _ | .sar _ _ _ | .rol _ _ _ | .bfxz _ _ _ | .bfxs _ _ _ | .bfi _ _ _
  | .popc _ _ | .clz _ _ | .brev _ _ | .sel _ _ _ | .mov _ _ | .iaddi _ _ _ | .shli _ _ _ | .shri _ _ _
  | .sari _ _ _ | .fadd _ _ _ | .fsub _ _ _ | .fmul _ _ _ | .ffma _ _ _ | .fmin _ _ _ | .fmax _ _ _
  | .fabs _ _ | .fneg _ _ | .frcp _ _ | .frsq _ _ | .fsqrt _ _ | .fdiv _ _ _ | .fex2 _ _ | .flg2 _ _
  | .fsin _ _ | .fcos _ _ | .frnd _ _ | .fcpys _ _ _ | .hadd2 _ _ _ | .hmul2 _ _ _ | .hfma2 _ _ _
  | .hmin2 _ _ _ | .hmax2 _ _ _ | .badd2 _ _ _ | .bmul2 _ _ _ | .bfma2 _ _ _ | .bmin2 _ _ _ | .bmax2 _ _ _
  | .cvtFswap _ _ | .pack _ _ _ | .movi _ _ | .icmps _ _ _ | .icmpz _ _ _ | .fcmp _ _ _ | .itst _ _ _
  | .pdup _ | .pdrop _ | .pnot _ | .pand _ | .por _ | .pxor _ | .pswap _ | .pset0 _ | .pset1 _
  | .xchgIdx _ _ _ | .xchgUp _ _ _ _ | .xchgDown _ _ _ _ | .xchgBfly _ _ _ _ | .voteAll _ _ _
  | .voteAny _ _ _ | .voteEq _ _ _ | .voteBal _ _ _ | .rfl _ _ | .xdef _ _ _ _ | .xset _ _ _ | .xadd _ _ _
  | .sread _ _ | .uadd _ _ _ | .usub _ _ _ | .umul _ _ _ | .umad _ _ _ | .uand _ _ _ | .uor _ _ _
  | .uxor _ _ _ | .ushl _ _ _ | .ushr _ _ _ | .usar _ _ _ | .umov _ _ | .uaddi _ _ _ | .ucmps _ _ _ _
  | .ucmpz _ _ _ _ | .usel _ _ _ | .uld _ _ _ | .bra _ _ | .call _ _ | .ret _ | .exit _ | .split _ _
  | .join _ _ | .wait _ _ _ | .bari _ _ _ | .bara _ _ | .barw _ _ | .barrd _ _ _ | .qput _ _ _ | .tkrd _ _
  | .nop | .ldx _ _ | .stx _ _ | .ldf _ _ | .stf _ _ | .ldc _ _ | .fence _ _ _ | .ifence _ _ | .xload _
  | .xstore _ | .xmove _ | .xfill _ | .xpub _ _ | .mclaim _ | .mrel _ | .mldw _ | .mswap _ | .mstream _
  | .mzero _ | .mstore _ | .mstat _ _ | .bxsend _ | .bxrecv _ | .bxcancel _ | .bxstat _ | .hpop _
  | .perform _ | .segw _ _ | .segr _ _ | .csrr _ _ | .csrw _ _ | .eret _ | .trap _ | .intr _ | .halt
  | .hintImm _ | .hintImmx _ | .hintMod _ _ _ _ _ _ _ _ | .hintSched _ _ _ | .hintDly _ | .completion _
  | .transientFault _ | .uncorrectableError _ | .mergeAtHome _ _ | .atomicAtHome _ | .drainRequest _
  | .cleanByteExpiry _ | .leaseExpiry | .walkDone _ | .pageRequestResponse _ _ | .pageRequestTimeout _
  | .xlFlush _ _ | .flushDone | .powerGate _ | .unitWake _ | .allowHomeRequest _ | .slotReturn _ _
  | .joinNotice _ | .hostSnoop _ | .ownershipResponse _ _ | .backInvalidateDone _ | .hostWrite _ _ _ _
  | .schedulingRound _ | .copyStart _ | .claimGrant _ | .matrixOpStart _ _ | .bulkRequest _ _ _ _ _
  | .requestRetry _ | .grantIssue _ | .grantArrival _ _ | .bulkData _ _ _ _ | .grantExpiry _ _ | .pause _
  | .bulkResume _ _ | .doneNotice _ | .truncatedNotice _ | .orphanedNotice _ | .cancelledNotice _ _
  | .peerFaultNotice _ _ | .sourcePathLoss _ | .sendUnreachable _ | .linkFrame _ _ _ _ | .ackTimeout _
  | .linkUpRetry _ | .linkUp _ _ _ _ _ | .notify _ _ _ | .slotRead _ | .packetStart _ _ | .nopPacket _ _
  | .launch _ _ | .graph _ _ | .barrierPacket _ _ | .signalPacket _ _ | .packetComplete _ _
  | .tickProposal _ _ | .startTick _ | .chipsetTimeout _ | .crewPlacement _ _ _ _ _ | .kernelNode _ _
  | .condNode _ _ | .signalNode _ _ | .xferNode _ _ | .noteNode _ _ | .nodeComplete _ _ | .preemptDecision _
  | .drainTimeout _ | .saveComplete _ | .restore _ _ _ _ | .occRead _ _ _ | .vectorTimer _ | .vectorUnmask _
  | .heartbeat _ | .heartbeatTimeout _ | .headLinkDown _ | .ceAdopt _ _ | .version _ | .queueCreate _
  | .queueDisable _ | .pasidRegister _ | .codeLoad _ | .imageStage _ _ | .evring _ | .tdiDefine _
  | .dbgHalt _ | .dbgRead _ | .dbgResume _ | .registerWrite _ _ _ | .reportAnswerTimeout _ | .spdmRequest _ _
  | .tdiStop _ _ | .sessionExpiry _ _ | .ideIntegrityFailure _ _ | .reset | .bringupStageDone _
  | .powerLimit _ | .thermalThrottle | .thermalTrip | .patrolScrub _ | .serviceCoreFailure _ | .cycle _
  | .tdispRequest _ _ _ | .hostUnreachableTimeout | .gangTermination _ _ _ => []

/-- The guard of an instruction (R69). -/
def guardIn : Instr → Guard
  | .iadd h _ _ | .isub h _ _ | .imul h _ _ | .imulhs h _ _ | .imulhz h _ _ | .imad h _ _ | .imins h _ _
  | .imaxs h _ _ | .iminz h _ _ | .imaxz h _ _ | .iabs h _ | .andL h _ _ | .orL h _ _ | .xorL h _ _
  | .andn h _ _ | .shl h _ _ | .shr h _ _ | .sar h _ _ | .rol h _ _ | .bfxz h _ _ | .bfxs h _ _ | .bfi h _ _
  | .popc h _ | .clz h _ | .brev h _ | .sel h _ _ | .mov h _ | .iaddi h _ _ | .shli h _ _ | .shri h _ _
  | .sari h _ _ | .fadd h _ _ | .fsub h _ _ | .fmul h _ _ | .ffma h _ _ | .fmin h _ _ | .fmax h _ _
  | .fabs h _ | .fneg h _ | .frcp h _ | .frsq h _ | .fsqrt h _ | .fdiv h _ _ | .fex2 h _ | .flg2 h _
  | .fsin h _ | .fcos h _ | .frnd h _ | .fcpys h _ _ | .hadd2 h _ _ | .hmul2 h _ _ | .hfma2 h _ _
  | .hmin2 h _ _ | .hmax2 h _ _ | .badd2 h _ _ | .bmul2 h _ _ | .bfma2 h _ _ | .bmin2 h _ _ | .bmax2 h _ _
  | .cvt h _ _ | .cvtFswap h _ | .pack h _ _ | .prm h _ _ | .movi h _ | .icmps h _ _ | .icmpz h _ _
  | .fcmp h _ _ | .itst h _ _ | .rfl h _ | .sread h _ | .tkrd h _ | .ldg h _ | .stg h _ | .ldx h _ | .stx h _
  | .ldf h _ | .stf h _ | .ldc h _ | .atom h _ | .atomn h _ | .allowInit h | .allowTake h | .allowGive h
  | .allowExact h | .allowProbe h | .cachePref h | .cacheClean h | .cacheDiscard h | .cacheIcinv h
  | .xgather h | .hinst h | .perform h | .resume h | .kstat h | .kpack h | .kunpack h | .spawn h => h.g
  | .pdup g | .pdrop g | .pnot g | .pand g | .por g | .pxor g | .pswap g | .pset0 g | .pset1 g
  | .xchgIdx g _ _ | .xchgUp g _ _ _ | .xchgDown g _ _ _ | .xchgBfly g _ _ _ | .voteAll g _ _
  | .voteAny g _ _ | .voteEq g _ _ | .voteBal g _ _ | .xdef g _ _ _ | .xset g _ _ | .xadd g _ _ | .bra g _
  | .brx g _ | .call g _ | .callx g _ | .ret g | .exit g | .split g _ | .join g _ | .wait g _ _
  | .waitmem g _ _ _ | .bari g _ _ | .bara g _ | .barw g _ | .barrd g _ _ | .qput g _ _ | .fence g _ _
  | .ifence g _ | .hpop g | .drop g _ _ => g
  | .uadd _ _ _ | .usub _ _ _ | .umul _ _ _ | .umad _ _ _ | .uand _ _ _ | .uor _ _ _ | .uxor _ _ _
  | .ushl _ _ _ | .ushr _ _ _ | .usar _ _ _ | .umov _ _ | .uaddi _ _ _ | .ucmps _ _ _ _ | .ucmpz _ _ _ _
  | .usel _ _ _ | .uld _ _ _ | .nop | .xload _ | .xstore _ | .xmove _ | .xfill _ | .xpub _ _ | .mclaim _
  | .mrel _ | .mldw _ | .mswap _ | .mstream _ | .mzero _ | .mstore _ | .mstat _ _ | .bxsend _ | .bxrecv _
  | .bxcancel _ | .bxstat _ | .segw _ _ | .segr _ _ | .csrr _ _ | .csrw _ _ | .eret _ | .trap _ | .intr _
  | .halt | .hintImm _ | .hintImmx _ | .hintMod _ _ _ _ _ _ _ _ | .hintSched _ _ _ | .hintDly _
  | .completion _ | .transientFault _ | .uncorrectableError _ | .mergeAtHome _ _ | .atomicAtHome _
  | .drainRequest _ | .cleanByteExpiry _ | .leaseExpiry | .walkDone _ | .pageRequestResponse _ _
  | .pageRequestTimeout _ | .xlFlush _ _ | .flushDone | .powerGate _ | .unitWake _ | .allowHomeRequest _
  | .slotReturn _ _ | .joinNotice _ | .hostSnoop _ | .ownershipResponse _ _ | .backInvalidateDone _
  | .hostWrite _ _ _ _ | .schedulingRound _ | .copyStart _ | .claimGrant _ | .matrixOpStart _ _
  | .bulkRequest _ _ _ _ _ | .requestRetry _ | .grantIssue _ | .grantArrival _ _ | .bulkData _ _ _ _
  | .grantExpiry _ _ | .pause _ | .bulkResume _ _ | .doneNotice _ | .truncatedNotice _ | .orphanedNotice _
  | .cancelledNotice _ _ | .peerFaultNotice _ _ | .sourcePathLoss _ | .sendUnreachable _ | .linkFrame _ _ _ _
  | .ackTimeout _ | .linkUpRetry _ | .linkUp _ _ _ _ _ | .notify _ _ _ | .slotRead _ | .packetStart _ _
  | .nopPacket _ _ | .launch _ _ | .graph _ _ | .barrierPacket _ _ | .signalPacket _ _ | .packetComplete _ _
  | .tickProposal _ _ | .startTick _ | .chipsetTimeout _ | .crewPlacement _ _ _ _ _ | .kernelNode _ _
  | .condNode _ _ | .signalNode _ _ | .xferNode _ _ | .noteNode _ _ | .nodeComplete _ _ | .preemptDecision _
  | .drainTimeout _ | .saveComplete _ | .restore _ _ _ _ | .occRead _ _ _ | .vectorTimer _ | .vectorUnmask _
  | .heartbeat _ | .heartbeatTimeout _ | .headLinkDown _ | .ceAdopt _ _ | .version _ | .queueCreate _
  | .queueDisable _ | .pasidRegister _ | .codeLoad _ | .imageStage _ _ | .evring _ | .tdiDefine _
  | .dbgHalt _ | .dbgRead _ | .dbgResume _ | .registerWrite _ _ _ | .reportAnswerTimeout _ | .spdmRequest _ _
  | .tdiStop _ _ | .sessionExpiry _ _ | .ideIntegrityFailure _ _ | .reset | .bringupStageDone _
  | .powerLimit _ | .thermalThrottle | .thermalTrip | .patrolScrub _ | .serviceCoreFailure _ | .cycle _
  | .tdispRequest _ _ _ | .hostUnreachableTimeout | .gangTermination _ _ _ => .all

/-- The instruction has the offset of format M (R154). -/
def hasOffset : Instr → Bool
  | .waitmem _ _ _ _ | .ldg _ _ | .stg _ _ | .ldx _ _ | .stx _ _ | .ldf _ _ | .stf _ _ | .ldc _ _ | .atom _ _
  | .atomn _ _ | .allowInit _ | .allowTake _ | .allowGive _ | .allowExact _ | .allowProbe _ | .cachePref _
  | .cacheClean _ | .cacheDiscard _ | .cacheIcinv _ => true
  | .iadd _ _ _ | .isub _ _ _ | .imul _ _ _ | .imulhs _ _ _ | .imulhz _ _ _ | .imad _ _ _ | .imins _ _ _
  | .imaxs _ _ _ | .iminz _ _ _ | .imaxz _ _ _ | .iabs _ _ | .andL _ _ _ | .orL _ _ _ | .xorL _ _ _
  | .andn _ _ _ | .shl _ _ _ | .shr _ _ _ | .sar _ _ _ | .rol _ _ _ | .bfxz _ _ _ | .bfxs _ _ _ | .bfi _ _ _
  | .popc _ _ | .clz _ _ | .brev _ _ | .sel _ _ _ | .mov _ _ | .iaddi _ _ _ | .shli _ _ _ | .shri _ _ _
  | .sari _ _ _ | .fadd _ _ _ | .fsub _ _ _ | .fmul _ _ _ | .ffma _ _ _ | .fmin _ _ _ | .fmax _ _ _
  | .fabs _ _ | .fneg _ _ | .frcp _ _ | .frsq _ _ | .fsqrt _ _ | .fdiv _ _ _ | .fex2 _ _ | .flg2 _ _
  | .fsin _ _ | .fcos _ _ | .frnd _ _ | .fcpys _ _ _ | .hadd2 _ _ _ | .hmul2 _ _ _ | .hfma2 _ _ _
  | .hmin2 _ _ _ | .hmax2 _ _ _ | .badd2 _ _ _ | .bmul2 _ _ _ | .bfma2 _ _ _ | .bmin2 _ _ _ | .bmax2 _ _ _
  | .cvt _ _ _ | .cvtFswap _ _ | .pack _ _ _ | .prm _ _ _ | .movi _ _ | .icmps _ _ _ | .icmpz _ _ _
  | .fcmp _ _ _ | .itst _ _ _ | .pdup _ | .pdrop _ | .pnot _ | .pand _ | .por _ | .pxor _ | .pswap _
  | .pset0 _ | .pset1 _ | .xchgIdx _ _ _ | .xchgUp _ _ _ _ | .xchgDown _ _ _ _ | .xchgBfly _ _ _ _
  | .voteAll _ _ _ | .voteAny _ _ _ | .voteEq _ _ _ | .voteBal _ _ _ | .rfl _ _ | .xdef _ _ _ _ | .xset _ _ _
  | .xadd _ _ _ | .sread _ _ | .uadd _ _ _ | .usub _ _ _ | .umul _ _ _ | .umad _ _ _ | .uand _ _ _
  | .uor _ _ _ | .uxor _ _ _ | .ushl _ _ _ | .ushr _ _ _ | .usar _ _ _ | .umov _ _ | .uaddi _ _ _
  | .ucmps _ _ _ _ | .ucmpz _ _ _ _ | .usel _ _ _ | .uld _ _ _ | .bra _ _ | .brx _ _ | .call _ _ | .callx _ _
  | .ret _ | .exit _ | .split _ _ | .join _ _ | .wait _ _ _ | .bari _ _ _ | .bara _ _ | .barw _ _
  | .barrd _ _ _ | .qput _ _ _ | .tkrd _ _ | .nop | .fence _ _ _ | .ifence _ _ | .xload _ | .xstore _
  | .xmove _ | .xgather _ | .xfill _ | .xpub _ _ | .mclaim _ | .mrel _ | .mldw _ | .mswap _ | .mstream _
  | .mzero _ | .mstore _ | .mstat _ _ | .bxsend _ | .bxrecv _ | .bxcancel _ | .bxstat _ | .hinst _ | .hpop _
  | .perform _ | .resume _ | .drop _ _ _ | .kstat _ | .kpack _ | .kunpack _ | .spawn _ | .segw _ _
  | .segr _ _ | .csrr _ _ | .csrw _ _ | .eret _ | .trap _ | .intr _ | .halt | .hintImm _ | .hintImmx _
  | .hintMod _ _ _ _ _ _ _ _ | .hintSched _ _ _ | .hintDly _ | .completion _ | .transientFault _
  | .uncorrectableError _ | .mergeAtHome _ _ | .atomicAtHome _ | .drainRequest _ | .cleanByteExpiry _
  | .leaseExpiry | .walkDone _ | .pageRequestResponse _ _ | .pageRequestTimeout _ | .xlFlush _ _ | .flushDone
  | .powerGate _ | .unitWake _ | .allowHomeRequest _ | .slotReturn _ _ | .joinNotice _ | .hostSnoop _
  | .ownershipResponse _ _ | .backInvalidateDone _ | .hostWrite _ _ _ _ | .schedulingRound _ | .copyStart _
  | .claimGrant _ | .matrixOpStart _ _ | .bulkRequest _ _ _ _ _ | .requestRetry _ | .grantIssue _
  | .grantArrival _ _ | .bulkData _ _ _ _ | .grantExpiry _ _ | .pause _ | .bulkResume _ _ | .doneNotice _
  | .truncatedNotice _ | .orphanedNotice _ | .cancelledNotice _ _ | .peerFaultNotice _ _ | .sourcePathLoss _
  | .sendUnreachable _ | .linkFrame _ _ _ _ | .ackTimeout _ | .linkUpRetry _ | .linkUp _ _ _ _ _
  | .notify _ _ _ | .slotRead _ | .packetStart _ _ | .nopPacket _ _ | .launch _ _ | .graph _ _
  | .barrierPacket _ _ | .signalPacket _ _ | .packetComplete _ _ | .tickProposal _ _ | .startTick _
  | .chipsetTimeout _ | .crewPlacement _ _ _ _ _ | .kernelNode _ _ | .condNode _ _ | .signalNode _ _
  | .xferNode _ _ | .noteNode _ _ | .nodeComplete _ _ | .preemptDecision _ | .drainTimeout _
  | .saveComplete _ | .restore _ _ _ _ | .occRead _ _ _ | .vectorTimer _ | .vectorUnmask _ | .heartbeat _
  | .heartbeatTimeout _ | .headLinkDown _ | .ceAdopt _ _ | .version _ | .queueCreate _ | .queueDisable _
  | .pasidRegister _ | .codeLoad _ | .imageStage _ _ | .evring _ | .tdiDefine _ | .dbgHalt _ | .dbgRead _
  | .dbgResume _ | .registerWrite _ _ _ | .reportAnswerTimeout _ | .spdmRequest _ _ | .tdiStop _ _
  | .sessionExpiry _ _ | .ideIntegrityFailure _ _ | .reset | .bringupStageDone _ | .powerLimit _
  | .thermalThrottle | .thermalTrip | .patrolScrub _ | .serviceCoreFailure _ | .cycle _ | .tdispRequest _ _ _
  | .hostUnreachableTimeout | .gangTermination _ _ _ => false

/-- The queues that an instruction pops, once for each use. -/
def instrPops (i : Instr) : List Nat := popsOf (laneSels i)

/-- The queue that an instruction pushes. -/
def instrPush : Instr → Option Nat
  | .qput _ q _ => some q.val
  | _ => none

/-- A word of the crew that parked earlier waits on a queue end that the instruction uses (R148). -/
def Crew.queueTaken (c : Crew) (i : Instr) : Bool :=
  c.held.any fun h =>
    (instrPops h.2.instr).any (fun q => (instrPops i).contains q) ||
      (match instrPush h.2.instr, instrPush i with | some a, some b => a == b | _, _ => false)

end Sys2Proof.Machine
end

