-- ==== Sys2Proof/Machine/Lane.lean ====
section
/-! DEFINITION. The shape that every lane word has (R64, R65, R94 to R97, R148): checks of the whole group, the guard, queue
pops, each lane's result, FSTAT and traps, the destination, and the latches. -/

namespace Sys2Proof.Machine

/-- What a lane computes: the result, the high half of a pair, exceptions, the value that FSWAP writes, and the tick sample
that S.TICKLO keeps. -/
structure LaneOut where
  lo : Word
  hi : Option Word := none
  exc : Word := 0
  swap : Option Word := none
  tick : Option Word := none
deriving DecidableEq, Repr

/-- A lane word: its guard, NW, destination and number of destination registers, latency, selectors with the number of
registers that each reads, and the result of a lane from the values it popped. -/
structure LaneOp where
  instr : Instr
  g : Guard
  nw : Bool
  d : Nat
  width : Nat := 1
  lat : Nat
  srcs : List (Sel × Nat)
  result : Env → Fibre → Nat → List Word → Except LaneErr LaneOut

/-- The checks of a lane word that concern the whole group: the budget (R96), then split registers (R128). -/
def groupCheck (e : Env) (srcs : List (Sel × Nat)) (d width : Nat) : Option LaneErr :=
  if !(srcs.all fun x => selFits x.1 e.crew.b x.2) || !vFits e.crew.b d width then some (0, 0x37)
  else if e.splitRead (srcs.flatMap fun x => selRegs x.1 x.2) then some (9, 0x3A)
  else none

/-- The gate of a word that pops (R148): it runs with the values popped on each selected lane, waits, or is the fault of
R147 on the selected fibres. -/
def State.withPops (s : State) (i : Issue) (instr : Instr) (l : Lanes) (qs : List Nat)
    (run : State → KMap (List Word) → State) : State :=
  if qs.isEmpty || l.sel.isEmpty then run s []
  else match s.popsState i.crew qs l.sel.length with
    | .bad => s.endWord i [] true (l.bad ++ l.sel.map fun f => (f, laneEff (0, 0x3D) i.pc))
    | .wait => (s.holdWord i instr l.sel .queue).deliverAll i.crew l.bad
    | .run =>
      if !i.again && (s.crew i.crew).queueTaken instr then (s.holdWord i instr l.sel .queue).deliverAll i.crew l.bad
      else
        let r := popLanes qs l.sel (s.crew i.crew).queues
        run (s.modCrew i.crew fun c => { c with queues := r.2 }) r.1

/-- One lane of a word: the fibre after it, the latch entry, and the effect that it raises. -/
def LaneOp.lane (o : LaneOp) (e : Env) (fid : Nat) (pops : List Word) : Fibre × Option Word × Option Eff :=
  let f := e.crew.fibre fid
  match o.result e f fid pops with
  | .error x => (f, none, some (laneEff x e.iss.pc))
  | .ok r =>
    let strict := if o.nw then none
      else ((List.range (if r.hi.isSome then 2 else 1)).filterMap fun k => f.strictV e.iss.strict (o.d + k)).head?
    match strict with
    | some x => (f, none, some (laneEff x e.iss.pc))
    | none =>
      let t := trapSet r.exc (f.fstatSeen fun k => e.pick fid (80 + k) 1)
      let f1 := { f.updFstat o.lat r.exc r.swap with tickhi := r.tick.getD f.tickhi }
      if t ≠ 0 then
        (f1, none, some { label := 4, cause := trapCause t, payload := (trapCause t).setWidth 32
                          dst := if o.nw then 0xFF else o.d, rpc := e.iss.pc + 4 })
      else
        let f2 := if o.nw then f1 else f1.putV o.lat o.d r.lo (e.pick fid o.d 3)
        let f3 := match r.hi with
          | some h => if o.nw then f2 else f2.putV o.lat (o.d + 1) h (e.pick fid (o.d + 1) 3)
          | none => f2
        (f3, some r.lo, none)

/-- The fibres of a crew replaced by those of a list of results. -/
def Crew.putFibres {α : Type} (c : Crew) (l : List (Nat × Fibre × α)) : Crew :=
  { c with fibres := l.foldl (fun m x => kset m x.1 x.2.1) c.fibres }

/-- The selected lanes of a word run, with the values popped. -/
def LaneOp.run (o : LaneOp) (i : Issue) (e : Env) (l : Lanes) (switch : Bool) (s : State) (pops : KMap (List Word)) : State :=
  let rs := l.sel.map fun fid => (fid, o.lane e fid (kgetD pops fid []))
  let vals := (l.out.map fun fid => (fid, (0 : Word))) ++ rs.filterMap fun r => r.2.2.1.map fun v => (r.1, v)
  let bad := l.bad ++ rs.filterMap fun r => r.2.2.2.map fun x => (r.1, x)
  (s.modCrew i.crew fun c => c.putFibres rs).endWord i (i.produce o.lat vals) switch bad

/-- A lane word executed (R94 to R97). -/
def LaneOp.exec (o : LaneOp) (s : State) : Host.Outcome State Fault Refusal :=
  withIssue s fun i t =>
    let e := envOf i t
    match groupCheck e o.srcs o.d o.width with
    | some x => t.groupEffect i x
    | none =>
      let qs := popsOf (o.srcs.map Prod.fst)
      let l := e.lanes o.g
      t.withPops i o.instr l qs (o.run i e l (!qs.isEmpty))

/-- One operand read on a lane. -/
def read1 (e : Env) (f : Fibre) (fid : Nat) (a : Sel) (pops : List Word) (k : Word → Except LaneErr LaneOut) :
    Except LaneErr LaneOut :=
  match e.read f fid a 0 (pops.headD 0) with
  | .ok x => k x
  | .error x => .error x

/-- Two operands read on a lane; A pops before B (R148). -/
def read2 (e : Env) (f : Fibre) (fid : Nat) (a b : Sel) (pops : List Word) (k : Word → Word → Except LaneErr LaneOut) :
    Except LaneErr LaneOut :=
  match e.read f fid a 0 (pops.headD 0), e.read f fid b 1 ((if (selQueue a).isEmpty then pops else pops.drop 1).headD 0) with
  | .ok x, .ok y => k x y
  | .error x, _ => .error x
  | _, .error x => .error x

/-- Two operands and the third source V[D] (R67). -/
def read3 (e : Env) (f : Fibre) (fid : Nat) (d : Nat) (a b : Sel) (pops : List Word)
    (k : Word → Word → Word → Except LaneErr LaneOut) : Except LaneErr LaneOut :=
  read2 e f fid a b pops fun x y =>
    match e.readV f fid d 2 with
    | .ok z => k z x y
    | .error x => .error x

/-- A result without exceptions. -/
def plain (x : Word) : Except LaneErr LaneOut := .ok { lo := x }

/-- A lane word of one operand. -/
def unOp (instr : Instr) (h : LaneHdr) (lat : Nat) (a : Sel) (k : Mod → Word → Except LaneErr LaneOut) : LaneOp :=
  { instr := instr, g := h.g, nw := h.nw, d := h.d.val, lat := lat, srcs := [(a, 1)]
    result := fun e f fid pops => read1 e f fid a pops (k e.iss.mod) }

/-- A lane word of two operands. -/
def binOp (instr : Instr) (h : LaneHdr) (lat : Nat) (a b : Sel) (k : Mod → Word → Word → Except LaneErr LaneOut) : LaneOp :=
  { instr := instr, g := h.g, nw := h.nw, d := h.d.val, lat := lat, srcs := [(a, 1), (b, 1)]
    result := fun e f fid pops => read2 e f fid a b pops (k e.iss.mod) }

/-- A lane word whose third source is V[D]: the addend, then a and b. -/
def triOp (instr : Instr) (h : LaneHdr) (lat : Nat) (a b : Sel) (k : Mod → Word → Word → Word → Except LaneErr LaneOut) :
    LaneOp :=
  { instr := instr, g := h.g, nw := h.nw, d := h.d.val, lat := lat, srcs := [(a, 1), (b, 1)]
    result := fun e f fid pops => read3 e f fid h.d.val a b pops (k e.iss.mod) }

end Sys2Proof.Machine
end

