-- ==== Sys2Proof/Machine/LanePred.lean ====
section
/-! DEFINITION. Compares and the predicate stack (R79, R110 to R113). -/

namespace Sys2Proof.Machine

/-! ## The stack -/

/-- The stack of a selected lane after a compare with the truth value r (R111). -/
def pushSel (pm : PushMode) (p : BitVec 7) (r : Bool) : BitVec 7 :=
  match pm with
  | .push => pushP p r
  | .pushn => pushP p !r
  | .repl => replP p r
  | .and => replP p (p.getLsbD 0 && r)
  | .or => replP p (p.getLsbD 0 || r)

/-- A push mode that grows the stack: excluded lanes then push false (R111). -/
def pushGrows (pm : PushMode) : Bool :=
  match pm with
  | .push | .pushn => true
  | .repl | .and | .or => false

/-- A change of a lane's stack with a latency, or the effect of strict mode (R82, R86). -/
def Env.changeP (e : Env) (fid lat : Nat) (k : BitVec 7 → BitVec 7) (f : Fibre) : Fibre × Option Eff :=
  if e.iss.strict && f.inPWin then (f, some (laneEff strictWindow e.iss.pc))
  else (f.putP lat (k (f.seeP (e.pick fid 64 1))) (e.pick fid 64 3), none)

/-- Lanes that change their stacks alike, with the effects raised. -/
def Env.changeAll (e : Env) (lat : Nat) (k : BitVec 7 → BitVec 7) (fids : List Nat) : List (Nat × Fibre × Option Eff) :=
  fids.map fun fid => (fid, e.changeP fid lat k (e.crew.fibre fid))

/-- The effects of a list of results. -/
def effsOf (l : List (Nat × Fibre × Option Eff)) : List (Nat × Eff) := l.filterMap fun r => r.2.2.map fun x => (r.1, x)

/-! ## Compares -/

/-- The relation of a condition 0x0 to 0x5 (R79), from less and equal; the others do not occur (R110). -/
def intRel (cc : Cond) (lt eq : Bool) : Bool :=
  match cc with
  | .eq | .ueq => eq
  | .ne => !eq
  | .lt | .ult => lt
  | .le | .ule => lt || eq
  | .gt | .ugt => !lt && !eq
  | .ge | .uge => !lt
  | .ord => true
  | .uno => false

/-- One selected lane of a compare (R110 to R112). -/
def cmpLane (e : Env) (pm : PushMode) (a b : Sel) (rel : Word → Word → Bool × Word) (fid : Nat) (pops : List Word) :
    Fibre × Option Eff :=
  let f := e.crew.fibre fid
  match read2 e f fid a b pops (fun x y => let r := rel x y; .ok { lo := if r.1 then 1 else 0, exc := r.2 }) with
  | .error x => (f, some (laneEff x e.iss.pc))
  | .ok r =>
    let t := trapSet r.exc (f.fstatSeen fun k => e.pick fid (80 + k) 1)
    if e.iss.strict && f.inPWin then (f, some (laneEff strictWindow e.iss.pc))
    else if t ≠ 0 then
      (f.updFstat 4 r.exc none, some { label := 4, cause := trapCause t, payload := (trapCause t).setWidth 32
                                       dst := 0xFF, rpc := e.iss.pc + 4 })
    else e.changeP fid 4 (fun p => pushSel pm p (r.lo != 0)) (f.updFstat 4 r.exc none)

/-- A compare executed (R110 to R112). -/
def execCompare (instr : Instr) (h : CmpHdr) (a b : Sel) (rel : Word → Word → Bool × Word) (s : State) :
    Host.Outcome State Fault Refusal :=
  withIssue s fun i t =>
    let e := envOf i t
    match groupCheck e [(a, 1), (b, 1)] 0 1 with
    | some x => t.groupEffect i x
    | none =>
      let l := e.lanes h.g
      let outs := if pushGrows h.pm then e.changeAll 4 (fun p => pushP p false) l.out else []
      let qs := popsOf [a, b]
      let l1 := { l with bad := l.bad ++ effsOf outs }
      (t.modCrew i.crew fun c => c.putFibres outs).withPops i instr l1 qs fun u pops =>
        let rs := l.sel.map fun fid => (fid, cmpLane e h.pm a b rel fid (kgetD pops fid []))
        (u.modCrew i.crew fun c => c.putFibres rs).endWord i i.grp.latches (!qs.isEmpty) (l1.bad ++ effsOf rs)

/-- ICMPS (R110). -/
def execIcmps (h : CmpHdr) (a b : Sel) (s : State) : Host.Outcome State Fault Refusal :=
  execCompare (.icmps h a b) h a b (fun x y => (intRel h.cc (decide (x.toInt < y.toInt)) (x == y), 0)) s

/-- ICMPZ (R110). -/
def execIcmpz (h : CmpHdr) (a b : Sel) (s : State) : Host.Outcome State Fault Refusal :=
  execCompare (.icmpz h a b) h a b (fun x y => (intRel h.cc (decide (x.toNat < y.toNat)) (x == y), 0)) s

/-- FCMP (R110, R112). -/
def execFcmp (h : CmpHdr) (a b : Sel) (s : State) : Host.Outcome State Fault Refusal :=
  execCompare (.fcmp h a b) h a b (fun x y => fcmpRel h.cc x.toNat y.toNat) s

/-- ITST (R110): .ZERO and .NZ. -/
def execItst (h : CmpHdr) (a b : Sel) (s : State) : Host.Outcome State Fault Refusal :=
  execCompare (.itst h a b) h a b (fun x y => (intRel h.cc false (x &&& y == 0), 0)) s

/-! ## PSTK (R113) -/

/-- A word of PSTK: the selected lanes' stacks change at distance 2. -/
def execPstk (g : Guard) (k : BitVec 7 → BitVec 7) (s : State) : Host.Outcome State Fault Refusal :=
  withIssue s fun i t =>
    let e := envOf i t
    let l := e.lanes g
    let rs := e.changeAll 2 k l.sel
    (t.modCrew i.crew fun c => c.putFibres rs).endWord i i.grp.latches false (l.bad ++ effsOf rs)

/-- PDUP. -/
def execPdup (g : Guard) (s : State) : Host.Outcome State Fault Refusal := execPstk g (fun p => pushP p (p.getLsbD 0)) s

/-- PDROP. -/
def execPdrop (g : Guard) (s : State) : Host.Outcome State Fault Refusal := execPstk g (fun p => p >>> 1) s

/-- PNOT. -/
def execPnot (g : Guard) (s : State) : Host.Outcome State Fault Refusal := execPstk g (fun p => p ^^^ 1) s

/-- PAND. -/
def execPand (g : Guard) (s : State) : Host.Outcome State Fault Refusal :=
  execPstk g (fun p => dropP p (p.getLsbD 0 && p.getLsbD 1)) s

/-- POR. -/
def execPor (g : Guard) (s : State) : Host.Outcome State Fault Refusal :=
  execPstk g (fun p => dropP p (p.getLsbD 0 || p.getLsbD 1)) s

/-- PXOR. -/
def execPxor (g : Guard) (s : State) : Host.Outcome State Fault Refusal :=
  execPstk g (fun p => dropP p (p.getLsbD 0 != p.getLsbD 1)) s

/-- PSWAP. -/
def execPswap (g : Guard) (s : State) : Host.Outcome State Fault Refusal :=
  execPstk g (fun p => (p &&& 0x7C) ||| (if p.getLsbD 0 then 2 else 0) ||| (if p.getLsbD 1 then 1 else 0)) s

/-- PSET0. -/
def execPset0 (g : Guard) (s : State) : Host.Outcome State Fault Refusal := execPstk g (fun p => pushP p false) s

/-- PSET1. -/
def execPset1 (g : Guard) (s : State) : Host.Outcome State Fault Refusal := execPstk g (fun p => pushP p true) s

end Sys2Proof.Machine
end

