-- ==== Sys2Proof/Machine/LaneExchange.lean ====
section
/-! DEFINITION. Lane exchange (R114 to R117), index registers (R118 to R120), SREAD (R41, R121) and TKRD (R139). -/

namespace Sys2Proof.Machine

/-- The lane of a fibre (R27). -/
def laneOf (fid : Nat) : Nat := fid % 64

/-! ## XCHG -/

/-- The source lane of a lane (R115), from the variant: by index, up, down or butterfly. -/
inductive Xchg where
  | idx
  | up (n : Nat)
  | down (n : Nat)
  | bfly (n : Nat)
deriving DecidableEq, Repr

/-- The lane that a lane names, if it is in 0 to 63. -/
def sourceLane (v : Xchg) (lane : Nat) (d : Word) : Option Nat :=
  match v with
  | .idx => some (d.toNat % 64)
  | .up n => if n ≤ lane then some (lane - n) else none
  | .down n => if lane + n < 64 then some (lane + n) else none
  | .bfly n => if lane ^^^ n < 64 then some (lane ^^^ n) else none

/-- What a selected lane of XCHG reads: a, and V[D] for IDX; and whether it may write (R86). -/
def xchgRead (e : Env) (v : Xchg) (d : Nat) (a : Sel) (fid : Nat) (pops : List Word) : Except LaneErr (Word × Word) :=
  let f := e.crew.fibre fid
  match e.read f fid a 0 (pops.headD 0), (if v = .idx then e.readV f fid d 2 else .ok 0) with
  | .error x, _ => .error x
  | _, .error x => .error x
  | .ok x, .ok y =>
    match f.strictV e.iss.strict d with
    | some z => .error z
    | none => if e.iss.strict && f.inPWin then .error strictWindow else .ok (x, y)

/-- XCHG executed (R114, R115). -/
def execXchg (instr : Instr) (g : Guard) (d : Nat) (a : Sel) (v : Xchg) (s : State) : Host.Outcome State Fault Refusal :=
  withIssue s fun i t =>
    let e := envOf i t
    match groupCheck e [(a, 1)] d 1 with
    | some x => t.groupEffect i x
    | none =>
      let l := e.lanes g
      let outs := e.changeAll 6 (fun p => pushP p false) l.out
      let qs := popsOf [a]
      let l1 := { l with bad := l.bad ++ effsOf outs }
      (t.modCrew i.crew fun c => c.putFibres outs).withPops i instr l1 qs fun u pops =>
        let reads := l.sel.map fun fid => (fid, xchgRead e v d a fid (kgetD pops fid []))
        let valid : KMap Word := reads.filterMap fun r => match r.2 with
          | .ok (x, _) => some (laneOf r.1, x)
          | .error _ => none
        let rs := reads.filterMap fun r => match r.2 with
          | .ok (x, y) =>
            let src := (sourceLane v (laneOf r.1) y).bind fun n => kget valid n
            let val := src.getD x
            let f := (e.crew.fibre r.1).putV 6 d val (e.pick r.1 d 3)
            some (r.1, f.putP 6 (pushP (f.seeP (e.pick r.1 64 1)) src.isSome) (e.pick r.1 64 3), val)
          | .error _ => none
        let bad := reads.filterMap fun r => match r.2 with
          | .ok _ => none
          | .error x => some (r.1, laneEff x i.pc)
        let vals := (l.out.map fun fid => (fid, (0 : Word))) ++ rs.map fun r => (r.1, r.2.2)
        (u.modCrew i.crew fun c => c.putFibres rs).endWord i (i.produce 6 vals) (!qs.isEmpty) (l1.bad ++ bad)

/-- XCHG.IDX. -/
def execXchgIdx (g : Guard) (d : Fin 64) (a : Sel) (s : State) : Host.Outcome State Fault Refusal :=
  execXchg (.xchgIdx g d a) g d.val a .idx s

/-- XCHG.UP. -/
def execXchgUp (g : Guard) (d : Fin 64) (a : Sel) (k : Fin 32) (s : State) : Host.Outcome State Fault Refusal :=
  execXchg (.xchgUp g d a k) g d.val a (.up (k.val + 1)) s

/-- XCHG.DOWN. -/
def execXchgDown (g : Guard) (d : Fin 64) (a : Sel) (k : Fin 32) (s : State) : Host.Outcome State Fault Refusal :=
  execXchg (.xchgDown g d a k) g d.val a (.down (k.val + 1)) s

/-- XCHG.BFLY. -/
def execXchgBfly (g : Guard) (d : Fin 64) (a : Sel) (k : Fin 32) (s : State) : Host.Outcome State Fault Refusal :=
  execXchg (.xchgBfly g d a k) g d.val a (.bfly (k.val + 1)) s

/-! ## VOTE -/

/-- A uniform result written for the group, or the effect of strict mode on every fibre (R42, R86, R138). -/
def State.uniformWrite (s : State) (i : Issue) (e : Env) (lat n : Nat) (val : Word) (switch : Bool) (bad : List (Nat × Eff)) :
    State :=
  match e.crew.strictG i.strict n i.grp.fids e.cycle with
  | some x => s.groupEffect i x
  | none =>
    (s.modCrew i.crew fun c => c.putG lat n val i.grp.fids e.cycle s.nextId (e.pick 4096 (100 + n) 3)).endWord i i.grp.latches
      switch bad

/-- VOTE over a predicate at a depth (R116): nothing is written when strict mode refuses some fibre's read, of the entry or of the
guard (R86). -/
def execVoteP (g : Guard) (d : Nat) (depth : BitVec 7) (k : List Bool → Nat) (s : State) : Host.Outcome State Fault Refusal :=
  withIssue s fun i t =>
    let e := envOf i t
    if 6 < depth.toNat then t.groupEffect i (0, 0x1D)
    else
      let l := e.lanes g
      let strict := (l.sel.filter fun fid => i.strict && (e.crew.fibre fid).inPWin).map fun fid =>
        (fid, laneEff strictWindow i.pc)
      let bits := l.sel.map fun fid => ((e.crew.fibre fid).seeP (e.pick fid 64 1)).getLsbD depth.toNat
      if strict.isEmpty && l.bad.isEmpty then t.uniformWrite i e 6 d (BitVec.ofNat 32 (k bits)) false l.bad
      else t.endWord i i.grp.latches false (l.bad ++ strict)

/-- VOTE.ALL (R116). -/
def execVoteAll (g : Guard) (d : Fin 32) (depth : BitVec 7) (s : State) : Host.Outcome State Fault Refusal :=
  execVoteP g d.val depth (fun bs => if bs.all id then 1 else 0) s

/-- VOTE.ANY (R116). -/
def execVoteAny (g : Guard) (d : Fin 32) (depth : BitVec 7) (s : State) : Host.Outcome State Fault Refusal :=
  execVoteP g d.val depth (fun bs => if bs.any id then 1 else 0) s

/-- VOTE.BAL (R116). -/
def execVoteBal (g : Guard) (d : Fin 32) (depth : BitVec 7) (s : State) : Host.Outcome State Fault Refusal :=
  execVoteP g d.val depth (fun bs => (bs.filter id).length) s

/-- The reads of a on selected lanes: the values, and the effects of the others. -/
def readAll (e : Env) (a : Sel) (fids : List Nat) (pops : KMap (List Word)) : KMap Word × List (Nat × Eff) :=
  let reads := fids.map fun fid => (fid, e.read (e.crew.fibre fid) fid a 0 ((kgetD pops fid []).headD 0))
  (reads.filterMap fun r => match r.2 with | .ok x => some (r.1, x) | .error _ => none,
   reads.filterMap fun r => match r.2 with | .ok _ => none | .error x => some (r.1, laneEff x e.iss.pc))

/-- VOTE.EQ (R116). Nothing is written when strict mode refuses some fibre's read, of a or of the guard (R86). Where a lane's read of a
performs FAULT with cause 0x36, the values of the other lanes are compared, and 1 is written when no lane has read one (DESIGN CHOICE, log
entry 135). -/
def execVoteEq (g : Guard) (d : Fin 32) (a : Sel) (s : State) : Host.Outcome State Fault Refusal :=
  withIssue s fun i t =>
    let e := envOf i t
    match groupCheck e [(a, 1)] 0 1 with
    | some x => t.groupEffect i x
    | none =>
      let l := e.lanes g
      let qs := popsOf [a]
      t.withPops i (.voteEq g d a) l qs fun u pops =>
        let (vals, bad) := readAll e a l.sel pops
        let same := vals.all fun x => x.2 == ((vals.head?.map Prod.snd).getD 0)
        if (l.bad ++ bad).any fun x => x.2.label == 9 then u.endWord i i.grp.latches (!qs.isEmpty) (l.bad ++ bad)
        else u.uniformWrite i e 6 d.val (if same then 1 else 0) (!qs.isEmpty) bad

/-! ## RFL -/

/-- RFL (R117). -/
def execRfl (h : LaneHdr) (a : Sel) (s : State) : Host.Outcome State Fault Refusal :=
  withIssue s fun i t =>
    let e := envOf i t
    match groupCheck e [(a, 1)] h.d.val 1 with
    | some x => t.groupEffect i x
    | none =>
      let l := e.lanes h.g
      let qs := popsOf [a]
      t.withPops i (.rfl h a) l qs fun u pops =>
        let (vals, bad) := readAll e a l.sel pops
        let val := (vals.head?.map Prod.snd).getD 0
        let strict := fun fid => if h.nw then none else (e.crew.fibre fid).strictV i.strict h.d.val
        let done := (kkeys vals).filter fun fid => (strict fid).isNone
        let badW := (kkeys vals).filterMap fun fid => (strict fid).map fun x => (fid, laneEff x i.pc)
        let rs := if h.nw then []
          else done.map fun fid => (fid, (e.crew.fibre fid).putV 6 h.d.val val (e.pick fid h.d.val 3), ())
        let lat := (l.out.map fun fid => (fid, (0 : Word))) ++ done.map fun fid => (fid, val)
        (u.modCrew i.crew fun c => c.putFibres rs).endWord i (i.produce 6 lat) (!qs.isEmpty) (l.bad ++ bad ++ badW)

/-! ## Index registers -/

/-- A word that writes an index register on each selected lane (R118, R119): k gives the new register from its old value
and the operand, or the fault. -/
def execIndex (instr : Instr) (g : Guard) (x : Fin 4) (a : Sel) (reads : Bool)
    (k : Nat → XReg → Word → Except LaneErr XReg) (s : State) : Host.Outcome State Fault Refusal :=
  withIssue s fun i t =>
    let e := envOf i t
    match groupCheck e [(a, 1)] 0 1 with
    | some y => t.groupEffect i y
    | none =>
      let l := e.lanes g
      let qs := popsOf [a]
      t.withPops i instr l qs fun u pops =>
        let rs := l.sel.map fun fid =>
          let f := e.crew.fibre fid
          let old := if reads then f.seeX x.val (e.pick fid (70 + x.val) 2) else kgetD f.x x.val {}
          match e.read f fid a 0 ((kgetD pops fid []).headD 0) with
          | .error y => (fid, f, some (laneEff y i.pc))
          | .ok v =>
            if i.strict && f.inXWin x.val then (fid, f, some (laneEff strictWindow i.pc))
            else match k e.crew.b old v with
              | .error y => (fid, f, some (laneEff y i.pc))
              | .ok r => (fid, f.putX x.val r (e.pick fid (70 + x.val) 3), none)
        (u.modCrew i.crew fun c => c.putFibres rs).endWord i i.grp.latches (!qs.isEmpty) (l.bad ++ effsOf rs)

/-- An index register with a new index, or the fault 0x39 (R119). -/
def newIndex (r : XReg) (n : Int) : Except LaneErr XReg :=
  if 0 ≤ n ∧ n ≤ 1023 then .ok { r with index := n.toNat } else .error (0, 0x39)

/-- XDEF (R118). -/
def execXdef (g : Guard) (x : Fin 4) (base : Fin 64) (b : Sel) (s : State) : Host.Outcome State Fault Refusal :=
  execIndex (.xdef g x base b) g x b false (fun budget _ v =>
    if 1023 < v.toNat ∨ budget < base.val + v.toNat then .error (0, 0x38) else .ok ⟨base.val, v.toNat, 0⟩) s

/-- XSET (R119). -/
def execXset (g : Guard) (x : Fin 4) (a : Sel) (s : State) : Host.Outcome State Fault Refusal :=
  execIndex (.xset g x a) g x a false (fun _ r v => newIndex r v.toNat) s

/-- XADD (R119). -/
def execXadd (g : Guard) (x : Fin 4) (a : Sel) (s : State) : Host.Outcome State Fault Refusal :=
  execIndex (.xadd g x a) g x a true (fun _ r v => newIndex r ((r.index : Int) + v.toInt)) s

/-! ## SREAD and TKRD -/

/-- The number of a chip within a gang's chip set (R41). -/
def Gang.chipNumber (g : Gang) (chip : Nat) : Nat := g.chips.findIdx fun c => c == chip

/-- The value of a special register for a fibre (R41, R121). -/
def specialReg (s : State) (e : Env) (f : Fibre) (fid reg : Nat) : Nat :=
  let c := e.crew
  let l := ((kget s.gangs c.gang).map Gang.launch).getD {}
  match reg with
  | 0x00 => fid
  | 0x01 => laneOf fid
  | 0x02 => c.x
  | 0x03 => c.y
  | 0x04 => c.z
  | 0x05 => c.stage
  | 0x06 => l.gx
  | 0x07 => l.gy
  | 0x08 => l.gz
  | 0x09 => ((kget s.gangs c.gang).map fun g => g.chipNumber s.sysId).getD 0
  | 0x0A => dieOf e.iss.core
  | 0x0B => clusterOf e.iss.core % 24
  | 0x0C => positionOf e.iss.core
  | 0x0D => s.tick
  | 0x0E => f.tickhi.toNat
  | 0x0F => e.cycle
  | 0x10 => c.b
  | 0x11 => (f.fstatSeen fun k => e.pick fid (80 + k) 1).toNat
  | _ => c.phase.toNat

/-- SREAD (R41, R121). S.TICKLO keeps the high half of its sample. -/
def execSread (h : LaneHdr) (reg : Fin 19) (s : State) : Host.Outcome State Fault Refusal :=
  ({ instr := .sread h reg, g := h.g, nw := h.nw, d := h.d.val, lat := 2, srcs := []
     result := fun e f fid _ =>
       .ok { lo := BitVec.ofNat 32 (specialReg s e f fid reg.val)
             tick := if reg.val = 0x0D then some (BitVec.ofNat 32 (s.tick / 2 ^ 32)) else none } } : LaneOp).exec s

/-- The word that TKRD reads of a token (R139). -/
def tokWord (t : Tok) : Word := BitVec.ofNat 32 (t.count % 64 + (if t.err then 64 else 0) + 256 * t.cause.toNat)

/-- TKRD (R139). -/
def execTkrd (h : LaneHdr) (k : Fin 16) (s : State) : Host.Outcome State Fault Refusal :=
  ({ instr := .tkrd h k, g := h.g, nw := h.nw, d := h.d.val, lat := 2, srcs := []
     result := fun _ f _ _ => plain (tokWord (f.tok k.val)) } : LaneOp).exec s

end Sys2Proof.Machine
end

