-- ==== Sys2Proof/Machine/Control.lean ====
section
/-! DEFINITION. Control flow (R34 to R37, R129 to R131), WAIT (R135, R136), barriers (R143 to R146), QPUT (R147, R148) and NOP
(R150). -/

namespace Sys2Proof.Machine

/-! ## Words that act on each selected fibre and are switch points -/

/-- The end of a switch point whose fibres already stand at their next places: effects are delivered in lane order, and the
group dissolves (R31). -/
def State.endControl (s : State) (i : Issue) (bad : List (Nat × Eff)) : State :=
  (s.deliverAll i.crew (i.grp.fids.flatMap fun f => bad.filter fun x => x.1 == f)).endSwitch i

/-- What a word does to one selected fibre: the state after it, and the effect that the fibre performs. -/
abbrev FibreAct := State → Nat → State × Option Eff

/-- A word whose selected fibres act one after another in lane order, the excluded ones going on at the next word (R129). -/
def State.control (s : State) (i : Issue) (l : Lanes) (act : FibreAct) : State :=
  let r := l.sel.foldl (fun (r : State × List (Nat × Eff)) fid =>
    let x := act r.1 fid
    (x.1, r.2 ++ (x.2.map fun e => (fid, e)).toList)) (s.setPcs i.crew i.grp.fids (i.pc + 4), l.bad)
  r.1.endControl i r.2

/-- A guarded control word executed. -/
def execControl (g : Guard) (act : Issue → FibreAct) (s : State) : Host.Outcome State Fault Refusal :=
  withIssue s fun i t => t.control i ((envOf i t).lanes g) (act i)

/-- A fibre sent to an address. -/
def State.goTo (s : State) (crew fid pc : Nat) : State := s.modFibre crew fid fun f => { f with pc := pc }

/-- A fault of a fibre at a word. -/
def faultAt (c : Cause) (i : Issue) : Option Eff := some (laneEff (0, c) i.pc)

/-- A transfer to a target, checked under R66. -/
def State.transfer (s : State) (i : Issue) (fid target : Nat) (indirect : Bool) : State × Option Eff :=
  match targetCause target indirect with
  | some c => (s, faultAt c i)
  | none => (s.goTo i.crew fid target, none)

/-- A frame-engine action of a fibre at a word: its error parks the fibre for the page, or is an effect at the word (R319). -/
def frameAct {α : Type} (s : State) (i : Issue) (instr : Instr) (fid : Nat) (r : FrRes α) (k : State → α → State × Option Eff) :
    State × Option Eff :=
  match r with
  | (t, .ok a) => k t a
  | (_, .error (.page va w)) => (s.holdPage i instr fid va w, none)
  | (_, .error (.effect l c)) => (s, some (laneEff (l, c) i.pc))

/-! ## Branches -/

/-- BRA (R129). -/
def execBra (g : Guard) (disp : BitVec 21) (s : State) : Host.Outcome State Fault Refusal :=
  execControl g (fun i t fid => t.transfer i fid (directTarget i.pc disp) false) s

/-- A word with a target or handle pair: the budget and split checks of the group, then each fibre with its pair (R96, R128). -/
def execPair (g : Guard) (a : Sel) (act : Issue → Env → Word64 → FibreAct) (s : State) : Host.Outcome State Fault Refusal :=
  withIssue s fun i t =>
    let e := envOf i t
    match groupCheck e [(a, 2)] 0 1 with
    | some x => t.groupEffect i x
    | none => t.control i (e.lanes g) fun u fid =>
      match e.readPair (e.crew.fibre fid) fid a 0 with
      | .error x => (u, some (laneEff x i.pc))
      | .ok (lo, hi) => act i e (pairOf lo hi) u fid

/-- BRX (R129). -/
def execBrx (g : Guard) (a : Sel) (s : State) : Host.Outcome State Fault Refusal :=
  execPair g a (fun i _ p t fid => t.transfer i fid p.toNat true) s

/-! ## Calls and returns -/

/-- One of K12 to K15 counts (R130, R131). -/
def Fibre.calleeBusy (f : Fibre) : Bool := [12, 13, 14, 15].any fun k => (f.tok k).count != 0

/-- Steps 3 and 4 of R130, shared with SPAWN: the header at target - 4 and its budget. -/
def State.checkHeader (s : State) (i : Issue) (target : Nat) : State × Option Eff :=
  let c := s.crew i.crew
  match s.fetchWord i.core c.pasid ((target + 2 ^ 64 - 4) % 2 ^ 64) with
  | (t, .error x) => (t, some (fetchEff x (target - 4) (i.pc + 4) i.pc))
  | (t, .ok w) =>
    match headerBudget w with
    | none => (t, faultAt 0x1C i)
    | some b => if c.b < b then (t, some (laneEff (8, 0x3B) i.pc)) else (t, none)

/-- The steps of a call on a fibre (R130, R317). -/
def State.callFibre (s : State) (i : Issue) (instr : Instr) (fid target : Nat) (indirect : Bool) : State × Option Eff :=
  if ((s.crew i.crew).fibre fid).calleeBusy then (s, some (laneEff (9, 0x32) i.pc))
  else match targetCause target indirect with
    | some c => (s, faultAt c i)
    | none =>
      match s.checkHeader i target with
      | (t, some e) => (t, some e)
      | (t, none) => frameAct t i instr fid (t.pushSeg i.crew fid 0 (i.pc + 4) true []) fun u _ =>
          (u.goTo i.crew fid target, none)

/-- CALL (R130). -/
def execCall (g : Guard) (disp : BitVec 21) (s : State) : Host.Outcome State Fault Refusal :=
  execControl g (fun i t fid => t.callFibre i (.call g disp) fid (directTarget i.pc disp) false) s

/-- CALLX (R130). -/
def execCallx (g : Guard) (a : Sel) (s : State) : Host.Outcome State Fault Refusal :=
  execPair g a (fun i _ p t fid => t.callFibre i (.callx g a) fid p.toNat true) s

/-! ## Join registers (R34, R35, R43) -/

/-- A join register. -/
def Crew.join (c : Crew) (j : Nat) : JoinReg := kgetD c.joins j {}

/-- A group formed of fibres at an address, in lane order (R30). -/
def State.formGroup (s : State) (crew pc : Nat) (fids : List Nat) : State :=
  let (gid, t) := s.fresh
  let c := t.crew crew
  let lanes := (List.range 64).filterMap fun l => fids.find? fun f => laneOf f == l
  let g : Group := { fids := lanes, pc := pc, fpc := pc, fcycle := (t.core c.core).cycle }
  fids.foldl (fun (u : State) fid => u.modFibre crew fid fun f => { f with pc := pc, st := .formed gid })
    (t.modCrew crew fun c => { c with groups := kset c.groups gid g })

/-- The released fibres of one JOIN word (R34): a formed group, which clears every split bit when it holds every live fibre (R43), or, when
the table has no entry for it, fibres in the overflow queue (R32, R45). -/
def State.releaseAt (s : State) (crew pc : Nat) (fids : List Nat) : State :=
  let t := if (s.crew crew).wholeGroup fids then s.modCrew crew fun c => { c with split := 0 } else s
  if t.tableFull (t.crew crew).core crew pc then fids.foldl (fun (u : State) fid => (u.goTo crew fid pc).enter crew fid) t
  else t.formGroup crew pc fids

/-- Every arrived fibre of a join register released, one formed group for each JOIN word (R34). -/
def State.releaseJoin (s : State) (crew j : Nat) : State :=
  let r := (s.crew crew).join j
  let t := s.modCrew crew fun c => { c with joins := kset c.joins j { r with arrived := [] } }
  ((r.arrived.map Prod.snd).eraseDups).foldl (fun (u : State) pc =>
    u.releaseAt crew pc ((r.arrived.filter fun a => a.2 == pc).map Prod.fst)) t

/-- A join register releases its fibres when every recorded one has arrived (R34). -/
def State.checkJoin (s : State) (crew j : Nat) : State :=
  let r := (s.crew crew).join j
  if !r.arrived.isEmpty && r.record.all fun f => r.arrived.any fun a => a.1 == f then s.releaseJoin crew j else s

/-- SPLIT (R34, R35). -/
def execSplit (g : Guard) (j : Fin 8) (s : State) : Host.Outcome State Fault Refusal :=
  withIssue s fun i t =>
    let l := (envOf i t).lanes g
    let u := (t.releaseJoin i.crew j.val).modCrew i.crew fun c => { c with joins := kset c.joins j.val ⟨l.sel, []⟩ }
    u.control i l fun v _ => (v, none)

/-- JOIN (R34, R35, R129). -/
def execJoin (g : Guard) (j : Fin 8) (s : State) : Host.Outcome State Fault Refusal :=
  execControl g (fun i t fid =>
    let r := (t.crew i.crew).join j.val
    if !r.record.contains fid then (t, none)
    else if r.arrived.any fun a => a.1 == fid then (t, faultAt 0x3C i)
    else
      let u := t.modCrew i.crew fun c => { c with joins := kset c.joins j.val { r with arrived := r.arrived ++ [(fid, i.pc + 4)] } }
      (((u.goTo i.crew fid i.pc).park i.crew fid (.join j.val)).checkJoin i.crew j.val, none)) s

/-! ## EXIT and RET -/

/-- A fibre whose frame segments have been freed retires (R37): it leaves every join record, and its crew ends with its last fibre. -/
def State.retire (s : State) (crew fid : Nat) : State :=
  let u := s.modCrew crew fun c =>
    { c with fibres := kdel c.fibres fid, exited := c.exited + 1
             joins := kmap c.joins fun _ r => ⟨r.record.filter fun f => f != fid, r.arrived.filter fun a => a.1 != fid⟩ }
  let v := (List.range 8).foldl (fun (x : State) j => x.checkJoin crew j) u
  if (v.crew crew).fibres.isEmpty then (v.openBufs crew fun _ => true).endCrew crew else v

/-- The wait on every token that counts, as EXIT and RESUME make it (R37, R339): the WAIT effect where a hinge handles it, or
parking. A wait on a token that holds no error returns normally (R278); then comes the effect of the lowest errored token, or the fibre
goes on with k. -/
def State.waitTokens (s : State) (i : Issue) (instr : Instr) (fid : Nat) (k : State → State × Option Eff) : State × Option Eff :=
  let f := (s.crew i.crew).fibre fid
  let counting := (List.range 16).filter fun n => (f.tok n).count != 0
  match counting with
  | n :: _ =>
    if f.effmask.getLsbD 2 then
      (s, some { label := 2, cause := 0, payload := BitVec.ofNat 32 (256 * n), rpc := i.pc, stay := true })
    else ((s.parkHeld i instr [fid] .tokens counting).2, none)
  | [] =>
    let t := (i.waited.filter fun n => !(f.tok n).err).foldl (fun (t : State) n => t.waitReturn i.crew fid n) s
    match f.errToken with
    | some n =>
      let c := (f.tok n).cause
      ((t.modFibre i.crew fid fun f => f.takeError n), some { causeEff c i.pc with stay := true })
    | none => k t

/-- EXIT of a fibre (R37). -/
def State.exitFibre (s : State) (i : Issue) (instr : Instr) (fid : Nat) : State × Option Eff :=
  s.waitTokens i instr fid fun t =>
    let f := (t.crew i.crew).fibre fid
    frameAct t i instr fid (t.freeStack i.crew 256 f.seg) fun u _ => (u.retire i.crew fid, none)

/-- EXIT (R37). -/
def execExit (g : Guard) (s : State) : Host.Outcome State Fault Refusal :=
  execControl g (fun i t fid => t.exitFibre i (.exit g) fid) s

/-- RET (R131, R317). -/
def execRet (g : Guard) (s : State) : Host.Outcome State Fault Refusal :=
  execControl g (fun i t fid =>
    let f := (t.crew i.crew).fibre fid
    if f.calleeBusy then (t, some (laneEff (9, 0x33) i.pc))
    else frameAct t i (.ret g) fid (t.segHead i.crew f.seg) fun u h =>
      if h.kind = 1 then (u, faultAt 0x9B i)
      else if !h.valid then u.exitFibre i (.ret g) fid
      else match targetCause h.rpc true with
        | some c => (u, faultAt c i)
        | none => frameAct u i (.ret g) fid (u.popSeg i.crew fid h) fun v _ => (v.goTo i.crew fid h.rpc, none)) s

/-! ## WAIT -/

/-- WAIT (R135, R136). -/
def execWait (g : Guard) (k : Fin 16) (t : Fin 64) (s : State) : Host.Outcome State Fault Refusal :=
  execControl g (fun i u fid =>
    let f := (u.crew i.crew).fibre fid
    if t.val < (f.tok k.val).count then
      if f.effmask.getLsbD 2 then
        (u, some { label := 2, cause := 0, payload := BitVec.ofNat 32 (256 * k.val + t.val), rpc := i.pc })
      else ((u.goTo i.crew fid i.pc).park i.crew fid (.wait k.val t.val false), none)
    else if (f.tok k.val).err then
      let c := (f.tok k.val).cause
      (u.modFibre i.crew fid fun f => f.takeError k.val,
       some (causeEff c (if labelOf c = 3 then i.pc else i.pc + 4)))
    else (u.waitReturn i.crew fid k.val, none)) s

/-! ## Barriers -/

/-- BARI (R143, R145): a is read on the lowest selected lane. After the budget check of R96, a guard that selects no fibre makes the word only
dissolve the group. -/
def execBari (g : Guard) (n : Fin 16) (a : Sel) (s : State) : Host.Outcome State Fault Refusal :=
  withIssue s fun i t =>
    let e := envOf i t
    let l := e.lanes g
    let u := t.setPcs i.crew i.grp.fids (i.pc + 4)
    match groupCheck e (if l.sel.isEmpty then [(a, 1)].filter fun x => !selFits x.1 e.crew.b x.2 else [(a, 1)]) 0 1 with
    | some x => t.groupEffect i x
    | none =>
      match l.sel with
      | [] => u.endControl i l.bad
      | fid :: _ =>
        match e.read (e.crew.fibre fid) fid a 0 0 with
        | .error x => u.endControl i (l.bad ++ [(fid, laneEff x i.pc)])
        | .ok v =>
          if v = 0 ∨ 4095 < v.toNat ∨ (e.crew.bar n.val).arrived ≠ 0 then
            u.endControl i (l.bad ++ l.sel.map fun f => (f, laneEff (0, 0x3E) i.pc))
          else (u.modBar i.crew n.val fun b => { b with expected := v.toNat, arrived := 0, eng := 0 }).endControl i l.bad

/-- One fibre of BARA or BARW (R144 to R146): it arrives; for BARW it parks unless its own arrival completed the phase. -/
def barFibre (n : Nat) (parks : Bool) (i : Issue) (s : State) (fid : Nat) : State × Option Eff :=
  let b := (s.crew i.crew).bar n
  if b.expected = 0 then (s, faultAt 0x3E i)
  else
    let t := s.arriveFibre i.crew n
    if !parks then (t, none)
    else if ((t.crew i.crew).bar n).phase = b.phase then (t.park i.crew fid (.barw n b.phase), none)
    else
      let (u, c) := t.barAcquire i.crew fid n
      (u, c.map fun x => causeEff x (i.pc + 4))

/-- BARA (R143, R144). -/
def execBara (g : Guard) (n : Fin 16) (s : State) : Host.Outcome State Fault Refusal :=
  execControl g (barFibre n.val false) s

/-- BARW (R143, R144). -/
def execBarw (g : Guard) (n : Fin 16) (s : State) : Host.Outcome State Fault Refusal :=
  execControl g (barFibre n.val true) s

/-- BARRD (R143, R146, R206): every fibre of the group acquires. -/
def execBarrd (g : Guard) (n : Fin 16) (d : Fin 32) (s : State) : Host.Outcome State Fault Refusal :=
  withIssue s fun i t =>
    let e := envOf i t
    let l := e.lanes g
    if l.sel.isEmpty then (t.setPcs i.crew i.grp.fids (i.pc + 4)).endControl i l.bad
    else
      let b := e.crew.bar n.val
      let val := BitVec.ofNat 32 (65536 * b.arrived + b.phase)
      match e.crew.strictG i.strict d.val i.grp.fids e.cycle with
      | some x => t.groupEffect i x
      | none =>
        let (u, bad) := i.grp.fids.foldl (fun (r : State × List (Nat × Eff)) fid =>
          let (u, c) := r.1.barAcquire i.crew fid n.val
          (u, r.2 ++ (c.map fun x => (fid, causeEff x (i.pc + 4))).toList)) (t, [])
        u.uniformWrite i e 2 d.val val true (l.bad ++ bad)

/-! ## QPUT and NOP -/

/-- QPUT (R147, R148): it may pop its operand from a queue. -/
def execQput (g : Guard) (q : Fin 4) (a : Sel) (s : State) : Host.Outcome State Fault Refusal :=
  withIssue s fun i t =>
    let e := envOf i t
    let instr : Instr := .qput g q a
    match groupCheck e [(a, 1)] 0 1 with
    | some x => t.groupEffect i x
    | none =>
      let l := e.lanes g
      let stop := fun c => t.endWord i [] true (l.bad ++ l.sel.map fun f => (f, laneEff (0, c) i.pc))
      let hold := fun (_ : Unit) => (t.holdWord i instr l.sel .queue).deliverAll i.crew l.bad
      if l.sel.isEmpty then t.endWord i [] true l.bad
      else
        let n := l.sel.length
        match t.pushState i.crew q.val n, t.popsState i.crew (popsOf [a]) n with
        | .bad, _ => stop 0x3D
        | _, .bad => stop 0x3D
        | .wait, _ => hold ()
        | _, .wait => hold ()
        | .run, .run =>
          if !i.again && e.crew.queueTaken instr then hold ()
          else
            let r := popLanes (popsOf [a]) l.sel e.crew.queues
            let (vals, bad) := readAll e a l.sel r.1
            let u := t.modCrew i.crew fun c => { c with queues := r.2 }
            let v := match u.stageCrew e.crew (e.crew.stage + 1) with
              | some (id, _) => u.modCrew id fun c =>
                  { c with queues := kset c.queues q.val (c.queue q.val ++ vals.map Prod.snd) }
              | none => u
            v.endWord i [] true (l.bad ++ bad)

/-- NOP (R150). -/
def execNop (s : State) : Host.Outcome State Fault Refusal :=
  withIssue s fun i t => t.endWord i i.grp.latches false []

end Sys2Proof.Machine
end

