-- ==== Sys2Proof/Machine/MemReqs.lean ====
section
/-! DEFINITION. Requests of the memory engine: the shape of each memory word, its address and operands on a lane (R154 to
R159), the checks at issue in the order of R157, counting, and the records of the requests (R15, R160). -/

namespace Sys2Proof.Machine

/-! ## Sizes and values (R159) -/

/-- Bytes of an access size. -/
def sizeBytes : Size → Nat
  | .s8 | .z8 => 1
  | .s16 | .z16 => 2
  | .w32 => 4
  | .w64 => 8
  | .w128 => 16

/-- Registers of an access size. -/
def sizeRegs : Size → Nat
  | .s8 | .z8 | .s16 | .z16 | .w32 => 1
  | .w64 => 2
  | .w128 => 4

/-- n words of a number, low word first. -/
def wordsOf (n m : Nat) : List Word := (List.range n).map fun i => BitVec.ofNat 32 (m / 2 ^ (32 * i))

/-- The registers that a load writes (R159). -/
def loadVals (sz : Size) (bs : List Byte) : List Word :=
  match sz with
  | .s8 => [bits32 (sext 8 (leNat bs))]
  | .s16 => [bits32 (sext 16 (leNat bs))]
  | .z8 | .z16 | .w32 => [BitVec.ofNat 32 (leNat bs)]
  | .w64 => wordsOf 2 (leNat bs)
  | .w128 => wordsOf 4 (leNat bs)

/-- The bytes of words, low word first. -/
def wordBytes (l : List Word) : List Byte := l.flatMap fun w => leBytes 4 w.toNat

/-- The bytes that a store writes (R159). -/
def storeBytes (sz : Size) (data : List Word) : List Byte := (wordBytes data).take (sizeBytes sz)

/-- The number that words hold, low word first. -/
def wordsNat (l : List Word) : Nat := leNat (wordBytes l)

/-! ## Atomics (R169) -/

/-- Bytes of an atomic function's operand. -/
def atomBytes : AtomFn → Nat
  | .add64 | .cas64 => 8
  | .add | .sub | .mins | .maxs | .minz | .maxz | .and | .or | .xor | .xchg | .cas | .fadd | .incw => 4

/-- Registers that an atomic function reads from D on. -/
def atomRegs : AtomFn → Nat
  | .cas | .add64 => 2
  | .cas64 => 4
  | .add | .sub | .mins | .maxs | .minz | .maxz | .and | .or | .xor | .xchg | .fadd | .incw => 1

/-- What an atomic makes of the memory value m, with operand v and comparand c: the new value, none where a CAS fails, and
the exceptions of FADD (R169, R122). -/
def atomRes (af : AtomFn) (m v c : Nat) : Option Nat × Word :=
  let lt := fun (a b : Nat) => decide (sext 32 a ≤ sext 32 b)
  match af with
  | .add => (some ((m + v) % 2 ^ 32), 0)
  | .sub => (some ((m + 2 ^ 32 - v) % 2 ^ 32), 0)
  | .mins => (some (if lt m v then m else v), 0)
  | .maxs => (some (if lt v m then m else v), 0)
  | .minz => (some (min m v), 0)
  | .maxz => (some (max m v), 0)
  | .and => (some (m &&& v), 0)
  | .or => (some (m ||| v), 0)
  | .xor => (some (m ^^^ v), 0)
  | .xchg => (some v, 0)
  | .cas => (if m = c then some v else none, 0)
  | .fadd => let r := fadd f32 0 m v; (some r.1, r.2)
  | .incw => (some (if v ≤ m then 0 else m + 1), 0)
  | .add64 => (some ((m + v) % 2 ^ 64), 0)
  | .cas64 => (if m = c then some v else none, 0)

/-- The cause of an arithmetic error of an atomic, for the exceptions whose enables were set at issue (R122). -/
def atomCause (exc : Word) (traps : Nat) (result : Bool) : Option Cause :=
  let t := exc &&& BitVec.ofNat 32 traps
  let base : Cause := if result then 0x25 else 0x29
  if t &&& excNV ≠ 0 then some base
  else if t &&& excOF ≠ 0 then some (base + 1)
  else if t &&& excUF ≠ 0 then some (base + 2)
  else if t &&& excNX ≠ 0 then some (base + 3)
  else none

/-! ## Shapes -/

/-- The shape of a memory word: header, function, space, bytes of the access (0 where the address needs no alignment at
issue), and the registers from D on that it reads and writes. -/
structure MemShape where
  h : MemHdr
  fn : MemFn
  space : Space
  n : Nat
  reads : Nat
  writes : Nat

/-- A load of a space (R158). -/
def loadShape (space : Space) (h : MemHdr) (sz : Size) : MemShape := ⟨h, .load sz, space, sizeBytes sz, 0, sizeRegs sz⟩

/-- A store to a space (R158). -/
def storeShape (space : Space) (h : MemHdr) (sz : Size) : MemShape := ⟨h, .store sz, space, sizeBytes sz, sizeRegs sz, 0⟩

/-- ATOM and ATOMN (R169). -/
def atomShape (h : MemHdr) (af : AtomFn) (result : Bool) : MemShape :=
  ⟨h, .atom af result, .global, atomBytes af, atomRegs af, if result then atomBytes af / 4 else 0⟩

/-- ALLOW (R188). -/
def allowShape (h : MemHdr) (f : AllowFn) : MemShape :=
  match f with
  | .init => ⟨h, .allow f, .global, 0, 2, 0⟩
  | .take => ⟨h, .allow f, .global, 0, 1, 1⟩
  | .give => ⟨h, .allow f, .global, 0, 1, 0⟩
  | .exact | .probe => ⟨h, .allow f, .global, 0, 0, 2⟩

/-- The registers that a request writes at its completion. -/
def MemReq.dests (r : MemReq) : List Nat :=
  let n := match r.fn with
    | .load sz => sizeRegs sz
    | .atom af result => if result then atomBytes af / 4 else 0
    | .allow .take => 1
    | .allow .exact | .allow .probe => 2
    | .store _ | .fence _ | .ifence | .allow .init | .allow .give | .cache _ => 0
  (List.range n).map fun k => r.d + k

/-- CACHE (R174). -/
def cacheShape (h : MemHdr) (f : CacheFn) : MemShape := ⟨h, .cache f, .global, 0, 1, 0⟩

/-- The shape of a memory word with an address, or none of any other instruction. -/
def memShape : Instr → Option MemShape
  | .ldg h sz => some (loadShape .global h sz)
  | .stg h sz => some (storeShape .global h sz)
  | .ldx h sz => some (loadShape .scratch h sz)
  | .stx h sz => some (storeShape .scratch h sz)
  | .ldf h sz => some (loadShape .frame h sz)
  | .stf h sz => some (storeShape .frame h sz)
  | .ldc h sz => some (loadShape .const h sz)
  | .atom h af => some (atomShape h af true)
  | .atomn h af => some (atomShape h af false)
  | .allowInit h => some (allowShape h .init)
  | .allowTake h => some (allowShape h .take)
  | .allowGive h => some (allowShape h .give)
  | .allowExact h => some (allowShape h .exact)
  | .allowProbe h => some (allowShape h .probe)
  | .cachePref h => some (cacheShape h .pref)
  | .cacheClean h => some (cacheShape h .clean)
  | .cacheDiscard h => some (cacheShape h .discard)
  | .cacheIcinv h => some (cacheShape h .icinv)
  | _ => none

/-! ## MOD fields (R74, R163) -/

/-- The order of an ORD field. -/
def ordOf : Nat → Order
  | 1 => .acq
  | 2 => .rel
  | 3 => .ar
  | _ => .relaxed

/-- The scope of a SCOPE field. -/
def scopeOfMod (n : Nat) : Scope := (scopeOf n).getD .core

/-- The policy of a CP field. -/
def cpOf : Nat → CachePolicy
  | 1 => .nt
  | 2 => .wc
  | 3 => .keep
  | _ => .normal

/-- The order forms of R163. -/
def orderOk (fn : MemFn) (o : Order) : Bool :=
  match fn with
  | .load _ => o == .relaxed || o == .acq
  | .store _ => o == .relaxed || o == .rel
  | .atom _ _ | .fence _ | .ifence => true
  | .allow _ | .cache _ => o == .relaxed

/-! ## Addresses (R156) -/

/-- The immediate offset (R154). -/
def Issue.offset (i : Issue) : Int := (i.imm.getD 0).toInt

/-- A global address, or cause 0x42 (R156). -/
def globalAddr (levels : Nat) (base : Nat) (off : Int) : Except Cause Nat :=
  let x : Int := base + off
  if 0 ≤ x ∧ x < 2 ^ 64 ∧ canonical levels x.toNat = true then .ok x.toNat else .error 0x42

/-- An address in a segment of a limit, or the cause (R156). -/
def segAddr (base limit n : Nat) (a : Nat) (off : Int) (c : Cause) : Except Cause Nat :=
  let o : Int := a + off
  if 0 ≤ o ∧ o + n ≤ limit then .ok (base + o.toNat) else .error c

/-- The effective address on a lane from the value of AB: low word for the segments, pair for global addresses. -/
def memAddr (s : State) (c : Crew) (f : Fibre) (space : Space) (n : Nat) (base : Word64) (off : Int) : Except Cause Nat :=
  let ea := match space with
    | .global => globalAddr (s.levels c.pasid) base.toNat off
    | .scratch => segAddr c.segScratch.base c.segScratch.limit n (loHalf base).toNat off 0x41
    | .frame => segAddr (f.seg + 32) 992 n (loHalf base).toNat off 0x55
    | .const => segAddr c.segConst.base c.segConst.limit n (loHalf base).toNat off 0x41
  match ea with
  | .error x => .error x
  | .ok a => if n ≠ 0 ∧ a % n ≠ 0 then .error 0x40 else .ok a

/-- The value of AB on a lane as a pair; the high word is 0 where the space takes a 32-bit value. -/
def Env.readBase (e : Env) (f : Fibre) (fid : Nat) (space : Space) (a : Sel) : Except LaneErr Word64 :=
  match space with
  | .global =>
    match e.readPair f fid a 0 with
    | .ok p => .ok (pairOf p.1 p.2)
    | .error x => .error x
  | .scratch | .frame | .const =>
    match e.read f fid a 0 0 with
    | .ok w => .ok (pairOf w 0)
    | .error x => .error x

/-- Consecutive V registers read on a lane. -/
def Env.readVs (e : Env) (f : Fibre) (fid d : Nat) : Nat → Except LaneErr (List Word)
  | 0 => .ok []
  | n + 1 =>
    match e.readV f fid d (2 + n), e.readVs f fid (d + 1) n with
    | .ok w, .ok l => .ok (w :: l)
    | .error x, _ => .error x
    | _, .error x => .error x

/-- The amounts of R157, step 3. -/
def amountCause (fn : MemFn) (data : List Word) : Option Cause :=
  match fn with
  | .allow .init => if 2 ^ 62 < wordsNat data then some 0x51 else none
  | .allow .take | .allow .give => if wordsNat data = 0 then some 0x50 else none
  | .cache _ => if 2 ^ 30 < wordsNat data then some 0x53 else none
  | _ => none

/-- The group checks of a memory word (R96, R128). -/
def MemShape.check (e : Env) (m : MemShape) : Option LaneErr :=
  let w := if m.space = .global then 2 else 1
  if !selFits m.h.ab e.crew.b w || !vFits e.crew.b m.h.d.val (max 1 (max m.reads m.writes)) then some (0, 0x37)
  else if e.splitRead (selRegs m.h.ab w) then some (9, 0x3A)
  else none

/-! ## Issue (R157, R132, R138) -/

/-- The request of a memory word on a lane, or why the lane refuses it (R157). -/
def Env.memReq (e : Env) (s : State) (m : MemShape) (seq fid : Nat) : Except LaneErr MemReq :=
  let f := e.crew.fibre fid
  let o := ordOf e.iss.mod.ord
  if !orderOk m.fn o then .error (0, 0x4E)
  else match e.readVs f fid m.h.d.val m.reads with
    | .error x => .error x
    | .ok data =>
      match amountCause m.fn data, e.readBase f fid m.space m.h.ab with
      | some c, _ => .error (0, c)
      | none, .error x => .error x
      | none, .ok base =>
        match memAddr s e.crew f m.space m.n base e.iss.offset with
        | .error c => .error (0, c)
        | .ok ea =>
          match ((List.range m.writes).filterMap fun k => f.strictV e.iss.strict (m.h.d.val + k)).head? with
          | some x => .error x
          | none => .ok
              { fn := m.fn, space := m.space, word := e.iss.word, modw := e.iss.modw, k := m.h.k.val, d := m.h.d.val
                ea := ea, n := m.n, data := data, order := o, scope := scopeOfMod e.iss.mod.scope
                cp := cpOf e.iss.mod.cp
                traps := (f.fstatSeen fun k => e.pick fid (80 + k) 1).toNat / 256 % 32
                cause := 0, page := 0, seq := seq, pos := f.pos }

/-- The checks of a frame access that its translation decides at the word (R319, R323). -/
def State.frameIssue (s : State) (i : Issue) (fid : Nat) (r : MemReq) : State × Option Cause :=
  match r.space with
  | .global | .scratch | .const => (s, none)
  | .frame =>
    let c := s.crew i.crew
    let isStore := match r.fn with | .store _ => true | _ => false
    match s.coreXl i.core c.pasid r.ea (if isStore then .store else .load) with
    | (t, .fault _) => (t, none)
    | (t, .ok pa cacheable) =>
      if !cacheable || !isDevice pa then (t, some 0x9F)
      else
        let off := r.ea - ((c.fibre fid).seg + 32)
        let kind := (t.segByte i.core (pa / 1024 * 1024 + 1)).toNat % 4
        (t, if isStore && decide (off < 64) && kind == 1 then some 0x9F else none)

/-- A request put in flight for a fibre whose token counts it (R132). -/
def State.launchMem (s : State) (i : Issue) (fid : Nat) (r : MemReq) : State :=
  let (id, t) := s.fresh
  let u := t.modFibre i.crew fid fun f =>
    let g := f.countUp r.k
    if i.strict then g.markPend r.k r.dests else g
  { u with ops := kset u.ops id { kind := .mem r i.crew fid, issuer := i.crew, core := i.core, word := i.word, modw := i.modw,
                                  owners := [.fibre i.crew fid r.k] } }

/-- One lane of a memory word: its request in flight, or its effect. -/
def State.memLane (s : State) (e : Env) (m : MemShape) (seq fid : Nat) : State × Option Eff :=
  match e.memReq s m seq fid with
  | .error x => (s, some (laneEff x e.iss.pc))
  | .ok r =>
    match s.frameIssue e.iss fid r with
    | (t, some c) => (t, faultAt c e.iss)
    | (t, none) =>
      if 63 ≤ ((e.crew.fibre fid).tok r.k).count then (t, some (laneEff (9, 0x30) e.iss.pc))
      else (t.launchMem e.iss fid r, none)

/-- A memory word executed: each selected lane in ascending order (R157, R161). -/
def memExec (m : MemShape) (s : State) : Host.Outcome State Fault Refusal :=
  withIssue s fun i t =>
    let e := envOf i t
    match m.check e with
    | some x => t.groupEffect i x
    | none =>
      let l := e.lanes m.h.g
      let (seq, t1) := t.fresh
      let r := l.sel.foldl (fun (r : State × List (Nat × Eff)) fid =>
        let x := r.1.memLane e m seq fid
        (x.1, r.2 ++ (x.2.map fun f => (fid, f)).toList)) (t1, l.bad)
      r.1.endWord i i.grp.latches false r.2

/-- The request of FENCE or IFENCE, which counts on K0 (R171, R172). -/
def fenceReq (i : Issue) (fn : MemFn) (o : Order) (sc : Scope) (seq pos : Nat) : MemReq :=
  { fn := fn, space := .global, word := i.word, modw := i.modw, k := 0, d := 0, ea := 0, n := 0, data := [], order := o
    scope := sc, cp := .normal, traps := 0, cause := 0, page := 0, seq := seq, pos := pos }

/-- FENCE and IFENCE executed for each selected fibre (R171, R172). -/
def fenceExec (g : Guard) (fn : MemFn) (o : Order) (sc : Scope) (s : State) : Host.Outcome State Fault Refusal :=
  withIssue s fun i t =>
    let e := envOf i t
    let l := e.lanes g
    let (seq, t1) := t.fresh
    let r := l.sel.foldl (fun (r : State × List (Nat × Eff)) fid =>
      let f := e.crew.fibre fid
      if 63 ≤ (f.tok 0).count then (r.1, r.2 ++ [(fid, laneEff (9, 0x30) i.pc)])
      else (r.1.launchMem i fid (fenceReq i fn o sc seq f.pos), r.2)) (t1, l.bad)
    r.1.endWord i i.grp.latches false r.2

/-! ## The memory words -/

/-- LDG (R158 to R163). -/
def execLdg (h : MemHdr) (sz : Size) (s : State) : Host.Outcome State Fault Refusal := memExec (loadShape .global h sz) s
/-- STG (R158 to R163). -/
def execStg (h : MemHdr) (sz : Size) (s : State) : Host.Outcome State Fault Refusal := memExec (storeShape .global h sz) s
/-- LDX (R158 to R163). -/
def execLdx (h : MemHdr) (sz : Size) (s : State) : Host.Outcome State Fault Refusal := memExec (loadShape .scratch h sz) s
/-- STX (R158 to R163). -/
def execStx (h : MemHdr) (sz : Size) (s : State) : Host.Outcome State Fault Refusal := memExec (storeShape .scratch h sz) s
/-- LDF (R158 to R161, R319). -/
def execLdf (h : MemHdr) (sz : Size) (s : State) : Host.Outcome State Fault Refusal := memExec (loadShape .frame h sz) s
/-- STF (R158 to R161, R319, R323). -/
def execStf (h : MemHdr) (sz : Size) (s : State) : Host.Outcome State Fault Refusal := memExec (storeShape .frame h sz) s
/-- LDC (R158 to R161). -/
def execLdc (h : MemHdr) (sz : Size) (s : State) : Host.Outcome State Fault Refusal := memExec (loadShape .const h sz) s
/-- ATOM (R169, R170). -/
def execAtom (h : MemHdr) (af : AtomFn) (s : State) : Host.Outcome State Fault Refusal := memExec (atomShape h af true) s
/-- ATOMN (R169, R170). -/
def execAtomn (h : MemHdr) (af : AtomFn) (s : State) : Host.Outcome State Fault Refusal := memExec (atomShape h af false) s
/-- FENCE (R171). -/
def execFence (g : Guard) (o : Order) (sc : Scope) (s : State) : Host.Outcome State Fault Refusal :=
  fenceExec g (.fence o) o sc s
/-- IFENCE (R172). -/
def execIfence (g : Guard) (sc : Scope) (s : State) : Host.Outcome State Fault Refusal := fenceExec g .ifence .acq sc s
/-- ALLOW.INIT (R188, R193). -/
def execAllowInit (h : MemHdr) (s : State) : Host.Outcome State Fault Refusal := memExec (allowShape h .init) s
/-- ALLOW.TAKE (R188, R191). -/
def execAllowTake (h : MemHdr) (s : State) : Host.Outcome State Fault Refusal := memExec (allowShape h .take) s
/-- ALLOW.GIVE (R188, R192). -/
def execAllowGive (h : MemHdr) (s : State) : Host.Outcome State Fault Refusal := memExec (allowShape h .give) s
/-- ALLOW.EXACT (R188, R193). -/
def execAllowExact (h : MemHdr) (s : State) : Host.Outcome State Fault Refusal := memExec (allowShape h .exact) s
/-- ALLOW.PROBE (R188, R193). -/
def execAllowProbe (h : MemHdr) (s : State) : Host.Outcome State Fault Refusal := memExec (allowShape h .probe) s
/-- CACHE.PREF (R174). -/
def execCachePref (h : MemHdr) (s : State) : Host.Outcome State Fault Refusal := memExec (cacheShape h .pref) s
/-- CACHE.CLEAN (R174). -/
def execCacheClean (h : MemHdr) (s : State) : Host.Outcome State Fault Refusal := memExec (cacheShape h .clean) s
/-- CACHE.DISCARD (R174). -/
def execCacheDiscard (h : MemHdr) (s : State) : Host.Outcome State Fault Refusal := memExec (cacheShape h .discard) s
/-- CACHE.ICINV (R174). -/
def execCacheIcinv (h : MemHdr) (s : State) : Host.Outcome State Fault Refusal := memExec (cacheShape h .icinv) s

end Sys2Proof.Machine
end

