-- ==== Sys2Proof/Machine/MemHome.lean ====
section
/-! DEFINITION. How the requests of the memory engine are performed and complete (R160 to R174, R183, R186 to R193, R197 to
R207): loads, stores, atomics, fences, cache operations, allowance counters, WAITMEM, and the order among them. -/

namespace Sys2Proof.Machine

/-- What a performed request gives: a cause with the page it names, and register values. -/
structure Done where
  cause : Option Cause := none
  page : Nat := 0
  vals : List Word := []
deriving DecidableEq, Repr

/-! ## The order among requests (R161, R164, R192, R200) -/

/-- The bytes of its space that a request touches, as first byte and length. -/
def MemReq.range (r : MemReq) : Nat × Nat :=
  match r.fn with
  | .load _ | .store _ | .atom _ _ => (r.ea, r.n)
  | .allow _ => (r.ea / 64 * 64, 64)
  | .cache .clean | .cache .discard => (r.ea, wordsNat r.data)
  | .cache .pref | .cache .icinv | .fence _ | .ifence => (r.ea, 0)

/-- Two requests touch a common byte of one space. -/
def MemReq.overlaps (r q : MemReq) : Bool :=
  r.space == q.space && decide (r.range.1 < q.range.1 + q.range.2) && decide (q.range.1 < r.range.1 + r.range.2)

/-- A fence of either kind. -/
def MemReq.isFence (r : MemReq) : Bool := match r.fn with | .fence _ | .ifence => true | _ => false

/-- A request performed only after every earlier access of its fibre has completed (R200). -/
def MemReq.isRelease (r : MemReq) : Bool := r.isFence || r.order == .rel || r.order == .ar

/-- An allowance request. -/
def MemReq.isAllow (r : MemReq) : Bool := match r.fn with | .allow _ => true | _ => false

/-- A PROBE, which waits for no recall round (R193). -/
def MemReq.isProbe (r : MemReq) : Bool := match r.fn with | .allow .probe => true | _ => false

/-- Why a request in flight is not performed yet: an earlier one of its fibre or its word to the same bytes (R161), any
earlier one of its fibre when it is a release or a fence (R200), and an earlier one of its core for the same counter (R192), but for a
PROBE (R193). -/
def State.memHeld (s : State) (id : Nat) (core crew fid : Nat) (r : MemReq) : Bool :=
  s.ops.any fun o => o.1 != id && match o.2.kind with
    | .mem q c f =>
      let same := c == crew && f == fid
      let before := decide (q.seq < r.seq) || (q.seq == r.seq && decide (o.1 < id))
      before &&
        ((same || (q.seq == r.seq)) && q.overlaps r && o.2.stage == .issued ||
         same && r.isRelease && decide (q.seq < r.seq) ||
         r.isAllow && !r.isProbe && q.isAllow && o.2.core == core && q.overlaps r && o.2.stage == .issued)
    | _ => false

/-- An ordering access that follows an access of its fibre which completed with an error not yet taken, or which waits on the
replay list (R164). -/
def Fibre.blocks (f : Fibre) (r : MemReq) : Bool :=
  (r.isFence || r.order != .relaxed) &&
    ((f.attached.any fun q => decide (q.seq < r.seq)) || (f.replay.any fun q => decide (q.seq < r.seq)) ||
     f.merr.any fun e => decide (e.2 < r.seq))

/-! ## Translation of a request (R177, R180, R183) -/

/-- What a request needs of its page. -/
def MemReq.acc (r : MemReq) : Acc :=
  match r.fn with
  | .cache .clean => .clean
  | .cache .discard => .discard
  | _ => if r.writes then .store else .load

/-- The translation of a request: the one that its walk left, while the lease lasts, or a new one. -/
def State.reqXl (s : State) (o : Op) (r : MemReq) : State × Xl :=
  if o.walked && decide (s.tick < o.lease) then (s, .ok o.pa !o.uncached)
  else s.coreXl o.core (s.crew o.issuer).pasid r.ea r.acc

/-- The scope that a fused cluster gives to CORE (R167). -/
def State.effScope (s : State) (core : Nat) (sc : Scope) : Scope :=
  if sc = .core ∧ (s.cluster (clusterOf core)).fused then .cluster else sc

/-! ## Acquires and releases of a fibre (R197, R203 to R205) -/

/-- The acquire of a fibre at a scope, with the releases that the values it read carry: when every drain has been made, what they merged is
closed (R208), and the observed set is emptied. -/
def State.fibreAcquire (s : State) (core crew fid : Nat) (sc : Scope) (tags : List RelTag) : Tried :=
  let chips := s.gangChips crew
  match sc with
  | .core => (s.synchronise core sc chips tags, none)
  | .cluster | .die | .package | .system =>
    (s.acquire core sc ((s.crew crew).fibre fid).observed).andThen fun t =>
      ((t.synchronise core sc chips tags).modFibre crew fid fun f => { f with observed := [] }, none)

/-- What a read adds to a fibre: the releases that the value carries, and the line's release record (R197, R203). -/
def State.noteRead (s : State) (crew fid : Nat) (r : ReadRes) : State :=
  s.modFibre crew fid fun f => { f with read := addTags f.read r.tags, observed := r.rel.foldl (addEntry 8) f.observed }

/-- The eager part of a release (R204), for the scopes that have one. -/
def State.eager (s : State) (core : Nat) (sc : Scope) : Tried :=
  match sc with
  | .package | .system => s.drain (s.agentOf core)
  | .core | .cluster | .die => (s, none)

/-- The entry that a lazy release leaves at its line (R202), and the count of the release (R207). -/
def State.leaveRelease (s : State) (core line : Nat) (sc : Scope) (chips : List Nat) : State :=
  let t := match sc with
    | .cluster | .die => s.recordRelease core line sc
    | .core | .package | .system => s
  (t.release core sc chips).1

/-! ## Global and constant loads -/

/-- The signature of an initialised counter (R186). -/
def counterSig : Nat := 0x414C0057

/-- The address lies in an initialised allowance counter (R187). -/
def State.inCounter (s : State) (pa : Nat) : Bool := !isHost pa && s.readNat (pa / 64 * 64 + 12) 4 == counterSig

/-- The outcome of a change that may fail, as a request's. -/
def Tried.done (r : Tried) (vals : List Word) : State × Done :=
  match r with
  | (s, none) => (s, { vals := vals })
  | (s, some c) => (s, { cause := some c })

/-- A byte that a read returns carries a poison mark, in the caches of its agent or at its home (R409). -/
def State.seenPoison (s : State) (a pa n : Nat) (atHome : Bool) : Bool :=
  (List.range n).any fun i => (s.seeByte a (pa + i) atHome).poison

/-- A load performed (R160 to R163, R203); one served by a peer chip's home goes over the links (R217). -/
def State.loadAt (s : State) (core crew fid : Nat) (r : MemReq) (sz : Size) (pa : Nat) (cacheable : Bool) : State × Done :=
  let a := s.agentOf core
  let home := r.order != .relaxed || !cacheable || s.inCounter pa
  let held := !home && s.l1Holds a pa r.n
  match (if s.seenPoison a pa r.n home then some 0x4D else if held then none else s.reachCause pa r.n) with
  | some c => (s, { cause := some c })
  | none =>
    let s0 := if isPeer pa && !held then s.tellChip (peerChip pa) (.read a pa r.n) else s
    let (t, v) := s0.readLine a pa r.n home (!home && r.cp != .nt)
    let t1 := t.noteRead crew fid v
    if r.order = .relaxed then (t1, { vals := loadVals sz v.bytes })
    else (t1.fibreAcquire core crew fid (t1.effScope core r.scope) v.tags).done (loadVals sz v.bytes)

/-! ## Global stores -/

/-- A store's bytes written by its policy (R162, R163). -/
def State.putStore (s : State) (a crew : Nat) (r : MemReq) (pa : Nat) (cacheable home : Bool) (bs : List Byte) (tags : List RelTag) :
    Tried :=
  if home || !cacheable || r.cp == .nt then s.storeHome a (some crew) pa r.ea bs tags
  else if r.cp == .wc then s.storeWc a crew pa r.ea bs tags
  else s.storeL1 a crew pa r.ea bs tags

/-- A store performed (R160 to R163, R202, R204). -/
def State.storeAt (s : State) (core crew fid : Nat) (r : MemReq) (sz : Size) (pa : Nat) (cacheable : Bool) : State × Done :=
  let a := s.agentOf core
  let sc := s.effScope core r.scope
  let bs := storeBytes sz r.data
  let fences := ((s.crew crew).fibre fid).fences
  let away := r.cp == .nt || r.cp == .wc || !cacheable || r.order != .relaxed
  match (if away then s.reachCause pa r.n else none) with
  | some c => (s, { cause := some c })
  | none =>
    (if r.order = .relaxed then s.putStore a crew r pa cacheable false bs fences
     else (s.eager core sc).andThen fun t =>
       (t.putStore a crew r pa cacheable (sc != .core) bs (addTags fences [t.nextTag core sc (s.gangChips crew)])).andThen fun u =>
         (u.leaveRelease core (pa / 128) sc (s.gangChips crew), none)).done []

/-! ## Scratch accesses (R163, R166) -/

/-- The scope of a scratch access (R163). -/
def State.scratchScope (s : State) (core : Nat) (sc : Scope) : Scope :=
  match s.effScope core sc with
  | .core => .core
  | .cluster | .die | .package | .system => .cluster

/-- A load from the scratchpad. -/
def State.loadScratch (s : State) (core crew fid : Nat) (r : MemReq) (sz : Size) : State × Done :=
  let cl := clusterOf core
  let k := scratchKey cl r.ea
  if s.poisonScratch.any fun p => k ≤ p && decide (p < k + r.n) then (s, { cause := some 0x4D })
  else
    let bs := s.readScratch cl r.ea r.n
    let tags := (List.range r.n).foldl (fun m i => addTags m (kgetD s.tags (scratchTag cl (r.ea + i)) [])) []
    let t := s.modFibre crew fid fun f => { f with read := addTags f.read tags }
    if r.order = .relaxed then (t, { vals := loadVals sz bs })
    else
      let sc := t.scratchScope core r.scope
      let u := t.synchronise core sc [] tags
      let v := if sc = .core then u
        else (u.invalidate (u.agentOf core)).modFibre crew fid fun f => { f with observed := [] }
      (v, { vals := loadVals sz bs })

/-- Bytes stored to the scratchpad with the releases that they carry. -/
def State.tagScratch (s : State) (cluster addr n : Nat) (tags : List RelTag) : State :=
  if tags.isEmpty then s
  else { s with tags := (List.range n).foldl (fun m i => kset m (scratchTag cluster (addr + i)) tags) s.tags }

/-- A store to the scratchpad. A release drains at every scope, CORE among them, as R163 and R204 say of every release STX, where R205 says
that a release at CORE scope drains nothing (log entry 131). -/
def State.storeScratch (s : State) (core crew fid : Nat) (r : MemReq) (sz : Size) : State × Done :=
  let cl := clusterOf core
  let fences := ((s.crew crew).fibre fid).fences
  let bs := storeBytes sz r.data
  if r.order = .relaxed then ((s.writeScratch cl r.ea bs).tagScratch cl r.ea r.n fences, {})
  else
    let sc := s.scratchScope core r.scope
    ((s.drain (s.agentOf core)).andThen fun t =>
      let u := (t.writeScratch cl r.ea bs).tagScratch cl r.ea r.n (addTags fences [t.nextTag core sc])
      ((u.release core sc).1, none)).done []

/-! ## Frame accesses (R319, R320) -/

/-- Why a write-back to a page of a frame heap fails: 0x43 where its table has no valid entry, or 0x44 (R194). -/
def State.frameCause (s : State) (core crew va : Nat) : Cause :=
  match (s.coreXl core (s.crew crew).pasid va .store).2 with
  | .fault c => c
  | .ok _ _ => 0x44

/-- A load or a store of a frame, through the saddlebag. A store to a hinge record is refused, also where its page was not there at the word
(R323). A segment that must leave the saddlebag for this and whose page is not there has its page asked for. -/
def State.frameAt (s : State) (core crew : Nat) (r : MemReq) (pa : Nat) (cacheable : Bool) : State × Done :=
  if !cacheable || !isDevice pa then (s, { cause := some 0x9F })
  else
    let acts : FrRes (List Word) := match r.fn with
      | .load sz =>
        if s.segPoison core pa r.n then (s, .error (.effect 12 0x4D))
        else frThen (s.saddleFill core crew r.ea pa) fun t _ =>
          (t, .ok (loadVals sz ((List.range r.n).map fun i => t.segByte core (pa + i))))
      | .store sz =>
        if pa % 1024 < 96 ∧ (s.segByte core (pa / 1024 * 1024 + 1)).toNat % 4 = 1 then (s, .error (.effect 0 0x9F))
        else frThen (s.saddleWrite core crew r.ea pa (storeBytes sz r.data)) fun t _ => (t, .ok [])
      | .atom _ _ | .fence _ | .ifence | .allow _ | .cache _ => (s, .ok [])
    match acts with
    | (t, .ok vals) => (t, { vals := vals })
    | (t, .error (.page va _)) => (t, { cause := some (t.frameCause core crew va), page := va / 4096 })
    | (t, .error (.effect _ c)) => (t, { cause := some c })

/-! ## Atomics (R169, R170, R122) -/

/-- The bytes that an agent itself holds dirty within [pa, pa + n) reach their home before an atomic reads them there (R161): their lines are
evicted (R201). -/
def State.ownBytes (s : State) (a pa n : Nat) : Tried :=
  let line := pa / 128
  let meets := fun (m : KMap L1Byte) => m.any fun b => decide (pa % 128 ≤ b.1) && decide (b.1 < pa % 128 + n)
  (if meets (kgetD (s.agent a).l1 line emptyLine).dirty then s.mergeLine a line else (s, none)).andThen fun t =>
    if meets (kgetD (t.agent a).wc line emptyLine).bytes then t.mergeWc a line else (t, none)

/-- The releases that n bytes carry. -/
def State.tagsAt (s : State) (pa n : Nat) : List RelTag :=
  (List.range n).foldl (fun m i => addTags m (kgetD s.tags (pa + i) [])) []

/-- What an atomic that stores nothing leaves at its home (R170, R199, R215): it is applied as any other, with ownership or a snoop before
it, and older clean bytes of its word leave its agent's L1. -/
def State.atomicKeep (s : State) (a pa n : Nat) : State :=
  let t := s.claimLine (pa / 128)
  let u := if (t.home (pa / 128)).keep then t.modHome (pa / 128) fun h => { h with keep := false } else t
  u.modAgent a fun g => { g with l1 := modLine g.l1 (pa / 128) fun l => l.without (pa % 128) n }

/-- An atomic applied at its home (R169, R170): its release part first, then its acquire part, and then the change, so that one that fails
has changed nothing. -/
def State.atomAt (s : State) (core crew fid : Nat) (r : MemReq) (af : AtomFn) (result : Bool) (pa : Nat) : State × Done :=
  let a := s.agentOf core
  let sc := s.effScope core r.scope
  let line := pa / 128
  let rel := r.order == .rel || r.order == .ar
  let fences := ((s.crew crew).fibre fid).fences
  let ready := match s.mergeCause line with
    | some c => s.refuse line c
    | none => (((if rel then s.eager core sc else (s, none)).andThen fun t => t.ownBytes a pa r.n).andThen fun t =>
        (t, t.dataCause pa r.n)).andThen fun t =>
        let tags := t.tagsAt pa r.n
        let u := t.noteRead crew fid ⟨[], (t.home line).rel, tags⟩
        if r.order = .acq ∨ r.order = .ar then u.fibreAcquire core crew fid sc tags else (u, none)
  match ready with
  | (t, some c) => (t, { cause := some c })
  | (t, none) =>
    let m := t.readNat pa r.n
    let res := atomRes af m (wordsNat (r.data.take (r.n / 4))) (wordsNat (r.data.drop (r.n / 4)))
    let u := match res.1 with
      | some x => t.atomicWrite a pa (leBytes r.n x) (if rel then addTags fences [t.nextTag core sc (s.gangChips crew)]
          else fences)
      | none => t.atomicKeep a pa r.n
    (if rel then u.leaveRelease core line sc (s.gangChips crew) else u,
      { cause := atomCause res.2 r.traps result, vals := if result then wordsOf (r.n / 4) m else [] })

/-! ## Fences (R171, R172, R200, R204) -/

/-- A FENCE performed. -/
def State.fenceAt (s : State) (core crew fid : Nat) (o : Order) (scope : Scope) : State × Done :=
  let sc := s.effScope core scope
  let rel := o == .rel || o == .ar
  ((if rel && sc != .core then s.drain (s.agentOf core) else (s, none)).andThen fun s1 =>
    let s2 := if rel then
        let (t, tag) := s1.release core sc (s.gangChips crew)
        t.modFibre crew fid fun f => { f with fences := (f.fences.filter fun g => g.core != core || g.scope != sc) ++ [tag] }
      else s1
    if o = .acq ∨ o = .ar then s2.fibreAcquire core crew fid sc ((s2.crew crew).fibre fid).read else (s2, none)).done []

/-- An IFENCE performed: the instruction words that the core holds, and the copies that its die holds for it, are discarded, then an
acquire (R172, R218; log entry 132). -/
def State.ifenceAt (s : State) (core crew fid : Nat) (scope : Scope) : State × Done :=
  let s1 := (s.modCore core fun c => { c with icache := [] }).modDie (dieOf core) fun d => { d with code := [] }
  (s1.fibreAcquire core crew fid (s1.effScope core scope) ((s1.crew crew).fibre fid).read).done []

/-! ## Cache operations (R174) -/

/-- The pieces of [va, va + len) that each lie in one 4 KiB page. -/
def pagePieces : Nat → Nat → Nat → List (Nat × Nat)
  | 0, _, _ => []
  | fuel + 1, va, len =>
    if len = 0 then []
    else
      let n := min len (4096 - va % 4096)
      (va, n) :: pagePieces fuel (va + n) (len - n)

/-- The pieces translated in order: physical address, cacheability and length, or the cause of each. -/
def State.xlPieces (s : State) (core pasid : Nat) (acc : Acc) (ps : List (Nat × Nat)) :
    State × List (Nat × Nat × Except Cause (Nat × Bool)) :=
  ps.foldl (fun (r : State × List (Nat × Nat × Except Cause (Nat × Bool))) p =>
    match r.1.coreXl core pasid p.1 acc with
    | (t, .ok pa c) => (t, r.2 ++ [(p.1, p.2, .ok (pa, c))])
    | (t, .fault c) => (t, r.2 ++ [(p.1, p.2, .error c)])) (s, [])

/-- The lines that a physical range touches. -/
def linesOf (pa n : Nat) : List Nat := (List.range ((pa + n + 127) / 128 - pa / 128)).map fun i => pa / 128 + i

/-- The copies of a line dropped from an agent's L1 and write-combining buffer without a merge. -/
def State.dropLine (s : State) (a line : Nat) : State :=
  s.modAgent a fun g => { g with l1 := kdel g.l1 line, wc := kdel g.wc line }

/-- The effect of CACHE on a present piece. -/
def State.cachePiece (s : State) (a : Nat) (f : CacheFn) (nt : Bool) (pa n : Nat) (cacheable : Bool) : Tried :=
  s.tryAll (linesOf pa n) fun t line =>
    match f with
    | .pref => match t.reachCause (line * 128) 128 with
      | some c => (t, some c)
      | none => (if nt || !cacheable then t else (t.readLine a (line * 128) 128 false true).1, none)
    | .clean => (t.mergeLine a line).andThen fun u => u.mergeWc a line
    | .discard => (t.dropLine a line, none)
    | .icinv => (t, none)

/-- The words of a PASID in a range of lines removed from a store of instructions. -/
def dropCode (m : KMap Word) (pasid lo hi : Nat) : KMap Word :=
  m.filter fun e => !(decide (codeKey pasid lo ≤ e.1) && decide (e.1 < codeKey pasid hi))

/-- The covered words leave every instruction cache and code copy store of the package (R174, R218). -/
def State.icinv (s : State) (pasid ea len : Nat) : State :=
  let lo := ea / 128 * 128
  let hi := (ea + len + 127) / 128 * 128
  { s with cores := kmap s.cores fun _ c => { c with icache := dropCode c.icache pasid lo hi }
           dies := kmap s.dies fun _ d => { d with code := dropCode d.code pasid lo hi } }

/-- A CACHE operation performed (R174). The pages of the range are translated in order; one that leaves the canonical addresses or passes
2^64 completes the operation with the cause 0x42 that the walk gives (log entry 133). -/
def State.cacheAt (s : State) (core crew : Nat) (r : MemReq) (f : CacheFn) : State × Done :=
  let len := wordsNat r.data
  let pasid := (s.crew crew).pasid
  if len = 0 then (s, {})
  else if f = .icinv then (s.icinv pasid r.ea len, {})
  else
    let (t, ps) := s.xlPieces core pasid r.acc (pagePieces (len / 4096 + 2) r.ea len)
    let bad := ps.findSome? fun p => match p.2.2 with
      | .error c => if c = 0x43 ∨ (f = .pref ∧ c = 0x44) then none else some (c, p.1)
      | .ok x => if f = .discard && isHost x.1 then some (0x54, p.1) else none
    match bad with
    | some (c, va) => (t, { cause := some c, page := va / 4096 })
    | none =>
      (t.tryAll ps fun u p => match p.2.2 with
        | .error _ => (u, none)
        | .ok x => u.cachePiece (s.agentOf core) f (r.cp == .nt) x.1 p.2.1 x.2).done []

/-! ## Allowance counters (R186 to R193) -/

/-- The units of a core's slot for a counter, if it holds one. -/
def State.slot (s : State) (core addr : Nat) : Option Nat :=
  ((s.core core).slots.find? fun x => x.addr == addr).map Slot.units

/-- A slot set, as the most recently used (R189). -/
def State.setSlot (s : State) (core addr units : Nat) : State :=
  s.modCore core fun c => { c with slots := (c.slots.filter fun x => x.addr != addr) ++ [⟨addr, units⟩] }

/-- A slot freed. -/
def State.freeSlot (s : State) (core addr : Nat) : State :=
  s.modCore core fun c => { c with slots := c.slots.filter fun x => x.addr != addr }

/-- Bytes of a counter's image written by its home, with what goes before a change of the line (R186, R215). -/
def State.writeImage (s : State) (addr : Nat) (bs : List Byte) : State := s.writeHome addr bs

/-- The holder set of a counter, kept in its image as HOLDERS (R186, R189). -/
def State.setHolders (s : State) (addr : Nat) (l : List Nat) : State :=
  { s with holders := kset s.holders addr l }.writeImage (addr + 8) (leBytes 4 l.length)

/-- HOME of a counter. -/
def State.counterHome (s : State) (addr : Nat) : Nat := s.readNat addr 8

/-- HOME of a counter set. -/
def State.setHome (s : State) (addr v : Nat) : State := s.writeImage addr (leBytes 8 v)

/-- HOME reported to a core by the counter's home (R193). -/
def State.reportHome (s : State) (core addr : Nat) : State :=
  s.modCore core fun c => { c with reports := kset c.reports addr (s.counterHome addr) }

/-- A slot's units returned to their counter's home, and the slot freed (R189). -/
def State.returnSlot (s : State) (core addr : Nat) : State :=
  match s.slot core addr with
  | none => s
  | some u =>
    let t := (s.freeSlot core addr).setHome addr (s.counterHome addr + u)
    t.setHolders addr ((kgetD t.holders addr []).filter fun c => c != core)

/-- Room for a new slot of a core: with all 64 in use, the least recently used one is returned (R189). -/
def State.roomForSlot (s : State) (core addr : Nat) : State :=
  if (s.slot core addr).isSome || decide ((s.core core).slots.length < 64) then s
  else match (s.core core).slots with
    | [] => s
    | x :: _ => s.returnSlot core x.addr

/-- A recall round (R190): every holder's units go to HOME, the slots are freed, and EPOCH rises. -/
def State.recall (s : State) (addr : Nat) : State :=
  let l := kgetD s.holders addr []
  let t := l.foldl (fun (t : State) c => t.returnSlot c addr) s
  (t.setHolders addr []).writeImage (addr + 16) (leBytes 8 ((t.readNat (addr + 16) 8 + 1) % 2 ^ 64))

/-- A number up to a bound that the spec leaves open. -/
def State.freeUpTo (s : State) (key bound : Nat) : Nat :=
  ((Config.freeWord s.free key 0).toNat + 2 ^ 32 * (Config.freeWord s.free key 1).toNat) % (bound + 1)

/-- A recall round that a peer chip's home makes (R190, R193): the units that its holders return are not known here, and are none where it
has no holders. -/
def State.recallPeer (s : State) (addr : Nat) : State :=
  let units := s.freeUpTo addr (s.readNat (addr + 8) 4 * (2 ^ 32 - 1))
  let t := (s.bump.setHome addr (s.counterHome addr + units)).writeImage (addr + 8) (leBytes 4 0)
  t.writeImage (addr + 16) (leBytes 8 ((t.readNat (addr + 16) 8 + 1) % 2 ^ 64))

/-- A recall round at the home of a counter, on this chip or on a peer's. -/
def State.recallAny (s : State) (addr : Nat) : State := if isPeer addr then s.recallPeer addr else s.recall addr

/-- A core joins the holder set. -/
def State.joinHolders (s : State) (core addr : Nat) : State :=
  let l := kgetD s.holders addr []
  s.setHolders addr (insertNew core l)

/-- A TAKE of n served at the home, with the local units that travel with it (R191). The chunk is bounded so that the slot keeps at most
2^32 - 1 units (R189; log entry 134). -/
def State.takeAtHome (s : State) (core addr n : Nat) : State × Nat :=
  let u := (s.slot core addr).getD 0
  let s0 := if (s.slot core addr).isSome then s.setSlot core addr 0 else s
  let s1 := s0.setHome addr (s0.counterHome addr + u)
  let s2 := if s1.counterHome addr < n then s1.recall addr else s1
  let home := s2.counterHome addr
  if home < n then (s2, 0)
  else
    let h := (insertNew core (kgetD s2.holders addr [])).length
    let c := min (min home (max n (ceilDiv home (2 * h)))) (n + 2 ^ 32 - 1)
    let s3 := ((s2.setHome addr (home - c)).roomForSlot core addr).joinHolders core addr
    (s3.setSlot core addr (c - n), n)

/-- A GIVE whose sum leaves its slot: the slot's units and n go to the home (R192). -/
def State.giveAtHome (s : State) (core addr n : Nat) : State × Done :=
  let u := (s.slot core addr).getD 0
  let s0 := s.setSlot core addr 0
  let home := s0.counterHome addr
  if home + u + n ≤ 2 ^ 62 then (s0.setHome addr (home + u + n), {})
  else (s0.setHome addr (home + u), { cause := some 0x51 })

/-- INIT at the home (R193). -/
def State.initCounter (s : State) (addr v : Nat) : State :=
  let t := if s.inCounter addr then s.recallAny addr else s
  { t with holders := kset t.holders addr [] }.writeImage addr (leBytes 8 v ++ leBytes 4 0 ++ leBytes 4 counterSig ++ leBytes 48 0)

/-- A TAKE that uses no slot, from another chip (R193): served from HOME, with a recall round where it does not suffice. -/
def State.takeBare (s : State) (addr n : Nat) : State × Nat :=
  let t := if s.counterHome addr < n then s.recallAny addr else s
  if t.counterHome addr < n then (t, 0) else (t.setHome addr (t.counterHome addr - n), n)

/-- A GIVE that uses no slot. -/
def State.giveBare (s : State) (addr n : Nat) : State × Done :=
  if s.counterHome addr + n ≤ 2 ^ 62 then (s.setHome addr (s.counterHome addr + n), {}) else (s, { cause := some 0x51 })

/-- What a PROBE returns (R193): HOME as its home last reported it to the core, which may be the present one, plus the core's slot. -/
def State.probeHome (s : State) (core addr : Nat) : State × Done :=
  let v := match kget (s.core core).reports addr with
    | some x => if Config.freeIndex s.free core addr % 2 = 0 then s.counterHome addr else x
    | none => s.counterHome addr
  ((s.modCore core fun c => { c with reports := kset c.reports addr v }).bump,
    { vals := wordsOf 2 (v + (s.slot core addr).getD 0) })

/-- An allowance request of a core to a counter of a peer chip: it uses no slot (R193, R217), and its change goes over the links. -/
def State.allowPeer (s : State) (core addr n : Nat) (f : AllowFn) : State × Done :=
  let (t, d) : State × Done := match f with
    | .init => (s.initCounter addr n, {})
    | .take => let (t, x) := s.takeBare addr n; (t, { vals := [BitVec.ofNat 32 x] })
    | .give => s.giveBare addr n
    | .exact => let t := s.recallAny addr; (t, { vals := wordsOf 2 (t.counterHome addr) })
    | .probe => (s, { vals := wordsOf 2 (s.counterHome addr) })
  (t.tellChip (peerChip addr) (.write core addr ((t.readPas addr 64).zipIdx.map fun b => (b.2, b.1)) []), d)

/-- What the home does for an allowance request that has reached it (R191 to R193). -/
def State.allowAtHome (s : State) (core : Nat) (r : MemReq) (f : AllowFn) (addr : Nat) : State × Done :=
  let n := wordsNat r.data
  if f ≠ .init ∧ s.poisoned addr 64 = true then (s, { cause := some 0x4D })
  else if f ≠ .init ∧ s.inCounter addr = false then (s, { cause := some 0x4F })
  else if isPeer addr then s.allowPeer core addr n f
  else match f with
    | .init => ((s.initCounter addr n).reportHome core addr, {})
    | .take => let (t, x) := s.takeAtHome core addr n; (t.reportHome core addr, { vals := [BitVec.ofNat 32 x] })
    | .give => let (t, d) := s.giveAtHome core addr n; (t.reportHome core addr, d)
    | .exact => let t := s.recall addr; (t.reportHome core addr, { vals := wordsOf 2 (t.counterHome addr) })
    | .probe => s.probeHome core addr

/-- The join of a GIVE from a core without a slot (R192). -/
def State.joinAtHome (s : State) (core : Nat) (r : MemReq) (addr : Nat) : State × Done :=
  let t := s.roomForSlot core addr
  if t.poisoned addr 64 then (t, { cause := some 0x4D })
  else if t.inCounter addr = false then (t, { cause := some 0x4F })
  else (((t.joinHolders core addr).setSlot core addr (wordsNat r.data)).reportHome core addr, {})

/-- A GIVE that takes a slot first, with a join notice to the home (R192). -/
def State.joins (s : State) (core : Nat) (f : AllowFn) (addr : Nat) : Bool :=
  f == .give && !isPeer addr && (s.slot core addr).isNone

/-- A TAKE or GIVE that its core's slot serves (R191, R192). -/
def State.allowLocal (s : State) (core : Nat) (r : MemReq) (f : AllowFn) (addr : Nat) : Option (State × Done) :=
  let n := wordsNat r.data
  match f, s.slot core addr with
  | .take, some u => if n ≤ u then some (s.setSlot core addr (u - n), { vals := [BitVec.ofNat 32 n] }) else none
  | .give, some u => if u + n < 2 ^ 32 then some (s.setSlot core addr (u + n), {}) else none
  | .probe, _ => some (s.allowAtHome core r .probe addr)
  | _, _ => none

/-! ## Completion (R133, R134, R164) -/

/-- The cause of an error kept with the oldest access that left one on the token. -/
def Fibre.noteError (f : Fibre) (r : MemReq) (c : Cause) (page : Nat) : Fibre :=
  let old := kgetD f.merr r.k r.seq
  { f with merr := kset f.merr r.k (min old r.seq)
           attached := if retryable c then insertReq { r with cause := c, page := page } f.attached else f.attached }

/-- A memory request completes: its operation ends, a failed request that can be retried stays with its token, its registers
are written, and its token counts it (R133, R134). A request that is to be retried keeps its pending marks. -/
def State.finishMem (s : State) (id crew fid : Nat) (r : MemReq) (d : Done) : State :=
  let s1 := { s with ops := kdel s.ops id }
  let page := if d.page = 0 then r.ea / 4096 else d.page
  let s2 := match d.cause with
    | some c => s1.modFibre crew fid fun f => f.noteError r c page
    | none => s1
  s2.completeFor (.fibre crew fid r.k) d.cause [] (if d.cause.any retryable then [] else r.dests) r.pos d.vals

/-- The result of a request kept until its completion reaches the fibre. -/
def State.holdResult (s : State) (id crew fid : Nat) (r : MemReq) (d : Done) : State :=
  { s with ops := kmod s.ops id fun o =>
      { o with stage := .atHome, kind := .mem { r with data := d.vals, cause := d.cause.getD 0 } crew fid } }

/-- The physical address of a request at its home and whether it is cacheable, or the cause that ends it before. -/
def State.reqHome (s : State) (o : Op) (crew fid : Nat) (r : MemReq) : State × Except Cause (Nat × Bool) :=
  if ((s.crew crew).fibre fid).blocks r then (s, .error 0x56)
  else if r.isAllow && r.ea % 64 != 0 then (s, .error 0x4F)
  else match s.reqXl o r with
    | (t, .fault c) => (t, .error c)
    | (t, .ok pa cacheable) =>
      match r.fn with
      | .atom _ _ =>
        if !cacheable then (t, .error 0x4B)
        else match t.reachCause pa r.n with
          | some c => (t, .error c)
          | none => (t, .ok (pa, cacheable))
      | .allow _ => (t, if isHost pa then .error 0x52 else match t.reachCause pa 64 with
          | some c => .error c
          | none => .ok (pa, cacheable))
      | .load _ | .store _ | .fence _ | .ifence | .cache _ => (t, .ok (pa, cacheable))

/-- A request that needs no separate step at a home performed, or none when it must reach its home first. -/
def State.performMem (s : State) (o : Op) (crew fid : Nat) (r : MemReq) : State × Option Done :=
  let f := (s.crew crew).fibre fid
  let stop := fun c => (s, some ({ cause := some c } : Done))
  match r.fn with
  | .fence ord => if f.blocks r then stop 0x56 else let (t, d) := s.fenceAt o.core crew fid ord r.scope; (t, some d)
  | .ifence => if f.blocks r then stop 0x56 else let (t, d) := s.ifenceAt o.core crew fid r.scope; (t, some d)
  | .cache c => let (t, d) := s.cacheAt o.core crew r c; (t, some d)
  | .load sz =>
    match r.space with
    | .scratch => if f.blocks r then stop 0x56 else let (t, d) := s.loadScratch o.core crew fid r sz; (t, some d)
    | .global | .const | .frame =>
      match s.reqHome o crew fid r with
      | (t, .error c) => (t, some { cause := some c })
      | (t, .ok (pa, cacheable)) =>
        let (u, d) := if r.space = .frame then t.frameAt o.core crew r pa cacheable else t.loadAt o.core crew fid r sz pa cacheable
        (u, some d)
  | .store sz =>
    match r.space with
    | .scratch => if f.blocks r then stop 0x56 else let (t, d) := s.storeScratch o.core crew fid r sz; (t, some d)
    | .global | .const | .frame =>
      match s.reqHome o crew fid r with
      | (t, .error c) => (t, some { cause := some c })
      | (t, .ok (pa, cacheable)) =>
        let (u, d) := if r.space = .frame then t.frameAt o.core crew r pa cacheable else t.storeAt o.core crew fid r sz pa cacheable
        (u, some d)
  | .atom _ _ =>
    match s.reqHome o crew fid r with
    | (t, .error c) => (t, some { cause := some c })
    | (_, .ok _) => (s, none)
  | .allow a =>
    match s.reqHome o crew fid r with
    | (t, .error c) => (t, some { cause := some c })
    | (t, .ok (pa, _)) =>
      match t.allowLocal o.core r a pa with
      | some (u, d) => (u, some d)
      | none => (s, none)

/-- A scratchpad bank that holds a byte of the request is gated (R166, R168). -/
def State.bankGated (s : State) (core : Nat) (r : MemReq) : Bool :=
  r.space == .scratch && s.gated.any fun g => match g with
    | .scratchBank c b => c == clusterOf core && b == r.ea / 16 % 32
    | .l1Way _ _ | .l2Way _ _ => false

/-- A request goes to host memory: its address, where it translates to one that its core's L1 does not serve. -/
def State.hostTarget (s : State) (o : Op) (r : MemReq) : Bool :=
  r.space != .scratch && (match r.fn with
    | .load _ | .store _ | .atom _ _ => match (s.reqXl o r).2 with
      | .ok pa _ => isHost pa && !(r.order == .relaxed && s.l1Holds (s.agentOf o.core) pa r.n)
      | .fault _ => false
    | .fence _ | .ifence | .allow _ | .cache _ => false)

/-- No head has a live link, and not yet for 2 ms: a host access waits (R194). -/
def State.hostStalled (s : State) : Bool := (s.hostDown.map fun t => decide (s.tick < t + 2000000)).getD false

/-- The completion of a memory request, when nothing holds it. -/
def State.completeMem (s : State) (id : Nat) (o : Op) (r : MemReq) (crew fid : Nat) : State :=
  if o.stage = .atHome then
    s.finishMem id crew fid r { cause := if r.cause = 0 then none else some r.cause, vals := r.data }
  else if s.memHeld id o.core crew fid r || s.bankGated o.core r || (s.hostStalled && s.hostTarget o r) then s
  else match s.performMem o crew fid r with
    | (t, some d) => t.finishMem id crew fid r d
    | (t, none) => t

/-! ## WAITMEM (R141, R142) -/

/-- The effect of a fault of WAITMEM: a resumed fibre executes it again. -/
def waitEff (c : Cause) (pc : Nat) (r : MemReq) (wide : Bool) : Eff :=
  { causeEff c pc with mon := if retryable c then some (r, wide) else none }

/-- The read of WAITMEM: whether the value differs from the one compared, and the monitor's address. One with ACQ behind an access that has
left an error gets 0x56 (R164). -/
def State.waitRead (s : State) (core crew fid : Nat) (r : MemReq) : State × Except Cause (Bool × Nat) :=
  if ((s.crew crew).fibre fid).blocks r then (s, .error 0x56)
  else match s.coreXl core (s.crew crew).pasid r.ea .load with
  | (t, .fault c) => (t, .error c)
  | (t, .ok pa _) =>
    match (if t.seenPoison (t.agentOf core) pa r.n true then some 0x4D else t.reachCause pa r.n) with
    | some c => (t, .error c)
    | none =>
      let (u, v) := t.readLine (t.agentOf core) pa r.n true false
      let u1 := u.noteRead crew fid v
      match (if r.order = .relaxed then (u1, none) else u1.fibreAcquire core crew fid (u1.effScope core r.scope) v.tags) with
      | (u2, none) => (u2, .ok (leNat v.bytes != wordsNat r.data, pa))
      | (u2, some c) => (u2, .error c)

/-- WAITMEM on one fibre: it continues, parks on its monitor, or takes the fault at the word. -/
def State.waitFibre (s : State) (core crew fid pc : Nat) (r : MemReq) (wide : Bool) : State × Option Eff :=
  match s.waitRead core crew fid r with
  | (t, .error c) => (t.modFibre crew fid fun f => { f with pc := pc }, some (waitEff c pc r wide))
  | (t, .ok (true, _)) => (t.modFibre crew fid fun f => { f with pc := pc + 4 }, none)
  | (t, .ok (false, pa)) =>
    ((t.modFibre crew fid fun f => { f with pc := pc }).park crew fid (.waitmem { r with page := pa } wide), none)

/-- A parked WAITMEM reads again: it continues as a loose fibre, stays parked, or takes a fault. -/
def State.waitAgain (s : State) (crew fid : Nat) (r : MemReq) (wide : Bool) : State :=
  let pc := ((s.crew crew).fibre fid).pc
  match s.waitFibre (s.crew crew).core crew fid pc r wide with
  | (t, some e) => t.deliver crew fid e
  | (t, none) => if ((t.crew crew).fibre fid).pc = pc then t else t.enter crew fid

/-- The word of a monitor as a read of the fibre's agent at the home finds it: with the dirty bytes of the agent, whose CORE instance a
release at CORE scope reaches (R142, R196). -/
def State.monitorWord (s : State) (crew : Nat) (r : MemReq) : Nat :=
  leNat ((List.range r.n).map fun i => (s.seeByte (s.agentOf (s.crew crew).core) (r.page + i) true).val)

/-- A parked WAITMEM whose word no longer holds the value compared reads again (R142). -/
def State.wakeFibre (s : State) (crew fid : Nat) : State :=
  match ((s.crew crew).fibre fid).st with
  | .parked (.waitmem r wide) =>
    if !s.pageWaits (.fibre crew fid) && s.monitorWord crew r != wordsNat r.data then s.orSnoop (s.waitAgain crew fid r wide)
    else s
  | _ => s

/-- Every monitor of a crew that stands on a core looks at its home (R142). -/
def State.wakeMonitors (s : State) : State :=
  s.crews.foldl (fun (t : State) c =>
    if c.2.home.isSome && (c.2.life == .running || c.2.life == .draining) then
      c.2.fibres.foldl (fun (u : State) f => u.wakeFibre c.1 f.1) t
    else t) s

/-- WAITMEM (R141, R142, R157). -/
def execWaitmem (g : Guard) (d : Fin 64) (ab : Sel) (wide : Bool) (s : State) : Host.Outcome State Fault Refusal :=
  withIssue s fun i t =>
    let e := envOf i t
    let sz : Size := if wide then .w64 else .w32
    let m : MemShape := ⟨⟨g, 0, d, ab⟩, .load sz, .global, sizeBytes sz, sizeRegs sz, 0⟩
    match m.check e with
    | some x => t.groupEffect i x
    | none =>
      let (seq, t1) := t.fresh
      t1.control i (e.lanes g) fun u fid =>
        match e.memReq u m seq fid with
        | .error x => (u, some (laneEff x i.pc))
        | .ok r => u.waitFibre i.core i.crew fid i.pc r wide

end Sys2Proof.Machine
end

