-- ==== Sys2Proof/Machine/LaneInt.lean ====
section
/-! DEFINITION. Integer arithmetic, logic and shifts of the lane engine (R58, R98 to R100). -/

namespace Sys2Proof.Machine

/-! ## Results -/

/-- The exact signed value saturated when SAT is set, else the wrapped one (R58, R99). -/
def satOr (m : Mod) (exact : Int) (wrapped : Word) : Word := if m.sat then satS32 exact else wrapped

/-- SHL (R98). -/
def shlW (a b : Word) : Word := if 32 ≤ b.toNat then 0 else a <<< b.toNat

/-- SHR (R98). -/
def shrW (a b : Word) : Word := if 32 ≤ b.toNat then 0 else a >>> b.toNat

/-- SAR (R98). -/
def sarW (a b : Word) : Word := a.sshiftRight (min b.toNat 31)

/-- ROL (R98). -/
def rolW (a b : Word) : Word := a.rotateLeft (b.toNat % 32)

/-- IMULHS (R98). -/
def mulhsW (a b : Word) : Word := hiHalf (BitVec.ofInt 64 (a.toInt * b.toInt))

/-- IMULHZ (R98). -/
def mulhzW (a b : Word) : Word := BitVec.ofNat 32 (a.toNat * b.toNat / 2 ^ 32)

/-- IABS without saturation (R98). -/
def absW (a : Word) : Word := if a.msb then -a else a

/-- The number of 1 bits (R98). -/
def popcW (a : Word) : Word := BitVec.ofNat 32 ((List.range 32).filter fun k => a.getLsbD k).length

/-- The number of 0 bits above the highest 1 bit; 32 for 0 (R98). -/
def clzW (a : Word) : Word := if a = 0 then 32 else BitVec.ofNat 32 (31 - Nat.log2 a.toNat)

/-- The bits in reverse order (R98). -/
def brevW (a : Word) : Word := a.reverse

/-- The position and width of a field (R100). -/
def fieldAt (b : Word) : Nat × Nat := (bitsOf b.toNat 4 0, bitsOf b.toNat 13 8)

/-- The field is out of range (R100). -/
def fieldBad (b : Word) : Bool := let p := fieldAt b; decide (32 < p.2) || decide (32 < p.1 + p.2)

/-- BFXZ (R100). -/
def bfxz (a b : Word) : Word := let p := fieldAt b; BitVec.ofNat 32 (a.toNat / 2 ^ p.1 % 2 ^ p.2)

/-- BFXS (R100). -/
def bfxs (a b : Word) : Word :=
  let p := fieldAt b
  let f := a.toNat / 2 ^ p.1 % 2 ^ p.2
  if 0 < p.2 ∧ 2 ^ (p.2 - 1) ≤ f then bits32 ((f : Int) - 2 ^ p.2) else BitVec.ofNat 32 f

/-- BFI (R100). -/
def bfi (d a b : Word) : Word :=
  let p := fieldAt b
  let old := d.toNat / 2 ^ p.1 % 2 ^ p.2
  bits32 ((d.toNat : Int) + ((a.toNat % 2 ^ p.2 : Nat) - (old : Int)) * 2 ^ p.1)

/-- A field operation, or the fault of R100. -/
def fieldOr (b x : Word) : Except LaneErr LaneOut := if fieldBad b then .error (0, 0x2E) else plain x

/-! ## Meanings -/

/-- IADD (R98, R99). -/
def execIadd (h : LaneHdr) (a b : Sel) (s : State) : Host.Outcome State Fault Refusal :=
  (binOp (.iadd h a b) h 2 a b fun m x y => plain (satOr m (sgn x + sgn y) (x + y))).exec s

/-- ISUB (R98, R99). -/
def execIsub (h : LaneHdr) (a b : Sel) (s : State) : Host.Outcome State Fault Refusal :=
  (binOp (.isub h a b) h 2 a b fun m x y => plain (satOr m (sgn x - sgn y) (x - y))).exec s

/-- IMUL (R98, R99). -/
def execImul (h : LaneHdr) (a b : Sel) (s : State) : Host.Outcome State Fault Refusal :=
  (binOp (.imul h a b) h 4 a b fun m x y => plain (satOr m (sgn x * sgn y) (x * y))).exec s

/-- IMULHS (R98). -/
def execImulhs (h : LaneHdr) (a b : Sel) (s : State) : Host.Outcome State Fault Refusal :=
  (binOp (.imulhs h a b) h 4 a b fun _ x y => plain (mulhsW x y)).exec s

/-- IMULHZ (R98). -/
def execImulhz (h : LaneHdr) (a b : Sel) (s : State) : Host.Outcome State Fault Refusal :=
  (binOp (.imulhz h a b) h 4 a b fun _ x y => plain (mulhzW x y)).exec s

/-- IMAD (R98, R99). -/
def execImad (h : LaneHdr) (a b : Sel) (s : State) : Host.Outcome State Fault Refusal :=
  (triOp (.imad h a b) h 4 a b fun m d x y => plain (satOr m (sgn d + sgn x * sgn y) (d + x * y))).exec s

/-- IMINS (R98). -/
def execImins (h : LaneHdr) (a b : Sel) (s : State) : Host.Outcome State Fault Refusal :=
  (binOp (.imins h a b) h 2 a b fun _ x y => plain (if sgn x ≤ sgn y then x else y)).exec s

/-- IMAXS (R98). -/
def execImaxs (h : LaneHdr) (a b : Sel) (s : State) : Host.Outcome State Fault Refusal :=
  (binOp (.imaxs h a b) h 2 a b fun _ x y => plain (if sgn y ≤ sgn x then x else y)).exec s

/-- IMINZ (R98). -/
def execIminz (h : LaneHdr) (a b : Sel) (s : State) : Host.Outcome State Fault Refusal :=
  (binOp (.iminz h a b) h 2 a b fun _ x y => plain (if x.toNat ≤ y.toNat then x else y)).exec s

/-- IMAXZ (R98). -/
def execImaxz (h : LaneHdr) (a b : Sel) (s : State) : Host.Outcome State Fault Refusal :=
  (binOp (.imaxz h a b) h 2 a b fun _ x y => plain (if y.toNat ≤ x.toNat then x else y)).exec s

/-- IABS (R98, R99). -/
def execIabs (h : LaneHdr) (a : Sel) (s : State) : Host.Outcome State Fault Refusal :=
  (unOp (.iabs h a) h 2 a fun m x => plain (satOr m (sgn x).natAbs (absW x))).exec s

/-- AND (R98). -/
def execAndL (h : LaneHdr) (a b : Sel) (s : State) : Host.Outcome State Fault Refusal :=
  (binOp (.andL h a b) h 2 a b fun _ x y => plain (x &&& y)).exec s

/-- OR (R98). -/
def execOrL (h : LaneHdr) (a b : Sel) (s : State) : Host.Outcome State Fault Refusal :=
  (binOp (.orL h a b) h 2 a b fun _ x y => plain (x ||| y)).exec s

/-- XOR (R98). -/
def execXorL (h : LaneHdr) (a b : Sel) (s : State) : Host.Outcome State Fault Refusal :=
  (binOp (.xorL h a b) h 2 a b fun _ x y => plain (x ^^^ y)).exec s

/-- ANDN (R98). -/
def execAndn (h : LaneHdr) (a b : Sel) (s : State) : Host.Outcome State Fault Refusal :=
  (binOp (.andn h a b) h 2 a b fun _ x y => plain (x &&& ~~~y)).exec s

/-- SHL (R98). -/
def execShl (h : LaneHdr) (a b : Sel) (s : State) : Host.Outcome State Fault Refusal :=
  (binOp (.shl h a b) h 2 a b fun _ x y => plain (shlW x y)).exec s

/-- SHR (R98). -/
def execShr (h : LaneHdr) (a b : Sel) (s : State) : Host.Outcome State Fault Refusal :=
  (binOp (.shr h a b) h 2 a b fun _ x y => plain (shrW x y)).exec s

/-- SAR (R98). -/
def execSar (h : LaneHdr) (a b : Sel) (s : State) : Host.Outcome State Fault Refusal :=
  (binOp (.sar h a b) h 2 a b fun _ x y => plain (sarW x y)).exec s

/-- ROL (R98). -/
def execRol (h : LaneHdr) (a b : Sel) (s : State) : Host.Outcome State Fault Refusal :=
  (binOp (.rol h a b) h 2 a b fun _ x y => plain (rolW x y)).exec s

/-- BFXZ (R100). -/
def execBfxz (h : LaneHdr) (a b : Sel) (s : State) : Host.Outcome State Fault Refusal :=
  (binOp (.bfxz h a b) h 2 a b fun _ x y => fieldOr y (bfxz x y)).exec s

/-- BFXS (R100). -/
def execBfxs (h : LaneHdr) (a b : Sel) (s : State) : Host.Outcome State Fault Refusal :=
  (binOp (.bfxs h a b) h 2 a b fun _ x y => fieldOr y (bfxs x y)).exec s

/-- BFI (R100). -/
def execBfi (h : LaneHdr) (a b : Sel) (s : State) : Host.Outcome State Fault Refusal :=
  (triOp (.bfi h a b) h 2 a b fun _ d x y => fieldOr y (bfi d x y)).exec s

/-- POPC (R98). -/
def execPopc (h : LaneHdr) (a : Sel) (s : State) : Host.Outcome State Fault Refusal :=
  (unOp (.popc h a) h 2 a fun _ x => plain (popcW x)).exec s

/-- CLZ (R98). -/
def execClz (h : LaneHdr) (a : Sel) (s : State) : Host.Outcome State Fault Refusal :=
  (unOp (.clz h a) h 2 a fun _ x => plain (clzW x)).exec s

/-- BREV (R98). -/
def execBrev (h : LaneHdr) (a : Sel) (s : State) : Host.Outcome State Fault Refusal :=
  (unOp (.brev h a) h 2 a fun _ x => plain (brevW x)).exec s

/-- SEL (R98): P[0] is that of the whole stack before the word, under R82 and R86. -/
def execSel (h : LaneHdr) (a b : Sel) (s : State) : Host.Outcome State Fault Refusal :=
  ({ binOp (.sel h a b) h 2 a b (fun _ x _ => plain x) with
      result := fun e f fid pops => read2 e f fid a b pops fun x y =>
        if e.iss.strict && f.inPWin then .error strictWindow
        else plain (if (f.seeP (e.pick fid 64 1)).getLsbD 0 then x else y) } : LaneOp).exec s

/-- MOV (R57, R98). -/
def execMov (h : LaneHdr) (a : Sel) (s : State) : Host.Outcome State Fault Refusal :=
  (unOp (.mov h a) h 2 a fun _ x => plain x).exec s

/-- IADDI (R98, R99). -/
def execIaddi (h : LaneHdr) (a : Sel) (imm : BitVec 7) (s : State) : Host.Outcome State Fault Refusal :=
  (unOp (.iaddi h a imm) h 2 a fun m x => plain (satOr m (sgn x + imm.toInt) (x + imm.signExtend 32))).exec s

/-- An amount of SHLI, SHRI and SARI outside 0 to 31 is the fault 0x1D for the whole group (R98, R87). -/
def amountOr (imm : BitVec 7) (o : LaneOp) (s : State) : Host.Outcome State Fault Refusal :=
  if imm.toNat < 32 then o.exec s else withIssue s fun i t => t.groupEffect i (0, 0x1D)

/-- SHLI (R98). -/
def execShli (h : LaneHdr) (a : Sel) (imm : BitVec 7) (s : State) : Host.Outcome State Fault Refusal :=
  amountOr imm (unOp (.shli h a imm) h 2 a fun _ x => plain (shlW x (imm.setWidth 32))) s

/-- SHRI (R98). -/
def execShri (h : LaneHdr) (a : Sel) (imm : BitVec 7) (s : State) : Host.Outcome State Fault Refusal :=
  amountOr imm (unOp (.shri h a imm) h 2 a fun _ x => plain (shrW x (imm.setWidth 32))) s

/-- SARI (R98). -/
def execSari (h : LaneHdr) (a : Sel) (imm : BitVec 7) (s : State) : Host.Outcome State Fault Refusal :=
  amountOr imm (unOp (.sari h a imm) h 2 a fun _ x => plain (sarW x (imm.setWidth 32))) s

end Sys2Proof.Machine
end

