-- ==== Sys2Proof/Machine/Uniform.lean ====
section
/-! DEFINITION. The uniform datapath (R124 to R128): words that execute once for the group. -/

namespace Sys2Proof.Machine

/-- A uniform operand (R71): a G register, a constant or the immediate. -/
def Env.readU (e : Env) (a : Sel) (i : Nat) : Except LaneErr Word :=
  match a with
  | .g n => e.readG n.val i
  | .int k => .ok (intConst k)
  | .flt k => .ok (fltConst k)
  | .imm => .ok (e.iss.imm.getD 0)
  | .v _ | .latch _ | .vx _ | .q _ => .ok 0

/-- A uniform operand read as a pair (R72). -/
def Env.readUPair (e : Env) (a : Sel) (i : Nat) : Except LaneErr (Word × Word) :=
  match a with
  | .g n =>
    match e.readG n.val i, e.readG (n.val + 1) i with
    | .ok lo, .ok hi => .ok (lo, hi)
    | .error x, _ => .error x
    | _, .error x => .error x
  | .int k => .ok (signPair (intConst k))
  | .imm => .ok (signPair (e.iss.imm.getD 0))
  | .flt _ | .v _ | .latch _ | .vx _ | .q _ => .ok (0, 0)

/-- A uniform word of two operands that writes G[d] (R124); the result sees MOD, the old G[d], a and b. third says whether
G[d] is read. -/
def execUni (d : Fin 32) (a b : Sel) (third : Bool) (k : Env → Word → Word → Word → Except LaneErr Word) (s : State) :
    Host.Outcome State Fault Refusal :=
  withIssue s fun i t =>
    let e := envOf i t
    if e.splitRead (selRegs a 1 ++ selRegs b 1 ++ if third then [d.val] else []) then t.groupEffect i (9, 0x3A)
    else
      match e.readU a 0, e.readU b 1, (if third then e.readG d.val 2 else .ok 0) with
      | .error x, _, _ => t.groupEffect i x
      | _, .error x, _ => t.groupEffect i x
      | _, _, .error x => t.groupEffect i x
      | .ok x, .ok y, .ok z =>
        match k e z x y with
        | .error x => t.groupEffect i x
        | .ok r => t.uniformWrite i e 2 d.val r false []

/-- UADD (R124). -/
def execUadd (d : Fin 32) (a b : Sel) (s : State) : Host.Outcome State Fault Refusal :=
  execUni d a b false (fun e _ x y => .ok (satOr e.iss.mod (sgn x + sgn y) (x + y))) s

/-- USUB (R124). -/
def execUsub (d : Fin 32) (a b : Sel) (s : State) : Host.Outcome State Fault Refusal :=
  execUni d a b false (fun e _ x y => .ok (satOr e.iss.mod (sgn x - sgn y) (x - y))) s

/-- UMUL (R124). -/
def execUmul (d : Fin 32) (a b : Sel) (s : State) : Host.Outcome State Fault Refusal :=
  execUni d a b false (fun e _ x y => .ok (satOr e.iss.mod (sgn x * sgn y) (x * y))) s

/-- UMAD (R124). -/
def execUmad (d : Fin 32) (a b : Sel) (s : State) : Host.Outcome State Fault Refusal :=
  execUni d a b true (fun e g x y => .ok (satOr e.iss.mod (sgn g + sgn x * sgn y) (g + x * y))) s

/-- UAND (R124). -/
def execUand (d : Fin 32) (a b : Sel) (s : State) : Host.Outcome State Fault Refusal :=
  execUni d a b false (fun _ _ x y => .ok (x &&& y)) s

/-- UOR (R124). -/
def execUor (d : Fin 32) (a b : Sel) (s : State) : Host.Outcome State Fault Refusal :=
  execUni d a b false (fun _ _ x y => .ok (x ||| y)) s

/-- UXOR (R124). -/
def execUxor (d : Fin 32) (a b : Sel) (s : State) : Host.Outcome State Fault Refusal :=
  execUni d a b false (fun _ _ x y => .ok (x ^^^ y)) s

/-- USHL (R124). -/
def execUshl (d : Fin 32) (a b : Sel) (s : State) : Host.Outcome State Fault Refusal :=
  execUni d a b false (fun _ _ x y => .ok (shlW x y)) s

/-- USHR (R124). -/
def execUshr (d : Fin 32) (a b : Sel) (s : State) : Host.Outcome State Fault Refusal :=
  execUni d a b false (fun _ _ x y => .ok (shrW x y)) s

/-- USAR (R124). -/
def execUsar (d : Fin 32) (a b : Sel) (s : State) : Host.Outcome State Fault Refusal :=
  execUni d a b false (fun _ _ x y => .ok (sarW x y)) s

/-- UMOV (R124). -/
def execUmov (d : Fin 32) (a : Sel) (s : State) : Host.Outcome State Fault Refusal :=
  execUni d a (.int 0) false (fun _ _ x _ => .ok x) s

/-- UADDI (R124). -/
def execUaddi (d : Fin 32) (a : Sel) (imm : BitVec 7) (s : State) : Host.Outcome State Fault Refusal :=
  execUni d a (.int 0) false (fun e _ x _ => .ok (satOr e.iss.mod (sgn x + imm.toInt) (x + imm.signExtend 32))) s

/-- USEL (R124). -/
def execUsel (d : Fin 32) (a b : Sel) (s : State) : Host.Outcome State Fault Refusal :=
  execUni d a b true (fun _ g x y => .ok (if g ≠ 0 then x else y)) s

/-- The word of the constant window at an offset, or the fault 0x3F (R127). -/
def windowWord (w : List Byte) (o : Nat) : Except LaneErr Word :=
  if o % 4 ≠ 0 ∨ w.length < o + 4 then .error (0, 0x3F) else .ok (BitVec.ofNat 32 (fieldLe w o 4))

/-- ULD (R124, R127). -/
def execUld (d : Fin 32) (a b : Sel) (s : State) : Host.Outcome State Fault Refusal :=
  execUni d a b false (fun e _ x y => windowWord e.crew.window (x.toNat + y.toNat)) s

/-- A uniform compare (R125): one truth value pushed onto the stack of every fibre of the group. -/
def execUcmp (pm : PushMode) (a b : Sel) (rel : Word → Word → Bool) (s : State) : Host.Outcome State Fault Refusal :=
  withIssue s fun i t =>
    let e := envOf i t
    if e.splitRead (selRegs a 1 ++ selRegs b 1) then t.groupEffect i (9, 0x3A)
    else
      match e.readU a 0, e.readU b 1 with
      | .error x, _ => t.groupEffect i x
      | _, .error x => t.groupEffect i x
      | .ok x, .ok y =>
        let rs := e.changeAll 2 (fun p => pushSel pm p (rel x y)) i.grp.fids
        (t.modCrew i.crew fun c => c.putFibres rs).endWord i i.grp.latches false (effsOf rs)

/-- UCMPS (R125). -/
def execUcmps (cc : Cond) (pm : PushMode) (a b : Sel) (s : State) : Host.Outcome State Fault Refusal :=
  execUcmp pm a b (fun x y => intRel cc (decide (x.toInt < y.toInt)) (x == y)) s

/-- UCMPZ (R125). -/
def execUcmpz (cc : Cond) (pm : PushMode) (a b : Sel) (s : State) : Host.Outcome State Fault Refusal :=
  execUcmp pm a b (fun x y => intRel cc (decide (x.toNat < y.toNat)) (x == y)) s

end Sys2Proof.Machine
end

