-- ==== Sys2Proof/Machine/EngineMem.lean ====
section
/-! DEFINITION. What the engines share beside Engine.lean: global memory through translation, at homes (R175 to R177, R219,
R252), the form of a word that executes once for its group (R132), and gated scratchpad banks (R168). -/

namespace Sys2Proof.Machine

/-- Why a global access of an engine does not succeed: a page to be requested, another outcome of the walk, an error of the
data, or ownership refused. -/
inductive EngErr where
  | page (va : Nat) (write : Bool)
  | walk (c : Cause)
  | data (c : Cause)
  | refused
deriving DecidableEq, Repr

/-- The error of an engine whose access has a cause of its own (R194, R214). -/
def engErr (c : Cause) : EngErr := if c = 0x5F then .refused else .data c

/-- A cause of R194 that a walk ends with because its reads cannot reach memory. -/
def unreachable (c : Cause) : Bool := c == 0x4C || c == 0x57 || c == 0x5B || c == 0x5F

/-- One page of an engine's access translated. -/
def State.pagePa (s : State) (pasid va : Nat) (write : Bool) : State × Except EngErr Nat :=
  match s.engineXl pasid va (if write then .store else .load) with
  | (t, .ok pa _) => (t, .ok pa)
  | (t, .fault c) => (t, .error (if c = 0x43 ∨ c = 0x44 then .page va write else if unreachable c then engErr c else .walk c))

/-- n bytes read at their homes by an engine (R219). -/
def State.engineRead (s : State) (pasid va n : Nat) : State × Except EngErr (List Byte) :=
  (pagePieces (n / 4096 + 2) va n).foldl (fun (r : State × Except EngErr (List Byte)) p =>
    match r with
    | (_, .error _) => r
    | (t, .ok bs) =>
      match t.pagePa pasid p.1 false with
      | (u, .error x) => (u, .error x)
      | (u, .ok pa) =>
        match u.dataCause pa p.2 with
        | some c => (u, .error (.data c))
        | none => (u, .ok (bs ++ u.readPas pa p.2))) (s, .ok [])

/-- The pieces of an engine's write, by page: virtual address and bytes. -/
def bytePieces : Nat → Nat → List Byte → List (Nat × List Byte)
  | 0, _, _ => []
  | _ + 1, _, [] => []
  | fuel + 1, va, bs =>
    let n := 4096 - va % 4096
    (va, bs.take n) :: bytePieces fuel (va + n) (bs.drop n)

/-- The physical places of pieces, all translated before any is written. -/
def State.placePieces (s : State) (pasid : Nat) : List (Nat × List Byte) → State × Except EngErr (List (Nat × Nat × List Byte))
  | [] => (s, .ok [])
  | p :: ps =>
    match s.pagePa pasid p.1 true with
    | (t, .error x) => (t, .error x)
    | (t, .ok pa) =>
      match t.reachCause pa p.2.length with
      | some c => (t, .error (.data c))
      | none =>
        match t.placePieces pasid ps with
        | (u, .error x) => (u, .error x)
        | (u, .ok l) => (u, .ok ((pa, p.1, p.2) :: l))

/-- Bytes written by an engine as its agent: each range merged at its homes (R219). -/
def State.engineWrites (s : State) (agent : Nat) (crew : Option Nat) (pasid : Nat) (l : List (Nat × List Byte)) :
    State × Except EngErr Unit :=
  match s.placePieces pasid (l.flatMap fun x => bytePieces (x.2.length / 4096 + 2) x.1 x.2) with
  | (t, .error x) => (t, .error x)
  | (t, .ok ps) =>
    match t.tryAll ps fun u p => u.engineWrite agent crew p.1 p.2.1 p.2.2 with
    | (u, none) => (u, .ok ())
    | (u, some c) => (u, .error (engErr c))

/-- A gated bank of a cluster's scratchpad (R168). -/
def State.clusterGated (s : State) (cluster : Nat) : Bool :=
  s.gated.any fun g => match g with
    | .scratchBank c _ => c == cluster
    | .l1Way _ _ | .l2Way _ _ => false

/-- Poisoned bytes in a range of a scratchpad. -/
def State.scratchPoison (s : State) (cluster addr n : Nat) : Bool :=
  let k := scratchKey cluster addr
  s.poisonScratch.any fun p => k ≤ p && decide (p < k + n)

/-- A word that executes once for its group (R132): the checks of its operands, the count on every fibre that can count, and
the operation of those fibres. In strict mode a split operand (0x3A) comes before the plan's own causes, and pending registers (0x31, 0x35)
after them (DESIGN CHOICE, log entry 153). -/
def engineWord {α : Type} (k : Nat) (regs : Env → List Nat) (plan : Env → Except LaneErr α)
    (launch : α → List Nat → Issue → State → State) (s : State) : Host.Outcome State Fault Refusal :=
  withIssue s fun i t =>
    let e := envOf i t
    if e.splitRead (regs e) then t.groupEffect i (9, 0x3A)
    else match plan e with
      | .error x => t.groupEffect i x
      | .ok a =>
        let (u, parts, bad) := t.countOn i k i.grp.fids
        (if parts.isEmpty then u else launch a parts i u).endWord i i.grp.latches false bad

/-- The owners of an operation on a token of fibres of a crew. -/
def ownersOf (crew k : Nat) (fids : List Nat) : List Owner := fids.map fun f => .fibre crew f k

/-- G registers read in order as operands of a word. -/
def Env.readGs (e : Env) : List Nat → Except LaneErr (List Word)
  | [] => .ok []
  | n :: l =>
    match e.readG n l.length, e.readGs l with
    | .ok w, .ok ws => .ok (w :: ws)
    | .error x, _ => .error x
    | _, .error x => .error x

/-- A crew whose engine operations go on: it runs, drains, or has ended with operations that a continuation tracks. -/
def Crew.working (c : Crew) : Bool := c.life == .running || c.life == .draining || c.life == .ended || c.life == .saving || c.life == .halting

end Sys2Proof.Machine
end

