-- ==== Sys2Proof/Machine/CopyEngine.lean ====
section
/-! DEFINITION. The copy engine (R227 to R257): XLOAD, XSTORE, XMOVE, XGATHER, XFILL and XPUB at issue, the start of a copy,
its performance, shutters and completion. -/

namespace Sys2Proof.Machine

/-! ## Issue (R242 to R244) -/

/-- The PUB, RND and RSD fields of EMOD (R243). -/
def Mod.pub (m : Mod) : Bool := bitOf m.emod 0
/-- RND. -/
def Mod.rnd (m : Mod) : Nat := m.emod / 2 % 4
/-- RSD. -/
def Mod.rsd (m : Mod) : Bool := bitOf m.emod 3

/-- Functions of XCOPY, with 5 for XPUB (R242). -/
def fnXload : Nat := 0
/-- XSTORE. -/
def fnXstore : Nat := 1
/-- XMOVE. -/
def fnXmove : Nat := 2
/-- XGATHER. -/
def fnXgather : Nat := 3
/-- XFILL. -/
def fnXfill : Nat := 4
/-- XPUB. -/
def fnXpub : Nat := 5

/-- Checks 2 to 4 of R244 on the control word, the second word and the value of A. -/
def copyCheck (c : Crew) (fn ctrl second a : Nat) : Option Cause :=
  let toff := ctrl % 2 ^ 22
  let rows := second % 2 ^ 16
  let moves := fn == fnXmove || fn == fnXfill
  let record := if fn = fnXgather then second else a
  if ctrl / 2 ^ 27 ≠ 0 ∨ (if fn = fnXpub then toff ≠ 0 else toff % 256 ≠ 0 ∨ c.segScratch.limit ≤ toff) then some 0x61
  else if moves && (second / 2 ^ 17 != 0 || rows == 0 || decide (4095 < rows)) then some 0x61
  else if (fn == fnXload || fn == fnXstore || fn == fnXgather) &&
      (record % 64 != 0 || decide (c.segScratch.limit < record + 64)) then some 0x60
  else if fn == fnXmove && (a % 256 != 0 || decide (c.segScratch.limit ≤ a)) then some 0x61
  else if bitOf ctrl 26 && (c.bar (ctrl / 2 ^ 22 % 16)).expected == 0 then some 0x3E
  else none

/-- The operation of a copy word from its operands, and the barrier that it names (R242, R244). -/
def copyPlan (fn : Nat) (a : Option Sel) (c : Nat) (pair : Bool) (e : Env) : Except LaneErr (CopyOp × Option Nat) :=
  if pair && c == 31 then .error (0, 0x6D)
  else
    let av := match a with | some x => e.readU x 0 | none => .ok 0
    match av, e.readGs (if pair then [c, c + 1] else [c]) with
    | .error x, _ => .error x
    | _, .error x => .error x
    | .ok x, .ok ws =>
      let ctrl := (ws.headD 0).toNat
      let second := (ws.getD 1 0).toNat
      match copyCheck e.crew fn ctrl second x.toNat with
      | some k => .error (0, k)
      | none => .ok
          ({ fn := fn, pub := e.iss.mod.pub, rnd := e.iss.mod.rnd
             rsd := if fn = fnXstore ∧ e.iss.mod.rsd = true then ws[1]? else none
             toff := ctrl % 2 ^ 22, src := if fn = fnXgather then second else x.toNat, rows := second % 2 ^ 16
             acc := bitOf second 16, pattern := x, lanes := [], record := none, lfsr := none },
           if bitOf ctrl 26 then some (ctrl / 2 ^ 22 % 16) else none)

/-- A copy enters its crew's queue (R251). An XSTORE follows the fibres' release fences (R173, R219). -/
def State.launchCopy (s : State) (i : Issue) (k : Nat) (c : CopyOp) (bar : Option Nat) (parts : List Nat) : State :=
  let (id, t) := s.fresh
  let u := { t with ops := kset t.ops id { kind := .copy c, issuer := i.crew, core := i.core, word := i.word, modw := i.modw,
                                           owners := ownersOf i.crew k parts, bar := bar } }
  let v := u.modCrew i.crew fun x => { x with copies := x.copies ++ [id] }
  if c.fn = fnXstore then
    v.synchronise (copyAgent (clusterOf i.core)) .system (v.gangChips i.crew) (parts.flatMap fun f => ((v.crew i.crew).fibre f).fences)
  else v

/-- An unguarded copy word executed (R244). -/
def copyWord (fn k : Nat) (a : Option Sel) (c : Nat) (pair : Env → Bool) (s : State) : Host.Outcome State Fault Refusal :=
  engineWord k (fun e => (match a with | some x => selRegs x 1 | none => []) ++ if pair e then [c, c + 1] else [c]) (fun e => copyPlan fn a c (pair e) e)
    (fun p parts i t => t.launchCopy i k p.1 p.2 parts) s

/-- XLOAD (R242, R245). -/
def execXload (h : EngHdr) (s : State) : Host.Outcome State Fault Refusal :=
  copyWord fnXload h.k.val (some h.a) h.c.val (fun _ => false) s

/-- XSTORE (R242, R246). -/
def execXstore (h : EngHdr) (s : State) : Host.Outcome State Fault Refusal :=
  copyWord fnXstore h.k.val (some h.a) h.c.val (fun e => e.iss.mod.rsd) s

/-- XMOVE (R242, R247). -/
def execXmove (h : EngHdr) (s : State) : Host.Outcome State Fault Refusal :=
  copyWord fnXmove h.k.val (some h.a) h.c.val (fun _ => true) s

/-- XFILL (R242, R249). -/
def execXfill (h : EngHdr) (s : State) : Host.Outcome State Fault Refusal :=
  copyWord fnXfill h.k.val (some h.a) h.c.val (fun _ => true) s

/-- XPUB (R242, R250). -/
def execXpub (k : Fin 16) (c : Fin 32) (s : State) : Host.Outcome State Fault Refusal :=
  copyWord fnXpub k.val none c.val (fun _ => false) s

/-- XGATHER (R242, R248): each selected lane's row address is read. -/
def execXgather (h : GEngHdr) (s : State) : Host.Outcome State Fault Refusal :=
  withIssue s fun i t =>
    let e := envOf i t
    let c := h.b.val
    match groupCheck e [(h.a, 2), (.g h.b, if c < 31 then 2 else 1)] 0 1 with
    | some x => t.groupEffect i x
    | none =>
      match copyPlan fnXgather none c true e with
      | .error x => t.groupEffect i x
      | .ok (op, bar) =>
        let l := e.lanes h.g
        let rs := l.sel.map fun fid => (fid, e.readPair (e.crew.fibre fid) fid h.a 0)
        let good := rs.filterMap fun r => match r.2 with | .ok p => some (r.1, (pairOf p.1 p.2).toNat) | .error _ => none
        let wrong := rs.filterMap fun r => match r.2 with | .ok _ => none | .error x => some (r.1, laneEff x i.pc)
        let (u, parts, full) := t.countOn i h.k.val (good.map Prod.fst)
        let lanes := (good.filter fun g => parts.contains g.1).map fun g => (laneOf g.1, g.2)
        (if parts.isEmpty then u else u.launchCopy i h.k.val { op with lanes := lanes } bar parts).endWord i i.grp.latches
          false (l.bad ++ wrong ++ full)

/-! ## Start (R236, R237, R240, R251, R254) -/

/-- Staging that a crew's closed shutters hold. -/
def Crew.shut (c : Crew) : Nat := c.shutters.foldl (fun n h => n + h.bytes.length) 0

/-- Staging in use in a cluster (R254): what a saved crew had staged is in its image (R256). -/
def State.stagingUsed (s : State) (cluster : Nat) : Nat :=
  (s.crews.filter fun c => c.2.home.isSome && c.2.life != .saved && c.2.life != .halted && clusterOf c.2.core == cluster).foldl (fun n c => n + c.2.shut) 0 +
    (s.ops.filter fun o => clusterOf o.2.core == cluster && o.2.stage == .running).foldl
      (fun n o => n + match o.2.kind with | .copy c => c.claim | _ => 0) 0

/-- Footprints of XMOVE and XFILL (R247, R249). -/
def moveCheck (c : Crew) (o : CopyOp) : Option Cause :=
  let n := tileBytes o.acc o.rows
  let lim := c.segScratch.limit
  if lim < o.toff + n ∨ Config.stagingBytes < n then some 0x67
  else if o.fn = fnXmove ∧ (lim < o.src + n ∨ (o.src < o.toff + n ∧ o.toff < o.src + n)) then some 0x67
  else none

/-- The record of a copy, once it has been read. -/
def CopyOp.shape (c : CopyOp) : Shape := shapeOf (c.record.getD [])

/-- Rows of the tile that a copy with a record handles (R235, R248). -/
def CopyOp.recRows (c : CopyOp) : Nat := if c.fn = fnXgather then 64 else c.shape.rows

/-- The checks of a copy with a record (R236, R248). A bad lane address of XGATHER comes after them (DESIGN CHOICE, log entry 138). -/
def recordCheck (s : State) (c : Crew) (o : CopyOp) : Option Cause :=
  let canon := canonical (s.levels c.pasid)
  let n := tileBytes o.shape.acc o.recRows
  match (if o.fn = fnXgather then o.shape.checkGather else o.shape.check (o.fn == fnXstore) canon) with
  | some x => some x
  | none =>
    if c.segScratch.limit < o.toff + n ∨ Config.stagingBytes < n then some 0x67
    else if o.lanes.any fun l => !canon l.2 || l.2 % 4 != 0 then some 0x6E
    else none

/-- A copy's stage and details replaced; it has gone on, so that its reissues count anew (R19). -/
def State.setCopy (s : State) (id : Nat) (c : CopyOp) (st : OpStage) : State :=
  { s with ops := kmod s.ops id fun o => { o with kind := .copy c, stage := st, replays := 0 } }

/-- Staging claimed for a copy that can start: it runs, waits, or fails with 0x6C (R254). -/
def State.claimStaging (s : State) (id : Nat) (o : Op) (c : CopyOp) (n : Nat) : State :=
  let own := (s.crew o.issuer).shut
  if Config.stagingBytes < n + own then s.setCopy id { c with err := 0x6C } .running
  else if Config.stagingBytes < n + s.stagingUsed (clusterOf o.core) then s.setCopy id c .issued
  else s.setCopy id { c with claim := n } .running

/-- The LFSR state that an XSTORE in SR mode takes, and the crew's afterwards (R240). -/
def State.takeLfsr (s : State) (id crew : Nat) (c : CopyOp) : State :=
  if c.fn = fnXstore ∧ c.rnd = 2 then
    let seed := match c.rsd with
      | some w => if w = 0 then 1 else w
      | none => (s.crew crew).lfsr
    let n := c.shape.rows * dim c.shape.tx 0
    let after := (List.range n).foldl (fun w _ => lfsrStep w) seed
    (s.modCrew crew fun x => { x with lfsr := after }).setCopy id { c with lfsr := some seed } .running
  else s.setCopy id c .running

/-- A copy with a record: it reads the record once, checks it, and starts (R236, R237). -/
def State.startRecord (s : State) (id : Nat) (o : Op) (c : CopyOp) : State :=
  let x := s.crew o.issuer
  let cl := clusterOf o.core
  let addr := x.segScratch.base + c.src
  if c.record.isNone && s.scratchPoison cl addr 64 then s.setCopy id { c with err := 0x6A } .running
  else
    let c1 := if c.record.isNone then { c with record := some (s.readScratch cl addr 64) } else c
    match recordCheck s x c1 with
    | some k => s.setCopy id { c1 with err := k } .running
    | none =>
      if c.fn = fnXstore then
        if c1.lfsr.isSome then s.setCopy id c1 .running else s.takeLfsr id o.issuer c1
      else s.claimStaging id o c1 (tileBytes c1.shape.acc c1.recRows)

/-- A crew's next copy or XPUB starts (R251). -/
def State.startCopy (s : State) (crew : Nat) : State :=
  let x := s.crew crew
  match x.copies with
  | [] => s
  | id :: _ =>
    match kget s.ops id with
    | none => s
    | some o =>
      match o.kind with
      | .copy c =>
        if !x.working || o.stage != .issued || s.clusterGated (clusterOf o.core) then s
        else if c.fn = fnXpub then s.setCopy id c .running
        else if c.fn = fnXmove ∨ c.fn = fnXfill then
          match moveCheck x c with
          | some k => s.setCopy id { c with err := k } .running
          | none => s.claimStaging id o c (tileBytes c.acc c.rows)
        else s.startRecord id o c
      | .mem _ _ _ | .matrix _ _ | .frame _ _ | .send | .recv | .query _ => s

/-! ## Performance (R245 to R249) -/

/-- An element as XLOAD writes it (R245). -/
def loadElem (f : TFmt) (acc : Bool) (rnd scale code : Nat) : Nat :=
  if acc then (roundNum f32 rnd (scaleNum (f.num code) scale)).1
  else (roundNum c16 (if f.word = 0x0081 ∨ f.word = 0x0083 then rnd else 0) (f.num code)).1

/-- n elements of width w of a bit stream from a bit on. -/
def codesOf (bs : List Byte) (bit w n : Nat) : List Nat :=
  let x := leNat bs
  (List.range n).map fun j => x / 2 ^ (bit + j * w) % 2 ^ w

/-- One row of XLOAD: its elements and the four scale codes of its blocks. Positions out of bounds are +0 with ACC = 1 too, also in a block
whose scale is 0xFF (DESIGN CHOICE, log entry 139). -/
def State.loadRow (s : State) (pasid : Nat) (c : CopyOp) (r : Shape) (k : Nat) : State × Except EngErr (List Nat × List Nat) :=
  match r.row k with
  | none => (s, .ok ([], []))
  | some (va, cols, plane) =>
    let w := r.fmt.width
    let lo := dim r.org 0 * w
    match s.engineRead pasid (va + lo / 8) (ceilDiv (lo + cols * w) 8 - lo / 8) with
    | (t, .error x) => (t, .error x)
    | (t, .ok bs) =>
      match (if r.sbase = 0 then (t, .ok []) else t.engineRead pasid plane (ceilDiv cols 32)) with
      | (u, .error x) => (u, .error x)
      | (u, .ok ss) =>
        let scales := ss.map fun b => b.toNat
        let codes := codesOf bs (lo % 8) w cols
        (u, .ok (codes.zipIdx.map fun x => loadElem r.fmt r.acc c.rnd (scales.getD (x.2 / 32) 127) x.1, scales))

/-- One row of XGATHER. -/
def State.gatherRow (s : State) (pasid : Nat) (c : CopyOp) (r : Shape) (k : Nat) :
    State × Except EngErr (List Nat × List Nat) :=
  match c.lanes.find? fun l => l.1 == k with
  | none => (s, .ok ([], []))
  | some (_, va) =>
    let w := r.fmt.width
    match s.engineRead pasid va (ceilDiv (dim r.tx 0 * w) 8) with
    | (t, .error x) => (t, .error x)
    | (t, .ok bs) => (t, .ok ((codesOf bs 0 w (dim r.tx 0)).map fun x => loadElem r.fmt r.acc c.rnd 127 x, []))

/-- Rows in order, each after the other. -/
def rowsM {α : Type} (f : State → Nat → State × Except EngErr α) : List Nat → State → State × Except EngErr (List α)
  | [], s => (s, .ok [])
  | k :: ks, s =>
    match f s k with
    | (t, .error x) => (t, .error x)
    | (t, .ok a) =>
      match rowsM f ks t with
      | (u, .error x) => (u, .error x)
      | (u, .ok l) => (u, .ok (a :: l))

/-- The footprint of a tile from its rows. -/
def tileOf (acc : Bool) (rows : List (List Nat × List Nat)) : List Byte :=
  if acc then f32Tile (rows.map Prod.fst) else c16Tile rows

/-- The footprint that a copy with a scratchpad destination builds (R245, R247 to R249). -/
def State.copyTile (s : State) (o : Op) (c : CopyOp) : State × Except EngErr (List Byte) :=
  let x := s.crew o.issuer
  let cl := clusterOf o.core
  if c.fn = fnXmove then
    let n := tileBytes c.acc c.rows
    if s.scratchPoison cl (x.segScratch.base + c.src) n then (s, .error (.data 0x4D))
    else (s, .ok (s.readScratch cl (x.segScratch.base + c.src) n))
  else if c.fn = fnXfill then
    (s, .ok (if c.acc then (List.range (128 * c.rows)).flatMap fun _ => leBytes 4 c.pattern.toNat
      else ((List.range (128 * c.rows)).flatMap fun _ => leBytes 2 (c.pattern.toNat % 65536)) ++
        (List.range (4 * c.rows)).map fun _ => 0x7F))
  else
    let r := c.shape
    match rowsM (fun t k => if c.fn = fnXgather then t.gatherRow x.pasid c r k else t.loadRow x.pasid c r k)
        (List.range c.recRows) s with
    | (t, .error e) => (t, .error e)
    | (t, .ok rows) => (t, .ok (tileOf r.acc rows))

/-- The writes of one row of XSTORE: its bytes and scale codes (R241, R246). -/
def storeRow (c : CopyOp) (r : Shape) (tile : List Byte) (draws : List Word) (k : Nat) : List (Nat × List Byte) :=
  match r.row k with
  | none => []
  | some (va, cols, plane) =>
    let w := r.fmt.width
    let vals := (List.range cols).map fun j => tileNum r.acc r.rows tile k j
    let scales := (List.range (ceilDiv cols 32)).map fun b =>
      if r.sbase = 0 then 127 else r.fmt.scaleCode ((vals.drop (32 * b)).take 32)
    let bits := vals.zipIdx.foldl (fun n x =>
      let u := ((draws.getD (k * dim r.tx 0 + x.2) 0).toNat) % 65536
      n + r.fmt.blockCode c.rnd u (scales.getD (x.2 / 32) 127) x.1 * 2 ^ (x.2 * w)) 0
    (va + dim r.org 0 * w / 8, leBytes (ceilDiv (cols * w) 8) bits) ::
      (if r.sbase = 0 then [] else [(plane, scales.map fun e => BitVec.ofNat 8 e)])

/-- XSTORE performed: every byte merged at its home (R246). -/
def State.copyStore (s : State) (o : Op) (c : CopyOp) : State × Except EngErr Unit :=
  let x := s.crew o.issuer
  let cl := clusterOf o.core
  let r := c.shape
  let n := tileBytes r.acc r.rows
  if s.scratchPoison cl (x.segScratch.base + c.toff) n then (s, .error (.data 0x4D))
  else
    let tile := s.readScratch cl (x.segScratch.base + c.toff) n
    let draws := if c.rnd = 2 then lfsrRun (c.lfsr.getD 1) (r.rows * dim r.tx 0) else []
    s.engineWrites (copyAgent cl) (some o.issuer) x.pasid ((List.range r.rows).flatMap fun k => storeRow c r tile draws k)

/-! ## Completion (R250, R252 to R255) -/

/-- A copy leaves its crew's queue and its record. -/
def State.dropCopy (s : State) (id crew : Nat) : State :=
  { s with ops := kdel s.ops id }.modCrew crew fun x => { x with copies := x.copies.filter fun y => y != id }

/-- The arrival of a copy on the barrier that it names, a release of the copy engine's agent (R18, R221). -/
def State.arriveCopy (s : State) (o : Op) (bar : Option Nat) : State := s.arriveOp o.issuer bar (some (copyAgent (clusterOf o.core)))

/-- A copy completes with a cause (R253): its staging is discarded, its token records the cause, and its arrival takes place. -/
def State.failCopy (s : State) (id : Nat) (o : Op) (c : Cause) : State :=
  ((s.dropCopy id o.issuer).completeAll o (some c) []).arriveCopy o o.bar

/-- The cause of an engine error of a copy (R252). -/
def copyCause : EngErr → Cause
  | .page _ _ => 0x69
  | .walk c => if c = 0x4A then 0x6A else 0x68
  | .data c => if c = 0x4D then 0x6A else if c = 0x5B then 0x6F else 0x6B
  | .refused => 0x6B

/-- An engine error of a copy: a page is requested while the copy is held, or it fails (R252). -/
def State.copyError (s : State) (id : Nat) (o : Op) (x : EngErr) : State :=
  match x with
  | .page va w =>
    { s with ops := kmod s.ops id fun p => { p with page := some va } }.pageRequest (s.crew o.issuer).pasid (va / 4096) w (.op id)
  | .walk _ | .data _ | .refused => s.failCopy id o (copyCause x)

/-- A staged footprint written to a cluster's scratchpad, its poison marks with it (R255, R409). -/
def State.openShutter (s : State) (cluster : Nat) (h : Shutter) : State :=
  let t := s.writeScratch cluster h.base h.bytes
  { t with poisonScratch := t.poisonScratch ++ h.poison.map fun o => scratchKey cluster h.base + o }

/-- Every closed shutter of a crew opened as one event, in issue order (R250, R255). -/
def State.openShutters (s : State) (crew core : Nat) : State :=
  let hs := (s.crew crew).shutters
  (hs.foldl (fun (t : State) h => t.openShutter (clusterOf core) h) s).modCrew crew fun x =>
    { x with shutters := [] }

/-- XPUB performed (R250): the event, its token, the arrivals of the copies, and its own. -/
def State.completePub (s : State) (id : Nat) (o : Op) : State :=
  let hs := (s.crew o.issuer).shutters
  let t := ((s.openShutters o.issuer o.core).dropCopy id o.issuer).completeAll o none []
  (hs.foldl (fun (u : State) h => u.arriveCopy o h.bar) t).arriveCopy o o.bar

/-- The completion of a copy that runs. A copy without PUB that a continuation tracks and that completes after its crew has ended is discarded
behind its shutter at once: R254 speaks of the shutters left when a crew ends alone (DESIGN CHOICE, log entry 152). -/
def State.completeCopy (s : State) (id : Nat) (o : Op) (c : CopyOp) : State :=
  let x := s.crew o.issuer
  if o.stage != .running || s.pageWaits (.op id) || s.clusterGated (clusterOf o.core) || !x.working then s
  else if c.err ≠ 0 then s.failCopy id o c.err
  else if c.fn = fnXpub then s.completePub id o
  else if c.fn = fnXstore then
    match s.copyStore o c with
    | (t, .error e) => t.copyError id o e
    | (t, .ok ()) =>
      let (u, tag) := t.release (copyAgent (clusterOf o.core)) .package
      ((u.dropCopy id o.issuer).completeAll o none [tag]).arriveCopy o o.bar
  else match s.copyTile o c with
    | (t, .error e) => t.copyError id o e
    | (t, .ok bs) =>
      let base := x.segScratch.base + c.toff
      if c.pub then
        (((t.writeScratch (clusterOf o.core) base bs).dropCopy id o.issuer).completeAll o none []).arriveCopy o o.bar
      else if x.life = .ended then (t.dropCopy id o.issuer).completeAll o none []
      else
        ((t.dropCopy id o.issuer).modCrew o.issuer fun y => { y with shutters := y.shutters ++ [⟨id, base, bs, o.bar, []⟩] }).completeAll
          o none []

end Sys2Proof.Machine
end

