-- ==== Sys2Proof/Machine/MatrixEngine.lean ====
section
/-! DEFINITION. The matrix engine (R258 to R282): the MATRIX words at issue, claims and their queues, the operations over
planes, tiles and result buffers, and MSTAT. -/

namespace Sys2Proof.Machine

/-! ## Issue (R262 to R265) -/

/-- MATRIX functions (R262). -/
def fnMclaim : Nat := 0
/-- MREL. -/
def fnMrel : Nat := 1
/-- MLDW. -/
def fnMldw : Nat := 2
/-- MSWAP. -/
def fnMswap : Nat := 3
/-- MSTREAM. -/
def fnMstream : Nat := 4
/-- MZERO. -/
def fnMzero : Nat := 5
/-- MSTORE. -/
def fnMstore : Nat := 6
/-- MSTAT. -/
def fnMstat : Nat := 7

/-- The crew has a claim whose MREL it has not issued (R265). -/
def Crew.hasClaim (c : Crew) : Bool := c.claims.any fun k => !k.mrel

/-- A scratch offset of a MATRIX word is refused: not a multiple of 256, or not below the limit (R262, R265). -/
def Crew.badOffset (c : Crew) (x : Nat) : Bool := x % 256 != 0 || decide (c.segScratch.limit ≤ x)

/-- Checks 3 to 6 of R265. -/
def matCheck (c : Crew) (fn ctrl second a : Nat) (pub : Bool) : Option Cause :=
  let outs := fn == fnMstream || fn == fnMzero || fn == fnMstore
  if ctrl / 2 ^ 28 ≠ 0 ∨ c.badOffset (ctrl % 2 ^ 22) = true then some 0x72
  else if fn == fnMldw && (a / 2 ^ 16 != 0 || a % 256 == 0 || decide (128 < a % 256) || a / 256 % 256 == 0 ||
      decide (128 < a / 256 % 256)) then some 0x72
  else if fn == fnMzero && (a == 0 || decide (128 < a)) then some 0x72
  else if (fn == fnMstream && c.badOffset second) || (fn == fnMstore && c.badOffset a) then some 0x72
  else if fn == fnMstream && (a % 64 != 0 || decide (c.segScratch.limit < a + 64)) then some 0x73
  else if bitOf ctrl 26 && outs && !pub then some 0x7C
  else if bitOf ctrl 26 && (c.bar (ctrl / 2 ^ 22 % 16)).expected == 0 then some 0x3E
  else none

/-- A MATRIX word without operands (R265, check 1). -/
def matBare (fn : Nat) (e : Env) : Except LaneErr (MatOp × Option Nat) :=
  if fn = fnMclaim ∧ e.crew.hasClaim = true then .error (0, 0x71)
  else if fn ≠ fnMclaim ∧ fn ≠ fnMstat ∧ e.crew.hasClaim = false then .error (0, 0x70)
  else .ok (⟨fn, false, false, false, 0, 0, 0⟩, none)

/-- A MATRIX word with operands (R265). -/
def matPlan (fn : Nat) (a : Sel) (c : Nat) (e : Env) : Except LaneErr (MatOp × Option Nat) :=
  if e.crew.hasClaim = false then .error (0, 0x70)
  else if fn = fnMstream ∧ c = 31 then .error (0, 0x7E)
  else
    match e.readU a 0, e.readGs (if fn = fnMstream then [c, c + 1] else [c]) with
    | .error x, _ => .error x
    | _, .error x => .error x
    | .ok x, .ok ws =>
      let ctrl := (ws.headD 0).toNat
      let second := (ws.getD 1 0).toNat
      match matCheck e.crew fn ctrl second x.toNat e.iss.mod.pub with
      | some k => .error (0, k)
      | none => .ok (⟨fn, e.iss.mod.pub, e.iss.mod.rnd == 1, bitOf ctrl 27, ctrl % 2 ^ 22, x.toNat, second⟩,
          if bitOf ctrl 26 then some (ctrl / 2 ^ 22 % 16) else none)

/-- The claim that an issuing word joins, changed. -/
def Crew.modClaim (c : Crew) (test : Claim → Bool) (f : Claim → Claim) : Crew :=
  { c with claims := c.claims.map fun k => if test k then f k else k }

/-- A MATRIX operation enters its crew's queue (R260); MCLAIM begins a claim (R259). -/
def State.launchMat (s : State) (i : Issue) (k : Nat) (m : MatOp) (bar : Option Nat) (parts : List Nat) : State :=
  let (id, t) := s.fresh
  let u := { t with ops := kset t.ops id { kind := .matrix m none, issuer := i.crew, core := i.core, word := i.word
                                           modw := i.modw, owners := ownersOf i.crew k parts, bar := bar } }
  if m.fn = fnMclaim then
    (u.modCrew i.crew fun c => { c with claims := c.claims ++ [⟨[id], none, none, none, [], false⟩] }).modCluster
      (clusterOf i.core) fun x => { x with pending := x.pending ++ [i.crew] }
  else u.modCrew i.crew fun c => c.modClaim (fun x => !x.mrel) fun x =>
    { x with queue := x.queue ++ [id], mrel := m.fn == fnMrel }

/-- A MATRIX word that enters the queue executed. -/
def matWord (k : Nat) (regs : List Nat) (plan : Env → Except LaneErr (MatOp × Option Nat)) (s : State) :
    Host.Outcome State Fault Refusal :=
  engineWord k (fun _ => regs) plan (fun p parts i t => t.launchMat i k p.1 p.2 parts) s

/-- MCLAIM (R259, R266). -/
def execMclaim (k : Fin 16) (s : State) : Host.Outcome State Fault Refusal := matWord k.val [] (matBare fnMclaim) s
/-- MREL (R267). -/
def execMrel (k : Fin 16) (s : State) : Host.Outcome State Fault Refusal := matWord k.val [] (matBare fnMrel) s
/-- MLDW (R270). -/
def execMldw (h : EngHdr) (s : State) : Host.Outcome State Fault Refusal :=
  matWord h.k.val (selRegs h.a 1 ++ [h.c.val]) (matPlan fnMldw h.a h.c.val) s
/-- MSWAP (R268). -/
def execMswap (k : Fin 16) (s : State) : Host.Outcome State Fault Refusal := matWord k.val [] (matBare fnMswap) s
/-- MSTREAM (R271 to R274). -/
def execMstream (h : EngHdr) (s : State) : Host.Outcome State Fault Refusal :=
  matWord h.k.val (selRegs h.a 1 ++ (if h.c.val = 31 then [31] else [h.c.val, h.c.val + 1])) (matPlan fnMstream h.a h.c.val) s
/-- MZERO (R275). -/
def execMzero (h : EngHdr) (s : State) : Host.Outcome State Fault Refusal :=
  matWord h.k.val (selRegs h.a 1 ++ [h.c.val]) (matPlan fnMzero h.a h.c.val) s
/-- MSTORE (R276). -/
def execMstore (h : EngHdr) (s : State) : Host.Outcome State Fault Refusal :=
  matWord h.k.val (selRegs h.a 1 ++ [h.c.val]) (matPlan fnMstore h.a h.c.val) s

/-- G registers marked pending at the issue of a word in strict mode (R138). -/
def Crew.markG (c : Crew) (strict : Bool) (id : Nat) (regs : List Nat) (fids : List Nat) (k : Nat) : Crew :=
  if strict then { c with gpend := regs.foldl (fun m n => kset m n ⟨some fids, some k, false, id⟩) c.gpend } else c

/-- A word that writes G registers at its completion is refused at issue while one of them is pending or inside a window
(R86, R138). -/
def Env.strictGs (e : Env) (regs : List Nat) : Option LaneErr :=
  (regs.filterMap fun n => e.crew.strictG e.iss.strict n e.iss.grp.fids e.cycle).head?

/-- MSTAT (R269): it enters no queue. -/
def execMstat (k : Fin 16) (c : Fin 32) (s : State) : Host.Outcome State Fault Refusal :=
  engineWord k.val (fun _ => []) (fun e => match e.strictGs [c.val] with | some x => .error x | none => .ok ())
    (fun _ parts i t =>
      let (id, u) := t.fresh
      { u with ops := kset u.ops id { kind := .matrix ⟨fnMstat, false, false, false, 0, c.val, k.val⟩ none, issuer := i.crew
                                      core := i.core, word := i.word, modw := i.modw
                                      owners := ownersOf i.crew k.val parts } }.modCrew i.crew fun x =>
        x.markG i.strict id [c.val] parts k.val) s

/-! ## What a claim sees (R277, R279) -/

/-- n bytes at a scratch offset as a claim's operations see them: the bytes of a bound buffer outside its footprint are those of the
scratchpad as it is now (DESIGN CHOICE, log entry 155). -/
def State.claimView (s : State) (core crew : Nat) (k : Claim) (off n : Nat) : List Byte :=
  let own := s.readScratch (clusterOf core) ((s.crew crew).segScratch.base + off) n
  k.bufs.foldl (fun bs b => bs.zipIdx.map fun x =>
    let p := off + x.2
    if b.toff ≤ p ∧ p < b.toff + b.len then b.bytes.getD (p - b.toff) x.1 else x.1) own

/-- The 64 KiB of a result buffer (R277). -/
def bufBytes : Nat := 65536

/-- Bytes replaced at offsets of a string, in order. -/
def patch (bs : List Byte) (ps : List (Nat × List Byte)) : List Byte := ps.foldl (fun b p => overlay b p.1 p.2) bs

/-- A result written through a buffer of a claim (R277): the claim after it, or cause 0x7B, which comes after an operation's other causes
(DESIGN CHOICE, log entry 154). -/
def State.bufWrite (s : State) (core crew : Nat) (k : Claim) (id : Nat) (owners : List Owner) (toff size : Nat)
    (f : List Byte → List Byte) : Except Cause Claim :=
  let others := k.bufs.filter fun b => b.toff != toff
  let hit := others.any fun b => decide (b.toff < toff + size) && decide (toff < b.toff + bufBytes)
  match k.bufs.find? fun b => b.toff == toff with
  | some b =>
    if hit then .error 0x7B
    else .ok { k with bufs := others ++ [{ b with bytes := f b.bytes, len := max b.len size, owners := owners, lastOp := id }] }
  | none =>
    if hit || decide (2 ≤ others.length) then .error 0x7B
    else .ok { k with bufs := others ++ [⟨toff, f (s.claimView core crew k toff bufBytes), size, owners, id⟩] }

/-! ## Tiles and planes (R258, R270, R271) -/

/-- The code of element (r, j) of a C16 tile. -/
def c16Elem (bs : List Byte) (r j : Nat) : Nat := fieldLe bs (c16At r j) 2

/-- The scale code of block b of row r of a C16 tile of n rows. -/
def c16Scale (bs : List Byte) (n r b : Nat) : Nat := fieldLe bs (256 * n + 4 * r + b) 1

/-- The integer from -255 to 255 that a number is, if it is one (R270, R271). -/
def intOf : Num → Option Int
  | .fin s m e =>
    let v := if 0 ≤ e then some (m * 2 ^ e.toNat) else if m % 2 ^ (-e).toNat = 0 then some (m / 2 ^ (-e).toNat) else none
    match v with
    | some x => if x ≤ 255 then some (if s then -(x : Int) else x) else none
    | none => none
  | .inf _ | .nan _ => none

/-- The check of integer mode over a tile of n rows and k columns: elements, then scales (R270, R271). -/
def intCheck (bs : List Byte) (n k : Nat) : Option Cause :=
  if (List.range n).any fun r => (List.range k).any fun j => (intOf (unpack c16 (c16Elem bs r j))).isNone then some 0x77
  else if (List.range n).any fun r => (List.range (ceilDiv k 32)).any fun b => c16Scale bs n r b != 127 then some 0x78
  else none

/-- The plane that MLDW loads from a tile (R270). -/
def planeOf (bs : List Byte) (kext next : Nat) (int : Bool) : Plane :=
  { k := kext, n := next, int := int
    w := (List.range 128).flatMap fun n => (List.range 128).map fun k =>
      if n < next ∧ k < kext then BitVec.ofNat 16 (c16Elem bs n k) else 0
    ws := (List.range 128).flatMap fun n => (List.range 4).map fun b =>
      if n < next ∧ 32 * b < kext then BitVec.ofNat 8 (c16Scale bs next n b) else 0x7F }

/-- w(k, n) of a plane. -/
def Plane.weight (p : Plane) (k n : Nat) : Num := unpack c16 ((p.w.getD (k + 128 * n) 0).toNat)

/-- WS[n][b] of a plane. -/
def Plane.scale (p : Plane) (n b : Nat) : Nat := (p.ws.getD (4 * n + b) 0x7F).toNat

/-! ## The sums (R272 to R274) -/

/-- The exact sum of products (R273). -/
def sumNums (l : List Num) : Num :=
  let infs := l.filterMap fun x => match x with | .inf s => some s | .nan _ | .fin _ _ _ => none
  if l.any Num.isNaN || (infs.contains true && infs.contains false) then .nan false
  else match infs with
    | s :: _ => .inf s
    | [] =>
      let fins := l.filterMap fun x => match x with | .fin s m e => some (s, m, e) | .nan _ | .inf _ => none
      let p := fins.foldl (fun q x => min q x.2.2) 0
      let t := fins.foldl (fun n x => n + signedAt x.1 x.2.1 x.2.2 p) 0
      if t = 0 then .fin (!fins.isEmpty && fins.all fun x => x.1 && x.2.1 == 0) 0 0
      else .fin (decide (t < 0)) t.natAbs p

/-- One block of an element, rounded once (R272). -/
def blockTerm (a : Nat → Num) (w : Nat → Num) (b k sa sw : Nat) : Nat :=
  if sa = 255 ∨ sw = 255 then canonNaN f32
  else
    let ks := (List.range (min 32 (k - 32 * b))).map fun i => 32 * b + i
    (roundNum f32 0 (scaleNum (scaleNum (sumNums (ks.map fun i => (mulNum (a i) (w i)).1)) sa) sw)).1

/-- An accumulator element in float mode (R272). -/
def streamFloat (tile : List Byte) (rows : Nat) (p : Plane) (i j acc : Nat) : Nat :=
  (List.range (ceilDiv p.k 32)).foldl (fun x b =>
    (fadd f32 0 x (blockTerm (fun k => unpack c16 (c16Elem tile i k)) (fun k => p.weight k j) b p.k
      (c16Scale tile rows i b) (p.scale j b))).1) acc

/-- An accumulator element in integer mode (R274). -/
def streamInt (tile : List Byte) (p : Plane) (i j acc : Nat) : Nat :=
  let t := (List.range p.k).foldl (fun (n : Int) k =>
    n + (intOf (unpack c16 (c16Elem tile i k))).getD 0 * (intOf (p.weight k j)).getD 0) 0
  (bits32 (sext 32 acc + t)).toNat

/-! ## Operations (R266 to R276) -/

/-- What an operation does to its claim, or the cause with which it completes. -/
abbrev MatRes := Except Cause Claim

/-- Two ranges overlap. -/
def rangesMeet (a n b m : Nat) : Bool := decide (a < b + m) && decide (b < a + n)

/-- Some of n bytes at a scratch offset, as a claim's operations see them, carries a poison mark (R277, R409). -/
def State.viewPoison (s : State) (core crew : Nat) (k : Claim) (off n : Nat) : Bool :=
  let base := scratchKey (clusterOf core) (s.crew crew).segScratch.base
  s.poisonScratch.any fun p => decide (base + off ≤ p) && decide (p < base + off + n) &&
    !(k.bufs.any fun b => decide (base + b.toff ≤ p) && decide (p < base + b.toff + b.len))

/-- MLDW performed (R270). -/
def State.mldw (s : State) (core crew : Nat) (k : Claim) (m : MatOp) : MatRes :=
  let c := s.crew crew
  let kext := m.a % 256
  let next := m.a / 256 % 256
  if c.segScratch.limit < m.toff + 260 * next then .error 0x76
  else if s.viewPoison core crew k m.toff (260 * next) then .error 0x7D
  else
    let bs := s.claimView core crew k m.toff (260 * next)
    match (if m.int then intCheck bs next kext else none) with
    | some x => .error x
    | none => .ok { k with shadow := some (planeOf bs kext next m.int) }

/-- The rows and columns of MSTREAM's record, or cause 0x75 (R271, check 3). -/
def streamShape (bs : List Byte) : Except Cause (Nat × Nat) :=
  let rank := fieldLe bs 18 1
  let tx := fun k => fieldLe bs (48 + k) 1
  let rows := tx 1 * tx 2 * tx 3
  if 1 ≤ rank ∧ rank ≤ 4 ∧ bitOf (fieldLe bs 19 1) 0 = false ∧ 1 ≤ tx 0 ∧ tx 0 ≤ 128 ∧ 1 ≤ rows ∧ rows ≤ 128 ∧
      ((List.range 4).all fun k => decide (k < rank) || tx k == 1) = true then .ok (rows, tx 0)
  else .error 0x75

/-- MSTREAM performed (R271 to R274). Poison (0x7D) of its record comes before 0x75, and poison of its tile, its planes and its destination
before 0x77 and 0x78 (DESIGN CHOICE, log entry 44). -/
def State.mstream (s : State) (core crew id : Nat) (owners : List Owner) (k : Claim) (m : MatOp) : MatRes :=
  let c := s.crew crew
  let lim := c.segScratch.limit
  match k.active with
  | none => .error 0x7A
  | some p =>
    if p.int != m.int then .error 0x79
    else if s.viewPoison core crew k m.a 64 then .error 0x7D
    else match streamShape (s.claimView core crew k m.a 64) with
      | .error x => .error x
      | .ok (rows, ka) =>
        if ka ≠ p.k then .error 0x74
        else if lim < m.atile + 260 * rows ∨ lim < m.toff + bufBytes then .error 0x76
        else if rangesMeet m.atile (260 * rows) m.toff bufBytes then .error 0x7F
        else if p.poisoned || s.viewPoison core crew k m.atile (260 * rows) || s.viewPoison core crew k m.toff bufBytes then
          .error 0x7D
        else
          let tile := s.claimView core crew k m.atile (260 * rows)
          match (if m.int then intCheck tile rows p.k else none) with
          | some x => .error x
          | none =>
            s.bufWrite core crew k id owners m.toff bufBytes fun acc =>
              patch acc ((List.range rows).flatMap fun i => (List.range p.n).map fun j =>
                let old := fieldLe acc (f32At i j) 4
                (f32At i j, leBytes 4 (if m.int then streamInt tile p i j old else streamFloat tile rows p i j old)))

/-- MZERO performed (R275). -/
def State.mzero (s : State) (core crew id : Nat) (owners : List Owner) (k : Claim) (m : MatOp) : MatRes :=
  if (s.crew crew).segScratch.limit < m.toff + 512 * m.a then .error 0x76
  else s.bufWrite core crew k id owners m.toff (512 * m.a) fun acc => overlay acc 0 (leBytes (512 * m.a) 0)

/-- An element of MSTORE (R276). -/
def storeElem (int rz : Bool) (x : Nat) : Nat :=
  let rm := if rz then 1 else 0
  if int then (ofInt c16 rm (sext 32 x)).1 else (roundNum c16 rm (unpack f32 x)).1

/-- MSTORE performed (R276). -/
def State.mstore (s : State) (core crew id : Nat) (owners : List Owner) (k : Claim) (m : MatOp) : MatRes :=
  let c := s.crew crew
  let lim := c.segScratch.limit
  if lim < m.toff + 33280 ∨ lim < m.a + bufBytes then .error 0x76
  else if rangesMeet m.a bufBytes m.toff 33280 then .error 0x7F
  else if s.viewPoison core crew k m.a bufBytes then .error 0x7D
  else
    let src := s.claimView core crew k m.a bufBytes
    s.bufWrite core crew k id owners m.toff 33280 fun dst => overlay dst 0
      (((List.range 128).flatMap fun i =>
          c16Row i ((List.range 128).map fun j => storeElem m.int m.rz (fieldLe src (f32At i j) 4))) ++
        List.replicate 512 0x7F)

/-- An operation other than MCLAIM and MREL on its claim. -/
def State.matRun (s : State) (core crew id : Nat) (owners : List Owner) (k : Claim) (m : MatOp) : MatRes :=
  if m.fn = fnMldw then s.mldw core crew k m
  else if m.fn = fnMswap then .ok { k with active := k.shadow, shadow := k.active }
  else if m.fn = fnMstream then s.mstream core crew id owners k m
  else if m.fn = fnMzero then s.mzero core crew id owners k m
  else if m.fn = fnMstore then s.mstore core crew id owners k m
  else .ok k

/-! ## Scheduling (R259 to R261, R267, R277, R278) -/

/-- The unit that an operation runs on (R261). -/
def matUnit (fn : Nat) : MatrixUnit :=
  if fn = fnMstream ∨ fn = fnMzero ∨ fn = fnMstore then .array else if fn = fnMldw then .loader else .control

/-- A queued operation's record. -/
def State.matOp (s : State) (id : Nat) : Option (Op × MatOp) :=
  (kget s.ops id).bind fun o => match o.kind with
    | .matrix m _ => some (o, m)
    | .mem _ _ _ | .copy _ | .frame _ _ | .send | .recv | .query _ => none

/-- The claim that holds a pair of a cluster. -/
def State.claimOf (s : State) (cluster pair : Nat) : Option (Nat × Claim) :=
  (kget (s.cluster cluster).pairs pair).bind fun crew =>
    ((s.crew crew).claims.find? fun k => k.pair == some pair).map fun k => (crew, k)

/-- The buffers of a claim that pass a test opened (R278). -/
def State.openClaim (s : State) (crew pair : Nat) (test : ResBuf → Bool) : State :=
  match (s.crew crew).claims.find? fun k => k.pair == some pair with
  | none => s
  | some k =>
    ((k.bufs.filter test).foldl (fun (t : State) b => t.openBuf crew b) s).modCrew crew fun c =>
      c.modClaim (fun x => x.pair == some pair) fun x => { x with bufs := x.bufs.filter fun b => !test b }

/-- A matrix operation ends: its token counts it, and it arrives (R18, R278, R280). The engine writes no home, so that its arrival closes no
open entries. -/
def State.finishMat (s : State) (id : Nat) (o : Op) (c : Option Cause) : State :=
  ({ s with ops := kdel s.ops id }.completeAll o c []).arriveOp o.issuer o.bar none

/-- MREL performed: every buffer opens, and the pair is freed (R267). -/
def State.releasePair (s : State) (cluster crew pair : Nat) : State :=
  ((s.openClaim crew pair fun _ => true).modCrew crew fun c =>
      { c with claims := c.claims.filter fun k => k.pair != some pair }).modCluster cluster fun x =>
    { x with pairs := kdel x.pairs pair }

/-- The head operation of a granted claim started and carried out (R261). -/
def State.runMat (s : State) (cluster pair crew : Nat) (k : Claim) (id : Nat) (o : Op) (m : MatOp) : State :=
  let t := s.modCrew crew fun c => c.modClaim (fun x => x.pair == some pair) fun x => { x with queue := x.queue.drop 1 }
  if m.fn = fnMrel then (t.releasePair cluster crew pair).finishMat id o none
  else match t.matRun o.core crew id o.owners { k with queue := k.queue.drop 1 } m with
    | .error c => t.finishMat id o (some c)
    | .ok k' =>
      let u := t.modCrew crew fun c =>
        c.modClaim (fun x => x.pair == some pair) fun _ => k'
      let v := if m.pub then u.openClaim crew pair fun b => b.toff == m.toff else u
      v.finishMat id o none

/-- A unit's choice: pairs in order after the one it served last, whose claim's queue head needs it (R261). -/
def State.matChoice (s : State) (cluster last : Nat) (u : MatrixUnit) : Option (Nat × Nat × Claim × Nat × Op × MatOp) :=
  ((List.range 4).map fun i => (last + 1 + i) % 4).findSome? fun pair =>
    (s.claimOf cluster pair).bind fun (crew, k) =>
      if (s.crew crew).working then
        k.queue.head?.bind fun id => (s.matOp id).bind fun (o, m) =>
          if matUnit m.fn = u ∧ m.fn ≠ fnMclaim then some (pair, crew, k, id, o, m) else none
      else none

/-- The pair that a unit served last. -/
def Cluster.last (c : Cluster) : MatrixUnit → Nat
  | .array => c.lastArray
  | .loader => c.lastLoader
  | .control => c.lastControl

/-- The pair that a unit has served recorded. -/
def Cluster.serve (c : Cluster) (u : MatrixUnit) (pair : Nat) : Cluster :=
  match u with
  | .array => { c with lastArray := pair }
  | .loader => { c with lastLoader := pair }
  | .control => { c with lastControl := pair }

/-- A unit starts the head operation of a claim's queue (R261). -/
def State.startMat (s : State) (cluster : Nat) (u : MatrixUnit) : State :=
  if s.clusterGated cluster then s
  else match s.matChoice cluster ((s.cluster cluster).last u) u with
    | none => s
    | some (pair, crew, k, id, o, m) => (s.modCluster cluster fun c => c.serve u pair).runMat cluster pair crew k id o m

/-- A free pair granted to the earliest pending claim (R259, R266, R281). -/
def State.grantClaim (s : State) (cluster : Nat) : State :=
  let c := s.cluster cluster
  match c.pending, (List.range 4).find? fun p => (kget c.pairs p).isNone with
  | crew :: rest, some pair =>
    let claims := (s.crew crew).claims
    let at_ := claims.findIdx fun k => k.pair.isNone
    let t := (s.modCluster cluster fun x => { x with pending := rest, pairs := kset x.pairs pair crew }).modCrew crew fun x =>
      { x with claims := x.claims.zipIdx.map fun k => if k.2 = at_ then { k.1 with pair := some pair } else k.1 }
    match claims[at_]?.bind fun k => k.queue.head?.bind fun id => (t.matOp id).map fun m => (id, m.1, m.2) with
    | some (id, o, m) =>
      if m.fn = fnMclaim then
        (t.modCrew crew fun x => x.modClaim (fun k => k.pair == some pair) fun k => { k with queue := k.queue.drop 1 }).finishMat
          id o none
      else t
    | none => t
  | _, _ => s

/-! ## MSTAT (R269) -/

/-- The status word of a crew's claim: of the newer one where an MREL of the older has not started yet (DESIGN CHOICE, log entry 156). -/
def State.matStatus (s : State) (core crew : Nat) : Nat :=
  let pend := min 15 (s.cluster (clusterOf core)).pending.length
  match (s.crew crew).claims.getLast? with
  | none => pend * 2 ^ 20
  | some k =>
    let held := k.pair.isSome
    let act := k.active.filter fun _ => held
    let sha := k.shadow.filter fun _ => held
    let bit := fun (b : Bool) (n : Nat) => if b then 2 ^ n else 0
    bit held 24 + pend * 2 ^ 20 + min 8 k.queue.length * 2 ^ 16 + ((act.map Plane.k).getD 0) * 2 ^ 8 +
      k.pair.getD 0 * 2 ^ 6 + bit ((act.map Plane.int).getD false) 5 + bit ((sha.map Plane.int).getD false) 4 +
      bit sha.isSome 3 + bit act.isSome 2 + min 2 k.bufs.length

/-- The fibres of a crew among the owners of an operation. -/
def ownFids (crew : Nat) (l : List Owner) : List Nat :=
  l.filterMap fun w => match w with
    | .fibre c f _ => if c = crew then some f else none
    | .cont _ _ _ => none

/-- An operation that writes n G registers from c on completes: the registers, then the token (R42, R137, R138). -/
def State.finishUniform (s : State) (id : Nat) (o : Op) (k c n : Nat) (cause : Option Cause) (vals : List Word) : State :=
  let fids := ownFids o.issuer o.owners
  (({ s with ops := kdel s.ops id }.bump).modCrew o.issuer fun x =>
    (x.landG id k c vals fids fun m => Config.freeIndex s.free 4096 m).markDoneG id ((List.range n).map fun j => c + j)).completeAll
    o cause []

/-- The completion of MSTAT, which samples at this moment (R269). -/
def State.completeMstat (s : State) (id : Nat) (o : Op) (m : MatOp) : State :=
  if m.fn = fnMstat then s.finishUniform id o m.atile m.a 1 none [BitVec.ofNat 32 (s.matStatus o.core o.issuer)] else s

end Sys2Proof.Machine
end

