-- ==== Sys2Proof/Machine/Bulk.lean ====
section
/-! DEFINITION. The bulk transfer engine and the Wicket (R287 to R306): the BULK words, send records, posted receives, the
messages of the Wicket, its grants, and the events of both sides. -/

namespace Sys2Proof.Machine

/-- Entries of each table of the engine (R291, R293, R296). -/
def bulkTable : Nat := 16384
/-- Bytes of a full grant, and the unit of BX_PREFIX (R295, R297). -/
def grantBytes : Nat := 16384
/-- Bytes of the prefix store (R295). -/
def storeBytes64 : Nat := 67108864

/-! ## Completion (R133, R303) -/

/-- A crew whose completions are deferred into its image. -/
def Crew.away (c : Crew) : Bool := c.life == .saved || c.life == .halted || c.life == .restoring

/-- An operation of the bulk engine completes: its tokens, then its arrival (R18, R291), now or at the crew's restore (R303). -/
def State.finishBulk (s : State) (id : Nat) (c : Option Cause) (eng : List RelTag) (agent : Option Nat) : State :=
  match kget s.ops id with
  | none => s
  | some o =>
    if (s.crew o.issuer).away then
      { s with ops := kset s.ops id { o with stage := .logged } }.modCrew o.issuer fun x =>
        { x with deferred := x.deferred ++ [(id, c.getD 0, eng)] }
    else (({ s with ops := kdel s.ops id }).completeAll o c eng).arriveOp o.issuer o.bar agent

/-- The cause of an engine error of the bulk engine (R304). -/
def bulkCause : EngErr → Cause
  | .page _ _ => 0x86
  | .walk c => if c = 0x4A then 0x87 else 0x85
  | .data c => if c = 0x4D then 0x87 else 0x8E
  | .refused => 0x8E

/-- A Page Request of the bulk engine for an operation (R304). -/
def State.bulkPage (s : State) (id crew va : Nat) (w : Bool) : State :=
  s.pageRequest (s.crew crew).pasid (va / 4096) w (.op id)

/-! ## Sending (R291, R292, R302) -/

/-- The send records: a send beyond the table waits for one, in issue order. -/
def State.sendTable (s : State) : KMap Send := s.sends.take bulkTable

/-- Two sends of this chip have the same identity (R287). -/
def State.sameSend (s : State) (a b : MsgId) : Bool :=
  s.chipId a.gang a.dst == s.chipId b.gang b.dst && a.ep == b.ep && a.tag == b.tag

/-- A send ends: its record leaves, its token falls, and the BXCANCEL operations that named it know their result. A normal
end gives the next WAIT an acquire at SYSTEM scope (R292). -/
def State.endSend (s : State) (id : Nat) (c : Option Cause) : State :=
  match kget s.sends id with
  | none => s
  | some x =>
    let t := { s with sends := kdel s.sends id }.answerCancels x (if c = some 0x8C then 1 else 0)
    match c with
    | none => let (u, tag) := t.release (bulkAgent 0) .system; u.finishBulk id none [tag] none
    | some _ => t.finishBulk id c [] none

/-- A send fails on its own side: its receiver is told that the sender is gone (R304). -/
def State.failSend (s : State) (id : Nat) (c : Cause) : State :=
  match kget s.sends id with
  | none => s
  | some x => (if x.requested then s.tellDest x.id (.peerFault x.id false) else s).endSend id (some c)

/-- An engine error of a send: it waits for the page, or fails (R304). -/
def State.sendError (s : State) (id : Nat) (x : Send) (e : EngErr) : State :=
  match e with
  | .page va w => s.bulkPage id x.crew va w
  | .walk _ | .data _ | .refused => s.failSend id (bulkCause e)

/-- An operation that has gone on counts its reissues anew (R19). -/
def State.progress (s : State) (id : Nat) : State := { s with ops := kmod s.ops id fun o => { o with replays := 0 } }

/-- The request of a send with the prefix (R291, R295). -/
def State.sendRequest (s : State) (id : Nat) (x : Send) : State :=
  if s.sendTable.any fun y => decide (y.1 < id) && s.sameSend y.2.id x.id then s.endSend id (some 0x88)
  else
    let p := min x.len (grantBytes * s.prefixUnits)
    match s.engineRead (s.crew x.crew).pasid x.addr p with
    | (t, .error e) => t.sendError id x e
    | (t, .ok bs) =>
      ({ t with sends := kset t.sends id { x with requested := true, refused := none, sent := max x.sent p } }.progress id).tellDest
        x.id (.request x.id x.len x.pri bs)

/-- A send that is to send its request now. -/
def State.sendReady (s : State) (id : Nat) (x : Send) : Bool :=
  !x.requested && x.refused.isNone && !x.paused && !s.pageWaits (.op id)

/-- Every send record that can do so sends its request. -/
def State.kickSends (s : State) : Nat → State
  | 0 => s
  | n + 1 =>
    match kfind s.sendTable fun id x => s.sendReady id x with
    | some (id, x) => (s.sendRequest id x).kickSends n
    | none => s

/-- All of them. -/
def State.startSends (s : State) : State := s.kickSends (s.sends.length + 1)

/-- A send ends, and sends that waited for a record start. -/
def State.closeSend (s : State) (id : Nat) (c : Option Cause) : State := (s.endSend id c).startSends

/-- The first grant of a send served: its bytes are read and sent (R291). -/
def State.serveGrant (s : State) (id : Nat) (x : Send) (r : GrantRange) : State :=
  match s.engineRead (s.crew x.crew).pasid (x.addr + r.off) r.size with
  | (t, .error e) => t.sendError id x e
  | (t, .ok bs) =>
    ({ t with sends := kset t.sends id { x with grants := x.grants.drop 1, sent := max x.sent (r.off + r.size) } }.progress id).tellDest
      x.id (.data x.id r.off r.epoch bs)

/-- The grants of a send served one at a time, in the order in which they arrived. -/
def State.serveGrants (s : State) (id : Nat) : Nat → State
  | 0 => s
  | n + 1 =>
    match kget s.sends id with
    | none => s
    | some x =>
      if x.paused || s.pageWaits (.op id) then s
      else match x.grants with
        | [] => s
        | r :: _ => (s.serveGrant id x r).serveGrants id n

/-- A grant reaches the sender (R291, R301). One for a send that a cancel waits for has crossed the cancel, which is sent again. -/
def State.takeGrant (s : State) (id : Nat) (r : GrantRange) : State :=
  match kget s.sends id with
  | none => s
  | some x =>
    if x.paused || !x.requested || r.epoch != x.epoch || decide (x.len < r.off + r.size) then s
    else if !x.cancels.isEmpty then s.tellDest x.id (.cancelled x.id false)
    else ({ s with sends := kset s.sends id { x with accepted := true, grants := x.grants ++ [r] } }.serveGrants id
      (x.grants.length + 1)).startSends

/-- A request was refused 10 µs ago: it is sent anew, from the start of the source (R302), or the send ends where a cancel waits for it
(R291, R305). -/
def State.retryRequest (s : State) (id : Nat) : State :=
  match kget s.sends id with
  | none => s
  | some x =>
    let early := (x.refused.map fun t => decide (s.tick < t + 10000)).getD false
    if x.accepted || early || !(x.requested || x.refused.isSome) then s
    else if !x.cancels.isEmpty then s.closeSend id (some 0x8C)
    else
      let y := { x with requested := false, refused := none, sent := 0, epoch := 0 }
      let t := { s with sends := kset s.sends id y }
      if x.paused then t else (t.sendRequest id y).startSends

/-- The Wicket refuses a request of this chip. -/
def State.noteRefusal (s : State) (id : Nat) : State :=
  match kget s.sends id with
  | none => s
  | some x =>
    if !x.cancels.isEmpty then s.closeSend id (some 0x8C)
    else { s with sends := kset s.sends id { x with requested := false, refused := some s.tick, sent := 0, epoch := 0 } }

/-- The send of this chip that an identity names. -/
def State.sendOf (s : State) (id : MsgId) : Option (Nat × Send) := kfind s.sendTable fun _ x => x.id == id

/-! ## Receiving (R293, R294) -/

/-- A receive whose record is written, or that has failed: it leaves, its token falls, and its sender is told. -/
def State.endRecv (s : State) (id : Nat) (e : RecvEnd) (c : Option Cause) : State :=
  let t := { s with recvs := kdel s.recvs id }
  let (u, tag) := t.release (bulkAgent e.io) .package
  let v := u.finishBulk id c (if c = none then [tag] else []) (some (bulkAgent e.io))
  match e.msg with
  | some m => if e.tell then v.tellSource m (if c = none then endNotice m e.status else .peerFault m true) else v
  | none => v

/-- A receive in a terminal state: its record is written at its home before the token falls (R293, R294). -/
def State.closeRecv (s : State) (id : Nat) (r : Recv) (e : RecvEnd) : State :=
  let x := s.crew r.crew
  if r.record = 0 then s.endRecv id e none
  else match s.engineWrites (bulkAgent e.io) (some r.crew) x.pasid [(r.record, e.bytes)] with
    | (t, .ok ()) => t.endRecv id e none
    | (t, .error (.page va w)) => { t with recvs := kset t.recvs id { r with ending := some e } }.bulkPage id r.crew va w
    | (t, .error f) => t.endRecv id e (some (bulkCause f))

/-- A message in a terminal state leaves the Wicket (R300): its receive completes, or its sender is told at once. -/
def State.endMsg (s : State) (mid : Nat) (status : Nat) (tell : Bool) : State :=
  match kget s.msgs mid with
  | none => s
  | some m =>
    let t := { s with msgs := kdel s.msgs mid
                      bxOrphaned := if status = stOrphaned then s.bxOrphaned + 1 else s.bxOrphaned }
    match m.recv.bind fun r => (kget s.recvs r).map fun x => (r, x) with
    | some (rid, r) => t.closeRecv rid { r with bound := none } (m.ending r status tell)
    | none => if tell then t.tellSource m.id (endNotice m.id status) else t

/-- A message fails on the receiving side (R304): its receive completes with the error and no record. -/
def State.failMsg (s : State) (mid : Nat) (c : Cause) : State :=
  match kget s.msgs mid with
  | none => s
  | some m =>
    let t := { s with msgs := kdel s.msgs mid }
    match m.recv.bind fun r => (kget s.recvs r).map fun x => (r, x) with
    | some (rid, r) => t.endRecv rid (m.ending r stCancelled true) (some c)
    | none => t.tellSource m.id (.peerFault m.id true)

/-! ## The Wicket (R295 to R301) -/

/-- A message with a function applied. -/
def State.modMsg (s : State) (mid : Nat) (f : Msg → Msg) : State := { s with msgs := kmod s.msgs mid f }

/-- The bytes that the prefix store holds (R295). -/
def State.stored (s : State) : Nat :=
  s.msgs.foldl (fun n m => if m.2.recv.isSome then n else n + m.2.wait.foldl (fun k w => k + w.2.length) 0) 0

/-- The grants outstanding on a port (R297). -/
def State.outstanding (s : State) (port : Nat) : Nat :=
  s.msgs.foldl (fun n m => if m.2.port = port then n + m.2.grants.length else n) 0

/-- The window of a port has room. No window limits what arrives through no port. -/
def State.windowRoom (s : State) (port : Nat) : Bool :=
  port == ownPort || decide (s.outstanding port < (kgetD s.ports port {}).wg)

/-- A message reaches COMPLETE when it has nothing more to come (R300). -/
def State.checkComplete (s : State) (mid : Nat) : State :=
  match kget s.msgs mid with
  | none => s
  | some m =>
    match m.recv.bind fun r => kget s.recvs r with
    | none => s
    | some r =>
      if (m.state == .ready || m.state == .flight) && m.u.isEmpty && m.grants.isEmpty && m.wait.isEmpty &&
          (rangeIn m.missing 0 m.pre).isEmpty then
        s.endMsg mid (if r.len < m.len then stTruncated else stDone) true
      else s

/-- The bytes of a bound message that have arrived written into the buffer, those at or beyond its length discarded (R293). -/
def State.writeWait (s : State) (mid : Nat) : Nat → State
  | 0 => s
  | n + 1 =>
    match kget s.msgs mid with
    | none => s
    | some m =>
      match m.wait, m.recv.bind fun r => (kget s.recvs r).map fun x => (r, x) with
      | (off, bs) :: rest, some (rid, r) =>
        if s.pageWaits (.op rid) then s
        else
          let part := bs.take (r.len - off)
          match s.engineWrites (bulkAgent (ioOf m.port)) (some r.crew) (s.crew r.crew).pasid
              (if part.isEmpty then [] else [(r.addr + off, part)]) with
          | (t, .ok ()) => ((t.progress rid).modMsg mid fun m => { m with wait := rest }).writeWait mid n
          | (t, .error (.page va w)) => t.bulkPage rid r.crew va w
          | (t, .error e) => t.failMsg mid (bulkCause e)
      | _, _ => s

/-- What has arrived is written, and the message may be complete. -/
def State.settleMsg (s : State) (mid : Nat) : State :=
  (s.writeWait mid ((((kget s.msgs mid).map fun m => m.wait.length).getD 0) + 1)).checkComplete mid

/-- A message and a receive are bound (R293, R300). -/
def State.bindMsg (s : State) (mid rid : Nat) : State :=
  match kget s.msgs mid, kget s.recvs rid with
  | some m, some r =>
    let n := m.room r
    let m' := { m with recv := some rid, u := rangeIn m.u 0 n, missing := rangeIn m.missing 0 n
                       state := if m.state == .unmatched then .ready else m.state
                       since := if m.state == .unmatched then s.tick else m.since }
    { s with msgs := kset s.msgs mid m', recvs := kset s.recvs rid { r with bound := some mid } }.settleMsg mid
  | _, _ => s

/-- A receive matches a message (R293). -/
def Recv.takes (r : Recv) (id : MsgId) : Bool := r.ep == id.ep && (r.any || r.tag == id.tag)

/-- A posted receive that no message is bound to. -/
def Recv.free (r : Recv) : Bool := r.bound.isNone && r.ending.isNone

/-- The Wicket accepts or refuses a request with its prefix (R291, R295, R296, R300). -/
def State.wicketRequest (s : State) (id : MsgId) (len pri port : Nat) (bytes : List Byte) : State :=
  if (kfind s.msgs fun _ m => m.id == id).isSome || len == 0 || decide (len < bytes.length) then s
  else if bulkTable ≤ s.msgs.length then s.tellSource id (.refuse id)
  else
    let dest := kfind s.recvs fun _ r => r.free && r.takes id
    let drop := dest.isNone && decide (storeBytes64 < s.stored + bytes.length)
    let p := if drop then 0 else bytes.length
    let (mid, t) := s.fresh
    let m : Msg := { id := id, len := len, pri := pri, port := port, pre := p, recv := none, u := rangeOf p len
                     missing := rangeOf p len, wait := if p = 0 then [] else [(0, bytes)], since := s.tick
                     state := .unmatched }
    let u := { t with msgs := kset t.msgs mid m
                      sends := if s.chipId id.gang id.src = s.sysId ∧ s.chipId id.gang id.dst = s.sysId then
                        kmap t.sends fun _ x => if x.id = id then { x with accepted := true } else x else t.sends }
    match dest with
    | some (rid, _) => u.bindMsg mid rid
    | none => u

/-- The message that an identity names. -/
def State.msgOf (s : State) (id : MsgId) : Option (Nat × Msg) := kfind s.msgs fun _ m => m.id == id

/-- Data of a message arrives (R299, R301): the bytes that have not arrived yet are written, and leave U or the grants that
hold them. -/
def State.wicketData (s : State) (id : MsgId) (off epoch : Nat) (bytes : List Byte) : State :=
  match s.msgOf id with
  | none => s
  | some (mid, m) =>
    if epoch ≠ m.epoch then s
    else
      let hi := off + bytes.length
      let new := rangeIn m.missing off hi
      if new.isEmpty then s
      else
        let parts := new.map fun r => (r.1, (bytes.drop (r.1 - off)).take (r.2 - r.1))
        let touched := fun (g : Grant) => !(rangeIn g.left off hi).isEmpty
        let begins := m.grants.any fun g => touched g.2 && !g.2.begun
        let grants := (kmap m.grants fun _ g =>
          if touched g then { g with begun := true, left := rangeOut g.left off hi } else g).filter fun g => !g.2.left.isEmpty
        (s.modMsg mid fun m =>
          { m with missing := rangeOut m.missing off hi, u := rangeOut m.u off hi, wait := m.wait ++ parts, grants := grants
                   ign := if begins then 0 else m.ign }).settleMsg mid

/-- The effective class of a message (R298). -/
def Msg.effClass (m : Msg) (now : Nat) : Nat := m.pri - (now - m.since) / 100000

/-- The message that R298 puts first of two. -/
def firstMsg (now : Nat) (a b : Nat × Msg) : Nat × Msg :=
  let ka := (a.2.effClass now, rangeSize a.2.u, a.1)
  let kb := (b.2.effClass now, rangeSize b.2.u, b.1)
  if ka.1 < kb.1 ∨ (ka.1 = kb.1 ∧ (ka.2.1 < kb.2.1 ∨ (ka.2.1 = kb.2.1 ∧ ka.2.2 ≤ kb.2.2))) then a else b

/-- The eligible READY messages of a port (R297, R298). -/
def State.eligible (s : State) (port : Nat) : KMap Msg :=
  s.msgs.filter fun m => m.2.port == port && m.2.state == .ready && !m.2.u.isEmpty && !m.2.notReady

/-- Why the pages of a range cannot be written, none when they are present and writable; nothing changes. -/
def State.pagesReady (s : State) (pasid va n : Nat) : Option EngErr :=
  ((pagePieces (n / 4096 + 2) va n).filterMap fun p =>
    match (s.pagePa pasid p.1 true).2 with
    | .error e => some e
    | .ok _ => none).head?

/-- A grant issued to a message: the lowest 16 KiB of U's lowest range (R297, R300). -/
def State.giveGrant (s : State) (mid : Nat) (m : Msg) (lo size : Nat) : State :=
  let (gid, t) := s.fresh
  let u := rangeOut m.u lo (lo + size)
  let g : Grant := ⟨lo, size, m.epoch, s.tick, false, rangeOf lo (lo + size)⟩
  let m' := { m with u := u, grants := kset m.grants gid g, since := s.tick, state := if u.isEmpty then .flight else .ready }
  { t with msgs := kset t.msgs mid m', bxGrants := t.bxGrants + 1 }.tellSource m.id (.grant m.id ⟨lo, size, m.epoch⟩)

/-- The Wicket grants to the first eligible message of a port whose window has room (R297, R298). -/
def State.wicketGrant (s : State) (port : Nat) : State :=
  match s.eligible port with
  | [] => s
  | x :: l =>
    if !s.windowRoom port then s
    else
      let (mid, m) := l.foldl (firstMsg s.tick) x
      match m.u, m.recv.bind fun r => (kget s.recvs r).map fun y => (r, y) with
      | (lo, hi) :: _, some (rid, r) =>
        let n := min grantBytes (hi - lo)
        match s.pagesReady (s.crew r.crew).pasid (r.addr + lo) n with
        | none => s.giveGrant mid m lo n
        | some (.page va w) => (s.modMsg mid fun m => { m with notReady := true }).bulkPage rid r.crew va w
        | some e => s.failMsg mid (bulkCause e)
      | _, _ => s

/-- A grant of a message that has not been begun expires (R299): its bytes go back to U. -/
def Msg.expire (m : Msg) (gid : Nat) (g : Grant) : Msg :=
  { m with grants := kdel m.grants gid, u := rangeAdds m.u g.left }

/-- The expiry of a grant by timer (R299, R300): not in the tick in which its first byte may still come (R301). -/
def State.wicketExpiry (s : State) (mid gid : Nat) : State :=
  match kget s.msgs mid with
  | none => s
  | some m =>
    match kget m.grants gid with
    | none => s
    | some g =>
      if g.begun || decide (s.tick ≤ g.issued + 40000) || !(m.state == .ready || m.state == .flight) then s
      else
        let m' := { m.expire gid g with ign := m.ign + 1, state := .ready, since := if m.state == .flight then s.tick else m.since }
        let t := { s with msgs := kset s.msgs mid m', bxExpired := s.bxExpired + 1 }
        if 4 ≤ m'.ign then t.endMsg mid stOrphaned true else t

/-- A PAUSE (R300, R302): every grant not begun expires. -/
def State.wicketPause (s : State) (id : MsgId) : State :=
  match s.msgOf id with
  | none => s
  | some (mid, m) =>
    if m.state == .paused then s
    else
      let gone := m.grants.filter fun g => !g.2.begun
      let m' := gone.foldl (fun (x : Msg) g => x.expire g.1 g.2) m
      { s with msgs := kset s.msgs mid { m' with ign := 0, state := .paused }
               bxExpired := s.bxExpired + BitVec.ofNat 16 gone.length }

/-- A RESUME with an offset (R300, R302). -/
def State.wicketResume (s : State) (id : MsgId) (off : Nat) : State :=
  match s.msgOf id with
  | none => s
  | some (mid, m) =>
    if m.state != .paused then s
    else
      let m' := { m with u := rangeIn m.missing off m.len, epoch := m.epoch + 1
                         state := if m.recv.isSome then .ready else .unmatched, since := s.tick }
      { s with msgs := kset s.msgs mid m' }.checkComplete mid

/-! ## The host's answer to a Page Request of the engine (R183, R304) -/

/-- An operation of the engine goes on once its page is there. -/
def State.bulkRetry (s : State) (id : Nat) : State :=
  match kget s.sends id, kget s.recvs id with
  | some x, _ => (s.serveGrants id x.grants.length).startSends
  | none, some r =>
    match r.ending, r.bound with
    | some e, _ => s.closeRecv id { r with ending := none } e
    | none, some mid => (s.modMsg mid fun m => { m with notReady := false }).settleMsg mid
    | none, none => s
  | none, none => s

/-- The host denied a page of an operation of the engine, or did not answer (R304). -/
def State.bulkDenied (s : State) (id : Nat) : State :=
  match kget s.sends id, kget s.recvs id with
  | some _, _ => (s.failSend id 0x86).startSends
  | none, some r =>
    match r.ending, r.bound with
    | some e, _ => s.endRecv id e (some 0x86)
    | none, some mid => s.failMsg mid 0x86
    | none, none => s
  | none, none => s

/-! ## BXCANCEL and BXSTAT (R305, R306) -/

/-- The send that a query names. -/
def State.querySend (s : State) (q : BulkQuery) : Option (Nat × Send) := kfind s.sends fun _ x => s.sameSend x.id q.id

/-- The receive that a query names: the earliest posted that matches. -/
def State.queryRecv (s : State) (q : BulkQuery) : Option (Nat × Recv) :=
  kfind s.recvs fun _ r => r.ending.isNone && r.ep == q.id.ep && r.tag == q.id.tag && r.any == q.any

/-- What BXSTAT reads (R306). A send whose request has not been sent yet reads as state 2 (DESIGN CHOICE, log entry 158). -/
def State.bulkStatus (s : State) (q : BulkQuery) : Nat × Nat :=
  if q.side then
    match s.queryRecv q with
    | none => (0, 0)
    | some (_, r) =>
      match r.bound.bind fun b => kget s.msgs b with
      | none => (1, 0)
      | some m => (match m.state with | .unmatched | .ready => 4 | .flight => 5 | .paused => 6, m.room r - rangeSize m.missing)
  else
    match s.querySend q with
    | none => (0, 0)
    | some (_, x) => (if x.accepted then 3 else 2, x.sent)

/-- BXCANCEL or BXSTAT completes with the values of its registers, or with a cause, and arrives on its barrier (R289). -/
def State.endQuery (s : State) (id : Nat) (o : Op) (q : BulkQuery) (c : Option Cause) (vals : List Word) : State :=
  (s.finishUniform id o q.k q.c (if q.stat then 2 else 1) c vals).arriveOp o.issuer o.bar (some (bulkAgent 0))

/-- BXCANCEL or BXSTAT completes normally. -/
def State.finishQuery (s : State) (id : Nat) (o : Op) (q : BulkQuery) (vals : List Word) : State := s.endQuery id o q none vals

/-- BXCANCEL is applied (R305): it completes once the Wicket has applied the cancel. -/
def State.applyCancel (s : State) (id : Nat) (o : Op) (q : BulkQuery) : State :=
  if q.side then
    match s.queryRecv q with
    | none => s.finishQuery id o q [0]
    | some (rid, r) =>
      match r.bound with
      | some mid => (s.endMsg mid stCancelled true).finishQuery id o q [1]
      | none => (s.closeRecv rid r r.unbound).finishQuery id o q [1]
  else
    match s.querySend q with
    | none => s.finishQuery id o q [0]
    | some (sid, x) =>
      if x.requested then
        { s with sends := kset s.sends sid { x with cancels := x.cancels ++ [id] }
                 ops := kset s.ops id { o with stage := .running } }.tellDest x.id (.cancelled x.id false)
      else (s.closeSend sid (some 0x8C)).finishQuery id o q [1]

/-- The completion of BXCANCEL or BXSTAT; that of a saved crew waits for its restore (R20). -/
def State.completeQuery (s : State) (id : Nat) (o : Op) (q : BulkQuery) : State :=
  if (s.crew o.issuer).away then s
  else if q.stat then let r := s.bulkStatus q; s.finishQuery id o q [BitVec.ofNat 32 r.1, BitVec.ofNat 32 r.2]
  else match o.stage with
    | .issued => s.applyCancel id o q
    | .atHome => s.finishQuery id o q q.vals
    | .running | .done | .logged => s

/-! ## The BULK words (R288 to R290) -/

/-- Functions of BULK (R288). -/
def fnBxsend : Nat := 0
/-- BXRECV. -/
def fnBxrecv : Nat := 1
/-- BXCANCEL. -/
def fnBxcancel : Nat := 2
/-- BXSTAT. -/
def fnBxstat : Nat := 3

/-- The registers of an operand block. -/
def blockRegs (fn c : Nat) : List Nat :=
  (List.range (if fn = fnBxsend then 5 else if fn = fnBxrecv then 7 else 2)).map fun i => c + i

/-- A BULK operation from its operands: the address word, the control word, and the values of the block. -/
structure BulkPlan where
  fn : Nat
  side : Bool
  any : Bool
  bar : Option Nat
  pri : Nat
  chip : Nat
  ep : Nat
  tag : Nat
  len : Nat
  addr : Nat
  record : Nat
deriving DecidableEq, Repr

/-- The operation that the words of an operand block and an address word describe (R288, R289). -/
def bulkPlanOf (fn a : Nat) (ws : List Nat) : BulkPlan :=
  let ctrl := ws.getD 0 0
  let moves := fn == fnBxsend || fn == fnBxrecv
  { fn := fn, side := bitOf ctrl 27, any := bitOf ctrl 18, bar := if bitOf ctrl 26 then some (bitsOf ctrl 25 22) else none
    pri := bitsOf ctrl 21 19, chip := bitsOf a 21 12, ep := bitsOf a 11 0
    tag := if moves then ws.getD 4 0 else ws.getD 1 0
    len := if moves then ws.getD 3 0 else 0
    addr := if moves then ws.getD 1 0 + 2 ^ 32 * ws.getD 2 0 else 0
    record := if fn = fnBxrecv then ws.getD 5 0 + 2 ^ 32 * ws.getD 6 0 else 0 }

/-- The operation names a destination word (R289). -/
def BulkPlan.toDest (p : BulkPlan) : Bool := p.fn == fnBxsend || (p.fn != fnBxrecv && !p.side)

/-- Checks 2 to 6 of R290 for a crew of a gang of so many chips, with a table of a given depth. -/
def BulkPlan.check (p : BulkPlan) (ctrl a chips levels : Nat) (c : Crew) : Option Cause :=
  let moves := p.fn == fnBxsend || p.fn == fnBxrecv
  let wrong := fun (x : Nat) => !canonical levels x || x % 16 != 0
  if bitsOf ctrl 31 28 ≠ 0 ∨ bitsOf ctrl 17 0 ≠ 0 ∨ a / (if p.toDest then 2 ^ 22 else 2 ^ 12) ≠ 0 then some 0x80
  else if (moves && p.side) || (p.fn != fnBxsend && p.pri != 0) || (p.any && p.fn != fnBxrecv && (moves || !p.side)) then some 0x80
  else if moves && (p.len == 0 || decide (2 ^ 30 < p.len)) then some 0x82
  else if p.toDest && decide (chips ≤ p.chip) then some 0x83
  else if moves && (wrong p.addr || (p.record != 0 && wrong p.record)) then some 0x84
  else if (p.bar.map fun n => (c.bar n).expected == 0).getD false then some 0x3E
  else none

/-- A BULK word read and checked (R288 to R290). -/
def bulkPlan (s : State) (fn : Nat) (h : EngHdr) (e : Env) : Except LaneErr BulkPlan :=
  let regs := blockRegs fn h.c.val
  if regs.any fun n => decide (31 < n) then .error (0, 0x81)
  else match e.readU h.a 0, e.readGs regs with
    | .error x, _ => .error x
    | _, .error x => .error x
    | .ok a, .ok ws =>
      let p := bulkPlanOf fn a.toNat (ws.map BitVec.toNat)
      let chips := ((kget s.gangs e.crew.gang).map fun g => g.chips.length).getD 1
      match p.check (ws.headD 0).toNat a.toNat chips (s.levels e.crew.pasid) e.crew with
      | some c => .error (0, c)
      | none =>
        let due := if fn = fnBxcancel then [h.c.val] else if fn = fnBxstat then regs else []
        match e.strictGs due with
        | some x => .error x
        | none => .ok p

/-- The message identity that an operation names (R287). -/
def BulkPlan.msgId (p : BulkPlan) (gang mine : Nat) : MsgId := ⟨gang, mine, p.chip, p.ep, p.tag⟩

/-- An operation of the engine issued, on the tokens of the fibres that count (R288). It follows their release fences (R173). -/
def State.bulkOp (s : State) (i : Issue) (k : Nat) (kind : OpKind) (bar : Option Nat) (parts : List Nat) : Nat × State :=
  let (id, t) := s.fresh
  let fences := parts.flatMap fun f => ((t.crew i.crew).fibre f).fences
  let u := { t with ops := kset t.ops id { kind := kind, issuer := i.crew, core := i.core, word := i.word, modw := i.modw
                                           owners := ownersOf i.crew k parts, bar := bar } }
  let chips := u.gangChips i.crew
  (id, (u.synchronise (bulkAgent 0) .system chips fences).synchronise (bulkAgent 1) .system chips fences)

/-- BXSEND: a send record (R291). -/
def launchSend (k : Nat) (p : BulkPlan) (parts : List Nat) (i : Issue) (s : State) : State :=
  let (id, t) := s.bulkOp i k .send p.bar parts
  let g := (t.crew i.crew).gang
  let mine := ((kget t.gangs g).map Gang.mine).getD 0
  let x : Send := { crew := i.crew, id := p.msgId g mine, addr := p.addr, len := p.len, pri := p.pri, since := t.tick }
  { t with sends := kset t.sends id x }.startSends

/-- BXRECV: a posted receive, which may be bound at once (R293). -/
def launchRecv (k : Nat) (p : BulkPlan) (parts : List Nat) (i : Issue) (s : State) : State :=
  let (id, t) := s.bulkOp i k .recv p.bar parts
  if bulkTable ≤ (t.recvs.filter fun r => r.2.ending.isNone).length then t.finishBulk id (some 0x89) [] none
  else
    let r : Recv := { crew := i.crew, ep := p.ep, addr := p.addr, len := p.len, tag := p.tag, any := p.any, record := p.record }
    let u := { t with recvs := kset t.recvs id r }
    match kfind u.msgs fun _ m => m.recv.isNone && r.takes m.id with
    | some (mid, _) => u.bindMsg mid id
    | none => u

/-- BXCANCEL and BXSTAT: their registers are pending until they complete (R138). -/
def launchQuery (k c : Nat) (p : BulkPlan) (parts : List Nat) (i : Issue) (s : State) : State :=
  let x := s.crew i.crew
  let mine := ((kget s.gangs x.gang).map Gang.mine).getD 0
  let q : BulkQuery := { stat := p.fn == fnBxstat, side := p.side, id := p.msgId x.gang mine, any := p.any, k := k, c := c }
  let (id, t) := s.bulkOp i k (.query q) p.bar parts
  t.modCrew i.crew fun y => y.markG i.strict id (if p.fn = fnBxstat then [c, c + 1] else [c]) parts k

/-- A BULK word executed once for its group (R288). -/
def bulkWord (fn : Nat) (h : EngHdr) (launch : BulkPlan → List Nat → Issue → State → State) (s : State) :
    Host.Outcome State Fault Refusal :=
  engineWord h.k.val (fun _ => selRegs h.a 1 ++ blockRegs fn h.c.val) (bulkPlan s fn h) launch s

/-- BXSEND (R288, R291). -/
def execBxsend (h : EngHdr) (s : State) : Host.Outcome State Fault Refusal := bulkWord fnBxsend h (launchSend h.k.val) s

/-- BXRECV (R288, R293). -/
def execBxrecv (h : EngHdr) (s : State) : Host.Outcome State Fault Refusal := bulkWord fnBxrecv h (launchRecv h.k.val) s

/-- BXCANCEL (R288, R305). -/
def execBxcancel (h : EngHdr) (s : State) : Host.Outcome State Fault Refusal :=
  bulkWord fnBxcancel h (launchQuery h.k.val h.c.val) s

/-- BXSTAT (R288, R306). -/
def execBxstat (h : EngHdr) (s : State) : Host.Outcome State Fault Refusal := bulkWord fnBxstat h (launchQuery h.k.val h.c.val) s

end Sys2Proof.Machine
end

