-- ==== Sys2Proof/Machine/Hints.lean ====
section
/-! DEFINITION. The HINT words (R73 to R77): each joins the pending set of its group; and the fields of a MOD payload (R74). -/

namespace Sys2Proof.Machine

/-- The fields of a MOD payload (R74); STRICT and the unaccepted bits apart. -/
def modOf (w : Nat) : Mod :=
  { emod := bitsOf w 15 12, cp := bitsOf w 10 9, scope := bitsOf w 8 6, ord := bitsOf w 5 3, sat := bitOf w 2, rm := bitsOf w 1 0 }

/-- The address of a run's first HINT once a HINT at pc has joined it. -/
def Hints.start (h : Hints) (pc : Nat) : Nat :=
  if h.imm.isNone && h.immx.isNone && h.mod.isNone && h.sched.isNone && !h.dly then pc else h.first

/-- A HINT word executed (R76): it joins the pending set, or is the fault 0x12 when its kind is pending already. -/
def hintWord (pending : Hints → Bool) (join : Hints → Hints) (s : State) : Host.Outcome State Fault Refusal :=
  withIssue s fun i t =>
    if pending i.grp.hints then t.groupEffect i (0, 0x12)
    else
      let h := { join i.grp.hints with first := i.grp.hints.start i.pc }
      let u := t.endWord i i.grp.latches false []
      match i.gid with
      | some g => u.modCrew i.crew fun c => { c with groups := kmod c.groups g fun x => { x with hints := h } }
      | none => u

/-- HINT.IMM (R73). -/
def execHintImm (imm : BitVec 22) (s : State) : Host.Outcome State Fault Refusal :=
  hintWord (fun h => h.imm.isSome) (fun h => { h with imm := some imm }) s

/-- HINT.IMMX (R73). -/
def execHintImmx (imm : BitVec 10) (s : State) : Host.Outcome State Fault Refusal :=
  hintWord (fun h => h.immx.isSome) (fun h => { h with immx := some imm }) s

/-- The payload of a MOD hint (R74). -/
def modPayload (hi : BitVec 6) (emod : BitVec 4) (strict : Bool) (cp : BitVec 2) (scope ord : BitVec 3) (sat : Bool)
    (rm : BitVec 2) : BitVec 22 :=
  hi ++ emod ++ BitVec.ofBool strict ++ cp ++ scope ++ ord ++ BitVec.ofBool sat ++ rm

/-- HINT.MOD (R73, R74). -/
def execHintMod (hi : BitVec 6) (emod : BitVec 4) (strict : Bool) (cp : BitVec 2) (scope ord : BitVec 3) (sat : Bool)
    (rm : BitVec 2) (s : State) : Host.Outcome State Fault Refusal :=
  hintWord (fun h => h.mod.isSome) (fun h => { h with mod := some (modPayload hi emod strict cp scope ord sat rm) }) s

/-- HINT.SCHED (R73, R75). -/
def execHintSched (long : Bool) (pv : Bool) (phase : BitVec 4) (s : State) : Host.Outcome State Fault Refusal :=
  hintWord (fun h => h.sched.isSome) (fun h => { h with sched := some (long, pv, phase) }) s

/-- HINT.DLY (R73, R81): its count is the word's weight, which the issue of the word applies. -/
def execHintDly (_n : BitVec 5) (s : State) : Host.Outcome State Fault Refusal :=
  hintWord (fun h => h.dly) (fun h => { h with dly := true }) s

end Sys2Proof.Machine
end

