-- ==== Sys2Proof/Machine/FrameWords.lean ====
section
/-! DEFINITION. The EFFECT and SPAWN words (R321 to R345): hinges, PERFORM, RESUME, and the operations of the frame engine that
count on a token. -/

namespace Sys2Proof.Machine

/-! ## The shape of the family (R321) -/

/-- What a word of the family does to a selected fibre, from the environment before the word. -/
abbrev FrameAct := Issue → Env → FibreAct

/-- A word of the family: the budget and split checks of the group, then each selected fibre, none of which acts with 63
operations counted on token k (R132). -/
def frameWord (g : Guard) (srcs : List (Sel × Nat)) (d width k : Nat) (act : FrameAct) (s : State) :
    Host.Outcome State Fault Refusal :=
  withIssue s fun i t =>
    let e := envOf i t
    match groupCheck e srcs d width with
    | some x => t.groupEffect i x
    | none => t.control i (e.lanes g) fun u fid =>
      if !i.again && decide (63 ≤ ((e.crew.fibre fid).tok k).count) then (u, some (laneEff (9, 0x30) i.pc)) else act i e u fid

/-- The pair that an operand delivers on a lane, as a number. -/
def Env.pairAt (e : Env) (fid : Nat) (a : Sel) : Except LaneErr Nat :=
  match e.readPair (e.crew.fibre fid) fid a 0 with
  | .ok p => .ok (pairOf p.1 p.2).toNat
  | .error x => .error x

/-- The pair Vb, Vb+1 on a lane. -/
def Env.pairV (e : Env) (fid b : Nat) : Except LaneErr (Word × Word) :=
  match e.readVs (e.crew.fibre fid) fid b 2 with
  | .ok ws => .ok (ws.headD 0, ws.getD 1 0)
  | .error x => .error x

/-- A lane whose operand is refused. -/
def laneStop (s : State) (x : LaneErr) (i : Issue) : State × Option Eff := (s, some (laneEff x i.pc))

/-! ## Hinges (R322 to R325) -/

/-- HINST on a fibre (R322). -/
def State.hinst (s : State) (i : Issue) (instr : Instr) (fid mask hpc : Nat) : State × Option Eff :=
  let f := (s.crew i.crew).fibre fid
  if mask / 2 ^ 14 % 2 ^ 18 ≠ 0 then (s, faultAt 0x9E i)
  else match targetCause hpc true with
    | some c => (s, faultAt c i)
    | none => frameAct s i instr fid (s.pushSeg i.crew fid 1 0 false (hingeRecord mask hpc f.effmask.toNat)) fun t _ =>
      (t.modFibre i.crew fid fun f => { f with effmask := f.effmask ||| BitVec.ofNat 64 mask }, none)

/-- HINST (R321, R322). -/
def execHinst (h : EffHdr) (s : State) : Host.Outcome State Fault Refusal :=
  frameWord h.g [(h.a, 2)] h.b.val 2 0 (fun i e t fid =>
    match e.pairAt fid h.a, e.pairV fid h.b.val with
    | .ok mask, .ok p => t.hinst i (.hinst h) fid mask (pairOf p.1 p.2).toNat
    | .error x, _ => laneStop t x i
    | _, .error x => laneStop t x i) s

/-- HPOP (R324). -/
def execHpop (g : Guard) (s : State) : Host.Outcome State Fault Refusal :=
  frameWord g [] 0 1 0 (fun i _ t fid =>
    frameAct t i (.hpop g) fid (t.segHead i.crew ((t.crew i.crew).fibre fid).seg) fun u h =>
      if h.kind ≠ 1 then (u, faultAt 0x9C i)
      else frameAct u i (.hpop g) fid (u.popSeg i.crew fid h) fun v _ =>
        (v.modFibre i.crew fid fun f => { f with effmask := BitVec.ofNat 64 h.saved }, none)) s

/-! ## PERFORM (R327) -/

/-- PERFORM (R327). -/
def execPerform (h : EffHdr) (s : State) : Host.Outcome State Fault Refusal :=
  frameWord h.g [(h.a, 1)] h.b.val 1 0 (fun i e t fid =>
    let f := e.crew.fibre fid
    match e.read f fid h.a 0 0, e.readV f fid h.b.val 1 with
    | .ok l, .ok p =>
      let n := l.toNat
      if (14 ≤ n ∧ n ≤ 31) ∨ 63 < n then (t, faultAt 0x9E i)
      else (t, some { label := n, cause := 0, payload := p, dst := 0x40, rpc := i.pc + 4, prog := true })
    | .error x, _ => laneStop t x i
    | _, .error x => laneStop t x i) s

/-! ## Continuations read (R333 to R335, R339) -/

/-- A heap of a gang contains an address (R319, R339). -/
def State.gangHolds (s : State) (gang va : Nat) : Bool :=
  (s.crews.any fun c => c.2.gang == gang && c.2.life != .ended && c.2.segFrame.holds va) ||
    ((kget s.gangs gang).map fun g => g.pool.any fun r => r.holds va).getD false

/-- The record that a handle names (step 2 of R339): its virtual and physical address, or cause 0x92 or 0x91. -/
def State.findCont (s : State) (crew handle : Nat) : FrRes (Except Cause (Nat × Nat)) :=
  let c := s.crew crew
  let va := handle / 1024 * 1024
  if !canonical (s.levels c.pasid) va || !s.gangHolds c.gang va then (s, .ok (.error 0x92))
  else frThen (s.frameXl crew va .load) fun t pa =>
    if (t.segByte c.core (pa + 1)).toNat % 4 ≠ 2 then (t, .ok (.error 0x92))
    else if t.poisoned pa 1024 then (t, .error (.effect 12 0x4D))
    else if t.readNat (pa + 36) 2 % 1024 ≠ handle % 1024 then (t, .ok (.error 0x91))
    else (t, .ok (.ok (va, pa)))

/-- Values of STATE (R334). -/
def contLive : Byte := 1
/-- TAKEN. -/
def contTaken : Byte := 2
/-- DEAD. -/
def contDead : Byte := 3
/-- The state of a packed image. -/
def contPacked : Byte := 0x10

/-- The fields of a continuation header that the engine uses (R334), from its bytes and register body. -/
structure ContHead where
  bytes : List Byte
  live : Bool
  rev : Bool
  budget : Nat
  nseg : Nat
  gang : Nat
  rpc : Nat
  dest : Nat
  p : Nat
  top : Nat
  bottom : Nat
  pend : Nat
  fstat : Nat
  nreplay : Nat
  replay : Nat
deriving DecidableEq, Repr

/-- Bytes of a header and its register body (R334, R335). -/
def contBytes : Nat := 400

/-- A header read from its bytes. -/
def contHeadOf (bs : List Byte) : ContHead :=
  { bytes := bs, live := bs.headD 0 == contLive, rev := fieldLe bs 1 2 == 256, budget := (fieldLe bs 3 1 % 8 + 1) * 8
    nseg := fieldLe bs 6 2, gang := fieldLe bs 8 8, rpc := fieldLe bs 16 8, dest := fieldLe bs 26 1, p := fieldLe bs 27 1
    top := fieldLe bs 32 8, bottom := fieldLe bs 40 8, pend := fieldLe bs 88 8, fstat := fieldLe bs 96 4
    nreplay := fieldLe bs 100 4, replay := fieldLe bs 104 8 }

/-- The header of the record at a physical address. -/
def State.contHead (s : State) (pa : Nat) : ContHead := contHeadOf (s.readPas (contAt pa 0) contBytes)

/-- n entries of 32 bytes from a physical address on. -/
def State.entriesAt (s : State) (pa n : Nat) : List (List Byte) := (List.range n).map fun j => s.readPas (pa + 32 * j) 32

/-- The replay entries of a chain of replay segments, and the segments (R335). -/
def State.chainEntries (s : State) (crew : Nat) : Nat → Nat → Nat → FrRes (List (List Byte) × List Nat)
  | 0, _, _ => (s, .ok ([], []))
  | k + 1, n, va =>
    if n = 0 then (s, .ok ([], []))
    else frThen (s.frameXl crew va .load) fun t pa =>
      let here := t.entriesAt (pa + 32) (min n 31)
      frThen (t.chainEntries crew k (n - 31) (t.readNat pa 8 / 1024 * 1024)) fun u l =>
        (u, .ok (here ++ l.1, va :: l.2))

/-- The replay entries of a record, and its replay segments; an emergency record holds its own (R318). -/
def State.contEntries (s : State) (crew va pa : Nat) (h : ContHead) : FrRes (List (List Byte) × List Nat) :=
  if h.nreplay = 0 then (s, .ok ([], []))
  else if h.replay = va then (s, .ok (s.entriesAt (contAt pa contBytes) (min h.nreplay 18), []))
  else s.chainEntries crew (h.nreplay / 31 + 1) h.nreplay h.replay

/-- The kind of an entry (R335): 0 REISSUE, 1 ATTACHED, 2 TRACK. -/
def entryKind (e : List Byte) : Nat := fieldLe e 4 4 / 2 ^ 30

/-- The memory request of a REISSUE or ATTACHED entry, with the trap enables of the continuation. -/
def entryReq (e : List Byte) (fstat seq : Nat) : Option MemReq :=
  let w := fieldLe e 0 4
  let modw := fieldLe e 4 4 % 2 ^ 22
  let m := modOf modw
  let ea := fieldLe e 8 8
  let cause := BitVec.ofNat 8 (fieldLe e 4 4 / 2 ^ 22)
  let base : MemReq := { fn := .ifence, space := .global, word := w, modw := modw, k := 0, d := 0, ea := ea, n := 0, data := []
                         order := ordOf m.ord, scope := scopeOfMod m.scope, cp := cpOf m.cp, traps := fstat / 256 % 32
                         cause := cause, page := ea / 4096, seq := seq, pos := 0 }
  match decodeWord w with
  | .fault _ => none
  | .ok i =>
    match memShape i with
    | some x => some { base with
        fn := x.fn, space := x.space, k := x.h.k.val, d := x.h.d.val, n := x.n
        data := (List.range x.reads).map fun j => BitVec.ofNat 32 (fieldLe e (16 + 4 * j) 4) }
    | none => match i with
      | .fence _ o sc => some { base with fn := .fence o, order := o, scope := sc }
      | .ifence _ sc => some { base with scope := sc }
      | _ => none

/-- The token of an entry's word and the V registers that its operation writes. -/
def entryDest (e : List Byte) : Nat × List Nat :=
  match decodeWord (fieldLe e 0 4) with
  | .fault _ => (0, [])
  | .ok (.kstat h) => (h.k.val, [h.b.val])
  | .ok (.kpack h) => (h.k.val, [h.b.val])
  | .ok (.kunpack h) => (h.k.val, [h.b.val, h.b.val + 1])
  | .ok i => match memShape i with
    | some x => (x.h.k.val, (List.range x.writes).map fun j => x.h.d.val + j)
    | none => (0, [])

/-- The pending marks of a resumed fibre (R334): on the token of an entry whose destination the register is, or cleared by the
first WAIT on any token. -/
def pendMarks (mask : Nat) (entries : List (List Byte)) : KMap Pend :=
  ((List.range 64).filter fun n => bitOf mask n).map fun n =>
    match entries.find? fun e => (entryDest e).2.contains n with
    | some e => (n, ⟨some (entryDest e).1, entryKind e == 2 && bitOf (fieldLe e 16 1) 0, none⟩)
    | none => (n, ⟨none, true, none⟩)

/-! ## RESUME (R339) -/

/-- ACTIVE cleared on the nearest ACTIVE hinge at or below a segment (step 5 of R339). -/
def State.clearActive (s : State) (crew seg : Nat) : FrRes Unit :=
  frThen (s.searchDown crew (fun h => h.kind == 1 && h.active) 257 seg []) fun t r =>
    match r with
    | some (_, h) => t.frameWrite crew (h.va + 56) [0]
    | none => (t, .ok ())

/-- The captured segments relinked, bottom first (step 6 of R339): OWNER, the bottom's LINK, each hinge's SAVED; the EFFMASK
after. -/
def State.relink (s : State) (crew fid link : Nat) (mask : Word64) : List SegHead → FrRes Word64
  | [] => (s, .ok mask)
  | h :: hs =>
    let c := s.crew crew
    frThen (s.frameWrite crew (h.va + 24) (leBytes 4 (ownerOf c.tag fid))) fun t _ =>
    frThen (if link = 0 then (t, .ok ()) else t.frameWrite crew h.va (leBytes 8 (link + h.kind * 256))) fun u _ =>
    if h.kind = 1 then
      frThen (u.frameWrite crew (h.va + 48) (leBytes 8 mask.toNat)) fun v _ =>
        v.relink crew fid 0 (mask ||| BitVec.ofNat 64 h.mask) hs
    else u.relink crew fid 0 mask hs

/-- An owner in a record that a fibre has resumed is the fibre. -/
def Owner.adopt (w : Owner) (pa crew fid : Nat) : Owner :=
  match w with
  | .cont r k _ => if r = pa then .fibre crew fid k else w
  | .fibre _ _ _ => w

/-- Operations that a record tracked complete on a fibre from now on (R336), and result buffers that such an operation was the last to be
written into open at the fibre's WAIT (R278). -/
def State.adoptTracked (s : State) (pa crew fid : Nat) : State :=
  let own := fun (l : List Owner) => l.map fun w => w.adopt pa crew fid
  { s with ops := kmap s.ops fun _ o => { o with owners := own o.owners }
           crews := kmap s.crews fun _ c => { c with claims := c.claims.map fun k =>
             { k with bufs := k.bufs.map fun b => { b with owners := own b.owners } } } }

/-- Operations that a record tracks and that have not completed, or whose DONE is still to be written (R335). -/
def State.tracks (s : State) (pa : Nat) : Bool :=
  (s.ops.any fun o => o.2.stage != .done && o.2.owners.any fun w => match w with
    | .cont r _ _ => r == pa
    | .fibre _ _ _ => false) ||
  s.pages.any fun p => p.2.waiters.any fun w => match w with
    | .entry r _ => r == pa
    | .fibre _ _ | .op _ | .held _ _ | .queue _ | .packet _ _ | .node _ _ _ | .crew _ _ => false

/-- A record and its replay segments freed (R337), with its new STATE. -/
def State.freeRecord (s : State) (gang va : Nat) (reps : List Nat) : State :=
  (va :: reps).foldl (fun (t : State) a => t.unuseSeg gang a) s

/-- The fibre of a resumed continuation (step 7 of R339), with its memory requests put back (step 8). -/
def resumedFibre (f : Fibre) (b : Nat) (h : ContHead) (toks : KMap Tok) (entries : List (List Byte)) (seq : Nat)
    (mask : Word64) : Fibre :=
  let reqs := entries.zipIdx.filterMap fun e => (entryReq e.1 h.fstat (seq + e.2)).map fun r => (entryKind e.1, r)
  let attached := (reqs.filter fun r => r.1 == 1).map Prod.snd
  { f with
    v := (List.range b).map fun n => (n, if n < h.budget then BitVec.ofNat 32 (fieldLe h.bytes (128 + 4 * n) 4) else 0)
    vwin := [], wrote := [], p := BitVec.ofNat 7 h.p, pwin := []
    x := (List.range 4).map fun n =>
      let w := fieldLe h.bytes (384 + 4 * n) 4
      (n, ⟨bitsOf w 5 0, bitsOf w 15 6, bitsOf w 25 16⟩)
    xwin := [], fstat := BitVec.ofNat 32 h.fstat, fpend := [], effmask := mask, pc := h.rpc, k := toks
    pend := pendMarks h.pend entries
    replay := (reqs.filter fun r => r.1 == 0).map Prod.snd
    attached := attached
    merr := ((toks.filter fun t => t.2.err && 0x40 ≤ t.2.cause.toNat && decide (t.2.cause.toNat < 0x60)).map fun t =>
      (t.1, ((attached.find? fun r => r.k == t.1).map MemReq.seq).getD seq))
    raced := fieldLe h.bytes 24 1 == 5 && fieldLe h.bytes 25 1 != 0
    depth := f.depth + h.nseg, seg := if h.nseg = 0 then f.seg else h.top }

/-- Steps 4 to 8 of R339 once the checks have passed. -/
def State.takeResume (s : State) (crew fid va pa : Nat) (h : ContHead) (lo hi : Word) : FrRes Unit :=
  let c := s.crew crew
  let f := c.fibre fid
  frThen (s.contSegs crew h.nseg h.top) fun s1 segs =>
  frThen (s1.contEntries crew va pa h) fun s2 er =>
  frThen (s2.clearActive crew f.seg) fun s3 _ =>
  frThen (s3.relink crew fid f.seg f.effmask segs.reverse) fun s4 mask =>
  frThen (if h.nseg = 0 then (s4, .ok ()) else s4.setCurrent crew fid h.top) fun s5 _ =>
    let toks := (List.range 16).map fun k => (k, s5.contTok pa k)
    let seq := s5.nextId
    let s6 := { s5 with nextId := s5.nextId + er.1.length }
    let s7 := s6.modFibre crew fid fun f => (resumedFibre f c.b h toks er.1 seq mask).deliverTo h.dest lo hi
    let s8 := (s7.writeHome (contAt pa 0) [contTaken]).adoptTracked pa crew fid
    let tags := kgetD s8.tags (contAt pa 0) []
    let s9 := (s8.acquire c.core .package []).1.synchronise c.core .package [] tags
    ((s9.freeRecord c.gang va er.2).reissue crew fid, .ok ())

/-- RESUME of a fibre (R339). -/
def State.resumeFibre (s : State) (i : Issue) (instr : Instr) (fid handle : Nat) (lo hi : Word) : State × Option Eff :=
  s.waitTokens i instr fid fun t =>
    frameAct t i instr fid (t.findCont i.crew handle) fun u r =>
      match r with
      | .error c => (u, faultAt c i)
      | .ok (va, pa) =>
        let h := u.contHead pa
        let c := u.crew i.crew
        if !h.rev then (u, some { causeEff 0x95 i.pc with stay := true, cont := some pa })
        else if c.b < h.budget then (u, some (laneEff (8, 0x94) i.pc))
        else if 256 < (c.fibre fid).depth + h.nseg then (u, faultAt 0x99 i)
        else if !h.live then (u, faultAt 0x90 i)
        else frameAct u i instr fid (u.takeResume i.crew fid va pa h lo hi) fun v _ => (v, none)

/-- RESUME (R339). -/
def execResume (h : EffHdr) (s : State) : Host.Outcome State Fault Refusal :=
  frameWord h.g [(h.a, 2)] h.b.val 2 0 (fun i e t fid =>
    match e.pairAt fid h.a, e.pairV fid h.b.val with
    | .ok handle, .ok p => t.resumeFibre i (.resume h) fid handle p.1 p.2
    | .error x, _ => laneStop t x i
    | _, .error x => laneStop t x i) s

/-! ## DROP, KSTAT, KPACK and KUNPACK at issue (R340 to R343) -/

/-- Functions of EFFECT that count on a token. -/
def fnDrop : Nat := 4
/-- KSTAT. -/
def fnKstat : Nat := 5
/-- KPACK. -/
def fnKpack : Nat := 6
/-- KUNPACK. -/
def fnKunpack : Nat := 7

/-- An operation of the frame engine in flight for a fibre, its destination registers pending (R132, R138). -/
def State.launchFrame (s : State) (i : Issue) (fid k : Nat) (o : FrameOp) (regs : List Nat) : State :=
  let (id, t) := s.fresh
  let u := t.modFibre i.crew fid fun f =>
    let g := f.countUp k
    if i.strict then g.markPend k regs else g
  { u with ops := kset u.ops id { kind := .frame o fid, issuer := i.crew, core := i.core, word := i.word, modw := i.modw
                                  owners := [.fibre i.crew fid k] } }

/-- One fibre of such a word: an image address is checked at issue (R342, R343), and the destinations under strict mode. -/
def frameLane (fn k b : Nat) (a : Sel) (regs : List Nat) (i : Issue) (e : Env) (s : State) (fid : Nat) : State × Option Eff :=
  let f := e.crew.fibre fid
  match e.pairAt fid a, (if fn = fnKpack then e.pairV fid b else .ok (0, 0)) with
  | .error x, _ => laneStop s x i
  | _, .error x => laneStop s x i
  | .ok av, .ok bv =>
    let image := if fn = fnKunpack then av else (pairOf bv.1 bv.2).toNat
    if (fn = fnKpack ∨ fn = fnKunpack) ∧ canonical (s.levels e.crew.pasid) image = false then (s, faultAt 0x42 i)
    else if (fn = fnKpack ∨ fn = fnKunpack) ∧ image % 16 ≠ 0 then (s, faultAt 0x40 i)
    else match (regs.filterMap fun n => f.strictV i.strict n).head? with
      | some x => laneStop s x i
      | none => (s.launchFrame i fid k { fn := fn, addr := av, image := image, b := b, pos := f.pos } regs, none)

/-- DROP (R340). -/
def execDrop (g : Guard) (k : Fin 16) (a : Sel) (s : State) : Host.Outcome State Fault Refusal :=
  frameWord g [(a, 2)] 0 1 k.val (frameLane fnDrop k.val 0 a []) s

/-- KSTAT (R341). -/
def execKstat (h : GEngHdr) (s : State) : Host.Outcome State Fault Refusal :=
  frameWord h.g [(h.a, 2)] h.b.val 1 h.k.val (frameLane fnKstat h.k.val h.b.val h.a [h.b.val]) s

/-- KPACK (R342). -/
def execKpack (h : GEngHdr) (s : State) : Host.Outcome State Fault Refusal :=
  frameWord h.g [(h.a, 2)] h.b.val 2 h.k.val (frameLane fnKpack h.k.val h.b.val h.a [h.b.val]) s

/-- KUNPACK (R343). -/
def execKunpack (h : GEngHdr) (s : State) : Host.Outcome State Fault Refusal :=
  frameWord h.g [(h.a, 2)] h.b.val 2 h.k.val (frameLane fnKunpack h.k.val h.b.val h.a [h.b.val, h.b.val + 1]) s

/-! ## Their completion (R340 to R343) -/

/-- The registers that an operation of the frame engine writes at its completion. -/
def FrameOp.dests (f : FrameOp) : List Nat :=
  if f.fn = fnKstat ∨ f.fn = fnKpack then [f.b] else if f.fn = fnKunpack then [f.b, f.b + 1] else []

/-- An operation of the frame engine completes with register results or a cause. -/
def State.finishFrame (s : State) (id : Nat) (o : Op) (f : FrameOp) (c : Option Cause) (eng : List RelTag) (vals : List Word) :
    State :=
  o.owners.foldl (fun (t : State) w => t.completeFor w c eng f.dests f.pos vals) { s with ops := kdel s.ops id }

/-- An operation's page request, noted in it. -/
def State.framePage (s : State) (id : Nat) (o : Op) (f : FrameOp) (fid va : Nat) (w heap : Bool) : State :=
  { s with ops := kset s.ops id { o with kind := .frame { f with heap := heap } fid, page := some va } }.pageRequest
    (s.crew o.issuer).pasid (va / 4096) w (.op id)

/-- An error of KPACK after its take: the continuation is LIVE again (R337, R342). -/
def State.untake (s : State) (pa : Nat) : State := s.writeHome (contAt pa 0) [contLive]

/-- An operation that ends with an error: a continuation that KPACK has taken is LIVE again (R337, R342). -/
def State.giveBack (s : State) (f : FrameOp) : State := if f.taken ∧ f.fn = fnKpack then s.untake f.record else s

/-- A frame-heap access of an operation that fails: it waits for the page (R319), or the operation completes with the cause, which is FAULT or
POISON at the WAIT on its token (R16). -/
def State.frameFail (s : State) (id : Nat) (o : Op) (f : FrameOp) (fid : Nat) : FrErr → State
  | .page va w => s.framePage id o f fid va w true
  | .effect _ c => (s.giveBack f).finishFrame id o f (some c) [] []

/-- An image access of an operation that fails (R252, R342). -/
def State.imageFail (s : State) (id : Nat) (o : Op) (f : FrameOp) (fid : Nat) : EngErr → State
  | .page va w => s.framePage id o f fid va w false
  | .walk c => s.finishFrame id o f (some c) [] []
  | .data c => s.finishFrame id o f (some c) [] []
  | .refused => s.finishFrame id o f (some 0x5F) [] []

/-- A frame-heap action of an operation: its error leaves the state before it. -/
def State.frameOpThen {α : Type} (s : State) (id : Nat) (o : Op) (f : FrameOp) (fid : Nat) (r : FrRes α)
    (k : State → α → State) : State :=
  match r with
  | (t, .ok a) => k t a
  | (_, .error x) => s.frameFail id o f fid x

/-- The segments of a record freed: those captured, and with it when its tracked operations are over the record itself. -/
def State.freeSegs (s : State) (gang : Nat) (segs : List SegHead) : State :=
  segs.foldl (fun (t : State) h => t.unuseSeg gang h.va) s

/-- DROP (R340): the take, then the record when every tracked operation has completed. -/
def State.completeDrop (s : State) (id : Nat) (o : Op) (f : FrameOp) (fid : Nat) : State :=
  let c := s.crew o.issuer
  s.frameOpThen id o f fid (s.findCont o.issuer f.addr) fun t r =>
    match r with
    | .error x => t.finishFrame id o f (some x) [] []
    | .ok (va, pa) =>
      let h := t.contHead pa
      let g := { f with taken := true, record := pa }
      let last := fun (u : State) =>
        if u.tracks pa then u
        else u.frameOpThen id { o with stage := .running } g fid (u.contEntries o.issuer va pa h) fun v er =>
          let (w, tag) := (v.freeRecord c.gang va er.2).release o.core .package
          w.finishFrame id o f none [tag] []
      if f.taken then last t
      else if !h.live then t.finishFrame id o f (some 0x90) [] []
      else t.frameOpThen id o f fid (t.contSegs o.issuer h.nseg h.top) fun u segs =>
        let v := (u.writeHome (contAt pa 0) [contDead]).freeSegs c.gang segs
        last { v with ops := kset v.ops id { o with kind := .frame g fid, stage := .running } }

/-- KSTAT (R341). -/
def State.completeKstat (s : State) (id : Nat) (o : Op) (f : FrameOp) (fid : Nat) : State :=
  s.frameOpThen id o f fid (s.findCont o.issuer f.addr) fun t r =>
    match r with
    | .error x => if x = 0x91 then t.finishFrame id o f none [] [0] else t.finishFrame id o f (some x) [] []
    | .ok (_, pa) =>
      let bs := (t.contHead pa).bytes
      let val := fieldLe bs 0 1 + 256 * (fieldLe bs 24 1 % 64) + 65536 * fieldLe bs 25 1
      t.finishFrame id o f none [] [BitVec.ofNat 32 val]

/-- A segment as a packed image holds it (R342). -/
def packSeg (bs : List Byte) : List Byte := leBytes 8 (fieldLe bs 0 8 % 1024) ++ (bs.drop 8).take 16 ++ leBytes 4 noOwner ++ bs.drop 28

/-- The segments of a continuation as an image holds them, in the order of a list. -/
def State.packSegs (s : State) (crew : Nat) : List SegHead → FrRes (List Byte)
  | [] => (s, .ok [])
  | h :: hs =>
    frThen (s.frameRead crew h.va 1024) fun t bs =>
      frThen (t.packSegs crew hs) fun u more => (u, .ok (packSeg bs ++ more))

/-- The header of an image (R342). -/
def packHead (bs : List Byte) : List Byte :=
  let b1 := overlay bs 0 [contPacked]
  let b2 := overlay b1 4 (leBytes 2 (fieldLe bs 4 2 / 1024 * 1024))
  overlay (overlay b2 32 (leBytes 16 0)) 104 (leBytes 8 0)

/-- The image of a continuation. -/
def State.packImage (s : State) (crew va pa : Nat) (h : ContHead) : FrRes (List Byte × List SegHead × List Nat) :=
  frThen (s.contSegs crew h.nseg h.top) fun t segs =>
  frThen (t.contEntries crew va pa h) fun u er =>
  frThen (u.packSegs crew segs.reverse) fun v sb =>
    (v, .ok (packHead h.bytes ++ er.1.flatten ++ sb, segs, er.2))

/-- The releases that a record carries: its capture's, and those of the completions that its tokens hold (R220). -/
def State.contTags (s : State) (pa : Nat) : List RelTag :=
  (List.range 16).foldl (fun l n => addTags l (s.contTok pa n).eng) (kgetD s.tags (contAt pa 0) [])

/-- Steps 3 and 4 of KPACK (R342): the record taken, the image written, and what held the continuation freed. A page of the image that is not
there holds the operation; any other error gives the continuation back. -/
def State.kpackWrite (s : State) (id : Nat) (o : Op) (f : FrameOp) (fid va pa : Nat) : State :=
  let c := s.crew o.issuer
  let g := { f with taken := true, record := pa }
  let o' := { o with stage := .running }
  let h := s.contHead pa
  s.frameOpThen id o f fid (s.packImage o.issuer va pa h) fun t x =>
    let agent := t.agentOf o.core
    let tags := t.contTags pa
    let u := ((t.writeHome (contAt pa 0) [contTaken]).acquire o.core .package []).1.synchronise o.core .package [] tags
    match u.engineWrites agent (some o.issuer) c.pasid [(f.image, x.1)] with
    | (v, .error (.page a w)) => v.imageFail id o' g fid (.page a w)
    | (v, .error e) => (v.untake pa).imageFail id o f fid e
    | (v, .ok ()) =>
      let (w, tag) := ((v.freeSegs c.gang x.2.1).freeRecord c.gang va x.2.2).release o.core .package
      w.finishFrame id o f none [tag] [BitVec.ofNat 32 x.1.length]

/-- KPACK (R342): it waits for the tracked operations, then takes the record and writes the image, or changes nothing. -/
def State.completeKpack (s : State) (id : Nat) (o : Op) (f : FrameOp) (fid : Nat) : State :=
  s.frameOpThen id o f fid (s.findCont o.issuer f.addr) fun t r =>
    match r with
    | .error x => t.finishFrame id o f (some x) [] []
    | .ok (va, pa) =>
      let h := t.contHead pa
      if f.taken then t.kpackWrite id o f fid va pa
      else if !h.live then t.finishFrame id o f (some 0x90) [] []
      else if t.tracks pa then s
      else t.kpackWrite id o f fid va pa

/-- A packed header is well formed (R343): its state, NSEG, and the bits that R63, R334 and R335 reserve or hold at 0. -/
def imageHeadOk (bs : List Byte) : Bool :=
  let toks := (List.range 16).all fun k => !bitOf (fieldLe bs (56 + 2 * k) 1) 7
  let xs := (List.range 4).all fun n => fieldLe bs (384 + 4 * n) 4 / 2 ^ 26 == 0
  bs.headD 0 == contPacked && decide (fieldLe bs 6 2 ≤ 256) && fieldLe bs 3 1 / 8 == 0 && fieldLe bs 4 2 / 1024 == 0 &&
    fieldLe bs 24 1 / 64 == 0 && fieldLe bs 27 1 / 128 == 0 && fieldLe bs 112 16 == 0 &&
    fieldLe bs 96 4 / 32 % 8 == 0 && fieldLe bs 96 4 / 2 ^ 13 == 0 && toks && xs

/-- A segment of an image is well formed: its kind, and the bits that are 0 in its header and hinge record (R315, R323). -/
def imageSegOk (bs : List Byte) : Bool :=
  let w := fieldLe bs 0 8
  decide (w / 256 % 4 < 2) && w % 128 == 0 && fieldLe bs 16 8 / 2 == 0 &&
    (w / 256 % 4 == 0 || (fieldLe bs 56 1 / 2 == 0 && fieldLe bs 57 39 == 0))

/-- An entry of an image is well formed: its kind, and the bits that are 0 in a TRACK entry (R335). -/
def imageEntryOk (e : List Byte) : Bool :=
  entryKind e != 3 && (entryKind e != 2 || fieldLe e 16 16 / 2 == 0)

/-- A string cut into pieces of n bytes. -/
def pieces : Nat → Nat → List Byte → List (List Byte)
  | 0, _, _ => []
  | k + 1, n, bs => bs.take n :: pieces k n (bs.drop n)

/-- The segments of an image written, bottom first, each linked to the one before. -/
def State.unpackSegs (s : State) (crew : Nat) : Nat → List (Nat × List Byte) → FrRes Unit
  | _, [] => (s, .ok ())
  | link, (va, bs) :: l =>
    frThen (s.writeSegHome crew va (leBytes 8 (link + fieldLe bs 0 8 % 1024) ++ (bs.drop 8).take 16 ++ leBytes 4 noOwner ++
      bs.drop 28)) fun t _ => t.unpackSegs crew va l

/-- A continuation built from an image in segments that have been allocated; its handle, and the release with which it was written (R343). -/
def State.unpackInto (s : State) (crew rec : Nat) (before : Bool) (reps vas : List Nat) (head : List Byte)
    (entries segs : List (List Byte)) : FrRes (Nat × RelTag) :=
  frThen (s.nextGen crew rec before) fun t gen =>
  frThen (t.unpackSegs crew 0 (vas.zip segs)) fun u _ =>
  frThen (u.writeReplay crew reps (chunks31 reps.length entries)) fun v _ =>
    let h1 := overlay head 0 [contLive]
    let h2 := overlay h1 4 (leBytes 2 gen)
    let h3 := overlay h2 32 (leBytes 8 (vas.getLast?.getD 0) ++ leBytes 8 (vas.headD 0))
    let h4 := overlay h3 104 (leBytes 8 (reps.headD 0))
    frThen (v.writeSegHome crew rec (segHeader (reps.headD 0) 2 false 0 false noOwner v.age ++ h4)) fun w pa =>
      let (x, tag) := w.release (w.crew crew).core .package
      (x.setContTags pa tag {}, .ok (rec / 1024 * 1024 + gen, tag))

/-- KUNPACK with a header read (R343). -/
def State.unpackBody (s : State) (id : Nat) (o : Op) (f : FrameOp) (fid : Nat) (head : List Byte) : State :=
  let c := s.crew o.issuer
  let nseg := fieldLe head 6 2
  let nrep := fieldLe head 100 4
  if !imageHeadOk head then s.finishFrame id o f (some 0x97) [] []
  else match s.engineRead c.pasid (f.image + contBytes) (32 * nrep + 1024 * nseg) with
    | (t, .error e) => t.imageFail id o f fid e
    | (t, .ok bs) =>
      let entries := pieces nrep 32 bs
      let segs := pieces nseg 1024 (bs.drop (32 * nrep))
      if !(entries.all imageEntryOk && segs.all imageSegOk) then t.finishFrame id o f (some 0x97) [] []
      else if fieldLe head 8 8 ≠ c.gang then t.finishFrame id o f (some 0x93) [] []
      else match t.allocRecord o.issuer (ceilDiv nrep 31) with
        | some (u, rec, reps) =>
          let before := c.records.contains rec || ((kget s.gangs c.gang).map fun g => g.poolRecords.contains rec).getD false
          match u.allocSegs o.issuer nseg with
          | none => t.finishFrame id o f (some 0x98) [] []
          | some (v, vas) => t.frameOpThen id o f fid (v.unpackInto o.issuer rec before reps vas head entries segs) fun w h =>
              w.finishFrame id o f none [h.2] [BitVec.ofNat 32 h.1, BitVec.ofNat 32 (h.1 / 2 ^ 32)]
        | none => t.finishFrame id o f (some 0x98) [] []

/-- KUNPACK (R343). -/
def State.completeKunpack (s : State) (id : Nat) (o : Op) (f : FrameOp) (fid : Nat) : State :=
  match s.engineRead (s.crew o.issuer).pasid f.image contBytes with
  | (t, .error e) => t.imageFail id o f fid e
  | (t, .ok head) => t.unpackBody id o f fid head

/-- The completion of an operation of the frame engine. -/
def State.completeFrame (s : State) (id : Nat) (o : Op) (f : FrameOp) (fid : Nat) : State :=
  let c := s.crew o.issuer
  if s.pageWaits (.op id) || !c.working then s
  else if f.fn = fnDrop then s.completeDrop id o f fid
  else if f.fn = fnKstat then s.completeKstat id o f fid
  else if f.fn = fnKpack then s.completeKpack id o f fid
  else s.completeKunpack id o f fid

/-- The host denied a page of an operation, or did not answer: an image access completes with the cause, and a frame-heap access
terminates the crew (R319, R342). -/
def State.frameDenied (s : State) (id : Nat) (o : Op) (f : FrameOp) (c : Cause) : State :=
  let t := s.giveBack f
  if f.heap then t.terminate o.issuer 0x9F noFibre 0 else t.finishFrame id o f (some c) [] []

/-! ## SPAWN (R36, R345) -/

/-- The lowest empty position of a crew's reservation (R36). -/
def Crew.emptyPosition (c : Crew) : Option Nat := 
  (List.range (64 * ceilDiv c.n 64)).find? fun fid => (kget c.fibres fid).isNone

/-- The push of SPAWN on the issuing fibre. -/
def State.pushSpawn (s : State) (e : Env) (fid : Nat) (r : Bool) : State × Option Eff :=
  let x := e.changeP fid 4 (fun p => pushP p r) ((s.crew e.iss.crew).fibre fid)
  (s.modFibre e.iss.crew fid fun _ => x.1, x.2)

/-- A new fibre (R345). -/
def newFibre (f : Fibre) (lo hi : Word) (seg start : Nat) : Fibre :=
  { v := [(0, lo), (1, hi)], fstat := f.fstatNow &&& 0x1F00, seg := seg, pc := start }

/-- SPAWN on a fibre (R345): the target and header checks, then a fibre where a position and a segment are free. -/
def State.spawnFibre (s : State) (i : Issue) (e : Env) (instr : Instr) (fid start : Nat) (lo hi : Word) : State × Option Eff :=
  match targetCause start true with
  | some c => (s, faultAt c i)
  | none =>
    match s.checkHeader i start with
    | (t, some x) => (t, some x)
    | (t, none) =>
      if e.iss.strict && (e.crew.fibre fid).inPWin then (t, some (laneEff strictWindow i.pc))
      else match (t.crew i.crew).emptyPosition with
        | none => t.pushSpawn e fid false
        | some new =>
          match t.firstSeg i.crew new with
          | (_, .error (.effect 0 0x98)) => t.pushSpawn e fid false
          | (u, .ok seg) =>
            let f := (u.crew i.crew).fibre fid
            let v := u.modCrew i.crew fun c => { c with fibres := kset c.fibres new (newFibre f lo hi seg start)
                                                        created := c.created + 1 }
            (v.enter i.crew new).pushSpawn e fid true
          | (_, .error (.page va w)) => (t.holdPage i instr fid va w, none)
          | (_, .error (.effect l c)) => (t, some (laneEff (l, c) i.pc))

/-- SPAWN (R345): lanes that the guard excludes push false. -/
def execSpawn (h : EffHdr) (s : State) : Host.Outcome State Fault Refusal :=
  withIssue s fun i t =>
    let e := envOf i t
    match groupCheck e [(h.a, 2)] h.b.val 2 with
    | some x => t.groupEffect i x
    | none =>
      let l := e.lanes h.g
      let outs := e.changeAll 4 (fun p => pushP p false) l.out
      let u := t.modCrew i.crew fun c => c.putFibres outs
      u.control i { l with bad := l.bad ++ effsOf outs } fun v fid =>
        if !i.again && decide (63 ≤ ((e.crew.fibre fid).tok 0).count) then (v, some (laneEff (9, 0x30) i.pc))
        else match e.pairAt fid h.a, e.pairV fid h.b.val with
          | .ok start, .ok p => v.spawnFibre i e (.spawn h) fid start p.1 p.2
          | .error x, _ => laneStop v x i
          | _, .error x => laneStop v x i

end Sys2Proof.Machine
end

