-- ==== Sys2Proof/Machine/Regs.lean ====
section
/-! DEFINITION. The management space (R181, R309, R354, R373 to R376, R389 to R392): reads and writes of its registers by a head
or by SYS words, and what firmware and the command engine keep in the threshold area (R375). -/

namespace Sys2Proof.Machine

/-- Stage READY (R407). -/
def stageReady : Nat := 5

/-! ## The threshold area (R375) -/

/-- STATE of a descriptor (R353). -/
def QState.code : QState → Nat
  | .disabled => 0
  | .active => 1
  | .error => 2
  | .adopting => 3

/-- The 32 bytes of a queue descriptor (R353). -/
def Queue.descriptor (q : Queue) : List Byte :=
  leBytes 8 q.ring ++ leBytes 1 q.logsz ++ leBytes 1 (q.pri + 128 * q.head) ++ leBytes 1 q.vermin ++ leBytes 1 q.vermaj ++
    leBytes 4 q.pasid ++ leBytes 2 q.vec ++ leBytes 1 q.state.code ++ [q.errc] ++ leBytes 12 0

/-- Bytes written at an offset of the threshold area, once firmware has placed it. -/
def State.writeThr (s : State) (off : Nat) (bs : List Byte) : State :=
  if s.stage = stageReady then s.writePas (Config.hdmBase + s.thr + off) bs else s

/-- A queue. -/
def State.queue (s : State) (q : Nat) : Queue := kgetD s.queues q {}

/-- A queue set, with its entry of the threshold area. -/
def State.setQueue (s : State) (q : Nat) (x : Queue) : State :=
  { s with queues := kset s.queues q x }.writeThr (0x1000 + 48 * q) (x.descriptor ++ leBytes 8 x.rptr ++ leBytes 8 x.done)

/-- A queue with a function applied. -/
def State.modQueue (s : State) (q : Nat) (f : Queue → Queue) : State := s.setQueue q (f (s.queue q))

/-- The header of the threshold area written. -/
def State.writeThrHead (s : State) : State :=
  s.writeThr 0 (leBytes 8 s.epoch ++ leBytes 8 (s.head 0).hb ++ leBytes 8 (s.head 1).hb ++
    leBytes 1 (s.primary + if s.failover then 2 else 0))

/-! ## Reports about the package -/

/-- A report about no gang (R398): its queue, head, and the address concerned. -/
def State.plainReport (s : State) (c : Cause) (q head addr : Nat) : State :=
  s.report ⟨s.tick, 0, q, c, causeClass c, noFibre, addr, head⟩

/-! ## Heartbeats and adoption (R376) -/

/-- The other head. -/
def otherHead (head : Nat) : Nat := 1 - head

/-- A heartbeat of a head: with its link up it has not failed. -/
def State.heartbeat (s : State) (head : Nat) : State :=
  (s.modHead head fun h => { h with hb := s.tick, failed := h.failed && !h.linkUp }).writeThrHead

/-- A head fails: the other one is told, and the threshold area says so. -/
def State.failHead (s : State) (head : Nat) : State :=
  if (s.head head).failed then s
  else ({ s.modHead head fun h => { h with failed := true } with failover := true }.writeThrHead).plainReport 0xBE 0
    (otherHead head) head

/-- A queue bound to a failed head, bound to the claiming one. -/
def Queue.adopted (q : Queue) (head : Nat) : Queue := { q with head := head, state := .adopting }

/-- The interrupts that a failed head still owes, due at the claiming head (R376). -/
def State.moveVectors (s : State) (head : Nat) : State :=
  let t := { s with vectors := kmap s.vectors fun _ v => if v.head = otherHead head then { v with head := head } else v }
  (kkeys t.vectors).foldl (fun (u : State) v => if (u.vector v).cnt ≤ (u.vector v).pend then u.sendVector v else u) t

/-- The reports that are held for a failed head go to the claiming one (R376). -/
def State.moveReports (s : State) (head : Nat) : State :=
  let late := s.held.filter fun r => r.head == otherHead head
  late.foldl (fun (t : State) r => t.toHost { r with head := head }) { s with held := s.held.filter fun r => r.head != otherHead head }

/-- A write of CE_ADOPT: the claim of the queues of the failed partner, or the report of a refusal. -/
def State.claimQueues (s : State) (head val : Nat) : State :=
  if (s.head (otherHead head)).failed && val == (s.epoch + 1) % 2 ^ 32 then
    let mine := (s.queues.filter fun q => q.2.head == otherHead head).map Prod.fst
    let t := mine.foldl (fun (t : State) q => t.modQueue q fun x => x.adopted head) s
    ((({ t with epoch := s.epoch + 1, primary := head }.writeThrHead).moveVectors head).moveReports head)
  else s.plainReport 0xAE 0 head val

/-! ## Flushes of translations (R181) -/

/-- Operations in flight that have translated through an entry of a PASID, or of any. -/
def State.translatedOps (s : State) (all : Bool) (pasid : Nat) : List Nat :=
  (s.ops.filter fun o => o.2.walked && (all || (s.crew o.2.issuer).pasid == pasid)).map Prod.fst

/-- The TLB entries that a flush leaves. -/
def unflushed (all : Bool) (pasid : Nat) (l : List TlbEntry) : List TlbEntry := l.filter fun e => !(all || e.pasid == pasid)

/-- A write of XL_FLUSH: the leases end, and BUSY is set until the accesses translated through them have reached their homes.
A write while BUSY is 1 is ignored. -/
def State.startFlush (s : State) (all : Bool) (pasid : Nat) : State :=
  if s.flushBusy then s
  else { s with flushBusy := true, flushAll := all, flushPasid := pasid, flushOps := s.translatedOps all pasid
                cores := kmap s.cores fun _ c => { c with tlb := unflushed all pasid c.tlb }
                dies := kmap s.dies fun _ d => { d with tlb := unflushed all pasid d.tlb } }

/-! ## The command block (R373, R374) -/

/-- The key of an occupancy counter of a core: BUSY, IDLE and PARKED of each phase. -/
def occKey (phase kind : Nat) : Nat := 3 * phase + kind

/-- An occupancy counter read, and cleared (R373). -/
def State.readOcc (s : State) (core phase kind : Nat) : State × Nat :=
  (s.modCore core fun c => { c with occ := kdel c.occ (occKey phase kind) }, kgetD (s.core core).occ (occKey phase kind) 0 % 2 ^ 48)

/-- IC_VECn as it reads (R374). -/
def Vector.word (v : Vector) : Nat := v.cnt + 2 ^ 16 * v.time + 2 ^ 48 * v.pend

/-- A write of IC_VECn. -/
def Vector.write (v : Vector) (x : Nat) : Vector := { v with time := bitsOf x 25 16, cnt := if x % 256 = 0 then 1 else x % 256 }

/-! ## The bulk block (R309) -/

/-- BX_PORTn as it reads. -/
def Port.word (p : Port) : Nat := p.wg + 2 ^ 8 * p.wgmax + 2 ^ 32 * p.rtt

/-- A write of BX_PORTn. -/
def Port.write (p : Port) (x : Nat) : Port := if x % 256 = 0 ∨ p.wgmax < x % 256 then p else { p with wg := x % 256 }

/-! ## SYS_ROUTE (R391, R398) -/

/-- A write of SYS_ROUTE: a class whose field is 00 keeps its owner. -/
def routeWrite (old : BitVec 26) (x : Nat) : BitVec 26 :=
  BitVec.ofNat 26 ((List.range 13).foldl (fun n k =>
    let f := x / 4 ^ k % 4
    n + 4 ^ k * (if f = 0 then old.toNat / 4 ^ k % 4 else f)) 0)

/-! ## The mailbox (R392) -/

/-- MB_CTRL as it reads. -/
def Mailbox.word (m : Mailbox) : Nat := m.reg + 2 ^ 32 * m.status + (if m.busy then 2 ^ 62 else 0)

/-- The mailbox functions (R393). -/
def mailFunctions : List Nat := [0x01, 0x10, 0x20, 0x30, 0x40, 0x50, 0x60, 0x70, 0x71, 0x72]

/-- A write of MB_CTRL: FUNC is stored, and GO starts it. A GO write while the mailbox is busy is ignored. A function that does not exist,
or that the device does not serve yet, completes at once. -/
def Mailbox.write (m : Mailbox) (ready : Bool) (seq x : Nat) : Mailbox :=
  let y := { m with reg := x % 2 ^ 16 }
  if !bitOf x 63 then y
  else if m.busy then m
  else if !ready then { y with func := y.reg, status := 1 }
  else if mailFunctions.contains y.reg then { y with func := y.reg, seq := seq, busy := true }
  else { y with func := y.reg, status := 2 }

/-- Eight payload bytes written. -/
def Mailbox.store (m : Mailbox) (off x : Nat) : Mailbox :=
  { m with payload := ((leBytes 8 x).foldl (fun (p : KMap Byte × Nat) b => (kset p.1 p.2 b, p.2 + 1)) (m.payload, off)).1 }

/-- n payload bytes. -/
def Mailbox.bytes (m : Mailbox) (off n : Nat) : List Byte := (List.range n).map fun i => kgetD m.payload (off + i) 0

/-! ## Reads and writes (R389, R407) -/

/-- Where an offset of the management space lies (R389): a block and the offset in it. -/
inductive Place where
  | system (off : Nat)
  | mail (off : Nat)
  | xl (off : Nat)
  | bulk (off : Nat)
  | command (off : Nat)
  | bell (q off : Nat)
  | none
deriving DecidableEq, Repr

/-- The place of an offset. -/
def placeOfReg (o : Nat) : Place :=
  if o < 0x10000 then .system o
  else if o < 0x11000 then .mail (o - 0x10000)
  else if 0x20000 ≤ o ∧ o < 0x21000 then .xl (o - 0x20000)
  else if 0x30000 ≤ o ∧ o < 0x31000 then .bulk (o - 0x30000)
  else if 0x200000 ≤ o ∧ o < 0x400000 then .command (o - 0x200000)
  else if 0x400000 ≤ o ∧ o < 0x800000 then .bell ((o - 0x400000) / 4096) (o % 4096)
  else .none

/-- SYS_STATUS as a head reads it (R391). -/
def State.statusWord (s : State) (head : Nat) : Nat := s.stage * 16 + if (s.head head).nr then 8 else 0

/-- An access to a block that is not ready: NR is set, and the access is reported (R407, R412). -/
def State.notReady (s : State) (head off : Nat) : State :=
  (s.modHead head fun h => { h with nr := true }).plainReport 0xB8 0 head off

/-- An access of a head to a register that is served at READY alone; below, it is ignored (R407). -/
def State.hostAccess (s : State) (head off : Nat) (k : State → State) : State := if s.stage = stageReady then k s else s.notReady head off

/-- Words of the command block (R373 to R376). -/
def State.readCommand (s : State) (off : Nat) : State × Nat :=
  if off = 0x10 then (s, s.epoch % 2 ^ 32)
  else if 0x8000 ≤ off ∧ off < 0xC000 then (s, (s.vector ((off - 0x8000) / 8)).word)
  else if 0x100000 ≤ off ∧ off < 0x100000 + 384 * Config.cores then
    let k := (off - 0x100000) % 384
    s.readOcc ((off - 0x100000) / 384) (k / 24) (k % 24 / 8)
  else (s, 0)

/-- A register of the management space read by a head or, through CSRR, by a crew of its queues (R389, R407). -/
def State.readReg (s : State) (head off : Nat) : State × Nat :=
  if s.stage ≠ stageReady ∧ off ≠ 0 ∧ off ≠ 8 then (s.notReady head off, 0)
  else match placeOfReg off with
    | .system o =>
      (s, if o = 0 then s.statusWord head else if o = 8 then s.tick % 2 ^ 64 else if o = 0x10 then s.thr
          else if o = 0x18 then s.route.toNat else if o = 0x20 then (s.head head).evw else 0)
    | .mail o =>
      (s, if o = 0 then (s.head head).mail.word else if 0x100 ≤ o then leNat ((s.head head).mail.bytes o 8) else 0)
    | .xl o =>
      (s, if o = 0 then s.xlLease else if o = 8 then s.xlHorizon
          else if o = 0x10 then s.flushPasid + (if s.flushAll then 2 ^ 20 else 0) + (if s.flushBusy then 2 ^ 63 else 0) else 0)
    | .bulk o =>
      (s, if o = 0 then s.prefixUnits
          else if o = 8 then s.bxGrants.toNat + 2 ^ 32 * s.bxExpired.toNat + 2 ^ 48 * s.bxOrphaned.toNat
          else if 0x100 ≤ o ∧ o < 0x180 then (kgetD s.ports ((o - 0x100) / 8) {}).word else 0)
    | .command o => s.readCommand o
    | .bell q o =>
      let x := s.queue q
      (s, if x.head ≠ head then 0 else if o = 8 then x.rptr
          else if o = 0x10 then x.state.code + 2 ^ 8 * x.errc.toNat + 2 ^ 32 * (x.erridx % 2 ^ 32) else 0)
    | .none => (s, 0)

/-- A queue put in ERROR with a cause, which is reported (R357). -/
def State.queueError (s : State) (q : Nat) (c : Cause) (idx : Nat) : State :=
  (s.modQueue q fun x => { x with state := .error, errc := c, erridx := idx % 2 ^ 32 }).plainReport c q (s.queueHead q) idx

/-- A write of NOTIFY (R354). -/
def State.notifyQueue (s : State) (head q wptr : Nat) : State :=
  let x := s.queue q
  if x.head ≠ head ∨ x.state = .disabled ∨ wptr < x.wptr then s
  else if x.rptr + 2 ^ x.logsz < wptr then (if x.state = .error then s else s.queueError q 0xAA x.rptr)
  else s.modQueue q fun x => { x with wptr := wptr }

/-- A register of the management space written by a head or through CSRW (R389, R407). Below READY a function of the mailbox that GO starts
completes with NOT_READY, and every other write is ignored. -/
def State.writeReg (s : State) (head off val : Nat) : State :=
  if s.stage ≠ stageReady ∧ off ≠ 0 ∧ off ≠ 8 ∧ ¬(off = 0x10000 ∧ bitOf val 63 = true) then s.notReady head off
  else match placeOfReg off with
    | .system o =>
      if o = 0 then (if bitOf val 3 then s.modHead head fun h => { h with nr := false } else s)
      else if o = 0x18 then { s with route := routeWrite s.route val } else s
    | .mail o =>
      if o = 0 then
        let t := { s with mails := s.mails + 1 }.modHead head fun h => { h with mail := h.mail.write (s.stage == stageReady) s.mails val }
        if s.stage = stageReady then t else t.notReady head off
      else if 0x100 ≤ o then s.modHead head fun h => { h with mail := h.mail.store o val } else s
    | .xl o =>
      if o = 0 then (if val % 128 = 0 ∨ 64 < val % 128 then s else { s with xlLease := val % 128 })
      else if o = 0x10 then s.startFlush (bitOf val 20) (val % 2 ^ 20) else s
    | .bulk o =>
      if o = 0 then (if 16 < val % 32 then s else { s with prefixUnits := val % 32 })
      else if 0x100 ≤ o ∧ o < 0x180 then
        { s with ports := kset s.ports ((o - 0x100) / 8) ((kgetD s.ports ((o - 0x100) / 8) {}).write val) }
      else s
    | .command o =>
      if o = 0 then (if head = 0 then s.heartbeat 0 else s)
      else if o = 8 then (if head = 1 then s.heartbeat 1 else s)
      else if o = 0x10 then s.claimQueues head (val % 2 ^ 32)
      else if 0x8000 ≤ o ∧ o < 0xC000 then
        { s with vectors := kset s.vectors ((o - 0x8000) / 8) ((s.vector ((o - 0x8000) / 8)).write val) }
      else s
    | .bell q o => if o = 0 then s.notifyQueue head q val else s
    | .none => s

end Sys2Proof.Machine
end

