-- ==== Sys2Proof/Machine/Command.lean ====
section
/-! DEFINITION. The command engine's shared work (R21, R24 to R28, R39, R316, R319, R355 to R365): reads, writes and atomics for a
queue, the checks of packets and launches, gangs, placement, and the start of crews. -/

namespace Sys2Proof.Machine

/-! ## Accesses for a queue (R356, R359, R360) -/

/-- Bytes that the command engine writes at their homes for a queue. -/
def State.cmdWrite (s : State) (pasid va : Nat) (bs : List Byte) : State × Except EngErr Unit :=
  match s.placePieces pasid (bytePieces (bs.length / 4096 + 2) va bs) with
  | (t, .error x) => (t, .error x)
  | (t, .ok ps) =>
    match ps.findSome? fun p => t.mergeCause (p.1 / 128) with
    | some c => (t, .error (engErr c))
    | none =>
      (ps.foldl (fun (u : State) p =>
        u.applyBytes p.1 (p.2.2.map fun b => ⟨b, false, 0, [], u.tick, false⟩)) t, .ok ())

/-- A 64-bit atomic of the command engine at its home; false when the address cannot be written (R359, R360). -/
def State.cmdAtomic (s : State) (pasid va : Nat) (f : Nat → Nat) : State × Bool :=
  match s.engineXl pasid va .store with
  | (t, .fault _) => (t, false)
  | (t, .ok pa cacheable) =>
    if !cacheable || (t.dataCause pa 8).isSome || (t.mergeCause (pa / 128)).isSome then (t, false)
    else
      (t.applyBytes pa ((leBytes 8 (f (t.readNat pa 8) % 2 ^ 64)).zipIdx.map fun b =>
        ⟨b.1, false, 0, kgetD t.tags (pa + b.2) [], t.tick, false⟩), true)

/-- The function of a SIGNAL body: SET, ADD or SUB (R360). -/
def signalFn (op v m : Nat) : Nat := if op = 0 then v else if op = 1 then m + v else m + 2 ^ 64 - v

/-- The 64-bit atomic of a SIGNAL packet or node, or the report that its target cannot be written (R360). -/
def State.runSignal (s : State) (q pasid : Nat) (bs : List Byte) : State :=
  match s.cmdAtomic pasid (fieldLe bs 16 8) (signalFn (fieldLe bs 32 1) (fieldLe bs 24 8)) with
  | (t, true) => t
  | (t, false) => t.plainReport 0xAD q (t.queueHead q) (fieldLe bs 16 8)

/-! ## Fields of packets, launch blocks and launches (R355, R360 to R362) -/

/-- Bytes [lo, hi) are all 0. -/
def zeros (bs : List Byte) (lo hi : Nat) : Bool := ((bs.drop lo).take (hi - lo)).all fun b => b == 0

/-- The fields of a LAUNCH body are in range (R361). -/
def launchBodyOk (bs : List Byte) : Bool :=
  let f := fun lo n => fieldLe bs lo n
  f 32 2 != 0 && f 34 2 != 0 && f 36 2 != 0 && decide (1 ≤ f 38 2 % 2048) && decide (f 38 2 % 2048 ≤ 1024) &&
    decide (f 38 2 < 2 ^ 14) && decide (f 40 1 < 64) && f 41 1 == 0 && decide (f 42 2 ≤ 3072) &&
    decide (1 ≤ f 46 2) && decide (f 46 2 ≤ 1024) && (f 46 2 != 1 || f 56 8 == 0)

/-- The fields of a SIGNAL body are in range (R360). -/
def signalBodyOk (bs : List Byte) : Bool := decide (fieldLe bs 32 1 ≤ 2) && zeros bs 33 64

/-- Check 3 of R357: reserved fields are 0 and fields lie in range. -/
def packetFieldsOk (bs : List Byte) : Bool :=
  let ty := fieldLe bs 1 1
  decide (fieldLe bs 0 1 < 2) && decide (fieldLe bs 4 2 < 4) && zeros bs 6 8 &&
    (if ty = 0 then zeros bs 16 64 else if ty = 1 then launchBodyOk bs else if ty = 2 then zeros bs 24 64
     else if ty = 3 then zeros bs 56 64 else signalBodyOk bs)

/-- An address of a packet is canonical and aligned (R357). -/
def State.addrOk (s : State) (pasid va align : Nat) : Bool := canonical (s.levels pasid) va && va % align == 0

/-- Every address of a packet is canonical and aligned (check 4 of R357). -/
def State.packetAddrsOk (s : State) (pasid : Nat) (bs : List Byte) : Bool :=
  let ty := fieldLe bs 1 1
  let ok := fun lo n => s.addrOk pasid (fieldLe bs lo 8) n
  ok 8 8 &&
    (if ty = 1 then ok 16 4 && ok 24 64 && ok 56 4 else if ty = 2 then ok 16 64
     else if ty = 3 then (List.range 5).all fun i => ok (16 + 8 * i) 8 else if ty = 4 then ok 16 8 else true)

/-- A hop of ROUTE, two's complement in 5 bits (R362). -/
def hopOf (n : Nat) : Int := sext 5 n

/-- The fields of a launch block are in range (R362). -/
def blockFieldsOk (blk : List Byte) : Bool :=
  let w := fieldLe blk 84 2
  let r := fieldLe blk 86 2
  decide (w % 2048 + w / 2048 ≤ 2048) && decide (r < 2 ^ 14) && r % 32 != 16 && r / 32 % 32 != 16 && zeros blk 88 128

/-- The launch that a body and a launch block describe (R361, R362). -/
def launchOf (bs blk : List Byte) : Launch :=
  let f := fun lo n => fieldLe bs lo n
  let b := fun lo n => fieldLe blk lo n
  { entry := f 16 8, gx := f 32 2, gy := f 34 2, gz := f 36 2, n := f 38 2 % 2048, s := f 38 2 / 2048 % 8 + 1
    b := 8 * (f 40 1 % 8 + 1), fuse := bitOf (f 40 1) 3, strict := bitOf (f 40 1) 4, idem := bitOf (f 40 1) 5
    scratch := f 42 2 * 1024, frame := if f 44 2 = 0 then 4194304 else f 44 2 * 65536
    nchip := f 46 2, tick := f 48 8, cset := f 56 8
    args := (List.range 16).map fun n => (n, BitVec.ofNat 32 (b (4 * n) 4))
    cbase := b 64 8, climit := b 72 4, seed := if b 76 4 = 0 then 1 else BitVec.ofNat 32 (b 76 4), kid := b 80 4
    intFirst := b 84 2 % 2048, intLen := b 84 2 / 2048, dx := hopOf (b 86 2), dy := hopOf (b 86 2 / 32)
    qmask := BitVec.ofNat 4 (b 86 2 / 1024) }

/-! ## Placement (R26, R27, R155, R167, R319, R365) -/

/-- The crew occupies its core. -/
def Crew.resident (c : Crew) : Bool :=
  c.home.isSome && (c.life == .starting || c.life == .running || c.life == .draining || c.life == .saving || c.life == .halting ||
    c.life == .restoring)

/-- Slots that a crew reserves on every lane (R28). -/
def slotsOf (n : Nat) : Nat := ceilDiv n 64

/-- The cores of a pipeline's footprint (R365), or none where it leaves the mesh of R13. -/
def footprint (die x0 y0 stages : Nat) (dx dy : Int) : Option (List Nat) :=
  (List.range stages).mapM fun (k : Nat) =>
    let x : Int := x0 + k * dx
    let y : Int := y0 + k * dy
    if 0 ≤ x ∧ x < 12 ∧ 0 ≤ y ∧ y < 8 then some (coreAt die x.toNat y.toNat) else none

/-- The lowest place of a size that meets none of the areas given. -/
def gapIn (areas : List SegReg) (lo hi size : Nat) : Option Nat :=
  if size = 0 then some lo
  else (sortUp (lo :: areas.map fun a => a.base + a.limit)).find? fun x =>
    lo ≤ x && decide (x + size ≤ hi) && areas.all fun a => a.limit == 0 || decide (x + size ≤ a.base) || decide (a.base + a.limit ≤ x)

/-- What placement asks of a crew: slots per lane, budget, fusion and scratchpad bytes. -/
structure Need where
  slots : Nat
  b : Nat
  fuse : Bool
  scratch : Nat
deriving DecidableEq, Repr

/-- The crews that occupy cores, but for some that are to leave. -/
def State.occupants (s : State) (gone : List Nat) : List Crew :=
  (s.crews.filter fun c => c.2.resident && !gone.contains c.1).map Prod.snd

/-- A core admits one more crew beside the occupants and those already placed (R27), none while one drains (R370), and its
cluster has the fusion asked for (R167). -/
def coreAdmits (occ : List Crew) (fused : Nat → Bool) (w : Need) (placed : List (Nat × Nat)) (core : Nat) : Bool :=
  let here := occ.filter fun c => c.core == core
  let more := (placed.filter fun p => p.1 == core).length + 1
  let near := occ.any fun c => clusterOf c.core == clusterOf core
  !(here.any fun c => c.life == .draining) &&
    decide (here.foldl (fun n c => n + slotsOf c.n) 0 + more * w.slots ≤ 32) &&
    decide (here.foldl (fun n c => n + slotsOf c.n * c.b) 0 + more * w.slots * w.b ≤ 1024) &&
    (!near || fused (clusterOf core) == w.fuse)

/-- The scratchpad areas of a cluster that are taken. -/
def areasOf (occ : List Crew) (w : Need) (placed : List (Nat × Nat)) (cluster : Nat) : List SegReg :=
  ((occ.filter fun c => clusterOf c.core == cluster).map Crew.scratchArea) ++
    (placed.filter fun p => clusterOf p.1 == cluster).map fun p => ⟨p.2, w.scratch⟩

/-- Cores with scratchpad bases for the crews of a pipeline, in order of stage, or none where one is not admitted. -/
def layout (occ : List Crew) (fused : Nat → Bool) (w : Need) : List Nat → List (Nat × Nat) → Option (List (Nat × Nat))
  | [], placed => some placed
  | core :: cs, placed =>
    if coreAdmits occ fused w placed core then
      match gapIn (areasOf occ w placed (clusterOf core)) 0 Config.scratchBytes w.scratch with
      | some base => layout occ fused w cs (placed ++ [(core, base)])
      | none => none
    else none

/-- The 96 origins of a die's mesh. -/
def origins : List (Nat × Nat) := (List.range 12).flatMap fun x => (List.range 8).map fun y => (x, y)

/-- What a launch asks of each of its cores. -/
def Launch.need (l : Launch) : Need := ⟨slotsOf l.n, l.b, l.fuse, l.scratch⟩

/-- The layout of a launch's pipeline at an origin of a die, beside some occupants. -/
def Launch.layoutAt (l : Launch) (occ : List Crew) (fused : Nat → Bool) (die x0 y0 : Nat) : Option (List (Nat × Nat)) :=
  (footprint die x0 y0 l.s l.dx l.dy).bind fun cores => layout occ fused l.need cores []

/-- Check 6 of R363: the gang can run on one empty die. -/
def Launch.fits (l : Launch) : Bool :=
  decide (1024 * (64 * slotsOf l.n + 1) ≤ l.frame) && origins.any fun o => (l.layoutAt [] (fun _ => l.fuse) 0 o.1 o.2).isSome

/-- Heaps for the crews of a pipeline in a frame region (R319). -/
def heapsIn (lo hi size : Nat) : Nat → List SegReg → Option (List Nat)
  | 0, _ => some []
  | k + 1, taken =>
    (gapIn taken lo hi size).bind fun x => (heapsIn lo hi size k (⟨x, size⟩ :: taken)).map fun l => x :: l

/-- Places for the heaps of a pipeline's crews in the frame region of their PASID, which heaps of gangs that have not ended
keep (R319). -/
def State.heapsFor (s : State) (pasid size stages : Nat) : Option (List Nat) :=
  match kget s.pasids pasid with
  | none => none
  | some p =>
    heapsIn p.fbase (p.fbase + p.fsize) size stages ((s.crews.filter fun c => c.2.pasid == pasid).map fun c => c.2.frameArea)

/-! ## The checks of a launch (R357, R363) -/

/-- What the checks of a launch find: a launch with its chip set, a page to wait for, or a cause. -/
inductive LaunchRes where
  | ok (l : Launch) (chips : List Nat)
  | page (va : Nat) (write : Bool)
  | bad (c : Cause)
deriving DecidableEq, Repr

/-- A read of the checks that fails: it waits for a page, or gives 0xA3 (R356). -/
def readRes : EngErr → LaunchRes
  | .page va w => .page va w
  | .walk _ | .data _ | .refused => .bad 0xA3

/-- Check 7 of R363: distinct identifiers, this chip's among them, and every chip reachable: some working port leads to it (R308). -/
def State.chipsOk (s : State) (chips : List Nat) : Bool :=
  chips.contains s.sysId && decide (chips.eraseDups.length = chips.length) && chips.all fun c => c == s.sysId || s.hasPath c

/-- The address of the header before an entry point, an address of 64 bits (R80, R363). -/
def headerVa (entry : Nat) : Nat := (entry + 2 ^ 64 - 4) % 2 ^ 64

/-- Checks 4 to 7 once the blocks are read: the block's fields, its window, the header and the fit. A read of either that fails gives 0xA3
or waits for a page (R356). -/
def State.checkBlock (s : State) (pasid : Nat) (bs blk : List Byte) (chips : List Nat) : State × LaunchRes :=
  let l := launchOf bs blk
  if !blockFieldsOk blk then (s, .bad 0xA2)
  else if !s.addrOk pasid l.cbase 128 then (s, .bad 0xA3)
  else match s.engineRead pasid l.cbase (min l.climit 4096) with
    | (t, .error e) => (t, readRes e)
    | (t, .ok _) =>
      match t.engineRead pasid (headerVa l.entry) 4 with
      | (u, .error e) => (u, readRes e)
      | (u, .ok h) =>
        if headerBudget (BitVec.ofNat 32 (leNat h)) ≠ some l.b then (u, .bad 0xA4)
        else if !l.fits then (u, .bad 0xA5)
        else if !u.chipsOk chips then (u, .bad 0xA6)
        else (u, .ok l chips)

/-- Check 4 on the reads of a LAUNCH body whose addresses are good, and checks 5 to 7. -/
def State.checkReads (s : State) (pasid : Nat) (bs : List Byte) : State × LaunchRes :=
  match s.engineRead pasid (fieldLe bs 24 8) 128 with
  | (t, .error e) => (t, readRes e)
  | (t, .ok blk) =>
    let n := fieldLe bs 46 2
    if n = 1 then t.checkBlock pasid bs blk [t.sysId]
    else match t.engineRead pasid (fieldLe bs 56 8) (4 * n) with
      | (u, .error e) => (u, readRes e)
      | (u, .ok tab) => u.checkBlock pasid bs blk ((List.range n).map fun i => fieldLe tab (4 * i) 4)

/-- The checks of a KERNEL node at its dispatch (R367). -/
def State.checkLaunch (s : State) (pasid : Nat) (bs : List Byte) : State × LaunchRes :=
  if !launchBodyOk bs then (s, .bad 0xA2)
  else if !(s.addrOk pasid (fieldLe bs 16 8) 4 && s.addrOk pasid (fieldLe bs 24 8) 64 && s.addrOk pasid (fieldLe bs 56 8) 4) then
    (s, .bad 0xA3)
  else s.checkReads pasid bs

/-! ## The checks of a packet (R357) -/

/-- What the checks of a packet find. -/
inductive PacketRes where
  | ok (l : Option (Launch × List Nat))
  | page (va : Nat) (write : Bool)
  | bad (c : Cause)
deriving DecidableEq, Repr

/-- The checks of R357 in their order. -/
def State.checkPacket (s : State) (q : Queue) (bs : List Byte) : State × PacketRes :=
  let ty := fieldLe bs 1 1
  if 4 < ty then (s, .bad 0xA0)
  else if fieldLe bs 2 1 ≠ q.vermin ∨ fieldLe bs 3 1 ≠ q.vermaj then (s, .bad 0xA1)
  else if !packetFieldsOk bs then (s, .bad 0xA2)
  else if !s.packetAddrsOk q.pasid bs then (s, .bad 0xA3)
  else if ty = 1 then
    match s.checkReads q.pasid bs with
    | (t, .ok l chips) => (t, .ok (some (l, chips)))
    | (t, .page va w) => (t, .page va w)
    | (t, .bad c) => (t, .bad c)
  else if ty = 2 then
    match s.engineRead q.pasid (fieldLe bs 16 8) 64 with
    | (t, .ok _) => (t, .ok none)
    | (t, .error (.page va w)) => (t, .page va w)
    | (t, .error _) => (t, .bad 0xA3)
  else (s, .ok none)

/-- A packet of a queue. -/
def State.packet (s : State) (q idx : Nat) : Option Packet := kget (s.queue q).packets idx

/-- A packet with a function applied. -/
def State.modPacket (s : State) (q idx : Nat) (f : Packet → Packet) : State :=
  { s with queues := kmod s.queues q fun x => { x with packets := kmod x.packets idx f } }

/-- A packet is rejected, or stops for good, with its queue in ERROR (R357, R360, R366). -/
def State.rejectPacket (s : State) (q idx : Nat) (c : Cause) : State :=
  (s.modPacket q idx fun p => { p with state := .rejected }).queueError q c idx

/-- An accepted packet checked (R357, R358). -/
def State.checkAccepted (s : State) (q idx : Nat) (p : Packet) : State :=
  match s.checkPacket (s.queue q) p.bytes with
  | (t, .ok l) => t.modPacket q idx fun p => { p with state := .waiting, launch := l }
  | (t, .page va w) => t.pageRequest (s.queue q).pasid (va / 4096) w (.packet q idx)
  | (t, .bad c) => t.rejectPacket q idx c

/-! ## Gangs (R24, R363, R364) -/

/-- The grid points of a gang. -/
def Launch.points (l : Launch) : Nat := l.gx * l.gy * l.gz

/-- The place in the order of acceptance of the packet that a gang comes from (R365): its own, or a node's GRAPH packet. A gang of the service
runtime or of another chip takes the next place as it arrives. -/
def State.acceptOf (s : State) : GangSrc → Option Nat
  | .packet q idx => (s.packet q idx).map Packet.seq
  | .node graph _ => (kget s.graphs graph).bind fun g => (s.packet g.q g.idx).map Packet.seq
  | .service | .peer _ => none

/-- A gang launched by this chip: its identifier, its start tick where one chip runs it, and what goes to the other chips. -/
def State.launchGang (s : State) (src : GangSrc) (q pasid : Nat) (l : Launch) (chips : List Nat) : Nat × State :=
  let n := (s.launches + 1) % 2 ^ 32
  let id := s.sysId * 2 ^ 32 + n
  let order := (s.acceptOf src).getD s.accepts
  let mine := chips.findIdx fun c => c == s.sysId
  let own := max l.tick (s.tick + 2000)
  let g : Gang :=
    { ident := id, launch := l, src := src, queue := q, pasid := pasid, chips := chips, mine := mine
      proposals := if chips.length = 1 then [] else [(s.sysId, own)], start := if chips.length = 1 then some l.tick else none
      asked := s.tick, crews := [], ended := 0, chipsEnded := [], terminated := false, failed := false, pool := [], poolUsed := []
      poolRecords := [], ends := [], order := order }
  let t := { s with launches := n, gangs := kset s.gangs id g }
  (id, (chips.filter fun c => c != s.sysId).foldl (fun (u : State) c =>
    u.tellChip c (.launch id q pasid l chips)) t)

/-- A gang that another chip has accepted: this chip answers with its proposal (R364). -/
def State.joinGang (s : State) (id chip q pasid : Nat) (l : Launch) (chips : List Nat) : State :=
  let own := max l.tick (s.tick + 2000)
  let g : Gang :=
    { ident := id, launch := l, src := .peer chip, queue := q, pasid := pasid, chips := chips
      mine := chips.findIdx fun c => c == s.sysId, proposals := [(s.sysId, own)], start := none, asked := s.tick, crews := [], ended := 0
      chipsEnded := [], terminated := false, failed := false, pool := [], poolUsed := [], poolRecords := [], ends := [], order := s.accepts }
  { s with gangs := kset s.gangs id g, accepts := s.accepts + 1 }.tellChip chip (.tick id own)

/-- The coordinates of a grid point. -/
def Launch.point (l : Launch) (p : Nat) : Nat × Nat × Nat := (p % l.gx, p / l.gx % l.gy, p / l.gx / l.gy)

/-- The pipeline of a grid point has been placed. -/
def State.placed (s : State) (gang : Nat) (xyz : Nat × Nat × Nat) : Bool :=
  s.crews.any fun c => c.2.gang == gang && (c.2.x, c.2.y, c.2.z) == xyz

/-- The first grid point of a gang on this chip that waits for cores. -/
def State.waitingPoint (s : State) (id : Nat) (g : Gang) : Option Nat :=
  if g.terminated || g.failed || s.gangFinished id then none
  else
    let mine := s.crews.filter fun c => c.2.gang == id
    let pts := ceilDiv (g.launch.points - g.mine) g.launch.nchip
    ((List.range (min pts (mine.length + 1))).map fun k => g.mine + k * g.launch.nchip).find? fun p =>
      !(mine.any fun c => (c.2.x, c.2.y, c.2.z) == g.launch.point p)

/-- The queue priority of a gang; a gang that another chip has accepted comes first (log entry 8). -/
def State.gangPri (s : State) (g : Gang) : Nat := if g.guest then 0 else (s.queue g.queue).pri

/-- Places for the pipeline of a gang at an origin: cores with scratchpad bases, and heaps. A die that is kept for a saved pipeline takes
no other (R46). -/
def State.placesAt (s : State) (g : Gang) (die x0 y0 : Nat) : Option (List ((Nat × Nat) × Nat)) :=
  if 8 ≤ die ∨ (s.die die).promised.isSome then none
  else match g.launch.layoutAt (s.occupants []) (fun c => (s.cluster c).fused) die x0 y0,
      s.heapsFor g.pasid g.launch.frame g.launch.s with
    | some l, some h => some (l.zip h)
    | _, _ => none

/-- Some origin of some die takes the pipeline of a gang, but for some crews. -/
def State.placeable (s : State) (g : Gang) (gone : List Nat) : Bool :=
  (s.heapsFor g.pasid g.launch.frame g.launch.s).isSome && (List.range 8).any fun d => (s.die d).promised.isNone &&
    origins.any fun o => (g.launch.layoutAt (s.occupants gone) (fun c => (s.cluster c).fused) d o.1 o.2).isSome

/-! ## Pipelines that have left their cores (R26, R46, R365, R371) -/

/-- The crews of a pipeline. -/
def State.pipeline (s : State) (c : Crew) : KMap Crew :=
  s.crews.filter fun d => d.2.gang == c.gang && d.2.x == c.x && d.2.y == c.y && d.2.z == c.z

/-- A crew that waits for cores: SAVED, or PENDING after a FLUSH. -/
def Crew.waits (c : Crew) : Bool := c.life == .saved || c.life == .pending

/-- A crew that is being saved or is HALTED: its pipeline, which goes back as one unit (R26), waits for it. -/
def Crew.unsettled (c : Crew) : Bool := c.life == .saving || c.life == .halting || c.life == .halted

/-- The crews of a pipeline that wait put on a footprint, whose other crews stand there already, but for some crews (R365). -/
def State.placeBack (s : State) (g : Gang) (mates : KMap Crew) (gone : List Nat) (die x0 y0 : Nat) :
    Option (List ((Nat × Crew) × (Nat × Nat))) :=
  let l := g.launch
  let back := mates.filter fun d => d.2.waits
  match (if die < 8 then footprint die x0 y0 l.s l.dx l.dy else none) with
  | none => none
  | some cores =>
    if ((s.die die).promised.any fun k => !mates.any fun d => d.1 == k) ||
        mates.any fun d => d.2.unsettled || (d.2.resident && cores[d.2.stage]? != d.2.home) then none
    else (layout (s.occupants gone) (fun k => (s.cluster k).fused) l.need (back.map fun d => cores.getD d.2.stage 0) []).map fun p =>
      back.zip p

/-- A pipeline of a gang that has left its cores could have cores, but for some crews. -/
def State.backable (s : State) (id : Nat) (g : Gang) (gone : List Nat) : Bool :=
  s.crews.any fun c => c.2.gang == id && c.2.waits && (List.range 8).any fun d => origins.any fun o =>
    (s.placeBack g (s.pipeline c.2) gone d o.1 o.2).isSome

/-- Some pipeline of a gang that waits for cores could have them, but for some crews. -/
def State.couldGo (s : State) (id : Nat) (g : Gang) (gone : List Nat) : Bool :=
  ((s.waitingPoint id g).isSome && s.placeable g gone) || s.backable id g gone

/-- A gang comes before another in the turns for cores: by queue priority, then acceptance, and then launch (R365). -/
def State.before (s : State) (a b : Nat × Gang) : Bool :=
  let p := s.gangPri a.2
  let q := s.gangPri b.2
  decide (p < q) || (p == q && (decide (a.2.order < b.2.order) || (a.2.order == b.2.order && decide (a.1 < b.1))))

/-- No gang before this one has a pipeline that waits for cores that it could have now (R365). -/
def State.turnOf (s : State) (id : Nat) (g : Gang) : Bool :=
  s.gangs.all fun h => !s.before h (id, g) || !s.couldGo h.1 h.2 []

/-- The scratchpad of a crew moved: its area, segment, shutters and replayed accesses have their places relative to its new base
(R371). -/
def Crew.moved (c : Crew) (base : Nat) : Crew :=
  let move := fun b => b + base - c.scratchArea.base
  let again := fun (r : MemReq) => if r.space = .scratch then { r with ea := move r.ea } else r
  { c with fibres := kmap c.fibres fun _ f => { f with replay := f.replay.map again, attached := f.attached.map again }
           scratchArea := { c.scratchArea with base := base }
           segScratch := { c.segScratch with base := move c.segScratch.base }
           shutters := c.shutters.map fun h => { h with base := move h.base } }

/-- A crew that waits takes a core and a scratchpad base: RESTORING from its image, or STARTING (R371). -/
def State.takeCore (s : State) (crew : Nat) (place : Nat × Nat) : State :=
  (s.modCrew crew fun c =>
    { c.moved place.2 with life := if c.life == .saved then .restoring else .starting, home := some place.1 }).modCluster
      (clusterOf place.1) fun k => { k with fused := (s.crew crew).fuse }

/-! ## The placement of a gang's pipelines (R26, R39, R365, R371) -/

/-- The launch state of a crew, PENDING, with a heap and no place in a scratchpad yet (R39). -/
def launchCrew (id : Nat) (g : Gang) (xyz : Nat × Nat × Nat) (stage heap : Nat) : Crew :=
  let l := g.launch
  { gang := id, x := xyz.1, y := xyz.2.1, z := xyz.2.2, stage := stage, n := l.n, b := l.b, strict := l.strict, fuse := l.fuse
    idem := l.idem, kid := l.kid, system := g.src == .service, life := .pending, pasid := g.pasid, entry := l.entry, g := l.args
    segScratch := ⟨0, l.scratch⟩, segFrame := ⟨heap, l.frame⟩, segConst := ⟨l.cbase, l.climit⟩, lfsr := l.seed, seed := l.seed
    intFirst := l.intFirst, intLen := l.intLen, dx := l.dx, dy := l.dy, qmask := l.qmask
    scratchArea := ⟨0, l.scratch⟩, frameArea := ⟨heap, l.frame⟩ }

/-- A crew of a pipeline placed on a core, STARTING (R39, R371). -/
def State.placeCrew (s : State) (id : Nat) (g : Gang) (xyz : Nat × Nat × Nat) (stage : Nat) (place : (Nat × Nat) × Nat) : State :=
  let (crew, t) := s.fresh
  { t with crews := kset t.crews crew (launchCrew id g xyz stage place.2)
           gangs := kmod t.gangs id fun g => { g with crews := g.crews ++ [crew] } }.takeCore crew place.1

/-- The pipeline of a grid point placed whole at an origin (R26, R365). -/
def State.placePipe (s : State) (id : Nat) (g : Gang) (p die x0 y0 : Nat) : State :=
  let xyz := g.launch.point p
  if g.terminated || g.failed || s.gangFinished id || decide (g.launch.points ≤ p) || p % g.launch.nchip != g.mine || s.placed id xyz || !s.turnOf id g then s
  else match s.placesAt g die x0 y0 with
    | none => s
    | some l => l.zipIdx.foldl (fun (t : State) x => t.placeCrew id g xyz x.2 x.1) s

/-! ## The start of a crew (R21, R28, R39, R127, R316, R317, R394) -/

/-- A crew tag is held by a crew that has not ended: it keeps those that it took before a FLUSH until then (R316). -/
def State.tagHeld (s : State) (tag : Nat) : Bool := s.crews.any fun c => c.2.tags.contains tag && c.2.alive

/-- The next tag after one that no crew holds and that is not the one never given (R316), within so many steps. -/
def State.nextTagFrom (s : State) : Nat → Nat → Nat
  | 0, tag => tag
  | n + 1, tag =>
    let next := (tag + 1) % 2 ^ 22
    if next = 0x3FFFFF ∨ s.tagHeld next then s.nextTagFrom n next else next

/-- The crew tag that a crew takes as it first starts (R316): after no more held ones than the crews hold, and the one never given. -/
def State.newTag (s : State) : Nat := s.nextTagFrom ((s.crews.flatMap fun c => c.2.tags).length + 2) s.tagCounter

/-- A crew's constant window loaded (R127). -/
def State.loadWindow (s : State) (crew : Nat) : State × Except EngErr (List Byte) :=
  let c := s.crew crew
  s.engineRead c.pasid c.segConst.base (min c.segConst.limit 4096)

/-- A fibre of a crew that starts, with its first segment (R28, R317). -/
def State.firstFibre (s : State) (crew fid : Nat) : FrRes Unit :=
  frThen (s.firstSeg crew fid) fun t va =>
    (t.modCrew crew fun c => { c with fibres := kset c.fibres fid { pc := c.entry, seg := va } }, .ok ())

/-- The fibres of a crew that starts. -/
def State.firstFibres (s : State) (crew : Nat) : List Nat → FrRes Unit
  | [] => (s, .ok ())
  | fid :: l => frThen (s.firstFibre crew fid) fun t _ => t.firstFibres crew l

/-- The IFENCE at SYSTEM scope before the first word of a crew (R394; log entry 132). -/
def State.startFence (s : State) (core : Nat) : State :=
  ((s.modCore core fun c => { c with icache := [] }).modDie (dieOf core) fun d => { d with code := [] }).invalidate (s.agentOf core)

/-- A wait of a crew that starts or is restored for a page, with the cause of its termination at a denial. -/
def State.crewPage (s : State) (crew va : Nat) (w : Bool) (c : Cause) : State :=
  s.pageRequest (s.crew crew).pasid (va / 4096) w (.crew crew c)

/-- A crew STARTING begins to run (R21, R371), waits for a page, or is terminated. -/
def State.startCrew (s : State) (crew : Nat) : State :=
  let c := s.crew crew
  if c.life != .starting || s.pageWaits (.crew crew 0xA3) || s.pageWaits (.crew crew 0x9F) then s
  else match s.loadWindow crew with
    | (t, .error (.page va w)) => t.crewPage crew va w 0xA3
    | (t, .error _) => t.terminate crew 0xA3 noFibre 0
    | (t, .ok win) =>
      let tag := t.newTag
      let u := { t with tagCounter := tag }.modCrew crew fun c => { c with tag := tag, tags := c.tags ++ [tag], window := win }
      match frThen (u.initEmergency crew) fun w _ => w.firstFibres crew (List.range c.n) with
      | (_, .error (.page va w)) => t.crewPage crew va w 0x9F
      | (_, .error (.effect _ _)) => t.terminate crew 0x9F noFibre 0
      | (v, .ok ()) =>
        let w := (v.startFence c.core).modCrew crew fun c => { c with life := .running, created := c.n }
        (List.range c.n).foldl (fun (x : State) fid => x.enter crew fid) w

/-- The agreed tick of a gang is reached, and those of its crews that have cores start (R364). -/
def State.startGang (s : State) (id : Nat) : State :=
  match (kget s.gangs id).bind Gang.start with
  | none => s
  | some t =>
    if s.tick < t then s
    else ((s.crews.filter fun c => c.2.gang == id && c.2.life == .starting).map Prod.fst).foldl State.startCrew s

end Sys2Proof.Machine
end

