-- ==== Sys2Proof/Machine/Graph.lean ====
section
/-! DEFINITION. Command graphs (R360, R366 to R369, R383): the checks of a graph object, the ready pool, and the work of its nodes.
The fields that the command engine writes stand in the graph object itself. -/

namespace Sys2Proof.Machine

/-! ## Nodes (R366) -/

/-- KERNEL. -/
def kindKernel : Nat := 0
/-- COND. -/
def kindCond : Nat := 1
/-- SIGNAL. -/
def kindSignal : Nat := 2
/-- XFER. -/
def kindXfer : Nat := 3
/-- NOTE. -/
def kindNote : Nat := 4

/-- The address of a node. -/
def nodeVa (addr i : Nat) : Nat := addr + 64 + 64 * i

/-- Every field of a node is in range, its successors apart. -/
def nodeOk (nnode : Nat) (bs : List Byte) : Bool :=
  let f := fun lo n => fieldLe bs lo n
  let kind := f 0 1
  decide (kind ≤ 4) && f 1 1 == 0 && f 8 8 % 4 == 0 && (f 6 2 == 0 || f 8 8 != 0) &&
    (if kind = kindKernel then launchBodyOk bs
     else if kind = kindCond then
       f 16 8 % 4 == 0 && decide (f 28 4 ≤ f 24 4) && decide (f 24 4 ≤ f 32 4) && decide (f 32 4 < nnode) && zeros bs 44 64
     else if kind = kindSignal then f 16 8 % 8 == 0 && signalBodyOk bs
     else if kind = kindXfer then decide (1 ≤ f 32 4) && decide (f 32 4 ≤ 2 ^ 30) && zeros bs 36 64
     else f 16 8 % 32 == 0 && decide (4 ≤ f 32 1) && decide (f 32 1 ≤ 16) && f 33 1 == 0 && decide (f 34 2 < 2048) &&
       f 36 4 == 0 && zeros bs 48 64)

/-- The successors of a node. -/
def State.nodeSuccs (s : State) (pasid : Nat) (bs : List Byte) : State × Except EngErr (List Nat) :=
  let n := fieldLe bs 6 2
  match (if n = 0 then (s, .ok []) else s.engineRead pasid (fieldLe bs 8 8) (4 * n)) with
  | (t, .error e) => (t, .error e)
  | (t, .ok l) => (t, .ok ((List.range n).map fun i => fieldLe l (4 * i) 4))

/-- What the check of a graph object finds: good, a page to wait for, or a cause. -/
inductive GraphRes where
  | ok
  | page (va : Nat) (write : Bool)
  | bad (c : Cause)
deriving DecidableEq, Repr

/-- A read of a graph object that fails (R356). -/
def graphErr : EngErr → GraphRes
  | .page va w => .page va w
  | .walk _ | .data _ | .refused => .bad 0xA3

/-- One node checked. -/
def State.checkNode (s : State) (pasid addr nnode i : Nat) : State × GraphRes :=
  match s.engineRead pasid (nodeVa addr i) 64 with
  | (t, .error e) => (t, graphErr e)
  | (t, .ok bs) =>
    if !nodeOk nnode bs then (t, .bad 0xA7)
    else match t.nodeSuccs pasid bs with
      | (u, .error e) => (u, graphErr e)
      | (u, .ok l) => (u, if l.all fun k => decide (k < nnode) then .ok else .bad 0xA7)

/-- Nodes checked in order. -/
def State.checkNodes (s : State) (pasid addr nnode : Nat) : List Nat → State × GraphRes
  | [] => (s, .ok)
  | i :: l =>
    match s.checkNode pasid addr nnode i with
    | (t, .ok) => t.checkNodes pasid addr nnode l
    | r => r

/-- PCNT, and COUNT or WIDX, of a node reset (R367). -/
def State.resetNode (s : State) (pasid addr i : Nat) : State × Except EngErr (List Byte) :=
  match s.engineRead pasid (nodeVa addr i) 64 with
  | (t, .error e) => (t, .error e)
  | (t, .ok bs) =>
    let kind := fieldLe bs 0 1
    let b1 := overlay bs 4 (leBytes 2 (fieldLe bs 2 2))
    let b2 := if kind = kindCond then overlay b1 40 (leBytes 4 0) else if kind = kindNote then overlay b1 40 (leBytes 8 0) else b1
    match t.cmdWrite pasid (nodeVa addr i) b2 with
    | (u, .error e) => (u, .error e)
    | (u, .ok ()) => (u, .ok b2)

/-- Nodes reset in order, with those that have no predecessor. -/
def State.resetNodes (s : State) (pasid addr : Nat) : List Nat → State × Except EngErr (List Nat)
  | [] => (s, .ok [])
  | i :: l =>
    match s.resetNode pasid addr i with
    | (t, .error e) => (t, .error e)
    | (t, .ok bs) =>
      match t.resetNodes pasid addr l with
      | (u, .error e) => (u, .error e)
      | (u, .ok roots) => (u, .ok (if fieldLe bs 2 2 = 0 then i :: roots else roots))

/-! ## The ready pool (R367) -/

/-- Nodes that the ready pool holds. -/
def poolSize : Nat := 4096

/-- A node enters the pool, or waits to. -/
def State.enterPool (s : State) (graph node : Nat) : State :=
  if s.pool.length < poolSize ∧ s.poolWait = [] then { s with pool := s.pool ++ [(graph, node)] }
  else { s with poolWait := s.poolWait ++ [(graph, node)] }

/-- Waiting nodes take the room of the pool. -/
def State.fillPool (s : State) : State :=
  let n := poolSize - s.pool.length
  { s with pool := s.pool ++ s.poolWait.take n, poolWait := s.poolWait.drop n }

/-- A node leaves the pool. -/
def State.leavePool (s : State) (graph node : Nat) : State :=
  { s with pool := s.pool.filter fun x => x != (graph, node) }.fillPool

/-- A running graph with a function applied. -/
def State.modGraph (s : State) (graph : Nat) (f : GraphRun → GraphRun) : State := { s with graphs := kmod s.graphs graph f }

/-- A graph stops: no further node of it is released. -/
def State.stopGraph (s : State) (graph : Nat) : State :=
  ({ s with pool := s.pool.filter fun x => x.1 != graph
            poolWait := s.poolWait.filter fun x => x.1 != graph }.modGraph graph fun g =>
    { g with stopped := true, running := g.running.filter fun n => !g.rearm.contains n, rearm := [] }).fillPool

/-- A node fails: its cause is reported, and its graph stops. -/
def State.failNode (s : State) (graph node : Nat) (c : Cause) : State :=
  match kget s.graphs graph with
  | none => s
  | some g =>
    ((s.modGraph graph fun g => { g with running := g.running.filter fun n => n != node }).plainReport c g.q (s.queueHead g.q)
      (nodeVa g.addr node)).stopGraph graph

/-- A node's work has ended, with releases that its completion orders before the nodes that it releases. -/
def State.finishNode (s : State) (graph node : Nat) (tags : List RelTag) : State :=
  s.modGraph graph fun g => { g with running := g.running.filter fun n => n != node, done := g.done ++ [(node, tags)] }

/-- A node runs. -/
def State.runNode (s : State) (graph node : Nat) : State :=
  (s.leavePool graph node).modGraph graph fun g => { g with running := insertNew node g.running }

/-- The PASID of a graph's queue. -/
def State.graphPasid (s : State) (g : GraphRun) : Nat := (s.queue g.q).pasid

/-- A wait of a node for a page, with what a denial does. -/
def State.nodePage (s : State) (graph node : Nat) (fail : Option Cause) (va : Nat) (w : Bool) : State :=
  s.pageRequest (((kget s.graphs graph).map s.graphPasid).getD 0) (va / 4096) w (.node graph node fail)

/-- A node waits for a page. -/
def State.nodeWaits (s : State) (graph node : Nat) : Bool :=
  s.pages.any fun p => p.2.waiters.any fun w => match w with
    | .node g n _ => g == graph && n == node
    | .fibre _ _ | .op _ | .held _ _ | .queue _ | .packet _ _ | .crew _ _ | .entry _ _ => false

/-- A graph object that cannot be read or written puts the queue in ERROR at the GRAPH packet, which does not complete (R356), and the
graph stops. -/
def State.failGraph (s : State) (graph node : Nat) : State :=
  match kget s.graphs graph with
  | none => s
  | some g =>
    ((s.modGraph graph fun g => { g with running := g.running.filter fun n => n != node, done := g.done.filter fun d => d.1 != node }).rejectPacket
      g.q g.idx 0xA3).stopGraph graph

/-- An access of a graph object that fails: the node waits for the page, or the graph fails (R356). -/
def State.objectFails (s : State) (graph node : Nat) : EngErr → State
  | .page va w => s.nodePage graph node none va w
  | .walk _ | .data _ | .refused => s.failGraph graph node

/-- A gang of a graph has been terminated, or its launch has failed (R364, R367). -/
def State.graphDead (s : State) (g : GraphRun) : Bool :=
  g.gangs.any fun x => ((kget s.gangs x.2).map fun y => y.terminated || y.failed).getD false

/-- The first node of the pool, when it is of a kind, goes to its engine with its bytes. -/
def State.dispatch (s : State) (graph node kind : Nat) (k : State → GraphRun → List Byte → State) : State :=
  match kget s.graphs graph with
  | none => s
  | some g =>
    if s.pool.head? != some (graph, node) || s.nodeWaits graph node || s.graphDead g then s
    else
      match s.engineRead (s.graphPasid g) (nodeVa g.addr node) 64 with
      | (t, .error e) => t.objectFails graph node e
      | (t, .ok bs) => if fieldLe bs 0 1 = kind then k t g bs else s

/-! ## A GRAPH packet (R366, R367) -/

/-- A GRAPH packet that runs begins its graph, waits for another that holds the same object or for a page, or is rejected. -/
def State.startGraph (s : State) (q idx : Nat) (p : Packet) : State :=
  let pasid := (s.queue q).pasid
  let addr := fieldLe p.bytes 16 8
  if (s.graphs.any fun g => g.2.addr == addr && s.graphPasid g.2 == pasid) || s.pageWaits (.packet q idx) then s
  else match s.engineRead pasid addr 64 with
    | (t, .error (.page va w)) => t.pageRequest pasid (va / 4096) w (.packet q idx)
    | (t, .error _) => t.rejectPacket q idx 0xA3
    | (t, .ok h) =>
      let n := fieldLe h 0 4
      if n = 0 ∨ 65536 < n ∨ zeros h 4 64 = false then t.rejectPacket q idx 0xA7
      else match t.checkNodes pasid addr n (List.range n) with
        | (u, .page va w) => u.pageRequest pasid (va / 4096) w (.packet q idx)
        | (u, .bad c) => u.rejectPacket q idx c
        | (u, .ok) =>
          match u.resetNodes pasid addr (List.range n) with
          | (v, .error (.page va w)) => v.pageRequest pasid (va / 4096) w (.packet q idx)
          | (v, .error _) => v.rejectPacket q idx 0xA3
          | (v, .ok roots) =>
            let (id, w) := v.fresh
            let x := { w with graphs := kset w.graphs id { q := q, idx := idx, addr := addr, nnode := n } }.modPacket q idx fun p =>
              { p with graph := some id }
            roots.foldl (fun (y : State) i => y.enterPool id i) x

/-! ## The nodes (R360, R367 to R369) -/

/-- A KERNEL node goes to the launch path (R367, R383). -/
def State.kernelNode (s : State) (graph node : Nat) : State :=
  s.dispatch graph node kindKernel fun t g bs =>
    let pasid := t.graphPasid g
    match t.checkLaunch pasid bs with
    | (u, .page va w) => u.nodePage graph node (some 0xA3) va w
    | (u, .bad c) => u.failNode graph node c
    | (u, .ok l chips) =>
      let (id, v) := (u.runNode graph node).launchGang (.node graph node) g.q pasid l chips
      v.modGraph graph fun g => { g with gangs := kset g.gangs node id }

/-- A node is in the pool, waits to enter it, runs, or has not completed. -/
def State.nodeBusy (s : State) (graph : Nat) (g : GraphRun) (n : Nat) : Bool :=
  s.pool.contains (graph, n) || s.poolWait.contains (graph, n) || g.running.contains n || g.done.any fun d => d.1 == n

/-- PCNT := NPRED for nodes (R368). -/
def State.rearmNodes (s : State) (pasid addr : Nat) : List Nat → State × Except EngErr Unit
  | [] => (s, .ok ())
  | i :: l =>
    match s.engineRead pasid (nodeVa addr i + 2) 2 with
    | (t, .error e) => (t, .error e)
    | (t, .ok n) => match t.cmdWrite pasid (nodeVa addr i + 4) n with
      | (u, .error e) => (u, .error e)
      | (u, .ok ()) => u.rearmNodes pasid addr l

/-- A COND node that waits to re-arm does so once no other node of its range is busy (R368). -/
def State.armCond (s : State) (graph node : Nat) (g : GraphRun) (bs : List Byte) : State :=
  let first := fieldLe bs 28 4
  let range := (List.range (fieldLe bs 32 4 + 1 - first)).map fun i => first + i
  if range.any fun n => n != node && s.nodeBusy graph g n then s
  else
    let pasid := s.graphPasid g
    match s.cmdWrite pasid (nodeVa g.addr node + 40) (leBytes 4 (fieldLe bs 40 4 + 1)) with
    | (_, .error e) => s.objectFails graph node e
    | (t, .ok ()) => match t.rearmNodes pasid g.addr range with
      | (_, .error e) => s.objectFails graph node e
      | (u, .ok ()) => (u.modGraph graph fun g =>
          { g with running := g.running.filter fun n => n != node, rearm := g.rearm.filter fun n => n != node }).enterPool graph
            (fieldLe bs 24 4)

/-- A COND node reads its word (R356, R368). -/
def State.condNode (s : State) (graph node : Nat) : State :=
  match (kget s.graphs graph).filter fun g => g.rearm.contains node with
  | some g =>
    if s.nodeWaits graph node then s
    else match s.engineRead (s.graphPasid g) (nodeVa g.addr node) 64 with
      | (t, .ok bs) => t.armCond graph node g bs
      | (t, .error e) => t.objectFails graph node e
  | none => s.dispatch graph node kindCond fun t g bs =>
    match t.engineRead (t.graphPasid g) (fieldLe bs 16 8) 4 with
    | (u, .error (.page va w)) => u.nodePage graph node (some 0xA8) va w
    | (u, .error _) => u.failNode graph node 0xA8
    | (u, .ok w) =>
      let v := u.runNode graph node
      if leNat w ≠ 0 ∧ (fieldLe bs 36 4 = 0 ∨ fieldLe bs 40 4 < fieldLe bs 36 4) then
        let x := v.modGraph graph fun g => { g with rearm := insertNew node g.rearm }
        match kget x.graphs graph with
        | some g' => x.armCond graph node g' bs
        | none => x
      else v.finishNode graph node []

/-- A SIGNAL node performs its atomic (R360). -/
def State.signalNode (s : State) (graph node : Nat) : State :=
  s.dispatch graph node kindSignal fun t g bs =>
    ((t.runNode graph node).runSignal g.q (t.graphPasid g) bs).finishNode graph node []

/-- An XFER copied by the bulk transfer engine of the queue's I/O die (R304, R367). -/
def State.copyNode (s : State) (graph node : Nat) (g : GraphRun) (bs : List Byte) : State :=
  let pasid := s.graphPasid g
  let agent := bulkAgent (s.queueHead g.q)
  match s.engineRead pasid (fieldLe bs 16 8) (fieldLe bs 32 4) with
  | (t, .error (.page va w)) => t.nodePage graph node (some 0x86) va w
  | (t, .error e) => t.failNode graph node (bulkCause e)
  | (t, .ok data) =>
    match t.engineWrites agent none pasid [(fieldLe bs 24 8, data)] with
    | (u, .error (.page va w)) => u.nodePage graph node (some 0x86) va w
    | (u, .error e) => u.failNode graph node (bulkCause e)
    | (u, .ok ()) => let (v, tag) := u.release agent .system; v.finishNode graph node [tag]

/-- An XFER node starts, or goes on once its page is there. -/
def State.xferNode (s : State) (graph node : Nat) : State :=
  match (kget s.graphs graph).filter fun g => g.running.contains node && (kget g.gangs node).isNone && !g.rearm.contains node with
  | some g =>
    if s.nodeWaits graph node then s
    else match s.engineRead (s.graphPasid g) (nodeVa g.addr node) 64 with
      | (t, .ok bs) => t.copyNode graph node g bs
      | (t, .error e) => t.objectFails graph node e
  | none => s.dispatch graph node kindXfer fun t g bs => (t.runNode graph node).copyNode graph node g bs

/-- The COUNT of the COND node with the lowest index whose range holds a node, or 0 (R369), or the read of the graph object that fails
(R356). -/
def State.loopCount (s : State) (pasid addr node : Nat) : List Nat → State × Except EngErr Nat
  | [] => (s, .ok 0)
  | i :: l =>
    match s.engineRead pasid (nodeVa addr i) 64 with
    | (t, .ok bs) =>
      if fieldLe bs 0 1 = kindCond ∧ fieldLe bs 28 4 ≤ node ∧ node ≤ fieldLe bs 32 4 then (t, .ok (fieldLe bs 40 4))
      else t.loopCount pasid addr node l
    | (t, .error e) => (t, .error e)

/-- The value of a NOTE node (R369), which it reads when its address is not 0: 0 with a report when it cannot be read, or a page to wait
for (R356). -/
def State.noteValue (s : State) (graph node : Nat) (g : GraphRun) (bs : List Byte) : State × Except EngErr (List Byte) :=
  let va := fieldLe bs 24 8
  let bad := fun (t : State) => (t.plainReport 0xAD g.q (t.queueHead g.q) va, Except.ok (leBytes 8 0))
  if va = 0 then (s, .ok (leBytes 8 0))
  else if ((kget s.graphs graph).map fun x => x.unread.contains node).getD false then bad s
  else match s.engineRead (s.graphPasid g) va 8 with
    | (t, .ok v) => (t, .ok v)
    | (t, .error (.page va w)) => (t, .error (.page va w))
    | (t, .error _) => bad t

/-- A NOTE node writes its entry and adds its interrupt event (R369, R379). -/
def State.noteNode (s : State) (graph node : Nat) : State :=
  s.dispatch graph node kindNote fun t g bs =>
    let pasid := t.graphPasid g
    let head := t.queueHead g.q
    let va := fieldLe bs 16 8
    match (t.runNode graph node).loopCount pasid g.addr node (List.range g.nnode) with
    | (_, .error e) => t.objectFails graph node e
    | (t1, .ok count) => match t1.noteValue graph node g bs with
    | (_, .error (.page va w)) => t.nodePage graph node (some 0xAD) va w
    | (_, .error _) => t
    | (t2, .ok val) =>
      let widx := fieldLe bs 40 8
      let entry := val ++ leBytes 8 t2.tick ++ leBytes 4 node ++ leBytes 4 count ++ leBytes 8 widx
      let t3 := match t2.cmdWrite pasid (va + 32 * (widx % 2 ^ fieldLe bs 32 1)) entry with
        | (u, .ok ()) => u
        | (u, .error _) => u.plainReport 0xAD g.q head va
      match t3.cmdWrite pasid (nodeVa g.addr node + 40) (leBytes 8 (widx + 1)) with
      | (_, .error e) => t.objectFails graph node e
      | (t4, .ok ()) => ((t4.modGraph graph fun g => { g with unread := g.unread.filter fun n => n != node }).vectorEvent
          (fieldLe bs 34 2) head).finishNode graph node []

/-! ## Completion of nodes (R208, R359, R367) -/

/-- The entries of releases closed: work that follows a completion may write the same bytes. -/
def State.closeTags (s : State) (l : List RelTag) : State :=
  l.foldl (fun (t : State) g => t.closeEntries (t.agentOf g.core) g.num) s

/-- The PCNT of each successor falls by 1, and one whose PCNT reaches 0 enters the pool. -/
def State.releaseNodes (s : State) (graph pasid addr : Nat) : List Nat → State × Except EngErr Unit
  | [] => (s, .ok ())
  | k :: l =>
    match s.engineRead pasid (nodeVa addr k + 4) 2 with
    | (t, .error e) => (t, .error e)
    | (t, .ok n) =>
      if leNat n = 0 then t.releaseNodes graph pasid addr l
      else match t.cmdWrite pasid (nodeVa addr k + 4) (leBytes 2 (leNat n - 1)) with
        | (u, .error e) => (u, .error e)
        | (u, .ok ()) => (if leNat n = 1 then u.enterPool graph k else u).releaseNodes graph pasid addr l

/-- The successors of a node released, all of them or, where an access fails, none (R356, R367). -/
def State.releaseSuccs (s : State) (graph node : Nat) (g : GraphRun) : State × Except EngErr Unit :=
  let pasid := s.graphPasid g
  match s.engineRead pasid (nodeVa g.addr node) 64 with
  | (t, .error e) => (t, .error e)
  | (t, .ok bs) =>
    match t.nodeSuccs pasid bs with
    | (u, .error e) => (u, .error e)
    | (u, .ok l) => u.releaseNodes graph pasid g.addr (l.filter fun k => decide (k < g.nnode))

/-- A node completes (R367): its successors are released, unless its graph has stopped. A graph object whose page is away is waited for. -/
def State.nodeDone (s : State) (graph node : Nat) (g : GraphRun) (tags : List RelTag) : State :=
  let t := (s.closeTags tags).modGraph graph fun g =>
    { g with done := g.done.filter fun d => d.1 != node, running := g.running.filter fun n => n != node, gangs := kdel g.gangs node }
  if g.stopped || s.graphDead g then t
  else match t.releaseSuccs graph node g with
    | (_, .error e) => s.objectFails graph node e
    | (u, .ok ()) => u

/-- A gang that no longer runs: every crew has ended, or its launch failed. -/
def State.gangOver (s : State) (id : Nat) : Bool := ((kget s.gangs id).map Gang.failed).getD false || s.gangFinished id

/-- The completion of a node whose work has ended, or whose gang has. -/
def State.completeNode (s : State) (graph node : Nat) : State :=
  match kget s.graphs graph with
  | none => s
  | some g =>
    if s.nodeWaits graph node then s
    else match g.done.find? fun d => d.1 == node with
    | some d => s.nodeDone graph node g d.2
    | none =>
      match (kget g.gangs node).bind fun id => (kget s.gangs id).map fun x => (id, x) with
      | some (id, x) =>
        if !s.gangOver id then s
        else if x.terminated || x.failed then (s.nodeDone graph node { g with stopped := true } x.ends).stopGraph graph
        else s.nodeDone graph node g x.ends
      | none => s

/-- A graph has nothing in the pool, running, or waiting to enter (R367). -/
def State.graphOver (s : State) (graph : Nat) : Bool :=
  match kget s.graphs graph with
  | some g => g.running.isEmpty && g.done.isEmpty && !(s.pool.any fun x => x.1 == graph) && !(s.poolWait.any fun x => x.1 == graph)
  | none => true

end Sys2Proof.Machine
end

