-- ==== Sys2Proof/Machine/CrewSave.lean ====
section
/-! DEFINITION. Pre-emption, saves and restores of crews (R20, R26, R46, R77, R127, R140, R256, R281, R302, R303, R370 to R372). A
saved crew's record is its image. -/

namespace Sys2Proof.Machine

/-! ## Parked crews (R46) -/

/-- Is a fibre parked. -/
def FState.isParked : FState → Bool
  | .parked _ => true
  | .loose _ | .formed _ | .overflow => false

/-- A crew is fully parked (R46). -/
def Crew.fullyParked (c : Crew) : Bool :=
  c.life == .running && !c.fibres.isEmpty && c.fibres.all fun f => f.2.st.isParked

/-- The tick since which every crew has been fully parked noted (R46). -/
def State.noteParked (s : State) : State :=
  { s with crews := kmap s.crews fun _ c =>
      { c with parkedSince := if c.fullyParked then some (c.parkedSince.getD s.tick) else none } }

/-- A set of pending hints is not empty (R76). -/
def Hints.pending (h : Hints) : Bool := h.imm.isSome || h.immx.isSome || h.mod.isSome || h.sched.isSome || h.dly

/-! ## Saving (R20, R77, R140, R256, R281, R302) -/

/-- A fibre as its image holds it: every fixed-latency result written (R83), outside any group, with the marks of completed
operations cleared by any WAIT (R334). -/
def Fibre.saved (f : Fibre) : Fibre :=
  { f.closed with
    st := if f.st.isParked then f.st else .loose 0
    last := 0
    preempted := false
    preemptDue := false
    pend := f.pend.map fun p => if p.2.done then (p.1, ⟨none, true, none⟩) else p }

/-- A crew's uniform state as its image holds it: every uniform result written (R83), and each mark to be cleared by the first WAIT on any
token (R138). -/
def Crew.uniformSaved (c : Crew) : Crew :=
  { c with gwin := kfilterLists c.gwin fun l => l.filter fun w => w.tok.isSome
           gpend := c.gpend.map fun p => (p.1, { p.2 with fids := none })
           groups := [] }

/-- A memory operation at a save: its result is kept when it is there, and otherwise its request goes to the replay list, still
counted (R20, R140). -/
def State.saveMemOp (s : State) (crew : Nat) (x : Nat × Op) : State :=
  match x.2.kind with
  | .mem r c fid =>
    if c ≠ crew then s
    else if x.2.stage = .atHome then s.completeMem x.1 x.2 r c fid
    else { s with ops := kdel s.ops x.1 }.modFibre c fid fun f => { f with replay := insertReq { r with cause := 0 } f.replay }
  | .copy _ | .matrix _ _ | .frame _ _ | .send | .recv | .query _ => s

/-- An operation of the frame engine in progress at a save completes (R20). -/
def State.saveFrameOp (s : State) (crew : Nat) (x : Nat × Op) : State :=
  match x.2.kind with
  | .frame f fid => if x.2.issuer = crew then s.completeFrame x.1 x.2 f fid else s
  | .mem _ _ _ | .copy _ | .matrix _ _ | .send | .recv | .query _ => s

/-- An operation that reads the state of an engine at a moment of its own, in flight at a save, reads it now, and a BXCANCEL reaches what it
names (R140). -/
def State.saveReader (s : State) (crew : Nat) (x : Nat × Op) : State :=
  if x.2.issuer ≠ crew then s
  else match x.2.kind with
    | .matrix m _ => s.completeMstat x.1 x.2 m
    | .query q => s.completeQuery x.1 x.2 q
    | .mem _ _ _ | .copy _ | .frame _ _ | .send | .recv => s

/-- A crew has an operation of the frame engine that has not completed. -/
def State.frameOpen (s : State) (crew : Nat) : Bool :=
  s.ops.any fun x => x.2.issuer == crew && match x.2.kind with
    | .frame _ _ => true
    | .mem _ _ _ | .copy _ | .matrix _ _ | .send | .recv | .query _ => false

/-- A copy that runs is cancelled, to be replayed (R256). -/
def Op.cancelCopy (o : Op) : Op :=
  match o.kind with
  | .copy c => { o with kind := .copy { c with claim := 0, err := 0 }, stage := .issued, page := none }
  | .mem _ _ _ | .matrix _ _ | .frame _ _ | .send | .recv | .query _ => o

/-- The waiter belongs to a crew, but for its receives, which the Wicket goes on serving (R303). -/
def State.waiterOf (s : State) (crew : Nat) : PageWaiter → Bool
  | .fibre c _ | .held c _ | .crew c _ => c == crew
  | .op id => match kget s.ops id with
    | some o => o.issuer == crew && o.kind != .recv
    | none => false
  | .queue _ | .packet _ _ | .node _ _ _ | .entry _ _ => false

/-- A send of a saved crew paused (R302). -/
def State.pauseSend (s : State) (x : Nat × Send) : State :=
  let t := { s with sends := kset s.sends x.1 { x.2 with paused := true, grants := [] } }
  if x.2.requested then t.tellDest x.2.id (.pause x.2.id) else t

/-- Arrivals of engines in phases that have not completed withdrawn (R20, R256, R281). -/
def Crew.withdraw (c : Crew) : Crew :=
  { c with withdrawn := c.withdrawn ++ c.bars.flatMap fun b => List.replicate b.2.eng b.1
           bars := kmap c.bars fun _ b => { b with arrived := b.arrived - b.eng, eng := 0 } }

/-- The engine work of a crew taken into its image. -/
def State.saveEngines (s : State) (crew : Nat) : State :=
  let c := s.crew crew
  let cl := clusterOf c.core
  let t := { s with ops := kmap s.ops fun _ o => if o.issuer = crew then o.cancelCopy else o
                    pages := kmap s.pages fun _ p => { p with waiters := p.waiters.filter fun w => !s.waiterOf crew w } }
  let u := (t.sends.filter fun x => x.2.crew == crew).foldl State.pauseSend t
  let v := u.modCluster cl fun k =>
    { k with pending := k.pending.filter fun x => x != crew, pairs := k.pairs.filter fun p => p.2 != crew }
  v.modCrew crew fun x => { x.withdraw with claims := x.claims.map fun k => { k with pair := none } }

/-- The data of a crew that its image holds carries a poison mark (R372, R409): in the register file of a fibre, a plane or a staged
footprint. -/
def Crew.poisonHeld (c : Crew) : Bool :=
  c.fibres.any (fun f => f.2.poisoned) || c.shutters.any (fun h => !h.poison.isEmpty) ||
    c.claims.any fun k => k.active.any Plane.poisoned || k.shadow.any Plane.poisoned

/-- The registers, scratchpad and times of a crew taken into its image, which fails its check if it holds poisoned data (R372). -/
def State.saveBody (s : State) (crew : Nat) (tag : RelTag) : State :=
  let c := s.crew crew
  let cl := clusterOf c.core
  let area := c.scratchArea
  let w := s.wakeRange cl area.base area.limit
  let t := w.modCore c.core fun k => { k with overflow := k.overflow.filter fun e => e.1 != crew }
  t.modCrew crew fun x =>
    { x.uniformSaved with
      life := if c.life == .halting then .halted else .saved
      fibres := kmap x.fibres fun _ f => f.saved
      savedAt := s.tick
      parkedSince := none
      scratchImage := w.readScratch cl area.base area.limit
      image := !w.scratchPoison cl area.base area.limit && !x.poisonHeld
      saveTag := some tag }

/-- The replay entries of a fibre hung from its image in segments of the crew's own frame heap (R335, R372); without free ones there its image
alone holds them. -/
def State.saveChain (s : State) (crew fid : Nat) : FrRes Unit :=
  let f := (s.crew crew).fibre fid
  let l := (f.replay.map fun r => r.entry 0) ++ f.attached.map fun r => r.entry 1
  match (s.allocSegs crew (ceilDiv l.length 31)).filter fun r => r.2.all (s.crew crew).segFrame.holds with
  | none => (s, .ok ())
  | some (t, vas) => frThen (t.writeReplay crew vas (chunks31 vas.length l)) fun u _ =>
      (u.modFibre crew fid fun f => { f with chain := vas }, .ok ())

/-- Those of every fibre of a crew. -/
def State.saveChains (s : State) (crew : Nat) : FrRes Unit :=
  (s.crew crew).fibres.foldl (fun r f => frThen r fun t _ => t.saveChain crew f.1) (s, .ok ())

/-- The segments of those entries freed at the restore. -/
def State.freeChains (s : State) (crew : Nat) : State :=
  let c := s.crew crew
  (c.fibres.flatMap fun f => f.2.chain).foldl (fun (t : State) va => t.unuseSeg c.gang va)
    (s.modCrew crew fun x => { x with fibres := kmap x.fibres fun _ f => { f with chain := [] } })

/-- The save of a crew SAVING ends (R20, R371): every operation in flight is handled, its segments and its writes reach their
homes. It waits while a group holds pending hints (R77), and for the operations of the frame engine, which complete. -/
def State.saveCrew (s : State) (crew : Nat) : State :=
  let c := s.crew crew
  if !(c.life == .saving || c.life == .halting) || c.groups.any fun g => g.2.hints.pending then s
  else
    let s1 := s.ops.foldl (fun (t : State) x => t.saveFrameOp crew x) s
    let s2 := s1.ops.foldl (fun (t : State) x => (t.saveReader crew x).saveMemOp crew x) s1
    if !((s2.crew crew).life == .saving || (s2.crew crew).life == .halting) || s1.frameOpen crew || s2.pageWaits (.crew crew 0x9F) then s2
    else match s2.saveSaddle c.core crew with
    | (t, .error (.page va w)) => t.crewPage crew va w 0x9F
    | (t, .error (.effect _ _)) => t
    | (s3, .ok _) =>
      match s3.drain (s3.agentOf c.core) with
      | (t, some _) => t
      | (t, none) => match t.saveChains crew with
        | (_, .error (.page va w)) => t.crewPage crew va w 0x9F
        | (_, .error (.effect _ e)) => t.modCrew crew fun x => { x with lost := some e }
        | (u, .ok _) =>
          let (v, tag) := u.release c.core .system
          (v.saveEngines crew).saveBody crew tag

/-! ## Restoring (R20, R127, R140, R256, R281, R302, R303, R371) -/

/-- A send of a restored crew goes on from what it has sent (R302). -/
def State.resumeSend (s : State) (x : Nat × Send) : State :=
  if x.2.requested then
    { s with sends := kset s.sends x.1 { x.2 with paused := false, epoch := x.2.epoch + 1 } }.tellDest x.2.id (.resume x.2.id x.2.sent)
  else { s with sends := kset s.sends x.1 { x.2 with paused := false, refused := none } }

/-- A completion that was deferred into an image applied (R303). -/
def State.applyDeferred (s : State) (x : Nat × Cause × List RelTag) : State :=
  match kget s.ops x.1 with
  | none => s
  | some o =>
    let agent := if o.kind = .recv then some ((x.2.2.head?.map RelTag.core).getD (bulkAgent 0)) else none
    (({ s with ops := kdel s.ops x.1 }).completeAll o (if x.2.1 = 0 then none else some x.2.1) x.2.2).arriveOp o.issuer o.bar agent

/-- A BXCANCEL of a restored crew whose cancel was applied meanwhile completes (R20). -/
def State.applyCancelled (s : State) (crew : Nat) (x : Nat × Op) : State :=
  match x.2.kind with
  | .query q => if x.2.issuer = crew ∧ x.2.stage = .atHome then s.finishQuery x.1 x.2 q q.vals else s
  | .mem _ _ _ | .copy _ | .matrix _ _ | .frame _ _ | .send | .recv => s

/-- A withdrawn arrival reapplied to its barrier's count (R20). -/
def Crew.rearrive (c : Crew) (n : Nat) : Crew :=
  { c with bars := kset c.bars n { c.bar n with arrived := (c.bar n).arrived + 1, eng := (c.bar n).eng + 1 } }

/-- The completions that have waited in a crew's image for its fibres counted on their tokens (R20). -/
def State.applyLate (s : State) (crew : Nat) (l : List LateDone) : State :=
  l.foldl (fun (t : State) x => t.completeFor (.fibre crew x.fid x.k) x.cause x.eng x.regs x.pos x.vals) s

/-- A crew's image on its new core: times, barriers, claims and held words. -/
def Crew.loaded (c : Crew) (tick : Nat) (win : List Byte) (core : Nat) : Crew :=
  let d := c.withdrawn.foldl Crew.rearrive c
  { d with life := .running, window := win, withdrawn := [], scratchImage := [], deferred := [], saveTag := none, late := []
           savedTicks := c.savedTicks + (tick - c.savedAt)
           held := kmap c.held fun _ h => { h with iss := { h.iss with core := core } } }

/-- A fibre of a restored crew goes on: a parked one looks again, one that waited for a page finds its fault again. -/
def State.wakeRestored (s : State) (crew fid : Nat) : State :=
  match ((s.crew crew).fibre fid).st with
  | .parked (.page _ _) => s.enter crew fid
  | .parked (.waitmem r wide) => s.waitAgain crew fid r wide
  | .parked (.wait _ _ _) | .parked (.effect _) => s.recheck crew fid
  | .parked _ => s
  | .loose _ | .formed _ | .overflow => s.enter crew fid

/-- The engine work of a restored crew taken up on its new core. -/
def State.restoreEngines (s : State) (crew core : Nat) : State :=
  let c := s.crew crew
  let t := { s with ops := kmap s.ops fun _ o => if o.issuer = crew then { o with core := core } else o }.modCluster
    (clusterOf core) fun k => { k with pending := (c.claims.filter fun (q : Claim) => q.pair.isNone).map (fun _ => crew) ++ k.pending }
  let mine : KMap Send := t.sends.filter fun x => x.2.crew == crew
  (mine.foldl State.resumeSend t).startSends

/-- The image of a crew RESTORING checked and loaded (R371, R372): it runs, waits for a page of its window, or is terminated. Its staged
footprints take their staging at once, be it more than is free (R256; log entry 151). -/
def State.loadCrew (s : State) (crew : Nat) : State :=
  let c := s.crew crew
  let core := c.core
  if c.life != .restoring || s.pageWaits (.crew crew 0xA3) then s
  else if !c.image then s.terminate crew 0xAB noFibre 0
  else match s.loadWindow crew with
    | (t, .error (.page va w)) => t.crewPage crew va w 0xA3
    | (t, .error _) => t.terminate crew 0xA3 noFibre 0
    | (t, .ok win) =>
      let t1 := (t.wakeRange (clusterOf core) c.scratchArea.base c.scratchArea.limit).writeScratch (clusterOf core) c.scratchArea.base
        c.scratchImage
      let t2 := (match c.saveTag with | some g => t1.closeEntries (t1.agentOf g.core) g.num | none => t1).startFence core
      let t3 := t2.modCrew crew fun c => c.loaded t2.tick win core
      let t4 := t3.restoreEngines crew core
      let t5 := t4.ops.foldl (fun (u : State) x => u.applyCancelled crew x) ((c.deferred.foldl State.applyDeferred t4).applyLate crew c.late)
      let fids := c.fibres.map Prod.fst
      let t6 := fids.foldl (fun (u : State) f => u.reissue crew f) (t5.freeChains crew)
      let t7 := fids.foldl (fun (u : State) f => u.wakeRestored crew f) t6
      (List.range 8).foldl (fun (u : State) j => u.checkJoin crew j) t7

/-- The crews of a crew's pipeline that wait put at an origin, in the turn of their gang or where a scheduling round has made room for
them, or their restore carried on (R26, R46, R365, R371). -/
def State.restorePipe (s : State) (crew die x0 y0 : Nat) : State :=
  let c := s.crew crew
  let mates := s.pipeline c
  let promised := (s.die die).promised.any fun k => mates.any fun d => d.1 == k
  let t : State := match (kget s.gangs c.gang).filter fun g => c.waits && (s.turnOf c.gang g || promised) with
    | none => s
    | some g => match s.placeBack g mates [] die x0 y0 with
      | some l => l.foldl (fun (u : State) (x : (Nat × Crew) × (Nat × Nat)) => u.takeCore x.1.1 x.2) s
      | none => s
  ((t.pipeline c).filter fun d => d.2.life == .restoring).foldl (fun (u : State) d => u.loadCrew d.1) t

/-! ## Pre-emption (R370) -/

/-- The ways of pre-empting a crew. -/
inductive Choice where
  | drain | flush | save
deriving DecidableEq, Repr

/-- The median of lifetimes, the lower of the two middle ones (R373). -/
def medianOf (l : List Nat) : Option Nat := (sortUp l)[(l.length - 1) / 2]?

/-- The age of a crew (R370). -/
def Crew.age (c : Crew) (tick : Nat) : Nat := tick - c.firstIssue.getD tick

/-- The choice for one crew (R370). -/
def State.choiceFor (s : State) (c : Crew) : Choice :=
  let short := match medianOf (kgetD (s.lifetimes.filter fun e => e.1 == c.kid) c.kid []) with
    | some m => decide (m * (c.created - c.exited) < 20000 * c.created)
    | none => false
  if short then .drain else if c.idem && decide (c.age s.tick < 50000) then .flush else .save

/-- A crew flushed (R370): its race events are reported (R210), its work is discarded, and it waits for cores in its launch state, with
its heap, in which nothing is in use. It holds its crew tag until it ends (R316). -/
def State.flushCrew (s : State) (crew : Nat) : State :=
  let c := s.crew crew
  let t := s.modCore c.core fun k => { k with saddle := k.saddle.filter fun g => g.2.crew != crew }
  let (u, tag) := (t.drain (t.agentOf c.core)).1.release c.core .system
  let v := (((u.closeTags [tag]).reportRaces crew).cancelBulk crew).clearCrew crew .flushing false
  match kget s.gangs c.gang with
  | none => v
  | some g => v.modCrew crew fun x => { launchCrew c.gang g (c.x, c.y, c.z) c.stage c.frameArea.base with records := x.records, tags := x.tags }

/-- The running crews of a pipeline, with draining the draining ones too, begin to be saved together (R26). A crew that starts or is
restored runs first. -/
def State.savePipe (s : State) (c : Crew) (draining : Bool) : State :=
  let mates := s.pipeline c
  if mates.any fun d => d.2.life == .starting || d.2.life == .restoring then s
  else (mates.filter fun d => d.2.life == .running || (draining && d.2.life == .draining)).foldl (fun (t : State) d =>
    t.modCrew d.1 fun x => { x with life := .saving }) s

/-- A crew begins to drain. -/
def State.drainCrew (s : State) (crew : Nat) : State :=
  s.modCrew crew fun c => { c with life := .draining, choiceTick := s.tick
                                   fibres := kmap c.fibres fun _ f => { f with preempted := true } }

/-- The crews that are on their way off their cores. -/
def State.leaving (s : State) : List Nat :=
  (s.crews.filter fun c => c.2.resident && (c.2.life == .draining || c.2.life == .saving || c.2.life == .halting)).map Prod.fst

/-- The priority of a crew's queue. -/
def State.crewPri (s : State) (c : Crew) : Nat := ((kget s.gangs c.gang).map s.gangPri).getD 0

/-- A gang of higher priority than a crew's waits for cores that it could have without the crews of lower-priority queues, and not
without those alone that leave already (R370). -/
def State.wanted (s : State) (pri : Nat) : Bool :=
  s.gangs.any fun h => decide (s.gangPri h.2 < pri) && !s.couldGo h.1 h.2 s.leaving && s.couldGo h.1 h.2 (s.leaving ++
    (s.crews.filter fun c => decide (s.gangPri h.2 < s.crewPri c.2)).map Prod.fst)

/-- No running crew comes before this one: lower priority first, and then younger. -/
def State.firstToGo (s : State) (c : Crew) : Bool :=
  (s.crews.filter fun d => d.2.life == .running).all fun d =>
    !(decide (s.crewPri c < s.crewPri d.2) ||
      (s.crewPri d.2 == s.crewPri c && decide (d.2.age s.tick < c.age s.tick)))

/-- The choice of R370 carried out for a crew and, as R370 says, its pipeline. -/
def State.preempt (s : State) (crew : Nat) : State :=
  let c := s.crew crew
  if c.life != .running || !s.wanted (s.crewPri c) || !s.firstToGo c then s
  else match s.choiceFor c with
    | .drain => s.drainCrew crew
    | .flush =>
      let mates := (s.pipeline c).filter fun d => d.2.life == .running || d.2.life == .starting
      if mates.all fun d => s.choiceFor d.2 == .flush then mates.foldl (fun (t : State) d => t.flushCrew d.1) s else s.savePipe c false
    | .save => s.savePipe c false

/-- A crew still DRAINING 40 µs after the choice is saved, with its pipeline and as one unit with it (R26, R370). -/
def State.drainTimeout (s : State) (crew : Nat) : State :=
  let c := s.crew crew
  if c.life != .draining || decide (s.tick < c.choiceTick + 40000) then s
  else s.savePipe c true

/-! ## Scheduling rounds (R46) -/

/-- The pipelines of a die that are fully parked, with the tick since which they have been, one crew for each. -/
def State.parkedPipes (s : State) (die : Nat) : List (Nat × Nat) :=
  (s.crews.filter fun c => c.2.fullyParked && dieOf c.2.core == die && c.2.stage ==
      ((s.pipeline c.2).filter fun d => d.2.resident).foldl (fun n d => min n d.2.stage) 8 &&
      (s.pipeline c.2).all fun d => !d.2.resident || d.2.fullyParked).map fun c =>
    (((s.pipeline c.2).filter fun d => d.2.resident).foldl (fun n d => max n (d.2.parkedSince.getD s.tick)) 0, c.1)

/-- A list of pairs in rising order of their first members. -/
def sortPairs (l : List (Nat × Nat)) : List (Nat × Nat) :=
  l.foldr (fun x acc => acc.takeWhile (fun y => decide (y.1 < x.1)) ++ x :: acc.dropWhile (fun y => decide (y.1 < x.1))) []

/-- The crews of pipelines given by one crew each. -/
def State.crewsOf (s : State) (l : List Nat) : List Nat :=
  l.flatMap fun id => ((s.pipeline (s.crew id)).filter fun d => d.2.resident).map Prod.fst

/-- A die's cores could hold a saved pipeline if some crews left. -/
def State.couldHold (s : State) (die : Nat) (c : Crew) (gone : List Nat) : Bool :=
  match kget s.gangs c.gang with
  | none => false
  | some g => origins.any fun o => (g.launch.layoutAt (s.occupants gone) (fun k => (s.cluster k).fused) die o.1 o.2).isSome

/-- The saved pipelines with no crew on a core or about to leave one, one crew for each, the longest saved first. -/
def State.savedPipes (s : State) : List Nat :=
  (sortPairs ((s.crews.filter fun c => c.2.life == .saved && (s.pipeline c.2).all fun d =>
    !d.2.resident && !d.2.unsettled && (d.2.life != .saved || decide (c.2.stage ≤ d.2.stage))).map fun c => (c.2.savedAt, c.1))).map Prod.snd

/-- The fully parked pipelines of a die, one crew for each and the longest parked first, whose cores a saved pipeline needs: none when it
fits without them, or not even with them. -/
def State.roomFor (s : State) (die : Nat) (c : Crew) : Option (List Nat) :=
  let pipes := (sortPairs (s.parkedPipes die)).map Prod.snd
  if s.couldHold die c s.leaving then none
  else ((List.range (pipes.length + 1)).find? fun n => s.couldHold die c (s.leaving ++ s.crewsOf (pipes.take n))).map fun n => pipes.take n

/-- A scheduling round of a die (R46): for the longest saved pipeline that the die could hold without fully parked ones, those parked
longest are saved, and the die is kept for it until it is back. A die makes room once in the round of a tick. -/
def State.round (s : State) (die : Nat) : State :=
  if (s.die die).promised.isSome || (s.die die).rounded == some s.tick then s
  else match (s.savedPipes.filter fun id => !s.dies.any fun d => d.2.promised == some id).findSome? fun id =>
      (s.roomFor die (s.crew id)).map fun l => (id, l) with
    | none => s
    | some (id, l) => (l.foldl (fun (t : State) k => t.savePipe (t.crew k) false) s).modDie die fun d =>
      { d with promised := some id, rounded := some s.tick }

end Sys2Proof.Machine
end

