-- ==== Sys2Proof/Machine/Sys.lean ====
section
/-! DEFINITION. The SYS words (R395 to R397). -/

namespace Sys2Proof.Machine

/-- A FENCE.AR at SYSTEM scope of the fibres of a group (R397). -/
def State.sysFence (s : State) (i : Issue) (fids : List Nat) : State :=
  fids.foldl (fun (t : State) fid => (t.fenceAt i.core i.crew fid .ar .system).1) s

/-- A SYS word (R396, R397): level, operands, the count on K0, and its effect after the fence. act answers the state in which the
word has ended. -/
def sysWord {α : Type} (user : Bool) (regs : List Nat) (plan : Env → Except LaneErr α)
    (act : α → Issue → Env → List (Nat × Eff) → State → State) (s : State) : Host.Outcome State Fault Refusal :=
  withIssue s fun i t =>
    let e := envOf i t
    if !user && !e.crew.system then t.groupEffect i (0, 0x18)
    else if e.splitRead regs then t.groupEffect i (9, 0x3A)
    else match plan e with
      | .error x => t.groupEffect i x
      | .ok a =>
        let full := i.grp.fids.filter fun fid => decide (63 ≤ ((e.crew.fibre fid).tok 0).count)
        let parts := i.grp.fids.filter fun fid => !full.contains fid
        let bad := full.map fun fid => (fid, laneEff (9, 0x30) i.pc)
        if parts.isEmpty then t.endWord i i.grp.latches false bad else act a i e bad (t.sysFence i parts)

/-- The registers c to c + n - 1 of a SYS word, or cause 0xB5. -/
def sysRegs (c n : Nat) (k : Unit → Except LaneErr α) : Except LaneErr α := if 31 < c + n - 1 then .error (0, 0xB5) else k ()

/-- A segment register of a crew (R155): 0 SCRATCH, 1 FRAME, 2 CONST. -/
def Crew.segReg (c : Crew) (n : Nat) : SegReg := if n = 0 then c.segScratch else if n = 1 then c.segFrame else c.segConst

/-- A value that R155 allows in a segment register. -/
def segValueOk (n base limit : Nat) : Bool :=
  if n = 0 then base % 128 == 0 && limit % 128 == 0 && decide (base + limit ≤ Config.scratchBytes)
  else if n = 1 then base % 1024 == 0 && limit % 1024 == 0
  else base % 128 == 0

/-- The constant window of a segment (R127): its bytes, or why they cannot be read. -/
def State.readWindow (s : State) (pasid base limit : Nat) : State × Except EngErr (List Byte) :=
  s.engineRead pasid base (min limit 4096)

/-- SEGW waits for every copy, matrix and bulk operation of its crew (R397). -/
def State.crewBusy (s : State) (crew : Nat) : Bool :=
  s.ops.any fun o => o.2.issuer == crew && match o.2.kind with
    | .copy _ | .matrix _ _ | .send | .recv | .query _ => true
    | .mem _ _ _ | .frame _ _ => false

/-- SEGW once its operands are good (R397). It can park a fibre, for a page of its window, and so is a switch point (R31). -/
def State.segWrite (s : State) (i : Issue) (instr : Instr) (n base limit : Nat) (bad : List (Nat × Eff)) : State :=
  let stop := fun (t : State) => t.endWord i [] true
    (bad ++ (i.grp.fids.filter fun f => !(bad.any fun x => x.1 == f)).map fun f => (f, laneEff (0, 0xB5) i.pc))
  if !segValueOk n base limit then stop s
  else if n = 2 then
    match s.readWindow (s.crew i.crew).pasid base limit with
    | (t, .ok w) =>
      (t.modCrew i.crew fun c => { c with segConst := ⟨base, limit⟩, window := w }).endWord i [] true bad
    | (t, .error (.page va w)) =>
      let (id, u) := t.parkHeld i instr i.grp.fids .page []
      (u.pageRequest (u.crew i.crew).pasid (va / 4096) w (.held i.crew id)).endSwitch i
    | (t, .error _) => stop t
  else
    (s.modCrew i.crew fun c => if n = 0 then { c with segScratch := ⟨base, limit⟩ } else { c with segFrame := ⟨base, limit⟩ }).endWord
      i [] true bad

/-- SEGW (R397). The group stays at the word while an operation that it waits for is in flight. -/
def execSegw (a : Sel) (c : Fin 32) (s : State) : Host.Outcome State Fault Refusal :=
  sysWord false (selRegs a 1 ++ [c.val, c.val + 1, c.val + 2]) (fun e =>
    sysRegs c.val 3 fun _ =>
      match e.readU a 0, e.readGs [c.val, c.val + 1, c.val + 2] with
      | .ok n, .ok ws => if 2 < n.toNat then .error (0, 0xB5) else .ok (n.toNat, ws.map BitVec.toNat)
      | .error x, _ => .error x
      | _, .error x => .error x)
    (fun x i _ bad t =>
      if t.crewBusy i.crew then t
      else t.segWrite i (.segw a c) x.1 (x.2.headD 0 + 2 ^ 32 * x.2.getD 1 0) (x.2.getD 2 0) bad) s

/-- G registers written at once, as a uniform write of the group (R42). -/
def State.writeGs (s : State) (i : Issue) (e : Env) (c : Nat) (vals : List Word) (bad : List (Nat × Eff)) : State :=
  let t := (vals.foldl (fun (r : State × Nat) v =>
    (r.1.modCrew i.crew fun x => x.putG 0 (c + r.2) v i.grp.fids e.cycle s.nextId (e.pick 4096 (100 + c + r.2) 3), r.2 + 1)) (s, 0)).1
  t.endWord i i.grp.latches false bad

/-- A plan that writes n registers from c on. -/
def destPlan {α : Type} (e : Env) (c n : Nat) (k : Unit → Except LaneErr α) : Except LaneErr α :=
  sysRegs c n fun _ => match e.strictGs ((List.range n).map fun j => c + j) with
    | some x => .error x
    | none => k ()

/-- SEGR (R397). -/
def execSegr (a : Sel) (c : Fin 32) (s : State) : Host.Outcome State Fault Refusal :=
  sysWord false (selRegs a 1) (fun e =>
    destPlan e c.val 3 fun _ =>
      match e.readU a 0 with
      | .ok n => if 2 < n.toNat then .error (0, 0xB5) else .ok n.toNat
      | .error x => .error x)
    (fun n i e bad t =>
      let r := e.crew.segReg n
      t.writeGs i e c.val [BitVec.ofNat 32 r.base, BitVec.ofNat 32 (r.base / 2 ^ 32), BitVec.ofNat 32 r.limit] bad) s

/-- An offset that CSRR and CSRW accept (R397). -/
def csrPlan (e : Env) (a : Sel) : Except LaneErr Nat :=
  match e.readU a 0 with
  | .ok w => if w.toNat % 8 ≠ 0 ∨ (0x400000 ≤ w.toNat ∧ w.toNat < 0x800000) then .error (0, 0xB6) else .ok w.toNat
  | .error x => .error x

/-- The head through which a crew reaches the management space: that of the queue that launched it. -/
def State.crewHead (s : State) (crew : Nat) : Nat := s.queueHead (((kget s.gangs (s.crew crew).gang).map Gang.queue).getD 0)

/-- CSRR (R397). -/
def execCsrr (a : Sel) (c : Fin 32) (s : State) : Host.Outcome State Fault Refusal :=
  sysWord false (selRegs a 1) (fun e => destPlan e c.val 2 fun _ => csrPlan e a)
    (fun off i e bad t =>
      let (u, v) := t.readReg (t.crewHead i.crew) off
      u.writeGs i e c.val [BitVec.ofNat 32 v, BitVec.ofNat 32 (v / 2 ^ 32)] bad) s

/-- CSRW (R397). -/
def execCsrw (a : Sel) (c : Fin 32) (s : State) : Host.Outcome State Fault Refusal :=
  sysWord false (selRegs a 1 ++ [c.val, c.val + 1]) (fun e =>
    sysRegs c.val 2 fun _ =>
      match csrPlan e a, e.readGs [c.val, c.val + 1] with
      | .ok off, .ok ws => .ok (off, ws.map BitVec.toNat)
      | .error x, _ => .error x
      | _, .error x => .error x)
    (fun x i _ bad t =>
      (t.writeReg (t.crewHead i.crew) x.1 (x.2.headD 0 + 2 ^ 32 * x.2.getD 1 0)).endWord i i.grp.latches false bad) s

/-- ERET (R395, R397): the crew's level falls, and the group goes to the target. -/
def execEret (c : Fin 32) (s : State) : Host.Outcome State Fault Refusal :=
  sysWord false [c.val, c.val + 1] (fun e =>
    sysRegs c.val 2 fun _ =>
      match e.readGs [c.val, c.val + 1] with
      | .error x => .error x
      | .ok ws =>
        let t := (pairOf (ws.headD 0) (ws.getD 1 0)).toNat
        match targetCause t true with
        | some x => .error (0, x)
        | none => .ok t)
    (fun target i _ bad t =>
      let u := t.modCrew i.crew fun x => { x with system := false }
      (u.setPcs i.crew i.grp.fids target).endControl i bad) s

/-- TRAP (R397): the effect that the cause table lists, on every fibre of the group. -/
def execTrap (a : Sel) (s : State) : Host.Outcome State Fault Refusal :=
  sysWord false (selRegs a 1) (fun e =>
    match e.readU a 0 with
    | .ok w => if 0xBF < w.toNat then .error (0, 0xB7) else .ok (w.setWidth 8)
    | .error x => .error x)
    (fun c i _ bad t =>
      let l := labelOf c
      let eff := { causeEff c (i.pc + 4) with prog := l == 2 || l == 3 || l == 11 }
      t.endWord i i.grp.latches false
        (bad ++ (i.grp.fids.filter fun f => !(bad.any fun x => x.1 == f)).map fun f => (f, eff))) s

/-- INTR (R397): an interrupt event on a vector of the crew's window, at either level. -/
def execIntr (a : Sel) (s : State) : Host.Outcome State Fault Refusal :=
  sysWord true (selRegs a 1) (fun e =>
    match e.readU a 0 with
    | .ok w => if e.crew.intLen ≤ w.toNat then .error (0, 0x19) else .ok w.toNat
    | .error x => .error x)
    (fun n i e bad t => (t.vectorEvent (e.crew.intFirst + n) (t.crewHead i.crew)).endWord i i.grp.latches false bad) s

/-- HALT (R397, R410). -/
def execHalt (s : State) : Host.Outcome State Fault Refusal :=
  sysWord false [] (fun _ => .ok ()) (fun _ i _ bad t =>
    (t.endWord i i.grp.latches false bad).haltCrew i.crew (i.grp.fids.headD noFibre) i.pc) s

end Sys2Proof.Machine
end

