-- ==== Sys2Proof/Machine/EventsMemory.lean ====
section
/-! DEFINITION. The events of completion, errors, homes, translation, power gating, allowance counters and host coherence (R19,
R133, R168, R170, R178 to R185, R189 to R192, R201, R203, R209, R214, R215, R409). An event whose condition does not hold
changes nothing. -/

namespace Sys2Proof.Machine

/-! ## Completions and errors (R19, R133, R409) -/

/-- The completion of an operation. -/
def State.completeOp (s : State) (id : Nat) (o : Op) : State :=
  if o.stage = .logged ∨ o.stage = .done then s
  else match o.kind with
    | .mem r crew fid => s.completeMem id o r crew fid
    | .copy c => s.completeCopy id o c
    | .matrix m _ => s.completeMstat id o m
    | .frame f fid => s.completeFrame id o f fid
    | .query q => s.completeQuery id o q
    | .send | .recv => s

/-- COMPLETION (R133). -/
def execCompletion (op : Nat) (s : State) : Host.Outcome State Fault Refusal :=
  .next (match kget s.ops op with
    | some o => s.orSnoop (s.completeOp op o)
    | none => s)

/-- An operation whose replays are exhausted completes with cause 0xB1 (R19). Of MCLAIM the token completes and its claim goes on, and a
claim whose MREL has failed can be released by another (log entry 72). -/
def State.exhaustOp (s : State) (id : Nat) (o : Op) : State :=
  match o.kind with
  | .mem r crew fid => s.finishMem id crew fid r { cause := some 0xB1 }
  | .copy _ => s.failCopy id o 0xB1
  | .matrix m _ =>
    if m.fn = fnMstat then s.finishUniform id o m.atile m.a 1 (some 0xB1) []
    else (s.modCrew o.issuer fun c => { c with claims := c.claims.map fun k =>
        { k with queue := k.queue.filter fun q => q != id, mrel := k.mrel && !(m.fn == fnMrel && k.queue.contains id) } }).finishMat
      id o (some 0xB1)
  | .frame f _ => (s.giveBack f).finishFrame id o f (some 0xB1) [] []
  | .query q => s.endQuery id o q (some 0xB1) []
  | .send => (s.failSend id 0xB1).startSends
  | .recv =>
    match kget s.recvs id with
    | none => s
    | some r => match r.bound with
      | some mid => s.failMsg mid 0xB1
      | none => s.endRecv id (r.ending.getD r.unbound) (some 0xB1)

/-- An operation whose request is in no engine: its result is there, or it waits in the image of a saved crew, as receives do not (R303). -/
def State.atRest (s : State) (o : Op) : Bool :=
  o.stage == .logged || o.stage == .done || o.stage == .atHome ||
    (o.kind != .recv && ((s.crew o.issuer).life == .saved || (s.crew o.issuer).life == .halted || (s.crew o.issuer).life == .restoring))

/-- TRANSIENT_FAULT (R19): the request is reissued from its record, and completes with an error when 8 reissues running have failed. An
operation that goes on meanwhile counts anew. -/
def execTransientFault (op : Nat) (s : State) : Host.Outcome State Fault Refusal :=
  .next (match kget s.ops op with
    | some o =>
      if s.atRest o then s
      else if o.replays < 8 then { s with ops := kset s.ops op { o with replays := o.replays + 1, walked := false } }
      else s.exhaustOp op o
    | none => s)

/-- The numbers [a, a + n). -/
def addrRange (a n : Nat) : List Nat := (List.range n).map fun i => a + i

/-- A plane of a granted pair marked (R409). -/
def State.poisonPlane (s : State) (cluster pair : Nat) (shadow : Bool) : State :=
  let bad := fun (p : Plane) => { p with poisoned := true }
  match kget (s.cluster cluster).pairs pair with
  | none => s
  | some crew => s.modCrew crew fun c => c.modClaim (fun k => k.pair == some pair) fun k =>
      if shadow then { k with shadow := k.shadow.map bad } else { k with active := k.active.map bad }

/-- A line with the bytes that it holds of a range marked (R409). -/
def L1Line.poisonRange (l : L1Line) (line addr len : Nat) : L1Line :=
  { l with bytes := kmap l.bytes fun o b => { b with poison := b.poison || (addr ≤ line * 128 + o && decide (line * 128 + o < addr + len)) } }

/-- Staged bytes of a copy of a crew marked; in an image they spoil it (R372, R409). -/
def State.poisonStaging (s : State) (crew op off len : Nat) : State :=
  s.modCrew crew fun c =>
    { c with shutters := c.shutters.map fun h =>
               if h.op = op then { h with poison := h.poison ++ (addrRange off len).filter fun o => decide (o < h.bytes.length) } else h
             image := c.image && !(c.imaged && c.shutters.any fun h => h.op == op) }

/-- UNCORRECTABLE_ERROR (R408, R409): a poison mark on the bytes, or POISON at the next word of every affected fibre. -/
def execUncorrectableError (site : PoisonSite) (s : State) : Host.Outcome State Fault Refusal :=
  .next (match site with
    | .l1 agent addr len => s.modAgent agent fun g =>
      { g with l1 := kmap g.l1 fun k l => l.poisonRange k addr len, wc := kmap g.wc fun k l => l.poisonRange k addr len }
    | .saddlebag core addr len => s.modCore core fun c => { c with saddle := kmap c.saddle fun k g =>
        { g with poison := g.poison ++ ((addrRange addr len).filter fun a => a / 1024 == k).map fun a => a % 1024 } }
    | .staging crew op off len => s.poisonStaging crew op off len
    | .device addr len | .l2 addr len => { s with poisonDev := s.poisonDev ++ (addrRange addr len).filter isDevice }
    | .hostMem addr len => { s with poisonDev := s.poisonDev ++ (addrRange addr len).filter fun a => !isDevice a }
    | .scratch cluster addr len =>
      { s with poisonScratch := s.poisonScratch ++ (addrRange (scratchKey cluster addr) len).filter fun a =>
          decide (cluster < 192) && a / Config.scratchBytes == cluster }
    | .fibre crew fid => (s.modFibre crew fid fun f => { f with poisoned := true }).modCrew crew fun c =>
      { c with image := c.image && !c.imaged }
    | .uniform crew => s.modCrew crew fun c =>
      { c with fibres := kmap c.fibres fun _ f => { f with poisoned := true }, image := c.image && !c.imaged }
    | .plane cluster pair shadow => s.poisonPlane cluster pair shadow)

/-! ## Homes (R170, R201, R203, R209) -/

/-- MERGE_AT_HOME (R209): an agent's dirty bytes of a line and those of its write-combining buffer reach the home. -/
def execMergeAtHome (agent line : Nat) (s : State) : Host.Outcome State Fault Refusal :=
  .next (s.orSnoop ((s.mergeLine agent line).1.mergeWc agent line).1)

/-- A request of a core that is ready to reach its home, with its address there. -/
def State.toHomeNow (s : State) (id : Nat) (o : Op) (k : State → Nat → Nat → Nat → MemReq → State) : State :=
  match o.kind with
  | .mem r crew fid =>
    if o.stage != .issued || s.memHeld id o.core crew fid r || (s.hostStalled && s.hostTarget o r) then s
    else match s.reqHome o crew fid r with
      | (t, .ok (pa, _)) => k t crew fid pa r
      | (_, .error _) => s
  | .copy _ | .matrix _ _ | .frame _ _ | .send | .recv | .query _ => s

/-- ATOMIC_AT_HOME (R170). -/
def execAtomicAtHome (op : Nat) (s : State) : Host.Outcome State Fault Refusal :=
  .next (match kget s.ops op with
    | some o => s.orSnoop (s.toHomeNow op o fun t crew fid pa r =>
        match r.fn with
        | .atom af result => let (u, d) := t.atomAt o.core crew fid r af result pa; u.holdResult op crew fid r d
        | .load _ | .store _ | .fence _ | .ifence | .allow _ | .cache _ => s)
    | none => s)

/-- DRAIN_REQUEST (R203). -/
def execDrainRequest (agent : Nat) (s : State) : Host.Outcome State Fault Refusal := .next (s.orSnoop (s.drain agent).1)

/-- CLEAN_BYTE_EXPIRY (R201). -/
def execCleanByteExpiry (agent : Nat) (s : State) : Host.Outcome State Fault Refusal := .next (s.expireClean agent)

/-! ## Translation (R177 to R181) -/

/-- The entries of a TLB whose leases have not ended. -/
def liveEntries (tick : Nat) (l : List TlbEntry) : List TlbEntry := l.filter fun e => decide (tick < e.lease)

/-- LEASE_EXPIRY (R180). -/
def execLeaseExpiry (s : State) : Host.Outcome State Fault Refusal :=
  .next { s with cores := kmap s.cores fun _ c => { c with tlb := liveEntries s.tick c.tlb }
                 dies := kmap s.dies fun _ d => { d with tlb := liveEntries s.tick d.tlb } }

/-- A request that translates before it reaches its home. -/
def MemReq.translates (r : MemReq) : Bool :=
  r.space != .scratch && match r.fn with
    | .load _ | .store _ | .atom _ _ | .allow _ => true
    | .fence _ | .ifence | .cache _ => false

/-- The lease of the entry through which a core would translate an address. -/
def State.leaseOf (s : State) (core pasid va : Nat) (acc : Acc) : Nat :=
  ((((s.core core).tlb ++ (s.die (dieOf core)).tlb).find? fun t => t.hits s.tick pasid va acc).map TlbEntry.lease).getD 0

/-- WALK_DONE (R177, R180): a request's translation ends; a fault is found again, and taken, when the request completes. -/
def execWalkDone (op : Nat) (s : State) : Host.Outcome State Fault Refusal :=
  .next (match kget s.ops op with
    | some o =>
      match o.kind with
      | .mem r _ _ =>
        if o.stage != .issued || o.walked || !r.translates then s
        else
          let pasid := (s.crew o.issuer).pasid
          match s.coreXl o.core pasid r.ea r.acc with
          | (t, .ok pa cacheable) =>
            { t with ops := kset t.ops op { o with walked := true, pa := pa, uncached := !cacheable
                                                   lease := t.leaseOf o.core pasid r.ea r.acc } }
          | (t, .fault _) => t
      | .copy _ | .matrix _ _ | .frame _ _ | .send | .recv | .query _ => s
    | none => s)

/-- XL_FLUSH (R181). -/
def execXlFlush (w : FlushWrite) (pasid : Nat) (s : State) : Host.Outcome State Fault Refusal :=
  .next (s.hostAccess w.head.val 0x20010 fun t => t.startFlush w.all pasid)

/-- FLUSH_DONE (R181). -/
def execFlushDone (s : State) : Host.Outcome State Fault Refusal :=
  .next (if s.flushBusy && s.flushOps.all fun id => ((kget s.ops id).map fun o => o.stage != .issued).getD true then
      { s with flushBusy := false, flushOps := [] }
    else s)

/-! ## Answers to Page Requests (R183, R185, R252, R304, R319, R356) -/

/-- A fibre whose pages have all been answered goes on. -/
def State.pageFibre (s : State) (crew fid : Nat) : State :=
  match ((s.crew crew).fibre fid).st with
  | .parked (.page _ _) => if s.pageWaits (.fibre crew fid) then s else (s.reissue crew fid).enter crew fid
  | .parked (.waitmem r wide) => if s.pageWaits (.fibre crew fid) then s else s.waitAgain crew fid r wide
  | .parked (.effect _) => s.recheck crew fid
  | _ => s

/-- A waiter whose page is there now goes on. -/
def State.pageThere (s : State) : PageWaiter → State
  | .fibre crew fid => s.pageFibre crew fid
  | .op id => s.bulkRetry id
  | .entry rec n => s.setDone rec n
  | .held _ _ | .queue _ | .packet _ _ | .node _ _ _ | .crew _ _ => s

/-- The state without a waiter. -/
def State.dropWaiter (s : State) (w : PageWaiter) : State :=
  { s with pages := kmap s.pages fun _ p => { p with waiters := p.waiters.filter fun x => x != w } }

/-- A fibre whose page the host denies, or does not answer, takes FAULT (R183, R185), and waits for none of its other pages any more; one whose
effect waits for a page of its frame ends its crew (R319). -/
def State.denyFibre (s0 : State) (crew fid : Nat) (c : Cause) : State :=
  let s := s0.dropWaiter (.fibre crew fid)
  let f := (s.crew crew).fibre fid
  match f.st with
  | .parked (.page rpc stay) => s.deliver crew fid { faultEff c rpc with stay := stay }
  | .parked (.waitmem _ _) => s.deliver crew fid (faultEff c f.pc)
  | .parked (.effect e) => s.terminate crew 0x9F fid e.pc
  | _ => s

/-- An engine operation whose page is denied (R252, R304, R319, R342). -/
def State.denyOp (s : State) (id : Nat) (c : Cause) : State :=
  match kget s.ops id with
  | none => s
  | some o => match o.kind with
    | .copy _ => s.failCopy id o 0x69
    | .frame f _ => s.frameDenied id o f c
    | .send | .recv => s.bulkDenied id
    | .mem _ _ _ | .matrix _ _ | .query _ => s

/-- A held word whose page is denied: SEGW faults (R397), and a word that reaches its frame ends its crew (R319). -/
def State.denyHeld (s : State) (crew id : Nat) : State :=
  match kget (s.crew crew).held id with
  | none => s
  | some h =>
    let fids := ((s.crew crew).fibres.filter fun f => f.2.st == .parked (.held id)).map Prod.fst
    match h.instr with
    | .segw _ _ =>
      (s.modCrew crew fun c => { c with held := kdel c.held id }).deliverAll crew (fids.map fun f => (f, laneEff (0, 0xB5) h.iss.pc))
    | _ => s.terminate crew 0x9F (fids.headD noFibre) h.iss.pc

/-- A waiter whose page the host denies or does not answer. -/
def State.pageDenied (s : State) (c : Cause) : PageWaiter → State
  | .fibre crew fid => s.denyFibre crew fid c
  | .op id => s.denyOp id c
  | .held crew id => s.denyHeld crew id
  | .queue q => s.queueError q 0xA3 (s.queue q).rptr
  | .packet q idx => s.rejectPacket q idx 0xA3
  | .node g n (some c) =>
    if c = 0xAD then s.modGraph g fun x => { x with unread := insertNew n x.unread } else s.failNode g n c
  | .node g n none => s.failGraph g n
  | .crew id c => s.terminate id c noFibre 0
  | .entry rec _ => s.loseRecord rec

/-- PAGE_REQUEST_RESPONSE (R183). -/
def execPageRequestResponse (req : Nat) (reply : PageReply) (s : State) : Host.Outcome State Fault Refusal :=
  .next (match kget s.pages req with
    | some p =>
      let t := { s with pages := kdel s.pages req }
      match reply with
      | .success => p.waiters.foldl State.pageThere t
      | .invalid | .failure => p.waiters.foldl (fun u w => u.pageDenied 0x45 w) t
    | none => s)

/-- PAGE_REQUEST_TIMEOUT (R183): 100 ms without an answer. -/
def execPageRequestTimeout (req : Nat) (s : State) : Host.Outcome State Fault Refusal :=
  .next (match kget s.pages req with
    | some p =>
      if s.tick < p.sent + 100000000 then s
      else p.waiters.foldl (fun u w => u.pageDenied 0x46 w) { s with pages := kdel s.pages req }
    | none => s)

/-! ## Power gating (R168) -/

/-- Every slot of a core returned to its counter's home (R189, R190). -/
def State.returnSlots (s : State) (core : Nat) : State :=
  (s.core core).slots.foldl (fun (t : State) x => t.returnSlot core x.addr) s

/-- POWER_GATE (R168): before an L1 way is gated its dirty bytes are merged and its slots returned. -/
def execPowerGate (u : GateUnit) (s : State) : Host.Outcome State Fault Refusal :=
  .next (if s.gated.contains u then s
    else match u with
      | .scratchBank cluster bank => if cluster < 192 ∧ bank < 32 then { s with gated := s.gated ++ [u] } else s
      | .l1Way core _ =>
        match s.drain (s.agentOf core) with
        | (t, some _) => s.orSnoop t
        | (t, none) => s.orSnoop { (t.invalidate (s.agentOf core)).returnSlots core with gated := s.gated ++ [u] }
      | .l2Way _ _ => { s with gated := s.gated ++ [u] })

/-- UNIT_WAKE (R168). -/
def execUnitWake (u : GateUnit) (s : State) : Host.Outcome State Fault Refusal :=
  .next (if s.gated.contains u then s.wake u else s)

/-! ## Allowance counters (R189 to R192) -/

/-- ALLOW_HOME_REQUEST (R191 to R193). -/
def execAllowHomeRequest (op : Nat) (s : State) : Host.Outcome State Fault Refusal :=
  .next (match kget s.ops op with
    | some o => s.orSnoop (s.toHomeNow op o fun t crew fid pa r =>
        match r.fn with
        | .allow f =>
          if (t.allowLocal o.core r f pa).isSome || t.joins o.core f pa then s
          else let (u, d) := t.allowAtHome o.core r f pa; u.holdResult op crew fid r d
        | .load _ | .store _ | .atom _ _ | .fence _ | .ifence | .cache _ => s)
    | none => s)

/-- SLOT_RETURN (R189, R190). -/
def execSlotReturn (core addr : Nat) (s : State) : Host.Outcome State Fault Refusal := .next (s.orSnoop (s.returnSlot core addr))

/-- JOIN_NOTICE (R192). -/
def execJoinNotice (op : Nat) (s : State) : Host.Outcome State Fault Refusal :=
  .next (match kget s.ops op with
    | some o => s.orSnoop (s.toHomeNow op o fun t crew fid pa r =>
        match r.fn with
        | .allow .give =>
          if !t.joins o.core .give pa then s
          else let (u, d) := t.joinAtHome o.core r pa; u.holdResult op crew fid r d
        | _ => s)
    | none => s)

/-! ## Hosts (R214, R215) -/

/-- HOST_SNOOP (R214): a proxy home gives up a host line, once a change for which it keeps the line has been applied. -/
def execHostSnoop (line : Nat) (s : State) : Host.Outcome State Fault Refusal :=
  .next (if isHost (line * 128) then s.modHome line fun h => if h.keep then { h with snoopDue := true } else { h with owned := false }
    else s)

/-- OWNERSHIP_RESPONSE (R214): the answer to an outstanding request. A line that is granted is kept until its change has been applied; a
request that is refused is made again. -/
def execOwnershipResponse (line : Nat) (granted : Bool) (s : State) : Host.Outcome State Fault Refusal :=
  .next (if isHost (line * 128) && (s.home line).asked then
      s.modHome line fun h => if granted then { h with owned := true, keep := true, asked := false, refusals := 0 }
        else { h with owned := false, asked := false, refusals := h.refusals + 1 }
    else s)

/-- BACK_INVALIDATE_DONE (R215): the host has given up the line. -/
def execBackInvalidateDone (line : Nat) (s : State) : Host.Outcome State Fault Refusal :=
  .next (s.modHome line fun h => { h with shared := false, snooped := false })

/-- A byte of a host write applied at its home, which sends no snoop for it. -/
def State.hostByte (s : State) (pa : Nat) (b : Byte) (tags : List RelTag) : State :=
  let t := s.placeByte pa ⟨b, false, 0, tags, s.tick, false⟩
  t.modHome (pa / 128) fun h => if isDevice pa then { h with shared := true } else { h with owned := false, keep := false, snoopDue := false }

/-- A write of a head's agent, unchecked and in arrival order, to device memory or to the memory of its host (R214, R215). With release
semantics it synchronises with the acquires that read it (R216). -/
def State.hostStore (s : State) (head at_ : Nat) (bytes : List Byte) (release : Bool) : State :=
  let a := headAgent head
  let (t, tags) := if release then let r := s.release a .system; (r.1, [r.2]) else (s, [])
  (bytes.foldl (fun (r : State × Nat) b => (r.1.hostByte r.2 b tags, r.2 + 1)) (t, at_)).1

/-- A read of n bytes by a host: it may cache the device lines from then on (R215), and with acquire semantics it synchronises with the
releases at SYSTEM scope that it reads (R216). -/
def State.hostLoad (s : State) (head at_ n : Nat) (acquire : Bool) : State :=
  let t := if isDevice at_ then
      (List.range ((at_ + n + 127) / 128 - at_ / 128)).foldl (fun (u : State) i => u.modHome (at_ / 128 + i) fun h => { h with shared := true }) s
    else s
  if acquire then t.synchronise (headAgent head) .system [] ((List.range n).foldl (fun m i => addTags m (kgetD t.tags (at_ + i) [])) []) else t

/-- HOST_WRITE (R214 to R216): what a host does at a device address or in its own memory, with release or acquire semantics where order is
set; device memory takes no access below READY (R407). The host aborts accesses to its memory (R194), and masks a vector (R374). -/
def execHostWrite (head : Fin 2) (addr : Nat) (act : HostAct) (order : Bool) (s : State) : Host.Outcome State Fault Refusal :=
  .next (
    let at_ := if isDevice addr then addr else hostPa head.val addr
    let closed := decide (s.stage ≠ stageReady) && isDevice addr
    match act with
    | .write bytes => if closed then s else s.hostStore head.val at_ bytes order
    | .read n => if closed then s else s.hostLoad head.val at_ n order
    | .abort n on =>
      let rest := s.hostAbort.filter fun a => !(decide (hostPa head.val addr ≤ a) && decide (a < hostPa head.val addr + n))
      { s with hostAbort := if on then rest ++ addrRange (hostPa head.val addr) n else rest }
    | .mask v => if v < 2048 then { s with vectors := kset s.vectors v { s.vector v with masked := true } } else s)

end Sys2Proof.Machine
end

