-- ==== Sys2Proof/Machine/EventsBulk.lean ====
section
/-! DEFINITION. The events of the copy, matrix and bulk transfer engines and of the chip-to-chip links (R22, R251, R259, R261, R291
to R305, R307, R308). An event whose condition does not hold changes nothing. -/

namespace Sys2Proof.Machine

/-! ## Copy and matrix engines (R251, R259, R261) -/

/-- COPY_START (R251). -/
def execCopyStart (crew : Nat) (s : State) : Host.Outcome State Fault Refusal := .next (s.startCopy crew)

/-- CLAIM_GRANT (R259). -/
def execClaimGrant (cluster : Nat) (s : State) : Host.Outcome State Fault Refusal := .next (s.grantClaim cluster)

/-- MATRIX_OP_START (R261). -/
def execMatrixOpStart (cluster : Nat) (u : MatrixUnit) (s : State) : Host.Outcome State Fault Refusal :=
  .next (s.orSnoop (s.startMat cluster u))

/-! ## The Wicket (R291 to R302) -/

/-- A message of a gang of this chip whose peer at the other end is another chip. -/
def State.peerGang (s : State) (gang n : Nat) : Bool := (kget s.gangs gang).isSome && s.chipId gang n != s.sysId

/-- BULK_REQUEST (R300): a request with its prefix arrives on a working port. -/
def execBulkRequest (id : MsgId) (len pri port : Nat) (bytes : List Byte) (s : State) : Host.Outcome State Fault Refusal :=
  .next (if s.peerGang id.gang id.src && s.chipId id.gang id.dst == s.sysId && (kgetD s.ports port {}).up then
      s.orSnoop (s.wicketRequest id len pri port bytes)
    else s)

/-- REQUEST_RETRY (R291). -/
def execRequestRetry (send : Nat) (s : State) : Host.Outcome State Fault Refusal := .next (s.retryRequest send)

/-- GRANT_ISSUE (R298). -/
def execGrantIssue (port : Nat) (s : State) : Host.Outcome State Fault Refusal := .next (s.wicketGrant port)

/-- A send of this chip to another. -/
def State.remoteSend (s : State) (send : Nat) : Bool :=
  match kget s.sends send with
  | some x => x.requested && s.chipId x.id.gang x.id.dst != s.sysId
  | none => false

/-- GRANT_ARRIVAL (R291). -/
def execGrantArrival (send : Nat) (r : GrantRange) (s : State) : Host.Outcome State Fault Refusal :=
  .next (if s.remoteSend send then s.takeGrant send r else s)

/-- BULK_DATA (R301). -/
def execBulkData (id : MsgId) (off epoch : Nat) (bytes : List Byte) (s : State) : Host.Outcome State Fault Refusal :=
  .next (if s.peerGang id.gang id.src then s.orSnoop (s.wicketData id off epoch bytes) else s)

/-- GRANT_EXPIRY (R299). -/
def execGrantExpiry (msg grant : Nat) (s : State) : Host.Outcome State Fault Refusal := .next (s.wicketExpiry msg grant)

/-- PAUSE (R302). -/
def execPause (id : MsgId) (s : State) : Host.Outcome State Fault Refusal :=
  .next (if s.peerGang id.gang id.src then s.wicketPause id else s)

/-- RESUME of a message (R302). -/
def execBulkResume (id : MsgId) (off : Nat) (s : State) : Host.Outcome State Fault Refusal :=
  .next (if s.peerGang id.gang id.src then s.wicketResume id off else s)

/-! ## Notices (R291, R292, R294, R299, R304, R305) -/

/-- A notice of the receiver ends a send. -/
def State.noticeSend (s : State) (send : Nat) (c : Option Cause) : State := if s.remoteSend send then s.closeSend send c else s

/-- DONE_NOTICE (R291). -/
def execDoneNotice (send : Nat) (s : State) : Host.Outcome State Fault Refusal := .next (s.noticeSend send none)

/-- TRUNCATED_NOTICE (R294). -/
def execTruncatedNotice (send : Nat) (s : State) : Host.Outcome State Fault Refusal := .next (s.noticeSend send (some 0x8B))

/-- ORPHANED_NOTICE (R299). -/
def execOrphanedNotice (send : Nat) (s : State) : Host.Outcome State Fault Refusal := .next (s.noticeSend send (some 0x8A))

/-- The message of an identity ends as CANCELLED on the receiving side (R303, R305). -/
def State.cancelMsg (s : State) (id : MsgId) (tell : Bool) : State :=
  match s.msgOf id with
  | some (mid, _) => s.endMsg mid stCancelled tell
  | none => s

/-- CANCELLED_NOTICE (R305): to the sender, whose BXSEND ends, or to the receiver, which cancels and answers. A cancel of a message that has
ended is not answered, for its sender has had its one notice (R301); one that comes before its request is sent again (State.takeGrant). -/
def execCancelledNotice (id : MsgId) (toSender : Bool) (s : State) : Host.Outcome State Fault Refusal :=
  .next (if toSender then
      match s.sendOf id with
      | some (k, _) => s.noticeSend k (some 0x8C)
      | none => s
    else if s.peerGang id.gang id.src then s.cancelMsg id true else s)

/-- PEER_FAULT_NOTICE (R304). -/
def execPeerFaultNotice (id : MsgId) (toSender : Bool) (s : State) : Host.Outcome State Fault Refusal :=
  .next (if toSender then
      match s.sendOf id with
      | some (k, _) => s.noticeSend k (some 0x8F)
      | none => s
    else if s.peerGang id.gang id.src then s.cancelMsg id false else s)

/-- SOURCE_PATH_LOSS (R299): 2 ms without a working path to the source chip. -/
def execSourcePathLoss (msg : Nat) (s : State) : Host.Outcome State Fault Refusal :=
  .next (match kget s.msgs msg with
    | some m =>
      if s.peerGang m.id.gang m.id.src && s.pathGone (s.chipId m.id.gang m.id.src) then s.orSnoop (s.endMsg msg stOrphaned true) else s
    | none => s)

/-- SEND_UNREACHABLE (R292): 2 ms without a working path since the word was issued, before the request was accepted. -/
def execSendUnreachable (send : Nat) (s : State) : Host.Outcome State Fault Refusal :=
  .next (match kget s.sends send with
    | some x =>
      let chip := s.chipId x.id.gang x.id.dst
      if !x.accepted && chip != s.sysId && s.pathGone chip && decide (x.since + 2000000 ≤ s.tick) then s.closeSend send (some 0x8D)
      else s
    | none => s)

/-! ## Links (R22, R307, R308) -/

/-- The frames of a port that an acknowledgement of a sequence number covers removed, and waiting ones sent. -/
def Port.acked (p : Port) (now ack : Nat) : Port :=
  if p.unacked.any fun n => n.1 == ack then
    { p with unacked := p.unacked.drop ((p.unacked.findIdx fun (n : Nat × Nat) => n.1 == ack) + 1), replays := 0, sentAt := now }.fill now
  else p

/-- A port taken down (R308): its frames are sent on another working port that reaches their chip. -/
def State.portDown (s : State) (port : Nat) (p : Port) : State :=
  let t := { s with ports := kset s.ports port { p with up := false, unacked := [], waiting := [], replays := 0, downAt := s.tick } }
  (p.unacked.map Prod.snd ++ p.waiting).foldl (fun (u : State) chip => u.sendFrames chip 1) t

/-- A replay from the oldest unacknowledged frame; at the 64th of one frame the port goes down (R307, R308). -/
def State.replayPort (s : State) (port : Nat) (p : Port) : State :=
  if p.unacked.isEmpty then { s with ports := kset s.ports port p }
  else if 64 ≤ p.replays + 1 then s.portDown port p
  else { s with ports := kset s.ports port { p with replays := p.replays + 1, sentAt := s.tick } }

/-- The order is a release (R197). -/
def releasing (o : Order) : Bool := o == .rel || o == .ar

/-- The order is an acquire (R197). -/
def acquiring (o : Order) : Bool := o == .acq || o == .ar

/-- A merge of an agent of a peer chip at this chip's home, checked as any other (R209, R217), with the poison marks of its bytes (R409). A
release is performed with it: its bytes carry its tag, and the count of the releases before it. -/
def State.peerWrite (s : State) (a pa : Nat) (bs : List Byte) (bad : List Nat) (o : Order) (chips : List Nat) : State :=
  let tags := if releasing o then [s.nextTag a .system chips] else []
  let t := (linePieces (bs.length / 128 + 2) pa bs).foldl (fun (u : State) p =>
    (u.merge a none (p.1 / 128) 0 ((lineBytes (p.1 % 128) p.2 false (u.agent a).releases tags s.tick).map fun b =>
      (b.1, { b.2 with poison := bad.contains (p.1 / 128 * 128 + b.1 - pa) }))).1) s
  if releasing o then (t.release a .system chips).1 else t

/-- A read of an agent of a peer chip; an acquire synchronises with the releases that it reads (R197, R217). -/
def State.peerRead (s : State) (chip unit pa n : Nat) (o : Order) (chips : List Nat) : State :=
  match s.reachCause pa n with
  | some c => s.tellChip chip (.failed unit pa c)
  | none =>
    let t := if acquiring o then s.synchronise (peerAgent chip unit) .system chips (s.tagsAt pa n) else s
    t.tellChip chip (.value unit pa (t.readPas pa n) ((List.range n).filter fun i => t.poisonDev.contains (pa + i)))

/-- An atomic of an agent of a peer chip, with its order at SYSTEM scope (R170, R197, R217). -/
def State.peerAtomic (s : State) (chip unit pa : Nat) (af : AtomFn) (v c : Nat) (o : Order) (chips : List Nat) : State :=
  let a := peerAgent chip unit
  let n := atomBytes af
  match s.mergeCause (pa / 128), s.dataCause pa n with
  | some e, _ => (s.refuse (pa / 128) e).1.tellChip chip (.failed unit pa e)
  | none, some e => s.tellChip chip (.failed unit pa e)
  | none, none =>
    let t := if acquiring o then s.synchronise a .system chips (s.tagsAt pa n) else s
    let m := t.readNat pa n
    let u := match (atomRes af m v c).1 with
      | some x => t.atomicWrite a pa (leBytes n x) (if releasing o then [t.nextTag a .system chips] else [])
      | none => t.atomicKeep a pa n
    (if releasing o then (u.release a .system chips).1 else u).tellChip chip (.value unit pa (leBytes n m) [])

/-- An access of an agent of a peer chip to global memory (R193, R217): a merge, a read, an atomic, and TAKE, GIVE and EXACT, which use no
slot; the answers go back over the links. A merge of a line homed on the peer chip is one that this chip learns of. -/
def State.peerAccess (s : State) : LinkBody → State
  | .write chip unit pa bs bad o chips => s.peerWrite (peerAgent chip unit) pa bs bad o chips
  | .read chip unit pa n o chips => if isPeer pa then s else s.peerRead chip unit pa n o chips
  | .atomic chip unit pa af v c o chips => if isPeer pa then s else s.peerAtomic chip unit pa af v c o chips
  | .take chip pa n => if !s.inCounter pa then s else let (t, x) := s.takeBare pa n; t.tellChip chip (.value 0 pa (leBytes 4 x) [])
  | .give chip pa n => if !s.inCounter pa then s else (s.giveBare pa n).1.tellChip chip (.value 0 pa [] [])
  | .exact chip pa =>
    if !s.inCounter pa then s else let t := s.recall pa; t.tellChip chip (.value 0 pa (leBytes 8 (t.counterHome pa)) [])
  | .bad | .ack | .nack | .data => s

/-- LINK_FRAME (R307): a frame with a bad check or out of sequence is discarded; a good one carries an acknowledgement. A frame whose access
waits for a host to give up a line (R215) is taken when its replay comes. -/
def execLinkFrame (port seq ack : Nat) (body : LinkBody) (s : State) : Host.Outcome State Fault Refusal :=
  .next (
    let p := kgetD s.ports port {}
    let q := p.acked s.tick ack
    if !p.up then s
    else match body with
    | .bad => s
    | .ack => { s with ports := kset s.ports port q }
    | .nack => s.replayPort port q
    | .data | .write _ _ _ _ _ _ _ | .read _ _ _ _ _ _ | .atomic _ _ _ _ _ _ _ _ | .take _ _ _ | .give _ _ _ | .exact _ _ =>
      if seq ≠ p.recvSeq then s
      else s.orSnoop
        ({ s with ports := kset s.ports port { q with recvSeq := (p.recvSeq + 1) % 65536 } }.peerAccess body))

/-- ACK_TIMEOUT (R307, R308): no acknowledgement has come within 4 µs. -/
def execAckTimeout (port : Nat) (s : State) : Host.Outcome State Fault Refusal :=
  .next (
    let p := kgetD s.ports port {}
    if !p.up || p.unacked.isEmpty || decide (s.tick < p.sentAt + 4000) then s else s.replayPort port p)

/-- LINK_UP_RETRY (R308): a port that has been down for 1 ms starts anew. -/
def execLinkUpRetry (port : Nat) (s : State) : Host.Outcome State Fault Refusal :=
  .next (
    let p := kgetD s.ports port {}
    if p.up || decide (16 ≤ port) || decide (s.tick < p.downAt + 1000000) then s
    else { s with ports := kset s.ports port { p with sendSeq := 0, recvSeq := 0, unacked := [], replays := 0 } })

/-- WGMAX of a round trip (R309). -/
def windowMax (rtt : Nat) : Nat := min 255 (max 1 (ceilDiv (100 * rtt) 16384))

/-- LINK_UP (R22, R23, R309): a peer that offers versions from lowMaj.0 up to maj.min shares 1.0 with this port, or the port stays
down and the mismatch is reported. -/
def execLinkUp (port maj min lowMaj rtt : Nat) (s : State) : Host.Outcome State Fault Refusal :=
  .next (
    let p := kgetD s.ports port {}
    if p.up || decide (16 ≤ port) then s
    else if maj < 1 ∨ 1 < lowMaj then s.plainReport 0xB0 0 s.primary port
    else
      let w := windowMax rtt
      { s with ports := kset s.ports port (({ p with
          up := true, rtt := rtt % 65536, wgmax := w, wg := w, maj := 1, min := if maj = 1 then Nat.min 0 min else 0
          sendSeq := 0, recvSeq := 0, unacked := [], replays := 0 } : Port).fill s.tick) })

end Sys2Proof.Machine
end

