-- ==== Sys2Proof/Machine/EventsCommand.lean ====
section
/-! DEFINITION. The events of the command engine (R46, R353 to R376): queues, packets, gangs, command graphs, pre-emption, occupancy,
interrupts and heads. An event whose condition does not hold changes nothing. -/

namespace Sys2Proof.Machine

/-! ## Queues and packets (R354 to R360) -/

/-- NOTIFY (R354). -/
def execNotify (head : Fin 2) (q wptr : Nat) (s : State) : Host.Outcome State Fault Refusal :=
  .next (if q < 1024 then s.hostAccess head.val (0x400000 + 4096 * q) fun t => t.notifyQueue head.val q (wptr % 2 ^ 64) else s)

/-- A published packet accepted (R356, R375): RPTR rises in the threshold area, VALID is cleared, and the packet is checked. -/
def State.acceptPacket (s : State) (q va : Nat) (bs : List Byte) : State :=
  let x := s.queue q
  match (s.modQueue q fun y => { y with rptr := y.rptr + 1 }).cmdWrite x.pasid va [0] with
  | (_, .error (.page va w)) => s.pageRequest x.pasid (va / 4096) w (.queue q)
  | (_, .error _) => s.queueError q 0xA3 x.rptr
  | (t, .ok ()) =>
    let p : Packet := { bytes := bs, state := .accepted, seq := t.accepts }
    { t with accepts := t.accepts + 1, queues := kmod t.queues q fun y => { y with packets := kset y.packets x.rptr p } }.checkAccepted q x.rptr p

/-- The slot at RPTR read (R356). -/
def State.readSlot (s : State) (q : Nat) : State :=
  let x := s.queue q
  let va := x.ring + 64 * (x.rptr % 2 ^ x.logsz)
  match s.engineRead x.pasid va 64 with
  | (t, .error (.page va w)) => t.pageRequest x.pasid (va / 4096) w (.queue q)
  | (t, .error _) => t.queueError q 0xA3 x.rptr
  | (t, .ok bs) => if bitOf (fieldLe bs 0 1) 0 then t.acceptPacket q va bs else t

/-- SLOT_READ (R356): an accepted packet whose checks wait for a page is checked again first, for packets are accepted in order. -/
def execSlotRead (q : Nat) (s : State) : Host.Outcome State Fault Refusal :=
  .next (match (s.queue q).packets.find? fun p => p.2.state == .accepted with
    | some (idx, p) => if s.pageWaits (.packet q idx) then s else s.orSnoop (s.checkAccepted q idx p)
    | none =>
      if (s.queue q).state ≠ .active ∨ (s.queue q).wptr ≤ (s.queue q).rptr ∨ s.pageWaits (.queue q) = true then s
      else s.orSnoop (s.readSlot q))

/-- A packet in WAITING may start (R358): it is the first of its queue to wait, and with BAR every earlier one has completed. -/
def Queue.mayStart (x : Queue) (idx : Nat) (p : Packet) : Bool :=
  let before := x.packets.filter fun e => decide (e.1 < idx)
  p.state == .waiting && (before.all fun e => e.2.state != .accepted && e.2.state != .waiting) &&
    (!bitOf (fieldLe p.bytes 4 2) 0 || before.all fun e => e.2.state == .complete)

/-- PACKET_START (R358). -/
def execPacketStart (q idx : Nat) (s : State) : Host.Outcome State Fault Refusal :=
  .next (match s.packet q idx with
    | some p => if (s.queue q).mayStart idx p then s.modPacket q idx fun p => { p with state := .running } else s
    | none => s)

/-- A packet that runs, of a type, whose work has not begun. -/
def State.begins (s : State) (q idx ty : Nat) : Option Packet :=
  (s.packet q idx).filter fun p => p.state == .running && fieldLe p.bytes 1 1 == ty && !p.ended && p.gang.isNone && p.graph.isNone

/-- The work of a packet has ended. -/
def State.endPacket (s : State) (q idx : Nat) : State := s.modPacket q idx fun p => { p with ended := true }

/-- NOP_PACKET (R360). -/
def execNopPacket (q idx : Nat) (s : State) : Host.Outcome State Fault Refusal :=
  .next (if (s.begins q idx 0).isSome then s.endPacket q idx else s)

/-- LAUNCH (R361, R363, R364). -/
def execLaunch (q idx : Nat) (s : State) : Host.Outcome State Fault Refusal :=
  .next (match (s.begins q idx 1).bind Packet.launch with
    | some (l, chips) =>
      let (id, t) := s.launchGang (.packet q idx) q (s.queue q).pasid l chips
      t.modPacket q idx fun p => { p with gang := some id }
    | none => s)

/-- GRAPH (R366, R367). -/
def execGraph (q idx : Nat) (s : State) : Host.Outcome State Fault Refusal :=
  .next (match s.begins q idx 2 with
    | some p => s.orSnoop (s.startGraph q idx p)
    | none => s)

/-- The signal addresses of a BARRIER packet (R360). -/
def barrierAddrs (bs : List Byte) : List Nat := ((List.range 5).map fun i => fieldLe bs (16 + 8 * i) 8).filter fun a => a != 0

/-- Watched signals read in order: are they all 0. -/
def State.signalsZero (s : State) (pasid : Nat) : List Nat → State × Except EngErr Bool
  | [] => (s, .ok true)
  | a :: l =>
    match s.engineRead pasid a 8 with
    | (t, .error e) => (t, .error e)
    | (t, .ok bs) =>
      match t.signalsZero pasid l with
      | (u, .error e) => (u, .error e)
      | (u, .ok b) => (u, .ok (b && leNat bs == 0))

/-- BARRIER_PACKET (R360). -/
def execBarrierPacket (q idx : Nat) (s : State) : Host.Outcome State Fault Refusal :=
  .next (match s.begins q idx 3 with
    | some p =>
      if s.pageWaits (.packet q idx) then s
      else match s.signalsZero (s.queue q).pasid (barrierAddrs p.bytes) with
        | (t, .error (.page va w)) => t.pageRequest (s.queue q).pasid (va / 4096) w (.packet q idx)
        | (t, .error _) => t.rejectPacket q idx 0xA3
        | (t, .ok b) => if b then t.endPacket q idx else t
    | none => s)

/-- SIGNAL_PACKET (R360). -/
def execSignalPacket (q idx : Nat) (s : State) : Host.Outcome State Fault Refusal :=
  .next (match s.begins q idx 4 with
    | some p => s.orSnoop ((s.runSignal q (s.queue q).pasid p.bytes).endPacket q idx)
    | none => s)

/-- The work of a packet that runs has ended (R358, R364, R367). -/
def State.workOver (s : State) (p : Packet) : Bool :=
  p.state == .running && (p.ended || (p.gang.map s.gangOver).getD false || (p.graph.map s.graphOver).getD false)

/-- The decrement of a completion signal, or the report that it cannot be written (R359). -/
def State.dropSignal (s : State) (q addr : Nat) : State :=
  if addr = 0 then s
  else match s.cmdAtomic (s.queue q).pasid addr fun m => m + 2 ^ 64 - 1 with
    | (t, true) => t
    | (t, false) => t.plainReport 0xAD q (t.queueHead q) addr

/-- The four steps of a packet's completion (R359). -/
def State.completePacket (s : State) (q idx : Nat) (p : Packet) : State :=
  let t := (s.closeTags (((p.gang.bind fun g => kget s.gangs g).map Gang.ends).getD [])).dropSignal q (fieldLe p.bytes 8 8)
  let u := if bitOf (fieldLe p.bytes 4 2) 1 then t.vectorEvent (t.queue q).vec (t.queueHead q) else t
  let v := (u.modQueue q fun x => { x with done := x.done + 1 }).modPacket q idx fun p => { p with state := .complete }
  match p.graph with
  | some g => { v with graphs := kdel v.graphs g }
  | none => v

/-- PACKET_COMPLETE (R359). -/
def execPacketComplete (q idx : Nat) (s : State) : Host.Outcome State Fault Refusal :=
  .next (match s.packet q idx with
    | some p => if s.workOver p then s.orSnoop (s.completePacket q idx p) else s
    | none => s)

/-! ## Gangs (R364, R365) -/

/-- A proposal of a chip: when every chip's is there, the greatest is the agreed tick, and the other chips are told (R364). -/
def State.propose (s : State) (gang : Nat) (g : Gang) (chip tick : Nat) : State :=
  let ps := kset g.proposals chip tick
  if g.chips.all fun c => (kget ps c).isSome then
    let start := ps.foldl (fun n p => max n p.2) 0
    (g.chips.filter fun c => c != s.sysId).foldl (fun (t : State) c => t.tellChip c (.start gang start))
      { s with gangs := kset s.gangs gang { g with proposals := ps, start := some start } }
  else { s with gangs := kset s.gangs gang { g with proposals := ps } }

/-- The agreed tick reaches a chip that has not accepted the gang; one without crews of the gang has ended at once. -/
def State.agreeTick (s : State) (gang : Nat) (g : Gang) (tick : Nat) : State :=
  { s with gangs := kset s.gangs gang { g with start := some tick } }.releaseGang gang

/-- TICK_PROPOSAL (R364): this chip answers for a gang of another, takes an answer, or learns the agreed tick. -/
def execTickProposal (gang : Nat) (m : TickMsg) (s : State) : Host.Outcome State Fault Refusal :=
  .next (match kget s.gangs gang, m with
    | none, .ask chip q pasid packet block chips =>
      if s.stage ≠ stageReady ∨ chip = s.sysId ∨ !chips.contains chip ∨ !chips.contains s.sysId then s
      else s.joinGang gang chip q pasid (launchOf packet block) chips
    | some g, .propose chip tick =>
      if g.guest || g.start.isSome || g.failed || g.terminated || !g.chips.contains chip || (kget g.proposals chip).isSome then s
      else s.propose gang g chip tick
    | some g, .agreed tick => if !g.guest || g.start.isSome || g.terminated then s else s.agreeTick gang g tick
    | some _, .ask _ _ _ _ _ _ => s
    | none, .propose _ _ => s
    | none, .agreed _ => s)

/-- START_TICK (R364). -/
def execStartTick (gang : Nat) (s : State) : Host.Outcome State Fault Refusal := .next (s.orSnoop (s.startGang gang))

/-- CHIPSET_TIMEOUT (R364): no answer from every chip within 100 µs. -/
def execChipsetTimeout (gang : Nat) (s : State) : Host.Outcome State Fault Refusal :=
  .next (match kget s.gangs gang with
    | some g =>
      if g.guest || g.start.isSome || g.failed || g.terminated || decide (s.tick < g.asked + 100000) then s
      else
        let t := { s with gangs := kset s.gangs gang { g with failed := true, crews := [] }
                          crews := s.crews.filter fun c => c.2.gang != gang }
        (((g.chips.filter fun c => c != s.sysId).foldl (fun (u : State) c => u.tellChip c (.gangTerminated gang)) t).gangReport gang 0xA6
          noFibre 0)
    | none => s)

/-- CREW_PLACEMENT (R365). -/
def execCrewPlacement (gang pipe die x0 y0 : Nat) (s : State) : Host.Outcome State Fault Refusal :=
  .next (match kget s.gangs gang with
    | some g => s.placePipe gang g pipe die x0 y0
    | none => s)

/-- GANG_TERMINATION (R364): another chip of a gang has ended its crews, or lost one. -/
def execGangTermination (gang chip : Nat) (ended : Bool) (s : State) : Host.Outcome State Fault Refusal :=
  .next (match kget s.gangs gang with
    | some g =>
      if chip = s.sysId ∨ g.chips.contains chip = false then s
      else if ended then
        { s with gangs := kset s.gangs gang { g with chipsEnded := insertNew chip g.chipsEnded } }.releaseGang gang
      else s.orSnoop (({ s with gangs := kset s.gangs gang { g with chipsEnded := insertNew chip g.chipsEnded } }.killGang gang
        0xA9).releaseGang gang)
    | none => s)

/-! ## Command graphs (R366 to R369) -/

/-- KERNEL_NODE (R367). -/
def execKernelNode (graph node : Nat) (s : State) : Host.Outcome State Fault Refusal := .next (s.kernelNode graph node)

/-- COND_NODE (R368). -/
def execCondNode (graph node : Nat) (s : State) : Host.Outcome State Fault Refusal := .next (s.orSnoop (s.condNode graph node))

/-- SIGNAL_NODE (R360). -/
def execSignalNode (graph node : Nat) (s : State) : Host.Outcome State Fault Refusal := .next (s.orSnoop (s.signalNode graph node))

/-- XFER_NODE (R367). -/
def execXferNode (graph node : Nat) (s : State) : Host.Outcome State Fault Refusal := .next (s.orSnoop (s.xferNode graph node))

/-- NOTE_NODE (R369). -/
def execNoteNode (graph node : Nat) (s : State) : Host.Outcome State Fault Refusal := .next (s.orSnoop (s.noteNode graph node))

/-- NODE_COMPLETE (R367). -/
def execNodeComplete (graph node : Nat) (s : State) : Host.Outcome State Fault Refusal :=
  .next (s.orSnoop (s.completeNode graph node))

/-! ## Pre-emption, saves and restores (R20, R46, R370, R371) -/

/-- PREEMPT_DECISION (R370). -/
def execPreemptDecision (crew : Nat) (s : State) : Host.Outcome State Fault Refusal := .next (s.orSnoop (s.preempt crew))

/-- DRAIN_TIMEOUT (R370). -/
def execDrainTimeout (crew : Nat) (s : State) : Host.Outcome State Fault Refusal := .next (s.drainTimeout crew)

/-- SAVE_COMPLETE (R20). -/
def execSaveComplete (crew : Nat) (s : State) : Host.Outcome State Fault Refusal := .next (s.orSnoop (s.saveCrew crew))

/-- RESTORE (R371). -/
def execRestore (crew die x0 y0 : Nat) (s : State) : Host.Outcome State Fault Refusal :=
  .next (s.orSnoop (s.restorePipe crew die x0 y0))

/-- SCHEDULING_ROUND (R46). -/
def execSchedulingRound (die : Nat) (s : State) : Host.Outcome State Fault Refusal :=
  .next (if die < Config.dies then s.round die else s)

/-! ## Occupancy, interrupts and heads (R373, R374, R376) -/

/-- The place of a counter among the three of a phase (R373). -/
def occPlace : OccKind → Nat
  | .busy => 0
  | .idle => 1
  | .parked => 2

/-- OCC_READ (R373). -/
def execOccRead (core phase : Nat) (k : OccRead) (s : State) : Host.Outcome State Fault Refusal :=
  .next (if core < Config.cores ∧ phase < 16 then
      s.hostAccess k.head.val (0x300000 + 384 * core + 24 * phase + 8 * occPlace k.kind) fun t => (t.readOcc core phase (occPlace k.kind)).1
    else s)

/-- VECTOR_TIMER (R374): TIME µs have passed since the first event counted. -/
def execVectorTimer (v : Nat) (s : State) : Host.Outcome State Fault Refusal :=
  .next (if (s.vector v).time ≠ 0 ∧ (s.vector v).first + 1000 * (s.vector v).time ≤ s.tick then s.sendVector v else s)

/-- VECTOR_UNMASK (R374): one message where events have been counted. -/
def execVectorUnmask (v : Nat) (s : State) : Host.Outcome State Fault Refusal :=
  .next (if (s.vector v).masked then
      { s with vectors := kset s.vectors v { s.vector v with masked := false } }.sendVector v
    else s)

/-- HEARTBEAT (R376). -/
def execHeartbeat (head : Fin 2) (s : State) : Host.Outcome State Fault Refusal :=
  .next (s.hostAccess head.val (0x200000 + 8 * head.val) fun t => t.heartbeat head.val)

/-- HEARTBEAT_TIMEOUT (R376): no heartbeat for 10 ms. -/
def execHeartbeatTimeout (head : Fin 2) (s : State) : Host.Outcome State Fault Refusal :=
  .next (if s.stage = stageReady ∧ (s.head head.val).hb + 10000000 ≤ s.tick then s.failHead head.val else s)

/-- HEAD_LINK_DOWN (R376, R388). -/
def execHeadLinkDown (head : Fin 2) (s : State) : Host.Outcome State Fault Refusal :=
  .next (
    let t := (s.modHead head.val fun h => { h with linkUp := false }).failHead head.val
    if (t.head (otherHead head.val)).linkUp || t.hostDown.isSome then t else { t with hostDown := some t.tick })

/-- CE_ADOPT (R376). -/
def execCeAdopt (head : Fin 2) (epoch : Nat) (s : State) : Host.Outcome State Fault Refusal :=
  .next (s.hostAccess head.val 0x200010 fun t => t.claimQueues head.val (epoch % 2 ^ 32))

end Sys2Proof.Machine
end

