-- ==== Sys2Proof/Machine/Mailbox.lean ====
section
/-! DEFINITION. The functions of the firmware mailbox (R22, R23, R353, R372, R392 to R394, R399, R401, R410, R414). A function is
served when its GO has set BUSY; it answers its status. -/

namespace Sys2Proof.Machine

/-! ## The payload (R392, R414) -/

/-- Status values (R392). -/
def mbOk : Nat := 0
/-- BAD_ARGUMENT. -/
def mbBad : Nat := 3
/-- REFUSED. -/
def mbRefused : Nat := 4
/-- SIGNATURE. -/
def mbSignature : Nat := 5
/-- VERSION. -/
def mbVersion : Nat := 6

/-- Every payload byte outside the fields named is 0 (R414). -/
def Mailbox.zerosBut (m : Mailbox) (named : List (Nat × Nat)) : Bool :=
  m.payload.all fun p => p.2 == 0 || named.any fun f => decide (f.1 ≤ p.1) && decide (p.1 < f.1 + f.2)

/-- A field of the payload. -/
def Mailbox.field (m : Mailbox) (off n : Nat) : Nat := leNat (m.bytes off n)

/-- Bytes written into the payload. -/
def Mailbox.put (m : Mailbox) (off : Nat) (bs : List Byte) : Mailbox :=
  { m with payload := (bs.foldl (fun (p : KMap Byte × Nat) b => (kset p.1 p.2 b, p.2 + 1)) (m.payload, off)).1 }

/-- A function ends with a status. -/
def State.mailEnd (s : State) (head status : Nat) : State :=
  s.modHead head fun h => { h with mail := { h.mail with busy := false, status := status } }

/-- Results written into a head's payload. -/
def State.mailPut (s : State) (head off : Nat) (bs : List Byte) : State :=
  s.modHead head fun h => { h with mail := h.mail.put off bs }

/-- The object on which the function of a mailbox acts: a queue, a PASID, the staged image, the TDIs, or a crew; none for a function on what
is the head's alone. -/
def Mailbox.object (m : Mailbox) : Option (Nat × Nat) :=
  if m.func = 0x10 then some (0, m.field 0x100 2)
  else if m.func = 0x20 then some (1, m.field 0x100 4)
  else if m.func = 0x30 then some (1, m.field 0x110 4)
  else if m.func = 0x40 then some (2, 0)
  else if m.func = 0x60 then some (3, 0)
  else if 0x70 ≤ m.func ∧ m.func ≤ 0x72 then some (4, m.field 0x100 15)
  else none

/-- No function of the other head on the same object has arrived before (R392). -/
def State.mailTurn (s : State) (head : Nat) : Bool :=
  let m := (s.head head).mail
  let o := (s.head (otherHead head)).mail
  !(o.busy && decide (o.seq < m.seq) && m.object.isSome && o.object == m.object)

/-- A function run on a head's mailbox when its GO waits there and its turn has come (R392, R393): until the version is agreed only VERSION
runs, a nonzero byte outside the fields named is BAD_ARGUMENT, and the function answers the state with its status. -/
def State.mailRun (s : State) (head func : Nat) (named : Mailbox → List (Nat × Nat)) (k : Mailbox → State × Nat) : State :=
  let m := (s.head head).mail
  if !m.busy || m.func != func || !s.mailTurn head then s
  else if func != 1 && !m.agreed then s.mailEnd head mbVersion
  else if !m.zerosBut (named m) then s.mailEnd head mbBad
  else let r := k m; r.1.mailEnd head r.2

/-- A range from low to high shares a major version with the device's 1.0 (R22, R23). -/
def sharesMajor (high low : Nat) : Bool := decide (low ≤ 1) && decide (1 ≤ high)

/-! ## VERSION -/

/-- VERSION (R22, R393). -/
def State.mailVersion (s : State) (head : Nat) (m : Mailbox) : State × Nat :=
  if sharesMajor (m.field 0x101 1) (m.field 0x103 1) then
    ((s.mailPut head 0x108 [0, 1]).modHead head fun h => { h with mail := { h.mail with agreed := true } }, mbOk)
  else (s.plainReport 0xB0 0 head 0, mbVersion)

/-! ## QUEUE_CREATE (R353, R376) -/

/-- A TDI holds an object in CONFIG_LOCKED or RUN (R401). -/
def State.locked (s : State) (p : Tdi → Bool) : Bool := s.tdis.any fun t => (t.2.state == .locked || t.2.state == .run) && p t.2

/-- A descriptor's fields other than STATE are in range. -/
def descOk (d : List Byte) : Bool :=
  fieldLe d 0 8 % 64 == 0 && decide (4 ≤ fieldLe d 8 1) && decide (fieldLe d 8 1 ≤ 16) && fieldLe d 9 1 % 128 / 8 == 0 &&
    decide (fieldLe d 12 4 < 2 ^ 20) && decide (fieldLe d 16 2 < 2 ^ 11) && fieldLe d 19 1 == 0 && zeros d 20 32

/-- The queue of a descriptor with the agreed version 1.0, beside an old queue's counts and packets. -/
def queueOf (old : Queue) (d : List Byte) : Queue :=
  { old with ring := fieldLe d 0 8, logsz := fieldLe d 8 1, pri := fieldLe d 9 1 % 8, head := fieldLe d 9 1 / 128, vermin := 0
             vermaj := 1, pasid := fieldLe d 12 4, vec := fieldLe d 16 2, state := .active, errc := 0, erridx := 0 }

/-- The fields of QUEUE_CREATE in the payload. -/
def queueFields (_ : Mailbox) : List (Nat × Nat) := [(0x100, 2), (0x102, 2), (0x120, 32)]

/-- Creation or rewriting of a queue with its descriptor. -/
def State.putQueue (s : State) (head q : Nat) (m : Mailbox) (d : List Byte) : State × Nat :=
  if fieldLe d 18 1 ≠ 0 then (s, mbBad)
  else if !sharesMajor (fieldLe d 11 1) (m.field 0x103 1) then (s.plainReport 0xB0 q head 0, mbVersion)
  else
    let old := if (s.queue q).state = .adopting then s.queue q else {}
    ((s.setQueue q (queueOf old d)).mailPut head 0x12A [0, 1], mbOk)

/-- QUEUE_CREATE, but for the disabling of a queue. -/
def State.mailQueue (s : State) (head : Nat) (m : Mailbox) : State × Nat :=
  let q := m.field 0x100 2
  let d := m.bytes 0x120 32
  if decide (1024 ≤ q) || !descOk d then (s, mbBad)
  else if s.locked fun t => t.queues.contains q then (s, mbRefused)
  else match (s.queue q).state with
    | .active | .error => (s, mbRefused)
    | .disabled | .adopting => s.putQueue head q m d

/-- QUEUE_CREATE asks for the disabling of an ACTIVE or ERROR queue (R353). -/
def State.asksDisable (s : State) (m : Mailbox) : Bool :=
  let q := m.field 0x100 2
  let d := m.bytes 0x120 32
  m.busy && m.func == 0x10 && m.agreed && m.zerosBut (queueFields m) && decide (q < 1024) && descOk d && fieldLe d 18 1 == 0 &&
    !(s.locked fun t => t.queues.contains q) && ((s.queue q).state == .active || (s.queue q).state == .error)

/-- Waits for pages withdrawn. -/
def State.dropWaits (s : State) (p : PageWaiter → Bool) : State :=
  { s with pages := kmap s.pages fun _ r => { r with waiters := r.waiters.filter fun w => !p w } }

/-- A packet that has not come to an end is discarded. -/
def Packet.discard (p : Packet) : Packet :=
  if p.state == .accepted || p.state == .waiting || p.state == .running then { p with state := .discarded } else p

/-- A queue's packets, graphs and waits discarded (R353, R358). -/
def State.discardPackets (s : State) (q : Nat) : State :=
  let mine := kkeys (s.graphs.filter fun g => g.2.q == q)
  let t := s.dropWaits fun w => match w with
    | .queue n => n == q
    | .packet n _ => n == q
    | .node g _ _ => mine.contains g
    | .fibre _ _ | .op _ | .held _ _ | .crew _ _ | .entry _ _ => false
  { t with queues := kmod t.queues q fun x => { x with packets := kmap x.packets fun _ p => p.discard }
           graphs := t.graphs.filter fun g => g.2.q != q
           pool := t.pool.filter fun n => !mine.contains n.1
           poolWait := t.poolWait.filter fun n => !mine.contains n.1 }.fillPool

/-- The gangs that a queue launched and that still run. -/
def State.gangsOf (s : State) (q : Nat) : List Nat :=
  kkeys (s.gangs.filter fun g => g.2.queue == q && g.2.src != .service && !g.2.guest && !s.gangOver g.1)

/-- A queue disabled: its packets are discarded and its gangs terminated with a cause, reported once for each (R353, R364). -/
def State.disableQueue (s : State) (q : Nat) (c : Cause) : State :=
  let t := (s.gangsOf q).foldl (fun (u : State) g => u.killGang g c) (s.discardPackets q)
  t.modQueue q fun x => { x with state := .disabled, errc := 0, erridx := 0 }

/-! ## PASID_REGISTER, CODE_LOAD, IMAGE_STAGE, EVRING -/

/-- The fields of PASID_REGISTER. -/
def pasidFields (_ : Mailbox) : List (Nat × Nat) := [(0x100, 4), (0x104, 1), (0x108, 8), (0x110, 8), (0x118, 8)]

/-- PASID_REGISTER (R319, R401, R414). -/
def State.mailPasid (s : State) (head : Nat) (m : Mailbox) : State × Nat :=
  let f := m.field
  let p := f 0x100 4
  let new : Pasid :=
    { root := f 0x108 8, levels := if bitOf (f 0x104 1) 1 then 5 else 4, enabled := bitOf (f 0x104 1) 0, fbase := f 0x110 8
      fsize := f 0x118 8, head := head }
  if 2 ^ 20 ≤ p ∨ 4 ≤ f 0x104 1 ∨ 2 ^ 44 ≤ new.root ∨ new.fbase % 65536 ≠ 0 ∨ new.fsize % 65536 ≠ 0 ∨ new.fsize < 4194304 ∨
      2 ^ 40 < new.fsize then (s, mbBad)
  else if s.locked fun t => t.pasids.contains p then (s, mbRefused)
  else
    let moved := ((kget s.pasids p).map fun o => decide (o.fbase ≠ new.fbase ∨ o.fsize ≠ new.fsize)).getD false
    if moved && s.crews.any fun c => c.2.pasid == p && c.2.alive then (s, mbRefused)
    else ({ s with pasids := kset s.pasids p new }, mbOk)

/-- The fields of CODE_LOAD. -/
def codeFields (_ : Mailbox) : List (Nat × Nat) := [(0x100, 8), (0x108, 8), (0x110, 4), (0x114, 4)]

/-- CODE_LOAD (R393, R394): the bytes reach their homes, and no instruction store keeps words of the range. -/
def State.mailCode (s : State) (head : Nat) (m : Mailbox) : State × Nat :=
  let f := m.field
  let len := f 0x114 4
  if f 0x100 8 % 4 ≠ 0 ∨ f 0x108 8 % 4 ≠ 0 ∨ 2 ^ 20 ≤ f 0x110 4 ∨ len % 4 ≠ 0 ∨ len < 4 ∨ 2 ^ 30 < len then (s, mbBad)
  else match s.cmdWrite (f 0x110 4) (f 0x108 8) (memBytes s.host (hostPa head (f 0x100 8)) len) with
    | (t, .error _) => (t, mbBad)
    | (t, .ok ()) => (t.icinv (f 0x110 4) (f 0x108 8) len, mbOk)

/-- The fields of IMAGE_STAGE. -/
def imageFields (_ : Mailbox) : List (Nat × Nat) := [(0x100, 8), (0x108, 4)]

/-- A header of an image is as R404 and R1 say: the magic, a kind, the revision 1.0 of the ISA, and a body and two signatures within the
image, after its header. -/
def imageHeadWell (len : Nat) (h : List Byte) : Bool :=
  let f := fun k => Config.imageField k h
  let within := fun n => decide (256 ≤ n) && decide (n < len)
  f 0 == 0x534B5649 && decide (1 ≤ f 1) && decide (f 1 ≤ 4) && f 2 == 1 && f 3 == 0 && decide (256 + f 4 ≤ len) && within (f 6) &&
    within (f 7)

/-- The body of an image, of the length that its header gives (R404). -/
def imageBody (bs : List Byte) : List Byte := (bs.drop 256).take (Config.imageField 4 (bs.take 256))

/-- The body of an image matches the digest in its header (R404). -/
def digestOk (bs : List Byte) : Bool := Config.sha384 (imageBody bs) == Config.imageDigest (bs.take 256)

/-- An accepted image as the device keeps it (R404, R405). -/
def imageOf (bs : List Byte) : Image :=
  { kind := Config.imageField 1 (bs.take 256), svn := Config.imageField 5 (bs.take 256), digest := Config.imageDigest (bs.take 256)
    route := Config.configRoute (imageBody bs), point := Config.configPoint (imageBody bs) }

/-- IMAGE_STAGE (R393, R404): a malformed header is rejected with cause 0xBA, and an image whose signatures, which are verified outside this
model, or whose digest do not verify, with 0xB9. -/
def State.mailImage (s : State) (head : Nat) (signed : Bool) (m : Mailbox) : State × Nat :=
  let src := m.field 0x100 8
  let len := m.field 0x108 4
  if src % 4096 ≠ 0 ∨ len < 256 ∨ 2 ^ 26 < len then (s, mbBad)
  else
    let bs := memBytes s.host (hostPa head src) len
    if !imageHeadWell len (bs.take 256) then (s.plainReport 0xBA 0 head src, mbSignature)
    else if signed && digestOk bs then ({ s with staged := some (imageOf bs) }, mbOk)
    else (s.plainReport 0xB9 0 head src, mbSignature)

/-- The fields of EVRING. -/
def ringFields (_ : Mailbox) : List (Nat × Nat) := [(0x100, 8), (0x108, 1), (0x10A, 2)]

/-- EVRING (R399, R414): the reports held for the head go into the new ring first. -/
def State.mailRing (s : State) (head : Nat) (m : Mailbox) : State × Nat :=
  let f := m.field
  if f 0x100 8 % 4096 ≠ 0 ∨ f 0x108 1 < 4 ∨ 16 < f 0x108 1 ∨ 2 ^ 11 ≤ f 0x10A 2 then (s, mbBad)
  else
    let t := { s with held := s.held.filter fun r => r.head != head }.modHead head fun h =>
      { h with ring := some (f 0x100 8, f 0x108 1, f 0x10A 2), evw := 0 }
    ((s.held.filter fun r => r.head == head).foldl State.toHost t, mbOk)

/-! ## TDI_DEFINE (R401, R414) -/

/-- The key of a TDI of a head. -/
def tdiKey (head tdi : Nat) : Nat := 64 * head + tdi

/-- The place of PLIST. -/
def plistAt (nq : Nat) : Nat := 0x110 + 4 * ceilDiv nq 2

/-- The fields of TDI_DEFINE. -/
def tdiFields (m : Mailbox) : List (Nat × Nat) :=
  [(0x100, 1), (0x102, 2), (0x104, 2), (0x110, 2 * m.field 0x102 2), (plistAt (m.field 0x102 2), 4 * m.field 0x104 2)]

/-- A queue that a TDI of a head may not hold: out of range, of another head, or of another TDI. -/
def State.badQueue (s : State) (head key q : Nat) : Bool :=
  decide (1024 ≤ q) || ((s.queue q).state != .disabled && (s.queue q).head != head) ||
    s.tdis.any fun t => t.1 != key && t.2.queues.contains q

/-- TDI_DEFINE. -/
def State.mailTdi (s : State) (head : Nat) (m : Mailbox) : State × Nat :=
  let tdi := m.field 0x100 1
  let nq := m.field 0x102 2
  let np := m.field 0x104 2
  let qs := (List.range nq).map fun i => m.field (0x110 + 2 * i) 2
  let ps := (List.range np).map fun i => m.field (plistAt nq + 4 * i) 4
  let key := tdiKey head tdi
  if decide (64 ≤ tdi) || nq == 0 || decide (1024 < nq) || decide (64 < np) || (ps.any fun p => decide (2 ^ 20 ≤ p)) ||
      qs.any fun q => s.badQueue head key q then (s, mbBad)
  else if ((kget s.tdis key).map fun t => t.state != .unlocked).getD false then (s, mbRefused)
  else ({ s with tdis := kset s.tdis key { queues := qs, pasids := ps, state := .unlocked, session := none } }, mbOk)

/-! ## Debugging (R372, R410) -/

/-- The fields of DBG_HALT and DBG_RESUME. -/
def dbgFields (_ : Mailbox) : List (Nat × Nat) := [(0x100, 8), (0x108, 6), (0x10E, 1)]

/-- The fields of DBG_READ. -/
def dbgReadFields (_ : Mailbox) : List (Nat × Nat) := [(0x100, 8), (0x108, 6), (0x10E, 1), (0x110, 8), (0x118, 4), (0x11C, 4)]

/-- The crew that a payload names. -/
def State.dbgCrew (s : State) (m : Mailbox) : Option (Nat × Crew) :=
  kfind s.crews fun _ c => c.alive && c.gang == m.field 0x100 8 && c.x == m.field 0x108 2 && c.y == m.field 0x10A 2 &&
    c.z == m.field 0x10C 2 && c.stage == m.field 0x10E 1

/-- DBG_HALT: a crew on a core begins to be saved for a halt, and a saved one is halted. One that is starting or being restored
is halted as soon as it runs; until then its function waits. -/
def State.mailHalt (s : State) (head : Nat) (m : Mailbox) : State :=
  match s.dbgCrew m with
  | none => s.mailEnd head mbBad
  | some (id, c) => match c.life with
    | .running | .draining | .saving => (s.modCrew id fun c => { c with life := .halting }).mailEnd head mbOk
    | .saved => (s.modCrew id fun c => { c with life := .halted }).mailEnd head mbOk
    | .halting | .halted => s.mailEnd head mbOk
    | .pending | .starting | .restoring | .flushing | .ended | .terminated => s

/-- The parking state of a fibre entry (R372). A fibre at a held word waits for a queue, or, at an EXIT or RESUME or for a page, as at a WAIT
(R37, R319, R339). -/
def Crew.imageCode (c : Crew) : FState → Nat
  | .parked (.wait _ _ _) | .parked (.page _ _) => 1
  | .parked (.waitmem _ _) => 2
  | .parked (.barw _ _) => 3
  | .parked (.join _) => 4
  | .parked (.held id) => if (kget c.held id).map Held.why = some .queue then 5 else 1
  | .parked (.effect _) | .loose _ | .formed _ | .overflow => 0

/-- A fibre entry of a crew image (R372). Its replay entries hang from REPLAY in the crew's frame heap, 0 where they have no segment there. -/
def Crew.fibreEntry (c : Crew) (fid : Nat) (f : Fibre) : List Byte :=
  let n := f.replay.length + f.attached.length
  let e : Eff := { label := 0, cause := 0, payload := 0, rpc := f.pc }
  let head := contHeader 0x20 c c.gang f e 0 0 0 0 0 n (f.chain.headD 0) ++ contBody c.b f
  padTo 512 (head ++ leBytes 4 fid ++ leBytes 4 (c.imageCode f.st) ++ leBytes 8 f.effmask.toNat ++ leBytes 8 f.seg ++
    leBytes 4 f.tickhi.toNat)

/-- Bytes padded to a multiple of 64. -/
def align64 (bs : List Byte) : List Byte := padTo (ceilDiv bs.length 64 * 64) bs

/-- n bytes of a section that holds what is given, in a layout that the spec does not give. -/
def freeBytes {α : Type} (part : Nat) (a : α) (n : Nat) : List Byte := (List.range n).map fun k => Config.imageByte part a k

/-- A section whose size the spec does not give either (log entry 99). -/
def freePart {α : Type} (part : Nat) (a : α) : List Byte := freeBytes part a (64 * (Config.imageUnits part a % 2 ^ 20))

/-- The uniform section (R372): G0 to G31, their split bits, and their pending marks. -/
def Crew.imageUniform (c : Crew) : List Byte :=
  ((List.range 32).flatMap fun n => leBytes 4 (c.getG n).toNat) ++ leBytes 4 c.split.toNat ++ leBytes 4 (maskOf (kkeys c.gpend).eraseDups)

/-- An entry of a barrier's release record (R206, R372), [30:10] 0; the spec does not state the core number and [31] of one that is not there, nor
the core number of one that names every core of the cluster. -/
def relWord (t n k : Nat) (e : Option RelEntry) : Nat :=
  let any := (Config.freeWord t n k).toNat
  match e.map RelEntry.who with
  | some (.agent a) => agentCore a % 1024
  | some (.cluster _) | some (.dies _) => any % 1024 + 2 ^ 31
  | none => any % 1024 + any / 1024 % 2 * 2 ^ 31

/-- The barriers (R372): BAR0 to BAR15, and their release records. -/
def Crew.imageBars (c : Crew) : List Byte :=
  ((List.range 16).flatMap fun n =>
    leBytes 8 ((c.bar n).expected % 4096 + (c.bar n).arrived % 4096 * 2 ^ 16 + (c.bar n).phase % 65536 * 2 ^ 32)) ++
    (List.range 16).flatMap fun n => (List.range 4).flatMap fun k => leBytes 4 (relWord c.savedAt n k (c.bar n).rel[k]?)

/-- The joins (R372): a record set and an arrived set of 1,024 bits each. -/
def Crew.imageJoins (c : Crew) : List Byte :=
  (List.range 8).flatMap fun n =>
    let j := kgetD c.joins n {}
    leBytes 128 (maskOf j.record.eraseDups) ++ leBytes 128 (maskOf (j.arrived.map Prod.fst).eraseDups)

/-- The operations of a crew of some kinds, as a log of its image holds them. -/
def State.logOf (s : State) (id : Nat) (test : OpKind → Bool) : KMap Op := s.ops.filter fun o => o.2.issuer == id && test o.2.kind

/-- The sections of a crew image after its header, in order (R372). -/
def State.imageParts (s : State) (id : Nat) (c : Crew) : List (List Byte) :=
  [c.imageUniform, c.imageBars, c.imageJoins, freePart 4 (c.segScratch, c.segFrame, c.segConst), freeBytes 5 c.raceLog 512,
   freePart 6 (c.queues, c.held),
   freePart 7 (s.logOf id fun k => match k with | .copy _ => true | _ => false, c.withdrawn), freePart 8 c.shutters,
   freePart 9 (c.claims, s.logOf id fun k => match k with | .matrix _ _ => true | _ => false),
   freePart 10 (s.logOf id fun k => match k with | .send | .recv => true | _ => false, c.deferred, c.late),
   c.scratchImage, c.fibres.flatMap fun f => c.fibreEntry f.1 f.2].map align64

/-- The directory of sections: the offset and the length of each (R372). -/
def directory : Nat → List (List Byte) → List (Nat × Nat)
  | _, [] => []
  | off, p :: ps => (off, p.length) :: directory (off + p.length) ps

/-- The header of a crew image, 256 bytes whose layout the spec does not give, for what they hold (R1, R372): the revision 1.0, minor and
major, at a place of its own, what names and places the crew, its sizes, reservation and MODE, KID, LFSR, phase and age, the race log's count and lost flag, and the directory. -/
def Crew.imageHead (c : Crew) (dir : List (Nat × Nat)) : List Byte :=
  overlay (freeBytes 0 ((1, 0, c.gang, c.tag), (c.x, c.y, c.z, c.stage), (c.n, c.b, 64 * slotsOf c.n),
    (c.b / 8 - 1 + (if c.fuse then 8 else 0) + (if c.strict then 16 else 0) + if c.idem then 32 else 0),
    (c.kid, c.lfsr, c.phase, c.firstIssue, c.savedAt, c.savedTicks), (c.raceLog.length, c.raceLost), dir) 256) (Config.revisionAt % 255) [0, 1]

/-- A crew image (R372). -/
def State.imageBytes (s : State) (id : Nat) (c : Crew) : List Byte :=
  let parts := s.imageParts id c
  c.imageHead (directory 256 parts) ++ parts.flatten

/-- DBG_READ. -/
def State.mailRead (s : State) (head : Nat) (m : Mailbox) : State × Nat :=
  match s.dbgCrew m with
  | none => (s, mbBad)
  | some (id, c) =>
    let bs := s.imageBytes id c
    if m.field 0x110 8 % 64 ≠ 0 then (s, mbBad)
    else if c.life ≠ .halted then (s, mbRefused)
    else if m.field 0x118 4 < bs.length then (s, mbBad)
    else ({ s with host := memWrites s.host (hostPa head (m.field 0x110 8)) bs }.mailPut head 0x11C (leBytes 4 bs.length), mbOk)

/-- DBG_RESUME. -/
def State.mailResume (s : State) (m : Mailbox) : State × Nat :=
  match s.dbgCrew m with
  | none => (s, mbBad)
  | some (id, c) =>
    if c.life ≠ .halted then (s, mbRefused) else (s.modCrew id fun c => { c with life := .saved }, mbOk)

end Sys2Proof.Machine
end

