-- ==== Sys2Proof/Machine/EventsSystem.lean ====
section
/-! DEFINITION. The events of the mailbox, reports, security, bring-up, power, errors and time (R4, R194, R353, R373, R391 to R411). An
event whose condition does not hold changes nothing. -/

namespace Sys2Proof.Machine

/-! ## The mailbox (R392 to R394, R410, R414) -/

/-- VERSION. -/
def execVersion (head : Fin 2) (s : State) : Host.Outcome State Fault Refusal :=
  .next (s.mailRun head.val 0x01 (fun _ => [(0x100, 4), (0x108, 2)]) fun m => s.mailVersion head.val m)

/-- QUEUE_CREATE (R353): the disabling of a queue that runs is QUEUE_DISABLE. -/
def execQueueCreate (head : Fin 2) (s : State) : Host.Outcome State Fault Refusal :=
  .next (if s.asksDisable (s.head head.val).mail then s
    else s.mailRun head.val 0x10 queueFields fun m => s.mailQueue head.val m)

/-- QUEUE_DISABLE (R353): every gang of the queue is terminated with cause 0xAF, and its packets are discarded. Like every function it answers
VERSION until the version is agreed (R393). -/
def execQueueDisable (head : Fin 2) (s : State) : Host.Outcome State Fault Refusal :=
  .next (
    let m := (s.head head.val).mail
    if s.asksDisable m && s.mailTurn head.val then s.orSnoop ((s.disableQueue (m.field 0x100 2) 0xAF).mailEnd head.val mbOk)
    else if m.agreed then s
    else s.mailRun head.val 0x10 queueFields fun _ => (s, mbVersion))

/-- PASID_REGISTER. -/
def execPasidRegister (head : Fin 2) (s : State) : Host.Outcome State Fault Refusal :=
  .next (s.mailRun head.val 0x20 pasidFields fun m => s.mailPasid head.val m)

/-- CODE_LOAD. A function that reads or writes host memory waits while the link of its head is down (R388). -/
def execCodeLoad (head : Fin 2) (s : State) : Host.Outcome State Fault Refusal :=
  .next (if !s.headUp head.val then s else s.orSnoop (s.mailRun head.val 0x30 codeFields fun m => s.mailCode head.val m))

/-- IMAGE_STAGE. -/
def execImageStage (head : Fin 2) (signed : Bool) (s : State) : Host.Outcome State Fault Refusal :=
  .next (if !s.headUp head.val then s else s.mailRun head.val 0x40 imageFields fun m => s.mailImage head.val signed m)

/-- EVRING. -/
def execEvring (head : Fin 2) (s : State) : Host.Outcome State Fault Refusal :=
  .next (s.mailRun head.val 0x50 ringFields fun m => s.mailRing head.val m)

/-- TDI_DEFINE. -/
def execTdiDefine (head : Fin 2) (s : State) : Host.Outcome State Fault Refusal :=
  .next (s.mailRun head.val 0x60 tdiFields fun m => s.mailTdi head.val m)

/-- A mailbox waits for a function of the debugger that may run. -/
def State.mailReady (s : State) (head func : Nat) : Bool :=
  let m := (s.head head).mail
  m.busy && m.func == func && m.agreed && m.zerosBut (dbgFields m) && s.mailTurn head

/-- DBG_HALT. -/
def execDbgHalt (head : Fin 2) (s : State) : Host.Outcome State Fault Refusal :=
  .next (if s.mailReady head.val 0x70 then s.mailHalt head.val (s.head head.val).mail
    else s.mailRun head.val 0x70 dbgFields fun _ => (s, mbBad))

/-- DBG_READ. -/
def execDbgRead (head : Fin 2) (s : State) : Host.Outcome State Fault Refusal :=
  .next (if !s.headUp head.val then s else s.mailRun head.val 0x71 dbgReadFields fun m => s.mailRead head.val m)

/-- DBG_RESUME. -/
def execDbgResume (head : Fin 2) (s : State) : Host.Outcome State Fault Refusal :=
  .next (s.mailRun head.val 0x72 dbgFields fun m => s.mailResume m)

/-- A read of a register by a head: its value goes to the host (R389). -/
def State.hostReads (s : State) (head off : Nat) : State :=
  let (t, v) := s.readReg head off
  { t with hostOut := t.hostOut ++ [.value head off v] }

/-- REGISTER_WRITE (R5, R389): a 64-bit access through the management space. -/
def execRegisterWrite (head : Fin 2) (off : Nat) (act : RegAct) (s : State) : Host.Outcome State Fault Refusal :=
  .next (if off % 8 ≠ 0 then s
    else match act with
      | .write val => s.orSnoop (s.writeReg head.val off val.toNat)
      | .read => s.hostReads head.val off)

/-! ## Reports (R398) -/

/-- REPORT_ANSWER_TIMEOUT (R398): no answer of the service cores within 1 ms. Reports about one gang reach the host in the order in which
they arose. -/
def execReportAnswerTimeout (n : Nat) (s : State) : Host.Outcome State Fault Refusal :=
  .next (match s.asking[n]? with
    | some (t, r) => if s.tick < t + 1000000 ∨ (s.asking.take n).any fun e => e.2.gang == r.gang then s else { s with asking := s.asking.eraseIdx n }.toHost r
    | none => s)

/-! ## SPDM, IDE and TDISP (R400 to R403, R407) -/

/-- The measurement blocks (R405): index 1 for the ROM, and index 2 to 5 for the accepted images of kinds 1 to 4. -/
def State.measures (s : State) : List Measure :=
  ⟨1, 0, Config.romDigest⟩ :: s.images.map fun x => ⟨x.1 + 1, x.2.svn, x.2.digest⟩

/-- The Alias key of the part as it has started (R406). -/
def State.aliasOf (s : State) : List Byte := Config.aliasKey s.measures

/-- The certificate chain of slot 0 (R406). -/
def State.chain (s : State) : List (List Byte) :=
  [Config.rootCert, Config.modelCert, Config.deviceCert, Config.aliasCert s.aliasOf]

/-- An answer to an SPDM request. -/
def State.spdm (s : State) (head : Nat) (a : SpdmAnswer) : State := { s with hostOut := s.hostOut ++ [.spdm head a] }

/-- An answer to a TDISP request, through a head whose link is up (R388). -/
def State.tdisp (s : State) (head tdi : Nat) (ok : Bool) : State :=
  if s.headUp head then { s with hostOut := s.hostOut ++ [.tdisp head tdi ok] } else s

/-- The sessions that a head holds at most, and its link stream with its selective streams (R400). -/
def spdmSessions : Nat := 4
/-- One link stream and eight selective ones. -/
def ideStreams : Nat := 9

/-- A secure session opened by a head that holds fewer than four, which may bind a TDI (R400, R402). -/
def State.openSession (s : State) (head session : Nat) (tdi : Option Nat) : State :=
  if s.sessions.contains (head, session) || decide (spdmSessions ≤ (s.sessions.filter fun x => x.1 == head).length) then s.spdm head .refused
  else
    let t := { s with sessions := s.sessions ++ [(head, session)] }
    (match tdi with
      | some n => { t with tdis := kmod t.tdis (tdiKey head n) fun x => { x with session := some session } }
      | none => t).spdm head (.session session)

/-- The keys of an IDE stream set up by IDE_KM within a session (R400); a stream that has gone out of service takes none. -/
def State.setKeys (s : State) (head session stream : Nat) : State :=
  if s.sessions.contains (head, session) && decide (stream < ideStreams) && !s.streams.contains (head, stream) then
    { s with ideKeys := if s.ideKeys.contains (head, stream) then s.ideKeys else s.ideKeys ++ [(head, stream)] }.spdm head (.keySetup stream)
  else s.spdm head .refused

/-- SPDM_REQUEST (R400, R405 to R407): below READY only the requests that R407 names are served, and a head whose link is down takes none
(R388). -/
def execSpdmRequest (head : Fin 2) (k : SpdmKind) (s : State) : Host.Outcome State Fault Refusal :=
  .next (if !s.headUp head.val then s
    else match k with
    | .version => s.spdm head.val (.version 1 3)
    | .capabilities => s.spdm head.val (.capabilities spdmSessions ideStreams)
    | .algorithms => s.spdm head.val .algorithms
    | .digests => s.spdm head.val (.digests (Config.sha384 s.chain.flatten))
    | .certificate => s.spdm head.val (.certificate s.chain)
    | .challenge nonce => s.spdm head.val (.challenge (Config.sign s.aliasOf nonce))
    | .measurements => s.spdm head.val (.measurements s.measures)
    | .openSession session tdi => if s.stage = stageReady then s.openSession head.val session tdi else s.spdm head.val .notReady
    | .keySetup session stream => if s.stage = stageReady then s.setKeys head.val session stream else s.spdm head.val .notReady
    | .other => s.spdm head.val (if s.stage = stageReady then .other else .notReady))

/-- The bytes that a crew has written and that have not reached their homes are dropped (step 3 of R402). -/
def State.dropWrites (s : State) (crew : Nat) : State :=
  { s with agents := kmap s.agents fun _ a =>
      { a with l1 := a.l1.filter fun l => l.2.writer != some crew, wc := a.wc.filter fun l => l.2.writer != some crew } }

/-- Zeros over n bytes from a physical address (step 4 of R402). -/
def State.zeroPa (s : State) (pa n : Nat) : State :=
  let out := fun a => !(decide (pa ≤ a) && decide (a < pa + n))
  { s with dev := s.dev.filter fun c => out c.1, host := s.host.filter fun c => out c.1
           tags := s.tags.filter fun t => out t.1, poisonDev := s.poisonDev.filter out }

/-- A crew's frame heap written with zero, page by page; a page that does not translate holds no segment. -/
def State.zeroHeap (s : State) (pasid base len : Nat) : State :=
  (List.range (len / 4096)).foldl (fun (t : State) i =>
    match t.engineXl pasid (base + 4096 * i) .store with
    | (u, .ok pa _) => u.zeroPa pa 4096
    | (u, .fault _) => u) s

/-- What a crew of a TDI leaves dropped and its stores zeroed (steps 3 and 4 of R402). -/
def State.wipeCrew (s : State) (crew : Nat) : State :=
  let c := s.crew crew
  let area := c.scratchArea
  let t := (s.dropWrites crew).modCore c.core fun k => { k with saddle := k.saddle.filter fun g => g.2.crew != crew }
  let u := if c.home.isNone || c.life == .saved || c.life == .halted then t
    else (t.wakeRange (clusterOf c.core) area.base area.limit).writeScratch (clusterOf c.core) area.base (List.replicate area.limit 0)
  u.zeroHeap c.pasid c.frameArea.base c.frameArea.limit

/-- A queue of a TDI that leaves RUN (R402): the gangs' crews are wiped, terminated with cause 0xB3, and the queue is disabled. -/
def State.stopQueue (s : State) (q : Nat) : State :=
  let crews := (s.gangsOf q).flatMap fun g => ((kget s.gangs g).map Gang.crews).getD []
  ((crews.filter fun c => (s.crew c).alive).foldl State.wipeCrew s).disableQueue q 0xB3

/-- A TDI leaves RUN for a state (R402). -/
def State.leaveRun (s : State) (key : Nat) (t : Tdi) (to_ : TdiState) : State :=
  let u := t.queues.foldl State.stopQueue s
  { u with tdis := kset u.tdis key { t with state := to_ } }

/-- TDI_STOP (R402): a TDI in RUN is stopped by its TDISP request, which is answered when all is done. -/
def execTdiStop (head : Fin 2) (tdi : Nat) (s : State) : Host.Outcome State Fault Refusal :=
  .next (match kget s.tdis (tdiKey head.val tdi) with
    | some t => if t.state = .run then s.orSnoop ((s.leaveRun (tdiKey head.val tdi) t .unlocked).tdisp head.val tdi true) else s
    | none => s)

/-- TDISP_REQUEST (R401, R402). -/
def execTdispRequest (head : Fin 2) (tdi : Nat) (k : TdispKind) (s : State) : Host.Outcome State Fault Refusal :=
  .next (
    let key := tdiKey head.val tdi
    match kget s.tdis key with
    | some t =>
      let go := fun (x : TdiState) => { s with tdis := kset s.tdis key { t with state := x } }.tdisp head.val tdi true
      match k, t.state with
      | .lock, .unlocked => go .locked
      | .start, .locked => go .run
      | .stop, .run => s.orSnoop ((s.leaveRun key t .unlocked).tdisp head.val tdi true)
      | .stop, .unlocked | .stop, .locked | .stop, .error => go .unlocked
      | .lock, .locked | .lock, .run | .lock, .error | .start, .unlocked | .start, .run | .start, .error =>
        s.tdisp head.val tdi false
    | none => s.tdisp head.val tdi false)

/-- A TDI in error (R400, R402): one that runs leaves RUN, and the end of the session that binds one that is locked has the same effect. -/
def State.failTdi (s : State) (x : Nat × Tdi) : State :=
  if x.2.state = .run ∨ x.2.state = .locked then s.leaveRun x.1 x.2 .error else s

/-- SESSION_EXPIRY (R402, R412): cause 0xB4 is reported for a session that bound no TDI. -/
def execSessionExpiry (head : Fin 2) (session : Nat) (s : State) : Host.Outcome State Fault Refusal :=
  .next (if !s.sessions.contains (head.val, session) then s
    else
      let t := { s with sessions := s.sessions.filter fun x => x != (head.val, session) }
      let bound := t.tdis.filter fun x => x.1 / 64 == head.val && x.2.session == some session
      if bound.isEmpty then t.plainReport 0xB4 0 head.val session
      else s.orSnoop ((bound.foldl State.failTdi t) |> fun (u : State) =>
        { u with tdis := kmap u.tdis fun k x => if k / 64 = head.val ∧ x.session = some session then { x with session := none } else x }))

/-- IDE_INTEGRITY_FAILURE (R400): a link stream or one of eight selective streams goes out of service. -/
def execIdeIntegrityFailure (head : Fin 2) (stream : Nat) (s : State) : Host.Outcome State Fault Refusal :=
  .next (if 9 ≤ stream ∨ s.streams.contains (head.val, stream) then s
    else
      let t := { s with streams := s.streams ++ [(head.val, stream)] }.plainReport 0xBD 0 head.val stream
      let users := t.tdis.filter fun x => x.1 / 64 == head.val && Config.tdiStream head.val (x.1 % 64) stream && x.2.state == .run
      s.orSnoop (users.foldl State.failTdi t))

/-! ## Reset and bring-up (R405, R407, R411) -/

/-- The images in the flash with the one staged in the place of its kind (R405). -/
def State.nextImages (s : State) : KMap Image :=
  match s.staged with
  | some i => kset s.images i.kind i
  | none => s.images

/-- Settings that a configuration image (kind 3) gives: the initial SYS_ROUTE, and the operating point, in its range of 0.40 V to 0.60 V
(R405, R411). -/
def State.configured (s : State) : State :=
  match kget s.images 3 with
  | some i => { s with route := i.route, millivolts := min 600 (max 400 i.point) }
  | none => s

/-- The machine right after reset, with what lies outside it: host memory, what the host has been sent, the flash with the image
staged, and the model's own fields. -/
def State.restart (s : State) : State :=
  let t := State.reset
  { t with agenda := s.agenda, free := s.free, nextId := s.nextId, sysId := s.sysId, host := s.host, hostAbort := s.hostAbort
           hostOut := s.hostOut, images := s.nextImages }.configured

/-- RESET (R405, R407): bring-up starts at stage ROM. -/
def execReset (s : State) : Host.Outcome State Fault Refusal := .next s.restart

/-- A stage of bring-up done (R407): MEMORY fills device memory with zeros; at READY firmware has placed the threshold area. -/
def State.nextStage (s : State) : State :=
  let t := { s with stage := s.stage + 1 }
  let u := if s.stage = 3 then { t with dev := [], poisonDev := t.poisonDev.filter fun a => !isDevice a } else t
  if u.stage = stageReady then { u with thr := Config.thresholdArea }.writeThrHead else u

/-- Stage VERIFY rejects an image (R404, R407). -/
def State.rejectImage (s : State) (c : Cause) : State :=
  if s.stage = 1 then { s with stage := 15 }.plainReport c 0 s.primary 0 else s

/-- BRINGUP_STAGE_DONE (R404, R407): a stage is done, or a step of it fails. -/
def execBringupStageDone (e : StageEnd) (s : State) : Host.Outcome State Fault Refusal :=
  .next (if stageReady ≤ s.stage ∨ s.tripped = true then s
    else match e with
      | .done => s.nextStage
      | .failed => { s with stage := 15 }
      | .badSignature => s.rejectImage 0xB9
      | .badFormat => s.rejectImage 0xBA)

/-! ## Power and temperature (R411) -/

/-- POWER_LIMIT (R411): the operating point is lowered within its range. -/
def execPowerLimit (millivolts : Nat) (s : State) : Host.Outcome State Fault Refusal :=
  .next (if 400 ≤ millivolts ∧ millivolts ≤ s.millivolts then { s with millivolts := millivolts } else s)

/-- THERMAL_THROTTLE (R411). -/
def execThermalThrottle (s : State) : Host.Outcome State Fault Refusal := .next { s with throttled := true, millivolts := 400 }

/-- THERMAL_TRIP (R411): cause 0xBB is reported, every crew stops, and the part holds in reset. -/
def execThermalTrip (s : State) : Host.Outcome State Fault Refusal :=
  .next { (s.plainReport 0xBB 0 s.primary 0).restart with tripped := true }

/-! ## Errors (R408, R409) -/

/-- PATROL_SCRUB (R408): correctable errors are corrected and written back, which changes no value. -/
def execPatrolScrub (stack : Nat) (s : State) : Host.Outcome State Fault Refusal :=
  .next { s with scrubs := s.scrubs + (if stack < 16 then 1 else 0) }

/-- SERVICE_CORE_FAILURE (R409): the other service cores take over the work. -/
def execServiceCoreFailure (core : Nat) (s : State) : Host.Outcome State Fault Refusal :=
  .next (if 24 ≤ core ∨ s.failedCores.contains core then s
    else { s with failedCores := s.failedCores ++ [core] }.plainReport 0xBF 0 s.primary core)

/-! ## Time (R4, R373) -/

/-- Some resident fibre of a core is parked. -/
def State.anyParked (s : State) (core : Nat) : Bool :=
  s.crews.any fun c => c.2.on core && c.2.fibres.any fun f => f.2.st.isParked

/-- The phase of the crew that a core's picker served last, or 0 (R373). -/
def State.servedPhase (s : State) (k : Core) : Nat :=
  match k.lastCrew with
  | some c => ((kget s.crews c).map fun x => x.phase.toNat).getD k.lastPhase
  | none => 0

/-- A core after a cycle: exactly one of its counters has risen (R373). -/
def State.cycled (s : State) (core : Nat) : Core :=
  let k := s.core core
  let key := if k.issued then occKey k.lastPhase 0 else occKey (s.servedPhase k) (if s.anyParked core then 2 else 1)
  { k with cycle := k.cycle + 1, issued := false, blocked := false, occ := kset k.occ key ((kgetD k.occ key 0 + 1) % 2 ^ 48) }

/-- CYCLE (R4, R373): a period of the arithmetic clock, shorter than a tick, so that at most one tick passes. -/
def execCycle (ticks : Nat) (s : State) : Host.Outcome State Fault Refusal :=
  .next { s with tick := (s.tick + min ticks 1) % 2 ^ 64, cores := (List.range Config.cores).map fun c => (c, s.cycled c) }

/-! ## Hosts out of reach (R194) -/

/-- A memory request of a core that waits for a host. -/
def Op.waitsHost (s : State) (o : Op) : Bool :=
  match o.kind with
  | .mem r _ _ => o.stage == .issued && s.hostTarget o r
  | .copy _ | .matrix _ _ | .frame _ _ | .send | .recv | .query _ => false

/-- HOST_UNREACHABLE_TIMEOUT (R194): 2 ms after the last link went down, the host accesses that wait complete with cause 0x57. -/
def execHostUnreachableTimeout (s : State) : Host.Outcome State Fault Refusal :=
  .next (if (s.hostDown.map fun t => decide (t + 2000000 ≤ s.tick)).getD false then
      s.orSnoop ((s.ops.filter fun o => o.2.waitsHost s).foldl (fun (t : State) o => t.completeOp o.1 o.2) s)
    else s)

end Sys2Proof.Machine
end

