-- ==== Sys2Proof/Machine/Approx.lean ====
section
/-! DEFINITION. The six approximate functions (R104): exact and special cases, the mathematical value to far more bits than a
result holds, and the choice of the result: the free value of Config where it meets the error bound, else the nearest value. -/

namespace Sys2Proof.Machine

/-- A positive or negative dyadic number (-1)^neg * m * 2^e. -/
structure Dy where
  neg : Bool
  m : Nat
  e : Int
deriving DecidableEq, Repr

/-- |r - x| ≤ b * 2^q for every x that lies within err units of v's last place: for dyadic r and v. -/
def Dy.near (r v : Dy) (err b : Nat) (q : Int) : Bool :=
  let p := min q (min r.e v.e)
  (signedAt r.neg r.m r.e p - signedAt v.neg v.m v.e p).natAbs + err * 2 ^ (v.e - p).toNat ≤ b * 2 ^ (q - p).toNat

/-- The exponent of the last place of a finite f32 value's binade (R104). -/
def ulpExp (x : Nat) : Int :=
  let e : Nat := x / 2 ^ 23 % 256
  (if e = 0 then 1 else (e : Int)) - 150

/-- The finite value of an f32 encoding, if it has one. -/
def finOf (x : Nat) : Option Dy :=
  match unpack f32 x with
  | .fin s m e => some ⟨s, m, e⟩
  | _ => none

/-- The result of an approximate function whose mathematical value lies within err units of v's last place: the free value where it is
finite and within the bound (in units of the last place of its binade, or absolutely 2^q), else the value nearest to v. -/
def approxPick (free : Word) (v : Dy) (err ulps : Nat) (abs : Option Int) : Nat :=
  let ok := match finOf free.toNat with
    | none => false
    | some r => match abs with
      | some q => r.near v err 1 q
      | none => r.near v err ulps (ulpExp free.toNat)
  if ok then free.toNat else (roundFin f32 0 v.neg v.m v.e).1

/-- The exceptions of an approximate result that is not listed as exact (R104). -/
def approxExc (r : Nat) : Word :=
  if r % 2147483648 ≥ 0x7F800000 then excOF ||| excNX
  else if r % 2147483648 < 0x00800000 then excUF ||| excNX else excNX

/-- A finite magnitude m is a power of two. -/
def isPow2 (m : Nat) : Bool := m != 0 && 2 ^ Nat.log2 m == m

/-- An approximate result with its exceptions. -/
def approxRes (r : Nat) : Nat × Word := (r, approxExc r)

/-- FRCP (R104). -/
def apRcp (a : Word) : Nat × Word :=
  match unpack f32 a.toNat with
  | .nan s => (canonNaN f32, if s then excNV else 0)
  | .inf s => (signBit f32 s, 0)
  | .fin s m e =>
    if m = 0 then (infBits f32 s, excDZ)
    else
      let (q, k) := quotient 1 m
      let r := (roundFin f32 0 s q (k - e)).1
      if isPow2 m && r % 2147483648 ≥ 0x00800000 && r % 2147483648 < 0x7F800000 then (r, 0)
      else if r % 2147483648 ≥ 0x7F800000 then (infBits f32 s, excOF ||| excNX)
      else approxRes (approxPick (Config.frcp a) ⟨s, q, k - e⟩ 8 1 none)

/-- FRSQ (R104). -/
def apRsq (a : Word) : Nat × Word :=
  match unpack f32 a.toNat with
  | .nan s => (canonNaN f32, if s then excNV else 0)
  | .inf s => if s then (canonNaN f32, excNV) else (0, 0)
  | .fin s m e =>
    if m = 0 then (infBits f32 s, excDZ)
    else if s then (canonNaN f32, excNV)
    else
      let up : Nat := if e % 2 = 0 then 160 else 161
      let r := isqrt 110 (m * 2 ^ up) 0
      let (q, k) := quotient 1 r
      let v : Dy := ⟨false, q, k - (e - up) / 2⟩
      if isPow2 m && (e + Nat.log2 m) % 2 = 0 then ((roundFin f32 0 false v.m v.e).1, 0)
      else approxRes (approxPick (Config.frsq a) v 8 2 none)

/-- The product of the constants 2^(2^-k) chosen by the bits of a fraction, in units of 2^-120; c is the constant of the
next bit. -/
def exp2Bits : Nat → Nat → Nat → Nat → Nat
  | 0, _, _, acc => acc
  | n + 1, f, c, acc =>
    exp2Bits n (f * 2 % 2 ^ 96) (isqrt 122 (c * 2 ^ 120) 0) (if f * 2 < 2 ^ 96 then acc else acc * c / 2 ^ 120)

/-- FEX2 (R104). -/
def apEx2 (a : Word) : Nat × Word :=
  match unpack f32 a.toNat with
  | .nan s => (canonNaN f32, if s then excNV else 0)
  | .inf s => if s then (0, 0) else (infBits f32 false, 0)
  | .fin s m e =>
    let x := signedAt s m (max e (-96)) (-96)
    let x := if e < -96 then (if s then -((m * 2 ^ 96 / 2 ^ (-e).toNat : Nat) : Int) else ((m * 2 ^ 96 / 2 ^ (-e).toNat : Nat) : Int)) else x
    if x ≥ 128 * 2 ^ 96 then (infBits f32 false, excOF ||| excNX)
    else
      let i := max (x / 2 ^ 96) (-300)
      let f := (x % 2 ^ 96).toNat
      let exact : Bool := m = 0 ∨ (if 0 ≤ e then true else m % 2 ^ (-e).toNat = 0)
      if exact && -149 ≤ i then ((roundFin f32 0 false 1 i).1, 0)
      else
        let c := exp2Bits 96 f (isqrt 122 (2 * 2 ^ 240) 0) (2 ^ 120)
        approxRes (approxPick (Config.fex2 a) ⟨false, c, i - 120⟩ (2 ^ 26) 2 none)

/-- The bits of log2 of y / 2^120 in [1, 2), by repeated squaring. -/
def log2Bits : Nat → Nat → Nat → Nat
  | 0, _, acc => acc
  | n + 1, y, acc =>
    let z := y * y / 2 ^ 120
    if z < 2 ^ 121 then log2Bits n z (2 * acc) else log2Bits n (z / 2) (2 * acc + 1)

/-- FLG2 (R104). -/
def apLg2 (a : Word) : Nat × Word :=
  match unpack f32 a.toNat with
  | .nan s => (canonNaN f32, if s then excNV else 0)
  | .inf s => if s then (canonNaN f32, excNV) else (infBits f32 false, 0)
  | .fin s m e =>
    if m = 0 then (infBits f32 true, excDZ)
    else if s then (canonNaN f32, excNV)
    else
      let t := Nat.log2 m
      let ie : Int := e + t
      if isPow2 m then ((ofInt f32 0 ie).1, 0)
      else
        let fr := log2Bits 60 (m * 2 ^ (120 - t)) 0
        let x : Int := ie * 2 ^ 60 + fr
        let inner := a.toNat ≥ 0x3F000000 && a.toNat ≤ 0x40000000
        approxRes (approxPick (Config.flg2 a) ⟨decide (x < 0), x.natAbs, -60⟩ 8 2 (if inner then some (-22) else none))

/-- 2 / pi in units of 2^-320. -/
def twoOverPi : Nat := 0xa2f9836e4e441529fc2757d1f534ddc0db6295993c439041fe5163abdebbc561b7246e3a424dd2e0

/-- pi / 2 in units of 2^-96. -/
def halfPi : Nat := 0x1921fb54442d18469898cc517

/-- Terms of the sine or cosine series, in units of 2^-96: the term, its square argument, the index of the next factor, the
sign, and the sum so far. -/
def trigSeries : Nat → Nat → Nat → Nat → Bool → Int → Int
  | 0, _, _, _, _, acc => acc
  | n + 1, term, t2, k, neg, acc =>
    trigSeries n (term * t2 / 2 ^ 96 / (k * (k + 1))) t2 (k + 2) (!neg) (if neg then acc - term else acc + term)

/-- Sine (or cosine) of the finite value m * 2^e, in units of 2^-96, by exact reduction modulo pi / 2. -/
def trigValue (cosine : Bool) (m : Nat) (e : Int) : Int :=
  let t : Nat := if e < -224 then 0 else m * twoOverPi * 2 ^ (e + 224).toNat / 2 ^ 448
  let quad := t / 2 ^ 96
  let th := t % 2 ^ 96 * halfPi / 2 ^ 96
  let q := (quad + (if cosine then 1 else 0)) % 4
  let t2 := th * th / 2 ^ 96
  let v := if q % 2 = 0 then trigSeries 16 th t2 2 false 0 else trigSeries 16 (2 ^ 96) t2 1 false 0
  if q ≥ 2 then -v else v

/-- FSIN and FCOS (R104). -/
def apTrig (cosine : Bool) (a : Word) : Nat × Word :=
  match unpack f32 a.toNat with
  | .nan s => (canonNaN f32, if s then excNV else 0)
  | .inf _ => (canonNaN f32, excNV)
  | .fin s m e =>
    if m = 0 then (if cosine then 0x3F800000 else a.toNat, 0)
    else
      let v := trigValue cosine m e
      let x := if s && !cosine then -v else v
      approxRes (approxPick (if cosine then Config.fcos a else Config.fsin a) ⟨decide (x < 0), x.natAbs, -96⟩ (2 ^ 16) 0 (some (-22)))

end Sys2Proof.Machine
end

