-- ==== Sys2Proof/Machine/LaneFloat.lean ====
section
/-! DEFINITION. f32 arithmetic of the lane engine (R101 to R104). -/

namespace Sys2Proof.Machine

/-- A result with its exceptions. -/
def floatRes (r : Nat × Word) : Except LaneErr LaneOut := .ok { lo := BitVec.ofNat 32 r.1, exc := r.2 }

/-- FADD (R101). -/
def execFadd (h : LaneHdr) (a b : Sel) (s : State) : Host.Outcome State Fault Refusal :=
  (binOp (.fadd h a b) h 4 a b fun m x y => floatRes (fadd f32 m.rm x.toNat y.toNat)).exec s

/-- FSUB (R101). -/
def execFsub (h : LaneHdr) (a b : Sel) (s : State) : Host.Outcome State Fault Refusal :=
  (binOp (.fsub h a b) h 4 a b fun m x y => floatRes (fsub f32 m.rm x.toNat y.toNat)).exec s

/-- FMUL (R101). -/
def execFmul (h : LaneHdr) (a b : Sel) (s : State) : Host.Outcome State Fault Refusal :=
  (binOp (.fmul h a b) h 4 a b fun m x y => floatRes (fmul f32 m.rm x.toNat y.toNat)).exec s

/-- FFMA, with one rounding (R101). -/
def execFfma (h : LaneHdr) (a b : Sel) (s : State) : Host.Outcome State Fault Refusal :=
  (triOp (.ffma h a b) h 4 a b fun m d x y => floatRes (ffma f32 m.rm d.toNat x.toNat y.toNat)).exec s

/-- FMIN (R102). -/
def execFmin (h : LaneHdr) (a b : Sel) (s : State) : Host.Outcome State Fault Refusal :=
  (binOp (.fmin h a b) h 4 a b fun _ x y => floatRes (fminmax f32 false x.toNat y.toNat)).exec s

/-- FMAX (R102). -/
def execFmax (h : LaneHdr) (a b : Sel) (s : State) : Host.Outcome State Fault Refusal :=
  (binOp (.fmax h a b) h 4 a b fun _ x y => floatRes (fminmax f32 true x.toNat y.toNat)).exec s

/-- FABS (R57, R101). -/
def execFabs (h : LaneHdr) (a : Sel) (s : State) : Host.Outcome State Fault Refusal :=
  (unOp (.fabs h a) h 4 a fun _ x => plain (x &&& 0x7FFFFFFF)).exec s

/-- FNEG (R57, R101). -/
def execFneg (h : LaneHdr) (a : Sel) (s : State) : Host.Outcome State Fault Refusal :=
  (unOp (.fneg h a) h 4 a fun _ x => plain (x ^^^ 0x80000000)).exec s

/-- FRCP (R104). -/
def execFrcp (h : LaneHdr) (a : Sel) (s : State) : Host.Outcome State Fault Refusal :=
  (unOp (.frcp h a) h 12 a fun _ x => floatRes (apRcp x)).exec s

/-- FRSQ (R104). -/
def execFrsq (h : LaneHdr) (a : Sel) (s : State) : Host.Outcome State Fault Refusal :=
  (unOp (.frsq h a) h 12 a fun _ x => floatRes (apRsq x)).exec s

/-- FSQRT (R101). -/
def execFsqrt (h : LaneHdr) (a : Sel) (s : State) : Host.Outcome State Fault Refusal :=
  (unOp (.fsqrt h a) h 12 a fun m x => floatRes (fsqrt f32 m.rm x.toNat)).exec s

/-- FDIV (R101). -/
def execFdiv (h : LaneHdr) (a b : Sel) (s : State) : Host.Outcome State Fault Refusal :=
  (binOp (.fdiv h a b) h 16 a b fun m x y => floatRes (fdiv f32 m.rm x.toNat y.toNat)).exec s

/-- FEX2 (R104). -/
def execFex2 (h : LaneHdr) (a : Sel) (s : State) : Host.Outcome State Fault Refusal :=
  (unOp (.fex2 h a) h 12 a fun _ x => floatRes (apEx2 x)).exec s

/-- FLG2 (R104). -/
def execFlg2 (h : LaneHdr) (a : Sel) (s : State) : Host.Outcome State Fault Refusal :=
  (unOp (.flg2 h a) h 12 a fun _ x => floatRes (apLg2 x)).exec s

/-- FSIN (R104). -/
def execFsin (h : LaneHdr) (a : Sel) (s : State) : Host.Outcome State Fault Refusal :=
  (unOp (.fsin h a) h 12 a fun _ x => floatRes (apTrig false x)).exec s

/-- FCOS (R104). -/
def execFcos (h : LaneHdr) (a : Sel) (s : State) : Host.Outcome State Fault Refusal :=
  (unOp (.fcos h a) h 12 a fun _ x => floatRes (apTrig true x)).exec s

/-- FRND (R103). -/
def execFrnd (h : LaneHdr) (a : Sel) (s : State) : Host.Outcome State Fault Refusal :=
  (unOp (.frnd h a) h 4 a fun m x => floatRes (frnd f32 m.rm x.toNat)).exec s

/-- FCPYS (R57, R101). -/
def execFcpys (h : LaneHdr) (a b : Sel) (s : State) : Host.Outcome State Fault Refusal :=
  (binOp (.fcpys h a b) h 4 a b fun _ x y => plain ((x &&& 0x7FFFFFFF) ||| (y &&& 0x80000000))).exec s

end Sys2Proof.Machine
end

