-- ==== Sys2Proof/Machine/LanePacked.lean ====
section
/-! DEFINITION. Packed 16-bit arithmetic (R105), conversions (R60, R106, R107) and byte movement (R68, R108, R109). -/

namespace Sys2Proof.Machine

/-- The low half of a word. -/
def half0 (x : Word) : Nat := x.toNat % 65536
/-- The high half of a word. -/
def half1 (x : Word) : Nat := x.toNat / 65536

/-- Two halves as one result, with the union of their exceptions (R105). -/
def twoHalves (lo hi : Nat × Word) : Except LaneErr LaneOut :=
  .ok { lo := BitVec.ofNat 32 (lo.1 % 65536 + 65536 * (hi.1 % 65536)), exc := lo.2 ||| hi.2 }

/-- An operation on both halves of two operands. -/
def packed2 (k : Nat → Nat → Nat → Nat × Word) (m : Mod) (x y : Word) : Except LaneErr LaneOut :=
  twoHalves (k m.rm (half0 x) (half0 y)) (k m.rm (half1 x) (half1 y))

/-- A fused operation on both halves of d, a and b. -/
def packed3 (F : Fmt) (m : Mod) (d x y : Word) : Except LaneErr LaneOut :=
  twoHalves (ffma F m.rm (half0 d) (half0 x) (half0 y)) (ffma F m.rm (half1 d) (half1 x) (half1 y))

/-- HADD2 (R105). -/
def execHadd2 (h : LaneHdr) (a b : Sel) (s : State) : Host.Outcome State Fault Refusal :=
  (binOp (.hadd2 h a b) h 4 a b (packed2 (fadd f16))).exec s

/-- HMUL2 (R105). -/
def execHmul2 (h : LaneHdr) (a b : Sel) (s : State) : Host.Outcome State Fault Refusal :=
  (binOp (.hmul2 h a b) h 4 a b (packed2 (fmul f16))).exec s

/-- HFMA2 (R105). -/
def execHfma2 (h : LaneHdr) (a b : Sel) (s : State) : Host.Outcome State Fault Refusal :=
  (triOp (.hfma2 h a b) h 4 a b (packed3 f16)).exec s

/-- HMIN2 (R105). -/
def execHmin2 (h : LaneHdr) (a b : Sel) (s : State) : Host.Outcome State Fault Refusal :=
  (binOp (.hmin2 h a b) h 4 a b (packed2 fun _ => fminmax f16 false)).exec s

/-- HMAX2 (R105). -/
def execHmax2 (h : LaneHdr) (a b : Sel) (s : State) : Host.Outcome State Fault Refusal :=
  (binOp (.hmax2 h a b) h 4 a b (packed2 fun _ => fminmax f16 true)).exec s

/-- BADD2 (R105). -/
def execBadd2 (h : LaneHdr) (a b : Sel) (s : State) : Host.Outcome State Fault Refusal :=
  (binOp (.badd2 h a b) h 4 a b (packed2 (fadd c16))).exec s

/-- BMUL2 (R105). -/
def execBmul2 (h : LaneHdr) (a b : Sel) (s : State) : Host.Outcome State Fault Refusal :=
  (binOp (.bmul2 h a b) h 4 a b (packed2 (fmul c16))).exec s

/-- BFMA2 (R105). -/
def execBfma2 (h : LaneHdr) (a b : Sel) (s : State) : Host.Outcome State Fault Refusal :=
  (triOp (.bfma2 h a b) h 4 a b (packed3 c16)).exec s

/-- BMIN2 (R105). -/
def execBmin2 (h : LaneHdr) (a b : Sel) (s : State) : Host.Outcome State Fault Refusal :=
  (binOp (.bmin2 h a b) h 4 a b (packed2 fun _ => fminmax c16 false)).exec s

/-- BMAX2 (R105). -/
def execBmax2 (h : LaneHdr) (a b : Sel) (s : State) : Host.Outcome State Fault Refusal :=
  (binOp (.bmax2 h a b) h 4 a b (packed2 fun _ => fminmax c16 true)).exec s

/-! ## CVT -/

/-- The codes of CVT that read a as a pair (R106). -/
def cvtPairIn (code : Fin 26) : Bool := code.val == 0x18 || code.val == 0x19

/-- The codes of CVT that write a pair (R106). -/
def cvtPairOut (code : Fin 26) : Bool := code.val == 0x16 || code.val == 0x17

/-- A conversion to an integer as a result. -/
def intRes (r : Word × Word) : Except LaneErr LaneOut := .ok { lo := r.1, exc := r.2 }

/-- The result of CVT for a code 0x00 to 0x19 under a rounding mode, from the operand and, for the pair codes, its high
register (R60, R106). -/
def cvtRes (code : Fin 26) (rm : Nat) (x hi : Word) : Except LaneErr LaneOut :=
  match code.val with
  | 0x00 => floatRes (ofInt f32 rm x.toInt)
  | 0x01 => floatRes (ofInt f32 rm x.toNat)
  | 0x02 => intRes (toInt32 f32 true rm x.toNat)
  | 0x03 => intRes (toInt32 f32 false rm x.toNat)
  | 0x04 => floatRes (fconv f16 f32 rm (half0 x))
  | 0x05 => floatRes (fconv f16 f32 rm (half1 x))
  | 0x06 => floatRes (fconv c16 f32 rm (half0 x))
  | 0x07 => floatRes (fconv c16 f32 rm (half1 x))
  | 0x08 => floatRes (fconv f32 f16 rm x.toNat)
  | 0x09 => floatRes (fconv f32 c16 rm x.toNat)
  | 0x0A => floatRes (fconv c16 f16 rm (half0 x))
  | 0x0B => floatRes (fconv f16 c16 rm (half0 x))
  | 0x0C => twoHalves (fconv c16 f16 rm (half0 x)) (fconv c16 f16 rm (half1 x))
  | 0x0D => twoHalves (fconv f16 c16 rm (half0 x)) (fconv f16 c16 rm (half1 x))
  | 0x0E => intRes (toInt32 f16 true rm (half0 x))
  | 0x0F => intRes (toInt32 f16 false rm (half0 x))
  | 0x10 => intRes (toInt32 c16 true rm (half0 x))
  | 0x11 => intRes (toInt32 c16 false rm (half0 x))
  | 0x12 => floatRes (ofInt f16 rm x.toInt)
  | 0x13 => floatRes (ofInt f16 rm x.toNat)
  | 0x14 => floatRes (ofInt c16 rm x.toInt)
  | 0x15 => floatRes (ofInt c16 rm x.toNat)
  | 0x16 => .ok { lo := x, hi := some (signPair x).2 }
  | 0x17 => .ok { lo := x, hi := some 0 }
  | 0x18 => twoHalves (fconv f32 f16 rm x.toNat) (fconv f32 f16 rm hi.toNat)
  | _ => twoHalves (fconv f32 c16 rm x.toNat) (fconv f32 c16 rm hi.toNat)

/-- CVT (R106). -/
def execCvt (h : LaneHdr) (a : Sel) (code : Fin 26) (s : State) : Host.Outcome State Fault Refusal :=
  ({ instr := .cvt h a code, g := h.g, nw := h.nw, d := h.d.val, width := if cvtPairOut code then 2 else 1, lat := 4
     srcs := [(a, if cvtPairIn code then 2 else 1)]
     result := fun e f fid pops =>
       if cvtPairIn code then
         match e.readPair f fid a 0 with
         | .ok (lo, hi) => cvtRes code e.iss.mod.rm lo hi
         | .error x => .error x
       else read1 e f fid a pops fun x => cvtRes code e.iss.mod.rm x 0 } : LaneOp).exec s

/-- CVT.FSWAP (R107). -/
def execCvtFswap (h : LaneHdr) (a : Sel) (s : State) : Host.Outcome State Fault Refusal :=
  ({ instr := .cvtFswap h a, g := h.g, nw := h.nw, d := h.d.val, lat := 4, srcs := [(a, 1)]
     result := fun e f fid pops => read1 e f fid a pops fun x =>
       if x &&& fstatReserved ≠ 0 then .error (0, 0x2D)
       else .ok { lo := f.fstatSeen fun k => e.pick fid (80 + k) 1, swap := some x } } : LaneOp).exec s

/-! ## Byte movement -/

/-- PACK (R108). -/
def execPack (h : LaneHdr) (a b : Sel) (s : State) : Host.Outcome State Fault Refusal :=
  (binOp (.pack h a b) h 4 a b fun _ x y => plain (BitVec.ofNat 32 (half0 x + 65536 * half0 y))).exec s

/-- The byte of PRM that a nibble chooses from a pair (R109), or none for the codes 0xA to 0xF. -/
def prmByte (lo hi : Word) (n : Nat) : Option Nat :=
  if n < 4 then some (lo.toNat / 256 ^ n % 256)
  else if n < 8 then some (hi.toNat / 256 ^ (n - 4) % 256)
  else if n = 8 then some 0 else if n = 9 then some 255 else none

/-- PRM of a pair by a control word (R109). -/
def prmRes (lo hi b : Word) : Except LaneErr LaneOut :=
  match prmByte lo hi (bitsOf b.toNat 3 0), prmByte lo hi (bitsOf b.toNat 7 4), prmByte lo hi (bitsOf b.toNat 11 8),
      prmByte lo hi (bitsOf b.toNat 15 12) with
  | some w, some x, some y, some z => plain (BitVec.ofNat 32 (w + 256 * x + 65536 * y + 16777216 * z))
  | _, _, _, _ => .error (0, 0x2F)

/-- PRM (R109): a is read as a pair. -/
def execPrm (h : LaneHdr) (a b : Sel) (s : State) : Host.Outcome State Fault Refusal :=
  ({ instr := .prm h a b, g := h.g, nw := h.nw, d := h.d.val, lat := 4, srcs := [(a, 2), (b, 1)]
     result := fun e f fid pops =>
       match e.readPair f fid a 0, e.read f fid b 1 (pops.headD 0) with
       | .ok (lo, hi), .ok c => prmRes lo hi c
       | .error x, _ => .error x
       | _, .error x => .error x } : LaneOp).exec s

/-- MOVI (R68). -/
def execMovi (h : LaneHdr) (imm : BitVec 14) (s : State) : Host.Outcome State Fault Refusal :=
  ({ instr := .movi h imm, g := h.g, nw := h.nw, d := h.d.val, lat := 2, srcs := []
     result := fun _ _ _ _ => plain (imm.signExtend 32) } : LaneOp).exec s

end Sys2Proof.Machine
end

