-- ==== Sys2Proof/Machine/Dispatch.lean ====
section
/-! DEFINITION. The one match from an instruction or event to its meaning. -/

namespace Sys2Proof.Machine

/-- One instruction word or event, executed. -/
def exec (i : Instr) (s : State) : Host.Outcome State Fault Refusal :=
  match i with
  -- words: lane, uniform, control, memory and engine
  | .iadd h a b => Sys2Proof.Machine.execIadd h a b s
  | .isub h a b => Sys2Proof.Machine.execIsub h a b s
  | .imul h a b => Sys2Proof.Machine.execImul h a b s
  | .imulhs h a b => Sys2Proof.Machine.execImulhs h a b s
  | .imulhz h a b => Sys2Proof.Machine.execImulhz h a b s
  | .imad h a b => Sys2Proof.Machine.execImad h a b s
  | .imins h a b => Sys2Proof.Machine.execImins h a b s
  | .imaxs h a b => Sys2Proof.Machine.execImaxs h a b s
  | .iminz h a b => Sys2Proof.Machine.execIminz h a b s
  | .imaxz h a b => Sys2Proof.Machine.execImaxz h a b s
  | .iabs h a => Sys2Proof.Machine.execIabs h a s
  | .andL h a b => Sys2Proof.Machine.execAndL h a b s
  | .orL h a b => Sys2Proof.Machine.execOrL h a b s
  | .xorL h a b => Sys2Proof.Machine.execXorL h a b s
  | .andn h a b => Sys2Proof.Machine.execAndn h a b s
  | .shl h a b => Sys2Proof.Machine.execShl h a b s
  | .shr h a b => Sys2Proof.Machine.execShr h a b s
  | .sar h a b => Sys2Proof.Machine.execSar h a b s
  | .rol h a b => Sys2Proof.Machine.execRol h a b s
  | .bfxz h a b => Sys2Proof.Machine.execBfxz h a b s
  | .bfxs h a b => Sys2Proof.Machine.execBfxs h a b s
  | .bfi h a b => Sys2Proof.Machine.execBfi h a b s
  | .popc h a => Sys2Proof.Machine.execPopc h a s
  | .clz h a => Sys2Proof.Machine.execClz h a s
  | .brev h a => Sys2Proof.Machine.execBrev h a s
  | .sel h a b => Sys2Proof.Machine.execSel h a b s
  | .mov h a => Sys2Proof.Machine.execMov h a s
  | .iaddi h a imm => Sys2Proof.Machine.execIaddi h a imm s
  | .shli h a imm => Sys2Proof.Machine.execShli h a imm s
  | .shri h a imm => Sys2Proof.Machine.execShri h a imm s
  | .sari h a imm => Sys2Proof.Machine.execSari h a imm s
  | .fadd h a b => Sys2Proof.Machine.execFadd h a b s
  | .fsub h a b => Sys2Proof.Machine.execFsub h a b s
  | .fmul h a b => Sys2Proof.Machine.execFmul h a b s
  | .ffma h a b => Sys2Proof.Machine.execFfma h a b s
  | .fmin h a b => Sys2Proof.Machine.execFmin h a b s
  | .fmax h a b => Sys2Proof.Machine.execFmax h a b s
  | .fabs h a => Sys2Proof.Machine.execFabs h a s
  | .fneg h a => Sys2Proof.Machine.execFneg h a s
  | .frcp h a => Sys2Proof.Machine.execFrcp h a s
  | .frsq h a => Sys2Proof.Machine.execFrsq h a s
  | .fsqrt h a => Sys2Proof.Machine.execFsqrt h a s
  | .fdiv h a b => Sys2Proof.Machine.execFdiv h a b s
  | .fex2 h a => Sys2Proof.Machine.execFex2 h a s
  | .flg2 h a => Sys2Proof.Machine.execFlg2 h a s
  | .fsin h a => Sys2Proof.Machine.execFsin h a s
  | .fcos h a => Sys2Proof.Machine.execFcos h a s
  | .frnd h a => Sys2Proof.Machine.execFrnd h a s
  | .fcpys h a b => Sys2Proof.Machine.execFcpys h a b s
  | .hadd2 h a b => Sys2Proof.Machine.execHadd2 h a b s
  | .hmul2 h a b => Sys2Proof.Machine.execHmul2 h a b s
  | .hfma2 h a b => Sys2Proof.Machine.execHfma2 h a b s
  | .hmin2 h a b => Sys2Proof.Machine.execHmin2 h a b s
  | .hmax2 h a b => Sys2Proof.Machine.execHmax2 h a b s
  | .badd2 h a b => Sys2Proof.Machine.execBadd2 h a b s
  | .bmul2 h a b => Sys2Proof.Machine.execBmul2 h a b s
  | .bfma2 h a b => Sys2Proof.Machine.execBfma2 h a b s
  | .bmin2 h a b => Sys2Proof.Machine.execBmin2 h a b s
  | .bmax2 h a b => Sys2Proof.Machine.execBmax2 h a b s
  | .cvt h a code => Sys2Proof.Machine.execCvt h a code s
  | .cvtFswap h a => Sys2Proof.Machine.execCvtFswap h a s
  | .pack h a b => Sys2Proof.Machine.execPack h a b s
  | .prm h a b => Sys2Proof.Machine.execPrm h a b s
  | .movi h imm => Sys2Proof.Machine.execMovi h imm s
  | .icmps h a b => Sys2Proof.Machine.execIcmps h a b s
  | .icmpz h a b => Sys2Proof.Machine.execIcmpz h a b s
  | .fcmp h a b => Sys2Proof.Machine.execFcmp h a b s
  | .itst h a b => Sys2Proof.Machine.execItst h a b s
  | .pdup g => Sys2Proof.Machine.execPdup g s
  | .pdrop g => Sys2Proof.Machine.execPdrop g s
  | .pnot g => Sys2Proof.Machine.execPnot g s
  | .pand g => Sys2Proof.Machine.execPand g s
  | .por g => Sys2Proof.Machine.execPor g s
  | .pxor g => Sys2Proof.Machine.execPxor g s
  | .pswap g => Sys2Proof.Machine.execPswap g s
  | .pset0 g => Sys2Proof.Machine.execPset0 g s
  | .pset1 g => Sys2Proof.Machine.execPset1 g s
  | .xchgIdx g d a => Sys2Proof.Machine.execXchgIdx g d a s
  | .xchgUp g d a k => Sys2Proof.Machine.execXchgUp g d a k s
  | .xchgDown g d a k => Sys2Proof.Machine.execXchgDown g d a k s
  | .xchgBfly g d a k => Sys2Proof.Machine.execXchgBfly g d a k s
  | .voteAll g d depth => Sys2Proof.Machine.execVoteAll g d depth s
  | .voteAny g d depth => Sys2Proof.Machine.execVoteAny g d depth s
  | .voteEq g d a => Sys2Proof.Machine.execVoteEq g d a s
  | .voteBal g d depth => Sys2Proof.Machine.execVoteBal g d depth s
  | .rfl h a => Sys2Proof.Machine.execRfl h a s
  | .xdef g x base b => Sys2Proof.Machine.execXdef g x base b s
  | .xset g x a => Sys2Proof.Machine.execXset g x a s
  | .xadd g x a => Sys2Proof.Machine.execXadd g x a s
  | .sread h reg => Sys2Proof.Machine.execSread h reg s
  | .uadd d a b => Sys2Proof.Machine.execUadd d a b s
  | .usub d a b => Sys2Proof.Machine.execUsub d a b s
  | .umul d a b => Sys2Proof.Machine.execUmul d a b s
  | .umad d a b => Sys2Proof.Machine.execUmad d a b s
  | .uand d a b => Sys2Proof.Machine.execUand d a b s
  | .uor d a b => Sys2Proof.Machine.execUor d a b s
  | .uxor d a b => Sys2Proof.Machine.execUxor d a b s
  | .ushl d a b => Sys2Proof.Machine.execUshl d a b s
  | .ushr d a b => Sys2Proof.Machine.execUshr d a b s
  | .usar d a b => Sys2Proof.Machine.execUsar d a b s
  | .umov d a => Sys2Proof.Machine.execUmov d a s
  | .uaddi d a imm => Sys2Proof.Machine.execUaddi d a imm s
  | .ucmps cc pm a b => Sys2Proof.Machine.execUcmps cc pm a b s
  | .ucmpz cc pm a b => Sys2Proof.Machine.execUcmpz cc pm a b s
  | .usel d a b => Sys2Proof.Machine.execUsel d a b s
  | .uld d a b => Sys2Proof.Machine.execUld d a b s
  | .bra g disp => Sys2Proof.Machine.execBra g disp s
  | .brx g a => Sys2Proof.Machine.execBrx g a s
  | .call g disp => Sys2Proof.Machine.execCall g disp s
  | .callx g a => Sys2Proof.Machine.execCallx g a s
  | .ret g => Sys2Proof.Machine.execRet g s
  | .exit g => Sys2Proof.Machine.execExit g s
  | .split g j => Sys2Proof.Machine.execSplit g j s
  | .join g j => Sys2Proof.Machine.execJoin g j s
  | .wait g k t => Sys2Proof.Machine.execWait g k t s
  | .waitmem g d ab wide => Sys2Proof.Machine.execWaitmem g d ab wide s
  | .bari g n a => Sys2Proof.Machine.execBari g n a s
  | .bara g n => Sys2Proof.Machine.execBara g n s
  | .barw g n => Sys2Proof.Machine.execBarw g n s
  | .barrd g n d => Sys2Proof.Machine.execBarrd g n d s
  | .qput g q a => Sys2Proof.Machine.execQput g q a s
  | .tkrd h k => Sys2Proof.Machine.execTkrd h k s
  | .nop => Sys2Proof.Machine.execNop s
  | .ldg h sz => Sys2Proof.Machine.execLdg h sz s
  | .stg h sz => Sys2Proof.Machine.execStg h sz s
  | .ldx h sz => Sys2Proof.Machine.execLdx h sz s
  | .stx h sz => Sys2Proof.Machine.execStx h sz s
  | .ldf h sz => Sys2Proof.Machine.execLdf h sz s
  | .stf h sz => Sys2Proof.Machine.execStf h sz s
  | .ldc h sz => Sys2Proof.Machine.execLdc h sz s
  | .atom h af => Sys2Proof.Machine.execAtom h af s
  | .atomn h af => Sys2Proof.Machine.execAtomn h af s
  | .fence g o sc => Sys2Proof.Machine.execFence g o sc s
  | .ifence g sc => Sys2Proof.Machine.execIfence g sc s
  | .allowInit h => Sys2Proof.Machine.execAllowInit h s
  | .allowTake h => Sys2Proof.Machine.execAllowTake h s
  | .allowGive h => Sys2Proof.Machine.execAllowGive h s
  | .allowExact h => Sys2Proof.Machine.execAllowExact h s
  | .allowProbe h => Sys2Proof.Machine.execAllowProbe h s
  | .cachePref h => Sys2Proof.Machine.execCachePref h s
  | .cacheClean h => Sys2Proof.Machine.execCacheClean h s
  | .cacheDiscard h => Sys2Proof.Machine.execCacheDiscard h s
  | .cacheIcinv h => Sys2Proof.Machine.execCacheIcinv h s
  | .xload h => Sys2Proof.Machine.execXload h s
  | .xstore h => Sys2Proof.Machine.execXstore h s
  | .xmove h => Sys2Proof.Machine.execXmove h s
  | .xgather h => Sys2Proof.Machine.execXgather h s
  | .xfill h => Sys2Proof.Machine.execXfill h s
  | .xpub k c => Sys2Proof.Machine.execXpub k c s
  | .mclaim k => Sys2Proof.Machine.execMclaim k s
  | .mrel k => Sys2Proof.Machine.execMrel k s
  | .mldw h => Sys2Proof.Machine.execMldw h s
  | .mswap k => Sys2Proof.Machine.execMswap k s
  | .mstream h => Sys2Proof.Machine.execMstream h s
  | .mzero h => Sys2Proof.Machine.execMzero h s
  | .mstore h => Sys2Proof.Machine.execMstore h s
  | .mstat k c => Sys2Proof.Machine.execMstat k c s
  | .bxsend h => Sys2Proof.Machine.execBxsend h s
  | .bxrecv h => Sys2Proof.Machine.execBxrecv h s
  | .bxcancel h => Sys2Proof.Machine.execBxcancel h s
  | .bxstat h => Sys2Proof.Machine.execBxstat h s
  | .hinst h => Sys2Proof.Machine.execHinst h s
  | .hpop g => Sys2Proof.Machine.execHpop g s
  | .perform h => Sys2Proof.Machine.execPerform h s
  | .resume h => Sys2Proof.Machine.execResume h s
  | .drop g k a => Sys2Proof.Machine.execDrop g k a s
  | .kstat h => Sys2Proof.Machine.execKstat h s
  | .kpack h => Sys2Proof.Machine.execKpack h s
  | .kunpack h => Sys2Proof.Machine.execKunpack h s
  | .spawn h => Sys2Proof.Machine.execSpawn h s
  | .segw a c => Sys2Proof.Machine.execSegw a c s
  | .segr a c => Sys2Proof.Machine.execSegr a c s
  | .csrr a c => Sys2Proof.Machine.execCsrr a c s
  | .csrw a c => Sys2Proof.Machine.execCsrw a c s
  | .eret c => Sys2Proof.Machine.execEret c s
  | .trap a => Sys2Proof.Machine.execTrap a s
  | .intr a => Sys2Proof.Machine.execIntr a s
  | .halt => Sys2Proof.Machine.execHalt s
  | .hintImm imm => Sys2Proof.Machine.execHintImm imm s
  | .hintImmx imm => Sys2Proof.Machine.execHintImmx imm s
  | .hintMod hi emod strict cp scope ord sat rm => Sys2Proof.Machine.execHintMod hi emod strict cp scope ord sat rm s
  | .hintSched long pv phase => Sys2Proof.Machine.execHintSched long pv phase s
  | .hintDly n => Sys2Proof.Machine.execHintDly n s
  -- events of engines, homes, hosts, links and firmware
  | .completion op => Sys2Proof.Machine.execCompletion op s
  | .transientFault op => Sys2Proof.Machine.execTransientFault op s
  | .uncorrectableError site => Sys2Proof.Machine.execUncorrectableError site s
  | .mergeAtHome agent line => Sys2Proof.Machine.execMergeAtHome agent line s
  | .atomicAtHome op => Sys2Proof.Machine.execAtomicAtHome op s
  | .drainRequest agent => Sys2Proof.Machine.execDrainRequest agent s
  | .cleanByteExpiry agent => Sys2Proof.Machine.execCleanByteExpiry agent s
  | .leaseExpiry => Sys2Proof.Machine.execLeaseExpiry s
  | .walkDone op => Sys2Proof.Machine.execWalkDone op s
  | .pageRequestResponse req reply => Sys2Proof.Machine.execPageRequestResponse req reply s
  | .pageRequestTimeout req => Sys2Proof.Machine.execPageRequestTimeout req s
  | .xlFlush w pasid => Sys2Proof.Machine.execXlFlush w pasid s
  | .flushDone => Sys2Proof.Machine.execFlushDone s
  | .powerGate u => Sys2Proof.Machine.execPowerGate u s
  | .unitWake u => Sys2Proof.Machine.execUnitWake u s
  | .allowHomeRequest op => Sys2Proof.Machine.execAllowHomeRequest op s
  | .slotReturn core addr => Sys2Proof.Machine.execSlotReturn core addr s
  | .joinNotice op => Sys2Proof.Machine.execJoinNotice op s
  | .hostSnoop line => Sys2Proof.Machine.execHostSnoop line s
  | .ownershipResponse line granted => Sys2Proof.Machine.execOwnershipResponse line granted s
  | .backInvalidateDone line => Sys2Proof.Machine.execBackInvalidateDone line s
  | .hostWrite head addr act order => Sys2Proof.Machine.execHostWrite head addr act order s
  | .schedulingRound die => Sys2Proof.Machine.execSchedulingRound die s
  | .copyStart crew => Sys2Proof.Machine.execCopyStart crew s
  | .claimGrant cluster => Sys2Proof.Machine.execClaimGrant cluster s
  | .matrixOpStart cluster u => Sys2Proof.Machine.execMatrixOpStart cluster u s
  | .bulkRequest id len pri port bytes => Sys2Proof.Machine.execBulkRequest id len pri port bytes s
  | .requestRetry send => Sys2Proof.Machine.execRequestRetry send s
  | .grantIssue port => Sys2Proof.Machine.execGrantIssue port s
  | .grantArrival send r => Sys2Proof.Machine.execGrantArrival send r s
  | .bulkData id off epoch bytes => Sys2Proof.Machine.execBulkData id off epoch bytes s
  | .grantExpiry msg grant => Sys2Proof.Machine.execGrantExpiry msg grant s
  | .pause id => Sys2Proof.Machine.execPause id s
  | .bulkResume id off => Sys2Proof.Machine.execBulkResume id off s
  | .doneNotice send => Sys2Proof.Machine.execDoneNotice send s
  | .truncatedNotice send => Sys2Proof.Machine.execTruncatedNotice send s
  | .orphanedNotice send => Sys2Proof.Machine.execOrphanedNotice send s
  | .cancelledNotice id toSender => Sys2Proof.Machine.execCancelledNotice id toSender s
  | .peerFaultNotice id toSender => Sys2Proof.Machine.execPeerFaultNotice id toSender s
  | .sourcePathLoss msg => Sys2Proof.Machine.execSourcePathLoss msg s
  | .sendUnreachable send => Sys2Proof.Machine.execSendUnreachable send s
  | .linkFrame port seq ack body => Sys2Proof.Machine.execLinkFrame port seq ack body s
  | .ackTimeout port => Sys2Proof.Machine.execAckTimeout port s
  | .linkUpRetry port => Sys2Proof.Machine.execLinkUpRetry port s
  | .linkUp port maj min lowMaj rtt => Sys2Proof.Machine.execLinkUp port maj min lowMaj rtt s
  | .notify head q wptr => Sys2Proof.Machine.execNotify head q wptr s
  | .slotRead q => Sys2Proof.Machine.execSlotRead q s
  | .packetStart q idx => Sys2Proof.Machine.execPacketStart q idx s
  | .nopPacket q idx => Sys2Proof.Machine.execNopPacket q idx s
  | .launch q idx => Sys2Proof.Machine.execLaunch q idx s
  | .graph q idx => Sys2Proof.Machine.execGraph q idx s
  | .barrierPacket q idx => Sys2Proof.Machine.execBarrierPacket q idx s
  | .signalPacket q idx => Sys2Proof.Machine.execSignalPacket q idx s
  | .packetComplete q idx => Sys2Proof.Machine.execPacketComplete q idx s
  | .tickProposal gang m => Sys2Proof.Machine.execTickProposal gang m s
  | .startTick gang => Sys2Proof.Machine.execStartTick gang s
  | .chipsetTimeout gang => Sys2Proof.Machine.execChipsetTimeout gang s
  | .crewPlacement gang pipe die x0 y0 => Sys2Proof.Machine.execCrewPlacement gang pipe die x0 y0 s
  | .kernelNode graph node => Sys2Proof.Machine.execKernelNode graph node s
  | .condNode graph node => Sys2Proof.Machine.execCondNode graph node s
  | .signalNode graph node => Sys2Proof.Machine.execSignalNode graph node s
  | .xferNode graph node => Sys2Proof.Machine.execXferNode graph node s
  | .noteNode graph node => Sys2Proof.Machine.execNoteNode graph node s
  | .nodeComplete graph node => Sys2Proof.Machine.execNodeComplete graph node s
  | .preemptDecision crew => Sys2Proof.Machine.execPreemptDecision crew s
  | .drainTimeout crew => Sys2Proof.Machine.execDrainTimeout crew s
  | .saveComplete crew => Sys2Proof.Machine.execSaveComplete crew s
  | .restore crew die x0 y0 => Sys2Proof.Machine.execRestore crew die x0 y0 s
  | .occRead core phase k => Sys2Proof.Machine.execOccRead core phase k s
  | .vectorTimer v => Sys2Proof.Machine.execVectorTimer v s
  | .vectorUnmask v => Sys2Proof.Machine.execVectorUnmask v s
  | .heartbeat head => Sys2Proof.Machine.execHeartbeat head s
  | .heartbeatTimeout head => Sys2Proof.Machine.execHeartbeatTimeout head s
  | .headLinkDown head => Sys2Proof.Machine.execHeadLinkDown head s
  | .ceAdopt head epoch => Sys2Proof.Machine.execCeAdopt head epoch s
  | .version head => Sys2Proof.Machine.execVersion head s
  | .queueCreate head => Sys2Proof.Machine.execQueueCreate head s
  | .queueDisable head => Sys2Proof.Machine.execQueueDisable head s
  | .pasidRegister head => Sys2Proof.Machine.execPasidRegister head s
  | .codeLoad head => Sys2Proof.Machine.execCodeLoad head s
  | .imageStage head signed => Sys2Proof.Machine.execImageStage head signed s
  | .evring head => Sys2Proof.Machine.execEvring head s
  | .tdiDefine head => Sys2Proof.Machine.execTdiDefine head s
  | .dbgHalt head => Sys2Proof.Machine.execDbgHalt head s
  | .dbgRead head => Sys2Proof.Machine.execDbgRead head s
  | .dbgResume head => Sys2Proof.Machine.execDbgResume head s
  | .registerWrite head off act => Sys2Proof.Machine.execRegisterWrite head off act s
  | .reportAnswerTimeout n => Sys2Proof.Machine.execReportAnswerTimeout n s
  | .spdmRequest head k => Sys2Proof.Machine.execSpdmRequest head k s
  | .tdiStop head tdi => Sys2Proof.Machine.execTdiStop head tdi s
  | .sessionExpiry head session => Sys2Proof.Machine.execSessionExpiry head session s
  | .ideIntegrityFailure head stream => Sys2Proof.Machine.execIdeIntegrityFailure head stream s
  | .reset => Sys2Proof.Machine.execReset s
  | .bringupStageDone e => Sys2Proof.Machine.execBringupStageDone e s
  | .powerLimit millivolts => Sys2Proof.Machine.execPowerLimit millivolts s
  | .thermalThrottle => Sys2Proof.Machine.execThermalThrottle s
  | .thermalTrip => Sys2Proof.Machine.execThermalTrip s
  | .patrolScrub stack => Sys2Proof.Machine.execPatrolScrub stack s
  | .serviceCoreFailure core => Sys2Proof.Machine.execServiceCoreFailure core s
  | .cycle ticks => Sys2Proof.Machine.execCycle ticks s
  | .tdispRequest head tdi k => Sys2Proof.Machine.execTdispRequest head tdi k s
  | .hostUnreachableTimeout => Sys2Proof.Machine.execHostUnreachableTimeout s
  | .gangTermination gang chip ended => Sys2Proof.Machine.execGangTermination gang chip ended s

end Sys2Proof.Machine
end

