-- ==== Sys2Proof/Machine/Issue.lean ====
section
/-! DEFINITION. The issue of words (R29 to R33, R73 to R77, R81, R84, R87, R165, R173, R184, R197, R200, R206, R211, R260, R397,
R409): which group may issue on a core, the fetch and the checks of its word, and the words that have waited. -/

namespace Sys2Proof.Machine

/-! ## Fields of a word -/

/-- The major opcode (R66). -/
def opOf (w : Nat) : Nat := w / 33554432

/-- FN of format E (R67). -/
def fnOf (w : Nat) : Nat := w / 8192 % 16

/-- A HINT word. -/
def isHintWord (w : Nat) : Bool := opOf w == 0x7E

/-- The weight of a word in its own stream (R81). -/
def weightOf (w : Nat) : Nat := if w / 4194304 = 1012 ∧ w / 32 % 131072 = 0 then w % 32 + 1 else 1

/-- Memory words (R78). -/
def isMemOp (op : Nat) : Bool := decide (0x6A ≤ op) && decide (op ≤ 0x75)

/-- INTR. -/
def isIntr (w : Nat) : Bool := opOf w == 0x7C && fnOf w == 6

/-- BARA and BARW. -/
def isArrival (w : Nat) : Bool := opOf w == 0x66 && (fnOf w == 1 || fnOf w == 2)

/-- The words that a release FENCE holds (R173): QPUT, BARA, BARW, INTR, and copy, matrix and bulk words. -/
def afterFence (w : Nat) : Bool := opOf w == 0x67 || isArrival w || isIntr w || (decide (0x76 ≤ opOf w) && decide (opOf w ≤ 0x79))

/-- Words held behind FENCE.REL (R200): stores, atomics, ALLOW, CACHE and those of R173. -/
def afterRelease (w : Nat) : Bool :=
  afterFence w || [0x6B, 0x6D, 0x6F, 0x71, 0x72, 0x74, 0x75].contains (opOf w)

/-- Words held behind an acquire (R200): memory and engine words, QPUT, BAR and INTR. -/
def afterAcquire (w : Nat) : Bool :=
  isMemOp (opOf w) || opOf w == 0x65 || (decide (0x76 ≤ opOf w) && decide (opOf w ≤ 0x7B)) || opOf w == 0x67 || opOf w == 0x66 ||
    isIntr w

/-- Words that wait for every earlier access of the fibre (R142, R206, R397): WAITMEM, BARA, BARW and SYS. -/
def afterAll (w : Nat) : Bool := opOf w == 0x65 || isArrival w || opOf w == 0x7C

/-- Ordering words (R197). -/
def isOrdering (w : Nat) (m : Mod) : Bool :=
  let op := opOf w
  ([0x65, 0x6A, 0x6B, 0x6C, 0x6D, 0x71, 0x72].contains op && m.ord != 0) || op == 0x73 ||
    (op == 0x66 && decide (1 ≤ fnOf w) && decide (fnOf w ≤ 3))

/-! ## Hints (R73, R74, R76) -/

/-- The attached immediate (R73). -/
def Hints.immediate (h : Hints) : Option Word :=
  h.imm.map fun lo => match h.immx with
    | some hi => hi ++ lo
    | none => lo.signExtend 32

/-- The MOD payload. -/
def Hints.payload (h : Hints) : Nat := (h.mod.map BitVec.toNat).getD 0

/-- The EMOD value is one that the word does not accept (R243, R264). -/
def badEmod (w : Nat) (m : Mod) : Bool :=
  let fn := fnOf w
  if opOf w = 0x76 then
    (m.pub && fn == 1) || m.rnd == 3 || (m.rnd == 1 && (fn == 2 || fn == 4)) || (m.rnd == 2 && fn != 1) || (m.rsd && m.rnd != 2)
  else if opOf w = 0x77 then m.emod != 0
  else m.rsd || decide (2 ≤ m.rnd) || (m.rnd == 1 && fn != 6) || (m.pub && !(fn == 4 || fn == 5 || fn == 6))

/-- Words that accept SAT (R74). -/
def takesSat (op : Nat) : Bool := [0x01, 0x02, 0x03, 0x06, 0x0B, 0x1C, 0x4C, 0x4D, 0x4E, 0x4F, 0x57].contains op

/-- Words that accept ORD and SCOPE. -/
def takesOrd (op : Nat) : Bool := [0x65, 0x6A, 0x6B, 0x6C, 0x6D, 0x71, 0x72].contains op

/-- Words that accept CP; CACHE only as PREF. -/
def takesCp (w : Nat) : Bool := [0x6A, 0x6B, 0x6C, 0x6D].contains (opOf w) || (opOf w == 0x75 && w / 2 % 8 == 0)

/-- A MOD field that the word does not accept (cause 0x15), or a forbidden value (0x16) (R74). -/
def modCause (w payload : Nat) : Option Cause :=
  let op := opOf w
  let m := modOf payload
  let emods := decide (0x76 ≤ op) && decide (op ≤ 0x78)
  let rms := (decide (0x20 ≤ op) && decide (op ≤ 0x3B)) || op == 0x3C
  if 2 ^ 16 ≤ payload ∨ (m.emod ≠ 0 ∧ emods = false) ∨ (m.cp ≠ 0 ∧ takesCp w = false) ∨
      ((m.ord ≠ 0 ∨ m.scope ≠ 0) ∧ takesOrd op = false) ∨ (m.sat = true ∧ takesSat op = false) ∨ (m.rm ≠ 0 ∧ rms = false) then
    some 0x15
  else if (emods && badEmod w m) || (m.cp == 2 && !(op == 0x6B || op == 0x6D)) || decide (5 ≤ m.scope) || decide (4 ≤ m.ord) ||
      (m.scope != 0 && m.ord == 0) then some 0x16
  else none

/-- A pair operand that R72 excludes. -/
def badPair (a : Sel) : Bool :=
  match a with
  | .latch _ | .vx _ | .q _ | .flt _ => true
  | .g n => n.val == 31
  | .v _ | .int _ | .imm => false

/-- The checks of a decoded word that need its hints (R76, R87): 0x10, 0x1F, and of check 7 first 0x13, then 0x15, then 0x16 (DESIGN
CHOICE, log entry 136). -/
def hintCause (i : Instr) (w : Nat) (h : Hints) : Option Cause :=
  let imms := (allSels i).any fun a => a == .imm
  if imms && h.imm.isNone then some 0x10
  else if (pairSels i).any badPair then some 0x1F
  else if (h.imm.isSome && !imms && !hasOffset i) || (h.immx.isSome && h.imm.isNone) then some 0x13
  else modCause w h.payload

/-! ## Words held at issue (R165, R173, R200, R206, R260, R397) -/

/-- An access whose acquire the fibre's later words wait for. -/
def MemReq.acquires (r : MemReq) : Bool :=
  match r.fn with
  | .fence o => o == .acq || o == .ar
  | .ifence => true
  | .load _ | .store _ | .atom _ _ | .allow _ | .cache _ => r.order == .acq || r.order == .ar

/-- A release or acquire-release FENCE. -/
def MemReq.fenceRel (r : MemReq) : Bool := r.fn == .fence .rel || r.fn == .fence .ar

/-- The requests of a fibre in flight. -/
def State.requests (s : State) (crew fid : Nat) : List MemReq :=
  s.ops.filterMap fun o => match o.2.kind with
    | .mem r c f => if c = crew ∧ f = fid then some r else none
    | .copy _ | .matrix _ _ | .frame _ _ | .send | .recv | .query _ => none

/-- The fibre's requests in flight hold a word. -/
def State.fibreHolds (s : State) (crew fid w : Nat) : Bool :=
  let l := s.requests crew fid
  (l.any fun r => r.fn == .ifence) || (afterAll w && !l.isEmpty) || (afterAcquire w && l.any MemReq.acquires) ||
    (afterRelease w && l.any MemReq.fenceRel)

/-- Memory requests in flight on cores that pass a test. -/
def State.requestsOf (s : State) (p : Nat → Bool) : Nat := (s.ops.filter fun o => o.2.isMem && p o.2.core).length

/-- n more requests of a core would exceed a limit (R165). -/
def State.noRoom (s : State) (core n : Nat) : Bool :=
  decide (Config.coreRequests < (s.requestsOf fun c => c == core) + n) ||
    decide (Config.dieRequests < (s.requestsOf fun c => dieOf c == dieOf core) + n)

/-- The crew's matrix queue is full for a word (R260). -/
def Crew.matrixFull (c : Crew) (w : Nat) : Bool :=
  opOf w == 0x78 && fnOf w != 7 && c.claims.any fun k => !k.mrel && decide (8 ≤ k.queue.length)

/-- The fibres that a word's guard selects, before its issue. -/
def State.wouldSelect (s : State) (c : Crew) (fids : List Nat) (w : Nat) : List Nat :=
  match guardOf (w / 2097152 % 16) with
  | some g => fids.filter fun f => guardHolds g ((c.fibre f).seeP (Config.freeIndex s.free f 64))
  | none => fids

/-- A word that may not issue yet on the fibres of a group. -/
def State.wordHeld (s : State) (core crew : Nat) (c : Crew) (fids : List Nat) (w : Nat) : Bool :=
  (fids.any fun f => s.fibreHolds crew f w) || c.matrixFull w ||
    (isMemOp (opOf w) && s.noRoom core (s.wouldSelect c fids w).length) || (opOf w == 0x7C && fnOf w == 0 && s.crewBusy crew)

/-! ## The picker (R30, R33) -/

/-- A group that might issue: one formed, or the one that an entry's loose fibres would form, with its age. -/
structure Cand where
  crew : Nat
  gid : Option Nat
  fids : List Nat
  pc : Nat
  age : Nat
deriving DecidableEq, Repr

/-- The loose fibres at an address, with the cycles in which they entered. -/
def Crew.looseAt (c : Crew) (pc : Nat) : List (Nat × Nat) :=
  c.fibres.filterMap fun f => match f.2.st with
    | .loose t => if f.2.pc = pc then some (f.1, t) else none
    | .formed _ | .overflow | .parked _ => none

/-- The earlier of two loose fibres. -/
def firstIn (a : Option (Nat × Nat)) (b : Nat × Nat) : Option (Nat × Nat) :=
  match a with
  | none => some b
  | some x => if b.2 < x.2 ∨ (b.2 = x.2 ∧ b.1 < x.1) then some b else some x

/-- For each lane the loose fibre that entered earliest (R30). -/
def takeLoose (l : List (Nat × Nat)) : List (Nat × Nat) :=
  (List.range 64).filterMap fun lane => (l.filter fun x => laneOf x.1 == lane).foldl firstIn none

/-- The addresses at which a crew has loose fibres. -/
def Crew.loosePcs (c : Crew) : List Nat :=
  (c.fibres.filterMap fun f => match f.2.st with
    | .loose _ => some f.2.pc
    | .formed _ | .overflow | .parked _ => none).eraseDups

/-- The least of some numbers. -/
def leastOf : List Nat → Nat
  | [] => 0
  | x :: l => l.foldl min x

/-- The groups of a crew that might issue. A crew that is to be saved issues only what its pending hints wait for (R77). -/
def Crew.cands (crew : Nat) (c : Crew) : List Cand :=
  let formed := c.groups.map fun g => (g.2, (⟨crew, some g.1, g.2.fids, g.2.pc, g.2.fcycle⟩ : Cand))
  if c.life = .saving ∨ c.life = .halting then (formed.filter fun x => x.1.hints.pending).map Prod.snd
  else if c.life = .running ∨ c.life = .draining then
    formed.map Prod.snd ++ c.loosePcs.map fun pc =>
      let l := takeLoose (c.looseAt pc)
      ⟨crew, none, l.map Prod.fst, pc, leastOf (l.map Prod.snd)⟩
  else []

/-- The word at an address as a core would fetch it now. -/
def State.peek (s : State) (core pasid pc : Nat) : Option Nat :=
  match (s.fetchWord core pasid pc).2 with
  | .ok w => some w.toNat
  | .error _ => none

/-- A fibre fetches no word while an IFENCE of its own is in flight (R172). -/
def State.fetchHeld (s : State) (crew fid : Nat) : Bool := (s.requests crew fid).any fun r => r.fn == .ifence

/-- A group is ready (R33): its distances allow its next word, it did not issue in the cycle before, its word may be fetched, and nothing
holds the word. A word that cannot be fetched is held only by an IFENCE. -/
def State.ready (s : State) (core : Nat) (c : Crew) (x : Cand) : Bool :=
  let now := (s.core core).cycle
  let w := s.peek core c.pasid x.pc
  let n := (w.map weightOf).getD 1
  (x.fids.all fun f => (c.fibre f).pos == 0 || decide ((c.fibre f).last + n ≤ now)) &&
    (match x.gid.bind fun g => kget c.groups g with
      | some g => g.pos == 0 || g.last + 1 != now
      | none => true) &&
    !(x.fids.any fun f => s.fetchHeld x.crew f) &&
    (match w with
      | some w => !s.wordHeld core x.crew c x.fids w
      | none => true)

/-- The older of two groups; of two of one age the one with the lower fibre (R33). -/
def elder (a : Option Cand) (b : Cand) : Option Cand :=
  match a with
  | none => some b
  | some x => if b.age < x.age ∨ (b.age = x.age ∧ leastOf b.fids < leastOf x.fids) then some b else some x

/-- The crews of a core in the order in which the picker serves them (R33). -/
def State.pickOrder (s : State) (core : Nat) : List (Nat × Crew) :=
  let mine := s.crews.filter fun c => c.2.on core
  match (s.core core).lastCrew with
  | some l => (mine.filter fun c => decide (l < c.1)) ++ mine.filter fun c => decide (c.1 ≤ l)
  | none => mine

/-- The group that a core's picker chooses in this cycle, if it has not issued in it (R33). -/
def State.pick (s : State) (core : Nat) : Option Cand :=
  if (s.core core).issued || (s.core core).blocked then none
  else (s.pickOrder core).findSome? fun c => ((c.2.cands c.1).filter fun x => s.ready core c.2 x).foldl elder none

/-- The cores on which crews stand, in rising order. -/
def State.busyCores (s : State) : List Nat := sortUp ((s.crews.filterMap fun c => c.2.home).eraseDups)

/-- The first core with a group to issue, and the group. -/
def State.pickAny (s : State) : Option (Nat × Cand) := s.busyCores.findSome? fun core => (s.pick core).map fun x => (core, x)

/-! ## Issue -/

/-- The context of a group's word. -/
def State.issueOf (s : State) (core crew gid pc w : Nat) (h : Hints) : Issue :=
  let c := s.crew crew
  { crew := crew, gid := some gid, grp := kgetD c.groups gid ⟨[], pc, pc, 0, 0, 0, [], {}⟩, core := core, pc := pc, word := w
    imm := h.immediate, mod := modOf h.payload, modw := h.payload, strict := c.strict || bitOf h.payload 11 }

/-- A group and its fibres one word further in their streams (R81). -/
def State.advance (s : State) (core crew gid n : Nat) : State :=
  let now := (s.core core).cycle
  let fids := ((kget (s.crew crew).groups gid).map Group.fids).getD []
  s.modCrew crew fun c => { c with
    groups := kmod c.groups gid fun g => { g with pos := g.pos + n, last := now }
    fibres := kmap c.fibres fun f x => if fids.contains f then { x with pos := x.pos + n, last := now } else x }

/-- A fetch fault goes to every fibre of the group (R184). -/
def State.fetchFault (s : State) (crew gid : Nat) (g : Group) (c : Cause) : State :=
  let from_ := if g.hints.pending then g.hints.first else g.pc
  (s.deliverAll crew (g.fids.map fun f => (f, fetchEff c g.pc g.pc from_))).dissolve crew gid

/-- Fibres whose registers hold an uncorrectable error perform POISON at their next word; the others issue it again, with its
hints (R409). -/
def State.poisonWord (s : State) (crew gid : Nat) (g : Group) (bad : List Nat) : State :=
  let from_ := if g.hints.pending then g.hints.first else g.pc
  let t := (s.setPcs crew g.fids from_).modCrew crew fun c =>
    { c with fibres := kmap c.fibres fun f x => if bad.contains f then { x with poisoned := false } else x }
  (t.deliverAll crew (bad.map fun f => (f, laneEff (12, 0xB2) g.pc))).dissolve crew gid

/-- What a crew's next race event is (R211): its oldest race-log entry, or none where only the lost flag is left, with its cause, the number
that remain, and the crew without it. -/
def Crew.nextRace (c : Crew) : Option (Option RaceEntry × Cause × Nat × Crew) :=
  match c.raceLog with
  | e :: l => some (some e, e.cause, l.length, { c with raceLog := l })
  | [] => if c.raceLost then some (none, 0x59, 0, { c with raceLost := false }) else none

/-- A race event at an ordering word (R211): the fibre of the lowest selected lane performs RACE, and the others execute the word; with
no hinge for it the event goes to the race report, and the word executes on all. -/
def State.raceAt (s : State) (i : Issue) (g : Guard) : State × Issue :=
  match ((envOf i s).lanes g).sel, (s.crew i.crew).nextRace with
  | fid :: _, some (entry, c, left, crew) =>
    if ((s.crew i.crew).fibre fid).raced then (s, i)
    else
      let t := { s with crews := kset s.crews i.crew crew }
      let e : Eff := { label := 5, cause := c, payload := BitVec.ofNat 32 left, rpc := i.pc }
      match t.hingeFor i.crew fid 5 with
      | (u, .ok none) =>
        let q := ((kget u.gangs crew.gang).map Gang.queue).getD 0
        let r : Report := ⟨u.tick, crew.gang, q, c, 12, fid, left, u.queueHead q⟩
        ({ u with raceReport := u.raceReport ++ [({ report := r, entry := entry } : RaceNote)] }, i)
      | (_, .ok (some _)) | (_, .error _) =>
        (t.deliver i.crew fid e, { i with gid := none, grp := { i.grp with fids := i.grp.fids.filter fun f => f != fid } })
  | _, _ => (s, i)

/-- The instruction that executes next, with its context; none when a check has ended the group. -/
abbrev Issued := State × Option Instr

/-- A word with the context set. -/
def State.withCur (s : State) (i : Issue) (instr : Instr) : Issued := ({ s with cur := some i }, some instr)

/-- A non-HINT word with the hint set that it takes (R75, R76, R87). -/
def State.consume (s : State) (core crew gid w : Nat) (g : Group) : Issued :=
  let h := g.hints
  let t := s.modCrew crew fun c =>
    { c with groups := kmod c.groups gid fun x => { x with hints := {} }
             phase := match h.sched with
               | some (_, true, p) => p
               | some (_, false, _) | none => c.phase }
  let t1 := t.modCore core fun k => { k with lastPhase := (t.crew crew).phase.toNat }
  let i := t1.issueOf core crew gid g.pc w h
  if opOf w = 0x7F ∧ h.pending = true then (t1.groupEffect { i with pc := h.first } (0, 0x14), none)
  else match decodeWord w with
    | .fault c => (t1.groupEffect i (0, c), none)
    | .ok instr =>
      match hintCause instr w h with
      | some c => (t1.groupEffect i (0, c), none)
      | none =>
        let (t2, i2) := if isOrdering w i.mod then t1.raceAt i (guardIn instr) else (t1, i)
        let t3 := t2.modCrew crew fun c =>
          { c with fibres := kmap c.fibres fun f x => if g.fids.contains f then { x with raced := false } else x }
        if (t3.crew crew).alive then t3.withCur i2 instr else (t3, none)

/-- A fetched word of a formed group (R76, R81). Of check 7 of R87, a HINT that is malformed and a duplicate takes 0x11 or 0x16 before 0x12
(DESIGN CHOICE, log entry 136). -/
def State.issueWord (s : State) (core crew gid w : Nat) (g : Group) : Issued :=
  let t := s.advance core crew gid (weightOf w)
  match g.fids.filter fun f => ((s.crew crew).fibre f).poisoned with
  | f :: l => (t.poisonWord crew gid g (f :: l), none)
  | [] =>
    if isHintWord w then
      let i := t.issueOf core crew gid g.pc w {}
      match decodeWord w with
      | .fault c => (t.groupEffect i (0, c), none)
      | .ok instr => t.withCur i instr
    else t.consume core crew gid w g

/-- The pick of a group: it is formed if need be, and its word is fetched (R30, R33). -/
def State.issue (s : State) (core : Nat) (x : Cand) : Issued :=
  let gid := x.gid.getD s.nextId
  let t := if x.gid.isSome then s else s.formGroup x.crew x.pc x.fids
  let u := (t.modCrew x.crew fun c => { c with firstIssue := some (c.firstIssue.getD t.tick) }).modCore core fun k =>
    { k with issued := true, lastCrew := some x.crew, lastPhase := (t.crew x.crew).phase.toNat }
  match kget (u.crew x.crew).groups gid with
  | none => (u, none)
  | some g =>
    match u.fetchWord core (u.crew x.crew).pasid g.pc with
    | (v, .error c) => (v.fetchFault x.crew gid g c, none)
    | (v, .ok w) => v.issueWord core x.crew gid w.toNat g

/-! ## Words that have waited (R37, R148, R319, R339) -/

/-- The fibres that still wait at a held word. -/
def Crew.waiting (c : Crew) (id : Nat) : List Nat := (c.fibres.filter fun f => f.2.st == .parked (.held id)).map Prod.fst

/-- An earlier word waits on a queue end of this one (R148). -/
def Crew.behind (c : Crew) (id : Nat) (h : Held) : Bool :=
  { c with held := c.held.filter fun x => decide (x.1 < id) && x.2.why == HoldFor.queue }.queueTaken h.instr

/-- What a held word waits for has come. -/
def State.heldReady (s : State) (crew : Nat) (c : Crew) (id : Nat) (h : Held) : Bool :=
  let n := (c.waiting id).length
  match h.why with
  | .tokens => h.iss.grp.fids.all fun f => h.iss.waited.all fun k => ((c.fibre f).tok k).count == 0
  | .queue =>
    !c.behind id h && s.popsState crew (instrPops h.instr) n != .wait &&
      ((instrPush h.instr).map fun q => s.pushState crew q n != .wait).getD true
  | .page => !s.pageWaits (.held crew id)

/-- The first held word that may execute, on a core that does not wait for a host in this cycle. -/
def State.heldNow (s : State) : Option (Nat × Nat × Held) :=
  s.crews.findSome? fun c =>
    if (c.2.life = .running ∨ c.2.life = .draining) ∧ (s.core c.2.core).blocked = false then
      (c.2.held.find? fun h => s.heldReady c.1 c.2 h.1 h.2).map fun h => (c.1, h.1, h.2)
    else none

/-- A held word executes again on its fibres, in lane order (R9), as a group that its end dissolves. -/
def State.again (s : State) (crew id : Nat) (h : Held) : Issued :=
  let (gid, t) := s.fresh
  let fids := h.iss.grp.fids.filter fun f => ((s.crew crew).waiting id).contains f
  let g := { h.iss.grp with fids := fids }
  let u := t.modCrew crew fun c =>
    { c with held := kdel c.held id, groups := kset c.groups gid g
             fibres := kmap c.fibres fun f x => if fids.contains f then { x with st := .formed gid } else x }
  if fids.isEmpty then (t.modCrew crew fun c => { c with held := kdel c.held id }, none)
  else u.withCur { h.iss with gid := some gid, grp := g, again := true } h.instr

end Sys2Proof.Machine
end

