-- ==== Sys2Proof/Machine/Internal.lean ====
section
/-! DEFINITION. What a step does (log entry 1): the next event of the agenda, or a word that has waited, or the word of the first core
whose picker finds a ready group, or an internal event that is due, or a cycle; and what follows every step (R46, R142). -/

namespace Sys2Proof.Machine

/-! ## Messages of the chip to itself (R287) -/

/-- A message that the chip sends to itself. -/
def State.takeOwn (s : State) (m : LinkMsg) : State :=
  let close := fun (id : MsgId) (c : Option Cause) => match s.sendOf id with
    | some (k, _) => s.closeSend k c
    | none => s
  match m with
  | .request id len pri bs => s.wicketRequest id len pri ownPort bs
  | .data id off epoch bs => s.wicketData id off epoch bs
  | .grant id r => match s.sendOf id with
    | some (k, _) => s.takeGrant k r
    | none => s
  | .refuse id => match s.sendOf id with
    | some (k, _) => s.noteRefusal k
    | none => s
  | .pause id => s.wicketPause id
  | .resume id off => s.wicketResume id off
  | .done id => close id none
  | .truncated id => close id (some 0x8B)
  | .orphaned id => close id (some 0x8A)
  | .cancelled id true => close id (some 0x8C)
  | .cancelled id false => s.cancelMsg id true
  | .peerFault id true => close id (some 0x8F)
  | .peerFault id false => s.cancelMsg id false
  | .launch _ _ _ _ _ | .tick _ _ | .start _ _ | .gangEnded _ | .gangTerminated _ | .read _ _ _ | .write _ _ _ _ | .value _ _ _ _ | .failed _ _ _
  | .raced _ _ _ _ _ => s

/-- The first message of the chip to itself delivered. -/
def State.deliverOwn (s : State) : Option State :=
  match s.linkOut.find? fun m => m.1 == s.sysId with
  | some m => some (s.orSnoop ({ s with linkOut := s.linkOut.erase m }.takeOwn m.2))
  | none => none

/-! ## Internal events -/

/-- An event that the package performs by itself. -/
abbrev Move := State → Host.Outcome State Fault Refusal

/-- The state that a move leaves, when it changes anything; a change that waits for a host is put off (R214, R215). -/
def Move.try (m : Move) (s : State) : Option State :=
  match m s with
  | .next u => let t := s.orSnoop u; if t = s then none else some t
  | .fault _ | .refused _ => none

/-- The moves of an operation. -/
def opMoves (x : Nat × Op) : List Move :=
  match x.2.kind with
  | .mem _ _ _ => [execCompletion x.1, execAtomicAtHome x.1, execAllowHomeRequest x.1, execJoinNotice x.1]
  | .copy _ | .matrix _ _ | .frame _ _ | .send | .recv | .query _ => [execCompletion x.1]

/-- The moves of the copy, matrix and bulk engines. -/
def State.engineMoves (s : State) : List Move :=
  let clusters := ((s.crews.filter fun c => !c.2.claims.isEmpty).map fun c => clusterOf c.2.core).eraseDups
  ((s.crews.filter fun c => !c.2.copies.isEmpty).map fun c => execCopyStart c.1) ++
    (clusters.flatMap fun c => [execClaimGrant c, execMatrixOpStart c .control, execMatrixOpStart c .loader, execMatrixOpStart c .array]) ++
    ((s.sends.filter fun x => x.2.refused.isSome).map fun x => execRequestRetry x.1) ++
    (s.sends.map fun x => execSendUnreachable x.1) ++ (s.msgs.map fun m => execSourcePathLoss m.1) ++
    (((s.msgs.map fun m => m.2.port).eraseDups).map execGrantIssue) ++
    s.msgs.flatMap fun m => m.2.grants.map fun g => execGrantExpiry m.1 g.1

/-- The moves of a packet. -/
def packetMoves (q : Nat) (p : Nat × Packet) : List Move :=
  match p.2.state with
  | .waiting => [execPacketStart q p.1]
  | .running =>
    [execNopPacket q p.1, execLaunch q p.1, execGraph q p.1, execBarrierPacket q p.1, execSignalPacket q p.1, execPacketComplete q p.1]
  | .accepted | .complete | .rejected | .discarded => []

/-- The first place where the pipeline of a gang can stand now. -/
def State.placeFor (s : State) (g : Gang) : Option (Nat × Nat × Nat) :=
  (List.range Config.dies).findSome? fun d => (origins.find? fun o => (s.placesAt g d o.1 o.2).isSome).map fun o => (d, o.1, o.2)

/-- The moves of a gang. -/
def State.gangMoves (s : State) (g : Nat × Gang) : List Move :=
  (match s.waitingPoint g.1 g.2 with
    | some p => match s.placeFor g.2 with
      | some (d, x, y) => [execCrewPlacement g.1 p d x y]
      | none => []
    | none => []) ++ [execStartTick g.1, execChipsetTimeout g.1]

/-- The moves of the command graphs. -/
def State.graphMoves (s : State) : List Move :=
  (match s.pool with
    | (g, n) :: _ => [execKernelNode g n, execCondNode g n, execSignalNode g n, execXferNode g n, execNoteNode g n]
    | [] => []) ++
    s.graphs.flatMap fun g =>
      (g.2.rearm.map fun n => execCondNode g.1 n) ++
        (g.2.running.flatMap fun n => ([execNodeComplete g.1 n, execXferNode g.1 n] : List Move)) ++
        g.2.done.map fun d => execNodeComplete g.1 d.1

/-- The first place where the crews of a crew's pipeline that wait can stand now. -/
def State.restoreFor (s : State) (c : Crew) : Option (Nat × Nat × Nat) :=
  (kget s.gangs c.gang).bind fun g => (List.range Config.dies).findSome? fun d =>
    (origins.find? fun o => (s.placeBack g (s.pipeline c) [] d o.1 o.2).isSome).map fun o => (d, o.1, o.2)

/-- The moves of a crew's life (R371). -/
def State.lifeMoves (s : State) (c : Nat × Crew) : List Move :=
  match c.2.life with
  | .saving | .halting => [execSaveComplete c.1]
  | .saved | .pending => match s.restoreFor c.2 with
    | some (d, x, y) => [execRestore c.1 d x y]
    | none => []
  | .restoring => [execRestore c.1 0 0 0]
  | .draining => [execDrainTimeout c.1]
  | .running => [execPreemptDecision c.1]
  | .starting | .halted | .flushing | .ended | .terminated => []

/-- The moves that time makes due, with the bring-up of R407. -/
def State.timeMoves (s : State) : List Move :=
  (if s.stage < stageReady then [execBringupStageDone .done] else []) ++
    (if s.flushBusy then [execFlushDone] else []) ++
    (s.pages.map fun p => execPageRequestTimeout p.1) ++ (s.vectors.map fun v => execVectorTimer v.1) ++
    ((List.range s.asking.length).map execReportAnswerTimeout) ++
    [execHeartbeatTimeout 0, execHeartbeatTimeout 1, execHostUnreachableTimeout] ++
    (if s.tick % 25000 = 0 then (List.range Config.dies).map execSchedulingRound else [])

/-- The wakings of gated scratchpad banks for which an access waits (R168). -/
def State.wakeMoves (s : State) : List Move :=
  (s.gated.filter fun u => match u with
    | .scratchBank cl b => s.ops.any fun o => clusterOf o.2.core == cl && (o.2.stage == .issued || o.2.stage == .running) && match o.2.kind with
      | .mem r _ _ => r.space == .scratch && b == r.ea / 16 % 32
      | .copy _ | .matrix _ _ => true
      | .frame _ _ | .send | .recv | .query _ => false
    | .l1Way _ _ | .l2Way _ _ => false).map execUnitWake

/-- Every internal event that may be due, in the order in which a step tries them. -/
def State.moves (s : State) : List Move :=
  s.timeMoves ++ s.wakeMoves ++ (s.ops.flatMap opMoves) ++ s.engineMoves ++
    (s.queues.flatMap fun q => execSlotRead q.1 :: q.2.packets.flatMap (packetMoves q.1)) ++ (s.gangs.flatMap s.gangMoves) ++
    s.graphMoves ++ s.crews.flatMap s.lifeMoves

/-- An internal event that changes something, or else a cycle of one tick. -/
def State.idle (s : State) : State :=
  match s.deliverOwn with
  | some t => t
  | none =>
    match s.moves.findSome? fun m => m.try s with
    | some t => t
    | none => match execCycle 1 s with
      | .next t => t
      | .fault _ | .refused _ => s

/-! ## One step -/

/-- The instruction is an event of the package, not a word (it has no bits). -/
def isEvent (i : Instr) : Bool := encodeWord i == 0

/-- What a step does next: the core whose word it is, where it is a word, and an instruction to execute in a state, or a state that the package
reaches by itself. A word in the agenda is dropped. -/
def State.choose (s : State) : Option Nat × Issued :=
  match s.agenda with
  | i :: rest => (none, if isEvent i then ({ s with agenda := rest }, some i) else ({ s with agenda := rest }, none))
  | [] =>
    match s.heldNow with
    | some (crew, id, h) => (some (s.crew crew).core, s.again crew id h)
    | none =>
      match s.pickAny with
      | some (core, x) => (some core, s.issue core x)
      | none => (none, s.idle, none)

/-- A word put off until a host has given up lines that it changes: the snoops and requests are sent, and the core issues nothing in this
cycle (R214, R215). -/
def State.holdBack (s : State) (core : Nat) (l : List HostOut) : State :=
  (l.foldl State.sendSnoop s).modCore core fun c => { c with blocked := true }

/-- The state u that an event leaves of t, or a word of a core of s, unless it waits for a host (R214, R215). -/
def State.commit (s : State) (core : Option Nat) (t u : State) : State :=
  match core, newSnoops s u with
  | none, _ => t.orSnoop u
  | some _, [] => u
  | some c, l => s.holdBack c l

/-- The race events of crews that have ended reported (R210). -/
def State.reportLate (s : State) : State :=
  (s.crews.filter fun c => !c.2.alive && (!c.2.raceLog.isEmpty || c.2.raceLost)).foldl (fun (t : State) c => t.reportRaces c.1) s

/-- Entries of convergence tables that a step has freed given to the fibres of the overflow queues (R32). -/
def State.settleTables (s : State) : State :=
  (s.cores.filter fun k => !k.2.overflow.isEmpty).foldl (fun (t : State) k => t.settle k.1 (t.core k.1).overflow.length) s

/-- Graphs with a gang that has been terminated, or whose launch has failed, stop (R364, R367), and a stopped graph whose packet no longer
runs is gone once nothing of it runs. -/
def State.stopGraphs (s : State) : State :=
  let t := (s.graphs.filter fun g => !g.2.stopped && s.graphDead g.2).foldl (fun (t : State) g => t.stopGraph g.1) s
  { t with graphs := t.graphs.filter fun g =>
      !(g.2.stopped && t.graphOver g.1 && ((t.packet g.2.q g.2.idx).map fun p => p.state != .running).getD true) }

/-- A die is kept for a saved pipeline only as long as the pipeline is saved and the die could hold it without the crews that leave it
(R46). -/
def State.keepPromises (s : State) : State :=
  (s.dies.filter fun d => d.2.promised.isSome).foldl (fun (t : State) d =>
    if d.2.promised.any fun k => (t.crew k).life == .saved && t.couldHold d.1 (t.crew k) t.leaving then t
    else t.modDie d.1 fun x => { x with promised := none }) s

/-- A host line whose snoop has waited for a change to be applied is given up (R214). -/
def State.giveUpLines (s : State) : State :=
  { s with homes := kmap s.homes fun _ h => if h.snoopDue && !h.keep then { h with owned := false, snoopDue := false } else h }

/-- Crews of which a segment could not be written back are terminated with its cause (R319). -/
def State.endLost (s : State) : State :=
  s.crews.foldl (fun (t : State) c => match c.2.lost with
    | some e => (t.terminate c.1 e noFibre 0).modCrew c.1 fun x => { x with lost := none }
    | none => t) s

/-- What follows every step: crews that lost a segment end (R319), monitors look at their homes (R142), fibres of draining crews whose wait at a switch point has ended perform
PREEMPT (R370), free entries of the convergence tables are taken (R32), fully parked
crews are noted (R46), the race events of crews that have ended are reported (R210), the graphs of dead gangs stop (R367), promises of
room that have lapsed are dropped (R46), sends that a freed record allows start (R291), and host lines are given up (R214). -/
def State.settleStep (s : State) : State :=
  s.endLost.wakeMonitors.preemptLate.settleTables.noteParked.reportLate.stopGraphs.keepPromises.startSends.giveUpLines

end Sys2Proof.Machine
end

