-- ==== Sys2Proof/Machine/Place.lean ====
section
/-! DEFINITION. How a word is put where the next step fetches it (log entry 6): what firmware, a driver and a launch by the service runtime
leave, with one fibre of one crew on core 0. -/

namespace Sys2Proof.Machine

/-- The PASID of the placed crew. -/
def placePasid : Nat := 1

/-- The address of the placed word, the same virtual and physical. -/
def placeAt : Nat := 0x10000

/-- The page table of the placed crew: the first gibibyte, mapped to itself, readable, writable and executable (R176, R177). -/
def State.placeTable (s : State) : State := (s.writePas 0x1000 (leBytes 8 0x801)).writePas 0x2000 (leBytes 8 0xDF)

/-- The gang of the placed crew. -/
def placeGang (id crew : Nat) : Gang :=
  { ident := id, launch := {}, src := .service, queue := 0, pasid := placePasid, chips := [0], mine := 0, proposals := [], start := some 0
    asked := 0, crews := [crew], ended := 0, chipsEnded := [], terminated := false, failed := false, pool := [], poolUsed := []
    poolRecords := [], ends := [] }

/-- The placed crew: one fibre at system level. -/
def loaderCrew (gang : Nat) : Crew :=
  { gang := gang, system := true, life := .running, home := some 0, pasid := placePasid, entry := placeAt, created := 1
    segScratch := ⟨0, 65536⟩, segFrame := ⟨0x400000, 0x400000⟩, fibres := [(0, { pc := placeAt, seg := 0x400000 })] }

/-- The state with a word where the next step fetches it and runs it: the package is READY, the placed crew is the only one, and no store of
core 0 or its die holds an older word or translation. -/
def State.placeWord (s : State) (w : Nat) : State :=
  let gang := s.sysId * 2 ^ 32 + s.launches + 1
  let t := { s with
    agenda := [], stage := stageReady, crews := [(s.nextId, loaderCrew gang)], gangs := kset s.gangs gang (placeGang gang s.nextId)
    nextId := s.nextId + 1, launches := s.launches + 1, pasids := kset s.pasids placePasid ⟨1, 4, true, 0x400000, 0x400000, 0⟩
    poisonDev := [] }
  let u := (t.modCore 0 fun c => { c with issued := false, blocked := false, icache := [], tlb := [] }).modDie 0 fun d => { d with tlb := [], code := [] }
  u.placeTable.writePas placeAt (leBytes 4 w)

end Sys2Proof.Machine
end

