-- ==== Sys2Proof/Machine/Step.lean ====
section
/-! DEFINITION. One step of the package, and the state in which the next step runs a given word (log entries 1 and 6). -/

namespace Sys2Proof.Machine

/-- One step: the instruction chosen is executed, unless it waits for a host, and what follows every step is done. -/
def step (s : State) : Host.Outcome State Fault Refusal :=
  match s.choose with
  | (core, t, some i) => match exec i t with
    | .next u => .next (s.commit core t u).settleStep
    | .fault f => .fault f
    | .refused r => .refused r
  | (core, t, none) => .next (s.commit core t t).settleStep

/-- The state with a word stored where the next step fetches (log entry 6). -/
def State.withFetchWord (s : State) (nbits w : Nat) : State := s.placeWord (w % 2 ^ nbits)

end Sys2Proof.Machine
end

