-- ==== Sys2Proof/Safety.lean ====
section
/-! DEFINITION. What counts as a safe run: the memories keep their canonical form. -/

namespace Sys2Proof

/-- Every memory of the package is in canonical form. -/
def Machine.State.memWf (s : Machine.State) : Prop :=
  Machine.Memory.wf s.dev ∧ Machine.Memory.wf s.host ∧ Machine.Memory.wf s.scratch

end Sys2Proof
end

