-- ==== Sys2Proof/Certificates/Slice0/Terms.lean ====
section
/-! DEFINITION. The words in which the obligations are stated: a word that issues, what it may change, and what its lanes read and
leave. -/

namespace Sys2Proof.Terms

open Sys2Proof.Machine

/-- The state once a word has taken its context and one use of the free counter; nothing else has changed. -/
def taken (s : State) : State := { s with cur := none, free := s.free + 1 }

/-- What the lanes of the word read from. -/
def envAt (s : State) (i : Issue) : Env := envOf i (taken s)

/-- The word of the state issues for a group of a crew; the fibres of the group exist, and each is listed once. -/
def Issues (s : State) (i : Issue) (c : Crew) : Prop :=
  s.cur = some i ∧ kget s.crews i.crew = some c ∧ i.grp.fids.Nodup ∧ ∀ f ∈ i.grp.fids, (kget c.fibres f).isSome = true

/-- Nothing but one crew has changed. -/
def OnlyCrew (s t : State) (crew : Nat) : Prop :=
  t = { taken s with crews := t.crews } ∧ ∀ k, k ≠ crew → kget t.crews k = kget s.crews k

/-- A fibre at an address, not changed otherwise. -/
def standsAt (pc : Nat) (f : Fibre) : Fibre := { f with pc := pc }

/-- A fibre that goes on at the next word and has not changed otherwise. -/
def passed (i : Issue) (f : Fibre) : Fibre := standsAt (i.pc + 4) f

/-- A group at the next word, with latches. -/
def groupAt (i : Issue) (latches : List Latch) (x : Group) : Group := { x with pc := i.pc + 4, latches := latches }

/-- Of a crew nothing but fibres of the issuing group and the group itself has changed; the group stands at the next word with
these latches. -/
def OnlyGroup (i : Issue) (latches : List Latch) (c c' : Crew) : Prop :=
  c' = { c with fibres := c'.fibres, groups := c'.groups } ∧
  (∀ f, f ∉ i.grp.fids → kget c'.fibres f = kget c.fibres f) ∧
  (∀ g, some g ≠ i.gid → kget c'.groups g = kget c.groups g) ∧
  ∀ g, i.gid = some g → kget c'.groups g = (kget c.groups g).map (groupAt i latches)

/-- A word completes, having changed only its own crew's fibres and group. -/
def GroupStep (w : Instr) (s : State) (i : Issue) (c : Crew) (latches : List Latch) (after : Nat → Fibre → Prop) : Prop :=
  ∃ t c', exec w s = .next t ∧ OnlyCrew s t i.crew ∧ kget t.crews i.crew = some c' ∧ OnlyGroup i latches c c' ∧
    ∀ f ∈ i.grp.fids, ∃ x, kget c'.fibres f = some x ∧ after f x

/-- No latency window of a V register is open at the fibre's position. -/
def noWindow (f : Fibre) (n : Nat) : Prop := ∀ w ∈ kgetD f.vwin n [], w.openAt f.pos = false

/-- A fibre after a lane word with result lo, and hi for a pair: V[d] and V[d + 1] hold the result, or no register does with NW; the
fibre stands at the next word, FSTAT and the tick sample hold the values given, and nothing else has changed. -/
def WroteLane (i : Issue) (f f' : Fibre) (nw : Bool) (d : Nat) (lo : Word) (hi : Option Word) (fstat tick : Word) : Prop :=
  f' = { f with pc := i.pc + 4, v := f'.v, vwin := f'.vwin, wrote := f'.wrote, fstat := f'.fstat, fpend := f'.fpend, tickhi := tick } ∧
  (∀ n, (nw = true ∨ (n ≠ d ∧ (hi = none ∨ n ≠ d + 1))) → f'.getV n = f.getV n) ∧
  (nw = false → noWindow f d → f'.getV d = lo) ∧
  (∀ h, nw = false → hi = some h → noWindow f (d + 1) → f'.getV (d + 1) = h) ∧ f'.fstatNow = fstat

/-- A fibre whose V[d] holds a value, and whose other registers, P, tokens, index registers, frame and effect state are those before;
FSTAT has the flags of x set (R63) and the fibre stands at the next word. -/
def WroteV (i : Issue) (f f' : Fibre) (nw : Bool) (d : Nat) (v x : Word) : Prop :=
  WroteLane i f f' nw d v none (f.fstatNow ||| x) f.tickhi

/-- A lane word as the spec describes it: its destination, latency, operands, whether V[D] is a third source, and its result with
the exceptions it signals, from the MOD hint, V[D], a and b; none where the spec gives a fault instead. -/
structure LaneRule where
  h : LaneHdr
  lat : Nat
  srcs : List Sel
  third : Bool
  value : Mod → Word → Word → Word → Option (Word × Word)

/-- The conditions under which a lane word runs on every selected lane: the operands lie in the budget and pop no queue, strict mode
refuses none of them, they deliver X, Y and Z, and no enabled exception is signalled. -/
def LaneRule.Runs (r : LaneRule) (s : State) (i : Issue) (c : Crew) (X Y Z : Nat → Word) : Prop :=
  Issues s i c ∧ (∀ a ∈ r.srcs, selQueue a = [] ∧ selFits a c.b 1 = true) ∧ r.h.d.val < c.b ∧
  (envAt s i).splitRead (r.srcs.flatMap fun a => selRegs a 1) = false ∧ ((envAt s i).lanes r.h.g).bad = [] ∧
  ∀ f ∈ ((envAt s i).lanes r.h.g).sel,
    (∀ a, r.srcs[0]? = some a → (envAt s i).read (c.fibre f) f a 0 0 = .ok (X f)) ∧
    (∀ b, r.srcs[1]? = some b → (envAt s i).read (c.fibre f) f b 1 0 = .ok (Y f)) ∧
    (r.third = true → (envAt s i).readV (c.fibre f) f r.h.d.val 2 = .ok (Z f)) ∧
    (r.h.nw = false → (c.fibre f).strictV i.strict r.h.d.val = none) ∧ (c.fibre f).fpend = [] ∧
    ∃ v x, r.value i.mod (Z f) (X f) (Y f) = some (v, x) ∧ trapSet x (c.fibre f).fstat = 0

/-- The latches after a producer (R84): those before have moved by one, and the new entry is of the group's position. -/
def Shifted (i : Issue) (latches : List Latch) : Prop :=
  latches.drop 1 = i.grp.latches.take 3 ∧ (latches.head?.map Latch.pos) = some i.grp.pos

/-- What a lane word leaves: selected lanes hold the result in V[D] and its flags in FSTAT, the others are unchanged, and the latches
hold the results of the selected lanes and 0 for the others (R84). -/
def LaneRule.Result (r : LaneRule) (w : Instr) (s : State) (i : Issue) (c : Crew) (X Y Z : Nat → Word) : Prop :=
  ∃ latches, Shifted i latches ∧ GroupStep w s i c latches fun f f' =>
    if f ∈ ((envAt s i).lanes r.h.g).sel then
      ∃ v x, r.value i.mod (Z f) (X f) (Y f) = some (v, x) ∧ WroteV i (c.fibre f) f' r.h.nw r.h.d.val v x ∧
        (latches.head?.map fun l => (l.lat, kget l.vals f)) = some (r.lat, some v)
    else f' = passed i (c.fibre f) ∧ (latches.head?.map fun l => kget l.vals f) = some (some 0)

/-! ## Other results -/

/-- The conditions under which a lane word with these operands and this many destination registers is refused on no lane. -/
def QuietLanes (s : State) (i : Issue) (c : Crew) (h : LaneHdr) (srcs : List (Sel × Nat)) (width : Nat) : Prop :=
  Issues s i c ∧ (∀ a ∈ srcs, selQueue a.1 = [] ∧ selFits a.1 c.b a.2 = true) ∧ h.d.val + width ≤ c.b ∧
  (envAt s i).splitRead (srcs.flatMap fun a => selRegs a.1 a.2) = false ∧ ((envAt s i).lanes h.g).bad = [] ∧
  ∀ f ∈ ((envAt s i).lanes h.g).sel, (c.fibre f).fpend = [] ∧
    (h.nw = false → ∀ k, k < width → (c.fibre f).strictV i.strict (h.d.val + k) = none)

/-- What a lane word leaves: on selected lanes a result, its exceptions, the value that it writes to FSTAT and its tick sample; the
others are unchanged; the latches hold the results of the selected lanes and 0 for the others. -/
def Leaves (w : Instr) (s : State) (i : Issue) (c : Crew) (h : LaneHdr) (lat : Nat) (out : Nat → LaneOut) : Prop :=
  ∃ latches, Shifted i latches ∧ GroupStep w s i c latches fun f f' =>
    if f ∈ ((envAt s i).lanes h.g).sel then
      WroteLane i (c.fibre f) f' h.nw h.d.val (out f).lo (out f).hi ((out f).swap.getD (c.fibre f).fstatNow ||| (out f).exc)
          ((out f).tick.getD (c.fibre f).tickhi) ∧
        (latches.head?.map fun l => (l.lat, kget l.vals f)) = some (lat, some (out f).lo)
    else f' = passed i (c.fibre f) ∧ (latches.head?.map fun l => kget l.vals f) = some (some 0)

/-- The entries of a predicate stack. -/
def StackIs (p : BitVec 7) (k : Nat → Bool) : Prop := ∀ d, d < 7 → p.getLsbD d = k d

/-- A stack with an entry pushed (R111). -/
def pushed (p : BitVec 7) (r : Bool) : Nat → Bool := fun d => if d = 0 then r else p.getLsbD (d - 1)

/-- No latency window of P is open on any fibre of the group. -/
def PSettled (i : Issue) (c : Crew) : Prop := ∀ f ∈ i.grp.fids, ∀ w ∈ (c.fibre f).pwin, w.openAt (c.fibre f).pos = false

/-- A fibre of which only the stack has changed, to these entries. -/
def WroteP (i : Issue) (f f' : Fibre) (k : Nat → Bool) : Prop :=
  f' = { passed i f with p := f'.p, pwin := f'.pwin } ∧ StackIs f'.p k

/-- No earlier write of a G register by a fibre of the group is in its window, and no token result in it waits for its WAIT (R82, R137). -/
def gSettled (i : Issue) (c : Crew) (n : Nat) : Prop := ∀ w ∈ kgetD c.gwin n [], w.tok = none ∧ w.ownOpen c i.grp.fids = false

/-- A word writes a G register for its group (R42, R43): the register holds the value unless the window of an earlier write of the group is
open, its split bit says whether the group lacks some live fibre, no other register changes, and every fibre stands at the next word. -/
def UniformStep (w : Instr) (s : State) (i : Issue) (c : Crew) (n : Nat) (val : Word) : Prop :=
  ∃ t c', exec w s = .next t ∧ OnlyCrew s t i.crew ∧ kget t.crews i.crew = some c' ∧
    OnlyGroup i i.grp.latches { c with g := c'.g, split := c'.split, gwin := c'.gwin, gwrote := c'.gwrote } c' ∧
    (∀ f ∈ i.grp.fids, kget c'.fibres f = some (passed i (c.fibre f))) ∧
    (∀ m, m ≠ n → c'.getG m = c.getG m ∧ kget c'.gwin m = kget c.gwin m) ∧ (gSettled i c n → c'.getG n = val) ∧
    ∀ m, m < 32 → c'.split.getLsbD m = if m = n then !c.wholeGroup i.grp.fids else c.split.getLsbD m

/-- A word may write a G register: strict mode finds it neither pending nor in a window. -/
def MayWriteG (s : State) (i : Issue) (c : Crew) (n : Nat) : Prop :=
  c.strictG i.strict n i.grp.fids (envAt s i).cycle = none

/-! ## Switch points -/

/-- The issuing group is a formed group of a running crew whose core has no fibre in its overflow queue and at most 256 fibres, so that
its convergence table never fills (R29, R32). -/
def SwitchReady (s : State) (i : Issue) (c : Crew) : Prop :=
  Issues s i c ∧ c.life = .running ∧ (s.core c.core).overflow = [] ∧ s.population c.core ≤ 256 ∧
    ∃ g x, i.gid = some g ∧ kget c.groups g = some x ∧ x.fids = i.grp.fids ∧ ∀ f ∈ i.grp.fids, (c.fibre f).st = .formed g

/-- A fibre at an address as a loose fibre of the current cycle (R45). -/
def looseAt (s : State) (c : Crew) (pc : Nat) (f : Fibre) : Fibre := { f with pc := pc, st := .loose (s.core c.core).cycle }

/-- A fibre parked at an address (R45). -/
def parkedAt (pc : Nat) (p : Park) (f : Fibre) : Fibre := { f with pc := pc, st := .parked p }

/-- A word that is a switch point completes (R31): only its crew changes, in the way that same says, its group is no more, and each
fibre of the group is as after says. -/
def SwitchStep (w : Instr) (s : State) (i : Issue) (c : Crew) (same : Crew → Prop) (after : Nat → Fibre → Prop) : Prop :=
  ∃ t c', exec w s = .next t ∧ OnlyCrew s t i.crew ∧ kget t.crews i.crew = some c' ∧ same c' ∧
    (∀ f, f ∉ i.grp.fids → kget c'.fibres f = kget c.fibres f) ∧
    (∀ g, kget c'.groups g = if some g = i.gid then none else kget c.groups g) ∧
    ∀ f ∈ i.grp.fids, ∃ x, kget c'.fibres f = some x ∧ after f x

/-- Only fibres and groups of the crew have changed. -/
def sameCrew (c c' : Crew) : Prop := c' = { c with fibres := c'.fibres, groups := c'.groups }

/-! ## Lane words that pop queues, and lane words that trap -/

/-- The value that the lane in place j of the selected ones takes for operand k (R148): lane by lane, and in a lane A before B. -/
def popAt (c : Crew) (srcs : List Sel) (k j : Nat) : Word :=
  match srcs[k]? with
  | some (.q n) => (c.queue n.val).getD (j * (popsOf srcs).count n.val + (popsOf (srcs.take k)).count n.val) 0
  | some (.v _) | some (.g _) | some (.latch _) | some (.vx _) | some (.int _) | some (.flt _) | some .imm | none => 0

/-- Selected lanes come to a word whose operands pop queues, and no word of the crew waits at them (R148). -/
def PopsNow (w : Instr) (s : State) (i : Issue) (c : Crew) (g : Guard) (srcs : List Sel) : Prop :=
  SwitchReady s i c ∧ popsOf srcs ≠ [] ∧ c.queueTaken w = false ∧ (∀ a ∈ srcs, selFits a c.b 1 = true) ∧
    (envAt s i).splitRead (srcs.flatMap fun a => selRegs a 1) = false ∧ ((envAt s i).lanes g).bad = [] ∧ ((envAt s i).lanes g).sel ≠ []

/-- The crew is of a later stage, and its queues hold a value for each use on each selected lane (R147, R148). -/
def Supplied (s : State) (i : Issue) (c : Crew) (g : Guard) (srcs : List Sel) : Prop :=
  c.stage ≠ 0 ∧ ∀ q, ((envAt s i).lanes g).sel.length * (popsOf srcs).count q ≤ (c.queue q).length

/-- The conditions under which a lane word that pops runs on every selected lane: as LaneRule.Runs, with the values popped. -/
def LaneRule.PopRuns (r : LaneRule) (w : Instr) (s : State) (i : Issue) (c : Crew) (X Y Z : Nat → Word) : Prop :=
  PopsNow w s i c r.h.g r.srcs ∧ Supplied s i c r.h.g r.srcs ∧ r.h.d.val < c.b ∧
  ∀ f ∈ ((envAt s i).lanes r.h.g).sel,
    let j := ((envAt s i).lanes r.h.g).sel.idxOf f
    (∀ a, r.srcs[0]? = some a → (envAt s i).read (c.fibre f) f a 0 (popAt c r.srcs 0 j) = .ok (X f)) ∧
    (∀ b, r.srcs[1]? = some b → (envAt s i).read (c.fibre f) f b 1 (popAt c r.srcs 1 j) = .ok (Y f)) ∧
    (r.third = true → (envAt s i).readV (c.fibre f) f r.h.d.val 2 = .ok (Z f)) ∧
    (r.h.nw = false → (c.fibre f).strictV i.strict r.h.d.val = none) ∧ (c.fibre f).fpend = [] ∧
    ∃ v x, r.value i.mod (Z f) (X f) (Y f) = some (v, x) ∧ trapSet x (c.fibre f).fstat = 0

/-- What popping leaves of a crew: its queues without the values taken, n of them for each use (R148). -/
def Popped (srcs : List Sel) (n : Nat) (c c' : Crew) : Prop :=
  c' = { c with fibres := c'.fibres, groups := c'.groups, queues := c'.queues } ∧
    ∀ q, c'.queue q = (c.queue q).drop (n * (popsOf srcs).count q)

/-- A word that has popped its values is a switch point (R148): its fibres are loose, and as after says of a word that pops nothing. -/
def PopStep (w : Instr) (s : State) (i : Issue) (c : Crew) (g : Guard) (srcs : List Sel) (after : Nat → Fibre → Prop) : Prop :=
  SwitchStep w s i c (Popped srcs ((envAt s i).lanes g).sel.length c) fun f x =>
    x.st = .loose (s.core c.core).cycle ∧ after f { x with st := (c.fibre f).st }

/-- What a lane word that pops leaves: the results as of another lane word. -/
def LaneRule.PopResult (r : LaneRule) (w : Instr) (s : State) (i : Issue) (c : Crew) (X Y Z : Nat → Word) : Prop :=
  PopStep w s i c r.h.g r.srcs fun f f' =>
    if f ∈ ((envAt s i).lanes r.h.g).sel then
      ∃ v x, r.value i.mod (Z f) (X f) (Y f) = some (v, x) ∧ WroteV i (c.fibre f) f' r.h.nw r.h.d.val v x
    else f' = passed i (c.fibre f)

/-- The conditions of QuietLanes for a word whose operands pop queues, with their values there. -/
def QuietPops (w : Instr) (s : State) (i : Issue) (c : Crew) (h : LaneHdr) (srcs : List Sel) (width : Nat) : Prop :=
  PopsNow w s i c h.g srcs ∧ Supplied s i c h.g srcs ∧ h.d.val + width ≤ c.b ∧
  ∀ f ∈ ((envAt s i).lanes h.g).sel, (c.fibre f).fpend = [] ∧
    (h.nw = false → ∀ k, k < width → (c.fibre f).strictV i.strict (h.d.val + k) = none)

/-- What a lane word that pops leaves: on selected lanes a result, as Leaves says. -/
def LeavesPop (w : Instr) (s : State) (i : Issue) (c : Crew) (h : LaneHdr) (srcs : List Sel) (out : Nat → LaneOut) : Prop :=
  PopStep w s i c h.g srcs fun f f' =>
    if f ∈ ((envAt s i).lanes h.g).sel then
      WroteLane i (c.fibre f) f' h.nw h.d.val (out f).lo (out f).hi ((out f).swap.getD (c.fibre f).fstatNow ||| (out f).exc)
        ((out f).tick.getD (c.fibre f).tickhi)
    else f' = passed i (c.fibre f)

/-- The values that the selected lanes of a word read for an operand, the word's selectors and the operand's place being these: from
registers, latches and constants, or popped. -/
def Reads (s : State) (i : Issue) (c : Crew) (g : Guard) (srcs : List Sel) (k : Nat) (X : Nat → Word) : Prop :=
  ∀ a, srcs[k]? = some a → ∀ f ∈ ((envAt s i).lanes g).sel,
    (envAt s i).read (c.fibre f) f a k (popAt c srcs k (((envAt s i).lanes g).sel.idxOf f)) = .ok (X f)

/-- A word that waits for a queue (R148): its selected fibres park at it, the others go on, and the queues and G registers are unchanged. -/
def HoldStep (w : Instr) (s : State) (i : Issue) (c : Crew) (g : Guard) : Prop :=
  ∃ t c' h, exec w s = .next t ∧ kget t.crews i.crew = some c' ∧ c'.queues = c.queues ∧ c'.g = c.g ∧ t.ops = s.ops ∧
    kget c'.held s.nextId = some h ∧ h.instr = w ∧ ∀ f ∈ i.grp.fids, ∃ x, kget c'.fibres f = some x ∧
      x = if f ∈ ((envAt s i).lanes g).sel then parkedAt i.pc (.held s.nextId) (c.fibre f) else looseAt s c (i.pc + 4) (c.fibre f)

/-- The FAULT of R147 on every selected fibre of a word. -/
def queueFault (s : State) (i : Issue) (g : Guard) : State :=
  (taken s).endWord i [] true (((envAt s i).lanes g).sel.map fun f =>
    (f, { label := 0, cause := 0x3D, payload := 0x3D, rpc := i.pc + 4 }))

/-- A lane word whose operands pop queues (R147, R148): with every value there it runs; in a crew of stage 0, or at an empty queue whose
pushing crew has ended, it is FAULT 0x3D; and while the pushing crew lives it waits for values that are not there. -/
def LaneRule.Pops (r : LaneRule) (w : Instr) : Prop :=
  ∀ (s : State) (i : Issue) (c : Crew),
    (∀ X Y Z, r.PopRuns w s i c X Y Z → r.PopResult w s i c X Y Z) ∧
    (PopsNow w s i c r.h.g r.srcs → r.h.d.val < c.b →
      (c.stage = 0 → exec w s = .next (queueFault s i r.h.g)) ∧
      ∀ id p, c.stage ≠ 0 → s.stageCrew c (c.stage - 1) = some (id, p) →
        (p.alive = false → (∃ q ∈ popsOf r.srcs, c.queue q = []) → exec w s = .next (queueFault s i r.h.g)) ∧
        (p.alive = true → (∃ q, (c.queue q).length < ((envAt s i).lanes r.h.g).sel.length * (popsOf r.srcs).count q) →
          HoldStep w s i c r.h.g))

/-- The conditions of LaneRule.Runs with V and E the results and exceptions of each selected lane, and K the lowest exception of a lane
whose trap its FSTAT enables, if there is one (R64). -/
def LaneRule.Traps (r : LaneRule) (s : State) (i : Issue) (c : Crew) (X Y Z V E : Nat → Word) (K : Nat → Option Nat) : Prop :=
  Issues s i c ∧ (∀ a ∈ r.srcs, selQueue a = [] ∧ selFits a c.b 1 = true) ∧ r.h.d.val < c.b ∧
  (envAt s i).splitRead (r.srcs.flatMap fun a => selRegs a 1) = false ∧ ((envAt s i).lanes r.h.g).bad = [] ∧
  ∀ f ∈ ((envAt s i).lanes r.h.g).sel,
    (∀ a, r.srcs[0]? = some a → (envAt s i).read (c.fibre f) f a 0 0 = .ok (X f)) ∧
    (∀ b, r.srcs[1]? = some b → (envAt s i).read (c.fibre f) f b 1 0 = .ok (Y f)) ∧
    (r.third = true → (envAt s i).readV (c.fibre f) f r.h.d.val 2 = .ok (Z f)) ∧
    (r.h.nw = false → (c.fibre f).strictV i.strict r.h.d.val = none) ∧ (c.fibre f).fpend = [] ∧
    r.value i.mod (Z f) (X f) (Y f) = some (V f, E f) ∧
    let on := fun k => (E f).getLsbD k && (c.fibre f).fstat.getLsbD (k + 8)
    match K f with
    | some k => k < 5 ∧ on k = true ∧ ∀ j, j < k → on j = false
    | none => ∀ k, k < 5 → on k = false

/-- What a lane word leaves when lanes trap (R64, R65): every selected lane has its flags in FSTAT; a lane that does not trap has its
result; one that traps keeps its registers and performs ARITH with the cause of its lowest enabled exception, its result going to D, or
nowhere with NW. -/
def LaneRule.Trapped (r : LaneRule) (w : Instr) (s : State) (i : Issue) (c : Crew) (V E : Nat → Word) (K : Nat → Option Nat) : Prop :=
  ∃ u c' latches, OnlyCrew s u i.crew ∧ kget u.crews i.crew = some c' ∧ c' = { c with fibres := c'.fibres } ∧
    (∀ f, f ∉ i.grp.fids → kget c'.fibres f = kget c.fibres f) ∧
    (∀ f ∈ i.grp.fids, ∃ y, kget c'.fibres f = some y ∧
      if f ∈ ((envAt s i).lanes r.h.g).sel then
        match K f with
        | none => WroteV i (c.fibre f) (passed i y) r.h.nw r.h.d.val (V f) (E f)
        | some _ => y = { c.fibre f with fstat := y.fstat, fpend := y.fpend } ∧ y.fstatNow = (c.fibre f).fstatNow ||| E f
      else y = c.fibre f) ∧
    exec w s = .next (u.endWord i latches false (((envAt s i).lanes r.h.g).sel.filterMap fun f => (K f).map fun k =>
      (f, { label := 4, cause := BitVec.ofNat 8 (0x20 + k), payload := BitVec.ofNat 32 (0x20 + k)
            dst := if r.h.nw then 0xFF else r.h.d.val, rpc := i.pc + 4 })))

/-- The canonical 57-bit range (R66). -/
def Canonical (a : Nat) : Prop := a < 2 ^ 56 ∨ (2 ^ 64 - 2 ^ 56 ≤ a ∧ a < 2 ^ 64)

/-- The target of a direct transfer (R129), modulo 2^64. -/
def directTo (i : Issue) (disp : BitVec 21) : Nat := (((i.pc : Int) + 4 * disp.toInt) % 2 ^ 64).toNat

/-- A pair as one number (R59). -/
def pairNat (p : Word × Word) : Nat := p.1.toNat + 2 ^ 32 * p.2.toNat

/-- Every selected fibre can read an operand pair, and the group passes the budget and split checks (R96, R128). -/
def ReadsPair (s : State) (i : Issue) (c : Crew) (g : Guard) (a : Sel) (X : Nat → Word × Word) : Prop :=
  0 < c.b ∧ selFits a c.b 2 = true ∧ (envAt s i).splitRead (selRegs a 2) = false ∧
    ∀ f ∈ ((envAt s i).lanes g).sel, (envAt s i).readPair (c.fibre f) f a 0 = .ok (X f)

/-- The state in which the selected fibres of a control word act one after another: the context is taken and every fibre of the group
stands at the next word. -/
def acting (s : State) (i : Issue) : State := (taken s).setPcs i.crew i.grp.fids (i.pc + 4)

/-- A group of a running crew of which strict mode refuses no fibre its guard's read. -/
def Ready (s : State) (i : Issue) (c : Crew) (g : Guard) : Prop := Issues s i c ∧ c.life = .running ∧ ((envAt s i).lanes g).bad = []

/-- Fibres of a list act one after another (R129), each from the state that the one before it leaves. -/
def OneByOne (act : State → Nat → State → Prop) : List Nat → State → State → Prop
  | [], a, z => z = a
  | f :: l, a, z => ∃ b, act a f b ∧ OneByOne act l b z

/-- After a control word each selected fibre is as after says, and the others stand at the next word. -/
def GroupEnds (w : Instr) (s : State) (i : Issue) (c : Crew) (g : Guard) (after : Nat → Fibre → Prop) : Prop :=
  ∃ t c', exec w s = .next t ∧ kget t.crews i.crew = some c' ∧ ∀ f ∈ i.grp.fids, ∃ x, kget c'.fibres f = some x ∧
    if f ∈ ((envAt s i).lanes g).sel then after f x else x = { passed i (c.fibre f) with st := x.st }

/-- None of K12 to K15 of a fibre counts (R130, R131). -/
def CalleesIdle (f : Fibre) : Prop := ∀ k, 12 ≤ k → k < 16 → (f.tok k).count = 0

/-- No token of a fibre counts or holds an error. -/
def TokensClear (f : Fibre) : Prop := ∀ k, k < 16 → (f.tok k).count = 0 ∧ (f.tok k).err = false

/-- A call of a fibre to an address (R130, R317): the header there allows the crew's budget, and a call segment is pushed. -/
def CallsTo (i : Issue) (target : Nat → Nat) (a : State) (f : Nat) (b : State) : Prop :=
  ∃ u v, a.checkHeader i (target f) = (u, none) ∧ u.pushSeg i.crew f 0 (i.pc + 4) true [] = (v, .ok ()) ∧ b = v.goTo i.crew f (target f)

/-- A fibre that has called an address. -/
def Called (f x : Fibre) (target : Nat) : Prop := x = { f with pc := target, seg := x.seg, depth := f.depth + 1, st := x.st }

/-- Every line with bytes that a core has yet to merge can be merged: its host has not refused it 8 times, and there is a way to its home
(R194, R214). -/
def Mergeable (s : State) : Prop :=
  ∀ a line, ((kget (s.agent a).l1 line).isSome = true ∨ (kget (s.agent a).wc line).isSome = true) → s.mergeCause line = none

/-- A group of one fibre of a running crew, which the guard selects. -/
def OneFibre (s : State) (i : Issue) (c : Crew) (g : Guard) (f : Nat) : Prop :=
  Issues s i c ∧ c.life = .running ∧ i.grp.fids = [f] ∧ (envAt s i).lanes g = ⟨[f], [], []⟩

/-- A fibre of a crew after a word, as after says. -/
def FibreEnds (w : Instr) (s : State) (i : Issue) (f : Nat) (after : Fibre → Prop) : Prop :=
  ∃ t c' x, exec w s = .next t ∧ kget t.crews i.crew = some c' ∧ kget c'.fibres f = some x ∧ after x

/-! ## Engine operations -/

/-- Every fibre of the group counts one operation more on a token (R132), stands at the next word and has not changed otherwise. -/
def Counted (i : Issue) (c c' : Crew) (k : Nat) (fids : List Nat) : Prop :=
  ∀ f ∈ i.grp.fids, ∃ x, kget c'.fibres f = some x ∧
    if f ∈ fids then
      x = { passed i (c.fibre f) with k := x.k } ∧
        x.tok k = { (c.fibre f).tok k with count := ((c.fibre f).tok k).count + 1 } ∧ ∀ n, n ≠ k → x.tok n = (c.fibre f).tok n
    else x = passed i (c.fibre f)

/-- A word puts an operation into flight for fibres of its group, on a token (R15, R132); registers and memories are unchanged. -/
def EngineStep (w : Instr) (s : State) (i : Issue) (c : Crew) (k : Nat) (fids : List Nat) (after : State → Crew → Nat → Op → Prop) : Prop :=
  ∃ t c' id o, exec w s = .next t ∧ kget t.crews i.crew = some c' ∧ kget t.ops id = some o ∧ o.issuer = i.crew ∧ o.stage = .issued ∧
    o.owners = fids.map (fun f => .fibre i.crew f k) ∧ Counted i c c' k fids ∧ c'.g = c.g ∧
    t.dev = s.dev ∧ t.host = s.host ∧ t.scratch = s.scratch ∧ after t c' id o

/-- The group is not empty, and every fibre of it can count on a token (R132). -/
def CanCount (c : Crew) (k : Nat) (fids : List Nat) : Prop :=
  fids ≠ [] ∧ ∀ f ∈ fids, ((c.fibre f).tok k).count < 63

/-- The send record of a BXSEND before its request (R291). -/
def sendOf (s : State) (i : Issue) (c : Crew) (gang : Gang) (p : BulkPlan) : Send :=
  { crew := i.crew, id := p.msgId c.gang gang.mine, addr := p.addr, len := p.len, pri := p.pri, since := s.tick }

/-- The state in which a BXSEND makes its request: counted on its token, with its operation in flight and its record. -/
def sendState (s : State) (i : Issue) (c : Crew) (gang : Gang) (k : Nat) (p : BulkPlan) : State :=
  let t := (((taken s).countOn i k i.grp.fids).1.bulkOp i k .send p.bar i.grp.fids).2
  { t with sends := kset t.sends s.nextId (sendOf s i c gang p) }

/-! ## Issue -/

/-- A step after a word of a core: what follows every step is done to the state that the word leaves; a word that changes a line which a
host must give up first is put off, with the snoops and requests sent (R214, R215). -/
def afterWord (s : State) (core : Nat) (o : Host.Outcome State Fault Refusal) : Host.Outcome State Fault Refusal :=
  match o with
  | .next u => .next (if newSnoops s u = [] then u else s.holdBack core (newSnoops s u)).settleStep
  | .fault f => .fault f
  | .refused r => .refused r

/-- A step after an event of a state: as after a word, but a change that waits for a host keeps its event. -/
def afterEvent (s : State) (o : Host.Outcome State Fault Refusal) : Host.Outcome State Fault Refusal :=
  match o with
  | .next u => .next (s.orSnoop u).settleStep
  | .fault f => .fault f
  | .refused r => .refused r

/-- The number of the group that a core's picker has chosen: a new one when it is formed now. -/
def chosenGid (s : State) (x : Cand) : Nat := x.gid.getD s.nextId

/-- The state in which the chosen group fetches (R30, R33): the group formed, and the core's marks of the pick set. -/
def picked (s : State) (core : Nat) (x : Cand) : State :=
  let t := if x.gid.isSome then s else s.formGroup x.crew x.pc x.fids
  (t.modCrew x.crew fun c => { c with firstIssue := some (c.firstIssue.getD t.tick) }).modCore core fun k =>
    { k with issued := true, lastCrew := some x.crew, lastPhase := (t.crew x.crew).phase.toNat }

/-- A core's picker chooses a group, and the word at the group's program counter is fetched (R33, R218). -/
def Fetches (s : State) (core : Nat) (x : Cand) (g : Group) (v : State) (w : Word) : Prop :=
  s.agenda = [] ∧ s.heldNow = none ∧ s.pickAny = some (core, x) ∧
    kget ((picked s core x).crew x.crew).groups (chosenGid s x) = some g ∧
    (picked s core x).fetchWord core ((picked s core x).crew x.crew).pasid g.pc = (v, .ok w) ∧
    ∀ f ∈ g.fids, ((v.crew x.crew).fibre f).poisoned = false

/-- A word's own-stream positions counted (R81). -/
def counted (s : State) (core : Nat) (x : Cand) (v : State) (w : Word) : State :=
  v.advance core x.crew (chosenGid s x) (weightOf w.toNat)

/-- The state in which a HINT word executes: with its context, which takes no pending hint. -/
def hintState (s : State) (core : Nat) (x : Cand) (g : Group) (v : State) (w : Word) : State :=
  let t := counted s core x v w
  { t with cur := some (t.issueOf core x.crew (chosenGid s x) g.pc w.toNat {}) }

/-- The state in which another word executes (R75, R76): the group's hints are consumed, a phase that they carry is the crew's, a mark
of a delivered race event is cleared, and the context holds the immediate and the MOD fields. -/
def wordState (s : State) (core : Nat) (x : Cand) (g : Group) (v : State) (w : Word) : State :=
  let gid := chosenGid s x
  let t := (counted s core x v w).modCrew x.crew fun c =>
    { c with groups := kmod c.groups gid fun y => { y with hints := {} }
             phase := match g.hints.sched with
               | some (_, true, p) => p
               | some (_, false, _) | none => c.phase }
  let u := t.modCore core fun k => { k with lastPhase := (t.crew x.crew).phase.toNat }
  let i := u.issueOf core x.crew gid g.pc w.toNat g.hints
  { u.modCrew x.crew fun c => { c with fibres := kmap c.fibres fun f y => if g.fids.contains f then { y with raced := false } else y }
      with cur := some i }

/-! ## Events -/

/-- No back-invalidate snoop goes before the change from s to u (R215). -/
def NoSnoop (s u : State) : Prop := newSnoops s u = []

/-- A fibre of a crew, which exist, where the crew is not in its image and the fibre not parked. -/
def Awake (s : State) (crew fid : Nat) (c : Crew) (f : Fibre) : Prop :=
  kget s.crews crew = some c ∧ kget c.fibres fid = some f ∧ f.st.isParked = false ∧ c.imaged = false

/-- A fibre after the completion of a memory request on its token (R133, R134): the token counts one operation less and keeps the first
error, and the destination registers hold the values where no lane has written since (R137). -/
def Completed (f x : Fibre) (r : MemReq) (cause : Option Cause) (vals : List Word) : Prop :=
  x = { f with v := x.v, vwin := x.vwin, pend := x.pend, k := x.k, merr := x.merr, attached := x.attached, read := x.read
               observed := x.observed } ∧
  x.tok r.k = { f.tok r.k with
    count := (f.tok r.k).count - 1
    err := (f.tok r.k).err || cause.isSome
    cause := if (f.tok r.k).err then (f.tok r.k).cause else cause.getD (f.tok r.k).cause } ∧
  (∀ k, k ≠ r.k → x.tok k = f.tok k) ∧ (∀ n, n < r.d ∨ r.d + vals.length ≤ n → x.getV n = f.getV n) ∧
  ((∀ n, kget f.wrote n = none) → ∀ j w, vals[j]? = some w → x.getV (r.d + j) = w)

/-- A memory request of an awake fibre completes: its operation is no more, and the fibre is as after a completion. -/
def Completes (e : Instr) (s : State) (op crew fid : Nat) (f : Fibre) (r : MemReq) (cause : Option Cause) (vals : List Word)
    (after : State → Prop) : Prop :=
  ∃ t c' x, exec e s = .next t ∧ kget t.ops op = none ∧ kget t.crews crew = some c' ∧ kget c'.fibres fid = some x ∧
    Completed f x r cause vals ∧ t.tick = s.tick ∧ t.pages = s.pages ∧ t.gangs = s.gangs ∧ t.queues = s.queues ∧ after t

/-- A memory request of an awake fibre that is ready to reach memory: nothing orders it later, and it follows no error (R161, R164, R200). -/
def ReadyMem (s : State) (op : Nat) (o : Op) (crew fid : Nat) (c : Crew) (f : Fibre) (r : MemReq) : Prop :=
  kget s.ops op = some o ∧ o.kind = .mem r crew fid ∧ o.stage = .issued ∧ Awake s crew fid c f ∧
    s.memHeld op o.core crew fid r = false ∧ s.hostStalled = false ∧ f.blocks r = false

/-- Bytes stand in a map of memory from an address on, and its other bytes are those of another. -/
def Stored (m m' : Nat → Byte) (a : Nat) (bs : List Byte) : Prop :=
  (∀ j b, bs[j]? = some b → m' (a + j) = b) ∧ ∀ x, x < a ∨ a + bs.length ≤ x → m' x = m x

/-- A map whose keys rise. -/
def Rising {α : Type} (m : KMap α) : Prop := m.Pairwise fun a b => a.1 < b.1

/-- The first node of the pool can go to its engine: it waits for no page, no gang of its graph has failed, its bytes are read, and it is
of a kind (R364, R367). -/
def Dispatches (s t : State) (graph node kind : Nat) (g : GraphRun) (bs : List Byte) : Prop :=
  kget s.graphs graph = some g ∧ s.pool.head? = some (graph, node) ∧ (graph, node) ∉ s.poolWait ∧ node ∉ g.running ∧ node ∉ g.rearm ∧
    s.nodeWaits graph node = false ∧ s.graphDead g = false ∧ s.engineRead (s.graphPasid g) (nodeVa g.addr node) 64 = (t, .ok bs) ∧ fieldLe bs 0 1 = kind

/-- A node has left the pool and does not run, and its work has ended. -/
def NodeEnded (t : State) (graph node : Nat) : Prop :=
  (graph, node) ∉ t.pool ∧ ∃ g tags, kget t.graphs graph = some g ∧ node ∉ g.running ∧ (node, tags) ∈ g.done

/-- A packet of a queue has this state and the bytes that it had, and no other packet of the queue has changed. -/
def PacketIs (s t : State) (q idx : Nat) (p : Packet) : Prop :=
  t.packet q idx = some p ∧ ∀ k, k ≠ idx → t.packet q k = s.packet q k

/-- A GO for a function waits in a head's mailbox, no earlier function of the other head on the same object is unanswered, its version is
agreed, and the bytes outside the named fields are 0 (R392, R414). -/
def GoWaits (s : State) (head func : Nat) (named : Mailbox → List (Nat × Nat)) (m : Mailbox) : Prop :=
  (s.head head).mail = m ∧ m.busy = true ∧ m.func = func ∧ s.mailTurn head = true ∧ m.agreed = true ∧ m.zerosBut (named m) = true

/-- A head's mailbox answers a status, with its payload changed at most (R392). -/
def Answers (t : State) (head status : Nat) (m : Mailbox) : Prop :=
  (t.head head).mail = { m with busy := false, status := status, payload := (t.head head).mail.payload }

/-- A TDI has left RUN or CONFIG_LOCKED as it now stands: each of its queues is DISABLED, and no packet of it goes on (R402). -/
def LeftRun (t : State) (key : Nat) (x : Tdi) : Prop :=
  kget t.tdis key = some x ∧ ∀ q ∈ x.queues, (t.queue q).state = .disabled ∧
    ∀ idx p, t.packet q idx = some p → p.state ≠ .accepted ∧ p.state ≠ .waiting ∧ p.state ≠ .running

/-- An operation is no more, and the token of its one owner counts one less and keeps the first error (R133, R134). -/
def TokenCounts (t : State) (id crew fid k : Nat) (f : Fibre) (cause : Option Cause) (more : Crew → Prop) : Prop :=
  kget t.ops id = none ∧ ∃ c' y, kget t.crews crew = some c' ∧ more c' ∧ kget c'.fibres fid = some y ∧ y = { f with k := y.k } ∧
    (y.tok k).count = (f.tok k).count - 1 ∧ (y.tok k).err = ((f.tok k).err || cause.isSome) ∧
    (y.tok k).cause = (if (f.tok k).err then (f.tok k).cause else cause.getD (f.tok k).cause) ∧ ∀ n, n ≠ k → y.tok n = f.tok n

/-- A copy of a running crew that runs on its engine, with one owner and no barrier, while no bank of its cluster is gated (R251). -/
def CopyRuns (s : State) (id crew fid k : Nat) (c : Crew) (f : Fibre) (o : Op) (x : CopyOp) : Prop :=
  Awake s crew fid c f ∧ c.life = .running ∧ kget s.ops id = some o ∧ o.kind = .copy x ∧ o.stage = .running ∧ o.issuer = crew ∧
    o.owners = [.fibre crew fid k] ∧ o.bar = none ∧ s.clusterGated (clusterOf o.core) = false ∧ s.pageWaits (.op id) = false

/-- Row k of a tile as XLOAD or XGATHER reads it (R245, R248): no element where it is out of bounds or of a lane that is not selected, and else
each code of the row in memory as a C16 or f32 code, with the scale codes of its blocks. -/
def RowIs (s t : State) (pasid : Nat) (x : CopyOp) (k : Nat) (row : List Nat × List Nat) : Prop :=
  let w := x.shape.fmt.width
  let elems := fun (bs : List Byte) (bit cols : Nat) (scale : Nat → Nat) =>
    (List.range cols).map fun j => loadElem x.shape.fmt x.shape.acc x.rnd (scale j) (leNat bs / 2 ^ (bit + j * w) % 2 ^ w)
  if x.fn = 3 then
    match x.lanes.find? fun l => l.1 == k with
    | none => t = s ∧ row = ([], [])
    | some l => ∃ bs, s.engineRead pasid l.2 (ceilDiv (dim x.shape.tx 0 * w) 8) = (t, .ok bs) ∧
        row = (elems bs 0 (dim x.shape.tx 0) fun _ => 127, [])
  else
    match x.shape.row k with
    | none => t = s ∧ row = ([], [])
    | some (va, cols, plane) =>
      let lo := dim x.shape.org 0 * w
      ∃ u bs ss, s.engineRead pasid (va + lo / 8) (ceilDiv (lo + cols * w) 8 - lo / 8) = (u, .ok bs) ∧
        (if x.shape.sbase = 0 then t = u ∧ ss = [] else u.engineRead pasid plane (ceilDiv cols 32) = (t, .ok ss)) ∧
        row = (elems bs (lo % 8) cols fun j => ((ss.map BitVec.toNat).getD (j / 32) 127), ss.map BitVec.toNat)

/-- Rows of a tile read one after the other. -/
def RowsAre (s : State) (pasid : Nat) (x : CopyOp) : List Nat → List (List Nat × List Nat) → State → Prop
  | [], rows, t => rows = [] ∧ t = s
  | k :: ks, rows, t => ∃ u row rest, rows = row :: rest ∧ RowIs s u pasid x k row ∧ RowsAre u pasid x ks rest t

/-- The footprint that a copy with a scratchpad destination builds (R245, R247 to R249): XFILL's pattern, XMOVE's source, or the tile of the
rows that XLOAD and XGATHER read. -/
def TileIs (s t : State) (o : Op) (c : Crew) (x : CopyOp) (bs : List Byte) : Prop :=
  let n := tileBytes x.acc x.rows
  (x.fn = 4 ∧ t = s ∧ x.acc = true ∧ bs = (List.range (128 * x.rows)).flatMap fun _ => leBytes 4 x.pattern.toNat) ∨
  (x.fn = 4 ∧ t = s ∧ x.acc = false ∧ bs = ((List.range (128 * x.rows)).flatMap fun _ => leBytes 2 (x.pattern.toNat % 65536)) ++
    (List.range (4 * x.rows)).map fun _ => 0x7F) ∨
  (x.fn = 2 ∧ t = s ∧ s.scratchPoison (clusterOf o.core) (c.segScratch.base + x.src) n = false ∧
    bs = s.readScratch (clusterOf o.core) (c.segScratch.base + x.src) n) ∨
  ((x.fn = 0 ∨ x.fn = 3) ∧ ∃ rows, RowsAre s c.pasid x (List.range x.recRows) rows t ∧
    bs = if x.shape.acc then f32Tile (rows.map Prod.fst) else c16Tile rows)

/-- A matrix operation at the head of the queue of its crew's one claim, which holds the one granted pair of a cluster and no result buffer, with
one owner and no barrier (R261). -/
def MatReady (s : State) (cluster crew fid k id pair : Nat) (q : Claim) (c : Crew) (f : Fibre) (o : Op) (m : MatOp) : Prop :=
  Awake s crew fid c f ∧ s.clusterGated cluster = false ∧ pair < 4 ∧ (s.cluster cluster).pairs = [(pair, crew)] ∧ c.claims = [q] ∧
    q.pair = some pair ∧ q.queue = [id] ∧ q.bufs = [] ∧ c.life = .running ∧ kget s.ops id = some o ∧ o.kind = .matrix m none ∧
    o.owners = [.fibre crew fid k] ∧ o.bar = none ∧ clusterOf o.core = cluster ∧ clusterOf c.core = cluster

/-- A matrix operation has ended with a result of len bytes (R277, R278): with PUB they are in the scratchpad, and without it in a result
buffer of the claim. -/
def MatResult (s t : State) (cluster crew fid k id : Nat) (q : Claim) (c : Crew) (f : Fibre) (o : Op) (m : MatOp) (len : Nat)
    (bytes : List Byte) : Prop :=
  t.dev = s.dev ∧ t.host = s.host ∧
    TokenCounts t id crew fid k f none (fun c' => c'.claims =
      [{ q with queue := [], bufs := if m.pub then [] else [⟨m.toff, bytes, len, o.owners, id⟩] }]) ∧
    if m.pub then Stored (memRead s.scratch) (memRead t.scratch) (scratchKey cluster (c.segScratch.base + m.toff)) (bytes.take len)
    else t.scratch = s.scratch

/-- An event's result, in which only what after names has changed. -/
def Becomes (e : Instr) (s : State) (after : State → Prop) : Prop := ∃ t, exec e s = .next t ∧ after t

end Sys2Proof.Terms
end

