-- ==== Sys2Proof/Certificates/Slice0/Rules.lean ====
section
/-! DEFINITION. What the tables of the spec's arithmetic chapter give for each lane word: latency, operands and result. -/

namespace Sys2Proof.Terms

open Sys2Proof.Machine

/-- The low 32 bits of a number. -/
def low32 (x : Int) : Word := BitVec.ofInt 32 x

/-- A number clamped to the s32 range, as 32 bits (R9). -/
def clampS (x : Int) : Word := low32 (max (-2147483648) (min 2147483647 x))

/-- A result that SAT clamps (R99): the exact signed number. -/
def signedSum (m : Mod) (x : Int) : Word := if m.sat then clampS x else low32 x

/-- The position and the width that the control word of a field names (R100). -/
def fieldPos (b : Word) : Nat := (b.extractLsb' 0 5).toNat
/-- The width of a field (R100). -/
def fieldWidth (b : Word) : Nat := (b.extractLsb' 8 6).toNat

/-- A result that R100 gives when the field lies in the word. -/
def inField (b x : Word) : Option Word :=
  if fieldWidth b ≤ 32 ∧ fieldPos b + fieldWidth b ≤ 32 then some x else none

/-- The unsigned field of a word. -/
def fieldOf (a b : Word) : Nat := a.toNat / 2 ^ fieldPos b % 2 ^ fieldWidth b

/-- A word of one operand without exceptions. -/
def rule1 (h : LaneHdr) (lat : Nat) (a : Sel) (k : Mod → Word → Word) : LaneRule :=
  { h := h, lat := lat, srcs := [a], third := false, value := fun m _ x _ => some (k m x, 0) }

/-- A word of two operands without exceptions. -/
def rule2 (h : LaneHdr) (lat : Nat) (a b : Sel) (k : Mod → Word → Word → Word) : LaneRule :=
  { h := h, lat := lat, srcs := [a, b], third := false, value := fun m _ x y => some (k m x y, 0) }

/-- The integer words (R98 to R100), MOVI (R68) and PACK (R108). -/
def intRule : Instr → Option LaneRule
  | .iadd h a b => some (rule2 h 2 a b fun m x y => signedSum m (x.toInt + y.toInt))
  | .isub h a b => some (rule2 h 2 a b fun m x y => signedSum m (x.toInt - y.toInt))
  | .imul h a b => some (rule2 h 4 a b fun m x y => signedSum m (x.toInt * y.toInt))
  | .imulhs h a b => some (rule2 h 4 a b fun _ x y => low32 (x.toInt * y.toInt / 2 ^ 32))
  | .imulhz h a b => some (rule2 h 4 a b fun _ x y => low32 ((x.toNat : Int) * y.toNat / 2 ^ 32))
  | .imad h a b => some { h := h, lat := 4, srcs := [a, b], third := true,
                          value := fun m d x y => some (signedSum m (d.toInt + x.toInt * y.toInt), 0) }
  | .imins h a b => some (rule2 h 2 a b fun _ x y => if x.toInt ≤ y.toInt then x else y)
  | .imaxs h a b => some (rule2 h 2 a b fun _ x y => if x.toInt ≥ y.toInt then x else y)
  | .iminz h a b => some (rule2 h 2 a b fun _ x y => if x.toNat ≤ y.toNat then x else y)
  | .imaxz h a b => some (rule2 h 2 a b fun _ x y => if x.toNat ≥ y.toNat then x else y)
  | .iabs h a => some (rule1 h 2 a fun m x => signedSum m x.toInt.natAbs)
  | .andL h a b => some (rule2 h 2 a b fun _ x y => x &&& y)
  | .orL h a b => some (rule2 h 2 a b fun _ x y => x ||| y)
  | .xorL h a b => some (rule2 h 2 a b fun _ x y => x ^^^ y)
  | .andn h a b => some (rule2 h 2 a b fun _ x y => x &&& ~~~y)
  | .shl h a b => some (rule2 h 2 a b fun _ x y => low32 (x.toNat * 2 ^ y.toNat))
  | .shr h a b => some (rule2 h 2 a b fun _ x y => low32 (x.toNat / 2 ^ y.toNat))
  | .sar h a b => some (rule2 h 2 a b fun _ x y => low32 (x.toInt / 2 ^ min y.toNat 31))
  | .rol h a b => some (rule2 h 2 a b fun _ x y => x.rotateLeft (y.toNat % 32))
  | .bfxz h a b => some { h := h, lat := 2, srcs := [a, b], third := false,
                          value := fun _ _ x y => (inField y (low32 (fieldOf x y))).map (·, 0) }
  | .bfxs h a b => some { h := h, lat := 2, srcs := [a, b], third := false,
                          value := fun _ _ x y => (inField y (low32 ((fieldOf x y : Int) -
                            if 0 < fieldWidth y ∧ 2 ^ (fieldWidth y - 1) ≤ fieldOf x y then 2 ^ fieldWidth y else 0))).map (·, 0) }
  | .bfi h a b => some { h := h, lat := 2, srcs := [a, b], third := true,
                         value := fun _ d x y => (inField y (low32 (d.toNat +
                           ((x.toNat % 2 ^ fieldWidth y : Nat) - (fieldOf d y : Int)) * 2 ^ fieldPos y))).map (·, 0) }
  | .popc h a => some (rule1 h 2 a fun _ x => low32 ((List.range 32).filter fun k => x.getLsbD k).length)
  | .clz h a => some (rule1 h 2 a fun _ x => low32 (32 - Nat.size x.toNat : Nat))
  | .brev h a => some (rule1 h 2 a fun _ x => x.reverse)
  | .mov h a => some (rule1 h 2 a fun _ x => x)
  | .iaddi h a imm => some (rule1 h 2 a fun m x => signedSum m (x.toInt + imm.toInt))
  | .shli h a imm => if imm.toNat < 32 then some (rule1 h 2 a fun _ x => low32 (x.toNat * 2 ^ imm.toNat)) else none
  | .shri h a imm => if imm.toNat < 32 then some (rule1 h 2 a fun _ x => low32 (x.toNat / 2 ^ imm.toNat)) else none
  | .sari h a imm => if imm.toNat < 32 then some (rule1 h 2 a fun _ x => low32 (x.toInt / 2 ^ imm.toNat)) else none
  | .movi h imm => some { h := h, lat := 2, srcs := [], third := false, value := fun _ _ _ _ => some (low32 imm.toInt, 0) }
  | .pack h a b => some (rule2 h 4 a b fun _ x y => low32 (x.toNat % 2 ^ 16 + 2 ^ 16 * (y.toNat % 2 ^ 16)))
  | _ => none

/-- A rounded result with its exceptions, of one operand. -/
def frule1 (h : LaneHdr) (lat : Nat) (a : Sel) (k : Mod → Nat → Nat × Word) : LaneRule :=
  { h := h, lat := lat, srcs := [a], third := false, value := fun m _ x _ => some (low32 (k m x.toNat).1, (k m x.toNat).2) }

/-- A rounded result with its exceptions, of two operands. -/
def frule2 (h : LaneHdr) (lat : Nat) (a b : Sel) (k : Mod → Nat → Nat → Nat × Word) : LaneRule :=
  { h := h, lat := lat, srcs := [a, b], third := false,
    value := fun m _ x y => some (low32 (k m x.toNat y.toNat).1, (k m x.toNat y.toNat).2) }

/-- The f32 words (R101 to R104). -/
def floatRule : Instr → Option LaneRule
  | .fadd h a b => some (frule2 h 4 a b fun m => fadd f32 m.rm)
  | .fsub h a b => some (frule2 h 4 a b fun m => fsub f32 m.rm)
  | .fmul h a b => some (frule2 h 4 a b fun m => fmul f32 m.rm)
  | .ffma h a b => some { h := h, lat := 4, srcs := [a, b], third := true,
                          value := fun m d x y => some (low32 (ffma f32 m.rm d.toNat x.toNat y.toNat).1,
                            (ffma f32 m.rm d.toNat x.toNat y.toNat).2) }
  | .fmin h a b => some (frule2 h 4 a b fun _ => fminmax f32 false)
  | .fmax h a b => some (frule2 h 4 a b fun _ => fminmax f32 true)
  | .fabs h a => some (rule1 h 4 a fun _ x => low32 (x.toNat % 2 ^ 31 : Nat))
  | .fneg h a => some (rule1 h 4 a fun _ x => low32 (x.toNat + 2 ^ 31))
  | .frcp h a => some { h := h, lat := 12, srcs := [a], third := false, value := fun _ _ x _ => some (low32 (apRcp x).1, (apRcp x).2) }
  | .frsq h a => some { h := h, lat := 12, srcs := [a], third := false, value := fun _ _ x _ => some (low32 (apRsq x).1, (apRsq x).2) }
  | .fsqrt h a => some (frule1 h 12 a fun m => fsqrt f32 m.rm)
  | .fdiv h a b => some (frule2 h 16 a b fun m => fdiv f32 m.rm)
  | .fex2 h a => some { h := h, lat := 12, srcs := [a], third := false, value := fun _ _ x _ => some (low32 (apEx2 x).1, (apEx2 x).2) }
  | .flg2 h a => some { h := h, lat := 12, srcs := [a], third := false, value := fun _ _ x _ => some (low32 (apLg2 x).1, (apLg2 x).2) }
  | .fsin h a => some { h := h, lat := 12, srcs := [a], third := false,
                        value := fun _ _ x _ => some (low32 (apTrig false x).1, (apTrig false x).2) }
  | .fcos h a => some { h := h, lat := 12, srcs := [a], third := false,
                        value := fun _ _ x _ => some (low32 (apTrig true x).1, (apTrig true x).2) }
  | .frnd h a => some (frule1 h 4 a fun m => frnd f32 m.rm)
  | .fcpys h a b => some (rule2 h 4 a b fun _ x y => low32 (x.toNat % 2 ^ 31 + 2 ^ 31 * (y.toNat / 2 ^ 31)))
  | _ => none

/-- Two 16-bit results side by side, with the union of their exceptions (R105). -/
def pairRes (lo hi : Nat × Word) : Word × Word := (low32 (lo.1 % 2 ^ 16 + 2 ^ 16 * (hi.1 % 2 ^ 16)), lo.2 ||| hi.2)

/-- A packed word of two operands: the operation on the low halves and on the high halves (R105). -/
def prule2 (h : LaneHdr) (a b : Sel) (k : Mod → Nat → Nat → Nat × Word) : LaneRule :=
  { h := h, lat := 4, srcs := [a, b], third := false,
    value := fun m _ x y => some (pairRes (k m (x.toNat % 2 ^ 16) (y.toNat % 2 ^ 16)) (k m (x.toNat / 2 ^ 16) (y.toNat / 2 ^ 16))) }

/-- A packed fused operation of d, a and b (R105). -/
def prule3 (h : LaneHdr) (a b : Sel) (F : Fmt) : LaneRule :=
  { h := h, lat := 4, srcs := [a, b], third := true,
    value := fun m d x y => some (pairRes (ffma F m.rm (d.toNat % 2 ^ 16) (x.toNat % 2 ^ 16) (y.toNat % 2 ^ 16))
      (ffma F m.rm (d.toNat / 2 ^ 16) (x.toNat / 2 ^ 16) (y.toNat / 2 ^ 16))) }

/-- The packed words (R105). -/
def packedRule : Instr → Option LaneRule
  | .hadd2 h a b => some (prule2 h a b fun m => fadd f16 m.rm)
  | .hmul2 h a b => some (prule2 h a b fun m => fmul f16 m.rm)
  | .hfma2 h a b => some (prule3 h a b f16)
  | .hmin2 h a b => some (prule2 h a b fun _ => fminmax f16 false)
  | .hmax2 h a b => some (prule2 h a b fun _ => fminmax f16 true)
  | .badd2 h a b => some (prule2 h a b fun m => fadd c16 m.rm)
  | .bmul2 h a b => some (prule2 h a b fun m => fmul c16 m.rm)
  | .bfma2 h a b => some (prule3 h a b c16)
  | .bmin2 h a b => some (prule2 h a b fun _ => fminmax c16 false)
  | .bmax2 h a b => some (prule2 h a b fun _ => fminmax c16 true)
  | _ => none

/-- What a rounded conversion leaves. -/
def conv (r : Nat × Word) : Option (Word × Word) := some (low32 r.1, r.2)

/-- The results of CVT's codes that read and write one register (R106). -/
def cvtOne (code rm : Nat) (x : Word) : Option (Word × Word) :=
  let lo := x.toNat % 2 ^ 16
  let hi := x.toNat / 2 ^ 16
  match code with
  | 0x00 => conv (ofInt f32 rm x.toInt)
  | 0x01 => conv (ofInt f32 rm x.toNat)
  | 0x02 => some (toInt32 f32 true rm x.toNat)
  | 0x03 => some (toInt32 f32 false rm x.toNat)
  | 0x04 => conv (fconv f16 f32 rm lo)
  | 0x05 => conv (fconv f16 f32 rm hi)
  | 0x06 => conv (fconv c16 f32 rm lo)
  | 0x07 => conv (fconv c16 f32 rm hi)
  | 0x08 => conv (fconv f32 f16 rm x.toNat)
  | 0x09 => conv (fconv f32 c16 rm x.toNat)
  | 0x0A => conv (fconv c16 f16 rm lo)
  | 0x0B => conv (fconv f16 c16 rm lo)
  | 0x0C => some (pairRes (fconv c16 f16 rm lo) (fconv c16 f16 rm hi))
  | 0x0D => some (pairRes (fconv f16 c16 rm lo) (fconv f16 c16 rm hi))
  | 0x0E => some (toInt32 f16 true rm lo)
  | 0x0F => some (toInt32 f16 false rm lo)
  | 0x10 => some (toInt32 c16 true rm lo)
  | 0x11 => some (toInt32 c16 false rm lo)
  | 0x12 => conv (ofInt f16 rm x.toInt)
  | 0x13 => conv (ofInt f16 rm x.toNat)
  | 0x14 => conv (ofInt c16 rm x.toInt)
  | 0x15 => conv (ofInt c16 rm x.toNat)
  | _ => none

/-- CVT with a code that reads and writes one register. -/
def cvtRule : Instr → Option LaneRule
  | .cvt h a code => if code.val < 0x16 then
      some { h := h, lat := 4, srcs := [a], third := false, value := fun m _ x _ => cvtOne code.val m.rm x }
    else none
  | _ => none

/-- The results of CVT's codes that write or read a pair (R106), from the pair that the operand delivers. -/
def cvtPair (code rm : Nat) (x hi : Word) : Option LaneOut :=
  match code with
  | 0x16 => some { lo := x, hi := some (if x.toInt < 0 then 0xFFFFFFFF else 0) }
  | 0x17 => some { lo := x, hi := some 0 }
  | 0x18 => let r := pairRes (fconv f32 f16 rm x.toNat) (fconv f32 f16 rm hi.toNat); some { lo := r.1, exc := r.2 }
  | 0x19 => let r := pairRes (fconv f32 c16 rm x.toNat) (fconv f32 c16 rm hi.toNat); some { lo := r.1, exc := r.2 }
  | _ => none

/-- Byte n of a pair, or 0x00 and 0xFF for the codes 8 and 9 (R109). -/
def pickByte (lo hi : Word) (n : Nat) : Option (BitVec 8) :=
  if n < 8 then some ((hi ++ lo).extractLsb' (8 * n) 8) else if n = 8 then some 0 else if n = 9 then some 0xFF else none

/-- PRM's result (R109): byte k is chosen by nibble k of the control word. -/
def prmWord (lo hi b : Word) : Option Word :=
  match pickByte lo hi (b.extractLsb' 0 4).toNat, pickByte lo hi (b.extractLsb' 4 4).toNat, pickByte lo hi (b.extractLsb' 8 4).toNat,
      pickByte lo hi (b.extractLsb' 12 4).toNat with
  | some b0, some b1, some b2, some b3 => some (b3 ++ b2 ++ b1 ++ b0)
  | _, _, _, _ => none

/-- The special registers (R41), in the order of their numbers. -/
def special (s : State) (i : Issue) (c : Crew) (f : Fibre) (fid reg : Nat) : Nat :=
  let l := ((kget s.gangs c.gang).map Gang.launch).getD {}
  match reg with
  | 0 => fid
  | 1 => fid % 64
  | 2 => c.x
  | 3 => c.y
  | 4 => c.z
  | 5 => c.stage
  | 6 => l.gx
  | 7 => l.gy
  | 8 => l.gz
  | 9 => ((kget s.gangs c.gang).map fun g => g.chipNumber s.sysId).getD 0
  | 10 => dieOf i.core
  | 11 => clusterOf i.core % 24
  | 12 => positionOf i.core
  | 13 => s.tick
  | 14 => f.tickhi.toNat
  | 15 => (s.core i.core).cycle
  | 16 => c.b
  | 17 => f.fstat.toNat
  | _ => c.phase.toNat

/-- The relation of two numbers that a condition names (R79). -/
def relInt (cc : Cond) (x y : Int) : Bool :=
  match cc with
  | .eq => x = y
  | .ne => x ≠ y
  | .lt => x < y
  | .le => x ≤ y
  | .gt => x > y
  | .ge => x ≥ y
  | .ord | .uno | .ueq | .ult | .ule | .ugt | .uge => false

/-- The compares (R110): header, operands, and the truth value with the exceptions. -/
def compareRule : Instr → Option (CmpHdr × Sel × Sel × (Word → Word → Bool × Word))
  | .icmps h a b => some (h, a, b, fun x y => (relInt h.cc x.toInt y.toInt, 0))
  | .icmpz h a b => some (h, a, b, fun x y => (relInt h.cc x.toNat y.toNat, 0))
  | .fcmp h a b => some (h, a, b, fun x y => fcmpRel h.cc x.toNat y.toNat)
  | .itst h a b => some (h, a, b, fun x y => (relInt h.cc (x &&& y).toNat 0, 0))
  | _ => none

/-- The stack of a selected lane after a compare (R111). -/
def afterCompare (pm : PushMode) (p : BitVec 7) (r : Bool) : Nat → Bool :=
  match pm with
  | .push => pushed p r
  | .pushn => pushed p !r
  | .repl => fun d => if d = 0 then r else p.getLsbD d
  | .and => fun d => if d = 0 then p.getLsbD 0 && r else p.getLsbD d
  | .or => fun d => if d = 0 then p.getLsbD 0 || r else p.getLsbD d

/-- The words of PSTK (R113): the guard, and the entries after the word from those before. -/
def stackRule : Instr → Option (Guard × ((Nat → Bool) → Nat → Bool))
  | .pdup g => some (g, fun p d => if d = 0 then p 0 else p (d - 1))
  | .pdrop g => some (g, fun p d => if d = 6 then false else p (d + 1))
  | .pnot g => some (g, fun p d => if d = 0 then !p 0 else p d)
  | .pand g => some (g, fun p d => if d = 0 then p 0 && p 1 else if d = 6 then false else p (d + 1))
  | .por g => some (g, fun p d => if d = 0 then p 0 || p 1 else if d = 6 then false else p (d + 1))
  | .pxor g => some (g, fun p d => if d = 0 then p 0 != p 1 else if d = 6 then false else p (d + 1))
  | .pswap g => some (g, fun p d => if d = 0 then p 1 else if d = 1 then p 0 else p d)
  | .pset0 g => some (g, fun p d => if d = 0 then false else p (d - 1))
  | .pset1 g => some (g, fun p d => if d = 0 then true else p (d - 1))
  | _ => none

/-- The words of XCHG (R115): guard, destination, operand, and the source lane of a lane as a number, from V[D] for IDX. -/
def exchangeRule : Instr → Option (Guard × Fin 64 × Sel × Bool × (Nat → Word → Int))
  | .xchgIdx g d a => some (g, d, a, true, fun _ v => (v.toNat % 64 : Nat))
  | .xchgUp g d a k => some (g, d, a, false, fun l _ => (l : Int) - (k.val + 1))
  | .xchgDown g d a k => some (g, d, a, false, fun l _ => (l : Int) + (k.val + 1))
  | .xchgBfly g d a k => some (g, d, a, false, fun l _ => ((l ^^^ (k.val + 1) : Nat) : Int))
  | _ => none

/-- The words of VOTE over a predicate (R116): guard, register, depth, and the value from the predicates of the selected lanes. -/
def voteRule : Instr → Option (Guard × Fin 32 × BitVec 7 × (List Bool → Nat))
  | .voteAll g d p => some (g, d, p, fun l => if ∀ x ∈ l, x = true then 1 else 0)
  | .voteAny g d p => some (g, d, p, fun l => if ∃ x ∈ l, x = true then 1 else 0)
  | .voteBal g d p => some (g, d, p, fun l => l.count true)
  | _ => none

/-- The words that write an index register (R118, R119): guard, register, operand, and the register after the word from the one before,
for the crew's budget; none where the spec gives a fault. -/
def indexRule : Instr → Option (Guard × Fin 4 × Sel × (Nat → XReg → Word → Option XReg))
  | .xdef g x base b => some (g, x, b, fun budget _ v =>
      if v.toNat ≤ 1023 ∧ base.val + v.toNat ≤ budget then some ⟨base.val, v.toNat, 0⟩ else none)
  | .xset g x a => some (g, x, a, fun _ r v => if v.toNat ≤ 1023 then some { r with index := v.toNat } else none)
  | .xadd g x a => some (g, x, a, fun _ r v =>
      let n := (r.index : Int) + v.toInt
      if 0 ≤ n ∧ n ≤ 1023 then some { r with index := n.toNat } else none)
  | _ => none

/-- The uniform words (R124, R127): destination, operands, whether G[d] is read, and the value from the crew's constant window, the
MOD hint, G[d], a and b; none where the spec gives a fault. -/
def uniformRule : Instr → Option (Fin 32 × Sel × Sel × Bool × (List Byte → Mod → Word → Word → Word → Option Word))
  | .uadd d a b => some (d, a, b, false, fun _ m _ x y => some (signedSum m (x.toInt + y.toInt)))
  | .usub d a b => some (d, a, b, false, fun _ m _ x y => some (signedSum m (x.toInt - y.toInt)))
  | .umul d a b => some (d, a, b, false, fun _ m _ x y => some (signedSum m (x.toInt * y.toInt)))
  | .umad d a b => some (d, a, b, true, fun _ m g x y => some (signedSum m (g.toInt + x.toInt * y.toInt)))
  | .uand d a b => some (d, a, b, false, fun _ _ _ x y => some (x &&& y))
  | .uor d a b => some (d, a, b, false, fun _ _ _ x y => some (x ||| y))
  | .uxor d a b => some (d, a, b, false, fun _ _ _ x y => some (x ^^^ y))
  | .ushl d a b => some (d, a, b, false, fun _ _ _ x y => some (low32 (x.toNat * 2 ^ y.toNat)))
  | .ushr d a b => some (d, a, b, false, fun _ _ _ x y => some (low32 (x.toNat / 2 ^ y.toNat)))
  | .usar d a b => some (d, a, b, false, fun _ _ _ x y => some (low32 (x.toInt / 2 ^ min y.toNat 31)))
  | .umov d a => some (d, a, .int 0, false, fun _ _ _ x _ => some x)
  | .uaddi d a imm => some (d, a, .int 0, false, fun _ m _ x _ => some (signedSum m (x.toInt + imm.toInt)))
  | .usel d a b => some (d, a, b, true, fun _ _ g x y => some (if g ≠ 0 then x else y))
  | .uld d a b => some (d, a, b, false, fun w _ _ x y =>
      let o := x.toNat + y.toNat
      if o % 4 = 0 ∧ o + 4 ≤ w.length then some (w.getD (o + 3) 0 ++ w.getD (o + 2) 0 ++ w.getD (o + 1) 0 ++ w.getD o 0) else none)
  | _ => none

/-- The uniform compares (R125): push mode, operands and relation. -/
def uniformCompare : Instr → Option (PushMode × Sel × Sel × (Word → Word → Bool))
  | .ucmps cc pm a b => some (pm, a, b, fun x y => relInt cc x.toInt y.toInt)
  | .ucmpz cc pm a b => some (pm, a, b, fun x y => relInt cc x.toNat y.toNat)
  | _ => none

/-- The unguarded words of the copy engine (R242): function, token, operand, G register, and whether it is read as a pair. -/
def copyRule (m : Mod) : Instr → Option (Nat × Nat × Option Sel × Nat × Bool)
  | .xload h => some (0, h.k.val, some h.a, h.c.val, false)
  | .xstore h => some (1, h.k.val, some h.a, h.c.val, m.rsd)
  | .xmove h => some (2, h.k.val, some h.a, h.c.val, true)
  | .xfill h => some (4, h.k.val, some h.a, h.c.val, true)
  | .xpub k c => some (5, k.val, none, c.val, false)
  | _ => none

/-- The words that enter a granted or pending claim's queue (R260, R262): function, token, operand and G register. -/
def matrixRule : Instr → Option (Nat × Nat × Option (Sel × Nat))
  | .mrel k => some (1, k.val, none)
  | .mldw h => some (2, h.k.val, some (h.a, h.c.val))
  | .mswap k => some (3, k.val, none)
  | .mstream h => some (4, h.k.val, some (h.a, h.c.val))
  | .mzero h => some (5, h.k.val, some (h.a, h.c.val))
  | .mstore h => some (6, h.k.val, some (h.a, h.c.val))
  | _ => none

/-! ## Hints -/

/-- The pending set after a HINT word, of each kind, and whether its kind was pending before (R73, R76). -/
def hintRule (h : Hints) : Instr → Option (Bool × Hints)
  | .hintImm v => some (h.imm.isSome, { h with imm := some v })
  | .hintImmx v => some (h.immx.isSome, { h with immx := some v })
  | .hintMod hi emod strict cp scope ord sat rm => some (h.mod.isSome,
      { h with mod := some (hi ++ emod ++ BitVec.ofBool strict ++ cp ++ scope ++ ord ++ BitVec.ofBool sat ++ rm) })
  | .hintSched long pv phase => some (h.sched.isSome, { h with sched := some (long, pv, phase) })
  | .hintDly _ => some (h.dly, { h with dly := true })
  | _ => none

end Sys2Proof.Terms
end

