-- ==== Sys2Proof/Certificates/Slice0/Obligations.lean ====
section
/-! DEFINITION. The statements about the machine that the provers are given. -/

open Sys2Proof Sys2Proof.Machine Sys2Proof.Terms

/-! ## Encoding and steps -/

/-- Decoding the word of any well-formed instruction that has one gives the instruction back, with every operand (R66 to R80). -/
def Obligations.DecodeEncode : Prop :=
  ∀ i : Instr, i.isWord = true → i.wellFormed = true → decodeWord (encodeWord i) = .ok i

/-- A word that decodes is the one word of its instruction, and the instruction is well-formed: no bit of a legal word is ignored (R67). -/
def Obligations.EncodeDecode : Prop :=
  ∀ (w : Nat) (i : Instr), w < 2 ^ 32 → decodeWord w = .ok i → i.isWord = true ∧ i.wellFormed = true ∧ encodeWord i = w

/-- Words that the spec prints decode to the instructions it prints beside them. -/
def Obligations.PrintedWords : Prop :=
  decodeWord 0x020040FF = .ok (.iadd ⟨.all, false, 1⟩ (.v 1) .imm) ∧
  decodeWord 0x4000C0C2 = .ok (.fadd ⟨.all, false, 3⟩ (.v 1) (.g 2)) ∧
  decodeWord 0x45418305 = .ok (.fmul ⟨.ifP 2, false, 6⟩ (.v 6) (.v 5)) ∧
  decodeWord 0xB8200004 = .ok (.bra (.unlessP 0) 4) ∧
  decodeWord 0xD4062028 = .ok (.ldg ⟨.all, 3, 4, .v 2⟩ .w32) ∧
  decodeWord 0xB91FFFFB = .ok (.bra (.ifP 0) (-5)) ∧
  decodeWord 0x46008184 = .ok (.ffma ⟨.all, false, 2⟩ (.v 3) (.v 4)) ∧
  decodeWord 0xAE052A01 = .ok (.uaddi 20 (.g 20) 1) ∧
  decodeWord 0xB0222A41 = .ok (.ucmps .lt .repl (.g 20) (.g 1)) ∧
  decodeWord 0xFC800088 = .ok (.hintMod 0 0 false 0 2 1 false 0) ∧
  decodeWord 0xFD000000 = .ok (.hintDly 0) ∧
  decodeWord 0xC0000000 = .ok (.ret .all) ∧
  decodeWord 0xC4000002 = .ok (.split .all 2) ∧
  decodeWord 0xC8060000 = .ok (.wait .all 3 0) ∧
  decodeWord 0xD0014180 = .ok (.tkrd ⟨.all, false, 5⟩ 3) ∧
  decodeWord 0xCA002028 = .ok (.waitmem .all 4 (.v 2) false) ∧
  decodeWord 0xCC041D80 = .ok (.bari .all 2 (.int 6)) ∧
  decodeWord 0xCE004380 = .ok (.qput .all 1 (.v 7)) ∧
  decodeWord 0xD2000000 = .ok .nop ∧
  decodeWord 0xE600A000 = .ok (.fence .all .rel .system) ∧
  decodeWord 0xE80C18A2 = .ok (.allowTake ⟨.all, 6, 3, .v 10⟩) ∧
  decodeWord 0xD804443C = .ok (.ldx ⟨.all, 2, 8, .g 3⟩ .w128) ∧
  decodeWord 0xE208302A = .ok (.atom ⟨.all, 4, 6, .v 2⟩ .cas) ∧
  decodeWord 0xEA0E2026 = .ok (.cacheIcinv ⟨.all, 7, 4, .v 2⟩) ∧
  decodeWord 0x8C044003 = .ok (.voteBal .all 17 0) ∧
  decodeWord 0x8A0488FF = .ok (.xchgBfly .all 18 (.v 17) 31) ∧
  decodeWord 0xEC0C3FD4 = .ok (.xstore ⟨6, .imm, 20⟩) ∧
  decodeWord 0xED026086 = .ok (.xgather ⟨.ifP 0, 1, .v 2, 6⟩) ∧
  decodeWord 0xF0089C14 = .ok (.mstream ⟨4, .int 0, 20⟩) ∧
  decodeWord 0xF204535C = .ok (.bxcancel ⟨2, .g 13, 28⟩) ∧
  decodeWord 0xF4001106 = .ok (.hinst ⟨.all, .g 4, 6⟩) ∧
  decodeWord 0xF6001188 = .ok (.spawn ⟨.all, .g 6, 8⟩) ∧
  decodeWord 0xF8001C48 = .ok (.segw (.int 1) 8) ∧
  decodeWord 0xF800DC80 = .ok (.intr (.int 2)) ∧
  decodeWord 0xF800E000 = .ok .halt

/-- The word at the program counter of the group that a picker chooses is the one that a step executes (R33, R76). A HINT word executes
with no hints; another word with those pending, when R76 accepts them, the crew is alive and no race event is due (R211). A word that
changes a line which a host must give up first is put off, and its snoops and requests are sent (R214, R215). -/
def Obligations.StepRunsDecoded : Prop :=
  ∀ (s : State) (core : Nat) (x : Cand) (g : Group) (v : State) (w : Word) (i : Instr),
    Fetches s core x g v w → decodeWord w.toNat = .ok i →
    (isHintWord w.toNat = true → step s = afterWord s core (exec i (hintState s core x g v w))) ∧
    (isHintWord w.toNat = false → ¬ (opOf w.toNat = 0x7F ∧ g.hints.pending = true) → hintCause i w.toNat g.hints = none →
      ((v.crew x.crew).raceLog = [] ∧ (v.crew x.crew).raceLost = false) → (v.crew x.crew).alive = true →
      step s = afterWord s core (exec i (wordState s core x g v w)))

/-- The first event of the agenda is executed (log entry 1: the order of events is the model's own), or its snoops and requests are sent
when it changes a line which a host must give up first. -/
def Obligations.StepRunsEvent : Prop :=
  ∀ (s : State) (i : Instr) (rest : List Instr), s.agenda = i :: rest → isEvent i = true →
    step s = afterEvent { s with agenda := rest } (exec i { s with agenda := rest })

/-- The state after reset: the values that the spec's register tables give (R181, R295, R308, R309, R353, R374, R375, R391, R407). -/
def Obligations.ResetValues : Prop :=
  State.reset.tick = 0 ∧ State.reset.stage = 0 ∧ State.reset.route = 0x3FFFFFF ∧ State.reset.xlLease = 16 ∧
  State.reset.xlHorizon = 0 ∧ State.reset.flushBusy = false ∧ State.reset.prefixUnits = 4 ∧ State.reset.bxGrants = 0 ∧
  State.reset.bxExpired = 0 ∧ State.reset.bxOrphaned = 0 ∧ State.reset.failover = false ∧
  (∀ n, (State.reset.vector n).pend = 0 ∧ (State.reset.vector n).time = 0 ∧ (State.reset.vector n).cnt = 1) ∧
  (∀ q, (State.reset.queue q).state = .disabled) ∧ State.reset.crews = [] ∧ State.reset.gangs = [] ∧ State.reset.ops = [] ∧
  (∀ a, memRead State.reset.dev a = 0)

/-- The memories of the state after reset are in canonical form. -/
def Obligations.ResetMemWf : Prop := State.reset.memWf

/-- A step keeps the three memories in canonical form. -/
def Obligations.StepKeepsMemWf : Prop :=
  ∀ s t : State, s.memWf → step s = .next t → t.memWf

/-! ## Lane words -/

/-- The integer words, MOVI and PACK: every selected lane gets the result of R98 to R100, R68 and R108, and nothing else changes; the
latches move, and the new one holds the result (R84). One whose operands pop queues is a switch point, waits for values that are not there,
and is FAULT 0x3D where R147 says so (R147, R148). -/
def Obligations.IntegerWords : Prop :=
  ∀ (w : Instr) (r : LaneRule), intRule w = some r → r.Pops w ∧ ∀ (s : State) (i : Issue) (c : Crew) (X Y Z : Nat → Word),
    r.Runs s i c X Y Z → r.Result w s i c X Y Z

/-- The f32 words, the packed words and the conversions of one register: results and exceptions of R101 to R106, and the latches of R84; a
lane on which an exception arises that its FSTAT enables keeps its registers and performs ARITH with the cause of its lowest one (R64,
R65); and operands that pop queues (R147, R148). -/
def Obligations.FloatWords : Prop :=
  (∀ (w : Instr) (r : LaneRule), floatRule w = some r → r.Pops w ∧
     (∀ (s : State) (i : Issue) (c : Crew) (X Y Z : Nat → Word), r.Runs s i c X Y Z → r.Result w s i c X Y Z) ∧
     ∀ (s : State) (i : Issue) (c : Crew) (X Y Z V E : Nat → Word) (K : Nat → Option Nat),
       r.Traps s i c X Y Z V E K → r.Trapped w s i c V E K) ∧
  (∀ (w : Instr) (r : LaneRule), (packedRule w = some r ∨ cvtRule w = some r) → r.Pops w ∧
     (∀ (s : State) (i : Issue) (c : Crew) (X Y Z : Nat → Word), r.Runs s i c X Y Z → r.Result w s i c X Y Z) ∧
     ∀ (s : State) (i : Issue) (c : Crew) (X Y Z V E : Nat → Word) (K : Nat → Option Nat),
       r.Traps s i c X Y Z V E K → r.Trapped w s i c V E K)

/-- SEL gives a on a lane where P[0] is true, b where it is false (R98); the pair conversions of CVT (R106), FSWAP (R107) and PRM (R109);
each too with an operand that pops a queue (R148). -/
def Obligations.PairWords : Prop :=
  (∀ (h : LaneHdr) (a b : Sel) (s : State) (i : Issue) (c : Crew) (X Y Z : Nat → Word),
     (∀ f, Z f = if (c.fibre f).p.getLsbD 0 then X f else Y f) → (∀ f ∈ ((envAt s i).lanes h.g).sel, ∀ w ∈ (c.fibre f).pwin, w.openAt (c.fibre f).pos = false) →
     let r : LaneRule := { h := h, lat := 2, srcs := [a, b], third := false, value := fun _ z _ _ => some (z, 0) }
     (r.Runs s i c X Y Z → r.Result (.sel h a b) s i c X Y Z) ∧
     (r.PopRuns (.sel h a b) s i c X Y Z → r.PopResult (.sel h a b) s i c X Y Z)) ∧
  ((∀ (h : LaneHdr) (a : Sel) (code : Fin 26) (s : State) (i : Issue) (c : Crew) (X : Nat → Word) (out : Nat → LaneOut),
      code.val = 0x16 ∨ code.val = 0x17 → QuietPops (.cvt h a code) s i c h [a] 2 → Reads s i c h.g [a] 0 X →
      (∀ f ∈ ((envAt s i).lanes h.g).sel, cvtPair code.val i.mod.rm (X f) 0 = some (out f)) → LeavesPop (.cvt h a code) s i c h [a] out) ∧
   (∀ (h : LaneHdr) (a : Sel) (s : State) (i : Issue) (c : Crew) (X : Nat → Word), QuietPops (.cvtFswap h a) s i c h [a] 1 →
      Reads s i c h.g [a] 0 X → (∀ f ∈ ((envAt s i).lanes h.g).sel, X f &&& 0xFFFFE0E0 = 0) →
      LeavesPop (.cvtFswap h a) s i c h [a] fun f => { lo := (c.fibre f).fstat, swap := some (X f) }) ∧
   ∀ (h : LaneHdr) (a b : Sel) (s : State) (i : Issue) (c : Crew) (X : Nat → Word × Word) (Y v : Nat → Word),
     QuietPops (.prm h a b) s i c h [a, b] 1 → selFits a c.b 2 = true → selQueue a = [] →
     (envAt s i).splitRead (selRegs a 2 ++ selRegs b 1) = false → Reads s i c h.g [a, b] 1 Y →
     (∀ f ∈ ((envAt s i).lanes h.g).sel, (envAt s i).readPair (c.fibre f) f a 0 = .ok (X f) ∧ prmWord (X f).1 (X f).2 (Y f) = some (v f)) →
     LeavesPop (.prm h a b) s i c h [a, b] fun f => { lo := v f }) ∧
  ((∀ (h : LaneHdr) (a : Sel) (code : Fin 26) (s : State) (i : Issue) (c : Crew) (X : Nat → Word) (out : Nat → LaneOut),
     code.val = 0x16 ∨ code.val = 0x17 → QuietLanes s i c h [(a, 1)] 2 →
     (∀ f ∈ ((envAt s i).lanes h.g).sel, (envAt s i).read (c.fibre f) f a 0 0 = .ok (X f) ∧
       cvtPair code.val i.mod.rm (X f) 0 = some (out f)) → Leaves (.cvt h a code) s i c h 4 out) ∧
   (∀ (h : LaneHdr) (a : Sel) (code : Fin 26) (s : State) (i : Issue) (c : Crew) (X : Nat → Word × Word) (out : Nat → LaneOut),
     code.val = 0x18 ∨ code.val = 0x19 → QuietLanes s i c h [(a, 2)] 1 →
     (∀ f ∈ ((envAt s i).lanes h.g).sel, (envAt s i).readPair (c.fibre f) f a 0 = .ok (X f) ∧
       cvtPair code.val i.mod.rm (X f).1 (X f).2 = some (out f) ∧ trapSet (out f).exc (c.fibre f).fstat = 0) →
     Leaves (.cvt h a code) s i c h 4 out) ∧
   (∀ (h : LaneHdr) (a : Sel) (s : State) (i : Issue) (c : Crew) (X : Nat → Word), QuietLanes s i c h [(a, 1)] 1 →
     (∀ f ∈ ((envAt s i).lanes h.g).sel, (envAt s i).read (c.fibre f) f a 0 0 = .ok (X f) ∧ X f &&& 0xFFFFE0E0 = 0) →
     Leaves (.cvtFswap h a) s i c h 4 fun f => { lo := (c.fibre f).fstat, swap := some (X f) }) ∧
   ∀ (h : LaneHdr) (a b : Sel) (s : State) (i : Issue) (c : Crew) (X : Nat → Word × Word) (Y v : Nat → Word),
     QuietLanes s i c h [(a, 2), (b, 1)] 1 →
     (∀ f ∈ ((envAt s i).lanes h.g).sel, (envAt s i).readPair (c.fibre f) f a 0 = .ok (X f) ∧
       (envAt s i).read (c.fibre f) f b 1 0 = .ok (Y f) ∧ prmWord (X f).1 (X f).2 (Y f) = some (v f)) →
     Leaves (.prm h a b) s i c h 4 fun f => { lo := v f })

/-- SREAD delivers the special registers of R41, with S.TICKLO keeping the high half of its sample, TKRD a token (R139), as its printed word says, and RFL gives
every selected lane the value of the lowest selected lane (R117), which may come from a queue. -/
def Obligations.SpecialReads : Prop :=
  ((∀ (h : LaneHdr) (reg : Fin 19) (s : State) (i : Issue) (c : Crew), QuietLanes s i c h [] 1 →
     Leaves (.sread h reg) s i c h 2 fun f =>
       { lo := BitVec.ofNat 32 (special s i c (c.fibre f) f reg.val)
         tick := if reg.val = 13 then some (BitVec.ofNat 32 (s.tick / 2 ^ 32)) else none }) ∧
   ∀ (h : LaneHdr) (k : Fin 16) (s : State) (i : Issue) (c : Crew), QuietLanes s i c h [] 1 →
     Leaves (.tkrd h k) s i c h 2 fun f =>
       let t := (c.fibre f).tok k.val
       { lo := BitVec.ofNat 32 (t.count % 64 + (if t.err then 2 ^ 6 else 0) + 2 ^ 8 * t.cause.toNat) }) ∧
  encodeWord (.tkrd ⟨.all, false, 5⟩ 3) = 0xD0014180 ∧
  (∀ (h : LaneHdr) (a : Sel) (s : State) (i : Issue) (c : Crew) (X : Nat → Word), Reads s i c h.g [a] 0 X →
     let out : Nat → LaneOut := fun _ => { lo := ((((envAt s i).lanes h.g).sel.head?).map X).getD 0 }
     (QuietLanes s i c h [(a, 1)] 1 → Leaves (.rfl h a) s i c h 6 out) ∧
     (QuietPops (.rfl h a) s i c h [a] 1 → LeavesPop (.rfl h a) s i c h [a] out))

/-- The compares, when no lane traps, change P by the relation of R110 under the push mode of R111, on selected and on excluded lanes, add
the exceptions of FCMP to FSTAT, and leave latches and V registers unchanged; so does one whose operands pop queues, which is a switch point
(R148); a push mode that R111 does not list is cause 0x0C. -/
def Obligations.CompareWords : Prop :=
  (∀ (w : Instr) (h : CmpHdr) (a b : Sel) (rel : Word → Word → Bool × Word), compareRule w = some (h, a, b, rel) → w.wellFormed = true →
    ∀ (s : State) (i : Issue) (c : Crew) (X Y : Nat → Word),
    Issues s i c → PSettled i c → selFits a c.b 1 = true → selFits b c.b 1 = true → 0 < c.b →
    (envAt s i).splitRead (selRegs a 1 ++ selRegs b 1) = false → ((envAt s i).lanes h.g).bad = [] →
    Reads s i c h.g [a, b] 0 X → Reads s i c h.g [a, b] 1 Y →
    (∀ f ∈ ((envAt s i).lanes h.g).sel, (c.fibre f).fpend = [] ∧ trapSet (rel (X f) (Y f)).2 (c.fibre f).fstat = 0) →
    let after := fun (f : Nat) (f' : Fibre) =>
      if f ∈ ((envAt s i).lanes h.g).sel then
        f' = { passed i (c.fibre f) with p := f'.p, pwin := f'.pwin, fstat := f'.fstat, fpend := f'.fpend } ∧
          StackIs f'.p (afterCompare h.pm (c.fibre f).p (rel (X f) (Y f)).1) ∧
          f'.fstatNow = (c.fibre f).fstatNow ||| (rel (X f) (Y f)).2
      else if h.pm = .push ∨ h.pm = .pushn then WroteP i (c.fibre f) f' (pushed (c.fibre f).p false) else f' = passed i (c.fibre f)
    (popsOf [a, b] = [] → GroupStep w s i c i.grp.latches after) ∧
    (PopsNow w s i c h.g [a, b] → Supplied s i c h.g [a, b] → PopStep w s i c h.g [a, b] after)) ∧
  ∀ n, n < 2 ^ 32 → n / 2 ^ 21 % 16 < 15 → 5 ≤ n / 2 ^ 14 % 8 →
    ((n / 2 ^ 25 = 0x40 ∨ n / 2 ^ 25 = 0x41) ∧ n / 2 ^ 17 % 16 ≤ 5 ∨ n / 2 ^ 25 = 0x42 ∧ n / 2 ^ 17 % 16 ≤ 12 ∨
      n / 2 ^ 25 = 0x43 ∧ n / 2 ^ 17 % 16 ≤ 1) → decodeWord n = .fault 0x0C

/-- The words of PSTK change the stack of each selected lane as R113 says, at a distance of 2, and nothing else; another CC is cause 0x0A. -/
def Obligations.StackWords : Prop :=
  (∀ (w : Instr) (g : Guard) (k : (Nat → Bool) → Nat → Bool), stackRule w = some (g, k) → ∀ (s : State) (i : Issue) (c : Crew),
    Issues s i c → PSettled i c → GroupStep w s i c i.grp.latches fun f f' =>
      if f ∈ ((envAt s i).lanes g).sel then
        WroteP i (c.fibre f) f' (k fun d => (c.fibre f).p.getLsbD d) ∧ f'.pwin = [{ due := (c.fibre f).pos + 2, prev := (c.fibre f).p, val := f'.p }]
      else f' = passed i (c.fibre f)) ∧
  ∀ n, n < 2 ^ 32 → n / 2 ^ 25 = 0x44 → n / 2 ^ 21 % 16 < 15 → n % 2 ^ 17 = 0 → 9 ≤ n / 2 ^ 17 % 16 → decodeWord n = .fault 0x0A

/-- XCHG (R114, R115): a selected lane whose source lane is a selected lane of the group gets that lane's value and pushes true; another
selected lane gets its own value and pushes false; an excluded lane pushes false. One that pops a queue is a switch point (R148). -/
def Obligations.ExchangeWords : Prop :=
  ∀ (w : Instr) (g : Guard) (d : Fin 64) (a : Sel) (idx : Bool) (src : Nat → Word → Int), exchangeRule w = some (g, d, a, idx, src) →
    ∀ (s : State) (i : Issue) (c : Crew) (X D : Nat → Word),
    PSettled i c → (∀ f ∈ i.grp.fids, ∀ f2 ∈ i.grp.fids, f % 64 = f2 % 64 → f = f2) → Reads s i c g [a] 0 X →
    (∀ f ∈ ((envAt s i).lanes g).sel, idx = true → (envAt s i).readV (c.fibre f) f d.val 2 = .ok (D f)) →
    let after := fun (f : Nat) (f' : Fibre) (v : Word) =>
      if f ∈ ((envAt s i).lanes g).sel then
        ∃ (found : Bool), ((found = true ∧ ∃ f2 ∈ ((envAt s i).lanes g).sel,
            ((f2 % 64 : Nat) : Int) = src (f % 64) (D f) ∧ v = X f2) ∨
          (found = false ∧ v = X f ∧ ∀ f2 ∈ ((envAt s i).lanes g).sel, ((f2 % 64 : Nat) : Int) ≠ src (f % 64) (D f))) ∧
        f' = { passed i (c.fibre f) with v := f'.v, vwin := f'.vwin, wrote := f'.wrote, p := f'.p, pwin := f'.pwin } ∧
        (∀ n, n ≠ d.val → f'.getV n = (c.fibre f).getV n) ∧ (noWindow (c.fibre f) d.val → f'.getV d.val = v) ∧
        StackIs f'.p (pushed (c.fibre f).p found)
      else WroteP i (c.fibre f) f' (pushed (c.fibre f).p false) ∧ v = 0
    (QuietLanes s i c ⟨g, false, d⟩ [(a, 1)] 1 → ∃ latches, Shifted i latches ∧ (latches.head?.map Latch.lat) = some 6 ∧
      GroupStep w s i c latches fun f f' => ∃ v, after f f' v ∧ (latches.head?.map fun l => kget l.vals f) = some (some v)) ∧
    (QuietPops w s i c ⟨g, false, d⟩ [a] 1 → PopStep w s i c g [a] fun f f' => ∃ v, after f f' v)

/-- VOTE writes its G register once for the group (R116, R42, R43), with EQ too of values popped from a queue (R148). -/
def Obligations.VoteWords : Prop :=
  (∀ (w : Instr) (g : Guard) (d : Fin 32) (depth : BitVec 7) (k : List Bool → Nat), voteRule w = some (g, d, depth, k) →
    ∀ (s : State) (i : Issue) (c : Crew), Issues s i c → PSettled i c → depth.toNat ≤ 6 → MayWriteG s i c d.val →
    UniformStep w s i c d.val
      (BitVec.ofNat 32 (k (((envAt s i).lanes g).sel.map fun f => (c.fibre f).p.getLsbD depth.toNat)))) ∧
  ∀ (g : Guard) (d : Fin 32) (a : Sel) (s : State) (i : Issue) (c : Crew) (X : Nat → Word), MayWriteG s i c d.val → Reads s i c g [a] 0 X →
    let val : Word := if ∀ f ∈ ((envAt s i).lanes g).sel, ∀ f2 ∈ ((envAt s i).lanes g).sel, X f = X f2 then 1 else 0
    (QuietLanes s i c ⟨g, true, 0⟩ [(a, 1)] 1 → UniformStep (.voteEq g d a) s i c d.val val) ∧
    (QuietPops (.voteEq g d a) s i c ⟨g, true, 0⟩ [a] 1 → gSettled i c d.val →
      ∃ t c', exec (.voteEq g d a) s = .next t ∧ kget t.crews i.crew = some c' ∧ c'.getG d.val = val ∧
        (∀ m, m ≠ d.val → c'.getG m = c.getG m) ∧ (∀ q, c'.queue q = (c.queue q).drop (((envAt s i).lanes g).sel.length * (popsOf [a]).count q)) ∧
        ∀ f ∈ i.grp.fids, kget c'.fibres f = some (looseAt s c (i.pc + 4) (c.fibre f)))

/-- XDEF, XSET and XADD write one index register of each selected lane (R118, R119); one that pops a queue is a switch point (R148). -/
def Obligations.IndexWords : Prop :=
  ∀ (w : Instr) (g : Guard) (x : Fin 4) (a : Sel) (k : Nat → XReg → Word → Option XReg), indexRule w = some (g, x, a, k) →
    ∀ (s : State) (i : Issue) (c : Crew) (X : Nat → Word) (R : Nat → XReg),
    Reads s i c g [a] 0 X →
    (∀ f ∈ ((envAt s i).lanes g).sel, (∀ w ∈ kgetD (c.fibre f).xwin x.val [], w.openAt (c.fibre f).pos = false) ∧
      k c.b (kgetD (c.fibre f).x x.val {}) (X f) = some (R f)) →
    let after := fun (f : Nat) (f' : Fibre) =>
      if f ∈ ((envAt s i).lanes g).sel then
        f' = { passed i (c.fibre f) with x := f'.x, xwin := f'.xwin } ∧ kget f'.x x.val = some (R f) ∧
          ∀ y, y ≠ x.val → kget f'.x y = kget (c.fibre f).x y ∧ kget f'.xwin y = kget (c.fibre f).xwin y
      else f' = passed i (c.fibre f)
    (QuietLanes s i c ⟨g, true, 0⟩ [(a, 1)] 1 → GroupStep w s i c i.grp.latches after) ∧
    (QuietPops w s i c ⟨g, true, 0⟩ [a] 1 → PopStep w s i c g [a] after)

/-- The uniform words write G[d] once for the group (R124, R127, R42, R43), and change nothing else; the uniform compares push one truth
value onto the stack of every fibre of the group (R125). -/
def Obligations.UniformWords : Prop :=
  (∀ (w : Instr) (d : Fin 32) (a b : Sel) (third : Bool) (k : List Byte → Mod → Word → Word → Word → Option Word),
     uniformRule w = some (d, a, b, third, k) → ∀ (s : State) (i : Issue) (c : Crew) (x y z r : Word), Issues s i c →
     (envAt s i).splitRead (selRegs a 1 ++ selRegs b 1 ++ if third then [d.val] else []) = false →
     (envAt s i).readU a 0 = .ok x → (envAt s i).readU b 1 = .ok y → (third = true → (envAt s i).readG d.val 2 = .ok z) →
     k c.window i.mod z x y = some r → MayWriteG s i c d.val → UniformStep w s i c d.val r) ∧
  (∀ (w : Instr) (pm : PushMode) (a b : Sel) (rel : Word → Word → Bool), uniformCompare w = some (pm, a, b, rel) → w.wellFormed = true →
     ∀ (s : State) (i : Issue) (c : Crew) (x y : Word), Issues s i c → PSettled i c →
     (envAt s i).splitRead (selRegs a 1 ++ selRegs b 1) = false → (envAt s i).readU a 0 = .ok x → (envAt s i).readU b 1 = .ok y →
     GroupStep w s i c i.grp.latches fun f f' => WroteP i (c.fibre f) f' (afterCompare pm (c.fibre f).p (rel x y)))

/-- What a selector delivers to a lane outside every latency window (R70): registers, the indexed register of R120, constants, the immediate,
the value popped from a queue (R147, R148) and a bypass latch (R84, R85); and the lanes that a guard selects (R69). What a word pops is
stated with the lane words. -/
def Obligations.OperandsAndGuards : Prop :=
  (∀ (s : State) (i : Issue) (c : Crew) (f n : Nat) (k : Nat) (v : Word), Issues s i c → noWindow (c.fibre f) n →
    kget (c.fibre f).pend n = none → (envAt s i).readV (c.fibre f) f n k = .ok ((c.fibre f).getV n) ∧
    ((envAt s i).read (c.fibre f) f .imm k v = .ok (i.imm.getD 0))) ∧
  (∀ (s : State) (i : Issue) (c : Crew) (n k : Nat), Issues s i c →
    (∀ w ∈ kgetD c.gwin n [], w.tok = none ∧ w.openFor c i.grp.fids (envAt s i).cycle = false) → kget c.gpend n = none →
    (envAt s i).readG n k = .ok (c.getG n)) ∧
  (∀ (s : State) (i : Issue) (c : Crew) (f k : Nat) (x : Fin 4) (v : Word), Issues s i c →
    (∀ w ∈ kgetD (c.fibre f).xwin x.val [], w.openAt (c.fibre f).pos = false) →
    let r := kgetD (c.fibre f).x x.val {}
    (envAt s i).read (c.fibre f) f (.vx x) k v =
      if r.index < r.bound then (envAt s i).readV (c.fibre f) f (r.base + r.index) k else .error (0, 0x36)) ∧
  (∀ (s : State) (i : Issue) (c : Crew) (f k : Nat) (v : Word), Issues s i c →
    ((List.finRange 8).map fun n => (envAt s i).read (c.fibre f) f (.int n) k v) =
      ([0, 1, 2, 3, 4, 8, 16, 0xFFFFFFFF] : List Word).map .ok ∧
    ((List.finRange 7).map fun n => (envAt s i).read (c.fibre f) f (.flt n) k v) =
      ([0x3F000000, 0x3F800000, 0x40000000, 0x40800000, 0xBF800000, 0xBF000000, 0x7F800000] : List Word).map .ok ∧
    ∀ n, (envAt s i).read (c.fibre f) f (.q n) k v = .ok v) ∧
  (∀ (s : State) (i : Issue) (c : Crew) (f k : Nat) (n : Fin 4) (v : Word), Issues s i c →
    (∀ l, i.grp.latches[n.val]? = some l → l.pos + l.lat ≤ i.grp.pos →
      (envAt s i).read (c.fibre f) f (.latch n) k v = .ok (kgetD l.vals f 0)) ∧
    ((∀ l, i.grp.latches[n.val]? = some l → i.grp.pos < l.pos + l.lat) →
      (envAt s i).read (c.fibre f) f (.latch n) k v = if i.strict then .error (9, 0x34) else .ok 0)) ∧
  ∀ (s : State) (i : Issue) (c : Crew) (g : Guard), Issues s i c → PSettled i c → i.again = false →
    ((envAt s i).lanes g).bad = [] ∧ ∀ f, f ∈ ((envAt s i).lanes g).sel ↔ f ∈ i.grp.fids ∧
      match g with
      | .all => True
      | .ifP d => (c.fibre f).p.getLsbD d.val = true
      | .unlessP d => (c.fibre f).p.getLsbD d.val = false

/-- BRA and BRX send the selected fibres to their targets, the others go on, and the group dissolves (R129, R66); an indirect branch to a
target that is no multiple of 4, or not canonical, is FAULT 0x1A or 0x1B on that fibre, whose state is that after the effect. -/
def Obligations.BranchWords : Prop :=
  ((∀ (g : Guard) (disp : BitVec 21) (s : State) (i : Issue) (c : Crew), SwitchReady s i c → ((envAt s i).lanes g).bad = [] →
     Canonical (directTo i disp) → SwitchStep (.bra g disp) s i c (sameCrew c) fun f x =>
       x = looseAt s c (if f ∈ ((envAt s i).lanes g).sel then directTo i disp else i.pc + 4) (c.fibre f)) ∧
   ∀ (g : Guard) (a : Sel) (s : State) (i : Issue) (c : Crew) (X : Nat → Word × Word), SwitchReady s i c →
     ((envAt s i).lanes g).bad = [] → ReadsPair s i c g a X →
     (∀ f ∈ ((envAt s i).lanes g).sel, pairNat (X f) % 4 = 0 ∧ Canonical (pairNat (X f))) →
     SwitchStep (.brx g a) s i c (sameCrew c) fun f x =>
       x = looseAt s c (if f ∈ ((envAt s i).lanes g).sel then pairNat (X f) else i.pc + 4) (c.fibre f)) ∧
  (∀ (g : Guard) (a : Sel) (s : State) (i : Issue) (c : Crew) (f : Nat) (X : Nat → Word × Word), OneFibre s i c g f →
     ReadsPair s i c g a X → ¬ (pairNat (X f) % 4 = 0 ∧ Canonical (pairNat (X f))) →
     exec (.brx g a) s = .next (((acting s i).deliver i.crew f
       { label := 0, cause := if pairNat (X f) % 4 = 0 then 0x1B else 0x1A, payload := if pairNat (X f) % 4 = 0 then 0x1B else 0x1A,
         rpc := i.pc + 4 }).endSwitch i))

/-- CALL and CALLX of the selected fibres of a group, one after another (R129, R130, R317): when none of K12 to K15 of a fibre counts, the
header allows the budget and a segment is free, the fibre stands at its target with one segment more, and its registers, predicates and
tokens are those before; a direct call of a fibre with one of these tokens counting is STRICT 0x32. RET of fibres whose current segments
hold call records (R131, R317): each stands at its recorded address, with the segment below as its current one. EXIT of fibres with no
token that counts or holds an error (R37): they are gone, from every join record too. The other fibres of the group go on. -/
def Obligations.CallWords : Prop :=
  ((∀ (w : Instr) (g : Guard) (s z : State) (i : Issue) (c : Crew) (T : Nat → Nat), Ready s i c g →
      ((∃ disp, w = .call g disp ∧ ∀ f, T f = directTo i disp) ∨
        ∃ a X, w = .callx g a ∧ ReadsPair s i c g a X ∧ ∀ f ∈ ((envAt s i).lanes g).sel, T f = pairNat (X f) ∧ T f % 4 = 0) →
      (∀ f ∈ ((envAt s i).lanes g).sel, CalleesIdle (c.fibre f) ∧ Canonical (T f)) →
      OneByOne (CallsTo i T) ((envAt s i).lanes g).sel (acting s i) z →
      GroupEnds w s i c g fun f x => Called (c.fibre f) x (T f)) ∧
   (∀ (g : Guard) (disp : BitVec 21) (s : State) (i : Issue) (c : Crew) (f : Nat), OneFibre s i c g f → ¬ CalleesIdle (c.fibre f) →
      exec (.call g disp) s = .next (((acting s i).deliver i.crew f
        { label := 9, cause := 0x32, payload := 0x32, rpc := i.pc + 4 }).endSwitch i)) ∧
   ∀ (g : Guard) (s z : State) (i : Issue) (c : Crew) (H : Nat → SegHead), Ready s i c g →
      (∀ f ∈ ((envAt s i).lanes g).sel, CalleesIdle (c.fibre f) ∧ (H f).kind ≠ 1 ∧ (H f).valid = true ∧ (H f).rpc % 4 = 0 ∧
        Canonical (H f).rpc) →
      OneByOne (fun a f b => ∃ u v, a.segHead i.crew ((a.crew i.crew).fibre f).seg = (u, .ok (H f)) ∧
        u.popSeg i.crew f (H f) = (v, .ok ()) ∧ b = v.goTo i.crew f (H f).rpc) ((envAt s i).lanes g).sel (acting s i) z →
      GroupEnds (.ret g) s i c g fun f x =>
        x = { c.fibre f with pc := (H f).rpc, seg := (H f).link, depth := (c.fibre f).depth - 1, st := x.st }) ∧
  (∀ (g : Guard) (s z : State) (i : Issue) (c : Crew), Ready s i c g → i.waited = [] →
     (∀ f ∈ ((envAt s i).lanes g).sel, TokensClear (c.fibre f)) →
     OneByOne (fun a f b => ∃ u, a.freeStack i.crew 256 ((a.crew i.crew).fibre f).seg = (u, .ok ()) ∧ b = u.retire i.crew f)
       ((envAt s i).lanes g).sel (acting s i) z →
     ∃ t, exec (.exit g) s = .next t ∧ ∀ f ∈ ((envAt s i).lanes g).sel, kget (t.crew i.crew).fibres f = none ∧
       ∀ j, j < 8 → f ∉ ((t.crew i.crew).join j).record ∧ ∀ a ∈ ((t.crew i.crew).join j).arrived, a.1 ≠ f)

/-- SPLIT records the selected fibres (R34); with no fibre parked at the register, nothing else changes. JOIN by a group of one fibre (R34,
R35): a fibre that is not recorded passes; a recorded one parks while another recorded fibre has not arrived; the last releases every
arrived fibre into a formed group at the word after its own JOIN. That the register keeps its record then, with no fibre arrived, is the
model's choice (log entry 18). -/
def Obligations.SplitJoin : Prop :=
  (∀ (g : Guard) (j : Fin 8) (s : State) (i : Issue) (c : Crew), SwitchReady s i c → ((envAt s i).lanes g).bad = [] →
     (c.join j.val).arrived = [] →
     SwitchStep (.split g j) s i c
       (fun c' => c' = { c with fibres := c'.fibres, groups := c'.groups, joins := c'.joins } ∧
         c'.join j.val = ⟨((envAt s i).lanes g).sel, []⟩ ∧ ∀ k, k ≠ j.val → c'.join k = c.join k)
       fun f x => x = looseAt s c (i.pc + 4) (c.fibre f)) ∧
  (∀ (g : Guard) (j : Fin 8) (s : State) (i : Issue) (c : Crew) (f : Nat), SwitchReady s i c → OneFibre s i c g f →
     (∀ n, i.gid = some n → n < s.nextId) →
     (f ∉ (c.join j.val).record → SwitchStep (.join g j) s i c (sameCrew c) fun f x => x = looseAt s c (i.pc + 4) (c.fibre f)) ∧
     (f ∈ (c.join j.val).record → (∀ a ∈ (c.join j.val).arrived, a.1 ≠ f) →
       (∃ k ∈ (c.join j.val).record, k ≠ f ∧ ∀ a ∈ (c.join j.val).arrived, a.1 ≠ k) →
       SwitchStep (.join g j) s i c
         (fun c' => c' = { c with fibres := c'.fibres, groups := c'.groups, joins := c'.joins } ∧
           c'.join j.val = ⟨(c.join j.val).record, (c.join j.val).arrived ++ [(f, i.pc + 4)]⟩ ∧ ∀ k, k ≠ j.val → c'.join k = c.join k)
         fun f x => x = parkedAt i.pc (.join j.val) (c.fibre f)) ∧
     (f ∈ (c.join j.val).record → (∀ a ∈ (c.join j.val).arrived, a.1 ≠ f ∧ (kget c.fibres a.1).isSome = true) →
       ((c.join j.val).arrived.map Prod.fst).Nodup →
       (∀ k ∈ (c.join j.val).record, k ≠ f → ∃ a ∈ (c.join j.val).arrived, a.1 = k) →
       ∃ t c', exec (.join g j) s = .next t ∧ kget t.crews i.crew = some c' ∧ c'.join j.val = ⟨(c.join j.val).record, []⟩ ∧
         ∀ a ∈ (c.join j.val).arrived ++ [(f, i.pc + 4)], ∃ x n, kget c'.fibres a.1 = some x ∧ x.pc = a.2 ∧ x.st = .formed n))

/-- NOP changes nothing but the place of its group, and its word is 0xD2000000; in the step in which a group's word consumes a SCHED hint with
PV = 1, the word executes with its crew's phase set to that of the hint, whatever the word does (R150). -/
def Obligations.NopWord : Prop :=
  (∀ (s : State) (i : Issue) (c : Crew), Issues s i c →
    GroupStep .nop s i c i.grp.latches fun f x => x = passed i (c.fibre f)) ∧
  encodeWord .nop = 0xD2000000 ∧ (∀ n, n < 2 ^ 32 → n / 2 ^ 25 = 0x69 → ∀ i, decodeWord n = .ok i → n = 0xD2000000 ∧ i = .nop) ∧
  ∀ (s : State) (core : Nat) (x : Cand) (g : Group) (v : State) (w : Word) (i : Instr) (long : Bool) (p : BitVec 4),
    Fetches s core x g v w → decodeWord w.toNat = .ok i → isHintWord w.toNat = false → ¬ (opOf w.toNat = 0x7F ∧ g.hints.pending = true) →
    hintCause i w.toNat g.hints = none → (v.crew x.crew).raceLog = [] → (v.crew x.crew).raceLost = false → (v.crew x.crew).alive = true →
    g.hints.sched = some (long, true, p) →
    ∃ u j, step s = afterWord s core (exec i u) ∧ u.cur = some j ∧ j.crew = x.crew ∧ j.pc = g.pc ∧ j.core = core ∧
      (u.crew x.crew).phase = p

/-- WAIT (R135, R136): a selected fibre whose token counts more than t parks, with no hinge for WAIT; one whose token counts at most t
without an error goes on, with the marks and windows of finished operations on the token closed (R137, R138); the second part is for
crews without matrix claims and tokens without completions of engines. WAITMEM by a group of one fibre (R141, R142): when the word read
differs from the one compared the fibre goes on, and else it parks with a monitor on the word; a relaxed one of a line that its core holds
no part of compares V[D], or the pair V[D] and V[D+1], with the value that memory holds at the address. -/
def Obligations.WaitWords : Prop :=
  ((∀ (g : Guard) (k : Fin 16) (n : Fin 64) (s : State) (i : Issue) (c : Crew), SwitchReady s i c → ((envAt s i).lanes g).bad = [] →
     (∀ f ∈ ((envAt s i).lanes g).sel, n.val < ((c.fibre f).tok k.val).count ∧ (c.fibre f).effmask.getLsbD 2 = false) →
     SwitchStep (.wait g k n) s i c (sameCrew c) fun f x =>
       if f ∈ ((envAt s i).lanes g).sel then x = parkedAt i.pc (.wait k.val n.val false) (c.fibre f)
       else x = looseAt s c (i.pc + 4) (c.fibre f)) ∧
   ∀ (g : Guard) (k : Fin 16) (n : Fin 64) (s : State) (i : Issue) (c : Crew), SwitchReady s i c → ((envAt s i).lanes g).bad = [] →
     c.claims = [] →
     (∀ f ∈ ((envAt s i).lanes g).sel, ((c.fibre f).tok k.val).count ≤ n.val ∧ ((c.fibre f).tok k.val).err = false ∧
       ((c.fibre f).tok k.val).eng = []) →
     SwitchStep (.wait g k n) s i c
       (fun c' => c' = { c with fibres := c'.fibres, groups := c'.groups, gpend := c'.gpend, gwin := c'.gwin })
       fun f x => if f ∈ ((envAt s i).lanes g).sel then
           x = { looseAt s c (i.pc + 4) (c.fibre f) with pend := x.pend, vwin := x.vwin, k := x.k } ∧
             (∀ q, x.tok q = (c.fibre f).tok q) ∧ (∀ p ∈ x.pend, ¬ (p.2.tok = some k.val ∧ p.2.done = true)) ∧
             ∀ v ∈ x.vwin, ∀ w ∈ v.2, w.tok ≠ some k.val
         else x = looseAt s c (i.pc + 4) (c.fibre f)) ∧
  (∀ (g : Guard) (d : Fin 64) (ab : Sel) (wide : Bool) (s u : State) (i : Issue) (c : Crew) (f : Nat) (r : MemReq) (differs : Bool) (pa : Nat),
     OneFibre s i c g f →
     let m : MemShape := ⟨⟨g, 0, d, ab⟩, .load (if wide then .w64 else .w32), .global, if wide then 8 else 4, if wide then 2 else 1, 0⟩
     let b := ((taken s).fresh.2).setPcs i.crew i.grp.fids (i.pc + 4)
     m.check (envAt s i) = none → (envAt s i).memReq b m s.nextId f = .ok r → b.waitRead i.core i.crew f r = (u, .ok (differs, pa)) →
     FibreEnds (.waitmem g d ab wide) s i f fun x =>
       x.v = (c.fibre f).v ∧ x.k = (c.fibre f).k ∧ x.p = (c.fibre f).p ∧
         if differs then x.pc = i.pc + 4 else x.pc = i.pc ∧ x.st = .parked (.waitmem { r with page := pa } wide)) ∧
  ∀ (g : Guard) (d : Fin 64) (ab : Sel) (wide : Bool) (s u : State) (i : Issue) (c : Crew) (f : Nat) (r : MemReq) (pa : Nat) (cacheable : Bool),
     OneFibre s i c g f →
     let n := if wide then 8 else 4
     let m : MemShape := ⟨⟨g, 0, d, ab⟩, .load (if wide then .w64 else .w32), .global, n, if wide then 2 else 1, 0⟩
     let b := ((taken s).fresh.2).setPcs i.crew i.grp.fids (i.pc + 4)
     m.check (envAt s i) = none → (envAt s i).memReq b m s.nextId f = .ok r → r.order = .relaxed →
     noWindow (c.fibre f) d.val → (wide = true → noWindow (c.fibre f) (d.val + 1)) →
     b.coreXl i.core c.pasid r.ea .load = (u, .ok pa cacheable) → u.dataCause pa n = none → pa % 128 + n ≤ 128 →
     kget (u.agent (u.agentOf i.core)).l1 (pa / 128) = none → kget (u.agent (u.agentOf i.core)).wc (pa / 128) = none →
     FibreEnds (.waitmem g d ab wide) s i f fun x =>
       x.v = (c.fibre f).v ∧ x.k = (c.fibre f).k ∧ x.p = (c.fibre f).p ∧
         if u.readNat pa n = ((c.fibre f).getV d.val).toNat + (if wide then 2 ^ 32 * ((c.fibre f).getV (d.val + 1)).toNat else 0) then
           x.pc = i.pc ∧ x.st = .parked (.waitmem { r with page := pa } wide)
         else x.pc = i.pc + 4

/-- BARI sets the expected count of a barrier with no arrivals, and clears its arrived count; with a guard that selects no fibre it only
dissolves the group (R143). BARA and BARW (R144): each selected fibre arrives in turn, the arrived count rises by as many, and a phase
completes with each arrival that reaches the expected count; the fibres go on, but park in a BARW that completes no phase. BARRD writes
the arrived count and the phase to its G register, and no barrier's counts or phase change (R143). That no merge of the acquires of R206
fails (R214) is a condition. -/
def Obligations.BarrierWords : Prop :=
  ((∀ (g : Guard) (n : Fin 16) (a : Sel) (s : State) (i : Issue) (c : Crew) (f : Nat) (rest : List Nat) (v : Word), SwitchReady s i c →
     ((envAt s i).lanes g) = ⟨f :: rest, ((envAt s i).lanes g).out, []⟩ → 0 < c.b → selFits a c.b 1 = true → selQueue a = [] →
     (envAt s i).splitRead (selRegs a 1) = false → (envAt s i).read (c.fibre f) f a 0 0 = .ok v → 1 ≤ v.toNat → v.toNat ≤ 4095 →
     (c.bar n.val).arrived = 0 →
     SwitchStep (.bari g n a) s i c
       (fun c' => c' = { c with fibres := c'.fibres, groups := c'.groups, bars := c'.bars } ∧
         c'.bar n.val = { c.bar n.val with expected := v.toNat, arrived := 0, eng := 0 } ∧ ∀ k, k ≠ n.val → c'.bar k = c.bar k)
       fun f x => x = looseAt s c (i.pc + 4) (c.fibre f)) ∧
   ∀ (g : Guard) (n : Fin 16) (a : Sel) (s : State) (i : Issue) (c : Crew), SwitchReady s i c → ((envAt s i).lanes g).sel = [] →
     ((envAt s i).lanes g).bad = [] → 0 < c.b → selFits a c.b 1 = true →
     SwitchStep (.bari g n a) s i c (sameCrew c) fun f x => x = looseAt s c (i.pc + 4) (c.fibre f)) ∧
  ((∀ (g : Guard) (n : Fin 16) (w : Instr) (s : State) (i : Issue) (c : Crew), (w = .bara g n ∨ w = .barw g n) →
     Ready s i c g → Mergeable s → 1 ≤ (c.bar n.val).expected → (c.bar n.val).expected ≤ 4095 →
     (c.bar n.val).arrived < (c.bar n.val).expected → (c.bar n.val).phase < 65536 →
     let b := c.bar n.val
     let k := ((envAt s i).lanes g).sel.length
     ∃ t c', exec w s = .next t ∧ kget t.crews i.crew = some c' ∧ (c'.bar n.val).expected = b.expected ∧
       (c'.bar n.val).arrived = (b.arrived + k) % b.expected ∧ (c'.bar n.val).phase = (b.phase + (b.arrived + k) / b.expected) % 65536 ∧
       ∀ f ∈ i.grp.fids, ∃ x, kget c'.fibres f = some x ∧ x.pc = i.pc + 4 ∧ x.v = (c.fibre f).v ∧ x.k = (c.fibre f).k ∧
         (w = .barw g n → f ∈ ((envAt s i).lanes g).sel → b.arrived + k < b.expected → x.st = .parked (.barw n.val b.phase))) ∧
   ∀ (g : Guard) (n : Fin 16) (d : Fin 32) (s : State) (i : Issue) (c : Crew), Issues s i c → c.life = .running → Mergeable s →
     ((envAt s i).lanes g).bad = [] → ((envAt s i).lanes g).sel ≠ [] → MayWriteG s i c d.val → gSettled i c d.val →
     ∃ t c', exec (.barrd g n d) s = .next t ∧ kget t.crews i.crew = some c' ∧
       (∀ k, (c'.bar k).arrived = (c.bar k).arrived ∧ (c'.bar k).expected = (c.bar k).expected ∧ (c'.bar k).phase = (c.bar k).phase) ∧
       c'.getG d.val = BitVec.ofNat 32 (65536 * (c.bar n.val).arrived + (c.bar n.val).phase) ∧ ∀ m, m ≠ d.val → c'.getG m = c.getG m)

/-- QPUT pushes its operand from each selected lane, in lane order, to the queue of the next stage's crew, which has room, and its fibres go on
as loose ones (R147, R148); when they do not all fit, its selected fibres park until they do; in a crew of the last stage, on a queue
without a route, or to a crew that has ended, it is FAULT 0x3D (R147). -/
def Obligations.QueuePut : Prop :=
  ∀ (g : Guard) (q : Fin 4) (a : Sel) (s : State) (i : Issue) (c : Crew) (gang : Gang), SwitchReady s i c →
    ((envAt s i).lanes g).bad = [] → ((envAt s i).lanes g).sel ≠ [] → 0 < c.b → selFits a c.b 1 = true →
    selQueue a = [] → (envAt s i).splitRead (selRegs a 1) = false → kget s.gangs c.gang = some gang →
    (gang.launch.s ≤ c.stage + 1 ∨ c.qmask.getLsbD q.val = false → exec (.qput g q a) s = .next (queueFault s i g)) ∧
    ∀ (p : Crew) (id : Nat), c.stage + 1 < gang.launch.s → c.qmask.getLsbD q.val = true →
      s.stageCrew c (c.stage + 1) = some (id, p) → kget s.crews id = some p →
      (p.alive = false → exec (.qput g q a) s = .next (queueFault s i g)) ∧
      (p.alive = true → 256 < (p.queue q.val).length + ((envAt s i).lanes g).sel.length → HoldStep (.qput g q a) s i c g) ∧
      ∀ X : Nat → Word, p.alive = true → (p.queue q.val).length + ((envAt s i).lanes g).sel.length ≤ 256 →
        (∀ f ∈ ((envAt s i).lanes g).sel, (envAt s i).read (c.fibre f) f a 0 0 = .ok (X f)) → c.queueTaken (.qput g q a) = false →
        ∃ t c' p', exec (.qput g q a) s = .next t ∧ kget t.crews i.crew = some c' ∧ kget t.crews id = some p' ∧
          p'.queue q.val = p.queue q.val ++ ((envAt s i).lanes g).sel.map X ∧ (∀ k, k ≠ q.val → p'.queue k = p.queue k) ∧
          sameCrew c c' ∧ ∀ f ∈ i.grp.fids, kget c'.fibres f = some (looseAt s c (i.pc + 4) (c.fibre f))

/-! ## Memory words -/

/-- The address of a memory word (R156): a sum that wraps nowhere, inside its segment or canonical, and aligned to the access. -/
def Obligations.MemoryAddresses : Prop :=
  ∀ (s : State) (c : Crew) (f : Fibre) (n : Nat) (base : Word64) (off : Int),
    (memAddr s c f .global n base off =
      let a : Int := base.toNat + off
      if ¬ (0 ≤ a ∧ a < 2 ^ 64 ∧ canonical (s.levels c.pasid) a.toNat = true) then .error 0x42
      else if n ≠ 0 ∧ a.toNat % n ≠ 0 then .error 0x40 else .ok a.toNat) ∧
    (memAddr s c f .scratch n base off =
      let a : Int := base.toNat % 2 ^ 32 + off
      if ¬ (0 ≤ a ∧ a + n ≤ c.segScratch.limit) then .error 0x41
      else if n ≠ 0 ∧ (c.segScratch.base + a.toNat) % n ≠ 0 then .error 0x40 else .ok (c.segScratch.base + a.toNat)) ∧
    (memAddr s c f .const n base off =
      let a : Int := base.toNat % 2 ^ 32 + off
      if ¬ (0 ≤ a ∧ a + n ≤ c.segConst.limit) then .error 0x41
      else if n ≠ 0 ∧ (c.segConst.base + a.toNat) % n ≠ 0 then .error 0x40 else .ok (c.segConst.base + a.toNat)) ∧
    memAddr s c f .frame n base off =
      let a : Int := base.toNat % 2 ^ 32 + off
      if ¬ (0 ≤ a ∧ a + n ≤ 992) then .error 0x55
      else if n ≠ 0 ∧ (f.seg + 32 + a.toNat) % n ≠ 0 then .error 0x40 else .ok (f.seg + 32 + a.toNat)

/-- The global, scratch and constant memory words, ALLOW and CACHE (R157 to R160, R132), that is ldg, stg, ldx, stx, ldc, atom, atomn,
allowInit, allowTake, allowGive, allowExact, allowProbe, cachePref, cacheClean, cacheDiscard and cacheIcinv: each selected lane's request
is in flight and counts on its token; registers and the three memories are unchanged until it completes. -/
def Obligations.MemoryWords : Prop :=
  ∀ (w : Instr) (m : MemShape), memShape w = some m → m.space ≠ .frame → ∀ (s : State) (i : Issue) (c : Crew) (R : Nat → MemReq),
    Issues s i c → m.check (envAt s i) = none → ((envAt s i).lanes m.h.g).bad = [] →
    (∀ f ∈ ((envAt s i).lanes m.h.g).sel, (envAt s i).memReq s m s.nextId f = .ok (R f) ∧ ((c.fibre f).tok m.h.k.val).count < 63) →
    ∃ t c', exec w s = .next t ∧ t = { taken s with nextId := t.nextId, ops := t.ops, crews := t.crews } ∧
      (∀ k, k ≠ i.crew → kget t.crews k = kget s.crews k) ∧ kget t.crews i.crew = some c' ∧ OnlyGroup i i.grp.latches c c' ∧
      ∀ f ∈ i.grp.fids, ∃ x, kget c'.fibres f = some x ∧
        if f ∈ ((envAt s i).lanes m.h.g).sel then
          x = { passed i (c.fibre f) with k := x.k, pend := x.pend } ∧
            x.tok m.h.k.val = { (c.fibre f).tok m.h.k.val with count := ((c.fibre f).tok m.h.k.val).count + 1 } ∧
            (∀ k, k ≠ m.h.k.val → x.tok k = (c.fibre f).tok k) ∧
            ∃ id, kget t.ops id = some { kind := .mem (R f) i.crew f, issuer := i.crew, core := i.core, word := i.word, modw := i.modw,
                                         owners := [.fibre i.crew f m.h.k.val] }
        else x = passed i (c.fibre f)

/-- LDF and STF (R158, R319, R323): when the frames of the selected fibres can be reached, each one's request is in flight and counts on its
token, and its registers are unchanged; the others go on. FENCE and IFENCE (R171, R172): a request of the order and scope is in flight for each selected
fibre and counts on K0. -/
def Obligations.FrameAndFenceWords : Prop :=
  (∀ (w : Instr) (h : MemHdr) (m : MemShape), (∃ sz, w = .ldf h sz ∨ w = .stf h sz) → memShape w = some m →
     ∀ (s z : State) (i : Issue) (c : Crew) (R : Nat → MemReq), Ready s i c h.g → m.check (envAt s i) = none →
     (∀ f ∈ ((envAt s i).lanes h.g).sel, ((c.fibre f).tok h.k.val).count < 63) →
     OneByOne (fun a f b => ∃ u, (envAt s i).memReq a m s.nextId f = .ok (R f) ∧ a.frameIssue i f (R f) = (u, none) ∧ b = u.launchMem i f (R f))
       ((envAt s i).lanes h.g).sel (taken s).fresh.2 z →
     ∃ t c', exec w s = .next t ∧ kget t.crews i.crew = some c' ∧ ∀ f ∈ i.grp.fids, ∃ x, kget c'.fibres f = some x ∧
       if f ∈ ((envAt s i).lanes h.g).sel then
         x = { passed i (c.fibre f) with k := x.k, pend := x.pend } ∧
           x.tok h.k.val = { (c.fibre f).tok h.k.val with count := ((c.fibre f).tok h.k.val).count + 1 } ∧
           (∀ k, k ≠ h.k.val → x.tok k = (c.fibre f).tok k) ∧
           ∃ id, kget t.ops id = some { kind := .mem (R f) i.crew f, issuer := i.crew, core := i.core, word := i.word, modw := i.modw,
                                        owners := [.fibre i.crew f h.k.val] }
       else x = passed i (c.fibre f)) ∧
  (∀ (w : Instr) (g : Guard) (fn : MemFn) (o : Order) (sc : Scope),
     (w = .fence g o sc ∧ fn = .fence o ∨ w = .ifence g sc ∧ fn = .ifence ∧ o = .acq) →
     ∀ (s : State) (i : Issue) (c : Crew), Issues s i c → ((envAt s i).lanes g).bad = [] →
     (∀ f ∈ ((envAt s i).lanes g).sel, ((c.fibre f).tok 0).count < 63) →
     ∃ t c', exec w s = .next t ∧ t = { taken s with nextId := t.nextId, ops := t.ops, crews := t.crews } ∧
       (∀ k, k ≠ i.crew → kget t.crews k = kget s.crews k) ∧ kget t.crews i.crew = some c' ∧ OnlyGroup i i.grp.latches c c' ∧
       ∀ f ∈ i.grp.fids, ∃ x, kget c'.fibres f = some x ∧
         if f ∈ ((envAt s i).lanes g).sel then
           x = { passed i (c.fibre f) with k := x.k, pend := x.pend } ∧
             x.tok 0 = { (c.fibre f).tok 0 with count := ((c.fibre f).tok 0).count + 1 } ∧
             ∃ id o2 r, kget t.ops id = some o2 ∧ o2.kind = .mem r i.crew f ∧ o2.owners = [.fibre i.crew f 0] ∧
               r.fn = fn ∧ r.order = o ∧ r.scope = sc
         else x = passed i (c.fibre f))

/-! ## Engine words -/

/-- The copy words (R242 to R250): an operation whose operands pass the checks of R244 joins its crew's copy queue, and XGATHER (R248)
holds the row address of each selected lane and counts for the selected fibres. -/
def Obligations.CopyWords : Prop :=
  (∀ (w : Instr) (fn k : Nat) (a : Option Sel) (n : Nat) (pair : Bool) (s : State) (i : Issue) (c : Crew) (o : CopyOp) (bar : Option Nat),
     copyRule i.mod w = some (fn, k, a, n, pair) → Issues s i c → CanCount c k i.grp.fids →
     (envAt s i).splitRead ((match a with | some x => selRegs x 1 | none => []) ++ if pair then [n, n + 1] else [n]) = false →
     copyPlan fn a n pair (envAt s i) = .ok (o, bar) →
     EngineStep w s i c k i.grp.fids fun _ c' id op => op.kind = .copy o ∧ op.bar = bar ∧ c'.copies = c.copies ++ [id]) ∧
  (∀ (h : GEngHdr) (s : State) (i : Issue) (c : Crew) (o : CopyOp) (bar : Option Nat) (X : Nat → Word × Word), Issues s i c →
     ((envAt s i).lanes h.g).bad = [] → CanCount c h.k.val ((envAt s i).lanes h.g).sel → ReadsPair s i c h.g h.a X →
     (envAt s i).splitRead [h.b.val, h.b.val + 1] = false → h.b.val < 31 →
     copyPlan 3 none h.b.val true (envAt s i) = .ok (o, bar) →
     EngineStep (.xgather h) s i c h.k.val ((envAt s i).lanes h.g).sel fun _ c' id op =>
       op.kind = .copy { o with lanes := ((envAt s i).lanes h.g).sel.map fun f => (f % 64, pairNat (X f)) } ∧ op.bar = bar ∧
         c'.copies = c.copies ++ [id])

/-- The matrix words (R259 to R269): MCLAIM begins a claim and asks the cluster's engine for a pair; the words of a claim join its queue
in issue order; MSTAT enters no queue. -/
def Obligations.MatrixWords : Prop :=
  (∀ (k : Fin 16) (s : State) (i : Issue) (c : Crew), Issues s i c → CanCount c k.val i.grp.fids → c.hasClaim = false →
    EngineStep (.mclaim k) s i c k.val i.grp.fids fun t c' id _ =>
      c'.claims = c.claims ++ [⟨[id], none, none, none, [], false⟩] ∧
        (t.cluster (clusterOf i.core)).pending = (s.cluster (clusterOf i.core)).pending ++ [i.crew]) ∧
  (∀ (w : Instr) (fn k : Nat) (x : Option (Sel × Nat)) (s : State) (i : Issue) (c : Crew) (m : MatOp) (bar : Option Nat),
    matrixRule w = some (fn, k, x) → Issues s i c → CanCount c k i.grp.fids →
    (match x with
      | none => matBare fn (envAt s i) = .ok (m, bar)
      | some (a, n) => matPlan fn a n (envAt s i) = .ok (m, bar) ∧
        (envAt s i).splitRead (selRegs a 1 ++ if fn = 4 then [n, n + 1] else [n]) = false) →
    EngineStep w s i c k i.grp.fids fun _ c' id o => o.kind = .matrix m none ∧ o.bar = bar ∧
      c'.claims = c.claims.map fun q => if q.mrel then q else { q with queue := q.queue ++ [id], mrel := decide (fn = 1) }) ∧
  ∀ (k : Fin 16) (d : Fin 32) (s : State) (i : Issue) (c : Crew), Issues s i c → CanCount c k.val i.grp.fids → MayWriteG s i c d.val →
    EngineStep (.mstat k d) s i c k.val i.grp.fids fun _ c' _ o =>
      o.kind = .matrix ⟨7, false, false, false, 0, d.val, k.val⟩ none ∧ c'.claims = c.claims

/-- The bulk words (R288 to R293, R305, R306), each counted on its token for every fibre of the group. A BXSEND whose prefix can be read,
beside sends that have no request to make, has a send record, and its request has left with the prefix; one that finds every record taken
waits. A BXRECV that no message matches is posted. BXCANCEL and BXSTAT are in flight for what they name. -/
def Obligations.BulkWords : Prop :=
  (∀ (h : EngHdr) (s v : State) (i : Issue) (c : Crew) (p : BulkPlan) (gang : Gang) (bs : List Byte), Issues s i c →
     CanCount c h.k.val i.grp.fids → (envAt s i).splitRead (selRegs h.a 1 ++ blockRegs 0 h.c.val) = false →
     bulkPlan s 0 h (envAt s i) = .ok p → kget s.gangs c.gang = some gang →
     (∀ x ∈ s.sends, x.1 < s.nextId ∧ (x.2.requested = true ∨ x.2.refused.isSome = true ∨ x.2.paused = true) ∧
       s.sameSend x.2.id (p.msgId c.gang gang.mine) = false) →
     (∀ x ∈ s.pages, .op s.nextId ∉ x.2.waiters) →
     (s.sends.length < 16384 →
       (sendState s i c gang h.k.val p).engineRead c.pasid p.addr (min p.len (16384 * s.prefixUnits)) = (v, .ok bs) →
       ∃ t c', exec (.bxsend h) s = .next t ∧ kget t.crews i.crew = some c' ∧ Counted i c c' h.k.val i.grp.fids ∧
         kget t.sends s.nextId = some { sendOf s i c gang p with requested := true, sent := min p.len (16384 * s.prefixUnits) } ∧
         (s.chipId c.gang p.chip, .request (p.msgId c.gang gang.mine) p.len p.pri bs) ∈ t.linkOut) ∧
     (16384 ≤ s.sends.length →
       ∃ t c', exec (.bxsend h) s = .next t ∧ kget t.crews i.crew = some c' ∧ Counted i c c' h.k.val i.grp.fids ∧
         kget t.sends s.nextId = some (sendOf s i c gang p) ∧ t.linkOut = s.linkOut)) ∧
  (∀ (h : EngHdr) (s : State) (i : Issue) (c : Crew) (p : BulkPlan), Issues s i c → CanCount c h.k.val i.grp.fids →
     (envAt s i).splitRead (selRegs h.a 1 ++ blockRegs 1 h.c.val) = false → bulkPlan s 1 h (envAt s i) = .ok p →
     (s.recvs.filter fun r => r.2.ending.isNone).length < 16384 →
     (∀ m ∈ s.msgs, m.2.recv.isSome = true ∨ ¬ (m.2.id.ep = p.ep ∧ (p.any = true ∨ m.2.id.tag = p.tag))) →
     EngineStep (.bxrecv h) s i c h.k.val i.grp.fids fun t _ id o => o.kind = .recv ∧ o.bar = p.bar ∧
       kget t.recvs id = some { crew := i.crew, ep := p.ep, addr := p.addr, len := p.len, tag := p.tag, any := p.any, record := p.record }) ∧
  ∀ (w : Instr) (stat : Bool) (h : EngHdr) (s : State) (i : Issue) (c : Crew) (p : BulkPlan) (gang : Gang),
    (w = .bxcancel h ∧ stat = false ∨ w = .bxstat h ∧ stat = true) → Issues s i c → CanCount c h.k.val i.grp.fids →
    (envAt s i).splitRead (selRegs h.a 1 ++ blockRegs (if stat then 3 else 2) h.c.val) = false →
    bulkPlan s (if stat then 3 else 2) h (envAt s i) = .ok p → kget s.gangs c.gang = some gang →
    EngineStep w s i c h.k.val i.grp.fids fun _ _ _ o => o.bar = p.bar ∧ o.kind = .query
      { stat := stat, side := p.side, id := p.msgId c.gang gang.mine, any := p.any, k := h.k.val, c := h.c.val }

/-! ## Frame engine words -/

/-- HINST of the selected fibres of a group, one after another, whose operands pass R322 and for which a hinge segment with the mask, the
handler and EFFMASK can be pushed: the mask joins EFFMASK and the stack has one segment more. HPOP of fibres whose current segments are
hinges that can be popped: EFFMASK is the mask that the hinge saved, and the segment below is the current one (R324, R325). Nothing else of
the fibres changes, and the others go on. -/
def Obligations.HingeWords : Prop :=
  (∀ (h : EffHdr) (s z : State) (i : Issue) (c : Crew) (M : Nat → Nat) (P : Nat → Word × Word), Ready s i c h.g →
    groupCheck (envAt s i) [(h.a, 2)] h.b.val 2 = none →
    (∀ f ∈ ((envAt s i).lanes h.g).sel, ((c.fibre f).tok 0).count < 63 ∧ (envAt s i).pairAt f h.a = .ok (M f) ∧
      (envAt s i).pairV f h.b.val = .ok (P f) ∧ M f / 2 ^ 14 % 2 ^ 18 = 0 ∧ pairNat (P f) % 4 = 0 ∧ Canonical (pairNat (P f))) →
    OneByOne (fun a f b => ∃ u, a.pushSeg i.crew f 1 0 false (hingeRecord (M f) (pairNat (P f)) (c.fibre f).effmask.toNat) = (u, .ok ()) ∧
      b = u.modFibre i.crew f fun x => { x with effmask := x.effmask ||| BitVec.ofNat 64 (M f) }) ((envAt s i).lanes h.g).sel (acting s i) z →
    GroupEnds (.hinst h) s i c h.g fun f x =>
      x = { c.fibre f with pc := i.pc + 4, seg := x.seg, depth := (c.fibre f).depth + 1,
                           effmask := (c.fibre f).effmask ||| BitVec.ofNat 64 (M f), st := x.st }) ∧
  ∀ (g : Guard) (s z : State) (i : Issue) (c : Crew) (H : Nat → SegHead), Ready s i c g → 0 < c.b →
    (∀ f ∈ ((envAt s i).lanes g).sel, ((c.fibre f).tok 0).count < 63 ∧ (H f).kind = 1) →
    OneByOne (fun a f b => ∃ u v, a.segHead i.crew ((a.crew i.crew).fibre f).seg = (u, .ok (H f)) ∧ u.popSeg i.crew f (H f) = (v, .ok ()) ∧
      b = v.modFibre i.crew f fun x => { x with effmask := BitVec.ofNat 64 (H f).saved }) ((envAt s i).lanes g).sel (acting s i) z →
    GroupEnds (.hpop g) s i c g fun f x =>
      x = { c.fibre f with pc := i.pc + 4, seg := (H f).link, depth := (c.fibre f).depth - 1,
                           effmask := BitVec.ofNat 64 (H f).saved, st := x.st }

/-- PERFORM (R327, R331): the effects of the selected fibres, with their labels and payloads, are delivered one after another with
destination V0 and V1 and the next word as resume point; fibres without a hinge for YIELD go on with 0 in both registers. -/
def Obligations.PerformWord : Prop :=
  ∀ (h : EffHdr) (s : State) (i : Issue) (c : Crew) (L P : Nat → Word), Ready s i c h.g → groupCheck (envAt s i) [(h.a, 1)] h.b.val 1 = none →
    selQueue h.a = [] →
    (∀ f ∈ ((envAt s i).lanes h.g).sel, ((c.fibre f).tok 0).count < 63 ∧ (envAt s i).read (c.fibre f) f h.a 0 0 = .ok (L f) ∧
      (envAt s i).readV (c.fibre f) f h.b.val 1 = .ok (P f) ∧ ((L f).toNat < 14 ∨ 32 ≤ (L f).toNat ∧ (L f).toNat < 64)) →
    exec (.perform h) s = .next ((((envAt s i).lanes h.g).sel.foldl (fun (t : State) f => t.deliver i.crew f
      { label := (L f).toNat, cause := 0, payload := P f, dst := 0x40, rpc := i.pc + 4, prog := true }) (acting s i)).endSwitch i) ∧
    ((∀ f ∈ ((envAt s i).lanes h.g).sel, L f = 1 ∧ (c.fibre f).effmask.getLsbD 1 = false) →
      GroupEnds (.perform h) s i c h.g fun f x => x.pc = i.pc + 4 ∧ x.getV 0 = 0 ∧ x.getV 1 = 0 ∧ x.k = (c.fibre f).k)

/-- RESUME of the selected fibres of a group, one after another, of live continuations of this revision whose segments can be relinked
(R339): each fibre is at its continuation's resume point with its predicates and FSTAT, its index registers, and its V registers below its
budget, 0 in those above, with the value given to RESUME in the destination, which is a register, the pair V0 and V1, or none. -/
def Obligations.ResumeWord : Prop :=
  ∀ (h : EffHdr) (s z : State) (i : Issue) (c : Crew) (A : Nat → Nat) (P : Nat → Word × Word) (H : Nat → ContHead), Ready s i c h.g →
    i.waited = [] → groupCheck (envAt s i) [(h.a, 2)] h.b.val 2 = none →
    (∀ f ∈ ((envAt s i).lanes h.g).sel, (envAt s i).pairAt f h.a = .ok (A f) ∧ (envAt s i).pairV f h.b.val = .ok (P f) ∧
      TokensClear (c.fibre f) ∧ (H f).rev = true ∧ (H f).budget ≤ c.b ∧ (c.fibre f).depth + (H f).nseg ≤ 256 ∧ (H f).live = true) →
    OneByOne (fun a f b => ∃ u va pa, a.findCont i.crew (A f) = (u, .ok (.ok (va, pa))) ∧ u.contHead pa = H f ∧
      u.takeResume i.crew f va pa (H f) (P f).1 (P f).2 = (b, .ok ())) ((envAt s i).lanes h.g).sel (acting s i) z →
    GroupEnds (.resume h) s i c h.g fun f x => x.pc = (H f).rpc ∧ x.p = BitVec.ofNat 7 (H f).p ∧
      x.fstat = BitVec.ofNat 32 (H f).fstat ∧
      (∀ n, n < 4 → kget x.x n = some
        (let w := fieldLe (H f).bytes (384 + 4 * n) 4; ⟨w % 64, w / 2 ^ 6 % 2 ^ 10, w / 2 ^ 16 % 2 ^ 10⟩)) ∧
      ∀ n, n < c.b → x.getV n =
        if n = (H f).dest ∨ (H f).dest = 64 ∧ n = 0 then (P f).1
        else if (H f).dest = 64 ∧ n = 1 then (P f).2
        else if n < (H f).budget then BitVec.ofNat 32 (fieldLe (H f).bytes (128 + 4 * n) 4)
        else 0

/-- DROP, KSTAT, KPACK and KUNPACK (R340 to R343): for each selected fibre an operation on its handle is in flight and counts on its token;
the others go on. -/
def Obligations.ContinuationWords : Prop :=
  ∀ (w : Instr) (g : Guard) (k : Fin 16) (a : Sel) (fn b width : Nat) (s : State) (i : Issue) (c : Crew) (A : Nat → Nat) (B : Nat → Word × Word),
    (w = .drop g k a ∧ fn = 4 ∧ b = 0 ∧ width = 1 ∨
      (∃ r : Fin 32, (w = .kstat ⟨g, k, a, r⟩ ∧ fn = 5 ∧ width = 1 ∨ w = .kpack ⟨g, k, a, r⟩ ∧ fn = 6 ∧ width = 2 ∨
        w = .kunpack ⟨g, k, a, r⟩ ∧ fn = 7 ∧ width = 2) ∧ b = r.val)) →
    Ready s i c g → groupCheck (envAt s i) [(a, 2)] b width = none →
    (∀ f ∈ ((envAt s i).lanes g).sel, ((c.fibre f).tok k.val).count < 63 ∧ (envAt s i).pairAt f a = .ok (A f) ∧
      (if fn = 6 then (envAt s i).pairV f b = .ok (B f) else B f = (0, 0)) ∧
      (fn = 6 → canonical (s.levels c.pasid) (pairNat (B f)) = true ∧ pairNat (B f) % 16 = 0) ∧
      (fn = 7 → canonical (s.levels c.pasid) (A f) = true ∧ A f % 16 = 0) ∧ ∀ n, (c.fibre f).strictV i.strict n = none) →
    ∃ t c', exec w s = .next t ∧ kget t.crews i.crew = some c' ∧ ∀ f ∈ i.grp.fids, ∃ x, kget c'.fibres f = some x ∧ x.pc = i.pc + 4 ∧
      x.v = (c.fibre f).v ∧ x.p = (c.fibre f).p ∧
      if f ∈ ((envAt s i).lanes g).sel then
        x.tok k.val = { (c.fibre f).tok k.val with count := ((c.fibre f).tok k.val).count + 1 } ∧
          ∃ id, kget t.ops id = some
            { kind := .frame { fn := fn, addr := A f, image := if fn = 7 then A f else pairNat (B f), b := b, pos := (c.fibre f).pos } f
              issuer := i.crew, core := i.core, word := i.word, modw := i.modw, owners := [.fibre i.crew f k.val] }
      else x.k = (c.fibre f).k

/-- SPAWN of the selected fibres of a group, one after another (R36, R345): with a free position and a free segment a fibre starts at the
address with the pair in V0 and V1 and the trap enables of FSTAT, and true is pushed; with no free position false is pushed and no fibre
is made. A fibre that the guard excludes pushes false. -/
def Obligations.SpawnWord : Prop :=
  ∀ (h : EffHdr) (s z : State) (i : Issue) (c : Crew) (S : Nat → Nat) (P : Nat → Word × Word) (N : Nat → Option Nat), Ready s i c h.g →
    PSettled i c → groupCheck (envAt s i) [(h.a, 2)] h.b.val 2 = none →
    (∀ f ∈ ((envAt s i).lanes h.g).sel, ((c.fibre f).tok 0).count < 63 ∧ (envAt s i).pairAt f h.a = .ok (S f) ∧
      (envAt s i).pairV f h.b.val = .ok (P f) ∧ S f % 4 = 0 ∧ Canonical (S f)) →
    let first := ((taken s).modCrew i.crew fun x =>
      x.putFibres ((envAt s i).changeAll 4 (fun p => pushP p false) ((envAt s i).lanes h.g).out)).setPcs i.crew i.grp.fids (i.pc + 4)
    OneByOne (fun a f b => ∃ u, a.checkHeader i (S f) = (u, none) ∧ (u.crew i.crew).emptyPosition = N f ∧
      match N f with
      | none => b = (u.pushSpawn (envAt s i) f false).1
      | some n => ∃ v seg, u.firstSeg i.crew n = (v, .ok seg) ∧
          b = (((v.modCrew i.crew fun x => { x with
            fibres := kset x.fibres n (newFibre ((v.crew i.crew).fibre f) (P f).1 (P f).2 seg (S f)), created := x.created + 1 }).enter
              i.crew n).pushSpawn (envAt s i) f true).1) ((envAt s i).lanes h.g).sel first z →
    ∃ t c', exec (.spawn h) s = .next t ∧ kget t.crews i.crew = some c' ∧
      (∀ f ∈ i.grp.fids, ∃ x, kget c'.fibres f = some x ∧ x.pc = i.pc + 4 ∧ x.v = (c.fibre f).v ∧ x.k = (c.fibre f).k ∧
        StackIs x.p (pushed (c.fibre f).p (decide (f ∈ ((envAt s i).lanes h.g).sel) && (N f).isSome))) ∧
      (∀ f ∈ ((envAt s i).lanes h.g).sel, ∀ n, N f = some n → kget c.fibres n = none ∧ ∃ y, kget c'.fibres n = some y ∧
        y = { v := [(0, (P f).1), (1, (P f).2)], fstat := (c.fibre f).fstatNow &&& 0x1F00, seg := y.seg, pc := S f, st := y.st }) ∧
      ∀ n, (kget c.fibres n).isSome = true ∨ (∀ f ∈ ((envAt s i).lanes h.g).sel, N f ≠ some n) →
        (kget c'.fibres n).isSome = (kget c.fibres n).isSome

/-! ## System words and hints -/

/-- A SYS word of system level at user level is FAULT 0x18 on every fibre of the group, without its effect (R396). -/
def Obligations.SystemLevelOnly : Prop :=
  ∀ (w : Instr) (a : Sel) (n : Fin 32) (s : State) (i : Issue) (c : Crew), Issues s i c → c.system = false →
    w ∈ [.segw a n, .segr a n, .csrr a n, .csrw a n, .eret n, .trap a, .halt] →
    exec w s = .next ((taken s).endWord i i.grp.latches false
      (i.grp.fids.map fun f => (f, { label := 0, cause := 0x18, payload := 0x18, rpc := i.pc + 4 })))

/-- The SYS words that read and write segment registers and registers of the management space (R155, R397). -/
def Obligations.SystemRegisters : Prop :=
  (∀ (a : Sel) (n : Fin 32) (s : State) (i : Issue) (c : Crew) (k lo hi lim : Word), Issues s i c → c.system = true →
    c.life = .running → CanCount c 0 i.grp.fids → n.val ≤ 29 →
    (envAt s i).splitRead (selRegs a 1 ++ [n.val, n.val + 1, n.val + 2]) = false →
    (envAt s i).readU a 0 = .ok k → (envAt s i).readGs [n.val, n.val + 1, n.val + 2] = .ok [lo, hi, lim] → k.toNat ≤ 1 →
    s.crewBusy i.crew = false → segValueOk k.toNat (pairNat (lo, hi)) lim.toNat = true →
    ∃ t c', exec (.segw a n) s = .next t ∧ kget t.crews i.crew = some c' ∧ c'.segConst = c.segConst ∧ c'.g = c.g ∧
      c'.segScratch = (if k = 0 then ⟨pairNat (lo, hi), lim.toNat⟩ else c.segScratch) ∧
      c'.segFrame = (if k = 1 then ⟨pairNat (lo, hi), lim.toNat⟩ else c.segFrame)) ∧
  (∀ (a : Sel) (n : Fin 32) (s u : State) (i : Issue) (c : Crew) (lo hi lim : Word) (w : List Byte), Issues s i c → c.system = true →
    c.life = .running → CanCount c 0 i.grp.fids → n.val ≤ 29 →
    (envAt s i).splitRead (selRegs a 1 ++ [n.val, n.val + 1, n.val + 2]) = false →
    (envAt s i).readU a 0 = .ok 2 → (envAt s i).readGs [n.val, n.val + 1, n.val + 2] = .ok [lo, hi, lim] →
    s.crewBusy i.crew = false → pairNat (lo, hi) % 128 = 0 →
    ((taken s).sysFence i i.grp.fids).readWindow c.pasid (pairNat (lo, hi)) lim.toNat = (u, .ok w) →
    ∃ t c', exec (.segw a n) s = .next t ∧ kget t.crews i.crew = some c' ∧ c'.segConst = ⟨pairNat (lo, hi), lim.toNat⟩ ∧
      c'.window = w ∧ c'.segScratch = c.segScratch ∧ c'.segFrame = c.segFrame ∧ c'.g = c.g) ∧
  (∀ (a : Sel) (n : Fin 32) (s : State) (i : Issue) (c : Crew) (k : Word), Issues s i c → c.system = true → CanCount c 0 i.grp.fids →
    n.val ≤ 29 → (envAt s i).splitRead (selRegs a 1) = false → (envAt s i).readU a 0 = .ok k → k.toNat ≤ 2 →
    (∀ j, j < 3 → MayWriteG s i c (n.val + j) ∧ gSettled i c (n.val + j)) →
    let r := if k = 0 then c.segScratch else if k = 1 then c.segFrame else c.segConst
    ∃ t c', exec (.segr a n) s = .next t ∧ kget t.crews i.crew = some c' ∧ c'.getG n.val = BitVec.ofNat 32 r.base ∧
      c'.getG (n.val + 1) = BitVec.ofNat 32 (r.base / 2 ^ 32) ∧ c'.getG (n.val + 2) = BitVec.ofNat 32 r.limit ∧
      ∀ m, m < n.val ∨ n.val + 2 < m → c'.getG m = c.getG m) ∧
  (∀ (a : Sel) (n : Fin 32) (s u : State) (i : Issue) (c : Crew) (off v : Nat), Issues s i c → c.system = true → CanCount c 0 i.grp.fids →
    n.val ≤ 30 → (envAt s i).splitRead (selRegs a 1) = false → csrPlan (envAt s i) a = .ok off →
    (∀ j, j < 2 → MayWriteG s i c (n.val + j)) →
    let b := (taken s).sysFence i i.grp.fids
    b.readReg (b.crewHead i.crew) off = (u, v) → (∃ x, kget u.crews i.crew = some x ∧ ∀ j, j < 2 → gSettled i x (n.val + j)) →
    ∃ t c', exec (.csrr a n) s = .next t ∧ kget t.crews i.crew = some c' ∧ c'.getG n.val = BitVec.ofNat 32 v ∧
      c'.getG (n.val + 1) = BitVec.ofNat 32 (v / 2 ^ 32)) ∧
  ∀ (a : Sel) (n : Fin 32) (s : State) (i : Issue) (c : Crew) (off : Nat) (lo hi : Word), Issues s i c → c.system = true →
    CanCount c 0 i.grp.fids → n.val ≤ 30 → (envAt s i).splitRead (selRegs a 1 ++ [n.val, n.val + 1]) = false →
    csrPlan (envAt s i) a = .ok off → (envAt s i).readGs [n.val, n.val + 1] = .ok [lo, hi] →
    let b := (taken s).sysFence i i.grp.fids
    exec (.csrw a n) s = .next ((b.writeReg (b.crewHead i.crew) off (pairNat (lo, hi))).endWord i i.grp.latches false [])

/-- ERET, TRAP, INTR and HALT (R397, R410): the crew's level falls and its group goes to the target; the effect of the cause is delivered;
an event goes to the vector of the crew's window, at either level; the crew's save for a halt begins. -/
def Obligations.SystemControl : Prop :=
  (∀ (n : Fin 32) (s : State) (i : Issue) (c : Crew) (p : Word × Word), Issues s i c → c.life = .running → c.system = true →
    CanCount c 0 i.grp.fids → n.val ≤ 30 → (envAt s i).splitRead [n.val, n.val + 1] = false →
    (envAt s i).readGs [n.val, n.val + 1] = .ok [p.1, p.2] → pairNat p % 4 = 0 → Canonical (pairNat p) →
    ∃ t c', exec (.eret n) s = .next t ∧ kget t.crews i.crew = some c' ∧ c'.system = false ∧ c'.g = c.g ∧
      ∀ f ∈ i.grp.fids, ∃ x, kget c'.fibres f = some x ∧ x.pc = pairNat p ∧ x.v = (c.fibre f).v) ∧
  (∀ (a : Sel) (s : State) (i : Issue) (c : Crew) (w : Word), Issues s i c → c.system = true → CanCount c 0 i.grp.fids →
    (envAt s i).splitRead (selRegs a 1) = false → (envAt s i).readU a 0 = .ok w → w.toNat ≤ 0xBF →
    ∃ e : Eff, e.cause.toNat = w.toNat ∧ e.label = labelOf e.cause ∧ e.payload = w ∧ e.dst = 0xFF ∧ e.rpc = i.pc + 4 ∧
      exec (.trap a) s = .next (((taken s).sysFence i i.grp.fids).endWord i i.grp.latches false (i.grp.fids.map fun f => (f, e)))) ∧
  (∀ (a : Sel) (s : State) (i : Issue) (c : Crew) (w : Word), Issues s i c → CanCount c 0 i.grp.fids →
    (envAt s i).splitRead (selRegs a 1) = false → (envAt s i).readU a 0 = .ok w → w.toNat < c.intLen →
    let b := (taken s).sysFence i i.grp.fids
    exec (.intr a) s = .next ((b.vectorEvent (c.intFirst + w.toNat) (b.crewHead i.crew)).endWord i i.grp.latches false [])) ∧
  ∀ (s : State) (i : Issue) (c : Crew), Issues s i c → c.system = true → c.life = .running → CanCount c 0 i.grp.fids →
    ∃ t, exec .halt s = .next t ∧ (t.crew i.crew).life = .halting

/-- A HINT word joins the pending set of its group, which keeps the address of the first of them, and changes nothing else; a second one of
its kind is FAULT 0x12 (R73, R76). -/
def Obligations.HintWords : Prop :=
  ∀ (w : Instr) (again : Bool) (h : Hints) (s : State) (i : Issue) (c : Crew), Issues s i c →
    hintRule i.grp.hints w = some (again, h) →
    (again = true → exec w s = .next ((taken s).groupEffect i (0, 0x12))) ∧
    (again = false → ∃ t c', exec w s = .next t ∧ OnlyCrew s t i.crew ∧ kget t.crews i.crew = some c' ∧ sameCrew c c' ∧
      (∀ f ∈ i.grp.fids, kget c'.fibres f = some (passed i (c.fibre f))) ∧
      (∀ f, f ∉ i.grp.fids → kget c'.fibres f = kget c.fibres f) ∧
      ∀ g, i.gid = some g → kget c'.groups g = (kget c.groups g).map fun x =>
        { groupAt i i.grp.latches x with hints := { h with first := i.grp.hints.start i.pc } })

/-! ## Events: memory -/

/-- COMPLETION (R133, R134, R137) of a result that its home has given, of an access to the scratchpad, and of a relaxed global access of a
line that its core does not hold and has room for: the token counts one less, a load writes its registers, a scratch store its bytes,
and a global store leaves them dirty in the L1, with every byte of memory unchanged (R160, R163). -/
def Obligations.CompletionEvent : Prop :=
  (∀ (s : State) (op crew fid : Nat) (o : Op) (c : Crew) (f : Fibre) (r : MemReq), kget s.ops op = some o → o.kind = .mem r crew fid →
    o.stage = .atHome → Awake s crew fid c f → (r.data ≠ [] → r.dests ≠ [] ∧ retryable r.cause = false) →
    Completes (.completion op) s op crew fid f r (if r.cause = 0 then none else some r.cause) r.data fun t =>
      t.dev = s.dev ∧ t.host = s.host ∧ t.scratch = s.scratch) ∧
  (∀ (s : State) (op crew fid : Nat) (o : Op) (c : Crew) (f : Fibre) (r : MemReq) (sz : Size), ReadyMem s op o crew fid c f r →
    r.space = .scratch → r.order = .relaxed → s.bankGated o.core r = false →
    (r.fn = .load sz → s.scratchPoison (clusterOf o.core) r.ea r.n = false →
      Completes (.completion op) s op crew fid f r none (loadVals sz (s.readScratch (clusterOf o.core) r.ea r.n)) fun t =>
        t.dev = s.dev ∧ t.host = s.host ∧ t.scratch = s.scratch) ∧
    (r.fn = .store sz → s.memWf → Completes (.completion op) s op crew fid f r none [] fun t =>
      t.dev = s.dev ∧ t.host = s.host ∧
        Stored (memRead s.scratch) (memRead t.scratch) (scratchKey (clusterOf o.core) r.ea) (storeBytes sz r.data))) ∧
  ∀ (s u : State) (op crew fid pa : Nat) (o : Op) (c : Crew) (f : Fibre) (r : MemReq) (sz : Size), ReadyMem s op o crew fid c f r →
    r.space = .global → r.order = .relaxed → s.reqXl o r = (u, .ok pa true) → u.inCounter pa = false → u.dataCause pa r.n = none →
    pa % 128 + r.n ≤ 128 → kget (u.agent (u.agentOf o.core)).l1 (pa / 128) = none →
    kget (u.agent (u.agentOf o.core)).wc (pa / 128) = none → NoSnoop s u →
    (u.roomMates (u.agentOf o.core) (pa / 128)).length < l1Lines →
    (r.fn = .load sz → Completes (.completion op) s op crew fid f r none (loadVals sz (u.readPas pa r.n)) fun t =>
      t.dev = u.dev ∧ t.host = u.host ∧ t.scratch = u.scratch) ∧
    (r.fn = .store sz → r.cp ≠ .nt → r.cp ≠ .wc → Completes (.completion op) s op crew fid f r none [] fun t =>
      t.dev = u.dev ∧ t.host = u.host ∧ t.scratch = u.scratch ∧ ∃ l, kget (t.agent (u.agentOf o.core)).l1 (pa / 128) = some l ∧
        l.writer = some crew ∧ ∀ j b, (storeBytes sz r.data)[j]? = some b →
          ∃ y, kget l.bytes (pa % 128 + j) = some y ∧ y.val = b ∧ y.dirty = true)

/-- TRANSIENT_FAULT (R19): a request is reissued from its record, and after 8 reissues completes with cause 0xB1; WALK_DONE (R177, R180): the
operation has its physical address while the lease of the entry lasts; ATOMIC_AT_HOME (R169, R170): a relaxed atomic on device memory
of which its core holds no line is applied to the bytes at its home, and its result is the value before. -/
def Obligations.RequestEvents : Prop :=
  (∀ (s : State) (op : Nat) (o : Op), kget s.ops op = some o → s.atRest o = false → o.replays < 8 →
    exec (.transientFault op) s = .next { s with ops := kset s.ops op { o with replays := o.replays + 1, walked := false } }) ∧
  (∀ (s : State) (op crew fid : Nat) (o : Op) (c : Crew) (f : Fibre) (r : MemReq), kget s.ops op = some o → o.kind = .mem r crew fid →
    s.atRest o = false → 8 ≤ o.replays → Awake s crew fid c f →
    Completes (.transientFault op) s op crew fid f r (some 0xB1) [] fun t =>
      t.dev = s.dev ∧ t.host = s.host ∧ t.scratch = s.scratch) ∧
  (∀ (s u : State) (op crew fid pa : Nat) (o : Op) (r : MemReq) (cacheable : Bool), kget s.ops op = some o → o.kind = .mem r crew fid →
    o.stage = .issued → o.walked = false → r.translates = true →
    s.coreXl o.core (s.crew o.issuer).pasid r.ea r.acc = (u, .ok pa cacheable) →
    Becomes (.walkDone op) s fun t => t = { u with ops := t.ops } ∧ (∀ k, k ≠ op → kget t.ops k = kget u.ops k) ∧
      kget t.ops op = some { o with walked := true, pa := pa, uncached := !cacheable
                                    lease := u.leaseOf o.core (s.crew o.issuer).pasid r.ea r.acc }) ∧
  ∀ (s u : State) (op crew fid pa : Nat) (o : Op) (c : Crew) (f : Fibre) (r : MemReq) (af : AtomFn) (result cacheable : Bool),
    ReadyMem s op o crew fid c f r → r.fn = .atom af result → r.order = .relaxed →
    s.reqHome o crew fid r = (u, .ok (pa, cacheable)) → isDevice pa = true → u.memWf → pa % 128 + r.n ≤ 128 →
    kget (u.agent (u.agentOf o.core)).l1 (pa / 128) = none → kget (u.agent (u.agentOf o.core)).wc (pa / 128) = none →
    (u.home (pa / 128)).shared = false → u.dataCause pa r.n = none → NoSnoop s u →
    let old := u.readNat pa r.n
    let new := (atomRes af old (wordsNat (r.data.take (r.n / 4))) (wordsNat (r.data.drop (r.n / 4)))).1
    Becomes (.atomicAtHome op) s fun t =>
      (∃ o' q, kget t.ops op = some o' ∧ o'.stage = .atHome ∧ o'.kind = .mem q crew fid ∧ o'.owners = o.owners ∧
        q.data = if result then wordsOf (r.n / 4) old else []) ∧
      t.scratch = u.scratch ∧ Stored u.readPa t.readPa pa (match new with | some x => leBytes r.n x | none => [])

/-- MERGE_AT_HOME (R209): the dirty bytes of a device line that no other agent has open go to the home and stay clean in the L1;
DRAIN_REQUEST (R203): every dirty byte of the agent is merged and no release record names the agent; CLEAN_BYTE_EXPIRY (R201): clean bytes
fetched more than 8 us ago leave the L1, and no other byte does. -/
def Obligations.AgentEvents : Prop :=
  (∀ (s : State) (a line : Nat) (l : L1Line), kget (s.agent a).l1 line = some l → l.dirty ≠ [] → (kkeys l.dirty).Nodup →
    (∀ o ∈ kkeys l.dirty, o < 128) → kget (s.agent a).wc line = none → isDevice (line * 128) = true → s.memWf →
    (s.home line).shared = false → (s.home line).crowded = false → (∀ e ∈ (s.home line).opens, e.agent = a) →
    Becomes (.mergeAtHome a line) s fun t =>
      kget (t.agent a).l1 line = some l.cleaned ∧ t.crews = s.crews ∧ t.ops = s.ops ∧ t.scratch = s.scratch ∧
      (∀ o b, kget l.dirty o = some b → t.readPa (line * 128 + o) = b.val) ∧
      ∀ x, (∀ o ∈ kkeys l.dirty, x ≠ line * 128 + o) → t.readPa x = s.readPa x) ∧
  (∀ (s : State) (a : Nat), Rising (s.agent a).l1 → NoSnoop s (s.drain a).1 → (s.drain a).2 = none →
    Becomes (.drainRequest a) s fun t => (∀ line l, kget (t.agent a).l1 line = some l → l.dirty = []) ∧
      ∀ line, ∀ e ∈ (t.home line).rel, e.who ≠ .agent a) ∧
  ∀ (s : State) (a : Nat), Becomes (.cleanByteExpiry a) s fun t =>
    t = { s with agents := t.agents } ∧ (∀ k, k ≠ a → t.agent k = s.agent k) ∧ (t.agent a).wc = (s.agent a).wc ∧
      (t.agent a).releases = (s.agent a).releases ∧
      (∀ l ∈ (t.agent a).l1, ∀ b ∈ l.2.bytes, b.2.dirty = true ∨ s.tick - 8000 ≤ b.2.tick) ∧
      (∀ l ∈ (t.agent a).l1, ∃ k ∈ (s.agent a).l1, k.1 = l.1 ∧ ∀ b ∈ l.2.bytes, b ∈ k.2.bytes) ∧
      ∀ l ∈ (s.agent a).l1, ∀ b ∈ l.2.bytes, (b.2.dirty = true ∨ s.tick - 8000 ≤ b.2.tick) →
        ∃ k ∈ (t.agent a).l1, k.1 = l.1 ∧ b ∈ k.2.bytes

/-- LEASE_EXPIRY (R180), XL_FLUSH and FLUSH_DONE (R181): entries of the TLBs end, and BUSY lasts until the accesses translated through them have
reached their homes; a write of XL_FLUSH while BUSY is 1 is ignored. PAGE_REQUEST_RESPONSE (R183): a fibre whose only page is there is
parked no more and its replay list is issued again; one that is denied its page waits for none of its other pages any more and takes
FAULT 0x45, and 0x46 after 100 ms without an answer (PAGE_REQUEST_TIMEOUT). -/
def Obligations.TranslationEvents : Prop :=
  (∀ s : State, Becomes .leaseExpiry s fun t => t = { s with cores := t.cores, dies := t.dies } ∧
    (∀ c, t.core c = { s.core c with tlb := (s.core c).tlb.filter fun e => decide (s.tick < e.lease) }) ∧
    ∀ d, t.die d = { s.die d with tlb := (s.die d).tlb.filter fun e => decide (s.tick < e.lease) }) ∧
  (∀ (s : State) (w : FlushWrite) (pasid : Nat), s.stage = stageReady →
    (s.flushBusy = true → exec (.xlFlush w pasid) s = .next s) ∧
    (s.flushBusy = false → Becomes (.xlFlush w pasid) s fun t =>
      t = { s with flushBusy := true, flushAll := w.all, flushPasid := pasid, flushOps := t.flushOps, cores := t.cores, dies := t.dies } ∧
      (∀ c, t.core c = { s.core c with tlb := (s.core c).tlb.filter fun e => !(w.all || e.pasid == pasid) }) ∧
      (∀ d, t.die d = { s.die d with tlb := (s.die d).tlb.filter fun e => !(w.all || e.pasid == pasid) }) ∧
      ∀ id, id ∈ t.flushOps ↔ ∃ o, (id, o) ∈ s.ops ∧ o.walked = true ∧ (w.all = true ∨ (s.crew o.issuer).pasid = pasid))) ∧
  (∀ s : State, s.flushBusy = true → (∀ id ∈ s.flushOps, ∀ o, kget s.ops id = some o → o.stage ≠ .issued) →
    exec .flushDone s = .next { s with flushBusy := false, flushOps := [] }) ∧
  (∀ (s : State) (req crew fid rpc : Nat) (stay : Bool) (p : PageReq) (c : Crew) (f : Fibre), kget s.pages req = some p →
    p.waiters = [.fibre crew fid] → kget s.crews crew = some c → kget c.fibres fid = some f → f.st = .parked (.page rpc stay) →
    ({ s with pages := kdel s.pages req }.pageWaits (.fibre crew fid) = false →
      Becomes (.pageRequestResponse req .success) s fun t => t.pages = kdel s.pages req ∧ ∃ c' x, kget t.crews crew = some c' ∧
        kget c'.fibres fid = some x ∧ x.st.isParked = false ∧ x = { f with replay := [], st := x.st } ∧
        ∀ r ∈ f.replay, ∃ id o, kget t.ops id = some o ∧ o.kind = .mem { r with cause := 0, page := 0 } crew fid ∧
          o.owners = [.fibre crew fid r.k]) ∧
    (∀ reply, reply = .invalid ∨ reply = .failure → exec (.pageRequestResponse req reply) s =
      .next ((State.dropWaiter { s with pages := kdel s.pages req } (.fibre crew fid)).deliver crew fid { label := 0, cause := 0x45, payload := 0x45, rpc := rpc, stay := stay })) ∧
    (s.tick < p.sent + 100000000 → exec (.pageRequestTimeout req) s = .next s) ∧
    (p.sent + 100000000 ≤ s.tick → exec (.pageRequestTimeout req) s =
      .next ((State.dropWaiter { s with pages := kdel s.pages req } (.fibre crew fid)).deliver crew fid { label := 0, cause := 0x46, payload := 0x46, rpc := rpc, stay := stay })))

/-- UNCORRECTABLE_ERROR (R408, R409): bytes of device memory, also in the L2, or of an L1 are poisoned, or a fibre meets POISON at its next
word; POWER_GATE and UNIT_WAKE (R168): a scratchpad bank that wakes reads as zero, and no other byte has changed. ALLOW_HOME_REQUEST of a
TAKE (R191): with enough units at home, HOME falls by the units that travel, the core's new slot holds them less those taken, and n units
are the result; that at most n + 2^32 - 1 units travel, a bound that the pseudocode of R191 does not have, is the model's choice (log
entry 134). SLOT_RETURN (R189): a slot's units go to HOME. JOIN_NOTICE (R192): a GIVE of a core without a slot makes one with the units
given. -/
def Obligations.UnitEvents : Prop :=
  ((∀ (s : State) (site : PoisonSite) (addr len : Nat), (site = .device addr len ∨ site = .l2 addr len) →
     Becomes (.uncorrectableError site) s fun t => t = { s with poisonDev := t.poisonDev } ∧
       ∀ x, x ∈ t.poisonDev ↔ x ∈ s.poisonDev ∨ (addr ≤ x ∧ x < addr + len ∧ isDevice x = true)) ∧
   (∀ (s : State) (a addr len line : Nat) (l : L1Line), kget (s.agent a).l1 line = some l →
     Becomes (.uncorrectableError (.l1 a addr len)) s fun t => t = { s with agents := t.agents } ∧ (∀ k, k ≠ a → t.agent k = s.agent k) ∧
       ∃ m, kget (t.agent a).l1 line = some m ∧ m = { l with bytes := m.bytes } ∧ ∀ o b, kget l.bytes o = some b → kget m.bytes o =
         some { b with poison := b.poison || (decide (addr ≤ line * 128 + o) && decide (line * 128 + o < addr + len)) }) ∧
   (∀ (s : State) (crew fid : Nat) (c : Crew) (f : Fibre), kget s.crews crew = some c → kget c.fibres fid = some f →
     Becomes (.uncorrectableError (.fibre crew fid)) s fun t => t = { s with crews := t.crews } ∧
       (∀ k, k ≠ crew → kget t.crews k = kget s.crews k) ∧ ∃ c', kget t.crews crew = some c' ∧
         c' = { c with fibres := c'.fibres, image := c'.image } ∧ kget c'.fibres fid = some { f with poisoned := true } ∧
         ∀ k, k ≠ fid → kget c'.fibres k = kget c.fibres k) ∧
   (∀ (s : State) (cluster bank : Nat), cluster < 192 → bank < 32 → GateUnit.scratchBank cluster bank ∉ s.gated →
     exec (.powerGate (.scratchBank cluster bank)) s = .next { s with gated := s.gated ++ [.scratchBank cluster bank] }) ∧
   ∀ (s : State) (cluster bank : Nat), GateUnit.scratchBank cluster bank ∈ s.gated →
     Becomes (.unitWake (.scratchBank cluster bank)) s fun t =>
       t = { s with gated := t.gated, scratch := t.scratch, poisonScratch := t.poisonScratch, tags := t.tags } ∧
       (∀ u, u ∈ t.gated ↔ u ∈ s.gated ∧ u ≠ .scratchBank cluster bank) ∧
       ∀ a, memRead t.scratch a =
         if a / Config.scratchBytes = cluster ∧ a % Config.scratchBytes / 16 % 32 = bank then 0 else memRead s.scratch a) ∧
  ((∀ (s u : State) (op crew fid pa : Nat) (o : Op) (c : Crew) (f : Fibre) (r : MemReq) (cacheable : Bool), ReadyMem s op o crew fid c f r →
     s.reqHome o crew fid r = (u, .ok (pa, cacheable)) → u.memWf → u.slot o.core pa = none → (u.core o.core).slots.length < 64 →
     u.inCounter pa = true → u.poisoned pa 64 = false → isDevice pa = true → pa % 64 = 0 → (u.home (pa / 128)).shared = false → NoSnoop s u →
     let n := wordsNat r.data
     let home := u.counterHome pa
     let h := (insertNew o.core (kgetD u.holders pa [])).length
     let k := min (min home (max n (ceilDiv home (2 * h)))) (n + 2 ^ 32 - 1)
     (r.fn = .allow .take → n ≤ home → Becomes (.allowHomeRequest op) s fun t =>
       t.counterHome pa = home - k ∧ t.slot o.core pa = some (k - n) ∧ kgetD t.holders pa [] = insertNew o.core (kgetD u.holders pa []) ∧
         ∃ o' q, kget t.ops op = some o' ∧ o'.stage = .atHome ∧ o'.kind = .mem q crew fid ∧ q.data = [BitVec.ofNat 32 n] ∧ q.cause = 0) ∧
     (r.fn = .allow .give → Becomes (.joinNotice op) s fun t =>
       t.counterHome pa = home ∧ t.slot o.core pa = some n ∧ kgetD t.holders pa [] = insertNew o.core (kgetD u.holders pa []) ∧
         ∃ o' q, kget t.ops op = some o' ∧ o'.stage = .atHome ∧ o'.kind = .mem q crew fid ∧ q.data = [] ∧ q.cause = 0)) ∧
   ∀ (s : State) (core pa units : Nat), s.memWf → s.slot core pa = some units → isDevice pa = true → pa % 64 = 0 →
     (s.home (pa / 128)).shared = false → Becomes (.slotReturn core pa) s fun t => t.slot core pa = none ∧ t.counterHome pa = (s.counterHome pa + units) % 2 ^ 64 ∧
       core ∉ kgetD t.holders pa [] ∧ t.crews = s.crews ∧ ∀ k, k ≠ core → t.core k = s.core k)

/-- The events of host coherence change the record of one line (R214, R215): a snoop takes a host line's ownership, at once or when the change
that it was granted for has been made, a response grants or refuses it, a back-invalidate answer ends the sharing. HOST_WRITE: a write
stores its bytes at their homes and changes no other byte, no crew and no operation; a read shares its device lines (R215), and one with
acquire semantics closes the open bytes of each SYSTEM release that it reads (R208, R216); below READY device memory takes neither (R407);
a host sets and clears its aborts (R194) and masks a vector (R374). HOST_UNREACHABLE_TIMEOUT (R194): the one load that waits for a host
completes with cause 0x57. -/
def Obligations.HostEvents : Prop :=
  (∀ (s : State) (line : Nat) (granted : Bool),
    (isHost (line * 128) = true → Becomes (.hostSnoop line) s fun t => t = { s with homes := t.homes } ∧
      (∀ k, k ≠ line → t.home k = s.home k) ∧
      t.home line = if (s.home line).keep then { s.home line with snoopDue := true } else { s.home line with owned := false }) ∧
    (isHost (line * 128) = true → (s.home line).asked = true →
      Becomes (.ownershipResponse line granted) s fun t => t = { s with homes := t.homes } ∧ (∀ k, k ≠ line → t.home k = s.home k) ∧
        t.home line = if granted then { s.home line with owned := true, keep := true, asked := false, refusals := 0 }
          else { s.home line with owned := false, asked := false, refusals := (s.home line).refusals + 1 }) ∧
    Becomes (.backInvalidateDone line) s fun t => t = { s with homes := t.homes } ∧
      (∀ k, k ≠ line → t.home k = s.home k) ∧ t.home line = { s.home line with shared := false, snooped := false }) ∧
  (∀ (s : State) (head : Fin 2) (addr : Nat) (bytes : List Byte) (release : Bool), (s.stage = stageReady ∨ isDevice addr = false) → s.memWf →
    Becomes (.hostWrite head addr (.write bytes) release) s fun t =>
      Stored s.readPa t.readPa (if isDevice addr then addr else hostPa head.val addr) bytes ∧ t.scratch = s.scratch ∧ t.crews = s.crews ∧ t.ops = s.ops ∧ t.hostOut = s.hostOut) ∧
  (∀ (s : State) (head : Fin 2) (addr n : Nat) (acquire : Bool), (s.stage = stageReady ∨ isDevice addr = false) →
    Becomes (.hostWrite head addr (.read n) acquire) s fun t =>
      let pa := if isDevice addr then addr else hostPa head.val addr
      t = { s with homes := t.homes, agents := t.agents } ∧
      (isDevice pa = true → ∀ line, pa / 128 ≤ line → line * 128 < pa + n → (t.home line).shared = true) ∧
      ∀ (i : Nat) (g : RelTag), acquire = true → i < n → g ∈ kgetD s.tags (pa + i) [] → g.scope = .system →
        s.agentOf g.core ≠ headAgent head.val → ∀ line, ∀ e ∈ (t.home line).opens, e.agent = s.agentOf g.core → ∀ b ∈ e.bytes, g.num ≤ b.2) ∧
  (∀ (s : State) (head : Fin 2) (addr : Nat) (act : HostAct) (order : Bool), s.stage ≠ stageReady → isDevice addr = true →
    ((∃ bytes, act = .write bytes) ∨ ∃ n, act = .read n) → exec (.hostWrite head addr act order) s = .next s) ∧
  (∀ (s : State) (head : Fin 2) (addr n : Nat) (on order : Bool), Becomes (.hostWrite head addr (.abort n on) order) s fun t =>
    t = { s with hostAbort := t.hostAbort } ∧ ∀ a, a ∈ t.hostAbort ↔
      if hostPa head.val addr ≤ a ∧ a < hostPa head.val addr + n then on = true else a ∈ s.hostAbort) ∧
  (∀ (s : State) (head : Fin 2) (addr v : Nat) (order : Bool), v < 2048 → exec (.hostWrite head addr (.mask v) order) s =
    .next { s with vectors := kset s.vectors v { s.vector v with masked := true } }) ∧
  ∀ (s u : State) (op crew fid pa d : Nat) (o : Op) (c : Crew) (f : Fibre) (r : MemReq) (sz : Size) (cacheable : Bool),
    (s.ops.filter fun x => x.2.waitsHost s) = [(op, o)] → ReadyMem s op o crew fid c f r → r.fn = .load sz → r.space = .global →
    r.order = .relaxed → s.hostDown = some d → d + 2000000 ≤ s.tick → s.reqXl o r = (u, .ok pa cacheable) → isHost pa = true →
    (cacheable = true → u.l1Holds (u.agentOf o.core) pa r.n = false) →
    (∀ atHome, u.seenPoison (u.agentOf o.core) pa r.n atHome = false) → NoSnoop s u →
    Completes .hostUnreachableTimeout s op crew fid f r (some 0x57) [] fun t => t.host = u.host ∧ t.scratch = s.scratch

/-! ## Events: bulk transfer and links -/

/-- The Wicket's side of a message from another chip (R291, R293, R295 to R302): a request is entered with its prefix or refused; the first
eligible message gets a grant of at most 16 KiB; data that is missing is kept, or written into the bound buffer; a grant that is not
begun expires; a pause and a resume; and a message without a path to its source is orphaned. -/
def Obligations.WicketEvents : Prop :=
  (∀ (s : State) (id : MsgId) (len pri port : Nat) (bytes : List Byte), s.peerGang id.gang id.src = true →
    s.chipId id.gang id.dst = s.sysId → (kgetD s.ports port {}).up = true → (∀ m ∈ s.msgs, m.2.id ≠ id) → 0 < len → bytes.length ≤ len →
    (16384 ≤ s.msgs.length → exec (.bulkRequest id len pri port bytes) s = .next (s.tellChip (s.chipId id.gang id.src) (.refuse id))) ∧
    (s.msgs.length < 16384 → (∀ r ∈ s.recvs, r.2.bound = none → r.2.ending = none →
        ¬ (r.2.ep = id.ep ∧ (r.2.any = true ∨ r.2.tag = id.tag))) → s.stored + bytes.length ≤ 67108864 →
      exec (.bulkRequest id len pri port bytes) s = .next { s with
        nextId := s.nextId + 1
        msgs := kset s.msgs s.nextId
          { id := id, len := len, pri := pri, port := port, pre := bytes.length, recv := none, u := rangeOf bytes.length len
            missing := rangeOf bytes.length len, wait := if bytes.length = 0 then [] else [(0, bytes)], since := s.tick
            state := .unmatched } })) ∧
  (∀ (s : State) (port mid lo hi rid : Nat) (rest : List (Nat × Nat)) (m : Msg) (r : Recv), s.eligible port = [(mid, m)] →
    s.windowRoom port = true → m.u = (lo, hi) :: rest → m.recv = some rid → kget s.recvs rid = some r →
    s.pagesReady (s.crew r.crew).pasid (r.addr + lo) (min 16384 (hi - lo)) = none →
    Becomes (.grantIssue port) s fun t => t.bxGrants = s.bxGrants + 1 ∧
      t.linkOut = s.linkOut ++ [(s.chipId m.id.gang m.id.src, .grant m.id ⟨lo, min 16384 (hi - lo), m.epoch⟩)] ∧
      ∃ x, kget t.msgs mid = some x ∧ x.u = rangeOut m.u lo (lo + min 16384 (hi - lo)) ∧ x.missing = m.missing ∧
        (kget x.grants s.nextId).map (fun g => (g.off, g.size, g.epoch, g.issued, g.begun)) =
          some (lo, min 16384 (hi - lo), m.epoch, s.tick, false)) ∧
  (∀ (s : State) (id : MsgId) (off mid : Nat) (bytes : List Byte) (m : Msg), s.peerGang id.gang id.src = true → s.msgOf id = some (mid, m) →
    kget s.msgs mid = some m → bytes ≠ [] → rangeIn m.missing off (off + bytes.length) = [(off, off + bytes.length)] →
    (∀ epoch, epoch ≠ m.epoch → exec (.bulkData id off epoch bytes) s = .next s) ∧
    (m.recv = none → Becomes (.bulkData id off m.epoch bytes) s fun t => t = { s with msgs := t.msgs } ∧ ∃ x, kget t.msgs mid = some x ∧
      x.wait = m.wait ++ [(off, bytes)] ∧ x.missing = rangeOut m.missing off (off + bytes.length) ∧
      x.u = rangeOut m.u off (off + bytes.length)) ∧
    ∀ (rid gid : Nat) (g : Grant) (r : Recv) (v : State), m.recv = some rid → kget s.recvs rid = some r → m.wait = [] →
      s.pageWaits (.op rid) = false → bytes.length ≤ r.len - off → m.grants = [(gid, g)] → g.left = [(off, off + bytes.length)] →
      rangeOut m.u off (off + bytes.length) ≠ [] →
      let x : Msg := { m with missing := rangeOut m.missing off (off + bytes.length), u := rangeOut m.u off (off + bytes.length)
                              wait := [(off, bytes)], grants := [], ign := if g.begun then m.ign else 0 }
      ({ s with msgs := kset s.msgs mid x } : State).engineWrites (bulkAgent (ioOf m.port)) (some r.crew) (s.crew r.crew).pasid
        [(r.addr + off, bytes)] = (v, .ok ()) →
      NoSnoop s v → Becomes (.bulkData id off m.epoch bytes) s fun t => t = { v with msgs := t.msgs, ops := t.ops } ∧
        kget t.msgs mid = some { x with wait := [] }) ∧
  (∀ (s : State) (mid gid : Nat) (m : Msg) (g : Grant), kget s.msgs mid = some m → kget m.grants gid = some g → g.begun = false →
    g.issued + 40000 < s.tick → m.state = .ready → m.ign + 1 < 4 →
    exec (.grantExpiry mid gid) s = .next { s with
      msgs := kset s.msgs mid { m with grants := kdel m.grants gid, u := rangeAdds m.u g.left, ign := m.ign + 1 }
      bxExpired := s.bxExpired + 1 }) ∧
  (∀ (s : State) (id : MsgId) (mid off : Nat) (m : Msg), s.peerGang id.gang id.src = true → s.msgOf id = some (mid, m) →
    (m.state ≠ .paused → Rising m.grants → Becomes (.pause id) s fun t => t = { s with msgs := t.msgs, bxExpired := t.bxExpired } ∧
      ∃ x, kget t.msgs mid = some x ∧ x.state = .paused ∧ x.ign = 0 ∧ x.epoch = m.epoch ∧ x.missing = m.missing ∧
        ∀ g, kget x.grants g = (kget m.grants g).filter fun y => y.begun) ∧
    (m.state = .paused → (m.recv = none ∨ rangeIn m.missing off m.len ≠ []) → exec (.bulkResume id off) s = .next { s with
      msgs := kset s.msgs mid { m with u := rangeIn m.missing off m.len, epoch := m.epoch + 1, since := s.tick
                                       state := if m.recv.isSome then .ready else .unmatched } })) ∧
  ∀ (s : State) (mid : Nat) (m : Msg), kget s.msgs mid = some m → s.peerGang m.id.gang m.id.src = true →
    s.pathGone (s.chipId m.id.gang m.id.src) = true → m.recv = none →
    Becomes (.sourcePathLoss mid) s fun t => t.msgs = kdel s.msgs mid ∧ t.bxOrphaned = s.bxOrphaned + 1 ∧
      t.linkOut = s.linkOut ++ [(s.chipId m.id.gang m.id.src, .orphaned m.id)] ∧ t.recvs = s.recvs ∧ t.crews = s.crews

/-- The sender's side of the one send of a chip (R291, R292, R294, R299, R304, R305): a refused request is sent again after 10 us with the
prefix that is read; a grant is answered with its bytes; and a notice ends the send, whose token counts one less and holds the cause. -/
def Obligations.SendEvents : Prop :=
  (∀ (s u : State) (id t0 : Nat) (x : Send) (bs : List Byte), s.sends = [(id, x)] → x.requested = false → x.refused = some t0 →
    t0 + 10000 ≤ s.tick → x.accepted = false → x.cancels = [] → x.paused = false →
    let y : Send := { x with refused := none, sent := 0, epoch := 0 }
    let n := min x.len (16384 * s.prefixUnits)
    ({ s with sends := [(id, y)] } : State).engineRead (s.crew x.crew).pasid x.addr n = (u, .ok bs) →
    Becomes (.requestRetry id) s fun t =>
      t.linkOut = u.linkOut ++ [(s.chipId x.id.gang x.id.dst, .request x.id x.len x.pri bs)] ∧
      t.sends = [(id, { y with requested := true, sent := n })] ∧ t.crews = u.crews) ∧
  (∀ (s u : State) (id : Nat) (x : Send) (r : GrantRange) (bs : List Byte), s.sends = [(id, x)] → s.remoteSend id = true →
    x.paused = false → x.cancels = [] → x.grants = [] → r.epoch = x.epoch → r.off + r.size ≤ x.len → s.pageWaits (.op id) = false →
    ({ s with sends := [(id, { x with accepted := true, grants := [r] })] } : State).engineRead (s.crew x.crew).pasid (x.addr + r.off) r.size =
      (u, .ok bs) →
    Becomes (.grantArrival id r) s fun t =>
      t.linkOut = u.linkOut ++ [(s.chipId x.id.gang x.id.dst, .data x.id r.off r.epoch bs)] ∧
      t.sends = [(id, { x with accepted := true, sent := max x.sent (r.off + r.size) })] ∧ t.crews = u.crews) ∧
  ∀ (e : Instr) (cause : Option Cause) (s : State) (id crew fid k : Nat) (x : Send) (o : Op) (c : Crew) (f : Fibre),
    (e = .doneNotice id ∧ cause = none ∨ e = .truncatedNotice id ∧ cause = some 0x8B ∨ e = .orphanedNotice id ∧ cause = some 0x8A ∨
      e = .cancelledNotice x.id true ∧ cause = some 0x8C ∨ e = .peerFaultNotice x.id true ∧ cause = some 0x8F ∨
      e = .sendUnreachable id ∧ cause = some 0x8D ∧ x.accepted = false ∧ s.pathGone (s.chipId x.id.gang x.id.dst) = true ∧
        x.since + 2000000 ≤ s.tick) →
    s.sends = [(id, x)] → s.remoteSend id = true → x.cancels = [] → kget s.ops id = some o → o.owners = [.fibre crew fid k] →
    o.issuer = crew → o.bar = none → c.life = .running → Awake s crew fid c f →
    Becomes e s fun t => t.sends = [] ∧ kget t.ops id = none ∧ t.dev = s.dev ∧ t.host = s.host ∧ t.scratch = s.scratch ∧
      ∃ c' y, kget t.crews crew = some c' ∧ kget c'.fibres fid = some y ∧ y = { f with k := y.k } ∧
        (y.tok k).count = (f.tok k).count - 1 ∧ (y.tok k).err = ((f.tok k).err || cause.isSome) ∧
        (y.tok k).cause = (if (f.tok k).err then (f.tok k).cause else cause.getD (f.tok k).cause) ∧
        ∀ n, n ≠ k → y.tok n = f.tok n

/-- The transport of a link port with no frame waiting to be sent (R22, R23, R307, R308, R309): an acknowledgement ends the frames up to it, a
frame in sequence advances the receive number, a bad one and one out of sequence change nothing; 4 µs without an acknowledgement replay,
and the 64th replay takes the port down; a port that has been down for 1 ms starts anew, and comes up with version 1.0 and its window, or
reports the mismatch. That RTT is kept modulo 2^16 and that a retry restarts sequence numbers and replays is the model's choice (log
entries 14 and 75). A frame in sequence that carries a peer's access to device memory performs it at this chip's home (R217): a read is
answered with the bytes; a merge is checked against the open entry of another agent, and the bytes that race are dropped and reported to
the peer (R209); an atomic is applied to the bytes at the home and answered with the value before; TAKE and GIVE change HOME and EXACT is
answered with it (R193). -/
def Obligations.LinkEvents : Prop :=
  (∀ (s : State) (port seq ack chip : Nat) (p : Port) (pre post : List (Nat × Nat)), kget s.ports port = some p → p.up = true →
    p.waiting = [] → p.unacked = pre ++ (ack, chip) :: post → ack ∉ pre.map Prod.fst →
    let q : Port := { p with unacked := post, replays := 0, sentAt := s.tick, sendSeq := p.sendSeq % 65536 }
    exec (.linkFrame port seq ack .bad) s = .next s ∧
    exec (.linkFrame port seq ack .ack) s = .next { s with ports := kset s.ports port q } ∧
    exec (.linkFrame port p.recvSeq ack .data) s =
      .next { s with ports := kset s.ports port { q with recvSeq := (p.recvSeq + 1) % 65536 } } ∧
    (seq ≠ p.recvSeq → exec (.linkFrame port seq ack .data) s = .next s)) ∧
  (∀ (s : State) (port : Nat) (p : Port), kget s.ports port = some p → p.up = true → p.unacked ≠ [] → p.sentAt + 4000 ≤ s.tick →
    (p.replays + 1 < 64 →
      exec (.ackTimeout port) s = .next { s with ports := kset s.ports port { p with replays := p.replays + 1, sentAt := s.tick } }) ∧
    (64 ≤ p.replays + 1 → Rising s.ports → Becomes (.ackTimeout port) s fun t => t = { s with ports := t.ports } ∧
      ∃ q, kget t.ports port = some q ∧ q.up = false ∧ q.unacked = [] ∧ q.replays = 0 ∧ q.downAt = s.tick)) ∧
  (∀ (s : State) (port ack chip unit pa : Nat), (kgetD s.ports port {}).up = true → s.memWf → isDevice (pa / 128 * 128) = true →
    (s.home (pa / 128)).shared = false →
    let frame := fun b => Instr.linkFrame port (kgetD s.ports port {}).recvSeq ack b
    let quiet := fun t : State => t.crews = s.crews ∧ t.ops = s.ops ∧ t.scratch = s.scratch
    let answers := fun (t : State) bs => t.linkOut = s.linkOut ++ [(chip, .value unit pa bs [])]
    (∀ (n : Nat) (o : Order) (chips : List Nat), pa % 128 + n ≤ 128 → s.poisoned pa n = false →
      Becomes (frame (.read chip unit pa n o chips)) s fun t => quiet t ∧ t.dev = s.dev ∧ t.host = s.host ∧ answers t (s.readPas pa n)) ∧
    (∀ (b : Nat) (m : KMap Nat) (bs : List Byte) (o : Order) (chips : List Nat), pa % 128 + bs.length ≤ 128 →
      (s.home (pa / 128)).crowded = false → (s.home (pa / 128)).opens = [⟨b, false, m⟩] → b ≠ peerAgent chip unit →
      let raced := ((List.range bs.length).map fun j => pa % 128 + j).filter fun x => (kget m x).isSome
      Becomes (frame (.write chip unit pa bs [] o chips)) s fun t => quiet t ∧
        (∀ j x, bs[j]? = some x → t.readPa (pa + j) = if (kget m (pa % 128 + j)).isSome then s.readPa (pa + j) else x) ∧
        (∀ x, x < pa ∨ pa + bs.length ≤ x → t.readPa x = s.readPa x) ∧
        t.linkOut = s.linkOut ++ if raced = [] then [] else [(chip, .raced (unit % 10000) (pa / 128) (maskOf raced) b 0x58)]) ∧
    (∀ (af : AtomFn) (v c : Nat) (o : Order) (chips : List Nat), pa % 128 + atomBytes af ≤ 128 → s.poisoned pa (atomBytes af) = false →
      let old := s.readNat pa (atomBytes af)
      Becomes (frame (.atomic chip unit pa af v c o chips)) s fun t => quiet t ∧ answers t (leBytes (atomBytes af) old) ∧
        Stored s.readPa t.readPa pa (match (atomRes af old v c).1 with | some x => leBytes (atomBytes af) x | none => [])) ∧
    (pa % 64 = 0 → s.inCounter pa = true → unit = 0 →
      (∀ n, n ≤ s.counterHome pa → Becomes (frame (.take chip pa n)) s fun t => quiet t ∧ answers t (leBytes 4 n) ∧
        t.counterHome pa = s.counterHome pa - n) ∧
      (∀ n, s.counterHome pa + n ≤ 2 ^ 62 → Becomes (frame (.give chip pa n)) s fun t => quiet t ∧ answers t [] ∧
        t.counterHome pa = s.counterHome pa + n) ∧
      (kgetD s.holders pa [] = [] → Becomes (frame (.exact chip pa)) s fun t => quiet t ∧ answers t (leBytes 8 (s.counterHome pa)) ∧
        t.counterHome pa = s.counterHome pa))) ∧
  ∀ (s : State) (port maj min lowMaj rtt : Nat) (p : Port), kgetD s.ports port {} = p → p.up = false → port < 16 →
    (p.downAt + 1000000 ≤ s.tick → exec (.linkUpRetry port) s =
      .next { s with ports := kset s.ports port { p with sendSeq := 0, recvSeq := 0, unacked := [], replays := 0 } }) ∧
    (maj < 1 ∨ 1 < lowMaj → exec (.linkUp port maj min lowMaj rtt) s = .next (s.plainReport 0xB0 0 s.primary port)) ∧
    (1 ≤ maj → lowMaj ≤ 1 → p.waiting = [] → Becomes (.linkUp port maj min lowMaj rtt) s fun t => t = { s with ports := t.ports } ∧
      ∃ q, kget t.ports port = some q ∧ q.up = true ∧ q.maj = 1 ∧ q.min = 0 ∧ q.rtt = rtt % 65536 ∧
        q.wgmax = Nat.min 255 (max 1 ((100 * rtt + 16383) / 16384)) ∧ q.wg = q.wgmax ∧ q.sendSeq = 0 ∧ q.recvSeq = 0 ∧
        q.unacked = [] ∧ q.replays = 0)

/-! ## Events: engines, packets, gangs and graphs -/

/-- SCHEDULING_ROUND (R46): the fully parked pipeline of a die is saved when the saved pipeline then fits, and the die is kept for it, once in
the round of a tick; that a die keeps room for one saved pipeline is the model's choice (log entry 89). COPY_START (R251, R254): the first
copy of a crew's queue runs with its staging claimed, or with the cause of its failed check. COMPLETION of a copy that runs: XFILL, XMOVE,
XLOAD and XGATHER build their tile, in the scratchpad with PUB and behind a shutter without, XSTORE merges its rows at their homes, XPUB
opens the shutters (R245 to R250), and a failed one leaves its cause on its token (R253). CLAIM_GRANT (R259): the earliest pending claim
gets a free pair, and its MCLAIM completes. MATRIX_OP_START (R261): MLDW loads the shadow plane (R270), MSWAP exchanges the planes (R268),
MSTREAM, MZERO and MSTORE give their result (R271 to R278), and MREL frees the pair and ends the claim (R267); that an operation performs
and completes in one event is the model's choice (log entry 25). -/
def Obligations.EngineEvents : Prop :=
  (∀ (s : State) (die : Nat), (s.die die).rounded = some s.tick → exec (.schedulingRound die) s = .next s) ∧
  (∀ (s : State) (die tk p id : Nat), die < 8 → Rising s.crews → (s.die die).promised = none → (s.die die).rounded ≠ some s.tick →
    s.savedPipes = [id] →
    (∀ d ∈ s.dies, d.2.promised ≠ some id) → s.parkedPipes die = [(tk, p)] → s.couldHold die (s.crew id) s.leaving = false →
    s.couldHold die (s.crew id) (s.leaving ++ s.crewsOf [p]) = true →
    (∀ d ∈ s.pipeline (s.crew p), d.2.life ≠ .starting ∧ d.2.life ≠ .restoring) →
    Becomes (.schedulingRound die) s fun t => t = { s with crews := t.crews, dies := t.dies } ∧ (t.die die).promised = some id ∧
      (t.die die).rounded = some s.tick ∧ (∀ d, d ≠ die → t.die d = s.die d) ∧ ∀ k d, kget s.crews k = some d →
        kget t.crews k = some (if (k, d) ∈ s.pipeline (s.crew p) ∧ d.life = .running then { d with life := .saving } else d)) ∧
  (∀ (s : State) (crew id : Nat) (rest : List Nat) (x : CopyOp) (o : Op), (s.crew crew).copies = id :: rest → (s.crew crew).working = true →
    kget s.ops id = some o → o.kind = .copy x → o.issuer = crew → o.stage = .issued → s.clusterGated (clusterOf o.core) = false →
    let c := s.crew crew
    let used := s.stagingUsed (clusterOf o.core)
    let stays := fun y st => exec (.copyStart crew) s = .next { s with ops := kset s.ops id { o with kind := .copy y, stage := st, replays := 0 } }
    let claims := fun (y : CopyOp) n => (Config.stagingBytes < n + c.shut → stays { y with err := 0x6C } .running) ∧
      (n + c.shut ≤ Config.stagingBytes → Config.stagingBytes < n + used → stays y .issued) ∧
      (n + c.shut ≤ Config.stagingBytes → n + used ≤ Config.stagingBytes → stays { y with claim := n } .running)
    (x.fn = 5 → stays x .running) ∧
    (x.fn = 2 ∨ x.fn = 4 → (∀ e, moveCheck c x = some e → stays { x with err := e } .running) ∧
      (moveCheck c x = none → claims x (tileBytes x.acc x.rows))) ∧
    (x.fn = 0 ∨ x.fn = 1 ∨ x.fn = 3 →
      let bad := s.scratchPoison (clusterOf o.core) (c.segScratch.base + x.src) 64
      (x.record = none → bad = true → stays { x with err := 0x6A } .running) ∧
      ((x.record = none → bad = false) →
        let y : CopyOp := { x with record := some (x.record.getD (s.readScratch (clusterOf o.core) (c.segScratch.base + x.src) 64)) }
        (∀ e, recordCheck s c y = some e → stays { y with err := e } .running) ∧
        (recordCheck s c y = none → (x.fn = 1 → x.rnd ≠ 2 ∨ x.lfsr.isSome = true → stays y .running) ∧
          (x.fn = 1 → x.rnd = 2 → x.lfsr = none →
            let seed := match x.rsd with | some w => if w = 0 then 1 else w | none => c.lfsr
            Becomes (.copyStart crew) s fun t => t = { s with crews := t.crews, ops := t.ops } ∧
              kget t.ops id = some { o with kind := .copy { y with lfsr := some seed }, stage := .running, replays := 0 } ∧
              t.crew crew = { c with lfsr := lfsrStep^[y.shape.rows * dim y.shape.tx 0] seed } ∧
              ∀ j, j ≠ crew → t.crew j = s.crew j) ∧
          (x.fn ≠ 1 → claims y (tileBytes y.shape.acc y.recRows)))))) ∧
  (∀ (s : State) (id crew fid k : Nat) (c : Crew) (f : Fibre) (o : Op) (x : CopyOp), CopyRuns s id crew fid k c f o x →
    let left := fun c' : Crew => c'.copies = c.copies.filter fun y => y != id
    let at_ := fun a => scratchKey (clusterOf o.core) a
    (x.err ≠ 0 → Becomes (.completion id) s fun t => t.dev = s.dev ∧ t.host = s.host ∧ t.scratch = s.scratch ∧
      TokenCounts t id crew fid k f (some x.err) left) ∧
    (∀ u bs, x.err = 0 → s.memWf → TileIs s u o c x bs → u.crews = s.crews → u.ops = s.ops → u.scratch = s.scratch → NoSnoop s u →
      Becomes (.completion id) s fun t => t.dev = u.dev ∧ t.host = u.host ∧
        (x.pub = true → Stored (memRead s.scratch) (memRead t.scratch) (at_ (c.segScratch.base + x.toff)) bs ∧
          TokenCounts t id crew fid k f none left) ∧
        (x.pub = false → t.scratch = s.scratch ∧ TokenCounts t id crew fid k f none fun c' => left c' ∧
          c'.shutters = c.shutters ++ [⟨id, c.segScratch.base + x.toff, bs, none, []⟩])) ∧
    (∀ (v : State) (d : Crew), x.err = 0 → x.fn = 1 →
      let r := x.shape
      let n := tileBytes r.acc r.rows
      let tile := s.readScratch (clusterOf o.core) (c.segScratch.base + x.toff) n
      let draws := if x.rnd = 2 then lfsrRun (x.lfsr.getD 1) (r.rows * dim r.tx 0) else []
      s.scratchPoison (clusterOf o.core) (c.segScratch.base + x.toff) n = false →
      s.engineWrites (copyAgent (clusterOf o.core)) (some crew) c.pasid ((List.range r.rows).flatMap fun k => storeRow x r tile draws k) =
        (v, .ok ()) → kget v.crews crew = some d → d.fibres = c.fibres → d.life = c.life → d.copies = c.copies → v.scratch = s.scratch →
      NoSnoop s v → Becomes (.completion id) s fun t => t.dev = v.dev ∧ t.host = v.host ∧ t.scratch = s.scratch ∧
        TokenCounts t id crew fid k f none left) ∧
    (x.err = 0 → x.fn = 5 → (∀ h ∈ c.shutters, h.bar = none) → Becomes (.completion id) s fun t => t.dev = s.dev ∧ t.host = s.host ∧
      t.scratch = (c.shutters.foldl (fun (u : State) h => u.writeScratch (clusterOf o.core) h.base h.bytes) s).scratch ∧
      TokenCounts t id crew fid k f none fun c' => left c' ∧ c'.shutters = [])) ∧
  (∀ (s : State) (cluster crew fid k id pair : Nat) (q : Claim) (c : Crew) (f : Fibre) (o : Op) (m : MatOp),
    MatReady s cluster crew fid k id pair q c f o m → s.memWf →
    let lim := c.segScratch.limit
    let seen := fun off n => s.readScratch cluster (c.segScratch.base + off) n
    let clean := fun off n => s.scratchPoison cluster (c.segScratch.base + off) n = false
    let ends := fun t => MatResult s t cluster crew fid k id q c f o m
    let next := m.a / 256 % 256
    (m.fn = 2 → m.toff + 260 * next ≤ lim → clean m.toff (260 * next) →
      (m.int = true → intCheck (seen m.toff (260 * next)) next (m.a % 256) = none) →
      Becomes (.matrixOpStart cluster .loader) s fun t => t.dev = s.dev ∧ t.host = s.host ∧ t.scratch = s.scratch ∧
        TokenCounts t id crew fid k f none fun c' =>
          c'.claims = [{ q with queue := [], shadow := some (planeOf (seen m.toff (260 * next)) (m.a % 256) next m.int) }]) ∧
    (m.fn = 3 → Becomes (.matrixOpStart cluster .control) s fun t => t.dev = s.dev ∧ t.host = s.host ∧ t.scratch = s.scratch ∧
      TokenCounts t id crew fid k f none fun c' => c'.claims = [{ q with queue := [], active := q.shadow, shadow := q.active }]) ∧
    (∀ (p : Plane) (rows : Nat), m.fn = 4 → q.active = some p → p.int = m.int → p.poisoned = false → clean m.a 64 →
      streamShape (seen m.a 64) = .ok (rows, p.k) → m.atile + 260 * rows ≤ lim → m.toff + 65536 ≤ lim →
      (m.atile + 260 * rows ≤ m.toff ∨ m.toff + 65536 ≤ m.atile) → clean m.atile (260 * rows) → clean m.toff 65536 →
      let tile := seen m.atile (260 * rows)
      let acc := seen m.toff 65536
      (m.int = true → intCheck tile rows p.k = none) →
      Becomes (.matrixOpStart cluster .array) s fun t => ends t 65536 (patch acc ((List.range rows).flatMap fun i =>
        (List.range p.n).map fun j => (f32At i j, leBytes 4 (if m.int then streamInt tile p i j (fieldLe acc (f32At i j) 4)
          else streamFloat tile rows p i j (fieldLe acc (f32At i j) 4)))))) ∧
    (m.fn = 5 → m.toff + 512 * m.a ≤ lim → Becomes (.matrixOpStart cluster .array) s fun t =>
      ends t (512 * m.a) (overlay (seen m.toff 65536) 0 (List.replicate (512 * m.a) 0))) ∧
    (m.fn = 6 → m.toff + 33280 ≤ lim → m.a + 65536 ≤ lim → (m.a + 65536 ≤ m.toff ∨ m.toff + 33280 ≤ m.a) → clean m.a 65536 →
      Becomes (.matrixOpStart cluster .array) s fun t => ends t 33280 (overlay (seen m.toff 65536) 0 (((List.range 128).flatMap fun i =>
        c16Row i ((List.range 128).map fun j => storeElem m.int m.rz (fieldLe (seen m.a 65536) (f32At i j) 4))) ++
          List.replicate 512 0x7F)))) ∧
  (∀ (s : State) (cluster crew fid k id pair : Nat) (rest : List Nat) (c : Crew) (f : Fibre) (o : Op) (m : MatOp), Awake s crew fid c f →
    (s.cluster cluster).pending = crew :: rest → (List.range 4).find? (fun p => (kget (s.cluster cluster).pairs p).isNone) = some pair →
    c.claims = [⟨[id], none, none, none, [], false⟩] → kget s.ops id = some o → o.kind = .matrix m none → m.fn = 0 →
    o.owners = [.fibre crew fid k] → o.bar = none →
    Becomes (.claimGrant cluster) s fun t => kget t.ops id = none ∧ (t.cluster cluster).pending = rest ∧
      (t.cluster cluster).pairs = kset (s.cluster cluster).pairs pair crew ∧ ∃ c' x, kget t.crews crew = some c' ∧
        c'.claims = [⟨[], some pair, none, none, [], false⟩] ∧ kget c'.fibres fid = some x ∧ x = { f with k := x.k } ∧
        x.tok k = { f.tok k with count := (f.tok k).count - 1 }) ∧
  ∀ (s : State) (cluster crew fid k id pair : Nat) (q : Claim) (c : Crew) (f : Fibre) (o : Op) (m : MatOp), Awake s crew fid c f →
    s.clusterGated cluster = false → pair < 4 → (s.cluster cluster).pairs = [(pair, crew)] → c.claims = [q] → q.pair = some pair →
    q.queue = [id] → q.bufs = [] → c.life = .running → kget s.ops id = some o → o.kind = .matrix m none → m.fn = 1 →
    o.owners = [.fibre crew fid k] → o.bar = none →
    Becomes (.matrixOpStart cluster .control) s fun t => kget t.ops id = none ∧ (t.cluster cluster).pairs = [] ∧
      (t.cluster cluster).lastControl = pair ∧ t.scratch = s.scratch ∧ ∃ c' x, kget t.crews crew = some c' ∧ c'.claims = [] ∧
        kget c'.fibres fid = some x ∧ x = { f with k := x.k } ∧ x.tok k = { f.tok k with count := (f.tok k).count - 1 }

/-- The life of a packet (R354, R356, R358 to R360): NOTIFY raises WPTR, SLOT_READ accepts the packet at RPTR when its checks pass,
PACKET_START runs it, the NOP, BARRIER and SIGNAL packets end their work, LAUNCH makes a gang and GRAPH a graph whose roots enter the
pool, and PACKET_COMPLETE counts it. That a gang's identifier holds the count of launches raised first, and keys the gang, is the model's
choice (log entries 78 and 116), and so is that a gang on one chip starts at its TICK (log entry 79). -/
def Obligations.PacketEvents : Prop :=
  (∀ (s : State) (head : Fin 2) (q wptr : Nat), s.stage = stageReady → q < 1024 → (s.queue q).head = head.val →
    (s.queue q).state ≠ .disabled → (s.queue q).wptr ≤ wptr % 2 ^ 64 → wptr % 2 ^ 64 ≤ (s.queue q).rptr + 2 ^ (s.queue q).logsz →
    Becomes (.notify head q wptr) s fun t => t = { s with queues := t.queues, dev := t.dev, host := t.host } ∧
      t.queue q = { s.queue q with wptr := wptr % 2 ^ 64 } ∧ ∀ k, k ≠ q → t.queue k = s.queue k) ∧
  (∀ (s t u v : State) (q : Nat) (x : Queue) (bs : List Byte) (l : Option (Launch × List Nat)), kget s.queues q = some x →
    (∀ p ∈ x.packets, p.2.state ≠ .accepted) → x.state = .active → x.rptr < x.wptr → s.pageWaits (.queue q) = false →
    s.engineRead x.pasid (x.ring + 64 * (x.rptr % 2 ^ x.logsz)) 64 = (t, .ok bs) → fieldLe bs 0 1 % 2 = 1 →
    (t.modQueue q fun y => { y with rptr := y.rptr + 1 }).cmdWrite x.pasid (x.ring + 64 * (x.rptr % 2 ^ x.logsz)) [0] = (u, .ok ()) →
    let p : Packet := { bytes := bs, state := .accepted, seq := u.accepts }
    let w : State := { u with accepts := u.accepts + 1, queues := kmod u.queues q fun y => { y with packets := kset y.packets x.rptr p } }
    w.checkPacket (w.queue q) bs = (v, .ok l) → NoSnoop s v →
    Becomes (.slotRead q) s fun t => (t.queue q).rptr = x.rptr + 1 ∧ t.accepts = u.accepts + 1 ∧
      PacketIs s t q x.rptr { p with state := .waiting, launch := l }) ∧
  (∀ (s : State) (q idx : Nat) (p : Packet), s.packet q idx = some p →
    ((s.queue q).mayStart idx p = true → Becomes (.packetStart q idx) s fun t => t = { s with queues := t.queues } ∧
      PacketIs s t q idx { p with state := .running }) ∧
    (p.state = .running → p.ended = false → p.gang = none → p.graph = none →
      (fieldLe p.bytes 1 1 = 0 → Becomes (.nopPacket q idx) s fun t => t = { s with queues := t.queues } ∧
        PacketIs s t q idx { p with ended := true }) ∧
      (∀ l chips, fieldLe p.bytes 1 1 = 1 → p.launch = some (l, chips) → Becomes (.launch q idx) s fun t =>
        let id := s.sysId * 2 ^ 32 + (s.launches + 1) % 2 ^ 32
        PacketIs s t q idx { p with gang := some id } ∧ ∃ g, kget t.gangs id = some g ∧ g.launch = l ∧ g.src = .packet q idx ∧
          g.queue = q ∧ g.pasid = (s.queue q).pasid ∧ g.chips = chips ∧ g.crews = [] ∧
          g.start = if chips.length = 1 then some l.tick else none) ∧
      (∀ t b, fieldLe p.bytes 1 1 = 3 → s.pageWaits (.packet q idx) = false →
        s.signalsZero (s.queue q).pasid (barrierAddrs p.bytes) = (t, .ok b) →
        Becomes (.barrierPacket q idx) s fun u => u = { t with queues := u.queues } ∧ PacketIs s u q idx { p with ended := b }) ∧
      (∀ u pa, fieldLe p.bytes 1 1 = 4 → s.engineXl (s.queue q).pasid (fieldLe p.bytes 16 8) .store = (u, .ok pa true) →
        u.memWf → u.dataCause pa 8 = none → isDevice pa = true → pa % 128 ≤ 120 → (u.home (pa / 128)).shared = false → NoSnoop s u →
        Becomes (.signalPacket q idx) s fun t => PacketIs s t q idx { p with ended := true } ∧
          Stored u.readPa t.readPa pa (leBytes 8 (signalFn (fieldLe p.bytes 32 1) (fieldLe p.bytes 24 8) (u.readNat pa 8) % 2 ^ 64)))) ∧
    (p.state = .running → p.ended = true → p.gang = none → p.graph = none → fieldLe p.bytes 8 8 = 0 → fieldLe p.bytes 4 2 / 2 % 2 = 0 →
      Becomes (.packetComplete q idx) s fun t => (t.queue q).done = (s.queue q).done + 1 ∧
        PacketIs s t q idx { p with state := .complete })) ∧
  ∀ (s t u v : State) (q idx r : Nat) (p : Packet) (h : List Byte), s.packet q idx = some p → p.state = .running → p.ended = false →
    p.gang = none → p.graph = none → fieldLe p.bytes 1 1 = 2 → s.graphs = [] → s.pageWaits (.packet q idx) = false →
    s.engineRead (s.queue q).pasid (fieldLe p.bytes 16 8) 64 = (t, .ok h) → 0 < fieldLe h 0 4 → fieldLe h 0 4 ≤ 65536 → zeros h 4 64 = true →
    t.checkNodes (s.queue q).pasid (fieldLe p.bytes 16 8) (fieldLe h 0 4) (List.range (fieldLe h 0 4)) = (u, .ok) →
    u.resetNodes (s.queue q).pasid (fieldLe p.bytes 16 8) (List.range (fieldLe h 0 4)) = (v, .ok [r]) → s.pool.length < 4096 →
    s.poolWait = [] → NoSnoop s v → Becomes (.graph q idx) s fun t => ∃ id g, PacketIs s t q idx { p with graph := some id } ∧
      kget t.graphs id = some g ∧ g.q = q ∧ g.idx = idx ∧ g.addr = fieldLe p.bytes 16 8 ∧ g.nnode = fieldLe h 0 4 ∧
      t.pool = s.pool ++ [(id, r)]

/-- TICK_PROPOSAL (R364): another chip's gang is answered, the last proposal agrees on the greatest tick, and the agreed tick is kept;
START_TICK (R21, R28, R316, R318, R371), where one crew of the gang has a core: it begins to run with its fibres at the entry, a new crew
tag, and its constant window, which is copied at this tick, the model's choice (log entry 87); CHIPSET_TIMEOUT: a gang without every
answer after 100 us has failed; CREW_PLACEMENT (R365): the crews of a pipeline stand on the cores of their places; GANG_TERMINATION: a
chip has ended its part. -/
def Obligations.GangEvents : Prop :=
  (∀ (s : State) (gang chip q pasid : Nat) (packet block : List Byte) (chips : List Nat), s.stage = stageReady → kget s.gangs gang = none →
    chip ≠ s.sysId → chip ∈ chips → s.sysId ∈ chips →
    Becomes (.tickProposal gang (.ask chip q pasid packet block chips)) s fun t =>
      t.linkOut = s.linkOut ++ [(chip, .tick gang (max (launchOf packet block).tick (s.tick + 2000)))] ∧
      ∃ g, kget t.gangs gang = some g ∧ g.src = .peer chip ∧ g.launch = launchOf packet block ∧ g.chips = chips ∧ g.start = none) ∧
  (∀ (s : State) (gang chip tick : Nat) (g : Gang), kget s.gangs gang = some g → g.start = none → g.terminated = false →
    (g.guest = false → g.failed = false → chip ∈ g.chips → kget g.proposals chip = none →
      (∀ k ∈ g.chips, k = chip ∨ (kget g.proposals k).isSome = true) →
      Becomes (.tickProposal gang (.propose chip tick)) s fun t => ∃ x, kget t.gangs gang = some x ∧
        x.start = some ((kset g.proposals chip tick).foldl (fun n p => max n p.2) 0) ∧ x.crews = g.crews) ∧
    (g.guest = true → Becomes (.tickProposal gang (.agreed tick)) s fun t => kget t.gangs gang = some { g with start := some tick })) ∧
  (∀ (s t v : State) (gang crew tick : Nat) (g : Gang) (c : Crew) (win : List Byte), kget s.gangs gang = some g → g.start = some tick →
    tick ≤ s.tick → kget s.crews crew = some c → (s.crews.filter fun c => c.2.gang == gang && c.2.life == .starting) = [(crew, c)] →
    s.pages = [] → s.loadWindow crew = (t, .ok win) →
    let u := ({ t with tagCounter := t.newTag } : State).modCrew crew fun c =>
      { c with tag := t.newTag, tags := c.tags ++ [t.newTag], window := win }
    frThen (u.initEmergency crew) (fun w _ => w.firstFibres crew (List.range c.n)) = (v, .ok ()) → NoSnoop s v →
    Becomes (.startTick gang) s fun w => ∃ c', kget w.crews crew = some c' ∧ c'.life = .running ∧ c'.created = c.n ∧ c'.window = win ∧
      c'.tag = t.newTag ∧ c'.tags = c.tags ++ [t.newTag] ∧
      c'.g = c.g ∧ ∀ fid, fid < c.n → ∃ x, kget c'.fibres fid = some x ∧ x.pc = c.entry ∧ x.v = [] ∧ x.p = 0 ∧ x.fstat = 0 ∧
        x.st.isParked = false) ∧
  (∀ (s : State) (gang : Nat) (g : Gang), kget s.gangs gang = some g → g.guest = false → g.start = none → g.failed = false →
    g.terminated = false → g.asked + 100000 ≤ s.tick → Becomes (.chipsetTimeout gang) s fun t =>
      kget t.gangs gang = some { g with failed := true, crews := [] } ∧ t.crews = s.crews.filter fun c => c.2.gang != gang) ∧
  (∀ (s : State) (gang pipe die x0 y0 : Nat) (l : List ((Nat × Nat) × Nat)) (g : Gang), kget s.gangs gang = some g → g.terminated = false →
    g.failed = false → s.gangFinished gang = false → pipe < g.launch.points → pipe % g.launch.nchip = g.mine →
    s.placed gang (g.launch.point pipe) = false → s.turnOf gang g = true → s.placesAt g die x0 y0 = some l →
    Becomes (.crewPlacement gang pipe die x0 y0) s fun t =>
      kget t.gangs gang = some { g with crews := g.crews ++ (List.range l.length).map fun i => s.nextId + i } ∧
      (∀ k, k < s.nextId ∨ s.nextId + l.length ≤ k → kget t.crews k = kget s.crews k) ∧
      ∀ i core base heap, l[i]? = some ((core, base), heap) → (t.cluster (clusterOf core)).fused = g.launch.fuse ∧
      ∃ c, kget t.crews (s.nextId + i) = some c ∧ c.life = .starting ∧ c.home = some core ∧ c.gang = gang ∧ c.stage = i ∧
        (c.x, c.y, c.z) = g.launch.point pipe ∧ c.n = g.launch.n ∧ c.b = g.launch.b ∧ c.entry = g.launch.entry ∧ c.g = g.launch.args ∧
        c.pasid = g.pasid ∧ c.segScratch = ⟨base, g.launch.scratch⟩ ∧ c.segFrame = ⟨heap, g.launch.frame⟩ ∧
        c.segConst = ⟨g.launch.cbase, g.launch.climit⟩ ∧ c.fibres = []) ∧
  ∀ (s : State) (gang chip : Nat) (g : Gang), kget s.gangs gang = some g → chip ≠ s.sysId → chip ∈ g.chips →
    Becomes (.gangTermination gang chip true) s fun t => kget t.gangs gang = some { g with chipsEnded := insertNew chip g.chipsEnded }

/-- The nodes of a command graph (R360, R367 to R369): a KERNEL node becomes a gang, whose identifier holds the count of launches raised first,
the model's choice (log entry 78); a COND node whose word is 0 or whose COUNT has reached LIMIT, a SIGNAL, an XFER and a NOTE node have done
their work, on memory and on the interrupt vector; a COND node with another word waits while another node of its range is busy, and then
raises COUNT, re-arms the range and puts START in the pool (R368); and the completion of a node releases its successor. -/
def Obligations.GraphEvents : Prop :=
  (∀ (s t u : State) (graph node : Nat) (g : GraphRun) (bs : List Byte) (l : Launch) (chips : List Nat), Dispatches s t graph node 0 g bs →
    t.checkLaunch (t.graphPasid g) bs = (u, .ok l chips) →
    Becomes (.kernelNode graph node) s fun v => (graph, node) ∉ v.pool ∧
      let id := s.sysId * 2 ^ 32 + (s.launches + 1) % 2 ^ 32
      ∃ x y, kget v.graphs graph = some x ∧ node ∈ x.running ∧ kget x.gangs node = some id ∧ kget v.gangs id = some y ∧
        y.launch = l ∧ y.src = .node graph node ∧ y.queue = g.q ∧ y.chips = chips) ∧
  (∀ (s t u : State) (graph node : Nat) (g : GraphRun) (bs w : List Byte), Dispatches s t graph node 1 g bs →
    t.engineRead (t.graphPasid g) (fieldLe bs 16 8) 4 = (u, .ok w) → NoSnoop s u →
    let more := leNat w ≠ 0 ∧ (fieldLe bs 36 4 = 0 ∨ fieldLe bs 40 4 < fieldLe bs 36 4)
    let range := (List.range (fieldLe bs 32 4 + 1 - fieldLe bs 28 4)).map fun i => fieldLe bs 28 4 + i
    let x := (u.runNode graph node).modGraph graph fun g => { g with rearm := insertNew node g.rearm }
    (¬ more → Becomes (.condNode graph node) s fun v => NodeEnded v graph node) ∧
    (more → (∃ n ∈ range, n ≠ node ∧ s.nodeBusy graph g n = true) → exec (.condNode graph node) s = .next x) ∧
    ∀ (v z : State), more → (∀ n ∈ range, n = node ∨ s.nodeBusy graph g n = false) → s.pool.length ≤ 4096 → s.poolWait = [] →
      x.cmdWrite (t.graphPasid g) (nodeVa g.addr node + 40) (leBytes 4 (fieldLe bs 40 4 + 1)) = (v, .ok ()) →
      v.rearmNodes (t.graphPasid g) g.addr range = (z, .ok ()) → NoSnoop s z →
      Becomes (.condNode graph node) s fun w => w.dev = z.dev ∧ w.host = z.host ∧
        w.pool = (s.pool.filter fun y => y != (graph, node)) ++ [(graph, fieldLe bs 24 4)] ∧
        ∃ y, kget w.graphs graph = some y ∧ node ∉ y.running ∧ node ∉ y.rearm) ∧
  (∀ (s t v z : State) (graph node : Nat) (g : GraphRun) (bs : List Byte), kget s.graphs graph = some g → node ∈ g.rearm →
    s.nodeWaits graph node = false → s.engineRead (s.graphPasid g) (nodeVa g.addr node) 64 = (t, .ok bs) →
    let range := (List.range (fieldLe bs 32 4 + 1 - fieldLe bs 28 4)).map fun i => fieldLe bs 28 4 + i
    (∀ n ∈ range, n = node ∨ s.nodeBusy graph g n = false) → s.pool.length < 4096 → s.poolWait = [] →
    t.cmdWrite (t.graphPasid g) (nodeVa g.addr node + 40) (leBytes 4 (fieldLe bs 40 4 + 1)) = (v, .ok ()) →
    v.rearmNodes (t.graphPasid g) g.addr range = (z, .ok ()) → NoSnoop s z →
    Becomes (.condNode graph node) s fun w => w.dev = z.dev ∧ w.host = z.host ∧ w.pool = s.pool ++ [(graph, fieldLe bs 24 4)] ∧
      ∃ y, kget w.graphs graph = some y ∧ node ∉ y.running ∧ node ∉ y.rearm) ∧
  (∀ (s t u : State) (graph node pa : Nat) (g : GraphRun) (bs : List Byte), Dispatches s t graph node 2 g bs →
    (t.runNode graph node).engineXl (t.graphPasid g) (fieldLe bs 16 8) .store = (u, .ok pa true) → u.memWf →
    u.dataCause pa 8 = none → isDevice pa = true → pa % 128 ≤ 120 → (u.home (pa / 128)).shared = false → NoSnoop s u →
    Becomes (.signalNode graph node) s fun v => NodeEnded v graph node ∧
      Stored u.readPa v.readPa pa (leBytes 8 (signalFn (fieldLe bs 32 1) (fieldLe bs 24 8) (u.readNat pa 8) % 2 ^ 64))) ∧
  (∀ (s t u v : State) (graph node : Nat) (g : GraphRun) (bs data : List Byte), Dispatches s t graph node 3 g bs →
    (t.runNode graph node).engineRead (t.graphPasid g) (fieldLe bs 16 8) (fieldLe bs 32 4) = (u, .ok data) →
    u.engineWrites (bulkAgent (t.queueHead g.q)) none (t.graphPasid g) [(fieldLe bs 24 8, data)] = (v, .ok ()) → NoSnoop s v →
    Becomes (.xferNode graph node) s fun w => NodeEnded w graph node ∧ w.dev = v.dev ∧ w.host = v.host) ∧
  (∀ (s t t1 u v : State) (graph node count : Nat) (g : GraphRun) (bs : List Byte), Dispatches s t graph node 4 g bs →
    fieldLe bs 24 8 = 0 →
    (t.runNode graph node).loopCount (t.graphPasid g) g.addr node (List.range g.nnode) = (t1, .ok count) →
    t1.cmdWrite (t.graphPasid g) (fieldLe bs 16 8 + 32 * (fieldLe bs 40 8 % 2 ^ fieldLe bs 32 1))
      (leBytes 8 0 ++ leBytes 8 s.tick ++ leBytes 4 node ++ leBytes 4 count ++ leBytes 8 (fieldLe bs 40 8)) = (u, .ok ()) →
    u.cmdWrite (t.graphPasid g) (nodeVa g.addr node + 40) (leBytes 8 (fieldLe bs 40 8 + 1)) = (v, .ok ()) → NoSnoop s v →
    Becomes (.noteNode graph node) s fun w => NodeEnded w graph node ∧ w.dev = v.dev ∧ w.host = v.host ∧
      w.vectors = (v.vectorEvent (fieldLe bs 34 2) (t.queueHead g.q)).vectors) ∧
  ∀ (s u v w x : State) (graph node k : Nat) (g : GraphRun) (bs n : List Byte), kget s.graphs graph = some g → g.stopped = false →
    s.graphDead g = false → s.nodeWaits graph node = false → g.done.find? (fun d => d.1 == node) = some (node, []) → node ∉ g.running → s.pool.length < 4096 → s.poolWait = [] →
    let t := s.modGraph graph fun g =>
      { g with done := g.done.filter fun d => d.1 != node, running := g.running.filter fun n => n != node, gangs := kdel g.gangs node }
    t.engineRead (s.graphPasid g) (nodeVa g.addr node) 64 = (u, .ok bs) → u.nodeSuccs (s.graphPasid g) bs = (v, .ok [k]) → k < g.nnode →
    v.engineRead (s.graphPasid g) (nodeVa g.addr k + 4) 2 = (w, .ok n) → leNat n = 1 →
    w.cmdWrite (s.graphPasid g) (nodeVa g.addr k + 4) (leBytes 2 0) = (x, .ok ()) → NoSnoop s x →
    Becomes (.nodeComplete graph node) s fun z => z.pool = s.pool ++ [(graph, k)] ∧ z.dev = x.dev ∧ z.host = x.host ∧
      ∃ y, kget z.graphs graph = some y ∧ y.gangs = kdel g.gangs node ∧ ∀ d ∈ y.done, d.1 ≠ node

/-- PREEMPT_DECISION (R370): the crew chosen drains with its fibres marked, begins to be saved with its pipeline, or is flushed: it waits in its
launch state with its heap and its crew tags; DRAIN_TIMEOUT (R26): after 40 us a draining crew is saved with its pipeline; SAVE_COMPLETE
(R20): a crew with nothing in flight is an image that holds its registers; that it holds no group, and so no latch, and what a save drains
and writes back is the model's choice (log entries 11 and 88); RESTORE (R371): a crew of loose fibres whose window is read runs again with
the registers of its image. -/
def Obligations.PreemptEvents : Prop :=
  (∀ (s : State) (crew : Nat) (c : Crew), kget s.crews crew = some c → c.life = .running → s.wanted (s.crewPri c) = true →
    s.firstToGo c = true →
    (s.choiceFor c = .drain → Becomes (.preemptDecision crew) s fun t => t = { s with crews := t.crews } ∧
      (∀ k, k ≠ crew → kget t.crews k = kget s.crews k) ∧ ∃ c', kget t.crews crew = some c' ∧
        c' = { c with life := .draining, choiceTick := s.tick, fibres := c'.fibres } ∧
        ∀ n, kget c'.fibres n = (kget c.fibres n).map fun f => { f with preempted := true }) ∧
    ((s.choiceFor c = .save ∨ s.choiceFor c = .flush ∧ ∃ d ∈ s.pipeline c, (d.2.life = .running ∨ d.2.life = .starting) ∧
        s.choiceFor d.2 ≠ .flush) → Rising s.crews → (∀ d ∈ s.pipeline c, d.2.life ≠ .starting ∧ d.2.life ≠ .restoring) →
      Becomes (.preemptDecision crew) s fun t => t = { s with crews := t.crews } ∧ ∀ k d, kget s.crews k = some d →
        kget t.crews k = some (if (k, d) ∈ s.pipeline c ∧ d.life = .running then { d with life := .saving } else d)) ∧
    ∀ g, s.choiceFor c = .flush → ((s.pipeline c).filter fun d => d.2.life == .running || d.2.life == .starting) = [(crew, c)] →
      kget s.gangs c.gang = some g → NoSnoop s (s.flushCrew crew) →
      Becomes (.preemptDecision crew) s fun t => kget t.crews crew = some
        { launchCrew c.gang g (c.x, c.y, c.z) c.stage c.frameArea.base with records := c.records, tags := c.tags } ∧
        (∀ o ∈ t.ops, o.2.issuer ≠ crew) ∧ ∀ x ∈ t.sends, x.2.crew ≠ crew) ∧
  (∀ (s : State) (crew : Nat) (c : Crew), kget s.crews crew = some c → c.life = .draining →
    (s.tick < c.choiceTick + 40000 → exec (.drainTimeout crew) s = .next s) ∧
    (c.choiceTick + 40000 ≤ s.tick → Rising s.crews → (∀ d ∈ s.pipeline c, d.2.life ≠ .starting ∧ d.2.life ≠ .restoring) →
      Becomes (.drainTimeout crew) s fun t => t = { s with crews := t.crews } ∧ ∀ k d, kget s.crews k = some d → kget t.crews k =
        some (if (k, d) ∈ s.pipeline c ∧ (d.life = .running ∨ d.life = .draining) then { d with life := .saving } else d)) ∧
    ((∃ d ∈ s.pipeline c, d.2.life = .starting ∨ d.2.life = .restoring) → exec (.drainTimeout crew) s = .next s)) ∧
  (∀ (s u v w : State) (crew : Nat) (c : Crew), kget s.crews crew = some c → c.life = .saving → (∀ g ∈ c.groups, g.2.hints.pending = false) →
    s.ops = [] → s.pages = [] → s.gated = [] → s.saveSaddle c.core crew = (u, .ok ()) → u.drain (u.agentOf c.core) = (v, none) →
    v.saveChains crew = (w, .ok ()) → NoSnoop s w →
    Becomes (.saveComplete crew) s fun t => t.dev = w.dev ∧ t.host = w.host ∧ t.scratch = s.scratch ∧ ∃ c', kget t.crews crew = some c' ∧
      c'.life = .saved ∧ c'.savedAt = s.tick ∧ c'.g = c.g ∧ c'.groups = [] ∧
      c'.scratchImage = s.readScratch (clusterOf c.core) c.scratchArea.base c.scratchArea.limit ∧
      ∀ n f, kget c.fibres n = some f → ∃ x, kget c'.fibres n = some x ∧ x.v = f.v ∧ x.p = f.p ∧ x.k = f.k ∧ x.x = f.x ∧ x.pc = f.pc ∧
        x.seg = f.seg ∧ x.effmask = f.effmask ∧ x.fstat = f.fstatNow) ∧
  ∀ (s t : State) (crew die x0 y0 : Nat) (c : Crew) (win : List Byte), kget s.crews crew = some c → c.life = .restoring → c.image = true →
    c.saveTag = none → c.deferred = [] → c.late = [] → c.joins = [] → c.claims = [] → s.ops = [] → s.pages = [] → s.sends = [] →
    (s.pipeline c).filter (fun d => d.2.life == .restoring) = [(crew, c)] → (∀ f ∈ c.fibres, (∃ n, f.2.st = .loose n) ∧ f.2.chain = []) →
    s.loadWindow crew = (t, .ok win) → NoSnoop s t →
    Becomes (.restore crew die x0 y0) s fun u => ∃ c', kget u.crews crew = some c' ∧ c'.life = .running ∧ c'.window = win ∧ c'.g = c.g ∧
      c'.home = c.home ∧ ∀ n f, kget c.fibres n = some f → ∃ x, kget c'.fibres n = some x ∧ x = { f with replay := [], st := x.st } ∧
        x.st.isParked = false

/-! ## Events: heads, mailbox, security and the package -/

/-- OCC_READ clears a counter of occupancy (R373); VECTOR_TIMER and VECTOR_UNMASK send the one message of a vector (R374), whose mask is the
model's choice (log entry 107); HEARTBEAT, its time-out after 10 ms, the loss of a head's link, and the claim of the failed head's queues by
CE_ADOPT (R376); that a heartbeat with the link up clears the mark of a failure, that CE_ADOPT binds DISABLED and ERROR queues too, and that
the outage of the host starts when both links are down is the model's choice (log entries 61, 62 and 115). Below READY each register access
sets NR and is reported (R407). -/
def Obligations.HeadEvents : Prop :=
  (∀ (s : State) (core phase epoch : Nat) (k : OccRead) (head : Fin 2), s.stage ≠ stageReady → core < 768 → phase < 16 →
    exec (.occRead core phase k) s = .next (s.notReady k.head.val (0x300000 + 384 * core + 24 * phase + 8 * occPlace k.kind)) ∧
    exec (.heartbeat head) s = .next (s.notReady head.val (0x200000 + 8 * head.val)) ∧
    exec (.ceAdopt head epoch) s = .next (s.notReady head.val 0x200010)) ∧
  (∀ (s : State) (core phase : Nat) (k : OccRead), s.stage = stageReady → core < 768 → phase < 16 →
    Becomes (.occRead core phase k) s fun t => t = { s with cores := t.cores } ∧ (∀ c, c ≠ core → t.core c = s.core c) ∧
      t.core core = { s.core core with occ := (t.core core).occ } ∧
      ∀ n, kget (t.core core).occ n = if n = 3 * phase + occPlace k.kind then none else kget (s.core core).occ n) ∧
  (∀ (s : State) (v : Nat), (s.vector v).pend ≠ 0 → (s.head (s.vector v).head).linkUp = true →
    ((s.vector v).masked = false → (s.vector v).time ≠ 0 → (s.vector v).first + 1000 * (s.vector v).time ≤ s.tick →
      exec (.vectorTimer v) s = .next { s with vectors := kset s.vectors v { s.vector v with pend := 0 }
                                               hostOut := s.hostOut ++ [.msix (s.vector v).head v] }) ∧
    ((s.vector v).masked = true → Becomes (.vectorUnmask v) s fun t => t = { s with vectors := t.vectors, hostOut := t.hostOut } ∧
      t.vector v = { s.vector v with pend := 0, masked := false } ∧ t.hostOut = s.hostOut ++ [.msix (s.vector v).head v])) ∧
  (∀ (s : State) (head : Fin 2), s.stage = stageReady →
    (Becomes (.heartbeat head) s fun t => t = { s with heads := t.heads, dev := t.dev, host := t.host } ∧
      t.head head.val = { s.head head.val with hb := s.tick, failed := (s.head head.val).failed && !(s.head head.val).linkUp }) ∧
    ((s.head head.val).hb + 10000000 ≤ s.tick → (s.head head.val).failed = false → Becomes (.heartbeatTimeout head) s fun t =>
      (t.head head.val).failed = true ∧ t.failover = true ∧ t.crews = s.crews) ∧
    ((s.head head.val).failed = false → Becomes (.headLinkDown head) s fun t =>
      (t.head head.val).failed = true ∧ (t.head head.val).linkUp = false ∧ t.failover = true ∧ t.crews = s.crews ∧
      t.hostDown = if (s.head (1 - head.val)).linkUp || s.hostDown.isSome then s.hostDown else some s.tick)) ∧
  ∀ (s : State) (head : Fin 2), s.stage = stageReady → (s.head (1 - head.val)).failed = true → s.epoch + 1 < 2 ^ 32 → Rising s.queues →
    Becomes (.ceAdopt head (s.epoch + 1)) s fun t => t.epoch = s.epoch + 1 ∧ t.primary = head.val ∧ ∀ q x, kget s.queues q = some x →
      t.queue q = if x.head = 1 - head.val then { x with head := head.val, state := .adopting } else x

/-- The functions of the mailbox (R353, R392 to R394, R399, R401, R410, R414): each one, its GO waiting with arguments in range, has its effect and
answers OK, but for an image that is rejected; until the version is agreed every other function answers VERSION; and registers of the
management space written and read (R389, R391, R407). The model's choices: a created queue starts with its indexes at 0 (log entry 90),
DBG_HALT answers OK at once (log entry 98), versions agree by major number (log entry 92), an image's header and digest are free functions
of its bytes and its signatures an argument (log entries 96 and 142), and a function that reads or writes host memory waits while its head's
link is down (log entry 173). -/
def Obligations.MailboxEvents : Prop :=
  (∀ (s : State) (head : Fin 2) (m : Mailbox), (s.head head.val).mail = m → m.busy = true →
    (m.func = 1 → m.zerosBut [(0x100, 4), (0x108, 2)] = true → m.field 0x103 1 ≤ 1 → 1 ≤ m.field 0x101 1 →
      Becomes (.version head) s fun t => (t.head head.val).mail.busy = false ∧ (t.head head.val).mail.status = 0 ∧
        (t.head head.val).mail.agreed = true ∧ (t.head head.val).mail.bytes 0x108 2 = [0, 1]) ∧
    ∀ (e : Instr) (func : Nat), (e, func) ∈ [(.queueCreate head, 0x10), (.queueDisable head, 0x10), (.pasidRegister head, 0x20), (.codeLoad head, 0x30),
        (.imageStage head true, 0x40), (.evring head, 0x50), (.tdiDefine head, 0x60), (.dbgHalt head, 0x70), (.dbgRead head, 0x71),
        (.dbgResume head, 0x72)] → m.func = func → m.agreed = false →
      s.mailTurn head.val = true → s.headUp head.val = true → Becomes e s fun t => t = { s with heads := t.heads } ∧ Answers t head.val 6 m) ∧
  (∀ (s : State) (head : Fin 2) (m : Mailbox), GoWaits s head.val 0x10 queueFields m → m.field 0x100 2 < 1024 → descOk (m.bytes 0x120 32) = true →
    s.locked (fun t => t.queues.contains (m.field 0x100 2)) = false → fieldLe (m.bytes 0x120 32) 18 1 = 0 →
    (let d := m.bytes 0x120 32
     (s.queue (m.field 0x100 2)).state = .disabled → m.field 0x103 1 ≤ 1 → 1 ≤ fieldLe d 11 1 →
      Becomes (.queueCreate head) s fun t => Answers t head.val 0 m ∧ t.queue (m.field 0x100 2) =
        { ring := fieldLe d 0 8, logsz := fieldLe d 8 1, pri := fieldLe d 9 1 % 8, head := fieldLe d 9 1 / 128, vermin := 0, vermaj := 1
          pasid := fieldLe d 12 4, vec := fieldLe d 16 2, state := .active }) ∧
    ((s.queue (m.field 0x100 2)).state = .active ∨ (s.queue (m.field 0x100 2)).state = .error →
      NoSnoop s (s.disableQueue (m.field 0x100 2) 0xAF) →
      Becomes (.queueDisable head) s fun t => Answers t head.val 0 m ∧ (t.queue (m.field 0x100 2)).state = .disabled)) ∧
  (∀ (s : State) (head : Fin 2) (m : Mailbox), GoWaits s head.val 0x20 pasidFields m → m.field 0x100 4 < 2 ^ 20 → m.field 0x104 1 < 4 →
    m.field 0x108 8 < 2 ^ 44 → m.field 0x110 8 % 65536 = 0 → m.field 0x118 8 % 65536 = 0 → 4194304 ≤ m.field 0x118 8 →
    m.field 0x118 8 ≤ 2 ^ 40 → s.locked (fun t => t.pasids.contains (m.field 0x100 4)) = false →
    (∀ c ∈ s.crews, c.2.pasid = m.field 0x100 4 → c.2.alive = false) →
    Becomes (.pasidRegister head) s fun t => Answers t head.val 0 m ∧ t = { s with heads := t.heads, pasids := t.pasids } ∧
      kget t.pasids (m.field 0x100 4) = some ⟨m.field 0x108 8, if m.field 0x104 1 / 2 % 2 = 1 then 5 else 4,
        decide (m.field 0x104 1 % 2 = 1), m.field 0x110 8, m.field 0x118 8, head.val⟩) ∧
  (∀ (s u : State) (head : Fin 2) (m : Mailbox), GoWaits s head.val 0x30 codeFields m → m.field 0x100 8 % 4 = 0 → m.field 0x108 8 % 4 = 0 →
    m.field 0x110 4 < 2 ^ 20 → m.field 0x114 4 % 4 = 0 → 4 ≤ m.field 0x114 4 → m.field 0x114 4 ≤ 2 ^ 30 →
    s.headUp head.val = true → s.cmdWrite (m.field 0x110 4) (m.field 0x108 8) (memBytes s.host (hostPa head.val (m.field 0x100 8)) (m.field 0x114 4)) = (u, .ok ()) → NoSnoop s u →
    Becomes (.codeLoad head) s fun t => Answers t head.val 0 m ∧ t.dev = u.dev ∧ t.host = u.host ∧ t.crews = u.crews) ∧
  (∀ (s : State) (head : Fin 2) (m : Mailbox), GoWaits s head.val 0x40 imageFields m → m.field 0x100 8 % 4096 = 0 → 256 ≤ m.field 0x108 4 →
    m.field 0x108 4 ≤ 2 ^ 26 → s.headUp head.val = true →
    let bs := memBytes s.host (hostPa head.val (m.field 0x100 8)) (m.field 0x108 4)
    let good := imageHeadWell (m.field 0x108 4) (bs.take 256)
    (good = true → digestOk bs = true → Becomes (.imageStage head true) s fun t => Answers t head.val 0 m ∧
        t = { s with heads := t.heads, staged := some (imageOf bs) }) ∧
    ∀ signed, (good = false →
        exec (.imageStage head signed) s = .next ((s.plainReport 0xBA 0 head.val (m.field 0x100 8)).mailEnd head.val 5)) ∧
      (good = true → (signed && digestOk bs) = false →
        exec (.imageStage head signed) s = .next ((s.plainReport 0xB9 0 head.val (m.field 0x100 8)).mailEnd head.val 5))) ∧
  (∀ (s : State) (head : Fin 2) (m : Mailbox), GoWaits s head.val 0x50 ringFields m → m.field 0x100 8 % 4096 = 0 → 4 ≤ m.field 0x108 1 →
    m.field 0x108 1 ≤ 16 → m.field 0x10A 2 < 2 ^ 11 → (∀ r ∈ s.held, r.head ≠ head.val) →
    Becomes (.evring head) s fun t => Answers t head.val 0 m ∧ t = { s with heads := t.heads } ∧
      (t.head head.val).ring = some (m.field 0x100 8, m.field 0x108 1, m.field 0x10A 2) ∧ (t.head head.val).evw = 0) ∧
  (∀ (s : State) (head : Fin 2) (m : Mailbox), GoWaits s head.val 0x60 tdiFields m →
    let qs := (List.range (m.field 0x102 2)).map fun i => m.field (0x110 + 2 * i) 2
    let ps := (List.range (m.field 0x104 2)).map fun i => m.field (0x110 + 4 * ((m.field 0x102 2 + 1) / 2) + 4 * i) 4
    let key := 64 * head.val + m.field 0x100 1
    m.field 0x100 1 < 64 → 0 < m.field 0x102 2 → m.field 0x102 2 ≤ 1024 → m.field 0x104 2 ≤ 64 → (∀ p ∈ ps, p < 2 ^ 20) →
    (∀ q ∈ qs, s.badQueue head.val key q = false) → (∀ t, kget s.tdis key = some t → t.state = .unlocked) →
    Becomes (.tdiDefine head) s fun t => Answers t head.val 0 m ∧ t = { s with heads := t.heads, tdis := t.tdis } ∧
      kget t.tdis key = some ⟨qs, ps, .unlocked, none⟩) ∧
  (∀ (s : State) (head : Fin 2) (m : Mailbox) (id : Nat) (c : Crew), kget s.crews id = some c → s.dbgCrew m = some (id, c) →
    (GoWaits s head.val 0x70 dbgFields m → c.life = .running → Becomes (.dbgHalt head) s fun t => Answers t head.val 0 m ∧
      t = { s with heads := t.heads, crews := t.crews } ∧ kget t.crews id = some { c with life := .halting }) ∧
    (GoWaits s head.val 0x71 dbgReadFields m → s.headUp head.val = true → c.life = .halted → m.field 0x110 8 % 64 = 0 → (s.imageBytes id c).length ≤ m.field 0x118 4 →
      s.memWf → Becomes (.dbgRead head) s fun t => Answers t head.val 0 m ∧ t = { s with heads := t.heads, host := t.host } ∧
        (t.head head.val).mail.bytes 0x11C 4 = leBytes 4 (s.imageBytes id c).length ∧
        Stored (memRead s.host) (memRead t.host) (hostPa head.val (m.field 0x110 8)) (s.imageBytes id c)) ∧
    (GoWaits s head.val 0x72 dbgFields m → c.life = .halted → Becomes (.dbgResume head) s fun t => Answers t head.val 0 m ∧
      t = { s with heads := t.heads, crews := t.crews } ∧ kget t.crews id = some { c with life := .saved })) ∧
  ∀ (s : State) (head : Fin 2) (off : Nat) (val : Word64), off % 8 = 0 →
    (s.stage = stageReady → off = 0x20000 → 1 ≤ val.toNat % 128 → val.toNat % 128 ≤ 64 →
      exec (.registerWrite head off (.write val)) s = .next { s with xlLease := val.toNat % 128 }) ∧
    (s.stage ≠ stageReady → off ≠ 0 → off ≠ 8 →
      ((off = 0x10000 → val.toNat / 2 ^ 63 % 2 = 0) → exec (.registerWrite head off (.write val)) s = .next (s.notReady head.val off)) ∧
      Becomes (.registerWrite head off .read) s fun t => t = { s.notReady head.val off with hostOut := t.hostOut } ∧
        t.hostOut = (s.notReady head.val off).hostOut ++ [.value head.val off 0]) ∧
    exec (.registerWrite head 0 .read) s = .next { s with
      hostOut := s.hostOut ++ [.value head.val 0 (16 * s.stage + if (s.head head.val).nr then 8 else 0)] } ∧
    exec (.registerWrite head 8 .read) s = .next { s with hostOut := s.hostOut ++ [.value head.val 8 (s.tick % 2 ^ 64)] }

/-- Reports, SPDM, TDISP and IDE (R398, R400 to R402, R407): the first report about a gang without an answer goes to the host after 1 ms; SPDM
requests are answered, and a session is opened and binds a TDI; a TDI is locked, started and stopped with its queues; the end of a session
fails the TDIs bound to it, one that is locked or runs leaving its state with its queues DISABLED, and is reported where it bound none; a
stream whose integrity fails is reported, goes out of service, and fails the TDIs in RUN that use it. The model's choices: where a stop
and a failure take a TDI (log entry 101), what the answers of a part with no stated keys hold (log entry 170), the keys of IDE streams
(log entry 172), and that a head whose link is down takes no request (log entry 173). -/
def Obligations.SecurityEvents : Prop :=
  (∀ (s : State) (n t0 : Nat) (r : Report), s.asking[n]? = some (t0, r) → t0 + 1000000 ≤ s.tick →
    (∀ x ∈ s.asking.take n, x.2.gang ≠ r.gang) →
    exec (.reportAnswerTimeout n) s = .next (({ s with asking := s.asking.eraseIdx n } : State).toHost r)) ∧
  (∀ (s : State) (head : Fin 2), s.headUp head.val = true →
    let answers := fun k a => exec (.spdmRequest head k) s = .next { s with hostOut := s.hostOut ++ [.spdm head.val a] }
    answers .version (.version 1 3) ∧ answers .capabilities (.capabilities 4 9) ∧ answers .algorithms .algorithms ∧
    answers .digests (.digests (Config.sha384 s.chain.flatten)) ∧ answers .certificate (.certificate s.chain) ∧
    answers .measurements (.measurements s.measures) ∧ (∀ nonce, answers (.challenge nonce) (.challenge (Config.sign s.aliasOf nonce))) ∧
    (s.stage ≠ stageReady → answers .other .notReady ∧ (∀ n tdi, answers (.openSession n tdi) .notReady) ∧
      ∀ n i, answers (.keySetup n i) .notReady) ∧
    (s.stage = stageReady → answers .other .other ∧ ∀ n tdi,
      ((head.val, n) ∈ s.sessions ∨ 4 ≤ (s.sessions.filter fun x => x.1 == head.val).length → answers (.openSession n tdi) .refused) ∧
      ((head.val, n) ∉ s.sessions → (s.sessions.filter fun x => x.1 == head.val).length < 4 →
        exec (.spdmRequest head (.openSession n tdi)) s = .next { s with
          sessions := s.sessions ++ [(head.val, n)], hostOut := s.hostOut ++ [.spdm head.val (.session n)]
          tdis := match tdi with | some i => kmod s.tdis (64 * head.val + i) fun x => { x with session := some n } | none => s.tdis }) ∧
      ∀ i, ((head.val, n) ∉ s.sessions ∨ 9 ≤ i ∨ (head.val, i) ∈ s.streams → answers (.keySetup n i) .refused) ∧
        ((head.val, n) ∈ s.sessions → i < 9 → (head.val, i) ∉ s.streams → exec (.spdmRequest head (.keySetup n i)) s = .next { s with
          ideKeys := if (head.val, i) ∈ s.ideKeys then s.ideKeys else s.ideKeys ++ [(head.val, i)]
          hostOut := s.hostOut ++ [.spdm head.val (.keySetup i)] }))) ∧
  (∀ (s : State) (head : Fin 2) (n : Nat), s.headUp head.val = true →
    let key := 64 * head.val + n
    let goes := fun k (x : Tdi) y => exec (.tdispRequest head n k) s = .next { s with
      tdis := kset s.tdis key { x with state := y }, hostOut := s.hostOut ++ [.tdisp head.val n true] }
    let refuses := fun k => exec (.tdispRequest head n k) s = .next { s with hostOut := s.hostOut ++ [.tdisp head.val n false] }
    (kget s.tdis key = none → ∀ k, refuses k) ∧
    ∀ x, kget s.tdis key = some x → (x.state = .unlocked → goes .lock x .locked) ∧ (x.state = .locked → goes .start x .run) ∧
      (x.state ≠ .unlocked → refuses .lock) ∧ (x.state ≠ .locked → refuses .start) ∧
      (x.state ≠ .run → goes .stop x .unlocked ∧ exec (.tdiStop head n) s = .next s) ∧
      (x.state = .run → NoSnoop s (x.queues.foldl State.stopQueue s) → ∀ e, e = .tdiStop head n ∨ e = .tdispRequest head n .stop →
        Becomes e s fun t => LeftRun t key { x with state := .unlocked } ∧ t.hostOut.getLast? = some (.tdisp head.val n true))) ∧
  (∀ (s : State) (head : Fin 2) (n : Nat), (head.val, n) ∈ s.sessions →
    let t0 : State := { s with sessions := s.sessions.filter fun x => x != (head.val, n) }
    let binds := fun (x : Nat × Tdi) => x.1 / 64 == head.val && x.2.session == some n
    (s.tdis.filter binds = [] → exec (.sessionExpiry head n) s = .next (t0.plainReport 0xB4 0 head.val n)) ∧
    (s.tdis.filter binds ≠ [] → Rising s.tdis → NoSnoop s ((s.tdis.filter binds).foldl State.failTdi t0) →
      Becomes (.sessionExpiry head n) s fun t => t.sessions = t0.sessions ∧ ∀ key x, kget s.tdis key = some x →
        (binds (key, x) = false → kget t.tdis key = some x) ∧
        (binds (key, x) = true → x.state = .unlocked ∨ x.state = .error → kget t.tdis key = some { x with session := none }) ∧
        (binds (key, x) = true → x.state = .run ∨ x.state = .locked → LeftRun t key { x with state := .error, session := none }))) ∧
  ∀ (s : State) (head : Fin 2) (n : Nat), n < 9 → (head.val, n) ∉ s.streams → Rising s.tdis →
    let t0 := ({ s with streams := s.streams ++ [(head.val, n)] } : State).plainReport 0xBD 0 head.val n
    let uses := fun (x : Nat × Tdi) => x.1 / 64 == head.val && Config.tdiStream head.val (x.1 % 64) n && x.2.state == .run
    NoSnoop s ((s.tdis.filter uses).foldl State.failTdi t0) →
    Becomes (.ideIntegrityFailure head n) s fun t => t.streams = s.streams ++ [(head.val, n)] ∧
      (s.tdis.filter uses = [] → t = t0) ∧ ∀ key x, kget s.tdis key = some x →
        (uses (key, x) = false → kget t.tdis key = some x) ∧ (uses (key, x) = true → LeftRun t key { x with state := .error })

/-- The package (R4, R373, R404, R405, R407 to R409, R411): RESET leaves the values of reset in the device and takes up the staged image, and
bring-up rises stage by stage, with device memory zero at MEMORY, or rejects an image at VERIFY; power is lowered within its range; a
throttle and a trip; scrubbing changes no value; a failed service core is noted; and a cycle counts. The model's choices: RESET keeps host
memory (log entry 103), the trip resets with a flag (log entry 104), POWER_LIMIT only lowers the point (log entry 105), a configuration
image's point is brought into the range of R411 (log entry 175), and a cycle moves the tick by at most 1 (log entry 106). -/
def Obligations.PackageEvents : Prop :=
  (∀ s : State, Becomes .reset s fun t => t.stage = 0 ∧ t.tick = 0 ∧ t.crews = [] ∧ t.gangs = [] ∧ t.ops = [] ∧ t.dev = [] ∧ t.scratch = [] ∧
    t.queues = [] ∧ t.pasids = [] ∧ t.xlLease = 16 ∧ t.prefixUnits = 4 ∧ t.tripped = false ∧ t.host = s.host ∧ t.staged = none ∧
    t.images = (match s.staged with | some i => kset s.images i.kind i | none => s.images) ∧
    (kget t.images 3 = none → t.route = 0x3FFFFFF ∧ t.millivolts = State.reset.millivolts) ∧
    ∀ i, kget t.images 3 = some i → t.route = i.route ∧ t.millivolts = min 600 (max 400 i.point)) ∧
  (∀ s : State, s.stage < 5 → s.tripped = false →
    exec (.bringupStageDone .failed) s = .next { s with stage := 15 } ∧
    (s.stage = 1 → exec (.bringupStageDone .badSignature) s = .next (({ s with stage := 15 } : State).plainReport 0xB9 0 s.primary 0) ∧
      exec (.bringupStageDone .badFormat) s = .next (({ s with stage := 15 } : State).plainReport 0xBA 0 s.primary 0)) ∧
    (s.stage < 3 → exec (.bringupStageDone .done) s = .next { s with stage := s.stage + 1 }) ∧
    (s.stage = 3 → Becomes (.bringupStageDone .done) s fun t => t = { s with stage := 4, dev := [], poisonDev := t.poisonDev } ∧
      (∀ a ∈ t.poisonDev, isDevice a = false) ∧ ∀ a, memRead t.dev a = 0) ∧
    (s.stage = 4 → Becomes (.bringupStageDone .done) s fun t => t.stage = 5 ∧ t.crews = s.crews ∧ t.queues = s.queues)) ∧
  (∀ (s : State) (mv : Nat), 400 ≤ mv → mv ≤ s.millivolts → exec (.powerLimit mv) s = .next { s with millivolts := mv }) ∧
  (∀ s : State, exec .thermalThrottle s = .next { s with throttled := true, millivolts := 400 }) ∧
  (∀ s : State, Becomes .thermalTrip s fun t => t.tripped = true ∧ t.stage = 0 ∧ t.crews = [] ∧ t.gangs = [] ∧ t.ops = []) ∧
  (∀ (s : State) (stack : Nat), Becomes (.patrolScrub stack) s fun t => t = { s with scrubs := t.scrubs } ∧
    (stack < 16 → t.scrubs = s.scrubs + 1)) ∧
  (∀ (s : State) (core : Nat), core < 24 → core ∉ s.failedCores → Becomes (.serviceCoreFailure core) s fun t =>
    t.failedCores = s.failedCores ++ [core] ∧ t = ({ s with failedCores := t.failedCores } : State).plainReport 0xBF 0 s.primary core) ∧
  ∀ (s : State) (ticks : Nat), Becomes (.cycle ticks) s fun t => t = { s with tick := t.tick, cores := t.cores } ∧
    t.tick = (if ticks = 0 then s.tick % 2 ^ 64 else (s.tick + 1) % 2 ^ 64) ∧
    ∀ k, k < 768 → (t.core k).cycle = (s.core k).cycle + 1 ∧ (t.core k).issued = false ∧ (t.core k).tlb = (s.core k).tlb

/-! ## Taking an effect -/

/-- The delivery of an effect (R326, R329, R331, R333): at the nearest hinge that handles its label the fibre starts at the handler's address with the
handle, the label and the payload in V0 to V3, its other registers as they were, the hinge's masks in EFFMASK and no token; the handle is
the record segment's address with GEN, which is 1 above that of the record which the segment last held, or 1; FAULT with no hinge for it is
reported, and its crew and its gang are terminated. -/
def Obligations.EffectEntry : Prop :=
  (∀ (s t u v : State) (crew fid rec_ : Nat) (e : Eff) (above : List SegHead) (h : SegHead) (reps : List Nat) (c : Crew) (f : Fibre),
    (s.crew crew).alive = true → s.hingeFor crew fid e.label = (t, .ok (some (above, h))) → t.memBusy crew fid = false →
    t.allocRecord crew (ceilDiv (t.replayEntries crew fid).length 31) = some (u, rec_, reps) → kget u.crews crew = some c →
    kget c.fibres fid = some f →
    let before := (t.crew crew).records.contains rec_ ||
      ((kget t.gangs (t.crew crew).gang).map fun g => g.poolRecords.contains rec_).getD false
    u.captureInto crew fid e above h rec_ reps false before = (v, .ok ()) →
    s.deliver crew fid e = v ∧ ∃ x gen, (before = false → gen = 1) ∧
      (before = true → ∃ w bs, u.frameRead crew (rec_ + 36) 2 = (w, .ok bs) ∧ gen = (leNat bs + 1) % 1024) ∧ kget (v.crew crew).fibres fid = some x ∧ x.pc = h.hpc ∧ x.seg = h.va ∧
      x.depth = f.depth - above.length ∧ x.effmask = BitVec.ofNat 64 (h.saved ||| h.mask) ∧
      x.getV 0 = BitVec.ofNat 32 (rec_ / 1024 * 1024 + gen) ∧ x.getV 1 = BitVec.ofNat 32 (rec_ / 4294967296) ∧
      x.getV 2 = BitVec.ofNat 32 e.label ∧ x.getV 3 = e.payload ∧ (∀ n, 4 ≤ n → x.getV n = f.getV n) ∧ x.p = f.p ∧ x.x = f.x ∧
      x.fstat = f.fstatNow ∧ x.k = [] ∧ x.pend = [] ∧ x.st.isParked = false) ∧
  ∀ (s : State) (crew fid : Nat) (e : Eff) (c : Crew) (g : Gang), kget s.crews crew = some c → c.alive = true → e.label = 0 →
    e.prog = false → (c.fibre fid).effmask.getLsbD 0 = false → kget s.gangs c.gang = some g → g.terminated = false → crew ∈ g.crews →
    s.deliver crew fid e = (s.gangReport c.gang e.cause fid e.pc).killGang c.gang 0xA9 ∧
      ∀ k ∈ g.crews, ∀ x, kget (s.deliver crew fid e).crews k = some x → x.alive = false
end

