-- ==== Sys2Proof/Laws/Assoc.lean ====
section
/-! SUPPORT. Maps: what a key reads after each update. -/

namespace Sys2Proof.Machine

@[simp] theorem kget_nil {α : Type} (k : Nat) : kget ([] : KMap α) k = none := rfl

@[simp] theorem kget_kset_self {α : Type} (m : KMap α) (k : Nat) (a : α) : kget (kset m k a) k = some a := by
  induction m with
  | nil => simp [kset, kget]
  | cons x m ih =>
    obtain ⟨j, b⟩ := x
    simp only [kset]
    split
    · simp [kget]
    · split
      · simp [kget]
      · simp [kget, *]

@[simp] theorem kget_kset_ne {α : Type} (m : KMap α) {k j : Nat} (a : α) (h : j ≠ k) : kget (kset m k a) j = kget m j := by
  induction m with
  | nil => simp [kset, kget, h]
  | cons x m ih =>
    obtain ⟨i, b⟩ := x
    simp only [kset]
    split
    · simp [kget, h]
    · split
      · next hk => subst hk; simp [kget, h]
      · simp [kget, ih]

@[simp] theorem kget_kdel_self {α : Type} (m : KMap α) (k : Nat) : kget (kdel m k) k = none := by
  unfold kdel
  induction m with
  | nil => rfl
  | cons x m ih =>
    rw [List.filter_cons]
    split
    · next h =>
      have h' : k ≠ x.1 := fun e => by simp [e] at h
      rw [kget, if_neg h']; exact ih
    · exact ih

theorem kget_kdel_ne {α : Type} (m : KMap α) {k j : Nat} (h : j ≠ k) : kget (kdel m k) j = kget m j := by
  induction m with
  | nil => rfl
  | cons x m ih =>
    obtain ⟨i, b⟩ := x
    simp only [kdel, List.filter_cons]
    split
    · simp only [kget]; split
      · rfl
      · exact ih
    · next hi =>
      have hi : i = k := by simpa using hi
      have : ¬j = i := by omega
      rw [kget, if_neg this]; exact ih

@[simp] theorem kget_kmod_self {α : Type} (m : KMap α) (k : Nat) (f : α → α) : kget (kmod m k f) k = (kget m k).map f := by
  unfold kmod
  cases h : kget m k <;> simp [h]

@[simp] theorem kget_kmod_ne {α : Type} (m : KMap α) {k j : Nat} (f : α → α) (h : j ≠ k) :
    kget (kmod m k f) j = kget m j := by
  unfold kmod
  cases kget m k <;> simp [h]

theorem kget_kmod {α : Type} (m : KMap α) (k j : Nat) (f : α → α) :
    kget (kmod m k f) j = if j = k then (kget m k).map f else kget m j := by
  split
  · next h => subst h; exact kget_kmod_self m j f
  · next h => exact kget_kmod_ne m f h

theorem kget_kset {α : Type} (m : KMap α) (k j : Nat) (a : α) :
    kget (kset m k a) j = if j = k then some a else kget m j := by
  split
  · next h => subst h; exact kget_kset_self m j a
  · next h => exact kget_kset_ne m a h

theorem kget_kmap {α : Type} (m : KMap α) (f : Nat → α → α) (k : Nat) : kget (kmap m f) k = (kget m k).map (f k) := by
  induction m with
  | nil => rfl
  | cons x m ih =>
    obtain ⟨j, b⟩ := x
    simp only [kmap, List.map_cons, kget]
    split
    · next h => subst h; rfl
    · exact ih

theorem kgetD_kset_self {α : Type} (m : KMap α) (k : Nat) (a d : α) : kgetD (kset m k a) k d = a := by simp [kgetD]

theorem kgetD_kset_ne {α : Type} (m : KMap α) {k j : Nat} (a d : α) (h : j ≠ k) : kgetD (kset m k a) j d = kgetD m j d := by
  simp [kgetD, h]

theorem kmod_absent {α : Type} (m : KMap α) (k : Nat) (f : α → α) (h : kget m k = none) : kmod m k f = m := by
  simp [kmod, h]

/-- Setting the keys of a list one after another: a key outside the list is kept. -/
theorem kget_foldl_kset_ne {α β : Type} (g : β → Nat × α) (l : List β) (m : KMap α) (j : Nat)
    (h : ∀ x ∈ l, (g x).1 ≠ j) : kget (l.foldl (fun m x => kset m (g x).1 (g x).2) m) j = kget m j := by
  induction l generalizing m with
  | nil => rfl
  | cons x l ih =>
    rw [List.foldl_cons, ih _ fun y hy => h y (List.mem_cons_of_mem _ hy)]
    exact kget_kset_ne m _ (h x (List.mem_cons_self ..)).symm

/-- Setting the keys of a list without repeats: each key then holds the value set. -/
theorem kget_foldl_kset_mem {α β : Type} (g : β → Nat × α) (l : List β) (m : KMap α) (hn : (l.map fun x => (g x).1).Nodup)
    {x : β} (hx : x ∈ l) : kget (l.foldl (fun m x => kset m (g x).1 (g x).2) m) (g x).1 = some (g x).2 := by
  induction l generalizing m with
  | nil => cases hx
  | cons y l ih =>
    rw [List.map_cons, List.nodup_cons] at hn
    rw [List.foldl_cons]
    rcases List.mem_cons.mp hx with rfl | hx
    · rw [kget_foldl_kset_ne g l _ _ fun z hz he => hn.1 (by rw [← he]; exact List.mem_map_of_mem hz)]
      exact kget_kset_self ..
    · exact ih _ hn.2 hx

end Sys2Proof.Machine
end

