-- ==== Sys2Proof/Laws/Decode.lean ====
section
/-! SUPPORT. What the decoder reads from the words that the encoder writes: one lemma per operand code, per check and per
format. -/

namespace Sys2Proof

/-! ## Operand codes -/

theorem Guard.code_lt (g : Guard) : g.code < 15 := by
  cases g <;> simp only [Guard.code] <;> omega

@[simp] theorem guardOf_code (g : Guard) : guardOf g.code = some g := by
  revert g
  have h : ∀ d : Fin 7, guardOf (Guard.unlessP d).code = some (.unlessP d) ∧ guardOf (Guard.ifP d).code = some (.ifP d) := by
    decide
  rintro (_ | d | d)
  · rfl
  · exact (h d).1
  · exact (h d).2

theorem Sel.code_lt (a : Sel) : a.code < 128 := by
  cases a <;> simp only [Sel.code] <;> omega

@[simp] theorem selOf_code (a : Sel) : selOf a.code = some a := by
  cases a with
  | v n => revert n; decide
  | g n => revert n; decide
  | latch n => revert n; decide
  | vx n => revert n; decide
  | q n => revert n; decide
  | int n => revert n; decide
  | flt n => revert n; decide
  | imm => rfl

theorem Cond.code_lt (c : Cond) : c.code < 13 := by cases c <;> decide

@[simp] theorem condOf_code (c : Cond) : condOf c.code = some c := by cases c <;> rfl

theorem PushMode.code_lt (p : PushMode) : p.code < 5 := by cases p <;> decide

@[simp] theorem pushModeOf_code (p : PushMode) : pushModeOf p.code = some p := by cases p <;> rfl

theorem Size.code_lt (z : Size) : z.code < 7 := by cases z <;> decide

@[simp] theorem sizeOf_code (z : Size) : sizeOf? z.code = some z := by cases z <;> rfl

theorem AtomFn.code_lt (f : AtomFn) : f.code < 15 := by cases f <;> decide

@[simp] theorem atomFnOf_code (f : AtomFn) : atomFnOf f.code = some f := by cases f <;> rfl

theorem Order.code_lt (o : Order) : o.code < 4 := by cases o <;> decide

@[simp] theorem orderOf_code (o : Order) : orderOf o.code = some o := by cases o <;> rfl

theorem Scope.code_lt (s : Scope) : s.code < 5 := by cases s <;> decide

@[simp] theorem scopeOf_code (s : Scope) : scopeOf s.code = some s := by cases s <;> rfl

/-- A register number read from a field that holds it. -/
theorem ofNat_field {n : Nat} [NeZero n] (d : Fin n) {x : Nat} (h : x % n = d.val) : Fin.ofNat n x = d := Fin.ext h

/-- An immediate read from a field that holds it. -/
theorem bits_field {n : Nat} (b : BitVec n) {x : Nat} (h : x % 2 ^ n = b.toNat) : BitVec.ofNat n x = b :=
  BitVec.eq_of_toNat_eq (by simpa using h)

/-! ## The checks -/

theorem withGuard_code {w : Nat} (g : Guard) (k : Guard → Decoded) (h : w / 2097152 % 16 = g.code) :
    withGuard w k = k g := by
  simp only [withGuard, h, guardOf_code]

theorem noGuard_zero {w : Nat} (k : Decoded) (h : w / 2097152 % 16 = 0) : noGuard w k = k := by
  simp [noGuard, h]

theorem zeroField_zero {n : Nat} (k : Decoded) (h : n = 0) : zeroField n k = k := if_pos h

theorem noNw_zero {w : Nat} (k : Decoded) (h : w / 1048576 % 2 = 0) : noNw w k = k := if_pos h

theorem withSel_code {n : Nat} (a : Sel) {ok : Sel → Bool} (k : Sel → Decoded) (h : n = a.code) (hok : ok a = true) :
    withSel n ok k = k a := by
  simp [withSel, h, hok]

theorem withSel2_code {m n : Nat} (a b : Sel) {ok : Sel → Bool} (k : Sel → Sel → Decoded) (hm : m = a.code) (hn : n = b.code)
    (hok : (ok a && ok b) = true) : withSel2 m n ok k = k a b := by
  simp only [withSel2, hm, hn, selOf_code, hok, if_true]

theorem withCond_code (c : Cond) (p : PushMode) {cc pm : Nat} {ok : Cond → Bool} (k : Cond → PushMode → Decoded)
    (hc : cc = c.code) (hp : pm = p.code) (hok : ok c = true) : withCond cc pm ok k = k c p := by
  simp [withCond, hc, hp, hok]

/-- The opcode of a word whose highest field holds it. -/
theorem decodeWord_op {w : Nat} (op : Nat) (h : w / 33554432 = op) (lo : 0 < op) (hi : op < 127) :
    decodeWord w = decodeOp op w := by
  have h0 : w ≠ 0 := by omega
  have h1 : w ≠ 4294967295 := by omega
  simp only [decodeWord, h0, h1, if_false, h]

/-! ## The formats -/

theorem withLane_enc (op : Nat) (h : LaneHdr) (x y : Nat) (k : LaneHdr → Decoded) (hok : h.ok = true) (hx : x < 128)
    (hy : y < 128) : withLane (encLane op h x y) k = k h := by
  obtain ⟨g, nw, d⟩ := h
  have hg := g.code_lt
  have hd := d.isLt
  simp only [LaneHdr.ok, Bool.or_eq_true, Bool.not_eq_true', beq_iff_eq] at hok
  have hnw : nw.toNat = if nw then 1 else 0 := by cases nw <;> rfl
  have e1 : encLane op ⟨g, nw, d⟩ x y / 2097152 % 16 = g.code := by
    simp only [encLane, encGuard]; cases nw <;> simp <;> omega
  have e2 : encLane op ⟨g, nw, d⟩ x y / 1048576 % 2 = nw.toNat := by
    simp only [encLane, encGuard]; cases nw <;> simp <;> omega
  have e3 : encLane op ⟨g, nw, d⟩ x y / 16384 % 64 = d.val := by
    simp only [encLane, encGuard]; cases nw <;> simp <;> omega
  rw [withLane, withGuard_code g _ e1, e2, e3, ofNat_field d e3]
  rcases hok with rfl | hz
  · simp
  · have : ¬(nw.toNat = 1 ∧ d.val ≠ 0) := by simp [hz]
    rw [if_neg this]
    cases nw <;> rfl

theorem encLane_op {op : Nat} (h : LaneHdr) {x y : Nat} (hx : x < 128) (hy : y < 128) :
    encLane op h x y / 33554432 = op := by
  have hg := h.g.code_lt
  have hd := h.d.isLt
  have hn : h.nw.toNat ≤ 1 := Bool.toNat_le h.nw
  simp only [encLane, encGuard]; omega

theorem encLane_a {op : Nat} (h : LaneHdr) {x y : Nat} (hx : x < 128) (hy : y < 128) :
    encLane op h x y / 128 % 128 = x := by
  simp only [encLane, encGuard]; omega

theorem encLane_b {op : Nat} (h : LaneHdr) {x y : Nat} (hy : y < 128) : encLane op h x y % 128 = y := by
  simp only [encLane, encGuard]; omega

theorem roundLane2 (mk : LaneHdr → Sel → Sel → Instr) (op : Nat) (lo : 0 < op) (hi : op < 127)
    (hd : ∀ w, decodeOp op w = decLane2 w mk) (h : LaneHdr) (a b : Sel) (hok : h.ok = true) :
    decodeWord (encLane op h a.code b.code) = .ok (mk h a b) := by
  rw [decodeWord_op op (encLane_op h a.code_lt b.code_lt) lo hi, hd, decLane2, withLane_enc op h _ _ _ hok a.code_lt b.code_lt,
    withSel2_code a b _ (encLane_a h a.code_lt b.code_lt) (encLane_b h b.code_lt) rfl]

theorem roundLane1 (mk : LaneHdr → Sel → Instr) (op : Nat) (lo : 0 < op) (hi : op < 127)
    (hd : ∀ w, decodeOp op w = decLane1 w mk) (h : LaneHdr) (a : Sel) (hok : h.ok = true) :
    decodeWord (encLane op h a.code 0) = .ok (mk h a) := by
  rw [decodeWord_op op (encLane_op h a.code_lt (by decide)) lo hi, hd, decLane1,
    withLane_enc op h _ _ _ hok a.code_lt (by decide), zeroField_zero _ (encLane_b h (by decide)),
    withSel_code a _ (encLane_a h a.code_lt (by decide)) rfl]

theorem roundLaneImm (mk : LaneHdr → Sel → BitVec 7 → Instr) (op : Nat) (lo : 0 < op) (hi : op < 127)
    (hd : ∀ w, decodeOp op w = decLaneImm w mk) (h : LaneHdr) (a : Sel) (imm : BitVec 7) (hok : h.ok = true) :
    decodeWord (encLane op h a.code imm.toNat) = .ok (mk h a imm) := by
  have hb : imm.toNat < 128 := imm.isLt
  rw [decodeWord_op op (encLane_op h a.code_lt hb) lo hi, hd, decLaneImm, withLane_enc op h _ _ _ hok a.code_lt hb,
    withSel_code a _ (encLane_a h a.code_lt hb) rfl, bits_field imm (encLane_b h hb)]

theorem roundCmp (mk : CmpHdr → Sel → Sel → Instr) (ok : Cond → Bool) (op : Nat) (lo : 0 < op) (hi : op < 127)
    (hd : ∀ w, decodeOp op w = decCmp w ok mk) (h : CmpHdr) (a b : Sel) (hok : ok h.cc = true) :
    decodeWord (encCmp op h a b) = .ok (mk h a b) := by
  have ha := a.code_lt
  have hb := b.code_lt
  have hg := h.g.code_lt
  have hc := h.cc.code_lt
  have hp := h.pm.code_lt
  have e0 : encCmp op h a b / 33554432 = op := by simp only [encCmp, encGuard]; omega
  have e1 : encCmp op h a b / 2097152 % 16 = h.g.code := by simp only [encCmp, encGuard]; omega
  have e2 : encCmp op h a b / 131072 % 16 = h.cc.code := by simp only [encCmp, encGuard]; omega
  have e3 : encCmp op h a b / 16384 % 8 = h.pm.code := by simp only [encCmp, encGuard]; omega
  have e4 : encCmp op h a b / 128 % 128 = a.code := by simp only [encCmp, encGuard]; omega
  have e5 : encCmp op h a b % 128 = b.code := by simp only [encCmp, encGuard]; omega
  rw [decodeWord_op op e0 lo hi, hd, decCmp, withGuard_code h.g _ e1, withCond_code h.cc h.pm _ e2 e3 hok,
    withSel2_code a b _ e4 e5 rfl]

theorem roundPstk (mk : Guard → Instr) (n : Nat) (hn : n < 16) (g : Guard)
    (hop : ∀ w, decodeOp 68 w = decPstk w)
    (hd : ∀ w g, w % 131072 = 0 → w / 2097152 % 16 = g.code → w / 131072 % 16 = n → decPstk w = .ok (mk g)) :
    decodeWord (encGuard 68 g + n * 131072) = .ok (mk g) := by
  have hg := g.code_lt
  rw [decodeWord_op 68 (by simp only [encGuard]; omega) (by decide) (by decide), hop]
  exact hd _ g (by simp only [encGuard]; omega) (by simp only [encGuard]; omega) (by simp only [encGuard]; omega)

theorem roundUni (mk : Fin 32 → Sel → Sel → Instr) (op : Nat) (lo : 0 < op) (hi : op < 127)
    (hd : ∀ w, decodeOp op w = decUni w mk) (d : Fin 32) (a b : Sel) (hok : (a.okUniform && b.okUniform) = true) :
    decodeWord (op * 33554432 + d.val * 16384 + a.code * 128 + b.code) = .ok (mk d a b) := by
  have ha := a.code_lt
  have hb := b.code_lt
  rw [decodeWord_op op (by omega) lo hi, hd, decUni, zeroField_zero _ (by omega), withSel2_code a b _ (by omega) (by omega) hok,
    ofNat_field d (by omega)]

theorem roundUcmp (mk : Cond → PushMode → Sel → Sel → Instr) (op : Nat) (lo : 0 < op) (hi : op < 127)
    (hd : ∀ w, decodeOp op w = decUcmp w mk) (cc : Cond) (pm : PushMode) (a b : Sel)
    (hok : (cc.okInt && (a.okUniform && b.okUniform)) = true) :
    decodeWord (op * 33554432 + cc.code * 1048576 + pm.code * 131072 + a.code * 128 + b.code) = .ok (mk cc pm a b) := by
  have ha := a.code_lt
  have hb := b.code_lt
  have hc := cc.code_lt
  have hp := pm.code_lt
  rw [Bool.and_eq_true] at hok
  rw [decodeWord_op op (by omega) lo hi, hd, decUcmp, zeroField_zero _ (by omega),
    withCond_code cc pm _ (by omega) (by omega) hok.1, withSel2_code a b _ (by omega) (by omega) hok.2]

theorem roundBranch (mk : Guard → BitVec 21 → Instr) (op : Nat) (lo : 0 < op) (hi : op < 127)
    (hd : ∀ w, decodeOp op w = decBranch w mk) (g : Guard) (disp : BitVec 21) :
    decodeWord (encGuard op g + disp.toNat) = .ok (mk g disp) := by
  have hg := g.code_lt
  have hb : disp.toNat < 2097152 := disp.isLt
  simp only [encGuard]
  rw [decodeWord_op op (by omega) lo hi, hd, decBranch, withGuard_code g _ (by omega), bits_field disp (by omega)]

theorem roundBrx (mk : Guard → Sel → Instr) (op : Nat) (lo : 0 < op) (hi : op < 127)
    (hd : ∀ w, decodeOp op w = decBrx w mk) (g : Guard) (a : Sel) :
    decodeWord (encGuard op g + a.code * 128) = .ok (mk g a) := by
  have hg := g.code_lt
  have ha := a.code_lt
  simp only [encGuard]
  rw [decodeWord_op op (by omega) lo hi, hd, decBrx, withGuard_code g _ (by omega), noNw_zero _ (by omega),
    zeroField_zero _ (by omega), withSel_code a _ (by omega) rfl]

theorem roundRet (mk : Guard → Instr) (op : Nat) (lo : 0 < op) (hi : op < 127)
    (hd : ∀ w, decodeOp op w = decRet w mk) (g : Guard) : decodeWord (encGuard op g) = .ok (mk g) := by
  have hg := g.code_lt
  simp only [encGuard]
  rw [decodeWord_op op (by omega) lo hi, hd, decRet, withGuard_code g _ (by omega), zeroField_zero _ (by omega)]

theorem roundSplit (mk : Guard → Fin 8 → Instr) (op : Nat) (lo : 0 < op) (hi : op < 127)
    (hd : ∀ w, decodeOp op w = decSplit w mk) (g : Guard) (j : Fin 8) :
    decodeWord (encGuard op g + j.val) = .ok (mk g j) := by
  have hg := g.code_lt
  simp only [encGuard]
  rw [decodeWord_op op (by omega) lo hi, hd, decSplit, withGuard_code g _ (by omega), zeroField_zero _ (by omega),
    ofNat_field j (by omega)]

theorem roundXset (mk : Guard → Fin 4 → Sel → Instr) (op : Nat) (lo : 0 < op) (hi : op < 127)
    (hd : ∀ w, decodeOp op w = decXset w mk) (g : Guard) (x : Fin 4) (a : Sel) :
    decodeWord (encGuard op g + x.val * 16384 + a.code * 128) = .ok (mk g x a) := by
  have hg := g.code_lt
  have ha := a.code_lt
  simp only [encGuard]
  rw [decodeWord_op op (by omega) lo hi, hd, decXset, withGuard_code g _ (by omega), noNw_zero _ (by omega),
    zeroField_zero _ (by omega), withSel_code a _ (by omega) rfl, ofNat_field x (by omega)]

theorem encMem_op {op : Nat} (h : MemHdr) {low : Nat} (hl : low < 16) : encMem op h low / 33554432 = op := by
  have hg := h.g.code_lt
  have ha := h.ab.code_lt
  simp only [encMem, encGuard]; omega

theorem encMem_low {op : Nat} (h : MemHdr) {low : Nat} (hl : low < 16) : encMem op h low % 16 = low := by
  simp only [encMem, encGuard]; omega

theorem encMem_guard {op : Nat} (h : MemHdr) {low : Nat} (hl : low < 16) : encMem op h low / 2097152 % 16 = h.g.code := by
  have hg := h.g.code_lt
  have ha := h.ab.code_lt
  simp only [encMem, encGuard]; omega

theorem withMem_enc (op : Nat) (h : MemHdr) (low : Nat) (k : MemHdr → Decoded) (hl : low < 16) (hok : h.ab.okBase = true) :
    withMem (encMem op h low) h.g k = k h := by
  obtain ⟨g, kk, d, ab⟩ := h
  have hg := g.code_lt
  have ha := ab.code_lt
  have e1 : encMem op ⟨g, kk, d, ab⟩ low / 16 % 128 = ab.code := by simp only [encMem, encGuard]; omega
  have e2 : encMem op ⟨g, kk, d, ab⟩ low / 131072 % 16 = kk.val := by simp only [encMem, encGuard]; omega
  have e3 : encMem op ⟨g, kk, d, ab⟩ low / 2048 % 64 = d.val := by simp only [encMem, encGuard]; omega
  rw [withMem, withSel_code ab _ e1 hok, ofNat_field kk e2, ofNat_field d e3]

theorem roundMem (mk : MemHdr → Size → Instr) (ok : Size → Bool) (op : Nat) (lo : 0 < op) (hi : op < 127)
    (hd : ∀ w, decodeOp op w = decMem w ok mk) (h : MemHdr) (sz : Size) (hs : ok sz = true) (hb : h.ab.okBase = true) :
    decodeWord (encMem op h (sz.code * 2)) = .ok (mk h sz) := by
  have hz := sz.code_lt
  have hl : sz.code * 2 < 16 := by omega
  have e := encMem_low (op := op) h hl
  rw [decodeWord_op op (encMem_op h hl) lo hi, hd, decMem, withGuard_code h.g _ (encMem_guard h hl), zeroField_zero _ (by omega)]
  have e1 : encMem op h (sz.code * 2) / 2 % 8 = sz.code := by omega
  simp only [e1, sizeOf_code, hs, if_true]
  exact withMem_enc op h _ _ hl hb

theorem roundAtom (mk : MemHdr → AtomFn → Instr) (ok : AtomFn → Bool) (op : Nat) (lo : 0 < op) (hi : op < 127)
    (hd : ∀ w, decodeOp op w = decAtom w ok mk) (h : MemHdr) (af : AtomFn) (hs : ok af = true) (hb : h.ab.okBase = true) :
    decodeWord (encMem op h af.code) = .ok (mk h af) := by
  have hz := af.code_lt
  have hl : af.code < 16 := by omega
  rw [decodeWord_op op (encMem_op h hl) lo hi, hd, decAtom, withGuard_code h.g _ (encMem_guard h hl)]
  simp only [encMem_low h hl, atomFnOf_code, hs, if_true]
  exact withMem_enc op h _ _ hl hb

/-- ALLOW and CACHE words: the function n in SZ selects an arm of the decoder. -/
theorem roundAllow (dec : Nat → Decoded) (mk : MemHdr → Instr) (op n : Nat) (lo : 0 < op) (hi : op < 127) (hn : n < 8)
    (hd : ∀ w, decodeOp op w = dec w)
    (arm : ∀ w g, w / 2097152 % 16 = g.code → w % 2 = 0 → w / 2 % 8 = n → dec w = withMem w g fun h => .ok (mk h))
    (h : MemHdr) (hb : h.ab.okBase = true) : decodeWord (encMem op h (n * 2)) = .ok (mk h) := by
  have hl : n * 2 < 16 := by omega
  have e := encMem_low (op := op) h hl
  rw [decodeWord_op op (encMem_op h hl) lo hi, hd, arm _ h.g (encMem_guard h hl) (by omega) (by omega)]
  exact withMem_enc op h _ _ hl hb

/-- Unguarded format E words: the function n selects an arm of the decoder. -/
theorem roundEng (dec : Nat → Decoded) (mk : EngHdr → Instr) (op n : Nat) (lo : 0 < op) (hi : op < 127) (hn : n < 16)
    (hd : ∀ w, decodeOp op w = dec w)
    (arm : ∀ w, w / 2097152 % 16 = 0 → w / 32 % 2 = 0 → w / 8192 % 16 = n → dec w = withEng w fun h => .ok (mk h))
    (h : EngHdr) (hb : h.a.okUniform = true) : decodeWord (encEng op n h) = .ok (mk h) := by
  obtain ⟨kk, a, c⟩ := h
  have ha := a.code_lt
  have e1 : encEng op n ⟨kk, a, c⟩ / 64 % 128 = a.code := by simp only [encEng]; omega
  have e2 : encEng op n ⟨kk, a, c⟩ / 131072 % 16 = kk.val := by simp only [encEng]; omega
  have e3 : encEng op n ⟨kk, a, c⟩ % 32 = c.val := by simp only [encEng]; omega
  rw [decodeWord_op op (by simp only [encEng]; omega) lo hi, hd,
    arm _ (by simp only [encEng]; omega) (by simp only [encEng]; omega) (by simp only [encEng]; omega), withEng,
    withSel_code a _ e1 hb, ofNat_field kk e2, ofNat_field c e3]

/-- Guarded format E words with a token. -/
theorem roundGEng (dec : Nat → Decoded) (mk : GEngHdr → Instr) (op n : Nat) (lo : 0 < op) (hi : op < 127) (hn : n < 16)
    (hd : ∀ w, decodeOp op w = dec w)
    (arm : ∀ w g, w / 2097152 % 16 = g.code → w / 32 % 2 = 0 → w / 8192 % 16 = n →
      dec w = withGEng w g fun h => .ok (mk h))
    (h : GEngHdr) (hb : h.a.okEngine = true) : decodeWord (encGEng op n h) = .ok (mk h) := by
  obtain ⟨g, kk, a, b⟩ := h
  have ha := a.code_lt
  have hg := g.code_lt
  have e1 : encGEng op n ⟨g, kk, a, b⟩ / 64 % 128 = a.code := by simp only [encGEng, encGuard]; omega
  have e2 : encGEng op n ⟨g, kk, a, b⟩ / 131072 % 16 = kk.val := by simp only [encGEng, encGuard]; omega
  have e3 : encGEng op n ⟨g, kk, a, b⟩ % 32 = b.val := by simp only [encGEng, encGuard]; omega
  rw [decodeWord_op op (by simp only [encGEng, encGuard]; omega) lo hi, hd,
    arm _ g (by simp only [encGEng, encGuard]; omega) (by simp only [encGEng, encGuard]; omega)
      (by simp only [encGEng, encGuard]; omega), withGEng,
    withSel_code a _ e1 hb, ofNat_field kk e2, ofNat_field b e3]

/-- Immediate EFFECT and SPAWN words. -/
theorem roundEff (dec : Nat → Decoded) (mk : EffHdr → Instr) (op n : Nat) (lo : 0 < op) (hi : op < 127) (hn : n < 16)
    (hd : ∀ w, decodeOp op w = dec w)
    (arm : ∀ w g, w / 2097152 % 16 = g.code → w / 32 % 2 = 0 → w / 131072 % 16 = 0 → w / 8192 % 16 = n →
      dec w = withEff w g fun h => .ok (mk h))
    (h : EffHdr) (hb : h.a.okEngine = true) : decodeWord (encEff op n h) = .ok (mk h) := by
  obtain ⟨g, a, b⟩ := h
  have ha := a.code_lt
  have hg := g.code_lt
  have e1 : encEff op n ⟨g, a, b⟩ / 64 % 128 = a.code := by simp only [encEff, encGuard]; omega
  have e2 : encEff op n ⟨g, a, b⟩ / 131072 % 16 = 0 := by simp only [encEff, encGuard]; omega
  have e3 : encEff op n ⟨g, a, b⟩ % 32 = b.val := by simp only [encEff, encGuard]; omega
  rw [decodeWord_op op (by simp only [encEff, encGuard]; omega) lo hi, hd,
    arm _ g (by simp only [encEff, encGuard]; omega) (by simp only [encEff, encGuard]; omega) e2
      (by simp only [encEff, encGuard]; omega), withEff, zeroField_zero _ e2, withSel_code a _ e1 hb, ofNat_field b e3]

theorem decFence_ifence {w : Nat} (g : Guard) (sc : Scope) (h0 : w / 2097152 % 16 = g.code)
    (hz : w / 65536 % 32 + w / 16 % 128 + w % 2 = 0) (h1 : w / 2048 % 8 = sc.code) (h2 : w / 16384 % 4 = 0)
    (h3 : w / 2 % 8 = 1) : decFence w = .ok (.ifence g sc) := by
  rw [decFence, withGuard_code g _ h0, zeroField_zero _ hz, h1, h2, h3, scopeOf_code]
  rfl

end Sys2Proof
end

