-- ==== Sys2Proof/Laws/State.lean ====
section
/-! SUPPORT. State: each field after each named update of the state, a crew, a fibre and a core after one. -/

namespace Sys2Proof.Machine

set_option Elab.async false

/-! ## modCrew -/

@[simp] theorem State.modCrew_agenda (s : State) (c : Nat) (f : Crew → Crew) : (s.modCrew c f).agenda = s.agenda := rfl
@[simp] theorem State.modCrew_cur (s : State) (c : Nat) (f : Crew → Crew) : (s.modCrew c f).cur = s.cur := rfl
@[simp] theorem State.modCrew_free (s : State) (c : Nat) (f : Crew → Crew) : (s.modCrew c f).free = s.free := rfl
@[simp] theorem State.modCrew_nextId (s : State) (c : Nat) (f : Crew → Crew) : (s.modCrew c f).nextId = s.nextId := rfl
@[simp] theorem State.modCrew_tick (s : State) (c : Nat) (f : Crew → Crew) : (s.modCrew c f).tick = s.tick := rfl
@[simp] theorem State.modCrew_stage (s : State) (c : Nat) (f : Crew → Crew) : (s.modCrew c f).stage = s.stage := rfl
@[simp] theorem State.modCrew_thr (s : State) (c : Nat) (f : Crew → Crew) : (s.modCrew c f).thr = s.thr := rfl
@[simp] theorem State.modCrew_route (s : State) (c : Nat) (f : Crew → Crew) : (s.modCrew c f).route = s.route := rfl
@[simp] theorem State.modCrew_xlLease (s : State) (c : Nat) (f : Crew → Crew) : (s.modCrew c f).xlLease = s.xlLease := rfl
@[simp] theorem State.modCrew_xlHorizon (s : State) (c : Nat) (f : Crew → Crew) : (s.modCrew c f).xlHorizon = s.xlHorizon := rfl
@[simp] theorem State.modCrew_flushBusy (s : State) (c : Nat) (f : Crew → Crew) : (s.modCrew c f).flushBusy = s.flushBusy := rfl
@[simp] theorem State.modCrew_flushAll (s : State) (c : Nat) (f : Crew → Crew) : (s.modCrew c f).flushAll = s.flushAll := rfl
@[simp] theorem State.modCrew_flushPasid (s : State) (c : Nat) (f : Crew → Crew) : (s.modCrew c f).flushPasid = s.flushPasid := rfl
@[simp] theorem State.modCrew_flushOps (s : State) (c : Nat) (f : Crew → Crew) : (s.modCrew c f).flushOps = s.flushOps := rfl
@[simp] theorem State.modCrew_dev (s : State) (c : Nat) (f : Crew → Crew) : (s.modCrew c f).dev = s.dev := rfl
@[simp] theorem State.modCrew_host (s : State) (c : Nat) (f : Crew → Crew) : (s.modCrew c f).host = s.host := rfl
@[simp] theorem State.modCrew_scratch (s : State) (c : Nat) (f : Crew → Crew) : (s.modCrew c f).scratch = s.scratch := rfl
@[simp] theorem State.modCrew_poisonDev (s : State) (c : Nat) (f : Crew → Crew) : (s.modCrew c f).poisonDev = s.poisonDev := rfl
@[simp] theorem State.modCrew_poisonScratch (s : State) (c : Nat) (f : Crew → Crew) : (s.modCrew c f).poisonScratch = s.poisonScratch := rfl
@[simp] theorem State.modCrew_hostAbort (s : State) (c : Nat) (f : Crew → Crew) : (s.modCrew c f).hostAbort = s.hostAbort := rfl
@[simp] theorem State.modCrew_gated (s : State) (c : Nat) (f : Crew → Crew) : (s.modCrew c f).gated = s.gated := rfl
@[simp] theorem State.modCrew_agents (s : State) (c : Nat) (f : Crew → Crew) : (s.modCrew c f).agents = s.agents := rfl
@[simp] theorem State.modCrew_homes (s : State) (c : Nat) (f : Crew → Crew) : (s.modCrew c f).homes = s.homes := rfl
@[simp] theorem State.modCrew_tags (s : State) (c : Nat) (f : Crew → Crew) : (s.modCrew c f).tags = s.tags := rfl
@[simp] theorem State.modCrew_holders (s : State) (c : Nat) (f : Crew → Crew) : (s.modCrew c f).holders = s.holders := rfl
@[simp] theorem State.modCrew_cores (s : State) (c : Nat) (f : Crew → Crew) : (s.modCrew c f).cores = s.cores := rfl
@[simp] theorem State.modCrew_dies (s : State) (c : Nat) (f : Crew → Crew) : (s.modCrew c f).dies = s.dies := rfl
@[simp] theorem State.modCrew_clusters (s : State) (c : Nat) (f : Crew → Crew) : (s.modCrew c f).clusters = s.clusters := rfl
@[simp] theorem State.modCrew_gangs (s : State) (c : Nat) (f : Crew → Crew) : (s.modCrew c f).gangs = s.gangs := rfl
@[simp] theorem State.modCrew_tagCounter (s : State) (c : Nat) (f : Crew → Crew) : (s.modCrew c f).tagCounter = s.tagCounter := rfl
@[simp] theorem State.modCrew_accepts (s : State) (c : Nat) (f : Crew → Crew) : (s.modCrew c f).accepts = s.accepts := rfl
@[simp] theorem State.modCrew_mails (s : State) (c : Nat) (f : Crew → Crew) : (s.modCrew c f).mails = s.mails := rfl
@[simp] theorem State.modCrew_launches (s : State) (c : Nat) (f : Crew → Crew) : (s.modCrew c f).launches = s.launches := rfl
@[simp] theorem State.modCrew_sysId (s : State) (c : Nat) (f : Crew → Crew) : (s.modCrew c f).sysId = s.sysId := rfl
@[simp] theorem State.modCrew_ops (s : State) (c : Nat) (f : Crew → Crew) : (s.modCrew c f).ops = s.ops := rfl
@[simp] theorem State.modCrew_pages (s : State) (c : Nat) (f : Crew → Crew) : (s.modCrew c f).pages = s.pages := rfl
@[simp] theorem State.modCrew_pasids (s : State) (c : Nat) (f : Crew → Crew) : (s.modCrew c f).pasids = s.pasids := rfl
@[simp] theorem State.modCrew_prefixUnits (s : State) (c : Nat) (f : Crew → Crew) : (s.modCrew c f).prefixUnits = s.prefixUnits := rfl
@[simp] theorem State.modCrew_bxGrants (s : State) (c : Nat) (f : Crew → Crew) : (s.modCrew c f).bxGrants = s.bxGrants := rfl
@[simp] theorem State.modCrew_bxExpired (s : State) (c : Nat) (f : Crew → Crew) : (s.modCrew c f).bxExpired = s.bxExpired := rfl
@[simp] theorem State.modCrew_bxOrphaned (s : State) (c : Nat) (f : Crew → Crew) : (s.modCrew c f).bxOrphaned = s.bxOrphaned := rfl
@[simp] theorem State.modCrew_sends (s : State) (c : Nat) (f : Crew → Crew) : (s.modCrew c f).sends = s.sends := rfl
@[simp] theorem State.modCrew_recvs (s : State) (c : Nat) (f : Crew → Crew) : (s.modCrew c f).recvs = s.recvs := rfl
@[simp] theorem State.modCrew_msgs (s : State) (c : Nat) (f : Crew → Crew) : (s.modCrew c f).msgs = s.msgs := rfl
@[simp] theorem State.modCrew_ports (s : State) (c : Nat) (f : Crew → Crew) : (s.modCrew c f).ports = s.ports := rfl
@[simp] theorem State.modCrew_routes (s : State) (c : Nat) (f : Crew → Crew) : (s.modCrew c f).routes = s.routes := rfl
@[simp] theorem State.modCrew_linkOut (s : State) (c : Nat) (f : Crew → Crew) : (s.modCrew c f).linkOut = s.linkOut := rfl
@[simp] theorem State.modCrew_queues (s : State) (c : Nat) (f : Crew → Crew) : (s.modCrew c f).queues = s.queues := rfl
@[simp] theorem State.modCrew_graphs (s : State) (c : Nat) (f : Crew → Crew) : (s.modCrew c f).graphs = s.graphs := rfl
@[simp] theorem State.modCrew_pool (s : State) (c : Nat) (f : Crew → Crew) : (s.modCrew c f).pool = s.pool := rfl
@[simp] theorem State.modCrew_poolWait (s : State) (c : Nat) (f : Crew → Crew) : (s.modCrew c f).poolWait = s.poolWait := rfl
@[simp] theorem State.modCrew_lifetimes (s : State) (c : Nat) (f : Crew → Crew) : (s.modCrew c f).lifetimes = s.lifetimes := rfl
@[simp] theorem State.modCrew_vectors (s : State) (c : Nat) (f : Crew → Crew) : (s.modCrew c f).vectors = s.vectors := rfl
@[simp] theorem State.modCrew_heads (s : State) (c : Nat) (f : Crew → Crew) : (s.modCrew c f).heads = s.heads := rfl
@[simp] theorem State.modCrew_epoch (s : State) (c : Nat) (f : Crew → Crew) : (s.modCrew c f).epoch = s.epoch := rfl
@[simp] theorem State.modCrew_primary (s : State) (c : Nat) (f : Crew → Crew) : (s.modCrew c f).primary = s.primary := rfl
@[simp] theorem State.modCrew_failover (s : State) (c : Nat) (f : Crew → Crew) : (s.modCrew c f).failover = s.failover := rfl
@[simp] theorem State.modCrew_held (s : State) (c : Nat) (f : Crew → Crew) : (s.modCrew c f).held = s.held := rfl
@[simp] theorem State.modCrew_svcLog (s : State) (c : Nat) (f : Crew → Crew) : (s.modCrew c f).svcLog = s.svcLog := rfl
@[simp] theorem State.modCrew_asking (s : State) (c : Nat) (f : Crew → Crew) : (s.modCrew c f).asking = s.asking := rfl
@[simp] theorem State.modCrew_raceReport (s : State) (c : Nat) (f : Crew → Crew) : (s.modCrew c f).raceReport = s.raceReport := rfl
@[simp] theorem State.modCrew_tdis (s : State) (c : Nat) (f : Crew → Crew) : (s.modCrew c f).tdis = s.tdis := rfl
@[simp] theorem State.modCrew_sessions (s : State) (c : Nat) (f : Crew → Crew) : (s.modCrew c f).sessions = s.sessions := rfl
@[simp] theorem State.modCrew_streams (s : State) (c : Nat) (f : Crew → Crew) : (s.modCrew c f).streams = s.streams := rfl
@[simp] theorem State.modCrew_ideKeys (s : State) (c : Nat) (f : Crew → Crew) : (s.modCrew c f).ideKeys = s.ideKeys := rfl
@[simp] theorem State.modCrew_staged (s : State) (c : Nat) (f : Crew → Crew) : (s.modCrew c f).staged = s.staged := rfl
@[simp] theorem State.modCrew_images (s : State) (c : Nat) (f : Crew → Crew) : (s.modCrew c f).images = s.images := rfl
@[simp] theorem State.modCrew_failedCores (s : State) (c : Nat) (f : Crew → Crew) : (s.modCrew c f).failedCores = s.failedCores := rfl
@[simp] theorem State.modCrew_millivolts (s : State) (c : Nat) (f : Crew → Crew) : (s.modCrew c f).millivolts = s.millivolts := rfl
@[simp] theorem State.modCrew_throttled (s : State) (c : Nat) (f : Crew → Crew) : (s.modCrew c f).throttled = s.throttled := rfl
@[simp] theorem State.modCrew_tripped (s : State) (c : Nat) (f : Crew → Crew) : (s.modCrew c f).tripped = s.tripped := rfl
@[simp] theorem State.modCrew_scrubs (s : State) (c : Nat) (f : Crew → Crew) : (s.modCrew c f).scrubs = s.scrubs := rfl
@[simp] theorem State.modCrew_hostDown (s : State) (c : Nat) (f : Crew → Crew) : (s.modCrew c f).hostDown = s.hostDown := rfl
@[simp] theorem State.modCrew_hostOut (s : State) (c : Nat) (f : Crew → Crew) : (s.modCrew c f).hostOut = s.hostOut := rfl

/-! ## modFibre -/

@[simp] theorem State.modFibre_agenda (s : State) (c n : Nat) (f : Fibre → Fibre) : (s.modFibre c n f).agenda = s.agenda := rfl
@[simp] theorem State.modFibre_cur (s : State) (c n : Nat) (f : Fibre → Fibre) : (s.modFibre c n f).cur = s.cur := rfl
@[simp] theorem State.modFibre_free (s : State) (c n : Nat) (f : Fibre → Fibre) : (s.modFibre c n f).free = s.free := rfl
@[simp] theorem State.modFibre_nextId (s : State) (c n : Nat) (f : Fibre → Fibre) : (s.modFibre c n f).nextId = s.nextId := rfl
@[simp] theorem State.modFibre_tick (s : State) (c n : Nat) (f : Fibre → Fibre) : (s.modFibre c n f).tick = s.tick := rfl
@[simp] theorem State.modFibre_stage (s : State) (c n : Nat) (f : Fibre → Fibre) : (s.modFibre c n f).stage = s.stage := rfl
@[simp] theorem State.modFibre_thr (s : State) (c n : Nat) (f : Fibre → Fibre) : (s.modFibre c n f).thr = s.thr := rfl
@[simp] theorem State.modFibre_route (s : State) (c n : Nat) (f : Fibre → Fibre) : (s.modFibre c n f).route = s.route := rfl
@[simp] theorem State.modFibre_xlLease (s : State) (c n : Nat) (f : Fibre → Fibre) : (s.modFibre c n f).xlLease = s.xlLease := rfl
@[simp] theorem State.modFibre_xlHorizon (s : State) (c n : Nat) (f : Fibre → Fibre) : (s.modFibre c n f).xlHorizon = s.xlHorizon := rfl
@[simp] theorem State.modFibre_flushBusy (s : State) (c n : Nat) (f : Fibre → Fibre) : (s.modFibre c n f).flushBusy = s.flushBusy := rfl
@[simp] theorem State.modFibre_flushAll (s : State) (c n : Nat) (f : Fibre → Fibre) : (s.modFibre c n f).flushAll = s.flushAll := rfl
@[simp] theorem State.modFibre_flushPasid (s : State) (c n : Nat) (f : Fibre → Fibre) : (s.modFibre c n f).flushPasid = s.flushPasid := rfl
@[simp] theorem State.modFibre_flushOps (s : State) (c n : Nat) (f : Fibre → Fibre) : (s.modFibre c n f).flushOps = s.flushOps := rfl
@[simp] theorem State.modFibre_dev (s : State) (c n : Nat) (f : Fibre → Fibre) : (s.modFibre c n f).dev = s.dev := rfl
@[simp] theorem State.modFibre_host (s : State) (c n : Nat) (f : Fibre → Fibre) : (s.modFibre c n f).host = s.host := rfl
@[simp] theorem State.modFibre_scratch (s : State) (c n : Nat) (f : Fibre → Fibre) : (s.modFibre c n f).scratch = s.scratch := rfl
@[simp] theorem State.modFibre_poisonDev (s : State) (c n : Nat) (f : Fibre → Fibre) : (s.modFibre c n f).poisonDev = s.poisonDev := rfl
@[simp] theorem State.modFibre_poisonScratch (s : State) (c n : Nat) (f : Fibre → Fibre) : (s.modFibre c n f).poisonScratch = s.poisonScratch := rfl
@[simp] theorem State.modFibre_hostAbort (s : State) (c n : Nat) (f : Fibre → Fibre) : (s.modFibre c n f).hostAbort = s.hostAbort := rfl
@[simp] theorem State.modFibre_gated (s : State) (c n : Nat) (f : Fibre → Fibre) : (s.modFibre c n f).gated = s.gated := rfl
@[simp] theorem State.modFibre_agents (s : State) (c n : Nat) (f : Fibre → Fibre) : (s.modFibre c n f).agents = s.agents := rfl
@[simp] theorem State.modFibre_homes (s : State) (c n : Nat) (f : Fibre → Fibre) : (s.modFibre c n f).homes = s.homes := rfl
@[simp] theorem State.modFibre_tags (s : State) (c n : Nat) (f : Fibre → Fibre) : (s.modFibre c n f).tags = s.tags := rfl
@[simp] theorem State.modFibre_holders (s : State) (c n : Nat) (f : Fibre → Fibre) : (s.modFibre c n f).holders = s.holders := rfl
@[simp] theorem State.modFibre_cores (s : State) (c n : Nat) (f : Fibre → Fibre) : (s.modFibre c n f).cores = s.cores := rfl
@[simp] theorem State.modFibre_dies (s : State) (c n : Nat) (f : Fibre → Fibre) : (s.modFibre c n f).dies = s.dies := rfl
@[simp] theorem State.modFibre_clusters (s : State) (c n : Nat) (f : Fibre → Fibre) : (s.modFibre c n f).clusters = s.clusters := rfl
@[simp] theorem State.modFibre_gangs (s : State) (c n : Nat) (f : Fibre → Fibre) : (s.modFibre c n f).gangs = s.gangs := rfl
@[simp] theorem State.modFibre_tagCounter (s : State) (c n : Nat) (f : Fibre → Fibre) : (s.modFibre c n f).tagCounter = s.tagCounter := rfl
@[simp] theorem State.modFibre_accepts (s : State) (c n : Nat) (f : Fibre → Fibre) : (s.modFibre c n f).accepts = s.accepts := rfl
@[simp] theorem State.modFibre_mails (s : State) (c n : Nat) (f : Fibre → Fibre) : (s.modFibre c n f).mails = s.mails := rfl
@[simp] theorem State.modFibre_launches (s : State) (c n : Nat) (f : Fibre → Fibre) : (s.modFibre c n f).launches = s.launches := rfl
@[simp] theorem State.modFibre_sysId (s : State) (c n : Nat) (f : Fibre → Fibre) : (s.modFibre c n f).sysId = s.sysId := rfl
@[simp] theorem State.modFibre_ops (s : State) (c n : Nat) (f : Fibre → Fibre) : (s.modFibre c n f).ops = s.ops := rfl
@[simp] theorem State.modFibre_pages (s : State) (c n : Nat) (f : Fibre → Fibre) : (s.modFibre c n f).pages = s.pages := rfl
@[simp] theorem State.modFibre_pasids (s : State) (c n : Nat) (f : Fibre → Fibre) : (s.modFibre c n f).pasids = s.pasids := rfl
@[simp] theorem State.modFibre_prefixUnits (s : State) (c n : Nat) (f : Fibre → Fibre) : (s.modFibre c n f).prefixUnits = s.prefixUnits := rfl
@[simp] theorem State.modFibre_bxGrants (s : State) (c n : Nat) (f : Fibre → Fibre) : (s.modFibre c n f).bxGrants = s.bxGrants := rfl
@[simp] theorem State.modFibre_bxExpired (s : State) (c n : Nat) (f : Fibre → Fibre) : (s.modFibre c n f).bxExpired = s.bxExpired := rfl
@[simp] theorem State.modFibre_bxOrphaned (s : State) (c n : Nat) (f : Fibre → Fibre) : (s.modFibre c n f).bxOrphaned = s.bxOrphaned := rfl
@[simp] theorem State.modFibre_sends (s : State) (c n : Nat) (f : Fibre → Fibre) : (s.modFibre c n f).sends = s.sends := rfl
@[simp] theorem State.modFibre_recvs (s : State) (c n : Nat) (f : Fibre → Fibre) : (s.modFibre c n f).recvs = s.recvs := rfl
@[simp] theorem State.modFibre_msgs (s : State) (c n : Nat) (f : Fibre → Fibre) : (s.modFibre c n f).msgs = s.msgs := rfl
@[simp] theorem State.modFibre_ports (s : State) (c n : Nat) (f : Fibre → Fibre) : (s.modFibre c n f).ports = s.ports := rfl
@[simp] theorem State.modFibre_routes (s : State) (c n : Nat) (f : Fibre → Fibre) : (s.modFibre c n f).routes = s.routes := rfl
@[simp] theorem State.modFibre_linkOut (s : State) (c n : Nat) (f : Fibre → Fibre) : (s.modFibre c n f).linkOut = s.linkOut := rfl
@[simp] theorem State.modFibre_queues (s : State) (c n : Nat) (f : Fibre → Fibre) : (s.modFibre c n f).queues = s.queues := rfl
@[simp] theorem State.modFibre_graphs (s : State) (c n : Nat) (f : Fibre → Fibre) : (s.modFibre c n f).graphs = s.graphs := rfl
@[simp] theorem State.modFibre_pool (s : State) (c n : Nat) (f : Fibre → Fibre) : (s.modFibre c n f).pool = s.pool := rfl
@[simp] theorem State.modFibre_poolWait (s : State) (c n : Nat) (f : Fibre → Fibre) : (s.modFibre c n f).poolWait = s.poolWait := rfl
@[simp] theorem State.modFibre_lifetimes (s : State) (c n : Nat) (f : Fibre → Fibre) : (s.modFibre c n f).lifetimes = s.lifetimes := rfl
@[simp] theorem State.modFibre_vectors (s : State) (c n : Nat) (f : Fibre → Fibre) : (s.modFibre c n f).vectors = s.vectors := rfl
@[simp] theorem State.modFibre_heads (s : State) (c n : Nat) (f : Fibre → Fibre) : (s.modFibre c n f).heads = s.heads := rfl
@[simp] theorem State.modFibre_epoch (s : State) (c n : Nat) (f : Fibre → Fibre) : (s.modFibre c n f).epoch = s.epoch := rfl
@[simp] theorem State.modFibre_primary (s : State) (c n : Nat) (f : Fibre → Fibre) : (s.modFibre c n f).primary = s.primary := rfl
@[simp] theorem State.modFibre_failover (s : State) (c n : Nat) (f : Fibre → Fibre) : (s.modFibre c n f).failover = s.failover := rfl
@[simp] theorem State.modFibre_held (s : State) (c n : Nat) (f : Fibre → Fibre) : (s.modFibre c n f).held = s.held := rfl
@[simp] theorem State.modFibre_svcLog (s : State) (c n : Nat) (f : Fibre → Fibre) : (s.modFibre c n f).svcLog = s.svcLog := rfl
@[simp] theorem State.modFibre_asking (s : State) (c n : Nat) (f : Fibre → Fibre) : (s.modFibre c n f).asking = s.asking := rfl
@[simp] theorem State.modFibre_raceReport (s : State) (c n : Nat) (f : Fibre → Fibre) : (s.modFibre c n f).raceReport = s.raceReport := rfl
@[simp] theorem State.modFibre_tdis (s : State) (c n : Nat) (f : Fibre → Fibre) : (s.modFibre c n f).tdis = s.tdis := rfl
@[simp] theorem State.modFibre_sessions (s : State) (c n : Nat) (f : Fibre → Fibre) : (s.modFibre c n f).sessions = s.sessions := rfl
@[simp] theorem State.modFibre_streams (s : State) (c n : Nat) (f : Fibre → Fibre) : (s.modFibre c n f).streams = s.streams := rfl
@[simp] theorem State.modFibre_ideKeys (s : State) (c n : Nat) (f : Fibre → Fibre) : (s.modFibre c n f).ideKeys = s.ideKeys := rfl
@[simp] theorem State.modFibre_staged (s : State) (c n : Nat) (f : Fibre → Fibre) : (s.modFibre c n f).staged = s.staged := rfl
@[simp] theorem State.modFibre_images (s : State) (c n : Nat) (f : Fibre → Fibre) : (s.modFibre c n f).images = s.images := rfl
@[simp] theorem State.modFibre_failedCores (s : State) (c n : Nat) (f : Fibre → Fibre) : (s.modFibre c n f).failedCores = s.failedCores := rfl
@[simp] theorem State.modFibre_millivolts (s : State) (c n : Nat) (f : Fibre → Fibre) : (s.modFibre c n f).millivolts = s.millivolts := rfl
@[simp] theorem State.modFibre_throttled (s : State) (c n : Nat) (f : Fibre → Fibre) : (s.modFibre c n f).throttled = s.throttled := rfl
@[simp] theorem State.modFibre_tripped (s : State) (c n : Nat) (f : Fibre → Fibre) : (s.modFibre c n f).tripped = s.tripped := rfl
@[simp] theorem State.modFibre_scrubs (s : State) (c n : Nat) (f : Fibre → Fibre) : (s.modFibre c n f).scrubs = s.scrubs := rfl
@[simp] theorem State.modFibre_hostDown (s : State) (c n : Nat) (f : Fibre → Fibre) : (s.modFibre c n f).hostDown = s.hostDown := rfl
@[simp] theorem State.modFibre_hostOut (s : State) (c n : Nat) (f : Fibre → Fibre) : (s.modFibre c n f).hostOut = s.hostOut := rfl

/-! ## modCore -/

@[simp] theorem State.modCore_agenda (s : State) (c : Nat) (f : Core → Core) : (s.modCore c f).agenda = s.agenda := rfl
@[simp] theorem State.modCore_cur (s : State) (c : Nat) (f : Core → Core) : (s.modCore c f).cur = s.cur := rfl
@[simp] theorem State.modCore_free (s : State) (c : Nat) (f : Core → Core) : (s.modCore c f).free = s.free := rfl
@[simp] theorem State.modCore_nextId (s : State) (c : Nat) (f : Core → Core) : (s.modCore c f).nextId = s.nextId := rfl
@[simp] theorem State.modCore_tick (s : State) (c : Nat) (f : Core → Core) : (s.modCore c f).tick = s.tick := rfl
@[simp] theorem State.modCore_stage (s : State) (c : Nat) (f : Core → Core) : (s.modCore c f).stage = s.stage := rfl
@[simp] theorem State.modCore_thr (s : State) (c : Nat) (f : Core → Core) : (s.modCore c f).thr = s.thr := rfl
@[simp] theorem State.modCore_route (s : State) (c : Nat) (f : Core → Core) : (s.modCore c f).route = s.route := rfl
@[simp] theorem State.modCore_xlLease (s : State) (c : Nat) (f : Core → Core) : (s.modCore c f).xlLease = s.xlLease := rfl
@[simp] theorem State.modCore_xlHorizon (s : State) (c : Nat) (f : Core → Core) : (s.modCore c f).xlHorizon = s.xlHorizon := rfl
@[simp] theorem State.modCore_flushBusy (s : State) (c : Nat) (f : Core → Core) : (s.modCore c f).flushBusy = s.flushBusy := rfl
@[simp] theorem State.modCore_flushAll (s : State) (c : Nat) (f : Core → Core) : (s.modCore c f).flushAll = s.flushAll := rfl
@[simp] theorem State.modCore_flushPasid (s : State) (c : Nat) (f : Core → Core) : (s.modCore c f).flushPasid = s.flushPasid := rfl
@[simp] theorem State.modCore_flushOps (s : State) (c : Nat) (f : Core → Core) : (s.modCore c f).flushOps = s.flushOps := rfl
@[simp] theorem State.modCore_dev (s : State) (c : Nat) (f : Core → Core) : (s.modCore c f).dev = s.dev := rfl
@[simp] theorem State.modCore_host (s : State) (c : Nat) (f : Core → Core) : (s.modCore c f).host = s.host := rfl
@[simp] theorem State.modCore_scratch (s : State) (c : Nat) (f : Core → Core) : (s.modCore c f).scratch = s.scratch := rfl
@[simp] theorem State.modCore_poisonDev (s : State) (c : Nat) (f : Core → Core) : (s.modCore c f).poisonDev = s.poisonDev := rfl
@[simp] theorem State.modCore_poisonScratch (s : State) (c : Nat) (f : Core → Core) : (s.modCore c f).poisonScratch = s.poisonScratch := rfl
@[simp] theorem State.modCore_hostAbort (s : State) (c : Nat) (f : Core → Core) : (s.modCore c f).hostAbort = s.hostAbort := rfl
@[simp] theorem State.modCore_gated (s : State) (c : Nat) (f : Core → Core) : (s.modCore c f).gated = s.gated := rfl
@[simp] theorem State.modCore_agents (s : State) (c : Nat) (f : Core → Core) : (s.modCore c f).agents = s.agents := rfl
@[simp] theorem State.modCore_homes (s : State) (c : Nat) (f : Core → Core) : (s.modCore c f).homes = s.homes := rfl
@[simp] theorem State.modCore_tags (s : State) (c : Nat) (f : Core → Core) : (s.modCore c f).tags = s.tags := rfl
@[simp] theorem State.modCore_holders (s : State) (c : Nat) (f : Core → Core) : (s.modCore c f).holders = s.holders := rfl
@[simp] theorem State.modCore_dies (s : State) (c : Nat) (f : Core → Core) : (s.modCore c f).dies = s.dies := rfl
@[simp] theorem State.modCore_clusters (s : State) (c : Nat) (f : Core → Core) : (s.modCore c f).clusters = s.clusters := rfl
@[simp] theorem State.modCore_crews (s : State) (c : Nat) (f : Core → Core) : (s.modCore c f).crews = s.crews := rfl
@[simp] theorem State.modCore_gangs (s : State) (c : Nat) (f : Core → Core) : (s.modCore c f).gangs = s.gangs := rfl
@[simp] theorem State.modCore_tagCounter (s : State) (c : Nat) (f : Core → Core) : (s.modCore c f).tagCounter = s.tagCounter := rfl
@[simp] theorem State.modCore_accepts (s : State) (c : Nat) (f : Core → Core) : (s.modCore c f).accepts = s.accepts := rfl
@[simp] theorem State.modCore_mails (s : State) (c : Nat) (f : Core → Core) : (s.modCore c f).mails = s.mails := rfl
@[simp] theorem State.modCore_launches (s : State) (c : Nat) (f : Core → Core) : (s.modCore c f).launches = s.launches := rfl
@[simp] theorem State.modCore_sysId (s : State) (c : Nat) (f : Core → Core) : (s.modCore c f).sysId = s.sysId := rfl
@[simp] theorem State.modCore_ops (s : State) (c : Nat) (f : Core → Core) : (s.modCore c f).ops = s.ops := rfl
@[simp] theorem State.modCore_pages (s : State) (c : Nat) (f : Core → Core) : (s.modCore c f).pages = s.pages := rfl
@[simp] theorem State.modCore_pasids (s : State) (c : Nat) (f : Core → Core) : (s.modCore c f).pasids = s.pasids := rfl
@[simp] theorem State.modCore_prefixUnits (s : State) (c : Nat) (f : Core → Core) : (s.modCore c f).prefixUnits = s.prefixUnits := rfl
@[simp] theorem State.modCore_bxGrants (s : State) (c : Nat) (f : Core → Core) : (s.modCore c f).bxGrants = s.bxGrants := rfl
@[simp] theorem State.modCore_bxExpired (s : State) (c : Nat) (f : Core → Core) : (s.modCore c f).bxExpired = s.bxExpired := rfl
@[simp] theorem State.modCore_bxOrphaned (s : State) (c : Nat) (f : Core → Core) : (s.modCore c f).bxOrphaned = s.bxOrphaned := rfl
@[simp] theorem State.modCore_sends (s : State) (c : Nat) (f : Core → Core) : (s.modCore c f).sends = s.sends := rfl
@[simp] theorem State.modCore_recvs (s : State) (c : Nat) (f : Core → Core) : (s.modCore c f).recvs = s.recvs := rfl
@[simp] theorem State.modCore_msgs (s : State) (c : Nat) (f : Core → Core) : (s.modCore c f).msgs = s.msgs := rfl
@[simp] theorem State.modCore_ports (s : State) (c : Nat) (f : Core → Core) : (s.modCore c f).ports = s.ports := rfl
@[simp] theorem State.modCore_routes (s : State) (c : Nat) (f : Core → Core) : (s.modCore c f).routes = s.routes := rfl
@[simp] theorem State.modCore_linkOut (s : State) (c : Nat) (f : Core → Core) : (s.modCore c f).linkOut = s.linkOut := rfl
@[simp] theorem State.modCore_queues (s : State) (c : Nat) (f : Core → Core) : (s.modCore c f).queues = s.queues := rfl
@[simp] theorem State.modCore_graphs (s : State) (c : Nat) (f : Core → Core) : (s.modCore c f).graphs = s.graphs := rfl
@[simp] theorem State.modCore_pool (s : State) (c : Nat) (f : Core → Core) : (s.modCore c f).pool = s.pool := rfl
@[simp] theorem State.modCore_poolWait (s : State) (c : Nat) (f : Core → Core) : (s.modCore c f).poolWait = s.poolWait := rfl
@[simp] theorem State.modCore_lifetimes (s : State) (c : Nat) (f : Core → Core) : (s.modCore c f).lifetimes = s.lifetimes := rfl
@[simp] theorem State.modCore_vectors (s : State) (c : Nat) (f : Core → Core) : (s.modCore c f).vectors = s.vectors := rfl
@[simp] theorem State.modCore_heads (s : State) (c : Nat) (f : Core → Core) : (s.modCore c f).heads = s.heads := rfl
@[simp] theorem State.modCore_epoch (s : State) (c : Nat) (f : Core → Core) : (s.modCore c f).epoch = s.epoch := rfl
@[simp] theorem State.modCore_primary (s : State) (c : Nat) (f : Core → Core) : (s.modCore c f).primary = s.primary := rfl
@[simp] theorem State.modCore_failover (s : State) (c : Nat) (f : Core → Core) : (s.modCore c f).failover = s.failover := rfl
@[simp] theorem State.modCore_held (s : State) (c : Nat) (f : Core → Core) : (s.modCore c f).held = s.held := rfl
@[simp] theorem State.modCore_svcLog (s : State) (c : Nat) (f : Core → Core) : (s.modCore c f).svcLog = s.svcLog := rfl
@[simp] theorem State.modCore_asking (s : State) (c : Nat) (f : Core → Core) : (s.modCore c f).asking = s.asking := rfl
@[simp] theorem State.modCore_raceReport (s : State) (c : Nat) (f : Core → Core) : (s.modCore c f).raceReport = s.raceReport := rfl
@[simp] theorem State.modCore_tdis (s : State) (c : Nat) (f : Core → Core) : (s.modCore c f).tdis = s.tdis := rfl
@[simp] theorem State.modCore_sessions (s : State) (c : Nat) (f : Core → Core) : (s.modCore c f).sessions = s.sessions := rfl
@[simp] theorem State.modCore_streams (s : State) (c : Nat) (f : Core → Core) : (s.modCore c f).streams = s.streams := rfl
@[simp] theorem State.modCore_ideKeys (s : State) (c : Nat) (f : Core → Core) : (s.modCore c f).ideKeys = s.ideKeys := rfl
@[simp] theorem State.modCore_staged (s : State) (c : Nat) (f : Core → Core) : (s.modCore c f).staged = s.staged := rfl
@[simp] theorem State.modCore_images (s : State) (c : Nat) (f : Core → Core) : (s.modCore c f).images = s.images := rfl
@[simp] theorem State.modCore_failedCores (s : State) (c : Nat) (f : Core → Core) : (s.modCore c f).failedCores = s.failedCores := rfl
@[simp] theorem State.modCore_millivolts (s : State) (c : Nat) (f : Core → Core) : (s.modCore c f).millivolts = s.millivolts := rfl
@[simp] theorem State.modCore_throttled (s : State) (c : Nat) (f : Core → Core) : (s.modCore c f).throttled = s.throttled := rfl
@[simp] theorem State.modCore_tripped (s : State) (c : Nat) (f : Core → Core) : (s.modCore c f).tripped = s.tripped := rfl
@[simp] theorem State.modCore_scrubs (s : State) (c : Nat) (f : Core → Core) : (s.modCore c f).scrubs = s.scrubs := rfl
@[simp] theorem State.modCore_hostDown (s : State) (c : Nat) (f : Core → Core) : (s.modCore c f).hostDown = s.hostDown := rfl
@[simp] theorem State.modCore_hostOut (s : State) (c : Nat) (f : Core → Core) : (s.modCore c f).hostOut = s.hostOut := rfl

/-! ## modCluster -/

@[simp] theorem State.modCluster_agenda (s : State) (c : Nat) (f : Cluster → Cluster) : (s.modCluster c f).agenda = s.agenda := rfl
@[simp] theorem State.modCluster_cur (s : State) (c : Nat) (f : Cluster → Cluster) : (s.modCluster c f).cur = s.cur := rfl
@[simp] theorem State.modCluster_free (s : State) (c : Nat) (f : Cluster → Cluster) : (s.modCluster c f).free = s.free := rfl
@[simp] theorem State.modCluster_nextId (s : State) (c : Nat) (f : Cluster → Cluster) : (s.modCluster c f).nextId = s.nextId := rfl
@[simp] theorem State.modCluster_tick (s : State) (c : Nat) (f : Cluster → Cluster) : (s.modCluster c f).tick = s.tick := rfl
@[simp] theorem State.modCluster_stage (s : State) (c : Nat) (f : Cluster → Cluster) : (s.modCluster c f).stage = s.stage := rfl
@[simp] theorem State.modCluster_thr (s : State) (c : Nat) (f : Cluster → Cluster) : (s.modCluster c f).thr = s.thr := rfl
@[simp] theorem State.modCluster_route (s : State) (c : Nat) (f : Cluster → Cluster) : (s.modCluster c f).route = s.route := rfl
@[simp] theorem State.modCluster_xlLease (s : State) (c : Nat) (f : Cluster → Cluster) : (s.modCluster c f).xlLease = s.xlLease := rfl
@[simp] theorem State.modCluster_xlHorizon (s : State) (c : Nat) (f : Cluster → Cluster) : (s.modCluster c f).xlHorizon = s.xlHorizon := rfl
@[simp] theorem State.modCluster_flushBusy (s : State) (c : Nat) (f : Cluster → Cluster) : (s.modCluster c f).flushBusy = s.flushBusy := rfl
@[simp] theorem State.modCluster_flushAll (s : State) (c : Nat) (f : Cluster → Cluster) : (s.modCluster c f).flushAll = s.flushAll := rfl
@[simp] theorem State.modCluster_flushPasid (s : State) (c : Nat) (f : Cluster → Cluster) : (s.modCluster c f).flushPasid = s.flushPasid := rfl
@[simp] theorem State.modCluster_flushOps (s : State) (c : Nat) (f : Cluster → Cluster) : (s.modCluster c f).flushOps = s.flushOps := rfl
@[simp] theorem State.modCluster_dev (s : State) (c : Nat) (f : Cluster → Cluster) : (s.modCluster c f).dev = s.dev := rfl
@[simp] theorem State.modCluster_host (s : State) (c : Nat) (f : Cluster → Cluster) : (s.modCluster c f).host = s.host := rfl
@[simp] theorem State.modCluster_scratch (s : State) (c : Nat) (f : Cluster → Cluster) : (s.modCluster c f).scratch = s.scratch := rfl
@[simp] theorem State.modCluster_poisonDev (s : State) (c : Nat) (f : Cluster → Cluster) : (s.modCluster c f).poisonDev = s.poisonDev := rfl
@[simp] theorem State.modCluster_poisonScratch (s : State) (c : Nat) (f : Cluster → Cluster) : (s.modCluster c f).poisonScratch = s.poisonScratch := rfl
@[simp] theorem State.modCluster_hostAbort (s : State) (c : Nat) (f : Cluster → Cluster) : (s.modCluster c f).hostAbort = s.hostAbort := rfl
@[simp] theorem State.modCluster_gated (s : State) (c : Nat) (f : Cluster → Cluster) : (s.modCluster c f).gated = s.gated := rfl
@[simp] theorem State.modCluster_agents (s : State) (c : Nat) (f : Cluster → Cluster) : (s.modCluster c f).agents = s.agents := rfl
@[simp] theorem State.modCluster_homes (s : State) (c : Nat) (f : Cluster → Cluster) : (s.modCluster c f).homes = s.homes := rfl
@[simp] theorem State.modCluster_tags (s : State) (c : Nat) (f : Cluster → Cluster) : (s.modCluster c f).tags = s.tags := rfl
@[simp] theorem State.modCluster_holders (s : State) (c : Nat) (f : Cluster → Cluster) : (s.modCluster c f).holders = s.holders := rfl
@[simp] theorem State.modCluster_cores (s : State) (c : Nat) (f : Cluster → Cluster) : (s.modCluster c f).cores = s.cores := rfl
@[simp] theorem State.modCluster_dies (s : State) (c : Nat) (f : Cluster → Cluster) : (s.modCluster c f).dies = s.dies := rfl
@[simp] theorem State.modCluster_crews (s : State) (c : Nat) (f : Cluster → Cluster) : (s.modCluster c f).crews = s.crews := rfl
@[simp] theorem State.modCluster_gangs (s : State) (c : Nat) (f : Cluster → Cluster) : (s.modCluster c f).gangs = s.gangs := rfl
@[simp] theorem State.modCluster_tagCounter (s : State) (c : Nat) (f : Cluster → Cluster) : (s.modCluster c f).tagCounter = s.tagCounter := rfl
@[simp] theorem State.modCluster_accepts (s : State) (c : Nat) (f : Cluster → Cluster) : (s.modCluster c f).accepts = s.accepts := rfl
@[simp] theorem State.modCluster_mails (s : State) (c : Nat) (f : Cluster → Cluster) : (s.modCluster c f).mails = s.mails := rfl
@[simp] theorem State.modCluster_launches (s : State) (c : Nat) (f : Cluster → Cluster) : (s.modCluster c f).launches = s.launches := rfl
@[simp] theorem State.modCluster_sysId (s : State) (c : Nat) (f : Cluster → Cluster) : (s.modCluster c f).sysId = s.sysId := rfl
@[simp] theorem State.modCluster_ops (s : State) (c : Nat) (f : Cluster → Cluster) : (s.modCluster c f).ops = s.ops := rfl
@[simp] theorem State.modCluster_pages (s : State) (c : Nat) (f : Cluster → Cluster) : (s.modCluster c f).pages = s.pages := rfl
@[simp] theorem State.modCluster_pasids (s : State) (c : Nat) (f : Cluster → Cluster) : (s.modCluster c f).pasids = s.pasids := rfl
@[simp] theorem State.modCluster_prefixUnits (s : State) (c : Nat) (f : Cluster → Cluster) : (s.modCluster c f).prefixUnits = s.prefixUnits := rfl
@[simp] theorem State.modCluster_bxGrants (s : State) (c : Nat) (f : Cluster → Cluster) : (s.modCluster c f).bxGrants = s.bxGrants := rfl
@[simp] theorem State.modCluster_bxExpired (s : State) (c : Nat) (f : Cluster → Cluster) : (s.modCluster c f).bxExpired = s.bxExpired := rfl
@[simp] theorem State.modCluster_bxOrphaned (s : State) (c : Nat) (f : Cluster → Cluster) : (s.modCluster c f).bxOrphaned = s.bxOrphaned := rfl
@[simp] theorem State.modCluster_sends (s : State) (c : Nat) (f : Cluster → Cluster) : (s.modCluster c f).sends = s.sends := rfl
@[simp] theorem State.modCluster_recvs (s : State) (c : Nat) (f : Cluster → Cluster) : (s.modCluster c f).recvs = s.recvs := rfl
@[simp] theorem State.modCluster_msgs (s : State) (c : Nat) (f : Cluster → Cluster) : (s.modCluster c f).msgs = s.msgs := rfl
@[simp] theorem State.modCluster_ports (s : State) (c : Nat) (f : Cluster → Cluster) : (s.modCluster c f).ports = s.ports := rfl
@[simp] theorem State.modCluster_routes (s : State) (c : Nat) (f : Cluster → Cluster) : (s.modCluster c f).routes = s.routes := rfl
@[simp] theorem State.modCluster_linkOut (s : State) (c : Nat) (f : Cluster → Cluster) : (s.modCluster c f).linkOut = s.linkOut := rfl
@[simp] theorem State.modCluster_queues (s : State) (c : Nat) (f : Cluster → Cluster) : (s.modCluster c f).queues = s.queues := rfl
@[simp] theorem State.modCluster_graphs (s : State) (c : Nat) (f : Cluster → Cluster) : (s.modCluster c f).graphs = s.graphs := rfl
@[simp] theorem State.modCluster_pool (s : State) (c : Nat) (f : Cluster → Cluster) : (s.modCluster c f).pool = s.pool := rfl
@[simp] theorem State.modCluster_poolWait (s : State) (c : Nat) (f : Cluster → Cluster) : (s.modCluster c f).poolWait = s.poolWait := rfl
@[simp] theorem State.modCluster_lifetimes (s : State) (c : Nat) (f : Cluster → Cluster) : (s.modCluster c f).lifetimes = s.lifetimes := rfl
@[simp] theorem State.modCluster_vectors (s : State) (c : Nat) (f : Cluster → Cluster) : (s.modCluster c f).vectors = s.vectors := rfl
@[simp] theorem State.modCluster_heads (s : State) (c : Nat) (f : Cluster → Cluster) : (s.modCluster c f).heads = s.heads := rfl
@[simp] theorem State.modCluster_epoch (s : State) (c : Nat) (f : Cluster → Cluster) : (s.modCluster c f).epoch = s.epoch := rfl
@[simp] theorem State.modCluster_primary (s : State) (c : Nat) (f : Cluster → Cluster) : (s.modCluster c f).primary = s.primary := rfl
@[simp] theorem State.modCluster_failover (s : State) (c : Nat) (f : Cluster → Cluster) : (s.modCluster c f).failover = s.failover := rfl
@[simp] theorem State.modCluster_held (s : State) (c : Nat) (f : Cluster → Cluster) : (s.modCluster c f).held = s.held := rfl
@[simp] theorem State.modCluster_svcLog (s : State) (c : Nat) (f : Cluster → Cluster) : (s.modCluster c f).svcLog = s.svcLog := rfl
@[simp] theorem State.modCluster_asking (s : State) (c : Nat) (f : Cluster → Cluster) : (s.modCluster c f).asking = s.asking := rfl
@[simp] theorem State.modCluster_raceReport (s : State) (c : Nat) (f : Cluster → Cluster) : (s.modCluster c f).raceReport = s.raceReport := rfl
@[simp] theorem State.modCluster_tdis (s : State) (c : Nat) (f : Cluster → Cluster) : (s.modCluster c f).tdis = s.tdis := rfl
@[simp] theorem State.modCluster_sessions (s : State) (c : Nat) (f : Cluster → Cluster) : (s.modCluster c f).sessions = s.sessions := rfl
@[simp] theorem State.modCluster_streams (s : State) (c : Nat) (f : Cluster → Cluster) : (s.modCluster c f).streams = s.streams := rfl
@[simp] theorem State.modCluster_ideKeys (s : State) (c : Nat) (f : Cluster → Cluster) : (s.modCluster c f).ideKeys = s.ideKeys := rfl
@[simp] theorem State.modCluster_staged (s : State) (c : Nat) (f : Cluster → Cluster) : (s.modCluster c f).staged = s.staged := rfl
@[simp] theorem State.modCluster_images (s : State) (c : Nat) (f : Cluster → Cluster) : (s.modCluster c f).images = s.images := rfl
@[simp] theorem State.modCluster_failedCores (s : State) (c : Nat) (f : Cluster → Cluster) : (s.modCluster c f).failedCores = s.failedCores := rfl
@[simp] theorem State.modCluster_millivolts (s : State) (c : Nat) (f : Cluster → Cluster) : (s.modCluster c f).millivolts = s.millivolts := rfl
@[simp] theorem State.modCluster_throttled (s : State) (c : Nat) (f : Cluster → Cluster) : (s.modCluster c f).throttled = s.throttled := rfl
@[simp] theorem State.modCluster_tripped (s : State) (c : Nat) (f : Cluster → Cluster) : (s.modCluster c f).tripped = s.tripped := rfl
@[simp] theorem State.modCluster_scrubs (s : State) (c : Nat) (f : Cluster → Cluster) : (s.modCluster c f).scrubs = s.scrubs := rfl
@[simp] theorem State.modCluster_hostDown (s : State) (c : Nat) (f : Cluster → Cluster) : (s.modCluster c f).hostDown = s.hostDown := rfl
@[simp] theorem State.modCluster_hostOut (s : State) (c : Nat) (f : Cluster → Cluster) : (s.modCluster c f).hostOut = s.hostOut := rfl

/-! ## modDie -/

@[simp] theorem State.modDie_agenda (s : State) (c : Nat) (f : Die → Die) : (s.modDie c f).agenda = s.agenda := rfl
@[simp] theorem State.modDie_cur (s : State) (c : Nat) (f : Die → Die) : (s.modDie c f).cur = s.cur := rfl
@[simp] theorem State.modDie_free (s : State) (c : Nat) (f : Die → Die) : (s.modDie c f).free = s.free := rfl
@[simp] theorem State.modDie_nextId (s : State) (c : Nat) (f : Die → Die) : (s.modDie c f).nextId = s.nextId := rfl
@[simp] theorem State.modDie_tick (s : State) (c : Nat) (f : Die → Die) : (s.modDie c f).tick = s.tick := rfl
@[simp] theorem State.modDie_stage (s : State) (c : Nat) (f : Die → Die) : (s.modDie c f).stage = s.stage := rfl
@[simp] theorem State.modDie_thr (s : State) (c : Nat) (f : Die → Die) : (s.modDie c f).thr = s.thr := rfl
@[simp] theorem State.modDie_route (s : State) (c : Nat) (f : Die → Die) : (s.modDie c f).route = s.route := rfl
@[simp] theorem State.modDie_xlLease (s : State) (c : Nat) (f : Die → Die) : (s.modDie c f).xlLease = s.xlLease := rfl
@[simp] theorem State.modDie_xlHorizon (s : State) (c : Nat) (f : Die → Die) : (s.modDie c f).xlHorizon = s.xlHorizon := rfl
@[simp] theorem State.modDie_flushBusy (s : State) (c : Nat) (f : Die → Die) : (s.modDie c f).flushBusy = s.flushBusy := rfl
@[simp] theorem State.modDie_flushAll (s : State) (c : Nat) (f : Die → Die) : (s.modDie c f).flushAll = s.flushAll := rfl
@[simp] theorem State.modDie_flushPasid (s : State) (c : Nat) (f : Die → Die) : (s.modDie c f).flushPasid = s.flushPasid := rfl
@[simp] theorem State.modDie_flushOps (s : State) (c : Nat) (f : Die → Die) : (s.modDie c f).flushOps = s.flushOps := rfl
@[simp] theorem State.modDie_dev (s : State) (c : Nat) (f : Die → Die) : (s.modDie c f).dev = s.dev := rfl
@[simp] theorem State.modDie_host (s : State) (c : Nat) (f : Die → Die) : (s.modDie c f).host = s.host := rfl
@[simp] theorem State.modDie_scratch (s : State) (c : Nat) (f : Die → Die) : (s.modDie c f).scratch = s.scratch := rfl
@[simp] theorem State.modDie_poisonDev (s : State) (c : Nat) (f : Die → Die) : (s.modDie c f).poisonDev = s.poisonDev := rfl
@[simp] theorem State.modDie_poisonScratch (s : State) (c : Nat) (f : Die → Die) : (s.modDie c f).poisonScratch = s.poisonScratch := rfl
@[simp] theorem State.modDie_hostAbort (s : State) (c : Nat) (f : Die → Die) : (s.modDie c f).hostAbort = s.hostAbort := rfl
@[simp] theorem State.modDie_gated (s : State) (c : Nat) (f : Die → Die) : (s.modDie c f).gated = s.gated := rfl
@[simp] theorem State.modDie_agents (s : State) (c : Nat) (f : Die → Die) : (s.modDie c f).agents = s.agents := rfl
@[simp] theorem State.modDie_homes (s : State) (c : Nat) (f : Die → Die) : (s.modDie c f).homes = s.homes := rfl
@[simp] theorem State.modDie_tags (s : State) (c : Nat) (f : Die → Die) : (s.modDie c f).tags = s.tags := rfl
@[simp] theorem State.modDie_holders (s : State) (c : Nat) (f : Die → Die) : (s.modDie c f).holders = s.holders := rfl
@[simp] theorem State.modDie_cores (s : State) (c : Nat) (f : Die → Die) : (s.modDie c f).cores = s.cores := rfl
@[simp] theorem State.modDie_clusters (s : State) (c : Nat) (f : Die → Die) : (s.modDie c f).clusters = s.clusters := rfl
@[simp] theorem State.modDie_crews (s : State) (c : Nat) (f : Die → Die) : (s.modDie c f).crews = s.crews := rfl
@[simp] theorem State.modDie_gangs (s : State) (c : Nat) (f : Die → Die) : (s.modDie c f).gangs = s.gangs := rfl
@[simp] theorem State.modDie_tagCounter (s : State) (c : Nat) (f : Die → Die) : (s.modDie c f).tagCounter = s.tagCounter := rfl
@[simp] theorem State.modDie_accepts (s : State) (c : Nat) (f : Die → Die) : (s.modDie c f).accepts = s.accepts := rfl
@[simp] theorem State.modDie_mails (s : State) (c : Nat) (f : Die → Die) : (s.modDie c f).mails = s.mails := rfl
@[simp] theorem State.modDie_launches (s : State) (c : Nat) (f : Die → Die) : (s.modDie c f).launches = s.launches := rfl
@[simp] theorem State.modDie_sysId (s : State) (c : Nat) (f : Die → Die) : (s.modDie c f).sysId = s.sysId := rfl
@[simp] theorem State.modDie_ops (s : State) (c : Nat) (f : Die → Die) : (s.modDie c f).ops = s.ops := rfl
@[simp] theorem State.modDie_pages (s : State) (c : Nat) (f : Die → Die) : (s.modDie c f).pages = s.pages := rfl
@[simp] theorem State.modDie_pasids (s : State) (c : Nat) (f : Die → Die) : (s.modDie c f).pasids = s.pasids := rfl
@[simp] theorem State.modDie_prefixUnits (s : State) (c : Nat) (f : Die → Die) : (s.modDie c f).prefixUnits = s.prefixUnits := rfl
@[simp] theorem State.modDie_bxGrants (s : State) (c : Nat) (f : Die → Die) : (s.modDie c f).bxGrants = s.bxGrants := rfl
@[simp] theorem State.modDie_bxExpired (s : State) (c : Nat) (f : Die → Die) : (s.modDie c f).bxExpired = s.bxExpired := rfl
@[simp] theorem State.modDie_bxOrphaned (s : State) (c : Nat) (f : Die → Die) : (s.modDie c f).bxOrphaned = s.bxOrphaned := rfl
@[simp] theorem State.modDie_sends (s : State) (c : Nat) (f : Die → Die) : (s.modDie c f).sends = s.sends := rfl
@[simp] theorem State.modDie_recvs (s : State) (c : Nat) (f : Die → Die) : (s.modDie c f).recvs = s.recvs := rfl
@[simp] theorem State.modDie_msgs (s : State) (c : Nat) (f : Die → Die) : (s.modDie c f).msgs = s.msgs := rfl
@[simp] theorem State.modDie_ports (s : State) (c : Nat) (f : Die → Die) : (s.modDie c f).ports = s.ports := rfl
@[simp] theorem State.modDie_routes (s : State) (c : Nat) (f : Die → Die) : (s.modDie c f).routes = s.routes := rfl
@[simp] theorem State.modDie_linkOut (s : State) (c : Nat) (f : Die → Die) : (s.modDie c f).linkOut = s.linkOut := rfl
@[simp] theorem State.modDie_queues (s : State) (c : Nat) (f : Die → Die) : (s.modDie c f).queues = s.queues := rfl
@[simp] theorem State.modDie_graphs (s : State) (c : Nat) (f : Die → Die) : (s.modDie c f).graphs = s.graphs := rfl
@[simp] theorem State.modDie_pool (s : State) (c : Nat) (f : Die → Die) : (s.modDie c f).pool = s.pool := rfl
@[simp] theorem State.modDie_poolWait (s : State) (c : Nat) (f : Die → Die) : (s.modDie c f).poolWait = s.poolWait := rfl
@[simp] theorem State.modDie_lifetimes (s : State) (c : Nat) (f : Die → Die) : (s.modDie c f).lifetimes = s.lifetimes := rfl
@[simp] theorem State.modDie_vectors (s : State) (c : Nat) (f : Die → Die) : (s.modDie c f).vectors = s.vectors := rfl
@[simp] theorem State.modDie_heads (s : State) (c : Nat) (f : Die → Die) : (s.modDie c f).heads = s.heads := rfl
@[simp] theorem State.modDie_epoch (s : State) (c : Nat) (f : Die → Die) : (s.modDie c f).epoch = s.epoch := rfl
@[simp] theorem State.modDie_primary (s : State) (c : Nat) (f : Die → Die) : (s.modDie c f).primary = s.primary := rfl
@[simp] theorem State.modDie_failover (s : State) (c : Nat) (f : Die → Die) : (s.modDie c f).failover = s.failover := rfl
@[simp] theorem State.modDie_held (s : State) (c : Nat) (f : Die → Die) : (s.modDie c f).held = s.held := rfl
@[simp] theorem State.modDie_svcLog (s : State) (c : Nat) (f : Die → Die) : (s.modDie c f).svcLog = s.svcLog := rfl
@[simp] theorem State.modDie_asking (s : State) (c : Nat) (f : Die → Die) : (s.modDie c f).asking = s.asking := rfl
@[simp] theorem State.modDie_raceReport (s : State) (c : Nat) (f : Die → Die) : (s.modDie c f).raceReport = s.raceReport := rfl
@[simp] theorem State.modDie_tdis (s : State) (c : Nat) (f : Die → Die) : (s.modDie c f).tdis = s.tdis := rfl
@[simp] theorem State.modDie_sessions (s : State) (c : Nat) (f : Die → Die) : (s.modDie c f).sessions = s.sessions := rfl
@[simp] theorem State.modDie_streams (s : State) (c : Nat) (f : Die → Die) : (s.modDie c f).streams = s.streams := rfl
@[simp] theorem State.modDie_ideKeys (s : State) (c : Nat) (f : Die → Die) : (s.modDie c f).ideKeys = s.ideKeys := rfl
@[simp] theorem State.modDie_staged (s : State) (c : Nat) (f : Die → Die) : (s.modDie c f).staged = s.staged := rfl
@[simp] theorem State.modDie_images (s : State) (c : Nat) (f : Die → Die) : (s.modDie c f).images = s.images := rfl
@[simp] theorem State.modDie_failedCores (s : State) (c : Nat) (f : Die → Die) : (s.modDie c f).failedCores = s.failedCores := rfl
@[simp] theorem State.modDie_millivolts (s : State) (c : Nat) (f : Die → Die) : (s.modDie c f).millivolts = s.millivolts := rfl
@[simp] theorem State.modDie_throttled (s : State) (c : Nat) (f : Die → Die) : (s.modDie c f).throttled = s.throttled := rfl
@[simp] theorem State.modDie_tripped (s : State) (c : Nat) (f : Die → Die) : (s.modDie c f).tripped = s.tripped := rfl
@[simp] theorem State.modDie_scrubs (s : State) (c : Nat) (f : Die → Die) : (s.modDie c f).scrubs = s.scrubs := rfl
@[simp] theorem State.modDie_hostDown (s : State) (c : Nat) (f : Die → Die) : (s.modDie c f).hostDown = s.hostDown := rfl
@[simp] theorem State.modDie_hostOut (s : State) (c : Nat) (f : Die → Die) : (s.modDie c f).hostOut = s.hostOut := rfl

/-! ## bump -/

@[simp] theorem State.bump_agenda (s : State) : (s.bump).agenda = s.agenda := rfl
@[simp] theorem State.bump_cur (s : State) : (s.bump).cur = s.cur := rfl
@[simp] theorem State.bump_nextId (s : State) : (s.bump).nextId = s.nextId := rfl
@[simp] theorem State.bump_tick (s : State) : (s.bump).tick = s.tick := rfl
@[simp] theorem State.bump_stage (s : State) : (s.bump).stage = s.stage := rfl
@[simp] theorem State.bump_thr (s : State) : (s.bump).thr = s.thr := rfl
@[simp] theorem State.bump_route (s : State) : (s.bump).route = s.route := rfl
@[simp] theorem State.bump_xlLease (s : State) : (s.bump).xlLease = s.xlLease := rfl
@[simp] theorem State.bump_xlHorizon (s : State) : (s.bump).xlHorizon = s.xlHorizon := rfl
@[simp] theorem State.bump_flushBusy (s : State) : (s.bump).flushBusy = s.flushBusy := rfl
@[simp] theorem State.bump_flushAll (s : State) : (s.bump).flushAll = s.flushAll := rfl
@[simp] theorem State.bump_flushPasid (s : State) : (s.bump).flushPasid = s.flushPasid := rfl
@[simp] theorem State.bump_flushOps (s : State) : (s.bump).flushOps = s.flushOps := rfl
@[simp] theorem State.bump_dev (s : State) : (s.bump).dev = s.dev := rfl
@[simp] theorem State.bump_host (s : State) : (s.bump).host = s.host := rfl
@[simp] theorem State.bump_scratch (s : State) : (s.bump).scratch = s.scratch := rfl
@[simp] theorem State.bump_poisonDev (s : State) : (s.bump).poisonDev = s.poisonDev := rfl
@[simp] theorem State.bump_poisonScratch (s : State) : (s.bump).poisonScratch = s.poisonScratch := rfl
@[simp] theorem State.bump_hostAbort (s : State) : (s.bump).hostAbort = s.hostAbort := rfl
@[simp] theorem State.bump_gated (s : State) : (s.bump).gated = s.gated := rfl
@[simp] theorem State.bump_agents (s : State) : (s.bump).agents = s.agents := rfl
@[simp] theorem State.bump_homes (s : State) : (s.bump).homes = s.homes := rfl
@[simp] theorem State.bump_tags (s : State) : (s.bump).tags = s.tags := rfl
@[simp] theorem State.bump_holders (s : State) : (s.bump).holders = s.holders := rfl
@[simp] theorem State.bump_cores (s : State) : (s.bump).cores = s.cores := rfl
@[simp] theorem State.bump_dies (s : State) : (s.bump).dies = s.dies := rfl
@[simp] theorem State.bump_clusters (s : State) : (s.bump).clusters = s.clusters := rfl
@[simp] theorem State.bump_crews (s : State) : (s.bump).crews = s.crews := rfl
@[simp] theorem State.bump_gangs (s : State) : (s.bump).gangs = s.gangs := rfl
@[simp] theorem State.bump_tagCounter (s : State) : (s.bump).tagCounter = s.tagCounter := rfl
@[simp] theorem State.bump_accepts (s : State) : (s.bump).accepts = s.accepts := rfl
@[simp] theorem State.bump_mails (s : State) : (s.bump).mails = s.mails := rfl
@[simp] theorem State.bump_launches (s : State) : (s.bump).launches = s.launches := rfl
@[simp] theorem State.bump_sysId (s : State) : (s.bump).sysId = s.sysId := rfl
@[simp] theorem State.bump_ops (s : State) : (s.bump).ops = s.ops := rfl
@[simp] theorem State.bump_pages (s : State) : (s.bump).pages = s.pages := rfl
@[simp] theorem State.bump_pasids (s : State) : (s.bump).pasids = s.pasids := rfl
@[simp] theorem State.bump_prefixUnits (s : State) : (s.bump).prefixUnits = s.prefixUnits := rfl
@[simp] theorem State.bump_bxGrants (s : State) : (s.bump).bxGrants = s.bxGrants := rfl
@[simp] theorem State.bump_bxExpired (s : State) : (s.bump).bxExpired = s.bxExpired := rfl
@[simp] theorem State.bump_bxOrphaned (s : State) : (s.bump).bxOrphaned = s.bxOrphaned := rfl
@[simp] theorem State.bump_sends (s : State) : (s.bump).sends = s.sends := rfl
@[simp] theorem State.bump_recvs (s : State) : (s.bump).recvs = s.recvs := rfl
@[simp] theorem State.bump_msgs (s : State) : (s.bump).msgs = s.msgs := rfl
@[simp] theorem State.bump_ports (s : State) : (s.bump).ports = s.ports := rfl
@[simp] theorem State.bump_routes (s : State) : (s.bump).routes = s.routes := rfl
@[simp] theorem State.bump_linkOut (s : State) : (s.bump).linkOut = s.linkOut := rfl
@[simp] theorem State.bump_queues (s : State) : (s.bump).queues = s.queues := rfl
@[simp] theorem State.bump_graphs (s : State) : (s.bump).graphs = s.graphs := rfl
@[simp] theorem State.bump_pool (s : State) : (s.bump).pool = s.pool := rfl
@[simp] theorem State.bump_poolWait (s : State) : (s.bump).poolWait = s.poolWait := rfl
@[simp] theorem State.bump_lifetimes (s : State) : (s.bump).lifetimes = s.lifetimes := rfl
@[simp] theorem State.bump_vectors (s : State) : (s.bump).vectors = s.vectors := rfl
@[simp] theorem State.bump_heads (s : State) : (s.bump).heads = s.heads := rfl
@[simp] theorem State.bump_epoch (s : State) : (s.bump).epoch = s.epoch := rfl
@[simp] theorem State.bump_primary (s : State) : (s.bump).primary = s.primary := rfl
@[simp] theorem State.bump_failover (s : State) : (s.bump).failover = s.failover := rfl
@[simp] theorem State.bump_held (s : State) : (s.bump).held = s.held := rfl
@[simp] theorem State.bump_svcLog (s : State) : (s.bump).svcLog = s.svcLog := rfl
@[simp] theorem State.bump_asking (s : State) : (s.bump).asking = s.asking := rfl
@[simp] theorem State.bump_raceReport (s : State) : (s.bump).raceReport = s.raceReport := rfl
@[simp] theorem State.bump_tdis (s : State) : (s.bump).tdis = s.tdis := rfl
@[simp] theorem State.bump_sessions (s : State) : (s.bump).sessions = s.sessions := rfl
@[simp] theorem State.bump_streams (s : State) : (s.bump).streams = s.streams := rfl
@[simp] theorem State.bump_ideKeys (s : State) : (s.bump).ideKeys = s.ideKeys := rfl
@[simp] theorem State.bump_staged (s : State) : (s.bump).staged = s.staged := rfl
@[simp] theorem State.bump_images (s : State) : (s.bump).images = s.images := rfl
@[simp] theorem State.bump_failedCores (s : State) : (s.bump).failedCores = s.failedCores := rfl
@[simp] theorem State.bump_millivolts (s : State) : (s.bump).millivolts = s.millivolts := rfl
@[simp] theorem State.bump_throttled (s : State) : (s.bump).throttled = s.throttled := rfl
@[simp] theorem State.bump_tripped (s : State) : (s.bump).tripped = s.tripped := rfl
@[simp] theorem State.bump_scrubs (s : State) : (s.bump).scrubs = s.scrubs := rfl
@[simp] theorem State.bump_hostDown (s : State) : (s.bump).hostDown = s.hostDown := rfl
@[simp] theorem State.bump_hostOut (s : State) : (s.bump).hostOut = s.hostOut := rfl

/-! ## fresh -/

@[simp] theorem State.fresh_agenda (s : State) : s.fresh.2.agenda = s.agenda := rfl
@[simp] theorem State.fresh_cur (s : State) : s.fresh.2.cur = s.cur := rfl
@[simp] theorem State.fresh_free (s : State) : s.fresh.2.free = s.free := rfl
@[simp] theorem State.fresh_tick (s : State) : s.fresh.2.tick = s.tick := rfl
@[simp] theorem State.fresh_stage (s : State) : s.fresh.2.stage = s.stage := rfl
@[simp] theorem State.fresh_thr (s : State) : s.fresh.2.thr = s.thr := rfl
@[simp] theorem State.fresh_route (s : State) : s.fresh.2.route = s.route := rfl
@[simp] theorem State.fresh_xlLease (s : State) : s.fresh.2.xlLease = s.xlLease := rfl
@[simp] theorem State.fresh_xlHorizon (s : State) : s.fresh.2.xlHorizon = s.xlHorizon := rfl
@[simp] theorem State.fresh_flushBusy (s : State) : s.fresh.2.flushBusy = s.flushBusy := rfl
@[simp] theorem State.fresh_flushAll (s : State) : s.fresh.2.flushAll = s.flushAll := rfl
@[simp] theorem State.fresh_flushPasid (s : State) : s.fresh.2.flushPasid = s.flushPasid := rfl
@[simp] theorem State.fresh_flushOps (s : State) : s.fresh.2.flushOps = s.flushOps := rfl
@[simp] theorem State.fresh_dev (s : State) : s.fresh.2.dev = s.dev := rfl
@[simp] theorem State.fresh_host (s : State) : s.fresh.2.host = s.host := rfl
@[simp] theorem State.fresh_scratch (s : State) : s.fresh.2.scratch = s.scratch := rfl
@[simp] theorem State.fresh_poisonDev (s : State) : s.fresh.2.poisonDev = s.poisonDev := rfl
@[simp] theorem State.fresh_poisonScratch (s : State) : s.fresh.2.poisonScratch = s.poisonScratch := rfl
@[simp] theorem State.fresh_hostAbort (s : State) : s.fresh.2.hostAbort = s.hostAbort := rfl
@[simp] theorem State.fresh_gated (s : State) : s.fresh.2.gated = s.gated := rfl
@[simp] theorem State.fresh_agents (s : State) : s.fresh.2.agents = s.agents := rfl
@[simp] theorem State.fresh_homes (s : State) : s.fresh.2.homes = s.homes := rfl
@[simp] theorem State.fresh_tags (s : State) : s.fresh.2.tags = s.tags := rfl
@[simp] theorem State.fresh_holders (s : State) : s.fresh.2.holders = s.holders := rfl
@[simp] theorem State.fresh_cores (s : State) : s.fresh.2.cores = s.cores := rfl
@[simp] theorem State.fresh_dies (s : State) : s.fresh.2.dies = s.dies := rfl
@[simp] theorem State.fresh_clusters (s : State) : s.fresh.2.clusters = s.clusters := rfl
@[simp] theorem State.fresh_crews (s : State) : s.fresh.2.crews = s.crews := rfl
@[simp] theorem State.fresh_gangs (s : State) : s.fresh.2.gangs = s.gangs := rfl
@[simp] theorem State.fresh_tagCounter (s : State) : s.fresh.2.tagCounter = s.tagCounter := rfl
@[simp] theorem State.fresh_accepts (s : State) : s.fresh.2.accepts = s.accepts := rfl
@[simp] theorem State.fresh_mails (s : State) : s.fresh.2.mails = s.mails := rfl
@[simp] theorem State.fresh_launches (s : State) : s.fresh.2.launches = s.launches := rfl
@[simp] theorem State.fresh_sysId (s : State) : s.fresh.2.sysId = s.sysId := rfl
@[simp] theorem State.fresh_ops (s : State) : s.fresh.2.ops = s.ops := rfl
@[simp] theorem State.fresh_pages (s : State) : s.fresh.2.pages = s.pages := rfl
@[simp] theorem State.fresh_pasids (s : State) : s.fresh.2.pasids = s.pasids := rfl
@[simp] theorem State.fresh_prefixUnits (s : State) : s.fresh.2.prefixUnits = s.prefixUnits := rfl
@[simp] theorem State.fresh_bxGrants (s : State) : s.fresh.2.bxGrants = s.bxGrants := rfl
@[simp] theorem State.fresh_bxExpired (s : State) : s.fresh.2.bxExpired = s.bxExpired := rfl
@[simp] theorem State.fresh_bxOrphaned (s : State) : s.fresh.2.bxOrphaned = s.bxOrphaned := rfl
@[simp] theorem State.fresh_sends (s : State) : s.fresh.2.sends = s.sends := rfl
@[simp] theorem State.fresh_recvs (s : State) : s.fresh.2.recvs = s.recvs := rfl
@[simp] theorem State.fresh_msgs (s : State) : s.fresh.2.msgs = s.msgs := rfl
@[simp] theorem State.fresh_ports (s : State) : s.fresh.2.ports = s.ports := rfl
@[simp] theorem State.fresh_routes (s : State) : s.fresh.2.routes = s.routes := rfl
@[simp] theorem State.fresh_linkOut (s : State) : s.fresh.2.linkOut = s.linkOut := rfl
@[simp] theorem State.fresh_queues (s : State) : s.fresh.2.queues = s.queues := rfl
@[simp] theorem State.fresh_graphs (s : State) : s.fresh.2.graphs = s.graphs := rfl
@[simp] theorem State.fresh_pool (s : State) : s.fresh.2.pool = s.pool := rfl
@[simp] theorem State.fresh_poolWait (s : State) : s.fresh.2.poolWait = s.poolWait := rfl
@[simp] theorem State.fresh_lifetimes (s : State) : s.fresh.2.lifetimes = s.lifetimes := rfl
@[simp] theorem State.fresh_vectors (s : State) : s.fresh.2.vectors = s.vectors := rfl
@[simp] theorem State.fresh_heads (s : State) : s.fresh.2.heads = s.heads := rfl
@[simp] theorem State.fresh_epoch (s : State) : s.fresh.2.epoch = s.epoch := rfl
@[simp] theorem State.fresh_primary (s : State) : s.fresh.2.primary = s.primary := rfl
@[simp] theorem State.fresh_failover (s : State) : s.fresh.2.failover = s.failover := rfl
@[simp] theorem State.fresh_held (s : State) : s.fresh.2.held = s.held := rfl
@[simp] theorem State.fresh_svcLog (s : State) : s.fresh.2.svcLog = s.svcLog := rfl
@[simp] theorem State.fresh_asking (s : State) : s.fresh.2.asking = s.asking := rfl
@[simp] theorem State.fresh_raceReport (s : State) : s.fresh.2.raceReport = s.raceReport := rfl
@[simp] theorem State.fresh_tdis (s : State) : s.fresh.2.tdis = s.tdis := rfl
@[simp] theorem State.fresh_sessions (s : State) : s.fresh.2.sessions = s.sessions := rfl
@[simp] theorem State.fresh_streams (s : State) : s.fresh.2.streams = s.streams := rfl
@[simp] theorem State.fresh_ideKeys (s : State) : s.fresh.2.ideKeys = s.ideKeys := rfl
@[simp] theorem State.fresh_staged (s : State) : s.fresh.2.staged = s.staged := rfl
@[simp] theorem State.fresh_images (s : State) : s.fresh.2.images = s.images := rfl
@[simp] theorem State.fresh_failedCores (s : State) : s.fresh.2.failedCores = s.failedCores := rfl
@[simp] theorem State.fresh_millivolts (s : State) : s.fresh.2.millivolts = s.millivolts := rfl
@[simp] theorem State.fresh_throttled (s : State) : s.fresh.2.throttled = s.throttled := rfl
@[simp] theorem State.fresh_tripped (s : State) : s.fresh.2.tripped = s.tripped := rfl
@[simp] theorem State.fresh_scrubs (s : State) : s.fresh.2.scrubs = s.scrubs := rfl
@[simp] theorem State.fresh_hostDown (s : State) : s.fresh.2.hostDown = s.hostDown := rfl
@[simp] theorem State.fresh_hostOut (s : State) : s.fresh.2.hostOut = s.hostOut := rfl
@[simp] theorem State.fresh_fst (s : State) : s.fresh.1 = s.nextId := rfl
@[simp] theorem State.fresh_nextId (s : State) : s.fresh.2.nextId = s.nextId + 1 := rfl

/-! ## Parts -/

@[simp] theorem State.modCrew_crews (s : State) (c : Nat) (f : Crew → Crew) : (s.modCrew c f).crews = kmod s.crews c f := rfl

@[simp] theorem State.modCore_cores (s : State) (c : Nat) (f : Core → Core) :
    (s.modCore c f).cores = kset s.cores c (f (s.core c)) := rfl

@[simp] theorem State.modFibre_crews (s : State) (c n : Nat) (f : Fibre → Fibre) :
    (s.modFibre c n f).crews = kmod s.crews c fun x => x.modFibre n f := rfl

@[simp] theorem State.modCore_core (s : State) (c : Nat) (f : Core → Core) : (s.modCore c f).core c = f (s.core c) := by
  simp [State.core, kgetD]

theorem State.modCore_core_ne (s : State) {c d : Nat} (f : Core → Core) (h : d ≠ c) : (s.modCore c f).core d = s.core d := by
  simp [State.core, kgetD, h]

/-- A crew after a change of one that exists. -/
theorem State.modCrew_crew (s : State) {c : Nat} (f : Crew → Crew) {x : Crew} (h : kget s.crews c = some x) :
    (s.modCrew c f).crew c = f x := by
  simp [State.crew, kgetD, h]

theorem State.modCrew_crew_ne (s : State) {c d : Nat} (f : Crew → Crew) (h : d ≠ c) : (s.modCrew c f).crew d = s.crew d := by
  simp [State.crew, kgetD, h]

theorem State.crew_of_kget {s : State} {c : Nat} {x : Crew} (h : kget s.crews c = some x) : s.crew c = x := by
  simp [State.crew, kgetD, h]

/-- A fibre after a change of one that exists. -/
theorem Crew.modFibre_fibre (c : Crew) {n : Nat} (f : Fibre → Fibre) {x : Fibre} (h : kget c.fibres n = some x) :
    (c.modFibre n f).fibre n = f x := by
  simp [Crew.fibre, Crew.modFibre, kgetD, h]

theorem Crew.modFibre_fibre_ne (c : Crew) {n m : Nat} (f : Fibre → Fibre) (h : m ≠ n) : (c.modFibre n f).fibre m = c.fibre m := by
  simp [Crew.fibre, Crew.modFibre, kgetD, h]

theorem Crew.fibre_of_kget {c : Crew} {n : Nat} {x : Fibre} (h : kget c.fibres n = some x) : c.fibre n = x := by
  simp [Crew.fibre, kgetD, h]

end Sys2Proof.Machine
end

