-- ==== Sys2Proof/Laws/Lane.lean ====
section
/-! SUPPORT. What the shared operations of words do when no effect arises: the change of one crew, the end of a word, the results of
lanes, and a lane word as a whole. -/

namespace Sys2Proof.Machine

open Sys2Proof.Terms

/-! ## The change of one crew -/

/-- From s to t only the crew numbered c has changed, and it is x now. -/
def CrewStep (s t : State) (c : Nat) (x : Crew) : Prop :=
  t = { s with crews := t.crews } ∧ (∀ k, k ≠ c → kget t.crews k = kget s.crews k) ∧ kget t.crews c = some x

theorem CrewStep.refl {s : State} {c : Nat} {x : Crew} (h : kget s.crews c = some x) : CrewStep s s c x := ⟨rfl, fun _ _ => rfl, h⟩

theorem CrewStep.modCrew {s : State} {c : Nat} {x : Crew} (h : kget s.crews c = some x) (f : Crew → Crew) :
    CrewStep s (s.modCrew c f) c (f x) :=
  ⟨rfl, fun k hk => by simp [hk], by simp [h]⟩

theorem CrewStep.trans {s t u : State} {c : Nat} {x y : Crew} (h : CrewStep s t c x) (g : CrewStep t u c y) : CrewStep s u c y := by
  obtain ⟨h1, h2, _⟩ := h
  obtain ⟨g1, g2, g3⟩ := g
  refine ⟨?_, fun k hk => by rw [g2 k hk, h2 k hk], g3⟩
  rw [g1, h1]

theorem CrewStep.modFibre {s : State} {c : Nat} {x : Crew} (h : kget s.crews c = some x) (n : Nat) (f : Fibre → Fibre) :
    CrewStep s (s.modFibre c n f) c (x.modFibre n f) := CrewStep.modCrew h _

/-! ## The end of a word -/

/-- Every fibre of a list stands at an address; nothing else has changed. -/
theorem State.setPcs_step {s : State} {c : Nat} {x : Crew} (h : kget s.crews c = some x) (fids : List Nat) (pc : Nat) :
    ∃ y, CrewStep s (s.setPcs c fids pc) c y ∧ y = { x with fibres := y.fibres } ∧
      ∀ f, kget y.fibres f = if f ∈ fids then (kget x.fibres f).map (standsAt pc) else kget x.fibres f := by
  induction fids generalizing s x with
  | nil => exact ⟨x, CrewStep.refl h, rfl, fun f => by simp⟩
  | cons n fids ih =>
    have h1 := CrewStep.modFibre h n fun f => { f with pc := pc }
    obtain ⟨y, hy, he, hf⟩ := ih h1.2.2
    refine ⟨y, h1.trans hy, ?_, fun f => ?_⟩
    · rw [he]; rfl
    · rw [hf f]
      simp only [Crew.modFibre, List.mem_cons]
      by_cases hfn : f = n
      · subst hfn
        rw [kget_kmod_self]
        by_cases hm : f ∈ fids <;> simp only [hm, if_true, if_false, true_or, or_false, Option.map_map] <;> rfl
      · simp [hfn]

/-- The end of a word that raises no effect and is no switch point (R31): every fibre of the group stands at the next word, and the
group with its latches too. -/
theorem State.endWord_step {s : State} {i : Issue} {x : Crew} (h : kget s.crews i.crew = some x) (latches : List Latch) :
    ∃ y, CrewStep s (s.endWord i latches false []) i.crew y ∧ y = { x with fibres := y.fibres, groups := y.groups } ∧
      (∀ f, kget y.fibres f =
        if f ∈ i.grp.fids then (kget x.fibres f).map (standsAt (i.pc + 4)) else kget x.fibres f) ∧
      (∀ g, some g ≠ i.gid → kget y.groups g = kget x.groups g) ∧
      ∀ g, i.gid = some g → kget y.groups g = (kget x.groups g).map (groupAt i latches) := by
  obtain ⟨y, hy, he, hf⟩ := State.setPcs_step h i.grp.fids (i.pc + 4)
  cases hg : i.gid with
  | none =>
    refine ⟨y, ?_, by rw [he], hf, fun g _ => by rw [he], fun g hc => by simp at hc⟩
    simpa [State.endWord, hg] using hy
  | some g =>
    refine ⟨{ y with groups := kmod y.groups g (groupAt i latches) }, ?_, ?_, hf, fun k hk => ?_, fun k hk => ?_⟩
    · simp only [State.endWord, hg]
      exact hy.trans (CrewStep.modCrew hy.2.2 _)
    · rw [he]
    · have : k ≠ g := fun e => hk (by rw [e])
      show kget (kmod y.groups g _) k = _
      rw [kget_kmod_ne _ _ this, he]
    · obtain rfl : g = k := by simpa using hk
      show kget (kmod y.groups g _) g = _
      rw [kget_kmod_self, he]

/-! ## The results of lanes -/

/-- The fibres that a list without repeats replaces. -/
theorem Crew.putFibres_get {α : Type} (c : Crew) (l : List (Nat × Fibre × α)) (hn : (l.map Prod.fst).Nodup) :
    (∀ r ∈ l, kget (c.putFibres l).fibres r.1 = some r.2.1) ∧
      ∀ f, f ∉ l.map Prod.fst → kget (c.putFibres l).fibres f = kget c.fibres f := by
  refine ⟨fun r hr => ?_, fun f hf => ?_⟩
  · exact kget_foldl_kset_mem (fun x : Nat × Fibre × α => (x.1, x.2.1)) l c.fibres hn hr
  · refine kget_foldl_kset_ne (fun x : Nat × Fibre × α => (x.1, x.2.1)) l c.fibres f fun x hx he => hf ?_
    rw [← he]; exact List.mem_map_of_mem hx

/-- The guard lets a fibre of the group execute. -/
def Env.chosen (e : Env) (g : Guard) (fid : Nat) : Bool := guardHolds g ((e.crew.fibre fid).seeP (e.pick fid 64 0))

/-- Strict mode refuses the guard's read of P. -/
def Env.refused (e : Env) (g : Guard) (fid : Nat) : Bool := guardReadsP g && e.iss.strict && (e.crew.fibre fid).inPWin

/-- The guard divides the group. -/
theorem Env.lanes_eq (e : Env) (g : Guard) (h : e.iss.again = false) :
    e.lanes g = ⟨e.iss.grp.fids.filter fun f => !e.refused g f && e.chosen g f,
      e.iss.grp.fids.filter fun f => !e.refused g f && !e.chosen g f,
      (e.iss.grp.fids.filter fun f => e.refused g f).map fun f => (f, laneEff strictWindow e.iss.pc)⟩ := by
  have key : ∀ (l : List Nat) (a : Lanes), l.foldl (fun (l : Lanes) fid =>
      let f := e.crew.fibre fid
      if guardReadsP g && e.iss.strict && f.inPWin then { l with bad := l.bad ++ [(fid, laneEff strictWindow e.iss.pc)] }
      else if guardHolds g (f.seeP (e.pick fid 64 0)) then { l with sel := l.sel ++ [fid] }
      else { l with out := l.out ++ [fid] }) a =
      ⟨a.sel ++ l.filter fun f => !e.refused g f && e.chosen g f, a.out ++ l.filter fun f => !e.refused g f && !e.chosen g f,
        a.bad ++ (l.filter fun f => e.refused g f).map fun f => (f, laneEff strictWindow e.iss.pc)⟩ := by
    intro l
    induction l with
    | nil => intro a; simp
    | cons n l ih =>
      intro a
      rw [List.foldl_cons, ih]
      cases hr : e.refused g n with
      | true =>
        have : (guardReadsP g && e.iss.strict && (e.crew.fibre n).inPWin) = true := hr
        simp [this, hr]
      | false =>
        have h1 : (guardReadsP g && e.iss.strict && (e.crew.fibre n).inPWin) = false := hr
        cases hc : e.chosen g n with
        | true =>
          have h2 : guardHolds g ((e.crew.fibre n).seeP (e.pick n 64 0)) = true := hc
          simp only [h1, h2]
          simp [hr, hc]
        | false =>
          have h2 : guardHolds g ((e.crew.fibre n).seeP (e.pick n 64 0)) = false := hc
          simp only [h1, h2]
          simp [hr, hc]
  rw [Env.lanes, h]
  simpa using key e.iss.grp.fids ⟨[], [], []⟩

/-- Lanes of a word, once the guard has divided the group: nothing is lost or repeated. -/
theorem Env.lanes_spec (e : Env) (g : Guard) (hn : e.iss.grp.fids.Nodup) (hb : (e.lanes g).bad = []) :
    (e.lanes g).sel.Nodup ∧ (∀ f, f ∈ (e.lanes g).sel → f ∈ e.iss.grp.fids) ∧ (∀ f, f ∈ (e.lanes g).out → f ∈ e.iss.grp.fids) ∧
      (∀ f, f ∈ (e.lanes g).out → f ∉ (e.lanes g).sel) ∧
      ∀ f, f ∈ e.iss.grp.fids → f ∉ (e.lanes g).sel → f ∈ (e.lanes g).out := by
  cases ha : e.iss.again with
  | true =>
    simp only [Env.lanes, ha, if_true]
    exact ⟨hn, fun _ h => h, fun _ h => by simp at h, fun _ h => by simp at h, fun f h h' => absurd h h'⟩
  | false =>
    rw [Env.lanes_eq e g ha] at hb ⊢
    have hr : ∀ f ∈ e.iss.grp.fids, e.refused g f = false := by
      intro f hf
      by_contra hc
      have : f ∈ e.iss.grp.fids.filter fun f => e.refused g f := List.mem_filter.mpr ⟨hf, by simpa using hc⟩
      rw [List.map_eq_nil_iff] at hb
      rw [hb] at this
      simp at this
    refine ⟨hn.filter _, fun f hf => (List.mem_filter.mp hf).1, fun f hf => (List.mem_filter.mp hf).1, fun f hf hc => ?_,
      fun f hf hc => ?_⟩
    · have h1 := (List.mem_filter.mp hf).2
      have h2 := (List.mem_filter.mp hc).2
      cases h : e.chosen g f <;> simp_all
    · refine List.mem_filter.mpr ⟨hf, ?_⟩
      cases h : e.chosen g f with
      | true => exact absurd (List.mem_filter.mpr ⟨hf, by simp [hr f hf, h]⟩) hc
      | false => simp [hr f hf]

/-! ## FSTAT and V -/

/-- FSTAT after an update when none is pending (R63, R107). -/
theorem Fibre.updFstat_now (f : Fibre) (lat : Nat) (x : Word) (w : Option Word) (h : f.fpend = []) :
    (f.updFstat lat x w).fstatNow = w.getD f.fstatNow ||| x := by
  unfold Fibre.updFstat
  split
  · next hx => simp [hx.1, hx.2]
  · simp [h, settleFstat, insertUpd, Fibre.fstatNow, FUpd.apply]

theorem Fibre.updFstat_frame (f : Fibre) (lat : Nat) (x : Word) (w : Option Word) :
    f.updFstat lat x w = { f with fstat := (f.updFstat lat x w).fstat, fpend := (f.updFstat lat x w).fpend } := by
  unfold Fibre.updFstat
  split <;> rfl

/-- FSTAT as a word sees it when no update is pending. -/
theorem Fibre.fstatSeen_settled (f : Fibre) (pick : Nat → Nat) (h : f.fpend = []) : f.fstatSeen pick = f.fstat := by
  simp [Fibre.fstatSeen, h]

theorem Fibre.fstatNow_settled (f : Fibre) (h : f.fpend = []) : f.fstatNow = f.fstat := by simp [Fibre.fstatNow, h]

theorem Fibre.putV_frame (f : Fibre) (lat n : Nat) (v : Word) (p : Nat) :
    f.putV lat n v p = { f with v := (f.putV lat n v p).v, wrote := (f.putV lat n v p).wrote, vwin := (f.putV lat n v p).vwin } := rfl

/-- A value written over another outside every window is what stands there. -/
theorem overWin_shut {α : Type} (val : α) (l : List (LatWrite α)) (pos pick : Nat) (h : ∀ w ∈ l, w.openAt pos = false) :
    overWin val l pos pick = val := by
  have : (l.filter fun w => w.openAt pos) = [] := by simpa using h
  simp [overWin, this, pickOf]

/-- A result outside every window is what the register holds. -/
theorem Fibre.putV_self (f : Fibre) (lat n : Nat) (v : Word) (p : Nat) (h : noWindow f n) : (f.putV lat n v p).getV n = v := by
  simp only [Fibre.putV, Fibre.getV, kgetD, kget_kset_self, Option.getD_some]
  exact overWin_shut _ _ _ _ h

theorem Fibre.putV_ne (f : Fibre) (lat n : Nat) (v : Word) (p m : Nat) (h : m ≠ n) : (f.putV lat n v p).getV m = f.getV m := by
  simp [Fibre.putV, Fibre.getV, kgetD, h]

theorem Fibre.putV_vwin_ne (f : Fibre) (lat n : Nat) (v : Word) (p m : Nat) (h : m ≠ n) :
    kget (f.putV lat n v p).vwin m = kget f.vwin m := by
  simp [Fibre.putV, h]

/-! ## Words with a result on every lane -/

/-- A word that consumes its context completes with the state that its body makes. -/
theorem withIssue_next {s : State} {i : Issue} (h : s.cur = some i) (k : Issue → State → State) :
    withIssue s k = .next (k i (taken s)) := by
  simp [withIssue, h, taken]

/-- A word that gives each lane of its group a new fibre and ends without an effect. -/
theorem groupStep_of {w : Instr} {s : State} {i : Issue} {c : Crew} (hI : Issues s i c) (latches : List Latch)
    (rs : List (Nat × Fibre × α)) (hn : (rs.map Prod.fst).Nodup)
    (hx : exec w s = .next (((taken s).modCrew i.crew fun c => c.putFibres rs).endWord i latches false []))
    (hm : ∀ r ∈ rs, r.1 ∈ i.grp.fids) (after : Nat → Fibre → Prop)
    (h1 : ∀ r ∈ rs, after r.1 (passed i r.2.1))
    (h2 : ∀ f ∈ i.grp.fids, f ∉ rs.map Prod.fst → after f (passed i (c.fibre f))) : GroupStep w s i c latches after := by
  obtain ⟨_, hc, _, hex⟩ := hI
  have hc' : kget (taken s).crews i.crew = some c := hc
  have st := CrewStep.modCrew hc' fun c => c.putFibres rs
  obtain ⟨y, hy, he, hf, hg, hg'⟩ := State.endWord_step st.2.2 latches
  have tot := st.trans hy
  obtain ⟨p1, p2⟩ := c.putFibres_get rs hn
  refine ⟨_, y, hx, ⟨tot.1, fun k hk => tot.2.1 k hk⟩, tot.2.2, ⟨he, fun f hnf => ?_, hg, hg'⟩, fun f hfm => ?_⟩
  · rw [hf f, if_neg hnf]
    refine p2 f fun hcon => hnf ?_
    obtain ⟨r, hr, rfl⟩ := List.mem_map.mp hcon
    exact hm r hr
  · rw [hf f, if_pos hfm]
    by_cases hin : f ∈ rs.map Prod.fst
    · obtain ⟨r, hr, rfl⟩ := List.mem_map.mp hin
      exact ⟨_, by rw [p1 r hr]; rfl, h1 r hr⟩
    · obtain ⟨a, ha⟩ := Option.isSome_iff_exists.mp (hex f hfm)
      refine ⟨_, by rw [p2 f hin, ha]; rfl, ?_⟩
      have := h2 f hfm hin
      rwa [Crew.fibre_of_kget ha] at this

/-! ## Lane words -/

/-- The destination registers of a result, written. -/
def LaneOp.written (o : LaneOp) (e : Env) (fid : Nat) (r : LaneOut) (f : Fibre) : Fibre :=
  if o.nw then f
  else match r.hi with
    | some h => (f.putV o.lat o.d r.lo (e.pick fid o.d 3)).putV o.lat (o.d + 1) h (e.pick fid (o.d + 1) 3)
    | none => f.putV o.lat o.d r.lo (e.pick fid o.d 3)

/-- FSTAT and the tick sample of a result. -/
def LaneOp.noted (o : LaneOp) (r : LaneOut) (f : Fibre) : Fibre :=
  { f.updFstat o.lat r.exc r.swap with tickhi := r.tick.getD f.tickhi }

/-- The conditions under which a lane's result has no effect: no enabled exception, and strict mode allows the destination. -/
def LaneOp.quiet (o : LaneOp) (strict : Bool) (r : LaneOut) (f : Fibre) : Prop :=
  f.fpend = [] ∧ trapSet r.exc f.fstat = 0 ∧
    (o.nw = false → f.strictV strict o.d = none ∧ (r.hi.isSome = true → f.strictV strict (o.d + 1) = none))

/-- One lane of a lane word whose result has no effect: the fibre after it, and its latch value. -/
theorem LaneOp.lane_ok (o : LaneOp) (e : Env) (fid : Nat) (pops : List Word) {r : LaneOut}
    (hr : o.result e (e.crew.fibre fid) fid pops = .ok r) (hq : o.quiet e.iss.strict r (e.crew.fibre fid)) :
    o.lane e fid pops = (o.written e fid r (o.noted r (e.crew.fibre fid)), some r.lo, none) := by
  obtain ⟨hp, ht, hs⟩ := hq
  unfold LaneOp.lane
  simp only [hr, Fibre.fstatSeen_settled _ _ hp, ht, LaneOp.written, LaneOp.noted]
  cases hnw : o.nw with
  | true => cases r.hi <;> simp
  | false =>
    obtain ⟨h1, h2⟩ := hs hnw
    cases hh : r.hi with
    | none => simp [h1]
    | some h =>
      have h2 := h2 (by rw [hh]; rfl)
      simp [h1, h2, List.range_succ]

/-- What a fibre holds after a result. -/
theorem LaneOp.written_wrote (o : LaneOp) (e : Env) (i : Issue) (fid : Nat) (r : LaneOut) (f : Fibre) (h : f.fpend = []) :
    WroteLane i f (passed i (o.written e fid r (o.noted r f))) o.nw o.d r.lo r.hi (r.swap.getD f.fstatNow ||| r.exc)
      (r.tick.getD f.tickhi) := by
  have hn : o.noted r f = { f with fstat := (f.updFstat o.lat r.exc r.swap).fstat, fpend := (f.updFstat o.lat r.exc r.swap).fpend,
                                   tickhi := r.tick.getD f.tickhi } := by
    unfold LaneOp.noted
    rw [Fibre.updFstat_frame]
  have hs : (o.noted r f).fstatNow = r.swap.getD f.fstatNow ||| r.exc := by
    have := Fibre.updFstat_now f o.lat r.exc r.swap h
    rw [← this]
    rfl
  have hv : ∀ n, (o.noted r f).getV n = f.getV n := fun n => by rw [hn]; rfl
  have hw : ∀ n, noWindow f n → noWindow (o.noted r f) n := fun n hx => by rw [hn]; exact hx
  have hframe : ∀ (g : Fibre), g = { o.noted r f with v := g.v, vwin := g.vwin, wrote := g.wrote } →
      passed i g = { f with pc := i.pc + 4, v := g.v, vwin := g.vwin, wrote := g.wrote, fstat := (passed i g).fstat, fpend := (passed i g).fpend,
                            tickhi := r.tick.getD f.tickhi } ∧ (passed i g).fstatNow = (o.noted r f).fstatNow := by
    intro g hg
    constructor
    · simp only [passed, standsAt]
      rw [hg, hn]
    · rw [hg]; rfl
  cases hnw : o.nw with
  | true =>
    have hwr : o.written e fid r (o.noted r f) = o.noted r f := by simp [LaneOp.written, hnw]
    rw [hwr]
    obtain ⟨f1, f2⟩ := hframe (o.noted r f) rfl
    exact ⟨f1, fun n _ => hv n, fun h => by simp at h, fun _ h => by simp at h, by rw [f2, hs]⟩
  | false =>
    cases hh : r.hi with
    | none =>
      have hwr : o.written e fid r (o.noted r f) = (o.noted r f).putV o.lat o.d r.lo (e.pick fid o.d 3) := by
        simp [LaneOp.written, hnw, hh]
      rw [hwr]
      obtain ⟨f1, f2⟩ := hframe _ (Fibre.putV_frame (o.noted r f) o.lat o.d r.lo (e.pick fid o.d 3))
      refine ⟨f1, fun n hne => ?_, fun _ hwin => ?_, fun _ _ hx => by simp at hx, by rw [f2, hs]⟩
      · have hne : n ≠ o.d := by simpa using hne
        exact (Fibre.putV_ne (o.noted r f) o.lat o.d r.lo (e.pick fid o.d 3) n hne).trans (hv n)
      · exact Fibre.putV_self (o.noted r f) o.lat o.d r.lo (e.pick fid o.d 3) (hw _ hwin)
    | some x =>
      have hwr : o.written e fid r (o.noted r f) = ((o.noted r f).putV o.lat o.d r.lo (e.pick fid o.d 3)).putV o.lat (o.d + 1) x
          (e.pick fid (o.d + 1) 3) := by simp [LaneOp.written, hnw, hh]
      rw [hwr]
      let g1 := (o.noted r f).putV o.lat o.d r.lo (e.pick fid o.d 3)
      have hfr1 := Fibre.putV_frame (o.noted r f) o.lat o.d r.lo (e.pick fid o.d 3)
      have hfr2 := Fibre.putV_frame ((o.noted r f).putV o.lat o.d r.lo (e.pick fid o.d 3)) o.lat (o.d + 1) x (e.pick fid (o.d + 1) 3)
      obtain ⟨f1, f2⟩ := hframe (((o.noted r f).putV o.lat o.d r.lo (e.pick fid o.d 3)).putV o.lat (o.d + 1) x (e.pick fid (o.d + 1) 3))
        (by rw [hfr2, hfr1])
      refine ⟨f1, fun n hne => ?_, fun _ hwin => ?_, fun y _ hy hwin => ?_, by rw [f2, hs]⟩
      · have hne : n ≠ o.d ∧ n ≠ o.d + 1 := by simpa using hne
        exact (Fibre.putV_ne g1 o.lat (o.d + 1) x (e.pick fid (o.d + 1) 3) n hne.2).trans
          ((Fibre.putV_ne (o.noted r f) o.lat o.d r.lo (e.pick fid o.d 3) n hne.1).trans (hv n))
      · exact (Fibre.putV_ne g1 o.lat (o.d + 1) x (e.pick fid (o.d + 1) 3) o.d (by omega)).trans
          (Fibre.putV_self (o.noted r f) o.lat o.d r.lo (e.pick fid o.d 3) (hw _ hwin))
      · obtain rfl : x = y := by simpa using hy
        refine Fibre.putV_self g1 o.lat (o.d + 1) x (e.pick fid (o.d + 1) 3) ?_
        have := Fibre.putV_vwin_ne (o.noted r f) o.lat o.d r.lo (e.pick fid o.d 3) (o.d + 1) (by omega)
        have hw1 := hw (o.d + 1) hwin
        unfold noWindow at hw1 ⊢
        rwa [kgetD, this]

/-- A lane word that raises no effect, as a step of its group. -/
theorem laneOp_groupStep {w : Instr} {s : State} {i : Issue} {c : Crew} (o : LaneOp) (hw : exec w s = o.exec s) (hI : Issues s i c)
    (hg : groupCheck (envAt s i) o.srcs o.d o.width = none) (hq : popsOf (o.srcs.map Prod.fst) = [])
    (hb : ((envAt s i).lanes o.g).bad = []) (R : Nat → LaneOut)
    (hr : ∀ f ∈ ((envAt s i).lanes o.g).sel, o.result (envAt s i) (c.fibre f) f [] = .ok (R f) ∧
      o.quiet i.strict (R f) (c.fibre f)) :
    ∃ latches, Shifted i latches ∧ GroupStep w s i c latches fun f f' =>
      if f ∈ ((envAt s i).lanes o.g).sel then
        WroteLane i (c.fibre f) f' o.nw o.d (R f).lo (R f).hi ((R f).swap.getD (c.fibre f).fstatNow ||| (R f).exc)
            ((R f).tick.getD (c.fibre f).tickhi) ∧
          (latches.head?.map fun l => (l.lat, kget l.vals f)) = some (o.lat, some (R f).lo)
      else f' = passed i (c.fibre f) ∧ (latches.head?.map fun l => kget l.vals f) = some (some 0) := by
  have hcur := hI.1
  have hcrew : (envAt s i).crew = c := State.crew_of_kget (s := taken s) hI.2.1
  have hiss : (envAt s i).iss = i := rfl
  obtain ⟨l1, l2, l3, l4, l5⟩ := Env.lanes_spec (envAt s i) o.g hI.2.2.1 hb
  rw [hiss] at l2 l3 l5
  generalize hl : (envAt s i).lanes o.g = l at *
  have hlane : ∀ f ∈ l.sel, o.lane (envAt s i) f [] = (o.written (envAt s i) f (R f) (o.noted (R f) (c.fibre f)), some (R f).lo, none) := by
    intro f hf
    obtain ⟨h1, h2⟩ := hr f hf
    rw [← hcrew] at h1 h2 ⊢
    exact o.lane_ok (envAt s i) f [] h1 h2
  let rs : List (Nat × Fibre × Option Word × Option Eff) := l.sel.map fun f => (f, o.lane (envAt s i) f [])
  let vals : KMap Word := (l.out.map fun f => (f, (0 : Word))) ++ rs.filterMap fun r => r.2.2.1.map fun v => (r.1, v)
  have hrs1 : rs.map Prod.fst = l.sel := by simp [rs, Function.comp_def]
  have hbad : (rs.filterMap fun r => r.2.2.2.map fun x => (r.1, x)) = [] := by
    rw [List.filterMap_eq_nil_iff]
    intro r hr'
    obtain ⟨f, hf, rfl⟩ := List.mem_map.mp hr'
    rw [hlane f hf]; rfl
  have hvals : vals = (l.out.map fun f => (f, (0 : Word))) ++ l.sel.map fun f => (f, (R f).lo) := by
    have : (rs.filterMap fun r => r.2.2.1.map fun v => (r.1, v)) = l.sel.map fun f => (f, (R f).lo) := by
      simp only [rs, List.filterMap_map]
      rw [← List.filterMap_eq_map]
      refine List.filterMap_congr fun f hf => ?_
      simp [hlane f hf]
    show _ ++ _ = _
    rw [this]
  have hkin : ∀ (fs : List Nat) (g : Nat → Word) (m : KMap Word) (f : Nat), f ∈ fs →
      kget (fs.map (fun f => (f, g f)) ++ m) f = some (g f) := by
    intro fs g m f
    induction fs with
    | nil => intro h; cases h
    | cons n fs ih =>
      intro h
      simp only [List.map_cons, List.cons_append, kget]
      split
      · next he => rw [he]
      · next he => exact ih ((List.mem_cons.mp h).resolve_left he)
  have hkout : ∀ (fs : List Nat) (g : Nat → Word) (m : KMap Word) (f : Nat), f ∉ fs →
      kget (fs.map (fun f => (f, g f)) ++ m) f = kget m f := by
    intro fs g m f
    induction fs with
    | nil => intro _; rfl
    | cons n fs ih =>
      intro h
      simp only [List.mem_cons, not_or] at h
      simp only [List.map_cons, List.cons_append, kget, if_neg h.1]
      exact ih h.2
  have hexec : exec w s = .next (((taken s).modCrew i.crew fun c => c.putFibres rs).endWord i (i.produce o.lat vals) false []) := by
    rw [hw, LaneOp.exec, withIssue_next hcur]
    show Host.Outcome.next (match groupCheck (envAt s i) o.srcs o.d o.width with
      | some x => (taken s).groupEffect i x
      | none => _) = _
    rw [hg]
    simp only [hq, State.withPops, List.isEmpty_nil, Bool.true_or, if_true]
    congr 1
    show o.run i (envAt s i) ((envAt s i).lanes o.g) (!([] : List Nat).isEmpty) (taken s) [] = _
    rw [hl]
    simp only [LaneOp.run, kgetD, kget_nil, Option.getD_none]
    show (((taken s).modCrew i.crew fun c => c.putFibres rs).endWord i (i.produce o.lat vals) _ (l.bad ++ _)) = _
    rw [hb, hbad]
    rfl
  refine ⟨i.produce o.lat vals, ⟨by simp [Issue.produce], by simp [Issue.produce]⟩, groupStep_of hI _ rs (by rw [hrs1]; exact l1) hexec ?_ _ ?_ ?_⟩
  · intro r hr'
    have : r.1 ∈ rs.map Prod.fst := List.mem_map_of_mem hr'
    rw [hrs1] at this
    exact l2 _ this
  · intro r hr'
    obtain ⟨f, hf, rfl⟩ := List.mem_map.mp hr'
    simp only [hf, if_true, hlane f hf]
    refine ⟨o.written_wrote _ i f (R f) _ (hr f hf).2.1, ?_⟩
    simp only [Issue.produce, List.take_succ_cons, List.head?_cons, Option.map_some, hvals]
    rw [hkout _ _ _ _ fun h => l4 f h hf, ← List.append_nil (List.map _ l.sel), hkin l.sel (fun f => (R f).lo) [] f hf]
  · intro f hf hnot
    rw [hrs1] at hnot
    simp only [hnot, if_false]
    refine ⟨trivial, ?_⟩
    simp only [Issue.produce, List.take_succ_cons, List.head?_cons, Option.map_some, hvals]
    rw [hkin l.out (fun _ => 0) _ f (l5 f hf hnot)]

/-- A lane word whose parts are those of a rule of the spec does what the rule says. -/
theorem laneRule_of {w : Instr} {s : State} {i : Issue} {c : Crew} (r : LaneRule) (o : LaneOp) (hw : exec w s = o.exec s)
    (hg : o.g = r.h.g) (hnw : o.nw = r.h.nw) (hd : o.d = r.h.d.val) (hwd : o.width = 1) (hl : o.lat = r.lat)
    (hs : o.srcs = r.srcs.map fun a => (a, 1)) (X Y Z : Nat → Word)
    (hr : ∀ f v x, (∀ a, r.srcs[0]? = some a → (envAt s i).read (c.fibre f) f a 0 0 = .ok (X f)) →
      (∀ b, r.srcs[1]? = some b → (envAt s i).read (c.fibre f) f b 1 0 = .ok (Y f)) →
      (r.third = true → (envAt s i).readV (c.fibre f) f r.h.d.val 2 = .ok (Z f)) →
      r.value i.mod (Z f) (X f) (Y f) = some (v, x) → o.result (envAt s i) (c.fibre f) f [] = .ok { lo := v, exc := x })
    (h : r.Runs s i c X Y Z) : r.Result w s i c X Y Z := by
  obtain ⟨hI, hsel, hdb, hsp, hbad, hall⟩ := h
  have hcrew : (envAt s i).crew = c := State.crew_of_kget (s := taken s) hI.2.1
  let R : Nat → LaneOut := fun f =>
    match r.value i.mod (Z f) (X f) (Y f) with
    | some (v, x) => { lo := v, exc := x }
    | none => { lo := 0 }
  have hR : ∀ f v x, r.value i.mod (Z f) (X f) (Y f) = some (v, x) → R f = { lo := v, exc := x } := by
    intro f v x hv
    simp only [R, hv]
  have hmap : o.srcs.map Prod.fst = r.srcs := by rw [hs]; simp [Function.comp_def]
  obtain ⟨latches, hsh, hst⟩ := laneOp_groupStep (w := w) o hw hI
    (by
      unfold groupCheck
      have h1 : o.srcs.all (fun x => selFits x.1 (envAt s i).crew.b x.2) = true := by
        rw [hs, hcrew, List.all_map, List.all_eq_true]
        exact fun a ha => (hsel a ha).2
      have h2 : vFits (envAt s i).crew.b o.d o.width = true := by
        rw [hcrew, hd, hwd]
        simpa [vFits] using hdb
      have h3 : (envAt s i).splitRead (o.srcs.flatMap fun x => selRegs x.1 x.2) = false := by
        rw [hs, List.flatMap_map]
        exact hsp
      simp [h1, h2, h3])
    (by
      rw [hmap, popsOf, List.flatMap_eq_nil_iff]
      exact fun a ha => (hsel a ha).1)
    (by rw [hg]; exact hbad) R
    (by
      intro f hf
      rw [hg] at hf
      obtain ⟨h1, h2, h3, h4, h5, v, x, hv, ht⟩ := hall f hf
      rw [hR f v x hv]
      refine ⟨hr f v x h1 h2 h3 hv, h5, ht, fun hn => ⟨?_, fun hc => by simp at hc⟩⟩
      rw [hd]
      exact h4 (hnw ▸ hn))
  refine ⟨latches, hsh, ?_⟩
  obtain ⟨t, c', g1, g2, g3, g4, g5⟩ := hst
  refine ⟨t, c', g1, g2, g3, g4, fun f hf => ?_⟩
  obtain ⟨x, hx, hx'⟩ := g5 f hf
  refine ⟨x, hx, ?_⟩
  rw [hg] at hx'
  split at hx'
  · next hin =>
    rw [if_pos hin]
    obtain ⟨-, -, -, -, -, v, y, hv, -⟩ := hall f hin
    refine ⟨v, y, hv, ?_, ?_⟩
    · have := hx'.1
      rw [hR f v y hv, hnw, hd] at this
      exact this
    · rw [hx'.2, hR f v y hv, hl]
  · next hin =>
    rw [if_neg hin]
    exact hx'

end Sys2Proof.Machine
end

