-- ==== Sys2Proof/Laws/Memory.lean ====
section
/-! SUPPORT. Memory: a byte read after a write, and the canonical form kept by every operation that writes a memory. -/

namespace Sys2Proof.Machine

/-! ## Read after write -/

@[simp] theorem memRead_nil (k : Nat) : memRead [] k = 0 := rfl

/-- An address below a bound from which a memory in canonical form starts reads 0. -/
theorem memRead_below {lo k : Nat} : ∀ {m : Mem}, memWfFrom lo m = true → k < lo → memRead m k = 0
  | [], _, _ => rfl
  | (a, b) :: m, h, hk => by
    simp only [memWfFrom, Bool.and_eq_true, decide_eq_true_eq] at h
    have hka : k ≠ a := by omega
    rw [memRead, if_neg hka]
    exact memRead_below h.2 (by omega)

theorem memRead_memWrite_ne {k j : Nat} (v : Byte) (h : j ≠ k) : ∀ m : Mem, memRead (memWrite m k v) j = memRead m j
  | [] => by simp only [memWrite]; split <;> simp [memRead, h]
  | (a, b) :: m => by
    simp only [memWrite]
    split
    · split <;> simp [memRead, h]
    · split
      · next hk =>
        subst hk
        split <;> simp [memRead, h]
      · simp only [memRead, memRead_memWrite_ne v h m]

theorem memRead_memWrite_from {lo k : Nat} (v : Byte) :
    ∀ m : Mem, memWfFrom lo m = true → memRead (memWrite m k v) k = v
  | [], _ => by simp only [memWrite]; split <;> simp_all [memRead]
  | (a, b) :: m, h => by
    simp only [memWfFrom, Bool.and_eq_true, decide_eq_true_eq] at h
    simp only [memWrite]
    split
    · next hk =>
      split
      · next hv =>
        have hka : k ≠ a := by omega
        rw [memRead, if_neg hka, memRead_below h.2 (by omega), hv]
      · simp [memRead]
    · split
      · next hk =>
        split
        · next hv => rw [memRead_below h.2 (by omega), hv]
        · simp [memRead]
      · next hk => rw [memRead, if_neg hk]; exact memRead_memWrite_from v m h.2

/-- A byte written is the byte read. -/
theorem memRead_memWrite_self {m : Mem} (h : Memory.wf m = true) (k : Nat) (v : Byte) : memRead (memWrite m k v) k = v :=
  memRead_memWrite_from v m h

/-! ## The canonical form -/

theorem memWfFrom_mono {lo hi : Nat} (hl : lo ≤ hi) : ∀ {m : Mem}, memWfFrom hi m = true → memWfFrom lo m = true
  | [], _ => rfl
  | (a, b) :: m, h => by
    simp only [memWfFrom, Bool.and_eq_true, decide_eq_true_eq] at h ⊢
    exact ⟨⟨by omega, h.1.2⟩, h.2⟩

theorem memWrite_wf_from (k : Nat) (v : Byte) :
    ∀ (lo : Nat) (m : Mem), memWfFrom lo m = true → lo ≤ k → memWfFrom lo (memWrite m k v) = true
  | lo, [], _, hk => by
    simp only [memWrite]; split
    · rfl
    · next hv =>
      simp only [memWfFrom, Bool.and_eq_true, decide_eq_true_eq]; exact ⟨⟨hk, by simpa using hv⟩, trivial⟩
  | lo, (a, b) :: m, h, hk => by
    simp only [memWfFrom, Bool.and_eq_true, decide_eq_true_eq] at h
    simp only [memWrite]
    split
    · next hka =>
      split
      · simp only [memWfFrom, Bool.and_eq_true, decide_eq_true_eq]; exact h
      · next hv =>
        have : memWfFrom (k + 1) ((a, b) :: m) = true := by
          simp only [memWfFrom, Bool.and_eq_true, decide_eq_true_eq]; exact ⟨⟨by omega, h.1.2⟩, h.2⟩
        simp only [memWfFrom, Bool.and_eq_true, decide_eq_true_eq] at this ⊢
        exact ⟨⟨hk, by simpa using hv⟩, this⟩
    · split
      · next hka =>
        split
        · exact memWfFrom_mono (by omega) h.2
        · next hv =>
          simp only [memWfFrom, Bool.and_eq_true, decide_eq_true_eq]
          exact ⟨⟨hk, by simpa using hv⟩, hka ▸ h.2⟩
      · next h1 h2 =>
        simp only [memWfFrom, Bool.and_eq_true, decide_eq_true_eq]
        exact ⟨h.1, memWrite_wf_from k v (a + 1) m h.2 (by omega)⟩

/-- A write keeps the canonical form. -/
theorem memWrite_wf {m : Mem} (h : Memory.wf m = true) (k : Nat) (v : Byte) : Memory.wf (memWrite m k v) = true :=
  memWrite_wf_from k v 0 m h (Nat.zero_le k)

theorem memWrites_wf {m : Mem} (h : Memory.wf m = true) : ∀ (bs : List Byte) (a : Nat), Memory.wf (memWrites m a bs) = true := by
  intro bs
  induction bs generalizing m with
  | nil => intro _; exact h
  | cons b bs ih => intro a; exact ih (memWrite_wf h a b) (a + 1)

theorem memFilter_wf_from (p : Host.Cell → Bool) : ∀ (lo : Nat) (m : Mem), memWfFrom lo m = true → memWfFrom lo (m.filter p) = true
  | _, [], _ => rfl
  | lo, (a, b) :: m, h => by
    simp only [memWfFrom, Bool.and_eq_true, decide_eq_true_eq] at h
    rw [List.filter_cons]
    split
    · simp only [memWfFrom, Bool.and_eq_true, decide_eq_true_eq]; exact ⟨h.1, memFilter_wf_from p (a + 1) m h.2⟩
    · exact memWfFrom_mono (by omega) (memFilter_wf_from p (a + 1) m h.2)

/-- Zeroing bytes, which drops entries, keeps the canonical form. -/
theorem memFilter_wf {m : Mem} (h : Memory.wf m = true) (p : Host.Cell → Bool) : Memory.wf (m.filter p) = true :=
  memFilter_wf_from p 0 m h

/-! ## The memories of the package -/

/-- The canonical form depends on the three memories alone. -/
theorem State.memWf_of_eq {s t : State} (h : s.memWf) (hd : t.dev = s.dev) (hh : t.host = s.host) (hs : t.scratch = s.scratch) :
    t.memWf := by
  unfold State.memWf at *; rw [hd, hh, hs]; exact h

theorem State.writePa_memWf {s : State} (h : s.memWf) (pa : Nat) (b : Byte) : (s.writePa pa b).memWf := by
  unfold State.writePa
  split
  · exact ⟨memWrite_wf h.1 pa b, h.2⟩
  · exact ⟨h.1, memWrite_wf h.2.1 pa b, h.2.2⟩

theorem State.writePas_memWf {s : State} (h : s.memWf) (pa : Nat) (bs : List Byte) : (s.writePas pa bs).memWf := by
  unfold State.writePas
  suffices H : ∀ (bs : List Byte) (r : State × Nat), r.1.memWf →
      (bs.foldl (fun (t : State × Nat) b => (t.1.writePa t.2 b, t.2 + 1)) r).1.memWf from H bs (s, pa) h
  intro bs
  induction bs with
  | nil => intro r hr; exact hr
  | cons b bs ih => intro r hr; exact ih _ (State.writePa_memWf hr r.2 b)

theorem State.writeScratch_memWf {s : State} (h : s.memWf) (c a : Nat) (bs : List Byte) : (s.writeScratch c a bs).memWf :=
  ⟨h.1, h.2.1, memWrites_wf h.2.2 bs _⟩

/-- A byte stored at a physical address is the byte read there. -/
theorem State.readPa_writePa_self {s : State} (h : s.memWf) (pa : Nat) (b : Byte) : (s.writePa pa b).readPa pa = b := by
  unfold State.writePa State.readPa
  cases hd : isDevice pa
  · simpa using memRead_memWrite_self h.2.1 pa b
  · simpa using memRead_memWrite_self h.1 pa b

/-- Every other physical address reads as before. -/
theorem State.readPa_writePa_ne (s : State) {pa a : Nat} (b : Byte) (h : a ≠ pa) : (s.writePa pa b).readPa a = s.readPa a := by
  unfold State.writePa State.readPa
  cases hd : isDevice pa
  · cases ha : isDevice a <;> simp [memRead_memWrite_ne, h]
  · cases ha : isDevice a <;> simp [memRead_memWrite_ne, h]

@[simp] theorem State.writePa_crews (s : State) (pa : Nat) (b : Byte) : (s.writePa pa b).crews = s.crews := by
  unfold State.writePa; split <;> rfl

@[simp] theorem State.writePa_cores (s : State) (pa : Nat) (b : Byte) : (s.writePa pa b).cores = s.cores := by
  unfold State.writePa; split <;> rfl

@[simp] theorem State.writePa_scratch (s : State) (pa : Nat) (b : Byte) : (s.writePa pa b).scratch = s.scratch := by
  unfold State.writePa; split <;> rfl

end Sys2Proof.Machine
end

