-- ==== Sys2Proof/Laws/PerInstr.lean ====
section
/-! SUPPORT. The family Roundtrip: the decoder reads from every word that the encoder writes the instruction it was
written for. One lemma per constructor of Instr; an event has no word. -/

namespace Sys2Proof.Laws

set_option Elab.async false

/-- The word of a well-formed instruction decodes to it, with every operand. -/
def Roundtrip.Statement (i : Instr) : Prop := i.isWord = true → i.wellFormed = true → decodeWord (encodeWord i) = .ok i

theorem Roundtrip.iadd (h : LaneHdr) (a b : Sel) : Roundtrip.Statement (.iadd h a b) :=
  fun _ hw => roundLane2 .iadd 1 (by decide) (by decide) (fun _ => Eq.refl _) h a b hw

theorem Roundtrip.isub (h : LaneHdr) (a b : Sel) : Roundtrip.Statement (.isub h a b) :=
  fun _ hw => roundLane2 .isub 2 (by decide) (by decide) (fun _ => Eq.refl _) h a b hw

theorem Roundtrip.imul (h : LaneHdr) (a b : Sel) : Roundtrip.Statement (.imul h a b) :=
  fun _ hw => roundLane2 .imul 3 (by decide) (by decide) (fun _ => Eq.refl _) h a b hw

theorem Roundtrip.imulhs (h : LaneHdr) (a b : Sel) : Roundtrip.Statement (.imulhs h a b) :=
  fun _ hw => roundLane2 .imulhs 4 (by decide) (by decide) (fun _ => Eq.refl _) h a b hw

theorem Roundtrip.imulhz (h : LaneHdr) (a b : Sel) : Roundtrip.Statement (.imulhz h a b) :=
  fun _ hw => roundLane2 .imulhz 5 (by decide) (by decide) (fun _ => Eq.refl _) h a b hw

theorem Roundtrip.imad (h : LaneHdr) (a b : Sel) : Roundtrip.Statement (.imad h a b) :=
  fun _ hw => roundLane2 .imad 6 (by decide) (by decide) (fun _ => Eq.refl _) h a b hw

theorem Roundtrip.imins (h : LaneHdr) (a b : Sel) : Roundtrip.Statement (.imins h a b) :=
  fun _ hw => roundLane2 .imins 7 (by decide) (by decide) (fun _ => Eq.refl _) h a b hw

theorem Roundtrip.imaxs (h : LaneHdr) (a b : Sel) : Roundtrip.Statement (.imaxs h a b) :=
  fun _ hw => roundLane2 .imaxs 8 (by decide) (by decide) (fun _ => Eq.refl _) h a b hw

theorem Roundtrip.iminz (h : LaneHdr) (a b : Sel) : Roundtrip.Statement (.iminz h a b) :=
  fun _ hw => roundLane2 .iminz 9 (by decide) (by decide) (fun _ => Eq.refl _) h a b hw

theorem Roundtrip.imaxz (h : LaneHdr) (a b : Sel) : Roundtrip.Statement (.imaxz h a b) :=
  fun _ hw => roundLane2 .imaxz 10 (by decide) (by decide) (fun _ => Eq.refl _) h a b hw

theorem Roundtrip.iabs (h : LaneHdr) (a : Sel) : Roundtrip.Statement (.iabs h a) :=
  fun _ hw => roundLane1 .iabs 11 (by decide) (by decide) (fun _ => Eq.refl _) h a hw

theorem Roundtrip.andL (h : LaneHdr) (a b : Sel) : Roundtrip.Statement (.andL h a b) :=
  fun _ hw => roundLane2 .andL 12 (by decide) (by decide) (fun _ => Eq.refl _) h a b hw

theorem Roundtrip.orL (h : LaneHdr) (a b : Sel) : Roundtrip.Statement (.orL h a b) :=
  fun _ hw => roundLane2 .orL 13 (by decide) (by decide) (fun _ => Eq.refl _) h a b hw

theorem Roundtrip.xorL (h : LaneHdr) (a b : Sel) : Roundtrip.Statement (.xorL h a b) :=
  fun _ hw => roundLane2 .xorL 14 (by decide) (by decide) (fun _ => Eq.refl _) h a b hw

theorem Roundtrip.andn (h : LaneHdr) (a b : Sel) : Roundtrip.Statement (.andn h a b) :=
  fun _ hw => roundLane2 .andn 15 (by decide) (by decide) (fun _ => Eq.refl _) h a b hw

theorem Roundtrip.shl (h : LaneHdr) (a b : Sel) : Roundtrip.Statement (.shl h a b) :=
  fun _ hw => roundLane2 .shl 16 (by decide) (by decide) (fun _ => Eq.refl _) h a b hw

theorem Roundtrip.shr (h : LaneHdr) (a b : Sel) : Roundtrip.Statement (.shr h a b) :=
  fun _ hw => roundLane2 .shr 17 (by decide) (by decide) (fun _ => Eq.refl _) h a b hw

theorem Roundtrip.sar (h : LaneHdr) (a b : Sel) : Roundtrip.Statement (.sar h a b) :=
  fun _ hw => roundLane2 .sar 18 (by decide) (by decide) (fun _ => Eq.refl _) h a b hw

theorem Roundtrip.rol (h : LaneHdr) (a b : Sel) : Roundtrip.Statement (.rol h a b) :=
  fun _ hw => roundLane2 .rol 19 (by decide) (by decide) (fun _ => Eq.refl _) h a b hw

theorem Roundtrip.bfxz (h : LaneHdr) (a b : Sel) : Roundtrip.Statement (.bfxz h a b) :=
  fun _ hw => roundLane2 .bfxz 20 (by decide) (by decide) (fun _ => Eq.refl _) h a b hw

theorem Roundtrip.bfxs (h : LaneHdr) (a b : Sel) : Roundtrip.Statement (.bfxs h a b) :=
  fun _ hw => roundLane2 .bfxs 21 (by decide) (by decide) (fun _ => Eq.refl _) h a b hw

theorem Roundtrip.bfi (h : LaneHdr) (a b : Sel) : Roundtrip.Statement (.bfi h a b) :=
  fun _ hw => roundLane2 .bfi 22 (by decide) (by decide) (fun _ => Eq.refl _) h a b hw

theorem Roundtrip.popc (h : LaneHdr) (a : Sel) : Roundtrip.Statement (.popc h a) :=
  fun _ hw => roundLane1 .popc 23 (by decide) (by decide) (fun _ => Eq.refl _) h a hw

theorem Roundtrip.clz (h : LaneHdr) (a : Sel) : Roundtrip.Statement (.clz h a) :=
  fun _ hw => roundLane1 .clz 24 (by decide) (by decide) (fun _ => Eq.refl _) h a hw

theorem Roundtrip.brev (h : LaneHdr) (a : Sel) : Roundtrip.Statement (.brev h a) :=
  fun _ hw => roundLane1 .brev 25 (by decide) (by decide) (fun _ => Eq.refl _) h a hw

theorem Roundtrip.sel (h : LaneHdr) (a b : Sel) : Roundtrip.Statement (.sel h a b) :=
  fun _ hw => roundLane2 .sel 26 (by decide) (by decide) (fun _ => Eq.refl _) h a b hw

theorem Roundtrip.mov (h : LaneHdr) (a : Sel) : Roundtrip.Statement (.mov h a) :=
  fun _ hw => roundLane1 .mov 27 (by decide) (by decide) (fun _ => Eq.refl _) h a hw

theorem Roundtrip.iaddi (h : LaneHdr) (a : Sel) (imm : BitVec 7) : Roundtrip.Statement (.iaddi h a imm) :=
  fun _ hw => roundLaneImm .iaddi 28 (by decide) (by decide) (fun _ => Eq.refl _) h a imm hw

theorem Roundtrip.shli (h : LaneHdr) (a : Sel) (imm : BitVec 7) : Roundtrip.Statement (.shli h a imm) :=
  fun _ hw => roundLaneImm .shli 29 (by decide) (by decide) (fun _ => Eq.refl _) h a imm hw

theorem Roundtrip.shri (h : LaneHdr) (a : Sel) (imm : BitVec 7) : Roundtrip.Statement (.shri h a imm) :=
  fun _ hw => roundLaneImm .shri 30 (by decide) (by decide) (fun _ => Eq.refl _) h a imm hw

theorem Roundtrip.sari (h : LaneHdr) (a : Sel) (imm : BitVec 7) : Roundtrip.Statement (.sari h a imm) :=
  fun _ hw => roundLaneImm .sari 31 (by decide) (by decide) (fun _ => Eq.refl _) h a imm hw

theorem Roundtrip.fadd (h : LaneHdr) (a b : Sel) : Roundtrip.Statement (.fadd h a b) :=
  fun _ hw => roundLane2 .fadd 32 (by decide) (by decide) (fun _ => Eq.refl _) h a b hw

theorem Roundtrip.fsub (h : LaneHdr) (a b : Sel) : Roundtrip.Statement (.fsub h a b) :=
  fun _ hw => roundLane2 .fsub 33 (by decide) (by decide) (fun _ => Eq.refl _) h a b hw

theorem Roundtrip.fmul (h : LaneHdr) (a b : Sel) : Roundtrip.Statement (.fmul h a b) :=
  fun _ hw => roundLane2 .fmul 34 (by decide) (by decide) (fun _ => Eq.refl _) h a b hw

theorem Roundtrip.ffma (h : LaneHdr) (a b : Sel) : Roundtrip.Statement (.ffma h a b) :=
  fun _ hw => roundLane2 .ffma 35 (by decide) (by decide) (fun _ => Eq.refl _) h a b hw

theorem Roundtrip.fmin (h : LaneHdr) (a b : Sel) : Roundtrip.Statement (.fmin h a b) :=
  fun _ hw => roundLane2 .fmin 36 (by decide) (by decide) (fun _ => Eq.refl _) h a b hw

theorem Roundtrip.fmax (h : LaneHdr) (a b : Sel) : Roundtrip.Statement (.fmax h a b) :=
  fun _ hw => roundLane2 .fmax 37 (by decide) (by decide) (fun _ => Eq.refl _) h a b hw

theorem Roundtrip.fabs (h : LaneHdr) (a : Sel) : Roundtrip.Statement (.fabs h a) :=
  fun _ hw => roundLane1 .fabs 38 (by decide) (by decide) (fun _ => Eq.refl _) h a hw

theorem Roundtrip.fneg (h : LaneHdr) (a : Sel) : Roundtrip.Statement (.fneg h a) :=
  fun _ hw => roundLane1 .fneg 39 (by decide) (by decide) (fun _ => Eq.refl _) h a hw

theorem Roundtrip.frcp (h : LaneHdr) (a : Sel) : Roundtrip.Statement (.frcp h a) :=
  fun _ hw => roundLane1 .frcp 40 (by decide) (by decide) (fun _ => Eq.refl _) h a hw

theorem Roundtrip.frsq (h : LaneHdr) (a : Sel) : Roundtrip.Statement (.frsq h a) :=
  fun _ hw => roundLane1 .frsq 41 (by decide) (by decide) (fun _ => Eq.refl _) h a hw

theorem Roundtrip.fsqrt (h : LaneHdr) (a : Sel) : Roundtrip.Statement (.fsqrt h a) :=
  fun _ hw => roundLane1 .fsqrt 42 (by decide) (by decide) (fun _ => Eq.refl _) h a hw

theorem Roundtrip.fdiv (h : LaneHdr) (a b : Sel) : Roundtrip.Statement (.fdiv h a b) :=
  fun _ hw => roundLane2 .fdiv 43 (by decide) (by decide) (fun _ => Eq.refl _) h a b hw

theorem Roundtrip.fex2 (h : LaneHdr) (a : Sel) : Roundtrip.Statement (.fex2 h a) :=
  fun _ hw => roundLane1 .fex2 44 (by decide) (by decide) (fun _ => Eq.refl _) h a hw

theorem Roundtrip.flg2 (h : LaneHdr) (a : Sel) : Roundtrip.Statement (.flg2 h a) :=
  fun _ hw => roundLane1 .flg2 45 (by decide) (by decide) (fun _ => Eq.refl _) h a hw

theorem Roundtrip.fsin (h : LaneHdr) (a : Sel) : Roundtrip.Statement (.fsin h a) :=
  fun _ hw => roundLane1 .fsin 46 (by decide) (by decide) (fun _ => Eq.refl _) h a hw

theorem Roundtrip.fcos (h : LaneHdr) (a : Sel) : Roundtrip.Statement (.fcos h a) :=
  fun _ hw => roundLane1 .fcos 47 (by decide) (by decide) (fun _ => Eq.refl _) h a hw

theorem Roundtrip.frnd (h : LaneHdr) (a : Sel) : Roundtrip.Statement (.frnd h a) :=
  fun _ hw => roundLane1 .frnd 48 (by decide) (by decide) (fun _ => Eq.refl _) h a hw

theorem Roundtrip.fcpys (h : LaneHdr) (a b : Sel) : Roundtrip.Statement (.fcpys h a b) :=
  fun _ hw => roundLane2 .fcpys 49 (by decide) (by decide) (fun _ => Eq.refl _) h a b hw

theorem Roundtrip.hadd2 (h : LaneHdr) (a b : Sel) : Roundtrip.Statement (.hadd2 h a b) :=
  fun _ hw => roundLane2 .hadd2 50 (by decide) (by decide) (fun _ => Eq.refl _) h a b hw

theorem Roundtrip.hmul2 (h : LaneHdr) (a b : Sel) : Roundtrip.Statement (.hmul2 h a b) :=
  fun _ hw => roundLane2 .hmul2 51 (by decide) (by decide) (fun _ => Eq.refl _) h a b hw

theorem Roundtrip.hfma2 (h : LaneHdr) (a b : Sel) : Roundtrip.Statement (.hfma2 h a b) :=
  fun _ hw => roundLane2 .hfma2 52 (by decide) (by decide) (fun _ => Eq.refl _) h a b hw

theorem Roundtrip.hmin2 (h : LaneHdr) (a b : Sel) : Roundtrip.Statement (.hmin2 h a b) :=
  fun _ hw => roundLane2 .hmin2 53 (by decide) (by decide) (fun _ => Eq.refl _) h a b hw

theorem Roundtrip.hmax2 (h : LaneHdr) (a b : Sel) : Roundtrip.Statement (.hmax2 h a b) :=
  fun _ hw => roundLane2 .hmax2 54 (by decide) (by decide) (fun _ => Eq.refl _) h a b hw

theorem Roundtrip.badd2 (h : LaneHdr) (a b : Sel) : Roundtrip.Statement (.badd2 h a b) :=
  fun _ hw => roundLane2 .badd2 55 (by decide) (by decide) (fun _ => Eq.refl _) h a b hw

theorem Roundtrip.bmul2 (h : LaneHdr) (a b : Sel) : Roundtrip.Statement (.bmul2 h a b) :=
  fun _ hw => roundLane2 .bmul2 56 (by decide) (by decide) (fun _ => Eq.refl _) h a b hw

theorem Roundtrip.bfma2 (h : LaneHdr) (a b : Sel) : Roundtrip.Statement (.bfma2 h a b) :=
  fun _ hw => roundLane2 .bfma2 57 (by decide) (by decide) (fun _ => Eq.refl _) h a b hw

theorem Roundtrip.bmin2 (h : LaneHdr) (a b : Sel) : Roundtrip.Statement (.bmin2 h a b) :=
  fun _ hw => roundLane2 .bmin2 58 (by decide) (by decide) (fun _ => Eq.refl _) h a b hw

theorem Roundtrip.bmax2 (h : LaneHdr) (a b : Sel) : Roundtrip.Statement (.bmax2 h a b) :=
  fun _ hw => roundLane2 .bmax2 59 (by decide) (by decide) (fun _ => Eq.refl _) h a b hw

theorem Roundtrip.cvt (h : LaneHdr) (a : Sel) (code : Fin 26) : Roundtrip.Statement (.cvt h a code) := by
  intro _ hw
  have hc := code.isLt
  show decodeWord (encLane 60 h a.code code.val) = _
  have hb := encLane_b (op := 60) h (x := a.code) (y := code.val) (by omega)
  rw [decodeWord_op 60 (encLane_op h a.code_lt (by omega)) (by decide) (by decide),
    show ∀ w, decodeOp 60 w = decCvt w from fun _ => Eq.refl _, decCvt, withLane_enc 60 h _ _ _ hw a.code_lt (by omega), hb,
    if_pos (by omega), withSel_code a _ (encLane_a h a.code_lt (by omega)) (Eq.refl _), if_neg (by omega),
    ofNat_field code (by omega)]

theorem Roundtrip.cvtFswap (h : LaneHdr) (a : Sel) : Roundtrip.Statement (.cvtFswap h a) := by
  intro _ hw
  show decodeWord (encLane 60 h a.code 26) = _
  rw [decodeWord_op 60 (encLane_op h a.code_lt (by omega)) (by decide) (by decide),
    show ∀ w, decodeOp 60 w = decCvt w from fun _ => Eq.refl _, decCvt, withLane_enc 60 h _ _ _ hw a.code_lt (by omega),
    encLane_b h (by omega), if_pos (by omega), withSel_code a _ (encLane_a h a.code_lt (by omega)) (Eq.refl _),
    if_pos (Eq.refl _)]

theorem Roundtrip.pack (h : LaneHdr) (a b : Sel) : Roundtrip.Statement (.pack h a b) :=
  fun _ hw => roundLane2 .pack 61 (by decide) (by decide) (fun _ => Eq.refl _) h a b hw

theorem Roundtrip.prm (h : LaneHdr) (a b : Sel) : Roundtrip.Statement (.prm h a b) :=
  fun _ hw => roundLane2 .prm 62 (by decide) (by decide) (fun _ => Eq.refl _) h a b hw

theorem Roundtrip.movi (h : LaneHdr) (imm : BitVec 14) : Roundtrip.Statement (.movi h imm) := by
  intro _ hw
  have hi : imm.toNat < 16384 := imm.isLt
  obtain ⟨g, nw, d⟩ := h
  have hg := g.code_lt
  have hn : nw.toNat ≤ 1 := Bool.toNat_le nw
  have he : encLane 63 ⟨g, nw, d⟩ 0 imm.toNat = encLane 63 ⟨g, nw, d⟩ (imm.toNat / 128) (imm.toNat % 128) := by
    simp only [encLane]; omega
  show decodeWord (encLane 63 ⟨g, nw, d⟩ 0 imm.toNat) = _
  rw [he, decodeWord_op 63 (encLane_op _ (by omega) (by omega)) (by decide) (by decide),
    show ∀ w, decodeOp 63 w = decMovi w from fun _ => Eq.refl _, decMovi,
    withLane_enc 63 _ _ _ _ hw (by omega) (by omega), bits_field imm (by simp only [encLane, encGuard]; omega)]

theorem Roundtrip.icmps (h : CmpHdr) (a b : Sel) : Roundtrip.Statement (.icmps h a b) :=
  fun _ hw => roundCmp .icmps Cond.okInt 64 (by decide) (by decide) (fun _ => Eq.refl _) h a b hw

theorem Roundtrip.icmpz (h : CmpHdr) (a b : Sel) : Roundtrip.Statement (.icmpz h a b) :=
  fun _ hw => roundCmp .icmpz Cond.okInt 65 (by decide) (by decide) (fun _ => Eq.refl _) h a b hw

theorem Roundtrip.fcmp (h : CmpHdr) (a b : Sel) : Roundtrip.Statement (.fcmp h a b) :=
  fun _ hw => roundCmp .fcmp (fun _ => true) 66 (by decide) (by decide) (fun _ => Eq.refl _) h a b (Eq.refl _)

theorem Roundtrip.itst (h : CmpHdr) (a b : Sel) : Roundtrip.Statement (.itst h a b) :=
  fun _ hw => roundCmp .itst Cond.okTest 67 (by decide) (by decide) (fun _ => Eq.refl _) h a b hw

theorem Roundtrip.pdup (g : Guard) : Roundtrip.Statement (.pdup g) :=
  fun _ _ => roundPstk .pdup 0 (by decide) g (fun _ => Eq.refl _)
    fun w g h0 hg hn => by rw [decPstk, withGuard_code g _ hg, zeroField_zero _ h0]; simp only [hn]

theorem Roundtrip.pdrop (g : Guard) : Roundtrip.Statement (.pdrop g) :=
  fun _ _ => roundPstk .pdrop 1 (by decide) g (fun _ => Eq.refl _)
    fun w g h0 hg hn => by rw [decPstk, withGuard_code g _ hg, zeroField_zero _ h0]; simp only [hn]

theorem Roundtrip.pnot (g : Guard) : Roundtrip.Statement (.pnot g) :=
  fun _ _ => roundPstk .pnot 2 (by decide) g (fun _ => Eq.refl _)
    fun w g h0 hg hn => by rw [decPstk, withGuard_code g _ hg, zeroField_zero _ h0]; simp only [hn]

theorem Roundtrip.pand (g : Guard) : Roundtrip.Statement (.pand g) :=
  fun _ _ => roundPstk .pand 3 (by decide) g (fun _ => Eq.refl _)
    fun w g h0 hg hn => by rw [decPstk, withGuard_code g _ hg, zeroField_zero _ h0]; simp only [hn]

theorem Roundtrip.por (g : Guard) : Roundtrip.Statement (.por g) :=
  fun _ _ => roundPstk .por 4 (by decide) g (fun _ => Eq.refl _)
    fun w g h0 hg hn => by rw [decPstk, withGuard_code g _ hg, zeroField_zero _ h0]; simp only [hn]

theorem Roundtrip.pxor (g : Guard) : Roundtrip.Statement (.pxor g) :=
  fun _ _ => roundPstk .pxor 5 (by decide) g (fun _ => Eq.refl _)
    fun w g h0 hg hn => by rw [decPstk, withGuard_code g _ hg, zeroField_zero _ h0]; simp only [hn]

theorem Roundtrip.pswap (g : Guard) : Roundtrip.Statement (.pswap g) :=
  fun _ _ => roundPstk .pswap 6 (by decide) g (fun _ => Eq.refl _)
    fun w g h0 hg hn => by rw [decPstk, withGuard_code g _ hg, zeroField_zero _ h0]; simp only [hn]

theorem Roundtrip.pset0 (g : Guard) : Roundtrip.Statement (.pset0 g) :=
  fun _ _ => roundPstk .pset0 7 (by decide) g (fun _ => Eq.refl _)
    fun w g h0 hg hn => by rw [decPstk, withGuard_code g _ hg, zeroField_zero _ h0]; simp only [hn]

theorem Roundtrip.pset1 (g : Guard) : Roundtrip.Statement (.pset1 g) :=
  fun _ _ => roundPstk .pset1 8 (by decide) g (fun _ => Eq.refl _)
    fun w g h0 hg hn => by rw [decPstk, withGuard_code g _ hg, zeroField_zero _ h0]; simp only [hn]

theorem Roundtrip.xchgIdx (g : Guard) (d : Fin 64) (a : Sel) : Roundtrip.Statement (.xchgIdx g d a) := by
  intro _ hw
  have h0 := g.code_lt
  have h1 := a.code_lt
  simp only [encodeWord, encGuard]
  rw [decodeWord_op 69 (by omega) (by decide) (by decide), show ∀ w, decodeOp 69 w = decXchg w from fun _ => Eq.refl _, decXchg, withGuard_code g _ (by omega), noNw_zero _ (by omega), if_neg (by omega), withSel_code a _ (by omega) (Eq.refl _)]
  have e : (69 * 33554432 + g.code * 2097152 + d.val * 16384 + a.code * 128) / 32 % 4 = 0 := by omega
  simp only [e]
  rw [ofNat_field d (by omega)]

theorem Roundtrip.xchgUp (g : Guard) (d : Fin 64) (a : Sel) (k : Fin 32) : Roundtrip.Statement (.xchgUp g d a k) := by
  intro _ hw
  have h0 := g.code_lt
  have h1 := a.code_lt
  have h2 := k.isLt
  simp only [encodeWord, encGuard]
  rw [decodeWord_op 69 (by omega) (by decide) (by decide), show ∀ w, decodeOp 69 w = decXchg w from fun _ => Eq.refl _, decXchg, withGuard_code g _ (by omega), noNw_zero _ (by omega), if_neg (by omega), withSel_code a _ (by omega) (Eq.refl _)]
  have e : (69 * 33554432 + g.code * 2097152 + d.val * 16384 + a.code * 128 + 32 + k.val) / 32 % 4 = 1 := by omega
  simp only [e]
  rw [ofNat_field d (by omega), ofNat_field k (by omega)]

theorem Roundtrip.xchgDown (g : Guard) (d : Fin 64) (a : Sel) (k : Fin 32) : Roundtrip.Statement (.xchgDown g d a k) := by
  intro _ hw
  have h0 := g.code_lt
  have h1 := a.code_lt
  have h2 := k.isLt
  simp only [encodeWord, encGuard]
  rw [decodeWord_op 69 (by omega) (by decide) (by decide), show ∀ w, decodeOp 69 w = decXchg w from fun _ => Eq.refl _, decXchg, withGuard_code g _ (by omega), noNw_zero _ (by omega), if_neg (by omega), withSel_code a _ (by omega) (Eq.refl _)]
  have e : (69 * 33554432 + g.code * 2097152 + d.val * 16384 + a.code * 128 + 64 + k.val) / 32 % 4 = 2 := by omega
  simp only [e]
  rw [ofNat_field d (by omega), ofNat_field k (by omega)]

theorem Roundtrip.xchgBfly (g : Guard) (d : Fin 64) (a : Sel) (k : Fin 32) : Roundtrip.Statement (.xchgBfly g d a k) := by
  intro _ hw
  have h0 := g.code_lt
  have h1 := a.code_lt
  have h2 := k.isLt
  simp only [encodeWord, encGuard]
  rw [decodeWord_op 69 (by omega) (by decide) (by decide), show ∀ w, decodeOp 69 w = decXchg w from fun _ => Eq.refl _, decXchg, withGuard_code g _ (by omega), noNw_zero _ (by omega), if_neg (by omega), withSel_code a _ (by omega) (Eq.refl _)]
  have e : (69 * 33554432 + g.code * 2097152 + d.val * 16384 + a.code * 128 + 96 + k.val) / 32 % 4 = 3 := by omega
  simp only [e]
  rw [ofNat_field d (by omega), ofNat_field k (by omega)]

theorem Roundtrip.voteAll (g : Guard) (d : Fin 32) (depth : BitVec 7) : Roundtrip.Statement (.voteAll g d depth) := by
  intro _ hw
  have h0 := g.code_lt
  have h1 := (show depth.toNat < 128 from depth.isLt)
  simp only [encodeWord, encGuard]
  rw [decodeWord_op 70 (by omega) (by decide) (by decide), show ∀ w, decodeOp 70 w = decVote w from fun _ => Eq.refl _, decVote, withGuard_code g _ (by omega), noNw_zero _ (by omega), zeroField_zero _ (by omega)]
  have e : (70 * 33554432 + g.code * 2097152 + d.val * 16384 + depth.toNat * 128) % 128 = 0 := by omega
  simp only [e]
  rw [bits_field depth (by omega), ofNat_field d (by omega)]

theorem Roundtrip.voteAny (g : Guard) (d : Fin 32) (depth : BitVec 7) : Roundtrip.Statement (.voteAny g d depth) := by
  intro _ hw
  have h0 := g.code_lt
  have h1 := (show depth.toNat < 128 from depth.isLt)
  simp only [encodeWord, encGuard]
  rw [decodeWord_op 70 (by omega) (by decide) (by decide), show ∀ w, decodeOp 70 w = decVote w from fun _ => Eq.refl _, decVote, withGuard_code g _ (by omega), noNw_zero _ (by omega), zeroField_zero _ (by omega)]
  have e : (70 * 33554432 + g.code * 2097152 + d.val * 16384 + depth.toNat * 128 + 1) % 128 = 1 := by omega
  simp only [e]
  rw [bits_field depth (by omega), ofNat_field d (by omega)]

theorem Roundtrip.voteEq (g : Guard) (d : Fin 32) (a : Sel) : Roundtrip.Statement (.voteEq g d a) := by
  intro _ hw
  have h0 := g.code_lt
  have h1 := a.code_lt
  simp only [encodeWord, encGuard]
  rw [decodeWord_op 70 (by omega) (by decide) (by decide), show ∀ w, decodeOp 70 w = decVote w from fun _ => Eq.refl _, decVote, withGuard_code g _ (by omega), noNw_zero _ (by omega), zeroField_zero _ (by omega)]
  have e : (70 * 33554432 + g.code * 2097152 + d.val * 16384 + a.code * 128 + 2) % 128 = 2 := by omega
  simp only [e]
  rw [withSel_code a _ (by omega) (Eq.refl _), ofNat_field d (by omega)]

theorem Roundtrip.voteBal (g : Guard) (d : Fin 32) (depth : BitVec 7) : Roundtrip.Statement (.voteBal g d depth) := by
  intro _ hw
  have h0 := g.code_lt
  have h1 := (show depth.toNat < 128 from depth.isLt)
  simp only [encodeWord, encGuard]
  rw [decodeWord_op 70 (by omega) (by decide) (by decide), show ∀ w, decodeOp 70 w = decVote w from fun _ => Eq.refl _, decVote, withGuard_code g _ (by omega), noNw_zero _ (by omega), zeroField_zero _ (by omega)]
  have e : (70 * 33554432 + g.code * 2097152 + d.val * 16384 + depth.toNat * 128 + 3) % 128 = 3 := by omega
  simp only [e]
  rw [bits_field depth (by omega), ofNat_field d (by omega)]

theorem Roundtrip.rfl (h : LaneHdr) (a : Sel) : Roundtrip.Statement (.rfl h a) :=
  fun _ hw => roundLane1 .rfl 71 (by decide) (by decide) (fun _ => Eq.refl _) h a hw

theorem Roundtrip.xdef (g : Guard) (x : Fin 4) (base : Fin 64) (b : Sel) : Roundtrip.Statement (.xdef g x base b) := by
  intro _ hw
  have h0 := g.code_lt
  have h1 := b.code_lt
  simp only [encodeWord, encGuard]
  rw [decodeWord_op 72 (by omega) (by decide) (by decide), show ∀ w, decodeOp 72 w = decXdef w from fun _ => Eq.refl _, decXdef, withGuard_code g _ (by omega), noNw_zero _ (by omega), zeroField_zero _ (by omega), withSel_code b _ (by omega) (Eq.refl _), ofNat_field x (by omega), ofNat_field base (by omega)]

theorem Roundtrip.xset (g : Guard) (x : Fin 4) (a : Sel) : Roundtrip.Statement (.xset g x a) :=
  fun _ _ => roundXset .xset 73 (by decide) (by decide) (fun _ => Eq.refl _) g x a

theorem Roundtrip.xadd (g : Guard) (x : Fin 4) (a : Sel) : Roundtrip.Statement (.xadd g x a) :=
  fun _ _ => roundXset .xadd 74 (by decide) (by decide) (fun _ => Eq.refl _) g x a

theorem Roundtrip.sread (h : LaneHdr) (reg : Fin 19) : Roundtrip.Statement (.sread h reg) := by
  intro _ hw
  have hr := reg.isLt
  show decodeWord (encLane 75 h reg.val 0) = _
  have ha := encLane_a (op := 75) h (x := reg.val) (y := 0) (by omega) (by omega)
  rw [decodeWord_op 75 (encLane_op h (by omega) (by omega)) (by decide) (by decide),
    show ∀ w, decodeOp 75 w = decSread w from fun _ => Eq.refl _, decSread,
    withLane_enc 75 h _ _ _ hw (by omega) (by omega), zeroField_zero _ (encLane_b h (by omega)), ha, if_pos (by omega),
    ofNat_field reg (by omega)]

theorem Roundtrip.uadd (d : Fin 32) (a b : Sel) : Roundtrip.Statement (.uadd d a b) :=
  fun _ hw => roundUni .uadd 76 (by decide) (by decide) (fun _ => Eq.refl _) d a b hw

theorem Roundtrip.usub (d : Fin 32) (a b : Sel) : Roundtrip.Statement (.usub d a b) :=
  fun _ hw => roundUni .usub 77 (by decide) (by decide) (fun _ => Eq.refl _) d a b hw

theorem Roundtrip.umul (d : Fin 32) (a b : Sel) : Roundtrip.Statement (.umul d a b) :=
  fun _ hw => roundUni .umul 78 (by decide) (by decide) (fun _ => Eq.refl _) d a b hw

theorem Roundtrip.umad (d : Fin 32) (a b : Sel) : Roundtrip.Statement (.umad d a b) :=
  fun _ hw => roundUni .umad 79 (by decide) (by decide) (fun _ => Eq.refl _) d a b hw

theorem Roundtrip.uand (d : Fin 32) (a b : Sel) : Roundtrip.Statement (.uand d a b) :=
  fun _ hw => roundUni .uand 80 (by decide) (by decide) (fun _ => Eq.refl _) d a b hw

theorem Roundtrip.uor (d : Fin 32) (a b : Sel) : Roundtrip.Statement (.uor d a b) :=
  fun _ hw => roundUni .uor 81 (by decide) (by decide) (fun _ => Eq.refl _) d a b hw

theorem Roundtrip.uxor (d : Fin 32) (a b : Sel) : Roundtrip.Statement (.uxor d a b) :=
  fun _ hw => roundUni .uxor 82 (by decide) (by decide) (fun _ => Eq.refl _) d a b hw

theorem Roundtrip.ushl (d : Fin 32) (a b : Sel) : Roundtrip.Statement (.ushl d a b) :=
  fun _ hw => roundUni .ushl 83 (by decide) (by decide) (fun _ => Eq.refl _) d a b hw

theorem Roundtrip.ushr (d : Fin 32) (a b : Sel) : Roundtrip.Statement (.ushr d a b) :=
  fun _ hw => roundUni .ushr 84 (by decide) (by decide) (fun _ => Eq.refl _) d a b hw

theorem Roundtrip.usar (d : Fin 32) (a b : Sel) : Roundtrip.Statement (.usar d a b) :=
  fun _ hw => roundUni .usar 85 (by decide) (by decide) (fun _ => Eq.refl _) d a b hw

theorem Roundtrip.umov (d : Fin 32) (a : Sel) : Roundtrip.Statement (.umov d a) := by
  intro _ hw
  have h0 := a.code_lt
  simp only [encodeWord]
  rw [decodeWord_op 86 (by omega) (by decide) (by decide), show ∀ w, decodeOp 86 w = decUmov w from fun _ => Eq.refl _, decUmov, zeroField_zero _ (by omega), withSel_code a _ (by omega) hw, ofNat_field d (by omega)]

theorem Roundtrip.uaddi (d : Fin 32) (a : Sel) (imm : BitVec 7) : Roundtrip.Statement (.uaddi d a imm) := by
  intro _ hw
  have h0 := a.code_lt
  have h1 := (show imm.toNat < 128 from imm.isLt)
  simp only [encodeWord]
  rw [decodeWord_op 87 (by omega) (by decide) (by decide), show ∀ w, decodeOp 87 w = decUaddi w from fun _ => Eq.refl _, decUaddi, zeroField_zero _ (by omega), withSel_code a _ (by omega) hw, ofNat_field d (by omega), bits_field imm (by omega)]

theorem Roundtrip.ucmps (cc : Cond) (pm : PushMode) (a b : Sel) : Roundtrip.Statement (.ucmps cc pm a b) :=
  fun _ hw => roundUcmp .ucmps 88 (by decide) (by decide) (fun _ => Eq.refl _) cc pm a b hw

theorem Roundtrip.ucmpz (cc : Cond) (pm : PushMode) (a b : Sel) : Roundtrip.Statement (.ucmpz cc pm a b) :=
  fun _ hw => roundUcmp .ucmpz 89 (by decide) (by decide) (fun _ => Eq.refl _) cc pm a b hw

theorem Roundtrip.usel (d : Fin 32) (a b : Sel) : Roundtrip.Statement (.usel d a b) :=
  fun _ hw => roundUni .usel 90 (by decide) (by decide) (fun _ => Eq.refl _) d a b hw

theorem Roundtrip.uld (d : Fin 32) (a b : Sel) : Roundtrip.Statement (.uld d a b) :=
  fun _ hw => roundUni .uld 91 (by decide) (by decide) (fun _ => Eq.refl _) d a b hw

theorem Roundtrip.bra (g : Guard) (disp : BitVec 21) : Roundtrip.Statement (.bra g disp) :=
  fun _ _ => roundBranch .bra 92 (by decide) (by decide) (fun _ => Eq.refl _) g disp

theorem Roundtrip.brx (g : Guard) (a : Sel) : Roundtrip.Statement (.brx g a) :=
  fun _ _ => roundBrx .brx 93 (by decide) (by decide) (fun _ => Eq.refl _) g a

theorem Roundtrip.call (g : Guard) (disp : BitVec 21) : Roundtrip.Statement (.call g disp) :=
  fun _ _ => roundBranch .call 94 (by decide) (by decide) (fun _ => Eq.refl _) g disp

theorem Roundtrip.callx (g : Guard) (a : Sel) : Roundtrip.Statement (.callx g a) :=
  fun _ _ => roundBrx .callx 95 (by decide) (by decide) (fun _ => Eq.refl _) g a

theorem Roundtrip.ret (g : Guard) : Roundtrip.Statement (.ret g) :=
  fun _ _ => roundRet .ret 96 (by decide) (by decide) (fun _ => Eq.refl _) g

theorem Roundtrip.exit (g : Guard) : Roundtrip.Statement (.exit g) :=
  fun _ _ => roundRet .exit 97 (by decide) (by decide) (fun _ => Eq.refl _) g

theorem Roundtrip.split (g : Guard) (j : Fin 8) : Roundtrip.Statement (.split g j) :=
  fun _ _ => roundSplit .split 98 (by decide) (by decide) (fun _ => Eq.refl _) g j

theorem Roundtrip.join (g : Guard) (j : Fin 8) : Roundtrip.Statement (.join g j) :=
  fun _ _ => roundSplit .join 99 (by decide) (by decide) (fun _ => Eq.refl _) g j

theorem Roundtrip.wait (g : Guard) (k : Fin 16) (t : Fin 64) : Roundtrip.Statement (.wait g k t) := by
  intro _ hw
  have h0 := g.code_lt
  have h1 := t.isLt
  have h2 := k.isLt
  simp only [encodeWord, encGuard]
  rw [decodeWord_op 100 (by omega) (by decide) (by decide), show ∀ w, decodeOp 100 w = decWait w from fun _ => Eq.refl _, decWait, withGuard_code g _ (by omega), zeroField_zero _ (by omega), ofNat_field k (by omega), ofNat_field t (by omega)]

theorem Roundtrip.waitmem (g : Guard) (d : Fin 64) (ab : Sel) (wide : Bool) : Roundtrip.Statement (.waitmem g d ab wide) := by
  intro _ hw
  have h0 := g.code_lt
  have h1 := ab.code_lt
  simp only [encodeWord, encGuard]
  have key : ∀ n, n = (if wide then 10 else 8) → decodeWord (101 * 33554432 + g.code * 2097152 + d.val * 2048 + ab.code * 16 + n)
      = .ok (.waitmem g d ab wide) := by
    intro n hn
    have h2 : n = 10 ∧ wide = true ∨ n = 8 ∧ wide = false := by cases wide <;> simp_all
    rw [decodeWord_op 101 (by omega) (by decide) (by decide), show ∀ w, decodeOp 101 w = decWaitmem w from fun _ => Eq.refl _,
      decWaitmem, withGuard_code g _ (by omega), zeroField_zero _ (by omega), if_pos (by omega), withSel_code ab _ (by omega) hw, ofNat_field d (by omega)]
    obtain ⟨rfl, rfl⟩ | ⟨rfl, rfl⟩ := h2
    · have e : (101 * 33554432 + g.code * 2097152 + d.val * 2048 + ab.code * 16 + 10) / 2 % 2 = 1 := by omega
      rw [e]; exact Eq.refl _
    · have e : (101 * 33554432 + g.code * 2097152 + d.val * 2048 + ab.code * 16 + 8) / 2 % 2 = 0 := by omega
      rw [e]; exact Eq.refl _
  exact key _ (Eq.refl _)

theorem Roundtrip.bari (g : Guard) (n : Fin 16) (a : Sel) : Roundtrip.Statement (.bari g n a) := by
  intro _ hw
  have h0 := g.code_lt
  have h1 := a.code_lt
  simp only [encodeWord, encGuard]
  rw [decodeWord_op 102 (by omega) (by decide) (by decide), show ∀ w, decodeOp 102 w = decBar w from fun _ => Eq.refl _, decBar, withGuard_code g _ (by omega), zeroField_zero _ (by omega)]
  have e : (102 * 33554432 + g.code * 2097152 + n.val * 131072 + a.code * 64) / 8192 % 16 = 0 := by omega
  simp only [e]
  rw [zeroField_zero _ (by omega), withSel_code a _ (by omega) hw, ofNat_field n (by omega)]

theorem Roundtrip.bara (g : Guard) (n : Fin 16) : Roundtrip.Statement (.bara g n) := by
  intro _ hw
  have h0 := g.code_lt
  simp only [encodeWord, encGuard]
  rw [decodeWord_op 102 (by omega) (by decide) (by decide), show ∀ w, decodeOp 102 w = decBar w from fun _ => Eq.refl _, decBar, withGuard_code g _ (by omega), zeroField_zero _ (by omega)]
  have e : (102 * 33554432 + g.code * 2097152 + n.val * 131072 + 8192) / 8192 % 16 = 1 := by omega
  simp only [e]
  rw [zeroField_zero _ (by omega), ofNat_field n (by omega)]

theorem Roundtrip.barw (g : Guard) (n : Fin 16) : Roundtrip.Statement (.barw g n) := by
  intro _ hw
  have h0 := g.code_lt
  simp only [encodeWord, encGuard]
  rw [decodeWord_op 102 (by omega) (by decide) (by decide), show ∀ w, decodeOp 102 w = decBar w from fun _ => Eq.refl _, decBar, withGuard_code g _ (by omega), zeroField_zero _ (by omega)]
  have e : (102 * 33554432 + g.code * 2097152 + n.val * 131072 + 16384) / 8192 % 16 = 2 := by omega
  simp only [e]
  rw [zeroField_zero _ (by omega), ofNat_field n (by omega)]

theorem Roundtrip.barrd (g : Guard) (n : Fin 16) (d : Fin 32) : Roundtrip.Statement (.barrd g n d) := by
  intro _ hw
  have h0 := g.code_lt
  simp only [encodeWord, encGuard]
  rw [decodeWord_op 102 (by omega) (by decide) (by decide), show ∀ w, decodeOp 102 w = decBar w from fun _ => Eq.refl _, decBar, withGuard_code g _ (by omega), zeroField_zero _ (by omega)]
  have e : (102 * 33554432 + g.code * 2097152 + n.val * 131072 + 24576 + d.val) / 8192 % 16 = 3 := by omega
  simp only [e]
  rw [zeroField_zero _ (by omega), ofNat_field n (by omega), ofNat_field d (by omega)]

theorem Roundtrip.qput (g : Guard) (q : Fin 4) (a : Sel) : Roundtrip.Statement (.qput g q a) :=
  fun _ _ => roundXset .qput 103 (by decide) (by decide) (fun _ => Eq.refl _) g q a

theorem Roundtrip.tkrd (h : LaneHdr) (k : Fin 16) : Roundtrip.Statement (.tkrd h k) := by
  intro _ hw
  have hk := k.isLt
  show decodeWord (encLane 104 h k.val 0) = _
  have ha := encLane_a (op := 104) h (x := k.val) (y := 0) (by omega) (by omega)
  have hb := encLane_b (op := 104) h (x := k.val) (y := 0) (by omega)
  rw [decodeWord_op 104 (encLane_op h (by omega) (by omega)) (by decide) (by decide),
    show ∀ w, decodeOp 104 w = decTkrd w from fun _ => Eq.refl _, decTkrd,
    withLane_enc 104 h _ _ _ hw (by omega) (by omega), zeroField_zero _ (by omega), ofNat_field k (by omega)]

theorem Roundtrip.nop : Roundtrip.Statement (.nop) := fun _ _ => by decide

theorem Roundtrip.ldg (h : MemHdr) (sz : Size) : Roundtrip.Statement (.ldg h sz) :=
  fun _ hw => roundMem .ldg (fun _ => true) 106 (by decide) (by decide) (fun _ => Eq.refl _) h sz (Eq.refl _) hw

theorem Roundtrip.stg (h : MemHdr) (sz : Size) : Roundtrip.Statement (.stg h sz) :=
  fun _ hw => roundMem .stg Size.okStore 107 (by decide) (by decide) (fun _ => Eq.refl _) h sz (Bool.and_eq_true _ _ ▸ hw : _ ∧ _).1 (Bool.and_eq_true _ _ ▸ hw : _ ∧ _).2

theorem Roundtrip.ldx (h : MemHdr) (sz : Size) : Roundtrip.Statement (.ldx h sz) :=
  fun _ hw => roundMem .ldx (fun _ => true) 108 (by decide) (by decide) (fun _ => Eq.refl _) h sz (Eq.refl _) hw

theorem Roundtrip.stx (h : MemHdr) (sz : Size) : Roundtrip.Statement (.stx h sz) :=
  fun _ hw => roundMem .stx Size.okStore 109 (by decide) (by decide) (fun _ => Eq.refl _) h sz (Bool.and_eq_true _ _ ▸ hw : _ ∧ _).1 (Bool.and_eq_true _ _ ▸ hw : _ ∧ _).2

theorem Roundtrip.ldf (h : MemHdr) (sz : Size) : Roundtrip.Statement (.ldf h sz) :=
  fun _ hw => roundMem .ldf (fun _ => true) 110 (by decide) (by decide) (fun _ => Eq.refl _) h sz (Eq.refl _) hw

theorem Roundtrip.stf (h : MemHdr) (sz : Size) : Roundtrip.Statement (.stf h sz) :=
  fun _ hw => roundMem .stf Size.okStore 111 (by decide) (by decide) (fun _ => Eq.refl _) h sz (Bool.and_eq_true _ _ ▸ hw : _ ∧ _).1 (Bool.and_eq_true _ _ ▸ hw : _ ∧ _).2

theorem Roundtrip.ldc (h : MemHdr) (sz : Size) : Roundtrip.Statement (.ldc h sz) :=
  fun _ hw => roundMem .ldc (fun _ => true) 112 (by decide) (by decide) (fun _ => Eq.refl _) h sz (Eq.refl _) hw

theorem Roundtrip.atom (h : MemHdr) (af : AtomFn) : Roundtrip.Statement (.atom h af) :=
  fun _ hw => roundAtom .atom (fun _ => true) 113 (by decide) (by decide) (fun _ => Eq.refl _) h af (Eq.refl _) hw

theorem Roundtrip.atomn (h : MemHdr) (af : AtomFn) : Roundtrip.Statement (.atomn h af) :=
  fun _ hw => roundAtom .atomn AtomFn.okNoResult 114 (by decide) (by decide) (fun _ => Eq.refl _) h af (Bool.and_eq_true _ _ ▸ hw : _ ∧ _).1 (Bool.and_eq_true _ _ ▸ hw : _ ∧ _).2

theorem Roundtrip.fence (g : Guard) (o : Order) (sc : Scope) : Roundtrip.Statement (.fence g o sc) := by
  intro _ hw
  have h0 := g.code_lt
  have h1 := sc.code_lt
  have h2 := o.code_lt
  simp only [encodeWord, encGuard]
  rw [decodeWord_op 115 (by omega) (by decide) (by decide), show ∀ w, decodeOp 115 w = decFence w from fun _ => Eq.refl _,
    decFence, withGuard_code g _ (by omega), zeroField_zero _ (by omega)]
  have e1 : (115 * 33554432 + g.code * 2097152 + o.code * 16384 + sc.code * 2048) / 2048 % 8 = sc.code := by omega
  have e2 : (115 * 33554432 + g.code * 2097152 + o.code * 16384 + sc.code * 2048) / 16384 % 4 = o.code := by omega
  have e3 : (115 * 33554432 + g.code * 2097152 + o.code * 16384 + sc.code * 2048) / 2 % 8 = 0 := by omega
  simp only [e1, e2, e3, scopeOf_code, orderOf_code]
  cases o
  · exact absurd hw Bool.false_ne_true
  all_goals exact Eq.refl _

theorem Roundtrip.ifence (g : Guard) (sc : Scope) : Roundtrip.Statement (.ifence g sc) := by
  intro _ _
  have h0 := g.code_lt
  have h1 := sc.code_lt
  simp only [encodeWord, encGuard]
  rw [decodeWord_op 115 (by omega) (by decide) (by decide), show ∀ w, decodeOp 115 w = decFence w from fun _ => Eq.refl _]
  have e3 : (115 * 33554432 + g.code * 2097152 + sc.code * 2048 + 2) / 16384 % 4 = 0 := by omega
  have e4 : (115 * 33554432 + g.code * 2097152 + sc.code * 2048 + 2) / 2 % 8 = 1 := by omega
  exact decFence_ifence g sc (by omega) (by omega) (by omega) e3 e4

theorem Roundtrip.allowInit (h : MemHdr) : Roundtrip.Statement (.allowInit h) :=
  fun _ hw => roundAllow decAllow .allowInit 116 0 (by decide) (by decide) (by decide) (fun _ => Eq.refl _)
    (fun w g hg h0 hn => by rw [decAllow, withGuard_code g _ hg, zeroField_zero _ h0]; simp only [hn]) h hw

theorem Roundtrip.allowTake (h : MemHdr) : Roundtrip.Statement (.allowTake h) :=
  fun _ hw => roundAllow decAllow .allowTake 116 1 (by decide) (by decide) (by decide) (fun _ => Eq.refl _)
    (fun w g hg h0 hn => by rw [decAllow, withGuard_code g _ hg, zeroField_zero _ h0]; simp only [hn]) h hw

theorem Roundtrip.allowGive (h : MemHdr) : Roundtrip.Statement (.allowGive h) :=
  fun _ hw => roundAllow decAllow .allowGive 116 2 (by decide) (by decide) (by decide) (fun _ => Eq.refl _)
    (fun w g hg h0 hn => by rw [decAllow, withGuard_code g _ hg, zeroField_zero _ h0]; simp only [hn]) h hw

theorem Roundtrip.allowExact (h : MemHdr) : Roundtrip.Statement (.allowExact h) :=
  fun _ hw => roundAllow decAllow .allowExact 116 3 (by decide) (by decide) (by decide) (fun _ => Eq.refl _)
    (fun w g hg h0 hn => by rw [decAllow, withGuard_code g _ hg, zeroField_zero _ h0]; simp only [hn]) h hw

theorem Roundtrip.allowProbe (h : MemHdr) : Roundtrip.Statement (.allowProbe h) :=
  fun _ hw => roundAllow decAllow .allowProbe 116 4 (by decide) (by decide) (by decide) (fun _ => Eq.refl _)
    (fun w g hg h0 hn => by rw [decAllow, withGuard_code g _ hg, zeroField_zero _ h0]; simp only [hn]) h hw

theorem Roundtrip.cachePref (h : MemHdr) : Roundtrip.Statement (.cachePref h) :=
  fun _ hw => roundAllow decCache .cachePref 117 0 (by decide) (by decide) (by decide) (fun _ => Eq.refl _)
    (fun w g hg h0 hn => by rw [decCache, withGuard_code g _ hg, zeroField_zero _ h0]; simp only [hn]) h hw

theorem Roundtrip.cacheClean (h : MemHdr) : Roundtrip.Statement (.cacheClean h) :=
  fun _ hw => roundAllow decCache .cacheClean 117 1 (by decide) (by decide) (by decide) (fun _ => Eq.refl _)
    (fun w g hg h0 hn => by rw [decCache, withGuard_code g _ hg, zeroField_zero _ h0]; simp only [hn]) h hw

theorem Roundtrip.cacheDiscard (h : MemHdr) : Roundtrip.Statement (.cacheDiscard h) :=
  fun _ hw => roundAllow decCache .cacheDiscard 117 2 (by decide) (by decide) (by decide) (fun _ => Eq.refl _)
    (fun w g hg h0 hn => by rw [decCache, withGuard_code g _ hg, zeroField_zero _ h0]; simp only [hn]) h hw

theorem Roundtrip.cacheIcinv (h : MemHdr) : Roundtrip.Statement (.cacheIcinv h) :=
  fun _ hw => roundAllow decCache .cacheIcinv 117 3 (by decide) (by decide) (by decide) (fun _ => Eq.refl _)
    (fun w g hg h0 hn => by rw [decCache, withGuard_code g _ hg, zeroField_zero _ h0]; simp only [hn]) h hw

theorem Roundtrip.xload (h : EngHdr) : Roundtrip.Statement (.xload h) :=
  fun _ hw => roundEng decXcopy .xload 118 0 (by decide) (by decide) (by decide) (fun _ => Eq.refl _)
    (fun w hg h0 hn => by rw [decXcopy, if_neg (by omega), noGuard_zero _ hg, zeroField_zero _ h0]; simp only [hn]) h hw

theorem Roundtrip.xstore (h : EngHdr) : Roundtrip.Statement (.xstore h) :=
  fun _ hw => roundEng decXcopy .xstore 118 1 (by decide) (by decide) (by decide) (fun _ => Eq.refl _)
    (fun w hg h0 hn => by rw [decXcopy, if_neg (by omega), noGuard_zero _ hg, zeroField_zero _ h0]; simp only [hn]) h hw

theorem Roundtrip.xmove (h : EngHdr) : Roundtrip.Statement (.xmove h) :=
  fun _ hw => roundEng decXcopy .xmove 118 2 (by decide) (by decide) (by decide) (fun _ => Eq.refl _)
    (fun w hg h0 hn => by rw [decXcopy, if_neg (by omega), noGuard_zero _ hg, zeroField_zero _ h0]; simp only [hn]) h hw

theorem Roundtrip.xgather (h : GEngHdr) : Roundtrip.Statement (.xgather h) :=
  fun _ hw => roundGEng decXcopy .xgather 118 3 (by decide) (by decide) (by decide) (fun _ => Eq.refl _)
    (fun w g hg h0 hn => by rw [decXcopy, if_pos hn, withGuard_code g _ hg, zeroField_zero _ h0]) h hw

theorem Roundtrip.xfill (h : EngHdr) : Roundtrip.Statement (.xfill h) :=
  fun _ hw => roundEng decXcopy .xfill 118 4 (by decide) (by decide) (by decide) (fun _ => Eq.refl _)
    (fun w hg h0 hn => by rw [decXcopy, if_neg (by omega), noGuard_zero _ hg, zeroField_zero _ h0]; simp only [hn]) h hw

theorem Roundtrip.xpub (k : Fin 16) (c : Fin 32) : Roundtrip.Statement (.xpub k c) := by
  intro _ hw
  have h0 := k.isLt
  have h1 := c.isLt
  simp only [encodeWord]
  rw [decodeWord_op 119 (by omega) (by decide) (by decide), show ∀ w, decodeOp 119 w = decXpub w from fun _ => Eq.refl _, decXpub, noGuard_zero _ (by omega), zeroField_zero _ (by omega), if_pos (by omega), ofNat_field k (by omega), ofNat_field c (by omega)]

theorem Roundtrip.mclaim (k : Fin 16) : Roundtrip.Statement (.mclaim k) := by
  intro _ hw
  have h0 := k.isLt
  simp only [encodeWord]
  rw [decodeWord_op 120 (by omega) (by decide) (by decide), show ∀ w, decodeOp 120 w = decMatrix w from fun _ => Eq.refl _, decMatrix, noGuard_zero _ (by omega), zeroField_zero _ (by omega)]
  have e : (120 * 33554432 + k.val * 131072 + 0) / 8192 % 16 = 0 := by omega
  simp only [e]
  rw [zeroField_zero _ (by omega), ofNat_field k (by omega)]

theorem Roundtrip.mrel (k : Fin 16) : Roundtrip.Statement (.mrel k) := by
  intro _ hw
  have h0 := k.isLt
  simp only [encodeWord]
  rw [decodeWord_op 120 (by omega) (by decide) (by decide), show ∀ w, decodeOp 120 w = decMatrix w from fun _ => Eq.refl _, decMatrix, noGuard_zero _ (by omega), zeroField_zero _ (by omega)]
  have e : (120 * 33554432 + k.val * 131072 + 8192) / 8192 % 16 = 1 := by omega
  simp only [e]
  rw [zeroField_zero _ (by omega), ofNat_field k (by omega)]

theorem Roundtrip.mldw (h : EngHdr) : Roundtrip.Statement (.mldw h) :=
  fun _ hw => roundEng decMatrix .mldw 120 2 (by decide) (by decide) (by decide) (fun _ => Eq.refl _)
    (fun w hg h0 hn => by rw [decMatrix, noGuard_zero _ hg, zeroField_zero _ h0]; simp only [hn]) h hw

theorem Roundtrip.mswap (k : Fin 16) : Roundtrip.Statement (.mswap k) := by
  intro _ hw
  have h0 := k.isLt
  simp only [encodeWord]
  rw [decodeWord_op 120 (by omega) (by decide) (by decide), show ∀ w, decodeOp 120 w = decMatrix w from fun _ => Eq.refl _, decMatrix, noGuard_zero _ (by omega), zeroField_zero _ (by omega)]
  have e : (120 * 33554432 + k.val * 131072 + 24576) / 8192 % 16 = 3 := by omega
  simp only [e]
  rw [zeroField_zero _ (by omega), ofNat_field k (by omega)]

theorem Roundtrip.mstream (h : EngHdr) : Roundtrip.Statement (.mstream h) :=
  fun _ hw => roundEng decMatrix .mstream 120 4 (by decide) (by decide) (by decide) (fun _ => Eq.refl _)
    (fun w hg h0 hn => by rw [decMatrix, noGuard_zero _ hg, zeroField_zero _ h0]; simp only [hn]) h hw

theorem Roundtrip.mzero (h : EngHdr) : Roundtrip.Statement (.mzero h) :=
  fun _ hw => roundEng decMatrix .mzero 120 5 (by decide) (by decide) (by decide) (fun _ => Eq.refl _)
    (fun w hg h0 hn => by rw [decMatrix, noGuard_zero _ hg, zeroField_zero _ h0]; simp only [hn]) h hw

theorem Roundtrip.mstore (h : EngHdr) : Roundtrip.Statement (.mstore h) :=
  fun _ hw => roundEng decMatrix .mstore 120 6 (by decide) (by decide) (by decide) (fun _ => Eq.refl _)
    (fun w hg h0 hn => by rw [decMatrix, noGuard_zero _ hg, zeroField_zero _ h0]; simp only [hn]) h hw

theorem Roundtrip.mstat (k : Fin 16) (c : Fin 32) : Roundtrip.Statement (.mstat k c) := by
  intro _ hw
  have h0 := k.isLt
  simp only [encodeWord]
  rw [decodeWord_op 120 (by omega) (by decide) (by decide), show ∀ w, decodeOp 120 w = decMatrix w from fun _ => Eq.refl _, decMatrix, noGuard_zero _ (by omega), zeroField_zero _ (by omega)]
  have e : (120 * 33554432 + k.val * 131072 + 57344 + c.val) / 8192 % 16 = 7 := by omega
  simp only [e]
  rw [zeroField_zero _ (by omega), ofNat_field k (by omega), ofNat_field c (by omega)]

theorem Roundtrip.bxsend (h : EngHdr) : Roundtrip.Statement (.bxsend h) :=
  fun _ hw => roundEng decBulk .bxsend 121 0 (by decide) (by decide) (by decide) (fun _ => Eq.refl _)
    (fun w hg h0 hn => by rw [decBulk, noGuard_zero _ hg, zeroField_zero _ h0]; simp only [hn]) h hw

theorem Roundtrip.bxrecv (h : EngHdr) : Roundtrip.Statement (.bxrecv h) :=
  fun _ hw => roundEng decBulk .bxrecv 121 1 (by decide) (by decide) (by decide) (fun _ => Eq.refl _)
    (fun w hg h0 hn => by rw [decBulk, noGuard_zero _ hg, zeroField_zero _ h0]; simp only [hn]) h hw

theorem Roundtrip.bxcancel (h : EngHdr) : Roundtrip.Statement (.bxcancel h) :=
  fun _ hw => roundEng decBulk .bxcancel 121 2 (by decide) (by decide) (by decide) (fun _ => Eq.refl _)
    (fun w hg h0 hn => by rw [decBulk, noGuard_zero _ hg, zeroField_zero _ h0]; simp only [hn]) h hw

theorem Roundtrip.bxstat (h : EngHdr) : Roundtrip.Statement (.bxstat h) :=
  fun _ hw => roundEng decBulk .bxstat 121 3 (by decide) (by decide) (by decide) (fun _ => Eq.refl _)
    (fun w hg h0 hn => by rw [decBulk, noGuard_zero _ hg, zeroField_zero _ h0]; simp only [hn]) h hw

theorem Roundtrip.hinst (h : EffHdr) : Roundtrip.Statement (.hinst h) :=
  fun _ hw => roundEff decEffect .hinst 122 0 (by decide) (by decide) (by decide) (fun _ => Eq.refl _)
    (fun w g hg h0 hk hn => by rw [decEffect, withGuard_code g _ hg, zeroField_zero _ h0]; simp only [hn]) h hw

theorem Roundtrip.hpop (g : Guard) : Roundtrip.Statement (.hpop g) := by
  intro _ hw
  have h0 := g.code_lt
  simp only [encodeWord, encGuard]
  rw [decodeWord_op 122 (by omega) (by decide) (by decide), show ∀ w, decodeOp 122 w = decEffect w from fun _ => Eq.refl _, decEffect, withGuard_code g _ (by omega), zeroField_zero _ (by omega)]
  have e : (122 * 33554432 + g.code * 2097152 + 8192) / 8192 % 16 = 1 := by omega
  simp only [e]
  rw [zeroField_zero _ (by omega)]

theorem Roundtrip.perform (h : EffHdr) : Roundtrip.Statement (.perform h) :=
  fun _ hw => roundEff decEffect .perform 122 2 (by decide) (by decide) (by decide) (fun _ => Eq.refl _)
    (fun w g hg h0 hk hn => by rw [decEffect, withGuard_code g _ hg, zeroField_zero _ h0]; simp only [hn]) h hw

theorem Roundtrip.resume (h : EffHdr) : Roundtrip.Statement (.resume h) :=
  fun _ hw => roundEff decEffect .resume 122 3 (by decide) (by decide) (by decide) (fun _ => Eq.refl _)
    (fun w g hg h0 hk hn => by rw [decEffect, withGuard_code g _ hg, zeroField_zero _ h0]; simp only [hn]) h hw

theorem Roundtrip.drop (g : Guard) (k : Fin 16) (a : Sel) : Roundtrip.Statement (.drop g k a) := by
  intro _ hw
  have h0 := g.code_lt
  have h1 := a.code_lt
  simp only [encodeWord, encGuard]
  rw [decodeWord_op 122 (by omega) (by decide) (by decide), show ∀ w, decodeOp 122 w = decEffect w from fun _ => Eq.refl _, decEffect, withGuard_code g _ (by omega), zeroField_zero _ (by omega)]
  have e : (122 * 33554432 + g.code * 2097152 + k.val * 131072 + 32768 + a.code * 64) / 8192 % 16 = 4 := by omega
  simp only [e]
  rw [zeroField_zero _ (by omega), withSel_code a _ (by omega) hw, ofNat_field k (by omega)]

theorem Roundtrip.kstat (h : GEngHdr) : Roundtrip.Statement (.kstat h) :=
  fun _ hw => roundGEng decEffect .kstat 122 5 (by decide) (by decide) (by decide) (fun _ => Eq.refl _)
    (fun w g hg h0 hn => by rw [decEffect, withGuard_code g _ hg, zeroField_zero _ h0]; simp only [hn]) h hw

theorem Roundtrip.kpack (h : GEngHdr) : Roundtrip.Statement (.kpack h) :=
  fun _ hw => roundGEng decEffect .kpack 122 6 (by decide) (by decide) (by decide) (fun _ => Eq.refl _)
    (fun w g hg h0 hn => by rw [decEffect, withGuard_code g _ hg, zeroField_zero _ h0]; simp only [hn]) h hw

theorem Roundtrip.kunpack (h : GEngHdr) : Roundtrip.Statement (.kunpack h) :=
  fun _ hw => roundGEng decEffect .kunpack 122 7 (by decide) (by decide) (by decide) (fun _ => Eq.refl _)
    (fun w g hg h0 hn => by rw [decEffect, withGuard_code g _ hg, zeroField_zero _ h0]; simp only [hn]) h hw

theorem Roundtrip.spawn (h : EffHdr) : Roundtrip.Statement (.spawn h) :=
  fun _ hw => roundEff decSpawn .spawn 123 0 (by decide) (by decide) (by decide) (fun _ => Eq.refl _)
    (fun w g hg h0 hk hn => by rw [decSpawn, withGuard_code g _ hg, zeroField_zero _ (by omega), if_pos hn]) h hw

theorem Roundtrip.segw (a : Sel) (c : Fin 32) : Roundtrip.Statement (.segw a c) := by
  intro _ hw
  have h0 := a.code_lt
  have h1 := c.isLt
  simp only [encodeWord]
  rw [decodeWord_op 124 (by omega) (by decide) (by decide), show ∀ w, decodeOp 124 w = decSys w from fun _ => Eq.refl _, decSys, noGuard_zero _ (by omega), zeroField_zero _ (by omega)]
  have e : (124 * 33554432 + 0 + a.code * 64 + c.val) / 8192 % 16 = 0 := by omega
  simp only [e]
  rw [withSel_code a _ (by omega) hw, ofNat_field c (by omega)]

theorem Roundtrip.segr (a : Sel) (c : Fin 32) : Roundtrip.Statement (.segr a c) := by
  intro _ hw
  have h0 := a.code_lt
  have h1 := c.isLt
  simp only [encodeWord]
  rw [decodeWord_op 124 (by omega) (by decide) (by decide), show ∀ w, decodeOp 124 w = decSys w from fun _ => Eq.refl _, decSys, noGuard_zero _ (by omega), zeroField_zero _ (by omega)]
  have e : (124 * 33554432 + 8192 + a.code * 64 + c.val) / 8192 % 16 = 1 := by omega
  simp only [e]
  rw [withSel_code a _ (by omega) hw, ofNat_field c (by omega)]

theorem Roundtrip.csrr (a : Sel) (c : Fin 32) : Roundtrip.Statement (.csrr a c) := by
  intro _ hw
  have h0 := a.code_lt
  have h1 := c.isLt
  simp only [encodeWord]
  rw [decodeWord_op 124 (by omega) (by decide) (by decide), show ∀ w, decodeOp 124 w = decSys w from fun _ => Eq.refl _, decSys, noGuard_zero _ (by omega), zeroField_zero _ (by omega)]
  have e : (124 * 33554432 + 16384 + a.code * 64 + c.val) / 8192 % 16 = 2 := by omega
  simp only [e]
  rw [withSel_code a _ (by omega) hw, ofNat_field c (by omega)]

theorem Roundtrip.csrw (a : Sel) (c : Fin 32) : Roundtrip.Statement (.csrw a c) := by
  intro _ hw
  have h0 := a.code_lt
  have h1 := c.isLt
  simp only [encodeWord]
  rw [decodeWord_op 124 (by omega) (by decide) (by decide), show ∀ w, decodeOp 124 w = decSys w from fun _ => Eq.refl _, decSys, noGuard_zero _ (by omega), zeroField_zero _ (by omega)]
  have e : (124 * 33554432 + 24576 + a.code * 64 + c.val) / 8192 % 16 = 3 := by omega
  simp only [e]
  rw [withSel_code a _ (by omega) hw, ofNat_field c (by omega)]

theorem Roundtrip.eret (c : Fin 32) : Roundtrip.Statement (.eret c) := by
  intro _ hw
  have h0 := c.isLt
  simp only [encodeWord]
  rw [decodeWord_op 124 (by omega) (by decide) (by decide), show ∀ w, decodeOp 124 w = decSys w from fun _ => Eq.refl _, decSys, noGuard_zero _ (by omega), zeroField_zero _ (by omega)]
  have e : (124 * 33554432 + 32768 + c.val) / 8192 % 16 = 4 := by omega
  simp only [e]
  rw [zeroField_zero _ (by omega), ofNat_field c (by omega)]

theorem Roundtrip.trap (a : Sel) : Roundtrip.Statement (.trap a) := by
  intro _ hw
  have h0 := a.code_lt
  simp only [encodeWord]
  rw [decodeWord_op 124 (by omega) (by decide) (by decide), show ∀ w, decodeOp 124 w = decSys w from fun _ => Eq.refl _, decSys, noGuard_zero _ (by omega), zeroField_zero _ (by omega)]
  have e : (124 * 33554432 + 40960 + a.code * 64) / 8192 % 16 = 5 := by omega
  simp only [e]
  rw [zeroField_zero _ (by omega), withSel_code a _ (by omega) hw]

theorem Roundtrip.intr (a : Sel) : Roundtrip.Statement (.intr a) := by
  intro _ hw
  have h0 := a.code_lt
  simp only [encodeWord]
  rw [decodeWord_op 124 (by omega) (by decide) (by decide), show ∀ w, decodeOp 124 w = decSys w from fun _ => Eq.refl _, decSys, noGuard_zero _ (by omega), zeroField_zero _ (by omega)]
  have e : (124 * 33554432 + 49152 + a.code * 64) / 8192 % 16 = 6 := by omega
  simp only [e]
  rw [zeroField_zero _ (by omega), withSel_code a _ (by omega) hw]

theorem Roundtrip.halt : Roundtrip.Statement (.halt) := fun _ _ => by decide

theorem Roundtrip.hintImm (imm : BitVec 22) : Roundtrip.Statement (.hintImm imm) := by
  intro _ hw
  have h0 := (show imm.toNat < 4194304 from imm.isLt)
  simp only [encodeWord]
  rw [decodeWord_op 126 (by omega) (by decide) (by decide), show ∀ w, decodeOp 126 w = decHint w from fun _ => Eq.refl _, decHint]
  have e : (126 * 33554432 + imm.toNat) / 4194304 % 8 = 0 := by omega
  simp only [e]
  rw [bits_field imm (by omega)]

theorem Roundtrip.hintImmx (imm : BitVec 10) : Roundtrip.Statement (.hintImmx imm) := by
  intro _ hw
  have h0 := (show imm.toNat < 1024 from imm.isLt)
  simp only [encodeWord]
  rw [decodeWord_op 126 (by omega) (by decide) (by decide), show ∀ w, decodeOp 126 w = decHint w from fun _ => Eq.refl _, decHint]
  have e : (126 * 33554432 + 4194304 + imm.toNat) / 4194304 % 8 = 1 := by omega
  simp only [e]
  rw [if_pos (by omega), bits_field imm (by omega)]

theorem Roundtrip.hintMod (hi : BitVec 6) (emod : BitVec 4) (strict : Bool) (cp : BitVec 2) (scope ord : BitVec 3) (sat : Bool) (rm : BitVec 2) : Roundtrip.Statement (.hintMod hi emod strict cp scope ord sat rm) := by
  intro _ hw
  have h0 := (show hi.toNat < 64 from hi.isLt)
  have h1 := (show emod.toNat < 16 from emod.isLt)
  have h2 := (Bool.toNat_le strict)
  have h3 := (show cp.toNat < 4 from cp.isLt)
  have h4 := (show scope.toNat < 8 from scope.isLt)
  have h5 := (show ord.toNat < 8 from ord.isLt)
  have h6 := (Bool.toNat_le sat)
  have h7 := (show rm.toNat < 4 from rm.isLt)
  simp only [encodeWord]
  rw [decodeWord_op 126 (by omega) (by decide) (by decide), show ∀ w, decodeOp 126 w = decHint w from fun _ => Eq.refl _, decHint]
  have e : (126 * 33554432 + 8388608 + hi.toNat * 65536 + emod.toNat * 4096 + strict.toNat * 2048 + cp.toNat * 512 + scope.toNat * 64
      + ord.toNat * 8 + sat.toNat * 4 + rm.toNat) / 4194304 % 8 = 2 := by omega
  simp only [e]
  have es : (126 * 33554432 + 8388608 + hi.toNat * 65536 + emod.toNat * 4096 + strict.toNat * 2048 + cp.toNat * 512 + scope.toNat * 64
      + ord.toNat * 8 + sat.toNat * 4 + rm.toNat) / 2048 % 2 = strict.toNat := by omega
  have et : (126 * 33554432 + 8388608 + hi.toNat * 65536 + emod.toNat * 4096 + strict.toNat * 2048 + cp.toNat * 512 + scope.toNat * 64
      + ord.toNat * 8 + sat.toNat * 4 + rm.toNat) / 4 % 2 = sat.toNat := by omega
  have bs : ∀ b : Bool, (b.toNat == 1) = b := by decide
  rw [bits_field hi (by omega), bits_field emod (by omega), bits_field cp (by omega), bits_field scope (by omega),
    bits_field ord (by omega), bits_field rm (by omega), es, et, bs, bs]

theorem Roundtrip.hintSched (long : Bool) (pv : Bool) (phase : BitVec 4) : Roundtrip.Statement (.hintSched long pv phase) := by
  intro _ hw
  have h0 := (Bool.toNat_le long)
  have h1 := (Bool.toNat_le pv)
  have h2 := (show phase.toNat < 16 from phase.isLt)
  simp only [encodeWord]
  rw [decodeWord_op 126 (by omega) (by decide) (by decide), show ∀ w, decodeOp 126 w = decHint w from fun _ => Eq.refl _, decHint]
  have e : (126 * 33554432 + 12582912 + long.toNat * 32 + pv.toNat * 16 + phase.toNat) / 4194304 % 8 = 3 := by omega
  simp only [e]
  have el : (126 * 33554432 + 12582912 + long.toNat * 32 + pv.toNat * 16 + phase.toNat) / 32 % 2 = long.toNat := by omega
  have ep : (126 * 33554432 + 12582912 + long.toNat * 32 + pv.toNat * 16 + phase.toNat) / 16 % 2 = pv.toNat := by omega
  have bs : ∀ b : Bool, (b.toNat == 1) = b := by decide
  have hp : pv.toNat = 1 ∨ phase.toNat = 0 := by
    cases pv
    · right
      have : phase = 0 := by simpa [Instr.wellFormed] using hw
      rw [this]; exact Eq.refl _
    · left; exact Eq.refl _
  rw [if_pos ⟨by omega, by omega⟩, bits_field phase (by omega), el, ep, bs, bs]

theorem Roundtrip.hintDly (n : BitVec 5) : Roundtrip.Statement (.hintDly n) := by
  intro _ hw
  have h0 := (show n.toNat < 32 from n.isLt)
  simp only [encodeWord]
  rw [decodeWord_op 126 (by omega) (by decide) (by decide), show ∀ w, decodeOp 126 w = decHint w from fun _ => Eq.refl _, decHint]
  have e : (126 * 33554432 + 16777216 + n.toNat) / 4194304 % 8 = 4 := by omega
  simp only [e]
  rw [if_pos (by omega), bits_field n (by omega)]

theorem Roundtrip.completion (op : Nat) : Roundtrip.Statement (.completion op) :=
  fun h _ => (Bool.false_ne_true h).elim

theorem Roundtrip.transientFault (op : Nat) : Roundtrip.Statement (.transientFault op) :=
  fun h _ => (Bool.false_ne_true h).elim

theorem Roundtrip.uncorrectableError (site : PoisonSite) : Roundtrip.Statement (.uncorrectableError site) :=
  fun h _ => (Bool.false_ne_true h).elim

theorem Roundtrip.mergeAtHome (agent line : Nat) : Roundtrip.Statement (.mergeAtHome agent line) :=
  fun h _ => (Bool.false_ne_true h).elim

theorem Roundtrip.atomicAtHome (op : Nat) : Roundtrip.Statement (.atomicAtHome op) :=
  fun h _ => (Bool.false_ne_true h).elim

theorem Roundtrip.drainRequest (agent : Nat) : Roundtrip.Statement (.drainRequest agent) :=
  fun h _ => (Bool.false_ne_true h).elim

theorem Roundtrip.cleanByteExpiry (agent : Nat) : Roundtrip.Statement (.cleanByteExpiry agent) :=
  fun h _ => (Bool.false_ne_true h).elim

theorem Roundtrip.leaseExpiry : Roundtrip.Statement (.leaseExpiry) :=
  fun h _ => (Bool.false_ne_true h).elim

theorem Roundtrip.walkDone (op : Nat) : Roundtrip.Statement (.walkDone op) :=
  fun h _ => (Bool.false_ne_true h).elim

theorem Roundtrip.pageRequestResponse (req : Nat) (reply : PageReply) : Roundtrip.Statement (.pageRequestResponse req reply) :=
  fun h _ => (Bool.false_ne_true h).elim

theorem Roundtrip.pageRequestTimeout (req : Nat) : Roundtrip.Statement (.pageRequestTimeout req) :=
  fun h _ => (Bool.false_ne_true h).elim

theorem Roundtrip.xlFlush (w : FlushWrite) (pasid : Nat) : Roundtrip.Statement (.xlFlush w pasid) :=
  fun h _ => (Bool.false_ne_true h).elim

theorem Roundtrip.flushDone : Roundtrip.Statement (.flushDone) :=
  fun h _ => (Bool.false_ne_true h).elim

theorem Roundtrip.powerGate (u : GateUnit) : Roundtrip.Statement (.powerGate u) :=
  fun h _ => (Bool.false_ne_true h).elim

theorem Roundtrip.unitWake (u : GateUnit) : Roundtrip.Statement (.unitWake u) :=
  fun h _ => (Bool.false_ne_true h).elim

theorem Roundtrip.allowHomeRequest (op : Nat) : Roundtrip.Statement (.allowHomeRequest op) :=
  fun h _ => (Bool.false_ne_true h).elim

theorem Roundtrip.slotReturn (core addr : Nat) : Roundtrip.Statement (.slotReturn core addr) :=
  fun h _ => (Bool.false_ne_true h).elim

theorem Roundtrip.joinNotice (op : Nat) : Roundtrip.Statement (.joinNotice op) :=
  fun h _ => (Bool.false_ne_true h).elim

theorem Roundtrip.hostSnoop (line : Nat) : Roundtrip.Statement (.hostSnoop line) :=
  fun h _ => (Bool.false_ne_true h).elim

theorem Roundtrip.ownershipResponse (line : Nat) (granted : Bool) : Roundtrip.Statement (.ownershipResponse line granted) :=
  fun h _ => (Bool.false_ne_true h).elim

theorem Roundtrip.backInvalidateDone (line : Nat) : Roundtrip.Statement (.backInvalidateDone line) :=
  fun h _ => (Bool.false_ne_true h).elim

theorem Roundtrip.hostWrite (head : Fin 2) (addr : Nat) (act : HostAct) (order : Bool) : Roundtrip.Statement (.hostWrite head addr act order) :=
  fun h _ => (Bool.false_ne_true h).elim

theorem Roundtrip.schedulingRound (die : Nat) : Roundtrip.Statement (.schedulingRound die) :=
  fun h _ => (Bool.false_ne_true h).elim

theorem Roundtrip.copyStart (crew : Nat) : Roundtrip.Statement (.copyStart crew) :=
  fun h _ => (Bool.false_ne_true h).elim

theorem Roundtrip.claimGrant (cluster : Nat) : Roundtrip.Statement (.claimGrant cluster) :=
  fun h _ => (Bool.false_ne_true h).elim

theorem Roundtrip.matrixOpStart (cluster : Nat) (u : MatrixUnit) : Roundtrip.Statement (.matrixOpStart cluster u) :=
  fun h _ => (Bool.false_ne_true h).elim

theorem Roundtrip.bulkRequest (id : MsgId) (len pri : Nat) (port : Nat) (bytes : List Byte) : Roundtrip.Statement (.bulkRequest id len pri port bytes) :=
  fun h _ => (Bool.false_ne_true h).elim

theorem Roundtrip.requestRetry (send : Nat) : Roundtrip.Statement (.requestRetry send) :=
  fun h _ => (Bool.false_ne_true h).elim

theorem Roundtrip.grantIssue (port : Nat) : Roundtrip.Statement (.grantIssue port) :=
  fun h _ => (Bool.false_ne_true h).elim

theorem Roundtrip.grantArrival (send : Nat) (r : GrantRange) : Roundtrip.Statement (.grantArrival send r) :=
  fun h _ => (Bool.false_ne_true h).elim

theorem Roundtrip.bulkData (id : MsgId) (off epoch : Nat) (bytes : List Byte) : Roundtrip.Statement (.bulkData id off epoch bytes) :=
  fun h _ => (Bool.false_ne_true h).elim

theorem Roundtrip.grantExpiry (msg grant : Nat) : Roundtrip.Statement (.grantExpiry msg grant) :=
  fun h _ => (Bool.false_ne_true h).elim

theorem Roundtrip.pause (id : MsgId) : Roundtrip.Statement (.pause id) :=
  fun h _ => (Bool.false_ne_true h).elim

theorem Roundtrip.bulkResume (id : MsgId) (off : Nat) : Roundtrip.Statement (.bulkResume id off) :=
  fun h _ => (Bool.false_ne_true h).elim

theorem Roundtrip.doneNotice (send : Nat) : Roundtrip.Statement (.doneNotice send) :=
  fun h _ => (Bool.false_ne_true h).elim

theorem Roundtrip.truncatedNotice (send : Nat) : Roundtrip.Statement (.truncatedNotice send) :=
  fun h _ => (Bool.false_ne_true h).elim

theorem Roundtrip.orphanedNotice (send : Nat) : Roundtrip.Statement (.orphanedNotice send) :=
  fun h _ => (Bool.false_ne_true h).elim

theorem Roundtrip.cancelledNotice (id : MsgId) (toSender : Bool) : Roundtrip.Statement (.cancelledNotice id toSender) :=
  fun h _ => (Bool.false_ne_true h).elim

theorem Roundtrip.peerFaultNotice (id : MsgId) (toSender : Bool) : Roundtrip.Statement (.peerFaultNotice id toSender) :=
  fun h _ => (Bool.false_ne_true h).elim

theorem Roundtrip.sourcePathLoss (msg : Nat) : Roundtrip.Statement (.sourcePathLoss msg) :=
  fun h _ => (Bool.false_ne_true h).elim

theorem Roundtrip.sendUnreachable (send : Nat) : Roundtrip.Statement (.sendUnreachable send) :=
  fun h _ => (Bool.false_ne_true h).elim

theorem Roundtrip.linkFrame (port seq ack : Nat) (body : LinkBody) : Roundtrip.Statement (.linkFrame port seq ack body) :=
  fun h _ => (Bool.false_ne_true h).elim

theorem Roundtrip.ackTimeout (port : Nat) : Roundtrip.Statement (.ackTimeout port) :=
  fun h _ => (Bool.false_ne_true h).elim

theorem Roundtrip.linkUpRetry (port : Nat) : Roundtrip.Statement (.linkUpRetry port) :=
  fun h _ => (Bool.false_ne_true h).elim

theorem Roundtrip.linkUp (port maj min lowMaj rtt : Nat) : Roundtrip.Statement (.linkUp port maj min lowMaj rtt) :=
  fun h _ => (Bool.false_ne_true h).elim

theorem Roundtrip.notify (head : Fin 2) (q wptr : Nat) : Roundtrip.Statement (.notify head q wptr) :=
  fun h _ => (Bool.false_ne_true h).elim

theorem Roundtrip.slotRead (q : Nat) : Roundtrip.Statement (.slotRead q) :=
  fun h _ => (Bool.false_ne_true h).elim

theorem Roundtrip.packetStart (q idx : Nat) : Roundtrip.Statement (.packetStart q idx) :=
  fun h _ => (Bool.false_ne_true h).elim

theorem Roundtrip.nopPacket (q idx : Nat) : Roundtrip.Statement (.nopPacket q idx) :=
  fun h _ => (Bool.false_ne_true h).elim

theorem Roundtrip.launch (q idx : Nat) : Roundtrip.Statement (.launch q idx) :=
  fun h _ => (Bool.false_ne_true h).elim

theorem Roundtrip.graph (q idx : Nat) : Roundtrip.Statement (.graph q idx) :=
  fun h _ => (Bool.false_ne_true h).elim

theorem Roundtrip.barrierPacket (q idx : Nat) : Roundtrip.Statement (.barrierPacket q idx) :=
  fun h _ => (Bool.false_ne_true h).elim

theorem Roundtrip.signalPacket (q idx : Nat) : Roundtrip.Statement (.signalPacket q idx) :=
  fun h _ => (Bool.false_ne_true h).elim

theorem Roundtrip.packetComplete (q idx : Nat) : Roundtrip.Statement (.packetComplete q idx) :=
  fun h _ => (Bool.false_ne_true h).elim

theorem Roundtrip.tickProposal (gang : Nat) (m : TickMsg) : Roundtrip.Statement (.tickProposal gang m) :=
  fun h _ => (Bool.false_ne_true h).elim

theorem Roundtrip.startTick (gang : Nat) : Roundtrip.Statement (.startTick gang) :=
  fun h _ => (Bool.false_ne_true h).elim

theorem Roundtrip.chipsetTimeout (gang : Nat) : Roundtrip.Statement (.chipsetTimeout gang) :=
  fun h _ => (Bool.false_ne_true h).elim

theorem Roundtrip.crewPlacement (gang pipe die x0 y0 : Nat) : Roundtrip.Statement (.crewPlacement gang pipe die x0 y0) :=
  fun h _ => (Bool.false_ne_true h).elim

theorem Roundtrip.kernelNode (graph node : Nat) : Roundtrip.Statement (.kernelNode graph node) :=
  fun h _ => (Bool.false_ne_true h).elim

theorem Roundtrip.condNode (graph node : Nat) : Roundtrip.Statement (.condNode graph node) :=
  fun h _ => (Bool.false_ne_true h).elim

theorem Roundtrip.signalNode (graph node : Nat) : Roundtrip.Statement (.signalNode graph node) :=
  fun h _ => (Bool.false_ne_true h).elim

theorem Roundtrip.xferNode (graph node : Nat) : Roundtrip.Statement (.xferNode graph node) :=
  fun h _ => (Bool.false_ne_true h).elim

theorem Roundtrip.noteNode (graph node : Nat) : Roundtrip.Statement (.noteNode graph node) :=
  fun h _ => (Bool.false_ne_true h).elim

theorem Roundtrip.nodeComplete (graph node : Nat) : Roundtrip.Statement (.nodeComplete graph node) :=
  fun h _ => (Bool.false_ne_true h).elim

theorem Roundtrip.preemptDecision (crew : Nat) : Roundtrip.Statement (.preemptDecision crew) :=
  fun h _ => (Bool.false_ne_true h).elim

theorem Roundtrip.drainTimeout (crew : Nat) : Roundtrip.Statement (.drainTimeout crew) :=
  fun h _ => (Bool.false_ne_true h).elim

theorem Roundtrip.saveComplete (crew : Nat) : Roundtrip.Statement (.saveComplete crew) :=
  fun h _ => (Bool.false_ne_true h).elim

theorem Roundtrip.restore (crew die x0 y0 : Nat) : Roundtrip.Statement (.restore crew die x0 y0) :=
  fun h _ => (Bool.false_ne_true h).elim

theorem Roundtrip.occRead (core phase : Nat) (k : OccRead) : Roundtrip.Statement (.occRead core phase k) :=
  fun h _ => (Bool.false_ne_true h).elim

theorem Roundtrip.vectorTimer (v : Nat) : Roundtrip.Statement (.vectorTimer v) :=
  fun h _ => (Bool.false_ne_true h).elim

theorem Roundtrip.vectorUnmask (v : Nat) : Roundtrip.Statement (.vectorUnmask v) :=
  fun h _ => (Bool.false_ne_true h).elim

theorem Roundtrip.heartbeat (head : Fin 2) : Roundtrip.Statement (.heartbeat head) :=
  fun h _ => (Bool.false_ne_true h).elim

theorem Roundtrip.heartbeatTimeout (head : Fin 2) : Roundtrip.Statement (.heartbeatTimeout head) :=
  fun h _ => (Bool.false_ne_true h).elim

theorem Roundtrip.headLinkDown (head : Fin 2) : Roundtrip.Statement (.headLinkDown head) :=
  fun h _ => (Bool.false_ne_true h).elim

theorem Roundtrip.ceAdopt (head : Fin 2) (epoch : Nat) : Roundtrip.Statement (.ceAdopt head epoch) :=
  fun h _ => (Bool.false_ne_true h).elim

theorem Roundtrip.version (head : Fin 2) : Roundtrip.Statement (.version head) :=
  fun h _ => (Bool.false_ne_true h).elim

theorem Roundtrip.queueCreate (head : Fin 2) : Roundtrip.Statement (.queueCreate head) :=
  fun h _ => (Bool.false_ne_true h).elim

theorem Roundtrip.queueDisable (head : Fin 2) : Roundtrip.Statement (.queueDisable head) :=
  fun h _ => (Bool.false_ne_true h).elim

theorem Roundtrip.pasidRegister (head : Fin 2) : Roundtrip.Statement (.pasidRegister head) :=
  fun h _ => (Bool.false_ne_true h).elim

theorem Roundtrip.codeLoad (head : Fin 2) : Roundtrip.Statement (.codeLoad head) :=
  fun h _ => (Bool.false_ne_true h).elim

theorem Roundtrip.imageStage (head : Fin 2) (signed : Bool) : Roundtrip.Statement (.imageStage head signed) :=
  fun h _ => (Bool.false_ne_true h).elim

theorem Roundtrip.evring (head : Fin 2) : Roundtrip.Statement (.evring head) :=
  fun h _ => (Bool.false_ne_true h).elim

theorem Roundtrip.tdiDefine (head : Fin 2) : Roundtrip.Statement (.tdiDefine head) :=
  fun h _ => (Bool.false_ne_true h).elim

theorem Roundtrip.dbgHalt (head : Fin 2) : Roundtrip.Statement (.dbgHalt head) :=
  fun h _ => (Bool.false_ne_true h).elim

theorem Roundtrip.dbgRead (head : Fin 2) : Roundtrip.Statement (.dbgRead head) :=
  fun h _ => (Bool.false_ne_true h).elim

theorem Roundtrip.dbgResume (head : Fin 2) : Roundtrip.Statement (.dbgResume head) :=
  fun h _ => (Bool.false_ne_true h).elim

theorem Roundtrip.registerWrite (head : Fin 2) (off : Nat) (act : RegAct) : Roundtrip.Statement (.registerWrite head off act) :=
  fun h _ => (Bool.false_ne_true h).elim

theorem Roundtrip.reportAnswerTimeout (n : Nat) : Roundtrip.Statement (.reportAnswerTimeout n) :=
  fun h _ => (Bool.false_ne_true h).elim

theorem Roundtrip.spdmRequest (head : Fin 2) (k : SpdmKind) : Roundtrip.Statement (.spdmRequest head k) :=
  fun h _ => (Bool.false_ne_true h).elim

theorem Roundtrip.tdiStop (head : Fin 2) (tdi : Nat) : Roundtrip.Statement (.tdiStop head tdi) :=
  fun h _ => (Bool.false_ne_true h).elim

theorem Roundtrip.sessionExpiry (head : Fin 2) (session : Nat) : Roundtrip.Statement (.sessionExpiry head session) :=
  fun h _ => (Bool.false_ne_true h).elim

theorem Roundtrip.ideIntegrityFailure (head : Fin 2) (stream : Nat) : Roundtrip.Statement (.ideIntegrityFailure head stream) :=
  fun h _ => (Bool.false_ne_true h).elim

theorem Roundtrip.reset : Roundtrip.Statement (.reset) :=
  fun h _ => (Bool.false_ne_true h).elim

theorem Roundtrip.bringupStageDone (e : StageEnd) : Roundtrip.Statement (.bringupStageDone e) :=
  fun h _ => (Bool.false_ne_true h).elim

theorem Roundtrip.powerLimit (millivolts : Nat) : Roundtrip.Statement (.powerLimit millivolts) :=
  fun h _ => (Bool.false_ne_true h).elim

theorem Roundtrip.thermalThrottle : Roundtrip.Statement (.thermalThrottle) :=
  fun h _ => (Bool.false_ne_true h).elim

theorem Roundtrip.thermalTrip : Roundtrip.Statement (.thermalTrip) :=
  fun h _ => (Bool.false_ne_true h).elim

theorem Roundtrip.patrolScrub (stack : Nat) : Roundtrip.Statement (.patrolScrub stack) :=
  fun h _ => (Bool.false_ne_true h).elim

theorem Roundtrip.serviceCoreFailure (core : Nat) : Roundtrip.Statement (.serviceCoreFailure core) :=
  fun h _ => (Bool.false_ne_true h).elim

theorem Roundtrip.cycle (ticks : Nat) : Roundtrip.Statement (.cycle ticks) :=
  fun h _ => (Bool.false_ne_true h).elim

theorem Roundtrip.tdispRequest (head : Fin 2) (tdi : Nat) (k : TdispKind) : Roundtrip.Statement (.tdispRequest head tdi k) :=
  fun h _ => (Bool.false_ne_true h).elim

theorem Roundtrip.hostUnreachableTimeout : Roundtrip.Statement (.hostUnreachableTimeout) :=
  fun h _ => (Bool.false_ne_true h).elim

theorem Roundtrip.gangTermination (gang chip : Nat) (ended : Bool) : Roundtrip.Statement (.gangTermination gang chip ended) :=
  fun h _ => (Bool.false_ne_true h).elim

end Sys2Proof.Laws
end

