-- ==== Sys2Proof/Tests/Slice0.lean ====
section
/-! SUPPORT. Tests of the model: ill-formed terms, decoded words that the spec prints, single steps with results from the spec's
examples, and the small states that the witnesses of the obligations' hypotheses use. -/

namespace Sys2Proof.Tests

open Sys2Proof.Machine Sys2Proof.Terms

set_option Elab.async false
set_option maxRecDepth 100000

/-! ## Ill-formed terms, one for each check of WellFormed -/

theorem test_wellFormed_refuses :
    Instr.wellFormed (.iadd ⟨.all, true, 1⟩ (.v 0) (.v 0)) = false ∧ Instr.wellFormed (.icmps ⟨.all, .ord, .push⟩ (.v 0) (.v 0)) = false ∧
    Instr.wellFormed (.itst ⟨.all, .lt, .push⟩ (.v 0) (.v 0)) = false ∧ Instr.wellFormed (.uadd 0 (.v 0) (.g 0)) = false ∧
    Instr.wellFormed (.umov 0 (.q 0)) = false ∧ Instr.wellFormed (.ucmps .eq .push (.g 0) (.latch 0)) = false ∧
    Instr.wellFormed (.ucmpz .uno .push (.g 0) (.g 0)) = false ∧ Instr.wellFormed (.waitmem .all 0 .imm false) = false ∧
    Instr.wellFormed (.bari .all 0 (.q 1)) = false ∧ Instr.wellFormed (.ldg ⟨.all, 0, 0, .flt 0⟩ .w32) = false ∧
    Instr.wellFormed (.stg ⟨.all, 0, 0, .v 0⟩ .s8) = false ∧ Instr.wellFormed (.stf ⟨.all, 0, 0, .q 0⟩ .w32) = false ∧
    Instr.wellFormed (.atom ⟨.all, 0, 0, .imm⟩ .add) = false ∧ Instr.wellFormed (.atomn ⟨.all, 0, 0, .v 0⟩ .cas) = false ∧
    Instr.wellFormed (.fence .all .relaxed .core) = false ∧ Instr.wellFormed (.allowInit ⟨.all, 0, 0, .q 0⟩) = false ∧
    Instr.wellFormed (.xload ⟨0, .v 0, 0⟩) = false ∧ Instr.wellFormed (.xgather ⟨.all, 0, .q 0, 0⟩) = false ∧
    Instr.wellFormed (.spawn ⟨.all, .q 2, 0⟩) = false ∧ Instr.wellFormed (.drop .all 0 (.q 0)) = false ∧
    Instr.wellFormed (.segw (.vx 0) 0) = false ∧ Instr.wellFormed (.trap (.v 1)) = false ∧
    Instr.wellFormed (.hintSched false false 1) = false := by decide

/-! ## Words that the spec prints -/

theorem test_decode_printed_a :
    decodeWord 0xC2000000 = .ok (.exit .all) ∧
    decodeWord 0xC6000002 = .ok (.join .all 2) ∧
    decodeWord 0xC4000001 = .ok (.split .all 1) ∧
    decodeWord 0xD6022828 = .ok (.stg ⟨.all, 1, 5, .v 2⟩ .w32) ∧
    decodeWord 0xD40A602A = .ok (.ldg ⟨.all, 5, 12, .v 2⟩ .w64) ∧
    decodeWord 0xE40A3C40 = .ok (.atomn ⟨.all, 5, 7, .g 4⟩ .add) ∧
    decodeWord 0xE6000802 = .ok (.ifence .all .cluster) ∧
    decodeWord 0x82044BC4 = .ok (.icmpz ⟨.all, .lt, .repl⟩ (.v 23) (.g 4)) ∧
    decodeWord 0xD5024026 = .ok (.ldg ⟨.ifP 0, 1, 8, .v 2⟩ .z16) ∧
    decodeWord 0xE3066470 = .ok (.atom ⟨.ifP 0, 3, 12, .g 7⟩ .add) ∧
    decodeWord 0x8E034600 = .ok (.rfl ⟨.all, false, 13⟩ (.v 12)) ∧
    decodeWord 0xB2222844 = .ok (.ucmpz .lt .repl (.g 16) (.g 4)) ∧
    decodeWord 0xE8027C02 = .ok (.allowTake ⟨.all, 1, 15, .g 0⟩) ∧
    decodeWord 0xEC0811C6 = .ok (.xload ⟨4, .g 7, 6⟩) ∧
    decodeWord 0xEC0A31C6 = .ok (.xstore ⟨5, .g 7, 6⟩) ∧
    decodeWord 0xEC065246 = .ok (.xmove ⟨3, .g 9, 6⟩) ∧
    decodeWord 0xEC049C0A = .ok (.xfill ⟨2, .int 0, 10⟩) ∧
    decodeWord 0xEE080008 = .ok (.xpub 4 8) ∧
    decodeWord 0xEC041FD1 = .ok (.xload ⟨2, .imm, 17⟩) ∧
    decodeWord 0xF0060000 = .ok (.mclaim 3) ∧
    decodeWord 0xF006BFD4 = .ok (.mzero ⟨3, .imm, 20⟩) ∧
    decodeWord 0xF0065092 = .ok (.mldw ⟨3, .g 2, 18⟩) ∧
    decodeWord 0xF0066000 = .ok (.mswap 3) ∧
    decodeWord 0xF0062000 = .ok (.mrel 3) ∧
    decodeWord 0xF20211D4 = .ok (.bxsend ⟨1, .g 7, 20⟩) ∧
    decodeWord 0xF20231D4 = .ok (.bxrecv ⟨1, .g 7, 20⟩) := by decide

theorem test_decode_printed_b :
    decodeWord 0xF206735C = .ok (.bxstat ⟨3, .g 13, 28⟩) ∧
    decodeWord 0xF4002000 = .ok (.hpop .all) ∧
    decodeWord 0xF4005C45 = .ok (.perform ⟨.all, .int 1, 5⟩) ∧
    decodeWord 0xF4005FC5 = .ok (.perform ⟨.all, .imm, 5⟩) ∧
    decodeWord 0xF4006004 = .ok (.resume ⟨.all, .v 0, 4⟩) ∧
    decodeWord 0xF4048000 = .ok (.drop .all 2 (.v 0)) ∧
    decodeWord 0xF406A008 = .ok (.kstat ⟨.all, 3, .v 0, 8⟩) ∧
    decodeWord 0xF408C00A = .ok (.kpack ⟨.all, 4, .v 0, 10⟩) ∧
    decodeWord 0xF40AE300 = .ok (.kunpack ⟨.all, 5, .v 12, 0⟩) ∧
    decodeWord 0xF5005FC6 = .ok (.perform ⟨.ifP 0, .imm, 6⟩) ∧
    decodeWord 0x84000370 = .ok (.fcmp ⟨.all, .eq, .push⟩ (.v 6) (.int 0)) ∧
    decodeWord 0x82000670 = .ok (.icmpz ⟨.all, .eq, .push⟩ (.v 12) (.int 0)) ∧
    decodeWord 0x0C0345FF = .ok (.imad ⟨.all, false, 13⟩ (.v 11) .imm) ∧
    decodeWord 0x180386FF = .ok (.andL ⟨.all, false, 14⟩ (.v 13) .imm) ∧
    decodeWord 0x34038777 = .ok (.sel ⟨.all, false, 14⟩ (.v 14) (.int 7)) ∧
    decodeWord 0xD704804A = .ok (.stg ⟨.ifP 0, 2, 16, .v 4⟩ .w64) ∧
    decodeWord 0xF8003C48 = .ok (.segr (.int 1) 8) ∧
    decodeWord 0xF8005084 = .ok (.csrr (.g 2) 4) ∧
    decodeWord 0xF8007084 = .ok (.csrw (.g 2) 4) ∧
    decodeWord 0xF8008006 = .ok (.eret 6) ∧
    decodeWord 0xF800B0C0 = .ok (.trap (.g 3)) ∧
    decodeWord 0xFC345678 = .ok (.hintImm 0x345678) ∧
    decodeWord 0xFC400048 = .ok (.hintImmx 0x48) ∧
    decodeWord 0xFC800001 = .ok (.hintMod 0 0 false 0 0 0 false 1) ∧
    decodeWord 0xFC80C000 = .ok (.hintMod 0 12 false 0 0 0 false 0) := by decide

/-- R87: an unassigned OP is 0x02, a guard on an unguarded word 0x06, a field that must be 0 is 0x07, an NW bit that is not accepted 0x17. -/
theorem test_decode_refuses :
    decodeWord 0x00000001 = .fault 0x02 ∧ decodeWord 0xD2000001 = .fault 0x07 ∧
    decodeWord 0xD2100000 = .fault 0x17 ∧ decodeWord 0xF8200000 = .fault 0x06 ∧ decodeWord 0xF8010000 = .fault 0x0A := by decide

/-! ## Small states -/

/-- A fibre of the formed group 7 at 0x1000. -/
def fib (v : KMap Word) : Fibre := { v := v, st := .formed 7, pc := 0x1000, seg := 0x400000 }

/-- A group at 0x1000. -/
def grp (fids : List Nat) : Group := { fids := fids, pc := 0x1000, fpc := 0x1000, fcycle := 0 }

/-- A running crew on core 0 with one group. -/
def crewWith (fs : KMap Fibre) : Crew :=
  { gang := 1, life := .running, home := some 0, b := 16, n := 2, pasid := 1, fibres := fs, groups := [(7, grp (fs.map Prod.fst))]
    segScratch := ⟨0, 65536⟩, segFrame := ⟨0x400000, 0x400000⟩, segConst := ⟨0x2000, 256⟩
    g := [(0, 5), (1, 7), (4, 0x11000), (5, 0)] }

/-- The context of a word of the group. -/
def issue (fids : List Nat) : Issue :=
  { crew := 1, gid := some 7, grp := grp fids, core := 0, pc := 0x1000, word := 0, imm := none, mod := {}, modw := 0, strict := false }

/-- The gang of the crew. -/
def gang1 : Gang := { placeGang 1 1 with queue := 3 }

/-- A READY package with that crew, its gang and a page table that maps the first gibibyte to itself. -/
def package (c : Crew) (i : Option Issue) : State :=
  State.placeTable { crews := [(1, c)], gangs := [(1, gang1)], nextId := 100, stage := 5, tick := 5000000, launches := 1, cur := i
                     pasids := [(1, ⟨1, 4, true, 0x400000, 0x400000, 0⟩)] }

/-- Two fibres, of which only the first has P[0]. -/
def fibs2 : KMap Fibre :=
  [(0, { fib [(0, 0x80000000), (1, 0x408), (2, 0xA00), (3, 0x11000), (6, 0x44332211), (7, 0x88776655)] with p := 1 }),
   (1, fib [(0, 3), (1, 0x408), (2, 0xA00), (3, 0x11004)])]

/-- A crew of two fibres. -/
def crew2 : Crew := crewWith fibs2
/-- The context of a word of both fibres. -/
def iss2 : Issue := issue [0, 1]
/-- The package with two fibres at a word. -/
def st2 : State := package crew2 (some iss2)

/-- The register of fibre 0 after a word in st2 with an immediate. -/
def after2 (w : Instr) (imm : Option Word) (n : Nat) : Option Word :=
  match exec w { st2 with cur := some { iss2 with imm := imm } } with
  | .next t => (kget (t.crew 1).fibres 0).map fun f => f.getV n
  | .fault _ | .refused _ => none

/-! ## Single steps, with the results of the spec's examples -/

/-- R98: IABS of 0x8000_0000; R100: BFXZ, BFXS and a shift by 32 or more; R109: the example of PRM. -/
theorem test_integer_examples :
    after2 (.iabs ⟨.all, false, 4⟩ (.v 0)) none 4 = some 0x80000000 ∧
    after2 (.bfxz ⟨.all, false, 4⟩ (.v 2) (.v 1)) none 4 = some 0xA ∧
    after2 (.bfxs ⟨.all, false, 4⟩ (.v 2) (.v 1)) none 4 = some 0xFFFFFFFA ∧
    after2 (.shl ⟨.all, false, 4⟩ (.v 0) .imm) (some 32) 4 = some 0 ∧
    after2 (.sar ⟨.all, false, 4⟩ (.v 0) .imm) (some 99) 4 = some 0xFFFFFFFF ∧
    after2 (.prm ⟨.all, false, 4⟩ (.v 6) .imm) (some 0x9804) 4 = some 0xFF001155 := by decide +kernel

/-- R98: an excluded lane keeps its register; NW writes none. -/
theorem test_guard_and_nw :
    after2 (.mov ⟨.unlessP 0, false, 4⟩ (.v 6)) none 4 = some 0 ∧ after2 (.mov ⟨.ifP 0, false, 4⟩ (.v 6)) none 4 = some 0x44332211 ∧
    after2 (.mov ⟨.all, true, 0⟩ (.v 6)) none 0 = some 0x80000000 := by decide +kernel

/-- R60: the table of roundings of f32 to C16; R103: FRND of -0.25; R97: f16 arithmetic on the pattern of 1.0. -/
theorem test_float_examples :
    (fconv f32 c16 0 0x3F808000).1 = 0x3F80 ∧ (fconv f32 c16 2 0x3F808000).1 = 0x3F81 ∧ (fconv f32 c16 0 0x7F7FFFFF).1 = 0x7F80 ∧
    (fconv f32 c16 1 0x7F7FFFFF).1 = 0x7F7F ∧ (frnd f32 0 0xBE800000).1 = 0x80000000 ∧ (frnd f32 0 0xBE800000).2 = 0 ∧
    after2 (.fadd ⟨.all, false, 4⟩ (.int 1) (.v 9)) none 4 = some 1 := by decide +kernel

/-- A word placed where the next step fetches runs (R33): MOVI leaves its value in its register. -/
theorem test_fetch_runs :
    (match step (State.reset.withFetchWord 32 (encodeWord (.movi ⟨.all, false, 3⟩ 0x3FFF))) with
     | .next t => (kget t.crews 1).map fun c => ((c.fibre 0).getV 3, (c.fibre 0).pc)
     | .fault _ | .refused _ => none) = some (0xFFFFFFFF, 0x10004) := by decide +kernel

end Sys2Proof.Tests
end

