-- ==== Sys2Proof/Tests/Words.lean ====
section
/-! SUPPORT. For every obligation about instruction words, states and operands that meet its hypotheses. -/

namespace Sys2Proof.Tests

open Sys2Proof.Machine Sys2Proof.Terms

set_option Elab.async false
set_option maxRecDepth 100000

/-- A result holds a value. -/
def isOk {α β : Type} [DecidableEq β] (x : Except α β) (v : β) : Bool :=
  match x with
  | .ok y => decide (y = v)
  | .error _ => false

theorem of_isOk {α β : Type} [DecidableEq β] {x : Except α β} {v : β} (h : isOk x v = true) : x = .ok v := by
  cases x with
  | ok y => simp only [isOk, decide_eq_true_eq] at h; rw [h]
  | error e => simp [isOk] at h

/-- The value of a selector read by a fibre of st2, 0 where it is refused. -/
def val2 (s : State) (i : Issue) (a : Sel) (k f : Nat) : Word :=
  match (envAt s i).read ((s.crew 1).fibre f) f a k 0 with
  | .ok x => x
  | .error _ => 0

/-! ## Lane words -/

theorem issues_st2 : Issues st2 iss2 crew2 := ⟨rfl, rfl, by decide, by decide⟩

/-- The conditions of LaneRule.Runs that can be decided. -/
def runsB (r : LaneRule) (s : State) (i : Issue) (c : Crew) (X Y Z : Nat → Word) : Bool :=
  decide (∀ a ∈ r.srcs, selQueue a = [] ∧ selFits a c.b 1 = true) && decide (r.h.d.val < c.b) &&
  !(envAt s i).splitRead (r.srcs.flatMap fun a => selRegs a 1) && decide (((envAt s i).lanes r.h.g).bad = []) &&
  ((envAt s i).lanes r.h.g).sel.all fun f =>
    (match r.srcs[0]? with | some a => isOk ((envAt s i).read (c.fibre f) f a 0 0) (X f) | none => true) &&
    (match r.srcs[1]? with | some b => isOk ((envAt s i).read (c.fibre f) f b 1 0) (Y f) | none => true) &&
    (!r.third || isOk ((envAt s i).readV (c.fibre f) f r.h.d.val 2) (Z f)) &&
    (r.h.nw || decide ((c.fibre f).strictV i.strict r.h.d.val = none)) && decide ((c.fibre f).fpend = []) &&
    match r.value i.mod (Z f) (X f) (Y f) with | some (_, x) => decide (trapSet x (c.fibre f).fstat = 0) | none => false

theorem runs_of {r : LaneRule} {s : State} {i : Issue} {c : Crew} {X Y Z : Nat → Word} (hi : Issues s i c)
    (h : runsB r s i c X Y Z = true) : r.Runs s i c X Y Z := by
  simp only [runsB, Bool.and_eq_true, decide_eq_true_eq, Bool.not_eq_true', List.all_eq_true, Bool.or_eq_true] at h
  obtain ⟨⟨⟨⟨h1, h2⟩, h3⟩, h4⟩, h5⟩ := h
  refine ⟨hi, h1, h2, h3, h4, fun f hf => ?_⟩
  obtain ⟨⟨⟨⟨⟨a, b⟩, c'⟩, d⟩, e⟩, g⟩ := h5 f hf
  refine ⟨fun x hx => ?_, fun x hx => ?_, fun ht => ?_, fun hn => ?_, e, ?_⟩
  · rw [hx] at a; exact of_isOk a
  · rw [hx] at b; exact of_isOk b
  · rcases c' with c' | c'
    · rw [ht] at c'; cases c'
    · exact of_isOk c'
  · rcases d with d | d
    · rw [hn] at d; cases d
    · exact d
  · revert g
    cases r.value i.mod (Z f) (X f) (Y f) with
    | none => intro g; cases g
    | some p => intro g; exact ⟨p.1, p.2, rfl, of_decide_eq_true g⟩

/-- The rule of a word runs in st2, with the values that the fibres hold. -/
def Runs2 (r : Option LaneRule) (a b : Sel) : Prop :=
  ∃ x, r = some x ∧ x.Runs st2 iss2 crew2 (val2 st2 iss2 a 0) (val2 st2 iss2 b 1) fun f => (crew2.fibre f).getV x.h.d.val

theorem test_IntegerWords :
    Runs2 (intRule (.imad ⟨.all, false, 4⟩ (.v 0) (.g 1))) (.v 0) (.g 1) ∧
    Runs2 (intRule (.bfi ⟨.ifP 0, false, 15⟩ (.v 2) (.v 1))) (.v 2) (.v 1) ∧
    Runs2 (intRule (.shl ⟨.all, true, 0⟩ (.v 0) (.int 7))) (.v 0) (.int 7) ∧
    Runs2 (intRule (.shli ⟨.all, false, 4⟩ (.v 0) 31)) (.v 0) (.v 0) ∧ Runs2 (intRule (.movi ⟨.all, false, 4⟩ 0x3FFF)) (.v 0) (.v 0) :=
  ⟨⟨_, rfl, runs_of issues_st2 (by decide +kernel)⟩, ⟨_, rfl, runs_of issues_st2 (by decide +kernel)⟩,
   ⟨_, rfl, runs_of issues_st2 (by decide +kernel)⟩, ⟨_, rfl, runs_of issues_st2 (by decide +kernel)⟩,
   ⟨_, rfl, runs_of issues_st2 (by decide +kernel)⟩⟩

theorem test_FloatWords :
    Runs2 (floatRule (.ffma ⟨.all, false, 4⟩ (.v 0) (.flt 1))) (.v 0) (.flt 1) ∧
    Runs2 (floatRule (.frcp ⟨.all, false, 4⟩ (.int 0))) (.int 0) (.int 0) ∧
    Runs2 (packedRule (.hfma2 ⟨.all, false, 4⟩ (.v 6) (.v 7))) (.v 6) (.v 7) ∧
    Runs2 (cvtRule (.cvt ⟨.all, false, 4⟩ (.v 0) 0)) (.v 0) (.v 0) ∧ Runs2 (cvtRule (.cvt ⟨.all, false, 4⟩ (.v 0) 0x15)) (.v 0) (.v 0) :=
  ⟨⟨_, rfl, runs_of issues_st2 (by decide +kernel)⟩, ⟨_, rfl, runs_of issues_st2 (by decide +kernel)⟩,
   ⟨_, rfl, runs_of issues_st2 (by decide +kernel)⟩, ⟨_, rfl, runs_of issues_st2 (by decide +kernel)⟩,
   ⟨_, rfl, runs_of issues_st2 (by decide +kernel)⟩⟩

theorem test_PairWords_sel :
    (∀ f ∈ ((envAt st2 iss2).lanes .all).sel, ∀ w ∈ (crew2.fibre f).pwin, w.openAt (crew2.fibre f).pos = false) ∧
    LaneRule.Runs { h := ⟨.all, false, 4⟩, lat := 2, srcs := [.v 0, .v 2], third := false, value := fun _ z _ _ => some (z, 0) } st2 iss2
      crew2 (val2 st2 iss2 (.v 0) 0) (val2 st2 iss2 (.v 2) 1)
      (fun f => if (crew2.fibre f).p.getLsbD 0 then val2 st2 iss2 (.v 0) 0 f else val2 st2 iss2 (.v 2) 1 f) :=
  ⟨by decide +kernel, runs_of issues_st2 (by decide +kernel)⟩

/-- The conditions of QuietLanes that can be decided. -/
def quietB (s : State) (i : Issue) (c : Crew) (h : LaneHdr) (srcs : List (Sel × Nat)) (width : Nat) : Bool :=
  decide (∀ a ∈ srcs, selQueue a.1 = [] ∧ selFits a.1 c.b a.2 = true) && decide (h.d.val + width ≤ c.b) &&
  !(envAt s i).splitRead (srcs.flatMap fun a => selRegs a.1 a.2) && decide (((envAt s i).lanes h.g).bad = []) &&
  ((envAt s i).lanes h.g).sel.all fun f => decide ((c.fibre f).fpend = []) &&
    (h.nw || (List.range width).all fun k => decide ((c.fibre f).strictV i.strict (h.d.val + k) = none))

theorem quiet_of {s : State} {i : Issue} {c : Crew} {h : LaneHdr} {srcs : List (Sel × Nat)} {width : Nat} (hi : Issues s i c)
    (hb : quietB s i c h srcs width = true) : QuietLanes s i c h srcs width := by
  simp only [quietB, Bool.and_eq_true, decide_eq_true_eq, Bool.not_eq_true', List.all_eq_true, Bool.or_eq_true] at hb
  obtain ⟨⟨⟨⟨h1, h2⟩, h3⟩, h4⟩, h5⟩ := hb
  refine ⟨hi, h1, h2, h3, h4, fun f hf => ⟨(h5 f hf).1, fun hn k hk => ?_⟩⟩
  rcases (h5 f hf).2 with d | d
  · rw [hn] at d; cases d
  · exact d k (List.mem_range.2 hk)

theorem test_PairWords_cvt :
    (QuietLanes st2 iss2 crew2 ⟨.all, false, 14⟩ [(.v 0, 1)] 2 ∧ ∀ f ∈ ((envAt st2 iss2).lanes .all).sel,
      (envAt st2 iss2).read (crew2.fibre f) f (.v 0) 0 0 = .ok (val2 st2 iss2 (.v 0) 0 f) ∧
      (cvtPair 0x16 iss2.mod.rm (val2 st2 iss2 (.v 0) 0 f) 0).isSome = true) ∧
    (QuietLanes st2 iss2 crew2 ⟨.all, false, 15⟩ [(.v 8, 2)] 1 ∧ ∀ f ∈ ((envAt st2 iss2).lanes .all).sel,
      (envAt st2 iss2).readPair (crew2.fibre f) f (.v 8) 0 = .ok (0, 0) ∧
      ∃ o, cvtPair 0x18 iss2.mod.rm 0 0 = some o ∧ trapSet o.exc (crew2.fibre f).fstat = 0) :=
  ⟨⟨quiet_of issues_st2 (by decide +kernel), fun f _ => ⟨rfl, rfl⟩⟩,
   quiet_of issues_st2 (by decide +kernel), fun f hf =>
     ⟨of_isOk ((by decide +kernel : ∀ f ∈ ((envAt st2 iss2).lanes .all).sel,
        isOk ((envAt st2 iss2).readPair (crew2.fibre f) f (.v 8) 0) (0, 0) = true) f hf), _, rfl,
      (by decide +kernel : ∀ f ∈ ((envAt st2 iss2).lanes .all).sel,
        trapSet ((cvtPair 0x18 iss2.mod.rm 0 0).getD { lo := 0 }).exc (crew2.fibre f).fstat = 0) f hf⟩⟩

theorem test_PairWords_fswap_prm :
    (QuietLanes st2 iss2 crew2 ⟨.all, false, 15⟩ [(.imm, 1)] 1 ∧ (0x1F1F : Word) &&& 0xFFFFE0E0 = 0) ∧
    (QuietLanes st2 iss2 crew2 ⟨.all, false, 15⟩ [(.v 14, 2), (.v 1, 1)] 1 ∧ ∀ f ∈ ((envAt st2 iss2).lanes .all).sel,
      isOk ((envAt st2 iss2).readPair (crew2.fibre f) f (.v 14) 0) (0, 0) = true ∧
      isOk ((envAt st2 iss2).read (crew2.fibre f) f (.v 1) 1 0) 0x408 = true ∧ (prmWord 0 0 0x408).isSome = true) :=
  ⟨⟨quiet_of issues_st2 (by decide +kernel), by decide⟩, quiet_of issues_st2 (by decide +kernel), by decide +kernel⟩

theorem test_SpecialReads :
    QuietLanes st2 iss2 crew2 ⟨.all, false, 15⟩ [] 1 ∧ QuietLanes st2 iss2 crew2 ⟨.unlessP 0, false, 0⟩ [(.v 3, 1)] 1 ∧
    ∀ f ∈ ((envAt st2 iss2).lanes (.unlessP 0)).sel, isOk ((envAt st2 iss2).read (crew2.fibre f) f (.v 3) 0 0) 0x11004 = true :=
  ⟨quiet_of issues_st2 (by decide +kernel), quiet_of issues_st2 (by decide +kernel), by decide +kernel⟩

theorem settled_st2 : PSettled iss2 crew2 := by unfold PSettled; decide

theorem test_CompareWords :
    ∃ h a b rel, compareRule (.fcmp ⟨.ifP 0, .ult, .pushn⟩ (.v 0) (.flt 1)) = some (h, a, b, rel) ∧
    Instr.wellFormed (.fcmp ⟨.ifP 0, .ult, .pushn⟩ (.v 0) (.flt 1)) = true ∧ Issues st2 iss2 crew2 ∧ PSettled iss2 crew2 ∧ selQueue a = [] ∧
    selQueue b = [] ∧ selFits a crew2.b 1 = true ∧ selFits b crew2.b 1 = true ∧ 0 < crew2.b ∧
    (envAt st2 iss2).splitRead (selRegs a 1 ++ selRegs b 1) = false ∧ ((envAt st2 iss2).lanes h.g).bad = [] ∧
    ∀ f ∈ ((envAt st2 iss2).lanes h.g).sel, isOk ((envAt st2 iss2).read (crew2.fibre f) f a 0 0) 0x80000000 = true ∧
      isOk ((envAt st2 iss2).read (crew2.fibre f) f b 1 0) 0x3F800000 = true ∧ (crew2.fibre f).fpend = [] ∧
      trapSet (rel 0x80000000 0x3F800000).2 (crew2.fibre f).fstat = 0 :=
  ⟨_, _, _, _, rfl, rfl, issues_st2, settled_st2, rfl, rfl, rfl, rfl, by decide, by decide +kernel, by decide +kernel, by decide +kernel⟩

/-- A PM of 5 and a function of 9 whose other fields are legal. -/
theorem test_CompareWords_illegal :
    (0x85994000 / 2 ^ 21 % 16 < 15 ∧ 5 ≤ 0x85994000 / 2 ^ 14 % 8 ∧ 0x85994000 / 2 ^ 25 = 0x42 ∧ 0x85994000 / 2 ^ 17 % 16 ≤ 12) ∧
    0x88120000 / 2 ^ 25 = 0x44 ∧ 0x88120000 / 2 ^ 21 % 16 < 15 ∧ 0x88120000 % 2 ^ 17 = 0 ∧ 9 ≤ 0x88120000 / 2 ^ 17 % 16 := by decide

theorem test_StackWords : Issues st2 iss2 crew2 ∧ PSettled iss2 crew2 ∧ (stackRule (.pdrop (.ifP 6))).isSome = true :=
  ⟨issues_st2, settled_st2, rfl⟩

theorem test_ExchangeWords :
    (exchangeRule (.xchgUp .all 15 (.v 0) 31)).isSome = true ∧ QuietLanes st2 iss2 crew2 ⟨.all, false, 15⟩ [(.v 0, 1)] 1 ∧
    PSettled iss2 crew2 ∧ (∀ f ∈ iss2.grp.fids, ∀ f2 ∈ iss2.grp.fids, f % 64 = f2 % 64 → f = f2) ∧
    ∀ f ∈ ((envAt st2 iss2).lanes .all).sel,
      isOk ((envAt st2 iss2).read (crew2.fibre f) f (.v 0) 0 0) ((crew2.fibre f).getV 0) = true ∧
      isOk ((envAt st2 iss2).readV (crew2.fibre f) f 15 2) 0 = true :=
  ⟨rfl, quiet_of issues_st2 (by decide +kernel), settled_st2, by decide, by decide +kernel⟩

theorem test_VoteWords :
    (voteRule (.voteBal .all 31 6)).isSome = true ∧ (6 : BitVec 7).toNat ≤ 6 ∧ MayWriteG st2 iss2 crew2 31 ∧
    QuietLanes st2 iss2 crew2 ⟨.all, true, 0⟩ [(.v 1, 1)] 1 ∧
    ∀ f ∈ ((envAt st2 iss2).lanes .all).sel, isOk ((envAt st2 iss2).read (crew2.fibre f) f (.v 1) 0 0) 0x408 = true :=
  ⟨rfl, by decide, rfl, quiet_of issues_st2 (by decide +kernel), by decide +kernel⟩

theorem test_IndexWords :
    QuietLanes st2 iss2 crew2 ⟨.all, true, 0⟩ [(.int 6, 1)] 1 ∧ (∃ k, indexRule (.xdef .all 3 0 (.int 6)) = some (.all, 3, .int 6, k) ∧
      k crew2.b {} 16 = some ⟨0, 16, 0⟩) ∧ (∃ k, indexRule (.xset .all 3 (.v 1)) = some (.all, 3, .v 1, k) ∧ k 16 {} 1023 = some ⟨0, 0, 1023⟩) ∧
    ∀ f ∈ ((envAt st2 iss2).lanes .all).sel, isOk ((envAt st2 iss2).read (crew2.fibre f) f (.int 6) 0 0) 16 = true ∧
      ∀ w ∈ kgetD (crew2.fibre f).xwin 3 [], w.openAt (crew2.fibre f).pos = false :=
  ⟨quiet_of issues_st2 (by decide +kernel), ⟨_, rfl, rfl⟩, ⟨_, rfl, rfl⟩, by decide +kernel⟩

theorem test_UniformWords :
    Issues st2 iss2 crew2 ∧ (uniformRule (.umad 31 (.g 0) (.g 1))).isSome = true ∧
    (envAt st2 iss2).splitRead (selRegs (.g 0) 1 ++ selRegs (.g 1) 1 ++ [31]) = false ∧ isOk ((envAt st2 iss2).readU (.g 0) 0) 5 = true ∧
    isOk ((envAt st2 iss2).readU (.g 1) 1) 7 = true ∧ isOk ((envAt st2 iss2).readG 31 2) 0 = true ∧ MayWriteG st2 iss2 crew2 31 ∧
    (∃ d a b k, uniformRule (.uld 31 (.int 0) (.int 3)) = some (d, a, b, false, k) ∧ k [1, 0, 0, 0, 0, 0, 0] {} 0 0 3 = none ∧
      k [1, 0, 0, 0, 2, 0, 0, 1] {} 0 1 3 = some 0x01000002) ∧
    (uniformCompare (.ucmps .le .and (.g 0) (.g 1))).isSome = true ∧ PSettled iss2 crew2 :=
  ⟨issues_st2, rfl, by decide +kernel, by decide +kernel, by decide +kernel, by decide +kernel, rfl, ⟨_, _, _, _, rfl, by decide, by decide⟩,
   rfl, settled_st2⟩

theorem test_OperandsAndGuards :
    Issues st2 iss2 crew2 ∧ PSettled iss2 crew2 ∧ iss2.again = false ∧ noWindow (crew2.fibre 0) 15 ∧
    kget (crew2.fibre 0).pend 15 = none ∧ kget crew2.gpend 31 = none ∧
    (∀ w ∈ kgetD crew2.gwin 31 [], w.tok = none ∧ w.openFor crew2 iss2.grp.fids (envAt st2 iss2).cycle = false) ∧
    ∀ w ∈ kgetD (crew2.fibre 0).xwin 3 [], w.openAt (crew2.fibre 0).pos = false :=
  ⟨issues_st2, settled_st2, rfl, by unfold noWindow; decide, rfl, rfl, by decide, by decide⟩

end Sys2Proof.Tests
end

