-- ==== Sys2Proof/Tests/Control.lean ====
section
/-! SUPPORT. States that meet the hypotheses of the obligations about control flow, waiting, hinges and system words. -/

namespace Sys2Proof.Tests

open Sys2Proof.Machine Sys2Proof.Terms

set_option Elab.async false
set_option maxRecDepth 100000

theorem pair_of {α β : Type} {x : α × β} {b : β} (h : x.2 = b) : x = (x.1, b) := by rw [← h]

/-- The second half of a result that is an error or the unit. -/
theorem ok_of {α : Type} {β : Type} [DecidableEq β] {x : State × Except α β} {v : β} (h : isOk x.2 v = true) : x = (x.1, .ok v) :=
  pair_of (of_isOk h)

/-! ## One fibre -/

/-- The fibre of the tests of control words: with a target pair, a mask and a payload. -/
def fib1 : Fibre :=
  fib [(0, 0x2000), (2, 0x1400), (4, 0x21), (6, 0x1400), (8, 0x1402), (10, 0x400000)]

/-- A crew of one fibre whose heap has one free ordinary segment. -/
def crew1 : Crew := { crewWith [(0, fib1)] with n := 1, segFrame := ⟨0x400000, 3072⟩, used := [0x400000] }
/-- The context of a word of that fibre. -/
def iss1 : Issue := issue [0]
/-- The package with the fibre at a word, and a function header before 0x1400 (R66). -/
def st1 : State := (package crew1 (some iss1)).writePas 0x13FC (leBytes 4 0xFFA50001)

theorem issues_st1 : Issues st1 iss1 crew1 := ⟨rfl, rfl, by decide, by decide⟩
theorem settled_st1 : PSettled iss1 crew1 := by unfold PSettled; decide
theorem oneFibre_st1 (g : Guard) (hg : (envAt st1 iss1).lanes g = ⟨[0], [], []⟩) : OneFibre st1 iss1 crew1 g 0 := ⟨issues_st1, rfl, rfl, hg⟩
theorem one_st1 : OneFibre st1 iss1 crew1 .all 0 := oneFibre_st1 _ rfl

theorem switch_st2 : SwitchReady st2 iss2 crew2 := ⟨issues_st2, rfl, rfl, by decide +kernel, 7, grp [0, 1], rfl, rfl, rfl, by decide⟩
theorem switch_st1 : SwitchReady st1 iss1 crew1 := ⟨issues_st1, rfl, rfl, by decide +kernel, 7, grp [0], rfl, rfl, rfl, by decide⟩

theorem test_BranchWords :
    (SwitchReady st2 iss2 crew2 ∧ ((envAt st2 iss2).lanes (.ifP 0)).bad = [] ∧ Canonical (directTo iss2 (-1024))) ∧
    (ReadsPair st1 iss1 crew1 .all (.v 2) (fun _ => (0x1400, 0)) ∧ pairNat ((0x1400 : Word), (0 : Word)) % 4 = 0 ∧
      Canonical (pairNat ((0x1400 : Word), (0 : Word)))) ∧
    OneFibre st1 iss1 crew1 .all 0 ∧ ReadsPair st1 iss1 crew1 .all (.v 8) (fun _ => (0x1402, 0)) ∧
    ¬ (pairNat ((0x1402 : Word), (0 : Word)) % 4 = 0 ∧ Canonical (pairNat ((0x1402 : Word), (0 : Word)))) :=
  ⟨⟨switch_st2, by decide +kernel, by unfold Canonical; decide⟩,
   ⟨⟨by decide, rfl, by decide +kernel, fun f hf => by
      have := (by decide +kernel : ∀ f ∈ ((envAt st1 iss1).lanes .all).sel,
        isOk ((envAt st1 iss1).readPair (crew1.fibre f) f (.v 2) 0) (0x1400, 0) = true) f hf
      exact of_isOk this⟩, by decide, by unfold Canonical; decide⟩,
   one_st1, ⟨by decide, rfl, by decide +kernel, fun f hf => by
      have := (by decide +kernel : ∀ f ∈ ((envAt st1 iss1).lanes .all).sel,
        isOk ((envAt st1 iss1).readPair (crew1.fibre f) f (.v 8) 0) (0x1402, 0) = true) f hf
      exact of_isOk this⟩, fun h => absurd h.1 (by decide)⟩

/-! ## Two fibres, one after another -/

/-- A crew of two fibres, of which the first has P[0], whose heap has one free ordinary segment. -/
def crew1b : Crew :=
  { crewWith [(0, { fib1 with p := 1 }), (1, { fib1 with seg := 0x400400 })] with
    segFrame := ⟨0x400000, 4096⟩, used := [0x400000, 0x400400] }
/-- The package with both fibres at a word, and the function header of st1. -/
def st1b : State := (package crew1b (some iss2)).writePas 0x13FC (leBytes 4 0xFFA50001)

/-- One fibre that acts, as a function, for a relation that it meets where a condition holds. -/
theorem oneByOne_of {act : State → Nat → State → Prop} {next : State → Nat → State} {ok : State → Nat → Bool}
    (h : ∀ a f, ok a f = true → act a f (next a f)) {a : State} {f g : Nat} (h1 : ok a f = true) (h2 : ok (next a f) g = true) :
    OneByOne act [f, g] a (next (next a f) g) := ⟨_, h a f h1, _, h _ g h2, rfl⟩

theorem oneByOne_single {act : State → Nat → State → Prop} {next : State → Nat → State} {ok : State → Nat → Bool}
    (h : ∀ a f, ok a f = true → act a f (next a f)) {a : State} {f : Nat} (h1 : ok a f = true) : OneByOne act [f] a (next a f) :=
  ⟨_, h a f h1, rfl⟩

theorem ready_st1b (g : Guard) (h : ((envAt st1b iss2).lanes g).bad = []) : Ready st1b iss2 crew1b g :=
  ⟨⟨rfl, rfl, by decide, by decide⟩, rfl, h⟩

/-- A fibre that calls the function. -/
def callStep (a : State) (f : Nat) : State := (((a.checkHeader iss2 0x1400).1.pushSeg 1 f 0 0x1004 true []).1).goTo 1 f 0x1400

/-- A call of the one selected fibre of two goes through in st1b: the header is read, and a segment is pushed. -/
theorem test_CallWords_call : ∃ z,
    Ready st1b iss2 crew1b (.ifP 0) ∧ (∀ _f : Nat, directTo iss2 0x100 = 0x1400) ∧
    (∀ f ∈ ((envAt st1b iss2).lanes (.ifP 0)).sel, CalleesIdle (crew1b.fibre f) ∧ Canonical 0x1400) ∧
    OneByOne (CallsTo iss2 fun _ => 0x1400) ((envAt st1b iss2).lanes (.ifP 0)).sel (acting st1b iss2) z := by
  have hl : ((envAt st1b iss2).lanes (.ifP 0)).sel = [0] ∧ ((envAt st1b iss2).lanes (.ifP 0)).bad = [] := by decide +kernel
  refine ⟨callStep (acting st1b iss2) 0, ready_st1b _ hl.2, fun _ => by decide, fun f hf => ⟨?_, by unfold Canonical; decide⟩, ?_⟩
  · rw [hl.1] at hf
    intro k _ _
    rw [List.mem_singleton.1 hf]
    rfl
  · rw [hl.1]
    refine oneByOne_single (ok := fun a f => (a.checkHeader iss2 0x1400).2.isNone &&
      isOk ((a.checkHeader iss2 0x1400).1.pushSeg 1 f 0 0x1004 true []).2 ()) (next := callStep) (fun a f h => ?_) (by decide +kernel)
    simp only [Bool.and_eq_true, Option.isNone_iff_eq_none] at h
    exact ⟨_, _, pair_of h.1, ok_of h.2, rfl⟩

/-- A token of K13 counts on a fibre that calls directly. -/
theorem test_CallWords_strict :
    let c : Crew := { crew1 with fibres := [(0, { fib1 with k := [(13, { count := 1 })] })] }
    OneFibre (package c (some iss1)) iss1 c .all 0 ∧ ¬ CalleesIdle (c.fibre 0) :=
  ⟨⟨⟨rfl, rfl, by decide, by decide⟩, rfl, rfl, rfl⟩, fun h => absurd (h 13 (by decide) (by decide)) (by decide)⟩

/-- The state that a word leaves, with its fibres in the group again and some more segments. -/
def again (w : Instr) (s : State) (more : Nat) : State :=
  match exec w s with
  | .next t =>
    let c : Crew := { t.crew 1 with fibres := kmap (t.crew 1).fibres fun _ f => { f with st := .formed 7, pc := 0x1000 }, groups := [(7, grp [0, 1])] }
    { t with cur := some iss2, crews := [(1, { c with segFrame := ⟨c.segFrame.base, c.segFrame.limit + more⟩ })] }
  | .fault _ | .refused _ => s

/-- The state inside the function that was called: both fibres stand at its RET. -/
def stRet : State := again (.call (.unlessP 0) 0x100) (again (.call (.ifP 0) 0x100) st1b 1024) 0

theorem ready_of {s : State} {c : Crew} {g : Guard} (h1 : s.cur = some iss2 ∧ kget s.crews 1 = some c)
    (h2 : ∀ f ∈ [0, 1], (kget c.fibres f).isSome = true) (h3 : c.life = .running) (h4 : ((envAt s iss2).lanes g).bad = []) : Ready s iss2 c g :=
  ⟨⟨h1.1, h1.2, by decide, h2⟩, h3, h4⟩

/-- The call segment of a fibre in stRet. -/
def headR (f : Nat) : SegHead := ⟨0x400800 + 0x400 * f, 0x400000 + 0x400 * f, 0, 0x1004, true, 0, 0, 0, false⟩
/-- A fibre that returns. -/
def retStep (a : State) (f : Nat) : State :=
  (((a.segHead 1 ((a.crew 1).fibre f).seg).1.popSeg 1 f (headR f)).1).goTo 1 f (headR f).rpc

theorem test_CallWords_ret : ∃ z,
    Ready stRet iss2 (stRet.crew 1) .all ∧
    (∀ f ∈ ((envAt stRet iss2).lanes .all).sel, CalleesIdle ((stRet.crew 1).fibre f) ∧ (headR f).kind ≠ 1 ∧ (headR f).valid = true ∧
      (headR f).rpc % 4 = 0 ∧ Canonical (headR f).rpc) ∧
    OneByOne (fun a f b => ∃ u v, a.segHead 1 ((a.crew 1).fibre f).seg = (u, .ok (headR f)) ∧ u.popSeg 1 f (headR f) = (v, .ok ()) ∧
      b = v.goTo 1 f (headR f).rpc) ((envAt stRet iss2).lanes .all).sel (acting stRet iss2) z := by
  have hl : ((envAt stRet iss2).lanes .all).sel = [0, 1] ∧ ((envAt stRet iss2).lanes .all).bad = [] := by decide +kernel
  have hk : ∀ f ∈ [0, 1], ∀ k, k < 16 → (((stRet.crew 1).fibre f).tok k).count = 0 := by decide +kernel
  refine ⟨retStep (retStep (acting stRet iss2) 0) 1, ready_of (by decide +kernel) (by decide +kernel) (by decide +kernel) hl.2,
    fun f hf => ?_, ?_⟩
  · rw [hl.1] at hf
    have hc : Canonical 0x1004 := by unfold Canonical; decide
    exact ⟨fun k _ h' => hk f hf k h', (by decide : 0 ≠ 1), rfl, (by decide : 0x1004 % 4 = 0), hc⟩
  · rw [hl.1]
    refine oneByOne_of (ok := fun a f => isOk (a.segHead 1 ((a.crew 1).fibre f).seg).2 (headR f) &&
      isOk ((a.segHead 1 ((a.crew 1).fibre f).seg).1.popSeg 1 f (headR f)).2 ()) (next := retStep) (fun a f h => ?_) (by decide +kernel)
      (by decide +kernel)
    simp only [Bool.and_eq_true] at h
    exact ⟨_, _, ok_of h.1, ok_of h.2, rfl⟩

/-- A fibre that exits. -/
def exitStep (a : State) (f : Nat) : State := ((a.freeStack 1 256 ((a.crew 1).fibre f).seg).1).retire 1 f

theorem test_CallWords_exit : ∃ z,
    Ready st1b iss2 crew1b .all ∧ iss2.waited = [] ∧ (∀ f ∈ ((envAt st1b iss2).lanes .all).sel, TokensClear (crew1b.fibre f)) ∧
    OneByOne (fun a f b => ∃ u, a.freeStack 1 256 ((a.crew 1).fibre f).seg = (u, .ok ()) ∧ b = u.retire 1 f)
      ((envAt st1b iss2).lanes .all).sel (acting st1b iss2) z := by
  have hl : ((envAt st1b iss2).lanes .all).sel = [0, 1] ∧ ((envAt st1b iss2).lanes .all).bad = [] := by decide +kernel
  refine ⟨exitStep (exitStep (acting st1b iss2) 0) 1, ready_st1b _ hl.2, rfl, fun f hf k _ => ?_, ?_⟩
  · rw [hl.1] at hf
    rcases List.mem_pair.1 hf with rfl | rfl <;> exact ⟨rfl, rfl⟩
  · rw [hl.1]
    refine oneByOne_of (ok := fun a f => isOk (a.freeStack 1 256 ((a.crew 1).fibre f).seg).2 ()) (next := exitStep) (fun a f h => ?_)
      (by decide +kernel) (by decide +kernel)
    exact ⟨_, ok_of h, rfl⟩

/-- A crew whose join register 0 records fibres 0 and 1, of which 1 has arrived. -/
def crewJ (arrived : List (Nat × Nat)) : Crew :=
  { crewWith [(0, fib1), (1, { fib [] with st := .parked (.join 0) })] with groups := [(7, grp [0])], joins := [(0, ⟨[0, 1], arrived⟩)] }
/-- The package of that crew. -/
def stJ (arrived : List (Nat × Nat)) : State := package (crewJ arrived) (some iss1)

theorem ready_stJ (a : List (Nat × Nat)) : SwitchReady (stJ a) iss1 (crewJ a) ∧ OneFibre (stJ a) iss1 (crewJ a) .all 0 :=
  ⟨⟨⟨rfl, rfl, by decide, fun f hf => by cases hf with | head => rfl | tail _ h => cases h⟩, rfl, rfl, by
      have : (stJ a).population (crewJ a).core = 2 := rfl
      omega, 7, grp [0], rfl, rfl, rfl, fun f hf => by cases hf with | head => rfl | tail _ h => cases h⟩,
   ⟨⟨rfl, rfl, by decide, fun f hf => by cases hf with | head => rfl | tail _ h => cases h⟩, rfl, rfl, rfl⟩⟩

theorem test_SplitJoin :
    (SwitchReady st2 iss2 crew2 ∧ ((envAt st2 iss2).lanes (.ifP 0)).bad = [] ∧ (crew2.join 7).arrived = []) ∧
    (SwitchReady (stJ []) iss1 (crewJ []) ∧ OneFibre (stJ []) iss1 (crewJ []) .all 0 ∧ 7 < (stJ []).nextId) ∧
    0 ∉ ((crewJ []).join 1).record ∧
    (0 ∈ ((crewJ []).join 0).record ∧ (∀ a ∈ ((crewJ []).join 0).arrived, a.1 ≠ 0) ∧
      ∃ k ∈ ((crewJ []).join 0).record, k ≠ 0 ∧ ∀ a ∈ ((crewJ []).join 0).arrived, a.1 ≠ k) ∧
    let c := crewJ [(1, 0x1004)]
    SwitchReady (stJ [(1, 0x1004)]) iss1 c ∧ 0 ∈ (c.join 0).record ∧
      (∀ a ∈ (c.join 0).arrived, a.1 ≠ 0 ∧ (kget c.fibres a.1).isSome = true) ∧ ((c.join 0).arrived.map Prod.fst).Nodup ∧
      ∀ k ∈ (c.join 0).record, k ≠ 0 → ∃ a ∈ (c.join 0).arrived, a.1 = k :=
  ⟨⟨switch_st2, by decide +kernel, rfl⟩, ⟨(ready_stJ _).1, (ready_stJ _).2, by decide⟩, by decide, by decide, (ready_stJ _).1, by decide⟩

theorem test_NopWord : Issues st2 iss2 crew2 ∧ (0xD2000000 < 2 ^ 32 ∧ 0xD2000000 / 2 ^ 25 = 0x69 ∧ decodeWord 0xD2000000 = .ok .nop) :=
  ⟨issues_st2, by decide⟩

/-- A group at 0x20000 whose pending hint sets phase 9. -/
def grpS : Group := { fids := [0], pc := 0x20000, fpc := 0x20000, fcycle := 0, hints := { sched := some (false, true, 9), first := 0x1FFFC } }
/-- A package in which core 0's picker chooses that group, whose word is a NOP. -/
def stSched : State :=
  (package { crew1 with groups := [(7, grpS)], fibres := [(0, { fib1 with pc := 0x20000 })] } none).writePas 0x20000 (leBytes 4 0xD2000000)
/-- That group as the picker sees it. -/
def candS : Cand := (stSched.pickAny.map Prod.snd).getD ⟨0, none, [], 0, 0⟩

theorem facts_stSched :
    let v := ((picked stSched 0 candS).fetchWord 0 ((picked stSched 0 candS).crew candS.crew).pasid 0x20000)
    stSched.agenda = [] ∧ stSched.heldNow = none ∧ stSched.pickAny = some (0, candS) ∧
    kget ((picked stSched 0 candS).crew candS.crew).groups (chosenGid stSched candS) = some grpS ∧
    isOk v.2 0xD2000000 = true ∧ ((v.1.crew candS.crew).fibre 0).poisoned = false ∧ (v.1.crew candS.crew).raceLog = [] ∧
    (v.1.crew candS.crew).raceLost = false ∧ (v.1.crew candS.crew).alive = true := by decide +kernel

theorem test_NopWord_sched : ∃ g v,
    Fetches stSched 0 candS g v 0xD2000000 ∧ decodeWord 0xD2000000 = .ok .nop ∧ isHintWord 0xD2000000 = false ∧
    ¬ (Sys2Proof.Machine.opOf 0xD2000000 = 0x7F ∧ g.hints.pending = true) ∧ hintCause .nop 0xD2000000 g.hints = none ∧
    (v.crew candS.crew).raceLog = [] ∧ (v.crew candS.crew).raceLost = false ∧ (v.crew candS.crew).alive = true ∧
    g.hints.sched = some (false, true, 9) := by
  obtain ⟨a, b, c, d, e, f, g, h, i⟩ := facts_stSched
  refine ⟨_, _, ⟨a, b, c, d, ok_of e, fun n hn => ?_⟩, by decide, by decide, by decide, by decide, g, h, i, rfl⟩
  rw [List.mem_singleton.1 hn]
  exact f

/-- A crew whose fibres' K3 counts. -/
def crewK (n : Nat) : Crew := crewWith [(0, { fib [] with k := [(3, { count := n })] }), (1, { fib [] with k := [(3, { count := n })] })]
/-- The package of that crew. -/
def stK (n : Nat) : State := package (crewK n) (some iss2)

theorem switch_stK (n : Nat) : SwitchReady (stK n) iss2 (crewK n) := by
  have h2 : ∀ {P : Nat → Prop}, P 0 → P 1 → ∀ f ∈ iss2.grp.fids, P f := fun {P} a b f hf => by
    cases hf with
    | head => exact a
    | tail _ h => cases h with
      | head => exact b
      | tail _ h => cases h
  have hp : (stK n).population (crewK n).core = 2 := rfl
  exact ⟨⟨rfl, rfl, by decide, h2 rfl rfl⟩, rfl, rfl, by omega, 7, grp [0, 1], rfl, rfl, rfl, h2 rfl rfl⟩

theorem test_WaitWords_wait :
    (SwitchReady (stK 63) iss2 (crewK 63) ∧ ∀ f ∈ ((envAt (stK 63) iss2).lanes .all).sel,
      62 < (((crewK 63).fibre f).tok 3).count ∧ ((crewK 63).fibre f).effmask.getLsbD 2 = false) ∧
    SwitchReady (stK 0) iss2 (crewK 0) ∧ (crewK 0).claims = [] ∧ ∀ f ∈ ((envAt (stK 0) iss2).lanes .all).sel,
      (((crewK 0).fibre f).tok 3).count ≤ 0 ∧ (((crewK 0).fibre f).tok 3).err = false ∧ (((crewK 0).fibre f).tok 3).eng = [] :=
  ⟨⟨switch_stK _, by decide +kernel⟩, switch_stK _, rfl, by decide +kernel⟩

/-- A WAITMEM of st1 reads its word: it differs from V4, and does not differ from V3. -/
theorem test_WaitWords_waitmem : ∀ p ∈ ([(4, true), (3, false)] : List (Fin 64 × Bool)),
    let m : MemShape := ⟨⟨.all, 0, p.1, .v 10⟩, .load .w32, .global, 4, 1, 0⟩
    let b := ((taken st1).fresh.2).setPcs 1 [0] 0x1004
    OneFibre st1 iss1 crew1 .all 0 ∧ m.check (envAt st1 iss1) = none ∧ ∃ r u pa, (envAt st1 iss1).memReq b m st1.nextId 0 = .ok r ∧
      b.waitRead 0 1 0 r = (u, .ok (p.2, pa)) := by
  intro p hp
  cases hp with
  | head => exact ⟨one_st1, by decide +kernel, _, _, _, rfl, ok_of (by decide +kernel : isOk _ (true, 0x400000) = true)⟩
  | tail _ h => cases h with
    | head => exact ⟨one_st1, by decide +kernel, _, _, _, rfl, ok_of (by decide +kernel : isOk _ (false, 0x400000) = true)⟩
    | tail _ h => cases h

/-- A relaxed WAITMEM of a line that no L1 holds any part of. -/
theorem test_WaitWords_compare : ∃ r u,
    let m : MemShape := ⟨⟨.all, 0, 4, .v 10⟩, .load .w32, .global, 4, 1, 0⟩
    let b := ((taken st1).fresh.2).setPcs 1 [0] 0x1004
    OneFibre st1 iss1 crew1 .all 0 ∧ m.check (envAt st1 iss1) = none ∧ (envAt st1 iss1).memReq b m st1.nextId 0 = .ok r ∧ r.order = .relaxed ∧
    noWindow (crew1.fibre 0) 4 ∧ b.coreXl 0 1 r.ea .load = (u, .ok 0x400000 true) ∧ u.dataCause 0x400000 4 = none ∧ 0x400000 % 128 + 4 ≤ 128 ∧
    kget (u.agent (u.agentOf 0)).l1 (0x400000 / 128) = none ∧ kget (u.agent (u.agentOf 0)).wc (0x400000 / 128) = none :=
  ⟨_, _, one_st1, by decide +kernel, rfl, rfl, by unfold noWindow; decide, pair_of (by decide +kernel), by decide +kernel, by decide,
    by decide +kernel, by decide +kernel⟩

/-- A crew of one fibre with a barrier that expects two. -/
def crewB (arrived : Nat) : Crew := { crew1 with bars := [(2, { expected := 2, arrived := arrived, phase := 65535 })] }
/-- The package of that crew. -/
def stB (arrived : Nat) : State := package (crewB arrived) (some iss1)

theorem one_stB (n : Nat) : OneFibre (stB n) iss1 (crewB n) .all 0 :=
  ⟨⟨rfl, rfl, by decide, fun f hf => by cases hf with | head => rfl | tail _ h => cases h⟩, rfl, rfl, rfl⟩

/-- Where no agent has a line, nothing is to be merged. -/
theorem mergeable_of {s : State} (h : s.agents = []) : Mergeable s := by
  intro a line hl
  have e : s.agent a = {} := by simp only [State.agent, h]; rfl
  rw [e] at hl
  rcases hl with hl | hl <;> cases hl

/-- A group of two fibres at a barrier that expects a number of arrivals. -/
def crewB2 (expected arrived : Nat) : Crew := { crew2 with bars := [(2, { expected := expected, arrived := arrived, phase := 65535 })] }

theorem test_BarrierWords :
    (SwitchReady st2 iss2 crew2 ∧ (envAt st2 iss2).lanes .all = ⟨0 :: [1], [], []⟩ ∧ isOk ((envAt st2 iss2).read (crew2.fibre 0) 0 (.int 1) 0 0) 1 = true ∧
      1 ≤ (1 : Word).toNat ∧ (4095 : Word).toNat ≤ 4095 ∧ (crew2.bar 15).arrived = 0) ∧
    (SwitchReady st2 iss2 crew2 ∧ ((envAt st2 iss2).lanes (.ifP 6)).sel = [] ∧ ((envAt st2 iss2).lanes (.ifP 6)).bad = [] ∧ 0 < crew2.b ∧
      selFits (.v 15) crew2.b 1 = true) ∧
    (∀ p ∈ [(4095, 4094), (3, 0), (1, 0)], let c := crewB2 p.1 p.2
      Ready (package c (some iss2)) iss2 c .all ∧ Mergeable (package c (some iss2)) ∧ 1 ≤ (c.bar 2).expected ∧ (c.bar 2).expected ≤ 4095 ∧
        (c.bar 2).arrived < (c.bar 2).expected ∧ (c.bar 2).phase < 65536) ∧
    (Issues st2 iss2 crew2 ∧ crew2.life = .running ∧ Mergeable st2 ∧ ((envAt st2 iss2).lanes (.ifP 0)).bad = [] ∧
      ((envAt st2 iss2).lanes (.ifP 0)).sel ≠ [] ∧ MayWriteG st2 iss2 crew2 31 ∧ gSettled iss2 crew2 31) :=
  ⟨⟨switch_st2, rfl, by decide +kernel, by decide, by decide, rfl⟩,
   ⟨switch_st2, by decide +kernel, by decide +kernel, by decide, by decide⟩,
   fun p hp => by
     have h : p.2 < p.1 ∧ 1 ≤ p.1 ∧ p.1 ≤ 4095 := by
       revert p
       decide
     exact ⟨⟨⟨rfl, rfl, by decide, fun f hf => (by decide : ∀ f ∈ [0, 1], (kget fibs2 f).isSome = true) f hf⟩, rfl, rfl⟩, mergeable_of rfl,
       h.2.1, h.2.2, h.1, by show 65535 < 65536; decide⟩,
   issues_st2, rfl, mergeable_of rfl, by decide +kernel, by decide +kernel, rfl, by unfold gSettled; decide⟩

/-- A pipeline of two stages. -/
def gangQ : Gang := { gang1 with launch := { s := 2 } }
/-- A crew of a stage. -/
def crewQ (stage : Nat) (qmask : BitVec 4) : Crew := { crew2 with stage := stage, qmask := qmask }
/-- The crew of the second stage, with a number of values in its queue 1. -/
def crewQ2 (n : Nat) (life : Life) : Crew := { crew2 with stage := 1, queues := [(1, List.replicate n 9)], home := some 1, life := life }
/-- The package of both. -/
def stQ (stage : Nat) (qmask : BitVec 4) (n : Nat) (life : Life) : State :=
  { package (crewQ stage qmask) (some iss2) with crews := [(1, crewQ stage qmask), (2, crewQ2 n life)], gangs := [(1, gangQ)] }

/-- What QueuePut asks of every case. -/
def putOk (stage : Nat) (qmask : BitVec 4) (n : Nat) (life : Life) : Prop :=
  let s := stQ stage qmask n life
  let c := crewQ stage qmask
  SwitchReady s iss2 c ∧ ((envAt s iss2).lanes .all).bad = [] ∧ ((envAt s iss2).lanes .all).sel = [0, 1] ∧ 0 < c.b ∧ selFits (.v 1) c.b 1 = true ∧
    (envAt s iss2).splitRead (selRegs (.v 1) 1) = false ∧ kget s.gangs c.gang = some gangQ

theorem putOk_of {stage : Nat} {qmask : BitVec 4} {n : Nat} {life : Life} (h : (stQ stage qmask n life).population 0 ≤ 256) : putOk stage qmask n life :=
  ⟨⟨⟨rfl, rfl, by decide, fun f hf => (by decide : ∀ f ∈ [0, 1], (kget fibs2 f).isSome = true) f hf⟩, rfl, rfl, h, 7, grp [0, 1], rfl, rfl, rfl,
    fun f hf => (by decide : ∀ f ∈ [0, 1], (kgetD fibs2 f {}).st = .formed 7) f hf⟩, rfl, rfl, by show 0 < 16; decide, rfl, rfl, rfl⟩

theorem test_QueuePut :
    (putOk 1 15 0 .running ∧ gangQ.launch.s ≤ (crewQ 1 15).stage + 1) ∧ (putOk 0 13 0 .running ∧ (crewQ 0 13).qmask.getLsbD 1 = false) ∧
    (∀ p ∈ [(254, Life.running), (255, .running), (0, .ended)],
      putOk 0 15 p.1 p.2 ∧ (crewQ 0 15).stage + 1 < gangQ.launch.s ∧ (crewQ 0 15).qmask.getLsbD 1 = true ∧
      (stQ 0 15 p.1 p.2).stageCrew (crewQ 0 15) 1 = some (2, crewQ2 p.1 p.2) ∧ kget (stQ 0 15 p.1 p.2).crews 2 = some (crewQ2 p.1 p.2)) ∧
    (crewQ2 0 .ended).alive = false ∧ 256 < ((crewQ2 255 .running).queue 1).length + 2 ∧ ((crewQ2 254 .running).queue 1).length + 2 ≤ 256 ∧
    (crewQ2 254 .running).alive = true ∧ (crewQ 0 15).queueTaken (.qput .all 1 (.v 1)) = false ∧
    ∀ f ∈ [0, 1], isOk ((envAt (stQ 0 15 254 .running) iss2).read ((crewQ 0 15).fibre f) f (.v 1) 0 0) 0x408 = true :=
  ⟨⟨putOk_of (by decide), by decide⟩, ⟨putOk_of (by decide), by decide⟩, fun p hp => by
      have : (stQ 0 15 p.1 p.2).population 0 ≤ 256 := by revert p; decide
      refine ⟨putOk_of this, by decide, by decide, ?_, rfl⟩
      revert p
      decide +kernel,
    by decide, by decide, by decide, by decide, by decide +kernel, by decide +kernel⟩

end Sys2Proof.Tests
end

