-- ==== Sys2Proof/Tests/Engines.lean ====
section
/-! SUPPORT. States that meet the hypotheses of the obligations about memory, engine, frame and system words. -/

namespace Sys2Proof.Tests

open Sys2Proof.Machine Sys2Proof.Terms

set_option Elab.async false
set_option maxRecDepth 100000

/-- A memory request of no word. -/
def noReq : MemReq := ⟨.ifence, .global, 0, 0, 0, 0, 0, 0, [], .relaxed, .core, .normal, 0, 0, 0, 0, 0⟩

/-- The request of a memory word of a lane. -/
def reqAt (s : State) (i : Issue) (m : MemShape) (f : Nat) : MemReq :=
  match (envAt s i).memReq s m s.nextId f with
  | .ok r => r
  | .error _ => noReq

/-- The request of a word can be made. -/
def reqOk (s : State) (i : Issue) (m : MemShape) (f : Nat) : Bool :=
  match (envAt s i).memReq s m s.nextId f with
  | .ok _ => true
  | .error _ => false

theorem of_reqOk {s : State} {i : Issue} {m : MemShape} {f : Nat} (h : reqOk s i m f = true) :
    (envAt s i).memReq s m s.nextId f = .ok (reqAt s i m f) := by
  unfold reqAt
  unfold reqOk at h
  split
  · next r heq => exact heq
  · next e heq => rw [heq] at h; cases h

/-- A crew whose registers hold addresses of device memory, of a counter, and of the scratchpad; K5 counts 62 operations. -/
def crewM : Crew :=
  crewWith [(0, { fib [(0, 0x20000), (2, 0xFFC0), (4, 0x20), (6, 3), (8, 64)] with k := [(5, { count := 62 })] }),
            (1, { fib [(0, 0x20010), (2, 0xFFE0), (4, 0x30), (6, 4), (8, 65)] with k := [(5, { count := 62 })] })]
/-- The package of that crew. -/
def stM : State := package crewM (some iss2)

theorem issues_stM : Issues stM iss2 crewM := ⟨rfl, rfl, by decide, by decide⟩

/-- What the hypotheses of MemoryWords ask of a word in stM. -/
def memOk (w : Instr) : Prop :=
  ∃ m, memShape w = some m ∧ m.space ≠ .frame ∧ m.check (envAt stM iss2) = none ∧ ((envAt stM iss2).lanes m.h.g).bad = [] ∧
    ∀ f ∈ ((envAt stM iss2).lanes m.h.g).sel,
      (envAt stM iss2).memReq stM m stM.nextId f = .ok (reqAt stM iss2 m f) ∧ ((crewM.fibre f).tok m.h.k.val).count < 63

theorem memOk_of {w : Instr} {m : MemShape} (h : memShape w = some m) (hs : m.space ≠ .frame) (hc : m.check (envAt stM iss2) = none)
    (hb : ((envAt stM iss2).lanes m.h.g).bad = [])
    (hf : ∀ f ∈ ((envAt stM iss2).lanes m.h.g).sel, reqOk stM iss2 m f = true ∧ ((crewM.fibre f).tok m.h.k.val).count < 63) : memOk w :=
  ⟨m, h, hs, hc, hb, fun f x => ⟨of_reqOk (hf f x).1, (hf f x).2⟩⟩

theorem test_MemoryWords :
    memOk (.ldg ⟨.all, 5, 12, .v 0⟩ .w128) ∧ memOk (.stx ⟨.all, 5, 12, .v 2⟩ .z8) ∧ memOk (.ldc ⟨.all, 5, 15, .v 4⟩ .s16) ∧
    memOk (.atom ⟨.all, 5, 14, .v 0⟩ .add64) ∧ memOk (.allowTake ⟨.all, 5, 6, .v 0⟩) ∧ memOk (.cacheClean ⟨.all, 5, 8, .v 0⟩) :=
  ⟨memOk_of rfl (by decide) (by decide +kernel) (by decide +kernel) (by decide +kernel),
   memOk_of rfl (by decide) (by decide +kernel) (by decide +kernel) (by decide +kernel),
   memOk_of rfl (by decide) (by decide +kernel) (by decide +kernel) (by decide +kernel),
   memOk_of rfl (by decide) (by decide +kernel) (by decide +kernel) (by decide +kernel),
   memOk_of rfl (by decide) (by decide +kernel) (by decide +kernel) (by decide +kernel),
   memOk_of rfl (by decide) (by decide +kernel) (by decide +kernel) (by decide +kernel)⟩

/-- The shape of an STF of one word. -/
def shapeF : MemShape := (memShape (.stf ⟨.all, 3, 2, .v 12⟩ .w32)).getD ⟨⟨.all, 0, 0, .v 0⟩, .load .w32, .frame, 4, 1, 0⟩
/-- A fibre that issues the STF. -/
def stfStep (a : State) (f : Nat) : State := ((a.frameIssue iss2 f (reqAt st1b iss2 shapeF f)).1).launchMem iss2 f (reqAt st1b iss2 shapeF f)

theorem test_FrameAndFenceWords : (∃ z,
    memShape (.stf ⟨.all, 3, 2, .v 12⟩ .w32) = some shapeF ∧ Ready st1b iss2 crew1b .all ∧ shapeF.check (envAt st1b iss2) = none ∧
    (∀ f ∈ ((envAt st1b iss2).lanes .all).sel, ((crew1b.fibre f).tok 3).count < 63) ∧
    OneByOne (fun a f b => ∃ u, (envAt st1b iss2).memReq a shapeF st1b.nextId f = .ok (reqAt st1b iss2 shapeF f) ∧
      a.frameIssue iss2 f (reqAt st1b iss2 shapeF f) = (u, none) ∧ b = u.launchMem iss2 f (reqAt st1b iss2 shapeF f))
      ((envAt st1b iss2).lanes .all).sel (taken st1b).fresh.2 z) ∧
    Issues stM iss2 crewM ∧ ((envAt stM iss2).lanes .all).bad = [] ∧
    ∀ f ∈ ((envAt stM iss2).lanes .all).sel, ((crewM.fibre f).tok 0).count < 63 := by
  have hl : ((envAt st1b iss2).lanes .all).sel = [0, 1] ∧ ((envAt st1b iss2).lanes .all).bad = [] := by decide +kernel
  refine ⟨⟨stfStep (stfStep (taken st1b).fresh.2 0) 1, rfl, ready_st1b _ hl.2, by decide +kernel, by decide +kernel, ?_⟩, issues_stM, by decide +kernel, by decide +kernel⟩
  rw [hl.1]
  refine oneByOne_of (ok := fun a f => isOk ((envAt st1b iss2).memReq a shapeF st1b.nextId f) (reqAt st1b iss2 shapeF f) &&
    (a.frameIssue iss2 f (reqAt st1b iss2 shapeF f)).2.isNone) (next := stfStep) (fun a f h => ?_) (by decide +kernel) (by decide +kernel)
  simp only [Bool.and_eq_true, Option.isNone_iff_eq_none] at h
  exact ⟨_, of_isOk h.1, pair_of h.2, rfl⟩

/-- A crew with operands of the copy, matrix and bulk engines, and a claim that holds a pair. -/
def crewE : Crew :=
  { crewM with g := [(4, 0x4000100), (5, 0x0FFF), (6, 0x100), (7, 0), (8, 0x100), (9, 0x20), (10, 0x30000), (12, 16), (13, 7), (16, 0x4000000), (20, 0x200)]
               bars := [(0, { expected := 2 })], claims := [⟨[], some 0, none, none, [], false⟩] }
/-- The package of that crew. -/
def stE : State := package crewE (some iss2)

theorem issues_stE : Issues stE iss2 crewE := ⟨rfl, rfl, by decide, by decide⟩
theorem count_stE : CanCount crewE 5 iss2.grp.fids := ⟨by decide, by decide⟩

theorem test_CopyWords_plain :
    Issues stE iss2 crewE ∧ CanCount crewE 5 iss2.grp.fids ∧
    (∃ o, copyRule {} (.xload ⟨5, .int 0, 4⟩) = some (0, 5, some (.int 0), 4, false) ∧
      copyPlan 0 (some (.int 0)) 4 false (envAt stE iss2) = .ok (o, some 0)) ∧
    (∃ o, copyRule { emod := 8 } (.xstore ⟨5, .int 0, 4⟩) = some (1, 5, some (.int 0), 4, true) ∧
      copyPlan 1 (some (.int 0)) 4 true (envAt stE iss2) = .ok (o, some 0)) ∧
    (∃ o, copyRule {} (.xfill ⟨5, .int 7, 4⟩) = some (4, 5, some (.int 7), 4, true) ∧
      copyPlan 4 (some (.int 7)) 4 true (envAt stE iss2) = .ok (o, some 0)) ∧
    (∃ o, copyRule {} (.xpub 5 16) = some (5, 5, none, 16, false) ∧ copyPlan 5 none 16 false (envAt stE iss2) = .ok (o, some 0)) :=
  ⟨issues_stE, count_stE, ⟨_, rfl, rfl⟩, ⟨_, rfl, rfl⟩, ⟨_, rfl, rfl⟩, _, rfl, rfl⟩

theorem test_CopyWords_gather :
    CanCount crewE 5 ((envAt stE iss2).lanes .all).sel ∧ ReadsPair stE iss2 crewE .all (.v 14) (fun _ => (0, 0)) ∧
    (envAt stE iss2).splitRead [6, 7] = false ∧ ∃ o, copyPlan 3 none 6 true (envAt stE iss2) = .ok (o, none) :=
  ⟨⟨by decide +kernel, by decide +kernel⟩, ⟨by decide, rfl, by decide +kernel, fun f hf => of_isOk
      ((by decide +kernel : ∀ f ∈ ((envAt stE iss2).lanes .all).sel,
        isOk ((envAt stE iss2).readPair (crewE.fibre f) f (.v 14) 0) (0, 0) = true) f hf)⟩, by decide +kernel, _, rfl⟩

theorem test_MatrixWords :
    (Issues stM iss2 crewM ∧ CanCount crewM 5 iss2.grp.fids ∧ crewM.hasClaim = false) ∧
    Issues stE iss2 crewE ∧ CanCount crewE 5 iss2.grp.fids ∧
    (∃ p, matrixRule (.mrel 5) = some (1, 5, none) ∧ matBare 1 (envAt stE iss2) = .ok p) ∧
    (∃ p, matrixRule (.mstream ⟨5, .int 0, 8⟩) = some (4, 5, some (.int 0, 8)) ∧ matPlan 4 (.int 0) 6 (envAt stE iss2) = .ok p ∧
      (envAt stE iss2).splitRead (selRegs (.int 0) 1 ++ [6, 7]) = false) ∧
    (∃ p, matrixRule (.mzero ⟨5, .int 6, 6⟩) = some (5, 5, some (.int 6, 6)) ∧ matPlan 5 (.int 6) 6 (envAt stE iss2) = .ok p) ∧
    MayWriteG stE iss2 crewE 31 :=
  ⟨⟨issues_stM, ⟨by decide, by decide⟩, by decide⟩, issues_stE, count_stE, ⟨_, rfl, rfl⟩, ⟨_, rfl, rfl, by decide +kernel⟩, ⟨_, rfl, rfl⟩, rfl⟩

/-- A crew with the block of a send and a receive of 16 bytes. -/
def crewS : Crew := { crewE with g := [(13, 7), (22, 0x30000), (24, 16)] }
/-- The package of that crew, with some sends. -/
def stSend (sends : KMap Send) : State := { package crewS (some iss2) with sends := sends }
/-- A send that has made its request. -/
def sendR : Send := { crew := 1, id := ⟨1, 0, 0, 1, 1⟩, addr := 0x30000, len := 40, pri := 0, requested := true }
/-- The plan of that crew's send. -/
def planS : BulkPlan := ⟨0, false, false, none, 0, 0, 7, 0, 16, 0x30000, 0⟩

/-- What BulkWords asks of a BXSEND, in a package without sends and in one whose records are all taken. -/
theorem test_BulkWords_send : ∀ sends ∈ [[], List.replicate 16384 (1, sendR)],
    Issues (stSend sends) iss2 crewS ∧ CanCount crewS 5 iss2.grp.fids ∧
    (envAt (stSend sends) iss2).splitRead (selRegs (.g 13) 1 ++ blockRegs 0 21) = false ∧
    bulkPlan (stSend sends) 0 ⟨5, .g 13, 21⟩ (envAt (stSend sends) iss2) = .ok planS ∧ kget (stSend sends).gangs crewS.gang = some gang1 ∧
    (stSend sends).pages = [] ∧ ∀ x ∈ (stSend sends).sends, x.1 < (stSend sends).nextId ∧ x.2.requested = true ∧
      (stSend sends).sameSend x.2.id (planS.msgId crewS.gang gang1.mine) = false := by
  intro sends hs
  cases hs with
  | head => exact ⟨⟨rfl, rfl, by decide, by decide⟩, ⟨by decide, by decide⟩, rfl, rfl, rfl, rfl, fun x hx => by cases hx⟩
  | tail _ h => cases h with
    | head => exact ⟨⟨rfl, rfl, by decide, by decide⟩, ⟨by decide, by decide⟩, rfl, rfl, rfl, rfl, fun x hx => by
        rw [List.eq_of_mem_replicate hx]; exact ⟨by decide, rfl, by decide +kernel⟩⟩
    | tail _ h => cases h

theorem test_BulkWords_prefix :
    (∃ v, (stSend []).sends.length < 16384 ∧
      (sendState (stSend []) iss2 crewS gang1 5 planS).engineRead crewS.pasid planS.addr (min planS.len (16384 * (stSend []).prefixUnits)) =
        (v, .ok (List.replicate 16 0))) ∧
    16384 ≤ (stSend (List.replicate 16384 (1, sendR))).sends.length :=
  ⟨⟨_, by decide, ok_of (by decide +kernel)⟩, Nat.le_of_eq List.length_replicate.symm⟩

theorem test_BulkWords :
    Issues stE iss2 crewE ∧ CanCount crewE 5 iss2.grp.fids ∧
    (∀ fn, (envAt stE iss2).splitRead (selRegs (.g 13) 1 ++ blockRegs fn 9) = false) ∧
    (∃ p, bulkPlan (stSend []) 1 ⟨5, .g 13, 21⟩ (envAt (stSend []) iss2) = .ok p) ∧
    (∃ p, bulkPlan stE 2 ⟨5, .g 13, 24⟩ (envAt stE iss2) = .ok p) ∧ (∃ p, bulkPlan stE 3 ⟨5, .g 13, 24⟩ (envAt stE iss2) = .ok p) ∧
    kget stE.gangs crewE.gang = some gang1 ∧ (stE.recvs.filter fun r => r.2.ending.isNone).length < 16384 ∧ stE.msgs = [] :=
  ⟨issues_stE, count_stE, fun _ => rfl, ⟨_, rfl⟩, ⟨_, rfl⟩, ⟨_, rfl⟩, rfl, by decide, rfl⟩

/-! ## Frame engine words -/

/-- A fibre that installs its hinge. -/
def hinstStep (a : State) (f : Nat) : State :=
  ((a.pushSeg 1 f 1 0 false (hingeRecord 0x21 0x1400 0)).1).modFibre 1 f fun x => { x with effmask := x.effmask ||| BitVec.ofNat 64 0x21 }

/-- The one selected fibre of two installs a hinge. -/
theorem test_HingeWords_hinst : ∃ z,
    Ready st1b iss2 crew1b (.ifP 0) ∧ groupCheck (envAt st1b iss2) [(.v 4, 2)] 6 2 = none ∧
    (∀ f ∈ ((envAt st1b iss2).lanes (.ifP 0)).sel, ((crew1b.fibre f).tok 0).count < 63 ∧ isOk ((envAt st1b iss2).pairAt f (.v 4)) 0x21 = true ∧
      isOk ((envAt st1b iss2).pairV f 6) (0x1400, 0) = true ∧ 0x21 / 2 ^ 14 % 2 ^ 18 = 0 ∧ pairNat ((0x1400 : Word), (0 : Word)) % 4 = 0) ∧
    Canonical 0x1400 ∧
    OneByOne (fun a f b => ∃ u, a.pushSeg 1 f 1 0 false (hingeRecord 0x21 0x1400 (crew1b.fibre f).effmask.toNat) = (u, .ok ()) ∧
      b = u.modFibre 1 f fun x => { x with effmask := x.effmask ||| BitVec.ofNat 64 0x21 }) ((envAt st1b iss2).lanes (.ifP 0)).sel
      (acting st1b iss2) z := by
  have hl : ((envAt st1b iss2).lanes (.ifP 0)).sel = [0] ∧ ((envAt st1b iss2).lanes (.ifP 0)).bad = [] := by decide +kernel
  refine ⟨hinstStep (acting st1b iss2) 0, ready_st1b _ hl.2, by decide +kernel, by decide +kernel, by unfold Canonical; decide, ?_⟩
  rw [hl.1]
  exact ⟨hinstStep (acting st1b iss2) 0, ⟨_, ok_of (by decide +kernel), rfl⟩, rfl⟩

/-- Both fibres with a hinge for effects 0 and 5. -/
def stH2 : State := again (.hinst ⟨.unlessP 0, .v 4, 6⟩) (again (.hinst ⟨.ifP 0, .v 4, 6⟩) st1b 1024) 0
/-- The hinge of a fibre in stH2. -/
def headH (f : Nat) : SegHead := ⟨0x400800 + 0x400 * f, 0x400000 + 0x400 * f, 1, 0, false, 0x21, 0x1400, 0, false⟩
/-- A fibre that pops its hinge. -/
def hpopStep (a : State) (f : Nat) : State :=
  (((a.segHead 1 ((a.crew 1).fibre f).seg).1.popSeg 1 f (headH f)).1).modFibre 1 f fun x => { x with effmask := BitVec.ofNat 64 (headH f).saved }

theorem test_HingeWords_hpop : ∃ z,
    Ready stH2 iss2 (stH2.crew 1) .all ∧ 0 < (stH2.crew 1).b ∧
    (∀ f ∈ ((envAt stH2 iss2).lanes .all).sel, (((stH2.crew 1).fibre f).tok 0).count < 63 ∧ (headH f).kind = 1) ∧
    OneByOne (fun a f b => ∃ u v, a.segHead 1 ((a.crew 1).fibre f).seg = (u, .ok (headH f)) ∧ u.popSeg 1 f (headH f) = (v, .ok ()) ∧
      b = v.modFibre 1 f fun x => { x with effmask := BitVec.ofNat 64 (headH f).saved }) ((envAt stH2 iss2).lanes .all).sel (acting stH2 iss2) z := by
  have hl : ((envAt stH2 iss2).lanes .all).sel = [0, 1] ∧ ((envAt stH2 iss2).lanes .all).bad = [] := by decide +kernel
  refine ⟨hpopStep (hpopStep (acting stH2 iss2) 0) 1, ready_of (by decide +kernel) (by decide +kernel) (by decide +kernel) hl.2, by decide +kernel,
    by decide +kernel, ?_⟩
  rw [hl.1]
  refine oneByOne_of (ok := fun a f => isOk (a.segHead 1 ((a.crew 1).fibre f).seg).2 (headH f) &&
    isOk ((a.segHead 1 ((a.crew 1).fibre f).seg).1.popSeg 1 f (headH f)).2 ()) (next := hpopStep) (fun a f h => ?_) (by decide +kernel)
    (by decide +kernel)
  simp only [Bool.and_eq_true] at h
  exact ⟨_, _, ok_of h.1, ok_of h.2, rfl⟩

/-- The state that a word leaves, with fibre 0 at the next word to be tested and one free segment more. -/
def goOn (w : Instr) (s : State) (more : Nat) : State :=
  match exec w s with
  | .next t =>
    let c : Crew := { t.crew 1 with fibres := kmap (t.crew 1).fibres fun _ f => { f with st := .formed 7, pc := 0x1000 }, groups := [(7, grp [0])] }
    { t with cur := some iss1, crews := [(1, { c with segFrame := ⟨c.segFrame.base, c.segFrame.limit + more⟩ })] }
  | .fault _ | .refused _ => s

/-- The fibre with a hinge for effects 0 and 5. -/
def stH : State := goOn (.hinst ⟨.all, .v 4, 6⟩) st1 1024

theorem oneFibre_of {s : State} {c : Crew} (h1 : s.cur = some iss1) (h2 : kget s.crews 1 = some c) (h3 : (kget c.fibres 0).isSome = true)
    (h4 : c.life = .running) (h5 : ((envAt s iss1).lanes .all).sel = [0] ∧ ((envAt s iss1).lanes .all).out = [] ∧
    ((envAt s iss1).lanes .all).bad = []) : OneFibre s iss1 c .all 0 :=
  ⟨⟨h1, h2, by decide, fun f hf => by cases hf with | head => exact h3 | tail _ h => cases h⟩, h4, rfl, by
    revert h5
    cases (envAt s iss1).lanes .all
    intro h
    obtain ⟨a, b, c⟩ := h
    simp only at a b c
    rw [a, b, c]⟩

/-- Both fibres perform YIELD, for which neither has a hinge. -/
theorem test_PerformWord :
    Ready st1b iss2 crew1b .all ∧ groupCheck (envAt st1b iss2) [(.int 1, 1)] 0 1 = none ∧ selQueue (.int 1) = [] ∧
    ∀ f ∈ ((envAt st1b iss2).lanes .all).sel, ((crew1b.fibre f).tok 0).count < 63 ∧ (1 : Word).toNat < 14 ∧
      isOk ((envAt st1b iss2).read (crew1b.fibre f) f (.int 1) 0 0) 1 = true ∧
      isOk ((envAt st1b iss2).readV (crew1b.fibre f) f 0 1) 0x2000 = true ∧ (crew1b.fibre f).effmask.getLsbD 1 = false :=
  ⟨ready_st1b _ (by decide +kernel), by decide +kernel, rfl, by decide +kernel⟩

/-- The fibre in the handler of effect 5, with the handle of its continuation in V0 and V1. -/
def stC : State := goOn (.perform ⟨.all, .imm, 6⟩) { stH with cur := some { iss1 with imm := some 5 } } 1024

/-- The outcome of a search for a continuation. -/
def foundAt (x : FrRes (Except Cause (Nat × Nat))) (v : Nat × Nat) : Bool :=
  match x.2 with
  | .ok (.ok y) => decide (y = v)
  | _ => false

theorem of_foundAt {x : FrRes (Except Cause (Nat × Nat))} {v : Nat × Nat} (h : foundAt x v = true) : x = (x.1, .ok (.ok v)) := by
  obtain ⟨s, r⟩ := x
  match r with
  | .ok (.ok y) => simp only [foundAt, decide_eq_true_eq] at h; rw [h]
  | .ok (.error _) => simp [foundAt] at h
  | .error _ => simp [foundAt] at h

/-- The search of a RESUME in stC. -/
def findC : FrRes (Except Cause (Nat × Nat)) := (acting stC iss1).findCont 1 0x400801

theorem facts_stC :
    (stC.cur = some iss1 ∧ kget stC.crews 1 = some (stC.crew 1) ∧ (kget (stC.crew 1).fibres 0).isSome = true ∧ (stC.crew 1).life = .running ∧
      ((envAt stC iss1).lanes .all).sel = [0] ∧ ((envAt stC iss1).lanes .all).out = [] ∧ ((envAt stC iss1).lanes .all).bad = []) ∧
    groupCheck (envAt stC iss1) [(.v 0, 2)] 4 2 = none ∧ isOk ((envAt stC iss1).pairAt 0 (.v 0)) 0x400801 = true ∧
    isOk ((envAt stC iss1).pairV 0 4) (0x21, 0) = true ∧
    (∀ k, k < 16 → (((stC.crew 1).fibre 0).tok k).count = 0 ∧ (((stC.crew 1).fibre 0).tok k).err = false) ∧
    foundAt findC (0x400800, 0x400800) = true ∧ (findC.1.contHead 0x400800).rev = true ∧
    (findC.1.contHead 0x400800).budget ≤ (stC.crew 1).b ∧ ((stC.crew 1).fibre 0).depth + (findC.1.contHead 0x400800).nseg ≤ 256 ∧
    (findC.1.contHead 0x400800).live = true ∧
    isOk (findC.1.takeResume 1 0 0x400800 0x400800 (findC.1.contHead 0x400800) 0x21 0).2 () = true := by decide +kernel

theorem tokensClear_of {f : Fibre} (h : ∀ k, k < 16 → (f.tok k).count = 0 ∧ (f.tok k).err = false) : TokensClear f := h

/-- The head of the continuation in stC. -/
def headC : ContHead := findC.1.contHead 0x400800

theorem test_ResumeWord : ∃ z,
    Ready stC iss1 (stC.crew 1) .all ∧ iss1.waited = [] ∧ groupCheck (envAt stC iss1) [(.v 0, 2)] 4 2 = none ∧
    (∀ f ∈ ((envAt stC iss1).lanes .all).sel, isOk ((envAt stC iss1).pairAt f (.v 0)) 0x400801 = true ∧
      isOk ((envAt stC iss1).pairV f 4) (0x21, 0) = true ∧ TokensClear ((stC.crew 1).fibre f) ∧ headC.rev = true ∧
      headC.budget ≤ (stC.crew 1).b ∧ ((stC.crew 1).fibre f).depth + headC.nseg ≤ 256 ∧ headC.live = true) ∧
    OneByOne (fun a f b => ∃ u va pa, a.findCont 1 0x400801 = (u, .ok (.ok (va, pa))) ∧ u.contHead pa = headC ∧
      u.takeResume 1 f va pa headC 0x21 0 = (b, .ok ())) ((envAt stC iss1).lanes .all).sel (acting stC iss1) z := by
  obtain ⟨⟨a1, a2, a3, a4, a5, a6, a7⟩, b, c, d, e, f, g, h, i, j, k⟩ := facts_stC
  refine ⟨(findC.1.takeResume 1 0 0x400800 0x400800 headC 0x21 0).1, ⟨⟨a1, a2, by decide, fun f hf => by cases hf with | head => exact a3 | tail _ h => cases h⟩, a4, a7⟩, rfl, b, fun f hf => ?_, ?_⟩
  · rw [a5] at hf
    rw [List.mem_singleton.1 hf]
    exact ⟨c, d, tokensClear_of e, g, h, i, j⟩
  · rw [a5]
    exact ⟨_, ⟨findC.1, _, _, of_foundAt f, rfl, ok_of k⟩, rfl⟩

theorem test_ContinuationWords : ∀ w ∈ ([.drop .all 3 (.v 0), .kstat ⟨.all, 3, .v 0, 8⟩, .kpack ⟨.all, 3, .v 0, 10⟩, .kunpack ⟨.all, 3, .v 10, 8⟩] : List Instr),
    w.wellFormed = true ∧ Ready st1b iss2 crew1b .all ∧ groupCheck (envAt st1b iss2) [(.v 10, 2)] 8 2 = none ∧
    canonical (st1b.levels 1) 0x400000 = true ∧ 0x400000 % 16 = 0 ∧
    ∀ f ∈ ((envAt st1b iss2).lanes .all).sel, ((crew1b.fibre f).tok 3).count < 63 ∧ isOk ((envAt st1b iss2).pairAt f (.v 10)) 0x400000 = true ∧
      isOk ((envAt st1b iss2).pairV f 10) (0x400000, 0) = true ∧ ∀ n, (crew1b.fibre f).strictV iss2.strict n = none :=
  fun w hw => ⟨(by decide : ∀ w ∈ _, Instr.wellFormed w = true) w hw, ready_st1b _ (by decide +kernel), by decide +kernel, by decide +kernel,
    by decide, fun f hf => by
      obtain ⟨a, b, c⟩ := (by decide +kernel : ∀ f ∈ ((envAt st1b iss2).lanes .all).sel, ((crew1b.fibre f).tok 3).count < 63 ∧
        isOk ((envAt st1b iss2).pairAt f (.v 10)) 0x400000 = true ∧ isOk ((envAt st1b iss2).pairV f 10) (0x400000, 0) = true) f hf
      exact ⟨a, b, c, fun _ => rfl⟩⟩

/-- A crew whose 64 positions hold fibres; the group is of the first two. -/
def crewF : Crew := { crew1b with fibres := (List.range 64).map fun n => (n, fib1), n := 64 }
/-- The package of that crew, with the function header of st1. -/
def stF : State := { st1b with crews := [(1, crewF)] }

/-- A fibre of stF that spawns none: it pushes false. -/
def noSpawn (a : State) (f : Nat) : State := (((a.checkHeader iss2 0x1400).1).pushSpawn (envAt stF iss2) f false).1
/-- The state in which the fibres of stF act. -/
def spawnF : State :=
  ((taken stF).modCrew 1 fun x => x.putFibres ((envAt stF iss2).changeAll 4 (fun p => pushP p false) ((envAt stF iss2).lanes .all).out)).setPcs 1 [0, 1] 0x1004

/-- No position is free for two fibres that spawn. -/
theorem test_SpawnWord_full : ∃ z,
    Ready stF iss2 crewF .all ∧ PSettled iss2 crewF ∧ groupCheck (envAt stF iss2) [(.v 2, 2)] 4 2 = none ∧
    (∀ f ∈ ((envAt stF iss2).lanes .all).sel, ((crewF.fibre f).tok 0).count < 63 ∧ isOk ((envAt stF iss2).pairAt f (.v 2)) 0x1400 = true ∧
      isOk ((envAt stF iss2).pairV f 4) (0x21, 0) = true ∧ 0x1400 % 4 = 0 ∧ Canonical 0x1400) ∧
    OneByOne (fun a f b => ∃ u, a.checkHeader iss2 0x1400 = (u, none) ∧ (u.crew 1).emptyPosition = none ∧
      b = (u.pushSpawn (envAt stF iss2) f false).1) ((envAt stF iss2).lanes .all).sel spawnF z := by
  have hl : ((envAt stF iss2).lanes .all).sel = [0, 1] ∧ ((envAt stF iss2).lanes .all).bad = [] := by decide +kernel
  have hc : Canonical 0x1400 := by unfold Canonical; decide
  refine ⟨noSpawn (noSpawn spawnF 0) 1, ready_of (by decide +kernel) (by decide +kernel) rfl hl.2, by unfold PSettled; decide +kernel, by decide +kernel,
    fun f hf => ?_, ?_⟩
  · obtain ⟨a, b, c⟩ := (by decide +kernel : ∀ f ∈ ((envAt stF iss2).lanes .all).sel, ((crewF.fibre f).tok 0).count < 63 ∧
      isOk ((envAt stF iss2).pairAt f (.v 2)) 0x1400 = true ∧ isOk ((envAt stF iss2).pairV f 4) (0x21, 0) = true) f hf
    exact ⟨a, b, c, by decide, hc⟩
  · rw [hl.1]
    refine oneByOne_of (ok := fun a f => (a.checkHeader iss2 0x1400).2.isNone && ((a.checkHeader iss2 0x1400).1.crew 1).emptyPosition.isNone)
      (next := noSpawn) (fun a f h => ?_) (by decide +kernel) (by decide +kernel)
    simp only [Bool.and_eq_true, Option.isNone_iff_eq_none] at h
    exact ⟨_, pair_of h.1, h.2, rfl⟩

/-- The state in which the one selected fibre of two spawns. -/
def spawn1 : State :=
  ((taken st1b).modCrew 1 fun x =>
    x.putFibres ((envAt st1b iss2).changeAll 4 (fun p => pushP p false) ((envAt st1b iss2).lanes (.ifP 0)).out)).setPcs 1 [0, 1] 0x1004

/-- The state once that fibre has spawned one. -/
def spawned : State :=
  let v := ((spawn1.checkHeader iss2 0x1400).1.firstSeg 1 2).1
  (((v.modCrew 1 fun x => { x with
    fibres := kset x.fibres 2 (newFibre ((v.crew 1).fibre 0) 0x21 0 0x400800 0x1400), created := x.created + 1 }).enter 1 2).pushSpawn
      (envAt st1b iss2) 0 true).1

/-- A position and a segment are free for the one selected fibre of two. -/
theorem test_SpawnWord : ∃ z,
    Ready st1b iss2 crew1b (.ifP 0) ∧ PSettled iss2 crew1b ∧ groupCheck (envAt st1b iss2) [(.v 2, 2)] 4 2 = none ∧
    OneByOne (fun a f b => ∃ u, a.checkHeader iss2 0x1400 = (u, none) ∧ (u.crew 1).emptyPosition = some 2 ∧
      ∃ v seg, u.firstSeg 1 2 = (v, .ok seg) ∧ b = (((v.modCrew 1 fun x => { x with
        fibres := kset x.fibres 2 (newFibre ((v.crew 1).fibre f) 0x21 0 seg 0x1400), created := x.created + 1 }).enter 1 2).pushSpawn
          (envAt st1b iss2) f true).1) ((envAt st1b iss2).lanes (.ifP 0)).sel spawn1 z := by
  have hl : ((envAt st1b iss2).lanes (.ifP 0)).sel = [0] ∧ ((envAt st1b iss2).lanes (.ifP 0)).bad = [] := by decide +kernel
  refine ⟨spawned, ready_st1b _ hl.2, by unfold PSettled; decide, by decide +kernel, ?_⟩
  rw [hl.1]
  exact ⟨_, ⟨(spawn1.checkHeader iss2 0x1400).1, pair_of (by decide +kernel), by decide +kernel, _, 0x400800, ok_of (by decide +kernel), rfl⟩, rfl⟩

/-! ## System words and hints -/

/-- A crew at system level with operands of the SYS words. -/
def crewY : Crew := { crewM with system := true, g := [(0, 0x8000), (2, 128), (4, 0x1400), (8, 8)], intFirst := 3, intLen := 2 }
/-- The package of that crew. -/
def stY : State := package crewY (some iss2)

theorem issues_stY : Issues stY iss2 crewY := ⟨rfl, rfl, by decide, by decide⟩
theorem count_stY : CanCount crewY 0 iss2.grp.fids := ⟨by decide, by decide⟩

theorem test_SystemLevelOnly : Issues st2 iss2 crew2 ∧ crew2.system = false := ⟨issues_st2, rfl⟩

theorem test_SystemRegisters :
    Issues stY iss2 crewY ∧ crewY.system = true ∧ crewY.life = .running ∧ CanCount crewY 0 iss2.grp.fids ∧
    isOk ((envAt stY iss2).readU (.int 1) 0) 1 = true ∧ isOk ((envAt stY iss2).readGs [0, 1, 2]) [0x8000, 0, 128] = true ∧
    stY.crewBusy 1 = false ∧ segValueOk 0 0x8000 128 = true ∧ segValueOk 1 0x400 0x800 = true ∧
    (isOk ((envAt stY iss2).readU (.int 2) 0) 2 = true ∧ pairNat ((0x8000 : Word), (0 : Word)) % 128 = 0 ∧
      ∃ u, ((taken stY).sysFence iss2 iss2.grp.fids).readWindow crewY.pasid 0x8000 128 = (u, .ok (List.replicate 128 0))) ∧
    (∀ j, j < 3 → MayWriteG stY iss2 crewY (29 + j) ∧ gSettled iss2 crewY (29 + j)) ∧
    isOk (csrPlan (envAt stY iss2) (.g 8)) 8 = true ∧
    (∃ u v, ((taken stY).sysFence iss2 [0, 1]).readReg (((taken stY).sysFence iss2 [0, 1]).crewHead 1) 8 = (u, v) ∧
      ∃ x, kget u.crews 1 = some x ∧ ∀ j, j < 2 → gSettled iss2 x (30 + j)) ∧
    isOk ((envAt stY iss2).readGs [4, 5]) [0x1400, 0] = true :=
  ⟨issues_stY, rfl, rfl, count_stY, by decide +kernel, by decide +kernel, by decide +kernel, by decide +kernel, by decide +kernel,
    ⟨by decide +kernel, by decide, _, ok_of (by decide +kernel)⟩, fun _ _ => ⟨rfl, fun _ h => by cases h⟩, by decide +kernel,
    ⟨_, _, rfl, _, rfl, fun _ _ _ h => by cases h⟩, by decide +kernel⟩

theorem test_SystemControl :
    Issues stY iss2 crewY ∧ crewY.life = .running ∧ CanCount crewY 0 iss2.grp.fids ∧ (envAt stY iss2).splitRead [4, 5] = false ∧
    isOk ((envAt stY iss2).readGs [4, 5]) [0x1400, 0] = true ∧ pairNat ((0x1400 : Word), (0 : Word)) % 4 = 0 ∧
    Canonical (pairNat ((0x1400 : Word), (0 : Word))) ∧ (0xBF : Word).toNat ≤ 0xBF ∧ isOk ((envAt stY iss2).readU (.int 1) 0) 1 = true ∧
    (1 : Word).toNat < crewY.intLen :=
  ⟨issues_stY, rfl, count_stY, by decide +kernel, by decide +kernel, by decide, by unfold Canonical; decide, by decide, by decide +kernel, by decide⟩

theorem test_HintWords : Issues st2 iss2 crew2 ∧
    (∃ h, hintRule iss2.grp.hints (.hintImm 0x3FFFFF) = some (false, h)) ∧
    ∃ h, hintRule { imm := some 1 } (.hintImm 2) = some (true, h) := ⟨issues_st2, ⟨_, rfl⟩, _, rfl⟩

end Sys2Proof.Tests
end

