-- ==== Sys2Proof/Tests/Memory.lean ====
section
/-! SUPPORT. States that meet the hypotheses of the obligations about events of memory, translation, units and hosts. -/

namespace Sys2Proof.Tests

open Sys2Proof.Machine Sys2Proof.Terms

set_option Elab.async false
set_option maxRecDepth 100000

/-- A fibre with one operation counted on K5. -/
def fibV : Fibre := { fib [(1, 0x408)] with k := [(5, { count := 1 })] }
/-- The crew of that fibre. -/
def crewV : Crew := { crewWith [(0, fibV)] with n := 1 }
/-- A request on K5 into V12. -/
def req (fn : MemFn) (space : Space) (ea n : Nat) (data : List Word) : MemReq :=
  ⟨fn, space, 0, 0, 5, 12, ea, n, data, .relaxed, .core, .normal, 0, 0, 0, 9, 0⟩
/-- An operation of that request. -/
def opOf (r : MemReq) : Op := { kind := .mem r 1 0, issuer := 1, core := 0, owners := [.fibre 1 0 5] }
/-- The package with the operation in flight. -/
def stV (o : Op) : State := { package crewV none with ops := [(50, o)] }

theorem memWf_of {s : State} (h : Memory.wf s.dev = true ∧ Memory.wf s.host = true ∧ Memory.wf s.scratch = true) : s.memWf := h

/-! ## Completions -/

theorem test_CompletionEvent_home :
    let o : Op := { opOf (req (.load .w64) .global 0x20000 8 [1, 2]) with stage := .atHome }
    kget (stV o).ops 50 = some o ∧ o.kind = .mem (req (.load .w64) .global 0x20000 8 [1, 2]) 1 0 ∧ o.stage = .atHome ∧
    Awake (stV o) 1 0 crewV fibV ∧ (req (.load .w64) .global 0x20000 8 [1, 2]).dests ≠ [] ∧
    retryable (req (.load .w64) .global 0x20000 8 [1, 2]).cause = false := ⟨rfl, rfl, rfl, ⟨rfl, rfl, rfl, rfl⟩, by decide, by decide⟩

theorem ready_stV (r : MemReq) (h : (stV (opOf r)).memHeld 50 0 1 0 r = false) (hb : fibV.blocks r = false) :
    ReadyMem (stV (opOf r)) 50 (opOf r) 1 0 crewV fibV r := ⟨rfl, rfl, rfl, ⟨rfl, rfl, rfl, rfl⟩, h, rfl, hb⟩

theorem test_CompletionEvent_scratch : ∀ r ∈ [req (.load .s16) .scratch 0xFFFE 2 [], req (.store .w128) .scratch 0xFFF0 16 [1, 2, 3, 4]],
    ReadyMem (stV (opOf r)) 50 (opOf r) 1 0 crewV fibV r ∧ r.space = .scratch ∧ r.order = .relaxed ∧
    (stV (opOf r)).bankGated (opOf r).core r = false ∧ (stV (opOf r)).scratchPoison (clusterOf (opOf r).core) r.ea r.n = false ∧ (stV (opOf r)).memWf := by
  intro r hr
  cases hr with
  | head => exact ⟨ready_stV _ (by decide +kernel) (by decide +kernel), rfl, rfl, by decide +kernel, by decide +kernel, memWf_of (by decide +kernel)⟩
  | tail _ h => cases h with
    | head => exact ⟨ready_stV _ (by decide +kernel) (by decide +kernel), rfl, rfl, by decide +kernel, by decide +kernel, memWf_of (by decide +kernel)⟩
    | tail _ h => cases h

/-- A request of an aligned global access at the end of a line. -/
def reqG (fn : MemFn) (data : List Word) : MemReq := req fn .global 0x20078 8 data

theorem test_CompletionEvent_global : ∀ r ∈ [reqG (.load .w64) [], reqG (.store .w64) [1, 2]], ∃ u,
    ReadyMem (stV (opOf r)) 50 (opOf r) 1 0 crewV fibV r ∧ r.space = .global ∧ r.order = .relaxed ∧ r.cp ≠ .nt ∧ r.cp ≠ .wc ∧
    (stV (opOf r)).reqXl (opOf r) r = (u, .ok 0x20078 true) ∧ u.inCounter 0x20078 = false ∧ u.dataCause 0x20078 r.n = none ∧
    0x20078 % 128 + r.n ≤ 128 ∧ kget (u.agent (u.agentOf 0)).l1 (0x20078 / 128) = none ∧ kget (u.agent (u.agentOf 0)).wc (0x20078 / 128) = none ∧
    NoSnoop (stV (opOf r)) u ∧ (u.roomMates (u.agentOf 0) (0x20078 / 128)).length < l1Lines := by
  intro r hr
  cases hr with
  | head => exact ⟨_, ready_stV _ (by decide +kernel) (by decide +kernel), rfl, rfl, by decide, by decide, pair_of (by decide +kernel), by decide +kernel,
      by decide +kernel, by decide, by decide +kernel, by decide +kernel, by unfold NoSnoop; decide +kernel, by decide +kernel⟩
  | tail _ h => cases h with
    | head => exact ⟨_, ready_stV _ (by decide +kernel) (by decide +kernel), rfl, rfl, by decide, by decide, pair_of (by decide +kernel), by decide +kernel,
        by decide +kernel, by decide, by decide +kernel, by decide +kernel, by unfold NoSnoop; decide +kernel, by decide +kernel⟩
    | tail _ h => cases h

theorem test_RequestEvents_replay : ∀ n ∈ [7, 8],
    let o : Op := { opOf (reqG (.load .w64) []) with replays := n }
    kget (stV o).ops 50 = some o ∧ o.kind = .mem (reqG (.load .w64) []) 1 0 ∧ (stV o).atRest o = false ∧ o.replays = n ∧
    Awake (stV o) 1 0 crewV fibV := by
  intro n hn
  cases hn with
  | head => exact ⟨rfl, rfl, by decide +kernel, rfl, rfl, rfl, rfl, rfl⟩
  | tail _ h => cases h with
    | head => exact ⟨rfl, rfl, by decide +kernel, rfl, rfl, rfl, rfl, rfl⟩
    | tail _ h => cases h

theorem test_RequestEvents_walk : ∃ u,
    let o := opOf (reqG (.load .w64) [])
    kget (stV o).ops 50 = some o ∧ o.stage = .issued ∧ o.walked = false ∧ (reqG (.load .w64) []).translates = true ∧
    (stV o).coreXl 0 ((stV o).crew 1).pasid 0x20078 (reqG (.load .w64) []).acc = (u, .ok 0x20078 true) :=
  ⟨_, rfl, rfl, rfl, rfl, pair_of (by decide +kernel)⟩

/-- A request of a compare and swap of 64 bits. -/
def reqA : MemReq := reqG (.atom .cas64 true) [0, 0, 5, 6]

theorem test_RequestEvents_atomic : ∃ u,
    ReadyMem (stV (opOf reqA)) 50 (opOf reqA) 1 0 crewV fibV reqA ∧ reqA.order = .relaxed ∧
    (stV (opOf reqA)).reqHome (opOf reqA) 1 0 reqA = (u, .ok (0x20078, true)) ∧ isDevice 0x20078 = true ∧ u.memWf ∧ 0x20078 % 128 + reqA.n ≤ 128 ∧
    kget (u.agent (u.agentOf 0)).l1 (0x20078 / 128) = none ∧ kget (u.agent (u.agentOf 0)).wc (0x20078 / 128) = none ∧
    (u.home (0x20078 / 128)).shared = false ∧ u.dataCause 0x20078 reqA.n = none ∧ NoSnoop (stV (opOf reqA)) u :=
  ⟨_, ready_stV _ (by decide +kernel) (by decide +kernel), rfl, ok_of (by decide +kernel), by decide, memWf_of (by decide +kernel), by decide,
    by decide +kernel, by decide +kernel, by decide +kernel, by decide +kernel, by unfold NoSnoop; decide +kernel⟩

/-! ## Agents -/

/-- A dirty and a clean byte of a line. -/
def lineW : L1Line := ⟨[(0, ⟨7, true, 0, [], 5000000, false⟩), (127, ⟨8, true, 0, [], 1, false⟩), (5, ⟨9, false, 0, [], 4992000, false⟩)], some 1, [], 0x20000⟩

/-- The package with that line in the L1 of core 0. -/
def stL : State := { package crewV none with agents := [(0, { l1 := [(0x400, lineW)] })] }

theorem test_AgentEvents :
    (kget (stL.agent 0).l1 0x400 = some lineW ∧ lineW.dirty ≠ [] ∧ (kkeys lineW.dirty).Nodup ∧ (∀ o ∈ kkeys lineW.dirty, o < 128) ∧
      kget (stL.agent 0).wc 0x400 = none ∧ isDevice (0x400 * 128) = true ∧ stL.memWf ∧ (stL.home 0x400).shared = false ∧
      (stL.home 0x400).crowded = false ∧ ∀ e ∈ (stL.home 0x400).opens, e.agent = 0) ∧
    NoSnoop stL (stL.drain 0).1 ∧ Rising (stL.agent 0).l1 ∧ (stL.drain 0).2 = none :=
  ⟨⟨by decide +kernel, by decide, by decide, by decide, by decide +kernel, by decide, memWf_of (by decide +kernel), by decide +kernel, by decide +kernel,
    by decide +kernel⟩, by unfold NoSnoop; decide +kernel, by unfold Rising; decide +kernel,
   by decide +kernel⟩

/-! ## Translation -/

/-- A fibre that waits for a page, with one request to be issued again. -/
def fibP : Fibre := { fib [] with st := .parked (.page 0x1004 false), replay := [reqG (.load .w64) []] }
/-- Its crew. -/
def crewP : Crew := { crewWith [(0, fibP)] with n := 1, groups := [] }
/-- The Page Request. -/
def pageP : PageReq := ⟨1, 0x20, false, 1000, [.fibre 1 0]⟩
/-- The package with the request outstanding, at a tick. -/
def stP (tick : Nat) : State := { package crewP none with pages := [(60, pageP)], tick := tick }

theorem test_TranslationEvents :
    (stL.stage = stageReady ∧ stL.flushBusy = false) ∧
    (let s : State := { stV (opOf reqA) with flushBusy := true, flushOps := [49] }; s.flushBusy = true ∧
      ∀ id ∈ s.flushOps, ∀ o, kget s.ops id = some o → o.stage ≠ .issued) ∧
    ∀ tick ∈ [5000000, 100001000], kget (stP tick).pages 60 = some pageP ∧ pageP.waiters = [.fibre 1 0] ∧ kget (stP tick).crews 1 = some crewP ∧
      kget crewP.fibres 0 = some fibP ∧ fibP.st = .parked (.page 0x1004 false) ∧
      ({ stP tick with pages := kdel (stP tick).pages 60 } : State).pageWaits (.fibre 1 0) = false ∧
      (tick = 5000000 → (stP tick).tick < pageP.sent + 100000000) ∧ (tick = 100001000 → pageP.sent + 100000000 ≤ (stP tick).tick) :=
  ⟨⟨rfl, rfl⟩, ⟨rfl, fun id hid o h => by
      cases hid with
      | head => cases h
      | tail _ h => cases h⟩,
   fun tick _ => ⟨rfl, rfl, rfl, rfl, rfl, rfl, fun h => by rw [h]; decide, fun h => by rw [h]; decide⟩⟩

/-! ## Units, counters and hosts -/

/-- The request of a TAKE or GIVE of two units. -/
def reqT (f : AllowFn) : MemReq := req (.allow f) .global 0x20080 4 [2]

/-- The package with an initialised counter of 100 units (R190). -/
def stT (f : AllowFn) : State := (stV (opOf (reqT f))).writePas 0x20080 (leBytes 8 100 ++ leBytes 4 0 ++ leBytes 4 counterSig)

theorem test_UnitEvents_counter : ∀ f ∈ [AllowFn.take, .give], ∃ u,
    ReadyMem (stT f) 50 (opOf (reqT f)) 1 0 crewV fibV (reqT f) ∧ (stT f).reqHome (opOf (reqT f)) 1 0 (reqT f) = (u, .ok (0x20080, true)) ∧
    u.memWf ∧ u.slot 0 0x20080 = none ∧ (u.core 0).slots.length < 64 ∧ u.inCounter 0x20080 = true ∧ wordsNat (reqT f).data ≤ u.counterHome 0x20080 ∧
    u.poisoned 0x20080 64 = false ∧ isDevice 0x20080 = true ∧ (u.home (0x20080 / 128)).shared = false ∧ NoSnoop (stT f) u := by
  intro f hf
  cases hf with
  | head => exact ⟨_, ⟨by decide +kernel, rfl, rfl, ⟨by decide +kernel, rfl, rfl, rfl⟩, by decide +kernel, by decide +kernel, by decide +kernel⟩, ok_of (by decide +kernel),
      memWf_of (by decide +kernel), by decide +kernel, by decide +kernel, by decide +kernel, by decide +kernel,
      by decide +kernel, by decide, by decide +kernel, by unfold NoSnoop; decide +kernel⟩
  | tail _ h => cases h with
    | head => exact ⟨_, ⟨by decide +kernel, rfl, rfl, ⟨by decide +kernel, rfl, rfl, rfl⟩, by decide +kernel, by decide +kernel, by decide +kernel⟩, ok_of (by decide +kernel),
        memWf_of (by decide +kernel), by decide +kernel, by decide +kernel, by decide +kernel, by decide +kernel,
      by decide +kernel, by decide, by decide +kernel, by unfold NoSnoop; decide +kernel⟩
    | tail _ h => cases h

theorem test_UnitEvents :
    (kget stL.crews 1 = some crewV ∧ kget crewV.fibres 0 = some fibV) ∧
    (kget (stL.agent 0).l1 0x400 = some lineW ∧ kget lineW.bytes 127 = some ⟨8, true, 0, [], 1, false⟩) ∧
    (191 < 192 ∧ 31 < 32 ∧ GateUnit.scratchBank 191 31 ∉ stL.gated) ∧
    (GateUnit.scratchBank 191 31 ∈ ({ stL with gated := [.scratchBank 191 31] } : State).gated) ∧
    let s : State := { stT .take with cores := [(0, { slots := [⟨0x20080, 7⟩] })] }
    s.memWf ∧ s.slot 0 0x20080 = some 7 ∧ isDevice 0x20080 = true ∧ (s.home (0x20080 / 128)).shared = false :=
  ⟨⟨rfl, rfl⟩, ⟨by decide +kernel, by decide⟩, by decide, by decide, memWf_of (by decide +kernel), by decide +kernel, by decide, by decide +kernel⟩

/-- A page table whose second gibibyte is host memory, and a host that has been unreachable for 2 ms. -/
def stO : State :=
  { (package crewV none).writePas 0x2008 (leBytes 8 (0xDF + 0xC000000 * 1024)) with ops := [(50, opOf (req (.load .w32) .global 0x40000000 4 []))], hostDown := some 1000, tick := 2001000 }

/-- The package with a SYSTEM release of core 0 on a byte of device memory, and an entry that it may close. -/
def stHr : State :=
  { stL with tags := [(0x30000, [{ core := 0, num := 5, scope := .system, chips := [0] }])]
             homes := [(0x400, { opens := [⟨0, false, [(3, 4), (9, 6)]⟩] })] }

theorem test_HostEvents :
    (isHost (6442450944 * 128) = true ∧
      (({ stL with homes := [(6442450944, { asked := true })] } : State).home 6442450944).asked = true) ∧
    (stL.stage = stageReady ∨ isDevice 0x30000 = false) ∧ stL.memWf ∧
    ((stHr.stage = stageReady ∨ isDevice 0x30000 = false) ∧ ∃ g, g ∈ kgetD stHr.tags (0x30000 + 0) [] ∧ g.scope = .system ∧
      stHr.agentOf g.core ≠ headAgent (1 : Fin 2).val) ∧
    (State.reset.stage ≠ stageReady ∧ isDevice 0x30000 = true ∧ 2047 < 2048) ∧
    (let r := req (.load .w32) .global 0x40000000 4 []
     stO.ops.filter (fun x => x.2.waitsHost stO) = [(50, opOf r)] ∧ ReadyMem stO 50 (opOf r) 1 0 crewV fibV r ∧ 1000 + 2000000 ≤ stO.tick ∧
     ∃ u, stO.reqXl (opOf r) r = (u, .ok 0xC000000000 true) ∧ isHost 0xC000000000 = true ∧
       u.l1Holds (u.agentOf 0) 0xC000000000 4 = false ∧ (∀ atHome, u.seenPoison (u.agentOf 0) 0xC000000000 4 atHome = false) ∧ NoSnoop stO u) :=
  ⟨⟨by decide, by decide⟩, Or.inl rfl, memWf_of (by decide +kernel),
    ⟨Or.inl rfl, _, List.mem_cons_self .., rfl, by decide⟩, by decide, by decide +kernel,
    ⟨by decide +kernel, rfl, rfl, ⟨by decide +kernel, rfl, rfl, rfl⟩, by decide +kernel, by decide +kernel, by decide +kernel⟩, by decide +kernel, _,
    pair_of (by decide +kernel), by decide, by decide +kernel, by decide +kernel, by unfold NoSnoop; decide +kernel⟩

end Sys2Proof.Tests
end

