-- ==== Sys2Proof/Tests/Bulk.lean ====
section
/-! SUPPORT. States that meet the hypotheses of the obligations about bulk transfer, links and engines. -/

namespace Sys2Proof.Tests

open Sys2Proof.Machine Sys2Proof.Terms

set_option Elab.async false
set_option maxRecDepth 100000

/-! ## The Wicket -/

/-- A gang of this chip and of chip 9. -/
def gang2 : Gang := { gang1 with chips := [0, 9] }
/-- A port that is up. -/
def portU : Port := { up := true, rtt := 100, wgmax := 1, wg := 1, maj := 1, unacked := [(7, 4), (8, 4)], sendSeq := 9, recvSeq := 3 }
/-- A package with a gang of two chips and one port. -/
def stW : State := { package crewV none with gangs := [(1, gang2)], ports := [(2, portU)] }
/-- A message from chip 9 to this one. -/
def mid1 : MsgId := ⟨1, 1, 0, 5, 6⟩
/-- A message of 20000 bytes bound to a receive. -/
def msgB (state : MsgState) : Msg :=
  { id := mid1, len := 20000, pri := 0, port := 2, pre := 0, recv := some 70, u := [(0, 20000)], missing := [(0, 20000)], wait := [], since := 0, state := state }
/-- The receive. -/
def recv1 : Recv := { crew := 1, ep := 5, addr := 0x30000, len := 20000, tag := 6, any := false, record := 0, bound := some 80 }
/-- The Wicket with that message. -/
def stR (m : Msg) : State := { stW with msgs := [(80, m)], recvs := [(70, recv1)] }

theorem test_WicketEvents_request :
    stW.peerGang 1 1 = true ∧ stW.chipId 1 0 = stW.sysId ∧ (kgetD stW.ports 2 {}).up = true ∧ (∀ m ∈ stW.msgs, m.2.id ≠ mid1) ∧
    stW.msgs.length < 16384 ∧ (∀ r ∈ stW.recvs, r.2.bound = none → r.2.ending = none → ¬ (r.2.ep = 5 ∧ (r.2.any = true ∨ r.2.tag = 6))) ∧
    stW.stored + 3 ≤ 67108864 ∧
    let s : State := { stW with msgs := List.replicate 16384 (1, { msgB .ready with id := ⟨1, 1, 0, 5, 7⟩ }) }
    s.peerGang 1 1 = true ∧ (∀ m ∈ s.msgs, m.2.id ≠ mid1) ∧ 16384 ≤ s.msgs.length :=
  ⟨by decide, by decide, by decide, fun m h => (by cases h), by decide, fun m h => (by cases h), by decide,
    ⟨by decide, fun m h => by { rw [List.eq_of_mem_replicate h]; decide }, Nat.le_of_eq List.length_replicate.symm⟩⟩

theorem test_WicketEvents_grant :
    let m := msgB .ready; let s := stR m
    s.eligible 2 = [(80, m)] ∧ s.windowRoom 2 = true ∧ m.u = [(0, 20000)] ∧ m.recv = some 70 ∧ kget s.recvs 70 = some recv1 ∧
    s.pagesReady (s.crew 1).pasid 0x30000 16384 = none := ⟨by decide, by decide, rfl, rfl, rfl, by decide +kernel⟩

theorem test_WicketEvents_data_kept :
    let m := { msgB .unmatched with recv := none }; let s : State := { stW with msgs := [(80, m)] }
    s.peerGang 1 1 = true ∧ s.msgOf mid1 = some (80, m) ∧ kget s.msgs 80 = some m ∧
    rangeIn m.missing 0 3 = [(0, 3)] ∧ 1 ≠ m.epoch ∧ m.recv = none := by decide +kernel

/-- The message with 3 bytes granted. -/
def msgG : Msg := { msgB .flight with u := [(3, 20000)], grants := [(90, ⟨0, 3, 0, 4000000, true, [(0, 3)]⟩)] }
/-- That message once the 3 bytes have arrived. -/
def msgG2 : Msg :=
  { msgG with missing := rangeOut msgG.missing 0 3, u := rangeOut msgG.u 0 3, wait := [(0, [1, 2, 3])], grants := [] }

theorem test_WicketEvents_data_written : ∃ v,
    let s := stR msgG
    s.msgOf mid1 = some (80, msgG) ∧ kget s.msgs 80 = some msgG ∧ rangeIn msgG.missing 0 3 = [(0, 3)] ∧ msgG.recv = some 70 ∧
    kget s.recvs 70 = some recv1 ∧ msgG.wait = [] ∧ s.pageWaits (.op 70) = false ∧ 3 ≤ recv1.len - 0 ∧
    msgG.grants = [(90, ⟨0, 3, 0, 4000000, true, [(0, 3)]⟩)] ∧ rangeOut msgG.u 0 3 ≠ [] ∧
    ({ s with msgs := kset s.msgs 80 msgG2 } : State).engineWrites (bulkAgent (ioOf 2)) (some 1) (s.crew 1).pasid [(0x30000, [1, 2, 3])] =
      (v, .ok ()) ∧ NoSnoop s v :=
  ⟨_, by decide, rfl, by decide, rfl, rfl, rfl, by decide, by decide, rfl, by decide, ok_of (by decide +kernel), by unfold NoSnoop; decide +kernel⟩

theorem test_WicketEvents_expiry_pause :
    (let g : Grant := ⟨0, 3, 0, 4000000, false, [(0, 3)]⟩; let m : Msg := { msgB .ready with grants := [(90, g)], ign := 2 }
     kget (stR m).msgs 80 = some m ∧ kget m.grants 90 = some g ∧ g.begun = false ∧ g.issued + 40000 < (stR m).tick ∧ m.state = .ready ∧
       m.ign + 1 < 4 ∧ m.state ≠ .paused ∧ Rising m.grants ∧ (stR m).peerGang 1 1 = true ∧ (stR m).msgOf mid1 = some (80, m)) ∧
    (let m := msgB .paused; m.state = .paused ∧ rangeIn m.missing 19999 m.len ≠ [] ∧ (stR m).msgOf mid1 = some (80, m)) ∧
    let m := { msgB .unmatched with recv := none }; let s : State := { stW with msgs := [(80, m)], ports := [] }
    kget s.msgs 80 = some m ∧ s.peerGang m.id.gang m.id.src = true ∧ s.pathGone (s.chipId m.id.gang m.id.src) = true ∧ m.recv = none :=
  ⟨⟨rfl, rfl, rfl, by decide, rfl, by decide, by decide, by unfold Rising; decide, by decide, by decide⟩, by decide, by decide⟩

/-! ## The sender's side -/

/-- A send of 40 bytes to chip 9. -/
def send1 : Send := { crew := 1, id := ⟨1, 0, 1, 5, 6⟩, addr := 0x30000, len := 40, pri := 0 }
/-- Its operation. -/
def opS : Op := { kind := .send, issuer := 1, core := 0, owners := [.fibre 1 0 5] }
/-- The package with that send. -/
def stS (x : Send) : State := { stW with sends := [(50, x)], ops := [(50, opS)] }

theorem test_SendEvents_retry :
    let x := { send1 with refused := some 4990000 }
    (stS x).sends = [(50, x)] ∧ x.requested = false ∧ 4990000 + 10000 ≤ (stS x).tick ∧ x.accepted = false ∧ x.cancels = [] ∧ x.paused = false ∧
    ∃ u bs, ({ stS x with sends := [(50, { x with refused := none, sent := 0, epoch := 0 })] } : State).engineRead 1 0x30000 (min 40 (16384 * 4)) = (u, .ok bs) :=
  ⟨rfl, rfl, by decide, rfl, rfl, rfl, _, _, ok_of (v := List.replicate 40 0) (by decide +kernel)⟩

theorem test_SendEvents_grant :
    let x := { send1 with requested := true }; let r : GrantRange := ⟨30, 10, 0⟩
    (stS x).sends = [(50, x)] ∧ (stS x).remoteSend 50 = true ∧ x.paused = false ∧ x.cancels = [] ∧ x.grants = [] ∧ r.epoch = x.epoch ∧ r.off + r.size ≤ x.len ∧
    (stS x).pageWaits (.op 50) = false ∧
    ∃ u bs, ({ stS x with sends := [(50, { x with accepted := true, grants := [r] })] } : State).engineRead 1 (0x30000 + 30) 10 = (u, .ok bs) :=
  ⟨rfl, by decide, rfl, rfl, rfl, rfl, by decide, by decide, _, _, ok_of (v := List.replicate 10 0) (by decide +kernel)⟩

theorem test_SendEvents_notice :
    let x := { send1 with requested := true }; let s : State := { stS x with ports := [] }
    s.sends = [(50, x)] ∧ s.remoteSend 50 = true ∧ x.cancels = [] ∧ x.accepted = false ∧ s.pathGone (s.chipId x.id.gang x.id.dst) = true ∧
    x.since + 2000000 ≤ s.tick ∧ kget s.ops 50 = some opS ∧
    opS.owners = [.fibre 1 0 5] ∧ opS.issuer = 1 ∧ opS.bar = none ∧ crewV.life = .running ∧ Awake s 1 0 crewV fibV :=
  ⟨rfl, by decide, rfl, rfl, by decide, by decide, rfl, rfl, rfl, rfl, rfl, rfl, rfl, rfl, rfl⟩

theorem test_LinkEvents :
    (kget stW.ports 2 = some portU ∧ portU.up = true ∧ portU.waiting = [] ∧ portU.unacked = [(7, 4)] ++ (8, 4) :: [] ∧
      8 ∉ [((7, 4) : Nat × Nat)].map Prod.fst ∧ portU.unacked ≠ [] ∧ portU.sentAt + 4000 ≤ stW.tick ∧ portU.replays + 1 < 64) ∧
    (let s : State := { stW with ports := [(2, { portU with replays := 63 })] }; Rising s.ports ∧ 64 ≤ (kgetD s.ports 2 {}).replays + 1) ∧
    (kgetD stW.ports 15 {}).up = false ∧ 15 < 16 ∧ (kgetD stW.ports 15 {}).downAt + 1000000 ≤ stW.tick ∧ (kgetD stW.ports 15 {}).waiting = [] :=
  ⟨⟨rfl, rfl, rfl, rfl, by decide, by decide, by decide, by decide⟩, ⟨by unfold Rising; decide, by decide⟩, by decide, by decide, by decide, by decide⟩

/-- The package with a port, a counter of 100 units at 0x20080, and an entry of core 4 that has byte 3 of that line open. -/
def stPeer : State :=
  ({ stW with homes := [(0x20080 / 128, { opens := [⟨4, false, [(3, 1)]⟩] })] } : State).writePas 0x20080
    (leBytes 8 100 ++ leBytes 4 0 ++ leBytes 4 counterSig)

theorem test_LinkEvents_peer :
    (kgetD stPeer.ports 2 {}).up = true ∧ stPeer.memWf ∧ isDevice (0x20080 / 128 * 128) = true ∧ (stPeer.home (0x20080 / 128)).shared = false ∧
    (0x20080 % 128 + 16 ≤ 128 ∧ stPeer.poisoned 0x20080 16 = false) ∧
    ((stPeer.home (0x20080 / 128)).crowded = false ∧ (stPeer.home (0x20080 / 128)).opens = [⟨4, false, [(3, 1)]⟩] ∧ 4 ≠ peerAgent 9 7 ∧
      0x20080 % 128 + [1, 2, 3, 4, 5].length ≤ 128) ∧
    (0x20080 % 128 + atomBytes .cas64 ≤ 128 ∧ stPeer.poisoned 0x20080 (atomBytes .cas64) = false) ∧
    (0x20080 % 64 = 0 ∧ stPeer.inCounter 0x20080 = true ∧ 100 ≤ stPeer.counterHome 0x20080 ∧ stPeer.counterHome 0x20080 + 5 ≤ 2 ^ 62 ∧
      kgetD stPeer.holders 0x20080 [] = []) :=
  ⟨by decide +kernel, memWf_of (by decide +kernel), by decide, by decide +kernel, by decide +kernel, by decide +kernel, by decide +kernel,
    by decide +kernel⟩

/-! ## Engines -/

/-- A parked fibre. -/
def fibK : Fibre := { fib [] with st := .parked (.wait 0 0 false) }
/-- A fully parked crew that fills its die for a saved crew. -/
def crewFull : Crew :=
  { crewWith [(0, fibK)] with n := 1, groups := [], parkedSince := some 1000, segScratch := ⟨0, 3145728⟩, scratchArea := ⟨0, 3145728⟩ }
/-- A saved crew of a pipeline of its own. -/
def crewSaved : Crew := { crewWith [(0, fibK)] with n := 1, groups := [], life := .saved, home := none, gang := 2, scratchArea := ⟨0, 3145728⟩, segScratch := ⟨0, 3145728⟩ }

/-- The package with both crews, whose second gang fits only at one origin. -/
def stF2 : State :=
  { package crewFull none with
    crews := [(1, crewFull), (2, crewSaved)]
    gangs := [(1, gang1), (2, { gang1 with launch := { s := 2, dx := 11, dy := 7, scratch := 3145728 } })] }

theorem test_EngineEvents_round :
    (stF2.die 0).rounded ≠ some stF2.tick ∧
    (({ stF2 with dies := [(0, { rounded := some stF2.tick })] } : State).die 0).rounded = some stF2.tick ∧
    0 < 8 ∧ Rising stF2.crews ∧ (stF2.die 0).promised = none ∧ stF2.savedPipes = [2] ∧ (∀ d ∈ stF2.dies, d.2.promised ≠ some 2) ∧
    stF2.parkedPipes 0 = [(1000, 1)] ∧ stF2.couldHold 0 (stF2.crew 2) stF2.leaving = false ∧
    stF2.couldHold 0 (stF2.crew 2) (stF2.leaving ++ stF2.crewsOf [1]) = true ∧
    ∀ d ∈ stF2.pipeline (stF2.crew 1), d.2.life ≠ .starting ∧ d.2.life ≠ .restoring :=
  ⟨by decide, by decide, by decide, by unfold Rising; decide, by decide, by decide +kernel, by decide +kernel, by decide +kernel, by decide +kernel,
    by decide +kernel, by decide +kernel⟩

/-- A crew with a claim that waits for a pair, or holds one and ends it. -/
def crewC (q : Claim) : Crew := { crewV with claims := [q] }

theorem test_EngineEvents_claim :
    let m : MatOp := ⟨0, false, false, false, 0, 0, 0⟩
    let o : Op := { kind := .matrix m none, issuer := 1, core := 0, owners := [.fibre 1 0 5] }
    let c := crewC ⟨[50], none, none, none, [], false⟩
    let s : State := { package c none with ops := [(50, o)], clusters := [(0, { pending := [1], pairs := [(0, 8), (1, 9), (2, 10)] })] }
    Awake s 1 0 c fibV ∧ (s.cluster 0).pending = [1] ∧ (List.range 4).find? (fun p => (kget (s.cluster 0).pairs p).isNone) = some 3 ∧
    kget s.ops 50 = some o ∧ m.fn = 0 ∧ o.owners = [.fibre 1 0 5] ∧ o.bar = none :=
  ⟨⟨rfl, rfl, rfl, rfl⟩, by decide, by decide, rfl, rfl, rfl, rfl⟩

theorem test_EngineEvents_mrel :
    let m : MatOp := ⟨1, false, false, false, 0, 0, 0⟩
    let o : Op := { kind := .matrix m none, issuer := 1, core := 0, owners := [.fibre 1 0 5] }
    let q : Claim := ⟨[50], some 3, none, none, [], true⟩
    let s : State := { package (crewC q) none with ops := [(50, o)], clusters := [(0, { pairs := [(3, 1)] })] }
    Awake s 1 0 (crewC q) fibV ∧ s.clusterGated 0 = false ∧ 3 < 4 ∧ (s.cluster 0).pairs = [(3, 1)] ∧ q.pair = some 3 ∧ q.queue = [50] ∧ q.bufs = [] ∧
    kget s.ops 50 = some o ∧ m.fn = 1 :=
  ⟨⟨rfl, rfl, rfl, rfl⟩, by decide, by decide, by decide, rfl, rfl, rfl, rfl, rfl⟩

end Sys2Proof.Tests
end

