-- ==== Sys2Proof/Tests/Command.lean ====
section
/-! SUPPORT. States that meet the hypotheses of the obligations about the command engine. -/

namespace Sys2Proof.Tests

open Sys2Proof.Machine Sys2Proof.Terms

set_option Elab.async false
set_option maxRecDepth 100000

/-! ## Packets -/

/-- An active queue of PASID 1 with a ring at 0x40000 that holds one published packet. -/
def queueA : Queue := { ring := 0x40000, pasid := 1, vermaj := 1, state := .active, wptr := 1, head := 1, pri := 3 }
/-- The head of a packet of a type. -/
def packetHead (ty : Nat) : List Byte := leBytes 1 1 ++ leBytes 1 ty ++ leBytes 2 0x100 ++ leBytes 12 0
/-- A NOP packet. -/
def nopBytes : List Byte := packetHead 0 ++ leBytes 48 0
/-- The package with a queue. -/
def stQu (x : Queue) : State := { package crewV none with queues := [(3, x)] }
/-- The package with a published NOP packet in the ring. -/
def stNop : State := (stQu queueA).writePas 0x40000 nopBytes

theorem test_PacketEvents_notify :
    stNop.stage = stageReady ∧ (stNop.queue 3).head = (1 : Fin 2).val ∧ (stNop.queue 3).state ≠ .disabled ∧ (stNop.queue 3).wptr ≤ 16 % 2 ^ 64 ∧
    16 % 2 ^ 64 ≤ (stNop.queue 3).rptr + 2 ^ (stNop.queue 3).logsz := by decide +kernel

/-- The queue once the slot has been read. -/
def stNop2 : State := ((stNop.engineRead 1 0x40000 64).1.modQueue 3 fun y => { y with rptr := y.rptr + 1 })
/-- The state in which the packet is checked. -/
def stNop3 : State :=
  let u := (stNop2.cmdWrite 1 0x40000 [0]).1
  { u with queues := kmod u.queues 3 fun y => { y with packets := kset y.packets 0 { bytes := nopBytes, state := .accepted, seq := u.accepts } }
           accepts := u.accepts + 1 }

theorem test_PacketEvents_slotRead : ∃ t u v,
    kget stNop.queues 3 = some queueA ∧ (∀ p ∈ queueA.packets, p.2.state ≠ .accepted) ∧ queueA.state = .active ∧ queueA.rptr < queueA.wptr ∧
    stNop.pageWaits (.queue 3) = false ∧
    stNop.engineRead queueA.pasid (queueA.ring + 64 * (queueA.rptr % 2 ^ queueA.logsz)) 64 = (t, .ok nopBytes) ∧ fieldLe nopBytes 0 1 % 2 = 1 ∧
    (t.modQueue 3 fun y => { y with rptr := y.rptr + 1 }).cmdWrite queueA.pasid (queueA.ring + 64 * (queueA.rptr % 2 ^ queueA.logsz)) [0] =
      (u, .ok ()) ∧
    (let w : State := { u with accepts := u.accepts + 1, queues := kmod u.queues 3 fun y =>
       { y with packets := kset y.packets queueA.rptr { bytes := nopBytes, state := .accepted, seq := u.accepts } } }
     w.checkPacket (w.queue 3) nopBytes = (v, .ok none) ∧ NoSnoop stNop v) :=
  ⟨_, _, _, by decide +kernel, fun p h => (by cases h), rfl, by decide, by decide +kernel, ok_of (by decide +kernel), by decide,
    ok_of (by decide +kernel), by
      have h : (stNop3.checkPacket (stNop3.queue 3) nopBytes).2 = .ok none ∧ newSnoops stNop (stNop3.checkPacket (stNop3.queue 3) nopBytes).1 = [] := by
        decide +kernel
      exact ⟨pair_of h.1, h.2⟩⟩

/-- A packet that runs. -/
def packetR (ty : Nat) (body : List Byte) : Packet := { bytes := packetHead ty ++ body, state := .running }
/-- The package with one packet of the queue. -/
def stPk (p : Packet) : State := stQu { queueA with rptr := 1, packets := [(0, p)] }
/-- A BARRIER packet that watches two words. -/
def packetB : Packet := packetR 3 (leBytes 8 0x50000 ++ leBytes 8 0x50008 ++ leBytes 32 0)
/-- A SIGNAL packet that subtracts 1. -/
def packetS : Packet := packetR 4 (leBytes 8 0x50078 ++ leBytes 8 1 ++ leBytes 1 2 ++ leBytes 31 0)
/-- A LAUNCH packet that has been checked. -/
def packetL : Packet := { packetR 1 (leBytes 48 0) with launch := some ({ tick := 7 }, [0]) }

theorem test_PacketEvents_run :
    (let p : Packet := { packetR 0 (leBytes 48 0) with state := .waiting }; let s := stPk p
     s.packet 3 0 = some p ∧ (s.queue 3).mayStart 0 p = true) ∧
    (let p := packetR 0 (leBytes 48 0); let s := stPk p
     s.packet 3 0 = some p ∧ p.state = .running ∧ p.ended = false ∧ p.gang = none ∧ p.graph = none ∧ fieldLe p.bytes 1 1 = 0) ∧
    (let s := stPk packetL
     s.packet 3 0 = some packetL ∧ packetL.state = .running ∧ packetL.ended = false ∧ packetL.gang = none ∧ packetL.graph = none ∧
       fieldLe packetL.bytes 1 1 = 1 ∧ packetL.launch = some ({ tick := 7 }, [0])) ∧
    let p := { packetR 0 (leBytes 48 0) with ended := true }; let s := stPk p
    s.packet 3 0 = some p ∧ p.state = .running ∧ p.ended = true ∧ p.gang = none ∧ p.graph = none ∧ fieldLe p.bytes 8 8 = 0 ∧
      fieldLe p.bytes 4 2 / 2 % 2 = 0 := by decide +kernel

theorem test_PacketEvents_barrier : ∃ t,
    let s := stPk packetB
    s.packet 3 0 = some packetB ∧ packetB.state = .running ∧ packetB.ended = false ∧ packetB.gang = none ∧ packetB.graph = none ∧
    fieldLe packetB.bytes 1 1 = 3 ∧ s.pageWaits (.packet 3 0) = false ∧
    s.signalsZero (s.queue 3).pasid (barrierAddrs packetB.bytes) = (t, .ok true) :=
  ⟨_, by decide +kernel, rfl, rfl, rfl, rfl, by decide +kernel, by decide +kernel, ok_of (by decide +kernel)⟩

theorem test_PacketEvents_signal : ∃ u,
    let s := stPk packetS
    s.packet 3 0 = some packetS ∧ packetS.state = .running ∧ packetS.ended = false ∧ packetS.gang = none ∧ packetS.graph = none ∧
    fieldLe packetS.bytes 1 1 = 4 ∧ s.engineXl (s.queue 3).pasid (fieldLe packetS.bytes 16 8) .store = (u, .ok 0x50078 true) ∧
    u.memWf ∧ u.dataCause 0x50078 8 = none ∧ isDevice 0x50078 = true ∧ 0x50078 % 128 ≤ 120 ∧ (u.home (0x50078 / 128)).shared = false ∧
    NoSnoop s u :=
  ⟨_, by decide +kernel, rfl, rfl, rfl, rfl, by decide +kernel, pair_of (by decide +kernel), memWf_of (by decide +kernel), by decide +kernel,
    by decide, by decide, by decide +kernel, by unfold NoSnoop; decide +kernel⟩

/-! ## Command graphs -/

/-- A node: its kind, its predecessors and no successors. -/
def nodeBytes (kind pred cnt : Nat) (body : List Byte) : List Byte :=
  leBytes 2 kind ++ leBytes 2 pred ++ leBytes 2 cnt ++ leBytes 10 0 ++ body
/-- A GRAPH packet of the object at 0x60000. -/
def packetG : Packet := packetR 2 (leBytes 8 0x60000 ++ leBytes 40 0)
/-- The header of a graph of a number of nodes, and its first node. -/
def graphAt (s : State) (n : Nat) (node : List Byte) : State := s.writePas 0x60000 (leBytes 4 n ++ leBytes 60 0 ++ node)
/-- The package with a GRAPH packet whose object has one COND node. -/
def stGr : State := graphAt (stPk packetG) 1 (nodeBytes 1 0 9 (leBytes 8 0x50000 ++ leBytes 40 0))

theorem test_PacketEvents_graph : ∃ t u v h,
    stGr.packet 3 0 = some packetG ∧ packetG.state = .running ∧ packetG.ended = false ∧ packetG.gang = none ∧ packetG.graph = none ∧
    fieldLe packetG.bytes 1 1 = 2 ∧ stGr.graphs = [] ∧ stGr.pageWaits (.packet 3 0) = false ∧
    stGr.engineRead (stGr.queue 3).pasid (fieldLe packetG.bytes 16 8) 64 = (t, .ok h) ∧ 0 < fieldLe h 0 4 ∧ fieldLe h 0 4 ≤ 65536 ∧
    zeros h 4 64 = true ∧
    t.checkNodes (stGr.queue 3).pasid (fieldLe packetG.bytes 16 8) (fieldLe h 0 4) (List.range (fieldLe h 0 4)) = (u, .ok) ∧
    u.resetNodes (stGr.queue 3).pasid (fieldLe packetG.bytes 16 8) (List.range (fieldLe h 0 4)) = (v, .ok [0]) ∧ stGr.pool.length < 4096 ∧
    stGr.poolWait = [] ∧ NoSnoop stGr v := by
  refine ⟨_, _, _, leBytes 4 1 ++ leBytes 60 0, by decide +kernel, rfl, rfl, rfl, rfl, by decide +kernel, rfl, by decide +kernel,
    ok_of (by decide +kernel), by decide, by decide, by decide, pair_of (by decide +kernel), ok_of (by decide +kernel), by decide, rfl, ?_⟩
  unfold NoSnoop
  decide +kernel

/-- A running graph of one node. -/
def graphR : GraphRun := { q := 3, idx := 0, addr := 0x60000, nnode := 1 }
/-- The package with that graph, its first node at the head of the pool. -/
def stNd (node : List Byte) : State :=
  { graphAt (stPk packetG) 1 node with graphs := [(20, graphR)], pool := [(20, 0), (21, 4)] }

/-- A NOTE node without a value, with a ring of 16 entries at 0x70000. -/
def noteBytes : List Byte := nodeBytes 4 0 0 (leBytes 8 0x70000 ++ leBytes 8 0 ++ leBytes 1 4 ++ leBytes 1 0 ++ leBytes 2 2047 ++ leBytes 4 0 ++ leBytes 8 17 ++ leBytes 16 0)
/-- A COND node of a word that is 0. -/
def condBytes : List Byte := nodeBytes 1 0 0 (leBytes 8 0x50000 ++ leBytes 40 0)
/-- A SIGNAL node that adds 5. -/
def sigBytes : List Byte := nodeBytes 2 0 0 (leBytes 8 0x50078 ++ leBytes 8 5 ++ leBytes 1 1 ++ leBytes 31 0)
/-- An XFER node of 3 bytes. -/
def xferBytes : List Byte := nodeBytes 3 0 0 (leBytes 8 0x50001 ++ leBytes 8 0x5007F ++ leBytes 4 3 ++ leBytes 28 0)
/-- A KERNEL node with one fibre, whose entry is 0x1000 and whose launch block is at 0x58000. -/
def kernBytes : List Byte :=
  nodeBytes 0 0 0 (leBytes 8 0x1000 ++ leBytes 8 0x58000 ++ leBytes 2 1 ++ leBytes 2 1 ++ leBytes 2 1 ++ leBytes 2 1 ++
    leBytes 1 0 ++ leBytes 1 0 ++ leBytes 2 0 ++ leBytes 2 0 ++ leBytes 2 1 ++ leBytes 16 0)

/-- The first node of the pool dispatches once its bytes are read. -/
theorem dispatches_of {s : State} {kind : Nat} {bs : List Byte}
    (h : kget s.graphs 20 = some graphR ∧ s.pool.head? = some (20, 0) ∧ (20, 0) ∉ s.poolWait ∧ s.nodeWaits 20 0 = false ∧
      s.graphDead graphR = false ∧ isOk (s.engineRead (s.graphPasid graphR) (nodeVa graphR.addr 0) 64).2 bs = true ∧ fieldLe bs 0 1 = kind) :
    Dispatches s (s.engineRead (s.graphPasid graphR) (nodeVa graphR.addr 0) 64).1 20 0 kind graphR bs :=
  ⟨h.1, h.2.1, h.2.2.1, by decide, by decide, h.2.2.2.1, h.2.2.2.2.1, ok_of h.2.2.2.2.2.1, h.2.2.2.2.2.2⟩

/-- The launch block of the KERNEL node, and the header of its function. -/
def stKern : State :=
  ((stNd kernBytes).writePas 0x58000 (leBytes 128 0)).writePas 0xFFC (leBytes 4 0xFFA50000)

theorem test_GraphEvents_kernel : ∃ t u l, Dispatches stKern t 20 0 0 graphR kernBytes ∧
    t.checkLaunch (t.graphPasid graphR) kernBytes = (u, .ok l [0]) :=
  ⟨_, _, _, dispatches_of (by decide +kernel), pair_of (b := LaunchRes.ok (launchOf kernBytes (leBytes 128 0)) [0]) (by decide +kernel)⟩

theorem test_GraphEvents_cond : ∃ t u, Dispatches (stNd condBytes) t 20 0 1 graphR condBytes ∧
    t.engineRead (t.graphPasid graphR) (fieldLe condBytes 16 8) 4 = (u, .ok (leBytes 4 0)) ∧ leNat (leBytes 4 0) = 0 ∧ NoSnoop (stNd condBytes) u :=
  ⟨_, _, dispatches_of (by decide +kernel), ok_of (by decide +kernel), by decide, by unfold NoSnoop; decide +kernel⟩

/-- A COND node whose word is not 0, with START 0 and the range of itself alone, below its LIMIT of 3 with a COUNT of 2, or at it. -/
def loopBytes (count : Nat) : List Byte :=
  nodeBytes 1 0 0 (leBytes 8 0x50000 ++ leBytes 4 0 ++ leBytes 4 0 ++ leBytes 4 0 ++ leBytes 4 3 ++ leBytes 4 count ++ leBytes 20 0)
/-- The package with that node, whose word is 1, and with node 1 busy or not. -/
def stLoop (node : List Byte) : State := (stNd node).writePas 0x50000 (leBytes 4 1)
/-- The state once the bytes and the word have been read. -/
def stLoop1 : State := ((stLoop (loopBytes 2)).engineRead 1 0x60040 64).1
def stLoop2 : State := (stLoop1.engineRead 1 0x50000 4).1
/-- The state in which the range is re-armed. -/
def stLoop3 : State :=
  (stLoop2.runNode 20 0).modGraph 20 fun g => { g with rearm := insertNew 0 g.rearm }
def stLoop4 : State := (stLoop3.cmdWrite 1 (0x60040 + 40) (leBytes 4 3)).1
def stLoop5 : State := (stLoop4.rearmNodes 1 0x60000 [0]).1

theorem test_GraphEvents_loop : ∃ t u v z,
    let s := stLoop (loopBytes 2); let bs := loopBytes 2
    Dispatches s t 20 0 1 graphR bs ∧ t.engineRead (t.graphPasid graphR) (fieldLe bs 16 8) 4 = (u, .ok (leBytes 4 1)) ∧ NoSnoop s u ∧
    (leNat (leBytes 4 1) ≠ 0 ∧ (fieldLe bs 36 4 = 0 ∨ fieldLe bs 40 4 < fieldLe bs 36 4)) ∧
    ((List.range (fieldLe bs 32 4 + 1 - fieldLe bs 28 4)).map fun i => fieldLe bs 28 4 + i) = [0] ∧ s.pool.length ≤ 4096 ∧ s.poolWait = [] ∧
    ((u.runNode 20 0).modGraph 20 fun g => { g with rearm := insertNew 0 g.rearm }).cmdWrite (t.graphPasid graphR) (nodeVa graphR.addr 0 + 40)
      (leBytes 4 (fieldLe bs 40 4 + 1)) = (v, .ok ()) ∧
    v.rearmNodes (t.graphPasid graphR) graphR.addr [0] = (z, .ok ()) ∧ NoSnoop s z := by
  refine ⟨_, stLoop2, stLoop4, stLoop5, dispatches_of (by decide +kernel), ok_of (by decide +kernel), ?_, by decide, by decide, by decide, rfl,
    ok_of (by decide +kernel), ok_of (by decide +kernel), ?_⟩
  · unfold NoSnoop
    decide +kernel
  · unfold NoSnoop
    decide +kernel

/-- A COND node at its LIMIT goes on no more; one with node 4 in its range waits for it, and one that has waited is taken up. -/
theorem test_GraphEvents_loop_ends :
    (¬ (fieldLe (loopBytes 3) 36 4 = 0 ∨ fieldLe (loopBytes 3) 40 4 < fieldLe (loopBytes 3) 36 4)) ∧
    (let s := { stLoop (loopBytes 2) with pool := [(20, 0), (20, 4)] }; s.nodeBusy 20 graphR 4 = true) ∧
    let g := { graphR with rearm := [0], running := [0] }
    let s := { stLoop (loopBytes 2) with graphs := [(20, g)], pool := [] }
    kget s.graphs 20 = some g ∧ 0 ∈ g.rearm ∧ s.nodeWaits 20 0 = false ∧ isOk (s.engineRead (s.graphPasid g) (nodeVa g.addr 0) 64).2 (loopBytes 2) = true ∧
      s.pool.length < 4096 ∧ s.poolWait = [] := by decide +kernel

theorem test_GraphEvents_signal : ∃ t u, Dispatches (stNd sigBytes) t 20 0 2 graphR sigBytes ∧
    (t.runNode 20 0).engineXl (t.graphPasid graphR) (fieldLe sigBytes 16 8) .store = (u, .ok 0x50078 true) ∧ u.memWf ∧
    u.dataCause 0x50078 8 = none ∧ isDevice 0x50078 = true ∧ 0x50078 % 128 ≤ 120 ∧ (u.home (0x50078 / 128)).shared = false ∧
    NoSnoop (stNd sigBytes) u :=
  ⟨_, _, dispatches_of (by decide +kernel), pair_of (by decide +kernel), memWf_of (by decide +kernel), by decide +kernel, by decide, by decide,
    by decide +kernel, by unfold NoSnoop; decide +kernel⟩

theorem test_GraphEvents_xfer : ∃ t u v, Dispatches (stNd xferBytes) t 20 0 3 graphR xferBytes ∧
    (t.runNode 20 0).engineRead (t.graphPasid graphR) (fieldLe xferBytes 16 8) (fieldLe xferBytes 32 4) = (u, .ok (leBytes 3 0)) ∧
    u.engineWrites (bulkAgent (t.queueHead graphR.q)) none (t.graphPasid graphR) [(fieldLe xferBytes 24 8, leBytes 3 0)] = (v, .ok ()) ∧
    NoSnoop (stNd xferBytes) v := by
  refine ⟨_, _, _, dispatches_of (by decide +kernel), ok_of (by decide +kernel), ok_of (by decide +kernel), ?_⟩
  unfold NoSnoop
  decide +kernel

theorem test_GraphEvents_note : ∃ t t1 u v, Dispatches (stNd noteBytes) t 20 0 4 graphR noteBytes ∧ fieldLe noteBytes 24 8 = 0 ∧
    (t.runNode 20 0).loopCount (t.graphPasid graphR) graphR.addr 0 (List.range graphR.nnode) = (t1, .ok 0) ∧
    t1.cmdWrite (t.graphPasid graphR) (fieldLe noteBytes 16 8 + 32 * (fieldLe noteBytes 40 8 % 2 ^ fieldLe noteBytes 32 1))
      (leBytes 8 0 ++ leBytes 8 (stNd noteBytes).tick ++ leBytes 4 0 ++
        leBytes 4 0 ++ leBytes 8 (fieldLe noteBytes 40 8)) = (u, .ok ()) ∧
    u.cmdWrite (t.graphPasid graphR) (nodeVa graphR.addr 0 + 40) (leBytes 8 (fieldLe noteBytes 40 8 + 1)) = (v, .ok ()) ∧
    NoSnoop (stNd noteBytes) v := by
  refine ⟨_, _, _, _, dispatches_of (by decide +kernel), by decide, ok_of (by decide +kernel), ok_of (by decide +kernel),
    ok_of (by decide +kernel), ?_⟩
  unfold NoSnoop
  decide +kernel

/-- A node with one successor, which waits for it alone. -/
def stS2 : State :=
  ({ stPk packetG with graphs := [(20, { graphR with nnode := 2, done := [(0, [])] })] } : State).writePas 0x60040
    (leBytes 6 1 ++ leBytes 2 1 ++ leBytes 8 0x50000 ++ leBytes 48 0 ++ leBytes 4 1 ++ leBytes 60 1) |>.writePas 0x50000 (leBytes 4 1)

/-- The state in which the successors of the node are looked up. -/
def stS3 : State :=
  stS2.modGraph 20 fun g => { g with done := g.done.filter fun d => d.1 != 0, running := g.running.filter fun n => n != 0, gangs := kdel g.gangs 0 }

theorem test_GraphEvents_complete : ∃ u v w x bs n,
    let g : GraphRun := { graphR with nnode := 2, done := [(0, [])] }
    kget stS2.graphs 20 = some g ∧ g.stopped = false ∧ stS2.graphDead g = false ∧ stS2.nodeWaits 20 0 = false ∧
    g.done.find? (fun d => d.1 == 0) = some (0, []) ∧ 0 ∉ g.running ∧
    stS2.pool.length < 4096 ∧ stS2.poolWait = [] ∧ stS3.engineRead (stS2.graphPasid g) (nodeVa g.addr 0) 64 = (u, .ok bs) ∧
    u.nodeSuccs (stS2.graphPasid g) bs = (v, .ok [1]) ∧ 1 < g.nnode ∧
    v.engineRead (stS2.graphPasid g) (nodeVa g.addr 1 + 4) 2 = (w, .ok n) ∧ leNat n = 1 ∧
    w.cmdWrite (stS2.graphPasid g) (nodeVa g.addr 1 + 4) (leBytes 2 0) = (x, .ok ()) ∧ NoSnoop stS2 x := by
  refine ⟨_, _, _, _, leBytes 6 1 ++ leBytes 2 1 ++ leBytes 8 0x50000 ++ leBytes 48 0, leBytes 2 1, by decide +kernel, rfl, by decide, by decide, rfl,
    by decide, by decide +kernel, rfl, ok_of (by decide +kernel), ok_of (by decide +kernel), by decide, ok_of (by decide +kernel), by decide,
    ok_of (by decide +kernel), ?_⟩
  unfold NoSnoop
  decide +kernel

/-! ## Gangs -/

/-- The gang of two chips, asked for at tick 1000, without an agreed tick. -/
def gangW : Gang := { gang1 with chips := [0, 9], proposals := [(0, 6000)], start := none, asked := 4900000, src := .node 20 0, crews := [] }
/-- The package with a gang. -/
def stGang (g : Gang) : State := { package crewV none with gangs := [(1, g)] }

theorem test_GangEvents_ticks :
    ((stGang gangW).stage = stageReady ∧ kget (stGang gangW).gangs 77 = none ∧ 9 ≠ (stGang gangW).sysId ∧ 9 ∈ [9, 0] ∧
      (stGang gangW).sysId ∈ [9, 0]) ∧
    (gangW.start = none ∧ gangW.terminated = false ∧ gangW.guest = false ∧ gangW.failed = false ∧ 9 ∈ gangW.chips ∧
      kget gangW.proposals 9 = none ∧ ∀ k ∈ gangW.chips, k = 9 ∨ (kget gangW.proposals k).isSome = true) ∧
    (let g := { gangW with src := .peer 9 }; g.start = none ∧ g.terminated = false ∧ g.guest = true) ∧
    (gangW.guest = false ∧ gangW.start = none ∧ gangW.failed = false ∧ gangW.terminated = false ∧
      gangW.asked + 100000 ≤ (stGang gangW).tick) ∧
    kget (stGang gangW).gangs 1 = some gangW ∧ 9 ≠ (stGang gangW).sysId ∧ 9 ∈ gangW.chips := by decide +kernel

/-- A crew that starts, with a heap of one ordinary segment. -/
def crewStart : Crew :=
  { crewWith [] with n := 1, groups := [], life := .starting, entry := 0x1000, segFrame := ⟨0x400000, 2048⟩, segConst := ⟨0x2000, 8⟩ }
/-- The package with that crew. -/
def stStart : State := package crewStart none
/-- The crew once it has a tag and its window. -/
def stStart2 : State :=
  let t := (stStart.loadWindow 1).1
  ({ t with tagCounter := t.newTag } : State).modCrew 1 fun c =>
    { c with tag := t.newTag, tags := crewStart.tags ++ [t.newTag], window := leBytes 8 0xDF }

theorem test_GangEvents_start : ∃ t v,
    kget stStart.gangs 1 = some gang1 ∧ gang1.start = some 0 ∧ 0 ≤ stStart.tick ∧ kget stStart.crews 1 = some crewStart ∧
    (stStart.crews.filter fun c => c.2.gang == 1 && c.2.life == .starting) = [(1, crewStart)] ∧ stStart.pages = [] ∧
    stStart.loadWindow 1 = (t, .ok (leBytes 8 0xDF)) ∧
    (let u := ({ t with tagCounter := t.newTag } : State).modCrew 1 fun c =>
       { c with tag := t.newTag, tags := crewStart.tags ++ [t.newTag], window := leBytes 8 0xDF }
     frThen (u.initEmergency 1) (fun w _ => w.firstFibres 1 (List.range crewStart.n)) = (v, .ok ()) ∧ NoSnoop stStart v) :=
  ⟨_, _, by decide, by decide, by decide, by decide, by decide, rfl, ok_of (by decide +kernel), by
    have h : isOk (frThen (stStart2.initEmergency 1) fun w _ => w.firstFibres 1 (List.range 1)).2 () = true ∧
        newSnoops stStart (frThen (stStart2.initEmergency 1) fun w _ => w.firstFibres 1 (List.range 1)).1 = [] := by
      decide +kernel
    exact ⟨ok_of h.1, h.2⟩⟩

theorem test_GangEvents_placement :
    let g : Gang := { gang1 with launch := { gx := 2, scratch := 65536, entry := 0x1000 }, crews := [] }
    let s : State := { stGang g with crews := [] }
    kget s.gangs 1 = some g ∧ g.terminated = false ∧ g.failed = false ∧ s.gangFinished 1 = false ∧ 1 < g.launch.points ∧
    1 % g.launch.nchip = g.mine ∧ s.placed 1 (g.launch.point 1) = false ∧ s.turnOf 1 g = true ∧
    s.placesAt g 7 11 7 = some [((coreAt 7 11 7, 0), 0x400000)] := by decide +kernel

/-- The two crews of a pipeline stand on two cores of a die. -/
theorem test_GangEvents_pipeline :
    let g : Gang := { gang1 with launch := { s := 2, dx := 1, scratch := 65536, frame := 1048576, entry := 0x1000 }, crews := [] }
    let s : State := { stGang g with crews := [] }
    kget s.gangs 1 = some g ∧ g.terminated = false ∧ g.failed = false ∧ s.gangFinished 1 = false ∧ 0 < g.launch.points ∧
    0 % g.launch.nchip = g.mine ∧ s.placed 1 (g.launch.point 0) = false ∧ s.turnOf 1 g = true ∧
    (s.placesAt g 7 0 0).map List.length = some 2 := by decide +kernel

/-! ## Pre-emption -/

/-- A crew of each die, which holds the only cores at which the next gang fits. -/
def crewD (die : Nat) : Crew :=
  { crewV with home := some (coreAt die 0 0), x := die, created := 4, segScratch := ⟨0, 3145728⟩, scratchArea := ⟨0, 3145728⟩ }
/-- A gang of a more urgent queue that fits at one origin of a die. -/
def gangU : Gang := { gang1 with queue := 0, launch := { s := 2, dx := 11, dy := 7, scratch := 3145728, frame := 1048576 }, crews := [] }
/-- The package with those running crews, and that gang. -/
def stP2 (l : KMap (List Nat)) : State :=
  { package crewV none with
    crews := (List.range 8).map fun d => (d + 1, crewD d)
    gangs := [(1, { gang1 with crews := [1, 2, 3, 4, 5, 6, 7, 8] }), (2, gangU)], queues := [(3, queueA)], lifetimes := l }

theorem test_PreemptEvents_decision : ∀ x ∈ ([([(0, [39999, 19999, 70000])], .save), ([], .save), ([(0, [19999])], .drain)] : List (KMap (List Nat) × Choice)),
    let s := stP2 x.1
    kget s.crews 1 = some (crewD 0) ∧ (crewD 0).life = .running ∧ s.wanted (s.crewPri (crewD 0)) = true ∧ s.firstToGo (crewD 0) = true ∧
      s.choiceFor (crewD 0) = x.2 ∧ Rising s.crews ∧ ∀ d ∈ s.pipeline (crewD 0), d.2.life ≠ .starting ∧ d.2.life ≠ .restoring := by
  unfold Rising
  decide +kernel

/-- Those crews when they may be flushed: their kernels say that a flush is harmless, and no crew has ended. -/
def stFl : State :=
  { stP2 [] with crews := (List.range 8).map fun d => (d + 1, { crewD d with idem := true, fuse := false }) }

theorem test_PreemptEvents_flush :
    let s := stFl
    let c : Crew := { crewD 0 with idem := true, fuse := false }
    kget s.crews 1 = some c ∧ c.life = .running ∧ s.wanted (s.crewPri c) = true ∧ s.firstToGo c = true ∧ s.choiceFor c = .flush ∧
    ((s.pipeline c).filter fun d => d.2.life == .running || d.2.life == .starting) = [(1, c)] ∧
    (kget s.gangs c.gang).isSome = true ∧ newSnoops s (s.flushCrew 1) = [] := by
  decide +kernel

theorem test_PreemptEvents_timeout :
    let c := { crewV with life := .draining, choiceTick := 4960000 }; let s := package c none
    kget s.crews 1 = some c ∧ c.life = .draining ∧ c.choiceTick + 40000 ≤ s.tick ∧ Rising s.crews ∧
    (∀ d ∈ s.pipeline c, d.2.life ≠ .starting ∧ d.2.life ≠ .restoring) ∧
    (kget (package { c with choiceTick := 4960001 } none).crews 1 = some { c with choiceTick := 4960001 } ∧ s.tick < 4960001 + 40000) ∧
    let s2 := { s with crews := [(1, c), (2, { c with stage := 1, life := .starting })] }
    ∃ d ∈ s2.pipeline c, d.2.life = .starting ∨ d.2.life = .restoring := by
  unfold Rising
  decide

/-- A crew to be saved. -/
def crewSv : Crew := { crewV with life := .saving, scratchArea := ⟨256, 8⟩ }

theorem test_PreemptEvents_save : ∃ u v w,
    let s := package crewSv none
    kget s.crews 1 = some crewSv ∧ crewSv.life = .saving ∧ (∀ g ∈ crewSv.groups, g.2.hints.pending = false) ∧ s.ops = [] ∧ s.pages = [] ∧
    s.gated = [] ∧ s.saveSaddle crewSv.core 1 = (u, .ok ()) ∧ u.drain (u.agentOf crewSv.core) = (v, none) ∧ v.saveChains 1 = (w, .ok ()) ∧
    NoSnoop s w :=
  ⟨_, _, _, by decide, rfl, by decide, rfl, rfl, rfl, ok_of (by decide +kernel), pair_of (by decide +kernel), ok_of (by decide +kernel),
    by unfold NoSnoop; decide +kernel⟩

/-- A crew whose image is being read, with a loose fibre. -/
def crewRes : Crew :=
  { crewWith [(0, { fib [(1, 0x408)] with st := .loose 3, replay := [reqG (.load .w64) []] })] with
    n := 1, groups := [], life := .restoring, segConst := ⟨0x2000, 8⟩ }

theorem test_PreemptEvents_restore : ∃ t,
    let s := package crewRes none
    kget s.crews 1 = some crewRes ∧ crewRes.life = .restoring ∧ crewRes.image = true ∧ crewRes.saveTag = none ∧ crewRes.deferred = [] ∧ crewRes.late = [] ∧
    crewRes.joins = [] ∧ crewRes.claims = [] ∧ s.ops = [] ∧ s.pages = [] ∧ s.sends = [] ∧
    (s.pipeline crewRes).filter (fun d => d.2.life == .restoring) = [(1, crewRes)] ∧ (∀ f ∈ crewRes.fibres, (∃ n, f.2.st = .loose n) ∧ f.2.chain = []) ∧
    s.loadWindow 1 = (t, .ok (leBytes 8 0xDF)) ∧ NoSnoop s t := by
  refine ⟨_, by decide, rfl, rfl, rfl, rfl, rfl, rfl, rfl, rfl, rfl, rfl, by decide, fun f h => ?_, ok_of (by decide +kernel), ?_⟩
  · cases h with
    | head => exact ⟨⟨3, rfl⟩, rfl⟩
    | tail _ h => cases h
  · unfold NoSnoop
    decide +kernel

end Sys2Proof.Tests
end

