-- ==== Sys2Proof/Tests/Copies.lean ====
section
/-! SUPPORT. States that meet the hypotheses of the obligations about the events of the copy engine and the matrix engine. -/

namespace Sys2Proof.Tests

open Sys2Proof.Machine Sys2Proof.Terms

set_option Elab.async false
set_option maxRecDepth 100000

/-! ## Copies -/

/-- A copy of a function. -/
def copyOf (fn : Nat) : CopyOp :=
  { fn := fn, pub := false, rnd := 0, rsd := none, toff := 0x800, src := 0, rows := 1, acc := false, pattern := 0x3F80, lanes := [], record := none
    lfsr := none }
/-- The record of an f32 tile of 2 rows of 4 elements, of a tensor at 0x30000 (R235). -/
def rec64 : List Byte :=
  leBytes 8 0x30000 ++ leBytes 8 0 ++ leBytes 2 0x83 ++ [2, 1] ++ leBytes 4 4 ++ leBytes 4 2 ++ leBytes 8 0 ++ leBytes 4 16 ++ leBytes 8 0 ++
    [4, 2, 1, 1] ++ leBytes 12 0
/-- The operation of a copy. -/
def opC (x : CopyOp) (st : OpStage) : Op := { kind := .copy x, issuer := 1, core := 0, owners := [.fibre 1 0 5], stage := st }
/-- The crew whose first copy it is, with these shutters. -/
def crewCp (sh : List Shutter) : Crew := { crewV with copies := [50], shutters := sh }
/-- The package with that copy, and with the record at the start of the scratchpad. -/
def stCp (x : CopyOp) (st : OpStage) (sh : List Shutter) : State :=
  ({ package (crewCp sh) none with ops := [(50, opC x st)] } : State).writeScratch 0 0 rec64

/-- What COPY_START asks of each copy. -/
def startOk (x : CopyOp) : Prop :=
  let s := stCp x .issued []
  (s.crew 1).copies = 50 :: [] ∧ (s.crew 1).working = true ∧ kget s.ops 50 = some (opC x .issued) ∧ s.clusterGated 0 = false

theorem startOk_of (x : CopyOp) : startOk x := ⟨rfl, rfl, rfl, rfl⟩

theorem test_EngineEvents_start :
    (startOk (copyOf 5) ∧ startOk (copyOf 4) ∧ moveCheck (crewCp []) (copyOf 4) = none ∧
      Config.stagingBytes < tileBytes true 2000 + 30000 ∧ tileBytes false 1 + (crewCp []).shut ≤ Config.stagingBytes ∧
      tileBytes false 1 + (stCp (copyOf 4) .issued []).stagingUsed 0 ≤ Config.stagingBytes) ∧
    moveCheck (crewCp []) { copyOf 2 with src := 0x801 } = some 0x67 ∧
    (let x := copyOf 0; let s := stCp x .issued []
     s.scratchPoison 0 0 64 = false ∧ recordCheck s (s.crew 1) { x with record := some (s.readScratch 0 0 64) } = none) ∧
    (let x := { copyOf 1 with rnd := 2, rsd := some 0 }; let s := stCp x .issued []
     recordCheck s (s.crew 1) { x with record := some (s.readScratch 0 0 64) } = none ∧ x.lfsr = none) ∧
    let x := { copyOf 3 with toff := 65536 }; let s := stCp x .issued []
    recordCheck s (s.crew 1) { x with record := some (s.readScratch 0 0 64) } = some 0x67 :=
  ⟨⟨startOk_of _, startOk_of _, by decide +kernel, by decide, by decide, by decide +kernel⟩, by decide +kernel, by decide +kernel,
   by decide +kernel, by decide +kernel⟩

theorem copyRuns_of (x : CopyOp) (sh : List Shutter) : CopyRuns (stCp x .running sh) 50 1 0 5 (crewCp sh) fibV (opC x .running) x :=
  ⟨⟨rfl, rfl, rfl, rfl⟩, rfl, rfl, rfl, rfl, rfl, rfl, rfl, rfl, rfl⟩

/-- An XFILL of C16, an XMOVE, and a copy whose check failed. -/
theorem test_EngineEvents_fill_move : (∃ bs, let x := { copyOf 4 with pub := true }; let s := stCp x .running []
      CopyRuns s 50 1 0 5 (crewCp []) fibV (opC x .running) x ∧ x.err = 0 ∧ s.memWf ∧ TileIs s s (opC x .running) (crewCp []) x bs ∧ NoSnoop s s) ∧
    (∃ bs, let x := copyOf 2; let s := stCp x .running []
      CopyRuns s 50 1 0 5 (crewCp []) fibV (opC x .running) x ∧ x.err = 0 ∧ s.memWf ∧ TileIs s s (opC x .running) (crewCp []) x bs ∧ NoSnoop s s) ∧
    let x := { copyOf 4 with err := 0x67 }
    CopyRuns (stCp x .running []) 50 1 0 5 (crewCp []) fibV (opC x .running) x ∧ x.err ≠ 0 :=
  ⟨⟨_, copyRuns_of _ _, rfl, memWf_of (by decide +kernel), Or.inr (Or.inl ⟨rfl, rfl, rfl, rfl⟩), by unfold NoSnoop; decide +kernel⟩,
   ⟨_, copyRuns_of _ _, rfl, memWf_of (by decide +kernel), Or.inr (Or.inr (Or.inl ⟨rfl, rfl, by decide +kernel, rfl⟩)), by unfold NoSnoop; decide +kernel⟩,
   copyRuns_of _ _, by decide⟩

/-- The XLOAD of the record. -/
def copyL : CopyOp := { copyOf 0 with record := some rec64 }
/-- The package in which it runs. -/
def stLd : State := (stCp copyL .running []).writePas 0x30000 (leBytes 4 0x3F800000)
/-- That state once the first row has been read, and once the second has. -/
def stLd1 : State := (stLd.engineRead 1 0x30000 16).1
def stLd2 : State := (stLd1.engineRead 1 0x30010 16).1

theorem rows_stLd : ∃ rows, RowsAre stLd 1 copyL (List.range copyL.recRows) rows stLd2 := by
  have h3 : ¬ copyL.fn = 3 := by decide
  have hs : copyL.shape.sbase = 0 := by decide +kernel
  have r1 : ∃ row, RowIs stLd stLd1 1 copyL 0 row := by
    simp only [RowIs, h3, hs, if_false, if_true, show copyL.shape.row 0 = some (0x30000, 4, 0) from by decide +kernel]
    exact ⟨_, stLd1, leBytes 4 0x3F800000 ++ List.replicate 12 0, [], ok_of (by decide +kernel), ⟨rfl, rfl⟩, rfl⟩
  have r2 : ∃ row, RowIs stLd1 stLd2 1 copyL 1 row := by
    simp only [RowIs, h3, hs, if_false, if_true, show copyL.shape.row 1 = some (0x30010, 4, 1) from by decide +kernel]
    exact ⟨_, stLd2, List.replicate 16 0, [], ok_of (by decide +kernel), ⟨rfl, rfl⟩, rfl⟩
  obtain ⟨x, hx⟩ := r1
  obtain ⟨y, hy⟩ := r2
  rw [show List.range copyL.recRows = [0, 1] from by decide +kernel]
  exact ⟨[x, y], stLd1, x, [y], rfl, hx, stLd2, y, [], rfl, hy, rfl, rfl⟩

theorem test_EngineEvents_load : ∃ u bs,
    CopyRuns stLd 50 1 0 5 (crewCp []) fibV (opC copyL .running) copyL ∧ copyL.err = 0 ∧ stLd.memWf ∧
    TileIs stLd u (opC copyL .running) (crewCp []) copyL bs ∧ u.crews = stLd.crews ∧ u.ops = stLd.ops ∧ u.scratch = stLd.scratch ∧ NoSnoop stLd u := by
  obtain ⟨rows, h⟩ := rows_stLd
  exact ⟨stLd2, _, ⟨⟨rfl, rfl, rfl, rfl⟩, rfl, rfl, rfl, rfl, rfl, rfl, rfl, rfl, rfl⟩, rfl, memWf_of (by decide +kernel),
    Or.inr (Or.inr (Or.inr ⟨Or.inl rfl, rows, h, rfl⟩)), by decide +kernel, by decide +kernel, by decide +kernel, by unfold NoSnoop; decide +kernel⟩

/-- The XSTORE of the record. -/
def copyS : CopyOp := { copyOf 1 with record := some rec64 }
/-- Its rows. -/
def rowsS : List (Nat × List Byte) :=
  (List.range copyS.shape.rows).flatMap fun k =>
    storeRow copyS copyS.shape ((stCp copyS .running []).readScratch 0 0x800 (tileBytes copyS.shape.acc copyS.shape.rows)) [] k
/-- The state once they are merged. -/
def stSt : State := ((stCp copyS .running []).engineWrites (copyAgent 0) (some 1) 1 rowsS).1

theorem test_EngineEvents_store : ∃ d,
    let s := stCp copyS .running []
    CopyRuns s 50 1 0 5 (crewCp []) fibV (opC copyS .running) copyS ∧ copyS.err = 0 ∧ copyS.fn = 1 ∧
    s.scratchPoison 0 0x800 (tileBytes copyS.shape.acc copyS.shape.rows) = false ∧
    s.engineWrites (copyAgent 0) (some 1) 1 rowsS = (stSt, .ok ()) ∧ kget stSt.crews 1 = some d ∧ d.fibres = (crewCp []).fibres ∧
    d.life = (crewCp []).life ∧ d.copies = (crewCp []).copies ∧ stSt.scratch = s.scratch ∧ NoSnoop s stSt := by
  refine ⟨stSt.crew 1, copyRuns_of _ _, rfl, rfl, by decide +kernel, ok_of (by decide +kernel), by decide +kernel, by decide +kernel, by decide +kernel,
    by decide +kernel, by decide +kernel, ?_⟩
  unfold NoSnoop
  decide +kernel

theorem test_EngineEvents_pub :
    let x := copyOf 5; let sh : List Shutter := [⟨49, 0x100, [1, 2, 3], none, []⟩]
    CopyRuns (stCp x .running sh) 50 1 0 5 (crewCp sh) fibV (opC x .running) x ∧ x.err = 0 ∧ x.fn = 5 ∧ ∀ h ∈ sh, h.bar = none :=
  ⟨copyRuns_of _ _, rfl, rfl, by decide⟩

/-! ## Matrix operations -/

/-- A matrix operation. -/
def matOf (fn toff a : Nat) (int : Bool) : MatOp := ⟨fn, false, false, int, toff, a, 0x10000⟩
/-- The record of one operation. -/
def opM (m : MatOp) : Op := { kind := .matrix m none, issuer := 1, core := 0, owners := [.fibre 1 0 5] }
/-- The claim whose first operation it is. -/
def claimM (p : Option Plane) : Claim := ⟨[50], some 3, p, none, [], false⟩
/-- A crew with that claim. -/
def crewMx (p : Option Plane) : Crew := { crewV with claims := [claimM p], segScratch := ⟨0, 0x40000⟩, scratchArea := ⟨0, 0x40000⟩ }
/-- The package with that operation, a record of one row of 4 elements at the start of the scratchpad, and scale codes of 1 at the ends of a
tile of two rows at 0x40 and of one row at 0x10000. -/
def stMx (m : MatOp) (p : Option Plane) : State :=
  ((({ package (crewMx p) none with ops := [(50, opM m)], clusters := [(0, { pairs := [(3, 1)] })] } : State).writeScratch 0 0
    (List.replicate 18 0 ++ [2, 0] ++ List.replicate 28 0 ++ [4, 1, 1, 1] ++ List.replicate 12 0)).writeScratch 0 0x240
      (List.replicate 8 0x7F)).writeScratch 0 0x10100 (List.replicate 4 0x7F)

theorem matReady_of (m : MatOp) (p : Option Plane) : MatReady (stMx m p) 0 1 0 5 50 3 (claimM p) (crewMx p) fibV (opM m) m :=
  ⟨⟨rfl, rfl, rfl, rfl⟩, rfl, by decide, rfl, rfl, rfl, rfl, rfl, rfl, rfl, rfl, rfl, rfl, by
    show clusterOf 0 = 0
    decide, by
    show clusterOf (crewMx none).core = 0
    decide⟩

/-- A plane of two columns of 4 weights. -/
def plane4 (int : Bool) : Plane := ⟨4, 2, int, List.replicate 256 0, List.replicate 8 0x7F, false⟩

theorem test_EngineEvents_load_zero_store :
    (let m := matOf 2 0x40 (2 * 256 + 3) true; let s := stMx m none
     MatReady s 0 1 0 5 50 3 (claimM none) (crewMx none) fibV (opM m) m ∧ s.memWf ∧ m.toff + 260 * (m.a / 256 % 256) ≤ (crewMx none).segScratch.limit ∧
       s.scratchPoison 0 m.toff (260 * (m.a / 256 % 256)) = false ∧
       intCheck (s.readScratch 0 m.toff (260 * (m.a / 256 % 256))) (m.a / 256 % 256) (m.a % 256) = none) ∧
    (let m := matOf 3 0 0 false; MatReady (stMx m none) 0 1 0 5 50 3 (claimM none) (crewMx none) fibV (opM m) m) ∧
    (let m := matOf 5 0x3FE00 1 false
     MatReady (stMx m none) 0 1 0 5 50 3 (claimM none) (crewMx none) fibV (opM m) m ∧ m.toff + 512 * m.a ≤ (crewMx none).segScratch.limit) ∧
    let m := matOf 6 0x10000 0 false; let s := stMx m none
    MatReady s 0 1 0 5 50 3 (claimM none) (crewMx none) fibV (opM m) m ∧ m.toff + 33280 ≤ 0x40000 ∧ m.a + 65536 ≤ 0x40000 ∧
      (m.a + 65536 ≤ m.toff ∨ m.toff + 33280 ≤ m.a) ∧ s.scratchPoison 0 m.a 65536 = false :=
  ⟨⟨matReady_of _ _, memWf_of (by decide +kernel), by decide, by decide +kernel, by decide +kernel⟩, matReady_of _ _, ⟨matReady_of _ _, by decide⟩,
   matReady_of _ _, by decide, by decide, by decide, by decide +kernel⟩

theorem test_EngineEvents_stream : ∀ int ∈ [true, false],
    let m := matOf 4 0x20000 0 int; let p := plane4 int; let s := stMx m (some p)
    MatReady s 0 1 0 5 50 3 (claimM (some p)) (crewMx (some p)) fibV (opM m) m ∧ s.memWf ∧ (claimM (some p)).active = some p ∧ p.int = m.int ∧
    p.poisoned = false ∧ s.scratchPoison 0 m.a 64 = false ∧ isOk (streamShape (s.readScratch 0 m.a 64)) (1, p.k) = true ∧
    m.atile + 260 * 1 ≤ 0x40000 ∧ m.toff + 65536 ≤ 0x40000 ∧ (m.atile + 260 * 1 ≤ m.toff ∨ m.toff + 65536 ≤ m.atile) ∧
    s.scratchPoison 0 m.atile (260 * 1) = false ∧ s.scratchPoison 0 m.toff 65536 = false ∧
    intCheck (s.readScratch 0 m.atile (260 * 1)) 1 p.k = none := by
  intro int h
  rcases List.mem_pair.1 h with rfl | rfl
  · exact ⟨matReady_of _ _, memWf_of (by decide +kernel), rfl, rfl, rfl, by decide +kernel, by decide +kernel, by decide, by decide, by decide,
      by decide +kernel, by decide +kernel, by decide +kernel⟩
  · exact ⟨matReady_of _ _, memWf_of (by decide +kernel), rfl, rfl, rfl, by decide +kernel, by decide +kernel, by decide, by decide, by decide,
      by decide +kernel, by decide +kernel, by decide +kernel⟩

end Sys2Proof.Tests
end

