-- ==== Sys2Proof/Tests/Queues.lean ====
section
/-! SUPPORT. States that meet the hypotheses of the obligations about words that pop queues, lanes that trap and bypass latches. -/

namespace Sys2Proof.Tests

open Sys2Proof.Machine Sys2Proof.Terms

set_option Elab.async false
set_option maxRecDepth 100000

/-! ## Words that pop -/

/-- The crew of a stage, whose queue 1 holds these values. -/
def crewPop (stage : Nat) (vals : List Word) : Crew := { crew2 with stage := stage, queues := [(1, vals)] }
/-- The crew of the stage that pushes, which may have ended. -/
def crewPush (life : Life) : Crew := { crew2 with life := life, home := some 1 }
/-- The package of both. -/
def stPop (stage : Nat) (vals : List Word) (life : Life) : State :=
  { package (crewPop stage vals) (some iss2) with crews := [(1, crewPop stage vals), (2, crewPush life)], gangs := [(1, gangQ)] }
/-- The values in the tests of words that run. -/
def vals4 : List Word := [0x3F800000, 8, 7, 9]
/-- The package in which every value is there. -/
def stPq : State := stPop 1 vals4 .running
/-- The crew of that package. -/
def crewPq : Crew := crewPop 1 vals4

theorem switch_of {s : State} {c : Crew} (h1 : s.cur = some iss2) (h2 : kget s.crews 1 = some c) (h3 : c.life = .running)
    (h4 : (s.core c.core).overflow = []) (h5 : s.population c.core ≤ 256) (h6 : kget c.groups 7 = some (grp [0, 1]))
    (h7 : ∀ f ∈ [0, 1], (kget c.fibres f).isSome = true ∧ (c.fibre f).st = .formed 7) : SwitchReady s iss2 c :=
  ⟨⟨h1, h2, by decide, fun f hf => (h7 f hf).1⟩, h3, h4, h5, 7, _, rfl, h6, rfl, fun f hf => (h7 f hf).2⟩

theorem switch_stPop {stage : Nat} {vals : List Word} {life : Life} (h : (stPop stage vals life).population 0 ≤ 256) :
    SwitchReady (stPop stage vals life) iss2 (crewPop stage vals) :=
  switch_of rfl rfl rfl rfl h rfl fun f hf => by
    have : ∀ f ∈ [0, 1], (kget fibs2 f).isSome = true ∧ (kgetD fibs2 f {}).st = .formed 7 := by decide
    exact this f hf

/-- What PopsNow asks beside SwitchReady. -/
def popsB (w : Instr) (s : State) (i : Issue) (c : Crew) (g : Guard) (srcs : List Sel) : Bool :=
  decide (popsOf srcs ≠ []) && decide (c.queueTaken w = false) && decide (∀ a ∈ srcs, selFits a c.b 1 = true) &&
  !(envAt s i).splitRead (srcs.flatMap fun a => selRegs a 1) && decide (((envAt s i).lanes g).bad = []) &&
  decide (((envAt s i).lanes g).sel ≠ [])

theorem pops_of {w : Instr} {s : State} {i : Issue} {c : Crew} {g : Guard} {srcs : List Sel} (hi : SwitchReady s i c)
    (h : popsB w s i c g srcs = true) : PopsNow w s i c g srcs := by
  simp only [popsB, Bool.and_eq_true, decide_eq_true_eq, Bool.not_eq_true'] at h
  obtain ⟨⟨⟨⟨⟨a, b⟩, c'⟩, d⟩, e⟩, f⟩ := h
  exact ⟨hi, a, b, c', d, e, f⟩

/-- What the queues of stPq hold is enough for words that use at most two values of queue 1 on each lane. -/
theorem supplied_of {g : Guard} {srcs : List Sel} (h1 : ((envAt stPq iss2).lanes g).sel.length ≤ 2) (h2 : (popsOf srcs).count 1 ≤ 2)
    (h3 : ∀ q ∈ popsOf srcs, q = 1) : Supplied stPq iss2 crewPq g srcs := by
  refine ⟨by decide, fun q => ?_⟩
  by_cases hq : q = 1
  · subst hq
    exact Nat.mul_le_mul h1 h2
  · rw [List.count_eq_zero.2 fun h => hq (h3 q h)]
    exact Nat.zero_le _

/-- The value of a selector that a fibre of stPq reads for operand k, popped values among them. -/
def valQ (g : Guard) (srcs : List Sel) (k f : Nat) : Word :=
  match (envAt stPq iss2).read (crewPq.fibre f) f (srcs.getD k .imm) k (popAt crewPq srcs k (((envAt stPq iss2).lanes g).sel.idxOf f)) with
  | .ok x => x
  | .error _ => 0

/-- The conditions of LaneRule.PopRuns on the lanes. -/
def popRunsB (r : LaneRule) : Bool :=
  decide (r.h.d.val < crewPq.b) && ((envAt stPq iss2).lanes r.h.g).sel.all fun f =>
    let j := ((envAt stPq iss2).lanes r.h.g).sel.idxOf f
    let X := valQ r.h.g r.srcs 0 f
    let Y := valQ r.h.g r.srcs 1 f
    let Z := (crewPq.fibre f).getV r.h.d.val
    (match r.srcs[0]? with | some a => isOk ((envAt stPq iss2).read (crewPq.fibre f) f a 0 (popAt crewPq r.srcs 0 j)) X | none => true) &&
    (match r.srcs[1]? with | some b => isOk ((envAt stPq iss2).read (crewPq.fibre f) f b 1 (popAt crewPq r.srcs 1 j)) Y | none => true) &&
    (!r.third || isOk ((envAt stPq iss2).readV (crewPq.fibre f) f r.h.d.val 2) Z) &&
    (r.h.nw || decide ((crewPq.fibre f).strictV iss2.strict r.h.d.val = none)) && decide ((crewPq.fibre f).fpend = []) &&
    match r.value iss2.mod Z X Y with | some (_, x) => decide (trapSet x (crewPq.fibre f).fstat = 0) | none => false

/-- The rule of a word that pops runs in stPq. -/
def PopRunsQ (w : Instr) (r : LaneRule) : Prop :=
  r.PopRuns w stPq iss2 crewPq (valQ r.h.g r.srcs 0) (valQ r.h.g r.srcs 1) fun f => (crewPq.fibre f).getV r.h.d.val

theorem popRuns_of {w : Instr} {r : LaneRule} (hp : popsB w stPq iss2 crewPq r.h.g r.srcs = true)
    (hs : Supplied stPq iss2 crewPq r.h.g r.srcs) (h : popRunsB r = true) : PopRunsQ w r := by
  simp only [popRunsB, Bool.and_eq_true, decide_eq_true_eq, List.all_eq_true, Bool.or_eq_true, Bool.not_eq_true'] at h
  obtain ⟨h1, h2⟩ := h
  refine ⟨pops_of (switch_stPop (by decide)) hp, hs, h1, fun f hf => ?_⟩
  obtain ⟨⟨⟨⟨⟨a, b⟩, c'⟩, d⟩, e⟩, g⟩ := h2 f hf
  refine ⟨fun x hx => ?_, fun x hx => ?_, fun ht => ?_, fun hn => ?_, e, ?_⟩
  · rw [hx] at a; exact of_isOk a
  · rw [hx] at b; exact of_isOk b
  · rcases c' with c' | c'
    · rw [ht] at c'; cases c'
    · exact of_isOk c'
  · rcases d with d | d
    · rw [hn] at d; cases d
    · exact d
  · revert g
    cases r.value iss2.mod ((crewPq.fibre f).getV r.h.d.val) (valQ r.h.g r.srcs 0 f) (valQ r.h.g r.srcs 1 f) with
    | none => intro g; cases g
    | some p => intro g; exact ⟨p.1, p.2, rfl, of_decide_eq_true g⟩

theorem test_Pops_run :
    (∃ r, intRule (.imad ⟨.all, false, 4⟩ (.q 1) (.q 1)) = some r ∧ PopRunsQ (.imad ⟨.all, false, 4⟩ (.q 1) (.q 1)) r) ∧
    (∃ r, floatRule (.fadd ⟨.ifP 0, false, 15⟩ (.v 9) (.q 1)) = some r ∧ PopRunsQ (.fadd ⟨.ifP 0, false, 15⟩ (.v 9) (.q 1)) r) ∧
    PopRunsQ (.sel ⟨.all, true, 0⟩ (.q 1) (.q 1))
      { h := ⟨.all, true, 0⟩, lat := 2, srcs := [.q 1, .q 1], third := false, value := fun _ z _ _ => some (z, 0) } :=
  ⟨⟨_, rfl, popRuns_of (by decide +kernel) (supplied_of (by decide +kernel) (by decide) (by decide)) (by decide +kernel)⟩,
   ⟨_, rfl, popRuns_of (by decide +kernel) (supplied_of (by decide +kernel) (by decide) (by decide)) (by decide +kernel)⟩,
   popRuns_of (by decide +kernel) (supplied_of (by decide +kernel) (by decide) (by decide)) (by decide +kernel)⟩

/-- Stage 0; an empty queue whose pushing crew has ended; and too few values while it lives. -/
theorem test_Pops_wait_or_fault :
    let w : Instr := .imul ⟨.all, false, 4⟩ (.q 1) (.v 2)
    (PopsNow w (stPop 0 [] .running) iss2 (crewPop 0 []) .all [.q 1, .v 2] ∧ (crewPop 0 []).stage = 0) ∧
    (PopsNow w (stPop 1 [] .ended) iss2 (crewPop 1 []) .all [.q 1, .v 2] ∧
      (stPop 1 [] .ended).stageCrew (crewPop 1 []) 0 = some (2, crewPush .ended) ∧ (crewPush .ended).alive = false ∧
      (crewPop 1 []).queue 1 = []) ∧
    PopsNow w (stPop 1 [5] .running) iss2 (crewPop 1 [5]) .all [.q 1, .v 2] ∧
    (stPop 1 [5] .running).stageCrew (crewPop 1 [5]) 0 = some (2, crewPush .running) ∧ (crewPush .running).alive = true ∧
    ((crewPop 1 [5]).queue 1).length < ((envAt (stPop 1 [5] .running) iss2).lanes .all).sel.length * (popsOf [.q 1, .v 2]).count 1 :=
  ⟨⟨pops_of (switch_stPop (by decide)) (by decide +kernel), rfl⟩,
   ⟨pops_of (switch_stPop (by decide)) (by decide +kernel), by decide +kernel, rfl, rfl⟩,
   pops_of (switch_stPop (by decide)) (by decide +kernel), by decide +kernel, rfl, by decide +kernel⟩

/-- The conditions of QuietPops on the lanes. -/
def quietPopsB (h : LaneHdr) (width : Nat) : Bool :=
  decide (h.d.val + width ≤ crewPq.b) && ((envAt stPq iss2).lanes h.g).sel.all fun f => decide ((crewPq.fibre f).fpend = []) &&
    (h.nw || (List.range width).all fun k => decide ((crewPq.fibre f).strictV iss2.strict (h.d.val + k) = none))

theorem quietPops_of {w : Instr} {h : LaneHdr} {srcs : List Sel} {width : Nat} (hp : popsB w stPq iss2 crewPq h.g srcs = true)
    (hs : Supplied stPq iss2 crewPq h.g srcs) (hb : quietPopsB h width = true) : QuietPops w stPq iss2 crewPq h srcs width := by
  simp only [quietPopsB, Bool.and_eq_true, decide_eq_true_eq, List.all_eq_true, Bool.or_eq_true] at hb
  refine ⟨pops_of (switch_stPop (by decide)) hp, hs, hb.1, fun f hf => ⟨(hb.2 f hf).1, fun hn k hk => ?_⟩⟩
  rcases (hb.2 f hf).2 with d | d
  · rw [hn] at d; cases d
  · exact d k (List.mem_range.2 hk)

/-- An operand is read on each selected lane of stPq. -/
theorem reads_of {g : Guard} {srcs : List Sel} {k : Nat} (h : ((envAt stPq iss2).lanes g).sel.all (fun f =>
    match srcs[k]? with
    | some a => isOk ((envAt stPq iss2).read (crewPq.fibre f) f a k (popAt crewPq srcs k (((envAt stPq iss2).lanes g).sel.idxOf f))) (valQ g srcs k f)
    | none => true) = true) : Reads stPq iss2 crewPq g srcs k (valQ g srcs k) := by
  intro a ha f hf
  have := List.all_eq_true.1 h f hf
  simp only [ha] at this
  exact of_isOk this

theorem test_Pops_quiet :
    (QuietPops (.cvt ⟨.all, false, 14⟩ (.q 1) 0x16) stPq iss2 crewPq ⟨.all, false, 14⟩ [.q 1] 2 ∧
      Reads stPq iss2 crewPq .all [.q 1] 0 (valQ .all [.q 1] 0) ∧
      ∀ f ∈ ((envAt stPq iss2).lanes .all).sel, (cvtPair 0x16 iss2.mod.rm (valQ .all [.q 1] 0 f) 0).isSome = true) ∧
    (QuietPops (.rfl ⟨.all, false, 15⟩ (.q 1)) stPq iss2 crewPq ⟨.all, false, 15⟩ [.q 1] 1 ∧
      Reads stPq iss2 crewPq .all [.q 1] 0 (valQ .all [.q 1] 0)) ∧
    (exchangeRule (.xchgUp .all 15 (.q 1) 31)).isSome = true ∧
    QuietPops (.xchgUp .all 15 (.q 1) 31) stPq iss2 crewPq ⟨.all, false, 15⟩ [.q 1] 1 ∧
    QuietPops (.voteEq .all 31 (.q 1)) stPq iss2 crewPq ⟨.all, true, 0⟩ [.q 1] 1 ∧ MayWriteG stPq iss2 crewPq 31 ∧
    gSettled iss2 crewPq 31 ∧ PSettled iss2 crewPq :=
  ⟨⟨quietPops_of (by decide +kernel) (supplied_of (by decide +kernel) (by decide) (by decide)) (by decide +kernel), reads_of (by decide +kernel),
     by decide +kernel⟩,
   ⟨quietPops_of (by decide +kernel) (supplied_of (by decide +kernel) (by decide) (by decide)) (by decide +kernel), reads_of (by decide +kernel)⟩,
   rfl, quietPops_of (by decide +kernel) (supplied_of (by decide +kernel) (by decide) (by decide)) (by decide +kernel),
   quietPops_of (by decide +kernel) (supplied_of (by decide +kernel) (by decide) (by decide)) (by decide +kernel), rfl,
   by unfold gSettled; decide, by unfold PSettled; decide⟩

/-- FSWAP with a popped value of legal bits, PRM with a popped mask, and XDEF with a popped word. -/
theorem test_Pops_quiet_values :
    (let s := stPop 1 [0x1F1F, 0x1F] .running; let c := crewPop 1 [0x1F1F, 0x1F]
     SwitchReady s iss2 c ∧ popsB (.cvtFswap ⟨.all, false, 15⟩ (.q 1)) s iss2 c .all [.q 1] = true ∧ Supplied s iss2 c .all [.q 1] ∧
       15 + 1 ≤ c.b ∧ ∀ f ∈ ((envAt s iss2).lanes .all).sel, (c.fibre f).fpend = [] ∧ (c.fibre f).strictV iss2.strict 15 = none ∧
         popAt c [.q 1] 0 (((envAt s iss2).lanes .all).sel.idxOf f) &&& 0xFFFFE0E0 = 0) ∧
    (QuietPops (.prm ⟨.ifP 0, false, 15⟩ (.v 14) (.q 1)) stPq iss2 crewPq ⟨.ifP 0, false, 15⟩ [.v 14, .q 1] 1 ∧
      selFits (.v 14) crewPq.b 2 = true ∧ selQueue (.v 14) = [] ∧
      (envAt stPq iss2).splitRead (selRegs (.v 14) 2 ++ selRegs (.q 1) 1) = false ∧
      Reads stPq iss2 crewPq (.ifP 0) [.v 14, .q 1] 1 (valQ (.ifP 0) [.v 14, .q 1] 1) ∧
      ∀ f ∈ ((envAt stPq iss2).lanes (.ifP 0)).sel, isOk ((envAt stPq iss2).readPair (crewPq.fibre f) f (.v 14) 0) (0, 0) = true) ∧
    (QuietPops (.xset .all 3 (.q 1)) stPq iss2 crewPq ⟨.all, true, 0⟩ [.q 1] 1 ∧ (indexRule (.xset .all 3 (.q 1))).isSome = true ∧
      Reads stPq iss2 crewPq .all [.q 1] 0 (valQ .all [.q 1] 0)) ∧
    ∃ h a b rel, compareRule (.icmpz ⟨.all, .lt, .and⟩ (.q 1) (.q 1)) = some (h, a, b, rel) ∧
      Supplied stPq iss2 crewPq h.g [a, b] ∧ Reads stPq iss2 crewPq h.g [a, b] 0 (valQ h.g [a, b] 0) ∧
      Reads stPq iss2 crewPq h.g [a, b] 1 (valQ h.g [a, b] 1) ∧
      PopsNow (.icmpz ⟨.all, .lt, .and⟩ (.q 1) (.q 1)) stPq iss2 crewPq h.g [a, b] ∧
      ∀ f ∈ ((envAt stPq iss2).lanes h.g).sel, (crewPq.fibre f).fpend = [] ∧
        trapSet (rel (valQ h.g [a, b] 0 f) (valQ h.g [a, b] 1 f)).2 (crewPq.fibre f).fstat = 0 :=
  ⟨⟨switch_stPop (by decide), by decide +kernel, ⟨by decide, fun q => by
        by_cases hq : q = 1
        · subst hq; decide +kernel
        · rw [List.count_eq_zero.2 (by simpa [popsOf, selQueue] using hq)]; exact Nat.zero_le _⟩, by decide, by decide +kernel⟩,
   ⟨quietPops_of (by decide +kernel) (supplied_of (by decide +kernel) (by decide) (by decide)) (by decide +kernel), by decide, rfl,
     by decide +kernel, reads_of (by decide +kernel), by decide +kernel⟩,
   ⟨quietPops_of (by decide +kernel) (supplied_of (by decide +kernel) (by decide) (by decide)) (by decide +kernel), rfl, reads_of (by decide +kernel)⟩,
   _, _, _, _, rfl, supplied_of (by decide +kernel) (by decide) (by decide), reads_of (by decide +kernel), reads_of (by decide +kernel),
   pops_of (switch_stPop (by decide)) (by decide +kernel), by decide +kernel⟩

/-! ## Lanes that trap -/

/-- A crew whose fibre 0 has the traps of division by zero and of inexact enabled, and whose fibre 1 has none. -/
def crewT : Crew :=
  crewWith [(0, { fib [(0, 0x3F800000), (1, 0x40400000)] with fstat := 0x1200 }), (1, fib [(0, 0x3F800000), (1, 0x40400000)])]
/-- 1.0 + 2^-25 is inexact, and enabled on fibre 0 only. -/
theorem test_FloatWords_traps : ∃ r, floatRule (.fadd ⟨.all, false, 4⟩ (.v 0) .imm) = some r ∧
    let i : Issue := { iss2 with imm := some 0x33000000 }
    let s : State := package crewT (some i)
    r.Traps s i crewT (fun _ => 0x3F800000) (fun _ => 0x33000000) (fun _ => 0) (fun _ => 0x3F800000) (fun _ => 0x10)
      (fun f => if f = 0 then some 4 else none) := by
  refine ⟨_, rfl, ⟨rfl, rfl, by decide, by decide⟩, by decide, by decide, by decide +kernel, by decide +kernel, fun f hf => ?_⟩
  have hf : f = 0 ∨ f = 1 := by
    have := (by decide +kernel : ∀ f ∈ ((envAt (package crewT (some { iss2 with imm := some 0x33000000 }))
      { iss2 with imm := some 0x33000000 }).lanes .all).sel, f = 0 ∨ f = 1)
    exact this f hf
  have hr : ∀ f ∈ [0, 1],
      isOk ((envAt (package crewT (some { iss2 with imm := some 0x33000000 })) { iss2 with imm := some 0x33000000 }).read (crewT.fibre f) f (.v 0) 0 0)
        0x3F800000 = true ∧
      isOk ((envAt (package crewT (some { iss2 with imm := some 0x33000000 })) { iss2 with imm := some 0x33000000 }).read (crewT.fibre f) f .imm 1 0)
        0x33000000 = true := by decide +kernel
  have hm : f ∈ [0, 1] := by simpa using hf
  refine ⟨fun a ha => ?_, fun b hb => ?_, fun h => (by cases h), fun _ => ?_, ?_, ?_, ?_⟩
  · cases ha; exact of_isOk (hr f hm).1
  · cases hb; exact of_isOk (hr f hm).2
  · rcases hf with rfl | rfl <;> rfl
  · rcases hf with rfl | rfl <;> rfl
  · rcases hf with rfl | rfl <;> decide +kernel
  · rcases hf with rfl | rfl
    · exact ⟨by decide, by decide, by decide⟩
    · show ∀ k, k < 5 → _
      decide

/-! ## Latches -/

/-- A group with two latches, of which the second is ready. -/
def issL : Issue := { iss2 with grp := { iss2.grp with pos := 9, latches := [⟨8, 4, [(0, 7)]⟩, ⟨5, 4, [(0, 5), (1, 6)]⟩] } }

theorem test_OperandsAndGuards_latches :
    let s := package crew2 (some issL)
    Issues s issL crew2 ∧ (issL.grp.latches[1]? = some ⟨5, 4, [(0, 5), (1, 6)]⟩ ∧ 5 + 4 ≤ issL.grp.pos) ∧
    (∀ l, issL.grp.latches[0]? = some l → issL.grp.pos < l.pos + l.lat) ∧ issL.grp.latches[3]? = none :=
  ⟨⟨rfl, rfl, by decide, by decide⟩, ⟨rfl, by decide⟩, fun l h => by cases h; decide, rfl⟩

end Sys2Proof.Tests
end

