-- ==== Sys2Proof/Tests/System.lean ====
section
/-! SUPPORT. States that meet the hypotheses of the obligations about steps, heads, the mailbox, security and the taking of an effect. -/

namespace Sys2Proof.Tests

open Sys2Proof.Machine Sys2Proof.Terms

set_option Elab.async false
set_option maxRecDepth 100000

/-! ## Words and steps -/

theorem test_DecodeEncode :
    (let i : Instr := .iadd ⟨.unlessP 2, false, 127⟩ (.v 127) (.g 23); i.isWord = true ∧ i.wellFormed = true) ∧
    0x020040FF < 2 ^ 32 ∧ decodeWord 0x020040FF = .ok (.iadd ⟨.all, false, 1⟩ (.v 1) .imm) := by decide

/-- A word placed where the next step fetches. -/
def stFet (w : Nat) : State := State.reset.withFetchWord 32 w
/-- The candidate that core 0 picks there. -/
def candF : Cand := ⟨1, none, [0], 0x10000, 0⟩

theorem facts_stFet : ∀ w ∈ [0x0600F9F5, 0xFD000000], ∃ v,
    (stFet w).agenda = [] ∧ (stFet w).heldNow = none ∧ (stFet w).pickAny = some (0, candF) ∧
    kget ((picked (stFet w) 0 candF).crew 1).groups 2 = some ⟨[0], 0x10000, 0x10000, 0, 0, 0, [], {}⟩ ∧
    (picked (stFet w) 0 candF).fetchWord 0 ((picked (stFet w) 0 candF).crew 1).pasid 0x10000 = (v, .ok (BitVec.ofNat 32 w)) ∧
    ((v.crew 1).fibre 0).poisoned = false ∧ ((v.crew 1).raceLog = [] ∧ (v.crew 1).raceLost = false) ∧ (v.crew 1).alive = true := by
  intro w hw
  cases hw with
  | head => exact ⟨_, by decide +kernel, by decide +kernel, by decide +kernel, by decide +kernel, ok_of (by decide +kernel), by decide +kernel, by decide +kernel, by decide +kernel⟩
  | tail _ h => cases h with
    | head => exact ⟨_, by decide +kernel, by decide +kernel, by decide +kernel, by decide +kernel, ok_of (by decide +kernel), by decide +kernel, by decide +kernel, by decide +kernel⟩
    | tail _ h => cases h

/-- A word and a HINT word that the next step fetches. -/
theorem test_StepRunsDecoded : ∃ g : Group,
    (∃ v, Fetches (stFet 0x0600F9F5) 0 candF g v 0x0600F9F5 ∧ decodeWord 0x0600F9F5 = .ok (.imul ⟨.all, false, 3⟩ (.int 3) (.int 5)) ∧
      isHintWord 0x0600F9F5 = false ∧ ¬ (Sys2Proof.Machine.opOf 0x0600F9F5 = 0x7F ∧ g.hints.pending = true) ∧
      hintCause (.imul ⟨.all, false, 3⟩ (.int 3) (.int 5)) 0x0600F9F5 g.hints = none ∧ ((v.crew 1).raceLog = [] ∧ (v.crew 1).raceLost = false) ∧
      (v.crew 1).alive = true) ∧
    ∃ v, Fetches (stFet 0xFD000000) 0 candF g v 0xFD000000 ∧ decodeWord 0xFD000000 = .ok (.hintDly 0) ∧ isHintWord 0xFD000000 = true := by
  obtain ⟨v, a, b, c, d, e, f, g, h⟩ := facts_stFet 0x0600F9F5 (by decide)
  obtain ⟨v', a', b', c', d', e', f', _, _⟩ := facts_stFet 0xFD000000 (by decide)
  refine ⟨_, ⟨v, ⟨a, b, c, d, e, ?_⟩, by decide, by decide, by decide, by decide, g, h⟩, v', ⟨a', b', c', d', e', ?_⟩, by decide, by decide⟩
  · intro n hn
    cases hn with
    | head => exact f
    | tail _ h => cases h
  · intro n hn
    cases hn with
    | head => exact f'
    | tail _ h => cases h

theorem test_StepRunsEvent : let s : State := { State.reset with agenda := [.cycle 1, .reset] }
    s.agenda = .cycle 1 :: [.reset] ∧ isEvent (.cycle 1) = true ∧ s.memWf ∧ ∃ t, step s = .next t :=
  ⟨rfl, rfl, memWf_of (by decide), _, rfl⟩

/-! ## Occupancy, vectors and heads -/

/-- A vector with an event counted. -/
def vecP : Vector := { pend := 1, time := 5, cnt := 3, first := 4995000, masked := false }
/-- The package with vectors, heads and queues. -/
def stHd : State :=
  { package crewV none with
    vectors := [(6, vecP), (7, { vecP with masked := true })], heads := [(0, { hb := 1 }), (1, { failed := true })]
    queues := [(3, { queueA with head := 1 }), (5, { head := 1 }), (9, { queueA with head := 0 })], tick := 10000001, epoch := 41 }

theorem test_HeadEvents :
    (State.reset.stage ≠ stageReady ∧ 767 < 768 ∧ 15 < 16) ∧ (stHd.stage = stageReady ∧ 767 < 768 ∧ 15 < 16) ∧
    ((stHd.vector 6).pend ≠ 0 ∧ (stHd.head (stHd.vector 6).head).linkUp = true ∧ (stHd.vector 6).masked = false ∧ (stHd.vector 6).time ≠ 0 ∧
      (stHd.vector 6).first + 1000 * (stHd.vector 6).time ≤ stHd.tick) ∧
    ((stHd.vector 7).pend ≠ 0 ∧ (stHd.head (stHd.vector 7).head).linkUp = true ∧ (stHd.vector 7).masked = true) ∧
    ((stHd.head 0).hb + 10000000 ≤ stHd.tick ∧ (stHd.head 0).failed = false) ∧
    ((stHd.head (1 - (0 : Fin 2).val)).failed = true ∧ stHd.epoch + 1 < 2 ^ 32) ∧ Rising stHd.queues :=
  ⟨by decide, by decide, by decide, by decide, by decide, by decide, by unfold Rising; decide⟩

/-! ## The mailbox -/

/-- A mailbox with a GO, and bytes of the payload. -/
def mail (func : Nat) (payload : KMap Byte) : Mailbox := { busy := true, func := func, agreed := true, payload := payload }
/-- The package with a mailbox of head 0. -/
def stMb (m : Mailbox) : State := { package crewV none with heads := [(0, { mail := m })] }

theorem goWaits_of {m : Mailbox} {func : Nat} {named : Mailbox → List (Nat × Nat)}
    (h : m.busy = true ∧ m.func = func ∧ (stMb m).mailTurn 0 = true ∧ m.agreed = true ∧ m.zerosBut (named m) = true) : GoWaits (stMb m) 0 func named m := ⟨rfl, h⟩

theorem test_MailboxEvents_version :
    (let m : Mailbox := { mail 1 [(0x101, 1)] with agreed := false }
     ((stMb m).head 0).mail = m ∧ m.busy = true ∧ m.func = 1 ∧ m.zerosBut [(0x100, 4), (0x108, 2)] = true ∧ m.field 0x103 1 ≤ 1 ∧
       1 ≤ m.field 0x101 1) ∧
    ∀ f ∈ [0x10, 0x20, 0x30, 0x40, 0x50, 0x60, 0x70, 0x71, 0x72],
      let m : Mailbox := { mail f [] with agreed := false }; (stMb m).headUp 0 = true ∧ ((stMb m).head 0).mail = m ∧ m.busy = true ∧ m.func = f ∧ m.agreed = false ∧
        (stMb m).mailTurn 0 = true := by
  decide +kernel

/-- The payload of a QUEUE_CREATE for queue 1023 with a ring of 16 slots on vector 2047. -/
def mailQ (state : Byte) : Mailbox := mail 0x10 [(0x100, 0xFF), (0x101, 3), (0x128, 4), (0x129, 0x87), (0x12B, 1), (0x12C, 1), (0x130, 0xFF), (0x131, 7), (0x132, state)]
/-- The package whose queue 1023 is active, with that payload. -/
def stMq : State := { stMb (mailQ 0) with queues := [(1023, { queueA with packets := [(0, packetB)] })] }

theorem test_MailboxEvents_queue :
    GoWaits (stMb (mailQ 0)) 0 0x10 queueFields (mailQ 0) ∧ GoWaits stMq 0 0x10 queueFields (mailQ 0) ∧
    (let m := mailQ 0
     m.field 0x100 2 < 1024 ∧ descOk (m.bytes 0x120 32) = true ∧ fieldLe (m.bytes 0x120 32) 18 1 = 0 ∧ m.field 0x103 1 ≤ 1 ∧
       1 ≤ fieldLe (m.bytes 0x120 32) 11 1 ∧
     (stMb m).locked (fun t => t.queues.contains (m.field 0x100 2)) = false ∧ ((stMb m).queue (m.field 0x100 2)).state = .disabled ∧
     stMq.locked (fun t => t.queues.contains (m.field 0x100 2)) = false ∧ (stMq.queue (m.field 0x100 2)).state = .active ∧
     newSnoops stMq (stMq.disableQueue (m.field 0x100 2) 0xAF) = []) :=
  ⟨goWaits_of (by decide +kernel), ⟨rfl, by decide +kernel⟩, by decide +kernel⟩

/-- The payload of a PASID_REGISTER of PASID 0xFFFFF, with a root at page 1 and a frame region of 4 MiB. -/
def mailP : Mailbox := mail 0x20 [(0x100, 0xFF), (0x101, 0xFF), (0x102, 0xF), (0x104, 3), (0x108, 1), (0x112, 1), (0x11A, 0x40)]

theorem test_MailboxEvents_pasid :
    GoWaits (stMb mailP) 0 0x20 pasidFields mailP ∧
    (let m := mailP; let s := stMb m
     m.field 0x100 4 < 2 ^ 20 ∧ m.field 0x104 1 < 4 ∧ m.field 0x108 8 < 2 ^ 44 ∧ m.field 0x110 8 % 65536 = 0 ∧ m.field 0x118 8 % 65536 = 0 ∧
       4194304 ≤ m.field 0x118 8 ∧ m.field 0x118 8 ≤ 2 ^ 40 ∧ s.locked (fun t => t.pasids.contains (m.field 0x100 4)) = false ∧
       ∀ c ∈ s.crews, c.2.pasid = m.field 0x100 4 → c.2.alive = false) :=
  ⟨goWaits_of (by decide +kernel), by decide +kernel⟩

/-- The payload of a CODE_LOAD of 8 bytes from host address 0x100 to 0x50000 of PASID 1. -/
def mailC : Mailbox := mail 0x30 [(0x101, 1), (0x10A, 5), (0x110, 1), (0x114, 8)]

theorem test_MailboxEvents_code : ∃ u,
    GoWaits (stMb mailC) 0 0x30 codeFields mailC ∧ mailC.field 0x100 8 % 4 = 0 ∧ mailC.field 0x108 8 % 4 = 0 ∧ mailC.field 0x110 4 < 2 ^ 20 ∧
    mailC.field 0x114 4 % 4 = 0 ∧ 4 ≤ mailC.field 0x114 4 ∧ mailC.field 0x114 4 ≤ 2 ^ 30 ∧
    (stMb mailC).cmdWrite (mailC.field 0x110 4) (mailC.field 0x108 8) (memBytes (stMb mailC).host (hostPa 0 (mailC.field 0x100 8)) (mailC.field 0x114 4)) =
      (u, .ok ()) ∧ NoSnoop (stMb mailC) u := by
  refine ⟨_, goWaits_of (by decide +kernel), by decide +kernel, by decide +kernel, by decide +kernel, by decide +kernel, by decide +kernel,
    by decide +kernel, ok_of (by decide +kernel), ?_⟩
  unfold NoSnoop
  decide +kernel

/-- The payload of an IMAGE_STAGE. -/
def mailI : Mailbox := mail 0x40 [(0x101, 0x10), (0x109, 1)]
/-- The payload of an EVRING of 2^16 entries on vector 2047. -/
def mailE : Mailbox := mail 0x50 [(0x101, 0x10), (0x108, 16), (0x10A, 0xFF), (0x10B, 7)]

theorem test_MailboxEvents_image :
    (GoWaits (stMb mailI) 0 0x40 imageFields mailI ∧ mailI.field 0x100 8 % 4096 = 0 ∧ 256 ≤ mailI.field 0x108 4 ∧ mailI.field 0x108 4 ≤ 2 ^ 26 ∧
      (stMb mailI).headUp 0 = true ∧ ∃ good ok : Bool, let bs := memBytes (stMb mailI).host (hostPa 0 (mailI.field 0x100 8)) (mailI.field 0x108 4)
        imageHeadWell (mailI.field 0x108 4) (bs.take 256) = good ∧ digestOk bs = ok ∧
          (good = true ∧ ok = true ∨ good = false ∨ good = true ∧ (true && ok) = false)) ∧
    (GoWaits (stMb mailE) 0 0x50 ringFields mailE ∧ mailE.field 0x100 8 % 4096 = 0 ∧ 4 ≤ mailE.field 0x108 1 ∧ mailE.field 0x108 1 ≤ 16 ∧
      mailE.field 0x10A 2 < 2 ^ 11 ∧ ∀ r ∈ (stMb mailE).held, r.head ≠ 0) :=
  ⟨⟨goWaits_of (by decide +kernel), by decide +kernel, by decide +kernel, by decide +kernel, rfl, _, _, rfl, rfl, by
      cases imageHeadWell (mailI.field 0x108 4)
        ((memBytes (stMb mailI).host (hostPa 0 (mailI.field 0x100 8)) (mailI.field 0x108 4)).take 256) <;>
      cases digestOk (memBytes (stMb mailI).host (hostPa 0 (mailI.field 0x100 8)) (mailI.field 0x108 4)) <;> decide⟩,
   ⟨goWaits_of (by decide +kernel), by decide +kernel⟩⟩

/-- The payload of a TDI_DEFINE of TDI 63 with queues 1023 and 2 and PASID 1. -/
def mailT : Mailbox := mail 0x60 [(0x100, 63), (0x102, 2), (0x104, 1), (0x110, 0xFF), (0x111, 3), (0x112, 2), (0x114, 1)]

theorem test_MailboxEvents_tdi :
    GoWaits (stMb mailT) 0 0x60 tdiFields mailT ∧
    (let m := mailT; let s := stMb m
     let qs := (List.range (m.field 0x102 2)).map fun i => m.field (0x110 + 2 * i) 2
     let ps := (List.range (m.field 0x104 2)).map fun i => m.field (0x110 + 4 * ((m.field 0x102 2 + 1) / 2) + 4 * i) 4
     m.field 0x100 1 < 64 ∧ 0 < m.field 0x102 2 ∧ m.field 0x102 2 ≤ 1024 ∧ m.field 0x104 2 ≤ 64 ∧ (∀ p ∈ ps, p < 2 ^ 20) ∧
       (∀ q ∈ qs, s.badQueue 0 (64 * 0 + m.field 0x100 1) q = false) ∧ kget s.tdis (64 * 0 + m.field 0x100 1) = none) :=
  ⟨goWaits_of (by decide +kernel), by decide +kernel⟩

/-- The payload of a function of the debugger for the crew of gang 1 at (0, 0, 0), stage 0. -/
def mailD (func : Nat) : Mailbox :=
  mail func (if func = 0x71 then [(0x100, 1), (0x118, 255), (0x119, 255), (0x11A, 255), (0x11B, 255)] else [(0x100, 1)])
/-- The package with that payload and a crew in a state. -/
def stDb (func : Nat) (c : Crew) : State := { package c none with heads := [(0, { mail := mailD func })] }
/-- A halted crew. -/
def crewH : Crew := { crewV with life := .halted, scratchImage := [1, 2, 3] }

theorem align64_le (bs : List Byte) : (align64 bs).length ≤ bs.length + 63 := by
  have h : ∀ n x, (leBytes n x).length = n := fun n => by
    induction n with
    | zero => intro _; rfl
    | succ n ih => intro x; simp only [leBytes, List.length_cons, ih]
  simp only [align64, padTo, List.length_append, ceilDiv, h]
  omega

theorem freePart_le {α : Type} (n : Nat) (a : α) : (freePart n a).length ≤ 67108864 := by
  simp only [freePart, freeBytes, List.length_map, List.length_range]
  have : Config.imageUnits n a % 2 ^ 20 < 2 ^ 20 := Nat.mod_lt _ (by decide)
  omega

theorem flatten_le {n : Nat} : ∀ ps : List (List Byte), (∀ p ∈ ps, p.length ≤ n) → ps.flatten.length ≤ n * ps.length
  | [], _ => Nat.zero_le _
  | p :: ps, h => by
    have a := h p (List.mem_cons_self ..)
    have b := flatten_le ps fun q hq => h q (List.mem_cons_of_mem _ hq)
    simp only [List.flatten_cons, List.length_append, List.length_cons, Nat.mul_add, Nat.mul_one]
    omega

/-- The image of the halted crew fits in any buffer of which the payload can give the length. -/
theorem imageBytes_le : ((stDb 0x71 crewH).imageBytes 1 crewH).length ≤ 0xFFFFFFFF := by
  have e : ∀ (b : Nat) (bs : List Byte), bs.length ≤ b → b ≤ 67108864 → (align64 bs).length ≤ 67108927 :=
    fun b bs h h' => Nat.le_trans (align64_le bs) (by omega)
  have parts : ∀ p ∈ (stDb 0x71 crewH).imageParts 1 crewH, p.length ≤ 67108927 := by
    simp only [State.imageParts, List.forall_mem_map, List.forall_mem_cons]
    refine ⟨e 136 _ (by decide +kernel) (by decide), e 384 _ (by decide +kernel) (by decide), e 2048 _ (by decide +kernel) (by decide),
      e _ _ (freePart_le _ _) (by decide), e 512 _ (by simp [freeBytes]) (by decide), e _ _ (freePart_le _ _) (by decide),
      e _ _ (freePart_le _ _) (by decide), e _ _ (freePart_le _ _) (by decide), e _ _ (freePart_le _ _) (by decide),
      e _ _ (freePart_le _ _) (by decide), e 3 _ (by decide +kernel) (by decide), e 4096 _ (by decide +kernel) (by decide), fun _ h => by cases h⟩
  have total := flatten_le _ parts
  have count : ((stDb 0x71 crewH).imageParts 1 crewH).length = 12 := rfl
  rw [count] at total
  have head : (crewH.imageHead (directory 256 ((stDb 0x71 crewH).imageParts 1 crewH))).length = 256 := by
    have : Config.revisionAt % 255 < 255 := Nat.mod_lt _ (by decide)
    simp [Crew.imageHead, overlay, freeBytes]
    omega
  simp only [State.imageBytes, List.length_append]
  omega

theorem test_MailboxEvents_debug :
    (kget (stDb 0x70 crewV).crews 1 = some crewV ∧ (stDb 0x70 crewV).dbgCrew (mailD 0x70) = some (1, crewV) ∧
      GoWaits (stDb 0x70 crewV) 0 0x70 dbgFields (mailD 0x70) ∧ crewV.life = .running) ∧
    ((stDb 0x71 crewH).dbgCrew (mailD 0x71) = some (1, crewH) ∧ GoWaits (stDb 0x71 crewH) 0 0x71 dbgReadFields (mailD 0x71) ∧
      crewH.life = .halted ∧ (mailD 0x71).field 0x110 8 % 64 = 0 ∧
      ((stDb 0x71 crewH).imageBytes 1 crewH).length ≤ (mailD 0x71).field 0x118 4 ∧ (stDb 0x71 crewH).memWf) ∧
    ((stDb 0x72 crewH).dbgCrew (mailD 0x72) = some (1, crewH) ∧ GoWaits (stDb 0x72 crewH) 0 0x72 dbgFields (mailD 0x72)) :=
  ⟨⟨by decide +kernel, by decide +kernel, ⟨rfl, by decide +kernel⟩, rfl⟩,
   ⟨by decide +kernel, ⟨rfl, by decide +kernel⟩, rfl, by decide +kernel, Nat.le_trans imageBytes_le (by decide +kernel), memWf_of (by decide +kernel)⟩,
   by decide +kernel, ⟨rfl, by decide +kernel⟩⟩

theorem test_MailboxEvents_register :
    0x20000 % 8 = 0 ∧ (stMb mailI).stage = stageReady ∧ 1 ≤ (64 : Word64).toNat % 128 ∧ (64 : Word64).toNat % 128 ≤ 64 ∧
    State.reset.stage ≠ stageReady ∧ 0x20008 % 8 = 0 ∧ 0x20008 ≠ 0 ∧ 0x20008 ≠ 8 ∧ 0x20008 ≠ 0x10000 := by decide

/-! ## Security -/

/-- A report. -/
def rep1 : Report := ⟨7, 1, 3, 0xA9, 2, 0, 0, 0⟩
/-- A TDI. -/
def tdi1 (x : TdiState) : Tdi := ⟨[3], [1], x, none⟩
/-- The package with a TDI 5 of head 1, a session, a stream, and a report that waits for its answer. -/
def stSec (x : TdiState) : State :=
  { package crewV none with
    tdis := [(69, tdi1 x)], sessions := [(1, 4)], streams := [(1, 0)], asking := [(4000000, rep1)], queues := [(3, { queueA with head := 1 })] }

/-- The package whose queue has launched the gang of its one crew. -/
def stRun : State :=
  { stSec .run with
    gangs := [(1, { gang1 with src := .packet 3 0 })]
    crews := [(1, { crewV with segScratch := ⟨0, 4⟩, scratchArea := ⟨0, 4⟩, segFrame := ⟨0x400000, 4096⟩, frameArea := ⟨0x400000, 4096⟩ })] }

/-- A package of head 0 with every kind of TDI bound to session 4, of which one runs and one is locked, and a TDI of another session. -/
def stBound : State :=
  { stSec .run with
    tdis := [(1, ⟨[3], [1], .run, some 4⟩), (2, ⟨[5], [2], .locked, some 4⟩), (3, ⟨[6], [], .unlocked, some 4⟩), (4, ⟨[7], [], .run, some 9⟩)]
    sessions := [(0, 4), (0, 9)], queues := [(3, queueA), (5, queueA)] }

theorem test_SecurityEvents :
    ((stSec .run).asking[0]? = some (4000000, rep1) ∧ 4000000 + 1000000 ≤ (stSec .run).tick ∧
      ∀ x ∈ (stSec .run).asking.take 0, x.2.gang ≠ rep1.gang) ∧
    (State.reset.stage ≠ stageReady ∧ State.reset.headUp 1 = true ∧ (stSec .run).headUp 1 = true ∧ (stSec .run).stage = stageReady ∧
      ((1 : Fin 2).val, 5) ∉ (stSec .run).sessions ∧ ((stSec .run).sessions.filter fun x => x.1 == (1 : Fin 2).val).length < 4 ∧
      ((1 : Fin 2).val, 4) ∈ (stSec .run).sessions ∧ ((1 : Fin 2).val, 8) ∉ (stSec .run).streams ∧ ((1 : Fin 2).val, 0) ∈ (stSec .run).streams) ∧
    (∀ x ∈ [TdiState.unlocked, .locked, .run], kget (stSec x).tdis (64 * (1 : Fin 2).val + 5) = some (tdi1 x) ∧ (tdi1 x).state = x) ∧
    kget (stSec .run).tdis (64 * (1 : Fin 2).val + 6) = none ∧
    ((tdi1 .run).state = .run ∧ newSnoops stRun ((tdi1 .run).queues.foldl State.stopQueue stRun) = []) ∧
    (((1 : Fin 2).val, 4) ∈ (stSec .run).sessions ∧
      ((stSec .run).tdis.filter fun x => x.1 / 64 == (1 : Fin 2).val && x.2.session == some 4) = []) := by
  decide +kernel

/-- The end of the session that binds a TDI in each state. -/
theorem test_SecurityEvents_expiry :
    let binds := fun (x : Nat × Tdi) => x.1 / 64 == (0 : Fin 2).val && x.2.session == some 4
    let t0 : State := { stBound with sessions := stBound.sessions.filter fun x => x != ((0 : Fin 2).val, 4) }
    ((0 : Fin 2).val, 4) ∈ stBound.sessions ∧ stBound.tdis.filter binds ≠ [] ∧ Rising stBound.tdis ∧
    NoSnoop stBound ((stBound.tdis.filter binds).foldl State.failTdi t0) ∧ binds (4, ⟨[7], [], .run, some 9⟩) = false ∧
    ∀ p ∈ [(1, TdiState.run), (2, .locked), (3, .unlocked)], ∃ x, kget stBound.tdis p.1 = some x ∧ binds (p.1, x) = true ∧ x.state = p.2 := by
  refine ⟨by decide, by decide, by unfold Rising; decide, by unfold NoSnoop; decide +kernel, by decide, fun p hp => ?_⟩
  fin_cases hp
  · exact ⟨_, rfl, by decide, rfl⟩
  · exact ⟨_, rfl, by decide, rfl⟩
  · exact ⟨_, rfl, by decide, rfl⟩

/-- The failure of a stream, whichever of the TDIs use it. -/
theorem test_SecurityEvents_stream :
    let t0 := ({ stRun with streams := stRun.streams ++ [((1 : Fin 2).val, 8)] } : State).plainReport 0xBD 0 (1 : Fin 2).val 8
    let uses := fun (x : Nat × Tdi) => x.1 / 64 == (1 : Fin 2).val && Config.tdiStream (1 : Fin 2).val (x.1 % 64) 8 && x.2.state == .run
    8 < 9 ∧ ((1 : Fin 2).val, 8) ∉ stRun.streams ∧ Rising stRun.tdis ∧ NoSnoop stRun ((stRun.tdis.filter uses).foldl State.failTdi t0) ∧
    uses (69, tdi1 .run) = Config.tdiStream 1 5 8 := by
  have h : stRun.tdis = [(69, tdi1 .run)] := rfl
  refine ⟨by decide, by decide, by rw [h]; unfold Rising; decide, ?_, ?_⟩
  · simp only [h, List.filter]
    cases Config.tdiStream (1 : Fin 2).val (69 % 64) 8 with
    | false => unfold NoSnoop; decide +kernel
    | true => unfold NoSnoop; decide +kernel
  · show (69 / 64 == (1 : Fin 2).val && Config.tdiStream 1 5 8 && TdiState.run == .run) = _
    cases Config.tdiStream 1 5 8 <;> decide

theorem test_PackageEvents :
    (∀ n ∈ [0, 1, 2, 3, 4], let s : State := { State.reset with stage := n }; s.stage < 5 ∧ s.tripped = false) ∧
    (∃ i : Image, let s : State := { State.reset with staged := some { i with kind := 3 } }
      kget (match s.staged with | some j => kset s.images j.kind j | none => s.images) 3 = some { i with kind := 3 }) ∧
    kget State.reset.images 3 = none ∧
    (400 ≤ 400 ∧ 450 ≤ State.reset.millivolts) ∧ (23 < 24 ∧ 23 ∉ State.reset.failedCores) ∧ 767 < 768 :=
  ⟨by decide, ⟨imageOf [], rfl⟩, by decide, by decide, by decide, by decide⟩

/-! ## Taking an effect -/

/-- Effect 5, or FAULT. -/
def effT (label : Nat) : Eff := { label := label, cause := 0x57, payload := 0xAB, rpc := 0x1004 }
/-- The record of the hinge. -/
def hingeH : SegHead := ⟨0x400400, 0x400000, 1, 0, false, 0x21, 0x1400, 0, false⟩
/-- The state once the hinge has been found. -/
def stE1 : State := (stH.hingeFor 1 0 5).1
/-- What the record's allocation gives there. -/
def allocE : Option (State × Nat × List Nat) := stE1.allocRecord 1 (ceilDiv (stE1.replayEntries 1 0).length 31)
/-- The state once a record has been taken. -/
def stE2 : State := (allocE.map (·.1)).getD stE1

theorem facts_stE : isOk (stH.hingeFor 1 0 5).2 (some ([], hingeH)) = true ∧ stE1.memBusy 1 0 = false ∧ (stH.crew 1).alive = true ∧
    allocE.map (·.2) = some (0x400800, []) ∧ (kget stE2.crews 1).isSome = true ∧ (kget (stE2.crew 1).fibres 0).isSome = true ∧
    isOk (stE2.captureInto 1 0 (effT 5) [] hingeH 0x400800 [] false ((stE1.crew 1).records.contains 0x400800 ||
      ((kget stE1.gangs (stE1.crew 1).gang).map fun g => g.poolRecords.contains 0x400800).getD false)).2 () = true := by
  decide +kernel

theorem kget_crew {s : State} {n : Nat} (h : (kget s.crews n).isSome = true) : kget s.crews n = some (s.crew n) := by
  obtain ⟨c, hc⟩ := Option.isSome_iff_exists.mp h
  rw [State.crew, kgetD, hc]
  rfl

theorem test_EffectEntry_hinge : ∃ t u v f,
    (stH.crew 1).alive = true ∧ stH.hingeFor 1 0 (effT 5).label = (t, .ok (some ([], hingeH))) ∧ t.memBusy 1 0 = false ∧
    t.allocRecord 1 (ceilDiv (t.replayEntries 1 0).length 31) = some (u, 0x400800, []) ∧ kget u.crews 1 = some (u.crew 1) ∧
    kget (u.crew 1).fibres 0 = some f ∧
    u.captureInto 1 0 (effT 5) [] hingeH 0x400800 [] false ((t.crew 1).records.contains 0x400800 ||
      ((kget t.gangs (t.crew 1).gang).map fun g => g.poolRecords.contains 0x400800).getD false) = (v, .ok ()) := by
  obtain ⟨a, b, c, d, e, f, g⟩ := facts_stE
  obtain ⟨x, hx⟩ := Option.isSome_iff_exists.mp f
  refine ⟨stE1, stE2, _, x, c, ok_of a, b, ?_, kget_crew e, hx, ok_of g⟩
  have h2 : stE2 = (allocE.map (·.1)).getD stE1 := rfl
  show allocE = _
  cases hq : allocE with
  | none => rw [hq] at d; cases d
  | some p =>
    rw [hq] at d h2
    obtain ⟨p1, p2⟩ := p
    rw [h2]
    simpa using d

theorem test_EffectEntry_fault :
    let s := package crewV none
    kget s.crews 1 = some crewV ∧ crewV.alive = true ∧ (effT 0).label = 0 ∧ (effT 0).prog = false ∧
    (crewV.fibre 0).effmask.getLsbD 0 = false ∧ kget s.gangs crewV.gang = some gang1 ∧ gang1.terminated = false ∧ 1 ∈ gang1.crews := by decide

end Sys2Proof.Tests
end

section
/-! PROOF. The package (R4, R373, R404, R405, R407 to R409, R411): what reset, bring-up, a report and a cycle leave in the state. -/

namespace Sys2Proof.Machine

/-! ## Maps over a range of keys -/

theorem kget_map_keys {α : Type} (f : Nat → α) {k : Nat} : ∀ {l : List Nat}, k ∈ l → kget (l.map fun c => (c, f c)) k = some (f k)
  | c :: l, h => by
    rw [List.map_cons, kget]
    split
    · next hk => rw [hk]
    · next hk => exact kget_map_keys f ((List.mem_cons.mp h).resolve_left hk)

theorem kgetD_map_range {α : Type} (f : Nat → α) (d : α) {k n : Nat} (h : k < n) :
    kgetD ((List.range n).map fun c => (c, f c)) k d = f k := by
  rw [kgetD, kget_map_keys f (List.mem_range.mpr h), Option.getD_some]

/-! ## Reports leave the service cores as they were -/

@[simp] theorem State.sendVector_failedCores (s : State) (v : Nat) : (s.sendVector v).failedCores = s.failedCores := by
  simp only [State.sendVector]
  split <;> rfl

@[simp] theorem State.vectorEvent_failedCores (s : State) (v head : Nat) : (s.vectorEvent v head).failedCores = s.failedCores := by
  simp only [State.vectorEvent]
  split
  · exact State.sendVector_failedCores _ v
  · rfl

@[simp] theorem State.modHead_failedCores (s : State) (h : Nat) (f : Head → Head) : (s.modHead h f).failedCores = s.failedCores := rfl

@[simp] theorem State.release_failedCores (s : State) (core : Nat) (sc : Scope) (chips : List Nat) :
    (s.release core sc chips).1.failedCores = s.failedCores := rfl

@[simp] theorem State.toHost_failedCores (s : State) (r : Report) : (s.toHost r).failedCores = s.failedCores := by
  simp only [State.toHost]
  split
  · simp
  · rfl

/-- A report is logged, waits for an answer of the service cores, or goes to the host (R398). -/
theorem State.report_cases (s : State) (r : Report) : ∃ log waiting,
    s.report r = { s with svcLog := log, asking := waiting } ∨ s.report r = ({ s with svcLog := log } : State).toHost r := by
  have logged : ∀ p : Bool, ∃ log, (if p then { s with svcLog := s.svcLog ++ [r] } else s) = { s with svcLog := log } := by
    rintro (_ | _)
    · exact ⟨_, rfl⟩
    · exact ⟨_, rfl⟩
  obtain ⟨log, hlog⟩ := logged (decide (s.route.toNat / 4 ^ r.cls % 4 % 2 = 1) && !decide (24 ≤ s.failedCores.length))
  simp only [State.report, hlog]
  split
  · split
    · exact ⟨_, _, .inl rfl⟩
    · exact ⟨s.svcLog, s.asking, .inr rfl⟩
  · split
    · split
      · exact ⟨_, _, .inl rfl⟩
      · exact ⟨log, s.asking, .inr rfl⟩
    · exact ⟨log, s.asking, .inl rfl⟩

@[simp] theorem State.report_failedCores (s : State) (r : Report) : (s.report r).failedCores = s.failedCores := by
  obtain ⟨log, waiting, h | h⟩ := s.report_cases r
  · rw [h]
  · rw [h, State.toHost_failedCores]

@[simp] theorem State.plainReport_failedCores (s : State) (c : Cause) (q head addr : Nat) :
    (s.plainReport c q head addr).failedCores = s.failedCores := State.report_failedCores s _

/-! ## The threshold area lies in the memories -/

theorem State.writePa_frame (s : State) (pa : Nat) (b : Byte) : ∃ d h, s.writePa pa b = { s with dev := d, host := h } := by
  unfold State.writePa
  split
  · exact ⟨_, s.host, rfl⟩
  · exact ⟨s.dev, _, rfl⟩

/-- A store to physical addresses changes nothing but the two memories. -/
theorem State.writePas_frame (s : State) (pa : Nat) (bs : List Byte) :
    ∃ d h, s.writePas pa bs = { s with dev := d, host := h } := by
  induction bs generalizing s pa with
  | nil => exact ⟨s.dev, s.host, rfl⟩
  | cons b bs ih =>
    obtain ⟨d, h, hb⟩ := s.writePa_frame pa b
    obtain ⟨d', h', hbs⟩ := ih { s with dev := d, host := h } (pa + 1)
    exact ⟨d', h', (congrArg (fun t : State => t.writePas (pa + 1) bs) hb).trans hbs⟩

theorem State.writeThrHead_frame (s : State) : ∃ d h, s.writeThrHead = { s with dev := d, host := h } := by
  unfold State.writeThrHead State.writeThr
  split
  · exact s.writePas_frame _ _
  · exact ⟨s.dev, s.host, rfl⟩

/-! ## Reset (R405, R407, R411) -/

/-- What a configuration image sets, and that nothing else changes. -/
theorem State.configured_eq (s : State) : s.configured = { s with
    route := ((kget s.images 3).map Image.route).getD s.route
    millivolts := ((kget s.images 3).map fun i => min 600 (max 400 i.point)).getD s.millivolts } := by
  unfold State.configured
  cases kget s.images 3 <;> rfl

/-- The state after a restart: every field is that of reset, except what lies outside the device and what the images set. -/
theorem State.restart_eq (s : State) : s.restart = { State.reset with
    agenda := s.agenda, free := s.free, nextId := s.nextId, sysId := s.sysId, host := s.host, hostAbort := s.hostAbort
    hostOut := s.hostOut, images := s.nextImages
    route := ((kget s.nextImages 3).map Image.route).getD State.reset.route
    millivolts := ((kget s.nextImages 3).map fun i => min 600 (max 400 i.point)).getD State.reset.millivolts } :=
  State.configured_eq _

/-! ## Bring-up (R407) -/

/-- The end of ROM, VERIFY and SERVICE only hands over to the next stage. -/
theorem State.nextStage_of_lt (s : State) (h : s.stage < 3) : s.nextStage = { s with stage := s.stage + 1 } := by
  have h3 : s.stage ≠ 3 := by omega
  have h5 : s.stage + 1 ≠ stageReady := by unfold stageReady; omega
  simp [State.nextStage, h3, h5]

/-- The end of MEMORY leaves device memory zero and without poison marks. -/
theorem State.nextStage_memory (s : State) (h : s.stage = 3) :
    s.nextStage = { s with stage := 4, dev := [], poisonDev := s.poisonDev.filter fun a => !isDevice a } := by
  simp [State.nextStage, h, stageReady]

/-- The end of LINKS makes the part READY and writes the head of the threshold area, which changes the memories alone. -/
theorem State.nextStage_ready (s : State) (h : s.stage = 4) :
    ∃ d m, s.nextStage = { s with stage := 5, thr := Config.thresholdArea, dev := d, host := m } := by
  have hn : s.nextStage = ({ s with stage := 5, thr := Config.thresholdArea } : State).writeThrHead := by
    simp [State.nextStage, h, stageReady]
  rw [hn]
  exact State.writeThrHead_frame _

section
variable {s : State}

theorem not_ready_or_tripped (h : s.stage < 5) (ht : s.tripped = false) : ¬(stageReady ≤ s.stage ∨ s.tripped = true) := by
  simp [stageReady, ht, h]

theorem execBringupStageDone_done (h : s.stage < 5) (ht : s.tripped = false) :
    execBringupStageDone .done s = .next s.nextStage := congrArg Host.Outcome.next (if_neg (not_ready_or_tripped h ht))

theorem execBringupStageDone_failed (h : s.stage < 5) (ht : s.tripped = false) :
    execBringupStageDone .failed s = .next { s with stage := 15 } := congrArg Host.Outcome.next (if_neg (not_ready_or_tripped h ht))

theorem State.rejectImage_verify (c : Cause) (h : s.stage = 1) :
    s.rejectImage c = ({ s with stage := 15 } : State).plainReport c 0 s.primary 0 := if_pos h

theorem execBringupStageDone_badSignature (h : s.stage = 1) (ht : s.tripped = false) : execBringupStageDone .badSignature s =
    .next (({ s with stage := 15 } : State).plainReport 0xB9 0 s.primary 0) :=
  congrArg Host.Outcome.next ((if_neg (not_ready_or_tripped (by omega) ht)).trans (State.rejectImage_verify _ h))

theorem execBringupStageDone_badFormat (h : s.stage = 1) (ht : s.tripped = false) : execBringupStageDone .badFormat s =
    .next (({ s with stage := 15 } : State).plainReport 0xBA 0 s.primary 0) :=
  congrArg Host.Outcome.next ((if_neg (not_ready_or_tripped (by omega) ht)).trans (State.rejectImage_verify _ h))

end

/-! ## A cycle (R4, R373) -/

theorem tick_add_min_one (tick ticks : Nat) :
    (tick + min ticks 1) % 2 ^ 64 = if ticks = 0 then tick % 2 ^ 64 else (tick + 1) % 2 ^ 64 := by
  split
  · next h => rw [h, Nat.zero_min, Nat.add_zero]
  · next h => rw [Nat.min_eq_right (by omega)]

/-- A cycle changes the tick and the cores alone; each core of the package is its old self cycled. -/
theorem execCycle_eq (ticks : Nat) (s : State) : ∃ cores,
    execCycle ticks s = .next { s with tick := (s.tick + min ticks 1) % 2 ^ 64, cores := cores } ∧
      ∀ k, k < Config.cores → kgetD cores k {} = s.cycled k :=
  ⟨_, rfl, fun _ hk => kgetD_map_range s.cycled {} hk⟩

end Sys2Proof.Machine

namespace Sys2Proof.Proofs

open Sys2Proof.Machine Sys2Proof.Terms

/-- Settles O59: each event is its equation above; RESET and the trip are one restart. -/
theorem packageEvents : Obligations.PackageEvents := by
  unfold Obligations.PackageEvents
  refine ⟨?reset, ?bringup, ?power, fun _ => rfl, ?trip, ?scrub, ?service, ?cycle⟩
  case reset =>
    intro s
    refine ⟨s.restart, rfl, ?_⟩
    rw [State.restart_eq]
    refine ⟨rfl, rfl, rfl, rfl, rfl, rfl, rfl, rfl, rfl, rfl, rfl, rfl, rfl, rfl, rfl, ?none, ?some⟩
    case none => intro h; simp only [h]; exact ⟨rfl, rfl⟩
    case some => intro i h; simp only [h]; exact ⟨rfl, rfl⟩
  case bringup =>
    intro s hs ht
    refine ⟨execBringupStageDone_failed hs ht,
      fun h => ⟨execBringupStageDone_badSignature h ht, execBringupStageDone_badFormat h ht⟩, fun h => ?_, fun h => ?_, fun h => ?_⟩
    · exact (execBringupStageDone_done hs ht).trans (congrArg _ (s.nextStage_of_lt h))
    · refine ⟨s.nextStage, execBringupStageDone_done hs ht, ?_⟩
      rw [s.nextStage_memory h]
      refine ⟨rfl, fun a ha => ?_, memRead_nil⟩
      simpa using (List.mem_filter.mp ha).2
    · obtain ⟨d, m, hn⟩ := s.nextStage_ready h
      refine ⟨s.nextStage, execBringupStageDone_done hs ht, ?_⟩
      rw [hn]
      exact ⟨rfl, rfl, rfl⟩
  case power =>
    intro s mv hlo hhi
    exact congrArg _ (if_pos ⟨hlo, hhi⟩)
  case trip =>
    intro s
    refine ⟨_, rfl, ?_⟩
    rw [State.restart_eq]
    exact ⟨rfl, rfl, rfl, rfl, rfl⟩
  case scrub =>
    intro s stack
    exact ⟨_, rfl, rfl, fun h => congrArg (s.scrubs + ·) (if_pos h)⟩
  case service =>
    intro s core hlt hnew
    have hc : ¬(24 ≤ core ∨ s.failedCores.contains core = true) := by simp [hnew, hlt]
    refine ⟨_, congrArg Host.Outcome.next (if_neg hc), State.plainReport_failedCores _ _ _ _ _, ?_⟩
    rw [State.plainReport_failedCores]
  case cycle =>
    intro s ticks
    obtain ⟨cores, hnext, hcore⟩ := execCycle_eq ticks s
    refine ⟨_, hnext, rfl, tick_add_min_one s.tick ticks, fun k hk => ?_⟩
    rw [State.core, hcore k hk]
    exact ⟨rfl, rfl, rfl⟩

end Sys2Proof.Proofs
end

section
/-! PROOF. The end of a gang on its last chip (R319, R364): the heaps of its crews leave its pool at once, so that the end is not a change of
the chips that have ended alone. -/

namespace Sys2Proof.Machine

/-- A gang that has ended keeps nothing of its crews' heaps (R319). -/
theorem State.releaseGang_gangs_self {s : State} {gang : Nat} (h : s.gangFinished gang = true) :
    kget (s.releaseGang gang).gangs gang = (kget s.gangs gang).map fun g => { g with pool := [], poolUsed := [], poolRecords := [] } := by
  simp only [State.releaseGang, h, if_true]
  split
  · simp only [State.tellChip, State.sendFrames]
    split
    · exact kget_kmod_self _ _ _
    · split <;> exact kget_kmod_self _ _ _
  · exact kget_kmod_self _ _ _

end Sys2Proof.Machine

namespace Sys2Proof.Proofs

open Sys2Proof.Machine Sys2Proof.Terms

/-- The frame heap of the one crew that a gang of two chips has had on this chip. -/
def endedHeap : SegReg := ⟨0x400000, 4194304⟩

/-- A gang of two chips whose one crew here has ended, and left its heap to the pool; chip 1 still runs its part. -/
def endingGang : Gang :=
  { ident := 1, launch := { gx := 2, nchip := 2 }, src := .packet 3 0, queue := 3, pasid := 5, chips := [0, 1], mine := 0, proposals := []
    start := some 0, asked := 0, crews := [7], ended := 1, chipsEnded := [], terminated := false, failed := false, pool := [endedHeap]
    poolUsed := [], poolRecords := [], ends := [] }

/-- The package with that gang and its ended crew. -/
def endingState : State :=
  { gangs := [(1, endingGang)], crews := [(7, { gang := 1, life := .ended, segFrame := endedHeap, frameArea := endedHeap })] }

/-- Refutes O53 at its last clause: where chip 1 is the last to end, GANG_TERMINATION finishes the gang, and releaseGang empties its pool of
heaps (R319), which the clause keeps. -/
theorem not_gangEvents : ¬ Obligations.GangEvents := by
  unfold Obligations.GangEvents
  rintro ⟨-, -, -, -, -, hterm⟩
  obtain ⟨t, hexec, hgang⟩ := hterm endingState 1 1 endingGang rfl (by decide) (by decide)
  have hfin : State.gangFinished { endingState with gangs := kset endingState.gangs 1 { endingGang with chipsEnded := [1] } } 1 = true := by
    decide
  have ht : State.releaseGang { endingState with gangs := kset endingState.gangs 1 { endingGang with chipsEnded := [1] } } 1 = t :=
    Host.Outcome.next.inj hexec
  rw [← ht, State.releaseGang_gangs_self hfin] at hgang
  have hpool : ([] : List SegReg) = [endedHeap] := congrArg Gang.pool (Option.some.inj hgang)
  cases hpool

end Sys2Proof.Proofs
end

section
/-! PROOF. Frames of the memory side: what work at homes, in caches, in TLBs and on links leaves unchanged (R176 to R180, R201 to R217, R307). -/

namespace Sys2Proof.Machine

/-! ## Work at homes -/

/-- From s to t only memories, caches, records of homes, TLBs, links and messages to hosts have changed: no crew, operation, scratchpad or tick. -/
structure HomeWork (s t : State) : Prop where
  eq : t = { s with
    dev := t.dev, host := t.host, poisonDev := t.poisonDev, tags := t.tags, homes := t.homes, holders := t.holders, agents := t.agents
    cores := t.cores, dies := t.dies, xlHorizon := t.xlHorizon, linkOut := t.linkOut, ports := t.ports, hostOut := t.hostOut }

namespace HomeWork

variable {s t u : State}

theorem refl (s : State) : HomeWork s s := ⟨rfl⟩

theorem trans (h : HomeWork s t) (g : HomeWork t u) : HomeWork s u := ⟨by rw [g.eq, h.eq]⟩

theorem crews (h : HomeWork s t) : t.crews = s.crews := by rw [h.eq]
theorem ops (h : HomeWork s t) : t.ops = s.ops := by rw [h.eq]
theorem scratch (h : HomeWork s t) : t.scratch = s.scratch := by rw [h.eq]
theorem gated (h : HomeWork s t) : t.gated = s.gated := by rw [h.eq]
theorem sends (h : HomeWork s t) : t.sends = s.sends := by rw [h.eq]
theorem tick (h : HomeWork s t) : t.tick = s.tick := by rw [h.eq]

/-- Steps that are home work, one for each member of a list, over a state that goes with a value. -/
theorem foldl_fst {β γ : Type} {f : State × γ → β → State × γ} (hf : ∀ r x, HomeWork r.1 (f r x).1) (l : List β) (r : State × γ) :
    HomeWork r.1 (l.foldl f r).1 := by
  induction l generalizing r with
  | nil => exact refl _
  | cons x l ih => exact (hf r x).trans (ih (f r x))

/-- Steps that are home work, one for each member of a list. -/
theorem foldl {β : Type} {f : State → β → State} (hf : ∀ s x, HomeWork s (f s x)) (l : List β) (s : State) :
    HomeWork s (l.foldl f s) := by
  induction l generalizing s with
  | nil => exact refl _
  | cons x l ih => exact (hf s x).trans (ih (f s x))

end HomeWork

theorem State.modHome_work (s : State) (line : Nat) (f : HomeLine → HomeLine) : HomeWork s (s.modHome line f) := ⟨rfl⟩
theorem State.modAgent_work (s : State) (a : Nat) (f : Agent → Agent) : HomeWork s (s.modAgent a f) := ⟨rfl⟩
theorem State.modCore_work (s : State) (c : Nat) (f : Core → Core) : HomeWork s (s.modCore c f) := ⟨rfl⟩
theorem State.release_work (s : State) (core : Nat) (sc : Scope) (chips : List Nat) : HomeWork s (s.release core sc chips).1 := ⟨rfl⟩
theorem State.closeEntries_work (s : State) (a num : Nat) : HomeWork s (s.closeEntries a num) := ⟨rfl⟩

/-- A message to a chip is put among those sent, and its frames among those of some port. -/
theorem State.tellChip_frame (s : State) (chip : Nat) (m : LinkMsg) :
    ∃ ports, s.tellChip chip m = { s with linkOut := s.linkOut ++ [(chip, m)], ports := ports } := by
  unfold State.tellChip State.sendFrames
  dsimp only
  split
  · exact ⟨s.ports, rfl⟩
  · split
    · exact ⟨_, rfl⟩
    · exact ⟨s.ports, rfl⟩

theorem State.tellChip_work (s : State) (chip : Nat) (m : LinkMsg) : HomeWork s (s.tellChip chip m) := by
  obtain ⟨ports, h⟩ := s.tellChip_frame chip m
  rw [h]; exact ⟨rfl⟩

theorem State.claimLine_work (s : State) (line : Nat) : HomeWork s (s.claimLine line) := by
  unfold State.claimLine
  dsimp only
  split
  · exact ⟨rfl⟩
  · split <;> exact ⟨rfl⟩

theorem State.writePa_work (s : State) (pa : Nat) (b : Byte) : HomeWork s (s.writePa pa b) := by
  obtain ⟨d, h, hw⟩ := s.writePa_frame pa b
  rw [hw]; exact ⟨rfl⟩

theorem State.writePas_work (s : State) (pa : Nat) (bs : List Byte) : HomeWork s (s.writePas pa bs) := by
  obtain ⟨d, h, hw⟩ := s.writePas_frame pa bs
  rw [hw]; exact ⟨rfl⟩

theorem State.dropCounter_frame (s : State) (pa : Nat) : ∃ holders cores, s.dropCounter pa = { s with holders := holders, cores := cores } := by
  unfold State.dropCounter
  dsimp only
  split
  · exact ⟨s.holders, s.cores, rfl⟩
  · exact ⟨_, _, rfl⟩

/-- A record of a home changed where a condition holds. -/
theorem State.modHomeIf_frame (u : State) (c : Prop) [Decidable c] (line : Nat) (f : HomeLine → HomeLine) :
    ∃ homes, (if c then u.modHome line f else u) = { u with homes := homes } := by
  split
  · exact ⟨_, rfl⟩
  · exact ⟨u.homes, rfl⟩

/-- A byte put at its home is stored there; beside that it changes records of homes, slots and tags alone. -/
theorem State.placeByte_frame (s : State) (pa : Nat) (b : L1Byte) : ∃ holders cores tags poison homes, s.placeByte pa b =
    { s.writePa pa b.val with holders := holders, cores := cores, tags := tags, poisonDev := poison, homes := homes } := by
  obtain ⟨holders, cores, hd⟩ := s.dropCounter_frame pa
  have hw : (s.dropCounter pa).writePa pa b.val = { s.writePa pa b.val with holders := holders, cores := cores } := by
    rw [hd]; unfold State.writePa; split <;> rfl
  unfold State.placeByte
  rw [hw]
  exact ⟨holders, cores, _, _, State.modHomeIf_frame _ _ _ _⟩

theorem State.placeByte_work (s : State) (pa : Nat) (b : L1Byte) : HomeWork s (s.placeByte pa b) := by
  obtain ⟨holders, cores, tags, poison, homes, h⟩ := s.placeByte_frame pa b
  rw [h]
  exact (s.writePa_work pa b.val).trans ⟨rfl⟩

theorem State.applyByte_work (s : State) (pa : Nat) (b : L1Byte) : HomeWork s (s.applyByte pa b) :=
  (s.claimLine_work _).trans (State.placeByte_work _ pa b)

theorem State.applyBytes_work (s : State) (pa : Nat) (l : List L1Byte) : HomeWork s (s.applyBytes pa l) :=
  HomeWork.foldl_fst (fun r b => State.applyByte_work r.1 r.2 b) l (s, pa)

theorem State.writeHome_work (s : State) (pa : Nat) (bs : List Byte) : HomeWork s (s.writeHome pa bs) := by
  have claimed := HomeWork.foldl (fun t i => State.claimLine_work t (pa / 128 + i)) (List.range ((pa + bs.length + 127) / 128 - pa / 128)) s
  exact claimed.trans ((State.writePas_work _ pa bs).trans ⟨rfl⟩)

theorem State.proxyRoom_work (s : State) (line : Nat) : HomeWork s (s.proxyRoom line) := by
  unfold State.proxyRoom
  dsimp only
  split
  · exact .refl s
  · split
    · exact .refl s
    · split <;> exact ⟨rfl⟩

theorem State.refuse_work (s : State) (line : Nat) (c : Cause) : HomeWork s (s.refuse line c).1 := by
  unfold State.refuse
  dsimp only
  split <;> exact ⟨rfl⟩

theorem State.tellMerge_work (s : State) (a line : Nat) (bs : KMap L1Byte) : HomeWork s (s.tellMerge a line bs) := by
  unfold State.tellMerge
  split
  · exact s.tellChip_work _ _
  · exact .refl s

theorem State.atomicWrite_work (s : State) (a pa : Nat) (bs : List Byte) (tags : List RelTag) : HomeWork s (s.atomicWrite a pa bs tags) := by
  unfold State.atomicWrite
  dsimp only
  refine .trans ?_ (State.modAgent_work _ _ _)
  refine .trans ?_ (State.tellMerge_work _ _ _ _)
  refine .trans ?_ (State.modHome_work _ _ _)
  exact (s.proxyRoom_work _).trans (State.applyBytes_work _ _ _)

theorem State.closeTags_work (s : State) (l : List RelTag) : HomeWork s (s.closeTags l) := by
  unfold State.closeTags
  exact HomeWork.foldl (fun t g => t.closeEntries_work _ _) l s

/-! ## Translation and reads of engines -/

theorem State.walk_work (s : State) (walker pasid va : Nat) (acc : Acc) : HomeWork s (s.walk walker pasid va acc).1 := by
  unfold State.walk
  split
  · exact .refl s
  · split
    · exact .refl s
    · split
      · exact .refl s
      · dsimp only
        split
        all_goals
          split
          · exact .refl s
          · split
            · exact s.refuse_work _ _
            · exact s.atomicWrite_work _ _ _ _

theorem State.engineXl_work (s : State) (pasid va : Nat) (acc : Acc) : HomeWork s (s.engineXl pasid va acc).1 := by
  have h := s.walk_work engineWalker pasid va acc
  unfold State.engineXl
  split <;> (rename_i hw; rw [hw] at h; exact h)

theorem State.coreXl_work (s : State) (core pasid va : Nat) (acc : Acc) : HomeWork s (s.coreXl core pasid va acc).1 := by
  have h := s.walk_work (walkAgent (dieOf core)) pasid va acc
  unfold State.coreXl
  split
  · exact .refl _
  · split
    · split <;> exact .refl _
    · split
      · rename_i hw; rw [hw] at h; exact h
      · rename_i hw; rw [hw] at h; exact h.trans ⟨rfl⟩

theorem State.pagePa_work (s : State) (pasid va : Nat) (write : Bool) : HomeWork s (s.pagePa pasid va write).1 := by
  have h := s.engineXl_work pasid va (if write then .store else .load)
  unfold State.pagePa
  split <;> (rename_i hx; rw [hx] at h; exact h)

theorem State.engineRead_work (s : State) (pasid va n : Nat) : HomeWork s (s.engineRead pasid va n).1 := by
  refine HomeWork.foldl_fst (fun r p => ?_) _ (s, Except.ok [])
  obtain ⟨t, e⟩ := r
  cases e with
  | error x => exact .refl _
  | ok bs =>
    have h := t.pagePa_work pasid p.1 false
    dsimp only
    split
    · rename_i hp; rw [hp] at h; exact h
    · rename_i hp; rw [hp] at h; split <;> exact h

theorem State.frameXl_work (s : State) (crew va : Nat) (acc : Acc) : HomeWork s (s.frameXl crew va acc).1 := by
  have h := s.coreXl_work (s.crew crew).core (s.crew crew).pasid va acc
  unfold State.frameXl
  split <;> (rename_i hx; rw [hx] at h; exact h)

theorem State.mergeSeg_work (s : State) (core key pa : Nat) : HomeWork s (s.mergeSeg core key pa) := by
  unfold State.mergeSeg
  split
  · exact .refl _
  · refine .trans ?_ (State.modCore_work _ _ _)
    exact HomeWork.foldl (fun t b => State.applyByte_work t _ _) _ s

theorem State.reqXl_work (s : State) (o : Op) (r : MemReq) : HomeWork s (s.reqXl o r).1 := by
  unfold State.reqXl
  split
  · exact .refl _
  · exact s.coreXl_work _ _ _ _

theorem State.reqHome_work (s : State) (o : Op) (crew fid : Nat) (r : MemReq) : HomeWork s (s.reqHome o crew fid r).1 := by
  have h := s.reqXl_work o r
  unfold State.reqHome
  split
  · exact .refl _
  · split
    · exact .refl _
    · split
      · rename_i hx; rw [hx] at h; exact h
      · rename_i hx
        rw [hx] at h
        split
        · split
          · exact h
          · split <;> exact h
        all_goals exact h

end Sys2Proof.Machine
end

section
/-! PROOF. Changes at device lines that no host caches (R153, R201, R209, R215): they send nothing to a host, and what each address reads
afterwards. -/

namespace Sys2Proof.Machine

open Sys2Proof.Terms

/-! ## Places -/

theorem isDevice_line (pa : Nat) : isDevice (pa / 128 * 128) = isDevice pa := by
  have lower : Config.hdmBase ≤ pa / 128 * 128 ↔ Config.hdmBase ≤ pa := by unfold Config.hdmBase; omega
  have upper : pa / 128 * 128 < Config.hdmBase + Config.deviceBytes ↔ pa < Config.hdmBase + Config.deviceBytes := by
    unfold Config.hdmBase Config.deviceBytes; omega
  simp only [isDevice, lower, upper]

theorem isPeer_of_isDevice {pa : Nat} (h : isDevice pa = true) : isPeer pa = false := by
  have bound : pa < Config.hdmBase + Config.deviceBytes := of_decide_eq_true ((Bool.and_eq_true _ _).mp h).2
  unfold Config.hdmBase Config.deviceBytes at bound
  have high : (pa / 2 ^ 55 == 1) = false := beq_eq_false_iff_ne.mpr (by omega)
  rw [isPeer, high, Bool.and_false]

theorem isHost_of_isDevice {pa : Nat} (h : isDevice pa = true) : isHost pa = false := by simp [isHost, h]

theorem State.reachCause_of_isDevice (s : State) {pa : Nat} (n : Nat) (h : isDevice pa = true) : s.reachCause pa n = none := if_pos h

theorem State.mergeCause_of_isDevice (s : State) {line : Nat} (h : isDevice (line * 128) = true) : s.mergeCause line = none := by
  simp [State.mergeCause, isHost_of_isDevice h, s.reachCause_of_isDevice 128 h]

theorem State.proxyRoom_of_isDevice (s : State) {line : Nat} (h : isDevice (line * 128) = true) : s.proxyRoom line = s := by
  simp [State.proxyRoom, isHost_of_isDevice h]

theorem State.tellMerge_of_isDevice (s : State) (a : Nat) {line : Nat} (bs : KMap L1Byte) (h : isDevice (line * 128) = true) :
    s.tellMerge a line bs = s := by
  simp [State.tellMerge, isPeer_of_isDevice h]

theorem State.home_modHome (s : State) (line k : Nat) (f : HomeLine → HomeLine) :
    (s.modHome line f).home k = if k = line then f (s.home line) else s.home k := by
  unfold State.home State.modHome kgetD
  rw [kget_kset]
  split <;> rfl

/-- A device line that no host may cache: a change of it at its home waits for nothing (R215). -/
structure Unshared (s : State) (line : Nat) : Prop where
  device : isDevice (line * 128) = true
  unshared : (s.home line).shared = false

theorem Unshared.claimLine {s : State} {line : Nat} (h : Unshared s line) : s.claimLine line = s := by
  simp [State.claimLine, h.unshared, isHost_of_isDevice h.device]

theorem Unshared.of_shared {s t : State} {line : Nat} (h : Unshared s line) (ht : (t.home line).shared = (s.home line).shared) :
    Unshared t line := ⟨h.device, ht.trans h.unshared⟩

/-! ## Snoops -/

/-- A change that sends nothing more to hosts than another waits for what the other waits for. -/
theorem newSnoops_congr {s t u : State} (h : t.hostOut = u.hostOut) : newSnoops s t = newSnoops s u := by unfold newSnoops; rw [h]

theorem State.orSnoop_of_noSnoop {s t : State} (h : NoSnoop s t) : s.orSnoop t = t := by
  unfold NoSnoop at h
  unfold State.orSnoop
  rw [h]

theorem noSnoop_of_hostOut {s t : State} (h : t.hostOut = s.hostOut) : NoSnoop s t := by
  simp [NoSnoop, newSnoops, h]

/-! ## Bytes at addresses -/

/-- Bytes with their addresses, from an address on. -/
def bytesAt : Nat → List Byte → KMap Byte
  | _, [] => []
  | pa, b :: bs => (pa, b) :: bytesAt (pa + 1) bs

theorem kget_bytesAt_of_lt {pa x : Nat} (h : x < pa) : ∀ bs : List Byte, kget (bytesAt pa bs) x = none
  | [] => rfl
  | b :: bs => by
    rw [bytesAt, kget, if_neg (by omega)]
    exact kget_bytesAt_of_lt (by omega) bs

theorem kget_bytesAt_add (pa : Nat) : ∀ (bs : List Byte) (j : Nat), kget (bytesAt pa bs) (pa + j) = bs[j]?
  | [], j => rfl
  | b :: bs, 0 => by simp [bytesAt, kget]
  | b :: bs, j + 1 => by
    have h := kget_bytesAt_add (pa + 1) bs j
    rw [bytesAt, kget, if_neg (by omega), List.getElem?_cons_succ, ← h]
    congr 1
    omega

/-- Memory whose reads are given by a map of bytes over another memory holds the bytes of that map. -/
theorem stored_of_reads {m m' : Nat → Byte} {pa : Nat} {bs : List Byte} (h : ∀ x, m' x = (kget (bytesAt pa bs) x).getD (m x)) :
    Stored m m' pa bs := by
  constructor
  · intro j b hj
    rw [h, kget_bytesAt_add, hj, Option.getD_some]
  · intro x hx
    rw [h]
    rcases hx with hx | hx
    · rw [kget_bytesAt_of_lt hx, Option.getD_none]
    · obtain ⟨j, rfl⟩ : ∃ j, x = pa + j := ⟨x - pa, by omega⟩
      rw [kget_bytesAt_add, List.getElem?_eq_none (by omega), Option.getD_none]

/-- From s to t bytes have been put at their homes: t reads them and is as s elsewhere, and nothing has left the package for them. -/
structure Placed (s t : State) (m : KMap Byte) : Prop where
  work : HomeWork s t
  hostOut : t.hostOut = s.hostOut
  linkOut : t.linkOut = s.linkOut
  memWf : t.memWf
  shared : ∀ line, (t.home line).shared = (s.home line).shared
  reads : ∀ x, t.readPa x = (kget m x).getD (s.readPa x)

theorem Placed.stored {s t : State} {pa : Nat} {bs : List Byte} (h : Placed s t (bytesAt pa bs)) : Stored s.readPa t.readPa pa bs :=
  stored_of_reads h.reads

theorem Placed.refl {s : State} (h : s.memWf) : Placed s s [] := ⟨.refl s, rfl, rfl, h, fun _ => rfl, fun _ => rfl⟩

/-- A later change of other addresses joins an earlier one. -/
theorem Placed.trans {s t u : State} {m n : KMap Byte} (h : Placed s t m) (g : Placed t u n) {l : KMap Byte}
    (hl : ∀ x, kget l x = (kget n x).or (kget m x)) : Placed s u l where
  work := h.work.trans g.work
  hostOut := g.hostOut.trans h.hostOut
  linkOut := g.linkOut.trans h.linkOut
  memWf := g.memWf
  shared line := (g.shared line).trans (h.shared line)
  reads x := by
    rw [g.reads, h.reads, hl]
    cases kget n x <;> rfl

/-- A step that touches no memory, no shared line and no message keeps what has been placed. -/
theorem Placed.and_then {s t u : State} {m : KMap Byte} (h : Placed s t m) (hw : HomeWork t u) (hd : u.dev = t.dev) (hh : u.host = t.host)
    (ho : u.hostOut = t.hostOut) (hl : u.linkOut = t.linkOut) (hs : ∀ line, (u.home line).shared = (t.home line).shared) : Placed s u m where
  work := h.work.trans hw
  hostOut := ho.trans h.hostOut
  linkOut := hl.trans h.linkOut
  memWf := State.memWf_of_eq h.memWf hd hh hw.scratch
  shared line := (hs line).trans (h.shared line)
  reads x := by
    rw [← h.reads]
    unfold State.readPa
    rw [hd, hh]

theorem Placed.modAgent {s t : State} {m : KMap Byte} (h : Placed s t m) (a : Nat) (f : Agent → Agent) : Placed s (t.modAgent a f) m :=
  h.and_then (t.modAgent_work a f) rfl rfl rfl rfl fun _ => rfl

theorem Placed.modHome {s t : State} {m : KMap Byte} (h : Placed s t m) (line : Nat) (f : HomeLine → HomeLine)
    (hf : ∀ x, (f x).shared = x.shared) : Placed s (t.modHome line f) m := by
  refine h.and_then (t.modHome_work line f) rfl rfl rfl rfl fun k => ?_
  rw [State.home_modHome]
  split
  · next hk => rw [hf, hk]
  · rfl

theorem State.modHomeIf_shared (u : State) (c : Prop) [Decidable c] (line : Nat) (f : HomeLine → HomeLine)
    (hf : ∀ x, (f x).shared = x.shared) (k : Nat) :
    ((if c then u.modHome line f else u).home k).shared = (u.home k).shared := by
  split
  · rw [State.home_modHome]
    split
    · next hk => rw [hf, hk]
    · rfl
  · rfl

theorem State.placeByte_shared (s : State) (pa : Nat) (b : L1Byte) (line : Nat) :
    ((s.placeByte pa b).home line).shared = (s.home line).shared := by
  obtain ⟨holders, cores, hd⟩ := s.dropCounter_frame pa
  obtain ⟨d, h, hw⟩ := State.writePa_frame { s with holders := holders, cores := cores } pa b.val
  unfold State.placeByte
  rw [hd, hw]
  dsimp only
  refine (State.modHomeIf_shared _ _ _ _ ?_ line).trans ?_
  · exact fun _ => rfl
  · rfl

theorem State.placeByte_placed {s : State} (h : s.memWf) (pa : Nat) (b : L1Byte) : Placed s (s.placeByte pa b) [(pa, b.val)] := by
  obtain ⟨holders, cores, tags, poison, homes, hp⟩ := s.placeByte_frame pa b
  obtain ⟨d, m, hw⟩ := s.writePa_frame pa b.val
  refine ⟨s.placeByte_work pa b, by rw [hp, hw], by rw [hp, hw], ?_, s.placeByte_shared pa b, fun x => ?_⟩
  · rw [hp]
    exact State.memWf_of_eq (State.writePa_memWf h pa b.val) rfl rfl rfl
  · have hr : (s.placeByte pa b).readPa x = (s.writePa pa b.val).readPa x := by rw [hp]; rfl
    rw [hr, kget, kget_nil]
    split
    · next hx => rw [hx, State.readPa_writePa_self h, Option.getD_some]
    · next hx => rw [State.readPa_writePa_ne s _ hx, Option.getD_none]

section
variable {s : State} {line : Nat}

theorem Unshared.applyByte (h : Unshared s line) {pa : Nat} (hp : pa / 128 = line) (b : L1Byte) : s.applyByte pa b = s.placeByte pa b := by
  rw [State.applyByte, hp, h.claimLine]

/-- Bytes of one line from an address on, applied at their home. -/
theorem Unshared.applyBytes_placed (h : Unshared s line) (hm : s.memWf) {pa : Nat} (l : List L1Byte) (hp : pa / 128 = line)
    (hl : pa % 128 + l.length ≤ 128) : Placed s (s.applyBytes pa l) (bytesAt pa (l.map L1Byte.val)) := by
  induction l generalizing s pa with
  | nil => exact .refl hm
  | cons b l ih =>
    have first := State.placeByte_placed hm pa b
    rw [← h.applyByte hp b] at first
    rw [List.length_cons] at hl
    rcases l with - | ⟨b', l⟩
    · exact first
    · rw [List.length_cons] at hl
      have rest := ih (h.of_shared (first.shared line)) first.memWf (pa := pa + 1) (by omega) (by rw [List.length_cons]; omega)
      refine first.trans rest fun x => ?_
      rw [List.map_cons, bytesAt, kget, kget, kget_nil]
      split
      · next hx => rw [hx, kget_bytesAt_of_lt (Nat.lt_succ_self pa), Option.none_or]
      · rw [Option.or_none]

/-- Bytes of a line by their offsets, applied at their home one after another. -/
theorem Unshared.foldl_applyByte_placed (h : Unshared s line) (hm : s.memWf) (l : KMap L1Byte) (hn : (kkeys l).Nodup)
    (hl : ∀ b ∈ l, b.1 < 128) : Placed s (l.foldl (fun (t : State) b => t.applyByte (line * 128 + b.1) b.2) s)
      (l.map fun b => (line * 128 + b.1, b.2.val)) := by
  induction l generalizing s with
  | nil => exact .refl hm
  | cons b l ih =>
    have hb := hl b (List.mem_cons_self ..)
    have first := State.placeByte_placed hm (line * 128 + b.1) b.2
    rw [← h.applyByte (by omega) b.2] at first
    rw [kkeys, List.map_cons, List.nodup_cons] at hn
    refine first.trans (ih (h.of_shared (first.shared line)) first.memWf hn.2 fun c hc => hl c (List.mem_cons_of_mem _ hc)) fun x => ?_
    rw [List.map_cons, kget, kget, kget_nil]
    split
    · next hx =>
      have absent : ∀ m : KMap L1Byte, b.1 ∉ m.map Prod.fst → kget (m.map fun c => (line * 128 + c.1, c.2.val)) x = none := by
        intro m hm
        induction m with
        | nil => rfl
        | cons c m ihm =>
          rw [List.map_cons, List.mem_cons, not_or] at hm
          rw [List.map_cons, kget, if_neg (by omega), ihm hm.2]
      rw [absent l hn.1, Option.none_or]
    · rw [Option.or_none]

/-- Bytes of one line written at their home by an engine that is no agent of a race check. -/
theorem Unshared.writeHome_placed (h : Unshared s line) (hm : s.memWf) {pa : Nat} (bs : List Byte) (hp : pa / 128 = line)
    (hl : pa % 128 + bs.length ≤ 128) : Placed s (s.writeHome pa bs) (bytesAt pa bs) := by
  have claimed : (List.range ((pa + bs.length + 127) / 128 - pa / 128)).foldl (fun (u : State) i => u.claimLine (pa / 128 + i)) s = s := by
    obtain hn | hn : (pa + bs.length + 127) / 128 - pa / 128 = 0 ∨ (pa + bs.length + 127) / 128 - pa / 128 = 1 := by omega
    · rw [hn]; rfl
    · rw [hn, hp]; exact h.claimLine
  have reads : ∀ (bs : List Byte) (t : State) (pa x : Nat), t.memWf →
      (t.writePas pa bs).readPa x = (kget (bytesAt pa bs) x).getD (t.readPa x) := by
    intro bs
    induction bs with
    | nil => intro t pa x _; rfl
    | cons b bs ih =>
      intro t pa x ht
      refine (ih (t.writePa pa b) (pa + 1) x (State.writePa_memWf ht pa b)).trans ?_
      rw [bytesAt, kget]
      split
      · next hx => rw [hx, kget_bytesAt_of_lt (Nat.lt_succ_self pa), Option.getD_none, State.readPa_writePa_self ht, Option.getD_some]
      · next hx => rw [State.readPa_writePa_ne t b hx]
  obtain ⟨d, m, hw⟩ := s.writePas_frame pa bs
  have placed : Placed s (s.writePas pa bs) (bytesAt pa bs) :=
    ⟨s.writePas_work pa bs, by rw [hw], by rw [hw], State.writePas_memWf hm pa bs, fun k => by rw [hw]; rfl, fun x => reads bs s pa x hm⟩
  unfold State.writeHome
  rw [claimed]
  exact placed.and_then ⟨rfl⟩ rfl rfl rfl rfl fun _ => rfl

/-- An atomic that stores bytes of one line (R170). -/
theorem Unshared.atomicWrite_placed (h : Unshared s line) (hm : s.memWf) (a : Nat) {pa : Nat} (bs : List Byte) (tags : List RelTag)
    (hp : pa / 128 = line) (hl : pa % 128 + bs.length ≤ 128) : Placed s (s.atomicWrite a pa bs tags) (bytesAt pa bs) := by
  have hd : isDevice (pa / 128 * 128) = true := by rw [hp]; exact h.device
  unfold State.atomicWrite
  dsimp only
  rw [s.proxyRoom_of_isDevice hd, State.tellMerge_of_isDevice _ _ _ hd]
  refine Placed.modAgent (Placed.modHome ?_ _ _ ?_) _ _
  case refine_2 => exact fun _ => rfl
  have placed := h.applyBytes_placed hm
    (bs.zipIdx.map fun b => (⟨b.1, false, 0, addTags (kgetD s.tags (pa + b.2) []) tags, s.tick, false⟩ : L1Byte)) hp (by simpa using hl)
  rwa [List.map_map, show (bs.zipIdx.map (L1Byte.val ∘ fun b => ⟨b.1, false, 0, addTags (kgetD s.tags (pa + b.2) []) tags, s.tick, false⟩))
    = bs.zipIdx.map Prod.fst from rfl, List.zipIdx_map_fst] at placed

/-- An atomic that stores nothing (R170). -/
theorem Unshared.atomicKeep_placed (h : Unshared s line) (hm : s.memWf) (a : Nat) {pa : Nat} (n : Nat) (hp : pa / 128 = line) :
    Placed s (s.atomicKeep a pa n) [] := by
  unfold State.atomicKeep
  rw [hp, h.claimLine]
  refine Placed.modAgent ?_ _ _
  split
  · exact (Placed.refl hm).modHome _ _ fun _ => rfl
  · exact .refl hm

end

end Sys2Proof.Machine
end

section
/-! PROOF. The completion of a memory request (R19, R133, R134), and an atomic at its home (R169, R170). -/

namespace Sys2Proof.Machine

open Sys2Proof.Terms

/-- A parked fibre alone looks again after a completion. -/
theorem State.recheck_of_awake {s : State} {crew fid : Nat} {c : Crew} {f : Fibre} (hc : kget s.crews crew = some c)
    (hf : kget c.fibres fid = some f) (hp : f.st.isParked = false) : s.recheck crew fid = s := by
  have hx : (s.crew crew).fibre fid = f := by rw [State.crew_of_kget hc, Crew.fibre_of_kget hf]
  unfold State.recheck
  rw [hx]
  dsimp only
  split
  · next h => rw [h] at hp; cases hp
  · next h => rw [h] at hp; cases hp
  · rfl

/-- A fibre with an operation that gave no values completed on its token. -/
def Fibre.ended (f : Fibre) (k pos : Nat) (cause : Option Cause) (regs : List Nat) : Fibre :=
  { f.markDone k pos regs with k := kset f.k k { (f.tok k).complete cause with eng := addTags (f.tok k).eng [] } }

/-- The completion of an operation of an awake fibre that gave no values changes that fibre alone. -/
theorem State.completeFor_awake {s : State} {crew fid : Nat} {c : Crew} {f : Fibre} (h : Awake s crew fid c f) (k pos : Nat)
    (cause : Option Cause) (regs : List Nat) :
    s.completeFor (.fibre crew fid k) cause [] regs pos [] = s.bump.modFibre crew fid fun f => f.ended k pos cause regs := by
  obtain ⟨hc, hf, hp, hi⟩ := h
  have himaged : ¬(s.crew crew).imaged = true := by rw [State.crew_of_kget hc, hi]; exact Bool.false_ne_true
  unfold State.completeFor
  dsimp only
  rw [if_neg himaged]
  have hc' : kget (s.bump.modFibre crew fid fun f => f.ended k pos cause regs).crews crew =
      some (c.modFibre fid fun f => f.ended k pos cause regs) := by
    simp [State.modFibre, State.bump, hc]
  have hf' : kget (c.modFibre fid fun f => f.ended k pos cause regs).fibres fid = some (f.ended k pos cause regs) := by
    simp [Crew.modFibre, hf]
  exact State.recheck_of_awake hc' hf' hp

/-- A fibre is as after a completion with a cause once the error is kept and the operation has ended. -/
theorem Completed.of_failed (f : Fibre) (r : MemReq) (x : Cause) (page : Nat) (regs : List Nat) :
    Completed f ((f.noteError r x page).ended r.k r.pos (some x) regs) r (some x) [] := by
  refine ⟨rfl, ?_, fun k hk => kgetD_kset_ne _ _ _ hk, fun n _ => rfl, fun _ j w hw => by cases hw⟩
  have kept : (f.noteError r x page).tok r.k = f.tok r.k := rfl
  rw [Fibre.tok, Fibre.ended, kgetD_kset_self, kept, Tok.complete]
  cases (f.tok r.k).err <;> rfl

/-- A request of an awake fibre that fails, with a cause that keeps no record, ends its operation, and completes on its fibre. -/
theorem State.finishMem_failed {s : State} {crew fid : Nat} {c : Crew} {f : Fibre} (h : Awake s crew fid c f) (op : Nat) (r : MemReq)
    {x : Cause} (hx : retryable x = false) : s.finishMem op crew fid r { cause := some x } =
      (State.modFibre { s with ops := kdel s.ops op } crew fid fun f => f.noteError r x (r.ea / 4096)).bump.modFibre crew fid fun f =>
        f.ended r.k r.pos (some x) r.dests := by
  obtain ⟨hc, hf, hp, hi⟩ := h
  have noted : Awake (State.modFibre { s with ops := kdel s.ops op } crew fid fun f => f.noteError r x (r.ea / 4096)) crew fid
      (c.modFibre fid fun f => f.noteError r x (r.ea / 4096)) (f.noteError r x (r.ea / 4096)) :=
    ⟨by simp [State.modFibre, hc], by simp [Crew.modFibre, hf], hp, hi⟩
  refine Eq.trans ?_ (State.completeFor_awake noted r.k r.pos (some x) r.dests)
  simp [State.finishMem, hx]

/-- The bytes of a line that an agent does not hold stay where they are before an atomic. -/
theorem State.ownBytes_of_absent {s : State} {a pa : Nat} (n : Nat) (h1 : kget (s.agent a).l1 (pa / 128) = none)
    (hw : kget (s.agent a).wc (pa / 128) = none) : s.ownBytes a pa n = (s, none) := by
  simp [State.ownBytes, kgetD, h1, hw, emptyLine, L1Line.dirty, Tried.andThen]

/-- What an atomic changes at its home, for the new value where there is one. -/
def State.atomicApply (s : State) (a pa n : Nat) (tags : List RelTag) : Option Nat → State
  | some x => s.atomicWrite a pa (leBytes n x) tags
  | none => s.atomicKeep a pa n

/-- The new value of a request's atomic, where there is one, for the value before. -/
def MemReq.newValue (r : MemReq) (af : AtomFn) (old : Nat) : Option Nat :=
  (atomRes af old (wordsNat (r.data.take (r.n / 4))) (wordsNat (r.data.drop (r.n / 4)))).1

/-- The fibre of an atomic with the releases that its read observes noted (R197, R203). -/
def State.observed (s : State) (crew fid pa n : Nat) : State := s.noteRead crew fid ⟨[], (s.home (pa / 128)).rel, s.tagsAt pa n⟩

/-- A relaxed atomic on device memory of which its core holds no line: the change at the home, and the value before (R169, R170). -/
theorem State.atomAt_relaxed {s : State} {core pa : Nat} (crew fid : Nat) {r : MemReq} (af : AtomFn) (result : Bool)
    (hord : r.order = .relaxed) (hdev : isDevice pa = true) (h1 : kget (s.agent (s.agentOf core)).l1 (pa / 128) = none)
    (hw : kget (s.agent (s.agentOf core)).wc (pa / 128) = none) (hdata : s.dataCause pa r.n = none) :
    (s.atomAt core crew fid r af result pa).1 = (s.observed crew fid pa r.n).atomicApply (s.agentOf core)
        pa r.n ((s.crew crew).fibre fid).fences (r.newValue af (s.readNat pa r.n)) ∧
      (s.atomAt core crew fid r af result pa).2.vals = if result then wordsOf (r.n / 4) (s.readNat pa r.n) else [] := by
  have hline : isDevice (pa / 128 * 128) = true := by rw [isDevice_line, hdev]
  unfold State.atomAt
  simp [s.mergeCause_of_isDevice hline, hord, State.ownBytes_of_absent r.n h1 hw, hdata, Tried.andThen]
  exact ⟨rfl, rfl⟩

@[simp] theorem leBytes_length (n x : Nat) : (leBytes n x).length = n := by
  induction n generalizing x with
  | zero => rfl
  | succ n ih => rw [leBytes, List.length_cons, ih]

/-- An atomic of one line on device memory that no host caches stores its new value there, and changes nothing elsewhere. -/
theorem Unshared.atomicApply_placed {s : State} {line : Nat} (h : Unshared s line) (hm : s.memWf) (a : Nat) {pa n : Nat} (tags : List RelTag)
    (hp : pa / 128 = line) (hn : pa % 128 + n ≤ 128) (new : Option Nat) :
    Placed s (s.atomicApply a pa n tags new) (bytesAt pa (match new with | some x => leBytes n x | none => [])) := by
  cases new with
  | none => exact h.atomicKeep_placed hm a n hp
  | some x => exact h.atomicWrite_placed hm a (leBytes n x) tags hp (by rw [leBytes_length]; exact hn)

/-- A request that is ready reaches its home. -/
theorem State.toHomeNow_ready {s : State} {op crew fid : Nat} {o : Op} {c : Crew} {f : Fibre} {r : MemReq} (h : ReadyMem s op o crew fid c f r)
    {u : State} {pa : Nat} {cacheable : Bool} (hu : s.reqHome o crew fid r = (u, .ok (pa, cacheable)))
    (k : State → Nat → Nat → Nat → MemReq → State) : s.toHomeNow op o k = k u crew fid pa r := by
  obtain ⟨-, hkind, hstage, -, hheld, hstalled, -⟩ := h
  simp [State.toHomeNow, hkind, hstage, hheld, hstalled, hu]

end Sys2Proof.Machine

namespace Sys2Proof.Proofs

open Sys2Proof.Machine Sys2Proof.Terms

/-- Settles O43: a reissue and a walk by the events' definitions; exhausted replays as the completion of a failed request; and an atomic as a
change at an unshared device line, which nothing waits for. -/
theorem requestEvents : Obligations.RequestEvents := by
  unfold Obligations.RequestEvents
  refine ⟨?_, ?_, ?_, ?_⟩
  · intro s op o hop hrest hreplays
    change execTransientFault op s = _
    simp [execTransientFault, hop, hrest, hreplays]
  · intro s op crew fid o c f r hop hkind hrest hreplays hawake
    have hexec : exec (.transientFault op) s = .next (s.finishMem op crew fid r { cause := some 0xB1 }) := by
      change execTransientFault op s = _
      simp [execTransientFault, hop, hrest, Nat.not_lt.mpr hreplays, State.exhaustOp, hkind]
    rw [State.finishMem_failed hawake op r (by decide)] at hexec
    obtain ⟨hc, hf, -, -⟩ := hawake
    refine ⟨_, (c.modFibre fid fun f => f.noteError r 0xB1 (r.ea / 4096)).modFibre fid fun f => f.ended r.k r.pos (some 0xB1) r.dests, _, hexec,
      kget_kdel_self _ _, ?_, ?_, Completed.of_failed f r 0xB1 (r.ea / 4096) r.dests, rfl, rfl, rfl, rfl, rfl, rfl, rfl⟩
    · simp only [State.modFibre, State.modCrew, State.bump, kget_kmod_self, hc, Option.map_some]
    · simp only [Crew.modFibre, kget_kmod_self, hf, Option.map_some]
  · intro s u op crew fid pa o r cacheable hop hkind hstage hwalked htranslates hxl
    refine ⟨{ u with ops := kset u.ops op { o with
        walked := true, pa := pa, uncached := !cacheable, lease := u.leaseOf o.core (s.crew o.issuer).pasid r.ea r.acc } },
      ?_, rfl, fun k hk => kget_kset_ne _ _ hk, kget_kset_self _ _ _⟩
    change execWalkDone op s = _
    simp [execWalkDone, hop, hkind, hstage, hwalked, htranslates, hxl]
  · intro s u op crew fid pa o c f r af result cacheable hready hfn hord hhome hdev hmem hfits hl1 hwc hshared hdata hsnoop
    obtain ⟨hatom, hvals⟩ := State.atomAt_relaxed crew fid af result hord hdev hl1 hwc hdata
    have line : Unshared (u.observed crew fid pa r.n) (pa / 128) := ⟨by rw [isDevice_line, hdev], hshared⟩
    have placed := line.atomicApply_placed (State.memWf_of_eq hmem rfl rfl rfl) (u.agentOf o.core) ((u.crew crew).fibre fid).fences rfl hfits
      (r.newValue af (u.readNat pa r.n))
    rw [← hatom] at placed
    have hexec : exec (.atomicAtHome op) s = .next (s.orSnoop
        ((u.atomAt o.core crew fid r af result pa).1.holdResult op crew fid r (u.atomAt o.core crew fid r af result pa).2)) := by
      change execAtomicAtHome op s = _
      simp only [execAtomicAtHome, hready.1, State.toHomeNow_ready hready hhome]
      simp only [hfn]
    generalize (u.atomAt o.core crew fid r af result pa).2 = d at hvals hexec
    have ops := placed.work.ops.trans (hhome ▸ s.reqHome_work o crew fid r).ops
    generalize (u.atomAt o.core crew fid r af result pa).1 = t at placed hexec ops
    have waits : NoSnoop s (t.holdResult op crew fid r d) := (newSnoops_congr placed.hostOut).trans hsnoop
    rw [State.orSnoop_of_noSnoop waits] at hexec
    refine ⟨_, hexec, ⟨{ o with stage := .atHome, kind := .mem { r with data := d.vals, cause := d.cause.getD 0 } crew fid }, _, ?_, rfl, rfl,
      rfl, hvals⟩, placed.work.scratch, placed.stored⟩
    simp only [State.holdResult, kget_kmod_self, ops, hready.1, Option.map_some]

end Sys2Proof.Proofs
end

section
/-! PROOF. The transport of link ports (R22, R23, R307 to R309): acknowledgements, replays, ports that go down and come up. -/

namespace Sys2Proof.Machine

open Sys2Proof.Terms

/-! ## Maps whose keys rise -/

theorem mem_of_kfind {α : Type} {m : KMap α} {p : Nat → α → Bool} {x : Nat × α} (h : kfind m p = some x) : x ∈ m :=
  List.mem_of_find?_eq_some h

theorem kget_of_rising {α : Type} {m : KMap α} (h : Rising m) {k : Nat} {a : α} (hm : (k, a) ∈ m) : kget m k = some a := by
  induction m with
  | nil => cases hm
  | cons x m ih =>
    obtain ⟨j, b⟩ := x
    have below := (List.pairwise_cons.mp h).1
    rcases List.mem_cons.mp hm with heq | hin
    · cases heq; simp [kget]
    · have hlt : j < k := below _ hin
      rw [kget, if_neg (by omega)]
      exact ih (List.pairwise_cons.mp h).2 hin

/-- The keys of a map after one is set: that one, and those of before. -/
theorem key_of_mem_kset {α : Type} {m : KMap α} {k : Nat} {a : α} {x : Nat × α} (h : x ∈ kset m k a) : x.1 = k ∨ x ∈ m := by
  induction m with
  | nil => left; rw [kset, List.mem_singleton] at h; rw [h]
  | cons y m ih =>
    obtain ⟨j, b⟩ := y
    rw [kset] at h
    split at h
    · rcases List.mem_cons.mp h with rfl | h
      · exact .inl rfl
      · exact .inr h
    · split at h
      · rcases List.mem_cons.mp h with rfl | h
        · exact .inl rfl
        · exact .inr (List.mem_cons_of_mem _ h)
      · rcases List.mem_cons.mp h with rfl | h
        · exact .inr (List.mem_cons_self ..)
        · exact (ih h).imp_right (List.mem_cons_of_mem _)

theorem rising_kset {α : Type} {m : KMap α} (h : Rising m) (k : Nat) (a : α) : Rising (kset m k a) := by
  induction m with
  | nil => exact List.pairwise_singleton _ _
  | cons y m ih =>
    obtain ⟨j, b⟩ := y
    obtain ⟨below, rest⟩ := List.pairwise_cons.mp h
    rw [kset]
    split
    · next hk =>
      refine List.pairwise_cons.mpr ⟨fun x hx => ?_, h⟩
      rcases List.mem_cons.mp hx with rfl | hx
      · exact hk
      · exact Nat.lt_trans hk (below x hx)
    · split
      · next hk => exact List.pairwise_cons.mpr ⟨fun x hx => hk ▸ below x hx, rest⟩
      · refine List.pairwise_cons.mpr ⟨fun x hx => ?_, ih rest⟩
        rcases key_of_mem_kset hx with hx | hx
        · change j < x.1; omega
        · exact below x hx

/-! ## Acknowledgements -/

/-- With nothing waiting, sending changes the numbering alone. -/
theorem Port.fill_of_idle {p : Port} (h : p.waiting = []) (now : Nat) :
    p.fill now = { p with sendSeq := p.sendSeq % 65536, sentAt := if p.unacked.isEmpty then now else p.sentAt } := by
  simp [Port.fill, h]

/-- An acknowledgement ends the frames up to the one it names. -/
theorem Port.acked_of_split {p : Port} {pre post : List (Nat × Nat)} {ack chip : Nat} (hw : p.waiting = [])
    (hu : p.unacked = pre ++ (ack, chip) :: post) (hpre : ack ∉ pre.map Prod.fst) (now : Nat) :
    p.acked now ack = { p with unacked := post, replays := 0, sentAt := now, sendSeq := p.sendSeq % 65536 } := by
  have found : (p.unacked.findIdx fun n : Nat × Nat => n.1 == ack) = pre.length := by
    have absent : (pre.findIdx fun n : Nat × Nat => n.1 == ack) = pre.length :=
      List.findIdx_eq_length.mpr fun x hx => beq_eq_false_iff_ne.mpr fun e => hpre (List.mem_map.mpr ⟨x, hx, e⟩)
    rw [hu, List.findIdx_append, absent]
    simp [List.findIdx_cons]
  have named : (p.unacked.any fun n : Nat × Nat => n.1 == ack) = true := by rw [hu]; simp
  have rest : p.unacked.drop (pre.length + 1) = post := by rw [hu]; simp
  unfold Port.acked
  rw [if_pos named, found, rest]
  refine (Port.fill_of_idle ?_ now).trans ?_
  · exact hw
  · simp

/-- A port that has come up with version 1.0 and the window of its round trip (R23, R309). -/
def Port.started (p : Port) (rtt now : Nat) : Port :=
  { p with up := true, rtt := rtt % 65536, wgmax := windowMax rtt, wg := windowMax rtt, maj := 1, min := 0
           sendSeq := 0, recvSeq := 0, unacked := [], replays := 0, sentAt := now }

/-! ## A port that goes down -/

/-- From s to t only ports have changed, and one of them is down since this tick with no frame unacknowledged. -/
structure PortDown (s t : State) (port : Nat) : Prop where
  frame : t = { s with ports := t.ports }
  rising : Rising t.ports
  down : ∃ q, kget t.ports port = some q ∧ q.up = false ∧ q.unacked = [] ∧ q.replays = 0 ∧ q.downAt = s.tick

/-- Frames are sent on a port of the package. -/
theorem State.portFor_mem {s : State} {chip : Nat} {x : Nat × Port} (h : s.portFor chip = some x) : x ∈ s.ports := by
  unfold State.portFor at h
  split at h
  · next hf => exact mem_of_kfind ((Option.some.inj h) ▸ hf)
  · exact mem_of_kfind h

/-- Frames sent elsewhere leave a port down. -/
theorem PortDown.sendFrames {s t : State} {port : Nat} (h : PortDown s t port) (chip n : Nat) : PortDown s (t.sendFrames chip n) port := by
  obtain ⟨frame, rising, q, hq, hup, hrest⟩ := h
  unfold State.sendFrames
  split
  · next k p hp =>
    refine ⟨by rw [frame], rising_kset rising _ _, ?_⟩
    by_cases hk : k = port
    · subst hk
      obtain rfl : p = q := Option.some.inj ((kget_of_rising rising (State.portFor_mem hp)).symm.trans hq)
      rw [if_neg (by rw [hup]; exact Bool.false_ne_true)]
      exact ⟨_, kget_kset_self _ _ _, hup, hrest⟩
    · exact ⟨q, by rw [← hq]; exact kget_kset_ne _ _ (Ne.symm hk), hup, hrest⟩
  · exact ⟨frame, rising, q, hq, hup, hrest⟩

theorem State.portDown_spec {s : State} (h : Rising s.ports) (port : Nat) (p : Port) : PortDown s (s.portDown port p) port := by
  have first : PortDown s { s with ports := kset s.ports port { p with
      up := false, unacked := [], waiting := [], replays := 0, downAt := s.tick } } port :=
    ⟨rfl, rising_kset h _ _, _, kget_kset_self _ _ _, rfl, rfl, rfl, rfl⟩
  unfold State.portDown
  generalize p.unacked.map Prod.snd ++ p.waiting = l
  generalize ({ s with ports := _ } : State) = t at first
  induction l generalizing t with
  | nil => exact first
  | cons chip l ih => exact ih _ (first.sendFrames chip 1)

/-- A port with a frame unacknowledged for 4 µs replays. -/
theorem exec_ackTimeout {s : State} {port : Nat} {p : Port} (hp : kget s.ports port = some p) (hup : p.up = true) (hun : p.unacked ≠ [])
    (hdue : p.sentAt + 4000 ≤ s.tick) : exec (.ackTimeout port) s = .next (s.replayPort port p) := by
  have hport : kgetD s.ports port {} = p := by rw [kgetD, hp]; rfl
  change execAckTimeout port s = _
  simp [execAckTimeout, hport, hup, hun, Nat.not_lt.mpr hdue]

end Sys2Proof.Machine
end

section
/-! PROOF. The accesses of a peer chip that frames carry (R193, R209, R217), performed at this chip's homes. -/

namespace Sys2Proof.Machine

open Sys2Proof.Terms

/-! ## Bytes and numbers -/

theorem leNat_lt (bs : List Byte) : leNat bs < 256 ^ bs.length := by
  induction bs with
  | nil => exact Nat.one_pos
  | cons b bs ih =>
    have hb : b.toNat < 256 := b.isLt
    rw [leNat, List.length_cons, Nat.pow_succ]
    omega

theorem leNat_leBytes (n x : Nat) : leNat (leBytes n x) = x % 256 ^ n := by
  induction n generalizing x with
  | zero => rw [leBytes, leNat, Nat.pow_zero, Nat.mod_one]
  | succ n ih => rw [leBytes, leNat, ih, BitVec.toNat_ofNat, show 256 ^ (n + 1) = 256 * 256 ^ n from Nat.pow_succ']; exact Nat.mod_mul.symm

/-- Bytes stored at an address are read there. -/
theorem readPas_of_stored {s t : State} {pa : Nat} {bs : List Byte} (h : Stored s.readPa t.readPa pa bs) : t.readPas pa bs.length = bs := by
  refine List.ext_getElem? fun j => ?_
  by_cases hj : j < bs.length
  · simp [State.readPas, hj, h.1 j bs[j] (List.getElem?_eq_getElem hj)]
  · simp [State.readPas, hj]

/-- Bytes outside those that were stored are read as before. -/
theorem readPas_of_stored_ne {s t : State} {pa : Nat} {bs : List Byte} (h : Stored s.readPa t.readPa pa bs) {x n : Nat}
    (hx : x + n ≤ pa ∨ pa + bs.length ≤ x) : t.readPas x n = s.readPas x n := by
  refine List.map_congr_left fun j hj => h.2 (x + j) ?_
  have := List.mem_range.mp hj
  omega

/-! ## Frames -/

/-- A frame's acknowledgement taken, and the frame in sequence counted. -/
def State.received (s : State) (port ack : Nat) : State :=
  { s with ports := kset s.ports port { (kgetD s.ports port {}).acked s.tick ack with recvSeq := ((kgetD s.ports port {}).recvSeq + 1) % 65536 } }

/-- A frame in sequence performs its access, where this sends nothing to a host. -/
theorem exec_linkFrame {s : State} {port ack : Nat} {body : LinkBody} (hup : (kgetD s.ports port {}).up = true)
    (hb : body ≠ .bad ∧ body ≠ .ack ∧ body ≠ .nack) (hout : ((s.received port ack).peerAccess body).hostOut = s.hostOut) :
    exec (.linkFrame port (kgetD s.ports port {}).recvSeq ack body) s = .next ((s.received port ack).peerAccess body) := by
  have quiet := State.orSnoop_of_noSnoop (noSnoop_of_hostOut hout)
  change execLinkFrame port _ ack body s = _
  rw [← quiet]
  unfold execLinkFrame
  obtain ⟨hbad, hack, hnack⟩ := hb
  cases body
  case bad => exact absurd rfl hbad
  case ack => exact absurd rfl hack
  case nack => exact absurd rfl hnack
  all_goals simp [hup, State.received]

/-- An answer sent to a peer chip changes the links alone. -/
theorem State.tellChip_linkOut (s : State) (chip : Nat) (m : LinkMsg) : (s.tellChip chip m).linkOut = s.linkOut ++ [(chip, m)] := by
  obtain ⟨ports, h⟩ := s.tellChip_frame chip m
  rw [h]

/-- What has been placed at homes stays so when an answer leaves. -/
structure Answered (s t : State) (m : KMap Byte) (out : List (Nat × LinkMsg)) : Prop where
  work : HomeWork s t
  hostOut : t.hostOut = s.hostOut
  linkOut : t.linkOut = s.linkOut ++ out
  reads : ∀ x, t.readPa x = (kget m x).getD (s.readPa x)

theorem Placed.answered {s t : State} {m : KMap Byte} (h : Placed s t m) (chip : Nat) (a : LinkMsg) :
    Answered s (t.tellChip chip a) m [(chip, a)] := by
  obtain ⟨ports, ht⟩ := t.tellChip_frame chip a
  refine ⟨h.work.trans (t.tellChip_work chip a), ?_, ?_, fun x => ?_⟩
  · rw [ht]; exact h.hostOut
  · rw [t.tellChip_linkOut, h.linkOut]
  · rw [← h.reads, ht]; rfl

theorem Placed.unanswered {s t : State} {m : KMap Byte} (h : Placed s t m) : Answered s t m [] :=
  ⟨h.work, h.hostOut, by rw [h.linkOut, List.append_nil], h.reads⟩

/-- The count of a release after that. -/
theorem Answered.released {s u : State} {m : KMap Byte} {out : List (Nat × LinkMsg)} (h : Answered s u m out) (o : Order) (core : Nat)
    (sc : Scope) (chips : List Nat) : Answered s (if releasing o then (u.release core sc chips).1 else u) m out := by
  split
  · exact ⟨h.work.trans (u.release_work core sc chips), h.hostOut, h.linkOut, h.reads⟩
  · exact h

theorem Answered.stored {s t : State} {pa : Nat} {bs : List Byte} {out : List (Nat × LinkMsg)} (h : Answered s t (bytesAt pa bs) out) :
    Stored s.readPa t.readPa pa bs := stored_of_reads h.reads

/-! ## Reads and atomics -/

/-- Closing open entries leaves what hosts may cache. -/
theorem State.closeEntries_shared (s : State) (a num line : Nat) : ((s.closeEntries a num).home line).shared = (s.home line).shared := by
  have h : (s.closeEntries a num).home line = kgetD (kmap s.homes fun _ h => h.close a num) line {} := rfl
  rw [h, State.home, kgetD, kgetD, kget_kmap]
  cases kget s.homes line <;> rfl

/-- From s to t only open entries have been closed. -/
structure Closed (s t : State) : Prop where
  eq : t = { s with homes := t.homes, agents := t.agents }
  shared : ∀ line, (t.home line).shared = (s.home line).shared

theorem Closed.refl (s : State) : Closed s s := ⟨rfl, fun _ => rfl⟩

theorem Closed.closeEntries {s t : State} (h : Closed s t) (a num : Nat) : Closed s (t.closeEntries a num) where
  eq := by rw [h.eq]; rfl
  shared line := (t.closeEntries_shared a num line).trans (h.shared line)

theorem Closed.placed {s t : State} (h : Closed s t) (hm : s.memWf) : Placed s t [] :=
  (Placed.refl hm).and_then ⟨by rw [h.eq]⟩ (by rw [h.eq]) (by rw [h.eq]) (by rw [h.eq]) (by rw [h.eq]) h.shared

/-- An acquire closes open entries alone. -/
theorem State.synchronise_closed (s : State) (core : Nat) (sc : Scope) (chips : List Nat) (tags : List RelTag) :
    Closed s (s.synchronise core sc chips tags) := by
  have fold : ∀ t, Closed s t → Closed s (t.synchronise core sc chips tags) := by
    induction tags with
    | nil => exact fun t h => h
    | cons g l ih =>
      intro t h
      refine ih _ ?_
      dsimp only
      split
      · exact h.closeEntries _ _
      · exact h
  exact fold s (.refl s)

theorem State.acquire_closed (s : State) (o : Order) (core : Nat) (sc : Scope) (chips : List Nat) (tags : List RelTag) :
    Closed s (if acquiring o then s.synchronise core sc chips tags else s) := by
  split
  · exact s.synchronise_closed core sc chips tags
  · exact .refl s

theorem Placed.trans_of_nil {s t u : State} {m : KMap Byte} (h : Placed s t []) (g : Placed t u m) : Placed s u m :=
  h.trans g fun x => by rw [kget_nil, Option.or_none]

/-- The count of a release places no byte. -/
theorem Placed.released {s u : State} {m : KMap Byte} (h : Placed s u m) (o : Order) (core : Nat) (sc : Scope) (chips : List Nat) :
    Placed s (if releasing o then (u.release core sc chips).1 else u) m := by
  split
  · exact h.modAgent (u.agentOf core) fun g => { g with releases := g.releases + 1 }
  · exact h

/-- A peer's read, which may acquire, is answered with the bytes at their home. -/
theorem State.peerRead_answered {s : State} (hm : s.memWf) {pa : Nat} (hdev : isDevice pa = true) (chip unit n : Nat) (o : Order)
    (chips : List Nat) (hp : s.poisoned pa n = false) :
    Answered s (s.peerRead chip unit pa n o chips) [] [(chip, .value unit pa (s.readPas pa n) [])] ∧
      (s.peerRead chip unit pa n o chips).dev = s.dev ∧ (s.peerRead chip unit pa n o chips).host = s.host := by
  have good : ((List.range n).filter fun i => s.poisonDev.contains (pa + i)) = [] := by
    rw [State.poisoned, List.any_eq_false] at hp
    refine List.filter_eq_nil_iff.mpr fun i hi hc => hp _ (List.mem_of_elem_eq_true hc) ?_
    have := List.mem_range.mp hi
    simp
    omega
  unfold State.peerRead
  rw [s.reachCause_of_isDevice n hdev]
  dsimp only
  have closed := s.acquire_closed o (peerAgent chip unit) .system chips (s.tagsAt pa n)
  generalize (if acquiring o then s.synchronise (peerAgent chip unit) .system chips (s.tagsAt pa n) else s) = t at closed
  have bytes : t.readPas pa n = s.readPas pa n := by rw [closed.eq]; rfl
  have poison : t.poisonDev = s.poisonDev := by rw [closed.eq]
  obtain ⟨ports, ht⟩ := t.tellChip_frame chip (.value unit pa (s.readPas pa n) [])
  rw [bytes, poison, good]
  exact ⟨(closed.placed hm).answered chip _, by rw [ht, closed.eq], by rw [ht, closed.eq]⟩

/-- A peer's atomic, of any order, is applied to the bytes at their home, and answered with the value before. -/
theorem Unshared.peerAtomic_answered {s : State} {line : Nat} (h : Unshared s line) (hm : s.memWf) {pa : Nat} (hp : pa / 128 = line)
    (chip unit : Nat) (af : AtomFn) (v c : Nat) (o : Order) (chips : List Nat) (hfits : pa % 128 + atomBytes af ≤ 128)
    (hpoison : s.poisoned pa (atomBytes af) = false) :
    Answered s (s.peerAtomic chip unit pa af v c o chips)
      (bytesAt pa (match (atomRes af (s.readNat pa (atomBytes af)) v c).1 with | some x => leBytes (atomBytes af) x | none => []))
      [(chip, .value unit pa (leBytes (atomBytes af) (s.readNat pa (atomBytes af))) [])] := by
  have hdev : isDevice pa = true := by rw [← isDevice_line, hp]; exact h.device
  have hmerge : s.mergeCause (pa / 128) = none := by rw [hp]; exact s.mergeCause_of_isDevice h.device
  have hdata : s.dataCause pa (atomBytes af) = none := by simp [State.dataCause, hpoison, s.reachCause_of_isDevice _ hdev]
  unfold State.peerAtomic
  dsimp only
  rw [hmerge, hdata]
  dsimp only
  have closed := s.acquire_closed o (peerAgent chip unit) .system chips (s.tagsAt pa (atomBytes af))
  generalize (if acquiring o then s.synchronise (peerAgent chip unit) .system chips (s.tagsAt pa (atomBytes af)) else s) = t at closed
  have old : t.readNat pa (atomBytes af) = s.readNat pa (atomBytes af) := by rw [closed.eq]; rfl
  have placed := closed.placed hm
  have applied := (h.of_shared (closed.shared line)).atomicApply_placed placed.memWf (peerAgent chip unit)
    (if releasing o then [t.nextTag (peerAgent chip unit) .system chips] else []) hp hfits (atomRes af (s.readNat pa (atomBytes af)) v c).1
  rw [old]
  exact ((placed.trans_of_nil applied).released o (peerAgent chip unit) .system chips).answered chip _

/-! ## Allowance counters -/

theorem State.counterHome_lt (s : State) (pa : Nat) : s.counterHome pa < 2 ^ 64 := by
  have h := leNat_lt (s.readPas pa 8)
  rw [State.readPas, List.length_map, List.length_range] at h
  exact h

/-- A counter of a device line that no host caches. -/
structure Counter (s : State) (pa : Nat) : Prop where
  unshared : Unshared s (pa / 128)
  memWf : s.memWf
  aligned : pa % 64 = 0

/-- HOME of such a counter set. -/
theorem Counter.setHome_placed {s : State} {pa : Nat} (h : Counter s pa) (v : Nat) : Placed s (s.setHome pa v) (bytesAt pa (leBytes 8 v)) := by
  have := h.aligned
  exact h.unshared.writeHome_placed h.memWf (leBytes 8 v) rfl (by rw [leBytes_length]; omega)

/-- HOME where it has been stored. -/
theorem counterHome_of_stored {s t : State} {pa v : Nat} (h : Stored s.readPa t.readPa pa (leBytes 8 v)) (hv : v < 2 ^ 64) :
    t.counterHome pa = v := by
  have bytes := readPas_of_stored h
  rw [leBytes_length] at bytes
  rw [State.counterHome, State.readNat, bytes, leNat_leBytes]
  exact Nat.mod_eq_of_lt hv

theorem State.tellChip_counterHome (s : State) (chip : Nat) (m : LinkMsg) (pa : Nat) : (s.tellChip chip m).counterHome pa = s.counterHome pa := by
  obtain ⟨ports, h⟩ := s.tellChip_frame chip m
  rw [h]; rfl

theorem Counter.of_placed {s t : State} {pa : Nat} {m : KMap Byte} (h : Counter s pa) (g : Placed s t m) : Counter t pa :=
  ⟨h.unshared.of_shared (g.shared _), g.memWf, h.aligned⟩

/-- Another field of the counter written leaves HOME. -/
theorem Counter.writeImage_placed {s : State} {pa off : Nat} {bs : List Byte} (h : Counter s pa) (ho : 8 ≤ off) (ho' : off < 64)
    (hl : off + bs.length ≤ 64) :
    Placed s (s.writeImage (pa + off) bs) (bytesAt (pa + off) bs) ∧ (s.writeImage (pa + off) bs).counterHome pa = s.counterHome pa := by
  have := h.aligned
  have placed := h.unshared.writeHome_placed h.memWf (pa := pa + off) bs (by omega) (by omega)
  exact ⟨placed, congrArg leNat (readPas_of_stored_ne placed.stored (.inl (by omega)))⟩

theorem kget_append {α : Type} (m n : KMap α) (x : Nat) : kget (m ++ n) x = (kget m x).or (kget n x) := by
  induction m with
  | nil => rw [List.nil_append, kget_nil, Option.none_or]
  | cons b m ih =>
    rw [List.cons_append, kget, kget]
    split
    · rw [Option.some_or]
    · exact ih

/-- A recall round with no holder leaves HOME (R190). -/
theorem Counter.recall_placed {s : State} {pa : Nat} (h : Counter s pa) (hl : kgetD s.holders pa [] = []) :
    ∃ m, Placed s (s.recall pa) m ∧ (s.recall pa).counterHome pa = s.counterHome pa := by
  have freed : Placed s { s with holders := kset s.holders pa [] } [] := (Placed.refl h.memWf).and_then ⟨rfl⟩ rfl rfl rfl rfl fun _ => rfl
  obtain ⟨first, home1⟩ := (h.of_placed freed).writeImage_placed (off := 8) (bs := leBytes 4 ([] : List Nat).length) (by omega) (by omega)
    (by simp)
  obtain ⟨second, home2⟩ := ((h.of_placed freed).of_placed first).writeImage_placed (off := 16)
    (bs := leBytes 8 ((s.readNat (pa + 16) 8 + 1) % 2 ^ 64)) (by omega) (by omega) (by simp)
  unfold State.recall
  rw [hl]
  exact ⟨_, (freed.trans_of_nil first).trans second (l := bytesAt (pa + 16) _ ++ bytesAt (pa + 8) _) (fun x => kget_append _ _ x), home2.trans home1⟩

/-! ## Merges -/

theorem bytesAt_eq_zipIdx (pa k : Nat) (bs : List Byte) : bytesAt (pa + k) bs = (bs.zipIdx k).map fun b => (pa + b.2, b.1) := by
  induction bs generalizing k with
  | nil => rfl
  | cons b bs ih => rw [bytesAt, List.zipIdx_cons, List.map_cons, ← ih (k + 1), Nat.add_assoc]

theorem kget_filter_key {α : Type} (m : KMap α) (p : Nat → Bool) (x : Nat) :
    kget (m.filter fun b => p b.1) x = if p x then kget m x else none := by
  induction m with
  | nil => split <;> rfl
  | cons b m ih =>
    obtain ⟨j, a⟩ := b
    rw [List.filter_cons]
    by_cases hj : x = j
    · subst hj
      by_cases hp : p x <;> simp [hp, kget, ih]
    · by_cases hp : p j <;> simp [hp, kget, ih, hj]

/-- The record of a line that one other agent has open. -/
structure OpenBy (h : HomeLine) (a b : Nat) (m : KMap Nat) : Prop where
  crowded : h.crowded = false
  opens : h.opens = [⟨b, false, m⟩]
  ne : b ≠ a

namespace OpenBy

variable {h : HomeLine} {a b : Nat} {m : KMap Nat}

theorem otherAgents (g : OpenBy h a b m) : Machine.otherAgents h a = if m.isEmpty then [] else [b] := by
  have ne : (b != a) = true := bne_iff_ne.mpr g.ne
  rw [Machine.otherAgents, g.opens]
  cases m <;> simp [ne, List.eraseDups_cons]

theorem plain (g : OpenBy h a b m) (bs : KMap L1Byte) : overlapOf h a false bs = (kkeys bs).filter fun o => (kget m o).isSome := by
  have ne : (b != a) = true := bne_iff_ne.mpr g.ne
  simp [overlapOf, g.opens, ne]

theorem atom (g : OpenBy h a b m) (bs : KMap L1Byte) : overlapOf h a true bs = [] := by
  simp [overlapOf, g.opens]

end OpenBy

/-- The race event of bytes that a peer's merge drops is told to the peer, and there is none without such a byte (R210, R217). -/
theorem State.raceEvent_peer (s : State) (chip unit line va other : Nat) (l : List Nat) (c : Cause) :
    s.raceEvent (peerAgent chip unit) none line va other l c =
      if l = [] then s else s.tellChip chip (.raced (unit % 10000) line (maskOf l) other c) := by
  have hchip : chipOf (peerAgent chip unit) = chip + 1 := by unfold chipOf peerAgent; omega
  have hunit : peerAgent chip unit % 10000 = unit % 10000 := by unfold peerAgent; omega
  simp [State.raceEvent, hchip, hunit]

/-- A merge of a device line that another agent has open: the bytes that it has open are dropped and reported, and the others are applied
(R209). -/
theorem Unshared.merge {s : State} {line : Nat} (h : Unshared s line) {a b : Nat} {m : KMap Nat} (g : OpenBy (s.home line) a b m) (va : Nat)
    {bs : KMap L1Byte} (hbs : bs ≠ []) : s.merge a none line va bs =
      ((((bs.filter fun x => (kget m x.1).isNone).foldl (fun (t : State) x => t.applyByte (line * 128 + x.1) x.2) s).modHome line fun h =>
        h.note a false (s.agent a).synced (bs.map fun x => (x.1, x.2.cnt)) s.tick).raceEvent
        a none line va b ((kkeys bs).filter fun o => (kget m o).isSome) 0x58, none) := by
  have single : ¬2 ≤ (otherAgents (s.home line) a).length := by
    rw [g.otherAgents]
    split <;> simp
  have dropped : (bs.filter fun x => !((kkeys bs).filter fun o => (kget m o).isSome).contains x.1 && !([] : List Nat).contains x.1) =
      bs.filter fun x => (kget m x.1).isNone := by
    refine List.filter_congr fun x hx => ?_
    have hkey : x.1 ∈ kkeys bs := List.mem_map_of_mem hx
    simp [hkey]
  have other : ∀ t : State, t.raceEvent a none line va ((otherAgents (s.home line) a).head?.getD 0)
      ((kkeys bs).filter fun o => (kget m o).isSome) 0x58 =
        t.raceEvent a none line va b ((kkeys bs).filter fun o => (kget m o).isSome) 0x58 := by
    intro t
    rw [g.otherAgents]
    cases m with
    | nil => simp [State.raceEvent, kget_nil]
    | cons => rfl
  unfold State.merge
  rw [if_neg (by simpa using hbs), s.mergeCause_of_isDevice h.device]
  dsimp only
  rw [s.proxyRoom_of_isDevice h.device, State.tellMerge_of_isDevice _ _ _ h.device, g.plain, g.atom, g.crowded,
    isHost_of_isDevice h.device, decide_eq_false single]
  simp only [Bool.or_self, Bool.false_eq_true, if_false, dropped, List.filter_nil]
  rw [other]
  rfl

/-- A write noted in a record places no byte. -/
theorem Placed.note {s t : State} {m : KMap Byte} (h : Placed s t m) (line a : Nat) (atomic : Bool) (synced : Nat) (bs : List (Nat × Nat))
    (now : Nat) : Placed s (t.modHome line fun x => x.note a atomic synced bs now) m := h.modHome _ _ fun _ => rfl

/-- Bytes of one line are one piece. -/
theorem linePieces_of_fits {pa : Nat} {bs : List Byte} (n : Nat) (hbs : bs ≠ []) (hfits : pa % 128 + bs.length ≤ 128) :
    linePieces (n + 2) pa bs = [(pa, bs)] := by
  obtain ⟨x, xs, rfl⟩ := List.exists_cons_of_ne_nil hbs
  have hk : (x :: xs).length ≤ 128 - pa % 128 := by omega
  rw [linePieces, List.take_of_length_le hk, List.drop_eq_nil_of_le hk]
  · rfl
  · exact hbs

/-- The bytes of a peer's write, as its merge makes them. -/
def peerBytes (pa : Nat) (bs : List Byte) (bad : List Nat) (cnt : Nat) (tags : List RelTag) (now : Nat) : KMap L1Byte :=
  (lineBytes (pa % 128) bs false cnt tags now).map fun b => (b.1, { b.2 with poison := bad.contains (pa / 128 * 128 + b.1 - pa) })

theorem kkeys_peerBytes (pa : Nat) (bs : List Byte) (bad : List Nat) (cnt : Nat) (tags : List RelTag) (now : Nat) :
    kkeys (peerBytes pa bs bad cnt tags now) = (List.range bs.length).map fun j => pa % 128 + j := by
  have indices : bs.zipIdx.map Prod.snd = List.range bs.length := by rw [List.zipIdx_map_snd, List.range_eq_range']
  rw [← indices, kkeys, peerBytes, lineBytes, List.map_map, List.map_map, List.map_map]
  rfl

theorem peerBytes_vals (pa : Nat) (bs : List Byte) (bad : List Nat) (cnt : Nat) (tags : List RelTag) (now : Nat) :
    ((peerBytes pa bs bad cnt tags now).map fun b => (pa / 128 * 128 + b.1, b.2.val)) = bytesAt pa bs := by
  rw [← Nat.add_zero pa, bytesAt_eq_zipIdx, peerBytes, lineBytes, List.map_map, List.map_map]
  refine List.map_congr_left fun b hb => ?_
  refine Prod.ext ?_ rfl
  change (pa + 0) / 128 * 128 + ((pa + 0) % 128 + b.2) = pa + b.2
  omega

/-- A peer's write, of any order, of a line that another agent has open: the bytes that it has open are dropped and reported to the peer, and
the others are applied (R209, R217). -/
theorem Unshared.peerWrite_answered {s : State} {pa : Nat} (h : Unshared s (pa / 128)) (hm : s.memWf) {b : Nat} {m : KMap Nat}
    (chip unit : Nat) (g : OpenBy (s.home (pa / 128)) (peerAgent chip unit) b m) (bs : List Byte) (o : Order) (chips : List Nat)
    (hfits : pa % 128 + bs.length ≤ 128) :
    Answered s (s.peerWrite (peerAgent chip unit) pa bs [] o chips)
      ((bytesAt pa bs).filter fun x => (kget m (x.1 - pa / 128 * 128)).isNone)
      (if (((List.range bs.length).map fun j => pa % 128 + j).filter fun x => (kget m x).isSome) = [] then []
        else [(chip, .raced (unit % 10000) (pa / 128)
          (maskOf (((List.range bs.length).map fun j => pa % 128 + j).filter fun x => (kget m x).isSome)) b 0x58)]) := by
  generalize htags : (if releasing o then [s.nextTag (peerAgent chip unit) .system chips] else []) = tags
  by_cases hbs : bs = []
  · subst hbs
    exact (Placed.refl hm).unanswered.released o _ .system chips
  · have keys := kkeys_peerBytes pa bs [] (s.agent (peerAgent chip unit)).releases tags s.tick
    have vals := peerBytes_vals pa bs [] (s.agent (peerAgent chip unit)).releases tags s.tick
    have written : s.peerWrite (peerAgent chip unit) pa bs [] o chips =
        (fun t : State => if releasing o then (t.release (peerAgent chip unit) .system chips).1 else t)
          (s.merge (peerAgent chip unit) none (pa / 128) 0
            (peerBytes pa bs [] (s.agent (peerAgent chip unit)).releases tags s.tick)).1 := by
      rw [State.peerWrite, linePieces_of_fits _ hbs hfits, htags]
      rfl
    generalize peerBytes pa bs [] (s.agent (peerAgent chip unit)).releases tags s.tick = l at keys vals written
    have hl : l ≠ [] := by
      rintro rfl
      cases bs with
      | nil => exact hbs rfl
      | cons x xs => cases vals
    have kept : Placed s ((l.filter fun x => (kget m x.1).isNone).foldl (fun (t : State) x => t.applyByte (pa / 128 * 128 + x.1) x.2) s)
        ((l.filter fun x => (kget m x.1).isNone).map fun x => (pa / 128 * 128 + x.1, x.2.val)) := by
      refine h.foldl_applyByte_placed hm _ ?_ fun x hx => ?_
      · refine List.Nodup.sublist (List.Sublist.map _ List.filter_sublist) ?_
        rw [← kkeys, keys]
        exact List.Nodup.map (fun i j hij => Nat.add_left_cancel hij) List.nodup_range
      · have hkey : x.1 ∈ kkeys l := List.mem_map_of_mem (List.mem_of_mem_filter hx)
        rw [keys] at hkey
        obtain ⟨j, hj, hx⟩ := List.mem_map.mp hkey
        have := List.mem_range.mp hj
        omega
    have bytes : ((l.filter fun x => (kget m x.1).isNone).map fun x => (pa / 128 * 128 + x.1, x.2.val)) =
        (bytesAt pa bs).filter fun x => (kget m (x.1 - pa / 128 * 128)).isNone := by
      rw [← vals, List.filter_map]
      congr 1
      refine List.filter_congr fun x _ => ?_
      simp
    rw [written, h.merge g 0 hl, State.raceEvent_peer, keys]
    rw [bytes] at kept
    refine Answered.released ?_ o _ .system chips
    dsimp only
    split
    · exact (kept.note ..).unanswered
    · exact (kept.note ..).answered chip _

end Sys2Proof.Machine

namespace Sys2Proof.Proofs

open Sys2Proof.Machine Sys2Proof.Terms

/-- A frame in sequence that carries an access leads to what the access leaves. -/
theorem becomes_linkFrame {s : State} {port ack : Nat} {body : LinkBody} (hup : (kgetD s.ports port {}).up = true)
    (hb : body ≠ .bad ∧ body ≠ .ack ∧ body ≠ .nack) {t : State} (ht : (s.received port ack).peerAccess body = t) {m : KMap Byte}
    {out : List (Nat × LinkMsg)} (h : Answered (s.received port ack) t m out) {after : State → Prop}
    (ha : (t.crews = s.crews ∧ t.ops = s.ops ∧ t.scratch = s.scratch) → t.linkOut = s.linkOut ++ out → after t) :
    Becomes (.linkFrame port (kgetD s.ports port {}).recvSeq ack body) s after := by
  subst ht
  exact ⟨_, exec_linkFrame hup hb h.hostOut, ha ⟨h.work.crews, h.work.ops, h.work.scratch⟩ h.linkOut⟩

/-- Settles O50: the transport by what each event does to its port, with the invariant of the frames sent on when a port goes down; a peer's
accesses as changes of an unshared device line, answered over the links. -/
theorem linkEvents : Obligations.LinkEvents := by
  unfold Obligations.LinkEvents
  refine ⟨?_, ?_, ?_, ?_⟩
  · intro s port seq ack chip p pre post hp hup hwaiting hun hpre
    have hport : kgetD s.ports port {} = p := by rw [kgetD, hp]; rfl
    have hacked := Port.acked_of_split hwaiting hun hpre s.tick
    refine ⟨?_, ?_, ?_, fun hseq => ?_⟩
    · change execLinkFrame port seq ack .bad s = _
      simp [execLinkFrame]
    · change execLinkFrame port seq ack .ack s = _
      simp [execLinkFrame, hport, hup, hacked]
    · have taken := exec_linkFrame (ack := ack) (body := .data) (by rw [hport, hup]) ⟨nofun, nofun, nofun⟩ (s := s) (port := port) rfl
      rw [hport] at taken
      rw [taken, State.received, hport, hacked]
      rfl
    · change execLinkFrame port seq ack .data s = _
      simp [execLinkFrame, hport, hseq]
  · intro s port p hp hup hun hdue
    rw [exec_ackTimeout hp hup hun hdue]
    refine ⟨fun hfew => ?_, fun hmany hrising => ?_⟩
    · simp [State.replayPort, hun, Nat.not_le.mpr hfew]
    · have down := State.portDown_spec hrising port p
      refine ⟨s.portDown port p, ?_, down.frame, down.down⟩
      rw [exec_ackTimeout hp hup hun hdue]
      simp [State.replayPort, hun, hmany]
  · intro s port ack chip unit pa hup hmem hdev hshared
    dsimp only
    have hmem' : (s.received port ack).memWf := State.memWf_of_eq hmem rfl rfl rfl
    have line : Unshared (s.received port ack) (pa / 128) := ⟨hdev, hshared⟩
    have hpa : isDevice pa = true := by rw [← isDevice_line, hdev]
    have hlocal : ¬isPeer pa = true := by rw [isPeer_of_isDevice hpa]; exact Bool.false_ne_true
    refine ⟨?_, ?_, ?_, ?_⟩
    · intro n o chips hfits hpoison
      obtain ⟨h, hd, hh⟩ := State.peerRead_answered hmem' hpa chip unit n o chips hpoison
      exact becomes_linkFrame (body := .read chip unit pa n o chips) hup ⟨nofun, nofun, nofun⟩ (if_neg hlocal) h fun quiet out => ⟨quiet, hd, hh, out⟩
    · intro b m bs o chips hfits hcrowded hopens hne
      have h := line.peerWrite_answered hmem' chip unit ⟨hcrowded, hopens, hne⟩ bs o chips hfits
      refine becomes_linkFrame (body := .write chip unit pa bs [] o chips) hup ⟨nofun, nofun, nofun⟩ rfl h fun quiet out =>
        ⟨quiet, fun j x hj => ?_, fun x hx => ?_, out⟩
      all_goals
        refine (h.reads _).trans ?_
        rw [kget_filter_key _ (fun k => (kget m (k - pa / 128 * 128)).isNone)]
      · have hoff : pa + j - pa / 128 * 128 = pa % 128 + j := by omega
        rw [kget_bytesAt_add, hj, hoff]
        cases kget m (pa % 128 + j) <;> rfl
      · rw [show kget (bytesAt pa bs) x = none from ?_, ite_self]
        · rfl
        · rcases hx with hx | hx
          · exact kget_bytesAt_of_lt hx bs
          · obtain ⟨j, rfl⟩ : ∃ j, x = pa + j := ⟨x - pa, by omega⟩
            rw [kget_bytesAt_add, List.getElem?_eq_none (by omega)]
    · intro af v c o chips hfits hpoison
      have h := line.peerAtomic_answered hmem' rfl chip unit af v c o chips hfits hpoison
      exact becomes_linkFrame (body := .atomic chip unit pa af v c o chips) hup ⟨nofun, nofun, nofun⟩ (if_neg hlocal) h fun quiet out =>
        ⟨quiet, out, h.stored⟩
    · intro haligned hcounter hunit
      subst hunit
      have counter : Counter (s.received port ack) pa := ⟨line, hmem', haligned⟩
      refine ⟨fun n hn => ?_, fun n hn => ?_, fun hholders => ?_⟩
      · have h := (counter.setHome_placed (s.counterHome pa - n)).answered chip (.value 0 pa (leBytes 4 n) [])
        refine becomes_linkFrame (body := .take chip pa n) hup ⟨nofun, nofun, nofun⟩ ?_ h fun quiet out =>
          ⟨quiet, out, counterHome_of_stored h.stored ?_⟩
        · have henough : ¬(s.received port ack).counterHome pa < n := Nat.not_lt.mpr hn
          have hin : (s.received port ack).inCounter pa = true := hcounter
          simp only [State.peerAccess, hin, State.takeBare, if_neg henough]
          rfl
        · have := s.counterHome_lt pa
          omega
      · have h := (counter.setHome_placed (s.counterHome pa + n)).answered chip (.value 0 pa [] [])
        refine becomes_linkFrame (body := .give chip pa n) hup ⟨nofun, nofun, nofun⟩ ?_ h fun quiet out =>
          ⟨quiet, out, counterHome_of_stored h.stored (by omega)⟩
        have hroom : (s.received port ack).counterHome pa + n ≤ 2 ^ 62 := hn
        have hin : (s.received port ack).inCounter pa = true := hcounter
        simp only [State.peerAccess, hin, State.giveBare, if_pos hroom]
        rfl
      · obtain ⟨m, placed, home⟩ := counter.recall_placed hholders
        have h := placed.answered chip (.value 0 pa (leBytes 8 (s.counterHome pa)) [])
        refine becomes_linkFrame (body := .exact chip pa) hup ⟨nofun, nofun, nofun⟩ ?_ h fun quiet out =>
          ⟨quiet, out, (State.tellChip_counterHome _ chip _ pa).trans home⟩
        have hin : (s.received port ack).inCounter pa = true := hcounter
        simp only [State.peerAccess, hin, home]
        rfl
  · intro s port maj min lowMaj rtt p hp hup hport
    refine ⟨fun hdue => ?_, fun hversion => ?_, fun hmaj hlow hwaiting => ?_⟩
    · change execLinkUpRetry port s = _
      simp [execLinkUpRetry, hp, hup, Nat.not_le.mpr hport, Nat.not_lt.mpr hdue]
    · change execLinkUp port maj min lowMaj rtt s = _
      unfold execLinkUp
      dsimp only
      rw [hp, if_neg (by simp [hup, hport]), if_pos hversion]
    · have hversion : ¬(maj < 1 ∨ 1 < lowMaj) := by omega
      have hexec : exec (.linkUp port maj min lowMaj rtt) s = .next { s with ports := kset s.ports port (p.started rtt s.tick) } := by
        change execLinkUp port maj min lowMaj rtt s = _
        unfold execLinkUp
        dsimp only
        rw [hp, if_neg (by simp [hup, hport]), if_neg hversion, show Nat.min 0 min = 0 from Nat.zero_min min, ite_self, Port.fill_of_idle]
        · rfl
        · exact hwaiting
      exact ⟨_, hexec, rfl, _, kget_kset_self _ _ _, rfl, rfl, rfl, rfl, rfl, rfl, rfl, rfl, rfl, rfl⟩

end Sys2Proof.Proofs
end

section
/-! PROOF. What drains, saves and flushes leave of the crews (R20, R203, R210, R320, R335): their race logs, barrier records and segment lists
may change, and nothing else of them. -/

namespace Sys2Proof.Machine

open Sys2Proof.Terms

/-! ## Crews whose logs change -/

/-- From a crew to its later state only barrier records, race logs and the cause of a lost segment have changed. -/
structure Logged (c d : Crew) : Prop where
  eq : d = { c with bars := d.bars, raceLog := d.raceLog, raceLost := d.raceLost, lost := d.lost }

theorem Logged.refl (c : Crew) : Logged c c := ⟨rfl⟩

theorem Logged.trans {c d e : Crew} (h : Logged c d) (g : Logged d e) : Logged c e := ⟨by rw [g.eq, h.eq]⟩

theorem Crew.logRace_logged (c : Crew) (e : RaceEntry) : Logged c (c.logRace e) := by
  unfold Crew.logRace
  split <;> exact ⟨rfl⟩

/-- From a crew to its later state only such logs, the lists of its segments, and the chains of its fibres' replay segments have changed. -/
structure Chained (c d : Crew) : Prop where
  eq : d = { c with bars := d.bars, raceLog := d.raceLog, raceLost := d.raceLost, lost := d.lost, used := d.used, records := d.records
                    fibres := d.fibres }
  fibres : ∀ n f, kget c.fibres n = some f → ∃ l, kget d.fibres n = some { f with chain := l }

theorem Logged.chained {c d : Crew} (h : Logged c d) : Chained c d :=
  ⟨by rw [h.eq], fun n f hf => ⟨f.chain, by rw [h.eq]; exact hf⟩⟩

theorem Chained.refl (c : Crew) : Chained c c := (Logged.refl c).chained

theorem Chained.trans {c d e : Crew} (h : Chained c d) (g : Chained d e) : Chained c e where
  eq := by rw [g.eq, h.eq]
  fibres n f hf := by
    obtain ⟨l, hl⟩ := h.fibres n f hf
    obtain ⟨m, hm⟩ := g.fibres n _ hl
    exact ⟨m, hm⟩

/-! ## States whose crews change so -/

/-- From s to t each crew has gone to a state that a relation allows, and the tick, the scratchpads, the gated units and the
sends are as they were. -/
structure CrewWork (R : Crew → Crew → Prop) (s t : State) : Prop where
  tick : t.tick = s.tick
  scratch : t.scratch = s.scratch
  gated : t.gated = s.gated
  sends : t.sends = s.sends
  crews : ∀ k c, kget s.crews k = some c → ∃ d, kget t.crews k = some d ∧ R c d

section
variable {s t u : State}

theorem CrewWork.mono {R Q : Crew → Crew → Prop} (hR : ∀ c d, R c d → Q c d) (h : CrewWork R s t) : CrewWork Q s t :=
  ⟨h.tick, h.scratch, h.gated, h.sends, fun k c hc => let ⟨d, hd, hcd⟩ := h.crews k c hc; ⟨d, hd, hR c d hcd⟩⟩

theorem CrewWork.trans_of {R : Crew → Crew → Prop} (hR : ∀ c d e, R c d → R d e → R c e) (h : CrewWork R s t) (g : CrewWork R t u) :
    CrewWork R s u where
  tick := g.tick.trans h.tick
  scratch := g.scratch.trans h.scratch
  gated := g.gated.trans h.gated
  sends := g.sends.trans h.sends
  crews k c hc := by
    obtain ⟨d, hd, hcd⟩ := h.crews k c hc
    obtain ⟨e, he, hde⟩ := g.crews k d hd
    exact ⟨e, he, hR c d e hcd hde⟩

/-- Work that may log races: drains and what leads to them. -/
abbrev LogWork : State → State → Prop := CrewWork Logged

/-- Work that may log races and hang replay entries from images. -/
abbrev ChainWork : State → State → Prop := CrewWork Chained

theorem LogWork.of_crews (hc : t.crews = s.crews) (ht : t.tick = s.tick) (hs : t.scratch = s.scratch) (hg : t.gated = s.gated)
    (hx : t.sends = s.sends) : LogWork s t :=
  ⟨ht, hs, hg, hx, fun k c h => ⟨c, by rw [hc]; exact h, .refl c⟩⟩

theorem HomeWork.log (h : HomeWork s t) : LogWork s t := .of_crews h.crews h.tick h.scratch h.gated h.sends

theorem LogWork.refl (s : State) : LogWork s s := (HomeWork.refl s).log

theorem LogWork.trans (h : LogWork s t) (g : LogWork t u) : LogWork s u := CrewWork.trans_of (fun _ _ _ => Logged.trans) h g

theorem LogWork.chain (h : LogWork s t) : ChainWork s t := CrewWork.mono (fun _ _ => Logged.chained) h

theorem ChainWork.trans (h : ChainWork s t) (g : ChainWork t u) : ChainWork s u := CrewWork.trans_of (fun _ _ _ => Chained.trans) h g

theorem State.modCrew_work {R : Crew → Crew → Prop} (hrefl : ∀ c, R c c) (s : State) (k : Nat) {f : Crew → Crew} (hf : ∀ c, R c (f c)) :
    CrewWork R s (s.modCrew k f) := by
  refine ⟨rfl, rfl, rfl, rfl, fun j c hc => ?_⟩
  by_cases hj : j = k
  · exact ⟨f c, by subst hj; simp [State.modCrew, hc], hf c⟩
  · exact ⟨c, by simp [State.modCrew, hj, hc], hrefl c⟩

end

/-! ## Merges and drains (R203, R209, R210) -/

theorem State.raceEvent_log (s : State) (a : Nat) (crew : Option Nat) (line va other : Nat) (l : List Nat) (c : Cause) :
    LogWork s (s.raceEvent a crew line va other l c) := by
  unfold State.raceEvent
  split
  · exact .refl s
  · split
    · exact State.modCrew_work Logged.refl s _ fun c => c.logRace_logged _
    · split
      · exact .refl s
      · exact (s.tellChip_work _ _).log

theorem State.merge_log (s : State) (a : Nat) (crew : Option Nat) (line va : Nat) (bs : KMap L1Byte) :
    LogWork s (s.merge a crew line va bs).1 := by
  unfold State.merge
  split
  · exact .refl s
  · split
    · exact (s.refuse_work _ _).log
    · dsimp only
      refine .trans ?_ (State.raceEvent_log _ _ _ _ _ _ _ _)
      refine .trans ?_ (State.raceEvent_log _ _ _ _ _ _ _ _)
      refine HomeWork.log (.trans ?_ (State.tellMerge_work _ _ _ _))
      refine .trans ?_ (State.modHome_work _ _ _)
      exact (s.proxyRoom_work _).trans (HomeWork.foldl (fun t b => State.applyByte_work t _ _) _ _)

/-- One try after another. -/
theorem Tried.andThen_log {s : State} {r : Tried} {f : State → Tried} (hr : LogWork s r.1) (hf : ∀ t, LogWork t (f t).1) :
    LogWork s (r.andThen f).1 := by
  obtain ⟨t, _ | c⟩ := r
  · exact hr.trans (hf t)
  · exact hr

theorem State.tryAll_log {α : Type} {f : State → α → Tried} (hf : ∀ t x, LogWork t (f t x).1) (s : State) (l : List α) :
    LogWork s (s.tryAll l f).1 := by
  have fold : ∀ (l : List α) (r : Tried), LogWork s r.1 → LogWork s (l.foldl (fun (r : Tried) x =>
      let u := f r.1 x; (u.1, match r.2 with | some c => some c | none => u.2)) r).1 := by
    intro l
    induction l with
    | nil => exact fun r h => h
    | cons x l ih => exact fun r h => ih _ (h.trans (hf r.1 x))
  exact fold l (s, none) (.refl s)

theorem State.mergeLine_log (s : State) (a line : Nat) : LogWork s (s.mergeLine a line).1 := by
  unfold State.mergeLine
  split
  · exact .refl s
  · split
    · exact .refl s
    · exact Tried.andThen_log (s.merge_log _ _ _ _ _) fun t => HomeWork.log ⟨rfl⟩

theorem State.mergeWc_log (s : State) (a line : Nat) : LogWork s (s.mergeWc a line).1 := by
  unfold State.mergeWc
  split
  · exact .refl s
  · exact Tried.andThen_log (s.merge_log _ _ _ _ _) fun t => HomeWork.log ⟨rfl⟩

/-- The records of barriers and homes after a drain, without the agent. -/
theorem State.dropRecords_log (s : State) (homes : KMap HomeLine) (f : Barrier → Barrier) :
    LogWork s { s with homes := homes, crews := kmap s.crews fun _ c => { c with bars := kmap c.bars fun _ b => f b } } :=
  ⟨rfl, rfl, rfl, rfl, fun k c hc => ⟨_, by rw [kget_kmap, hc]; rfl, ⟨rfl⟩⟩⟩

theorem State.drain_log (s : State) (a : Nat) : LogWork s (s.drain a).1 := by
  unfold State.drain
  refine Tried.andThen_log (Tried.andThen_log (State.tryAll_log (fun t x => t.mergeLine_log _ _) _ _) fun t =>
    State.tryAll_log (fun u x => u.mergeWc_log _ _) _ _) fun t => ?_
  exact t.dropRecords_log _ _

theorem State.engineWrite_log (s : State) (a : Nat) (crew : Option Nat) (pa va : Nat) (bs : List Byte) :
    LogWork s (s.engineWrite a crew pa va bs).1 := State.tryAll_log (fun t _ => t.merge_log _ _ _ _ _) s _

/-! ## Segments at a save (R320, R335) -/

/-- One frame-engine action after another. -/
theorem frThen_work {α β : Type} {R : Crew → Crew → Prop} (hR : ∀ c d e, R c d → R d e → R c e) {s : State} {r : FrRes α}
    {f : State → α → FrRes β} (hr : CrewWork R s r.1) (hf : ∀ t x, CrewWork R t (f t x).1) : CrewWork R s (frThen r f).1 := by
  obtain ⟨t, e | x⟩ := r
  · exact hr
  · exact hr.trans_of hR (hf t x)

/-- Frame-engine actions for each member of a list. -/
theorem foldl_frThen_work {β : Type} {R : Crew → Crew → Prop} (hR : ∀ c d e, R c d → R d e → R c e) {f : State → β → FrRes Unit}
    (hf : ∀ t x, CrewWork R t (f t x).1) {s : State} (l : List β) (r : FrRes Unit) (hr : CrewWork R s r.1) :
    CrewWork R s (l.foldl (fun r x => frThen r fun t _ => f t x) r).1 := by
  induction l generalizing r with
  | nil => exact hr
  | cons x l ih => exact ih _ (frThen_work hR hr fun t _ => hf t x)

theorem State.writeBack_log (s : State) (core key : Nat) : LogWork s (s.writeBack core key).1 := by
  unfold State.writeBack
  split
  · exact (s.mergeSeg_work _ _ _).log
  · next g _ =>
    have h := (s.frameXl_work g.crew g.va .store).log
    split
    · next hx => rw [hx] at h; exact h.trans (State.mergeSeg_work _ _ _ _).log
    · next hx => rw [hx] at h; exact h
    · next hx =>
      rw [hx] at h
      exact h.trans ((State.modCore_work _ _ _).log.trans (State.modCrew_work Logged.refl _ _ fun c => ⟨rfl⟩))

theorem State.saveSaddle_log (s : State) (core crew : Nat) : LogWork s (s.saveSaddle core crew).1 :=
  foldl_frThen_work (R := Logged) (fun _ _ _ => Logged.trans) (fun t k => t.writeBack_log core k) _ _ (LogWork.refl s)

theorem State.allocSeg_chain (s : State) (crew : Nat) (rec : Bool) : ChainWork s (s.allocSeg crew rec).1 := by
  have bumped : LogWork s s.bump := .of_crews rfl rfl rfl rfl rfl
  unfold State.allocSeg
  dsimp only
  split
  · exact bumped.chain.trans (State.modCrew_work Chained.refl _ _ fun c => ⟨rfl, fun n f hf => ⟨f.chain, hf⟩⟩)
  · split
    · exact LogWork.chain (.of_crews rfl rfl rfl rfl rfl)
    · exact (LogWork.refl s).chain

theorem State.allocSegs_chain {s : State} {crew n : Nat} {r : State × List Nat} (h : s.allocSegs crew n = some r) : ChainWork s r.1 := by
  induction n generalizing s r with
  | zero => cases h; exact (LogWork.refl s).chain
  | succ n ih =>
    have first := s.allocSeg_chain crew false
    unfold State.allocSegs at h
    split at h
    · next t va ht =>
      rw [ht] at first
      obtain ⟨q, hq, rfl⟩ := Option.map_eq_some_iff.mp h
      exact first.trans (ih (r := q) hq)
    · cases h

theorem State.writeSegHome_log (s : State) (crew va : Nat) (bs : List Byte) : LogWork s (s.writeSegHome crew va bs).1 :=
  frThen_work (R := Logged) (fun _ _ _ => Logged.trans) (s.frameXl_work crew va .store).log fun t _ =>
    ((t.modCore_work _ _).trans (State.writeHome_work _ _ _)).log

theorem State.writeReplay_log (s : State) (crew : Nat) (vas : List Nat) (cs : List (List (List Byte))) :
    LogWork s (s.writeReplay crew vas cs).1 := by
  induction vas generalizing s cs with
  | nil => exact .refl s
  | cons va more ih =>
    cases cs with
    | nil => exact .refl s
    | cons c cs =>
      unfold State.writeReplay
      exact frThen_work (R := Logged) (fun _ _ _ => Logged.trans) (s.writeSegHome_log _ _ _) fun t _ => ih t cs

/-- The chain of a fibre's replay segments set. -/
theorem Crew.chain_chained (c : Crew) (fid : Nat) (l : List Nat) : Chained c (c.modFibre fid fun f => { f with chain := l }) := by
  refine ⟨rfl, fun n f hf => ?_⟩
  by_cases hn : n = fid
  · exact ⟨l, by subst hn; simp [Crew.modFibre, hf]⟩
  · exact ⟨f.chain, by simp [Crew.modFibre, hn, hf]⟩

theorem State.saveChain_chain (s : State) (crew fid : Nat) : ChainWork s (s.saveChain crew fid).1 := by
  unfold State.saveChain
  dsimp only
  split
  · exact (LogWork.refl s).chain
  · next t vas h =>
    obtain ⟨halloc, -⟩ := Option.filter_eq_some_iff.mp h
    refine (State.allocSegs_chain halloc).trans (frThen_work (R := Chained) (fun _ _ _ => Chained.trans) (t.writeReplay_log _ _ _).chain
      fun u _ => ?_)
    exact State.modCrew_work Chained.refl u crew fun c => c.chain_chained fid vas

theorem State.saveChains_chain (s : State) (crew : Nat) : ChainWork s (s.saveChains crew).1 :=
  foldl_frThen_work (R := Chained) (fun _ _ _ => Chained.trans) (fun t (f : Nat × Fibre) => t.saveChain_chain crew f.1) _ _ (LogWork.refl s).chain

end Sys2Proof.Machine
end

section
/-! PROOF. The image of a crew whose save ends (R20, R302, R372). -/

namespace Sys2Proof.Machine

open Sys2Proof.Terms

theorem State.tellDest_frame (s : State) (id : MsgId) (m : LinkMsg) : ∃ out ports, s.tellDest id m = { s with linkOut := out, ports := ports } := by
  obtain ⟨ports, h⟩ := s.tellChip_frame (s.chipId id.gang id.dst) m
  exact ⟨_, ports, h⟩

theorem State.pauseSend_frame (s : State) (x : Nat × Send) :
    ∃ sends out ports, s.pauseSend x = { s with sends := sends, linkOut := out, ports := ports } := by
  unfold State.pauseSend
  dsimp only
  split
  · obtain ⟨out, ports, h⟩ :=
      State.tellDest_frame { s with sends := kset s.sends x.1 { x.2 with paused := true, grants := [] } } x.2.id (.pause x.2.id)
    exact ⟨_, out, ports, h⟩
  · exact ⟨_, s.linkOut, s.ports, rfl⟩

theorem State.pauseSends_frame (l : List (Nat × Send)) (s : State) :
    ∃ sends out ports, l.foldl State.pauseSend s = { s with sends := sends, linkOut := out, ports := ports } := by
  induction l generalizing s with
  | nil => exact ⟨s.sends, s.linkOut, s.ports, rfl⟩
  | cons x l ih =>
    obtain ⟨sends, out, ports, h⟩ := s.pauseSend_frame x
    obtain ⟨sends', out', ports', h'⟩ := ih (s.pauseSend x)
    exact ⟨sends', out', ports', by rw [List.foldl_cons, h', h]⟩

/-- A crew as its image takes its engine work in: its engines' arrivals withdrawn, and its claims without pairs. -/
def Crew.withoutEngines (c : Crew) : Crew := { c.withdraw with claims := c.claims.map fun k => { k with pair := none } }

/-- The engine work taken into an image changes no memory, and of the crews only this one. -/
theorem State.saveEngines_frame (s : State) (crew : Nat) : ∃ ops pages sends out ports clusters, s.saveEngines crew =
    State.modCrew { s with ops := ops, pages := pages, sends := sends, linkOut := out, ports := ports, clusters := clusters } crew
      Crew.withoutEngines := by
  unfold State.saveEngines
  dsimp only
  obtain ⟨sends, out, ports, h⟩ := State.pauseSends_frame _ _
  rw [h]
  exact ⟨_, _, sends, out, ports, _, rfl⟩

theorem State.wakeRange_of_awake {s : State} (h : s.gated = []) (cluster addr n : Nat) : s.wakeRange cluster addr n = s := by
  simp [State.wakeRange, h]

/-- A crew as its image, saved at a tick with the bytes of its scratchpad (R20, R372). -/
structure ImageOf (c d : Crew) (tick : Nat) (bytes : List Byte) : Prop where
  life : d.life = .saved
  savedAt : d.savedAt = tick
  g : d.g = c.g
  groups : d.groups = []
  scratch : d.scratchImage = bytes
  fibres : d.fibres = kmap c.fibres fun _ f => f.saved

/-- The registers and the scratchpad of a crew taken into its image. -/
theorem State.saveBody_image {s : State} {crew : Nat} {c : Crew} (hc : kget s.crews crew = some c) (hlife : c.life = .saving)
    (hg : s.gated = []) (tag : RelTag) : ∃ cores f, s.saveBody crew tag = State.modCrew { s with cores := cores } crew f ∧
      ImageOf c (f c) s.tick (s.readScratch (clusterOf c.core) c.scratchArea.base c.scratchArea.limit) := by
  unfold State.saveBody
  rw [State.crew_of_kget hc]
  dsimp only
  rw [State.wakeRange_of_awake hg, hlife]
  exact ⟨_, _, rfl, rfl, rfl, rfl, rfl, rfl, rfl⟩

/-- The end of a save, once every write has reached its home, changes no memory, and of the crew makes its image. -/
theorem State.image_after {s : State} {crew : Nat} {c : Crew} (hc : kget s.crews crew = some c) (hlife : c.life = .saving) (hg : s.gated = [])
    (core : Nat) (tag : RelTag) : ∃ t d, (((s.release core .system).1.saveEngines crew).saveBody crew tag) = t ∧
      t.dev = s.dev ∧ t.host = s.host ∧ t.scratch = s.scratch ∧ t.hostOut = s.hostOut ∧ kget t.crews crew = some d ∧
      ImageOf c d s.tick (s.readScratch (clusterOf c.core) c.scratchArea.base c.scratchArea.limit) := by
  obtain ⟨ops, pages, sends, out, ports, clusters, hengines⟩ := (s.release core .system).1.saveEngines_frame crew
  have hc' : kget ((s.release core .system).1.saveEngines crew).crews crew = some c.withoutEngines := by
    rw [hengines]
    exact (kget_kmod_self s.crews crew Crew.withoutEngines).trans (by rw [hc, Option.map_some])
  have hg' : ((s.release core .system).1.saveEngines crew).gated = [] := by rw [hengines]; exact hg
  obtain ⟨cores, f, hbody, himage⟩ := State.saveBody_image hc' hlife hg' tag
  refine ⟨_, f c.withoutEngines, rfl, ?_⟩
  rw [hbody]
  rw [hengines] at himage ⊢
  refine ⟨rfl, rfl, rfl, rfl, ?_, ?_⟩
  · rw [hengines] at hc'
    exact (kget_kmod_self _ crew f).trans (by rw [hc', Option.map_some])
  · obtain ⟨hl, hs, hgr, hgs, hsc, hf⟩ := himage
    exact ⟨hl, hs, hgr, hgs, hsc, hf⟩

/-- The save of a crew with nothing in flight: its segments and its writes reach their homes, and its image is taken. -/
theorem State.saveCrew_of_idle {s u v w : State} {crew : Nat} {c : Crew} (hc : kget s.crews crew = some c) (hlife : c.life = .saving)
    (hgroups : ∀ g ∈ c.groups, g.2.hints.pending = false) (hops : s.ops = []) (hpages : s.pages = [])
    (hsaddle : s.saveSaddle c.core crew = (u, .ok ())) (hdrain : u.drain (u.agentOf c.core) = (v, none))
    (hchains : v.saveChains crew = (w, .ok ())) :
    s.saveCrew crew = ((w.release c.core .system).1.saveEngines crew).saveBody crew (w.release c.core .system).2 := by
  have hquiet : (c.groups.any fun g => g.2.hints.pending) = false :=
    List.any_eq_false.mpr fun g hg => by rw [hgroups g hg]; exact Bool.false_ne_true
  have hopen : s.frameOpen crew = false := by rw [State.frameOpen, hops, List.any_nil]
  have hwaits : s.pageWaits (.crew crew 0x9F) = false := by rw [State.pageWaits, hpages, List.any_nil]
  have hsaving : ¬(!(c.life == .saving || c.life == .halting)) = true := by rw [hlife]; decide
  unfold State.saveCrew
  simp only [hops, List.foldl_nil, State.crew_of_kget hc, hquiet, hopen, hwaits, hsaddle, hdrain, hchains, Bool.or_false]
  rw [if_neg hsaving, if_neg hsaving]

end Sys2Proof.Machine
end

section
/-! PROOF. Pipelines that begin to be saved (R26, R370), and a crew that is flushed (R370). -/

namespace Sys2Proof.Machine

open Sys2Proof.Terms

/-! ## Pipelines that begin to be saved -/

theorem mem_of_kget {α : Type} {m : KMap α} {k : Nat} {a : α} (h : kget m k = some a) : (k, a) ∈ m := by
  induction m with
  | nil => cases h
  | cons x m ih =>
    obtain ⟨j, b⟩ := x
    rw [kget] at h
    split at h
    · next hk => cases h; rw [hk]; exact List.mem_cons_self ..
    · exact List.mem_cons_of_mem _ (ih h)

/-- A change that is the same made twice, at the keys of a list. -/
theorem State.kget_foldl_modCrew {f : Crew → Crew} (hf : ∀ c, f (f c) = f c) (l : List (Nat × Crew)) (s : State) (k : Nat) :
    kget (l.foldl (fun (t : State) d => t.modCrew d.1 f) s).crews k =
      if k ∈ l.map Prod.fst then (kget s.crews k).map f else kget s.crews k := by
  induction l generalizing s with
  | nil => rfl
  | cons x l ih =>
    rw [List.foldl_cons, ih, List.map_cons]
    by_cases hk : k = x.1
    · subst hk
      simp [State.modCrew, hf, Function.comp_def]
    · have hmem : k ∈ x.1 :: l.map Prod.fst ↔ k ∈ l.map Prod.fst := by simp [hk]
      simp only [hmem, State.modCrew, kget_kmod_ne _ _ hk]

theorem State.foldl_modCrew_frame (f : Crew → Crew) (l : List (Nat × Crew)) (s : State) :
    l.foldl (fun (t : State) d => t.modCrew d.1 f) s = { s with crews := (l.foldl (fun (t : State) d => t.modCrew d.1 f) s).crews } := by
  induction l generalizing s with
  | nil => rfl
  | cons x l ih => rw [List.foldl_cons, ih]; rfl

/-- The running crews of a pipeline, or those that drain too, begin to be saved, where none of it starts or is restored (R26). -/
theorem State.savePipe_spec {s : State} {c : Crew} (hrising : Rising s.crews)
    (hfree : ∀ d ∈ s.pipeline c, d.2.life ≠ .starting ∧ d.2.life ≠ .restoring) (draining : Bool) :
    s.savePipe c draining = { s with crews := (s.savePipe c draining).crews } ∧ ∀ k d, kget s.crews k = some d →
      kget (s.savePipe c draining).crews k =
        some (if (k, d) ∈ s.pipeline c ∧ (d.life = .running ∨ draining = true ∧ d.life = .draining) then { d with life := .saving } else d) := by
  have hnone : ((s.pipeline c).any fun d => d.2.life == .starting || d.2.life == .restoring) = false := by
    refine List.any_eq_false.mpr fun d hd => ?_
    simp [hfree d hd]
  unfold State.savePipe
  simp only [hnone, Bool.false_eq_true, if_false]
  refine ⟨State.foldl_modCrew_frame _ _ s, fun k d hd => ?_⟩
  refine (State.kget_foldl_modCrew (f := fun x => { x with life := .saving }) (fun _ => rfl) _ s k).trans ?_
  rw [hd, Option.map_some]
  have hkey : (k ∈ ((s.pipeline c).filter fun d => d.2.life == .running || (draining && d.2.life == .draining)).map Prod.fst) ↔
      (k, d) ∈ s.pipeline c ∧ (d.life = .running ∨ draining = true ∧ d.life = .draining) := by
    constructor
    · intro h
      obtain ⟨⟨j, e⟩, he, rfl⟩ := List.mem_map.mp h
      obtain ⟨hpipe, hlife⟩ := List.mem_filter.mp he
      obtain rfl : e = d := Option.some.inj ((kget_of_rising hrising (List.mem_of_mem_filter hpipe)).symm.trans hd)
      exact ⟨hpipe, by simpa using hlife⟩
    · rintro ⟨hpipe, hlife⟩
      exact List.mem_map.mpr ⟨(k, d), List.mem_filter.mpr ⟨hpipe, by simpa using hlife⟩, rfl⟩
  simp only [hkey]
  split <;> rfl

/-! ## Reports and cancelled bulk transfers -/

theorem State.sendVector_frame (s : State) (v : Nat) : ∃ vectors out, s.sendVector v = { s with vectors := vectors, hostOut := out } := by
  unfold State.sendVector
  dsimp only
  split
  · exact ⟨s.vectors, s.hostOut, rfl⟩
  · exact ⟨_, _, rfl⟩

/-- The message of a vector, sent where a condition holds. -/
theorem State.sendVectorIf_frame (s : State) (p : Prop) [Decidable p] (v : Nat) :
    ∃ vectors out, (if p then s.sendVector v else s) = { s with vectors := vectors, hostOut := out } := by
  split
  · exact s.sendVector_frame v
  · exact ⟨s.vectors, s.hostOut, rfl⟩

theorem State.vectorEvent_frame (s : State) (v head : Nat) : ∃ vectors out, s.vectorEvent v head = { s with vectors := vectors, hostOut := out } :=
  State.sendVectorIf_frame { s with vectors := kset s.vectors v { s.vector v with
    pend := ((s.vector v).pend + 1) % 65536, first := if (s.vector v).pend = 0 then s.tick else (s.vector v).first, head := head } } _ v

theorem State.vectorEvent_log (s : State) (v head : Nat) : LogWork s (s.vectorEvent v head) := by
  obtain ⟨vectors, out, h⟩ := s.vectorEvent_frame v head
  rw [h]
  exact .of_crews rfl rfl rfl rfl rfl

theorem State.modHead_log (s : State) (h : Nat) (f : Head → Head) : LogWork s (s.modHead h f) := .of_crews rfl rfl rfl rfl rfl

theorem State.toHost_log (s : State) (r : Report) : LogWork s (s.toHost r) := by
  unfold State.toHost
  split
  · refine .trans ?_ (State.vectorEvent_log _ _ _)
    refine .trans ?_ (State.modHead_log _ _ _)
    exact .of_crews rfl rfl rfl rfl rfl
  · exact .of_crews rfl rfl rfl rfl rfl

theorem State.gangReport_log (s : State) (gang : Nat) (c : Cause) (fid pc : Nat) : LogWork s (s.gangReport gang c fid pc) := by
  unfold State.gangReport
  obtain ⟨log, waiting, h | h⟩ := s.report_cases _
  · rw [h]
    exact .of_crews rfl rfl rfl rfl rfl
  · rw [h]
    refine .trans ?_ (State.toHost_log _ _)
    exact .of_crews rfl rfl rfl rfl rfl

/-- Steps that may log races, for each member of a list. -/
theorem LogWork.foldl {β : Type} {f : State → β → State} (hf : ∀ s x, LogWork s (f s x)) (l : List β) (s : State) :
    LogWork s (l.foldl f s) := by
  induction l generalizing s with
  | nil => exact .refl s
  | cons x l ih => exact (hf s x).trans (ih (f s x))

theorem State.reportRaces_log (s : State) (crew : Nat) : LogWork s (s.reportRaces crew) := by
  unfold State.reportRaces
  dsimp only
  refine .trans ?_ (State.modCrew_work Logged.refl _ _ fun c => ⟨rfl⟩)
  have entries := LogWork.foldl (fun t (e : RaceEntry) => t.gangReport_log (s.crew crew).gang e.cause noFibre e.va) (s.crew crew).raceLog s
  split
  · exact entries.trans (State.gangReport_log _ _ _ _ _)
  · exact entries

theorem State.lastRecord_log (s : State) (pasid : Nat) (r : Recv) (e : RecvEnd) : LogWork s (s.lastRecord pasid r e) := by
  have h := (s.engineXl_work pasid r.record .store).log
  unfold State.lastRecord
  split
  · exact .refl s
  · split
    · next hx => rw [hx] at h; exact h.trans (State.engineWrite_log _ _ _ _ _ _)
    · exact .refl s

/-- A message to the sender of a message, where it is told. -/
theorem State.tellSourceIf_log (s : State) (p : Prop) [Decidable p] (id : MsgId) (m : LinkMsg) :
    LogWork s (if p then s.tellSource id m else s) := by
  split
  · exact (s.tellChip_work _ _).log
  · exact .refl s

theorem State.cancelRecv_log (s : State) (x : Nat × Recv) : LogWork s (s.cancelRecv x) := by
  unfold State.cancelRecv
  dsimp only
  generalize hr : State.lastRecord _ _ _ _ = t
  have h : LogWork s t := hr ▸ s.lastRecord_log _ _ _
  refine h.trans ?_
  split
  · refine .trans ?_ (State.tellSourceIf_log _ _ _ _)
    exact .of_crews rfl rfl rfl rfl rfl
  · exact .of_crews rfl rfl rfl rfl rfl

theorem State.cancelSend_frame (s : State) (x : Nat × Send) : ∃ ops out ports, s.cancelSend x =
    { s with sends := kdel s.sends x.1, ops := ops, linkOut := out, ports := ports } := by
  unfold State.cancelSend
  dsimp only
  split
  · obtain ⟨out, ports, h⟩ := State.tellDest_frame (State.answerCancels { s with sends := kdel s.sends x.1 } x.2 1) x.2.id (.peerFault x.2.id false)
    exact ⟨_, out, ports, h⟩
  · exact ⟨_, s.linkOut, s.ports, rfl⟩

/-- Sends cancelled leave the others, and the crews as they were. -/
theorem State.foldl_cancelSend (l : List (Nat × Send)) (s : State) : (l.foldl State.cancelSend s).crews = s.crews ∧
    ∀ x ∈ (l.foldl State.cancelSend s).sends, x ∈ s.sends ∧ ∀ y ∈ l, x.1 ≠ y.1 := by
  induction l generalizing s with
  | nil => exact ⟨rfl, fun x hx => ⟨hx, nofun⟩⟩
  | cons y l ih =>
    obtain ⟨ops, out, ports, h⟩ := s.cancelSend_frame y
    obtain ⟨hcrews, hsends⟩ := ih (s.cancelSend y)
    refine ⟨by rw [List.foldl_cons, hcrews, h], fun x hx => ?_⟩
    obtain ⟨hx, hne⟩ := hsends x hx
    rw [h] at hx
    obtain ⟨hx, hy⟩ := List.mem_filter.mp hx
    refine ⟨hx, fun z hz => ?_⟩
    rcases List.mem_cons.mp hz with rfl | hz
    · exact bne_iff_ne.mp hy
    · exact hne z hz

/-- Of a crew whose bulk transfers are cancelled no send is left. -/
theorem State.cancelBulk_spec (s : State) (crew : Nat) :
    (∀ k c, kget s.crews k = some c → ∃ d, kget (s.cancelBulk crew).crews k = some d ∧ Logged c d) ∧
      ∀ x ∈ (s.cancelBulk crew).sends, x.2.crew ≠ crew := by
  obtain ⟨hcrews, hsends⟩ := State.foldl_cancelSend (s.sends.filter fun e => e.2.crew == crew) s
  have work : LogWork ((s.sends.filter fun e => e.2.crew == crew).foldl State.cancelSend s) (s.cancelBulk crew) :=
    LogWork.foldl State.cancelRecv_log _ _
  refine ⟨fun k c hc => work.crews k c (by rw [hcrews]; exact hc), fun x hx hcrew => ?_⟩
  rw [work.sends] at hx
  obtain ⟨hmem, hne⟩ := hsends x hx
  exact hne x (List.mem_filter.mpr ⟨hmem, by rw [hcrew]; exact beq_self_eq_true crew⟩) rfl

/-! ## A flush -/

/-- What a flushed crew's work leaves: no operation of it, its sends, and its lists and tags. -/
theorem State.clearCrew_spec {s : State} {crew : Nat} {c : Crew} (hc : kget s.crews crew = some c) (life : Life) :
    (∃ d, kget (s.clearCrew crew life false).crews crew = some d ∧ d.records = c.records ∧ d.tags = c.tags) ∧
      (s.clearCrew crew life false).sends = s.sends ∧ ∀ o ∈ (s.clearCrew crew life false).ops, o.2.issuer ≠ crew := by
  unfold State.clearCrew
  dsimp only
  refine ⟨?_, ?_, fun o ho => ?_⟩
  · split <;> simp [State.modCrew, State.modCore, State.modCluster, hc]
  · split <;> rfl
  · simpa using (List.mem_filter.mp ho).2

/-- The first part of a flush: the core drained, its release closed, and the crew's races reported (R210, R370). -/
def State.flushed (s : State) (crew : Nat) : State :=
  let c := s.crew crew
  let t := s.modCore c.core fun k => { k with saddle := k.saddle.filter fun g => g.2.crew != crew }
  let r := (t.drain (t.agentOf c.core)).1.release c.core .system
  (r.1.closeTags [r.2]).reportRaces crew

theorem State.flushed_log (s : State) (crew : Nat) : LogWork s (s.flushed crew) := by
  unfold State.flushed
  dsimp only
  refine .trans ?_ (State.reportRaces_log _ _)
  refine .trans ?_ (State.closeTags_work _ _).log
  refine .trans ?_ (State.release_work _ _ _ _).log
  exact (s.modCore_work _ _).log.trans (State.drain_log _ _)

theorem State.flushCrew_eq {s : State} {crew : Nat} {c : Crew} {g : Gang} (hc : kget s.crews crew = some c) (hg : kget s.gangs c.gang = some g) :
    s.flushCrew crew = (((s.flushed crew).cancelBulk crew).clearCrew crew .flushing false).modCrew crew fun x =>
      { launchCrew c.gang g (c.x, c.y, c.z) c.stage c.frameArea.base with records := x.records, tags := x.tags } := by
  unfold State.flushCrew State.flushed
  rw [State.crew_of_kget hc]
  dsimp only
  rw [hg]

/-- A crew flushed is in its launch state with the lists of its segments and its tags, and none of its work is left (R370). -/
theorem State.flushCrew_spec {s : State} {crew : Nat} {c : Crew} {g : Gang} (hc : kget s.crews crew = some c) (hg : kget s.gangs c.gang = some g) :
    kget (s.flushCrew crew).crews crew =
        some { launchCrew c.gang g (c.x, c.y, c.z) c.stage c.frameArea.base with records := c.records, tags := c.tags } ∧
      (∀ o ∈ (s.flushCrew crew).ops, o.2.issuer ≠ crew) ∧ ∀ x ∈ (s.flushCrew crew).sends, x.2.crew ≠ crew := by
  obtain ⟨d, hd, hcd⟩ := (s.flushed_log crew).crews crew c hc
  obtain ⟨hbulk, hsends⟩ := (s.flushed crew).cancelBulk_spec crew
  obtain ⟨e, he, hde⟩ := hbulk crew d hd
  obtain ⟨⟨x, hx, hrecords, htags⟩, hkept, hops⟩ := State.clearCrew_spec he .flushing
  have hlists : x.records = c.records ∧ x.tags = c.tags := by
    rw [hrecords, htags, hde.eq, hcd.eq]
    exact ⟨rfl, rfl⟩
  rw [State.flushCrew_eq hc hg, State.modCrew_ops, State.modCrew_sends, hkept]
  generalize ((s.flushed crew).cancelBulk crew).clearCrew crew .flushing false = v at hx hops
  refine ⟨?_, hops, hsends⟩
  rw [State.modCrew, kget_kmod_self, hx, Option.map_some, hlists.1, hlists.2]

end Sys2Proof.Machine
end

section
/-! PROOF. A crew restored from its image (R371): with loose fibres and nothing in flight, it runs again with the registers of its image. -/

namespace Sys2Proof.Machine

open Sys2Proof.Terms

/-! ## What leaves the crews alone -/

/-- From s to t no crew, operation, send or message to a host has changed. -/
structure SameCrews (s t : State) : Prop where
  crews : t.crews = s.crews
  ops : t.ops = s.ops
  sends : t.sends = s.sends
  hostOut : t.hostOut = s.hostOut

theorem SameCrews.refl (s : State) : SameCrews s s := ⟨rfl, rfl, rfl, rfl⟩

theorem SameCrews.trans {s t u : State} (h : SameCrews s t) (g : SameCrews t u) : SameCrews s u :=
  ⟨g.crews.trans h.crews, g.ops.trans h.ops, g.sends.trans h.sends, g.hostOut.trans h.hostOut⟩

theorem SameCrews.modCrew {s t : State} (h : SameCrews s t) (k : Nat) (f : Crew → Crew) : SameCrews (s.modCrew k f) (t.modCrew k f) :=
  ⟨by rw [State.modCrew, h.crews, State.modCrew], h.ops, h.sends, h.hostOut⟩

theorem State.wake_same (s : State) (u : GateUnit) : SameCrews s (s.wake u) := by
  unfold State.wake
  cases u <;> exact ⟨rfl, rfl, rfl, rfl⟩

theorem State.wakeRange_same (s : State) (cluster addr n : Nat) : SameCrews s (s.wakeRange cluster addr n) := by
  unfold State.wakeRange
  generalize s.gated.filter (fun u => gateCovers u cluster addr n) = l
  induction l generalizing s with
  | nil => exact .refl s
  | cons u l ih => exact (s.wake_same u).trans (ih (s.wake u))

theorem State.writeScratch_same (s : State) (cluster addr : Nat) (bs : List Byte) : SameCrews s (s.writeScratch cluster addr bs) :=
  ⟨rfl, rfl, rfl, rfl⟩

theorem State.startFence_same (s : State) (core : Nat) : SameCrews s (s.startFence core) := ⟨rfl, rfl, rfl, rfl⟩

/-- With no send there is none to start. -/
theorem State.startSends_of_nil {s : State} (h : s.sends = []) : s.startSends = s := by
  simp [State.startSends, State.kickSends, State.sendTable, kfind, h]

/-- With no operation and no send, the engine work of a crew is its claims alone. -/
theorem State.restoreEngines_same {s : State} (hops : s.ops = []) (hsends : s.sends = []) (crew core : Nat) :
    SameCrews s (s.restoreEngines crew core) := by
  unfold State.restoreEngines
  dsimp only
  rw [show ∀ cl f, (State.modCluster { s with ops := kmap s.ops fun _ o => if o.issuer = crew then { o with core := core } else o } cl f).sends = []
    from fun _ _ => hsends, List.filter_nil, List.foldl_nil, State.startSends_of_nil]
  · exact ⟨rfl, by rw [hops]; rfl, rfl, rfl⟩
  · exact hsends

/-! ## The fibres of a restored crew -/

theorem Crew.rearrive_frame (l : List Nat) (c : Crew) : ∃ bars, l.foldl Crew.rearrive c = { c with bars := bars } := by
  induction l generalizing c with
  | nil => exact ⟨c.bars, rfl⟩
  | cons n l ih =>
    obtain ⟨bars, h⟩ := ih (c.rearrive n)
    exact ⟨bars, h⟩

/-- Steps that add operations, for each member of a list. -/
theorem foldl_addOps {β : Type} {f : State → β → State} (hf : ∀ s x, ∃ ops next, f s x = { s with ops := ops, nextId := next }) (l : List β)
    (s : State) : ∃ ops next, l.foldl f s = { s with ops := ops, nextId := next } := by
  induction l generalizing s with
  | nil => exact ⟨s.ops, s.nextId, rfl⟩
  | cons x l ih =>
    obtain ⟨ops, next, h⟩ := hf s x
    obtain ⟨ops', next', h'⟩ := ih (f s x)
    exact ⟨ops', next', by rw [List.foldl_cons, h', h]⟩

/-- A replay list issued again adds operations, and is empty. -/
theorem State.reissue_frame (s : State) (crew fid : Nat) : ∃ ops next, s.reissue crew fid =
    State.modFibre { s with ops := ops, nextId := next } crew fid fun f => { f with replay := [] } := by
  unfold State.reissue
  dsimp only
  refine (foldl_addOps ?_ _ s).imp fun ops h => h.imp fun next e =>
    congrArg (fun t : State => t.modFibre crew fid fun f => { f with replay := [] }) e
  exact fun t r => ⟨_, _, rfl⟩

/-- A crew that is restored, on its way: it runs with its window, uniform registers, core and no join record; its fibres are as in its image
but for their replay lists and states, none is parked, and those of which P holds have issued their replay lists again. -/
structure Resuming (c : Crew) (win : List Byte) (out : List HostOut) (crew : Nat) (P : Nat → Prop) (u : State) : Prop where
  hostOut : u.hostOut = out
  crew : ∃ d, kget u.crews crew = some d ∧ d.life = .running ∧ d.window = win ∧ d.g = c.g ∧ d.home = c.home ∧ d.joins = [] ∧
    ∀ n f, kget c.fibres n = some f → ∃ x, kget d.fibres n = some x ∧ x = { f with replay := x.replay, st := x.st } ∧ x.st.isParked = false ∧
      (P n → x.replay = [])

namespace Resuming

variable {c : Crew} {win : List Byte} {out : List HostOut} {crew : Nat} {P Q : Nat → Prop} {u v : State}

/-- A change of one fibre's replay list and state. -/
theorem step (h : Resuming c win out crew P u) {fid : Nat} {g : Fibre → Fibre} (hout : v.hostOut = u.hostOut)
    (hcrews : v.crews = (u.modFibre crew fid g).crews) (hg : ∀ x, g x = { x with replay := (g x).replay, st := (g x).st })
    (hst : ∀ x, x.st.isParked = false → (g x).st.isParked = false) (hr : ∀ x, x.replay = [] → (g x).replay = [])
    (hQ : ∀ n, Q n → P n ∨ n = fid ∧ ∀ x, (g x).replay = []) : Resuming c win out crew Q v := by
  obtain ⟨hostOut, d, hd, hlife, hwin, hgs, hhome, hjoins, hfibres⟩ := h
  refine ⟨hout.trans hostOut, d.modFibre fid g, ?_, hlife, hwin, hgs, hhome, hjoins, fun n f hf => ?_⟩
  · rw [hcrews, State.modFibre, State.modCrew, kget_kmod_self, hd, Option.map_some]
  · obtain ⟨x, hx, heq, hparked, hreplay⟩ := hfibres n f hf
    by_cases hn : n = fid
    · subst hn
      refine ⟨g x, by simp [Crew.modFibre, hx], ?_, hst x hparked, fun hq => ?_⟩
      · rw [hg x, heq]
      · rcases hQ n hq with hp | ⟨-, hall⟩
        · exact hr x (hreplay hp)
        · exact hall x
    · refine ⟨x, by simp [Crew.modFibre, hn, hx], heq, hparked, fun hq => ?_⟩
      rcases hQ n hq with hp | ⟨hne, -⟩
      · exact hreplay hp
      · exact absurd hne hn

/-- The replay list of a fibre issued again. -/
theorem reissue (h : Resuming c win out crew P u) (fid : Nat) : Resuming c win out crew (fun n => P n ∨ n = fid) (u.reissue crew fid) := by
  obtain ⟨ops, next, hre⟩ := u.reissue_frame crew fid
  rw [hre]
  exact h.step (fid := fid) (g := fun f => { f with replay := [] }) rfl rfl (fun x => rfl) (fun x hx => hx) (fun x _ => rfl)
    fun n hn => hn.imp_right fun e => ⟨e, fun x => rfl⟩

/-- A fibre enters the convergence table. -/
theorem enter (h : Resuming c win out crew P u) (fid : Nat) : Resuming c win out crew P (u.enter crew fid) := by
  unfold State.enter
  dsimp only
  split
  · exact h.step (fid := fid) (g := fun f => { f with st := .overflow }) rfl rfl (fun x => rfl) (fun x _ => rfl) (fun x hx => hx) fun n hn => .inl hn
  · exact h.step (fid := fid) (g := fun f => { f with st := .loose (u.core (u.crew crew).core).cycle }) rfl rfl (fun x => rfl) (fun x _ => rfl)
      (fun x hx => hx) fun n hn => .inl hn

/-- A fibre that is not parked goes on. -/
theorem wakeRestored (h : Resuming c win out crew P u) {fid : Nat} (hfid : (kget c.fibres fid).isSome) :
    Resuming c win out crew P (u.wakeRestored crew fid) := by
  obtain ⟨f, hf⟩ := Option.isSome_iff_exists.mp hfid
  obtain ⟨-, d, hd, -, -, -, -, -, hfibres⟩ := id h
  obtain ⟨x, hx, -, hparked, -⟩ := hfibres fid f hf
  have hfibre : (u.crew crew).fibre fid = x := by rw [State.crew_of_kget hd, Crew.fibre_of_kget hx]
  unfold State.wakeRestored
  rw [hfibre]
  cases hst : x.st with
  | parked p => rw [hst] at hparked; cases hparked
  | loose n => exact h.enter fid
  | formed g => exact h.enter fid
  | overflow => exact h.enter fid

/-- No join register releases a fibre. -/
theorem checkJoins (h : Resuming c win out crew P u) (l : List Nat) : l.foldl (fun (u : State) j => u.checkJoin crew j) u = u := by
  obtain ⟨-, d, hd, -, -, -, -, hjoins, -⟩ := h
  have one : ∀ j, u.checkJoin crew j = u := fun j => by
    simp [State.checkJoin, State.crew_of_kget hd, Crew.join, hjoins, kgetD, kget_nil]
  induction l with
  | nil => rfl
  | cons j l ih => rw [List.foldl_cons, one, ih]

theorem reissues (h : Resuming c win out crew P u) (l : List Nat) :
    Resuming c win out crew (fun n => P n ∨ n ∈ l) (l.foldl (fun (u : State) f => u.reissue crew f) u) := by
  induction l generalizing u P with
  | nil => simpa using h
  | cons fid l ih =>
    have all := ih (h.reissue fid)
    simpa only [List.foldl_cons, List.mem_cons, or_assoc] using all

theorem wakes (h : Resuming c win out crew P u) {l : List Nat} (hl : ∀ fid ∈ l, (kget c.fibres fid).isSome) :
    Resuming c win out crew P (l.foldl (fun (u : State) f => u.wakeRestored crew f) u) := by
  induction l generalizing u with
  | nil => exact h
  | cons fid l ih =>
    exact ih (h.wakeRestored (hl fid (List.mem_cons_self ..))) fun n hn => hl n (List.mem_cons_of_mem _ hn)

end Resuming

/-! ## The image loaded -/

/-- A crew as its image on a new core, without completions that have waited in it. -/
theorem Crew.loaded_frame (c : Crew) (tick : Nat) (win : List Byte) (core : Nat) : ∃ bars held, c.loaded tick win core =
    { c with life := .running, window := win, withdrawn := [], scratchImage := [], deferred := [], saveTag := none, late := []
             savedTicks := c.savedTicks + (tick - c.savedAt), bars := bars, held := held } := by
  obtain ⟨bars, h⟩ := Crew.rearrive_frame c.withdrawn c
  unfold Crew.loaded
  rw [h]
  exact ⟨bars, _, rfl⟩

/-- A crew of loose fibres with no chain of replay segments, as it stands once its image is loaded. -/
theorem Resuming.of_loaded {c : Crew} {crew tick core : Nat} {win : List Byte} {v : State} (hc : kget v.crews crew = some (c.loaded tick win core))
    (hjoins : c.joins = []) (hfibres : ∀ f ∈ c.fibres, (∃ n, f.2.st = .loose n) ∧ f.2.chain = []) :
    Resuming c win v.hostOut crew (fun _ => False) (v.freeChains crew) := by
  obtain ⟨bars, held, hloaded⟩ := c.loaded_frame tick win core
  rw [hloaded] at hc
  have chains : c.fibres.flatMap (fun f => f.2.chain) = [] := List.flatMap_eq_nil_iff.mpr fun f hf => (hfibres f hf).2
  unfold State.freeChains
  rw [State.crew_of_kget hc]
  dsimp only
  rw [chains, List.foldl_nil]
  refine ⟨rfl, _, (kget_kmod_self _ _ _).trans (congrArg (Option.map _) hc), rfl, rfl, rfl, rfl, hjoins, fun n f hf => ?_⟩
  obtain ⟨⟨k, hloose⟩, hchain⟩ := hfibres (n, f) (mem_of_kget hf)
  refine ⟨{ f with chain := [] }, ?_, ?_, ?_, False.elim⟩
  · exact (kget_kmap c.fibres (fun _ f => { f with chain := [] }) n).trans (congrArg (Option.map _) hf)
  · rw [← hchain]
  · change f.st.isParked = false
    change f.st = .loose k at hloose
    rw [hloose]; rfl

/-- The image of a crew with nothing in flight loaded on its core: its fibres issue their replay lists again, and go on. -/
theorem State.loadCrew_of_quiet {s t : State} {crew : Nat} {c : Crew} {win : List Byte} (hc : kget s.crews crew = some c)
    (hlife : c.life = .restoring) (himage : c.image = true) (htag : c.saveTag = none) (hdeferred : c.deferred = []) (hlate : c.late = [])
    (hpages : s.pages = []) (hwindow : s.loadWindow crew = (t, .ok win)) (hops : t.ops = []) (hsends : t.sends = []) :
    ∃ tick v, SameCrews (t.modCrew crew fun x => x.loaded tick win c.core) v ∧ s.loadCrew crew =
      (List.range 8).foldl (fun (u : State) j => u.checkJoin crew j) ((c.fibres.map Prod.fst).foldl (fun (u : State) f => u.wakeRestored crew f)
        ((c.fibres.map Prod.fst).foldl (fun (u : State) f => u.reissue crew f) (v.freeChains crew))) := by
  have hwaits : s.pageWaits (.crew crew 0xA3) = false := by rw [State.pageWaits, hpages, List.any_nil]
  have fenced := ((t.wakeRange_same (clusterOf c.core) c.scratchArea.base c.scratchArea.limit).trans
    (State.writeScratch_same _ (clusterOf c.core) c.scratchArea.base c.scratchImage)).trans (State.startFence_same _ c.core)
  generalize hu : State.startFence _ c.core = u at fenced
  have engines := State.restoreEngines_same (s := u.modCrew crew fun x => x.loaded u.tick win c.core) (fenced.ops.trans hops)
    (fenced.sends.trans hsends) crew c.core
  refine ⟨u.tick, _, (fenced.modCrew crew _).trans engines, ?_⟩
  have noOps : ((u.modCrew crew fun x => x.loaded u.tick win c.core).restoreEngines crew c.core).ops = [] :=
    engines.ops.trans (fenced.ops.trans hops)
  unfold State.loadCrew
  rw [State.crew_of_kget hc]
  simp only [hlife, hwaits, himage, hwindow, htag, hdeferred, hlate, hu, List.foldl_nil, State.applyLate, noOps]
  rfl

theorem kget_isSome_of_mem {α : Type} {m : KMap α} {k : Nat} (h : k ∈ m.map Prod.fst) : (kget m k).isSome := by
  induction m with
  | nil => cases h
  | cons x m ih =>
    rw [kget]
    split
    · rfl
    · next hk => exact ih ((List.mem_cons.mp h).resolve_left hk)

/-- A pipeline of which one crew alone is being restored goes on with it. -/
theorem State.restorePipe_of_restoring {s : State} {crew : Nat} {c : Crew} (hc : kget s.crews crew = some c) (hlife : c.life = .restoring)
    (hone : (s.pipeline c).filter (fun d => d.2.life == .restoring) = [(crew, c)]) (die x0 y0 : Nat) :
    s.restorePipe crew die x0 y0 = s.loadCrew crew := by
  have hwaits : c.waits = false := by rw [Crew.waits, hlife]; rfl
  have noTurn : ∀ p : Gang → Bool, ((kget s.gangs c.gang).filter fun g => c.waits && p g) = none := fun p =>
    Option.filter_eq_none_iff.mpr fun g _ => by rw [hwaits, Bool.false_and]; exact Bool.false_ne_true
  unfold State.restorePipe
  rw [State.crew_of_kget hc]
  dsimp only
  rw [noTurn]
  dsimp only
  rw [hone, List.foldl_cons, List.foldl_nil]

/-- A crew whose image is loaded, of loose fibres and with nothing in flight, runs again with the registers of its image. -/
theorem State.restorePipe_resuming {s t : State} {crew : Nat} {c : Crew} {win : List Byte} (hc : kget s.crews crew = some c)
    (hlife : c.life = .restoring) (himage : c.image = true) (htag : c.saveTag = none) (hdeferred : c.deferred = []) (hlate : c.late = [])
    (hjoins : c.joins = []) (hops : s.ops = []) (hpages : s.pages = []) (hsends : s.sends = [])
    (hone : (s.pipeline c).filter (fun d => d.2.life == .restoring) = [(crew, c)])
    (hfibres : ∀ f ∈ c.fibres, (∃ n, f.2.st = .loose n) ∧ f.2.chain = []) (hwindow : s.loadWindow crew = (t, .ok win)) (die x0 y0 : Nat) :
    Resuming c win t.hostOut crew (fun n => n ∈ c.fibres.map Prod.fst) (s.restorePipe crew die x0 y0) := by
  have work : HomeWork s t := by
    have h := s.engineRead_work (s.crew crew).pasid (s.crew crew).segConst.base (min (s.crew crew).segConst.limit 4096)
    rw [show s.engineRead _ _ _ = (t, .ok win) from hwindow] at h
    exact h
  obtain ⟨tick, v, same, hload⟩ := State.loadCrew_of_quiet hc hlife himage htag hdeferred hlate hpages hwindow (work.ops.trans hops)
    (work.sends.trans hsends)
  have hv : kget v.crews crew = some (c.loaded tick win c.core) := by
    rw [same.crews]
    exact (kget_kmod_self _ _ _).trans (by rw [work.crews, hc, Option.map_some])
  have loaded := Resuming.of_loaded hv hjoins hfibres
  rw [show v.hostOut = t.hostOut from same.hostOut] at loaded
  have resumed := (loaded.reissues (c.fibres.map Prod.fst)).wakes (l := c.fibres.map Prod.fst) fun fid hfid => kget_isSome_of_mem hfid
  rw [State.restorePipe_of_restoring hc hlife hone, hload, resumed.checkJoins]
  simpa only [false_or] using resumed

end Sys2Proof.Machine
end


section
/-! PROOF. The statement about pre-emption. -/

namespace Sys2Proof.Proofs

open Sys2Proof.Machine Sys2Proof.Terms

/-- SAVE_COMPLETE of a crew with nothing in flight (R20). -/
theorem becomes_saveComplete {s u v w : State} {crew : Nat} {c : Crew} (hc : kget s.crews crew = some c) (hlife : c.life = .saving)
    (hgroups : ∀ g ∈ c.groups, g.2.hints.pending = false) (hops : s.ops = []) (hpages : s.pages = []) (hgated : s.gated = [])
    (hsaddle : s.saveSaddle c.core crew = (u, .ok ())) (hdrain : u.drain (u.agentOf c.core) = (v, none))
    (hchains : v.saveChains crew = (w, .ok ())) (hsnoop : NoSnoop s w) :
    Becomes (.saveComplete crew) s fun t => t.dev = w.dev ∧ t.host = w.host ∧ t.scratch = s.scratch ∧ ∃ c', kget t.crews crew = some c' ∧
      c'.life = .saved ∧ c'.savedAt = s.tick ∧ c'.g = c.g ∧ c'.groups = [] ∧
      c'.scratchImage = s.readScratch (clusterOf c.core) c.scratchArea.base c.scratchArea.limit ∧
      ∀ n f, kget c.fibres n = some f → ∃ x, kget c'.fibres n = some x ∧ x.v = f.v ∧ x.p = f.p ∧ x.k = f.k ∧ x.x = f.x ∧ x.pc = f.pc ∧
        x.seg = f.seg ∧ x.effmask = f.effmask ∧ x.fstat = f.fstatNow := by
  have work : ChainWork s w := by
    have h1 := s.saveSaddle_log c.core crew
    have h2 := u.drain_log (u.agentOf c.core)
    have h3 := v.saveChains_chain crew
    rw [hsaddle] at h1
    rw [hdrain] at h2
    rw [hchains] at h3
    exact (h1.trans h2).chain.trans h3
  obtain ⟨d, hd, hcd, hfibres⟩ := work.crews crew c hc
  have hdlife : d.life = .saving := by rw [hcd]; exact hlife
  obtain ⟨t, e, ht, hdev, hhost, hscratch, hout, he, himage⟩ :=
    State.image_after hd hdlife (work.gated.trans hgated) c.core (w.release c.core .system).2
  have hsave := State.saveCrew_of_idle hc hlife hgroups hops hpages hsaddle hdrain hchains
  have hexec : exec (.saveComplete crew) s = .next t := by
    change Host.Outcome.next (s.orSnoop (s.saveCrew crew)) = _
    rw [hsave, ht, State.orSnoop_of_noSnoop ((newSnoops_congr hout).trans hsnoop)]
  refine ⟨t, hexec, hdev, hhost, hscratch.trans work.scratch, e, he, himage.life, himage.savedAt.trans work.tick, ?_, himage.groups, ?_, ?_⟩
  · rw [himage.g, hcd]
  · rw [himage.scratch, hcd, State.readScratch, work.scratch]; rfl
  · intro n f hf
    obtain ⟨l, hl⟩ := hfibres n f hf
    refine ⟨Fibre.saved { f with chain := l }, ?_, rfl, rfl, rfl, rfl, rfl, rfl, rfl, rfl⟩
    rw [himage.fibres, kget_kmap, hl, Option.map_some]

/-- PREEMPT_DECISION that saves the crew chosen with its pipeline (R26, R370). -/
theorem becomes_preempt_save {s : State} {crew : Nat} {c : Crew} (hrising : Rising s.crews)
    (hfree : ∀ d ∈ s.pipeline c, d.2.life ≠ .starting ∧ d.2.life ≠ .restoring) (hpreempt : s.preempt crew = s.savePipe c false) :
    Becomes (.preemptDecision crew) s fun t => t = { s with crews := t.crews } ∧ ∀ k d, kget s.crews k = some d →
      kget t.crews k = some (if (k, d) ∈ s.pipeline c ∧ d.life = .running then { d with life := .saving } else d) := by
  obtain ⟨hframe, hcrews⟩ := State.savePipe_spec hrising hfree false
  have quiet : NoSnoop s (s.savePipe c false) := noSnoop_of_hostOut (by rw [hframe])
  refine ⟨s.savePipe c false, ?_, hframe, fun k d hd => ?_⟩
  · change Host.Outcome.next (s.orSnoop (s.preempt crew)) = _
    rw [hpreempt, State.orSnoop_of_noSnoop quiet]
  · simpa using hcrews k d hd

/-- Settles O55: a drain changes one crew; a pipeline saved as the change of its running crews; a save's end and a flush by the layer that
says what drains leave of the crews; and a restore by the invariant of its fibres. -/
theorem preemptEvents : Obligations.PreemptEvents := by
  unfold Obligations.PreemptEvents
  refine ⟨?_, ?_, ?_, ?_⟩
  · intro s crew c hc hlife hwanted hfirst
    have chosen : s.preempt crew = match s.choiceFor c with
        | .drain => s.drainCrew crew
        | .flush =>
          if ((s.pipeline c).filter fun d => d.2.life == .running || d.2.life == .starting).all fun d => s.choiceFor d.2 == .flush then
            ((s.pipeline c).filter fun d => d.2.life == .running || d.2.life == .starting).foldl (fun (t : State) d => t.flushCrew d.1) s
          else s.savePipe c false
        | .save => s.savePipe c false := by
      unfold State.preempt
      rw [State.crew_of_kget hc]
      dsimp only
      exact if_neg (by simp [hlife, hwanted, hfirst])
    refine ⟨fun hdrain => ?_, fun hsave hrising hfree => ?_, fun g hflush hone hg hsnoop => ?_⟩
    · rw [hdrain] at chosen
      have quiet : NoSnoop s (s.drainCrew crew) := noSnoop_of_hostOut rfl
      refine ⟨s.drainCrew crew, ?_, rfl, fun k hk => kget_kmod_ne _ _ hk, _, (kget_kmod_self _ _ _).trans (congrArg (Option.map _) hc), rfl,
        fun n => kget_kmap c.fibres (fun _ f => { f with preempted := true }) n⟩
      change Host.Outcome.next (s.orSnoop (s.preempt crew)) = _
      rw [chosen, State.orSnoop_of_noSnoop quiet]
    · refine becomes_preempt_save hrising hfree (chosen.trans ?_)
      rcases hsave with hsave | ⟨hflush, d, hd, hactive, hother⟩
      · rw [hsave]
      · rw [hflush]
        refine if_neg fun hall => hother ?_
        have hmem : d ∈ (s.pipeline c).filter fun d => d.2.life == .running || d.2.life == .starting :=
          List.mem_filter.mpr ⟨hd, by simpa using hactive⟩
        exact beq_iff_eq.mp (List.all_eq_true.mp hall d hmem)
    · rw [hflush, hone] at chosen
      have flushes : s.preempt crew = s.flushCrew crew := by
        rw [chosen]
        simp [hflush]
      refine ⟨s.flushCrew crew, ?_, State.flushCrew_spec hc hg⟩
      change Host.Outcome.next (s.orSnoop (s.preempt crew)) = _
      rw [flushes, State.orSnoop_of_noSnoop hsnoop]
  · intro s crew c hc hlife
    have hcrew := State.crew_of_kget hc
    refine ⟨fun hearly => ?_, fun hdue hrising hfree => ?_, fun hbusy => ?_⟩
    · change Host.Outcome.next (s.drainTimeout crew) = _
      simp [State.drainTimeout, hcrew, hearly]
    · obtain ⟨hframe, hcrews⟩ := State.savePipe_spec hrising hfree true
      refine ⟨s.savePipe c true, ?_, hframe, fun k d hd => ?_⟩
      · change Host.Outcome.next (s.drainTimeout crew) = _
        simp [State.drainTimeout, hcrew, hlife, Nat.not_lt.mpr hdue]
      · simpa using hcrews k d hd
    · obtain ⟨d, hd, hstarts⟩ := hbusy
      have hany : ((s.pipeline c).any fun d => d.2.life == .starting || d.2.life == .restoring) = true :=
        List.any_eq_true.mpr ⟨d, hd, by simpa using hstarts⟩
      change Host.Outcome.next (s.drainTimeout crew) = _
      unfold State.drainTimeout State.savePipe
      rw [hcrew]
      dsimp only
      rw [hany]
      simp
  · intro s u v w crew c hc hlife hgroups hops hpages hgated hsaddle hdrain hchains hsnoop
    exact becomes_saveComplete hc hlife hgroups hops hpages hgated hsaddle hdrain hchains hsnoop
  · intro s t crew die x0 y0 c win hc hlife himage htag hdeferred hlate hjoins hclaims hops hpages hsends hone hfibres hwindow hsnoop
    obtain ⟨hout, d, hd, hrunning, hwin, hg, hhome, -, hresumed⟩ := State.restorePipe_resuming hc hlife himage htag hdeferred hlate hjoins hops
      hpages hsends hone hfibres hwindow die x0 y0
    have quiet : NoSnoop s (s.restorePipe crew die x0 y0) := (newSnoops_congr hout).trans hsnoop
    refine ⟨s.restorePipe crew die x0 y0, ?_, d, hd, hrunning, hwin, hg, hhome, fun n f hf => ?_⟩
    · change Host.Outcome.next (s.orSnoop (s.restorePipe crew die x0 y0)) = _
      rw [State.orSnoop_of_noSnoop quiet]
    · obtain ⟨x, hx, heq, hparked, hreplay⟩ := hresumed n f hf
      refine ⟨x, hx, ?_, hparked⟩
      rw [hreplay (List.mem_map_of_mem (mem_of_kget hf))] at heq
      exact heq

end Sys2Proof.Proofs
end

section
/-! PROOF. Uniform words (R42, R43, R124, R125, R127): a G register written once for the group, and one truth value pushed on every fibre. -/

namespace Sys2Proof.Machine

open Sys2Proof.Terms

/-! ## Reads outside every window -/

theorem oldsOf_shut {α : Type} {isOpen : LatWrite α → Bool} :
    ∀ {l : List (LatWrite α)}, (∀ w ∈ l, isOpen w = false) → oldsOf isOpen l = []
  | [], _ => rfl
  | w :: l, h => by
    rw [oldsOf, h w List.mem_cons_self, oldsOf_shut fun x hx => h x (List.mem_cons_of_mem w hx)]
    rfl

theorem readWin_shut {α : Type} (now : α) {l : List (LatWrite α)} {pos : Nat} (pick : Nat) (h : ∀ w ∈ l, w.openAt pos = false) :
    readWin now l pos pick = now := by
  rw [readWin, oldsOf_shut h]
  rfl

theorem inLat_shut {α : Type} {l : List (LatWrite α)} {pos : Nat} (h : ∀ w ∈ l, w.openAt pos = false) : inLat l pos = false := by
  refine List.any_eq_false.mpr fun w hw => ?_
  have hshut := h w hw
  rw [LatWrite.openAt, Bool.or_eq_false_iff] at hshut
  simp [hshut.2]

/-- The stack of a fibre outside every window of P, as a word sees it. -/
theorem Fibre.seeP_settled {f : Fibre} (h : ∀ w ∈ f.pwin, w.openAt f.pos = false) (pick : Nat) : f.seeP pick = f.p := readWin_shut f.p pick h

theorem Fibre.inPWin_settled {f : Fibre} (h : ∀ w ∈ f.pwin, w.openAt f.pos = false) : f.inPWin = false := inLat_shut h

/-- A stack written outside every window of P is what stands there. -/
theorem Fibre.putP_settled {f : Fibre} (h : ∀ w ∈ f.pwin, w.openAt f.pos = false) (lat : Nat) (p : BitVec 7) (pick : Nat) :
    (f.putP lat p pick).p = p := overWin_shut p f.pwin f.pos pick h

/-! ## The environment of a word -/

theorem envAt_crew {s : State} {i : Issue} {c : Crew} (h : Issues s i c) : (envAt s i).crew = c := State.crew_of_kget (s := taken s) h.2.1

/-- Strict mode refuses no fibre its guard's read when no window of P is open. -/
theorem lanes_bad_of_settled {s : State} {i : Issue} {c : Crew} (h : Issues s i c) (hp : PSettled i c) (g : Guard) :
    ((envAt s i).lanes g).bad = [] := by
  cases ha : i.again with
  | true => simp [Env.lanes, show (envAt s i).iss.again = true from ha]
  | false =>
    rw [Env.lanes_eq _ g ha]
    refine List.map_eq_nil_iff.mpr (List.filter_eq_nil_iff.mpr fun f hf => ?_)
    simp [Env.refused, envAt_crew h, Fibre.inPWin_settled (hp f hf)]

/-- The selected lanes are fibres of the group, each once. -/
theorem lanes_sel_mem {s : State} {i : Issue} {c : Crew} (h : Issues s i c) {g : Guard} (hb : ((envAt s i).lanes g).bad = []) {f : Nat}
    (hf : f ∈ ((envAt s i).lanes g).sel) : f ∈ i.grp.fids := (Env.lanes_spec (envAt s i) g h.2.2.1 hb).2.1 f hf

/-! ## A uniform write (R42, R43, R82) -/

/-- A G register holds the value written when no token result and no window of the group's own writes stands in the way. -/
theorem Crew.putG_self {i : Issue} {c : Crew} {n : Nat} (h : gSettled i c n) (lat : Nat) (val : Word) (cycle next pick : Nat) :
    (c.putG lat n val i.grp.fids cycle next pick).getG n = val := by
  have hshut : ((kgetD c.gwin n []).filter fun w => w.tok.isSome || w.ownOpen c i.grp.fids) = [] :=
    List.filter_eq_nil_iff.mpr fun w hw => by simp [h w hw]
  simp only [Crew.getG, Crew.putG, kgetD_kset_self, hshut]
  rfl

theorem Crew.putG_ne (c : Crew) {n m : Nat} (h : m ≠ n) (lat : Nat) (val : Word) (fids : List Nat) (cycle next pick : Nat) :
    (c.putG lat n val fids cycle next pick).getG m = c.getG m ∧
      kget (c.putG lat n val fids cycle next pick).gwin m = kget c.gwin m :=
  ⟨kgetD_kset_ne _ _ _ h, kget_kset_ne _ _ h⟩

/-- The split bits after a write: that of the register says whether the group lacks some live fibre. -/
theorem Crew.splitAfter_getLsbD (c : Crew) {n m : Nat} (fids : List Nat) (hm : m < 32) :
    (c.splitAfter n fids).getLsbD m = if m = n then !c.wholeGroup fids else c.split.getLsbD m := by
  have bit : ((1 : BitVec 32) <<< n).getLsbD m = decide (m = n) := by
    rw [BitVec.getLsbD_shiftLeft]
    by_cases h : m = n
    · simp [h]
      omega
    · simp [h]
      omega
  unfold Crew.splitAfter
  cases c.wholeGroup fids with
  | true =>
    rw [if_pos rfl, BitVec.getLsbD_and, BitVec.getLsbD_not, bit]
    by_cases h : m = n
    · simp [h]
    · simp only [h, hm, decide_true, decide_false, Bool.not_false, Bool.and_true, if_false]
  | false =>
    rw [if_neg Bool.false_ne_true, BitVec.getLsbD_or, bit]
    by_cases h : m = n
    · simp [h]
    · simp only [h, decide_false, Bool.or_false, if_false]

/-- A word that ends with a uniform write that strict mode allows is a step of its group. -/
theorem uniformStep_of {w : Instr} {s : State} {i : Issue} {c : Crew} {n lat : Nat} {val : Word} (hI : Issues s i c)
    (hm : MayWriteG s i c n)
    (hx : exec w s = .next ((taken s).uniformWrite i (envAt s i) lat n val false [])) : UniformStep w s i c n val := by
  obtain ⟨-, hc, -, hex⟩ := hI
  have hcrew : (envAt s i).crew = c := State.crew_of_kget (s := taken s) hc
  have hc' : kget (taken s).crews i.crew = some c := hc
  unfold State.uniformWrite at hx
  unfold MayWriteG at hm
  rw [hcrew, hm] at hx
  have put := CrewStep.modCrew hc' fun c => c.putG lat n val i.grp.fids (envAt s i).cycle (taken s).nextId ((envAt s i).pick 4096 (100 + n) 3)
  obtain ⟨y, hy, hframe, hfib, hgrp, hgrp'⟩ := State.endWord_step put.2.2 i.grp.latches
  have all := put.trans hy
  refine ⟨_, y, hx, ⟨all.1, all.2.1⟩, all.2.2, ⟨?_, fun f hf => ?_, hgrp, hgrp'⟩, fun f hf => ?_, fun m hmn => ?_,
    fun hset => ?_, fun m hm32 => ?_⟩
  · rw [hframe]; rfl
  · rw [hfib f, if_neg hf]; rfl
  · obtain ⟨x, hfx⟩ := Option.isSome_iff_exists.mp (hex f hf)
    rw [hfib f, if_pos hf, Crew.fibre_of_kget hfx]
    exact congrArg (Option.map _) hfx
  · rw [hframe]; exact Crew.putG_ne c hmn lat val i.grp.fids (envAt s i).cycle (taken s).nextId ((envAt s i).pick 4096 (100 + n) 3)
  · rw [hframe]; exact Crew.putG_self hset lat val (envAt s i).cycle (taken s).nextId ((envAt s i).pick 4096 (100 + n) 3)
  · rw [hframe]; exact c.splitAfter_getLsbD i.grp.fids hm32

/-! ## The values of uniform words (R58, R98, R124, R127) -/

theorem satS32_eq_clampS (x : Int) : satS32 x = clampS x := by
  unfold satS32 clampS low32
  split
  · next h => rw [min_eq_right (by omega), max_eq_left (by omega)]; rfl
  · split
    · next h => rw [min_eq_left (by omega), max_eq_right (by omega)]; rfl
    · rw [min_eq_right (by omega), max_eq_right (by omega)]

/-- A result that SAT clamps is the exact number, clamped or modulo 2^32. -/
theorem satOr_eq_signedSum (m : Mod) {x : Int} {w : Word} (h : w = low32 x) : satOr m x w = signedSum m x := by
  unfold satOr signedSum
  rw [satS32_eq_clampS, h]

theorem add_eq_low32 (x y : Word) : x + y = low32 (x.toInt + y.toInt) := by simp [low32, BitVec.ofInt_add]

theorem sub_eq_low32 (x y : Word) : x - y = low32 (x.toInt - y.toInt) := by
  simp [low32, Int.sub_eq_add_neg, BitVec.ofInt_add, BitVec.sub_eq_add_neg, BitVec.ofInt_neg]

theorem mul_eq_low32 (x y : Word) : x * y = low32 (x.toInt * y.toInt) := by simp [low32, BitVec.ofInt_mul]

theorem madd_eq_low32 (z x y : Word) : z + x * y = low32 (z.toInt + x.toInt * y.toInt) := by
  simp [low32, BitVec.ofInt_add, BitVec.ofInt_mul]

theorem addi_eq_low32 (x : Word) (imm : BitVec 7) : x + imm.signExtend 32 = low32 (x.toInt + imm.toInt) := by
  simp [low32, BitVec.ofInt_add, BitVec.signExtend]

theorem low32_natCast (n : Nat) : low32 n = BitVec.ofNat 32 n := by simp [low32]

theorem shlW_eq_low32 (x y : Word) : shlW x y = low32 (x.toNat * 2 ^ y.toNat) := by
  have cast : (x.toNat : Int) * 2 ^ y.toNat = ((x.toNat * 2 ^ y.toNat : Nat) : Int) := by push_cast; rfl
  rw [cast, low32_natCast, shlW]
  refine BitVec.eq_of_toNat_eq ?_
  rw [BitVec.toNat_ofNat]
  split
  · next h =>
    obtain ⟨n, hn⟩ := Nat.exists_eq_add_of_le h
    rw [hn, Nat.pow_add, ← Nat.mul_assoc, Nat.mul_right_comm, Nat.mul_mod_left]
    rfl
  · rw [BitVec.toNat_shiftLeft, Nat.shiftLeft_eq]

theorem shrW_eq_low32 (x y : Word) : shrW x y = low32 (x.toNat / 2 ^ y.toNat) := by
  have cast : (x.toNat : Int) / 2 ^ y.toNat = ((x.toNat / 2 ^ y.toNat : Nat) : Int) := by push_cast; rfl
  have hx := x.isLt
  rw [cast, low32_natCast, shrW]
  refine BitVec.eq_of_toNat_eq ?_
  rw [BitVec.toNat_ofNat, Nat.mod_eq_of_lt (Nat.lt_of_le_of_lt (Nat.div_le_self _ _) hx)]
  split
  · next h => exact (Nat.div_eq_of_lt (Nat.lt_of_lt_of_le hx (Nat.pow_le_pow_right (by decide) h))).symm
  · rw [BitVec.toNat_ushiftRight, Nat.shiftRight_eq_div_pow]

theorem sarW_eq_low32 (x y : Word) : sarW x y = low32 (x.toInt / 2 ^ min y.toNat 31) := by
  refine BitVec.eq_of_toInt_eq ?_
  rw [← BitVec.ofInt_toInt (x := sarW x y), sarW, BitVec.toInt_sshiftRight, Int.shiftRight_eq_div_pow, low32]
  push_cast
  rfl

/-- Four bytes as a word, the first lowest (R3). -/
theorem ofNat_leNat_four (b0 b1 b2 b3 : Byte) : BitVec.ofNat 32 (leNat [b0, b1, b2, b3]) = b3 ++ b2 ++ b1 ++ b0 := by
  refine BitVec.eq_of_toNat_eq ?_
  have h0 := b0.isLt
  have h1 := b1.isLt
  have h2 := b2.isLt
  have h3 := b3.isLt
  rw [BitVec.toNat_append, ← Nat.shiftLeft_add_eq_or_of_lt h0, BitVec.toNat_append, ← Nat.shiftLeft_add_eq_or_of_lt h1,
    BitVec.toNat_append, ← Nat.shiftLeft_add_eq_or_of_lt h2, BitVec.toNat_ofNat]
  simp only [leNat, Nat.shiftLeft_eq]
  omega

/-- The word of the constant window at an aligned offset inside it, byte by byte. -/
theorem windowWord_eq {w : List Byte} {o : Nat} (ha : o % 4 = 0) (hl : o + 4 ≤ w.length) :
    windowWord w o = .ok (w.getD (o + 3) 0 ++ w.getD (o + 2) 0 ++ w.getD (o + 1) 0 ++ w.getD o 0) := by
  have bytes : (w.drop o).take 4 = [w.getD o 0, w.getD (o + 1) 0, w.getD (o + 2) 0, w.getD (o + 3) 0] := by
    rw [List.drop_eq_getElem_cons (by omega), List.drop_eq_getElem_cons (by omega), List.drop_eq_getElem_cons (by omega),
      List.drop_eq_getElem_cons (by omega)]
    simp only [List.take_succ_cons, List.take_zero, List.getD_eq_getElem?_getD, Option.getD_some,
      List.getElem?_eq_getElem (show o < w.length by omega), List.getElem?_eq_getElem (show o + 1 < w.length by omega),
      List.getElem?_eq_getElem (show o + 2 < w.length by omega), List.getElem?_eq_getElem (show o + 3 < w.length by omega)]
  rw [windowWord, if_neg (by omega), fieldLe, bytes, ofNat_leNat_four]

/-- A uniform word of the rules is the shared meaning of uniform words, whose value is that of its rule. -/
theorem exec_of_uniformRule {w : Instr} {d : Fin 32} {a b : Sel} {third : Bool} {k : List Byte → Mod → Word → Word → Word → Option Word}
    (h : uniformRule w = some (d, a, b, third, k)) : ∃ K, exec w = execUni d a b third K ∧
      ∀ e z x y r, k e.crew.window e.iss.mod z x y = some r → K e z x y = .ok r := by
  unfold uniformRule at h
  split at h <;> cases h
  · exact ⟨_, rfl, fun e z x y r hr => congrArg _ ((satOr_eq_signedSum _ (add_eq_low32 x y)).trans (Option.some.inj hr))⟩
  · exact ⟨_, rfl, fun e z x y r hr => congrArg _ ((satOr_eq_signedSum _ (sub_eq_low32 x y)).trans (Option.some.inj hr))⟩
  · exact ⟨_, rfl, fun e z x y r hr => congrArg _ ((satOr_eq_signedSum _ (mul_eq_low32 x y)).trans (Option.some.inj hr))⟩
  · exact ⟨_, rfl, fun e z x y r hr => congrArg _ ((satOr_eq_signedSum _ (madd_eq_low32 z x y)).trans (Option.some.inj hr))⟩
  · exact ⟨_, rfl, fun e z x y r hr => congrArg _ (Option.some.inj hr)⟩
  · exact ⟨_, rfl, fun e z x y r hr => congrArg _ (Option.some.inj hr)⟩
  · exact ⟨_, rfl, fun e z x y r hr => congrArg _ (Option.some.inj hr)⟩
  · exact ⟨_, rfl, fun e z x y r hr => congrArg _ ((shlW_eq_low32 x y).trans (Option.some.inj hr))⟩
  · exact ⟨_, rfl, fun e z x y r hr => congrArg _ ((shrW_eq_low32 x y).trans (Option.some.inj hr))⟩
  · exact ⟨_, rfl, fun e z x y r hr => congrArg _ ((sarW_eq_low32 x y).trans (Option.some.inj hr))⟩
  · exact ⟨_, rfl, fun e z x y r hr => congrArg _ (Option.some.inj hr)⟩
  · exact ⟨_, rfl, fun e z x y r hr => congrArg _ ((satOr_eq_signedSum _ (addi_eq_low32 x _)).trans (Option.some.inj hr))⟩
  · exact ⟨_, rfl, fun e z x y r hr => congrArg _ (Option.some.inj hr)⟩
  · refine ⟨fun e _ x y => windowWord e.crew.window (x.toNat + y.toNat), rfl, fun e z x y r hr => ?_⟩
    obtain ⟨⟨ha, hl⟩, hr⟩ := Option.ite_none_right_eq_some.mp hr
    exact (windowWord_eq ha hl).trans (congrArg _ (Option.some.inj hr))

/-- The value of a word that does not read G[d] does not depend on it. -/
theorem uniformRule_unread {w : Instr} {d : Fin 32} {a b : Sel} {k : List Byte → Mod → Word → Word → Word → Option Word}
    (h : uniformRule w = some (d, a, b, false, k)) (l : List Byte) (m : Mod) (z z' x y : Word) : k l m z x y = k l m z' x y := by
  unfold uniformRule at h
  split at h <;> cases h <;> rfl

/-- A uniform word whose operands are read and whose result may be written is a uniform write. -/
theorem execUni_ok {s : State} {i : Issue} {d : Fin 32} {a b : Sel} {third : Bool} {K : Env → Word → Word → Word → Except LaneErr Word}
    {x y z r : Word} (hcur : s.cur = some i)
    (hsplit : (envAt s i).splitRead (selRegs a 1 ++ selRegs b 1 ++ if third then [d.val] else []) = false)
    (hx : (envAt s i).readU a 0 = .ok x) (hy : (envAt s i).readU b 1 = .ok y)
    (hz : (if third then (envAt s i).readG d.val 2 else .ok 0) = .ok z) (hr : K (envAt s i) z x y = .ok r) :
    execUni d a b third K s = .next ((taken s).uniformWrite i (envAt s i) 2 d.val r false []) := by
  rw [execUni, withIssue_next hcur]
  simp only [show envOf i (taken s) = envAt s i from rfl, hsplit, hx, hy, hz, hr]
  rfl

/-! ## Uniform compares (R111, R125) -/

/-- The relation that a compare of integers tests is that of its condition. -/
theorem intRel_eq_relInt {cc : Cond} (h : cc.okInt = true) {x y : Int} {lt eq : Bool} (hlt : lt = decide (x < y)) (heq : eq = decide (x = y)) :
    intRel cc lt eq = relInt cc x y := by
  subst hlt heq
  cases cc with
  | eq => rfl
  | ne => exact (decide_not ..).symm
  | lt => rfl
  | le => simp only [intRel, relInt, ← Bool.decide_or, le_iff_lt_or_eq]
  | gt =>
    simp only [intRel, relInt, ← decide_not, ← Bool.decide_and, decide_eq_decide]
    omega
  | ge =>
    simp only [intRel, relInt, ← decide_not, decide_eq_decide]
    omega
  | ord | uno | ueq | ult | ule | ugt | uge => cases h

theorem beq_eq_decide_toInt (x y : Word) : (x == y) = decide (x.toInt = y.toInt) := by
  simp only [beq_eq_decide, BitVec.toInt_inj]

theorem beq_eq_decide_toNat (x y : Word) : (x == y) = decide ((x.toNat : Int) = y.toNat) := by
  simp only [beq_eq_decide, Nat.cast_inj, BitVec.toNat_inj]

theorem entry_zero (r : Bool) (d : Nat) : (if r then (1 : BitVec 7) else 0).getLsbD d = (decide (d = 0) && r) := by
  cases r with
  | true => simp [BitVec.getLsbD_one]
  | false => simp

theorem stackIs_pushP (p : BitVec 7) (r : Bool) : StackIs (pushP p r) (pushed p r) := by
  intro d hd
  rw [pushP, BitVec.getLsbD_or, entry_zero, BitVec.getLsbD_shiftLeft]
  cases d with
  | zero => simp [pushed]
  | succ d => simp [pushed, hd]

theorem replP_getLsbD (p : BitVec 7) (r : Bool) {d : Nat} (hd : d < 7) : (replP p r).getLsbD d = if d = 0 then r else p.getLsbD d := by
  have kept : ∀ k : Nat, k < 7 → (0x7E : BitVec 7).getLsbD k = decide (k ≠ 0) := by decide
  rw [replP, BitVec.getLsbD_or, entry_zero, BitVec.getLsbD_and, kept d hd]
  by_cases h : d = 0
  · simp [h]
  · simp [h]

/-- The stack of a lane after a compare, entry by entry (R111). -/
theorem stackIs_pushSel (pm : PushMode) (p : BitVec 7) (r : Bool) : StackIs (pushSel pm p r) (afterCompare pm p r) := by
  cases pm with
  | push => exact stackIs_pushP p r
  | pushn => exact stackIs_pushP p !r
  | repl | and | or => exact fun d hd => replP_getLsbD p _ hd

/-- A uniform compare of the rules is the shared meaning of uniform compares, with the relation of its rule. -/
theorem exec_of_uniformCompare {w : Instr} {pm : PushMode} {a b : Sel} {rel : Word → Word → Bool}
    (h : uniformCompare w = some (pm, a, b, rel)) (hw : w.wellFormed = true) : exec w = execUcmp pm a b rel := by
  unfold uniformCompare at h
  split at h <;> cases h
  · next cc =>
    have hcc : cc.okInt = true := (Bool.and_eq_true_iff.mp hw).1
    refine congrArg (execUcmp pm a b) (funext₂ fun x y => ?_)
    exact intRel_eq_relInt hcc rfl (beq_eq_decide_toInt x y)
  · next cc =>
    have hcc : cc.okInt = true := (Bool.and_eq_true_iff.mp hw).1
    refine congrArg (execUcmp pm a b) (funext₂ fun x y => ?_)
    exact intRel_eq_relInt hcc (decide_eq_decide.mpr Nat.cast_lt.symm) (beq_eq_decide_toNat x y)

/-- A change of the stack that strict mode does not refuse. -/
theorem Env.changeP_settled {e : Env} {f : Fibre} (h : ∀ w ∈ f.pwin, w.openAt f.pos = false) (fid lat : Nat) (k : BitVec 7 → BitVec 7) :
    e.changeP fid lat k f = (f.putP lat (k f.p) (e.pick fid 64 3), none) := by
  rw [Env.changeP, Fibre.inPWin_settled h, Bool.and_false, if_neg Bool.false_ne_true, Fibre.seeP_settled h]

/-- Fibres outside every window of P change their stacks without an effect. -/
theorem effsOf_changeAll_settled {e : Env} (lat : Nat) (k : BitVec 7 → BitVec 7) {fids : List Nat}
    (h : ∀ f ∈ fids, ∀ w ∈ (e.crew.fibre f).pwin, w.openAt (e.crew.fibre f).pos = false) : effsOf (e.changeAll lat k fids) = [] := by
  refine List.filterMap_eq_nil_iff.mpr fun r hr => ?_
  obtain ⟨f, hf, rfl⟩ := List.mem_map.mp hr
  rw [Env.changeP_settled (h f hf)]
  rfl

/-- What a fibre holds after a new stack. -/
theorem wroteP_putP (i : Issue) {f : Fibre} (h : ∀ w ∈ f.pwin, w.openAt f.pos = false) (lat : Nat) {p : BitVec 7} (pick : Nat)
    {k : Nat → Bool} (hk : StackIs p k) : WroteP i f (passed i (f.putP lat p pick)) k :=
  ⟨rfl, fun d hd => (congrArg (BitVec.getLsbD · d) (Fibre.putP_settled h lat p pick)).trans (hk d hd)⟩

/-- A uniform compare whose operands are read pushes its truth value on every fibre of the group. -/
theorem execUcmp_groupStep {w : Instr} {s : State} {i : Issue} {c : Crew} {pm : PushMode} {a b : Sel} {rel : Word → Word → Bool} {x y : Word}
    (hw : exec w = execUcmp pm a b rel) (hI : Issues s i c) (hP : PSettled i c)
    (hsplit : (envAt s i).splitRead (selRegs a 1 ++ selRegs b 1) = false) (hx : (envAt s i).readU a 0 = .ok x)
    (hy : (envAt s i).readU b 1 = .ok y) :
    GroupStep w s i c i.grp.latches fun f f' => WroteP i (c.fibre f) f' (afterCompare pm (c.fibre f).p (rel x y)) := by
  have hcrew := envAt_crew hI
  have hset : ∀ f ∈ i.grp.fids, ∀ w ∈ ((envAt s i).crew.fibre f).pwin, w.openAt ((envAt s i).crew.fibre f).pos = false := by rwa [hcrew]
  have heff := effsOf_changeAll_settled 2 (fun p => pushSel pm p (rel x y)) hset
  have hkeys : ((envAt s i).changeAll 2 (fun p => pushSel pm p (rel x y)) i.grp.fids).map Prod.fst = i.grp.fids := by
    simp [Env.changeAll, Function.comp_def]
  refine groupStep_of hI _ ((envAt s i).changeAll 2 (fun p => pushSel pm p (rel x y)) i.grp.fids) (by rw [hkeys]; exact hI.2.2.1) ?_
    (fun r hr => ?_) _ (fun r hr => ?_) fun f hf hnot => absurd (by rwa [hkeys]) hnot
  · rw [hw, execUcmp, withIssue_next hI.1]
    simp only [show envOf i (taken s) = envAt s i from rfl, hsplit, hx, hy, heff]
    rfl
  · rw [← hkeys]
    exact List.mem_map_of_mem hr
  · obtain ⟨f, hf, rfl⟩ := List.mem_map.mp hr
    rw [Env.changeP_settled (hset f hf), hcrew]
    exact wroteP_putP i (hP f hf) 2 _ (stackIs_pushSel pm (c.fibre f).p (rel x y))

end Sys2Proof.Machine

namespace Sys2Proof.Proofs

open Sys2Proof.Machine Sys2Proof.Terms

/-- Settles O18: a uniform word of the rules is one shared meaning with its rule's value, which ends with a uniform write; a uniform compare
changes the stack of each fibre outside its windows. -/
theorem uniformWords : Obligations.UniformWords := by
  unfold Obligations.UniformWords
  refine ⟨fun w d a b third k hrule s i c x y z r hI hsplit hx hy hz hr hmay => ?_,
    fun w pm a b rel hrule hwf s i c x y hI hP hsplit hx hy => ?_⟩
  · obtain ⟨K, hexec, hK⟩ := exec_of_uniformRule hrule
    rw [← envAt_crew hI] at hr
    refine uniformStep_of (lat := 2) hI hmay ?_
    rw [hexec]
    cases third with
    | false =>
      rw [uniformRule_unread hrule _ _ z 0] at hr
      exact execUni_ok hI.1 hsplit hx hy rfl (hK _ _ _ _ _ hr)
    | true => exact execUni_ok hI.1 hsplit hx hy (hz rfl) (hK _ _ _ _ _ hr)
  · exact execUcmp_groupStep (exec_of_uniformCompare hrule hwf) hI hP hsplit hx hy

end Sys2Proof.Proofs
end

section
/-! PROOF. A step executes the decoded word of the group that a picker chooses (R33, R76, R211). -/

namespace Sys2Proof.Machine

open Sys2Proof.Terms

theorem State.commit_core (s : State) (core : Nat) (t u : State) :
    s.commit (some core) t u = if newSnoops s u = [] then u else s.holdBack core (newSnoops s u) := by
  unfold State.commit
  generalize newSnoops s u = l
  cases l with
  | nil => rfl
  | cons m l => rfl

/-- A step that executes an instruction as a core's word: what it leaves is committed unless a host must give up a line first. -/
theorem step_of_choose {s t : State} {core : Nat} {i : Instr} (h : s.choose = (some core, t, some i)) :
    step s = afterWord s core (exec i t) := by
  unfold step
  rw [h]
  change (match exec i t with
    | .next u => .next (s.commit (some core) t u).settleStep
    | .fault f => .fault f
    | .refused r => .refused r) = afterWord s core (exec i t)
  generalize exec i t = o
  cases o with
  | next u => exact congrArg (fun v : State => Host.Outcome.next v.settleStep) (s.commit_core core t u)
  | fault f => rfl
  | refused r => rfl

/-- With nothing on the agenda and no held word ready, the group that a picker chooses issues the word fetched at its program counter. -/
theorem choose_of_fetches {s v : State} {core : Nat} {x : Cand} {g : Group} {w : Word} (h : Fetches s core x g v w) :
    s.choose = (some core, v.issueWord core x.crew (chosenGid s x) w.toNat g) := by
  obtain ⟨hagenda, hheld, hpick, hgroup, hfetch, -⟩ := h
  have hissue : s.issue core x = v.issueWord core x.crew (chosenGid s x) w.toNat g := by
    change (match kget ((picked s core x).crew x.crew).groups (chosenGid s x) with
      | none => (picked s core x, none)
      | some g => match (picked s core x).fetchWord core ((picked s core x).crew x.crew).pasid g.pc with
        | (v, .error c) => (v.fetchFault x.crew (chosenGid s x) g c, none)
        | (v, .ok w) => v.issueWord core x.crew (chosenGid s x) w.toNat g) = _
    rw [hgroup]
    simp only [hfetch]
  rw [State.choose, hagenda]
  simp only [hheld, hpick, hissue]

/-- A word of a group without poisoned fibres passes to its own checks. -/
theorem State.issueWord_clean {s : State} {core crew gid w : Nat} {g : Group} (h : ∀ f ∈ g.fids, ((s.crew crew).fibre f).poisoned = false) :
    s.issueWord core crew gid w g =
      let t := s.advance core crew gid (weightOf w)
      if isHintWord w then
        match decodeWord w with
        | .fault c => (t.groupEffect (t.issueOf core crew gid g.pc w {}) (0, c), none)
        | .ok instr => t.withCur (t.issueOf core crew gid g.pc w {}) instr
      else t.consume core crew gid w g := by
  have hclean : (g.fids.filter fun f => ((s.crew crew).fibre f).poisoned) = [] := List.filter_eq_nil_iff.mpr fun f hf => by simp [h f hf]
  rw [State.issueWord, hclean] <;> rfl

/-- With no race event to deliver a word issues as it is. -/
theorem State.raceAt_none {s : State} {i : Issue} (g : Guard) (h : (s.crew i.crew).nextRace = none) : s.raceAt i g = (s, i) := by
  unfold State.raceAt
  rw [h]
  split
  · next heq => cases heq
  · rfl

theorem Crew.nextRace_none {c : Crew} (hlog : c.raceLog = []) (hlost : c.raceLost = false) : c.nextRace = none := by
  simp [Crew.nextRace, hlog, hlost]

/-- A crew that is alive exists. -/
theorem State.kget_of_alive {s : State} {k : Nat} (h : (s.crew k).alive = true) : ∃ c, kget s.crews k = some c := by
  unfold State.crew kgetD at h
  cases hk : kget s.crews k with
  | some c => exact ⟨c, rfl⟩
  | none =>
    rw [hk] at h
    cases h

/-- The state in which a group's word has taken its pending hints (R75, R76). -/
def State.hintsTaken (s : State) (core crew gid : Nat) (g : Group) : State :=
  let t := s.modCrew crew fun c =>
    { c with groups := kmod c.groups gid fun y => { y with hints := {} }
             phase := match g.hints.sched with
               | some (_, true, p) => p
               | some (_, false, _) | none => c.phase }
  t.modCore core fun k => { k with lastPhase := (t.crew crew).phase.toNat }

theorem State.hintsTaken_crew {s : State} {core crew gid : Nat} {g : Group} {c : Crew} (h : kget s.crews crew = some c) :
    ∃ d, kget (s.hintsTaken core crew gid g).crews crew = some d ∧ d.life = c.life ∧ d.raceLog = c.raceLog ∧ d.raceLost = c.raceLost :=
  ⟨_, (kget_kmod_self ..).trans (congrArg _ h), rfl, rfl, rfl⟩

theorem State.advance_crew {s : State} {core crew gid n : Nat} {c : Crew} (h : kget s.crews crew = some c) :
    ∃ d, kget (s.advance core crew gid n).crews crew = some d ∧ d.life = c.life ∧ d.raceLog = c.raceLog ∧ d.raceLost = c.raceLost :=
  ⟨_, (kget_kmod_self ..).trans (congrArg _ h), rfl, rfl, rfl⟩

/-- The marks of delivered race events of a group's fibres cleared (R211). -/
def Crew.unraced (c : Crew) (fids : List Nat) : Crew :=
  { c with fibres := kmap c.fibres fun f y => if fids.contains f then { y with raced := false } else y }

/-- A word that takes its hints issues when R76 accepts them, no race event is due and its crew is alive. -/
theorem State.consume_ok {s : State} {core crew gid w : Nat} {g : Group} {c : Crew} {instr : Instr} (hdec : decodeWord w = .ok instr)
    (hresv : ¬ (opOf w = 0x7F ∧ g.hints.pending = true)) (hcause : hintCause instr w g.hints = none)
    (hc : kget (s.hintsTaken core crew gid g).crews crew = some c) (hrace : c.nextRace = none) (halive : c.alive = true) :
    s.consume core crew gid w g = ((s.hintsTaken core crew gid g).modCrew crew fun c => c.unraced g.fids).withCur
      ((s.hintsTaken core crew gid g).issueOf core crew gid g.pc w g.hints) instr := by
  generalize ht : s.hintsTaken core crew gid g = t at hc
  have hnone : (t.raceAt (t.issueOf core crew gid g.pc w g.hints) (guardIn instr)) = (t, t.issueOf core crew gid g.pc w g.hints) :=
    State.raceAt_none _ ((congrArg Crew.nextRace (State.crew_of_kget hc)).trans hrace)
  have halive' : ((t.modCrew crew fun c => c.unraced g.fids).crew crew).alive = true := by rwa [State.modCrew_crew _ _ hc]
  have checked : s.consume core crew gid w g =
      let r := if isOrdering w (t.issueOf core crew gid g.pc w g.hints).mod then t.raceAt (t.issueOf core crew gid g.pc w g.hints) (guardIn instr)
        else (t, t.issueOf core crew gid g.pc w g.hints)
      if ((r.1.modCrew crew fun c => c.unraced g.fids).crew crew).alive then (r.1.modCrew crew fun c => c.unraced g.fids).withCur r.2 instr
      else (r.1.modCrew crew fun c => c.unraced g.fids, none) := by
    unfold State.consume
    simp only [if_neg hresv, hdec, hcause]
    subst ht
    rfl
  rw [checked, hnone, ite_self]
  exact if_pos halive'

end Sys2Proof.Machine

namespace Sys2Proof.Proofs

open Sys2Proof.Machine Sys2Proof.Terms

/-- Settles O4: the chosen group issues the word that it fetched, whose checks pass, and the step commits what the word leaves. -/
theorem stepRunsDecoded : Obligations.StepRunsDecoded := by
  unfold Obligations.StepRunsDecoded
  intro s core x g v w i hf hdec
  obtain ⟨-, -, -, -, -, hclean⟩ := id hf
  refine ⟨fun hhint => ?_, fun hhint hresv hcause hrace halive => ?_⟩
  · refine step_of_choose ((choose_of_fetches hf).trans ?_)
    rw [State.issueWord_clean hclean]
    simp only [hhint, hdec, if_true]
    rfl
  · refine step_of_choose ((choose_of_fetches hf).trans ?_)
    rw [State.issueWord_clean hclean]
    simp only [hhint]
    obtain ⟨c, hc⟩ := State.kget_of_alive halive
    rw [State.crew_of_kget hc] at hrace halive
    obtain ⟨d, hd, hlife, hlog, hlost⟩ := State.advance_crew (core := core) (gid := chosenGid s x) (n := weightOf w.toNat) hc
    obtain ⟨e, he, hlife', hlog', hlost'⟩ := State.hintsTaken_crew (core := core) (gid := chosenGid s x) (g := g) hd
    refine congrArg _ (State.consume_ok hdec hresv hcause he (Crew.nextRace_none ?_ ?_) ?_)
    · rw [hlog', hlog, hrace.1]
    · rw [hlost', hlost, hrace.2]
    · rwa [Crew.alive, hlife', hlife]

end Sys2Proof.Proofs
end

section
/-! PROOF. Switch points on a crew whose list of fibres does not rise (R29, R32): a change of a fibre lists it once more, the table counts
it twice, and the crew of 256 fibres fills it. -/

namespace Sys2Proof.Machine

open Sys2Proof.Terms

/-- 255 loose fibres at as many addresses. -/
def crowd : KMap Fibre := (List.range 255).map fun n => (n + 1, { pc := 0x10000 + 4 * n, st := .loose 0 })

/-- The issuing group, of fibre 0. -/
def crowdedGroup : Group := { fids := [0], pc := 0x1000, fpc := 0x1000, fcycle := 0 }

/-- A running crew of a later stage whose fibre 0 stands behind the others, with a second group: its 256 fibres need 256 keys beside that
of fibre 0. -/
def crowdedCrew : Crew :=
  { stage := 1, life := .running, home := some 0, queues := [(0, [5])], fibres := crowd ++ [(0, { pc := 0x1000, st := .formed 7 })]
    groups := [(7, crowdedGroup), (8, { fids := [], pc := 0x2000, fpc := 0x2000, fcycle := 0 })] }

/-- The context of a word of that group. -/
def crowdedIssue : Issue :=
  { crew := 1, gid := some 7, grp := crowdedGroup, core := 0, pc := 0x1000, word := 0, imm := none, mod := {}, modw := 0, strict := false }

/-- The package with that crew alone. -/
def crowdedState : State := { cur := some crowdedIssue, crews := [(1, crowdedCrew)], nextId := 100 }

theorem issues_crowded : Issues crowdedState crowdedIssue crowdedCrew := ⟨rfl, rfl, by decide, by decide +kernel⟩

theorem switchReady_crowded : SwitchReady crowdedState crowdedIssue crowdedCrew :=
  ⟨issues_crowded, rfl, rfl, by decide +kernel, 7, crowdedGroup, rfl, rfl, rfl, by decide +kernel⟩

/-- Where fibre 0 is after a word. -/
def stAfter : Host.Outcome State Fault Refusal → Option FState
  | .next t => (kget (t.crew 1).fibres 0).map Fibre.st
  | .fault _ | .refused _ => none

/-- After SPLIT fibre 0 finds no entry of the table. -/
theorem stAfter_split : stAfter (exec (.split .all 0) crowdedState) = some .overflow := by decide +kernel

/-- After VOTE.EQ with a popped value it finds none either. -/
theorem stAfter_voteEq : stAfter (exec (.voteEq .all 3 (.q 0)) crowdedState) = some .overflow := by decide +kernel

end Sys2Proof.Machine
end

section
/-! PROOF. The refutations of O16 and O22 on that crew. -/

namespace Sys2Proof.Proofs

open Sys2Proof.Machine Sys2Proof.Terms

/-- A fibre in the overflow queue is not loose. -/
theorem not_loose_of_overflow {o : Host.Outcome State Fault Refusal} (h : stAfter o = some .overflow) {t : State} {c : Crew} (ho : o = .next t)
    (hc : kget t.crews 1 = some c) : kget c.fibres 0 ≠ some (looseAt crowdedState crowdedCrew 0x1004 (crowdedCrew.fibre 0)) := by
  subst ho
  intro hf
  change (kget (t.crew 1).fibres 0).map Fibre.st = _ at h
  rw [State.crew_of_kget hc, hf] at h
  cases h

/-- Refutes O22 at its first clause: SPLIT of the crowded crew, whose fibres are listed in no rising order, so that the 256 of them count as 257
once SPLIT has moved fibre 0: it finds the table full and is in the overflow queue, not loose. -/
theorem not_splitJoin : ¬ Obligations.SplitJoin := by
  unfold Obligations.SplitJoin
  rintro ⟨hsplit, -⟩
  obtain ⟨t, c', hexec, -, hcrew, -, -, -, hafter⟩ := hsplit .all 0 crowdedState crowdedIssue crowdedCrew switchReady_crowded rfl rfl
  obtain ⟨x, hx, rfl⟩ := hafter 0 (List.mem_singleton.mpr rfl)
  exact not_loose_of_overflow stAfter_split hexec hcrew hx

theorem sel_crowded : ((envAt crowdedState crowdedIssue).lanes .all).sel = [0] := by decide +kernel

/-- The value that fibre 0 of the crowded crew pops. -/
theorem reads_crowded : Reads crowdedState crowdedIssue crowdedCrew .all [.q 0] 0 fun _ => 5 := by
  intro a ha f hf
  rw [sel_crowded] at hf ⊢
  cases ha
  cases List.mem_singleton.mp hf
  rfl

theorem quietPops_crowded :
    QuietPops (.voteEq .all 3 (.q 0)) crowdedState crowdedIssue crowdedCrew ⟨.all, true, 0⟩ [.q 0] 1 := by
  have supply : ∀ q, 1 * [0].count q ≤ (crowdedCrew.queue q).length := by
    intro q
    by_cases h : q = 0
    · subst h; decide +kernel
    · simp [Ne.symm h]
  refine ⟨⟨switchReady_crowded, by decide, by decide +kernel, by decide, rfl, rfl, by rw [sel_crowded]; decide⟩, ⟨by decide, ?_⟩, by decide,
    fun f hf => ?_⟩
  · rw [sel_crowded]
    exact supply
  · rw [sel_crowded] at hf
    cases List.mem_singleton.mp hf
    exact ⟨by decide +kernel, nofun⟩

/-- Refutes O16 at the clause on popped values: VOTE.EQ of the crowded crew, whose fibre 0 is then in the overflow queue, not loose. -/
theorem not_voteWords : ¬ Obligations.VoteWords := by
  unfold Obligations.VoteWords
  rintro ⟨-, hvote⟩
  obtain ⟨-, hpop⟩ := hvote .all 3 (.q 0) crowdedState crowdedIssue crowdedCrew (fun _ => 5) rfl reads_crowded
  obtain ⟨t, c', hexec, hcrew, -, -, -, hafter⟩ := hpop quietPops_crowded (fun w hw => nomatch hw)
  exact not_loose_of_overflow stAfter_voteEq hexec hcrew (hafter 0 (List.mem_singleton.mpr rfl))

end Sys2Proof.Proofs
end

section
/-! PROOF. The refutation of O21: EXIT in a package that lists a crew number twice. -/

namespace Sys2Proof.Machine

open Sys2Proof.Terms

/-- The issuing group, of fibre 0. -/
def exitGroup : Group := { fids := [0], pc := 0x10000, fpc := 0x10000, fcycle := 0 }

/-- The context of its EXIT. -/
def exitIssue : Issue :=
  { crew := 1, gid := none, grp := exitGroup, core := 0, pc := 0x10000, word := 0, imm := none, mod := {}, modw := 0, strict := false }

/-- The crew that the issue finds: the one crew of gang 1, with one fibre. -/
def exitCrew : Crew := loaderCrew 1

/-- The placed package, with a crew of another gang listed behind exitCrew under the same number. -/
def twiceState : State :=
  { State.reset.placeWord 0 with cur := some exitIssue, crews := [(1, exitCrew), (1, { fibres := [(0, {})] })] }

theorem ready_twice : Ready twiceState exitIssue exitCrew .all := ⟨⟨rfl, rfl, by decide, by decide⟩, rfl, rfl⟩

theorem sel_twice : ((envAt twiceState exitIssue).lanes .all).sel = [0] := by decide +kernel

/-- The stack of the exiting fibre, one segment, is freed. -/
theorem freeStack_twice :
    ((acting twiceState exitIssue).freeStack 1 256 (((acting twiceState exitIssue).crew 1).fibre 0).seg).2.isOk = true := by decide +kernel

/-- Whether crew 1 has a fibre 0 after a word. -/
def hasFibre : Host.Outcome State Fault Refusal → Bool
  | .next t => (kget (t.crew 1).fibres 0).isSome
  | .fault _ | .refused _ => false

/-- The end of gang 1 removes its crew, and number 1 is now that of the other crew, which has a fibre 0. -/
theorem hasFibre_exit : hasFibre (exec (.exit .all) twiceState) = true := by decide +kernel

end Sys2Proof.Machine

namespace Sys2Proof.Proofs

open Sys2Proof.Machine Sys2Proof.Terms

/-- Refutes O21 at its EXIT clause, which does not ask that the crew's number is listed once: the exiting fibre is the last of its gang, the
crew's entry goes with the gang (R319, R364), and the entry behind it has a fibre of the same number. -/
theorem not_callWords : ¬ Obligations.CallWords := by
  unfold Obligations.CallWords
  rintro ⟨-, hexit⟩
  obtain ⟨u, hu⟩ : ∃ u, (acting twiceState exitIssue).freeStack 1 256 (((acting twiceState exitIssue).crew 1).fibre 0).seg = (u, .ok ()) := by
    have hok := freeStack_twice
    generalize (acting twiceState exitIssue).freeStack 1 256 (((acting twiceState exitIssue).crew 1).fibre 0).seg = r at hok ⊢
    obtain ⟨u, _ | _⟩ := r
    · cases hok
    · exact ⟨u, rfl⟩
  obtain ⟨t, hnext, hgone⟩ := hexit .all twiceState (u.retire 1 0) exitIssue exitCrew ready_twice rfl
    (fun f hf => by rw [sel_twice] at hf; cases List.mem_singleton.mp hf; exact fun k _ => ⟨rfl, rfl⟩)
    (by rw [sel_twice]; exact ⟨_, ⟨u, hu, rfl⟩, rfl⟩)
  have hnone := (hgone 0 (by rw [sel_twice]; decide)).1
  have hsome := hasFibre_exit
  rw [hnext] at hsome
  change (kget (t.crew exitIssue.crew).fibres 0).isSome = true at hsome
  rw [hnone] at hsome
  cases hsome

end Sys2Proof.Proofs
end

section
/-! PROOF. Operations that leave the fibres of crews as they are but for their places: translation, fetches, the frame engine's writes, and the
end of a switch point (R31, R32, R315 to R320). -/

namespace Sys2Proof.Machine

/-! ## The fibres of a crew but for their places -/

/-- A fibre with its place forgotten. -/
def Fibre.unplaced (f : Fibre) : Fibre := { f with st := .loose 0 }

theorem Fibre.eq_of_unplaced {f g : Fibre} (h : f.unplaced = g.unplaced) : f = { g with st := f.st } := by
  have hf : f = { f.unplaced with st := f.st } := rfl
  rw [hf, h]
  rfl

/-- From s to t every crew keeps its life, and its fibres but for their places. -/
structure KeepsFibres (s t : State) : Prop where
  crew : ∀ k c, kget s.crews k = some c → ∃ d, kget t.crews k = some d ∧ d.life = c.life ∧
    ∀ n, (kget d.fibres n).map Fibre.unplaced = (kget c.fibres n).map Fibre.unplaced

namespace KeepsFibres

variable {s t u : State}

theorem of_crews (h : t.crews = s.crews) : KeepsFibres s t := ⟨fun _ c hc => ⟨c, h ▸ hc, rfl, fun _ => rfl⟩⟩

theorem refl (s : State) : KeepsFibres s s := of_crews rfl

theorem trans (h : KeepsFibres s t) (g : KeepsFibres t u) : KeepsFibres s u where
  crew k c hc := by
    obtain ⟨d, hd, hlife, hfib⟩ := h.crew k c hc
    obtain ⟨e, he, hlife', hfib'⟩ := g.crew k d hd
    exact ⟨e, he, hlife'.trans hlife, fun n => (hfib' n).trans (hfib n)⟩

theorem homeWork (h : HomeWork s t) : KeepsFibres s t := of_crews h.crews

theorem foldl {β : Type} {f : State → β → State} (hf : ∀ s x, KeepsFibres s (f s x)) (l : List β) (s : State) :
    KeepsFibres s (l.foldl f s) := by
  induction l generalizing s with
  | nil => exact refl s
  | cons x l ih => exact (hf s x).trans (ih _)

theorem modCrew (s : State) (k : Nat) {f : Crew → Crew} (hf : ∀ c, (f c).life = c.life ∧ (f c).fibres = c.fibres) :
    KeepsFibres s (s.modCrew k f) where
  crew j c hc := by
    by_cases h : j = k
    · subst h
      exact ⟨f c, (kget_kmod_self _ _ _).trans (congrArg _ hc), (hf c).1, fun n => by rw [(hf c).2]⟩
    · exact ⟨c, (kget_kmod_ne _ _ h).trans hc, rfl, fun _ => rfl⟩

theorem modFibre (s : State) (k fid : Nat) {f : Fibre → Fibre} (hf : ∀ x, (f x).unplaced = x.unplaced) :
    KeepsFibres s (s.modFibre k fid f) where
  crew j c hc := by
    by_cases h : j = k
    · subst h
      refine ⟨c.modFibre fid f, (kget_kmod_self _ _ _).trans (congrArg _ hc), rfl, fun n => ?_⟩
      by_cases hn : n = fid
      · subst hn
        rw [Crew.modFibre, kget_kmod_self]
        cases kget c.fibres n with
        | none => rfl
        | some x => exact congrArg some (hf x)
      · rw [Crew.modFibre, kget_kmod_ne _ _ hn]
    · exact ⟨c, (kget_kmod_ne _ _ h).trans hc, rfl, fun _ => rfl⟩

theorem modCore (s : State) (k : Nat) (f : Core → Core) : KeepsFibres s (s.modCore k f) := of_crews rfl

/-- A crew keeps its life. -/
theorem life_eq (h : KeepsFibres s t) {k : Nat} {c : Crew} (hc : kget s.crews k = some c) : (t.crew k).life = c.life := by
  obtain ⟨d, hd, hlife, -⟩ := h.crew k c hc
  rw [State.crew_of_kget hd, hlife]

end KeepsFibres

/-! ## The convergence table -/

theorem State.enter_keeps (s : State) (crew fid : Nat) : KeepsFibres s (s.enter crew fid) := by
  unfold State.enter
  dsimp only
  split
  · refine .trans (.modFibre s crew fid ?_) (.modCore _ _ _)
    exact fun _ => rfl
  · refine .modFibre s crew fid ?_
    exact fun _ => rfl

theorem State.settle_keeps (core n : Nat) : ∀ s : State, KeepsFibres s (s.settle core n) := by
  induction n with
  | zero => exact .refl
  | succ n ih =>
    intro s
    unfold State.settle
    split
    · exact .refl s
    · dsimp only
      split
      · exact .refl s
      · refine .trans (.trans (.modCore s core _) (.foldl (fun t e => .modFibre t _ _ ?_) _ _)) (ih _)
        exact fun _ => rfl

theorem State.dissolve_keeps (s : State) (crew gid : Nat) : KeepsFibres s (s.dissolve crew gid) := by
  unfold State.dissolve
  split
  · exact .refl s
  · refine .trans (.trans (.modCrew s crew ?_) (State.settle_keeps _ _ _)) (.foldl (fun t fid => ?_) _ _)
    · exact fun _ => ⟨rfl, rfl⟩
    split
    · exact t.enter_keeps crew fid
    · exact .refl t

/-- A running crew takes no notice of preemption. -/
theorem State.preemptNotice_running {s : State} {crew : Nat} {fids : List Nat} (h : (s.crew crew).life = .running) :
    s.preemptNotice crew fids = s := by
  rw [State.preemptNotice, h, if_neg (by decide)]

/-- The end of a switch point of a running crew (R31). -/
theorem State.endSwitch_keeps {s : State} {i : Issue} {c : Crew} (hc : kget s.crews i.crew = some c) (hlife : c.life = .running) :
    KeepsFibres s (s.endSwitch i) := by
  unfold State.endSwitch
  split
  · next g _ =>
    have ended := s.dissolve_keeps i.crew g
    rwa [State.preemptNotice_running ((ended.life_eq hc).trans hlife)]
  · rw [State.preemptNotice_running (by rw [State.crew_of_kget hc, hlife])]
    exact .refl s

/-- The end of a control word without effects. -/
theorem State.endControl_keeps {s : State} {i : Issue} {c : Crew} (hc : kget s.crews i.crew = some c) (hlife : c.life = .running) :
    KeepsFibres s (s.endControl i []) := by
  have hnil : (i.grp.fids.flatMap fun f => ([] : List (Nat × Eff)).filter fun x => x.1 == f) = [] := by simp
  rw [State.endControl, hnil]
  exact State.endSwitch_keeps hc hlife

/-! ## Fetches -/

theorem State.codeWord_keeps (s : State) (core key pa : Nat) : KeepsFibres s (s.codeWord core key pa).1 := by
  unfold State.codeWord
  split
  · exact .refl s
  · dsimp only
    split <;> exact .of_crews rfl

theorem State.fetchWord_keeps (s : State) (core pasid va : Nat) : KeepsFibres s (s.fetchWord core pasid va).1 := by
  have xl := KeepsFibres.homeWork (s.coreXl_work core pasid va .fetch)
  unfold State.fetchWord
  split
  · next h => rwa [h] at xl
  · next h =>
    rw [h] at xl
    dsimp only
    split
    · exact xl
    · exact xl.trans (State.codeWord_keeps _ _ _ _)

theorem State.checkHeader_keeps (s : State) (i : Issue) (target : Nat) : KeepsFibres s (s.checkHeader i target).1 := by
  have fetch := s.fetchWord_keeps i.core (s.crew i.crew).pasid ((target + 2 ^ 64 - 4) % 2 ^ 64)
  unfold State.checkHeader
  dsimp only
  split
  · next h => rwa [h] at fetch
  · next h =>
    rw [h] at fetch
    split
    · exact fetch
    · split <;> exact fetch

/-! ## Writes of the frame engine -/

theorem State.allocSeg_keeps (s : State) (crew : Nat) (rec : Bool) : KeepsFibres s (s.allocSeg crew rec).1 := by
  unfold State.allocSeg
  dsimp only
  split
  · refine .trans (.of_crews (t := s.bump) rfl) (.modCrew s.bump crew ?_)
    exact fun _ => ⟨rfl, rfl⟩
  · split
    · exact .of_crews rfl
    · exact .refl s

theorem State.writeBack_keeps (s : State) (core key : Nat) : KeepsFibres s (s.writeBack core key).1 := by
  unfold State.writeBack
  split
  · exact .homeWork (s.mergeSeg_work core key (key * 1024))
  · next g _ =>
    have xl := KeepsFibres.homeWork (s.frameXl_work g.crew g.va .store)
    split
    · next h => rw [h] at xl; exact xl.trans (.homeWork (State.mergeSeg_work _ _ _ _))
    · next h => rwa [h] at xl
    · next h => rw [h] at xl; exact (xl.trans (.modCore _ _ _)).trans (.modCrew _ _ fun _ => ⟨rfl, rfl⟩)

/-- One frame-engine action after another, each of which keeps the fibres. -/
theorem frThen_keeps {α β : Type} {s : State} {r : FrRes α} {k : State → α → FrRes β} (hr : KeepsFibres s r.1)
    (hk : ∀ t a, KeepsFibres t (k t a).1) : KeepsFibres s (frThen r k).1 := by
  obtain ⟨t, e | a⟩ := r
  · exact hr
  · exact hr.trans (hk t a)

theorem State.saddleFill_keeps (s : State) (core crew va pa : Nat) : KeepsFibres s (s.saddleFill core crew va pa).1 := by
  unfold State.saddleFill
  dsimp only
  split
  · exact .of_crews rfl
  · refine frThen_keeps ?_ fun t _ => .of_crews rfl
    split
    · split
      · exact s.writeBack_keeps core _
      · exact .refl s
    · exact .refl s

theorem State.frameWrite_keeps (s : State) (crew va : Nat) (bs : List Byte) : KeepsFibres s (s.frameWrite crew va bs).1 :=
  frThen_keeps (.homeWork (s.frameXl_work crew va .store)) fun t pa =>
    frThen_keeps (t.saddleFill_keeps (t.crew crew).core crew va pa) fun _ _ => .of_crews rfl

/-- The first segment of a new fibre taken and written. -/
theorem State.firstSeg_keeps {s t : State} {crew fid seg : Nat} (h : s.firstSeg crew fid = (t, .ok seg)) : KeepsFibres s t := by
  have alloc := s.allocSeg_keeps crew false
  unfold State.firstSeg at h
  split at h
  · cases h
  · next u va ha =>
    rw [ha] at alloc
    have write := u.frameWrite_keeps crew va (segHeader 0 0 false 0 false (ownerOf (u.crew crew).tag fid) s.age)
    split at h
    · cases h
    · next hw =>
      rw [hw] at write
      cases h
      exact alloc.trans write

end Sys2Proof.Machine
end

section
/-! PROOF. SPAWN (R36, R345): the fibres of the crew as one table of positions, which each selected fibre changes in turn. -/

namespace Sys2Proof.Machine

open Sys2Proof.Terms

/-! ## The fibres of a running crew, but for their places -/

/-- The fibres of a crew by their positions, but for their places. -/
def Crew.roll (c : Crew) (n : Nat) : Option Fibre := (kget c.fibres n).map Fibre.unplaced

/-- A crew runs and has these fibres. -/
def Runs (s : State) (crew : Nat) (V : Nat → Option Fibre) : Prop := ∃ c, kget s.crews crew = some c ∧ c.life = .running ∧ c.roll = V

theorem KeepsFibres.runs {s t : State} (h : KeepsFibres s t) {crew : Nat} {V : Nat → Option Fibre} (hs : Runs s crew V) : Runs t crew V := by
  obtain ⟨c, hc, hlife, hroll⟩ := hs
  obtain ⟨d, hd, hl, hf⟩ := h.crew crew c hc
  exact ⟨d, hd, hl.trans hlife, (funext hf).trans hroll⟩

theorem roll_isSome (c : Crew) (n : Nat) : (c.roll n).isSome = (kget c.fibres n).isSome := Option.isSome_map

theorem roll_eq_none {c : Crew} {n : Nat} (h : kget c.fibres n = none) : c.roll n = none := by rw [Crew.roll, h]; rfl

/-- The fibre at a position of the roll. -/
theorem fibre_unplaced {c : Crew} {n : Nat} {f : Fibre} (h : c.roll n = some f) : (c.fibre n).unplaced = f := by
  obtain ⟨x, hx, rfl⟩ := Option.map_eq_some_iff.mp h
  rw [Crew.fibre, kgetD, hx]
  rfl

/-- A position of the crew takes a fibre. -/
theorem Runs.modCrew_kset {s : State} {crew : Nat} {V : Nat → Option Fibre} (h : Runs s crew V) (n : Nat) (x : Fibre) {k : Crew → Crew}
    (hk : ∀ c, (k c).life = c.life ∧ (k c).fibres = kset c.fibres n x) :
    Runs (s.modCrew crew k) crew (Function.update V n (some x.unplaced)) := by
  obtain ⟨c, hc, hlife, rfl⟩ := h
  refine ⟨k c, (kget_kmod_self _ _ _).trans (congrArg _ hc), (hk c).1.trans hlife, funext fun m => ?_⟩
  rw [Crew.roll, (hk c).2, kget_kset, Function.update_apply]
  split
  · rfl
  · rfl

/-- A fibre of the crew is replaced. -/
theorem Runs.modFibre {s : State} {crew n : Nat} {V : Nat → Option Fibre} (h : Runs s crew V) (hn : (V n).isSome = true) (x : Fibre) :
    Runs (s.modFibre crew n fun _ => x) crew (Function.update V n (some x.unplaced)) := by
  obtain ⟨c, hc, hlife, rfl⟩ := h
  refine ⟨c.modFibre n fun _ => x, (kget_kmod_self _ _ _).trans (congrArg _ hc), hlife, funext fun m => ?_⟩
  rw [Crew.roll, Crew.modFibre, kget_kmod, Function.update_apply]
  split
  · obtain ⟨y, hy⟩ := Option.isSome_iff_exists.mp ((roll_isSome c n).symm.trans hn)
    rw [hy]
    rfl
  · rfl

/-! ## One push of SPAWN -/

/-- A fibre after the push of SPAWN. -/
def Env.spawnPushed (e : Env) (fid : Nat) (f : Fibre) (r : Bool) : Fibre := f.putP 4 (pushP f.p r) (e.pick fid 64 3)

/-- No write to P is in a window. -/
def Fibre.PShut (f : Fibre) : Prop := ∀ w ∈ f.pwin, w.openAt f.pos = false

theorem State.pushSpawn_runs {s : State} {e : Env} {fid : Nat} {f : Fibre} {V : Nat → Option Fibre} (r : Bool) (h : Runs s e.iss.crew V)
    (hf : V fid = some f) (hp : f.PShut) :
    Runs (s.pushSpawn e fid r).1 e.iss.crew (Function.update V fid (some (e.spawnPushed fid f r).unplaced)) ∧
      (s.pushSpawn e fid r).2 = none := by
  have hroll : ((s.crew e.iss.crew).fibre fid).unplaced = f := by
    obtain ⟨c, hc, -, rfl⟩ := h
    rw [State.crew_of_kget hc]
    exact fibre_unplaced hf
  generalize hg : (s.crew e.iss.crew).fibre fid = g at hroll
  have hpush : s.pushSpawn e fid r = (s.modFibre e.iss.crew fid fun _ => e.spawnPushed fid g r, none) := by
    rw [State.pushSpawn, hg, Env.changeP_settled (f := g) (by subst hroll; exact hp)]
    rfl
  rw [hpush]
  refine ⟨?_, rfl⟩
  have hrun := h.modFibre (n := fid) (by rw [hf]; rfl) (e.spawnPushed fid g r)
  rwa [← hroll]

/-! ## The selected fibres one after another -/

/-- A fibre of the group after those of a list have acted: the next word, with true or false pushed on those that have acted and false on
those that the guard excludes. -/
def Env.spawnOwn (e : Env) (c : Crew) (N : Nat → Option Nat) (out done : List Nat) (f : Nat) : Fibre :=
  let x := (standsAt (e.iss.pc + 4) (c.fibre f)).unplaced
  if f ∈ done then e.spawnPushed f x (N f).isSome else if f ∈ out then e.spawnPushed f x false else x

/-- The roll of a crew once the fibres of a list have acted. -/
structure Spawned (e : Env) (c : Crew) (S : Nat → Nat) (P : Nat → Word × Word) (N : Nat → Option Nat) (out done : List Nat)
    (V : Nat → Option Fibre) : Prop where
  own : ∀ f ∈ e.iss.grp.fids, V f = some (e.spawnOwn c N out done f)
  born : ∀ f ∈ done, ∀ n, N f = some n →
    kget c.fibres n = none ∧ ∃ seg, V n = some (newFibre (c.fibre f) (P f).1 (P f).2 seg (S f)).unplaced
  others : ∀ n, (kget c.fibres n).isSome = true ∨ (∀ f ∈ done, N f ≠ some n) → (V n).isSome = (kget c.fibres n).isSome

section

variable {e : Env} {c : Crew} {S : Nat → Nat} {P : Nat → Word × Word} {N : Nat → Option Nat} {out done : List Nat} {V : Nat → Option Fibre}
  {f : Nat}

theorem Env.spawnOwn_before (hd : f ∉ done) (ho : f ∉ out) :
    e.spawnOwn c N out done f = (standsAt (e.iss.pc + 4) (c.fibre f)).unplaced := by
  rw [Env.spawnOwn, if_neg hd, if_neg ho]

theorem Env.spawnOwn_after (hd : f ∈ done) :
    e.spawnOwn c N out done f = e.spawnPushed f (standsAt (e.iss.pc + 4) (c.fibre f)).unplaced (N f).isSome := by
  rw [Env.spawnOwn, if_pos hd]

theorem Env.spawnOwn_append_ne {g : Nat} (h : g ≠ f) : e.spawnOwn c N out (done ++ [f]) g = e.spawnOwn c N out done g := by
  simp [Env.spawnOwn, h]

/-- A fibre of the group has acted; V has its new fibre, if one was made. -/
theorem Spawned.own_push (hV : ∀ g ∈ e.iss.grp.fids, V g = some (e.spawnOwn c N out done g)) {g : Nat} (hg : g ∈ e.iss.grp.fids) :
    Function.update V f (some (e.spawnOwn c N out (done ++ [f]) f)) g = some (e.spawnOwn c N out (done ++ [f]) g) := by
  by_cases h : g = f
  · rw [h, Function.update_self]
  · rw [Function.update_of_ne h, hV g hg, Env.spawnOwn_append_ne h]

/-- A fibre that found no free position. -/
theorem Spawned.push_false (h : Spawned e c S P N out done V) (hN : N f = none) (hf : f ∈ e.iss.grp.fids)
    (hc : (kget c.fibres f).isSome = true) :
    Spawned e c S P N out (done ++ [f]) (Function.update V f (some (e.spawnOwn c N out (done ++ [f]) f))) where
  own g hg := Spawned.own_push h.own hg
  born g hg n hn := by
    have hgd : g ∈ done := by
      rcases List.mem_append.mp hg with hg | hg
      · exact hg
      · cases List.mem_singleton.mp hg; rw [hN] at hn; cases hn
    obtain ⟨hnone, seg, hV⟩ := h.born g hgd n hn
    have hne : n ≠ f := by rintro rfl; rw [hnone] at hc; cases hc
    exact ⟨hnone, seg, by rw [Function.update_of_ne hne, hV]⟩
  others n hn := by
    by_cases hne : n = f
    · rw [hne, Function.update_self, hc]; rfl
    · rw [Function.update_of_ne hne]
      exact h.others n (hn.imp_right fun hn g hg => hn g (List.mem_append_left _ hg))

/-- A fibre that made a new one at a free position. -/
theorem Spawned.push_true (h : Spawned e c S P N out done V) {n seg : Nat} (hN : N f = some n) (hV : V n = none)
    (hc : (kget c.fibres f).isSome = true) (hfids : ∀ g ∈ e.iss.grp.fids, (kget c.fibres g).isSome = true) :
    Spawned e c S P N out (done ++ [f]) (Function.update
      (Function.update V n (some (newFibre (c.fibre f) (P f).1 (P f).2 seg (S f)).unplaced)) f
      (some (e.spawnOwn c N out (done ++ [f]) f))) := by
  have hfree : kget c.fibres n = none := by
    by_contra hsome
    have hs := Option.isSome_iff_ne_none.mpr hsome
    have := h.others n (.inl hs)
    rw [hV, hs] at this
    cases this
  have hnf : ∀ g, (kget c.fibres g).isSome = true → g ≠ n := by rintro g hg rfl; rw [hfree] at hg; cases hg
  refine ⟨fun g hg => Spawned.own_push (fun g hg => ?_) hg, fun g hg m hm => ?_, fun m hm => ?_⟩
  · rw [Function.update_of_ne (hnf g (hfids g hg)), h.own g hg]
  · rcases List.mem_append.mp hg with hg | hg
    · obtain ⟨hnone, seg', hVm⟩ := h.born g hg m hm
      have hmf : m ≠ f := by rintro rfl; rw [hnone] at hc; cases hc
      have hmn : m ≠ n := by rintro rfl; rw [hV] at hVm; cases hVm
      exact ⟨hnone, seg', by rw [Function.update_of_ne hmf, Function.update_of_ne hmn, hVm]⟩
    · cases List.mem_singleton.mp hg
      cases hN.symm.trans hm
      exact ⟨hfree, seg, by rw [Function.update_of_ne (hnf f hc).symm, Function.update_self]⟩
  · by_cases hmf : m = f
    · rw [hmf, Function.update_self, hc]; rfl
    · have hmn : m ≠ n := by
        rintro rfl
        rcases hm with hm | hm
        · exact hnf m hm rfl
        · exact hm f (List.mem_append_right _ (List.mem_singleton.mpr rfl)) hN
      rw [Function.update_of_ne hmf, Function.update_of_ne hmn]
      exact h.others m (hm.imp_right fun hm g hg => hm g (List.mem_append_left _ hg))

end

/-- An aligned canonical address is a target. -/
theorem targetCause_none {a : Nat} (h : a % 4 = 0) (hc : Canonical a) : targetCause a true = none := by
  have hcan : canonical57 a = true := by
    rw [canonical57, canonical]
    simpa [Canonical] using hc
  rw [targetCause, hcan, h]
  rfl

/-- The state after SPAWN of one fibre, whose address is a target (the clauses of the statement). -/
def SpawnsTo (e : Env) (start : Nat) (p : Word × Word) (pos : Option Nat) (a : State) (f : Nat) (b : State) : Prop :=
  ∃ u, a.checkHeader e.iss start = (u, none) ∧ (u.crew e.iss.crew).emptyPosition = pos ∧
    match pos with
    | none => b = (u.pushSpawn e f false).1
    | some n => ∃ v seg, u.firstSeg e.iss.crew n = (v, .ok seg) ∧
        b = (((v.modCrew e.iss.crew fun x => { x with
          fibres := kset x.fibres n (newFibre ((v.crew e.iss.crew).fibre f) p.1 p.2 seg start), created := x.created + 1 }).enter
            e.iss.crew n).pushSpawn e f true).1

/-- A position that is free in the crew is free on its roll. -/
theorem roll_emptyPosition {c : Crew} {n : Nat} (h : c.emptyPosition = some n) : c.roll n = none :=
  roll_eq_none (Option.isNone_iff_eq_none.mp (List.find?_some (p := fun fid => (kget c.fibres fid).isNone) h))

/-- SPAWN of one fibre of the group that has not acted. -/
theorem Spawned.act {e : Env} {c : Crew} {S : Nat → Nat} {P : Nat → Word × Word} {N : Nat → Option Nat} {out done : List Nat}
    {V : Nat → Option Fibre} {a b : State} {f : Nat} {w : Instr} (h : Spawned e c S P N out done V) (ha : Runs a e.iss.crew V)
    (hf : f ∈ e.iss.grp.fids) (hd : f ∉ done) (ho : f ∉ out) (hc : e.crew = c)
    (hfids : ∀ g ∈ e.iss.grp.fids, (kget c.fibres g).isSome = true) (hp : (c.fibre f).PShut)
    (htarget : targetCause (S f) true = none) (hb : SpawnsTo e (S f) (P f) (N f) a f b) :
    a.spawnFibre e.iss e w f (S f) (P f).1 (P f).2 = (b, none) ∧
      ∃ V', Runs b e.iss.crew V' ∧ Spawned e c S P N out (done ++ [f]) V' := by
  obtain ⟨u, hhead, hpos, hb⟩ := hb
  have hu : Runs u e.iss.crew V := by
    have keeps := a.checkHeader_keeps e.iss (S f)
    rw [hhead] at keeps
    exact keeps.runs ha
  have hown := h.own f hf
  rw [Env.spawnOwn_before hd ho] at hown
  have hpush : ∀ r, (N f).isSome = r → (e.spawnPushed f (standsAt (e.iss.pc + 4) (c.fibre f)).unplaced r).unplaced =
      e.spawnOwn c N out (done ++ [f]) f := by
    rintro r rfl
    rw [Env.spawnOwn_after (List.mem_append_right _ (List.mem_singleton.mpr rfl))]
    rfl
  have hstrict : (e.iss.strict && (e.crew.fibre f).inPWin) = false := by rw [hc, Fibre.inPWin_settled hp, Bool.and_false]
  have hshut : (standsAt (e.iss.pc + 4) (c.fibre f)).unplaced.PShut := hp
  simp only [State.spawnFibre, htarget, hhead, hstrict, hpos]
  cases hN : N f with
  | none =>
    rw [hN] at hb
    obtain ⟨hrun, heff⟩ := State.pushSpawn_runs false hu hown hshut
    subst hb
    refine ⟨Prod.ext rfl heff, _, hrun, ?_⟩
    rw [hpush false (by rw [hN]; rfl)]
    exact h.push_false hN hf (hfids f hf)
  | some n =>
    rw [hN] at hb hpos
    obtain ⟨v, seg, hseg, hb⟩ := hb
    have hv : Runs v e.iss.crew V := (State.firstSeg_keeps hseg).runs hu
    have hVn : V n = none := by
      obtain ⟨d, hdu, -, rfl⟩ := hu
      rw [State.crew_of_kget hdu] at hpos
      exact roll_emptyPosition hpos
    have hparent : newFibre ((v.crew e.iss.crew).fibre f) (P f).1 (P f).2 seg (S f) = newFibre (c.fibre f) (P f).1 (P f).2 seg (S f) := by
      obtain ⟨d, hdv, -, rfl⟩ := hv
      rw [State.crew_of_kget hdv]
      have := fibre_unplaced hown
      have hstat : (d.fibre f).unplaced.fstatNow = (standsAt (e.iss.pc + 4) (c.fibre f)).unplaced.fstatNow := by rw [this]
      rw [newFibre, newFibre, show (d.fibre f).fstatNow = (c.fibre f).fstatNow from hstat]
    have hne : f ≠ n := by rintro rfl; rw [hVn] at hown; cases hown
    rw [hparent] at hb
    have hborn := (State.enter_keeps _ e.iss.crew n).runs (hv.modCrew_kset n (newFibre (c.fibre f) (P f).1 (P f).2 seg (S f))
      (k := fun x => { x with
        fibres := kset x.fibres n (newFibre (c.fibre f) (P f).1 (P f).2 seg (S f)), created := x.created + 1 }) fun _ => ⟨rfl, rfl⟩)
    obtain ⟨hrun, heff⟩ := State.pushSpawn_runs true hborn (by rw [Function.update_of_ne hne, hown]) hshut
    subst hb
    simp only [hseg, hparent]
    refine ⟨Prod.ext rfl heff, _, hrun, ?_⟩
    rw [hpush true (by rw [hN]; rfl)]
    exact h.push_true hN hVn (hfids f hf) hfids

/-- What SPAWN does to one selected fibre. -/
def Env.spawnAct (e : Env) (h : EffHdr) (v : State) (fid : Nat) : State × Option Eff :=
  if !e.iss.again && decide (63 ≤ ((e.crew.fibre fid).tok 0).count) then (v, some (laneEff (9, 0x30) e.iss.pc))
  else match e.pairAt fid h.a, e.pairV fid h.b.val with
    | .ok start, .ok p => v.spawnFibre e.iss e (.spawn h) fid start p.1 p.2
    | .error x, _ => laneStop v x e.iss
    | _, .error x => laneStop v x e.iss

/-- A fibre whose token can count and whose operands are read acts as SPAWN says. -/
theorem Env.spawnAct_ok {e : Env} {h : EffHdr} {v : State} {fid start : Nat} {p : Word × Word} (ht : ((e.crew.fibre fid).tok 0).count < 63)
    (hs : e.pairAt fid h.a = .ok start) (hp : e.pairV fid h.b.val = .ok p) :
    e.spawnAct h v fid = v.spawnFibre e.iss e (.spawn h) fid start p.1 p.2 := by
  rw [Env.spawnAct, decide_eq_false (by omega), Bool.and_false, if_neg Bool.false_ne_true, hs, hp]

/-- The selected fibres act one after another. -/
theorem Spawned.foldl {e : Env} {c : Crew} {S : Nat → Nat} {P : Nat → Word × Word} {N : Nat → Option Nat} {h : EffHdr} {out : List Nat}
    (hc : e.crew = c) (hfids : ∀ g ∈ e.iss.grp.fids, (kget c.fibres g).isSome = true) (hp : ∀ g ∈ e.iss.grp.fids, (c.fibre g).PShut) :
    ∀ (l done : List Nat) (a z : State) (V : Nat → Option Fibre), Spawned e c S P N out done V → Runs a e.iss.crew V →
      (∀ f ∈ l, f ∈ e.iss.grp.fids ∧ f ∉ out ∧ ((c.fibre f).tok 0).count < 63 ∧ e.pairAt f h.a = .ok (S f) ∧
        e.pairV f h.b.val = .ok (P f) ∧ targetCause (S f) true = none) → (done ++ l).Nodup →
      OneByOne (fun a f b => SpawnsTo e (S f) (P f) (N f) a f b) l a z →
      l.foldl (fun (r : State × List (Nat × Eff)) fid =>
          let x := e.spawnAct h r.1 fid
          (x.1, r.2 ++ (x.2.map fun e => (fid, e)).toList)) (a, []) = (z, []) ∧
        ∃ V', Runs z e.iss.crew V' ∧ Spawned e c S P N out (done ++ l) V' := by
  intro l
  induction l with
  | nil =>
    rintro done a z V hV ha - - rfl
    exact ⟨rfl, V, ha, by rwa [List.append_nil]⟩
  | cons f l ih =>
    rintro done a z V hV ha hl hn ⟨b, hb, hz⟩
    obtain ⟨hf, ho, ht, hs, hpair, htarget⟩ := hl f List.mem_cons_self
    have hd : f ∉ done := fun hd => (List.nodup_append.mp hn).2.2 f hd f List.mem_cons_self rfl
    obtain ⟨hact, V', hb', hV'⟩ := hV.act (w := .spawn h) ha hf hd ho hc hfids (hp f hf) htarget hb
    have hstep : e.spawnAct h a f = (b, none) := (Env.spawnAct_ok (by rw [hc]; exact ht) hs hpair).trans hact
    rw [List.append_cons] at hn ⊢
    rw [List.foldl_cons]
    simp only [hstep]
    exact ih (done ++ [f]) b z V' hV' hb' (fun g hg => hl g (List.mem_cons_of_mem f hg)) hn hz

/-- The fibres of a group that a word's lanes replace, with the group at the next word. -/
theorem taken_putFibres_setPcs {s : State} {i : Issue} {c : Crew} (hI : Issues s i c) (hrun : c.life = .running)
    {outs : List (Nat × Fibre × Option Eff)} (hn : (outs.map Prod.fst).Nodup) :
    ∃ d, kget (((taken s).modCrew i.crew fun x => x.putFibres outs).setPcs i.crew i.grp.fids (i.pc + 4)).crews i.crew = some d ∧
      d.life = .running ∧ (∀ r ∈ outs, r.1 ∈ i.grp.fids → kget d.fibres r.1 = some (standsAt (i.pc + 4) r.2.1)) ∧
      (∀ f ∈ i.grp.fids, f ∉ outs.map Prod.fst → kget d.fibres f = some (standsAt (i.pc + 4) (c.fibre f))) ∧
      ∀ n, n ∉ i.grp.fids → n ∉ outs.map Prod.fst → kget d.fibres n = kget c.fibres n := by
  obtain ⟨-, hc, -, hsome⟩ := hI
  have hput : kget ((taken s).modCrew i.crew fun x => x.putFibres outs).crews i.crew = some (c.putFibres outs) :=
    (kget_kmod_self _ _ _).trans (congrArg _ hc)
  obtain ⟨hmem, hrest⟩ := c.putFibres_get outs hn
  obtain ⟨d, hd, hde, hf⟩ := State.setPcs_step hput i.grp.fids (i.pc + 4)
  refine ⟨d, hd.2.2, by rw [hde]; exact hrun, fun r hr hg => ?_, fun f hg ho => ?_, fun n hg ho => ?_⟩
  · rw [hf, if_pos hg, hmem r hr]; rfl
  · obtain ⟨x, hx⟩ := Option.isSome_iff_exists.mp (hsome f hg)
    rw [hf, if_pos hg, hrest f ho, Crew.fibre, kgetD, hx]; rfl
  · rw [hf, if_neg hg, hrest n ho]

/-- The excluded lanes are fibres of the group, each once. -/
theorem Env.lanes_out_nodup (e : Env) (g : Guard) (hn : e.iss.grp.fids.Nodup) : (e.lanes g).out.Nodup := by
  cases ha : e.iss.again with
  | true => simp [Env.lanes, ha]
  | false =>
    rw [Env.lanes_eq e g ha]
    exact hn.filter _

/-- The roll of the crew once the excluded fibres have pushed false and the group stands at the next word. -/
theorem Spawned.first {s : State} {i : Issue} {c : Crew} {g : Guard} (S : Nat → Nat) (P : Nat → Word × Word) (N : Nat → Option Nat)
    (hready : Ready s i c g) (hp : PSettled i c) :
    ∃ V, Runs (((taken s).modCrew i.crew fun x =>
        x.putFibres ((envAt s i).changeAll 4 (fun p => pushP p false) ((envAt s i).lanes g).out)).setPcs i.crew i.grp.fids (i.pc + 4)) i.crew V ∧
      Spawned (envAt s i) c S P N ((envAt s i).lanes g).out [] V := by
  obtain ⟨hI, hlife, hbad⟩ := hready
  have hnodup : i.grp.fids.Nodup := hI.2.2.1
  have hout := (Env.lanes_spec (envAt s i) g hnodup hbad).2.2.1
  have hkeys : ((envAt s i).changeAll 4 (fun p => pushP p false) ((envAt s i).lanes g).out).map Prod.fst = ((envAt s i).lanes g).out := by
    simp [Env.changeAll, Function.comp_def]
  obtain ⟨d, hd, hrun, hpush, hstay, hrest⟩ := taken_putFibres_setPcs hI hlife
    (outs := (envAt s i).changeAll 4 (fun p => pushP p false) ((envAt s i).lanes g).out)
    (by rw [hkeys]; exact Env.lanes_out_nodup _ g hnodup)
  rw [hkeys] at hstay hrest
  have own : ∀ f ∈ i.grp.fids, d.roll f = some ((envAt s i).spawnOwn c N ((envAt s i).lanes g).out [] f) := by
    intro f hf
    by_cases ho : f ∈ ((envAt s i).lanes g).out
    · rw [Crew.roll, hpush _ (List.mem_map_of_mem ho) hf, envAt_crew hI, Env.changeP_settled (hp f hf), Env.spawnOwn,
        if_neg List.not_mem_nil, if_pos ho]
      rfl
    · rw [Crew.roll, hstay f hf ho, Env.spawnOwn_before List.not_mem_nil ho]
      rfl
  refine ⟨d.roll, ⟨d, hd, hrun, rfl⟩, own, nofun, fun n _ => ?_⟩
  by_cases hn : n ∈ i.grp.fids
  · rw [own n hn, hI.2.2.2 n hn]; rfl
  · rw [roll_isSome, hrest n hn fun ho => hn (hout n ho)]

/-- The excluded fibres push false without an effect. -/
theorem effsOf_spawnOut {s : State} {i : Issue} {c : Crew} {g : Guard} (hI : Issues s i c) (hbad : ((envAt s i).lanes g).bad = [])
    (hp : PSettled i c) : effsOf ((envAt s i).changeAll 4 (fun p => pushP p false) ((envAt s i).lanes g).out) = [] :=
  effsOf_changeAll_settled 4 _ fun f hf => by
    rw [envAt_crew hI]
    exact hp f ((Env.lanes_spec (envAt s i) g hI.2.2.1 hbad).2.2.1 f hf)

/-- SPAWN of a group that no check of the word stops. -/
theorem exec_spawn {s : State} {i : Issue} {c : Crew} {h : EffHdr} (hready : Ready s i c h.g) (hp : PSettled i c)
    (hcheck : groupCheck (envAt s i) [(h.a, 2)] h.b.val 2 = none) :
    exec (.spawn h) s = .next (((taken s).modCrew i.crew fun x => x.putFibres
      ((envAt s i).changeAll 4 (fun p => pushP p false) ((envAt s i).lanes h.g).out)).control i ((envAt s i).lanes h.g)
        ((envAt s i).spawnAct h)) := by
  obtain ⟨hI, -, hbad⟩ := hready
  have hexec : exec (.spawn h) s = execSpawn h s := rfl
  rw [hexec, execSpawn, withIssue_next hI.1]
  simp only [show envOf i (taken s) = envAt s i from rfl, hcheck, effsOf_spawnOut hI hbad hp, List.append_nil]
  rfl

/-- A control word none of whose fibres performs an effect. -/
theorem State.control_of_foldl {s z : State} {i : Issue} {l : Lanes} {act : FibreAct} (hbad : l.bad = [])
    (h : l.sel.foldl (fun (r : State × List (Nat × Eff)) fid =>
      let x := act r.1 fid
      (x.1, r.2 ++ (x.2.map fun e => (fid, e)).toList)) (s.setPcs i.crew i.grp.fids (i.pc + 4), []) = (z, [])) :
    s.control i l act = z.endControl i [] := by
  rw [State.control, hbad, h]

/-- What a fibre of the group holds after SPAWN: true or false is pushed on its stack. -/
theorem Env.spawnOwn_spec {e : Env} {c : Crew} {N : Nat → Option Nat} {out sel : List Nat} {f : Nat} (hp : (c.fibre f).PShut)
    (hcover : f ∉ sel → f ∈ out) :
    (e.spawnOwn c N out sel f).pc = e.iss.pc + 4 ∧ (e.spawnOwn c N out sel f).v = (c.fibre f).v ∧
      (e.spawnOwn c N out sel f).k = (c.fibre f).k ∧
      StackIs (e.spawnOwn c N out sel f).p (pushed (c.fibre f).p (decide (f ∈ sel) && (N f).isSome)) := by
  have after : e.spawnOwn c N out sel f =
      e.spawnPushed f (standsAt (e.iss.pc + 4) (c.fibre f)).unplaced (decide (f ∈ sel) && (N f).isSome) := by
    by_cases hs : f ∈ sel
    · rw [Env.spawnOwn_after hs, decide_eq_true hs, Bool.true_and]
    · rw [Env.spawnOwn, if_neg hs, if_pos (hcover hs), decide_eq_false hs, Bool.false_and]
  have hshut : (standsAt (e.iss.pc + 4) (c.fibre f)).unplaced.PShut := hp
  rw [after]
  refine ⟨rfl, rfl, rfl, ?_⟩
  rw [Env.spawnPushed, Fibre.putP_settled hshut]
  exact stackIs_pushP _ _

end Sys2Proof.Machine

namespace Sys2Proof.Proofs

open Sys2Proof.Machine Sys2Proof.Terms

/-- Settles O37: the roll of the crew is followed through the selected fibres, by induction on them; the end of the switch point moves fibres
between places only. -/
theorem spawnWord : Obligations.SpawnWord := by
  unfold Obligations.SpawnWord
  intro h s z i c S P N hready hp hcheck hfib _ hone
  obtain ⟨hI, -, hbad⟩ := id hready
  obtain ⟨hnodup, hsel, -, hdisj, hcover⟩ := Env.lanes_spec (envAt s i) h.g hI.2.2.1 hbad
  obtain ⟨V, hV, hfirst⟩ := Spawned.first S P N hready hp
  obtain ⟨hfold, W, hz, hW⟩ := Spawned.foldl (h := h) (envAt_crew hI) hI.2.2.2 hp _ [] _ z V hfirst hV
    (fun f hf => by
      obtain ⟨ht, hs, hpair, halign, hcan⟩ := hfib f hf
      exact ⟨hsel f hf, fun ho => hdisj f ho hf, ht, hs, hpair, targetCause_none halign hcan⟩) hnodup hone
  rw [List.nil_append] at hW
  obtain ⟨d, hd, hlife, rfl⟩ := hz
  obtain ⟨c', hc', -, hroll⟩ := (State.endControl_keeps hd hlife).runs ⟨d, hd, hlife, rfl⟩
  have hexec : exec (.spawn h) s = .next (z.endControl i []) :=
    (exec_spawn hready hp hcheck).trans (congrArg Host.Outcome.next (State.control_of_foldl hbad hfold))
  refine ⟨_, c', hexec, hc', fun f hf => ?_, fun f hf n hn => ?_, fun n hn => ?_⟩
  · obtain ⟨x, hx, hown⟩ := Option.map_eq_some_iff.mp ((congrFun hroll f).trans (hW.own f hf))
    obtain ⟨hpc, hv, hk, hstack⟩ := Env.spawnOwn_spec (e := envAt s i) (N := N) (hp f hf) (hcover f hf)
    rw [← hown] at hpc hv hk hstack
    exact ⟨x, hx, hpc, hv, hk, hstack⟩
  · obtain ⟨hnone, seg, hborn⟩ := hW.born f hf n hn
    obtain ⟨y, hy, hyborn⟩ := Option.map_eq_some_iff.mp ((congrFun hroll n).trans hborn)
    have hseg : y.seg = seg := congrArg Fibre.seg hyborn
    exact ⟨hnone, y, hy, by rw [hseg]; exact Fibre.eq_of_unplaced hyborn⟩
  · rw [← roll_isSome, hroll]
    exact hW.others n hn

end Sys2Proof.Proofs
end

section
/-! PROOF. The end of an operation of an engine on the token of its one owner (R133, R134), and the bytes of a scratchpad after a write. -/

namespace Sys2Proof.Machine

open Sys2Proof.Terms

/-! ## A token counts an operation less -/

/-- A fibre after the completion of an operation that gave no values. -/
def Fibre.counted (f : Fibre) (k : Nat) (cause : Option Cause) (eng : List RelTag) : Fibre :=
  { f with k := kset f.k k { (f.tok k).complete cause with eng := addTags (f.tok k).eng eng } }

/-- The completion of an operation with one owner, an awake fibre, changes that fibre alone. -/
theorem State.completeAll_awake {s : State} {crew fid k : Nat} {c : Crew} {f : Fibre} (h : Awake s crew fid c f) {o : Op}
    (ho : o.owners = [.fibre crew fid k]) (cause : Option Cause) (eng : List RelTag) :
    s.completeAll o cause eng = s.bump.modFibre crew fid fun f => f.counted k cause eng := by
  obtain ⟨hc, hf, hp, hi⟩ := h
  have himaged : ¬(s.crew crew).imaged = true := by rw [State.crew_of_kget hc, hi]; exact Bool.false_ne_true
  have hc' : kget (s.bump.modFibre crew fid fun f => f.counted k cause eng).crews crew = some (c.modFibre fid fun f => f.counted k cause eng) :=
    (kget_kmod_self _ _ _).trans (congrArg _ hc)
  have hf' : kget (c.modFibre fid fun f => f.counted k cause eng).fibres fid = some (f.counted k cause eng) :=
    (kget_kmod_self _ _ _).trans (congrArg _ hf)
  rw [State.completeAll, ho]
  simp only [List.foldl_cons, List.foldl_nil, State.completeFor, if_neg himaged]
  exact State.recheck_of_awake hc' hf' hp

/-- The token of the owner, once its operation is gone. -/
theorem tokenCounts_counted {s : State} {id crew fid k : Nat} {c : Crew} {f : Fibre} (hc : kget s.crews crew = some c)
    (hf : kget c.fibres fid = some f) (hop : kget s.ops id = none) {cause : Option Cause} (eng : List RelTag) {more : Crew → Prop}
    (hmore : more (c.modFibre fid fun f => f.counted k cause eng)) :
    TokenCounts (s.bump.modFibre crew fid fun f => f.counted k cause eng) id crew fid k f cause more := by
  have self : (f.counted k cause eng).tok k = { (f.tok k).complete cause with eng := addTags (f.tok k).eng eng } := kgetD_kset_self _ _ _ _
  refine ⟨hop, c.modFibre fid fun f => f.counted k cause eng, f.counted k cause eng, (kget_kmod_self _ _ _).trans (congrArg _ hc), hmore,
    (kget_kmod_self _ _ _).trans (congrArg _ hf), rfl, ?_, ?_, ?_, fun n hn => kgetD_kset_ne _ _ _ hn⟩
  all_goals
    rw [self]
    cases cause with
    | none => simp [Tok.complete]
    | some x => cases h : (f.tok k).err <;> simp [Tok.complete, h]

/-- An operation without a barrier arrives nowhere. -/
theorem State.arriveOp_none (s : State) (crew : Nat) (agent : Option Nat) : s.arriveOp crew none agent = s := rfl

/-! ## Bytes written to a scratchpad -/

theorem memRead_memWrites {m : Mem} (h : Memory.wf m = true) (a : Nat) (bs : List Byte) (x : Nat) :
    memRead (memWrites m a bs) x = (kget (bytesAt a bs) x).getD (memRead m x) := by
  induction bs generalizing m a with
  | nil => rfl
  | cons b bs ih =>
    rw [memWrites, ih (memWrite_wf h a b), bytesAt, kget]
    by_cases hx : x = a
    · subst hx
      rw [if_pos rfl, kget_bytesAt_of_lt (by omega), Option.getD_none, memRead_memWrite_self h, Option.getD_some]
    · rw [if_neg hx, memRead_memWrite_ne b hx]

/-- A write to a scratchpad puts its bytes there and nothing elsewhere. -/
theorem State.writeScratch_stored {s t : State} (h : s.memWf) (ht : t.scratch = s.scratch) (cluster a : Nat) (bs : List Byte) :
    Stored (memRead s.scratch) (memRead (t.writeScratch cluster a bs).scratch) (scratchKey cluster a) bs := by
  obtain ⟨-, -, hscratch⟩ := h
  refine stored_of_reads fun x => ?_
  change memRead (memWrites t.scratch _ bs) x = _
  rw [ht]
  exact memRead_memWrites hscratch _ bs x

end Sys2Proof.Machine
end

section
/-! PROOF. The copy engine: a crew's next copy starts (R251, R254), and a copy that runs completes (R245 to R250, R253). -/

namespace Sys2Proof.Machine

open Sys2Proof.Terms

/-! ## The completion of a copy -/

/-- A fibre stays awake when its copy leaves the queue of its crew. -/
theorem awake_dropCopy {s : State} {crew fid : Nat} {c : Crew} {f : Fibre} (h : Awake s crew fid c f) (id : Nat) :
    Awake (s.dropCopy id crew) crew fid { c with copies := c.copies.filter fun y => y != id } f := by
  obtain ⟨hc, hf, hp, hi⟩ := h
  exact ⟨(kget_kmod_self _ _ _).trans (congrArg _ hc), hf, hp, hi⟩

/-- A copy that has left its queue and its record. -/
theorem State.dropCopy_ops (s : State) (id crew : Nat) : kget (s.dropCopy id crew).ops id = none := kget_kdel_self _ _

section

variable {s : State} {id crew fid k : Nat} {c : Crew} {f : Fibre} {o : Op} {x : CopyOp}

/-- COMPLETION of a copy that runs is its completion by the copy engine. -/
theorem copyRuns_exec_completion (h : CopyRuns s id crew fid k c f o x) : exec (.completion id) s = .next (s.orSnoop (s.completeCopy id o x)) := by
  obtain ⟨-, -, hop, hkind, hstage, -⟩ := h
  change Host.Outcome.next (match kget s.ops id with | some o => s.orSnoop (s.completeOp id o) | none => s) = _
  rw [hop]
  simp only [State.completeOp, hstage, hkind]
  rfl

/-- A copy that runs passes the checks of its completion. -/
theorem copyRuns_passes (h : CopyRuns s id crew fid k c f o x) :
    s.crew o.issuer = c ∧ (o.stage != .running || s.pageWaits (.op id) || s.clusterGated (clusterOf o.core) || !c.working) = false := by
  obtain ⟨⟨hc, -⟩, hlife, -, -, hstage, hissuer, -, -, hgate, hpage⟩ := h
  refine ⟨by rw [hissuer, State.crew_of_kget hc], ?_⟩
  rw [hstage, hpage, hgate, Crew.working, hlife]
  rfl

theorem copyRuns_completeCopy_failed (h : CopyRuns s id crew fid k c f o x) (herr : x.err ≠ 0) : s.completeCopy id o x = s.failCopy id o x.err := by
  obtain ⟨hcrew, hpass⟩ := copyRuns_passes h
  unfold State.completeCopy
  rw [hcrew]
  simp only [hpass, herr, Bool.false_eq_true, if_false, ne_eq, not_false_eq_true, if_true]

theorem copyRuns_completeCopy_pub (h : CopyRuns s id crew fid k c f o x) (herr : x.err = 0) (hfn : x.fn = 5) :
    s.completeCopy id o x = s.completePub id o := by
  obtain ⟨hcrew, hpass⟩ := copyRuns_passes h
  unfold State.completeCopy
  rw [hcrew]
  simp only [hpass, herr, hfn, fnXpub, Bool.false_eq_true, if_false, ne_eq, not_true_eq_false, if_true]

theorem copyRuns_completeCopy_store (h : CopyRuns s id crew fid k c f o x) (herr : x.err = 0) (hfn : x.fn = 1) {v : State}
    (hv : s.copyStore o x = (v, .ok ())) : s.completeCopy id o x =
      (((v.release (copyAgent (clusterOf o.core)) .package).1.dropCopy id o.issuer).completeAll o none
        [(v.release (copyAgent (clusterOf o.core)) .package).2]).arriveCopy o o.bar := by
  obtain ⟨hcrew, hpass⟩ := copyRuns_passes h
  unfold State.completeCopy
  rw [hcrew]
  simp [hpass, herr, hfn, hv, fnXpub, fnXstore]

/-- A tile that has been built goes to the scratchpad or behind a shutter. -/
theorem copyRuns_completeCopy_tile (h : CopyRuns s id crew fid k c f o x) (herr : x.err = 0) (hpub : x.fn ≠ 5) (hstore : x.fn ≠ 1) {u : State}
    {bs : List Byte} (hu : s.copyTile o x = (u, .ok bs)) : s.completeCopy id o x =
      if x.pub then
        (((u.writeScratch (clusterOf o.core) (c.segScratch.base + x.toff) bs).dropCopy id o.issuer).completeAll o none []).arriveCopy o o.bar
      else ((u.dropCopy id o.issuer).modCrew o.issuer fun y =>
        { y with shutters := y.shutters ++ [⟨id, c.segScratch.base + x.toff, bs, o.bar, []⟩] }).completeAll o none [] := by
  obtain ⟨hcrew, hpass⟩ := copyRuns_passes h
  have hlife : ¬ c.life = .ended := by rw [h.2.1]; decide
  unfold State.completeCopy
  rw [hcrew]
  simp [hpass, herr, hpub, hstore, hu, hlife, fnXpub, fnXstore]

/-- A copy without a barrier ends: it leaves its queue and its record, and its token counts one less. -/
theorem copyEnds {v : State} (h : Awake v crew fid c f) (ho : o.owners = [.fibre crew fid k]) (hi : o.issuer = crew) (hbar : o.bar = none)
    (cause : Option Cause) (eng : List RelTag) :
    ((v.dropCopy id o.issuer).completeAll o cause eng).arriveCopy o o.bar =
      (v.dropCopy id crew).bump.modFibre crew fid fun f => f.counted k cause eng := by
  rw [hbar, State.arriveCopy, State.arriveOp_none, hi, State.completeAll_awake (awake_dropCopy h id) ho]

/-- The token of a copy that has ended. -/
theorem tokenCounts_dropCopy {v : State} (h : Awake v crew fid c f) (cause : Option Cause) (eng : List RelTag) :
    TokenCounts ((v.dropCopy id crew).bump.modFibre crew fid fun f => f.counted k cause eng) id crew fid k f cause
      fun c' => c'.copies = c.copies.filter fun y => y != id :=
  tokenCounts_counted (awake_dropCopy h id).1 h.2.1 (State.dropCopy_ops v id crew) eng rfl

/-- A copy that has ended, of whose completion the host learns nothing. -/
theorem copyRuns_exec_ended (h : CopyRuns s id crew fid k c f o x) {t : State} (ht : s.completeCopy id o x = t) (quiet : NoSnoop s t) :
    exec (.completion id) s = .next t := by
  rw [copyRuns_exec_completion h, ht, State.orSnoop_of_noSnoop quiet]

/-- A copy whose check has failed (R253). -/
theorem copyRuns_becomes_failed (h : CopyRuns s id crew fid k c f o x) (herr : x.err ≠ 0) :
    Becomes (.completion id) s fun t => t.dev = s.dev ∧ t.host = s.host ∧ t.scratch = s.scratch ∧
      TokenCounts t id crew fid k f (some x.err) fun c' => c'.copies = c.copies.filter fun y => y != id := by
  have hend := copyRuns_completeCopy_failed h herr
  have hruns := h
  obtain ⟨hawake, -, -, -, -, hissuer, howners, hbar, -, -⟩ := hruns
  rw [State.failCopy, copyEnds hawake howners hissuer hbar] at hend
  exact ⟨_, copyRuns_exec_ended h hend (noSnoop_of_hostOut rfl), rfl, rfl, rfl, tokenCounts_dropCopy hawake _ _⟩

/-! ## Tiles -/

/-- Elements with their places in a list of n values. -/
theorem map_zipIdx_range {α β : Type} (n : Nat) (g : Nat → α) (F : α → Nat → β) :
    (((List.range n).map g).zipIdx.map fun x => F x.1 x.2) = (List.range n).map fun j => F (g j) j := by
  refine List.ext_getElem (by simp) fun j h1 h2 => ?_
  simp

/-- A row that is read is the copy's row. -/
theorem rowIs_read {s t : State} {pasid : Nat} {x : CopyOp} {k : Nat} {row : List Nat × List Nat} (h : RowIs s t pasid x k row) :
    (if x.fn = fnXgather then s.gatherRow pasid x x.shape k else s.loadRow pasid x x.shape k) = (t, .ok row) := by
  unfold RowIs at h
  unfold State.gatherRow State.loadRow
  by_cases hfn : x.fn = 3
  · rw [if_pos (show x.fn = fnXgather from hfn)]
    rw [if_pos hfn] at h
    cases hl : x.lanes.find? fun l => l.1 == k with
    | none =>
      simp only [hl] at h ⊢
      obtain ⟨rfl, rfl⟩ := h
      rfl
    | some l =>
      simp only [hl] at h ⊢
      obtain ⟨bs, hread, rfl⟩ := h
      simp [hread, codesOf, Function.comp_def]
  · rw [if_neg (show ¬ x.fn = fnXgather from hfn)]
    rw [if_neg hfn] at h
    cases hr : x.shape.row k with
    | none =>
      simp only [hr] at h ⊢
      obtain ⟨rfl, rfl⟩ := h
      rfl
    | some r =>
      obtain ⟨va, cols, plane⟩ := r
      simp only [hr] at h ⊢
      obtain ⟨u, bs, ss, hread, hscales, rfl⟩ := h
      have hss : (if x.shape.sbase = 0 then (u, Except.ok []) else u.engineRead pasid plane (ceilDiv cols 32)) = (t, .ok ss) := by
        by_cases hb : x.shape.sbase = 0
        · rw [if_pos hb] at hscales ⊢
          obtain ⟨rfl, rfl⟩ := hscales
          rfl
        · rwa [if_neg hb] at hscales ⊢
      simp only [hread, hss, codesOf]
      rw [map_zipIdx_range cols _ fun code j =>
        loadElem x.shape.fmt x.shape.acc x.rnd ((ss.map BitVec.toNat).getD (j / 32) 127) code]

/-- Rows that are read one after the other are the copy's rows. -/
theorem rowsAre_read {pasid : Nat} {x : CopyOp} : ∀ {ks : List Nat} {s t : State} {rows : List (List Nat × List Nat)}, RowsAre s pasid x ks rows t →
    rowsM (fun t k => if x.fn = fnXgather then t.gatherRow pasid x x.shape k else t.loadRow pasid x x.shape k) ks s = (t, .ok rows)
  | [], _, _, _, h => by
    obtain ⟨rfl, rfl⟩ := h
    rfl
  | k :: ks, _, _, _, h => by
    obtain ⟨u, row, rest, rfl, hrow, hrest⟩ := h
    rw [rowsM]
    simp only [rowIs_read hrow, rowsAre_read hrest]

/-- The tile of the statement is the one that the engine builds, and its word is none of XSTORE and XPUB. -/
theorem tileIs_copyTile {u : State} {bs : List Byte} (hcrew : s.crew o.issuer = c) (h : TileIs s u o c x bs) :
    s.copyTile o x = (u, .ok bs) ∧ x.fn ≠ 5 ∧ x.fn ≠ 1 := by
  unfold State.copyTile
  rw [hcrew]
  rcases h with ⟨hfn, rfl, hacc, rfl⟩ | ⟨hfn, rfl, hacc, rfl⟩ | ⟨hfn, rfl, hclean, rfl⟩ | ⟨hfn, rows, hrows, rfl⟩
  · simp [hfn, hacc, fnXmove, fnXfill]
  · simp [hfn, hacc, fnXmove, fnXfill]
  · simp [hfn, hclean, fnXmove]
  · have h2 : x.fn ≠ 2 := by omega
    have h4 : x.fn ≠ 4 := by omega
    refine ⟨?_, by omega, by omega⟩
    rw [if_neg (show ¬ x.fn = fnXmove from h2), if_neg (show ¬ x.fn = fnXfill from h4)]
    simp only [rowsAre_read hrows, tileOf]

/-- A copy that builds a tile, with PUB in the scratchpad and without behind a shutter (R245 to R249, R255). -/
theorem copyRuns_becomes_tile (h : CopyRuns s id crew fid k c f o x) (herr : x.err = 0) (hwf : s.memWf) {u : State} {bs : List Byte}
    (htile : TileIs s u o c x bs) (hcrews : u.crews = s.crews) (hscratch : u.scratch = s.scratch) (quiet : NoSnoop s u) :
    Becomes (.completion id) s fun t => t.dev = u.dev ∧ t.host = u.host ∧
      (x.pub = true →
        Stored (memRead s.scratch) (memRead t.scratch) (scratchKey (clusterOf o.core) (c.segScratch.base + x.toff)) bs ∧
        TokenCounts t id crew fid k f none fun c' => c'.copies = c.copies.filter fun y => y != id) ∧
      (x.pub = false → t.scratch = s.scratch ∧ TokenCounts t id crew fid k f none fun c' =>
        (c'.copies = c.copies.filter fun y => y != id) ∧ c'.shutters = c.shutters ++ [⟨id, c.segScratch.base + x.toff, bs, none, []⟩]) := by
  obtain ⟨hcopy, hpub, hstore⟩ := tileIs_copyTile (copyRuns_passes h).1 htile
  have hend := copyRuns_completeCopy_tile h herr hpub hstore hcopy
  have hruns := h
  obtain ⟨⟨hc, hf, hp, hi⟩, -, -, -, -, hissuer, howners, hbar, -, -⟩ := hruns
  have hcu : kget u.crews crew = some c := by rw [hcrews, hc]
  cases hx : x.pub with
  | true =>
    have hw : Awake (u.writeScratch (clusterOf o.core) (c.segScratch.base + x.toff) bs) crew fid c f := ⟨hcu, hf, hp, hi⟩
    rw [hx, if_pos rfl, copyEnds hw howners hissuer hbar] at hend
    exact ⟨_, copyRuns_exec_ended h hend ((newSnoops_congr rfl).trans quiet), rfl, rfl,
      fun _ => ⟨State.writeScratch_stored hwf hscratch _ _ _, tokenCounts_dropCopy hw _ _⟩, nofun⟩
  | false =>
    obtain ⟨hd, -, -, -⟩ := awake_dropCopy (s := u) ⟨hcu, hf, hp, hi⟩ id
    have hshut : Awake ((u.dropCopy id crew).modCrew crew fun y =>
        { y with shutters := y.shutters ++ [⟨id, c.segScratch.base + x.toff, bs, none, []⟩] }) crew fid
        { c with copies := c.copies.filter fun y => y != id
                 shutters := c.shutters ++ [⟨id, c.segScratch.base + x.toff, bs, none, []⟩] } f :=
      ⟨(kget_kmod_self _ _ _).trans (congrArg _ hd), hf, hp, hi⟩
    rw [hx, if_neg Bool.false_ne_true, hissuer, hbar, State.completeAll_awake hshut howners] at hend
    exact ⟨_, copyRuns_exec_ended h hend ((newSnoops_congr rfl).trans quiet), rfl, rfl, nofun,
      fun _ => ⟨hscratch, tokenCounts_counted hshut.1 hf (State.dropCopy_ops u id crew) [] ⟨rfl, rfl⟩⟩⟩

/-- An XSTORE that merges its rows at their homes (R246). -/
theorem copyRuns_becomes_store (h : CopyRuns s id crew fid k c f o x) (herr : x.err = 0) (hfn : x.fn = 1) {v : State} {d : Crew}
    (hstore : s.copyStore o x = (v, .ok ())) (hd : kget v.crews crew = some d) (hfib : d.fibres = c.fibres) (hlife : d.life = c.life)
    (hcopies : d.copies = c.copies) (hscratch : v.scratch = s.scratch) (quiet : NoSnoop s v) :
    Becomes (.completion id) s fun t => t.dev = v.dev ∧ t.host = v.host ∧ t.scratch = s.scratch ∧
      TokenCounts t id crew fid k f none fun c' => c'.copies = c.copies.filter fun y => y != id := by
  have hend := copyRuns_completeCopy_store h herr hfn hstore
  have hruns := h
  obtain ⟨⟨hc, hf, hp, hi⟩, -, -, -, -, hissuer, howners, hbar, -, -⟩ := hruns
  have hawake : Awake (v.release (copyAgent (clusterOf o.core)) .package).1 crew fid d f :=
    ⟨hd, by rw [hfib, hf], hp, by rw [Crew.imaged, hlife]; exact hi⟩
  rw [copyEnds hawake howners hissuer hbar] at hend
  refine ⟨_, copyRuns_exec_ended h hend ((newSnoops_congr rfl).trans quiet), rfl, rfl, hscratch, ?_⟩
  rw [← hcopies]
  exact tokenCounts_dropCopy hawake _ _

/-! ## XPUB -/

/-- The footprints behind shutters in a scratchpad: what a write does to the bytes alone. -/
theorem openShutters_scratch (cluster : Nat) : ∀ (l : List Shutter) (s t : State), t.scratch = s.scratch →
    (l.foldl (fun (t : State) h => t.openShutter cluster h) t).scratch =
      (l.foldl (fun (u : State) h => u.writeScratch cluster h.base h.bytes) s).scratch
  | [], _, _, h => h
  | x :: l, s, t, h => openShutters_scratch cluster l _ _ (by
    change memWrites t.scratch _ _ = memWrites s.scratch _ _
    rw [h])

/-- Opening shutters changes the scratchpads, their tags and their marks. -/
theorem openShutters_frame (cluster : Nat) : ∀ (l : List Shutter) (s : State),
    l.foldl (fun (t : State) h => t.openShutter cluster h) s =
      { s with scratch := (l.foldl (fun (t : State) h => t.openShutter cluster h) s).scratch
               tags := (l.foldl (fun (t : State) h => t.openShutter cluster h) s).tags
               poisonScratch := (l.foldl (fun (t : State) h => t.openShutter cluster h) s).poisonScratch }
  | [], _ => rfl
  | x :: l, s => by
    rw [List.foldl_cons, openShutters_frame cluster l]
    rfl

/-- Copies without barriers arrive nowhere. -/
theorem arriveCopy_noBars (o : Op) {l : List Shutter} (h : ∀ x ∈ l, x.bar = none) (s : State) :
    l.foldl (fun (u : State) x => u.arriveCopy o x.bar) s = s :=
  (List.foldl_ext _ (fun u _ => u) s fun u x hx => by rw [h x hx]; rfl).trans (List.foldl_fixed l)

/-- XPUB of a crew whose shutters name no barrier: every shutter opens (R250). -/
theorem copyRuns_becomes_pub (h : CopyRuns s id crew fid k c f o x) (herr : x.err = 0) (hfn : x.fn = 5) (hbars : ∀ h ∈ c.shutters, h.bar = none) :
    Becomes (.completion id) s fun t => t.dev = s.dev ∧ t.host = s.host ∧
      t.scratch = (c.shutters.foldl (fun (u : State) h => u.writeScratch (clusterOf o.core) h.base h.bytes) s).scratch ∧
      TokenCounts t id crew fid k f none fun c' => (c'.copies = c.copies.filter fun y => y != id) ∧ c'.shutters = [] := by
  have hend := copyRuns_completeCopy_pub h herr hfn
  have hruns := h
  obtain ⟨⟨hc, hf, hp, hi⟩, -, -, -, -, hissuer, howners, hbar, -, -⟩ := hruns
  have hopened : s.openShutters crew o.core = State.modCrew
      (c.shutters.foldl (fun (t : State) h => t.openShutter (clusterOf o.core) h) s) crew fun x => { x with shutters := [] } := by
    rw [State.openShutters, State.crew_of_kget hc]
  have hframe := openShutters_frame (clusterOf o.core) c.shutters s
  have hscratch := openShutters_scratch (clusterOf o.core) c.shutters s s rfl
  generalize c.shutters.foldl (fun (t : State) h => t.openShutter (clusterOf o.core) h) s = v at hopened hframe hscratch
  have hcv : kget v.crews crew = some c := by rw [hframe, hc]
  have hopen : Awake (s.openShutters crew o.core) crew fid { c with shutters := [] } f := by
    rw [hopened]
    exact ⟨(kget_kmod_self _ _ _).trans (congrArg _ hcv), hf, hp, hi⟩
  rw [State.completePub, hissuer, State.crew_of_kget hc, arriveCopy_noBars o hbars, State.completeAll_awake (awake_dropCopy hopen id) howners,
    hbar, State.arriveCopy, State.arriveOp_none] at hend
  have hmem : (s.openShutters crew o.core).dev = s.dev ∧ (s.openShutters crew o.core).host = s.host ∧
      (s.openShutters crew o.core).hostOut = s.hostOut ∧ (s.openShutters crew o.core).scratch = v.scratch := by
    rw [hopened, hframe]
    exact ⟨rfl, rfl, rfl, rfl⟩
  obtain ⟨hdev, hhost, hout, hscr⟩ := hmem
  exact ⟨_, copyRuns_exec_ended h hend (noSnoop_of_hostOut hout), hdev, hhost, hscr.trans hscratch,
    tokenCounts_counted (awake_dropCopy hopen id).1 hf (State.dropCopy_ops _ id crew) [] ⟨rfl, rfl⟩⟩

end

/-! ## The start of a copy (R251, R254) -/

/-- The copy at the head of its crew's queue, which can start. -/
structure CopyWaits (s : State) (crew id : Nat) (o : Op) (x : CopyOp) : Prop where
  head : ∃ rest, (s.crew crew).copies = id :: rest
  working : (s.crew crew).working = true
  op : kget s.ops id = some o
  kind : o.kind = .copy x
  issuer : o.issuer = crew
  issued : o.stage = .issued
  open_ : s.clusterGated (clusterOf o.core) = false

/-- A copy's stage and details in its record. -/
theorem State.setCopy_eq {s : State} {id : Nat} {o : Op} (h : kget s.ops id = some o) (x : CopyOp) (st : OpStage) :
    s.setCopy id x st = { s with ops := kset s.ops id { o with kind := .copy x, stage := st, replays := 0 } } := by
  rw [State.setCopy, kmod, h]

namespace CopyWaits

variable {s : State} {crew id : Nat} {o : Op} {x : CopyOp}

/-- A copy that can start starts by its function. -/
theorem start (h : CopyWaits s crew id o x) : s.startCopy crew =
    if x.fn = fnXpub then s.setCopy id x .running
    else if x.fn = fnXmove ∨ x.fn = fnXfill then
      ((moveCheck (s.crew crew) x).map fun k => s.setCopy id { x with err := k } .running).getD (s.claimStaging id o x (tileBytes x.acc x.rows))
    else s.startRecord id o x := by
  obtain ⟨⟨rest, hhead⟩, hwork, hop, hkind, -, hissued, hopen⟩ := h
  have hgo : (!(s.crew crew).working || o.stage != .issued || s.clusterGated (clusterOf o.core)) = false := by rw [hwork, hissued, hopen]; rfl
  unfold State.startCopy
  simp only [hhead, hop, hkind, hgo, Bool.false_eq_true, if_false]
  cases moveCheck (s.crew crew) x <;> rfl

/-- Staging claimed for a copy, in the three cases of R254. -/
theorem claim (h : CopyWaits s crew id o x) (y : CopyOp) (n : Nat) : s.claimStaging id o y n =
    if Config.stagingBytes < n + (s.crew crew).shut then s.setCopy id { y with err := 0x6C } .running
    else if Config.stagingBytes < n + s.stagingUsed (clusterOf o.core) then s.setCopy id y .issued
    else s.setCopy id { y with claim := n } .running := by
  rw [State.claimStaging, h.issuer]

/-- The copy with its record read. -/
def withRecord (s : State) (crew : Nat) (o : Op) (x : CopyOp) : CopyOp :=
  { x with record := some (x.record.getD (s.readScratch (clusterOf o.core) ((s.crew crew).segScratch.base + x.src) 64)) }

/-- A copy whose record has been read or carries no mark: checked, it starts. -/
theorem startRecord_read (h : CopyWaits s crew id o x)
    (hclean : x.record = none → s.scratchPoison (clusterOf o.core) ((s.crew crew).segScratch.base + x.src) 64 = false) :
    s.startRecord id o x =
      let y := withRecord s crew o x
      ((recordCheck s (s.crew crew) y).map fun k => s.setCopy id { y with err := k } .running).getD
        (if x.fn = fnXstore then if y.lfsr.isSome then s.setCopy id y .running else s.takeLfsr id crew y
          else s.claimStaging id o y (tileBytes y.shape.acc y.recRows)) := by
  have hrec : (if x.record.isNone then
      { x with record := some (s.readScratch (clusterOf o.core) ((s.crew crew).segScratch.base + x.src) 64) } else x) =
        withRecord s crew o x := by
    cases hx : x.record with
    | none => simp [withRecord, hx]
    | some r =>
      obtain ⟨⟩ := x
      cases hx
      rfl
  have hpass : (x.record.isNone && s.scratchPoison (clusterOf o.core) ((s.crew crew).segScratch.base + x.src) 64) = false := by
    cases hx : x.record with
    | none => rw [hclean hx]; rfl
    | some r => rfl
  unfold State.startRecord
  simp only [h.issuer, hpass, hrec, Bool.false_eq_true, if_false]
  cases recordCheck s (s.crew crew) (withRecord s crew o x) <;> rfl

/-- COPY_START of a copy whose start changes its record alone. -/
theorem stays (h : CopyWaits s crew id o x) {y : CopyOp} {st : OpStage} (hstart : s.startCopy crew = s.setCopy id y st) :
    exec (.copyStart crew) s = .next { s with ops := kset s.ops id { o with kind := .copy y, stage := st, replays := 0 } } := by
  change Host.Outcome.next (s.startCopy crew) = _
  rw [hstart, State.setCopy_eq h.op]

/-- COPY_START of a copy that claims staging. -/
theorem claims (h : CopyWaits s crew id o x) {y : CopyOp} {n : Nat} (hstart : s.startCopy crew = s.claimStaging id o y n) :
    (Config.stagingBytes < n + (s.crew crew).shut → exec (.copyStart crew) s =
      .next { s with ops := kset s.ops id { o with kind := .copy { y with err := 0x6C }, stage := .running, replays := 0 } }) ∧
    (n + (s.crew crew).shut ≤ Config.stagingBytes → Config.stagingBytes < n + s.stagingUsed (clusterOf o.core) →
      exec (.copyStart crew) s = .next { s with ops := kset s.ops id { o with kind := .copy y, stage := .issued, replays := 0 } }) ∧
    (n + (s.crew crew).shut ≤ Config.stagingBytes → n + s.stagingUsed (clusterOf o.core) ≤ Config.stagingBytes →
      exec (.copyStart crew) s =
        .next { s with ops := kset s.ops id { o with kind := .copy { y with claim := n }, stage := .running, replays := 0 } }) := by
  rw [h.claim] at hstart
  refine ⟨fun hfull => h.stays ?_, fun hfits hused => h.stays ?_, fun hfits hfree => h.stays ?_⟩
  · rw [hstart, if_pos hfull]
  · rw [hstart, if_neg (Nat.not_lt.mpr hfits), if_pos hused]
  · rw [hstart, if_neg (Nat.not_lt.mpr hfits), if_neg (Nat.not_lt.mpr hfree)]

theorem start_pub (h : CopyWaits s crew id o x) (hfn : x.fn = 5) : s.startCopy crew = s.setCopy id x .running := by
  rw [h.start, if_pos (show x.fn = fnXpub from hfn)]

theorem start_move (h : CopyWaits s crew id o x) (hfn : x.fn = 2 ∨ x.fn = 4) : s.startCopy crew =
    ((moveCheck (s.crew crew) x).map fun k => s.setCopy id { x with err := k } .running).getD
      (s.claimStaging id o x (tileBytes x.acc x.rows)) := by
  rw [h.start, if_neg (show ¬ x.fn = fnXpub by unfold fnXpub; omega), if_pos (show x.fn = fnXmove ∨ x.fn = fnXfill from hfn)]

theorem start_record (h : CopyWaits s crew id o x) (hfn : x.fn = 0 ∨ x.fn = 1 ∨ x.fn = 3) : s.startCopy crew = s.startRecord id o x := by
  rw [h.start, if_neg (show ¬ x.fn = fnXpub by unfold fnXpub; omega),
    if_neg (show ¬(x.fn = fnXmove ∨ x.fn = fnXfill) by unfold fnXmove fnXfill; omega)]

/-- A record with a poison mark that has not been read. -/
theorem startRecord_marked (h : CopyWaits s crew id o x) (hnone : x.record = none)
    (hbad : s.scratchPoison (clusterOf o.core) ((s.crew crew).segScratch.base + x.src) 64 = true) :
    s.startRecord id o x = s.setCopy id { x with err := 0x6A } .running := by
  unfold State.startRecord
  simp only [h.issuer, hnone, hbad, Option.isNone_none, Bool.and_self, if_true]

/-- The state of an LFSR that an XSTORE takes from its crew or its word (R240). -/
def seedOf (c : Crew) (x : CopyOp) : Word := match x.rsd with | some w => if w = 0 then 1 else w | none => c.lfsr

/-- An XSTORE in SR mode takes a state of the LFSR, and its crew's goes on by one step for each element. -/
theorem becomes_lfsr (h : CopyWaits s crew id o x) {y : CopyOp} (hfn : y.fn = 1) (hrnd : y.rnd = 2)
    (hstart : s.startCopy crew = s.takeLfsr id crew y) :
    Becomes (.copyStart crew) s fun t => t = { s with crews := t.crews, ops := t.ops } ∧
      kget t.ops id = some { o with kind := .copy { y with lfsr := some (seedOf (s.crew crew) y) }, stage := .running, replays := 0 } ∧
      t.crew crew = { s.crew crew with lfsr := lfsrStep^[y.shape.rows * dim y.shape.tx 0] (seedOf (s.crew crew) y) } ∧
      ∀ j, j ≠ crew → t.crew j = s.crew j := by
  have htake : s.takeLfsr id crew y = (s.modCrew crew fun x =>
      { x with lfsr := lfsrStep^[y.shape.rows * dim y.shape.tx 0] (seedOf (s.crew crew) y) }).setCopy id
        { y with lfsr := some (seedOf (s.crew crew) y) } .running := by
    rw [State.takeLfsr, if_pos (show y.fn = fnXstore ∧ y.rnd = 2 from ⟨hfn, hrnd⟩)]
    simp only [List.foldl_const, List.length_range]
    rfl
  obtain ⟨c, hc⟩ : ∃ c, kget s.crews crew = some c := by
    obtain ⟨rest, hhead⟩ := h.head
    cases hc : kget s.crews crew with
    | some c => exact ⟨c, rfl⟩
    | none => rw [State.crew, kgetD, hc] at hhead; cases hhead
  refine ⟨_, congrArg Host.Outcome.next (hstart.trans htake), rfl, ?_, ?_, fun j hj => ?_⟩
  · rw [State.setCopy_eq (s := s.modCrew crew _) h.op, kget_kset_self]
  · rw [State.crew_of_kget hc]
    exact State.crew_of_kget ((kget_kmod_self _ _ _).trans (congrArg _ hc))
  · exact State.modCrew_crew_ne s _ hj

end CopyWaits

end Sys2Proof.Machine
end

section
/-! PROOF. Scheduling rounds (R46). -/

namespace Sys2Proof.Machine

open Sys2Proof.Terms

/-- A die has no second round in a tick. -/
theorem State.round_rounded {s : State} {die : Nat} (h : (s.die die).rounded = some s.tick) : s.round die = s := by
  rw [State.round, h, beq_self_eq_true, Bool.or_true, if_pos rfl]

/-- Only with the one fully parked pipeline of a die gone does a saved one fit. -/
theorem State.roomFor_one {s : State} {die tk p : Nat} {c : Crew} (hparked : s.parkedPipes die = [(tk, p)])
    (hfull : s.couldHold die c s.leaving = false) (hfits : s.couldHold die c (s.leaving ++ s.crewsOf [p]) = true) :
    s.roomFor die c = some [p] := by
  have hnone : s.leaving ++ s.crewsOf ([p].take 0) = s.leaving := List.append_nil _
  have hpipes : (sortPairs [(tk, p)]).map Prod.snd = [p] := rfl
  have hrange : List.range ([p].length + 1) = [0, 1] := rfl
  unfold State.roomFor
  simp only [hparked, hpipes, hfull, hrange, Bool.false_eq_true, if_false, List.find?_cons, hnone]
  simp [hfits]

/-- A round that makes room for the one saved pipeline. -/
theorem State.round_saves {s : State} {die id p : Nat} (hpromised : (s.die die).promised = none) (hrounded : (s.die die).rounded ≠ some s.tick)
    (hsaved : s.savedPipes = [id]) (hkept : ∀ d ∈ s.dies, d.2.promised ≠ some id) (hroom : s.roomFor die (s.crew id) = some [p]) :
    s.round die = (s.savePipe (s.crew p) false).modDie die fun d => { d with promised := some id, rounded := some s.tick } := by
  have hgo : ((s.die die).promised.isSome || (s.die die).rounded == some s.tick) = false := by
    rw [hpromised, beq_eq_false_iff_ne.mpr hrounded]; rfl
  have hany : (s.dies.any fun d => d.2.promised == some id) = false := List.any_eq_false.mpr fun d hd => by simpa using hkept d hd
  unfold State.round
  simp [hgo, hsaved, hany, hroom]

/-- The dies of the package after a change of one. -/
theorem State.modDie_die (s : State) (die : Nat) (f : Die → Die) :
    (s.modDie die f).die die = f (s.die die) ∧ ∀ d, d ≠ die → (s.modDie die f).die d = s.die d :=
  ⟨kgetD_kset_self _ _ _ _, fun _ hd => kgetD_kset_ne _ _ _ hd⟩

/-- SCHEDULING_ROUND that saves the one fully parked pipeline of a die for the one saved pipeline. -/
theorem becomes_round {s : State} {die tk p id : Nat} (hdie : die < 8) (hrising : Rising s.crews) (hpromised : (s.die die).promised = none)
    (hrounded : (s.die die).rounded ≠ some s.tick) (hsaved : s.savedPipes = [id]) (hkept : ∀ d ∈ s.dies, d.2.promised ≠ some id)
    (hparked : s.parkedPipes die = [(tk, p)]) (hfull : s.couldHold die (s.crew id) s.leaving = false)
    (hfits : s.couldHold die (s.crew id) (s.leaving ++ s.crewsOf [p]) = true)
    (hfree : ∀ d ∈ s.pipeline (s.crew p), d.2.life ≠ .starting ∧ d.2.life ≠ .restoring) :
    Becomes (.schedulingRound die) s fun t => t = { s with crews := t.crews, dies := t.dies } ∧ (t.die die).promised = some id ∧
      (t.die die).rounded = some s.tick ∧ (∀ d, d ≠ die → t.die d = s.die d) ∧ ∀ k d, kget s.crews k = some d →
        kget t.crews k = some (if (k, d) ∈ s.pipeline (s.crew p) ∧ d.life = .running then { d with life := .saving } else d) := by
  have hround := State.round_saves hpromised hrounded hsaved hkept (State.roomFor_one hparked hfull hfits)
  obtain ⟨hframe, hcrews⟩ := State.savePipe_spec hrising hfree false
  obtain ⟨hself, hother⟩ := State.modDie_die (s.savePipe (s.crew p) false) die fun d => { d with promised := some id, rounded := some s.tick }
  have hdies : ∀ d, (s.savePipe (s.crew p) false).die d = s.die d := fun d => by rw [hframe]; rfl
  refine ⟨_, ?_, ?_, by rw [hself], by rw [hself], fun d hd => (hother d hd).trans (hdies d), fun k d hd => ?_⟩
  · change Host.Outcome.next (if die < Config.dies then s.round die else s) = _
    rw [if_pos (show die < Config.dies from hdie), hround]
  · rw [State.modDie, hframe]
  · simpa using hcrews k d hd

end Sys2Proof.Machine
end

section
/-! PROOF. The matrix engine: the head operation of the one claim of a cluster is carried out (R261, R267 to R278), and a pending claim gets a
free pair (R259). -/

namespace Sys2Proof.Machine

open Sys2Proof.Terms

/-! ## A unit's choice -/

/-- A search that only one member of a list ends. -/
theorem findSome_of_only {α β : Type} {F : α → Option β} {a : α} {b : β} (ha : F a = some b) :
    ∀ {l : List α}, a ∈ l → (∀ x ∈ l, x ≠ a → F x = none) → l.findSome? F = some b
  | x :: l, hmem, hnone => by
    by_cases hx : x = a
    · rw [List.findSome?_cons, hx, ha]
    · rw [List.findSome?_cons, hnone x List.mem_cons_self hx]
      exact findSome_of_only ha ((List.mem_cons.mp hmem).resolve_left (Ne.symm hx)) fun y hy => hnone y (List.mem_cons_of_mem x hy)

/-- The operation at the head of the queue of its crew's one claim, which holds the one granted pair of a cluster. -/
structure MatHead (s : State) (cluster crew id pair : Nat) (q : Claim) (c : Crew) (o : Op) (m : MatOp) : Prop where
  lives : kget s.crews crew = some c
  open_ : s.clusterGated cluster = false
  lt : pair < 4
  pairs : (s.cluster cluster).pairs = [(pair, crew)]
  claims : c.claims = [q]
  granted : q.pair = some pair
  queue : q.queue = [id]
  running : c.life = .running
  op : kget s.ops id = some o
  kind : o.kind = .matrix m none

namespace MatHead

variable {s : State} {cluster crew id pair : Nat} {q : Claim} {c : Crew} {o : Op} {m : MatOp}

/-- The unit that the operation needs chooses it, whichever pair it served last. -/
theorem choice (h : MatHead s cluster crew id pair q c o m) (last : Nat) (hfn : m.fn ≠ 0) :
    s.matChoice cluster last (matUnit m.fn) = some (pair, crew, q, id, o, m) := by
  have hpick : (c.claims.find? fun k => k.pair == some pair) = some q := by simp [h.claims, h.granted]
  have hwork : c.working = true := by rw [Crew.working, h.running]; rfl
  have hop : s.matOp id = some (o, m) := by simp [State.matOp, h.op, h.kind]
  refine findSome_of_only (a := pair) ?_ ?_ fun p _ hp => ?_
  · have hclaim : s.claimOf cluster pair = some (crew, q) := by
      simp [State.claimOf, h.pairs, kget, State.crew_of_kget h.lives, hpick]
    simp [hclaim, State.crew_of_kget h.lives, hwork, h.queue, hop, show m.fn ≠ fnMclaim from hfn]
  · have hlt := h.lt
    exact List.mem_map.mpr ⟨(pair + 4 - (last + 1) % 4) % 4, List.mem_range.mpr (by omega), by omega⟩
  · have hclaim : s.claimOf cluster p = none := by simp [State.claimOf, h.pairs, kget, hp]
    rw [hclaim]
    rfl

/-- MATRIX_OP_START of that unit carries the operation out. -/
theorem exec_start (h : MatHead s cluster crew id pair q c o m) (hfn : m.fn ≠ 0) :
    exec (.matrixOpStart cluster (matUnit m.fn)) s =
      .next (s.orSnoop ((s.modCluster cluster fun x => x.serve (matUnit m.fn) pair).runMat cluster pair crew q id o m)) := by
  change Host.Outcome.next (s.orSnoop (s.startMat cluster (matUnit m.fn))) = _
  rw [State.startMat, h.open_, if_neg Bool.false_ne_true, h.choice _ hfn]

end MatHead

/-! ## What a claim without result buffers sees -/

section

variable {t : State} {core crew : Nat} {seg : SegReg} {k : Claim}

theorem viewPoison_of_noBufs (hseg : (t.crew crew).segScratch = seg) (hk : k.bufs = []) (off n : Nat) :
    t.viewPoison core crew k off n = t.scratchPoison (clusterOf core) (seg.base + off) n := by
  simp only [State.viewPoison, State.scratchPoison, hseg, hk, List.any_nil, Bool.not_false, Bool.and_true, scratchKey, Nat.add_assoc]
  rfl

theorem claimView_of_noBufs (hseg : (t.crew crew).segScratch = seg) (hk : k.bufs = []) (off n : Nat) :
    t.claimView core crew k off n = t.readScratch (clusterOf core) (seg.base + off) n := by
  rw [State.claimView, hseg, hk]
  rfl

/-- A result goes to a new buffer. -/
theorem bufWrite_of_noBufs (hseg : (t.crew crew).segScratch = seg) (hk : k.bufs = []) (id : Nat) (owners : List Owner) (toff size : Nat)
    (f : List Byte → List Byte) : t.bufWrite core crew k id owners toff size f =
      .ok { k with bufs := [⟨toff, f (t.readScratch (clusterOf core) (seg.base + toff) 65536), size, owners, id⟩] } := by
  rw [State.bufWrite, claimView_of_noBufs hseg hk, hk]
  rfl

/-- MLDW of a clean tile within the scratchpad (R270). -/
theorem mldw_ok (hseg : (t.crew crew).segScratch = seg) (hk : k.bufs = []) {m : MatOp} (hlim : m.toff + 260 * (m.a / 256 % 256) ≤ seg.limit)
    (hclean : t.scratchPoison (clusterOf core) (seg.base + m.toff) (260 * (m.a / 256 % 256)) = false)
    (hint : m.int = true → intCheck (t.readScratch (clusterOf core) (seg.base + m.toff) (260 * (m.a / 256 % 256))) (m.a / 256 % 256)
      (m.a % 256) = none) :
    t.mldw core crew k m = .ok { k with shadow := some (planeOf
      (t.readScratch (clusterOf core) (seg.base + m.toff) (260 * (m.a / 256 % 256))) (m.a % 256) (m.a / 256 % 256) m.int) } := by
  unfold State.mldw
  simp only [hseg, viewPoison_of_noBufs hseg hk, claimView_of_noBufs hseg hk, if_neg (Nat.not_lt.mpr hlim), hclean, Bool.false_eq_true, if_false]
  cases hm : m.int with
  | true => simp [hint hm]
  | false => simp

/-- MZERO within the scratchpad (R275). -/
theorem mzero_ok (hseg : (t.crew crew).segScratch = seg) (hk : k.bufs = []) (id : Nat) (owners : List Owner) {m : MatOp}
    (hlim : m.toff + 512 * m.a ≤ seg.limit) : t.mzero core crew id owners k m = .ok { k with bufs :=
      [⟨m.toff, overlay (t.readScratch (clusterOf core) (seg.base + m.toff) 65536) 0 (List.replicate (512 * m.a) 0), 512 * m.a, owners, id⟩] } := by
  have hzero : ∀ n, leBytes n 0 = List.replicate n 0 := by
    intro n
    induction n with
    | zero => rfl
    | succ n ih => rw [leBytes, Nat.zero_div, ih]; rfl
  rw [State.mzero, hseg, if_neg (Nat.not_lt.mpr hlim), bufWrite_of_noBufs hseg hk, hzero]

/-- Ranges that one of two orders separates do not meet. -/
theorem rangesMeet_false {a n b m : Nat} (h : a + n ≤ b ∨ b + m ≤ a) : rangesMeet a n b m = false := by
  simp [rangesMeet]
  omega

/-- MSTORE of a clean accumulator (R276). -/
theorem mstore_ok (hseg : (t.crew crew).segScratch = seg) (hk : k.bufs = []) (id : Nat) (owners : List Owner) {m : MatOp}
    (hdst : m.toff + 33280 ≤ seg.limit) (hsrc : m.a + 65536 ≤ seg.limit) (hapart : m.a + 65536 ≤ m.toff ∨ m.toff + 33280 ≤ m.a)
    (hclean : t.scratchPoison (clusterOf core) (seg.base + m.a) 65536 = false) :
    t.mstore core crew id owners k m = .ok { k with bufs := [⟨m.toff,
      overlay (t.readScratch (clusterOf core) (seg.base + m.toff) 65536) 0 (((List.range 128).flatMap fun i =>
        c16Row i ((List.range 128).map fun j => storeElem m.int m.rz
          (fieldLe (t.readScratch (clusterOf core) (seg.base + m.a) 65536) (f32At i j) 4))) ++ List.replicate 512 0x7F),
      33280, owners, id⟩] } := by
  unfold State.mstore
  simp only [hseg, viewPoison_of_noBufs hseg hk, claimView_of_noBufs hseg hk, bufWrite_of_noBufs hseg hk, bufBytes, hclean,
    rangesMeet_false hapart, Bool.false_eq_true, if_false]
  rw [if_neg (by omega)]

/-- MSTREAM of clean operands (R271 to R274). -/
theorem mstream_ok (hseg : (t.crew crew).segScratch = seg) (hk : k.bufs = []) (id : Nat) (owners : List Owner) {m : MatOp} {p : Plane} {rows : Nat}
    (hact : k.active = some p) (hmode : p.int = m.int) (hplane : p.poisoned = false)
    (hrec : t.scratchPoison (clusterOf core) (seg.base + m.a) 64 = false)
    (hshape : streamShape (t.readScratch (clusterOf core) (seg.base + m.a) 64) = .ok (rows, p.k))
    (htile : m.atile + 260 * rows ≤ seg.limit) (hdst : m.toff + 65536 ≤ seg.limit)
    (hapart : m.atile + 260 * rows ≤ m.toff ∨ m.toff + 65536 ≤ m.atile)
    (hcleanT : t.scratchPoison (clusterOf core) (seg.base + m.atile) (260 * rows) = false)
    (hcleanD : t.scratchPoison (clusterOf core) (seg.base + m.toff) 65536 = false)
    (hint : m.int = true → intCheck (t.readScratch (clusterOf core) (seg.base + m.atile) (260 * rows)) rows p.k = none) :
    t.mstream core crew id owners k m = .ok { k with bufs := [⟨m.toff,
      patch (t.readScratch (clusterOf core) (seg.base + m.toff) 65536) ((List.range rows).flatMap fun i => (List.range p.n).map fun j =>
        (f32At i j, leBytes 4 (
          if m.int then streamInt (t.readScratch (clusterOf core) (seg.base + m.atile) (260 * rows)) p i j
            (fieldLe (t.readScratch (clusterOf core) (seg.base + m.toff) 65536) (f32At i j) 4)
          else streamFloat (t.readScratch (clusterOf core) (seg.base + m.atile) (260 * rows)) rows p i j
            (fieldLe (t.readScratch (clusterOf core) (seg.base + m.toff) 65536) (f32At i j) 4)))),
      65536, owners, id⟩] } := by
  have hcheck : (if m.int then intCheck (t.readScratch (clusterOf core) (seg.base + m.atile) (260 * rows)) rows p.k else none) = none := by
    split
    · next hm => exact hint hm
    · rfl
  unfold State.mstream
  simp only [hseg, hact, hmode, hplane, viewPoison_of_noBufs hseg hk, claimView_of_noBufs hseg hk, bufWrite_of_noBufs hseg hk, bufBytes, hrec,
    hshape, hcleanT, hcleanD, hcheck, rangesMeet_false hapart, bne_self_eq_false, Bool.or_self, Bool.false_eq_true, if_false, ne_eq,
    not_true_eq_false]
  rw [if_neg (by omega)]

end

/-! ## The end of an operation -/

/-- A crew's claim replaced. -/
def Crew.withClaims (c : Crew) (l : List Claim) : Crew := { c with claims := l }

/-- The one claim of a crew, which holds a pair, after a change. -/
theorem modClaim_one {c : Crew} {q : Claim} {pair : Nat} (hclaims : c.claims = [q]) (hpair : q.pair = some pair) (g : Claim → Claim) :
    c.modClaim (fun x => x.pair == some pair) g = c.withClaims [g q] := by
  rw [Crew.modClaim, hclaims]
  simp [hpair, Crew.withClaims]

/-- With no bank of a cluster gated no bank is woken for an access to its scratchpad. -/
theorem wakeRange_of_open {s : State} {cluster : Nat} (h : s.clusterGated cluster = false) (a n : Nat) : s.wakeRange cluster a n = s := by
  have hnone : (s.gated.filter fun u => gateCovers u cluster a n) = [] := by
    refine List.filter_eq_nil_iff.mpr fun u hu => ?_
    have hu' := List.any_eq_false.mp h u hu
    cases u with
    | scratchBank k b =>
      have hk : (k == cluster) = false := by simpa using hu'
      simp [gateCovers, hk]
    | l1Way a b => simp [gateCovers]
    | l2Way a b => simp [gateCovers]
  rw [State.wakeRange, hnone, List.foldl_nil]

/-- The state in which an operation of a claim is performed: its unit has served the pair, and it has left its queue. -/
def startedMat (s : State) (cluster pair crew : Nat) (m : MatOp) : State :=
  (s.modCluster cluster fun x => x.serve (matUnit m.fn) pair).modCrew crew fun c =>
    c.modClaim (fun x => x.pair == some pair) fun x => { x with queue := x.queue.drop 1 }

section

variable {s : State} {cluster crew fid k id pair : Nat} {q : Claim} {c : Crew} {f : Fibre} {o : Op} {m : MatOp}

/-- The crew of the operation then. -/
theorem MatHead.started (h : MatHead s cluster crew id pair q c o m) :
    kget (startedMat s cluster pair crew m).crews crew = some (c.withClaims [{ q with queue := [] }]) := by
  rw [startedMat, State.modCrew_crews, kget_kmod_self]
  refine (congrArg _ h.lives).trans (congrArg some ((modClaim_one h.claims h.granted _).trans ?_))
  rw [h.queue]
  rfl

/-- A matrix operation with one owner and no barrier ends. -/
theorem finishMat_awake {v : State} {d : Crew} (h : Awake v crew fid d f) (ho : o.owners = [.fibre crew fid k]) (hbar : o.bar = none)
    (id : Nat) : v.finishMat id o none =
      ({ v with ops := kdel v.ops id } : State).bump.modFibre crew fid fun f => f.counted k none [] := by
  have hgone : Awake { v with ops := kdel v.ops id } crew fid d f := h
  rw [State.finishMat, hbar, State.arriveOp_none, State.completeAll_awake hgone ho]

/-- The token of a matrix operation that has ended. -/
theorem tokenCounts_finishMat {v : State} {d : Crew} (h : Awake v crew fid d f) {more : Crew → Prop}
    (hmore : more (d.modFibre fid fun f => f.counted k none [])) :
    TokenCounts (({ v with ops := kdel v.ops id } : State).bump.modFibre crew fid fun f => f.counted k none []) id crew fid k f none more :=
  tokenCounts_counted (s := { v with ops := kdel v.ops id }) h.1 h.2.1 (kget_kdel_self _ _) [] hmore

/-- The state in which the claim has become k'. -/
def claimedMat (s : State) (cluster pair crew : Nat) (m : MatOp) (k' : Claim) : State :=
  (startedMat s cluster pair crew m).modCrew crew fun c => c.modClaim (fun x => x.pair == some pair) fun _ => k'

theorem MatHead.claimed (h : MatHead s cluster crew id pair q c o m) (k' : Claim) :
    kget (claimedMat s cluster pair crew m k').crews crew = some (c.withClaims [k']) := by
  rw [claimedMat, State.modCrew_crews, kget_kmod_self, h.started, Option.map_some]
  exact congrArg some (modClaim_one (q := { q with queue := [] }) rfl h.granted _)

/-- Nothing but crews and clusters has changed then. -/
theorem claimedMat_frame (s : State) (cluster pair crew : Nat) (m : MatOp) (k' : Claim) :
    ∃ a b, claimedMat s cluster pair crew m k' = { s with crews := a, clusters := b } := ⟨_, _, rfl⟩

/-- The opening of every result buffer of a claim. -/
theorem openClaim_all {u : State} {k' : Claim} (hu : kget u.crews crew = some (c.withClaims [k'])) (hpair : k'.pair = some pair)
    {test : ResBuf → Bool} (hall : ∀ b ∈ k'.bufs, test b = true) :
    u.openClaim crew pair test = (k'.bufs.foldl (fun (t : State) b => t.openBuf crew b) u).modCrew crew fun c =>
      c.modClaim (fun x => x.pair == some pair) fun x => { x with bufs := x.bufs.filter fun b => !test b } := by
  have hfind : (c.withClaims [k']).claims.find? (fun k => k.pair == some pair) = some k' := by simp [Crew.withClaims, hpair]
  unfold State.openClaim
  simp only [State.crew_of_kget hu, hfind, List.filter_eq_self.mpr hall]

/-- The crew of a claim after the opening of every result buffer. -/
theorem openClaim_claims {v : State} {k' : Claim} (hv : kget v.crews crew = some (c.withClaims [k'])) (hpair : k'.pair = some pair)
    {test : ResBuf → Bool} (hall : ∀ b ∈ k'.bufs, test b = true) :
    kget (v.modCrew crew fun c => c.modClaim (fun x => x.pair == some pair) fun x =>
      { x with bufs := x.bufs.filter fun b => !test b }).crews crew = some (c.withClaims [{ k' with bufs := [] }]) := by
  have hnone : (k'.bufs.filter fun b => !test b) = [] := List.filter_eq_nil_iff.mpr fun b hb => by simp [hall b hb]
  rw [State.modCrew_crews, kget_kmod_self, hv, Option.map_some]
  refine congrArg some ((modClaim_one rfl hpair _).trans ?_)
  rw [hnone]
  rfl

/-- A claim without result buffers opens none. -/
theorem openClaim_noBufs {u : State} {k' : Claim} (hu : kget u.crews crew = some (c.withClaims [k'])) (hpair : k'.pair = some pair)
    (hbufs : k'.bufs = []) (test : ResBuf → Bool) : ∃ l, u.openClaim crew pair test = { u with crews := l } ∧
      kget l crew = some (c.withClaims [k']) := by
  have hall : ∀ b ∈ k'.bufs, test b = true := by rw [hbufs]; nofun
  have hcl := openClaim_claims hu hpair hall
  rw [openClaim_all hu hpair hall, hbufs]
  refine ⟨_, rfl, hcl.trans ?_⟩
  rw [← hbufs]

/-- A result buffer opened writes its bytes to the scratchpad of the crew's cluster, of which no bank is gated. -/
theorem openBuf_eq {u : State} (hu : kget u.crews crew = some c) (hcluster : clusterOf c.core = cluster) (hgate : u.clusterGated cluster = false)
    (b : ResBuf) : u.openBuf crew b = u.writeScratch cluster (c.segScratch.base + b.toff) (b.bytes.take b.len) := by
  unfold State.openBuf
  simp only [State.crew_of_kget hu, hcluster, wakeRange_of_open hgate]

/-- A claim with one result buffer opens it. -/
theorem openClaim_oneBuf {u : State} {k' : Claim} {b : ResBuf} (hu : kget u.crews crew = some (c.withClaims [k'])) (hpair : k'.pair = some pair)
    (hbufs : k'.bufs = [b]) {test : ResBuf → Bool} (htest : test b = true) (hcluster : clusterOf c.core = cluster)
    (hgate : u.clusterGated cluster = false) :
    ∃ l, u.openClaim crew pair test =
        { u.writeScratch cluster (c.segScratch.base + b.toff) (b.bytes.take b.len) with crews := l } ∧
      kget l crew = some (c.withClaims [{ k' with bufs := [] }]) := by
  have hall : ∀ x ∈ k'.bufs, test x = true := by
    rw [hbufs]
    intro x hx
    rw [List.mem_singleton.mp hx, htest]
  have hbuf : u.openBuf crew b = u.writeScratch cluster (c.segScratch.base + b.toff) (b.bytes.take b.len) := openBuf_eq hu hcluster hgate b
  rw [openClaim_all hu hpair hall, hbufs, List.foldl_cons, List.foldl_nil, hbuf]
  exact ⟨_, rfl, openClaim_claims (v := u.writeScratch cluster (c.segScratch.base + b.toff) (b.bytes.take b.len)) hu hpair hall⟩

/-- An operation that succeeds with a claim: its result buffer opens with PUB, and its token counts one less. -/
theorem MatHead.runMat_ok (h : MatHead s cluster crew id pair q c o m) (hrel : m.fn ≠ 1) {k' : Claim}
    (hrun : (startedMat s cluster pair crew m).matRun o.core crew id o.owners { q with queue := [] } m = .ok k') :
    (s.modCluster cluster fun x => x.serve (matUnit m.fn) pair).runMat cluster pair crew q id o m =
      (if m.pub then (claimedMat s cluster pair crew m k').openClaim crew pair fun b => b.toff == m.toff
        else claimedMat s cluster pair crew m k').finishMat id o none := by
  have hqueue : q.queue.drop 1 = [] := by rw [h.queue]; rfl
  unfold State.runMat
  simp only [hqueue]
  rw [if_neg (show ¬ m.fn = fnMrel from hrel), show (State.modCluster s cluster fun x => x.serve (matUnit m.fn) pair).modCrew crew (fun c =>
    c.modClaim (fun x => x.pair == some pair) fun x => { x with queue := x.queue.drop 1 }) = startedMat s cluster pair crew m from rfl, hrun]
  rfl

/-- MATRIX_OP_START of an operation of whose end the host learns nothing. -/
theorem MatHead.exec_ended (h : MatHead s cluster crew id pair q c o m) (h0 : m.fn ≠ 0) {t : State}
    (ht : (s.modCluster cluster fun x => x.serve (matUnit m.fn) pair).runMat cluster pair crew q id o m = t) (hout : t.hostOut = s.hostOut) :
    exec (.matrixOpStart cluster (matUnit m.fn)) s = .next t := by
  rw [h.exec_start h0, ht, State.orSnoop_of_noSnoop (noSnoop_of_hostOut hout)]

/-- A matrix operation of an awake fibre, ready at the head of its queue. -/
theorem matHead_of_ready (h : MatReady s cluster crew fid k id pair q c f o m) : MatHead s cluster crew id pair q c o m := by
  obtain ⟨⟨hc, -⟩, hgate, hlt, hpairs, hclaims, hpair, hqueue, -, hlife, hop, hkind, -⟩ := h
  exact ⟨hc, hgate, hlt, hpairs, hclaims, hpair, hqueue, hlife, hop, hkind⟩

/-- An operation that leaves its claim without result buffers. -/
theorem becomes_mat_plain (h : MatReady s cluster crew fid k id pair q c f o m) (h0 : m.fn ≠ 0) (h1 : m.fn ≠ 1) {k' : Claim}
    (hrun : (startedMat s cluster pair crew m).matRun o.core crew id o.owners { q with queue := [] } m = .ok k')
    (hpair : k'.pair = some pair) (hbufs : k'.bufs = []) :
    Becomes (.matrixOpStart cluster (matUnit m.fn)) s fun t => t.dev = s.dev ∧ t.host = s.host ∧ t.scratch = s.scratch ∧
      TokenCounts t id crew fid k f none fun c' => c'.claims = [k'] := by
  have hhead := matHead_of_ready h
  obtain ⟨⟨hc, hf, hp, hi⟩, -, -, -, -, -, -, -, -, -, -, howners, hbar, -, -⟩ := h
  have hrunMat := hhead.runMat_ok h1 hrun
  have hcl := hhead.claimed k'
  have hv : ∃ v : State, (if m.pub then (claimedMat s cluster pair crew m k').openClaim crew pair fun b => b.toff == m.toff
      else claimedMat s cluster pair crew m k') = v ∧ v.dev = s.dev ∧ v.host = s.host ∧ v.scratch = s.scratch ∧ v.hostOut = s.hostOut ∧
      kget v.crews crew = some (c.withClaims [k']) := by
    cases m.pub with
    | false => exact ⟨claimedMat s cluster pair crew m k', if_neg Bool.false_ne_true, rfl, rfl, rfl, rfl, hcl⟩
    | true =>
      obtain ⟨l, hopen, hl⟩ := openClaim_noBufs hcl hpair hbufs fun b => b.toff == m.toff
      exact ⟨_, (if_pos rfl).trans hopen, rfl, rfl, rfl, rfl, hl⟩
  obtain ⟨v, hveq, hdev, hhost, hscratch, hout, hvc⟩ := hv
  have hawake : Awake v crew fid (c.withClaims [k']) f := ⟨hvc, hf, hp, hi⟩
  rw [hveq, finishMat_awake hawake howners hbar] at hrunMat
  exact ⟨_, hhead.exec_ended h0 hrunMat hout, hdev, hhost, hscratch, tokenCounts_finishMat hawake rfl⟩

/-- An operation that leaves a result (R277, R278). -/
theorem becomes_mat_result (h : MatReady s cluster crew fid k id pair q c f o m) (hwf : s.memWf) (h0 : m.fn ≠ 0) (h1 : m.fn ≠ 1) {len : Nat}
    {bytes : List Byte}
    (hrun : (startedMat s cluster pair crew m).matRun o.core crew id o.owners { q with queue := [] } m =
      .ok { q with queue := [], bufs := [⟨m.toff, bytes, len, o.owners, id⟩] }) :
    Becomes (.matrixOpStart cluster (matUnit m.fn)) s fun t => MatResult s t cluster crew fid k id q c f o m len bytes := by
  have hhead := matHead_of_ready h
  obtain ⟨⟨hc, hf, hp, hi⟩, hgate, -, -, -, hpair, -, -, -, -, -, howners, hbar, -, hcluster⟩ := h
  have hrunMat := hhead.runMat_ok h1 hrun
  have hcl := hhead.claimed { q with queue := [], bufs := [⟨m.toff, bytes, len, o.owners, id⟩] }
  obtain ⟨a, b, hframe⟩ := claimedMat_frame s cluster pair crew m { q with queue := [], bufs := [⟨m.toff, bytes, len, o.owners, id⟩] }
  rw [hframe] at hrunMat hcl
  unfold MatResult
  cases hpub : m.pub with
  | false =>
    have hawake : Awake { s with crews := a, clusters := b } crew fid
        (c.withClaims [{ q with queue := [], bufs := [⟨m.toff, bytes, len, o.owners, id⟩] }]) f := ⟨hcl, hf, hp, hi⟩
    rw [hpub, if_neg Bool.false_ne_true, finishMat_awake hawake howners hbar] at hrunMat
    exact ⟨_, hhead.exec_ended h0 hrunMat rfl, rfl, rfl, tokenCounts_finishMat hawake rfl, rfl⟩
  | true =>
    obtain ⟨l, hopen, hl⟩ := openClaim_oneBuf hcl hpair rfl (test := fun b => b.toff == m.toff) (beq_self_eq_true _) hcluster hgate
    have hawake : Awake { State.writeScratch { s with crews := a, clusters := b } cluster (c.segScratch.base + m.toff) (bytes.take len) with
        crews := l } crew fid (c.withClaims [{ q with queue := [], bufs := [] }]) f := ⟨hl, hf, hp, hi⟩
    rw [hpub, if_pos rfl, hopen, finishMat_awake hawake howners hbar] at hrunMat
    exact ⟨_, hhead.exec_ended h0 hrunMat rfl, rfl, rfl, tokenCounts_finishMat hawake rfl,
      State.writeScratch_stored (t := { s with crews := a, clusters := b }) hwf rfl cluster (c.segScratch.base + m.toff) (bytes.take len)⟩

end

end Sys2Proof.Machine
end

section
/-! PROOF. The statements about single operations of the matrix engine, MREL and the grant of a claim. -/

namespace Sys2Proof.Machine

open Sys2Proof.Terms

section

variable {s : State} {cluster crew fid k id pair : Nat} {q : Claim} {c : Crew} {f : Fibre} {o : Op} {m : MatOp}

/-- Nothing but crews and clusters has changed when an operation is performed. -/
theorem startedMat_frame (s : State) (cluster pair crew : Nat) (m : MatOp) :
    ∃ a b, startedMat s cluster pair crew m = { s with crews := a, clusters := b } := ⟨_, _, rfl⟩

/-- What an operation of a ready claim sees: the crew's scratch segment and the scratchpad as they were. -/
structure MatSees (s t : State) (cluster crew : Nat) (c : Crew) : Prop where
  seg : (t.crew crew).segScratch = c.segScratch
  read : ∀ a n, t.readScratch cluster a n = s.readScratch cluster a n
  mark : ∀ a n, t.scratchPoison cluster a n = s.scratchPoison cluster a n

theorem MatHead.sees (h : MatHead s cluster crew id pair q c o m) : MatSees s (startedMat s cluster pair crew m) cluster crew c := by
  have hstarted := h.started
  obtain ⟨a, b, hframe⟩ := startedMat_frame s cluster pair crew m
  rw [hframe] at hstarted ⊢
  refine ⟨?_, fun _ _ => rfl, fun _ _ => rfl⟩
  rw [State.crew_of_kget hstarted]
  rfl

/-- The operations on a claim, by their functions (R262). -/
theorem matRun_of_fn (t : State) (core crew id : Nat) (owners : List Owner) (k : Claim) (m : MatOp) :
    (m.fn = 2 → t.matRun core crew id owners k m = t.mldw core crew k m) ∧
    (m.fn = 3 → t.matRun core crew id owners k m = .ok { k with active := k.shadow, shadow := k.active }) ∧
    (m.fn = 4 → t.matRun core crew id owners k m = t.mstream core crew id owners k m) ∧
    (m.fn = 5 → t.matRun core crew id owners k m = t.mzero core crew id owners k m) ∧
    (m.fn = 6 → t.matRun core crew id owners k m = t.mstore core crew id owners k m) := by
  refine ⟨?_, ?_, ?_, ?_, ?_⟩ <;> intro hfn <;> simp [State.matRun, hfn, fnMldw, fnMswap, fnMstream, fnMzero, fnMstore]

/-- The units of the functions (R261). -/
theorem matUnit_of_fn (fn : Nat) : (fn = 2 → matUnit fn = .loader) ∧ (fn = 1 ∨ fn = 3 → matUnit fn = .control) ∧
    (fn = 4 ∨ fn = 5 ∨ fn = 6 → matUnit fn = .array) := by
  refine ⟨?_, ?_, ?_⟩
  · rintro rfl; rfl
  · rintro (rfl | rfl) <;> rfl
  · rintro (rfl | rfl | rfl) <;> rfl

/-- MREL performed: the claim and its pair are no more. -/
theorem releasePair_noBufs {t : State} {q : Claim} {x : Cluster} (ht : kget t.crews crew = some (c.withClaims [q])) (hpair : q.pair = some pair)
    (hbufs : q.bufs = []) (hx : t.cluster cluster = x) (hpairs : x.pairs = [(pair, crew)]) :
    ∃ v, t.releasePair cluster crew pair = v ∧ kget v.crews crew = some (c.withClaims []) ∧ v.scratch = t.scratch ∧ v.hostOut = t.hostOut ∧
      v.cluster cluster = { x with pairs := [] } := by
  obtain ⟨l, hopen, hl⟩ := openClaim_noBufs ht hpair hbufs fun _ => true
  rw [State.releasePair, hopen]
  refine ⟨_, rfl, (kget_kmod_self _ _ _).trans ?_, rfl, rfl, (kgetD_kset_self _ _ _ _).trans ?_⟩
  · rw [hl, Option.map_some]
    simp [Crew.withClaims, hpair]
  · change ({ t.cluster cluster with pairs := kdel (t.cluster cluster).pairs pair } : Cluster) = _
    rw [hx, hpairs]
    simp [kdel]

/-- MREL of the one claim of a cluster (R267). -/
theorem becomes_mrel (h : MatHead s cluster crew id pair q c o m) (hawake : Awake s crew fid c f) (hfn : m.fn = 1) (hbufs : q.bufs = [])
    (howners : o.owners = [.fibre crew fid k]) (hbar : o.bar = none) :
    Becomes (.matrixOpStart cluster .control) s fun t => kget t.ops id = none ∧ (t.cluster cluster).pairs = [] ∧
      (t.cluster cluster).lastControl = pair ∧ t.scratch = s.scratch ∧ ∃ c' x, kget t.crews crew = some c' ∧ c'.claims = [] ∧
        kget c'.fibres fid = some x ∧ x = { f with k := x.k } ∧ x.tok k = { f.tok k with count := (f.tok k).count - 1 } := by
  have hserved : (startedMat s cluster pair crew m).cluster cluster = { s.cluster cluster with lastControl := pair } :=
    (kgetD_kset_self _ _ _ _).trans (by rw [hfn]; rfl)
  obtain ⟨v, hrel, hvc, hscratch, hout, hcluster⟩ := releasePair_noBufs h.started h.granted hbufs hserved h.pairs
  have hrun : (s.modCluster cluster fun x => x.serve (matUnit m.fn) pair).runMat cluster pair crew q id o m =
      ((startedMat s cluster pair crew m).releasePair cluster crew pair).finishMat id o none := by
    rw [State.runMat, if_pos (show m.fn = fnMrel from hfn)]
    rfl
  obtain ⟨-, hf, hp, hi⟩ := hawake
  have hv : Awake v crew fid (c.withClaims []) f := ⟨hvc, hf, hp, hi⟩
  rw [hrel, finishMat_awake hv howners hbar] at hrun
  have hexec := h.exec_ended (by omega) hrun hout
  rw [(matUnit_of_fn m.fn).2.1 (.inl hfn)] at hexec
  refine ⟨_, hexec, kget_kdel_self _ _, congrArg Cluster.pairs hcluster, congrArg Cluster.lastControl hcluster, hscratch,
    _, _, (kget_kmod_self _ _ _).trans (congrArg _ hvc), rfl, (kget_kmod_self _ _ _).trans (congrArg _ hf), rfl, kgetD_kset_self _ _ _ _⟩

/-- The state in which a pending claim of a crew holds a free pair. -/
def grantedMat (s : State) (cluster crew pair : Nat) (rest : List Nat) : State :=
  (s.modCluster cluster fun x => { x with pending := rest, pairs := kset x.pairs pair crew }).modCrew crew fun x =>
    { x with claims := x.claims.zipIdx.map fun k => if k.2 = 0 then { k.1 with pair := some pair } else k.1 }

/-- CLAIM_GRANT of a claim whose queue holds its MCLAIM alone (R259). -/
theorem becomes_grant {rest : List Nat} (h : Awake s crew fid c f) (hpend : (s.cluster cluster).pending = crew :: rest)
    (hfree : (List.range 4).find? (fun p => (kget (s.cluster cluster).pairs p).isNone) = some pair)
    (hclaims : c.claims = [⟨[id], none, none, none, [], false⟩]) (hop : kget s.ops id = some o) (hkind : o.kind = .matrix m none) (hfn : m.fn = 0)
    (howners : o.owners = [.fibre crew fid k]) (hbar : o.bar = none) :
    Becomes (.claimGrant cluster) s fun t => kget t.ops id = none ∧ (t.cluster cluster).pending = rest ∧
      (t.cluster cluster).pairs = kset (s.cluster cluster).pairs pair crew ∧ ∃ c' x, kget t.crews crew = some c' ∧
        c'.claims = [⟨[], some pair, none, none, [], false⟩] ∧ kget c'.fibres fid = some x ∧ x = { f with k := x.k } ∧
        x.tok k = { f.tok k with count := (f.tok k).count - 1 } := by
  obtain ⟨hc, hf, hp, hi⟩ := h
  have hgranted : kget (grantedMat s cluster crew pair rest).crews crew =
      some (c.withClaims [⟨[id], some pair, none, none, [], false⟩]) := by
    refine (kget_kmod_self _ _ _).trans ((congrArg _ hc).trans (congrArg some ?_))
    simp only [hclaims]
    rfl
  have hmat : (grantedMat s cluster crew pair rest).matOp id = some (o, m) := by
    change (kget s.ops id).bind _ = _
    rw [hop]
    simp [hkind]
  have hgrant : s.grantClaim cluster = ((grantedMat s cluster crew pair rest).modCrew crew fun x =>
      x.modClaim (fun k => k.pair == some pair) fun k => { k with queue := k.queue.drop 1 }).finishMat id o none := by
    unfold State.grantClaim
    have hfirst : [(⟨[id], none, none, none, [], false⟩ : Claim)].findIdx (fun k => k.pair.isNone) = 0 := rfl
    simp only [hpend, hfree, State.crew_of_kget hc, hclaims, hfirst, List.getElem?_cons_zero, Option.bind_some, List.head?_cons]
    simp only [grantedMat] at hmat
    simp only [hmat, Option.map_some, hfn, fnMclaim, if_true]
    rfl
  have hv : Awake ((grantedMat s cluster crew pair rest).modCrew crew fun x =>
      x.modClaim (fun k => k.pair == some pair) fun k => { k with queue := k.queue.drop 1 }) crew fid
      (c.withClaims [⟨[], some pair, none, none, [], false⟩]) f := by
    refine ⟨(kget_kmod_self _ _ _).trans ((congrArg _ hgranted).trans (congrArg some ?_)), hf, hp, hi⟩
    exact modClaim_one (q := ⟨[id], some pair, none, none, [], false⟩) rfl rfl _
  rw [finishMat_awake hv howners hbar] at hgrant
  have hcluster : (grantedMat s cluster crew pair rest).cluster cluster =
      { s.cluster cluster with pending := rest, pairs := kset (s.cluster cluster).pairs pair crew } := kgetD_kset_self _ _ _ _
  exact ⟨_, congrArg Host.Outcome.next hgrant, kget_kdel_self _ _, congrArg Cluster.pending hcluster, congrArg Cluster.pairs hcluster,
    _, _, (kget_kmod_self _ _ _).trans (congrArg _ hv.1), rfl, (kget_kmod_self _ _ _).trans (congrArg _ hf), rfl, kgetD_kset_self _ _ _ _⟩

end

end Sys2Proof.Machine
end

section
/-! PROOF. The clauses of O51, each from the layer of its engine. -/

namespace Sys2Proof.Proofs

open Sys2Proof.Machine Sys2Proof.Terms

/-- COPY_START of a copy with a record (R236, R237, R240, R254). -/
theorem copyStart_record {s : State} {crew id : Nat} {o : Op} {x : CopyOp} (h : CopyWaits s crew id o x) (hfn : x.fn = 0 ∨ x.fn = 1 ∨ x.fn = 3)
    (hclean : x.record = none → s.scratchPoison (clusterOf o.core) ((s.crew crew).segScratch.base + x.src) 64 = false) :
    (∀ e, recordCheck s (s.crew crew) (CopyWaits.withRecord s crew o x) = some e →
      s.startCopy crew = s.setCopy id { CopyWaits.withRecord s crew o x with err := e } .running) ∧
    (recordCheck s (s.crew crew) (CopyWaits.withRecord s crew o x) = none →
      (x.fn = 1 → x.lfsr.isSome = true → s.startCopy crew = s.setCopy id (CopyWaits.withRecord s crew o x) .running) ∧
      (x.fn = 1 → x.lfsr = none → s.startCopy crew = s.takeLfsr id crew (CopyWaits.withRecord s crew o x)) ∧
      (x.fn ≠ 1 → s.startCopy crew = s.claimStaging id o (CopyWaits.withRecord s crew o x)
        (tileBytes (CopyWaits.withRecord s crew o x).shape.acc (CopyWaits.withRecord s crew o x).recRows))) := by
  have hstart := (h.start_record hfn).trans (h.startRecord_read hclean)
  have hfnY : (CopyWaits.withRecord s crew o x).fn = x.fn := rfl
  have hlfsrY : (CopyWaits.withRecord s crew o x).lfsr = x.lfsr := rfl
  refine ⟨fun e he => ?_, fun hnone => ⟨fun h1 hsome => ?_, fun h1 hno => ?_, fun h1 => ?_⟩⟩
  · rw [hstart]
    simp only [he, Option.map_some, Option.getD_some]
  all_goals
    rw [hstart]
    simp only [hnone, Option.map_none, Option.getD_none, hfnY, hlfsrY]
  · rw [if_pos (show x.fn = fnXstore from h1), if_pos hsome]
  · rw [if_pos (show x.fn = fnXstore from h1), hno, if_neg (by decide)]
  · rw [if_neg (show ¬ x.fn = fnXstore from h1)]

/-- Settles O51: a round by the layer of saved pipelines; the start and the completion of a copy by its function; an operation of a claim by
what the claim sees. -/
theorem engineEvents : Obligations.EngineEvents := by
  unfold Obligations.EngineEvents
  refine ⟨fun s die h => ?_, fun s die tk p id hdie hrising hpromised hrounded hsaved hkept hparked hfull hfits hfree =>
    becomes_round hdie hrising hpromised hrounded hsaved hkept hparked hfull hfits hfree, ?_, ?_, ?_, ?_, ?_⟩
  · change Host.Outcome.next (if die < Config.dies then s.round die else s) = _
    rw [State.round_rounded h, ite_self]
  · intro s crew id rest x o hcopies hwork hop hkind hissuer hissued hgate c used stays claims
    have h : CopyWaits s crew id o x := ⟨⟨rest, hcopies⟩, hwork, hop, hkind, hissuer, hissued, hgate⟩
    refine ⟨fun hpub => h.stays (h.start_pub hpub), fun hmove => ⟨fun e he => h.stays ?_, fun hnone => h.claims ?_⟩, fun hrec => ?_⟩
    · rw [h.start_move hmove, he]
      rfl
    · rw [h.start_move hmove, hnone]
      rfl
    · intro bad
      refine ⟨fun hnone hbad => h.stays ((h.start_record hrec).trans (h.startRecord_marked hnone hbad)), fun hclean => ?_⟩
      obtain ⟨hfails, hpasses⟩ := copyStart_record h hrec hclean
      refine ⟨fun e he => h.stays (hfails e he), fun hnone => ?_⟩
      obtain ⟨hresumed, htakes, hclaims⟩ := hpasses hnone
      refine ⟨fun h1 hready => h.stays ?_, fun h1 h2 hno => ?_, fun h1 => h.claims (hclaims h1)⟩
      · by_cases hl : x.lfsr.isSome = true
        · exact hresumed h1 hl
        · have hrnd : x.rnd ≠ 2 := hready.resolve_right hl
          rw [htakes h1 (Option.not_isSome_iff_eq_none.mp hl), State.takeLfsr, if_neg fun hstore => hrnd hstore.2]
          rfl
      · exact h.becomes_lfsr (y := CopyWaits.withRecord s crew o x) h1 h2 (htakes h1 hno)
  · intro s id crew fid k c f o x h left at_
    refine ⟨copyRuns_becomes_failed h, fun u bs herr hwf htile hcrews _ hscratch quiet =>
        copyRuns_becomes_tile h herr hwf htile hcrews hscratch quiet,
      fun v d herr hfn => ?_, fun herr hfn hbars => copyRuns_becomes_pub h herr hfn hbars⟩
    intro r n tile draws hclean hwrites hd hfib hlife hcopies hscratch quiet
    have hstore : s.copyStore o x = (v, .ok ()) := by
      have hruns := h
      obtain ⟨-, -, -, -, -, hissuer, -⟩ := hruns
      rw [State.copyStore, (copyRuns_passes h).1, hissuer]
      exact (if_neg (by rw [hclean]; decide)).trans hwrites
    exact copyRuns_becomes_store h herr hfn hstore hd hfib hlife hcopies hscratch quiet
  · intro s cluster crew fid k id pair q c f o m h hwf lim seen clean ends next
    have hhead := matHead_of_ready h
    obtain ⟨hseg, hread, hmark⟩ := hhead.sees
    have hruns := h
    obtain ⟨-, -, -, -, -, hpair, -, hbufs, -, -, -, -, -, hcore, -⟩ := hruns
    obtain ⟨hmldw, hmswap, hmstream, hmzero, hmstore⟩ := matRun_of_fn (startedMat s cluster pair crew m) o.core crew id o.owners
      { q with queue := [] } m
    obtain ⟨hloader, hcontrol, harray⟩ := matUnit_of_fn m.fn
    refine ⟨fun hfn hlim hclean hint => ?_, fun hfn => ?_, fun p rows hfn hact hmode hplane hrec hshape htile hdst hapart hcleanT hcleanD => ?_,
      fun hfn hlim => ?_, fun hfn hdst hsrc hapart hclean => ?_⟩
    · rw [← hloader hfn]
      have hrun := (hmldw hfn).trans (mldw_ok (k := { q with queue := [] }) hseg hbufs hlim (by rw [hcore, hmark]; exact hclean)
        (by rw [hcore, hread]; exact hint))
      rw [hcore, hread] at hrun
      exact becomes_mat_plain h (by omega) (by omega) hrun hpair hbufs
    · rw [← hcontrol (.inr hfn)]
      exact becomes_mat_plain h (by omega) (by omega) (hmswap hfn) hpair hbufs
    · intro tile acc hint
      rw [← harray (.inl hfn)]
      have hrun := (hmstream hfn).trans (mstream_ok (k := { q with queue := [] }) hseg hbufs id o.owners hact hmode hplane
        (by rw [hcore, hmark]; exact hrec) (by rw [hcore, hread]; exact hshape) htile hdst hapart (by rw [hcore, hmark]; exact hcleanT)
        (by rw [hcore, hmark]; exact hcleanD) (by rw [hcore, hread]; exact hint))
      simp only [hcore, hread] at hrun
      exact becomes_mat_result h hwf (by omega) (by omega) hrun
    · rw [← harray (.inr (.inl hfn))]
      have hrun := (hmzero hfn).trans (mzero_ok (k := { q with queue := [] }) hseg hbufs id o.owners hlim)
      rw [hcore, hread] at hrun
      exact becomes_mat_result h hwf (by omega) (by omega) hrun
    · rw [← harray (.inr (.inr hfn))]
      have hrun := (hmstore hfn).trans (mstore_ok (k := { q with queue := [] }) hseg hbufs id o.owners hdst hsrc hapart
        (by rw [hcore, hmark]; exact hclean))
      simp only [hcore, hread] at hrun
      exact becomes_mat_result h hwf (by omega) (by omega) hrun
  · intro s cluster crew fid k id pair rest c f o m h hpend hfree hclaims hop hkind hfn howners hbar
    exact becomes_grant h hpend hfree hclaims hop hkind hfn howners hbar
  · intro s cluster crew fid k id pair q c f o m h hgate hlt hpairs hclaims hpair hqueue hbufs hlife hop hkind hfn howners hbar
    exact becomes_mrel ⟨h.1, hgate, hlt, hpairs, hclaims, hpair, hqueue, hlife, hop, hkind⟩ h hfn hbufs howners hbar

end Sys2Proof.Proofs
end

section
/-! PROOF. The refutation of O10: FABS with a popped operand on the crew whose list of fibres does not rise (R29, R32, R148). -/

namespace Sys2Proof.Machine

/-- FABS of the value that each lane pops from queue 0, with NW. -/
def crowdedFabs : Instr := .fabs ⟨.all, true, 0⟩ (.q 0)

/-- After it fibre 0 of the crowded crew finds no entry of the table. -/
theorem stAfter_fabs : stAfter (exec crowdedFabs crowdedState) = some .overflow := by decide +kernel

end Sys2Proof.Machine

namespace Sys2Proof.Proofs

open Sys2Proof.Machine Sys2Proof.Terms

/-- The rule of that word, as R101 to R104 give it. -/
def crowdedFabsRule : LaneRule := rule1 ⟨.all, true, 0⟩ 4 (.q 0) fun _ x => low32 (x.toNat % 2 ^ 31 : Nat)

theorem floatRule_crowdedFabs : floatRule crowdedFabs = some crowdedFabsRule := rfl

/-- The word meets the conditions of a lane word that pops: fibre 0 takes the 5 that stands in queue 0, and FABS signals no exception. -/
theorem popRuns_crowded : crowdedFabsRule.PopRuns crowdedFabs crowdedState crowdedIssue crowdedCrew (fun _ => 5) (fun _ => 0) fun _ => 0 := by
  obtain ⟨⟨hswitch, hpops, -, hfits, hsplit, hbad, hsel⟩, hsupplied, -, -⟩ := quietPops_crowded
  have htaken : crowdedCrew.queueTaken crowdedFabs = false := by decide +kernel
  refine ⟨⟨hswitch, hpops, htaken, hfits, hsplit, hbad, hsel⟩, hsupplied, by decide, fun f hf => ?_⟩
  obtain rfl : f = 0 := List.mem_singleton.mp (sel_crowded ▸ hf)
  refine ⟨fun a ha => reads_crowded a ha 0 hf, fun b hb => ?_, fun h => absurd h (by decide), fun h => absurd h (by decide),
    by decide +kernel, _, 0, rfl, by decide +kernel⟩
  change none = some b at hb
  cases hb

/-- Refutes O10 at the clause of R148 on a word that pops: FABS of the crowded crew, whose fibres are listed in no rising order, so that the 256
of them count as 257 once the word has moved fibre 0: it finds the table full and is in the overflow queue, not loose. -/
theorem not_floatWords : ¬ Obligations.FloatWords := by
  unfold Obligations.FloatWords
  rintro ⟨hfloat, -⟩
  obtain ⟨hpops, -⟩ := hfloat crowdedFabs crowdedFabsRule floatRule_crowdedFabs
  have hruns := (hpops crowdedState crowdedIssue crowdedCrew).1 _ _ _ popRuns_crowded
  obtain ⟨t, c', hexec, -, hcrew, -, -, -, hafter⟩ := hruns
  obtain ⟨x, hx, hloose, -⟩ := hafter 0 (List.mem_singleton.mpr rfl)
  have hover := stAfter_fabs
  rw [hexec] at hover
  change (kget (t.crew crowdedIssue.crew).fibres 0).map Fibre.st = _ at hover
  rw [State.crew_of_kget hcrew, hx, Option.map_some, hloose] at hover
  cases hover

end Sys2Proof.Proofs
end

section
/-! PROOF. What the decoder reads of a word that it accepts (R66 to R80, R87): each check names the field that it lets through, and each format is
the encoder's word of its fields, so that no bit of the word is ignored. -/

namespace Sys2Proof

/-! ## Operand codes -/

theorem guardOf_some {n : Nat} {g : Guard} (hn : n < 16) (h : guardOf n = some g) : n = g.code := by
  have all : ∀ n : Fin 16, ∀ g ∈ guardOf n.val, n.val = g.code := by decide
  exact all ⟨n, hn⟩ g h

theorem selOf_some {n : Nat} {a : Sel} (hn : n < 128) (h : selOf n = some a) : n = a.code := by
  have all : ∀ n : Fin 128, ∀ a ∈ selOf n.val, n.val = a.code := by decide
  exact all ⟨n, hn⟩ a h

theorem condOf_some {n : Nat} {c : Cond} (h : condOf n = some c) : n = c.code := by
  unfold condOf at h
  split at h <;> cases h <;> rfl

theorem pushModeOf_some {n : Nat} {p : PushMode} (h : pushModeOf n = some p) : n = p.code := by
  unfold pushModeOf at h
  split at h <;> cases h <;> rfl

theorem sizeOf_some {n : Nat} {z : Size} (h : sizeOf? n = some z) : n = z.code := by
  unfold sizeOf? at h
  split at h <;> cases h <;> rfl

theorem atomFnOf_some {n : Nat} {f : AtomFn} (h : atomFnOf n = some f) : n = f.code := by
  unfold atomFnOf at h
  split at h <;> cases h <;> rfl

theorem orderOf_some {n : Nat} {o : Order} (h : orderOf n = some o) : n = o.code := by
  unfold orderOf at h
  split at h <;> cases h <;> rfl

theorem scopeOf_some {n : Nat} {s : Scope} (h : scopeOf n = some s) : n = s.code := by
  unfold scopeOf at h
  split at h <;> cases h <;> rfl

/-! ## The checks -/

/-- The number of a bit read as a truth value. -/
theorem toNat_bit (n : Nat) : (n % 2 == 1).toNat = n % 2 := by
  rcases Nat.mod_two_eq_zero_or_one n with e | e <;> rw [e] <;> rfl

section
variable {w : Nat} {i : Instr}

theorem withGuard_ok {k : Guard → Decoded} (h : withGuard w k = .ok i) : ∃ g, w / 2097152 % 16 = g.code ∧ k g = .ok i := by
  unfold withGuard at h
  split at h
  · next g hg => exact ⟨g, guardOf_some (by omega) hg, h⟩
  · cases h

theorem noGuard_ok {k : Decoded} (h : noGuard w k = .ok i) : w / 2097152 % 16 = 0 ∧ k = .ok i := by
  unfold noGuard at h
  split at h
  · cases h
  · split at h
    · next h0 => exact ⟨h0, h⟩
    · cases h

theorem zeroField_ok {n : Nat} {k : Decoded} (h : zeroField n k = .ok i) : n = 0 ∧ k = .ok i := by
  unfold zeroField at h
  split at h
  · next h0 => exact ⟨h0, h⟩
  · cases h

theorem noNw_ok {k : Decoded} (h : noNw w k = .ok i) : w / 1048576 % 2 = 0 ∧ k = .ok i := by
  unfold noNw at h
  split at h
  · next h0 => exact ⟨h0, h⟩
  · cases h

theorem withSel_ok {n : Nat} {ok : Sel → Bool} {k : Sel → Decoded} (hn : n < 128) (h : withSel n ok k = .ok i) :
    ∃ a, n = a.code ∧ ok a = true ∧ k a = .ok i := by
  unfold withSel at h
  split at h
  · next a ha =>
    split at h
    · next hok => exact ⟨a, selOf_some hn ha, hok, h⟩
    · cases h
  · cases h

theorem withSel2_ok {m n : Nat} {ok : Sel → Bool} {k : Sel → Sel → Decoded} (hm : m < 128) (hn : n < 128)
    (h : withSel2 m n ok k = .ok i) : ∃ a b, m = a.code ∧ n = b.code ∧ (ok a && ok b) = true ∧ k a b = .ok i := by
  unfold withSel2 at h
  split at h
  · next a b ha hb =>
    split at h
    · next hok => exact ⟨a, b, selOf_some hm ha, selOf_some hn hb, hok, h⟩
    · cases h
  · cases h

theorem withCond_ok {cc pm : Nat} {ok : Cond → Bool} {k : Cond → PushMode → Decoded} (h : withCond cc pm ok k = .ok i) :
    ∃ c p, cc = c.code ∧ pm = p.code ∧ ok c = true ∧ k c p = .ok i := by
  unfold withCond at h
  split at h
  · next c hc =>
    split at h
    · next hok =>
      split at h
      · next p hp => exact ⟨c, p, condOf_some hc, pushModeOf_some hp, hok, h⟩
      · cases h
    · cases h
  · cases h

/-- The header of formats A and I: with NW its D is 0, and its fields stand in bits 24 to 14. -/
theorem withLane_ok {k : LaneHdr → Decoded} (h : withLane w k = .ok i) :
    ∃ x : LaneHdr, x.ok = true ∧ w / 16384 % 2048 = x.g.code * 128 + x.nw.toNat * 64 + x.d.val ∧ k x = .ok i := by
  obtain ⟨g, hg, h⟩ := withGuard_ok h
  split at h
  · cases h
  · next hnw =>
    refine ⟨_, ?_, ?_, h⟩
    · simp only [LaneHdr.ok, Fin.val_ofNat, Bool.or_eq_true, Bool.not_eq_true', beq_eq_false_iff_ne, beq_iff_eq]
      omega
    · simp only [toNat_bit, Fin.val_ofNat]
      omega

theorem withMem_ok {g : Guard} {k : MemHdr → Decoded} (h : withMem w g k = .ok i) :
    ∃ x : MemHdr, x.g = g ∧ x.ab.okBase = true ∧ w / 131072 % 16 = x.k.val ∧ w / 2048 % 64 = x.d.val ∧ w / 16 % 128 = x.ab.code ∧
      k x = .ok i := by
  obtain ⟨a, ha, hok, h⟩ := withSel_ok (by omega) h
  exact ⟨_, rfl, hok, rfl, rfl, ha, h⟩

theorem withEng_ok {k : EngHdr → Decoded} (h : withEng w k = .ok i) :
    ∃ x : EngHdr, x.a.okUniform = true ∧ w / 131072 % 16 = x.k.val ∧ w / 64 % 128 = x.a.code ∧ w % 32 = x.c.val ∧ k x = .ok i := by
  obtain ⟨a, ha, hok, h⟩ := withSel_ok (by omega) h
  exact ⟨_, hok, rfl, ha, rfl, h⟩

theorem withGEng_ok {g : Guard} {k : GEngHdr → Decoded} (h : withGEng w g k = .ok i) :
    ∃ x : GEngHdr, x.g = g ∧ x.a.okEngine = true ∧ w / 131072 % 16 = x.k.val ∧ w / 64 % 128 = x.a.code ∧ w % 32 = x.b.val ∧
      k x = .ok i := by
  obtain ⟨a, ha, hok, h⟩ := withSel_ok (by omega) h
  exact ⟨_, rfl, hok, rfl, ha, rfl, h⟩

theorem withEff_ok {g : Guard} {k : EffHdr → Decoded} (h : withEff w g k = .ok i) :
    ∃ x : EffHdr, x.g = g ∧ x.a.okEngine = true ∧ w / 131072 % 16 = 0 ∧ w / 64 % 128 = x.a.code ∧ w % 32 = x.b.val ∧ k x = .ok i := by
  obtain ⟨hk, h⟩ := zeroField_ok h
  obtain ⟨a, ha, hok, h⟩ := withSel_ok (by omega) h
  exact ⟨_, rfl, hok, hk, ha, rfl, h⟩

end

/-! ## The formats -/

/-- An instruction has a word, which is w, and is well-formed. -/
def WordOf (w : Nat) (i : Instr) : Prop := i.isWord = true ∧ i.wellFormed = true ∧ encodeWord i = w

theorem WordOf.congr {v w : Nat} {i : Instr} (h : WordOf v i) (e : v = w) : WordOf w i := e ▸ h

section
variable {w op : Nat} {i : Instr}

theorem decLane2_wordOf {mk : LaneHdr → Sel → Sel → Instr} (hw : w / 33554432 = op) (h : decLane2 w mk = .ok i)
    (hmk : ∀ h a b, h.ok = true → WordOf (encLane op h a.code b.code) (mk h a b)) : WordOf w i := by
  obtain ⟨x, hok, hx, h⟩ := withLane_ok h
  obtain ⟨a, b, ha, hb, -, h⟩ := withSel2_ok (by omega) (by omega) h
  cases h
  exact (hmk x a b hok).congr (by simp only [encLane, encGuard]; omega)

theorem decLane1_wordOf {mk : LaneHdr → Sel → Instr} (hw : w / 33554432 = op) (h : decLane1 w mk = .ok i)
    (hmk : ∀ h a, h.ok = true → WordOf (encLane op h a.code 0) (mk h a)) : WordOf w i := by
  obtain ⟨x, hok, hx, h⟩ := withLane_ok h
  obtain ⟨hb, h⟩ := zeroField_ok h
  obtain ⟨a, ha, -, h⟩ := withSel_ok (by omega) h
  cases h
  exact (hmk x a hok).congr (by simp only [encLane, encGuard]; omega)

theorem decLaneImm_wordOf {mk : LaneHdr → Sel → BitVec 7 → Instr} (hw : w / 33554432 = op) (h : decLaneImm w mk = .ok i)
    (hmk : ∀ h a imm, h.ok = true → WordOf (encLane op h a.code imm.toNat) (mk h a imm)) : WordOf w i := by
  obtain ⟨x, hok, hx, h⟩ := withLane_ok h
  obtain ⟨a, ha, -, h⟩ := withSel_ok (by omega) h
  cases h
  exact (hmk x a _ hok).congr (by simp only [encLane, encGuard, BitVec.toNat_ofNat]; omega)

theorem decCvt_wordOf (hw : w / 33554432 = 60) (h : decCvt w = .ok i) : WordOf w i := by
  obtain ⟨x, hok, hx, h⟩ := withLane_ok h
  split at h
  · obtain ⟨a, ha, -, h⟩ := withSel_ok (by omega) h
    split at h <;> cases h
    · refine ⟨rfl, hok, ?_⟩
      simp only [encodeWord, encLane, encGuard]
      omega
    · refine ⟨rfl, hok, ?_⟩
      simp only [encodeWord, encLane, encGuard, Fin.val_ofNat]
      omega
  · cases h

theorem decMovi_wordOf (hw : w / 33554432 = 63) (h : decMovi w = .ok i) : WordOf w i := by
  obtain ⟨x, hok, hx, h⟩ := withLane_ok h
  cases h
  refine ⟨rfl, hok, ?_⟩
  simp only [encodeWord, encLane, encGuard, BitVec.toNat_ofNat]
  omega

theorem decCmp_wordOf {ok : Cond → Bool} {mk : CmpHdr → Sel → Sel → Instr} (hw : w / 33554432 = op) (h : decCmp w ok mk = .ok i)
    (hmk : ∀ h a b, ok h.cc = true → WordOf (encCmp op h a b) (mk h a b)) : WordOf w i := by
  obtain ⟨g, hg, h⟩ := withGuard_ok h
  obtain ⟨c, p, hc, hp, hok, h⟩ := withCond_ok h
  obtain ⟨a, b, ha, hb, -, h⟩ := withSel2_ok (by omega) (by omega) h
  cases h
  exact (hmk _ a b hok).congr (by simp only [encCmp, encGuard]; omega)

theorem decPstk_wordOf (hw : w / 33554432 = 68) (h : decPstk w = .ok i) : WordOf w i := by
  obtain ⟨g, hg, h⟩ := withGuard_ok h
  obtain ⟨hz, h⟩ := zeroField_ok h
  split at h
  case h_10 => cases h
  all_goals
    cases h
    refine ⟨rfl, rfl, ?_⟩
    simp only [encodeWord, encGuard]
    omega

theorem decXchg_wordOf (hw : w / 33554432 = 69) (h : decXchg w = .ok i) : WordOf w i := by
  obtain ⟨g, hg, h⟩ := withGuard_ok h
  obtain ⟨hnw, h⟩ := noNw_ok h
  split at h
  · cases h
  · next hk =>
    obtain ⟨a, ha, -, h⟩ := withSel_ok (by omega) h
    split at h
    case h_4 h0 h1 h2 =>
      have h3 : w / 32 % 4 ≠ 0 ∧ w / 32 % 4 ≠ 1 ∧ w / 32 % 4 ≠ 2 := ⟨h0, h1, h2⟩
      cases h
      refine ⟨rfl, rfl, ?_⟩
      simp only [encodeWord, encGuard, Fin.val_ofNat]
      omega
    all_goals
      cases h
      refine ⟨rfl, rfl, ?_⟩
      simp only [encodeWord, encGuard, Fin.val_ofNat]
      omega

theorem decVote_wordOf (hw : w / 33554432 = 70) (h : decVote w = .ok i) : WordOf w i := by
  obtain ⟨g, hg, h⟩ := withGuard_ok h
  obtain ⟨hnw, h⟩ := noNw_ok h
  obtain ⟨hz, h⟩ := zeroField_ok h
  split at h
  case h_3 =>
    obtain ⟨a, ha, -, h⟩ := withSel_ok (by omega) h
    cases h
    refine ⟨rfl, rfl, ?_⟩
    simp only [encodeWord, encGuard, Fin.val_ofNat]
    omega
  case h_5 => cases h
  all_goals
    cases h
    refine ⟨rfl, rfl, ?_⟩
    simp only [encodeWord, encGuard, Fin.val_ofNat, BitVec.toNat_ofNat]
    omega

theorem decXdef_wordOf (hw : w / 33554432 = 72) (h : decXdef w = .ok i) : WordOf w i := by
  obtain ⟨g, hg, h⟩ := withGuard_ok h
  obtain ⟨hnw, h⟩ := noNw_ok h
  obtain ⟨hz, h⟩ := zeroField_ok h
  obtain ⟨hz, hz'⟩ := Nat.add_eq_zero_iff.mp hz
  obtain ⟨b, hb, -, h⟩ := withSel_ok (by omega) h
  cases h
  refine ⟨rfl, rfl, ?_⟩
  simp only [encodeWord, encGuard, Fin.val_ofNat]
  omega

theorem decXset_wordOf {mk : Guard → Fin 4 → Sel → Instr} (hw : w / 33554432 = op) (h : decXset w mk = .ok i)
    (hmk : ∀ g x a, WordOf (encGuard op g + x.val * 16384 + a.code * 128) (mk g x a)) : WordOf w i := by
  obtain ⟨g, hg, h⟩ := withGuard_ok h
  obtain ⟨hnw, h⟩ := noNw_ok h
  obtain ⟨hz, h⟩ := zeroField_ok h
  obtain ⟨hz, hz'⟩ := Nat.add_eq_zero_iff.mp hz
  obtain ⟨a, ha, -, h⟩ := withSel_ok (by omega) h
  cases h
  exact (hmk g _ a).congr (by simp only [encGuard, Fin.val_ofNat]; omega)

theorem decSread_wordOf (hw : w / 33554432 = 75) (h : decSread w = .ok i) : WordOf w i := by
  obtain ⟨x, hok, hx, h⟩ := withLane_ok h
  obtain ⟨hz, h⟩ := zeroField_ok h
  split at h <;> cases h
  refine ⟨rfl, hok, ?_⟩
  simp only [encodeWord, encLane, encGuard, Fin.val_ofNat]
  omega

theorem decTkrd_wordOf (hw : w / 33554432 = 104) (h : decTkrd w = .ok i) : WordOf w i := by
  obtain ⟨x, hok, hx, h⟩ := withLane_ok h
  obtain ⟨hz, h⟩ := zeroField_ok h
  obtain ⟨hz, hz'⟩ := Nat.add_eq_zero_iff.mp hz
  cases h
  refine ⟨rfl, hok, ?_⟩
  simp only [encodeWord, encLane, encGuard, Fin.val_ofNat]
  omega

theorem decNop_wordOf (hw : w / 33554432 = 105) (h : decNop w = .ok i) : WordOf w i := by
  obtain ⟨g, hg, h⟩ := withGuard_ok h
  obtain ⟨hnw, h⟩ := noNw_ok h
  obtain ⟨hz, h⟩ := zeroField_ok h
  obtain ⟨hz, hz'⟩ := Nat.add_eq_zero_iff.mp hz
  cases h
  refine ⟨rfl, rfl, ?_⟩
  simp only [encodeWord]
  omega

theorem decUni_wordOf {mk : Fin 32 → Sel → Sel → Instr} (hw : w / 33554432 = op) (h : decUni w mk = .ok i)
    (hmk : ∀ d a b, (a.okUniform && b.okUniform) = true → WordOf (op * 33554432 + d.val * 16384 + a.code * 128 + b.code) (mk d a b)) :
    WordOf w i := by
  obtain ⟨hz, h⟩ := zeroField_ok h
  obtain ⟨a, b, ha, hb, hok, h⟩ := withSel2_ok (by omega) (by omega) h
  cases h
  exact (hmk _ a b hok).congr (by simp only [Fin.val_ofNat]; omega)

theorem decUmov_wordOf (hw : w / 33554432 = 86) (h : decUmov w = .ok i) : WordOf w i := by
  obtain ⟨hz, h⟩ := zeroField_ok h
  obtain ⟨hz, hz'⟩ := Nat.add_eq_zero_iff.mp hz
  obtain ⟨a, ha, hok, h⟩ := withSel_ok (by omega) h
  cases h
  refine ⟨rfl, hok, ?_⟩
  simp only [encodeWord, Fin.val_ofNat]
  omega

theorem decUaddi_wordOf (hw : w / 33554432 = 87) (h : decUaddi w = .ok i) : WordOf w i := by
  obtain ⟨hz, h⟩ := zeroField_ok h
  obtain ⟨a, ha, hok, h⟩ := withSel_ok (by omega) h
  cases h
  refine ⟨rfl, hok, ?_⟩
  simp only [encodeWord, Fin.val_ofNat, BitVec.toNat_ofNat]
  omega

theorem decUcmp_wordOf {mk : Cond → PushMode → Sel → Sel → Instr} (hw : w / 33554432 = op) (h : decUcmp w mk = .ok i)
    (hmk : ∀ c p a b, (c.okInt && (a.okUniform && b.okUniform)) = true →
      WordOf (op * 33554432 + c.code * 1048576 + p.code * 131072 + a.code * 128 + b.code) (mk c p a b)) : WordOf w i := by
  obtain ⟨hz, h⟩ := zeroField_ok h
  obtain ⟨hz, hz'⟩ := Nat.add_eq_zero_iff.mp hz
  obtain ⟨c, p, hc, hp, hcok, h⟩ := withCond_ok h
  obtain ⟨a, b, ha, hb, hok, h⟩ := withSel2_ok (by omega) (by omega) h
  cases h
  exact (hmk c p a b (Bool.and_eq_true_iff.mpr ⟨hcok, hok⟩)).congr (by omega)

theorem decBranch_wordOf {mk : Guard → BitVec 21 → Instr} (hw : w / 33554432 = op) (h : decBranch w mk = .ok i)
    (hmk : ∀ g disp, WordOf (encGuard op g + disp.toNat) (mk g disp)) : WordOf w i := by
  obtain ⟨g, hg, h⟩ := withGuard_ok h
  cases h
  exact (hmk g _).congr (by simp only [encGuard, BitVec.toNat_ofNat]; omega)

theorem decBrx_wordOf {mk : Guard → Sel → Instr} (hw : w / 33554432 = op) (h : decBrx w mk = .ok i)
    (hmk : ∀ g a, WordOf (encGuard op g + a.code * 128) (mk g a)) : WordOf w i := by
  obtain ⟨g, hg, h⟩ := withGuard_ok h
  obtain ⟨hnw, h⟩ := noNw_ok h
  obtain ⟨hz, h⟩ := zeroField_ok h
  obtain ⟨hz, hz'⟩ := Nat.add_eq_zero_iff.mp hz
  obtain ⟨a, ha, -, h⟩ := withSel_ok (by omega) h
  cases h
  exact (hmk g a).congr (by simp only [encGuard]; omega)

theorem decRet_wordOf {mk : Guard → Instr} (hw : w / 33554432 = op) (h : decRet w mk = .ok i) (hmk : ∀ g, WordOf (encGuard op g) (mk g)) :
    WordOf w i := by
  obtain ⟨g, hg, h⟩ := withGuard_ok h
  obtain ⟨hz, h⟩ := zeroField_ok h
  cases h
  exact (hmk g).congr (by simp only [encGuard]; omega)

theorem decSplit_wordOf {mk : Guard → Fin 8 → Instr} (hw : w / 33554432 = op) (h : decSplit w mk = .ok i)
    (hmk : ∀ g j, WordOf (encGuard op g + j.val) (mk g j)) : WordOf w i := by
  obtain ⟨g, hg, h⟩ := withGuard_ok h
  obtain ⟨hz, h⟩ := zeroField_ok h
  cases h
  exact (hmk g _).congr (by simp only [encGuard, Fin.val_ofNat]; omega)

theorem decWait_wordOf (hw : w / 33554432 = 100) (h : decWait w = .ok i) : WordOf w i := by
  obtain ⟨g, hg, h⟩ := withGuard_ok h
  obtain ⟨hz, h⟩ := zeroField_ok h
  cases h
  refine ⟨rfl, rfl, ?_⟩
  simp only [encodeWord, encGuard, Fin.val_ofNat]
  omega

theorem decWaitmem_wordOf (hw : w / 33554432 = 101) (h : decWaitmem w = .ok i) : WordOf w i := by
  obtain ⟨g, hg, h⟩ := withGuard_ok h
  obtain ⟨hz, h⟩ := zeroField_ok h
  obtain ⟨hz, hz'⟩ := Nat.add_eq_zero_iff.mp hz
  split at h
  · obtain ⟨a, ha, hok, h⟩ := withSel_ok (by omega) h
    cases h
    refine ⟨rfl, hok, ?_⟩
    simp only [encodeWord, encGuard, Fin.val_ofNat, beq_iff_eq]
    split <;> omega
  · cases h

theorem decBar_wordOf (hw : w / 33554432 = 102) (h : decBar w = .ok i) : WordOf w i := by
  obtain ⟨g, hg, h⟩ := withGuard_ok h
  obtain ⟨hz, h⟩ := zeroField_ok h
  split at h
  case h_1 =>
    obtain ⟨hc, h⟩ := zeroField_ok h
    obtain ⟨a, ha, hok, h⟩ := withSel_ok (by omega) h
    cases h
    refine ⟨rfl, hok, ?_⟩
    simp only [encodeWord, encGuard, Fin.val_ofNat]
    omega
  case h_5 => cases h
  all_goals
    obtain ⟨hc, h⟩ := zeroField_ok h
    cases h
    refine ⟨rfl, rfl, ?_⟩
    simp only [encodeWord, encGuard, Fin.val_ofNat]
    omega

/-- The fields of format M beside its low four bits. -/
theorem withMem_wordOf {g : Guard} {mk : MemHdr → Instr} {low : Nat} (hw : w / 33554432 = op) (hg : w / 2097152 % 16 = g.code) (hlow : w % 16 = low)
    (h : (withMem w g fun h => .ok (mk h)) = .ok i) (hmk : ∀ h, h.ab.okBase = true → WordOf (encMem op h low) (mk h)) : WordOf w i := by
  obtain ⟨x, rfl, hok, hk, hd, ha, h⟩ := withMem_ok h
  cases h
  exact (hmk x hok).congr (by simp only [encMem, encGuard]; omega)

theorem decMem_wordOf {ok : Size → Bool} {mk : MemHdr → Size → Instr} (hw : w / 33554432 = op) (h : decMem w ok mk = .ok i)
    (hmk : ∀ h sz, (ok sz && h.ab.okBase) = true → WordOf (encMem op h (sz.code * 2)) (mk h sz)) : WordOf w i := by
  obtain ⟨g, hg, h⟩ := withGuard_ok h
  obtain ⟨hz, h⟩ := zeroField_ok h
  split at h
  · next sz hsz =>
    have hcode := sizeOf_some hsz
    split at h
    · next hok => exact withMem_wordOf hw hg (by omega) h fun x hx => hmk x sz (Bool.and_eq_true_iff.mpr ⟨hok, hx⟩)
    · cases h
  · cases h

theorem decAtom_wordOf {ok : AtomFn → Bool} {mk : MemHdr → AtomFn → Instr} (hw : w / 33554432 = op) (h : decAtom w ok mk = .ok i)
    (hmk : ∀ h af, (ok af && h.ab.okBase) = true → WordOf (encMem op h af.code) (mk h af)) : WordOf w i := by
  obtain ⟨g, hg, h⟩ := withGuard_ok h
  split at h
  · next af haf =>
    split at h
    · next hok => exact withMem_wordOf hw hg (atomFnOf_some haf) h fun x hx => hmk x af (Bool.and_eq_true_iff.mpr ⟨hok, hx⟩)
    · cases h
  · cases h

theorem decFence_wordOf (hw : w / 33554432 = 115) (h : decFence w = .ok i) : WordOf w i := by
  obtain ⟨g, hg, h⟩ := withGuard_ok h
  obtain ⟨hz, h⟩ := zeroField_ok h
  obtain ⟨hz, hlow⟩ := Nat.add_eq_zero_iff.mp hz
  obtain ⟨htop, hz⟩ := Nat.add_eq_zero_iff.mp hz
  split at h
  · next sc o hsc ho =>
    have hscope := scopeOf_some hsc
    have horder := orderOf_some ho
    split at h
    case h_1 | h_6 => cases h
    all_goals
      cases h
      refine ⟨rfl, rfl, ?_⟩
      simp only [Order.code] at horder
      simp only [encodeWord, encGuard, Order.code]
      omega
  · cases h

theorem decAllow_wordOf (hw : w / 33554432 = 116) (h : decAllow w = .ok i) : WordOf w i := by
  obtain ⟨g, hg, h⟩ := withGuard_ok h
  obtain ⟨hz, h⟩ := zeroField_ok h
  split at h
  case h_6 => cases h
  all_goals exact withMem_wordOf hw hg (by omega) h fun _ hok => ⟨rfl, hok, rfl⟩

theorem decCache_wordOf (hw : w / 33554432 = 117) (h : decCache w = .ok i) : WordOf w i := by
  obtain ⟨g, hg, h⟩ := withGuard_ok h
  obtain ⟨hz, h⟩ := zeroField_ok h
  split at h
  case h_5 => cases h
  all_goals exact withMem_wordOf hw hg (by omega) h fun _ hok => ⟨rfl, hok, rfl⟩

/-- The fields of an unguarded format E word whose function is n. -/
theorem withEng_wordOf {mk : EngHdr → Instr} {n : Nat} (hw : w / 33554432 = op) (hg : w / 2097152 % 16 = 0) (hz : w / 32 % 2 = 0)
    (hn : w / 8192 % 16 = n) (h : (withEng w fun h => .ok (mk h)) = .ok i) (hmk : ∀ h, h.a.okUniform = true → WordOf (encEng op n h) (mk h)) :
    WordOf w i := by
  obtain ⟨x, hok, hk, ha, hc, h⟩ := withEng_ok h
  cases h
  exact (hmk x hok).congr (by simp only [encEng]; omega)

/-- The fields of a guarded format E word with a token whose function is n. -/
theorem withGEng_wordOf {g : Guard} {mk : GEngHdr → Instr} {n : Nat} (hw : w / 33554432 = op) (hg : w / 2097152 % 16 = g.code) (hz : w / 32 % 2 = 0)
    (hn : w / 8192 % 16 = n) (h : (withGEng w g fun h => .ok (mk h)) = .ok i) (hmk : ∀ h, h.a.okEngine = true → WordOf (encGEng op n h) (mk h)) :
    WordOf w i := by
  obtain ⟨x, rfl, hok, hk, ha, hb, h⟩ := withGEng_ok h
  cases h
  exact (hmk x hok).congr (by simp only [encGEng, encGuard]; omega)

/-- The fields of an immediate EFFECT or SPAWN word whose function is n. -/
theorem withEff_wordOf {g : Guard} {mk : EffHdr → Instr} {n : Nat} (hw : w / 33554432 = op) (hg : w / 2097152 % 16 = g.code) (hz : w / 32 % 2 = 0)
    (hn : w / 8192 % 16 = n) (h : (withEff w g fun h => .ok (mk h)) = .ok i) (hmk : ∀ h, h.a.okEngine = true → WordOf (encEff op n h) (mk h)) :
    WordOf w i := by
  obtain ⟨x, rfl, hok, hk, ha, hb, h⟩ := withEff_ok h
  cases h
  exact (hmk x hok).congr (by simp only [encEff, encGuard]; omega)

theorem decXcopy_wordOf (hw : w / 33554432 = 118) (h : decXcopy w = .ok i) : WordOf w i := by
  unfold decXcopy at h
  split at h
  · next hn =>
    obtain ⟨g, hg, h⟩ := withGuard_ok h
    obtain ⟨hz, h⟩ := zeroField_ok h
    exact withGEng_wordOf hw hg hz hn h fun _ hok => ⟨rfl, hok, rfl⟩
  · obtain ⟨hg, h⟩ := noGuard_ok h
    obtain ⟨hz, h⟩ := zeroField_ok h
    split at h
    case h_5 => cases h
    all_goals exact withEng_wordOf hw hg hz ‹_› h fun _ hok => ⟨rfl, hok, rfl⟩

theorem decXpub_wordOf (hw : w / 33554432 = 119) (h : decXpub w = .ok i) : WordOf w i := by
  obtain ⟨hg, h⟩ := noGuard_ok h
  obtain ⟨hz, h⟩ := zeroField_ok h
  split at h <;> cases h
  refine ⟨rfl, rfl, ?_⟩
  simp only [encodeWord, Fin.val_ofNat]
  omega

theorem decMatrix_wordOf (hw : w / 33554432 = 120) (h : decMatrix w = .ok i) : WordOf w i := by
  obtain ⟨hg, h⟩ := noGuard_ok h
  obtain ⟨hz, h⟩ := zeroField_ok h
  split at h
  case h_1 | h_2 | h_4 | h_8 =>
    obtain ⟨hc, h⟩ := zeroField_ok h
    cases h
    refine ⟨rfl, rfl, ?_⟩
    simp only [encodeWord, Fin.val_ofNat]
    omega
  case h_9 => cases h
  all_goals exact withEng_wordOf hw hg hz ‹_› h fun _ hok => ⟨rfl, hok, rfl⟩

theorem decBulk_wordOf (hw : w / 33554432 = 121) (h : decBulk w = .ok i) : WordOf w i := by
  obtain ⟨hg, h⟩ := noGuard_ok h
  obtain ⟨hz, h⟩ := zeroField_ok h
  split at h
  case h_5 => cases h
  all_goals exact withEng_wordOf hw hg hz ‹_› h fun _ hok => ⟨rfl, hok, rfl⟩

theorem decEffect_wordOf (hw : w / 33554432 = 122) (h : decEffect w = .ok i) : WordOf w i := by
  obtain ⟨g, hg, h⟩ := withGuard_ok h
  obtain ⟨hz, h⟩ := zeroField_ok h
  split at h
  case h_1 | h_3 | h_4 => exact withEff_wordOf hw hg hz ‹_› h fun _ hok => ⟨rfl, hok, rfl⟩
  case h_6 | h_7 | h_8 => exact withGEng_wordOf hw hg hz ‹_› h fun _ hok => ⟨rfl, hok, rfl⟩
  case h_2 =>
    obtain ⟨hc, h⟩ := zeroField_ok h
    cases h
    refine ⟨rfl, rfl, ?_⟩
    simp only [encodeWord, encGuard]
    omega
  case h_5 =>
    obtain ⟨hc, h⟩ := zeroField_ok h
    obtain ⟨a, ha, hok, h⟩ := withSel_ok (by omega) h
    cases h
    refine ⟨rfl, hok, ?_⟩
    simp only [encodeWord, encGuard, Fin.val_ofNat]
    omega
  case h_9 => cases h

theorem decSpawn_wordOf (hw : w / 33554432 = 123) (h : decSpawn w = .ok i) : WordOf w i := by
  obtain ⟨g, hg, h⟩ := withGuard_ok h
  obtain ⟨hz, h⟩ := zeroField_ok h
  obtain ⟨hz, hz'⟩ := Nat.add_eq_zero_iff.mp hz
  split at h
  · next hn => exact withEff_wordOf hw hg (by omega) hn h fun _ hok => ⟨rfl, hok, rfl⟩
  · cases h

theorem decSys_wordOf (hw : w / 33554432 = 124) (h : decSys w = .ok i) : WordOf w i := by
  obtain ⟨hg, h⟩ := noGuard_ok h
  obtain ⟨hz, h⟩ := zeroField_ok h
  obtain ⟨hz, hz'⟩ := Nat.add_eq_zero_iff.mp hz
  split at h
  case h_1 | h_2 | h_3 | h_4 =>
    obtain ⟨a, ha, hok, h⟩ := withSel_ok (by omega) h
    cases h
    refine ⟨rfl, hok, ?_⟩
    simp only [encodeWord, Fin.val_ofNat]
    omega
  case h_6 | h_7 =>
    obtain ⟨hc, h⟩ := zeroField_ok h
    obtain ⟨a, ha, hok, h⟩ := withSel_ok (by omega) h
    cases h
    refine ⟨rfl, hok, ?_⟩
    simp only [encodeWord]
    omega
  case h_5 | h_8 =>
    obtain ⟨hc, h⟩ := zeroField_ok h
    cases h
    refine ⟨rfl, rfl, ?_⟩
    simp only [encodeWord, Fin.val_ofNat]
    omega
  case h_9 => cases h

end

theorem decHint_wordOf {w : Nat} {i : Instr} (hw : w / 33554432 = 126) (h : decHint w = .ok i) : WordOf w i := by
  unfold decHint at h
  split at h
  case h_1 | h_3 =>
    cases h
    refine ⟨rfl, rfl, ?_⟩
    simp only [encodeWord, BitVec.toNat_ofNat, toNat_bit]
    omega
  case h_2 | h_5 =>
    split at h <;> cases h
    refine ⟨rfl, rfl, ?_⟩
    simp only [encodeWord, BitVec.toNat_ofNat]
    omega
  case h_4 =>
    split at h
    · next hz =>
      cases h
      refine ⟨rfl, ?_, ?_⟩
      · simp only [Instr.wellFormed, Bool.or_eq_true, beq_iff_eq, ← BitVec.toNat_inj, BitVec.ofNat_eq_ofNat, BitVec.toNat_ofNat]
        omega
      · simp only [encodeWord, BitVec.toNat_ofNat, toNat_bit]
        omega
    · cases h
  case h_6 => cases h

/-! ## The opcodes -/

/-- An instruction that the table of major opcodes gives for a word has that word (R78), format by format: case h_(n + 1)
is the row of opcode n. -/
theorem decodeOp_wordOf {op w : Nat} {i : Instr} (hw : w / 33554432 = op) (h : decodeOp op w = .ok i) : WordOf w i := by
  unfold decodeOp at h
  split at h
  case h_1 | h_126 | h_128 | h_129 => cases h
  case h_2 | h_3 | h_4 | h_5 | h_6 | h_7 | h_8 | h_9 | h_10 | h_11 | h_13 | h_14 | h_15 | h_16 | h_17 | h_18 | h_19 | h_20 | h_21 | h_22 |
    h_23 | h_27 | h_33 | h_34 | h_35 | h_36 | h_37 | h_38 | h_44 | h_50 | h_51 | h_52 | h_53 | h_54 | h_55 | h_56 | h_57 | h_58 | h_59 | h_60 |
    h_62 | h_63 =>
    exact decLane2_wordOf hw h fun _ _ _ hok => ⟨rfl, hok, rfl⟩
  case h_12 | h_24 | h_25 | h_26 | h_28 | h_39 | h_40 | h_41 | h_42 | h_43 | h_45 | h_46 | h_47 | h_48 | h_49 |
      h_72 =>
    exact decLane1_wordOf hw h fun _ _ hok => ⟨rfl, hok, rfl⟩
  case h_29 | h_30 | h_31 | h_32 => exact decLaneImm_wordOf hw h fun _ _ _ hok => ⟨rfl, hok, rfl⟩
  case h_61 => exact decCvt_wordOf hw h
  case h_64 => exact decMovi_wordOf hw h
  case h_65 | h_66 | h_67 | h_68 => exact decCmp_wordOf hw h fun _ _ _ hok => ⟨rfl, hok, rfl⟩
  case h_69 => exact decPstk_wordOf hw h
  case h_70 => exact decXchg_wordOf hw h
  case h_71 => exact decVote_wordOf hw h
  case h_73 => exact decXdef_wordOf hw h
  case h_74 | h_75 | h_104 => exact decXset_wordOf hw h fun _ _ _ => ⟨rfl, rfl, rfl⟩
  case h_76 => exact decSread_wordOf hw h
  case h_77 | h_78 | h_79 | h_80 | h_81 | h_82 | h_83 | h_84 | h_85 | h_86 | h_91 | h_92 =>
    exact decUni_wordOf hw h fun _ _ _ hok => ⟨rfl, hok, rfl⟩
  case h_87 => exact decUmov_wordOf hw h
  case h_88 => exact decUaddi_wordOf hw h
  case h_89 | h_90 => exact decUcmp_wordOf hw h fun _ _ _ _ hok => ⟨rfl, hok, rfl⟩
  case h_93 | h_95 => exact decBranch_wordOf hw h fun _ _ => ⟨rfl, rfl, rfl⟩
  case h_94 | h_96 => exact decBrx_wordOf hw h fun _ _ => ⟨rfl, rfl, rfl⟩
  case h_97 | h_98 => exact decRet_wordOf hw h fun _ => ⟨rfl, rfl, rfl⟩
  case h_99 | h_100 => exact decSplit_wordOf hw h fun _ _ => ⟨rfl, rfl, rfl⟩
  case h_101 => exact decWait_wordOf hw h
  case h_102 => exact decWaitmem_wordOf hw h
  case h_103 => exact decBar_wordOf hw h
  case h_105 => exact decTkrd_wordOf hw h
  case h_106 => exact decNop_wordOf hw h
  case h_107 | h_108 | h_109 | h_110 | h_111 | h_112 | h_113 => exact decMem_wordOf hw h fun _ _ hok => ⟨rfl, hok, rfl⟩
  case h_114 | h_115 => exact decAtom_wordOf hw h fun _ _ hok => ⟨rfl, hok, rfl⟩
  case h_116 => exact decFence_wordOf hw h
  case h_117 => exact decAllow_wordOf hw h
  case h_118 => exact decCache_wordOf hw h
  case h_119 => exact decXcopy_wordOf hw h
  case h_120 => exact decXpub_wordOf hw h
  case h_121 => exact decMatrix_wordOf hw h
  case h_122 => exact decBulk_wordOf hw h
  case h_123 => exact decEffect_wordOf hw h
  case h_124 => exact decSpawn_wordOf hw h
  case h_125 => exact decSys_wordOf hw h
  case h_127 => exact decHint_wordOf hw h

theorem decodeWord_wordOf {w : Nat} {i : Instr} (h : decodeWord w = .ok i) : WordOf w i := by
  unfold decodeWord at h
  split at h
  · cases h
  · split at h
    · cases h
    · exact decodeOp_wordOf rfl h

end Sys2Proof
end

section
/-! PROOF. Encoding and decoding are inverse (R66 to R80). -/

namespace Sys2Proof.Laws

/-- Every word decodes to its instruction: one law for each instruction with a word; the other rows are events. -/
theorem Roundtrip.statement (i : Instr) : Roundtrip.Statement i := by
  cases i with
  | iadd => exact iadd _ _ _ | isub => exact isub _ _ _ | imul => exact imul _ _ _ | imulhs => exact imulhs _ _ _ | imulhz => exact imulhz _ _ _
  | imad => exact imad _ _ _ | imins => exact imins _ _ _ | imaxs => exact imaxs _ _ _ | iminz => exact iminz _ _ _ | imaxz => exact imaxz _ _ _
  | iabs => exact iabs _ _ | andL => exact andL _ _ _ | orL => exact orL _ _ _ | xorL => exact xorL _ _ _ | andn => exact andn _ _ _
  | shl => exact shl _ _ _ | shr => exact shr _ _ _ | sar => exact sar _ _ _ | rol => exact rol _ _ _ | bfxz => exact bfxz _ _ _
  | bfxs => exact bfxs _ _ _ | bfi => exact bfi _ _ _ | popc => exact popc _ _ | clz => exact clz _ _ | brev => exact brev _ _
  | sel => exact sel _ _ _ | mov => exact mov _ _ | iaddi => exact iaddi _ _ _ | shli => exact shli _ _ _ | shri => exact shri _ _ _
  | sari => exact sari _ _ _ | fadd => exact fadd _ _ _ | fsub => exact fsub _ _ _ | fmul => exact fmul _ _ _ | ffma => exact ffma _ _ _
  | fmin => exact fmin _ _ _ | fmax => exact fmax _ _ _ | fabs => exact fabs _ _ | fneg => exact fneg _ _ | frcp => exact frcp _ _
  | frsq => exact frsq _ _ | fsqrt => exact fsqrt _ _ | fdiv => exact fdiv _ _ _ | fex2 => exact fex2 _ _ | flg2 => exact flg2 _ _
  | fsin => exact fsin _ _ | fcos => exact fcos _ _ | frnd => exact frnd _ _ | fcpys => exact fcpys _ _ _ | hadd2 => exact hadd2 _ _ _
  | hmul2 => exact hmul2 _ _ _ | hfma2 => exact hfma2 _ _ _ | hmin2 => exact hmin2 _ _ _ | hmax2 => exact hmax2 _ _ _ | badd2 => exact badd2 _ _ _
  | bmul2 => exact bmul2 _ _ _ | bfma2 => exact bfma2 _ _ _ | bmin2 => exact bmin2 _ _ _ | bmax2 => exact bmax2 _ _ _ | cvt => exact cvt _ _ _
  | cvtFswap => exact cvtFswap _ _ | pack => exact pack _ _ _ | prm => exact prm _ _ _ | movi => exact movi _ _ | icmps => exact icmps _ _ _
  | icmpz => exact icmpz _ _ _ | fcmp => exact fcmp _ _ _ | itst => exact itst _ _ _ | pdup => exact pdup _ | pdrop => exact pdrop _
  | pnot => exact pnot _ | pand => exact pand _ | por => exact por _ | pxor => exact pxor _ | pswap => exact pswap _ | pset0 => exact pset0 _
  | pset1 => exact pset1 _ | xchgIdx => exact xchgIdx _ _ _ | xchgUp => exact xchgUp _ _ _ _ | xchgDown => exact xchgDown _ _ _ _
  | xchgBfly => exact xchgBfly _ _ _ _ | voteAll => exact voteAll _ _ _ | voteAny => exact voteAny _ _ _ | voteEq => exact voteEq _ _ _
  | voteBal => exact voteBal _ _ _ | rfl => exact rfl _ _ | xdef => exact xdef _ _ _ _ | xset => exact xset _ _ _ | xadd => exact xadd _ _ _
  | sread => exact sread _ _ | uadd => exact uadd _ _ _ | usub => exact usub _ _ _ | umul => exact umul _ _ _ | umad => exact umad _ _ _
  | uand => exact uand _ _ _ | uor => exact uor _ _ _ | uxor => exact uxor _ _ _ | ushl => exact ushl _ _ _ | ushr => exact ushr _ _ _
  | usar => exact usar _ _ _ | umov => exact umov _ _ | uaddi => exact uaddi _ _ _ | ucmps => exact ucmps _ _ _ _ | ucmpz => exact ucmpz _ _ _ _
  | usel => exact usel _ _ _ | uld => exact uld _ _ _ | bra => exact bra _ _ | brx => exact brx _ _ | call => exact call _ _
  | callx => exact callx _ _ | ret => exact ret _ | exit => exact exit _ | split => exact split _ _ | join => exact join _ _
  | wait => exact wait _ _ _ | waitmem => exact waitmem _ _ _ _ | bari => exact bari _ _ _ | bara => exact bara _ _ | barw => exact barw _ _
  | barrd => exact barrd _ _ _ | qput => exact qput _ _ _ | tkrd => exact tkrd _ _ | nop => exact nop | ldg => exact ldg _ _ | stg => exact stg _ _
  | ldx => exact ldx _ _ | stx => exact stx _ _ | ldf => exact ldf _ _ | stf => exact stf _ _ | ldc => exact ldc _ _ | atom => exact atom _ _
  | atomn => exact atomn _ _ | fence => exact fence _ _ _ | ifence => exact ifence _ _ | allowInit => exact allowInit _
  | allowTake => exact allowTake _ | allowGive => exact allowGive _ | allowExact => exact allowExact _ | allowProbe => exact allowProbe _
  | cachePref => exact cachePref _ | cacheClean => exact cacheClean _ | cacheDiscard => exact cacheDiscard _ | cacheIcinv => exact cacheIcinv _
  | xload => exact xload _ | xstore => exact xstore _ | xmove => exact xmove _ | xgather => exact xgather _ | xfill => exact xfill _
  | xpub => exact xpub _ _ | mclaim => exact mclaim _ | mrel => exact mrel _ | mldw => exact mldw _ | mswap => exact mswap _
  | mstream => exact mstream _ | mzero => exact mzero _ | mstore => exact mstore _ | mstat => exact mstat _ _ | bxsend => exact bxsend _
  | bxrecv => exact bxrecv _ | bxcancel => exact bxcancel _ | bxstat => exact bxstat _ | hinst => exact hinst _ | hpop => exact hpop _
  | perform => exact perform _ | resume => exact resume _ | drop => exact drop _ _ _ | kstat => exact kstat _ | kpack => exact kpack _
  | kunpack => exact kunpack _ | spawn => exact spawn _ | segw => exact segw _ _ | segr => exact segr _ _ | csrr => exact csrr _ _
  | csrw => exact csrw _ _ | eret => exact eret _ | trap => exact trap _ | intr => exact intr _ | halt => exact halt | hintImm => exact hintImm _
  | hintImmx => exact hintImmx _ | hintMod => exact hintMod _ _ _ _ _ _ _ _ | hintSched => exact hintSched _ _ _ | hintDly => exact hintDly _
  | _ => exact fun hword _ => absurd hword Bool.false_ne_true

end Sys2Proof.Laws

namespace Sys2Proof.Proofs

/-- Settles O1: the round trip of each instruction. -/
theorem decodeEncode : Obligations.DecodeEncode := by
  unfold Obligations.DecodeEncode
  exact Laws.Roundtrip.statement

/-- Settles O2: every field of a word that decodes is one that its format names or requires to be 0. -/
theorem encodeDecode : Obligations.EncodeDecode := by
  unfold Obligations.EncodeDecode
  intro w i _ h
  exact decodeWord_wordOf h

end Sys2Proof.Proofs
end

section
/-! PROOF. HINT words (R73, R76): the pending set of the group, and its one change. -/

namespace Sys2Proof.Machine

open Sys2Proof.Terms

/-- A HINT word whose kind is pending is FAULT 0x12 of the group; another one's fibres stand at the next word, and the pending set of its
group is the one joined. -/
theorem hintWord_spec {w : Instr} {s : State} {i : Issue} {c : Crew} {pending : Hints → Bool} {join : Hints → Hints} (hI : Issues s i c)
    (hx : exec w s = hintWord pending join s) :
    (pending i.grp.hints = true → exec w s = .next ((taken s).groupEffect i (0, 0x12))) ∧
    (pending i.grp.hints = false → ∃ t c', exec w s = .next t ∧ OnlyCrew s t i.crew ∧ kget t.crews i.crew = some c' ∧ sameCrew c c' ∧
      (∀ f ∈ i.grp.fids, kget c'.fibres f = some (passed i (c.fibre f))) ∧
      (∀ f, f ∉ i.grp.fids → kget c'.fibres f = kget c.fibres f) ∧
      ∀ g, i.gid = some g → kget c'.groups g = (kget c.groups g).map fun x =>
        { groupAt i i.grp.latches x with hints := { join i.grp.hints with first := i.grp.hints.start i.pc } }) := by
  obtain ⟨hcur, hc, -, hex⟩ := hI
  rw [hx, hintWord, withIssue_next hcur]
  refine ⟨fun hp => congrArg _ (if_pos hp), fun hp => ?_⟩
  obtain ⟨y, hy, hframe, hfib, -, hgrp⟩ := State.endWord_step (s := taken s) hc i.grp.latches
  have hin : ∀ f ∈ i.grp.fids, kget y.fibres f = some (passed i (c.fibre f)) := fun f hf => by
    obtain ⟨x, hfx⟩ := Option.isSome_iff_exists.mp (hex f hf)
    rw [hfib f, if_pos hf, hfx, Crew.fibre_of_kget hfx]
    rfl
  have hout : ∀ f, f ∉ i.grp.fids → kget y.fibres f = kget c.fibres f := fun f hf => by rw [hfib f, if_neg hf]
  rw [hp]
  cases hg : i.gid with
  | none => exact ⟨_, y, rfl, ⟨hy.1, hy.2.1⟩, hy.2.2, hframe, hin, hout, nofun⟩
  | some g =>
    have all := hy.trans (CrewStep.modCrew hy.2.2 fun c => { c with groups := kmod c.groups g fun x =>
      { x with hints := { join i.grp.hints with first := i.grp.hints.start i.pc } } })
    refine ⟨_, _, rfl, ⟨all.1, all.2.1⟩, all.2.2, ?_, hin, hout, fun k hk => ?_⟩
    · rw [hframe]; rfl
    · cases hk
      rw [kget_kmod_self, hgrp g hg, Option.map_map]
      rfl

/-- The HINT words are those of R73, each with its test and its joining. -/
theorem exec_of_hintRule {hints h : Hints} {w : Instr} {again : Bool} (hrule : hintRule hints w = some (again, h)) (s : State) :
    exec w s = hintWord (fun x => (hintRule x w).elim false Prod.fst) (fun x => (hintRule x w).elim x Prod.snd) s := by
  unfold hintRule at hrule
  split at hrule
  case h_6 => cases hrule
  all_goals rfl

end Sys2Proof.Machine

namespace Sys2Proof.Proofs

open Sys2Proof.Machine Sys2Proof.Terms

/-- Settles O41: each HINT word is one joining of the pending set. -/
theorem hintWords : Obligations.HintWords := by
  unfold Obligations.HintWords
  intro w again h s i c hI hrule
  simpa only [hrule, Option.elim_some] using hintWord_spec hI (exec_of_hintRule hrule s)

end Sys2Proof.Proofs
end

section
/-! PROOF. What selectors deliver to a lane outside every latency window (R70, R84, R85, R120), and the lanes that a guard selects (R69). -/

namespace Sys2Proof.Machine

open Sys2Proof.Terms

/-! ## Registers -/

/-- A V register outside every window, with no result on its way. -/
theorem Env.readV_settled (e : Env) {f : Fibre} {n : Nat} (hwin : noWindow f n) (hpend : kget f.pend n = none) (fid k : Nat) :
    e.readV f fid n k = .ok (f.getV n) := by
  have hstrict : f.strictV e.iss.strict n = none := by
    simp [Fibre.strictV, hpend, Fibre.inWin, inLat_shut hwin]
  rw [Env.readV, hstrict]
  exact congrArg Except.ok (readWin_shut _ _ hwin)

/-- A G register whose writes every fibre of the group sees, with no result on its way. -/
theorem Env.readG_settled (e : Env) {n : Nat}
    (hwin : ∀ w ∈ kgetD e.crew.gwin n [], w.tok = none ∧ w.openFor e.crew e.iss.grp.fids e.cycle = false) (hpend : kget e.crew.gpend n = none)
    (k : Nat) : e.readG n k = .ok (e.crew.getG n) := by
  have hstrict : e.crew.strictG e.iss.strict n e.iss.grp.fids e.cycle = none := by
    have hshut : (kgetD e.crew.gwin n []).any (fun w => w.openFor e.crew e.iss.grp.fids e.cycle) = false :=
      List.any_eq_false.mpr fun w hw => by simp [(hwin w hw).2]
    simp [Crew.strictG, hpend, hshut]
  rw [Env.readG, hstrict]
  refine congrArg Except.ok ?_
  rw [Crew.seeG, oldsOf_shut fun w hw => by simp [hwin w hw]]
  rfl

/-- The register that an index register outside every window names, when its index lies below its bound. -/
theorem Env.indexed_settled (e : Env) {f : Fibre} {x : Nat} (hwin : ∀ w ∈ kgetD f.xwin x [], w.openAt f.pos = false) (fid k : Nat) :
    e.indexed f fid x k =
      if (kgetD f.x x {}).index < (kgetD f.x x {}).bound then .ok ((kgetD f.x x {}).base + (kgetD f.x x {}).index) else .error (0, 0x36) := by
  have hsee : f.seeX x (e.pick fid (70 + x) k) = kgetD f.x x {} := readWin_shut _ _ hwin
  simp [Env.indexed, Fibre.inXWin, inLat_shut hwin, hsee]

/-- The value that a selector of an index register outside every window delivers. -/
theorem Env.readVx_settled (e : Env) {f : Fibre} {x : Fin 4} (hwin : ∀ w ∈ kgetD f.xwin x.val [], w.openAt f.pos = false) (fid k : Nat)
    (v : Word) : e.read f fid (.vx x) k v =
      if (kgetD f.x x.val {}).index < (kgetD f.x x.val {}).bound
        then e.readV f fid ((kgetD f.x x.val {}).base + (kgetD f.x x.val {}).index) k else .error (0, 0x36) := by
  rw [Env.read, Env.indexed_settled e hwin]
  by_cases hlt : (kgetD f.x x.val {}).index < (kgetD f.x x.val {}).bound
  · simp only [if_pos hlt]
  · simp only [if_neg hlt]

/-! ## Latches -/

/-- A latch whose producer's latency has passed holds the producer's value. -/
theorem Env.readLatch_ready (e : Env) {k : Nat} {l : Latch} (hl : e.iss.grp.latches[k]? = some l) (hpos : l.pos + l.lat ≤ e.iss.grp.pos)
    (fid : Nat) : e.readLatch fid k = .ok (kgetD l.vals fid 0) := by
  simp only [Env.readLatch, hl, if_pos hpos]

/-- A latch without a value yet is 0, or STRICT 0x34. -/
theorem Env.readLatch_invalid (e : Env) {k : Nat} (h : ∀ l, e.iss.grp.latches[k]? = some l → e.iss.grp.pos < l.pos + l.lat) (fid : Nat) :
    e.readLatch fid k = if e.iss.strict then .error strictLatch else .ok 0 := by
  unfold Env.readLatch
  split
  · next l hl => rw [if_neg (Nat.not_le.mpr (h l hl))]
  · rfl

/-! ## Guards -/

/-- The selected lanes of a word that has not waited, outside every window of P. -/
theorem lanes_sel_iff {s : State} {i : Issue} {c : Crew} (h : Issues s i c) (hp : PSettled i c) (ha : i.again = false) (g : Guard) (f : Nat) :
    f ∈ ((envAt s i).lanes g).sel ↔ f ∈ i.grp.fids ∧ guardHolds g (c.fibre f).p = true := by
  rw [Env.lanes_eq _ g ha, List.mem_filter]
  refine and_congr_right fun hf => ?_
  simp [Env.refused, Env.chosen, envAt_crew h, Fibre.inPWin_settled (hp f hf), Fibre.seeP_settled (hp f hf)]

end Sys2Proof.Machine

namespace Sys2Proof.Proofs

open Sys2Proof.Machine Sys2Proof.Terms

/-- Settles O19: each selector by the rule of its operand, and each guard by the stack of each fibre. -/
theorem operandsAndGuards : Obligations.OperandsAndGuards := by
  unfold Obligations.OperandsAndGuards
  refine ⟨?_, ?_, ?_, ?_, ?_, ?_⟩
  · intro s i c f n k v _ hwin hpend
    exact ⟨Env.readV_settled _ hwin hpend f k, rfl⟩
  · intro s i c n k hI hwin hpend
    have hread := (envAt s i).readG_settled (n := n) (k := k)
    rw [envAt_crew hI] at hread
    exact hread hwin hpend
  · intro s i c f k x v _ hwin
    exact Env.readVx_settled _ hwin f k v
  · intro s i c f k v _
    exact ⟨rfl, rfl, fun n => rfl⟩
  · intro s i c f k n v _
    exact ⟨fun l hl hpos => Env.readLatch_ready _ hl hpos f, fun h => Env.readLatch_invalid _ h f⟩
  · intro s i c g hI hp ha
    refine ⟨lanes_bad_of_settled hI hp g, fun f => ?_⟩
    refine (lanes_sel_iff hI hp ha g f).trans (and_congr_right' ?_)
    cases g with
    | all => exact iff_of_true rfl trivial
    | ifP d => exact Iff.rfl
    | unlessP d => simp [guardHolds]

end Sys2Proof.Proofs
end

section
/-! PROOF. The refutations of O9 and O20 on the crew whose list of fibres does not rise (R29, R32): MOV with a popped operand, and BRA. -/

namespace Sys2Proof.Machine

/-- MOV of the value that each lane pops from queue 0, with NW. -/
def crowdedMov : Instr := .mov ⟨.all, true, 0⟩ (.q 0)

/-- After it fibre 0 of the crowded crew finds no entry of the table. -/
theorem stAfter_mov : stAfter (exec crowdedMov crowdedState) = some .overflow := by decide +kernel

/-- After a branch to the next word fibre 0 finds none either. -/
theorem stAfter_bra : stAfter (exec (.bra .all 1) crowdedState) = some .overflow := by decide +kernel

end Sys2Proof.Machine

namespace Sys2Proof.Proofs

open Sys2Proof.Machine Sys2Proof.Terms

/-- The rule of that MOV, as R98 gives it. -/
def crowdedMovRule : LaneRule := rule1 ⟨.all, true, 0⟩ 2 (.q 0) fun _ x => x

theorem intRule_crowdedMov : intRule crowdedMov = some crowdedMovRule := rfl

/-- The word meets the conditions of a lane word that pops, as FABS with the same operand does: only the result differs. -/
theorem popRuns_crowdedMov : crowdedMovRule.PopRuns crowdedMov crowdedState crowdedIssue crowdedCrew (fun _ => 5) (fun _ => 0) fun _ => 0 := by
  obtain ⟨⟨hswitch, hpops, -, hrest⟩, hsupplied, hd, hlanes⟩ := popRuns_crowded
  refine ⟨⟨hswitch, hpops, by decide +kernel, hrest⟩, hsupplied, hd, fun f hf => ?_⟩
  obtain ⟨ha, hb, hthird, hstrict, hpend, -⟩ := hlanes f hf
  exact ⟨ha, hb, hthird, hstrict, hpend, 5, 0, rfl, by simp [trapSet]⟩

/-- A lane word that pops has not done as its rule says when fibre 0 of the crowded crew is in the overflow queue after it. -/
theorem not_popResult_of_overflow {w : Instr} {r : LaneRule} {X Y Z : Nat → Word} (hover : stAfter (exec w crowdedState) = some .overflow) :
    ¬ r.PopResult w crowdedState crowdedIssue crowdedCrew X Y Z := by
  rintro ⟨t, c', hexec, -, hcrew, -, -, -, hafter⟩
  obtain ⟨x, hx, hloose, -⟩ := hafter 0 (List.mem_singleton.mpr rfl)
  rw [hexec] at hover
  change (kget (t.crew crowdedIssue.crew).fibres 0).map Fibre.st = _ at hover
  rw [State.crew_of_kget hcrew, hx, Option.map_some, hloose] at hover
  cases hover

/-- Refutes O9 at the clause of R148 on a word that pops: MOV of the crowded crew, whose fibres are listed in no rising order, so that the 256
of them count as 257 once the word has moved fibre 0: it finds the table full and is in the overflow queue, not loose. -/
theorem not_integerWords : ¬ Obligations.IntegerWords := by
  unfold Obligations.IntegerWords
  intro hwords
  obtain ⟨hpops, -⟩ := hwords crowdedMov crowdedMovRule intRule_crowdedMov
  exact not_popResult_of_overflow stAfter_mov ((hpops crowdedState crowdedIssue crowdedCrew).1 _ _ _ popRuns_crowdedMov)

/-- A branch of the crowded crew by one word goes to the next word. -/
theorem directTo_crowded : directTo crowdedIssue 1 = 0x1004 := by decide

/-- Refutes O20 at its first clause: BRA of the crowded crew to the next word, after which fibre 0 finds the table full and is in the overflow
queue, not loose. -/
theorem not_branchWords : ¬ Obligations.BranchWords := by
  unfold Obligations.BranchWords
  rintro ⟨⟨hbra, -⟩, -⟩
  have hcanonical : Canonical (directTo crowdedIssue 1) := by
    rw [directTo_crowded]
    exact .inl (by decide)
  obtain ⟨t, c', hexec, -, hcrew, -, -, -, hafter⟩ := hbra .all 1 crowdedState crowdedIssue crowdedCrew switchReady_crowded rfl hcanonical
  obtain ⟨x, hx, rfl⟩ := hafter 0 (List.mem_singleton.mpr rfl)
  rw [sel_crowded, if_pos (List.mem_singleton.mpr rfl), directTo_crowded] at hx
  exact not_loose_of_overflow stAfter_bra hexec hcrew hx

end Sys2Proof.Proofs
end

section
/-! PROOF. The words of PSTK (R82, R113): each changes the stack of its selected lanes entry by entry, outside every window of P. -/

namespace Sys2Proof.Machine

open Sys2Proof.Terms

/-! ## Stacks entry by entry (R113) -/

theorem stackIs_shiftRight (p : BitVec 7) : StackIs (p >>> 1) fun d => if d = 6 then false else p.getLsbD (d + 1) := by
  intro d hd
  rw [BitVec.getLsbD_ushiftRight, Nat.add_comm]
  by_cases h : d = 6
  · subst h
    exact BitVec.getLsbD_of_ge p 7 le_rfl
  · exact (if_neg h).symm

theorem stackIs_not (p : BitVec 7) : StackIs (p ^^^ 1) fun d => if d = 0 then !p.getLsbD 0 else p.getLsbD d := by
  intro d hd
  rw [BitVec.getLsbD_xor, show (1 : BitVec 7).getLsbD d = (decide (d = 0) && true) from entry_zero true d]
  by_cases h : d = 0
  · simp [h]
  · simp [h]

/-- A drop gives the new top entry and moves the entries from depth 2 on down by one. -/
theorem stackIs_dropP (p : BitVec 7) (v : Bool) :
    StackIs (dropP p v) fun d => if d = 0 then v else if d = 6 then false else p.getLsbD (d + 1) := by
  intro d hd
  refine (replP_getLsbD (p >>> 1) v hd).trans ?_
  rw [stackIs_shiftRight p d hd]

theorem stackIs_swap (p : BitVec 7) :
    StackIs ((p &&& 0x7C) ||| (if p.getLsbD 0 then 2 else 0) ||| (if p.getLsbD 1 then 1 else 0))
      fun d => if d = 0 then p.getLsbD 1 else if d = 1 then p.getLsbD 0 else p.getLsbD d := by
  have kept : ∀ k : Nat, k < 7 → (0x7C : BitVec 7).getLsbD k = decide (2 ≤ k) := by decide
  have second : ∀ r : Bool, ∀ k : Nat, k < 7 → (if r then (2 : BitVec 7) else 0).getLsbD k = (decide (k = 1) && r) := by decide
  intro d hd
  rw [BitVec.getLsbD_or, BitVec.getLsbD_or, BitVec.getLsbD_and, kept d hd, second _ d hd, entry_zero]
  match d with
  | 0 => simp
  | 1 => simp
  | d + 2 => simp

/-- A word of PSTK is the shared meaning of these words, with a change of the stack that is its rule's. -/
theorem exec_of_stackRule {w : Instr} {g : Guard} {k : (Nat → Bool) → Nat → Bool} (h : stackRule w = some (g, k)) :
    ∃ K, exec w = execPstk g K ∧ ∀ p, StackIs (K p) (k fun d => p.getLsbD d) := by
  unfold stackRule at h
  split at h <;> cases h
  · exact ⟨_, rfl, fun p => stackIs_pushP p _⟩
  · exact ⟨_, rfl, stackIs_shiftRight⟩
  · exact ⟨_, rfl, stackIs_not⟩
  · exact ⟨_, rfl, fun p => stackIs_dropP p _⟩
  · exact ⟨_, rfl, fun p => stackIs_dropP p _⟩
  · exact ⟨_, rfl, fun p => stackIs_dropP p _⟩
  · exact ⟨_, rfl, stackIs_swap⟩
  · exact ⟨_, rfl, fun p => stackIs_pushP p false⟩
  · exact ⟨_, rfl, fun p => stackIs_pushP p true⟩

/-! ## The change on the selected lanes (R82, R113) -/

/-- A write after others whose windows have all closed is the only one kept. -/
theorem addWrite_shut {α : Type} {isOpen : LatWrite α → Bool} {l : List (LatWrite α)} (h : ∀ w ∈ l, isOpen w = false) (w : LatWrite α) :
    addWrite isOpen l w = [w] := by
  have hdrop : (l.dropWhile fun x => !isOpen x) = [] := List.dropWhile_eq_nil_iff.mpr fun x hx => by rw [h x hx]; rfl
  rw [addWrite, hdrop, List.nil_append]

theorem Fibre.putP_pwin_settled {f : Fibre} (h : ∀ w ∈ f.pwin, w.openAt f.pos = false) (lat : Nat) (p : BitVec 7) (pick : Nat) :
    (f.putP lat p pick).pwin = [{ due := f.pos + lat, prev := f.p, val := (f.putP lat p pick).p }] := by
  rw [Fibre.putP_settled h]
  exact addWrite_shut h _

/-- A word of PSTK outside every window of P: its guard and its change are refused on no lane. -/
theorem execPstk_groupStep {w : Instr} {s : State} {i : Issue} {c : Crew} {g : Guard} {K : BitVec 7 → BitVec 7}
    {k : (Nat → Bool) → Nat → Bool} (hw : exec w = execPstk g K) (hK : ∀ p, StackIs (K p) (k fun d => p.getLsbD d)) (hI : Issues s i c)
    (hP : PSettled i c) :
    GroupStep w s i c i.grp.latches fun f f' =>
      if f ∈ ((envAt s i).lanes g).sel then
        WroteP i (c.fibre f) f' (k fun d => (c.fibre f).p.getLsbD d) ∧ f'.pwin = [{ due := (c.fibre f).pos + 2, prev := (c.fibre f).p, val := f'.p }]
      else f' = passed i (c.fibre f) := by
  have hcrew := envAt_crew hI
  have hbad := lanes_bad_of_settled hI hP g
  obtain ⟨hnodup, hsel, -⟩ := Env.lanes_spec (envAt s i) g hI.2.2.1 hbad
  have heff : effsOf ((envAt s i).changeAll 2 K ((envAt s i).lanes g).sel) = [] :=
    effsOf_changeAll_settled 2 K fun f hf => by rw [hcrew]; exact hP f (hsel f hf)
  have hkeys : ((envAt s i).changeAll 2 K ((envAt s i).lanes g).sel).map Prod.fst = ((envAt s i).lanes g).sel := by
    simp [Env.changeAll, Function.comp_def]
  refine groupStep_of hI _ ((envAt s i).changeAll 2 K ((envAt s i).lanes g).sel) (by rwa [hkeys]) ?_ (fun r hr => ?_) _ (fun r hr => ?_)
    fun f hf hnot => ?_
  · rw [hw, execPstk, withIssue_next hI.1]
    simp only [show envOf i (taken s) = envAt s i from rfl, hbad, heff]
    rfl
  · exact hsel r.1 (hkeys ▸ List.mem_map_of_mem hr)
  · obtain ⟨f, hf, rfl⟩ := List.mem_map.mp hr
    have hset := hP f (hsel f hf)
    rw [if_pos hf, hcrew, Env.changeP_settled hset]
    exact ⟨wroteP_putP i hset 2 _ (hK _), Fibre.putP_pwin_settled hset 2 _ _⟩
  · rw [hkeys] at hnot
    rw [if_neg hnot]

end Sys2Proof.Machine

namespace Sys2Proof

/-! ## The function of PSTK (R68, R79) -/

theorem guardOf_isSome {n : Nat} (h : n < 15) : ∃ g, guardOf n = some g := by
  unfold guardOf
  by_cases h0 : n = 0
  · exact ⟨_, if_pos h0⟩
  · by_cases h8 : n < 8
    · exact ⟨_, by rw [if_neg h0, if_pos h8]⟩
    · exact ⟨_, by rw [if_neg h0, if_neg h8, if_pos h]⟩

/-- A function above 8 has no word of PSTK. -/
theorem decPstk_fault {w : Nat} (hg : w / 2097152 % 16 < 15) (hz : w % 131072 = 0) (hf : 9 ≤ w / 131072 % 16) :
    decPstk w = .fault 0x0A := by
  obtain ⟨g, hguard⟩ := guardOf_isSome hg
  simp only [decPstk, withGuard, hguard, zeroField_zero _ hz]
  generalize w / 131072 % 16 = n at hf ⊢
  obtain ⟨m, rfl⟩ := Nat.exists_eq_add_of_le' hf
  rfl

end Sys2Proof

namespace Sys2Proof.Proofs

open Sys2Proof.Machine Sys2Proof.Terms

/-- Settles O14: each word of PSTK is one shared meaning with its rule's change, made on the selected lanes outside every window of P; and
the decoder has no word of PSTK for a function above 8. -/
theorem stackWords : Obligations.StackWords := by
  unfold Obligations.StackWords
  refine ⟨fun w g k hrule s i c hI hP => ?_, fun n _ hop hg hz hf => ?_⟩
  · obtain ⟨K, hexec, hK⟩ := exec_of_stackRule hrule
    exact execPstk_groupStep hexec hK hI hP
  · rw [decodeWord_op 0x44 hop (by decide) (by decide)]
    exact decPstk_fault hg hz hf

end Sys2Proof.Proofs
end

section
/-! PROOF. The refutations of O11, O13, O15 and O17 at their clauses on popped operands, on the crew whose list of fibres does not rise (R29, R32,
R148): FSWAP, ICMPZ, XCHG.UP and XSET. -/

namespace Sys2Proof.Machine

/-- FSWAP of the value that each lane pops from queue 0, with NW. -/
def crowdedFswap : Instr := .cvtFswap ⟨.all, true, 0⟩ (.q 0)

/-- A comparison of that value with 0, pushed. -/
def crowdedIcmpz : Instr := .icmpz ⟨.all, .eq, .push⟩ (.q 0) (.int 0)

/-- The exchange of that value with the lane below. -/
def crowdedXchg : Instr := .xchgUp .all 0 (.q 0) 0

/-- The index register X0 set to that value. -/
def crowdedXset : Instr := .xset .all 0 (.q 0)

/-- After each of the four, fibre 0 of the crowded crew finds no entry of the table. -/
theorem stAfter_fswap : stAfter (exec crowdedFswap crowdedState) = some .overflow := by decide +kernel

theorem stAfter_icmpz : stAfter (exec crowdedIcmpz crowdedState) = some .overflow := by decide +kernel

theorem stAfter_xchg : stAfter (exec crowdedXchg crowdedState) = some .overflow := by decide +kernel

theorem stAfter_xset : stAfter (exec crowdedXset crowdedState) = some .overflow := by decide +kernel

end Sys2Proof.Machine

namespace Sys2Proof.Proofs

open Sys2Proof.Machine Sys2Proof.Terms

/-- A word is not the switch point of R148 on the crowded crew when fibre 0 is in the overflow queue after it. -/
theorem not_popStep_of_overflow {w : Instr} {g : Guard} {srcs : List Sel} {after : Nat → Fibre → Prop}
    (hover : stAfter (exec w crowdedState) = some .overflow) : ¬ PopStep w crowdedState crowdedIssue crowdedCrew g srcs after := by
  rintro ⟨t, c', hexec, -, hcrew, -, -, -, hafter⟩
  obtain ⟨x, hx, hloose, -⟩ := hafter 0 (List.mem_singleton.mpr rfl)
  rw [hexec] at hover
  change (kget (t.crew crowdedIssue.crew).fibres 0).map Fibre.st = _ at hover
  rw [State.crew_of_kget hcrew, hx, Option.map_some, hloose] at hover
  cases hover

theorem eq_zero_of_sel_crowded {f : Nat} (hf : f ∈ ((envAt crowdedState crowdedIssue).lanes .all).sel) : f = 0 :=
  List.mem_singleton.mp (sel_crowded ▸ hf)

theorem pSettled_crowded : PSettled crowdedIssue crowdedCrew := by
  intro f hf
  obtain rfl : f = 0 := List.mem_singleton.mp hf
  decide +kernel

/-- No word of the crowded crew waits, so that any word with the operand Q0 pops at once. -/
theorem popsNow_crowded (w : Instr) : PopsNow w crowdedState crowdedIssue crowdedCrew .all [.q 0] := by
  obtain ⟨⟨hswitch, hpops, -, hrest⟩, -⟩ := quietPops_crowded
  exact ⟨hswitch, hpops, rfl, hrest⟩

/-- Nothing but the operand Q0 is asked of a word with the first register of the crowded crew as its destination. -/
theorem quietPops_crowded_of (w : Instr) (nw : Bool) : QuietPops w crowdedState crowdedIssue crowdedCrew ⟨.all, nw, 0⟩ [.q 0] 1 := by
  obtain ⟨-, hsupplied, hd, -⟩ := quietPops_crowded
  refine ⟨popsNow_crowded w, hsupplied, hd, fun f hf => ?_⟩
  obtain rfl := eq_zero_of_sel_crowded hf
  exact ⟨by decide +kernel, fun _ k _ => rfl⟩

/-- Refutes O11 at its clause on an FSWAP that pops: fibre 0 of the crowded crew, whose fibres are listed in no rising order, so that the 256 of
them count as 257 once the word has moved it, is in the overflow queue after it, not loose. -/
theorem not_pairWords : ¬ Obligations.PairWords := by
  unfold Obligations.PairWords
  rintro ⟨-, ⟨-, hfswap, -⟩, -⟩
  exact not_popStep_of_overflow stAfter_fswap (hfswap ⟨.all, true, 0⟩ (.q 0) crowdedState crowdedIssue crowdedCrew (fun _ => 5)
    (quietPops_crowded_of _ true) reads_crowded fun _ _ => by decide)

/-- ICMPZ of the crowded crew pops its first operand and reads a constant as its second. -/
theorem popsNow_crowdedIcmpz :
    PopsNow crowdedIcmpz crowdedState crowdedIssue crowdedCrew .all [.q 0, .int 0] ∧
      Supplied crowdedState crowdedIssue crowdedCrew .all [.q 0, .int 0] := by
  obtain ⟨⟨hswitch, -, -, -, -, hbad, hsel⟩, hsupplied, -⟩ := quietPops_crowded
  exact ⟨⟨hswitch, by decide, rfl, by decide +kernel, rfl, hbad, hsel⟩, hsupplied⟩

/-- Refutes O13 at its clause on a compare that pops: after ICMPZ fibre 0 of the crowded crew is in the overflow queue, not loose. -/
theorem not_compareWords : ¬ Obligations.CompareWords := by
  unfold Obligations.CompareWords
  rintro ⟨hwords, -⟩
  obtain ⟨⟨-, -, -, hfits, hsplit, hbad, -⟩, hsupplied⟩ := popsNow_crowdedIcmpz
  have hreads : Reads crowdedState crowdedIssue crowdedCrew .all [.q 0, .int 0] 0 fun _ => 5 := by
    intro a ha f hf
    cases ha
    exact reads_crowded (.q 0) rfl f hf
  have hconst : Reads crowdedState crowdedIssue crowdedCrew .all [.q 0, .int 0] 1 fun _ => 0 := by
    intro b hb f hf
    cases hb
    rfl
  obtain ⟨-, hpop⟩ := hwords crowdedIcmpz _ (.q 0) (.int 0) _ rfl rfl crowdedState crowdedIssue crowdedCrew (fun _ => 5) (fun _ => 0)
    issues_crowded pSettled_crowded (hfits _ (by decide)) (hfits _ (by decide)) (by decide) hsplit hbad hreads hconst
    (fun f hf => by obtain rfl := eq_zero_of_sel_crowded hf; exact ⟨by decide +kernel, by decide +kernel⟩)
  exact not_popStep_of_overflow stAfter_icmpz (hpop popsNow_crowdedIcmpz.1 hsupplied)

/-- Refutes O15 at its clause on an exchange that pops: after XCHG.UP fibre 0 of the crowded crew is in the overflow queue, not loose. -/
theorem not_exchangeWords : ¬ Obligations.ExchangeWords := by
  unfold Obligations.ExchangeWords
  intro hwords
  obtain ⟨-, hpop⟩ := hwords crowdedXchg .all 0 (.q 0) false _ rfl crowdedState crowdedIssue crowdedCrew (fun _ => 5) (fun _ => 0)
    pSettled_crowded (by decide) reads_crowded (fun _ _ h => nomatch h)
  exact not_popStep_of_overflow stAfter_xchg (hpop (quietPops_crowded_of _ false))

/-- Refutes O17 at its clause on a word that pops: after XSET fibre 0 of the crowded crew is in the overflow queue, not loose. -/
theorem not_indexWords : ¬ Obligations.IndexWords := by
  unfold Obligations.IndexWords
  intro hwords
  obtain ⟨-, hpop⟩ := hwords crowdedXset .all 0 (.q 0) _ rfl crowdedState crowdedIssue crowdedCrew (fun _ => 5) (fun _ => ⟨0, 0, 5⟩)
    reads_crowded (fun f hf => by obtain rfl := eq_zero_of_sel_crowded hf; exact ⟨by decide +kernel, by decide +kernel⟩)
  exact not_popStep_of_overflow stAfter_xset (hpop (quietPops_crowded_of _ true))

end Sys2Proof.Proofs
end

section
/-! PROOF. NOP (R150), and the phase that a SCHED hint gives to the crew of the word that consumes it (R75, R76, R150). -/

namespace Sys2Proof.Machine

open Sys2Proof.Terms

/-- NOP ends at once. -/
theorem nop_groupStep {s : State} {i : Issue} {c : Crew} (h : Issues s i c) :
    GroupStep .nop s i c i.grp.latches fun f x => x = passed i (c.fibre f) := by
  obtain ⟨hcur, hc, -, hexist⟩ := h
  obtain ⟨y, ⟨hstate, hothers, hy⟩, hsame, hfibres, hgroups, hgroup⟩ := State.endWord_step (s := taken s) hc i.grp.latches
  have hexec : exec .nop s = .next ((taken s).endWord i i.grp.latches false []) := withIssue_next hcur fun i t => t.endWord i i.grp.latches false []
  refine ⟨_, y, hexec, ⟨hstate, hothers⟩, hy, ⟨hsame, fun f hf => by rw [hfibres f, if_neg hf], hgroups, hgroup⟩, fun f hf => ?_⟩
  obtain ⟨x, hx⟩ := Option.isSome_iff_exists.mp (hexist f hf)
  exact ⟨_, by rw [hfibres f, if_pos hf, hx]; rfl, congrArg (passed i) (Crew.fibre_of_kget hx).symm⟩

/-- The one instruction of NOP's opcode is NOP. -/
theorem eq_nop_of_decodeWord {n : Nat} (hop : n / 33554432 = 0x69) {i : Instr} (h : decodeWord n = .ok i) : i = .nop := by
  rw [decodeWord_op 0x69 hop (by decide) (by decide)] at h
  obtain ⟨g, hg, h⟩ := withGuard_ok h
  obtain ⟨-, h⟩ := noNw_ok h
  obtain ⟨-, h⟩ := zeroField_ok h
  cases h
  rfl

/-- The crew of a word that takes a hint of a phase has that phase. -/
theorem wordState_phase {s v : State} {core : Nat} {x : Cand} {g : Group} {w : Word} {long : Bool} {p : BitVec 4} {c : Crew}
    (hc : kget v.crews x.crew = some c) (hsched : g.hints.sched = some (long, true, p)) :
    ((wordState s core x g v w).crew x.crew).phase = p := by
  obtain ⟨d, hd, -⟩ := State.advance_crew (core := core) (gid := chosenGid s x) (n := weightOf w.toNat) hc
  have hcrew : kget (wordState s core x g v w).crews x.crew = _ :=
    (kget_kmod_self ..).trans (congrArg _ ((kget_kmod_self ..).trans (congrArg _ hd)))
  rw [State.crew_of_kget hcrew, hsched]

end Sys2Proof.Machine

namespace Sys2Proof.Proofs

open Sys2Proof.Machine Sys2Proof.Terms

/-- Settles O23: NOP is the end of a word alone; its opcode has one word; and the step runs the word in the state in which its hints are
taken. -/
theorem nopWord : Obligations.NopWord := by
  unfold Obligations.NopWord
  refine ⟨fun s i c h => nop_groupStep h, by decide, fun n _ hop i hdec => ?_, ?_⟩
  · obtain rfl := eq_nop_of_decodeWord hop hdec
    exact ⟨(decodeWord_wordOf hdec).2.2.symm, rfl⟩
  · intro s core x g v w i long p hf hdec hhint hresv hcause hlog hlost halive hsched
    obtain ⟨c, hc⟩ := State.kget_of_alive halive
    exact ⟨wordState s core x g v w, _, (stepRunsDecoded s core x g v w i hf hdec).2 hhint hresv hcause ⟨hlog, hlost⟩ halive, rfl, rfl, rfl,
      rfl, wordState_phase hc hsched⟩

end Sys2Proof.Proofs
end

section
/-! PROOF. Memory words (R132, R157 to R160): each selected lane puts its request in flight, one after another, and counts on its token. -/

namespace Sys2Proof.Machine

open Sys2Proof.Terms

/-! ## The request of a lane -/

/-- A request is of its word's space and counts on its word's token. -/
theorem Env.memReq_shape {e : Env} {s : State} {m : MemShape} {seq fid : Nat} {r : MemReq} (h : e.memReq s m seq fid = .ok r) :
    r.space = m.space ∧ r.k = m.h.k.val := by
  unfold Env.memReq at h
  dsimp only at h
  split at h
  · cases h
  · split at h
    · cases h
    · split at h
      · cases h
      · cases h
      · split at h
        · cases h
        · split at h
          · cases h
          · cases h
            exact ⟨rfl, rfl⟩

/-- A request depends on the state through the levels of its PASID's table alone. -/
theorem Env.memReq_congr (e : Env) {s t : State} (h : t.pasids = s.pasids) (m : MemShape) (seq fid : Nat) :
    e.memReq t m seq fid = e.memReq s m seq fid := by
  have hlevels : t.levels e.crew.pasid = s.levels e.crew.pasid := by rw [State.levels, State.levels, h]
  have haddr (f : Fibre) (base : Word64) (off : Int) : memAddr t e.crew f m.space m.n base off = memAddr s e.crew f m.space m.n base off := by
    simp only [memAddr, hlevels]
  simp only [Env.memReq, haddr]

/-- A lane whose request nothing refuses puts it in flight. -/
theorem State.memLane_ok {s : State} {e : Env} {m : MemShape} {seq fid : Nat} {r : MemReq} (hr : e.memReq s m seq fid = .ok r)
    (hspace : m.space ≠ .frame) (hcount : ((e.crew.fibre fid).tok m.h.k.val).count < 63) :
    s.memLane e m seq fid = (s.launchMem e.iss fid r, none) := by
  obtain ⟨hrspace, hk⟩ := Env.memReq_shape hr
  have hissue : s.frameIssue e.iss fid r = (s, none) := by
    unfold State.frameIssue
    split
    · rfl
    · rfl
    · rfl
    · next hframe => exact absurd (hrspace ▸ hframe) hspace
  rw [State.memLane, hr]
  simp only [hissue, hk, if_neg (Nat.not_le.mpr hcount)]

/-- The selected lanes of a memory word that are refused nowhere. -/
theorem State.memLanes_ok {e : Env} {m : MemShape} {seq : Nat} {R : Nat → MemReq} (hspace : m.space ≠ .frame) (l : List Nat) {s : State}
    (h : ∀ f ∈ l, e.memReq s m seq f = .ok (R f) ∧ ((e.crew.fibre f).tok m.h.k.val).count < 63) (bad : List (Nat × Eff)) :
    l.foldl (fun (r : State × List (Nat × Eff)) fid =>
        let x := r.1.memLane e m seq fid
        (x.1, r.2 ++ (x.2.map fun f => (fid, f)).toList)) (s, bad) =
      (l.foldl (fun t f => t.launchMem e.iss f (R f)) s, bad) := by
  induction l generalizing s with
  | nil => rfl
  | cons n l ih =>
    obtain ⟨hreq, hcount⟩ := h n (List.mem_cons_self ..)
    rw [List.foldl_cons, List.foldl_cons, State.memLane_ok hreq hspace hcount]
    simp only [Option.map_none, Option.toList_none, List.append_nil]
    exact ih fun f hf => ⟨(e.memReq_congr (t := s.launchMem e.iss n (R n)) rfl m seq f).trans (h f (List.mem_cons_of_mem _ hf)).1,
      (h f (List.mem_cons_of_mem _ hf)).2⟩

/-! ## Requests put in flight -/

/-- The record of a request in flight. -/
def memOp (i : Issue) (fid : Nat) (r : MemReq) : Op :=
  { kind := .mem r i.crew fid, issuer := i.crew, core := i.core, word := i.word, modw := i.modw, owners := [.fibre i.crew fid r.k] }

/-- A fibre whose token counts a request, with the marks of strict mode (R132, R138). -/
def Fibre.requested (f : Fibre) (strict : Bool) (r : MemReq) : Fibre :=
  if strict then (f.countUp r.k).markPend r.k r.dests else f.countUp r.k

theorem Fibre.requested_frame (f : Fibre) (strict : Bool) (r : MemReq) :
    f.requested strict r = { f with k := (f.requested strict r).k, pend := (f.requested strict r).pend } := by
  cases strict <;> rfl

theorem Fibre.requested_k (f : Fibre) (strict : Bool) (r : MemReq) : (f.requested strict r).k = (f.countUp r.k).k := by
  cases strict <;> rfl

theorem Fibre.requested_tok_self (f : Fibre) (strict : Bool) (r : MemReq) :
    (f.requested strict r).tok r.k = { f.tok r.k with count := (f.tok r.k).count + 1 } := by
  rw [Fibre.tok, f.requested_k strict r]
  exact kgetD_kset_self _ _ _ _

theorem Fibre.requested_tok_ne (f : Fibre) (strict : Bool) (r : MemReq) {k : Nat} (h : k ≠ r.k) : (f.requested strict r).tok k = f.tok k := by
  rw [Fibre.tok, f.requested_k strict r]
  exact kgetD_kset_ne _ _ _ h

/-- Requests of a list of fibres have gone into flight between two states: of the crew only these fibres have changed, and each has its
operation under a new number. -/
structure Launched (s t : State) (i : Issue) (c c' : Crew) (R : Nat → MemReq) (l : List Nat) : Prop where
  state : t = { s with nextId := t.nextId, ops := t.ops, crews := t.crews }
  others : ∀ k, k ≠ i.crew → kget t.crews k = kget s.crews k
  crew : kget t.crews i.crew = some c'
  same : c' = { c with fibres := c'.fibres }
  fibres : ∀ f, kget c'.fibres f = if f ∈ l then (kget c.fibres f).map fun x => x.requested i.strict (R f) else kget c.fibres f
  next : s.nextId ≤ t.nextId
  older : ∀ id, id < s.nextId → kget t.ops id = kget s.ops id
  ops : ∀ f ∈ l, ∃ id, kget t.ops id = some (memOp i f (R f))

theorem State.launchMem_launched {s : State} {i : Issue} {c : Crew} (hc : kget s.crews i.crew = some c) (R : Nat → MemReq) (n : Nat) :
    Launched s (s.launchMem i n (R n)) i c (c.modFibre n fun f => f.requested i.strict (R n)) R [n] where
  state := rfl
  others k hk := kget_kmod_ne _ _ hk
  crew := (kget_kmod_self ..).trans (congrArg _ hc)
  same := rfl
  fibres f := by
    simp only [List.mem_singleton]
    by_cases h : f = n
    · subst h
      rw [if_pos rfl]
      exact kget_kmod_self ..
    · rw [if_neg h]
      exact kget_kmod_ne _ _ h
  next := Nat.le_succ _
  older id hid := kget_kset_ne _ _ hid.ne
  ops f hf := by
    obtain rfl := List.mem_singleton.mp hf
    exact ⟨s.nextId, kget_kset_self ..⟩

theorem Launched.trans {s t u : State} {i : Issue} {c d e : Crew} {R : Nat → MemReq} {n : Nat} {l : List Nat} (h : Launched s t i c d R [n])
    (hops : kget t.ops s.nextId = some (memOp i n (R n))) (hlt : s.nextId < t.nextId) (g : Launched t u i d e R l) (hn : n ∉ l) :
    Launched s u i c e R (n :: l) where
  state := by rw [g.state, h.state]
  others k hk := (g.others k hk).trans (h.others k hk)
  crew := g.crew
  same := by rw [g.same, h.same]
  fibres f := by
    rw [g.fibres f, h.fibres f]
    simp only [List.mem_cons]
    by_cases hf : f = n
    · subst hf
      simp [hn]
    · simp [hf]
  next := h.next.trans g.next
  older id hid := (g.older id (hid.trans_le h.next)).trans (h.older id hid)
  ops f hf := by
    rcases List.mem_cons.mp hf with rfl | hf
    · exact ⟨s.nextId, (g.older _ hlt).trans hops⟩
    · exact g.ops f hf

/-- The requests of fibres, none listed twice, put in flight one after another. -/
theorem State.launchMem_foldl {i : Issue} (R : Nat → MemReq) {l : List Nat} (hn : l.Nodup) {s : State} {c : Crew}
    (hc : kget s.crews i.crew = some c) : ∃ c', Launched s (l.foldl (fun t f => t.launchMem i f (R f)) s) i c c' R l := by
  induction l generalizing s c with
  | nil => exact ⟨c, rfl, fun _ _ => rfl, hc, rfl, fun f => by simp, le_rfl, fun _ _ => rfl, fun f hf => by cases hf⟩
  | cons n l ih =>
    obtain ⟨hnot, hn⟩ := List.nodup_cons.mp hn
    have first := State.launchMem_launched hc R n
    obtain ⟨c', rest⟩ := ih hn first.crew
    exact ⟨c', first.trans (kget_kset_self ..) (Nat.lt_succ_self _) rest hnot⟩

end Sys2Proof.Machine

namespace Sys2Proof.Proofs

open Sys2Proof.Machine Sys2Proof.Terms

/-- A memory word is the shared meaning of its shape. -/
theorem exec_of_memShape {w : Instr} {m : MemShape} (h : memShape w = some m) : exec w = memExec m := by
  unfold memShape at h
  split at h <;> cases h <;> rfl

/-- The state in which the requests of a memory word go into flight: the word's own number is taken. -/
def numbered (s : State) : State := { taken s with nextId := s.nextId + 1 }

/-- A memory word none of whose lanes is refused: its requests in flight, and the end of a word. -/
theorem exec_memory {w : Instr} {m : MemShape} {s : State} {i : Issue} {R : Nat → MemReq} (hw : memShape w = some m) (hspace : m.space ≠ .frame)
    (hcur : s.cur = some i) (hcheck : m.check (envAt s i) = none) (hbad : ((envAt s i).lanes m.h.g).bad = [])
    (hreq : ∀ f ∈ ((envAt s i).lanes m.h.g).sel, (envAt s i).memReq s m s.nextId f = .ok (R f) ∧
      (((envAt s i).crew.fibre f).tok m.h.k.val).count < 63) :
    exec w s = .next ((((envAt s i).lanes m.h.g).sel.foldl (fun t f => t.launchMem i f (R f)) (numbered s)).endWord i i.grp.latches false []) := by
  rw [exec_of_memShape hw, memExec, withIssue_next hcur]
  have lanes := State.memLanes_ok (s := numbered s) hspace _ (fun f hf => ⟨((envAt s i).memReq_congr rfl m s.nextId f).trans (hreq f hf).1,
    (hreq f hf).2⟩) ((envAt s i).lanes m.h.g).bad
  change Host.Outcome.next (match m.check (envAt s i) with
    | some x => (taken s).groupEffect i x
    | none => _) = _
  rw [hcheck]
  exact congrArg (fun r : State × List (Nat × Eff) => Host.Outcome.next (r.1.endWord i i.grp.latches false r.2)) (lanes.trans (by rw [hbad]))

/-- Settles O28: the lanes put their requests in flight one after another, which changes their fibres and the operations in flight alone, and the
end of the word moves the group. -/
theorem memoryWords : Obligations.MemoryWords := by
  unfold Obligations.MemoryWords
  intro w m hw hspace s i c R hI hcheck hbad hreq
  obtain ⟨hcur, hc, hnodup, hexist⟩ := hI
  have hcrew : (envAt s i).crew = c := State.crew_of_kget (s := taken s) hc
  obtain ⟨hselNodup, hsel, -⟩ := Env.lanes_spec (envAt s i) m.h.g hnodup hbad
  have hexec := exec_memory hw hspace hcur hcheck hbad (by rwa [hcrew])
  generalize ((envAt s i).lanes m.h.g).sel = l at *
  obtain ⟨d, hl⟩ := State.launchMem_foldl (i := i) R hselNodup (s := numbered s) hc
  generalize l.foldl (fun t f => t.launchMem i f (R f)) (numbered s) = u at hl hexec
  obtain ⟨y, ⟨hstate, hothers, hy⟩, hsame, hfibres, hgroups, hgroup⟩ := State.endWord_step hl.crew i.grp.latches
  have hd := hl.same
  have hops : (u.endWord i i.grp.latches false []).ops = u.ops := by rw [hstate]
  refine ⟨_, y, hexec, ?_, fun k hk => (hothers k hk).trans (hl.others k hk), hy, ⟨?_, fun f hf => ?_, fun g hg => ?_, fun g hg => ?_⟩,
    fun f hf => ?_⟩
  · rw [hstate, hl.state]; rfl
  · rw [hsame, hd]
  · rw [hfibres f, if_neg hf, hl.fibres f, if_neg fun hfl => hf (hsel f hfl)]
  · rw [hgroups g hg, hd]
  · rw [hgroup g hg, hd]
  · obtain ⟨x, hx⟩ := Option.isSome_iff_exists.mp (hexist f hf)
    rw [hfibres f, if_pos hf, hl.fibres f, hx, Crew.fibre_of_kget hx]
    by_cases hfl : f ∈ l
    · have hk : (R f).k = m.h.k.val := (Env.memReq_shape (hreq f hfl).1).2
      refine ⟨passed i (x.requested i.strict (R f)), by rw [if_pos hfl]; rfl, ?_⟩
      rw [if_pos hfl, ← hk]
      refine ⟨?_, x.requested_tok_self i.strict (R f), fun k hne => x.requested_tok_ne i.strict (R f) hne, hops ▸ hl.ops f hfl⟩
      conv_lhs => rw [x.requested_frame]
      rfl
    · refine ⟨passed i x, by rw [if_neg hfl]; rfl, ?_⟩
      rw [if_neg hfl]

end Sys2Proof.Proofs
end

section
/-! PROOF. The refutations of O12, O24, O25 and O26 on the crew whose list of fibres does not rise (R29, R32): RFL with a popped operand, WAIT on an
idle token, BARI, and QPUT to a crew with room. -/

namespace Sys2Proof.Machine

open Sys2Proof.Terms

/-- RFL of the value that each lane pops from queue 0, with NW. -/
def crowdedRfl : Instr := .rfl ⟨.all, true, 0⟩ (.q 0)

/-- A WAIT for K0 to count nothing. -/
def crowdedWait : Instr := .wait .all 0 0

/-- Barrier 0 set to expect 4 arrivals. -/
def crowdedBari : Instr := .bari .all 0 (.int 4)

/-- 4 pushed to queue 0 of the next stage. -/
def crowdedQput : Instr := .qput .all 0 (.int 4)

/-- After each of the first three, fibre 0 of the crowded crew finds no entry of the table. -/
theorem stAfter_rfl : stAfter (exec crowdedRfl crowdedState) = some .overflow := by decide +kernel

theorem stAfter_wait : stAfter (exec crowdedWait crowdedState) = some .overflow := by decide +kernel

theorem stAfter_bari : stAfter (exec crowdedBari crowdedState) = some .overflow := by decide +kernel

/-! ## A pipeline of the crowded crew and the crew of the next stage -/

/-- The crowded crew with a route for queue 0 (R147). -/
def routedCrew : Crew := { crowdedCrew with qmask := 1 }

/-- The running crew of the next stage, with empty queues. -/
def nextCrew : Crew := { stage := 2, life := .running, home := some 1 }

/-- The gang of the two crews, of three stages. -/
def routedGang : Gang :=
  { ident := 0, launch := { s := 3 }, src := .service, queue := 0, pasid := 0, chips := [], mine := 0, proposals := [], start := some 0
    asked := 0, crews := [1, 2], ended := 0, chipsEnded := [], terminated := false, failed := false, pool := [], poolUsed := []
    poolRecords := [], ends := [] }

/-- The package with that gang. -/
def routedState : State := { crowdedState with crews := [(1, routedCrew), (2, nextCrew)], gangs := [(0, routedGang)] }

theorem switchReady_routed : SwitchReady routedState crowdedIssue routedCrew :=
  ⟨⟨rfl, rfl, by decide, by decide +kernel⟩, rfl, rfl, by decide +kernel, 7, crowdedGroup, rfl, rfl, rfl, by decide +kernel⟩

theorem lanes_routed : (envAt routedState crowdedIssue).lanes .all = ⟨[0], [], []⟩ := rfl

/-- After QPUT fibre 0 finds no entry of the table either. -/
theorem stAfter_qput : stAfter (exec crowdedQput routedState) = some .overflow := by decide +kernel

end Sys2Proof.Machine

namespace Sys2Proof.Proofs

open Sys2Proof.Machine Sys2Proof.Terms

/-- Fibre 0 of crew 1 as it stands after a word that leaves it in the overflow queue. -/
theorem st_of_stAfter {o : Host.Outcome State Fault Refusal} (hover : stAfter o = some .overflow) {t : State} {c : Crew} {x : Fibre}
    (ho : o = .next t) (hc : kget t.crews 1 = some c) (hx : kget c.fibres 0 = some x) : x.st = .overflow := by
  subst ho
  change (kget (t.crew 1).fibres 0).map Fibre.st = _ at hover
  rw [State.crew_of_kget hc, hx] at hover
  exact Option.some.inj hover

/-- A word after which fibre 0 of the crowded crew is in the overflow queue is no switch point that leaves it loose. -/
theorem not_switchStep_of_overflow {w : Instr} {same : Crew → Prop} {after : Nat → Fibre → Prop}
    (hover : stAfter (exec w crowdedState) = some .overflow) (hloose : ∀ x, after 0 x → ∃ n, x.st = .loose n) :
    ¬ SwitchStep w crowdedState crowdedIssue crowdedCrew same after := by
  rintro ⟨t, c', hexec, -, hcrew, -, -, -, hafter⟩
  obtain ⟨x, hx, hax⟩ := hafter 0 (List.mem_singleton.mpr rfl)
  obtain ⟨n, hn⟩ := hloose x hax
  rw [st_of_stAfter hover hexec hcrew hx] at hn
  cases hn

/-- Refutes O12 at its clause on an RFL that pops: after it fibre 0 of the crowded crew is in the overflow queue, not loose. -/
theorem not_specialReads : ¬ Obligations.SpecialReads := by
  unfold Obligations.SpecialReads
  rintro ⟨-, -, hrfl⟩
  obtain ⟨-, hpop⟩ := hrfl ⟨.all, true, 0⟩ (.q 0) crowdedState crowdedIssue crowdedCrew (fun _ => 5) reads_crowded
  exact not_popStep_of_overflow stAfter_rfl (hpop (quietPops_crowded_of _ true))

theorem lanes_crowded : (envAt crowdedState crowdedIssue).lanes .all = ⟨[0], [], []⟩ := rfl

/-- Refutes O24 at its clause on a WAIT whose token counts nothing: fibre 0 of the crowded crew, whose fibres are listed in no rising order, so
that the 256 of them count as 257 once the word has moved it, is in the overflow queue after it, not loose. -/
theorem not_waitWords : ¬ Obligations.WaitWords := by
  unfold Obligations.WaitWords
  rintro ⟨⟨-, hwait⟩, -⟩
  refine not_switchStep_of_overflow stAfter_wait (fun x hx => ?_)
    (hwait .all 0 0 crowdedState crowdedIssue crowdedCrew switchReady_crowded (by rw [lanes_crowded]) rfl fun f hf => ?_)
  · rw [lanes_crowded, if_pos (List.mem_singleton.mpr rfl)] at hx
    exact ⟨_, congrArg Fibre.st hx.1⟩
  · obtain rfl := eq_zero_of_sel_crowded hf
    exact ⟨by decide +kernel, by decide +kernel, by decide +kernel⟩

/-- Refutes O25 at its first clause: after BARI fibre 0 of the crowded crew is in the overflow queue, not loose. -/
theorem not_barrierWords : ¬ Obligations.BarrierWords := by
  unfold Obligations.BarrierWords
  rintro ⟨⟨hbari, -⟩, -⟩
  exact not_switchStep_of_overflow stAfter_bari (fun x hx => ⟨_, congrArg Fibre.st hx⟩)
    (hbari .all 0 (.int 4) crowdedState crowdedIssue crowdedCrew 0 [] 4 switchReady_crowded (by rw [lanes_crowded]) (by decide) (by decide)
      rfl rfl rfl (by decide) (by decide) rfl)

/-- Refutes O26 at its last clause: QPUT of the crowded crew pushes to a crew with room, after which fibre 0 is in the overflow queue, not
loose. -/
theorem not_queuePut : ¬ Obligations.QueuePut := by
  unfold Obligations.QueuePut
  intro hput
  obtain ⟨-, hnext⟩ := hput .all 0 (.int 4) routedState crowdedIssue routedCrew routedGang switchReady_routed (by rw [lanes_routed])
    (by rw [lanes_routed]; decide) (by decide) (by decide) rfl rfl rfl
  obtain ⟨-, -, hpush⟩ := hnext nextCrew 2 (by decide) (by decide) rfl rfl
  obtain ⟨t, c', p', hexec, hcrew, -, -, -, -, hfibres⟩ := hpush (fun _ => 4) rfl (by rw [lanes_routed]; decide) (fun f _ => rfl) rfl
  cases st_of_stAfter stAfter_qput hexec hcrew (hfibres 0 (List.mem_singleton.mpr rfl))

end Sys2Proof.Proofs
end

section
/-! PROOF. The completion of a memory request with values (R133, R134, R137), of an access to the scratchpad, and of a relaxed global access of a
line that its core does not hold (R160, R163). -/

namespace Sys2Proof.Machine

open Sys2Proof.Terms

/-! ## Values that land in registers (R137) -/

theorem Fibre.land_getV_ne (f : Fibre) (k pos : Nat) {n m : Nat} (h : m ≠ n) (v : Word) (pick : Nat) : (f.land k pos n v pick).getV m = f.getV m :=
  kgetD_kset_ne _ _ _ h

/-- A value lands in a register that no lane has written. -/
theorem Fibre.land_getV_self {f : Fibre} {n : Nat} (h : kget f.wrote n = none) (k pos : Nat) (v : Word) (pick : Nat) :
    (f.land k pos n v pick).getV n = v := by
  simp [Fibre.getV, Fibre.land, kgetD, h]

/-- Values in consecutive registers, one after another from the place j on. -/
def landFrom (k pos n : Nat) (pick : Nat → Nat) (f : Fibre) (j : Nat) (vals : List Word) : Fibre :=
  (vals.foldl (fun (r : Fibre × Nat) v => (r.1.land k pos (n + r.2) v (pick (n + r.2)), r.2 + 1)) (f, j)).1

theorem landFrom_cons (k pos n : Nat) (pick : Nat → Nat) (f : Fibre) (j : Nat) (v : Word) (vals : List Word) :
    landFrom k pos n pick f j (v :: vals) = landFrom k pos n pick (f.land k pos (n + j) v (pick (n + j))) (j + 1) vals := rfl

theorem landFrom_frame (k pos n : Nat) (pick : Nat → Nat) (f : Fibre) (j : Nat) (vals : List Word) :
    landFrom k pos n pick f j vals =
      { f with v := (landFrom k pos n pick f j vals).v, vwin := (landFrom k pos n pick f j vals).vwin } := by
  induction vals generalizing f j with
  | nil => rfl
  | cons v vals ih =>
    rw [landFrom_cons, ih]
    rfl

/-- Registers beside the values are kept. -/
theorem landFrom_getV_ne (k pos n : Nat) (pick : Nat → Nat) (f : Fibre) (j : Nat) (vals : List Word) (m : Nat)
    (h : m < n + j ∨ n + j + vals.length ≤ m) : (landFrom k pos n pick f j vals).getV m = f.getV m := by
  induction vals generalizing f j with
  | nil => rfl
  | cons v vals ih =>
    rw [List.length_cons] at h
    rw [landFrom_cons, ih _ _ (by omega), Fibre.land_getV_ne f k pos (by omega)]

/-- Each value stands in its register, where no lane has written. -/
theorem landFrom_getV {f : Fibre} (h : ∀ m, kget f.wrote m = none) (k pos n : Nat) (pick : Nat → Nat) (j : Nat) (vals : List Word) {x : Nat}
    {w : Word} (hx : vals[x]? = some w) : (landFrom k pos n pick f j vals).getV (n + j + x) = w := by
  induction vals generalizing f j x with
  | nil => cases hx
  | cons v vals ih =>
    rw [landFrom_cons]
    cases x with
    | zero =>
      cases hx
      rw [Nat.add_zero, landFrom_getV_ne _ _ _ _ _ _ _ _ (by omega)]
      exact Fibre.land_getV_self (h _) k pos _ _
    | succ x =>
      rw [show n + j + (x + 1) = n + (j + 1) + x by omega]
      exact ih (f := f.land k pos (n + j) v (pick (n + j))) h (j + 1) hx

/-! ## The completion of a request -/

/-- A fibre with an operation completed on its token, whose values have landed. -/
def Fibre.landed (f : Fibre) (k pos : Nat) (cause : Option Cause) (regs : List Nat) (vals : List Word) (pick : Nat → Nat) : Fibre :=
  let g := (landFrom k pos (regs.headD 0) pick f 0 vals).markDone k pos regs
  { g with k := kset g.k k { (g.tok k).complete cause with eng := addTags (g.tok k).eng [] } }

/-- A fibre keeps its place as values land. -/
theorem Fibre.landed_st (f : Fibre) (k pos : Nat) (cause : Option Cause) (regs : List Nat) (vals : List Word) (pick : Nat → Nat) :
    (f.landed k pos cause regs vals pick).st = f.st := by
  change (landFrom k pos (regs.headD 0) pick f 0 vals).st = f.st
  rw [landFrom_frame]

/-- The completion of an operation of an awake fibre changes that fibre alone. -/
theorem State.completeFor_landed {s : State} {crew fid : Nat} {c : Crew} {f : Fibre} (h : Awake s crew fid c f) (k pos : Nat)
    (cause : Option Cause) (regs : List Nat) (vals : List Word) :
    s.completeFor (.fibre crew fid k) cause [] regs pos vals =
      s.bump.modFibre crew fid fun f => f.landed k pos cause regs vals fun n => Config.freeIndex s.free fid n := by
  obtain ⟨hc, hf, hp, hi⟩ := h
  have himaged : ¬(s.crew crew).imaged = true := by rw [State.crew_of_kget hc, hi]; exact Bool.false_ne_true
  unfold State.completeFor
  dsimp only
  rw [if_neg himaged]
  refine State.recheck_of_awake ((kget_kmod_self ..).trans (congrArg _ hc)) ((kget_kmod_self ..).trans (congrArg _ hf)) ?_
  exact (congrArg FState.isParked (f.landed_st k pos cause regs vals _)).trans hp

/-- What a memory access may note at a fibre before its operation ends: the errors it left, and the releases that it read. -/
def Noted (f g : Fibre) : Prop := g = { f with merr := g.merr, attached := g.attached, read := g.read, observed := g.observed }

theorem Noted.refl (f : Fibre) : Noted f f := rfl

theorem Noted.trans {f g h : Fibre} (hg : Noted f g) (hh : Noted g h) : Noted f h := by
  rw [Noted, hh, hg]

/-- A token after a completion, in one equation for each of its fields (R133, R134). -/
theorem Tok.complete_noTags (t : Tok) (cause : Option Cause) : { t.complete cause with eng := addTags (t.eng) [] } =
    { t with count := t.count - 1, err := t.err || cause.isSome, cause := if t.err then t.cause else cause.getD t.cause } := by
  obtain ⟨count, err, old, eng⟩ := t
  cases cause <;> cases err <;> rfl

/-- A fibre is as after a completion once its values have landed from the request's first register on. -/
theorem Completed.of_landed {f g : Fibre} (hg : Noted f g) (r : MemReq) (cause : Option Cause) {regs : List Nat} {vals : List Word}
    (hregs : vals ≠ [] → regs.headD 0 = r.d) (pick : Nat → Nat) : Completed f (g.landed r.k r.pos cause regs vals pick) r cause vals := by
  have frame := landFrom_frame r.k r.pos (regs.headD 0) pick g 0 vals
  have kept := landFrom_getV_ne r.k r.pos (regs.headD 0) pick g 0 vals
  have written := fun hw x w => landFrom_getV (f := g) hw r.k r.pos (regs.headD 0) pick 0 vals (x := x) (w := w)
  have value : ∀ n, g.getV n = f.getV n := fun n => by rw [hg]; rfl
  have hlanded : g.landed r.k r.pos cause regs vals pick = let y := (landFrom r.k r.pos (regs.headD 0) pick g 0 vals).markDone r.k r.pos regs
      { y with k := kset y.k r.k { (y.tok r.k).complete cause with eng := addTags (y.tok r.k).eng [] } } := rfl
  rw [hlanded]
  generalize landFrom r.k r.pos (regs.headD 0) pick g 0 vals = y at frame kept written
  have tok : y.k = f.k := by rw [frame, hg]
  have wrote : g.wrote = f.wrote := by rw [hg]
  refine ⟨?_, ?_, fun k hk => ?_, fun n hn => ?_, fun hw j w hj => ?_⟩
  · simp only [Fibre.markDone]
    rw [frame, hg]
  · simp only [Fibre.tok, Fibre.markDone, kgetD_kset_self, tok]
    exact Tok.complete_noTags _ cause
  · simp only [Fibre.tok, Fibre.markDone, kgetD_kset_ne _ _ _ hk, tok]
  · change y.getV n = f.getV n
    rw [← value n]
    cases vals with
    | nil => exact kept n (by simp; omega)
    | cons v vals =>
      rw [hregs (List.cons_ne_nil _ _)] at kept
      exact kept n (by simpa using hn)
  · change y.getV (r.d + j) = w
    have hd : regs.headD 0 = r.d := hregs fun h => by rw [h] at hj; cases hj
    have hyj := written (by rwa [wrote]) j w hj
    rwa [hd, Nat.add_zero] at hyj

/-- Between two states an operation has gone and, beside the counter of free values, only crews have changed. -/
def OpGone (s t : State) (op : Nat) : Prop := t = { s with ops := kdel s.ops op, free := t.free, crews := t.crews }

theorem OpGone.modFibre {s t : State} {op : Nat} (h : OpGone s t op) (crew fid : Nat) (k : Fibre → Fibre) :
    OpGone s (t.modFibre crew fid k) op := by
  rw [OpGone]
  conv_lhs => rw [h]
  rfl

theorem OpGone.bump {s t : State} {op : Nat} (h : OpGone s t op) : OpGone s t.bump op := by
  rw [OpGone]
  conv_lhs => rw [h]
  rfl

theorem Awake.modFibre {s : State} {crew fid : Nat} {c : Crew} {f : Fibre} (h : Awake s crew fid c f) (k : Fibre → Fibre)
    (hst : (k f).st = f.st) : Awake (s.modFibre crew fid k) crew fid (c.modFibre fid k) (k f) := by
  obtain ⟨hc, hf, hp, hi⟩ := h
  exact ⟨(kget_kmod_self ..).trans (congrArg _ hc), (kget_kmod_self ..).trans (congrArg _ hf), hst ▸ hp, hi⟩

theorem Fibre.noteError_noted (f : Fibre) (r : MemReq) (c : Cause) (page : Nat) : Noted f (f.noteError r c page) := rfl

/-- A fibre of a crew is as after the completion of a request. -/
def FibreCompleted (t : State) (crew fid : Nat) (f : Fibre) (r : MemReq) (cause : Option Cause) (vals : List Word) : Prop :=
  ∃ c' x, kget t.crews crew = some c' ∧ kget c'.fibres fid = some x ∧ Completed f x r cause vals

/-- An operation that is gone completes on the token of its awake fibre. -/
theorem State.completeFor_completed {s t : State} {op crew fid : Nat} {c : Crew} {f g : Fibre} (hgone : OpGone s t op) (h : Awake t crew fid c g)
    (hg : Noted f g) (r : MemReq) (cause : Option Cause) {regs : List Nat} {vals : List Word} (hregs : vals ≠ [] → regs.headD 0 = r.d) :
    OpGone s (t.completeFor (.fibre crew fid r.k) cause [] regs r.pos vals) op ∧
      FibreCompleted (t.completeFor (.fibre crew fid r.k) cause [] regs r.pos vals) crew fid f r cause vals := by
  rw [State.completeFor_landed h]
  obtain ⟨hc, hf, -, -⟩ := h
  exact ⟨(hgone.bump).modFibre crew fid _, _, _, (kget_kmod_self ..).trans (congrArg _ hc), (kget_kmod_self ..).trans (congrArg _ hf),
    Completed.of_landed hg r cause hregs _⟩

/-- The first of consecutive numbers. -/
theorem headD_map_range {d n : Nat} (h : (List.range n).map (fun k => d + k) ≠ []) : ((List.range n).map fun k => d + k).headD 0 = d := by
  cases n with
  | zero => exact absurd List.map_nil h
  | succ n => rw [List.range_succ_eq_map]; rfl

/-- The first register of a request that writes any. -/
theorem MemReq.dests_headD {r : MemReq} (h : r.dests ≠ []) : r.dests.headD 0 = r.d := headD_map_range h

/-- A request of an awake fibre completes: its operation is no more, and its fibre is as after a completion. -/
theorem State.finishMem_completed {s : State} (op : Nat) {crew fid : Nat} {c : Crew} {f g : Fibre} {r : MemReq} {d : Done}
    (h : Awake s crew fid c g) (hg : Noted f g) (hvals : d.vals ≠ [] → r.dests ≠ [] ∧ d.cause.any retryable = false) :
    OpGone s (s.finishMem op crew fid r d) op ∧ FibreCompleted (s.finishMem op crew fid r d) crew fid f r d.cause d.vals := by
  have hregs : d.vals ≠ [] → (if d.cause.any retryable then [] else r.dests).headD 0 = r.d := fun hne => by
    obtain ⟨hdests, hcause⟩ := hvals hne
    rw [hcause]
    exact MemReq.dests_headD hdests
  have gone : OpGone s { s with ops := kdel s.ops op } op := rfl
  have awake : Awake { s with ops := kdel s.ops op } crew fid c g := h
  cases hd : d.cause with
  | none =>
    have run : s.finishMem op crew fid r d =
        State.completeFor { s with ops := kdel s.ops op } (.fibre crew fid r.k) none [] r.dests r.pos d.vals := by
      simp [State.finishMem, hd]
    rw [hd] at hregs
    rw [run]
    exact State.completeFor_completed gone awake hg r none hregs
  | some x =>
    rw [hd] at hregs
    have run : s.finishMem op crew fid r d = State.completeFor (State.modFibre { s with ops := kdel s.ops op } crew fid fun f =>
        f.noteError r x (if d.page = 0 then r.ea / 4096 else d.page)) (.fibre crew fid r.k) (some x) []
        (if (some x).any retryable then [] else r.dests) r.pos d.vals := by
      simp only [State.finishMem, hd]
    rw [run]
    exact State.completeFor_completed (gone.modFibre crew fid _) (Awake.modFibre awake _ rfl) (hg.trans (Fibre.noteError_noted _ _ _ _)) r (some x)
      hregs

/-- COMPLETION of an operation that performs its request and sends nothing to a host is the request's completion (R133). -/
theorem completes_of_finish {s t : State} {op crew fid : Nat} {o : Op} {c : Crew} {f g : Fibre} {r : MemReq} {d : Done}
    (hop : kget s.ops op = some o) (hrun : s.completeOp op o = t.finishMem op crew fid r d) (hsnoop : NoSnoop s t) (hwork : t.tick = s.tick ∧
      t.pages = s.pages ∧ t.gangs = s.gangs ∧ t.queues = s.queues) (h : Awake t crew fid c g) (hg : Noted f g)
    (hvals : d.vals ≠ [] → r.dests ≠ [] ∧ d.cause.any retryable = false) {after : State → Prop}
    (hafter : ∀ u, OpGone t u op → after u) : Completes (.completion op) s op crew fid f r d.cause d.vals after := by
  obtain ⟨hgone, c', x, hcrew, hfibre, hdone⟩ := State.finishMem_completed op (r := r) (d := d) h hg hvals
  obtain ⟨htick, hpages, hgangs, hqueues⟩ := hwork
  have hexec : exec (.completion op) s = .next (t.finishMem op crew fid r d) := by
    change execCompletion op s = _
    rw [execCompletion, hop]
    simp only [hrun]
    rw [State.orSnoop_of_noSnoop ((newSnoops_congr (by rw [hgone])).trans hsnoop)]
  refine ⟨_, c', x, hexec, by rw [hgone]; exact kget_kdel_self _ _, hcrew, hfibre, hdone, ?_, ?_, ?_, ?_, hafter _ hgone⟩
  all_goals rw [hgone]; assumption

end Sys2Proof.Machine
end

section
/-! PROOF. The accesses that COMPLETION performs: to the scratchpad, and relaxed ones to a line of global memory that the core does not hold
(R160, R162, R163, R201). -/

namespace Sys2Proof.Machine

open Sys2Proof.Terms

/-! ## Work in caches and on links -/

/-- From s to t only caches and the frames on links have changed. -/
def CacheWork (s t : State) : Prop := t = { s with agents := t.agents, linkOut := t.linkOut, ports := t.ports }

theorem CacheWork.refl (s : State) : CacheWork s s := rfl

theorem CacheWork.trans {s t u : State} (h : CacheWork s t) (g : CacheWork t u) : CacheWork s u := by rw [CacheWork, g, h]

theorem CacheWork.modAgent (s : State) (a : Nat) (f : Agent → Agent) : CacheWork s (s.modAgent a f) := rfl

/-- An agent holds nothing of a line, and has room for it. -/
structure Misses (s : State) (a line : Nat) : Prop where
  l1 : kget (s.agent a).l1 line = none
  wc : kget (s.agent a).wc line = none
  room : (s.roomMates a line).length < l1Lines

/-- A message to a chip changes no cache. -/
theorem Misses.tellChip {s : State} {a line : Nat} (h : Misses s a line) (chip : Nat) (m : LinkMsg) :
    CacheWork s (s.tellChip chip m) ∧ Misses (s.tellChip chip m) a line ∧ ∀ pa n, (s.tellChip chip m).readPas pa n = s.readPas pa n := by
  obtain ⟨ports, hm⟩ := s.tellChip_frame chip m
  rw [hm]
  exact ⟨rfl, ⟨h.l1, h.wc, h.room⟩, fun _ _ => rfl⟩

theorem Misses.makeRoom {s : State} {a line : Nat} (h : Misses s a line) : s.makeRoom a line = (s, none) := by
  rw [State.makeRoom]
  dsimp only
  rw [if_pos (by simp [h.room])]

theorem Misses.handOver {s : State} {a line : Nat} (h : Misses s a line) (crew : Option Nat) : s.handOver a crew line = (s, none) := by
  simp [State.handOver, kgetD, h.l1, h.wc, emptyLine, L1Line.dirty, Tried.andThen]

/-! ## Reads -/

/-- A byte that its agent does not hold is seen as it stands at its home. -/
theorem Misses.seeByte {s : State} {a pa : Nat} (h : Misses s a (pa / 128)) (atHome : Bool) :
    s.seeByte a pa atHome = ⟨s.readPa pa, false, 0, kgetD s.tags pa [], s.tick, s.poisonDev.contains pa⟩ := by
  simp [State.seeByte, h.l1, h.wc]

theorem Misses.seeByte_add {s : State} {a pa n i : Nat} (h : Misses s a (pa / 128)) (hfits : pa % 128 + n ≤ 128) (hi : i < n) (atHome : Bool) :
    s.seeByte a (pa + i) atHome = ⟨s.readPa (pa + i), false, 0, kgetD s.tags (pa + i) [], s.tick, s.poisonDev.contains (pa + i)⟩ := by
  have hline : (pa + i) / 128 = pa / 128 := by omega
  exact Misses.seeByte (hline ▸ h) atHome

/-- The bytes that a read finds at their homes. -/
theorem Misses.seen_vals {s : State} {a pa n : Nat} (h : Misses s a (pa / 128)) (hfits : pa % 128 + n ≤ 128) (atHome : Bool) :
    ((List.range n).map fun i => s.seeByte a (pa + i) atHome).map L1Byte.val = s.readPas pa n := by
  rw [List.map_map, State.readPas]
  exact List.map_congr_left fun i hi => congrArg L1Byte.val (h.seeByte_add hfits (List.mem_range.mp hi) atHome)

/-- Bytes that carry no mark at their homes are seen without one (R409). -/
theorem Misses.seenPoison {s : State} {a pa n : Nat} (h : Misses s a (pa / 128)) (hfits : pa % 128 + n ≤ 128) (hp : s.poisoned pa n = false)
    (atHome : Bool) : s.seenPoison a pa n atHome = false := by
  rw [State.seenPoison, List.any_eq_false]
  intro i hi
  have hi := List.mem_range.mp hi
  rw [h.seeByte_add hfits hi atHome]
  simp only [List.contains_iff_mem]
  intro hmem
  have := List.any_eq_false.mp hp (pa + i) hmem
  simp at this
  omega

/-- A read of bytes of one line that its agent does not hold gives what stands at their homes, and changes caches alone. -/
theorem Misses.readLine {s : State} {a pa n : Nat} (h : Misses s a (pa / 128)) (hfits : pa % 128 + n ≤ 128) (atHome alloc : Bool) :
    CacheWork s (s.readLine a pa n atHome alloc).1 ∧ (s.readLine a pa n atHome alloc).2.bytes = s.readPas pa n := by
  unfold State.readLine
  dsimp only
  split
  · exact ⟨CacheWork.refl s, h.seen_vals hfits false⟩
  · cases alloc with
    | true =>
      rw [if_pos rfl, h.makeRoom]
      exact ⟨rfl, h.seen_vals hfits true⟩
    | false => exact ⟨rfl, h.seen_vals hfits true⟩

theorem State.poisoned_of_dataCause {s : State} {pa n : Nat} (h : s.dataCause pa n = none) :
    s.poisoned pa n = false ∧ s.reachCause pa n = none := by
  unfold State.dataCause at h
  cases hp : s.poisoned pa n with
  | true => rw [hp, if_pos rfl] at h; cases h
  | false => rw [hp] at h; exact ⟨rfl, h⟩

/-- A relaxed load of a line that its core does not hold: the bytes at their homes, noted at the fibre. -/
theorem Misses.loadAt {s : State} {core pa : Nat} {r : MemReq} (h : Misses s (s.agentOf core) (pa / 128)) (hfits : pa % 128 + r.n ≤ 128)
    (hord : r.order = .relaxed) (hcounter : s.inCounter pa = false) (hdata : s.dataCause pa r.n = none) (crew fid : Nat) (sz : Size) :
    ∃ t v, CacheWork s t ∧ s.loadAt core crew fid r sz pa true = (t.noteRead crew fid v, { vals := loadVals sz (s.readPas pa r.n) }) := by
  obtain ⟨hpoison, hreach⟩ := State.poisoned_of_dataCause hdata
  unfold State.loadAt
  simp only [hord, hcounter, bne_self_eq_false, Bool.not_true, Bool.or_false, h.seenPoison hfits hpoison, hreach, ite_self, Bool.not_false,
    Bool.true_and, Bool.false_eq_true, if_false, if_true]
  generalize hs0 : (if (isPeer pa && !s.l1Holds (s.agentOf core) pa r.n) = true then _ else s) = s0
  obtain ⟨work, misses, reads⟩ : CacheWork s s0 ∧ Misses s0 (s.agentOf core) (pa / 128) ∧ ∀ pa n, s0.readPas pa n = s.readPas pa n := by
    subst hs0
    split
    · exact h.tellChip _ _
    · exact ⟨CacheWork.refl s, h, fun _ _ => rfl⟩
  obtain ⟨read, bytes⟩ := misses.readLine hfits false (r.cp != .nt)
  exact ⟨_, _, work.trans read, by rw [bytes, reads]⟩

/-! ## Stores -/

/-- Each byte of a store stands in its place of the line, dirty. -/
theorem kget_put_lineBytes (l : L1Line) (off : Nat) (bs : List Byte) (dirty : Bool) (cnt : Nat) (tags : List RelTag) (now : Nat) {j : Nat} {b : Byte}
    (h : bs[j]? = some b) : kget (l.put (lineBytes off bs dirty cnt tags now)).bytes (off + j) = some ⟨b, dirty, cnt, tags, now, false⟩ := by
  have keys : ((lineBytes off bs dirty cnt tags now).map fun x => x.1).Nodup := by
    have indices : bs.zipIdx.map Prod.snd = List.range bs.length := by rw [List.zipIdx_map_snd, List.range_eq_range']
    have hmap : (lineBytes off bs dirty cnt tags now).map (fun x => x.1) = (List.range bs.length).map fun j => off + j := by
      rw [← indices, lineBytes, List.map_map, List.map_map]
      rfl
    rw [hmap]
    exact List.nodup_range.map fun x y hxy => Nat.add_left_cancel hxy
  have member : (off + j, (⟨b, dirty, cnt, tags, now, false⟩ : L1Byte)) ∈ lineBytes off bs dirty cnt tags now :=
    List.mem_map.mpr ⟨(b, j), List.mk_mem_zipIdx_iff_getElem?.mpr h, rfl⟩
  exact kget_foldl_kset_mem id _ l.bytes keys member

/-- A store of a crew has left bytes of one line in an agent's L1, dirty. -/
def LeftDirty (t : State) (a crew pa : Nat) (bs : List Byte) : Prop :=
  ∃ l, kget (t.agent a).l1 (pa / 128) = some l ∧ l.writer = some crew ∧
    ∀ j b, bs[j]? = some b → ∃ y, kget l.bytes (pa % 128 + j) = some y ∧ y.val = b ∧ y.dirty = true

theorem State.modAgent_agent (s : State) (a : Nat) (f : Agent → Agent) : (s.modAgent a f).agent a = f (s.agent a) := kgetD_kset_self _ _ _ _

/-- A store to a line that its agent does not hold leaves its bytes in the L1 (R160, R201). -/
theorem Misses.storeL1 {s : State} {a pa : Nat} (h : Misses s a (pa / 128)) (crew va : Nat) (bs : List Byte) (tags : List RelTag) :
    ∃ t, s.storeL1 a crew pa va bs tags = (t, none) ∧ CacheWork s t ∧ LeftDirty t a crew pa bs := by
  unfold State.storeL1
  dsimp only
  rw [h.handOver, Tried.andThen, h.makeRoom]
  refine ⟨_, rfl, CacheWork.modAgent _ _ _, _, by rw [State.modAgent_agent]; exact kget_kset_self _ _ _, rfl, fun j b hb => ?_⟩
  exact ⟨_, kget_put_lineBytes _ _ _ _ _ _ _ hb, rfl, rfl⟩

/-- A relaxed store by a policy that keeps it in the L1 (R162). -/
theorem Misses.storeAt {s : State} {core pa : Nat} {r : MemReq} (h : Misses s (s.agentOf core) (pa / 128)) (hord : r.order = .relaxed)
    (hnt : r.cp ≠ .nt) (hwc : r.cp ≠ .wc) (crew fid : Nat) (sz : Size) :
    ∃ t, s.storeAt core crew fid r sz pa true = (t, {}) ∧ CacheWork s t ∧ LeftDirty t (s.agentOf core) crew pa (storeBytes sz r.data) := by
  obtain ⟨t, ht, work, dirty⟩ := h.storeL1 crew r.ea (storeBytes sz r.data) ((s.crew crew).fibre fid).fences
  refine ⟨t, ?_, work, dirty⟩
  simp [State.storeAt, State.putStore, hord, hnt, hwc, ht, Tried.done]

/-! ## The scratchpad -/

/-- A relaxed load from the scratchpad notes the releases that its bytes carry at the fibre. -/
theorem State.loadScratch_relaxed {s : State} {core : Nat} {r : MemReq} (hord : r.order = .relaxed)
    (hpoison : s.scratchPoison (clusterOf core) r.ea r.n = false) (crew fid : Nat) (sz : Size) :
    ∃ tags, s.loadScratch core crew fid r sz =
      (s.modFibre crew fid fun f => { f with read := addTags f.read tags }, { vals := loadVals sz (s.readScratch (clusterOf core) r.ea r.n) }) := by
  unfold State.scratchPoison at hpoison
  dsimp only at hpoison
  unfold State.loadScratch
  simp only [hpoison, hord, if_true, Bool.false_eq_true, if_false]
  exact ⟨_, rfl⟩

/-- Releases put at bytes of the scratchpad change nothing else. -/
theorem State.tagScratch_frame (s : State) (cluster addr n : Nat) (tags : List RelTag) :
    ∃ l, s.tagScratch cluster addr n tags = { s with tags := l } := by
  unfold State.tagScratch
  split
  · exact ⟨s.tags, rfl⟩
  · exact ⟨_, rfl⟩

theorem State.storeScratch_relaxed {s : State} {r : MemReq} (hord : r.order = .relaxed) (core crew fid : Nat) (sz : Size) :
    ∃ tags, s.storeScratch core crew fid r sz = ({ s.writeScratch (clusterOf core) r.ea (storeBytes sz r.data) with tags := tags }, {}) := by
  unfold State.storeScratch
  dsimp only
  rw [if_pos hord]
  obtain ⟨tags, htags⟩ := (s.writeScratch (clusterOf core) r.ea (storeBytes sz r.data)).tagScratch_frame (clusterOf core) r.ea r.n
    ((s.crew crew).fibre fid).fences
  exact ⟨tags, by rw [htags]⟩

/-! ## Requests that are ready -/

/-- A request that is ready completes with what it gives when it is performed. -/
theorem State.completeOp_ready {s t : State} {op crew fid : Nat} {o : Op} {c : Crew} {f : Fibre} {r : MemReq} {d : Done}
    (h : ReadyMem s op o crew fid c f r) (hgate : s.bankGated o.core r = false) (hp : s.performMem o crew fid r = (t, some d)) :
    s.completeOp op o = t.finishMem op crew fid r d := by
  obtain ⟨-, hkind, hstage, -, hheld, hstalled, -⟩ := h
  simp [State.completeOp, hstage, hkind, State.completeMem, hheld, hgate, hstalled, hp]

/-- The fibre of a request that is ready lets it go. -/
theorem ReadyMem.not_blocks {s : State} {op crew fid : Nat} {o : Op} {c : Crew} {f : Fibre} {r : MemReq} (h : ReadyMem s op o crew fid c f r) :
    ((s.crew crew).fibre fid).blocks r = false := by
  obtain ⟨-, -, -, ⟨hc, hf, -⟩, -, -, hblocks⟩ := h
  rwa [State.crew_of_kget hc, Crew.fibre_of_kget hf]

/-- A request to another space than the scratchpad waits for no bank of it (R168). -/
theorem State.bankGated_global (s : State) (core : Nat) {r : MemReq} (h : r.space = .global) : s.bankGated core r = false := by
  simp [State.bankGated, h]

/-- A load or a store that is ready reaches its home where its address translates. -/
theorem ReadyMem.reqHome {s u : State} {op crew fid pa : Nat} {o : Op} {c : Crew} {f : Fibre} {r : MemReq} {cacheable : Bool}
    (h : ReadyMem s op o crew fid c f r) (hxl : s.reqXl o r = (u, .ok pa cacheable)) (hfn : ∃ sz, r.fn = .load sz ∨ r.fn = .store sz) :
    s.reqHome o crew fid r = (u, .ok (pa, cacheable)) := by
  have hblocks := ReadyMem.not_blocks h
  obtain ⟨sz, hfn | hfn⟩ := hfn
  · simp [State.reqHome, hblocks, MemReq.isAllow, hfn, hxl]
  · simp [State.reqHome, hblocks, MemReq.isAllow, hfn, hxl]

theorem MemReq.dests_load {r : MemReq} {sz : Size} (h : r.fn = .load sz) : r.dests ≠ [] := by
  cases sz <;> simp [MemReq.dests, h, sizeRegs]

end Sys2Proof.Machine

namespace Sys2Proof.Proofs

open Sys2Proof.Machine Sys2Proof.Terms

/-- COMPLETION of a result that its home has given. -/
theorem completes_atHome {s : State} {op crew fid : Nat} {o : Op} {c : Crew} {f : Fibre} {r : MemReq} (hop : kget s.ops op = some o)
    (hkind : o.kind = .mem r crew fid) (hstage : o.stage = .atHome) (h : Awake s crew fid c f)
    (hvals : r.data ≠ [] → r.dests ≠ [] ∧ retryable r.cause = false) :
    Completes (.completion op) s op crew fid f r (if r.cause = 0 then none else some r.cause) r.data fun t =>
      t.dev = s.dev ∧ t.host = s.host ∧ t.scratch = s.scratch := by
  have hrun : s.completeOp op o = s.finishMem op crew fid r { cause := if r.cause = 0 then none else some r.cause, vals := r.data } := by
    simp [State.completeOp, hstage, hkind, State.completeMem]
  refine completes_of_finish hop hrun (noSnoop_of_hostOut rfl) ⟨rfl, rfl, rfl, rfl⟩ h (Noted.refl f) (fun hne => ?_) fun u hu => ?_
  · obtain ⟨hdests, hcause⟩ := hvals hne
    refine ⟨hdests, ?_⟩
    change (if r.cause = 0 then none else some r.cause).any retryable = false
    by_cases h0 : r.cause = 0
    · rw [if_pos h0]
      rfl
    · rw [if_neg h0]
      exact hcause
  · rw [hu]
    exact ⟨rfl, rfl, rfl⟩

/-- COMPLETION of a relaxed load from the scratchpad. -/
theorem completes_scratchLoad {s : State} {op crew fid : Nat} {o : Op} {c : Crew} {f : Fibre} {r : MemReq} {sz : Size}
    (h : ReadyMem s op o crew fid c f r) (hspace : r.space = .scratch) (hord : r.order = .relaxed) (hgate : s.bankGated o.core r = false)
    (hfn : r.fn = .load sz) (hpoison : s.scratchPoison (clusterOf o.core) r.ea r.n = false) :
    Completes (.completion op) s op crew fid f r none (loadVals sz (s.readScratch (clusterOf o.core) r.ea r.n)) fun t =>
      t.dev = s.dev ∧ t.host = s.host ∧ t.scratch = s.scratch := by
  obtain ⟨tags, hload⟩ := State.loadScratch_relaxed hord hpoison crew fid sz
  have hperform : s.performMem o crew fid r = (s.modFibre crew fid fun f => { f with read := addTags f.read tags },
      some { vals := loadVals sz (s.readScratch (clusterOf o.core) r.ea r.n) }) := by
    simp [State.performMem, hfn, hspace, ReadyMem.not_blocks h, hload]
  have hrun := State.completeOp_ready h hgate hperform
  obtain ⟨hop, -, -, hawake, -⟩ := h
  refine completes_of_finish hop hrun (noSnoop_of_hostOut rfl) ⟨rfl, rfl, rfl, rfl⟩ (Awake.modFibre hawake _ rfl) rfl
    (fun _ => ⟨MemReq.dests_load hfn, rfl⟩) fun u hu => ?_
  rw [hu]
  exact ⟨rfl, rfl, rfl⟩

/-- COMPLETION of a relaxed store to the scratchpad. -/
theorem completes_scratchStore {s : State} {op crew fid : Nat} {o : Op} {c : Crew} {f : Fibre} {r : MemReq} {sz : Size}
    (h : ReadyMem s op o crew fid c f r) (hspace : r.space = .scratch) (hord : r.order = .relaxed) (hgate : s.bankGated o.core r = false)
    (hfn : r.fn = .store sz) (hm : s.memWf) :
    Completes (.completion op) s op crew fid f r none [] fun t => t.dev = s.dev ∧ t.host = s.host ∧
      Stored (memRead s.scratch) (memRead t.scratch) (scratchKey (clusterOf o.core) r.ea) (storeBytes sz r.data) := by
  obtain ⟨tags, hstore⟩ := State.storeScratch_relaxed (s := s) hord o.core crew fid sz
  have hperform : s.performMem o crew fid r =
      ({ s.writeScratch (clusterOf o.core) r.ea (storeBytes sz r.data) with tags := tags }, some {}) := by
    simp [State.performMem, hfn, hspace, ReadyMem.not_blocks h, hstore]
  have hrun := State.completeOp_ready h hgate hperform
  obtain ⟨hop, -, -, hawake, -⟩ := h
  refine completes_of_finish hop hrun (noSnoop_of_hostOut rfl) ⟨rfl, rfl, rfl, rfl⟩ hawake (Noted.refl f) (fun hne => absurd rfl hne)
    fun u hu => ?_
  rw [hu]
  exact ⟨rfl, rfl, State.writeScratch_stored hm rfl _ _ _⟩

/-- What the translation of a request and then work in caches leave of the state from which COMPLETION runs. -/
theorem reached_of_work {s u t : State} {o : Op} {r : MemReq} {x : Xl} (hxl : s.reqXl o r = (u, x)) (work : CacheWork u t) (hsnoop : NoSnoop s u) :
    NoSnoop s t ∧ (t.tick = s.tick ∧ t.pages = s.pages ∧ t.gangs = s.gangs ∧ t.queues = s.queues) ∧ t.crews = s.crews := by
  have home := (s.reqXl_work o r).eq
  rw [hxl] at home
  dsimp only at home
  refine ⟨(newSnoops_congr (by rw [work])).trans hsnoop, ?_, ?_⟩
  · rw [work, home]
    exact ⟨rfl, rfl, rfl, rfl⟩
  · rw [work, home]

/-- COMPLETION of a relaxed load of a line of global memory that its core does not hold. -/
theorem completes_globalLoad {s u : State} {op crew fid pa : Nat} {o : Op} {c : Crew} {f : Fibre} {r : MemReq} {sz : Size}
    (h : ReadyMem s op o crew fid c f r) (hspace : r.space = .global) (hord : r.order = .relaxed) (hxl : s.reqXl o r = (u, .ok pa true))
    (hcounter : u.inCounter pa = false) (hdata : u.dataCause pa r.n = none) (hfits : pa % 128 + r.n ≤ 128)
    (misses : Misses u (u.agentOf o.core) (pa / 128)) (hsnoop : NoSnoop s u) (hfn : r.fn = .load sz) :
    Completes (.completion op) s op crew fid f r none (loadVals sz (u.readPas pa r.n)) fun t =>
      t.dev = u.dev ∧ t.host = u.host ∧ t.scratch = u.scratch := by
  obtain ⟨t, v, work, hload⟩ := misses.loadAt hfits hord hcounter hdata crew fid sz
  have hperform : s.performMem o crew fid r = (t.noteRead crew fid v, some { vals := loadVals sz (u.readPas pa r.n) }) := by
    simp [State.performMem, hfn, hspace, ReadyMem.reqHome h hxl ⟨sz, .inl hfn⟩, hload]
  have hrun := State.completeOp_ready h (s.bankGated_global o.core hspace) hperform
  obtain ⟨hop, -, -, hawake, -⟩ := h
  obtain ⟨hquiet, hsame, hcrews⟩ := reached_of_work hxl work hsnoop
  have hawake' : Awake t crew fid c f := by rwa [Awake, hcrews]
  refine completes_of_finish hop hrun ((newSnoops_congr rfl).trans hquiet) hsame (Awake.modFibre hawake' _ rfl) rfl
    (fun _ => ⟨MemReq.dests_load hfn, rfl⟩) fun z hz => ?_
  rw [hz]
  change t.dev = _ ∧ t.host = _ ∧ t.scratch = _
  rw [work]
  exact ⟨rfl, rfl, rfl⟩

/-- COMPLETION of a relaxed store to a line of global memory that its core does not hold. -/
theorem completes_globalStore {s u : State} {op crew fid pa : Nat} {o : Op} {c : Crew} {f : Fibre} {r : MemReq} {sz : Size}
    (h : ReadyMem s op o crew fid c f r) (hspace : r.space = .global) (hord : r.order = .relaxed) (hxl : s.reqXl o r = (u, .ok pa true))
    (misses : Misses u (u.agentOf o.core) (pa / 128)) (hsnoop : NoSnoop s u) (hfn : r.fn = .store sz) (hnt : r.cp ≠ .nt) (hwc : r.cp ≠ .wc) :
    Completes (.completion op) s op crew fid f r none [] fun t => t.dev = u.dev ∧ t.host = u.host ∧ t.scratch = u.scratch ∧
      LeftDirty t (u.agentOf o.core) crew pa (storeBytes sz r.data) := by
  obtain ⟨t, hstore, work, dirty⟩ := misses.storeAt hord hnt hwc crew fid sz
  have hperform : s.performMem o crew fid r = (t, some {}) := by
    simp [State.performMem, hfn, hspace, ReadyMem.reqHome h hxl ⟨sz, .inr hfn⟩, hstore]
  have hrun := State.completeOp_ready h (s.bankGated_global o.core hspace) hperform
  obtain ⟨hop, -, -, hawake, -⟩ := h
  obtain ⟨hquiet, hsame, hcrews⟩ := reached_of_work hxl work hsnoop
  refine completes_of_finish hop hrun hquiet hsame (by rwa [Awake, hcrews]) (Noted.refl f) (fun hne => absurd rfl hne) fun z hz => ?_
  have memories : z.dev = u.dev ∧ z.host = u.host ∧ z.scratch = u.scratch := by
    rw [hz]
    change t.dev = _ ∧ t.host = _ ∧ t.scratch = _
    rw [work]
    exact ⟨rfl, rfl, rfl⟩
  obtain ⟨hdev, hhost, hscratch⟩ := memories
  refine ⟨hdev, hhost, hscratch, ?_⟩
  rw [hz]
  exact dirty

/-- Settles O42: each of the five completions performs its request and then completes it on the token of its fibre. -/
theorem completionEvent : Obligations.CompletionEvent := by
  unfold Obligations.CompletionEvent
  refine ⟨fun s op crew fid o c f r hop hkind hstage hawake hvals => completes_atHome hop hkind hstage hawake hvals, ?_, ?_⟩
  · intro s op crew fid o c f r sz h hspace hord hgate
    exact ⟨fun hfn hpoison => completes_scratchLoad h hspace hord hgate hfn hpoison,
      fun hfn hm => completes_scratchStore h hspace hord hgate hfn hm⟩
  · intro s u op crew fid pa o c f r sz h hspace hord hxl hcounter hdata hfits hl1 hwc hsnoop hroom
    exact ⟨fun hfn => completes_globalLoad h hspace hord hxl hcounter hdata hfits ⟨hl1, hwc, hroom⟩ hsnoop hfn,
      fun hfn hnt hcp => completes_globalStore h hspace hord hxl ⟨hl1, hwc, hroom⟩ hsnoop hfn hnt hcp⟩

end Sys2Proof.Proofs
end

section
/-! PROOF. The address of a memory word (R156): the sum in its space, and then its alignment. -/

namespace Sys2Proof.Machine

/-- An address that its space accepts, checked for the alignment of an access of n bytes (R157). -/
def alignedTo (n : Nat) : Except Cause Nat → Except Cause Nat
  | .error x => .error x
  | .ok a => if n ≠ 0 ∧ a % n ≠ 0 then .error 0x40 else .ok a

section
variable (s : State) (c : Crew) (f : Fibre) (n : Nat) (base : Word64) (off : Int)

theorem memAddr_global : memAddr s c f .global n base off = alignedTo n (globalAddr (s.levels c.pasid) base.toNat off) := rfl

theorem memAddr_scratch : memAddr s c f .scratch n base off =
    alignedTo n (segAddr c.segScratch.base c.segScratch.limit n (loHalf base).toNat off 0x41) := rfl

theorem memAddr_const : memAddr s c f .const n base off =
    alignedTo n (segAddr c.segConst.base c.segConst.limit n (loHalf base).toNat off 0x41) := rfl

theorem memAddr_frame : memAddr s c f .frame n base off = alignedTo n (segAddr (f.seg + 32) 992 n (loHalf base).toNat off 0x55) := rfl

end

/-- The low half of a pair is its value modulo 2^32. -/
theorem loHalf_toNat (base : Word64) : (loHalf base).toNat = base.toNat % 2 ^ 32 := BitVec.toNat_setWidth 32 base

theorem alignedTo_globalAddr (levels n base : Nat) (off : Int) : alignedTo n (globalAddr levels base off) =
    if ¬ (0 ≤ base + off ∧ base + off < 2 ^ 64 ∧ canonical levels (base + off).toNat = true) then .error 0x42
    else if n ≠ 0 ∧ (base + off).toNat % n ≠ 0 then .error 0x40 else .ok (base + off).toNat := by
  rw [ite_not]
  unfold globalAddr
  dsimp only
  split
  · rfl
  · rfl

theorem alignedTo_segAddr (base limit n a : Nat) (off : Int) (c : Cause) : alignedTo n (segAddr base limit n a off c) =
    if ¬ (0 ≤ a + off ∧ a + off + n ≤ limit) then .error c
    else if n ≠ 0 ∧ (base + (a + off).toNat) % n ≠ 0 then .error 0x40 else .ok (base + (a + off).toNat) := by
  rw [ite_not]
  unfold segAddr
  dsimp only
  split
  · rfl
  · rfl

end Sys2Proof.Machine

namespace Sys2Proof.Proofs

open Sys2Proof.Machine Sys2Proof.Terms

/-- Settles O27: the sum is of the pair in global space and of its low half in a segment, and an accepted sum is checked for alignment. -/
theorem memoryAddresses : Obligations.MemoryAddresses := by
  unfold Obligations.MemoryAddresses
  intro s c f n base off
  rw [memAddr_global, memAddr_scratch, memAddr_const, memAddr_frame, loHalf_toNat]
  exact ⟨alignedTo_globalAddr .., alignedTo_segAddr .., alignedTo_segAddr .., alignedTo_segAddr ..⟩

/-- Settles O6: the state after reset has every field at its default. -/
theorem resetValues : Obligations.ResetValues := by
  unfold Obligations.ResetValues
  exact ⟨rfl, rfl, rfl, rfl, rfl, rfl, rfl, rfl, rfl, rfl, rfl, fun _ => ⟨rfl, rfl, rfl⟩, fun _ => rfl, rfl, rfl, rfl, memRead_nil⟩

end Sys2Proof.Proofs
end

section
/-! PROOF. Frame accesses, FENCE and IFENCE (R158, R171, R172, R323): requests put in flight, between translations that change caches and
homes alone. -/

namespace Sys2Proof.Machine

open Sys2Proof.Terms

theorem HomeWork.nextId {s t : State} (h : HomeWork s t) : t.nextId = s.nextId := by rw [h.eq]

/-- Requests of a list of fibres have gone into flight between two states, which may differ elsewhere: of the crew only these fibres have
changed, and each has its operation. -/
structure InFlight (s t : State) (i : Issue) (c c' : Crew) (R : Nat → MemReq) (l : List Nat) : Prop where
  crew : kget t.crews i.crew = some c'
  same : c' = { c with fibres := c'.fibres }
  fibres : ∀ f, kget c'.fibres f = if f ∈ l then (kget c.fibres f).map fun x => x.requested i.strict (R f) else kget c.fibres f
  next : s.nextId ≤ t.nextId
  older : ∀ id, id < s.nextId → kget t.ops id = kget s.ops id
  ops : ∀ f ∈ l, ∃ id, kget t.ops id = some (memOp i f (R f))

section
variable {s t u : State} {i : Issue} {c d e : Crew} {R : Nat → MemReq} {n : Nat} {l : List Nat}

theorem InFlight.nil (hc : kget s.crews i.crew = some c) : InFlight s s i c c R [] where
  crew := hc
  same := rfl
  fibres _ := rfl
  next := le_rfl
  older _ _ := rfl
  ops _ hf := nomatch hf

theorem Launched.inFlight (h : Launched s t i c d R l) : InFlight s t i c d R l := ⟨h.crew, h.same, h.fibres, h.next, h.older, h.ops⟩

/-- The request of one fibre goes into flight after home work. -/
theorem HomeWork.launchMem (h : HomeWork s t) (hc : kget s.crews i.crew = some c) (R : Nat → MemReq) (n : Nat) :
    InFlight s (t.launchMem i n (R n)) i c (c.modFibre n fun f => f.requested i.strict (R n)) R [n] := by
  have launched := State.launchMem_launched (s := t) (h.crews ▸ hc) R n
  have hnext := h.nextId
  refine ⟨launched.crew, rfl, launched.fibres, hnext ▸ launched.next, fun id hid => ?_, fun f hf => ?_⟩
  · rw [launched.older id (hnext ▸ hid), h.ops]
  · obtain rfl := List.mem_singleton.mp hf
    exact ⟨t.nextId, kget_kset_self ..⟩

/-- The request of a fibre, and then those of others. -/
theorem InFlight.cons (h : InFlight s t i c d R [n]) (hop : kget t.ops s.nextId = some (memOp i n (R n))) (hlt : s.nextId < t.nextId)
    (g : InFlight t u i d e R l) (hn : n ∉ l) : InFlight s u i c e R (n :: l) where
  crew := g.crew
  same := by rw [g.same, h.same]
  fibres f := by
    rw [g.fibres f, h.fibres f]
    by_cases hf : f = n
    · subst hf
      simp [hn]
    · simp [hf]
  next := h.next.trans g.next
  older id hid := (g.older id (hid.trans_le h.next)).trans (h.older id hid)
  ops f hf := by
    rcases List.mem_cons.mp hf with rfl | hf
    · exact ⟨s.nextId, (g.older _ hlt).trans hop⟩
    · exact g.ops f hf

/-- The end of a word whose requests are in flight: the fibres of the group go on, those that have a request with their tokens counting it. -/
theorem InFlight.endWord (h : InFlight s t i c d R l) (hl : ∀ f ∈ l, f ∈ i.grp.fids) (hexist : ∀ f ∈ i.grp.fids, (kget c.fibres f).isSome = true) :
    ∃ y, CrewStep t (t.endWord i i.grp.latches false []) i.crew y ∧ OnlyGroup i i.grp.latches c y ∧ ∀ f ∈ i.grp.fids,
      kget y.fibres f = some (passed i (if f ∈ l then (c.fibre f).requested i.strict (R f) else c.fibre f)) := by
  obtain ⟨y, hstep, hsame, hfibres, hgroups, hgroup⟩ := State.endWord_step h.crew i.grp.latches
  have hd := h.same
  refine ⟨y, hstep, ⟨by rw [hsame, hd], fun f hf => ?_, fun g hg => by rw [hgroups g hg, hd], fun g hg => by rw [hgroup g hg, hd]⟩,
    fun f hf => ?_⟩
  · rw [hfibres f, if_neg hf, h.fibres f, if_neg fun hfl => hf (hl f hfl)]
  · obtain ⟨x, hx⟩ := Option.isSome_iff_exists.mp (hexist f hf)
    rw [hfibres f, if_pos hf, h.fibres f, hx, Crew.fibre_of_kget hx]
    split
    · rfl
    · rfl

end

/-- What a request leaves of its fibre at the next word: its token and its marks alone have changed. -/
theorem passed_requested (i : Issue) (f : Fibre) (strict : Bool) (r : MemReq) : passed i (f.requested strict r) =
    { passed i f with k := (f.requested strict r).k, pend := (f.requested strict r).pend } :=
  congrArg (passed i) (f.requested_frame strict r)

/-! ## Frame accesses -/

/-- The checks of a frame access translate its address, which is home work. -/
theorem State.frameIssue_work (s : State) (i : Issue) (fid : Nat) (r : MemReq) : HomeWork s (s.frameIssue i fid r).1 := by
  have hxl := fun acc => s.coreXl_work i.core (s.crew i.crew).pasid r.ea acc
  unfold State.frameIssue
  split
  · exact .refl s
  · exact .refl s
  · exact .refl s
  · dsimp only
    split
    · next heq => exact (congrArg (HomeWork s ·.1) heq).mp (hxl _)
    · next heq =>
      have hwork := (congrArg (HomeWork s ·.1) heq).mp (hxl _)
      split
      · exact hwork
      · exact hwork

/-- A selected fibre of a frame access puts its request in flight (R323): its frame can be reached. -/
def FrameStep (e : Env) (m : MemShape) (seq : Nat) (R : Nat → MemReq) (a : State) (f : Nat) (b : State) : Prop :=
  ∃ u, e.memReq a m seq f = .ok (R f) ∧ a.frameIssue e.iss f (R f) = (u, none) ∧ b = u.launchMem e.iss f (R f)

section
variable {e : Env} {m : MemShape} {seq : Nat} {R : Nat → MemReq} {a b z : State}

theorem FrameStep.memLane {f : Nat} (h : FrameStep e m seq R a f b) (hcount : ((e.crew.fibre f).tok m.h.k.val).count < 63) :
    a.memLane e m seq f = (b, none) := by
  obtain ⟨u, hreq, hissue, rfl⟩ := h
  obtain ⟨-, hk⟩ := Env.memReq_shape hreq
  rw [State.memLane, hreq]
  simp only [hissue, hk, if_neg (Nat.not_le.mpr hcount)]

/-- Lanes whose frames can be reached, one after another: no effect arises. -/
theorem State.memLanes_frame (l : List Nat) (hcount : ∀ f ∈ l, ((e.crew.fibre f).tok m.h.k.val).count < 63)
    (h : OneByOne (FrameStep e m seq R) l a z) (bad : List (Nat × Eff)) :
    l.foldl (fun (r : State × List (Nat × Eff)) fid =>
        let x := r.1.memLane e m seq fid
        (x.1, r.2 ++ (x.2.map fun f => (fid, f)).toList)) (a, bad) = (z, bad) := by
  induction l generalizing a with
  | nil => exact h ▸ rfl
  | cons n l ih =>
    obtain ⟨b, hstep, hrest⟩ := h
    rw [List.foldl_cons, hstep.memLane (hcount n (List.mem_cons_self ..))]
    simp only [Option.map_none, Option.toList_none, List.append_nil]
    exact ih (fun f hf => hcount f (List.mem_cons_of_mem _ hf)) hrest

/-- Fibres, none listed twice, put their requests in flight one after another. -/
theorem FrameStep.inFlight {l : List Nat} (hn : l.Nodup) {c : Crew} (hc : kget a.crews e.iss.crew = some c)
    (h : OneByOne (FrameStep e m seq R) l a z) : ∃ c', InFlight a z e.iss c c' R l := by
  induction l generalizing a c with
  | nil =>
    cases h
    exact ⟨c, .nil hc⟩
  | cons n l ih =>
    obtain ⟨hnot, hn⟩ := List.nodup_cons.mp hn
    obtain ⟨b, ⟨u, -, hissue, rfl⟩, hrest⟩ := h
    have hwork := a.frameIssue_work e.iss n (R n)
    rw [hissue] at hwork
    have first := hwork.launchMem hc R n
    obtain ⟨c', rest⟩ := ih hn first.crew hrest
    have hnext := hwork.nextId
    exact ⟨c', first.cons (hnext ▸ kget_kset_self ..) (hnext ▸ Nat.lt_succ_self _) rest hnot⟩

/-- A request that a fibre has put in flight counts on its word's token. -/
theorem FrameStep.counts {l : List Nat} (h : OneByOne (FrameStep e m seq R) l a z) {f : Nat} (hf : f ∈ l) : (R f).k = m.h.k.val := by
  induction l generalizing a with
  | nil => cases hf
  | cons n l ih =>
    obtain ⟨b, ⟨_, hreq, -⟩, hrest⟩ := h
    rcases List.mem_cons.mp hf with rfl | hf
    · exact (Env.memReq_shape hreq).2
    · exact ih hrest hf

/-- The requests of FENCE and IFENCE are in flight (R171, R172). -/
theorem fenceLanes_ok {i : Issue} (l : List Nat) (hcount : ∀ f ∈ l, ((e.crew.fibre f).tok 0).count < 63) (Q : Nat → MemReq) (s : State)
    (bad : List (Nat × Eff)) :
    l.foldl (fun (r : State × List (Nat × Eff)) fid =>
        let f := e.crew.fibre fid
        if 63 ≤ (f.tok 0).count then (r.1, r.2 ++ [(fid, laneEff (9, 0x30) i.pc)]) else (r.1.launchMem i fid (Q fid), r.2)) (s, bad) =
      (l.foldl (fun t f => t.launchMem i f (Q f)) s, bad) := by
  induction l generalizing s with
  | nil => rfl
  | cons n l ih =>
    rw [List.foldl_cons, List.foldl_cons]
    dsimp only
    rw [if_neg (Nat.not_le.mpr (hcount n (List.mem_cons_self ..)))]
    exact ih (fun f hf => hcount f (List.mem_cons_of_mem _ hf)) _

end

end Sys2Proof.Machine

namespace Sys2Proof.Proofs

open Sys2Proof.Machine Sys2Proof.Terms

/-- A frame word whose lanes all reach their frames: its requests in flight, and the end of a word. -/
theorem exec_frameWord {w : Instr} {m : MemShape} {s z : State} {i : Issue} {R : Nat → MemReq} (hw : memShape w = some m)
    (hcur : s.cur = some i) (hcheck : m.check (envAt s i) = none) (hbad : ((envAt s i).lanes m.h.g).bad = [])
    (hcount : ∀ f ∈ ((envAt s i).lanes m.h.g).sel, (((envAt s i).crew.fibre f).tok m.h.k.val).count < 63)
    (hsteps : OneByOne (FrameStep (envAt s i) m s.nextId R) ((envAt s i).lanes m.h.g).sel (numbered s) z) :
    exec w s = .next (z.endWord i i.grp.latches false []) := by
  rw [exec_of_memShape hw, memExec, withIssue_next hcur]
  have lanes := State.memLanes_frame _ hcount hsteps ((envAt s i).lanes m.h.g).bad
  change Host.Outcome.next (match m.check (envAt s i) with
    | some x => (taken s).groupEffect i x
    | none => _) = _
  rw [hcheck]
  exact congrArg (fun r : State × List (Nat × Eff) => Host.Outcome.next (r.1.endWord i i.grp.latches false r.2)) (lanes.trans (by rw [hbad]))

/-- FENCE or IFENCE, none of whose lanes is refused: its requests in flight, and the end of a word. -/
theorem fenceExec_ok {g : Guard} {fn : MemFn} {o : Order} {sc : Scope} {s : State} {i : Issue} (hcur : s.cur = some i)
    (hbad : ((envAt s i).lanes g).bad = []) (hcount : ∀ f ∈ ((envAt s i).lanes g).sel, (((envAt s i).crew.fibre f).tok 0).count < 63) :
    fenceExec g fn o sc s = .next ((((envAt s i).lanes g).sel.foldl
      (fun t f => t.launchMem i f (fenceReq i fn o sc s.nextId ((envAt s i).crew.fibre f).pos)) (numbered s)).endWord i i.grp.latches false []) := by
  rw [fenceExec, withIssue_next hcur]
  have lanes := fenceLanes_ok (i := i) _ hcount (fun f => fenceReq i fn o sc s.nextId ((envAt s i).crew.fibre f).pos) (numbered s)
    ((envAt s i).lanes g).bad
  exact congrArg (fun r : State × List (Nat × Eff) => Host.Outcome.next (r.1.endWord i i.grp.latches false r.2)) (lanes.trans (by rw [hbad]))

/-- A frame word is of the header and the space that its shape names. -/
theorem frameWord_header {w : Instr} {h : MemHdr} {m : MemShape} (hw : ∃ sz, w = .ldf h sz ∨ w = .stf h sz) (hm : memShape w = some m) :
    m.h = h := by
  obtain ⟨sz, rfl | rfl⟩ := hw
  · cases hm; rfl
  · cases hm; rfl

/-- FENCE and IFENCE are the shared meaning of a fence. -/
theorem exec_of_fence {w : Instr} {g : Guard} {fn : MemFn} {o : Order} {sc : Scope} {s : State}
    (hw : w = .fence g o sc ∧ fn = .fence o ∨ w = .ifence g sc ∧ fn = .ifence ∧ o = .acq) : exec w s = fenceExec g fn o sc s := by
  obtain ⟨rfl, rfl⟩ | ⟨rfl, rfl, rfl⟩ := hw
  · rfl
  · rfl

/-- Settles O29: a frame access puts its requests in flight as another memory access does, each after the translation of its frame; a fence puts
one of its order and scope in flight for each selected fibre. -/
theorem frameAndFenceWords : Obligations.FrameAndFenceWords := by
  unfold Obligations.FrameAndFenceWords
  refine ⟨?frame, ?fence⟩
  case frame =>
    rintro w h m hword hm s z i c R ⟨⟨hcur, hc, hnodup, hexist⟩, -, hbad⟩ hcheck hcount hsteps
    have hcrew : (envAt s i).crew = c := State.crew_of_kget (s := taken s) hc
    obtain rfl := frameWord_header hword hm
    obtain ⟨hselNodup, hsel, -⟩ := Env.lanes_spec (envAt s i) m.h.g hnodup hbad
    have hsteps : OneByOne (FrameStep (envAt s i) m s.nextId R) ((envAt s i).lanes m.h.g).sel (numbered s) z := hsteps
    have hexec := exec_frameWord hm hcur hcheck hbad (by rwa [hcrew]) hsteps
    obtain ⟨d, hflight⟩ : ∃ d, InFlight (numbered s) z i c d R _ := FrameStep.inFlight hselNodup hc hsteps
    obtain ⟨y, ⟨hstate, -, hy⟩, -, hfibres⟩ := hflight.endWord hsel hexist
    refine ⟨_, y, hexec, hy, fun f hf => ⟨_, hfibres f hf, ?_⟩⟩
    have hops : (z.endWord i i.grp.latches false []).ops = z.ops := by rw [hstate]
    split
    · next hfl =>
      have hk : (R f).k = m.h.k.val := FrameStep.counts hsteps hfl
      rw [← hk, passed_requested]
      obtain ⟨id, hop⟩ := hflight.ops f hfl
      exact ⟨rfl, (c.fibre f).requested_tok_self i.strict (R f), fun k hne => (c.fibre f).requested_tok_ne i.strict (R f) hne, id, hops ▸ hop⟩
    · rfl
  case fence =>
    intro w g fn o sc hw s i c hI hbad hcount
    obtain ⟨hcur, hc, hnodup, hexist⟩ := hI
    have hcrew : (envAt s i).crew = c := State.crew_of_kget (s := taken s) hc
    obtain ⟨hselNodup, hsel, -⟩ := Env.lanes_spec (envAt s i) g hnodup hbad
    have hexec := (exec_of_fence hw).trans (fenceExec_ok hcur hbad (by rwa [hcrew]))
    generalize ((envAt s i).lanes g).sel = l at *
    obtain ⟨d, hl⟩ := State.launchMem_foldl (i := i) (fun f => fenceReq i fn o sc s.nextId ((envAt s i).crew.fibre f).pos) hselNodup
      (s := numbered s) hc
    generalize l.foldl (fun t f => t.launchMem i f (fenceReq i fn o sc s.nextId ((envAt s i).crew.fibre f).pos)) (numbered s) = u at hl hexec
    obtain ⟨y, ⟨hstate, hothers, hy⟩, hgroup, hfibres⟩ := hl.inFlight.endWord hsel hexist
    have hops : (u.endWord i i.grp.latches false []).ops = u.ops := by rw [hstate]
    refine ⟨_, y, hexec, ?_, fun k hk => (hothers k hk).trans (hl.others k hk), hy, hgroup, fun f hf => ⟨_, hfibres f hf, ?_⟩⟩
    · rw [hstate, hl.state]; rfl
    · split
      · next hfl =>
        rw [passed_requested]
        obtain ⟨id, hop⟩ := hl.ops f hfl
        exact ⟨rfl, (c.fibre f).requested_tok_self i.strict _, id, _, _, hops ▸ hop, rfl, rfl, rfl, rfl, rfl⟩
      · rfl

end Sys2Proof.Proofs
end

section
/-! PROOF. The events of translation (R180, R181, R183): entries of the TLBs end, and the answer to a fibre's one Page Request. -/

namespace Sys2Proof.Machine

open Sys2Proof.Terms

/-! ## TLBs (R180, R181) -/

/-- A map with a function applied at every key, read with a default that the function keeps. -/
theorem kgetD_kmap {α : Type} (m : KMap α) (f : α → α) (k : Nat) {d : α} (hd : f d = d) : kgetD (kmap m fun _ a => f a) k d = f (kgetD m k d) := by
  rw [kgetD, kgetD, kget_kmap]
  cases kget m k with
  | none => exact hd.symm
  | some a => rfl

theorem core_keepTlb (cores : KMap Core) {keep : List TlbEntry → List TlbEntry} (h : keep [] = []) (c : Nat) :
    kgetD (kmap cores fun _ x => { x with tlb := keep x.tlb }) c {} = { kgetD cores c {} with tlb := keep (kgetD cores c {}).tlb } :=
  kgetD_kmap cores (fun x : Core => { x with tlb := keep x.tlb }) c (by rw [h])

theorem die_keepTlb (dies : KMap Die) {keep : List TlbEntry → List TlbEntry} (h : keep [] = []) (d : Nat) :
    kgetD (kmap dies fun _ x => { x with tlb := keep x.tlb }) d {} = { kgetD dies d {} with tlb := keep (kgetD dies d {}).tlb } :=
  kgetD_kmap dies (fun x : Die => { x with tlb := keep x.tlb }) d (by rw [h])

/-- A flush that is begun (R181). -/
theorem State.startFlush_idle {s : State} (h : s.flushBusy = false) (all : Bool) (pasid : Nat) : s.startFlush all pasid =
    { s with flushBusy := true, flushAll := all, flushPasid := pasid, flushOps := s.translatedOps all pasid
             cores := kmap s.cores fun _ c => { c with tlb := unflushed all pasid c.tlb }
             dies := kmap s.dies fun _ d => { d with tlb := unflushed all pasid d.tlb } } := by
  rw [State.startFlush, h]
  rfl

theorem exec_xlFlush {s : State} (h : s.stage = stageReady) (w : FlushWrite) (pasid : Nat) :
    exec (.xlFlush w pasid) s = .next (s.startFlush w.all pasid) := congrArg Host.Outcome.next (if_pos h)

theorem State.mem_translatedOps (s : State) (all : Bool) (pasid id : Nat) : id ∈ s.translatedOps all pasid ↔
    ∃ o, (id, o) ∈ s.ops ∧ o.walked = true ∧ (all = true ∨ (s.crew o.issuer).pasid = pasid) := by
  simp [State.translatedOps]

/-! ## A replay list issued again (R135, R185) -/

/-- A request put in flight again for a fibre on a core. -/
def State.reissued (crew fid core : Nat) (s : State) (r : MemReq) : State :=
  { s with nextId := s.nextId + 1, ops := kset s.ops s.nextId { kind := .mem { r with cause := 0, page := 0 } crew fid, issuer := crew, core := core,
                                                                word := r.word, modw := r.modw, owners := [.fibre crew fid r.k] } }

theorem State.reissue_eq (s : State) (crew fid : Nat) : s.reissue crew fid =
    (((s.crew crew).fibre fid).replay.foldl (State.reissued crew fid (s.crew crew).core) s).modFibre crew fid fun f => { f with replay := [] } := rfl

/-- The requests of a list in flight again, each under a number of its own. -/
theorem State.reissued_ops (crew fid core : Nat) (l : List MemReq) (s : State) :
    (∀ id, id < s.nextId → kget (l.foldl (State.reissued crew fid core) s).ops id = kget s.ops id) ∧
      ∀ r ∈ l, ∃ id o, kget (l.foldl (State.reissued crew fid core) s).ops id = some o ∧ o.kind = .mem { r with cause := 0, page := 0 } crew fid ∧
        o.owners = [.fibre crew fid r.k] := by
  induction l generalizing s with
  | nil => exact ⟨fun _ _ => rfl, fun r hr => nomatch hr⟩
  | cons q l ih =>
    obtain ⟨older, added⟩ := ih (State.reissued crew fid core s q)
    refine ⟨fun id hid => (older id (Nat.lt_succ_of_lt hid)).trans (kget_kset_ne _ _ hid.ne), fun r hr => ?_⟩
    rcases List.mem_cons.mp hr with rfl | hr
    · exact ⟨s.nextId, _, (older _ (Nat.lt_succ_self _)).trans (kget_kset_self ..), rfl, rfl⟩
    · exact added r hr

theorem State.reissued_frame (crew fid core : Nat) (l : List MemReq) (s : State) :
    ∃ ops next, l.foldl (State.reissued crew fid core) s = { s with ops := ops, nextId := next } :=
  foldl_addOps (fun _ _ => ⟨_, _, rfl⟩) l s

/-- A fibre enters the convergence table: it is parked no more, and nothing else of its crews, of the operations and of the Page Requests has
changed. -/
theorem State.enter_eq (s : State) (crew fid : Nat) : ∃ st cores, st.isParked = false ∧
    s.enter crew fid = { s.modFibre crew fid fun f => { f with st := st } with cores := cores } := by
  unfold State.enter
  dsimp only
  split
  · exact ⟨.overflow, _, rfl, rfl⟩
  · exact ⟨.loose _, s.cores, rfl, rfl⟩

/-- A fibre goes on with its replay list issued again (R183). -/
theorem State.reissue_enter {s : State} {crew fid : Nat} {c : Crew} {f : Fibre} (hc : kget s.crews crew = some c)
    (hf : kget c.fibres fid = some f) : ((s.reissue crew fid).enter crew fid).pages = s.pages ∧
      ∃ c' x, kget ((s.reissue crew fid).enter crew fid).crews crew = some c' ∧ kget c'.fibres fid = some x ∧ x.st.isParked = false ∧
        x = { f with replay := [], st := x.st } ∧
        ∀ r ∈ f.replay, ∃ id o, kget ((s.reissue crew fid).enter crew fid).ops id = some o ∧
          o.kind = .mem { r with cause := 0, page := 0 } crew fid ∧ o.owners = [.fibre crew fid r.k] := by
  obtain ⟨st, cores, hst, henter⟩ := (s.reissue crew fid).enter_eq crew fid
  have hreplay : ((s.crew crew).fibre fid).replay = f.replay := by rw [State.crew_of_kget hc, Crew.fibre_of_kget hf]
  obtain ⟨-, added⟩ := State.reissued_ops crew fid (s.crew crew).core f.replay s
  obtain ⟨ops, next, hflight⟩ := State.reissued_frame crew fid (s.crew crew).core f.replay s
  rw [henter, s.reissue_eq, hreplay, hflight]
  rw [hflight] at added
  refine ⟨rfl, (c.modFibre fid fun f => { f with replay := [] }).modFibre fid fun f => { f with st := st }, { f with replay := [], st := st }, ?_, ?_, hst,
    rfl, added⟩
  · exact (kget_kmod_self ..).trans (congrArg _ ((kget_kmod_self ..).trans (congrArg _ hc)))
  · exact (kget_kmod_self ..).trans (congrArg _ ((kget_kmod_self ..).trans (congrArg _ hf)))

/-! ## Answers to a Page Request (R183) -/

section
variable {s : State} {req crew fid rpc : Nat} {stay : Bool} {p : PageReq} {c : Crew} {f : Fibre}

/-- A fibre parked for its pages that none of them keeps goes on. -/
theorem State.pageFibre_there (hc : kget s.crews crew = some c) (hf : kget c.fibres fid = some f) (hst : f.st = .parked (.page rpc stay))
    (h : s.pageWaits (.fibre crew fid) = false) : s.pageFibre crew fid = (s.reissue crew fid).enter crew fid := by
  have hfibre : ((s.crew crew).fibre fid).st = .parked (.page rpc stay) := by rw [State.crew_of_kget hc, Crew.fibre_of_kget hf, hst]
  rw [State.pageFibre, hfibre]
  simp only [h, Bool.false_eq_true, if_false]

/-- A fibre parked for its pages that one of them fails takes FAULT, and waits for none of the others. -/
theorem State.denyFibre_page (hc : kget s.crews crew = some c) (hf : kget c.fibres fid = some f) (hst : f.st = .parked (.page rpc stay)) (x : Cause) :
    s.denyFibre crew fid x = (s.dropWaiter (.fibre crew fid)).deliver crew fid { faultEff x rpc with stay := stay } := by
  have hfibre : (((s.dropWaiter (.fibre crew fid)).crew crew).fibre fid).st = .parked (.page rpc stay) := by
    rw [State.crew_of_kget (s := s.dropWaiter (.fibre crew fid)) hc, Crew.fibre_of_kget hf, hst]
  unfold State.denyFibre
  dsimp only
  rw [hfibre]

theorem exec_pageRequestResponse_success (hp : kget s.pages req = some p) (hw : p.waiters = [.fibre crew fid]) :
    exec (.pageRequestResponse req .success) s = .next (State.pageFibre { s with pages := kdel s.pages req } crew fid) := by
  change Host.Outcome.next (match kget s.pages req with | some p => _ | none => s) = _
  rw [hp]
  exact congrArg (fun l => Host.Outcome.next (List.foldl State.pageThere { s with pages := kdel s.pages req } l)) hw

theorem exec_pageRequestResponse_denied (hp : kget s.pages req = some p) (hw : p.waiters = [.fibre crew fid]) {reply : PageReply}
    (hr : reply = .invalid ∨ reply = .failure) :
    exec (.pageRequestResponse req reply) s = .next (State.denyFibre { s with pages := kdel s.pages req } crew fid 0x45) := by
  change Host.Outcome.next (match kget s.pages req with | some p => _ | none => s) = _
  rw [hp]
  have denied := congrArg (fun l => Host.Outcome.next (φ := Fault) (ρ := Refusal)
    (List.foldl (fun (u : State) w => u.pageDenied 0x45 w) { s with pages := kdel s.pages req } l)) hw
  obtain rfl | rfl := hr
  · exact denied
  · exact denied

theorem exec_pageRequestTimeout_of (hp : kget s.pages req = some p) (hw : p.waiters = [.fibre crew fid]) :
    exec (.pageRequestTimeout req) s = .next (if s.tick < p.sent + 100000000 then s
      else State.denyFibre { s with pages := kdel s.pages req } crew fid 0x46) := by
  change Host.Outcome.next (match kget s.pages req with | some p => _ | none => s) = _
  rw [hp]
  exact congrArg (fun l => Host.Outcome.next (if s.tick < p.sent + 100000000 then s
    else List.foldl (fun (u : State) w => u.pageDenied 0x46 w) { s with pages := kdel s.pages req } l)) hw

end

end Sys2Proof.Machine

namespace Sys2Proof.Proofs

open Sys2Proof.Machine Sys2Proof.Terms

/-- Settles O45: the TLBs by what a map reads after a change of all its values, and the answers to a Page Request by the place of its one
waiter. -/
theorem translationEvents : Obligations.TranslationEvents := by
  unfold Obligations.TranslationEvents
  refine ⟨fun s => ?lease, fun s w pasid hready => ⟨?busy, ?flush⟩, ?done, ?page⟩
  case lease => exact ⟨_, rfl, rfl, fun c => core_keepTlb s.cores rfl c, fun d => die_keepTlb s.dies rfl d⟩
  case busy => exact fun h => (exec_xlFlush hready w pasid).trans (congrArg Host.Outcome.next (if_pos h))
  case flush =>
    intro h
    refine ⟨_, exec_xlFlush hready w pasid, ?_⟩
    rw [State.startFlush_idle h]
    exact ⟨rfl, fun c => core_keepTlb s.cores rfl c, fun d => die_keepTlb s.dies rfl d, s.mem_translatedOps w.all pasid⟩
  case done =>
    intro s hbusy hops
    have hall : (s.flushOps.all fun id => ((kget s.ops id).map fun o => o.stage != .issued).getD true) = true :=
      List.all_eq_true.mpr fun id hid => by
        cases ho : kget s.ops id with
        | none => rfl
        | some o => simpa using hops id hid o ho
    exact congrArg Host.Outcome.next (if_pos (by rw [hbusy, hall]; rfl))
  case page =>
    intro s req crew fid rpc stay p c f hp hw hc hf hst
    have hc' : kget ({ s with pages := kdel s.pages req } : State).crews crew = some c := hc
    refine ⟨fun hwaits => ?_, fun reply hr => ?_, fun hearly => ?_, fun hlate => ?_⟩
    · refine ⟨_, (exec_pageRequestResponse_success hp hw).trans (congrArg _ (State.pageFibre_there hc' hf hst hwaits)), ?_⟩
      exact State.reissue_enter hc' hf
    · rw [exec_pageRequestResponse_denied hp hw hr, State.denyFibre_page hc' hf hst]
      rfl
    · rw [exec_pageRequestTimeout_of hp hw, if_pos hearly]
    · rw [exec_pageRequestTimeout_of hp hw, if_neg (Nat.not_lt.mpr hlate), State.denyFibre_page hc' hf hst]
      rfl

end Sys2Proof.Proofs
end

section
/-! PROOF. Uncorrectable errors, power gating, and allowance counters at their homes (R168, R189, R191, R192, R408, R409). -/

namespace Sys2Proof.Machine

open Sys2Proof.Terms

/-! ## Marks of uncorrectable errors -/

theorem mem_addrRange {a n x : Nat} : x ∈ addrRange a n ↔ a ≤ x ∧ x < a + n := by
  simp only [addrRange, List.mem_map, List.mem_range]
  constructor
  · rintro ⟨i, hi, rfl⟩
    omega
  · exact fun h => ⟨x - a, by omega, by omega⟩

theorem State.modAgent_agent_ne (s : State) {a k : Nat} (f : Agent → Agent) (h : k ≠ a) : (s.modAgent a f).agent k = s.agent k :=
  kgetD_kset_ne _ _ _ h

/-! ## Banks that wake -/

/-- Memory that keeps the bytes of some addresses alone reads 0 at the others. -/
theorem memRead_filter (m : Mem) (p : Nat → Bool) (a : Nat) : memRead (m.filter fun b => p b.1) a = if p a then memRead m a else 0 := by
  induction m with
  | nil => simp
  | cons b m ih =>
    obtain ⟨j, v⟩ := b
    rw [List.filter_cons]
    by_cases hj : a = j
    · subst hj
      by_cases hp : p a <;> simp [hp, memRead, ih]
    · by_cases hp : p j <;> simp [hp, memRead, ih, hj]

theorem inBank_iff {cluster bank a : Nat} :
    inBank cluster bank a = true ↔ a / Config.scratchBytes = cluster ∧ a % Config.scratchBytes / 16 % 32 = bank := by
  simp [inBank]

/-! ## Counters -/

/-- An unshared line written at its home by an engine changes the memories alone. -/
theorem Unshared.writeHome_frame {s : State} {line pa : Nat} (h : Unshared s line) (bs : List Byte) (hp : pa / 128 = line)
    (hl : pa % 128 + bs.length ≤ 128) : ∃ dev host poison, s.writeHome pa bs = { s with dev := dev, host := host, poisonDev := poison } := by
  have claimed : (List.range ((pa + bs.length + 127) / 128 - pa / 128)).foldl (fun (u : State) i => u.claimLine (pa / 128 + i)) s = s := by
    obtain hn | hn : (pa + bs.length + 127) / 128 - pa / 128 = 0 ∨ (pa + bs.length + 127) / 128 - pa / 128 = 1 := by omega
    · rw [hn]; rfl
    · rw [hn, hp]; exact h.claimLine
  obtain ⟨d, m, hw⟩ := s.writePas_frame pa bs
  unfold State.writeHome
  rw [claimed]
  dsimp only
  rw [hw]
  exact ⟨d, m, _, rfl⟩

/-- From s to t the home of a counter has changed its image and its holders alone: HOME and the holders of every counter after it. -/
structure CounterKept (s t : State) (pa home : Nat) (holders : KMap (List Nat)) : Prop where
  counter : Counter t pa
  work : HomeWork s t
  hostOut : t.hostOut = s.hostOut
  cores : t.cores = s.cores
  home : t.counterHome pa = home
  holders : t.holders = holders

theorem CounterKept.trans {s t u : State} {pa home home' : Nat} {holders holders' : KMap (List Nat)} (h : CounterKept s t pa home holders)
    (g : CounterKept t u pa home' holders') : CounterKept s u pa home' holders' :=
  ⟨g.counter, h.work.trans g.work, g.hostOut.trans h.hostOut, g.cores.trans h.cores, g.home, g.holders⟩

section
variable {s : State} {pa : Nat}

theorem Counter.modCore (h : Counter s pa) (core : Nat) (f : Core → Core) : Counter (s.modCore core f) pa :=
  ⟨⟨h.unshared.device, h.unshared.unshared⟩, State.memWf_of_eq h.memWf rfl rfl rfl, h.aligned⟩

/-- HOME keeps the low 64 bits of what it is set to. -/
theorem Counter.setHome (h : Counter s pa) (v : Nat) : CounterKept s (s.setHome pa v) pa (v % 2 ^ 64) s.holders := by
  have placed := h.setHome_placed v
  obtain ⟨dev, host, poison, hw⟩ := h.unshared.writeHome_frame (leBytes 8 v) rfl (by have := h.aligned; rw [leBytes_length]; omega)
  change s.setHome pa v = _ at hw
  refine ⟨h.of_placed placed, placed.work, placed.hostOut, by rw [hw], ?_, by rw [hw]⟩
  have bytes := readPas_of_stored placed.stored
  rw [leBytes_length] at bytes
  rw [State.counterHome, State.readNat, bytes, leNat_leBytes]
  rfl

/-- The holders of a counter set, with HOLDERS in its image, leave HOME (R186). -/
theorem Counter.setHolders (h : Counter s pa) (l : List Nat) :
    CounterKept s (s.setHolders pa l) pa (s.counterHome pa) (kset s.holders pa l) := by
  have listed : Placed s { s with holders := kset s.holders pa l } [] := (Placed.refl h.memWf).and_then ⟨rfl⟩ rfl rfl rfl rfl fun _ => rfl
  have counter := h.of_placed listed
  have := h.aligned
  obtain ⟨placed, home⟩ := counter.writeImage_placed (off := 8) (bs := leBytes 4 l.length) (by omega) (by omega) (by simp)
  obtain ⟨dev, host, poison, hw⟩ := counter.unshared.writeHome_frame (pa := pa + 8) (leBytes 4 l.length) (by omega)
    (by rw [leBytes_length]; omega)
  change s.setHolders pa l = _ at hw
  exact ⟨counter.of_placed placed, listed.work.trans placed.work, placed.hostOut.trans listed.hostOut, by rw [hw], home, by rw [hw]⟩

/-- A core joins the holders of a counter. -/
theorem Counter.joinHolders (h : Counter s pa) (core : Nat) : CounterKept s (s.joinHolders core pa) pa (s.counterHome pa)
    (kset s.holders pa (insertNew core (kgetD s.holders pa []))) := h.setHolders _

end

theorem State.slot_setSlot_self (s : State) (core pa v : Nat) : (s.setSlot core pa v).slot core pa = some v := by
  have absent : ((s.core core).slots.filter fun x => x.addr != pa).find? (fun x => x.addr == pa) = none := by
    rw [List.find?_eq_none]
    intro x hx
    simpa using (List.mem_filter.mp hx).2
  rw [State.slot, State.setSlot, State.modCore_core, List.find?_append, absent]
  simp

theorem State.slot_reportHome (s : State) (core pa : Nat) : (s.reportHome core pa).slot core pa = s.slot core pa := by
  rw [State.slot, State.reportHome, State.modCore_core]
  rfl

theorem State.core_of_cores {s t : State} (h : t.cores = s.cores) (k : Nat) : t.core k = s.core k := by rw [State.core, State.core, h]

theorem State.slot_of_cores {s t : State} (h : t.cores = s.cores) (core pa : Nat) : t.slot core pa = s.slot core pa := by
  rw [State.slot, State.slot, State.core_of_cores h]

theorem State.roomForSlot_of_lt {s : State} {core : Nat} (pa : Nat) (h : (s.core core).slots.length < 64) : s.roomForSlot core pa = s := by
  simp [State.roomForSlot, h]

/-- The units that travel to a core's new slot for a TAKE, out of those at home (R191; log entry 134). -/
def chunkOf (home n holders : Nat) : Nat := min (min home (max n (ceilDiv home (2 * holders)))) (n + 2 ^ 32 - 1)

/-- A TAKE of a core without a slot where HOME holds the units that it asks for (R191). -/
theorem Counter.takeAtHome {s : State} {pa : Nat} (h : Counter s pa) {core n : Nat} (hslot : s.slot core pa = none)
    (hroom : (s.core core).slots.length < 64) (hn : n ≤ s.counterHome pa) {l : List Nat} (hl : insertNew core (kgetD s.holders pa []) = l)
    {k : Nat} (hk : chunkOf (s.counterHome pa) n l.length = k) :
    ∃ t, CounterKept s t pa (s.counterHome pa - k) (kset s.holders pa l) ∧ s.takeAtHome core pa n = (t.setSlot core pa (k - n), n) := by
  have unchanged := h.setHome (s.counterHome pa + 0)
  rw [Nat.add_zero, Nat.mod_eq_of_lt (s.counterHome_lt pa)] at unchanged
  generalize hs1 : s.setHome pa (s.counterHome pa) = s1 at unchanged
  have sent := unchanged.counter.setHome (s.counterHome pa - k)
  rw [Nat.mod_eq_of_lt (by have := s.counterHome_lt pa; omega), unchanged.holders] at sent
  have room : ((s1.setHome pa (s.counterHome pa - k)).core core).slots.length < 64 := by
    rwa [State.core_of_cores (unchanged.trans sent).cores]
  have joined := sent.counter.joinHolders core
  rw [sent.home, sent.holders, hl] at joined
  refine ⟨_, (unchanged.trans sent).trans joined, ?_⟩
  have enough : ¬s.counterHome pa < n := Nat.not_lt.mpr hn
  rw [chunkOf] at hk
  unfold State.takeAtHome
  simp only [hslot, Option.getD_none, Option.isSome_none, Bool.false_eq_true, if_false, Nat.add_zero, hs1, unchanged.home, enough,
    unchanged.holders, hl, hk, State.roomForSlot_of_lt pa room]

theorem State.slot_freeSlot_self (s : State) (core pa : Nat) : (s.freeSlot core pa).slot core pa = none := by
  rw [State.slot, State.freeSlot, State.modCore_core, Option.map_eq_none_iff, List.find?_eq_none]
  intro x hx
  simpa using (List.mem_filter.mp hx).2

theorem CounterKept.of_core {s t : State} {pa home core : Nat} {f : Core → Core} {holders : KMap (List Nat)}
    (h : CounterKept (s.modCore core f) t pa home holders) : t.crews = s.crews ∧ t.hostOut = s.hostOut ∧ ∀ k, k ≠ core → t.core k = s.core k :=
  ⟨h.work.crews, h.hostOut, fun k hk => (State.core_of_cores h.cores k).trans (s.modCore_core_ne f hk)⟩

/-- A slot's units go to HOME, and the slot is freed (R189). -/
theorem Counter.returnSlot {s : State} {pa core units : Nat} (h : Counter s pa) (hslot : s.slot core pa = some units) :
    CounterKept (s.freeSlot core pa) (s.returnSlot core pa) pa ((s.counterHome pa + units) % 2 ^ 64)
      (kset s.holders pa ((kgetD s.holders pa []).filter fun c => c != core)) := by
  have returned := (h.modCore core fun c => { c with slots := c.slots.filter fun x => x.addr != pa }).setHome (s.counterHome pa + units)
  have left := returned.counter.setHolders ((kgetD s.holders pa []).filter fun c => c != core)
  rw [returned.home, returned.holders] at left
  unfold State.returnSlot
  rw [hslot]
  dsimp only
  rw [show ((s.freeSlot core pa).setHome pa (s.counterHome pa + units)).holders = s.holders from returned.holders]
  exact returned.trans left

/-- A request that its home has served: the core's slot set, HOME reported to the core, and the result kept. -/
def State.served (s : State) (core pa v op crew fid : Nat) (r : MemReq) (d : Done) : State :=
  ((s.setSlot core pa v).reportHome core pa).holdResult op crew fid r d

theorem State.orSnoop_served {s t : State} (h : NoSnoop s t) (core pa v op crew fid : Nat) (r : MemReq) (d : Done) :
    s.orSnoop (t.served core pa v op crew fid r d) = t.served core pa v op crew fid r d :=
  State.orSnoop_of_noSnoop h

/-- After a request is served the core's slot and the result are as set, with HOME and the holders as before. -/
theorem State.served_spec {s : State} {op : Nat} {o : Op} (h : kget s.ops op = some o) (core pa v crew fid : Nat) (r : MemReq) (d : Done) :
    (s.served core pa v op crew fid r d).counterHome pa = s.counterHome pa ∧ (s.served core pa v op crew fid r d).slot core pa = some v ∧
      (s.served core pa v op crew fid r d).holders = s.holders ∧
      kget (s.served core pa v op crew fid r d).ops op =
        some { o with stage := .atHome, kind := .mem { r with data := d.vals, cause := d.cause.getD 0 } crew fid } := by
  refine ⟨rfl, ?_, rfl, ?_⟩
  · exact (State.slot_reportHome _ _ _).trans (State.slot_setSlot_self _ _ _ _)
  · exact (kget_kmod_self _ _ _).trans (congrArg (Option.map _) h)

end Sys2Proof.Machine

namespace Sys2Proof.Proofs

open Sys2Proof.Machine Sys2Proof.Terms

/-- A mark on a site of memory, of an L1 or of a fibre (R408, R409). -/
theorem uncorrectable_device (s : State) (site : PoisonSite) (addr len : Nat) (hsite : site = .device addr len ∨ site = .l2 addr len) :
    Becomes (.uncorrectableError site) s fun t => t = { s with poisonDev := t.poisonDev } ∧
      ∀ x, x ∈ t.poisonDev ↔ x ∈ s.poisonDev ∨ (addr ≤ x ∧ x < addr + len ∧ isDevice x = true) := by
  refine ⟨{ s with poisonDev := s.poisonDev ++ (addrRange addr len).filter isDevice }, ?_, rfl, fun x => ?_⟩
  · rcases hsite with rfl | rfl <;> rfl
  · simp only [List.mem_append, List.mem_filter, mem_addrRange, and_assoc]

theorem uncorrectable_l1 (s : State) (a addr len line : Nat) (l : L1Line) (hl : kget (s.agent a).l1 line = some l) :
    Becomes (.uncorrectableError (.l1 a addr len)) s fun t => t = { s with agents := t.agents } ∧ (∀ k, k ≠ a → t.agent k = s.agent k) ∧
      ∃ m, kget (t.agent a).l1 line = some m ∧ m = { l with bytes := m.bytes } ∧ ∀ o b, kget l.bytes o = some b → kget m.bytes o =
        some { b with poison := b.poison || (decide (addr ≤ line * 128 + o) && decide (line * 128 + o < addr + len)) } := by
  refine ⟨s.modAgent a fun g => { g with l1 := kmap g.l1 fun k l => l.poisonRange k addr len, wc := kmap g.wc fun k l => l.poisonRange k addr len },
    rfl, rfl, fun k hk => s.modAgent_agent_ne _ hk, l.poisonRange line addr len, ?_, rfl, fun o b hb => ?_⟩
  · rw [State.modAgent_agent, kget_kmap, hl, Option.map_some]
  · rw [L1Line.poisonRange, kget_kmap, hb, Option.map_some]

theorem uncorrectable_fibre (s : State) (crew fid : Nat) (c : Crew) (f : Fibre) (hc : kget s.crews crew = some c)
    (hf : kget c.fibres fid = some f) : Becomes (.uncorrectableError (.fibre crew fid)) s fun t => t = { s with crews := t.crews } ∧
      (∀ k, k ≠ crew → kget t.crews k = kget s.crews k) ∧ ∃ c', kget t.crews crew = some c' ∧
        c' = { c with fibres := c'.fibres, image := c'.image } ∧ kget c'.fibres fid = some { f with poisoned := true } ∧
        ∀ k, k ≠ fid → kget c'.fibres k = kget c.fibres k := by
  refine ⟨_, rfl, rfl, fun k hk => ?_, { c.modFibre fid fun f => { f with poisoned := true } with image := c.image && !c.imaged }, ?_, rfl, ?_,
    fun k hk => ?_⟩
  · simp only [State.modFibre, State.modCrew, kget_kmod_ne _ _ hk]
  · simp only [State.modFibre, State.modCrew, kget_kmod_self, hc, Option.map_some]
    rfl
  · simp only [Crew.modFibre, kget_kmod_self, hf, Option.map_some]
  · simp only [Crew.modFibre, kget_kmod_ne _ _ hk]

theorem unitWake_scratchBank (s : State) (cluster bank : Nat) (hgated : GateUnit.scratchBank cluster bank ∈ s.gated) :
    Becomes (.unitWake (.scratchBank cluster bank)) s fun t =>
      t = { s with gated := t.gated, scratch := t.scratch, poisonScratch := t.poisonScratch, tags := t.tags } ∧
      (∀ u, u ∈ t.gated ↔ u ∈ s.gated ∧ u ≠ .scratchBank cluster bank) ∧
      ∀ a, memRead t.scratch a =
        if a / Config.scratchBytes = cluster ∧ a % Config.scratchBytes / 16 % 32 = bank then 0 else memRead s.scratch a := by
  have hexec : exec (.unitWake (.scratchBank cluster bank)) s = .next (s.wake (.scratchBank cluster bank)) := by
    change execUnitWake _ s = _
    rw [execUnitWake, if_pos (List.contains_iff_mem.mpr hgated)]
  refine ⟨_, hexec, rfl, fun u => ?_, fun a => ?_⟩
  · simp only [State.wake, List.mem_filter, bne_iff_ne]
  · have kept := memRead_filter s.scratch (fun k => !inBank cluster bank k) a
    rw [State.wake, kept]
    simp only [← inBank_iff]
    cases inBank cluster bank a <;> rfl

theorem allowHomeRequest_take {s u : State} {op crew fid pa : Nat} {o : Op} {c : Crew} {f : Fibre} {r : MemReq} {cacheable : Bool}
    (hready : ReadyMem s op o crew fid c f r) (hhome : s.reqHome o crew fid r = (u, .ok (pa, cacheable))) (hcounter : Counter u pa)
    (hslot : u.slot o.core pa = none) (hroom : (u.core o.core).slots.length < 64) (hin : u.inCounter pa = true)
    (hpoison : u.poisoned pa 64 = false) (hdev : isDevice pa = true) (hsnoop : NoSnoop s u) (hfn : r.fn = .allow .take)
    (hn : wordsNat r.data ≤ u.counterHome pa) {l : List Nat} (hl : insertNew o.core (kgetD u.holders pa []) = l)
    {k : Nat} (hk : chunkOf (u.counterHome pa) (wordsNat r.data) l.length = k) : Becomes (.allowHomeRequest op) s fun t =>
      t.counterHome pa = u.counterHome pa - k ∧ t.slot o.core pa = some (k - wordsNat r.data) ∧ kgetD t.holders pa [] = l ∧
        ∃ o' q, kget t.ops op = some o' ∧ o'.stage = .atHome ∧ o'.kind = .mem q crew fid ∧ q.data = [BitVec.ofNat 32 (wordsNat r.data)] ∧
          q.cause = 0 := by
  have reached := s.reqHome_work o crew fid r
  rw [hhome] at reached
  obtain ⟨t, counted, htake⟩ := hcounter.takeAtHome hslot hroom hn hl hk
  have hops : kget t.ops op = some o := by rw [counted.work.ops, reached.ops, hready.1]
  have hallow : u.allowAtHome o.core r .take pa =
      ((t.setSlot o.core pa (k - wordsNat r.data)).reportHome o.core pa, { vals := [BitVec.ofNat 32 (wordsNat r.data)] }) := by
    simp [State.allowAtHome, hpoison, hin, isPeer_of_isDevice hdev, htake]
  have hlocal : u.allowLocal o.core r .take pa = none := by simp only [State.allowLocal, hslot]
  have hjoins : u.joins o.core .take pa = false := rfl
  have hexec : exec (.allowHomeRequest op) s = .next (t.served o.core pa (k - wordsNat r.data) op crew fid r
      { vals := [BitVec.ofNat 32 (wordsNat r.data)] }) := by
    change execAllowHomeRequest op s = _
    simp only [execAllowHomeRequest, hready.1, State.toHomeNow_ready hready hhome, hfn, hlocal, hjoins, hallow]
    exact congrArg _ (State.orSnoop_served ((newSnoops_congr counted.hostOut).trans hsnoop) o.core pa _ op crew fid r _)
  obtain ⟨home, slot, holders, result⟩ := t.served_spec hops o.core pa (k - wordsNat r.data) crew fid r
    { vals := [BitVec.ofNat 32 (wordsNat r.data)] }
  refine ⟨_, hexec, home.trans counted.home, slot, ?_, _, _, result, rfl, rfl, rfl, rfl⟩
  rw [holders, counted.holders, kgetD_kset_self]

theorem joinNotice_give {s u : State} {op crew fid pa : Nat} {o : Op} {c : Crew} {f : Fibre} {r : MemReq} {cacheable : Bool}
    (hready : ReadyMem s op o crew fid c f r) (hhome : s.reqHome o crew fid r = (u, .ok (pa, cacheable))) (hcounter : Counter u pa)
    (hslot : u.slot o.core pa = none) (hroom : (u.core o.core).slots.length < 64) (hin : u.inCounter pa = true)
    (hpoison : u.poisoned pa 64 = false) (hdev : isDevice pa = true) (hsnoop : NoSnoop s u) (hfn : r.fn = .allow .give) :
    Becomes (.joinNotice op) s fun t =>
      t.counterHome pa = u.counterHome pa ∧ t.slot o.core pa = some (wordsNat r.data) ∧
        kgetD t.holders pa [] = insertNew o.core (kgetD u.holders pa []) ∧
        ∃ o' q, kget t.ops op = some o' ∧ o'.stage = .atHome ∧ o'.kind = .mem q crew fid ∧ q.data = [] ∧ q.cause = 0 := by
  have reached := s.reqHome_work o crew fid r
  rw [hhome] at reached
  have counted := hcounter.joinHolders o.core
  have hops : kget (u.joinHolders o.core pa).ops op = some o := by
    rw [counted.work.ops, reached.ops, hready.1]
  have hjoin : u.joinAtHome o.core r pa =
      (((u.joinHolders o.core pa).setSlot o.core pa (wordsNat r.data)).reportHome o.core pa, {}) := by
    simp [State.joinAtHome, State.roomForSlot_of_lt pa hroom, hpoison, hin]
  have hjoins : u.joins o.core .give pa = true := by simp [State.joins, isPeer_of_isDevice hdev, hslot]
  generalize u.joinHolders o.core pa = t at counted hops hjoin
  have hexec : exec (.joinNotice op) s = .next (t.served o.core pa (wordsNat r.data) op crew fid r {}) := by
    change execJoinNotice op s = _
    simp only [execJoinNotice, hready.1, State.toHomeNow_ready hready hhome, hfn, hjoins, hjoin]
    exact congrArg _ (State.orSnoop_served ((newSnoops_congr counted.hostOut).trans hsnoop) o.core pa _ op crew fid r _)
  obtain ⟨home, slot, holders, result⟩ := t.served_spec hops o.core pa (wordsNat r.data) crew fid r {}
  refine ⟨_, hexec, home.trans counted.home, slot, ?_, _, _, result, rfl, rfl, rfl, rfl⟩
  rw [holders, counted.holders, kgetD_kset_self]

theorem slotReturn_held {s : State} {core pa units : Nat} (hcounter : Counter s pa) (hslot : s.slot core pa = some units) :
    Becomes (.slotReturn core pa) s fun t => t.slot core pa = none ∧ t.counterHome pa = (s.counterHome pa + units) % 2 ^ 64 ∧
      core ∉ kgetD t.holders pa [] ∧ t.crews = s.crews ∧ ∀ k, k ≠ core → t.core k = s.core k := by
  have counted := hcounter.returnSlot hslot
  obtain ⟨hcrews, hhostOut, hcores⟩ := counted.of_core
  have hexec : exec (.slotReturn core pa) s = .next (s.returnSlot core pa) :=
    congrArg Host.Outcome.next (State.orSnoop_of_noSnoop (noSnoop_of_hostOut hhostOut))
  refine ⟨_, hexec, ?_, counted.home, ?_, hcrews, hcores⟩
  · rw [State.slot_of_cores counted.cores, State.slot_freeSlot_self]
  · rw [counted.holders, kgetD_kset_self]
    simp

/-- Settles O46: the marks, the gates and the banks by the events' definitions; a TAKE, a join and a slot's return as changes of the image of a
counter on an unshared device line. -/
theorem unitEvents : Obligations.UnitEvents := by
  unfold Obligations.UnitEvents
  refine ⟨⟨uncorrectable_device, uncorrectable_l1, uncorrectable_fibre, ?_, unitWake_scratchBank⟩, ?_, ?_⟩
  · intro s cluster bank hcluster hbank hgated
    change execPowerGate _ s = _
    simp [execPowerGate, hgated, hcluster, hbank]
  · intro s u op crew fid pa o c f r cacheable hready hhome hmem hslot hroom hin hpoison hdev haligned hshared hsnoop
    have counter : Counter u pa := ⟨⟨by rw [isDevice_line, hdev], hshared⟩, hmem, haligned⟩
    exact ⟨fun hfn hn => allowHomeRequest_take hready hhome counter hslot hroom hin hpoison hdev hsnoop hfn hn rfl rfl,
      fun hfn => joinNotice_give hready hhome counter hslot hroom hin hpoison hdev hsnoop hfn⟩
  · intro s core pa units hmem hslot hdev haligned hshared
    exact slotReturn_held ⟨⟨by rw [isDevice_line, hdev], hshared⟩, hmem, haligned⟩ hslot

end Sys2Proof.Proofs
end

section
/-! PROOF. Host coherence, what hosts do at device memory and in their own, and hosts out of reach (R194, R208, R214 to R216, R374, R407). -/

namespace Sys2Proof.Machine

open Sys2Proof.Terms

/-! ## Records of one line -/

/-- From s to t the record of one line alone has changed. -/
def LineChanged (s t : State) (line : Nat) (x : HomeLine) : Prop :=
  t = { s with homes := t.homes } ∧ (∀ k, k ≠ line → t.home k = s.home k) ∧ t.home line = x

theorem State.modHome_lineChanged (s : State) (line : Nat) (f : HomeLine → HomeLine) : LineChanged s (s.modHome line f) line (f (s.home line)) :=
  ⟨rfl, fun k hk => (s.home_modHome line k f).trans (if_neg hk), (s.home_modHome line line f).trans (if_pos rfl)⟩

/-! ## Writes of hosts -/

/-- From s to t bytes have been stored at their homes for a host, which sends nothing to a host. -/
structure HostStored (s t : State) (m : KMap Byte) : Prop where
  work : HomeWork s t
  hostOut : t.hostOut = s.hostOut
  memWf : t.memWf
  reads : ∀ x, t.readPa x = (kget m x).getD (s.readPa x)

theorem HostStored.refl {s : State} (h : s.memWf) : HostStored s s [] := ⟨.refl s, rfl, h, fun _ => rfl⟩

theorem HostStored.stored {s t : State} {pa : Nat} {bs : List Byte} (h : HostStored s t (bytesAt pa bs)) : Stored s.readPa t.readPa pa bs :=
  stored_of_reads h.reads

theorem State.hostByte_stored {s : State} (h : s.memWf) (pa : Nat) (b : Byte) (tags : List RelTag) :
    HostStored s (s.hostByte pa b tags) [(pa, b)] := by
  have placed := State.placeByte_placed h pa ⟨b, false, 0, tags, s.tick, false⟩
  exact ⟨placed.work.trans ⟨rfl⟩, placed.hostOut, State.memWf_of_eq placed.memWf rfl rfl rfl, placed.reads⟩

/-- Bytes stored one after another stand at their addresses. -/
theorem State.hostBytes_stored (tags : List RelTag) (bs : List Byte) : ∀ {s : State}, s.memWf → ∀ pa,
    HostStored s (bs.foldl (fun (r : State × Nat) b => (r.1.hostByte r.2 b tags, r.2 + 1)) (s, pa)).1 (bytesAt pa bs) := by
  induction bs with
  | nil => exact fun h _ => .refl h
  | cons b bs ih =>
    intro s h pa
    have first := State.hostByte_stored h pa b tags
    have rest := ih first.memWf (pa + 1)
    refine ⟨first.work.trans rest.work, rest.hostOut.trans first.hostOut, rest.memWf, fun x => ?_⟩
    refine (rest.reads x).trans ?_
    rw [first.reads, bytesAt, kget, kget, kget]
    split
    · next hx => rw [hx, kget_bytesAt_of_lt (Nat.lt_succ_self pa), Option.getD_none, Option.getD_some]
    · rfl

theorem State.hostStore_stored {s : State} (h : s.memWf) (head pa : Nat) (bs : List Byte) (release : Bool) :
    HostStored s (s.hostStore head pa bs release) (bytesAt pa bs) := by
  cases release with
  | false => exact State.hostBytes_stored [] bs h pa
  | true =>
    have counted : HomeWork s (s.release (headAgent head) .system).1 := s.release_work _ _ _
    obtain ⟨work, hostOut, memWf, reads⟩ := State.hostBytes_stored [(s.release (headAgent head) .system).2] bs
      (s := (s.release (headAgent head) .system).1) (State.memWf_of_eq h rfl rfl rfl) pa
    exact ⟨counted.trans work, hostOut, memWf, reads⟩

/-! ## Reads of hosts -/

/-- Lines from one on that a host may cache from now on (R215). -/
def State.shareLines (s : State) (line n : Nat) : State :=
  (List.range n).foldl (fun (u : State) i => u.modHome (line + i) fun h => { h with shared := true }) s

theorem State.shareLines_succ (s : State) (line n : Nat) :
    s.shareLines line (n + 1) = (s.shareLines line n).modHome (line + n) fun h => { h with shared := true } := by
  rw [State.shareLines, List.range_succ, List.foldl_append]
  rfl

theorem State.shareLines_frame (s : State) (line n : Nat) : s.shareLines line n = { s with homes := (s.shareLines line n).homes } := by
  induction n with
  | zero => rfl
  | succ n ih =>
    rw [State.shareLines_succ]
    conv_lhs => rw [ih]
    rfl

theorem State.shareLines_shared (s : State) {line n k : Nat} (h : line ≤ k) (hk : k < line + n) :
    ((s.shareLines line n).home k).shared = true := by
  induction n with
  | zero => omega
  | succ n ih =>
    rw [State.shareLines_succ, State.home_modHome]
    split
    · rfl
    · exact ih (by omega)

theorem mem_addTags {l m : List RelTag} {g : RelTag} : g ∈ addTags l m ↔ g ∈ l ∨ g ∈ m := by
  induction m generalizing l with
  | nil => simp [addTags]
  | cons x m ih =>
    rw [addTags, List.foldl_cons, ← addTags, ih, List.mem_cons]
    split
    · next hx =>
      have hx := List.contains_iff_mem.mp hx
      constructor
      · rintro (h | h)
        · exact .inl h
        · exact .inr (.inr h)
      · rintro (h | rfl | h)
        · exact .inl h
        · exact .inl hx
        · exact .inr h
    · rw [List.mem_append, List.mem_singleton, or_assoc]

/-- The releases that any of n bytes carries are among those that a read of them observes. -/
theorem mem_foldl_addTags {f : Nat → List RelTag} {g : RelTag} {i : Nat} (hg : g ∈ f i) {n : Nat} (hi : i < n) (l : List RelTag) :
    g ∈ (List.range n).foldl (fun m i => addTags m (f i)) l := by
  induction n with
  | zero => omega
  | succ n ih =>
    rw [List.range_succ, List.foldl_append, List.foldl_cons, List.foldl_nil, mem_addTags]
    by_cases h : i = n
    · exact .inr (h ▸ hg)
    · exact .inl (ih (by omega))

/-- No open entry of an agent holds a byte from before one of its releases. -/
def Shut (s : State) (a num : Nat) : Prop := ∀ line, ∀ e ∈ (s.home line).opens, e.agent = a → ∀ b ∈ e.bytes, num ≤ b.2

theorem State.home_closeEntries (s : State) (a num line : Nat) : (s.closeEntries a num).home line = (s.home line).close a num := by
  have h : (s.closeEntries a num).home line = kgetD (kmap s.homes fun _ h => h.close a num) line {} := rfl
  rw [h, State.home, kgetD, kgetD, kget_kmap]
  cases kget s.homes line <;> rfl

theorem HomeLine.mem_close {h : HomeLine} {a num : Nat} {e : OpenEntry} (he : e ∈ (h.close a num).opens) :
    ∃ x ∈ h.opens, e = if x.agent = a then { x with bytes := x.bytes.filter fun b => decide (num ≤ b.2) } else x := by
  obtain ⟨x, hx, rfl⟩ := List.mem_map.mp (List.mem_filter.mp he).1
  exact ⟨x, hx, by simp only [beq_iff_eq]⟩

theorem Shut.closeEntries_self (s : State) (a num : Nat) : Shut (s.closeEntries a num) a num := by
  intro line e he hagent b hb
  rw [State.home_closeEntries] at he
  obtain ⟨x, -, rfl⟩ := HomeLine.mem_close he
  by_cases hx : x.agent = a
  · rw [if_pos hx] at hb
    exact of_decide_eq_true (List.mem_filter.mp hb).2
  · rw [if_neg hx] at hagent
    exact absurd hagent hx

theorem Shut.closeEntries {s : State} {a num : Nat} (h : Shut s a num) (a' num' : Nat) : Shut (s.closeEntries a' num') a num := by
  intro line e he hagent b hb
  rw [State.home_closeEntries] at he
  obtain ⟨x, hmem, rfl⟩ := HomeLine.mem_close he
  by_cases hx : x.agent = a'
  · rw [if_pos hx] at hagent hb
    exact h line x hmem hagent b (List.mem_of_mem_filter hb)
  · rw [if_neg hx] at hagent hb
    exact h line x hmem hagent b hb

/-- An acquire by a core at a scope takes in a release (R197). -/
def State.takesIn (s : State) (core : Nat) (sc : Scope) (chips : List Nat) (g : RelTag) : Bool :=
  s.agentOf g.core != s.agentOf core && s.inScope g.core g.scope g.chips core && s.inScope core sc chips g.core

theorem State.synchronise_cons (s : State) (core : Nat) (sc : Scope) (chips : List Nat) (g : RelTag) (l : List RelTag) :
    s.synchronise core sc chips (g :: l) =
      (if s.takesIn core sc chips g then s.closeEntries (s.agentOf g.core) g.num else s).synchronise core sc chips l := rfl

theorem Shut.synchronise {a num : Nat} (core : Nat) (sc : Scope) (chips : List Nat) (l : List RelTag) :
    ∀ {s : State}, Shut s a num → Shut (s.synchronise core sc chips l) a num := by
  induction l with
  | nil => exact fun h => h
  | cons g l ih =>
    intro s h
    rw [State.synchronise_cons]
    split
    · exact ih (h.closeEntries _ _)
    · exact ih h

/-- After an acquire the agent of a release that it takes in has no byte open from before the release (R208). -/
theorem State.synchronise_shut {core : Nat} {sc : Scope} {chips : List Nat} {g : RelTag} (l : List RelTag) :
    ∀ {s : State}, s.takesIn core sc chips g = true → g ∈ l → Shut (s.synchronise core sc chips l) (s.agentOf g.core) g.num := by
  induction l with
  | nil => exact fun _ h => absurd h List.not_mem_nil
  | cons x l ih =>
    intro s hg hmem
    rw [State.synchronise_cons]
    rcases List.mem_cons.mp hmem with rfl | hmem
    · rw [if_pos hg]
      exact (Shut.closeEntries_self s _ _).synchronise core sc chips l
    · split
      · exact ih (s := s.closeEntries (s.agentOf x.core) x.num) hg hmem
      · exact ih hg hmem

/-- An acquire of a host at SYSTEM scope takes in every release at SYSTEM scope of another agent (R216). -/
theorem State.takesIn_head {s : State} {head : Nat} (hhead : head < 2) {g : RelTag} (hscope : g.scope = .system)
    (hne : s.agentOf g.core ≠ headAgent head) : s.takesIn (headAgent head) .system [] g = true := by
  have self : s.agentOf (headAgent head) = headAgent head := by
    have far : decide (headAgent head < 768) = false := decide_eq_false (by unfold headAgent; omega)
    rw [State.agentOf, far]
    rfl
  have agent : isHeadAgent (headAgent head) = true := by
    have low : 5000 ≤ headAgent head := by unfold headAgent; omega
    have high : headAgent head < 10000 := by unfold headAgent; omega
    simp [isHeadAgent, low, high]
  simp [State.takesIn, self, hne, hscope, State.inScope, agent]

/-- The lines that a read of n bytes by a host shares: device lines alone (R215). -/
def State.hostShared (s : State) (pa n : Nat) : State :=
  if isDevice pa then s.shareLines (pa / 128) ((pa + n + 127) / 128 - pa / 128) else s

theorem State.hostShared_frame (s : State) (pa n : Nat) : s.hostShared pa n = { s with homes := (s.hostShared pa n).homes } := by
  unfold State.hostShared
  split
  · exact s.shareLines_frame _ _
  · rfl

theorem State.hostShared_shared (s : State) {pa n line : Nat} (hdev : isDevice pa = true) (h : pa / 128 ≤ line) (hl : line * 128 < pa + n) :
    ((s.hostShared pa n).home line).shared = true := by
  rw [State.hostShared, if_pos hdev]
  exact s.shareLines_shared h (by omega)

theorem State.hostLoad_eq (s : State) (head pa n : Nat) (acquire : Bool) : s.hostLoad head pa n acquire =
    if acquire then (s.hostShared pa n).synchronise (headAgent head) .system []
      ((List.range n).foldl (fun m i => addTags m (kgetD (s.hostShared pa n).tags (pa + i) [])) []) else s.hostShared pa n := rfl

/-- A read of a host changes what it may cache, and closes entries alone. -/
theorem State.hostLoad_closed (s : State) (head pa n : Nat) (acquire : Bool) : Closed (s.hostShared pa n) (s.hostLoad head pa n acquire) := by
  rw [State.hostLoad_eq]
  cases acquire with
  | false => exact .refl _
  | true => exact State.synchronise_closed _ _ _ _ _

/-- A read with acquire semantics closes the open bytes of each SYSTEM release that it reads (R208, R216). -/
theorem State.hostLoad_shut {s : State} {head pa n i : Nat} (hhead : head < 2) {g : RelTag} (hi : i < n)
    (hg : g ∈ kgetD s.tags (pa + i) []) (hscope : g.scope = .system) (hne : s.agentOf g.core ≠ headAgent head) :
    Shut (s.hostLoad head pa n true) (s.agentOf g.core) g.num := by
  have frame := s.hostShared_frame pa n
  have tags : (s.hostShared pa n).tags = s.tags := by rw [frame]
  have agent : (s.hostShared pa n).agentOf g.core = s.agentOf g.core := by rw [frame]; rfl
  rw [State.hostLoad_eq, if_pos rfl, tags, ← agent]
  exact State.synchronise_shut _ (State.takesIn_head hhead hscope (agent ▸ hne))
    (mem_foldl_addTags (f := fun i => kgetD s.tags (pa + i) []) hg hi [])

/-! ## Hosts out of reach -/

theorem isHost_iff {pa : Nat} : isHost pa = true ↔ isDevice pa = false ∧ isPeer pa = false := by simp [isHost]

/-- Two milliseconds after the last link went down no host is reached (R194). -/
theorem State.reachCause_of_hostDown {s : State} {pa d : Nat} (hhost : isHost pa = true) (hdown : s.hostDown = some d)
    (htime : d + 2000000 ≤ s.tick) (n : Nat) : s.reachCause pa n = some 0x57 := by
  obtain ⟨hdev, hpeer⟩ := isHost_iff.mp hhost
  simp [State.reachCause, hdev, hpeer, hdown, htime]

/-- A relaxed load from a host that is not reached ends with the cause, where its core holds no copy of the bytes. -/
theorem State.loadAt_unreached {s : State} {core pa : Nat} {r : MemReq} {cacheable : Bool} {x : Cause} (hord : r.order = .relaxed)
    (hhost : isHost pa = true) (hheld : cacheable = true → s.l1Holds (s.agentOf core) pa r.n = false)
    (hseen : ∀ atHome, s.seenPoison (s.agentOf core) pa r.n atHome = false) (hreach : s.reachCause pa r.n = some x) (crew fid : Nat) (sz : Size) :
    s.loadAt core crew fid r sz pa cacheable = (s, { cause := some x }) := by
  have counter : s.inCounter pa = false := by simp [State.inCounter, hhost]
  unfold State.loadAt
  cases cacheable with
  | true => simp [hord, counter, hseen, hreach, hheld rfl]
  | false => simp [hord, counter, hseen, hreach]

end Sys2Proof.Machine

namespace Sys2Proof.Proofs

open Sys2Proof.Machine Sys2Proof.Terms

/-- A snoop, an answer to a request for ownership, and the end of a back-invalidate change one line's record (R214, R215). -/
theorem hostLine_events (s : State) (line : Nat) (granted : Bool) :
    (isHost (line * 128) = true → Becomes (.hostSnoop line) s fun t => t = { s with homes := t.homes } ∧
      (∀ k, k ≠ line → t.home k = s.home k) ∧
      t.home line = if (s.home line).keep then { s.home line with snoopDue := true } else { s.home line with owned := false }) ∧
    (isHost (line * 128) = true → (s.home line).asked = true →
      Becomes (.ownershipResponse line granted) s fun t => t = { s with homes := t.homes } ∧ (∀ k, k ≠ line → t.home k = s.home k) ∧
        t.home line = if granted then { s.home line with owned := true, keep := true, asked := false, refusals := 0 }
          else { s.home line with owned := false, asked := false, refusals := (s.home line).refusals + 1 }) ∧
    Becomes (.backInvalidateDone line) s fun t => t = { s with homes := t.homes } ∧
      (∀ k, k ≠ line → t.home k = s.home k) ∧ t.home line = { s.home line with shared := false, snooped := false } := by
  refine ⟨fun hhost => ?_, fun hhost hasked => ?_, ⟨_, rfl, s.modHome_lineChanged line fun h => { h with shared := false, snooped := false }⟩⟩
  · refine ⟨s.modHome line fun h => if h.keep then { h with snoopDue := true } else { h with owned := false }, ?_, s.modHome_lineChanged line _⟩
    change execHostSnoop line s = _
    rw [execHostSnoop, if_pos hhost]
  · refine ⟨s.modHome line fun h => if granted then { h with owned := true, keep := true, asked := false, refusals := 0 }
      else { h with owned := false, asked := false, refusals := h.refusals + 1 }, ?_, s.modHome_lineChanged line _⟩
    change execOwnershipResponse line granted s = _
    rw [execOwnershipResponse, hhost, hasked, Bool.and_self, if_pos rfl]

theorem decide_not_ready {s : State} {addr : Nat} (h : s.stage = stageReady ∨ isDevice addr = false) :
    (decide (s.stage ≠ stageReady) && isDevice addr) = false := by
  rcases h with h | h <;> simp [h]

/-- The addresses that a host aborts once it has set or cleared a range of them (R194). -/
theorem mem_hostAborts (l : List Nat) (lo n : Nat) (on : Bool) (a : Nat) :
    (a ∈ let rest := l.filter fun a => !(decide (lo ≤ a) && decide (a < lo + n)); if on then rest ++ addrRange lo n else rest) ↔
      if lo ≤ a ∧ a < lo + n then on = true else a ∈ l := by
  have kept : (a ∈ l.filter fun a => !(decide (lo ≤ a) && decide (a < lo + n))) ↔ a ∈ l ∧ ¬(lo ≤ a ∧ a < lo + n) := by
    rw [List.mem_filter, Bool.not_eq_true', ← Bool.not_eq_true, Bool.and_eq_true, decide_eq_true_iff, decide_eq_true_iff]
  dsimp only
  cases on with
  | true =>
    rw [if_pos rfl, List.mem_append, kept, mem_addrRange]
    split <;> simp [*]
  | false =>
    rw [if_neg Bool.false_ne_true, kept]
    split <;> simp [*]

theorem hostWrite_read {s : State} {head : Fin 2} {addr n : Nat} {acquire : Bool} (h : s.stage = stageReady ∨ isDevice addr = false) :
    Becomes (.hostWrite head addr (.read n) acquire) s fun t =>
      let pa := if isDevice addr then addr else hostPa head.val addr
      t = { s with homes := t.homes, agents := t.agents } ∧
      (isDevice pa = true → ∀ line, pa / 128 ≤ line → line * 128 < pa + n → (t.home line).shared = true) ∧
      ∀ (i : Nat) (g : RelTag), acquire = true → i < n → g ∈ kgetD s.tags (pa + i) [] → g.scope = .system →
        s.agentOf g.core ≠ headAgent head.val → ∀ line, ∀ e ∈ (t.home line).opens, e.agent = s.agentOf g.core → ∀ b ∈ e.bytes, g.num ≤ b.2 := by
  have hexec : exec (.hostWrite head addr (.read n) acquire) s =
      .next (s.hostLoad head.val (if isDevice addr then addr else hostPa head.val addr) n acquire) := by
    change execHostWrite head addr (.read n) acquire s = _
    simp only [execHostWrite, decide_not_ready h, Bool.false_eq_true, if_false]
  refine ⟨_, hexec, ?_⟩
  dsimp only
  generalize (if isDevice addr then addr else hostPa head.val addr) = pa
  have closed := s.hostLoad_closed head.val pa n acquire
  refine ⟨?_, fun hdev line hlow hhigh => (closed.shared line).trans (s.hostShared_shared hdev hlow hhigh), ?_⟩
  · conv_lhs => rw [closed.eq, s.hostShared_frame]
  · rintro i g rfl hi hg hscope hne
    exact State.hostLoad_shut head.isLt hi hg hscope hne

theorem hostUnreachableTimeout_load {s u : State} {op crew fid pa d : Nat} {o : Op} {c : Crew} {f : Fibre} {r : MemReq} {sz : Size}
    {cacheable : Bool} (hwaits : (s.ops.filter fun x => x.2.waitsHost s) = [(op, o)]) (hready : ReadyMem s op o crew fid c f r)
    (hfn : r.fn = .load sz) (hspace : r.space = .global) (hord : r.order = .relaxed) (hdown : s.hostDown = some d) (htime : d + 2000000 ≤ s.tick)
    (hxl : s.reqXl o r = (u, .ok pa cacheable)) (hhost : isHost pa = true)
    (hheld : cacheable = true → u.l1Holds (u.agentOf o.core) pa r.n = false)
    (hseen : ∀ atHome, u.seenPoison (u.agentOf o.core) pa r.n atHome = false) (hsnoop : NoSnoop s u) :
    Completes .hostUnreachableTimeout s op crew fid f r (some 0x57) [] fun t => t.host = u.host ∧ t.scratch = s.scratch := by
  have work := s.reqXl_work o r
  rw [hxl] at work
  dsimp only at work
  have down : u.hostDown = some d := by rw [work.eq]; exact hdown
  have hload := State.loadAt_unreached hord hhost hheld hseen
    (State.reachCause_of_hostDown hhost down (by rw [work.tick]; exact htime) r.n) crew fid sz
  have hperform : s.performMem o crew fid r = (u, some { cause := some 0x57 }) := by
    simp [State.performMem, hfn, hspace, ReadyMem.reqHome hready hxl ⟨sz, .inl hfn⟩, hload]
  have hrun := State.completeOp_ready hready (s.bankGated_global o.core hspace) hperform
  obtain ⟨hop, -, -, hawake, -⟩ := hready
  obtain ⟨hquiet, hsame, hcrews⟩ := reached_of_work hxl (CacheWork.refl u) hsnoop
  have same : exec .hostUnreachableTimeout s = exec (.completion op) s := by
    change execHostUnreachableTimeout s = execCompletion op s
    simp [execHostUnreachableTimeout, execCompletion, hdown, htime, hwaits, hop]
  unfold Completes
  rw [same]
  refine completes_of_finish (d := { cause := some 0x57 }) hop hrun hquiet hsame (by rwa [Awake, hcrews]) (Noted.refl f)
    (fun hne => absurd rfl hne) fun z hz => ?_
  rw [hz]
  exact ⟨rfl, work.scratch⟩

/-- Settles O47: the events of one line by their definitions; a host's write as bytes put at their homes one after another; its read as lines
shared and an acquire that takes in every SYSTEM release; and the timeout as the completion of the one load that waits. -/
theorem hostEvents : Obligations.HostEvents := by
  unfold Obligations.HostEvents
  refine ⟨hostLine_events, ?_, fun s head addr n acquire h => hostWrite_read h, ?_, ?_, ?_, ?_⟩
  · intro s head addr bytes release h hmem
    have stored := State.hostStore_stored hmem head.val (if isDevice addr then addr else hostPa head.val addr) bytes release
    refine ⟨_, ?_, stored.stored, stored.work.scratch, stored.work.crews, stored.work.ops, stored.hostOut⟩
    change execHostWrite head addr (.write bytes) release s = _
    simp only [execHostWrite, decide_not_ready h, Bool.false_eq_true, if_false]
  · intro s head addr act order hstage hdev hact
    change execHostWrite head addr act order s = _
    rcases hact with ⟨bytes, rfl⟩ | ⟨n, rfl⟩ <;> simp [execHostWrite, hstage, hdev]
  · intro s head addr n on order
    exact ⟨_, rfl, rfl, mem_hostAborts s.hostAbort (hostPa head.val addr) n on⟩
  · intro s head addr v order hv
    change execHostWrite head addr (.mask v) order s = _
    rw [execHostWrite]
    exact congrArg _ (if_pos hv)
  · intro s u op crew fid pa d o c f r sz cacheable hwaits hready hfn hspace hord hdown htime hxl hhost hheld hseen hsnoop
    exact hostUnreachableTimeout_load hwaits hready hfn hspace hord hdown htime hxl hhost hheld hseen hsnoop

end Sys2Proof.Proofs
end

section
/-! PROOF. The SYS words of segment registers and of the management space (R31, R155, R397): what the fence of a SYS word leaves of its crew, and
what the word writes after it. -/

namespace Sys2Proof.Machine

open Sys2Proof.Terms

/-! ## Drains leave the operations -/

section
variable {R : State → State → Prop} (htrans : ∀ {s t u : State}, R s t → R t u → R s u)

include htrans

/-- A change after another that may fail is related where both are. -/
theorem Tried.andThen_related {s : State} {r : Tried} {f : State → Tried} (hr : R s r.1) (hf : ∀ t, R t (f t).1) :
    R s (r.andThen f).1 := by
  obtain ⟨t, _ | c⟩ := r
  · exact htrans hr (hf t)
  · exact hr

theorem State.tryAll_related (hrefl : ∀ s, R s s) {α : Type} {f : State → α → Tried} (hf : ∀ t x, R t (f t x).1) (s : State) (l : List α) :
    R s (s.tryAll l f).1 := by
  have fold : ∀ (l : List α) (r : Tried), R s r.1 → R s (l.foldl (fun (r : Tried) x =>
      let u := f r.1 x; (u.1, match r.2 with | some c => some c | none => u.2)) r).1 := by
    intro l
    induction l with
    | nil => exact fun r h => h
    | cons x l ih => exact fun r h => ih _ (htrans h (hf r.1 x))
  exact fold l (s, none) (hrefl s)

end

/-- The operations in flight are as they were. -/
def SameOps (s t : State) : Prop := t.ops = s.ops

theorem SameOps.refl (s : State) : SameOps s s := rfl

theorem SameOps.trans {s t u : State} (h : SameOps s t) (g : SameOps t u) : SameOps s u := Eq.trans g h

theorem HomeWork.sameOps {s t : State} (h : HomeWork s t) : SameOps s t := h.ops

theorem State.raceEvent_sameOps (s : State) (a : Nat) (crew : Option Nat) (line va other : Nat) (l : List Nat) (c : Cause) :
    SameOps s (s.raceEvent a crew line va other l c) := by
  unfold State.raceEvent
  split
  · exact .refl s
  · split
    · exact rfl
    · split
      · exact .refl s
      · exact (s.tellChip_work _ _).sameOps

theorem State.merge_sameOps (s : State) (a : Nat) (crew : Option Nat) (line va : Nat) (bs : KMap L1Byte) :
    SameOps s (s.merge a crew line va bs).1 := by
  unfold State.merge
  split
  · exact .refl s
  · split
    · exact (s.refuse_work _ _).sameOps
    · dsimp only
      refine .trans (.trans ?_ (State.raceEvent_sameOps _ _ _ _ _ _ _ _)) (State.raceEvent_sameOps _ _ _ _ _ _ _ _)
      refine HomeWork.sameOps (.trans (.trans ?_ (State.modHome_work _ _ _)) (State.tellMerge_work _ _ _ _))
      exact (s.proxyRoom_work _).trans (HomeWork.foldl (fun t b => State.applyByte_work t _ _) _ _)

theorem State.mergeLine_sameOps (s : State) (a line : Nat) : SameOps s (s.mergeLine a line).1 := by
  unfold State.mergeLine
  split
  · exact .refl s
  · split
    · exact .refl s
    · exact Tried.andThen_related (R := SameOps) SameOps.trans (s.merge_sameOps _ _ _ _ _) fun _ => rfl

theorem State.mergeWc_sameOps (s : State) (a line : Nat) : SameOps s (s.mergeWc a line).1 := by
  unfold State.mergeWc
  split
  · exact .refl s
  · exact Tried.andThen_related (R := SameOps) SameOps.trans (s.merge_sameOps _ _ _ _ _) fun _ => rfl

theorem State.drain_sameOps (s : State) (a : Nat) : SameOps s (s.drain a).1 := by
  unfold State.drain
  refine Tried.andThen_related (R := SameOps) SameOps.trans (Tried.andThen_related (R := SameOps) SameOps.trans ?_ fun t => ?_) fun _ => rfl
  · exact State.tryAll_related (R := SameOps) SameOps.trans SameOps.refl (fun t x => t.mergeLine_sameOps _ _) _ _
  · exact State.tryAll_related (R := SameOps) SameOps.trans SameOps.refl (fun u x => u.mergeWc_sameOps _ _) _ _

/-! ## What the fence of a SYS word leaves -/

/-- From a crew to its later state only logs, barrier records and fibres have changed, and no fibre has moved in its own stream. -/
structure Fenced (c d : Crew) : Prop where
  eq : d = { c with bars := d.bars, raceLog := d.raceLog, raceLost := d.raceLost, lost := d.lost, fibres := d.fibres }
  pos : ∀ f, (d.fibre f).pos = (c.fibre f).pos

theorem Fenced.refl (c : Crew) : Fenced c c := ⟨rfl, fun _ => rfl⟩

theorem Fenced.trans {c d e : Crew} (h : Fenced c d) (g : Fenced d e) : Fenced c e :=
  ⟨by rw [g.eq, h.eq], fun f => (g.pos f).trans (h.pos f)⟩

theorem Logged.fenced {c d : Crew} (h : Logged c d) : Fenced c d := by
  have fibres : d.fibres = c.fibres := by rw [h.eq]
  exact ⟨by rw [h.eq], fun f => by rw [Crew.fibre, Crew.fibre, fibres]⟩

/-- A fibre changed, but not its position in its own stream. -/
theorem Crew.modFibre_fenced (c : Crew) (fid : Nat) {k : Fibre → Fibre} (hk : ∀ f, (k f).pos = f.pos) : Fenced c (c.modFibre fid k) := by
  refine ⟨rfl, fun f => ?_⟩
  unfold Crew.fibre Crew.modFibre kgetD
  by_cases hf : f = fid
  · subst hf
    rw [kget_kmod_self]
    cases kget c.fibres f with
    | none => rfl
    | some x => exact hk x
  · rw [kget_kmod_ne _ _ hf]

/-- From s to t a fence may have been made: the crews are fenced, and the operations as they were. -/
structure FenceStep (s t : State) : Prop where
  crews : CrewWork Fenced s t
  ops : SameOps s t

namespace FenceStep

variable {s t u : State}

theorem trans (h : FenceStep s t) (g : FenceStep t u) : FenceStep s u :=
  ⟨h.crews.trans_of (fun _ _ _ => Fenced.trans) g.crews, h.ops.trans g.ops⟩

theorem of_home (h : HomeWork s t) : FenceStep s t := ⟨h.log.mono fun _ _ => Logged.fenced, h.sameOps⟩

theorem refl (s : State) : FenceStep s s := of_home (.refl s)

theorem drain (s : State) (a : Nat) : FenceStep s (s.drain a).1 := ⟨(s.drain_log a).mono fun _ _ => Logged.fenced, s.drain_sameOps a⟩

theorem modFibre (s : State) (crew fid : Nat) {k : Fibre → Fibre} (hk : ∀ f, (k f).pos = f.pos) : FenceStep s (s.modFibre crew fid k) :=
  ⟨State.modCrew_work Fenced.refl s crew fun c => c.modFibre_fenced fid hk, rfl⟩

theorem synchronise (s : State) (core : Nat) (sc : Scope) (chips : List Nat) (tags : List RelTag) :
    FenceStep s (s.synchronise core sc chips tags) :=
  of_home ⟨by rw [(s.synchronise_closed core sc chips tags).eq]⟩

theorem acquire (s : State) (core : Nat) (sc : Scope) (l : List RelEntry) : FenceStep s (s.acquire core sc l).1 := by
  have invalidated : ∀ (t : State) (a : Nat), FenceStep t (t.invalidate a) := fun t a => of_home (t.modAgent_work a _)
  unfold State.acquire
  split
  · exact refl s
  · exact invalidated s _
  · exact invalidated s _
  all_goals
    dsimp only
    generalize List.filter _ (kkeys s.agents) = who
    exact FenceStep.trans (State.tryAll_related (R := FenceStep) trans refl FenceStep.drain s who) (invalidated _ _)

theorem fibreAcquire (s : State) (core crew fid : Nat) (sc : Scope) (tags : List RelTag) :
    FenceStep s (s.fibreAcquire core crew fid sc tags).1 := by
  unfold State.fibreAcquire
  dsimp only
  split
  · exact FenceStep.synchronise _ _ _ _ _
  all_goals
    refine Tried.andThen_related (R := FenceStep) trans (FenceStep.acquire _ _ _ _) fun t => ?_
    refine (FenceStep.synchronise t _ _ _ _).trans (FenceStep.modFibre _ _ _ ?_)
    exact fun _ => rfl

theorem fenceAt (s : State) (core crew fid : Nat) (o : Order) (sc : Scope) : FenceStep s (s.fenceAt core crew fid o sc).1 := by
  have state : ∀ r : Tried, (r.done []).1 = r.1 := fun r => by obtain ⟨t, _ | c⟩ := r <;> rfl
  unfold State.fenceAt
  rw [state]
  refine Tried.andThen_related (R := FenceStep) trans ?_ fun t => ?_
  · split
    · exact FenceStep.drain _ _
    · exact refl s
  · dsimp only
    have released : ∀ u : State, FenceStep t u → FenceStep t (if o = .acq ∨ o = .ar then
        u.fibreAcquire core crew fid (s.effScope core sc) ((u.crew crew).fibre fid).read else (u, none)).1 := by
      intro u hu
      split
      · exact hu.trans (FenceStep.fibreAcquire _ _ _ _ _ _)
      · exact hu
    refine released _ ?_
    split
    · refine (of_home (t.release_work _ _ _)).trans (FenceStep.modFibre _ _ _ ?_)
      exact fun _ => rfl
    · exact refl t

end FenceStep

/-- The fence of a SYS word leaves the operations and, but for logs and what its fibres observe, the crews. -/
theorem State.sysFence_step (i : Issue) (fids : List Nat) : ∀ s : State, FenceStep s (s.sysFence i fids) := by
  induction fids with
  | nil => exact .refl
  | cons f l ih => exact fun s => (FenceStep.fenceAt s i.core i.crew f .ar .system).trans (ih _)

/-- The crew of a SYS word once its fence has been made. -/
theorem sysFence_crew {s : State} {i : Issue} {c : Crew} (h : Issues s i c) (fids : List Nat) :
    ∃ d, kget ((taken s).sysFence i fids).crews i.crew = some d ∧ Fenced c d := by
  obtain ⟨-, hcrew, -⟩ := h
  exact ((taken s).sysFence_step i fids).crews.crews i.crew c hcrew

theorem State.sysFence_ops (s : State) (i : Issue) (fids : List Nat) : ((taken s).sysFence i fids).ops = s.ops :=
  ((taken s).sysFence_step i fids).ops

/-- A SYS word of a system crew whose operands are good, and whose fibres can all count: its effect after the fence (R397). -/
theorem sysWord_next {α : Type} {regs : List Nat} {plan : Env → Except LaneErr α} {act : α → Issue → Env → List (Nat × Eff) → State → State}
    {s : State} {i : Issue} {c : Crew} {a : α} (hI : Issues s i c) (hsys : c.system = true) (hcount : CanCount c 0 i.grp.fids)
    (hsplit : (envAt s i).splitRead regs = false) (hplan : plan (envAt s i) = .ok a) :
    sysWord false regs plan act s = .next (act a i (envAt s i) [] ((taken s).sysFence i i.grp.fids)) := by
  have hcrew := envAt_crew hI
  obtain ⟨hcur, -⟩ := hI
  obtain ⟨hne, hfree⟩ := hcount
  have full : (i.grp.fids.filter fun fid => decide (63 ≤ (((envAt s i).crew.fibre fid).tok 0).count)) = [] :=
    List.filter_eq_nil_iff.mpr fun f hf => by simpa [hcrew] using hfree f hf
  have env : envOf i (taken s) = envAt s i := rfl
  have level : (envAt s i).crew.system = true := by rw [hcrew, hsys]
  rw [sysWord, withIssue_next hcur]
  simp only [env, level, hsplit, hplan, full]
  simp [hne]

/-! ## The end of a switch point (R31) -/

/-- From a crew to its later state only fibres and groups have changed. -/
def Regrouped (c d : Crew) : Prop := d = { c with fibres := d.fibres, groups := d.groups }

theorem Regrouped.refl (c : Crew) : Regrouped c c := rfl

theorem Regrouped.trans {c d e : Crew} (h : Regrouped c d) (g : Regrouped d e) : Regrouped c e := by rw [Regrouped, g, h]

/-- From s to t the crews' fibres and groups have changed, and perhaps cores. -/
abbrev RegroupStep : State → State → Prop := CrewWork Regrouped

namespace RegroupStep

variable {s t u : State}

theorem trans (h : RegroupStep s t) (g : RegroupStep t u) : RegroupStep s u := h.trans_of (fun _ _ _ => Regrouped.trans) g

theorem of_crews (hc : t.crews = s.crews) (ht : t.tick = s.tick) (hs : t.scratch = s.scratch) (hg : t.gated = s.gated)
    (hx : t.sends = s.sends) : RegroupStep s t :=
  ⟨ht, hs, hg, hx, fun k c h => ⟨c, by rw [hc]; exact h, .refl c⟩⟩

theorem refl (s : State) : RegroupStep s s := of_crews rfl rfl rfl rfl rfl

theorem modCore (s : State) (k : Nat) (f : Core → Core) : RegroupStep s (s.modCore k f) := of_crews rfl rfl rfl rfl rfl

theorem modFibre (s : State) (crew fid : Nat) (f : Fibre → Fibre) : RegroupStep s (s.modFibre crew fid f) :=
  State.modCrew_work Regrouped.refl s crew fun _ => rfl

theorem foldl {β : Type} {f : State → β → State} (hf : ∀ s x, RegroupStep s (f s x)) (l : List β) (s : State) :
    RegroupStep s (l.foldl f s) := by
  induction l generalizing s with
  | nil => exact refl s
  | cons x l ih => exact (hf s x).trans (ih _)

theorem enter (s : State) (crew fid : Nat) : RegroupStep s (s.enter crew fid) := by
  unfold State.enter
  dsimp only
  split
  · exact (RegroupStep.modFibre s crew fid _).trans (RegroupStep.modCore _ _ _)
  · exact RegroupStep.modFibre s crew fid _

theorem settle (core n : Nat) : ∀ s : State, RegroupStep s (s.settle core n) := by
  induction n with
  | zero => exact refl
  | succ n ih =>
    intro s
    unfold State.settle
    split
    · exact refl s
    · dsimp only
      split
      · exact refl s
      · exact ((RegroupStep.modCore s core _).trans (RegroupStep.foldl (fun t e => RegroupStep.modFibre t _ _ _) _ _)).trans (ih _)

theorem dissolve (s : State) (crew gid : Nat) : RegroupStep s (s.dissolve crew gid) := by
  unfold State.dissolve
  split
  · exact refl s
  · have left : RegroupStep s (s.modCrew crew fun c => { c with groups := kdel c.groups gid }) :=
      State.modCrew_work Regrouped.refl s crew fun _ => rfl
    refine (left.trans (RegroupStep.settle _ _ _)).trans (RegroupStep.foldl (fun t fid => ?_) _ _)
    split
    · exact RegroupStep.enter t crew fid
    · exact refl t

/-- A crew is regrouped. -/
theorem crew (h : RegroupStep s t) {k : Nat} {c : Crew} (hc : kget s.crews k = some c) : ∃ d, kget t.crews k = some d ∧ Regrouped c d :=
  h.crews k c hc

end RegroupStep

/-- The end of a word of a running crew that is a switch point (R31) moves its fibres and groups alone. -/
theorem State.endWord_switch {s : State} {i : Issue} {c : Crew} (hc : kget s.crews i.crew = some c) (hlife : c.life = .running) :
    ∃ d, kget (s.endWord i [] true []).crews i.crew = some d ∧ Regrouped c d := by
  have hnil : (i.grp.fids.flatMap fun f => ([] : List (Nat × Eff)).filter fun x => x.1 == f) = [] := by simp
  have moved : RegroupStep s (s.setPcs i.crew i.grp.fids (i.pc + 4)) := RegroupStep.foldl (fun t _ => RegroupStep.modFibre t _ _ _) _ _
  have run : s.endWord i [] true [] = (s.setPcs i.crew i.grp.fids (i.pc + 4)).endSwitch i := by
    unfold State.endWord
    rw [hnil]
    rfl
  generalize s.setPcs i.crew i.grp.fids (i.pc + 4) = t at moved run
  obtain ⟨u, dissolved, hend⟩ : ∃ u, RegroupStep s u ∧ t.endSwitch i = u.preemptNotice i.crew i.grp.fids := by
    unfold State.endSwitch
    split
    · exact ⟨_, moved.trans (RegroupStep.dissolve t _ _), rfl⟩
    · exact ⟨_, moved, rfl⟩
  obtain ⟨d, hd, hcd⟩ := dissolved.crew hc
  have running : d.life = .running := by rw [hcd]; exact hlife
  refine ⟨d, ?_, hcd⟩
  rw [run, hend, State.preemptNotice_running (by rw [State.crew_of_kget hd, running])]
  exact hd

/-! ## Registers written by a SYS word -/

/-- The writes of a SYS word to G registers from one on, before the word ends. -/
def State.putGs (s : State) (i : Issue) (e : Env) (c next : Nat) (vals : List Word) (k : Nat) : State :=
  (vals.foldl (fun (r : State × Nat) v =>
    (r.1.modCrew i.crew fun x => x.putG 0 (c + r.2) v i.grp.fids e.cycle next (e.pick 4096 (100 + c + r.2) 3), r.2 + 1)) (s, k)).1

theorem gSettled_putG {i : Issue} {x : Crew} {n m : Nat} (h : gSettled i x m) (hne : m ≠ n) (lat : Nat) (val : Word)
    (cycle next pick : Nat) : gSettled i (x.putG lat n val i.grp.fids cycle next pick) m := by
  intro w hw
  rw [kgetD, (Crew.putG_ne x hne lat val i.grp.fids cycle next pick).2] at hw
  exact h w hw

/-- Each register outside its windows holds the value written, and the others what they held. -/
theorem State.putGs_spec (i : Issue) (e : Env) (c next : Nat) (vals : List Word) : ∀ {s : State} {x : Crew} (k : Nat),
    kget s.crews i.crew = some x → (∀ j, j < vals.length → gSettled i x (c + k + j)) →
    ∃ y, kget (s.putGs i e c next vals k).crews i.crew = some y ∧ (∀ j v, vals[j]? = some v → y.getG (c + k + j) = v) ∧
      ∀ m, m < c + k ∨ c + k + vals.length ≤ m → y.getG m = x.getG m := by
  induction vals with
  | nil => exact fun k hx _ => ⟨_, hx, fun j v hv => (by cases hv), fun _ _ => rfl⟩
  | cons v vals ih =>
    intro s x k hx hset
    have put := fun m (hm : m ≠ c + k) => Crew.putG_ne x hm 0 v i.grp.fids e.cycle next (e.pick 4096 (100 + c + k) 3)
    have self := Crew.putG_self (hset 0 (Nat.succ_pos _)) 0 v e.cycle next (e.pick 4096 (100 + c + k) 3)
    obtain ⟨y, hy, hvals, hothers⟩ := ih (s := s.modCrew i.crew fun x =>
        x.putG 0 (c + k) v i.grp.fids e.cycle next (e.pick 4096 (100 + c + k) 3)) (k + 1)
      ((kget_kmod_self _ _ _).trans (congrArg _ hx)) fun j hj => by
        have settled := hset (j + 1) (by rw [List.length_cons]; omega)
        rw [show c + k + (j + 1) = c + (k + 1) + j by omega] at settled
        exact gSettled_putG settled (by omega) _ _ _ _ _
    refine ⟨y, hy, fun j w hw => ?_, fun m hm => ?_⟩
    · cases j with
      | zero =>
        rw [hothers (c + k + 0) (by omega)]
        rw [List.getElem?_cons_zero, Option.some_inj] at hw
        exact hw ▸ self
      | succ j =>
        rw [show c + k + (j + 1) = c + (k + 1) + j by omega]
        exact hvals j w hw
    · rw [List.length_cons] at hm
      rw [hothers m (by omega), (put m (by omega)).1]

/-- A SYS word that writes registers outside their windows ends with the values in them. -/
theorem State.writeGs_spec {s : State} {i : Issue} {x : Crew} (e : Env) {c : Nat} {vals : List Word} (hx : kget s.crews i.crew = some x)
    (hset : ∀ j, j < vals.length → gSettled i x (c + j)) :
    ∃ y, kget (s.writeGs i e c vals []).crews i.crew = some y ∧ (∀ j v, vals[j]? = some v → y.getG (c + j) = v) ∧
      ∀ m, m < c ∨ c + vals.length ≤ m → y.getG m = x.getG m := by
  obtain ⟨y, hy, hvals, hothers⟩ := State.putGs_spec i e c s.nextId vals 0 hx hset
  obtain ⟨z, hz, hframe, -⟩ := State.endWord_step hy i.grp.latches
  have same : z.g = y.g := by rw [hframe]
  have get : ∀ m, z.getG m = y.getG m := fun m => by rw [Crew.getG, Crew.getG, same]
  refine ⟨z, hz.2.2, fun j v hv => (get _).trans (hvals j v hv), fun m hm => (get m).trans (hothers m hm)⟩

/-- A fence leaves the windows of the uniform registers. -/
theorem Fenced.gSettled {c d : Crew} (h : Fenced c d) {i : Issue} {n : Nat} (hset : Terms.gSettled i c n) : Terms.gSettled i d n := by
  have windows : d.gwin = c.gwin := by rw [h.eq]
  intro w hw
  rw [windows] at hw
  obtain ⟨htok, hown⟩ := hset w hw
  refine ⟨htok, ?_⟩
  rw [← hown]
  unfold LatWrite.ownOpen
  simp only [h.pos]

/-- Registers that strict mode lets a word write. -/
theorem destPlan_ok {α : Type} {s : State} {i : Issue} {c : Crew} (hI : Issues s i c) {n k : Nat} (hn : n + k ≤ 32)
    (hm : ∀ j, j < k → MayWriteG s i c (n + j)) (plan : Unit → Except LaneErr α) : destPlan (envAt s i) n k plan = plan () := by
  have allowed : (envAt s i).strictGs ((List.range k).map fun j => n + j) = none := by
    rw [Env.strictGs, List.head?_eq_none_iff, List.filterMap_eq_nil_iff]
    intro m hmem
    obtain ⟨j, hj, rfl⟩ := List.mem_map.mp hmem
    rw [envAt_crew hI]
    exact hm j (List.mem_range.mp hj)
  rw [destPlan, sysRegs, if_neg (by omega), allowed]

/-! ## Segment registers (R155) -/

/-- SEGW of a crew with no operation that it waits for sets the register after its fence. -/
theorem execSegw_next {a : Sel} {n : Fin 32} {s : State} {i : Issue} {c : Crew} {k lo hi lim : Word} (hI : Issues s i c)
    (hsys : c.system = true) (hcount : CanCount c 0 i.grp.fids) (hn : n.val ≤ 29)
    (hsplit : (envAt s i).splitRead (selRegs a 1 ++ [n.val, n.val + 1, n.val + 2]) = false) (hk : (envAt s i).readU a 0 = .ok k)
    (hgs : (envAt s i).readGs [n.val, n.val + 1, n.val + 2] = .ok [lo, hi, lim]) (hk2 : k.toNat ≤ 2) (hbusy : s.crewBusy i.crew = false) :
    exec (.segw a n) s = .next (((taken s).sysFence i i.grp.fids).segWrite i (.segw a n) k.toNat (pairNat (lo, hi)) lim.toNat []) := by
  have idle : ((taken s).sysFence i i.grp.fids).crewBusy i.crew = false := by rwa [State.crewBusy, State.sysFence_ops]
  have small : ¬2 < k.toNat := Nat.not_lt.mpr hk2
  have inside : ¬31 < n.val + 3 - 1 := by omega
  change execSegw a n s = _
  rw [execSegw, sysWord_next (a := (k.toNat, [lo.toNat, hi.toNat, lim.toNat])) hI hsys hcount hsplit]
  · rw [idle, if_neg Bool.false_ne_true]
    rfl
  · rw [sysRegs, if_neg inside, hk, hgs]
    dsimp only
    rw [if_neg small]
    rfl

/-- A segment register of a running crew set by a word that ends at a switch point. -/
theorem State.setSeg_endWord {s : State} {i : Issue} {c : Crew} (hc : kget s.crews i.crew = some c) (hlife : c.life = .running)
    (f : Crew → Crew) (hf : (f c).life = c.life) :
    ∃ d, kget ((s.modCrew i.crew f).endWord i [] true []).crews i.crew = some d ∧ Regrouped (f c) d :=
  State.endWord_switch ((kget_kmod_self _ _ _).trans (congrArg _ hc)) (hf.trans hlife)

end Sys2Proof.Machine

namespace Sys2Proof.Proofs

open Sys2Proof.Machine Sys2Proof.Terms

/-- SEGW of the SCRATCH or the FRAME register. -/
theorem segw_scratchFrame {a : Sel} {n : Fin 32} {s : State} {i : Issue} {c : Crew} {k lo hi lim : Word} (hI : Issues s i c)
    (hsys : c.system = true) (hlife : c.life = .running) (hcount : CanCount c 0 i.grp.fids) (hn : n.val ≤ 29)
    (hsplit : (envAt s i).splitRead (selRegs a 1 ++ [n.val, n.val + 1, n.val + 2]) = false) (hk : (envAt s i).readU a 0 = .ok k)
    (hgs : (envAt s i).readGs [n.val, n.val + 1, n.val + 2] = .ok [lo, hi, lim]) (hk1 : k.toNat ≤ 1) (hbusy : s.crewBusy i.crew = false)
    (hok : segValueOk k.toNat (pairNat (lo, hi)) lim.toNat = true) :
    ∃ t c', exec (.segw a n) s = .next t ∧ kget t.crews i.crew = some c' ∧ c'.segConst = c.segConst ∧ c'.g = c.g ∧
      c'.segScratch = (if k = 0 then ⟨pairNat (lo, hi), lim.toNat⟩ else c.segScratch) ∧
      c'.segFrame = (if k = 1 then ⟨pairNat (lo, hi), lim.toNat⟩ else c.segFrame) := by
  have hexec := execSegw_next hI hsys hcount hn hsplit hk hgs (by omega) hbusy
  obtain ⟨d, hd, hfenced⟩ := sysFence_crew hI i.grp.fids
  generalize (taken s).sysFence i i.grp.fids = t at hexec hd
  have hrun : d.life = .running := by rw [hfenced.eq]; exact hlife
  obtain hk | hk : k.toNat = 0 ∨ k.toNat = 1 := by omega
  · obtain rfl : k = 0 := BitVec.eq_of_toNat_eq hk
    obtain ⟨e, he, hmoved⟩ := State.setSeg_endWord hd hrun (fun c => { c with segScratch := ⟨pairNat (lo, hi), lim.toNat⟩ }) rfl
    refine ⟨_, e, hexec, ?_, ?_, ?_, ?_, ?_⟩
    · rw [State.segWrite, hok]
      exact he
    · rw [hmoved, hfenced.eq]
    · rw [hmoved, hfenced.eq]
    · rw [if_pos rfl, hmoved]
    · rw [if_neg (by decide), hmoved, hfenced.eq]
  · obtain rfl : k = 1 := BitVec.eq_of_toNat_eq hk
    obtain ⟨e, he, hmoved⟩ := State.setSeg_endWord hd hrun (fun c => { c with segFrame := ⟨pairNat (lo, hi), lim.toNat⟩ }) rfl
    refine ⟨_, e, hexec, ?_, ?_, ?_, ?_, ?_⟩
    · rw [State.segWrite, hok]
      exact he
    · rw [hmoved, hfenced.eq]
    · rw [hmoved, hfenced.eq]
    · rw [if_neg (by decide), hmoved, hfenced.eq]
    · rw [if_pos rfl, hmoved]

/-- SEGW of the CONST register, which reads its window. -/
theorem segw_const {a : Sel} {n : Fin 32} {s u : State} {i : Issue} {c : Crew} {lo hi lim : Word} {w : List Byte} (hI : Issues s i c)
    (hsys : c.system = true) (hlife : c.life = .running) (hcount : CanCount c 0 i.grp.fids) (hn : n.val ≤ 29)
    (hsplit : (envAt s i).splitRead (selRegs a 1 ++ [n.val, n.val + 1, n.val + 2]) = false) (hk : (envAt s i).readU a 0 = .ok 2)
    (hgs : (envAt s i).readGs [n.val, n.val + 1, n.val + 2] = .ok [lo, hi, lim]) (hbusy : s.crewBusy i.crew = false)
    (hok : pairNat (lo, hi) % 128 = 0)
    (hread : ((taken s).sysFence i i.grp.fids).readWindow c.pasid (pairNat (lo, hi)) lim.toNat = (u, .ok w)) :
    ∃ t c', exec (.segw a n) s = .next t ∧ kget t.crews i.crew = some c' ∧ c'.segConst = ⟨pairNat (lo, hi), lim.toNat⟩ ∧
      c'.window = w ∧ c'.segScratch = c.segScratch ∧ c'.segFrame = c.segFrame ∧ c'.g = c.g := by
  have hexec := execSegw_next hI hsys hcount hn hsplit hk hgs (by decide) hbusy
  obtain ⟨d, hd, hfenced⟩ := sysFence_crew hI i.grp.fids
  generalize (taken s).sysFence i i.grp.fids = t at hexec hd hread
  have hrun : d.life = .running := by rw [hfenced.eq]; exact hlife
  have hpasid : (t.crew i.crew).pasid = c.pasid := by rw [State.crew_of_kget hd, hfenced.eq]
  have work := t.engineRead_work c.pasid (pairNat (lo, hi)) (min lim.toNat 4096)
  rw [show t.engineRead c.pasid (pairNat (lo, hi)) (min lim.toNat 4096) = (u, .ok w) from hread] at work
  have hu : kget u.crews i.crew = some d := work.crews ▸ hd
  obtain ⟨e, he, hmoved⟩ := State.setSeg_endWord hu hrun (fun c => { c with segConst := ⟨pairNat (lo, hi), lim.toNat⟩, window := w }) rfl
  refine ⟨_, e, hexec, ?_, ?_, ?_, ?_, ?_, ?_⟩
  · have aligned : segValueOk (2 : Word).toNat (pairNat (lo, hi)) lim.toNat = true := by simp [segValueOk, hok]
    rw [State.segWrite, aligned, hpasid, hread]
    exact he
  all_goals rw [hmoved, hfenced.eq]

/-- SEGR. -/
theorem segr_ok {a : Sel} {n : Fin 32} {s : State} {i : Issue} {c : Crew} {k : Word} (hI : Issues s i c) (hsys : c.system = true)
    (hcount : CanCount c 0 i.grp.fids) (hn : n.val ≤ 29) (hsplit : (envAt s i).splitRead (selRegs a 1) = false)
    (hk : (envAt s i).readU a 0 = .ok k) (hk2 : k.toNat ≤ 2) (hmay : ∀ j, j < 3 → MayWriteG s i c (n.val + j) ∧ gSettled i c (n.val + j)) :
    let r := if k = 0 then c.segScratch else if k = 1 then c.segFrame else c.segConst
    ∃ t c', exec (.segr a n) s = .next t ∧ kget t.crews i.crew = some c' ∧ c'.getG n.val = BitVec.ofNat 32 r.base ∧
      c'.getG (n.val + 1) = BitVec.ofNat 32 (r.base / 2 ^ 32) ∧ c'.getG (n.val + 2) = BitVec.ofNat 32 r.limit ∧
      ∀ m, m < n.val ∨ n.val + 2 < m → c'.getG m = c.getG m := by
  intro r
  have small : ¬2 < k.toNat := Nat.not_lt.mpr hk2
  have hreg : (envAt s i).crew.segReg k.toNat = r := by
    have zero : k.toNat = 0 ↔ k = 0 := (BitVec.toNat_eq (y := 0)).symm
    have one : k.toNat = 1 ↔ k = 1 := (BitVec.toNat_eq (y := 1)).symm
    rw [envAt_crew hI, Crew.segReg]
    simp only [zero, one]
    rfl
  have hexec : exec (.segr a n) s = .next (((taken s).sysFence i i.grp.fids).writeGs i (envAt s i) n.val
      [BitVec.ofNat 32 r.base, BitVec.ofNat 32 (r.base / 2 ^ 32), BitVec.ofNat 32 r.limit] []) := by
    change execSegr a n s = _
    rw [execSegr, sysWord_next (a := k.toNat) hI hsys hcount hsplit]
    · dsimp only
      rw [hreg]
    · rw [destPlan_ok hI (by omega) fun j hj => (hmay j hj).1, hk]
      exact if_neg small
  obtain ⟨d, hd, hfenced⟩ := sysFence_crew hI i.grp.fids
  obtain ⟨y, hy, hvals, hothers⟩ := State.writeGs_spec (envAt s i) (c := n.val)
    (vals := [BitVec.ofNat 32 r.base, BitVec.ofNat 32 (r.base / 2 ^ 32), BitVec.ofNat 32 r.limit]) hd
    fun j hj => hfenced.gSettled (hmay j hj).2
  refine ⟨_, y, hexec, hy, hvals 0 _ rfl, hvals 1 _ rfl, hvals 2 _ rfl, fun m hm => ?_⟩
  have same : d.g = c.g := by rw [hfenced.eq]
  rw [hothers m (by change m < n.val ∨ n.val + 3 ≤ m; omega), Crew.getG, Crew.getG, same]

/-- CSRR. -/
theorem csrr_ok {a : Sel} {n : Fin 32} {s u : State} {i : Issue} {c : Crew} {off v : Nat} (hI : Issues s i c) (hsys : c.system = true)
    (hcount : CanCount c 0 i.grp.fids) (hn : n.val ≤ 30) (hsplit : (envAt s i).splitRead (selRegs a 1) = false)
    (hplan : csrPlan (envAt s i) a = .ok off) (hmay : ∀ j, j < 2 → MayWriteG s i c (n.val + j))
    (hread : ((taken s).sysFence i i.grp.fids).readReg (((taken s).sysFence i i.grp.fids).crewHead i.crew) off = (u, v))
    (hset : ∃ x, kget u.crews i.crew = some x ∧ ∀ j, j < 2 → gSettled i x (n.val + j)) :
    ∃ t c', exec (.csrr a n) s = .next t ∧ kget t.crews i.crew = some c' ∧ c'.getG n.val = BitVec.ofNat 32 v ∧
      c'.getG (n.val + 1) = BitVec.ofNat 32 (v / 2 ^ 32) := by
  obtain ⟨x, hx, hset⟩ := hset
  have hexec : exec (.csrr a n) s =
      .next (u.writeGs i (envAt s i) n.val [BitVec.ofNat 32 v, BitVec.ofNat 32 (v / 2 ^ 32)] []) := by
    change execCsrr a n s = _
    rw [execCsrr, sysWord_next (a := off) hI hsys hcount hsplit]
    · dsimp only
      rw [hread]
    · rw [destPlan_ok hI (by omega) hmay, hplan]
  obtain ⟨y, hy, hvals, -⟩ := State.writeGs_spec (envAt s i) (c := n.val) (vals := [BitVec.ofNat 32 v, BitVec.ofNat 32 (v / 2 ^ 32)]) hx hset
  exact ⟨_, y, hexec, hy, hvals 0 _ rfl, hvals 1 _ rfl⟩

/-- CSRW. -/
theorem csrw_ok {a : Sel} {n : Fin 32} {s : State} {i : Issue} {c : Crew} {off : Nat} {lo hi : Word} (hI : Issues s i c)
    (hsys : c.system = true) (hcount : CanCount c 0 i.grp.fids) (hn : n.val ≤ 30)
    (hsplit : (envAt s i).splitRead (selRegs a 1 ++ [n.val, n.val + 1]) = false) (hplan : csrPlan (envAt s i) a = .ok off)
    (hgs : (envAt s i).readGs [n.val, n.val + 1] = .ok [lo, hi]) :
    exec (.csrw a n) s = .next ((((taken s).sysFence i i.grp.fids).writeReg (((taken s).sysFence i i.grp.fids).crewHead i.crew) off
      (pairNat (lo, hi))).endWord i i.grp.latches false []) := by
  have inside : ¬31 < n.val + 2 - 1 := by omega
  change execCsrw a n s = _
  rw [execCsrw, sysWord_next (a := (off, [lo.toNat, hi.toNat])) hI hsys hcount hsplit]
  · rfl
  · rw [sysRegs, if_neg inside, hplan, hgs]
    rfl

/-- Settles O39: each word is its effect after the fence, which leaves the crew's registers, segments and operations as they were. -/
theorem systemRegisters : Obligations.SystemRegisters := by
  unfold Obligations.SystemRegisters
  refine ⟨?_, ?_, ?_, ?_, ?_⟩
  · intro a n s i c k lo hi lim hI hsys hlife hcount hn hsplit hk hgs hk1 hbusy hok
    exact segw_scratchFrame hI hsys hlife hcount hn hsplit hk hgs hk1 hbusy hok
  · intro a n s u i c lo hi lim w hI hsys hlife hcount hn hsplit hk hgs hbusy hok hread
    exact segw_const hI hsys hlife hcount hn hsplit hk hgs hbusy hok hread
  · intro a n s i c k hI hsys hcount hn hsplit hk hk2 hmay
    exact segr_ok hI hsys hcount hn hsplit hk hk2 hmay
  · intro a n s u i c off v hI hsys hcount hn hsplit hplan hmay b hread hset
    exact csrr_ok hI hsys hcount hn hsplit hplan hmay hread hset
  · intro a n s i c off lo hi hI hsys hcount hn hsplit hplan hgs
    exact csrw_ok hI hsys hcount hn hsplit hplan hgs

end Sys2Proof.Proofs
end

section
/-! PROOF. Merges and drains of an agent's caches (R203, R207 to R209, R213): a merge changes no cache, a line that is merged holds no dirty byte,
no step of a drain makes a byte dirty, and clean bytes leave an L1 when they are old (R201). -/

namespace Sys2Proof.Machine

open Sys2Proof.Terms

/-! ## Work at homes leaves the caches -/

/-- The caches are as they were. -/
def SameAgents (s t : State) : Prop := t.agents = s.agents

theorem SameAgents.refl (s : State) : SameAgents s s := rfl

theorem SameAgents.trans {s t u : State} (h : SameAgents s t) (g : SameAgents t u) : SameAgents s u := Eq.trans g h

theorem SameAgents.agent {s t : State} (h : SameAgents s t) (a : Nat) : t.agent a = s.agent a := by
  rw [State.agent, State.agent, h]

theorem State.tellChip_sameAgents (s : State) (chip : Nat) (m : LinkMsg) : SameAgents s (s.tellChip chip m) := by
  obtain ⟨ports, h⟩ := s.tellChip_frame chip m
  rw [h]
  exact rfl

theorem State.claimLine_sameAgents (s : State) (line : Nat) : SameAgents s (s.claimLine line) := by
  unfold State.claimLine
  dsimp only
  split
  · exact rfl
  · split <;> exact rfl

theorem State.placeByte_sameAgents (s : State) (pa : Nat) (b : L1Byte) : SameAgents s (s.placeByte pa b) := by
  obtain ⟨holders, cores, tags, poison, homes, hp⟩ := s.placeByte_frame pa b
  obtain ⟨d, m, hw⟩ := s.writePa_frame pa b.val
  rw [hp, hw]
  exact rfl

theorem State.applyByte_sameAgents (s : State) (pa : Nat) (b : L1Byte) : SameAgents s (s.applyByte pa b) :=
  (s.claimLine_sameAgents _).trans (State.placeByte_sameAgents _ pa b)

theorem State.foldl_applyByte_sameAgents (s : State) (pa : Nat) (bs : KMap L1Byte) :
    SameAgents s (bs.foldl (fun t b => t.applyByte (pa + b.1) b.2) s) :=
  List.foldlRecOn bs _ (SameAgents.refl s) fun _ h b _ => h.trans (State.applyByte_sameAgents _ _ b.2)

theorem State.proxyRoom_sameAgents (s : State) (line : Nat) : SameAgents s (s.proxyRoom line) := by
  unfold State.proxyRoom
  dsimp only
  split
  · exact rfl
  · split
    · exact rfl
    · split <;> exact rfl

theorem State.refuse_sameAgents (s : State) (line : Nat) (c : Cause) : SameAgents s (s.refuse line c).1 := by
  unfold State.refuse
  dsimp only
  split <;> exact rfl

theorem State.tellMerge_sameAgents (s : State) (a line : Nat) (bs : KMap L1Byte) : SameAgents s (s.tellMerge a line bs) := by
  unfold State.tellMerge
  split
  · exact s.tellChip_sameAgents _ _
  · exact rfl

theorem State.raceEvent_sameAgents (s : State) (a : Nat) (crew : Option Nat) (line va other : Nat) (l : List Nat) (c : Cause) :
    SameAgents s (s.raceEvent a crew line va other l c) := by
  unfold State.raceEvent
  split
  · exact rfl
  · split
    · exact rfl
    · split
      · exact rfl
      · exact s.tellChip_sameAgents _ _

theorem State.merge_sameAgents (s : State) (a : Nat) (crew : Option Nat) (line va : Nat) (bs : KMap L1Byte) :
    SameAgents s (s.merge a crew line va bs).1 := by
  unfold State.merge
  split
  · exact rfl
  · split
    · exact s.refuse_sameAgents _ _
    · dsimp only
      refine .trans ?_ (State.raceEvent_sameAgents _ _ _ _ _ _ _ _)
      refine .trans ?_ (State.raceEvent_sameAgents _ _ _ _ _ _ _ _)
      refine .trans ?_ (State.tellMerge_sameAgents _ _ _ _)
      refine .trans ?_ (State.foldl_applyByte_sameAgents _ (line * 128) _)
      exact s.proxyRoom_sameAgents line

/-! ## Tries -/

/-- Both of two tries one after another have succeeded where the whole has. -/
theorem Tried.andThen_ok {r : Tried} {f : State → Tried} (h : (r.andThen f).2 = none) : ∃ t, r = (t, none) ∧ r.andThen f = f t := by
  obtain ⟨t, _ | c⟩ := r
  · exact ⟨t, rfl, rfl⟩
  · cases h

theorem State.tryAll_cons_of_ok {α : Type} {f : State → α → Tried} {s : State} {x : α} (l : List α) (h : (f s x).2 = none) :
    s.tryAll (x :: l) f = (f s x).1.tryAll l f := by
  have first : f s x = ((f s x).1, none) := Prod.ext rfl h
  unfold State.tryAll
  rw [List.foldl_cons]
  dsimp only
  rw [← first]

/-- A try that fails fails them all. -/
theorem State.ok_of_tryAll_cons {α : Type} {f : State → α → Tried} {s : State} {x : α} {l : List α} (h : (s.tryAll (x :: l) f).2 = none) :
    (f s x).2 = none := by
  by_contra hfailed
  obtain ⟨c, hc⟩ := Option.ne_none_iff_exists'.mp hfailed
  have kept : (s.tryAll (x :: l) f).2 = some c :=
    List.foldlRecOn (motive := fun r : Tried => r.2 = some c) l _ hc fun r hr y _ => by dsimp only; rw [hr]
  rw [kept] at h
  cases h

/-! ## Merges of one line, case by case -/

theorem L1Line.cleaned_dirty (l : L1Line) : l.cleaned.dirty = [] := by
  refine List.filter_eq_nil_iff.mpr fun b hb => ?_
  obtain ⟨x, -, rfl⟩ := List.mem_map.mp hb
  exact Bool.false_ne_true

theorem L1Line.minus_dirty {l : L1Line} (h : l.dirty = []) (m : L1Line) : (l.minus m).dirty = [] :=
  List.filter_eq_nil_iff.mpr fun b hb => List.filter_eq_nil_iff.mp h b (List.mem_of_mem_filter hb)

/-- The state with one line of an agent's L1 cleaned. -/
def State.cleanLine (s : State) (a line : Nat) : State := s.modAgent a fun g => { g with l1 := kmod g.l1 line L1Line.cleaned }

theorem State.cleanLine_agent (s : State) (a line : Nat) :
    (s.cleanLine a line).agent a = { s.agent a with l1 := kmod (s.agent a).l1 line L1Line.cleaned } := s.modAgent_agent a _

section
variable {s : State} {a line : Nat} {l : L1Line}

theorem State.mergeLine_of_absent (h : kget (s.agent a).l1 line = none) : s.mergeLine a line = (s, none) := by
  unfold State.mergeLine
  rw [h]

theorem State.mergeLine_of_clean (h : kget (s.agent a).l1 line = some l) (hd : l.dirty = []) : s.mergeLine a line = (s, none) := by
  unfold State.mergeLine
  rw [h]
  exact if_pos (List.isEmpty_iff.mpr hd)

theorem State.mergeLine_of_dirty (h : kget (s.agent a).l1 line = some l) (hd : l.dirty ≠ []) :
    s.mergeLine a line = (s.merge a l.writer line l.va l.dirty).andThen fun t => (t.cleanLine a line, none) := by
  unfold State.mergeLine
  rw [h]
  exact if_neg (mt List.isEmpty_iff.mp hd)

theorem State.mergeWc_of_absent (h : kget (s.agent a).wc line = none) : s.mergeWc a line = (s, none) := by
  unfold State.mergeWc
  rw [h]

end

/-! ## Lines that stay clean -/

theorem rising_kmod {α : Type} {m : KMap α} (h : Rising m) (k : Nat) (f : α → α) : Rising (kmod m k f) := by
  unfold kmod
  split
  · exact rising_kset h _ _
  · exact h

/-- What a part of a map of rising keys holds, the map holds. -/
theorem kget_of_kget_filter {α : Type} {m : KMap α} (h : Rising m) {p : Nat × α → Bool} {k : Nat} {x : α} (hk : kget (m.filter p) k = some x) :
    kget m k = some x :=
  kget_of_rising h (List.mem_of_mem_filter (mem_of_kget hk))

/-- From s to t no line has come into an agent's L1, and none has become dirty. -/
def KeepsClean (a : Nat) (s t : State) : Prop :=
  Rising (s.agent a).l1 → Rising (t.agent a).l1 ∧ ∀ line l', kget (t.agent a).l1 line = some l' →
    ∃ l, kget (s.agent a).l1 line = some l ∧ (l.dirty = [] → l'.dirty = [])

namespace KeepsClean

variable {a : Nat} {s t u : State}

theorem of_l1_eq (h : (t.agent a).l1 = (s.agent a).l1) : KeepsClean a s t := by
  intro hr
  rw [h]
  exact ⟨hr, fun line l' hl => ⟨l', hl, id⟩⟩

theorem refl (s : State) : KeepsClean a s s := of_l1_eq rfl

theorem of_sameAgents (h : SameAgents s t) : KeepsClean a s t := of_l1_eq (by rw [h.agent])

theorem trans (h : KeepsClean a s t) (g : KeepsClean a t u) : KeepsClean a s u := by
  intro hr
  obtain ⟨ht, hlines⟩ := h hr
  obtain ⟨hu, glines⟩ := g ht
  refine ⟨hu, fun line l'' hl'' => ?_⟩
  obtain ⟨l', hl', g'⟩ := glines line l'' hl''
  obtain ⟨l, hl, h'⟩ := hlines line l' hl'
  exact ⟨l, hl, g' ∘ h'⟩

/-- One line changed so that it stays clean where it is clean. -/
theorem of_kmod {line : Nat} {f : L1Line → L1Line} (hf : ∀ l, l.dirty = [] → (f l).dirty = [])
    (h : (t.agent a).l1 = kmod (s.agent a).l1 line f) : KeepsClean a s t := by
  intro hr
  rw [h]
  refine ⟨rising_kmod hr _ _, fun k l' hl' => ?_⟩
  rw [kget_kmod] at hl'
  split at hl'
  · next hk =>
    obtain ⟨l, hl, rfl⟩ := Option.map_eq_some_iff.mp hl'
    exact ⟨l, hk ▸ hl, hf l⟩
  · exact ⟨l', hl', id⟩

/-- Lines that have left the L1. -/
theorem filter {p : Nat × L1Line → Bool} (h : KeepsClean a s t) (hu : (u.agent a).l1 = (t.agent a).l1.filter p) : KeepsClean a s u := by
  intro hr
  obtain ⟨ht, hlines⟩ := h hr
  rw [hu]
  exact ⟨ht.filter p, fun line l' hl' => hlines line l' (kget_of_kget_filter ht hl')⟩

end KeepsClean

theorem State.mergeLine_keepsClean (s : State) (a line : Nat) : KeepsClean a s (s.mergeLine a line).1 := by
  unfold State.mergeLine
  split
  · exact .refl s
  · split
    · exact .refl s
    · refine Tried.andThen_related (R := KeepsClean a) KeepsClean.trans (.of_sameAgents (s.merge_sameAgents _ _ _ _ _)) fun t => ?_
      exact .of_kmod (fun l _ => l.cleaned_dirty) (by rw [State.modAgent_agent])

theorem State.mergeWc_keepsClean (s : State) (a line : Nat) : KeepsClean a s (s.mergeWc a line).1 := by
  unfold State.mergeWc
  split
  · exact .refl s
  · next w _ =>
    refine Tried.andThen_related (R := KeepsClean a) KeepsClean.trans (.of_sameAgents (s.merge_sameAgents _ _ _ _ _)) fun t => ?_
    have lessened : KeepsClean a t (t.modAgent a fun g => { g with l1 := kmod g.l1 line fun k => k.minus w }) :=
      .of_kmod (fun l hl => L1Line.minus_dirty hl w) (by rw [State.modAgent_agent])
    exact lessened.filter (by rw [State.modAgent_agent, State.modAgent_agent, modLine])

/-! ## A drain (R203) -/

/-- A line merged without a failure holds no dirty byte. -/
theorem State.mergeLine_clean {s : State} {a line : Nat} (h : (s.mergeLine a line).2 = none) {l' : L1Line}
    (hl' : kget ((s.mergeLine a line).1.agent a).l1 line = some l') : l'.dirty = [] := by
  cases hl : kget (s.agent a).l1 line with
  | none =>
    rw [State.mergeLine_of_absent hl, hl] at hl'
    cases hl'
  | some l =>
    by_cases hd : l.dirty = []
    · rw [State.mergeLine_of_clean hl hd, hl] at hl'
      cases hl'
      exact hd
    · rw [State.mergeLine_of_dirty hl hd] at h hl'
      obtain ⟨t, -, ht⟩ := Tried.andThen_ok h
      rw [ht, State.cleanLine_agent] at hl'
      obtain ⟨x, -, rfl⟩ := Option.map_eq_some_iff.mp ((kget_kmod_self _ _ _).symm.trans hl')
      exact x.cleaned_dirty

/-- Lines merged one after another without a failure hold no dirty byte. -/
theorem State.tryAll_mergeLine_clean {a : Nat} (lines : List Nat) {s : State} (hr : Rising (s.agent a).l1)
    (h : (s.tryAll lines fun t line => t.mergeLine a line).2 = none) {line : Nat} (hline : line ∈ lines) {l' : L1Line}
    (hl' : kget ((s.tryAll lines fun t line => t.mergeLine a line).1.agent a).l1 line = some l') : l'.dirty = [] := by
  induction lines generalizing s with
  | nil => cases hline
  | cons k lines ih =>
    have first := State.ok_of_tryAll_cons h
    rw [State.tryAll_cons_of_ok lines first] at h hl'
    obtain ⟨hu, -⟩ := s.mergeLine_keepsClean a k hr
    rcases List.mem_cons.mp hline with rfl | hin
    · have rest : KeepsClean a _ _ := State.tryAll_related (R := KeepsClean a) KeepsClean.trans KeepsClean.refl
        (fun t x => t.mergeLine_keepsClean a x) (s.mergeLine a line).1 lines
      obtain ⟨l, hl, kept⟩ := (rest hu).2 line l' hl'
      exact kept (State.mergeLine_clean first hl)
    · exact ih hu h hin hl'

/-- A drain that succeeds has merged every line of the L1 and then of the write-combining buffer, and has then taken the agent's entries out of
the release records. -/
theorem State.drain_ok {s : State} {a : Nat} (h : (s.drain a).2 = none) :
    ∃ u t, (s.tryAll (kkeys (s.agent a).l1) fun t line => t.mergeLine a line) = (u, none) ∧
      (u.tryAll (kkeys (u.agent a).wc) fun t line => t.mergeWc a line) = (t, none) ∧ SameAgents t (s.drain a).1 ∧
      (s.drain a).1.homes = kmap t.homes fun _ h => { h with rel := h.rel.filter fun e => e.who != .agent a } := by
  unfold State.drain at h ⊢
  obtain ⟨t, ht, hdrain⟩ := Tried.andThen_ok h
  obtain ⟨u, hu, hwc⟩ := Tried.andThen_ok (congrArg Prod.snd ht)
  rw [hdrain]
  exact ⟨u, t, hu, hwc.symm.trans ht, rfl, rfl⟩

/-- A drain that succeeds leaves no dirty byte in the L1. -/
theorem State.drain_clean {s : State} {a : Nat} (hr : Rising (s.agent a).l1) (h : (s.drain a).2 = none) {line : Nat} {l' : L1Line}
    (hl' : kget ((s.drain a).1.agent a).l1 line = some l') : l'.dirty = [] := by
  obtain ⟨u, t, hu, ht, same, -⟩ := State.drain_ok h
  have first : KeepsClean a s (s.tryAll (kkeys (s.agent a).l1) fun t line => t.mergeLine a line).1 :=
    State.tryAll_related (R := KeepsClean a) KeepsClean.trans KeepsClean.refl (fun t x => t.mergeLine_keepsClean a x) _ _
  have second : KeepsClean a u (u.tryAll (kkeys (u.agent a).wc) fun t line => t.mergeWc a line).1 :=
    State.tryAll_related (R := KeepsClean a) KeepsClean.trans KeepsClean.refl (fun t x => t.mergeWc_keepsClean a x) _ _
  have merged := State.tryAll_mergeLine_clean (kkeys (s.agent a).l1) hr (congrArg Prod.snd hu) (line := line)
  rw [hu] at first merged
  rw [ht] at second
  rw [same.agent] at hl'
  obtain ⟨hrising, held⟩ := first hr
  obtain ⟨l, hl, kept⟩ := (second hrising).2 line l' hl'
  obtain ⟨l₀, hl₀, -⟩ := held line l hl
  exact kept (merged (List.mem_map_of_mem (mem_of_kget hl₀)) hl)

/-- A drain that succeeds leaves no entry of the agent in a release record. -/
theorem State.drain_rel {s : State} {a : Nat} (h : (s.drain a).2 = none) (line : Nat) :
    ∀ e ∈ ((s.drain a).1.home line).rel, e.who ≠ .agent a := by
  obtain ⟨-, t, -, -, -, homes⟩ := State.drain_ok h
  intro e he
  rw [State.home, homes, kgetD_kmap] at he
  · exact bne_iff_ne.mp (List.mem_filter.mp he).2
  · rfl

/-! ## A merge of a line that its agent alone has open (R208, R209) -/

/-- No other agent has a line open, whose record is not crowded. -/
structure OpenOnlyBy (h : HomeLine) (a : Nat) : Prop where
  crowded : h.crowded = false
  opens : ∀ e ∈ h.opens, e.agent = a

namespace OpenOnlyBy

variable {h : HomeLine} {a : Nat}

theorem otherAgents (g : OpenOnlyBy h a) : Machine.otherAgents h a = [] := by
  have none_left : (h.opens.filter fun e => e.agent != a && !e.bytes.isEmpty) = [] :=
    List.filter_eq_nil_iff.mpr fun e he => by simp [g.opens e he]
  rw [Machine.otherAgents, none_left]
  rfl

theorem overlapOf (g : OpenOnlyBy h a) (atomic : Bool) (bs : KMap L1Byte) : Machine.overlapOf h a atomic bs = [] := by
  refine List.filter_eq_nil_iff.mpr fun o _ => ?_
  rw [Bool.not_eq_true, List.any_eq_false]
  intro e he
  simp [g.opens e he]

end OpenOnlyBy

/-- Every byte of the merge is applied, and none is reported as a race. -/
theorem Unshared.merge_own {s : State} {line : Nat} (h : Unshared s line) {a : Nat} (g : OpenOnlyBy (s.home line) a) (crew : Option Nat) (va : Nat)
    {bs : KMap L1Byte} (hbs : bs ≠ []) : s.merge a crew line va bs =
      ((bs.foldl (fun (t : State) x => t.applyByte (line * 128 + x.1) x.2) s).modHome line fun h =>
        h.note a false (s.agent a).synced (bs.map fun x => (x.1, x.2.cnt)) s.tick, none) := by
  unfold State.merge
  rw [if_neg (mt List.isEmpty_iff.mp hbs), s.mergeCause_of_isDevice h.device]
  dsimp only
  rw [s.proxyRoom_of_isDevice h.device, State.tellMerge_of_isDevice _ _ _ h.device, g.overlapOf, g.overlapOf, g.otherAgents, g.crowded]
  simp [State.raceEvent]

theorem kget_line_bytes (line : Nat) (m : KMap L1Byte) (o : Nat) :
    kget (m.map fun b => (line * 128 + b.1, b.2.val)) (line * 128 + o) = (kget m o).map L1Byte.val := by
  induction m with
  | nil => rfl
  | cons b m ih =>
    obtain ⟨j, y⟩ := b
    rw [List.map_cons, kget, kget, ih]
    simp only [Nat.add_left_cancel_iff]
    split <;> rfl

theorem kget_line_bytes_ne {line x : Nat} {m : KMap L1Byte} (h : ∀ o ∈ kkeys m, x ≠ line * 128 + o) :
    kget (m.map fun b => (line * 128 + b.1, b.2.val)) x = none := by
  cases hx : kget (m.map fun b => (line * 128 + b.1, b.2.val)) x with
  | none => rfl
  | some v =>
    obtain ⟨b, hb, heq⟩ := List.mem_map.mp (mem_of_kget hx)
    exact absurd (congrArg Prod.fst heq).symm (h b.1 (List.mem_map_of_mem hb))

/-- The bytes of such a merge stand at their home. -/
theorem Unshared.merge_own_placed {s : State} {line : Nat} (h : Unshared s line) (hm : s.memWf) {a : Nat} (g : OpenOnlyBy (s.home line) a)
    (crew : Option Nat) (va : Nat) {bs : KMap L1Byte} (hbs : bs ≠ []) (hn : (kkeys bs).Nodup) (hlt : ∀ o ∈ kkeys bs, o < 128) :
    (s.merge a crew line va bs).2 = none ∧
      Placed s (s.merge a crew line va bs).1 (bs.map fun b => (line * 128 + b.1, b.2.val)) := by
  rw [h.merge_own g crew va hbs]
  exact ⟨rfl, (h.foldl_applyByte_placed hm bs hn fun b hb => hlt b.1 (List.mem_map_of_mem hb)).note ..⟩

/-! ## The expiry of clean bytes (R201) -/

theorem L1Line.mem_young {l : L1Line} {bound : Nat} {b : Nat × L1Byte} :
    b ∈ (l.young bound).bytes ↔ b ∈ l.bytes ∧ (b.2.dirty = true ∨ bound ≤ b.2.tick) := by
  simp [L1Line.young]

/-- The lines after an expiry: the young bytes of each, where there are any. -/
theorem State.mem_expireClean {s : State} {a : Nat} {x : Nat × L1Line} :
    x ∈ ((s.expireClean a).agent a).l1 ↔
      ∃ k ∈ (s.agent a).l1, (k.1, k.2.young (s.tick - 8000)) = x ∧ x.2.bytes ≠ [] := by
  rw [State.expireClean, State.modAgent_agent, List.mem_filter, kmap, List.mem_map]
  simp only [Bool.not_eq_true', List.isEmpty_eq_false_iff]
  constructor
  · rintro ⟨⟨k, hk, hx⟩, hne⟩
    exact ⟨k, hk, hx, hne⟩
  · rintro ⟨k, hk, hx, hne⟩
    exact ⟨⟨k, hk, hx⟩, hne⟩

end Sys2Proof.Machine

namespace Sys2Proof.Proofs

open Sys2Proof.Machine Sys2Proof.Terms

/-- MERGE_AT_HOME of a line that the agent alone has open. -/
theorem mergeAtHome_becomes {s : State} {a line : Nat} {l : L1Line} (hl : kget (s.agent a).l1 line = some l) (hd : l.dirty ≠ [])
    (hn : (kkeys l.dirty).Nodup) (hlt : ∀ o ∈ kkeys l.dirty, o < 128) (hwc : kget (s.agent a).wc line = none) (h : Unshared s line)
    (hm : s.memWf) (g : OpenOnlyBy (s.home line) a) :
    Becomes (.mergeAtHome a line) s fun t =>
      kget (t.agent a).l1 line = some l.cleaned ∧ t.crews = s.crews ∧ t.ops = s.ops ∧ t.scratch = s.scratch ∧
      (∀ o b, kget l.dirty o = some b → t.readPa (line * 128 + o) = b.val) ∧
      ∀ x, (∀ o ∈ kkeys l.dirty, x ≠ line * 128 + o) → t.readPa x = s.readPa x := by
  obtain ⟨ok, placed⟩ := h.merge_own_placed hm g l.writer l.va hd hn hlt
  obtain ⟨u, hu⟩ : ∃ u, s.merge a l.writer line l.va l.dirty = (u, none) := ⟨_, Prod.ext rfl ok⟩
  have same := s.merge_sameAgents a l.writer line l.va l.dirty
  rw [hu] at placed same
  have merged : s.mergeLine a line = (u.cleanLine a line, none) := by
    rw [State.mergeLine_of_dirty hl hd, hu]
    rfl
  have cleaned : (u.cleanLine a line).agent a = { s.agent a with l1 := kmod (s.agent a).l1 line L1Line.cleaned } := by
    rw [State.cleanLine_agent, same.agent]
  have after : Placed s (u.cleanLine a line) (l.dirty.map fun b => (line * 128 + b.1, b.2.val)) := placed.modAgent a _
  have runs : exec (.mergeAtHome a line) s = .next (u.cleanLine a line) := by
    change execMergeAtHome a line s = _
    rw [execMergeAtHome, merged, State.mergeWc_of_absent (by rw [cleaned]; exact hwc),
      State.orSnoop_of_noSnoop (noSnoop_of_hostOut after.hostOut)]
  refine ⟨u.cleanLine a line, runs, ?_, after.work.crews, after.work.ops, after.work.scratch, fun o b hb => ?_, fun x hx => ?_⟩
  · rw [cleaned, kget_kmod_self, hl]
    rfl
  · rw [after.reads, kget_line_bytes, hb]
    rfl
  · rw [after.reads, kget_line_bytes_ne hx]
    rfl

/-- DRAIN_REQUEST that nothing holds up. -/
theorem drainRequest_becomes {s : State} {a : Nat} (hr : Rising (s.agent a).l1) (hsnoop : NoSnoop s (s.drain a).1)
    (hok : (s.drain a).2 = none) :
    Becomes (.drainRequest a) s fun t => (∀ line l, kget (t.agent a).l1 line = some l → l.dirty = []) ∧
      ∀ line, ∀ e ∈ (t.home line).rel, e.who ≠ .agent a := by
  refine ⟨(s.drain a).1, ?_, fun line l hl => State.drain_clean hr hok hl, State.drain_rel hok⟩
  change execDrainRequest a s = _
  rw [execDrainRequest, State.orSnoop_of_noSnoop hsnoop]

/-- CLEAN_BYTE_EXPIRY. -/
theorem cleanByteExpiry_becomes (s : State) (a : Nat) :
    Becomes (.cleanByteExpiry a) s fun t =>
      t = { s with agents := t.agents } ∧ (∀ k, k ≠ a → t.agent k = s.agent k) ∧ (t.agent a).wc = (s.agent a).wc ∧
      (t.agent a).releases = (s.agent a).releases ∧
      (∀ l ∈ (t.agent a).l1, ∀ b ∈ l.2.bytes, b.2.dirty = true ∨ s.tick - 8000 ≤ b.2.tick) ∧
      (∀ l ∈ (t.agent a).l1, ∃ k ∈ (s.agent a).l1, k.1 = l.1 ∧ ∀ b ∈ l.2.bytes, b ∈ k.2.bytes) ∧
      ∀ l ∈ (s.agent a).l1, ∀ b ∈ l.2.bytes, (b.2.dirty = true ∨ s.tick - 8000 ≤ b.2.tick) →
        ∃ k ∈ (t.agent a).l1, k.1 = l.1 ∧ b ∈ k.2.bytes := by
  refine ⟨s.expireClean a, rfl, rfl, fun k hk => State.modAgent_agent_ne s _ hk, ?_, ?_, fun l hl b hb => ?_, fun l hl => ?_,
    fun l hl b hb young => ?_⟩
  · rw [State.expireClean, State.modAgent_agent]
  · rw [State.expireClean, State.modAgent_agent]
  · obtain ⟨k, -, rfl, -⟩ := State.mem_expireClean.mp hl
    exact (L1Line.mem_young.mp hb).2
  · obtain ⟨k, hk, rfl, -⟩ := State.mem_expireClean.mp hl
    exact ⟨k, hk, rfl, fun b hb => (L1Line.mem_young.mp hb).1⟩
  · have stays := L1Line.mem_young.mpr ⟨hb, young⟩
    exact ⟨_, State.mem_expireClean.mpr ⟨l, hl, rfl, List.ne_nil_of_mem stays⟩, rfl, stays⟩

/-- Settles O44: a merge leaves the caches as they are, so a merged line is the line cleaned, and what a drain has cleaned stays clean. -/
theorem agentEvents : Obligations.AgentEvents := by
  unfold Obligations.AgentEvents
  refine ⟨?_, ?_, cleanByteExpiry_becomes⟩
  · intro s a line l hl hd hn hlt hwc hdev hm hshared hcrowded hopens
    exact mergeAtHome_becomes hl hd hn hlt hwc ⟨hdev, hshared⟩ hm ⟨hcrowded, hopens⟩
  · intro s a hr hsnoop hok
    exact drainRequest_becomes hr hsnoop hok

end Sys2Proof.Proofs
end

section
/-! PROOF. Words that put an operation of an engine into flight (R15, R132): the count on a token of fibres of the group, the operation's record,
and the end of the word. -/

namespace Sys2Proof.Machine

open Sys2Proof.Terms

/-! ## The count on a token (R132) -/

theorem Fibre.countUp_tok_self (f : Fibre) (k : Nat) : (f.countUp k).tok k = { f.tok k with count := (f.tok k).count + 1 } :=
  kgetD_kset_self _ _ _ _

theorem Fibre.countUp_tok_ne (f : Fibre) {k n : Nat} (h : n ≠ k) : (f.countUp k).tok n = f.tok n := kgetD_kset_ne _ _ _ h

/-- From a crew to its later state fibres of a list count one operation more on a token; nothing else has changed. -/
structure CountedUp (c d : Crew) (k : Nat) (fids : List Nat) : Prop where
  same : d = { c with fibres := d.fibres }
  fibres : ∀ f, kget d.fibres f = if f ∈ fids then (kget c.fibres f).map (Fibre.countUp · k) else kget c.fibres f

theorem CountedUp.nil (c : Crew) (k : Nat) : CountedUp c c k [] := ⟨rfl, fun _ => rfl⟩

theorem CountedUp.cons {c d : Crew} {k n : Nat} {fids : List Nat} (hn : n ∉ fids)
    (h : CountedUp (c.modFibre n fun f => f.countUp k) d k fids) : CountedUp c d k (n :: fids) where
  same := h.same
  fibres f := by
    rw [h.fibres f]
    by_cases hf : f = n
    · subst hf
      simp [Crew.modFibre, hn]
    · simp [Crew.modFibre, hf]

/-- The counts of fibres, none listed twice, raised one after another. -/
theorem State.countUp_foldl {crew : Nat} (k : Nat) {fids : List Nat} (hn : fids.Nodup) {s : State} {c : Crew} (hc : kget s.crews crew = some c) :
    ∃ d, CrewStep s (fids.foldl (fun (t : State) f => t.modFibre crew f fun x => x.countUp k) s) crew d ∧ CountedUp c d k fids := by
  induction fids generalizing s c with
  | nil => exact ⟨c, .refl hc, .nil c k⟩
  | cons n fids ih =>
    obtain ⟨hnot, hn⟩ := List.nodup_cons.mp hn
    have first := CrewStep.modFibre hc n fun x => x.countUp k
    have ⟨_, _, hfirst⟩ := first
    obtain ⟨d, rest, counted⟩ := ih hn hfirst
    exact ⟨d, first.trans rest, counted.cons hnot⟩

/-- Fibres none of which has a full token are all counted, and none is refused. -/
theorem State.countOn_all {s : State} {i : Issue} {c : Crew} {k : Nat} {fids : List Nat} (hc : kget s.crews i.crew = some c)
    (hcount : ∀ f ∈ fids, ((c.fibre f).tok k).count < 63) :
    s.countOn i k fids = (fids.foldl (fun (t : State) f => t.modFibre i.crew f fun x => x.countUp k) s, fids, []) := by
  have parts : (fids.filter fun f => !decide (63 ≤ ((c.fibre f).tok k).count)) = fids :=
    List.filter_eq_self.mpr fun f hf => by simpa using hcount f hf
  have full : (fids.filter fun f => decide (63 ≤ ((c.fibre f).tok k).count)) = [] :=
    List.filter_eq_nil_iff.mpr fun f hf => by simpa using hcount f hf
  unfold State.countOn
  rw [State.crew_of_kget hc]
  simp only [parts, full, List.map_nil]

/-- What a word's count changes: the fibres that it names, in its crew. -/
theorem countOn_taken {s : State} {i : Issue} {c : Crew} {k : Nat} {fids : List Nat} (hI : Issues s i c) (hn : fids.Nodup)
    (hcount : CanCount c k fids) :
    ∃ u d, (taken s).countOn i k fids = (u, fids, []) ∧ CrewStep (taken s) u i.crew d ∧ CountedUp c d k fids := by
  obtain ⟨-, hc, -⟩ := hI
  obtain ⟨-, hfree⟩ := hcount
  obtain ⟨d, step, counted⟩ := State.countUp_foldl (s := taken s) (crew := i.crew) k hn hc
  exact ⟨_, d, State.countOn_all (s := taken s) hc hfree, step, counted⟩

/-! ## An operation put into flight (R15) -/

/-- From a state to a later one an operation of an engine has gone into flight: it has its record, and the fibres and G registers of the crew and
the memories are unchanged. -/
structure EngineLaunch (u v : State) (i : Issue) (d e : Crew) (id : Nat) (o : Op) : Prop where
  crew : kget v.crews i.crew = some e
  fibres : e.fibres = d.fibres
  g : e.g = d.g
  op : kget v.ops id = some o
  dev : v.dev = u.dev
  host : v.host = u.host
  scratch : v.scratch = u.scratch

/-- Open entries closed after that change none of it. -/
theorem EngineLaunch.closed {u v t : State} {i : Issue} {d e : Crew} {id : Nat} {o : Op} (h : EngineLaunch u v i d e id o) (g : Closed v t) :
    EngineLaunch u t i d e id o where
  crew := by rw [g.eq]; exact h.crew
  fibres := h.fibres
  g := h.g
  op := by rw [g.eq]; exact h.op
  dev := by rw [g.eq]; exact h.dev
  host := by rw [g.eq]; exact h.host
  scratch := by rw [g.eq]; exact h.scratch

/-- At the end of a word the fibres counted stand at the next word. -/
theorem CountedUp.endWord {u : State} {i : Issue} {c d e : Crew} {k : Nat} {fids : List Nat} (counted : CountedUp c d k fids)
    (hexist : ∀ f ∈ i.grp.fids, (kget c.fibres f).isSome = true) (he : kget u.crews i.crew = some e) (hfibres : e.fibres = d.fibres) :
    ∃ y, CrewStep u (u.endWord i i.grp.latches false []) i.crew y ∧ y = { e with fibres := y.fibres, groups := y.groups } ∧
      Counted i c y k fids := by
  obtain ⟨y, step, same, moved, -⟩ := State.endWord_step he i.grp.latches
  refine ⟨y, step, same, fun f hf => ?_⟩
  obtain ⟨x, hx⟩ := Option.isSome_iff_exists.mp (hexist f hf)
  rw [moved f, if_pos hf, hfibres, counted.fibres f, hx, Crew.fibre_of_kget hx]
  by_cases hfl : f ∈ fids
  · rw [if_pos hfl]
    exact ⟨_, rfl, by rw [if_pos hfl]; exact ⟨rfl, x.countUp_tok_self k, fun n hne => x.countUp_tok_ne hne⟩⟩
  · rw [if_neg hfl]
    exact ⟨_, rfl, by rw [if_neg hfl]; rfl⟩

/-- A word that counts on a token of its fibres, puts an operation into flight for them, and ends. -/
theorem engineStep_of {w : Instr} {s u v : State} {i : Issue} {c d e : Crew} {k id : Nat} {fids : List Nat} {o : Op}
    {after : State → Crew → Nat → Op → Prop} (hI : Issues s i c) (step : CrewStep (taken s) u i.crew d) (counted : CountedUp c d k fids)
    (launch : EngineLaunch u v i d e id o) (hissuer : o.issuer = i.crew) (hstage : o.stage = .issued) (howners : o.owners = ownersOf i.crew k fids)
    (hexec : exec w s = .next (v.endWord i i.grp.latches false []))
    (hafter : ∀ t y, t = { v with crews := t.crews } → y = { e with fibres := y.fibres, groups := y.groups } → after t y id o) :
    EngineStep w s i c k fids after := by
  obtain ⟨-, -, -, hexist⟩ := hI
  obtain ⟨y, ⟨hstate, -, hy⟩, same, hcounted⟩ := counted.endWord hexist launch.crew launch.fibres
  have ⟨hu, _, _⟩ := step
  refine ⟨_, y, id, o, hexec, hy, ?op, hissuer, hstage, howners, hcounted, ?g, ?dev, ?host, ?scratch, hafter _ y hstate same⟩
  case op => rw [hstate]; exact launch.op
  case g => rw [same]; exact launch.g.trans (by rw [counted.same])
  case dev => rw [hstate]; exact launch.dev.trans (by rw [hu]; rfl)
  case host => rw [hstate]; exact launch.host.trans (by rw [hu]; rfl)
  case scratch => rw [hstate]; exact launch.scratch.trans (by rw [hu]; rfl)

/-- A word that executes once for its group, whose operands pass its checks and whose fibres can all count (R132). -/
theorem engineWord_next {α : Type} {k : Nat} {regs : Env → List Nat} {plan : Env → Except LaneErr α}
    {launch : α → List Nat → Issue → State → State} {s : State} {i : Issue} {c : Crew} {a : α} (hI : Issues s i c) (hcount : CanCount c k i.grp.fids)
    (hsplit : (envAt s i).splitRead (regs (envAt s i)) = false) (hplan : plan (envAt s i) = .ok a) :
    ∃ u d, CrewStep (taken s) u i.crew d ∧ CountedUp c d k i.grp.fids ∧
      engineWord k regs plan launch s = .next ((launch a i.grp.fids i u).endWord i i.grp.latches false []) := by
  have ⟨hcur, _, hnodup, _⟩ := hI
  have ⟨hne, _⟩ := hcount
  obtain ⟨u, d, hon, step, counted⟩ := countOn_taken hI hnodup hcount
  refine ⟨u, d, step, counted, ?_⟩
  have env : envOf i (taken s) = envAt s i := rfl
  rw [engineWord, withIssue_next hcur]
  simp only [env, hsplit, hplan, hon, List.isEmpty_eq_false_iff.mpr hne, Bool.false_eq_true, if_false]

end Sys2Proof.Machine
end

section
/-! PROOF. Copy words (R242 to R250): a copy joins its crew's queue, and XGATHER holds the row address of each selected lane. -/

namespace Sys2Proof.Machine

open Sys2Proof.Terms

/-! ## A copy joins its crew's queue (R251) -/

/-- The record of a copy put into flight. -/
def copyRecord (i : Issue) (k : Nat) (o : CopyOp) (bar : Option Nat) (fids : List Nat) : Op :=
  { kind := .copy o, issuer := i.crew, core := i.core, word := i.word, modw := i.modw, owners := ownersOf i.crew k fids, bar := bar }

/-- The state in which a copy has its record and is the last of its crew's queue. -/
def State.queueCopy (u : State) (i : Issue) (k : Nat) (o : CopyOp) (bar : Option Nat) (fids : List Nat) : State :=
  { u.fresh.2 with ops := kset u.ops u.nextId (copyRecord i k o bar fids) }.modCrew i.crew fun x => { x with copies := x.copies ++ [u.nextId] }

/-- An XSTORE follows the fences of its fibres (R173, R219), which closes open entries alone. -/
theorem State.launchCopy_closed (u : State) (i : Issue) (k : Nat) (o : CopyOp) (bar : Option Nat) (fids : List Nat) :
    Closed (u.queueCopy i k o bar fids) (u.launchCopy i k o bar fids) := by
  change Closed _ (if o.fn = fnXstore then (u.queueCopy i k o bar fids).synchronise _ _ _ _ else u.queueCopy i k o bar fids)
  split
  · exact State.synchronise_closed _ _ _ _ _
  · exact .refl _

theorem State.launchCopy_launch {u : State} {i : Issue} {d : Crew} (hd : kget u.crews i.crew = some d) (k : Nat) (o : CopyOp) (bar : Option Nat)
    (fids : List Nat) : EngineLaunch u (u.launchCopy i k o bar fids) i d { d with copies := d.copies ++ [u.nextId] } u.nextId
      (copyRecord i k o bar fids) := by
  have queued : EngineLaunch u (u.queueCopy i k o bar fids) i d { d with copies := d.copies ++ [u.nextId] } u.nextId (copyRecord i k o bar fids) :=
    ⟨(kget_kmod_self ..).trans (congrArg _ hd), rfl, rfl, kget_kset_self .., rfl, rfl, rfl⟩
  exact queued.closed (u.launchCopy_closed i k o bar fids)

/-! ## The unguarded words (R242) -/

/-- A word of the copy rules is the shared meaning with its function, token, operand and G register. -/
theorem exec_of_copyRule {m : Mod} {w : Instr} {fn k n : Nat} {a : Option Sel} {pair : Bool} (h : copyRule m w = some (fn, k, a, n, pair)) :
    ∃ p : Env → Bool, exec w = copyWord fn k a n p ∧ ∀ e : Env, e.iss.mod = m → p e = pair := by
  unfold copyRule at h
  split at h <;> cases h
  case h_1 => exact ⟨_, rfl, fun _ _ => rfl⟩
  case h_2 => exact ⟨_, rfl, fun _ he => congrArg Mod.rsd he⟩
  case h_3 => exact ⟨_, rfl, fun _ _ => rfl⟩
  case h_4 => exact ⟨_, rfl, fun _ _ => rfl⟩
  case h_5 => exact ⟨_, rfl, fun _ _ => rfl⟩

/-- The G registers that an unguarded copy word reads. -/
def copyRegs (a : Option Sel) (n : Nat) (pair : Bool) : List Nat :=
  (match a with | some x => selRegs x 1 | none => []) ++ if pair then [n, n + 1] else [n]

/-- An unguarded copy word whose operands pass the checks: its copy is launched for every fibre of the group. -/
theorem copyWord_next {fn k n : Nat} {a : Option Sel} {p : Env → Bool} {s : State} {i : Issue} {c : Crew} {o : CopyOp} {bar : Option Nat}
    (hI : Issues s i c) (hcount : CanCount c k i.grp.fids)
    (hsplit : (envAt s i).splitRead (copyRegs a n (p (envAt s i))) = false)
    (hplan : copyPlan fn a n (p (envAt s i)) (envAt s i) = .ok (o, bar)) :
    ∃ u d, CrewStep (taken s) u i.crew d ∧ CountedUp c d k i.grp.fids ∧
      copyWord fn k a n p s = .next ((u.launchCopy i k o bar i.grp.fids).endWord i i.grp.latches false []) := by
  unfold copyWord
  exact engineWord_next (regs := fun e => copyRegs a n (p e)) (a := (o, bar)) hI hcount hsplit hplan

/-! ## XGATHER (R248) -/

theorem pairOf_toNat (p : Word × Word) : (pairOf p.1 p.2).toNat = pairNat p := by
  rw [pairOf, BitVec.toNat_append, ← Nat.shiftLeft_add_eq_or_of_lt p.1.isLt, Nat.shiftLeft_eq, pairNat]
  omega

theorem Env.splitRead_append (e : Env) (l m : List Nat) : e.splitRead (l ++ m) = (e.splitRead l || e.splitRead m) := by
  rw [Env.splitRead, List.any_append, Bool.and_or_distrib_left]
  rfl

/-- Two operands in the budget, none of whose registers is split, pass the checks of the whole group. -/
theorem groupCheck_two {e : Env} {a b : Sel} {m n d width : Nat} (ha : selFits a e.crew.b m = true) (hb : selFits b e.crew.b n = true)
    (hd : d + width ≤ e.crew.b) (hasplit : e.splitRead (selRegs a m) = false) (hbsplit : e.splitRead (selRegs b n) = false) :
    groupCheck e [(a, m), (b, n)] d width = none := by
  have hfits : vFits e.crew.b d width = true := decide_eq_true hd
  have hsplit : e.splitRead (selRegs a m ++ selRegs b n) = false := by rw [e.splitRead_append, hasplit, hbsplit]; rfl
  simp [groupCheck, ha, hb, hfits, hsplit]

/-- Of what a list of fibres maps to, that of the fibres of the list is all. -/
theorem filter_contains_keys {α : Type} (l : List Nat) (g : Nat → α) :
    ((l.map fun f => (f, g f)).filter fun r => l.contains r.1) = l.map fun f => (f, g f) :=
  List.filter_eq_self.mpr fun r hr => by
    obtain ⟨f, hf, rfl⟩ := List.mem_map.mp hr
    exact List.contains_iff_mem.mpr hf

/-- An XGATHER whose operands pass the checks and whose selected lanes all read their row addresses. -/
theorem execXgather_next {h : GEngHdr} {s : State} {i : Issue} {c : Crew} {o : CopyOp} {bar : Option Nat} {X : Nat → Word × Word}
    (hI : Issues s i c) (hbad : ((envAt s i).lanes h.g).bad = []) (hcount : CanCount c h.k.val ((envAt s i).lanes h.g).sel)
    (hreads : ReadsPair s i c h.g h.a X) (hsplit : (envAt s i).splitRead [h.b.val, h.b.val + 1] = false) (hb : h.b.val < 31)
    (hplan : copyPlan 3 none h.b.val true (envAt s i) = .ok (o, bar)) :
    ∃ u d, CrewStep (taken s) u i.crew d ∧ CountedUp c d h.k.val ((envAt s i).lanes h.g).sel ∧
      exec (.xgather h) s = .next ((u.launchCopy i h.k.val
        { o with lanes := ((envAt s i).lanes h.g).sel.map fun f => (f % 64, pairNat (X f)) } bar ((envAt s i).lanes h.g).sel).endWord
          i i.grp.latches false []) := by
  obtain ⟨hbudget, hfits, hasplit, hX⟩ := hreads
  have hcrew := envAt_crew hI
  have ⟨hcur, _, hnodup, _⟩ := hI
  have ⟨hne, _⟩ := hcount
  obtain ⟨hselNodup, -⟩ := Env.lanes_spec (envAt s i) h.g hnodup hbad
  obtain ⟨u, d, hon, step, counted⟩ := countOn_taken hI hselNodup hcount
  refine ⟨u, d, step, counted, ?_⟩
  have env : envOf i (taken s) = envAt s i := rfl
  have check : groupCheck (envAt s i) [(h.a, 2), (.g h.b, if h.b.val < 31 then 2 else 1)] 0 1 = none := by
    rw [if_pos hb]
    exact groupCheck_two (hcrew ▸ hfits) rfl (hcrew ▸ hbudget) hasplit hsplit
  have rows : (((envAt s i).lanes h.g).sel.map fun f => (f, (envAt s i).readPair ((envAt s i).crew.fibre f) f h.a 0)) =
      ((envAt s i).lanes h.g).sel.map fun f => (f, .ok (X f)) :=
    List.map_congr_left fun f hf => by rw [hcrew, hX f hf]
  have counts : (((envAt s i).lanes h.g).sel.map fun f => (f, pairNat (X f))).map Prod.fst = ((envAt s i).lanes h.g).sel := by
    simp [Function.comp_def]
  change execXgather h s = _
  rw [execXgather, withIssue_next hcur]
  simp only [env, fnXgather, check, hplan]
  rw [rows]
  simp only [List.filterMap_map, Function.comp_def, pairOf_toNat, List.filterMap_eq_map', counts, hon, filter_contains_keys,
    List.isEmpty_eq_false_iff.mpr hne, Bool.false_eq_true, if_false, List.map_map, laneOf, hbad, List.filterMap_none, List.append_nil]

end Sys2Proof.Machine

namespace Sys2Proof.Proofs

open Sys2Proof.Machine Sys2Proof.Terms

/-- Settles O30: a copy word counts on its token, and its copy joins the crew's queue; XGATHER does the same for its selected lanes with the
addresses that they read. -/
theorem copyWords : Obligations.CopyWords := by
  unfold Obligations.CopyWords
  refine ⟨?plain, ?gather⟩
  case plain =>
    intro w fn k a n pair s i c o bar hrule hI hcount hsplit hplan
    obtain ⟨p, hexec, hp⟩ := exec_of_copyRule hrule
    obtain rfl := hp (envAt s i) rfl
    obtain ⟨u, d, step, counted, hword⟩ := copyWord_next hI hcount hsplit hplan
    have ⟨_, _, hd⟩ := step
    refine engineStep_of hI step counted (State.launchCopy_launch hd k o bar i.grp.fids) rfl rfl rfl ((congrFun hexec s).trans hword) ?_
    intro t y _ same
    exact ⟨rfl, rfl, by rw [same, counted.same]⟩
  case gather =>
    intro h s i c o bar X hI hbad hcount hreads hsplit hb hplan
    obtain ⟨u, d, step, counted, hexec⟩ := execXgather_next hI hbad hcount hreads hsplit hb hplan
    have ⟨_, _, hd⟩ := step
    refine engineStep_of hI step counted (State.launchCopy_launch hd h.k.val _ bar _) rfl rfl rfl hexec ?_
    intro t y _ same
    exact ⟨rfl, rfl, by rw [same, counted.same]⟩

end Sys2Proof.Proofs
end

section
/-! PROOF. Matrix words (R259 to R269): MCLAIM begins a claim and asks for a pair, the words of a claim join its queue, and MSTAT enters none. -/

namespace Sys2Proof.Machine

open Sys2Proof.Terms

/-! ## The launch of a matrix operation (R259, R260, R269) -/

/-- The record of a matrix operation put into flight. -/
def matRecord (i : Issue) (k : Nat) (m : MatOp) (bar : Option Nat) (fids : List Nat) : Op :=
  { kind := .matrix m none, issuer := i.crew, core := i.core, word := i.word, modw := i.modw, owners := ownersOf i.crew k fids, bar := bar }

/-- The state in which an operation has its record, under the next number. -/
def State.recordOp (u : State) (o : Op) : State := { u.fresh.2 with ops := kset u.ops u.nextId o }

/-- An operation has its record, and its crew has changed outside its fibres and G registers. -/
theorem State.recordOp_launch {u : State} {i : Issue} {d : Crew} (hd : kget u.crews i.crew = some d) (o : Op) (f : Crew → Crew)
    (hfibres : (f d).fibres = d.fibres) (hg : (f d).g = d.g) :
    EngineLaunch u ((u.recordOp o).modCrew i.crew f) i d (f d) u.nextId o where
  crew := (kget_kmod_self ..).trans (congrArg _ hd)
  fibres := hfibres
  g := hg
  op := kget_kset_self ..
  dev := rfl
  host := rfl
  scratch := rfl

/-- A cluster changed after a launch changes nothing of it. -/
theorem EngineLaunch.modCluster {u v : State} {i : Issue} {d e : Crew} {id : Nat} {o : Op} (h : EngineLaunch u v i d e id o) (n : Nat)
    (f : Cluster → Cluster) : EngineLaunch u (v.modCluster n f) i d e id o :=
  ⟨h.crew, h.fibres, h.g, h.op, h.dev, h.host, h.scratch⟩

/-- The crew whose new claim holds its MCLAIM. -/
def Crew.beginClaim (id : Nat) (c : Crew) : Crew := { c with claims := c.claims ++ [⟨[id], none, none, none, [], false⟩] }

/-- The crew whose claim has an operation of a function as the last of its queue. -/
def Crew.joinClaim (fn id : Nat) (c : Crew) : Crew :=
  c.modClaim (fun q => !q.mrel) fun q => { q with queue := q.queue ++ [id], mrel := fn == fnMrel }

/-- Only a claim whose MREL has not been issued takes an operation in. -/
theorem Crew.joinClaim_claims (fn id : Nat) (c : Crew) : (c.joinClaim fn id).claims =
    c.claims.map fun q => if q.mrel then q else { q with queue := q.queue ++ [id], mrel := decide (fn = 1) } :=
  List.map_congr_left fun q _ => by
    have hfn : (fn == fnMrel) = decide (fn = 1) := rfl
    cases hq : q.mrel <;> simp [hq, hfn]

/-- MCLAIM: the claim begins with it, and the engine of the crew's cluster is asked for a pair (R259). -/
theorem State.launchMat_mclaim {u : State} {i : Issue} {d : Crew} {m : MatOp} (hd : kget u.crews i.crew = some d) (hm : m.fn = fnMclaim) (k : Nat)
    (bar : Option Nat) (fids : List Nat) :
    EngineLaunch u (u.launchMat i k m bar fids) i d (d.beginClaim u.nextId) u.nextId (matRecord i k m bar fids) ∧
      ((u.launchMat i k m bar fids).cluster (clusterOf i.core)).pending = (u.cluster (clusterOf i.core)).pending ++ [i.crew] := by
  have hlaunch : u.launchMat i k m bar fids = ((u.recordOp (matRecord i k m bar fids)).modCrew i.crew (Crew.beginClaim u.nextId)).modCluster
      (clusterOf i.core) fun x => { x with pending := x.pending ++ [i.crew] } := if_pos hm
  rw [hlaunch]
  exact ⟨(State.recordOp_launch hd _ (Crew.beginClaim u.nextId) rfl rfl).modCluster _ _, congrArg Cluster.pending (kgetD_kset_self ..)⟩

/-- Another operation is the last of the queue of its crew's claim (R260). -/
theorem State.launchMat_joins {u : State} {i : Issue} {d : Crew} {m : MatOp} (hd : kget u.crews i.crew = some d) (hm : m.fn ≠ fnMclaim) (k : Nat)
    (bar : Option Nat) (fids : List Nat) :
    EngineLaunch u (u.launchMat i k m bar fids) i d (d.joinClaim m.fn u.nextId) u.nextId (matRecord i k m bar fids) := by
  have hlaunch : u.launchMat i k m bar fids = (u.recordOp (matRecord i k m bar fids)).modCrew i.crew (Crew.joinClaim m.fn u.nextId) := if_neg hm
  rw [hlaunch]
  exact State.recordOp_launch hd _ (Crew.joinClaim m.fn u.nextId) rfl rfl

/-- G registers marked pending at issue (R138) are a matter of the crew's pending marks alone. -/
theorem Crew.markG_eq (c : Crew) (strict : Bool) (id : Nat) (regs fids : List Nat) (k : Nat) :
    c.markG strict id regs fids k = { c with gpend := (c.markG strict id regs fids k).gpend } := by
  cases strict <;> rfl

/-! ## The words (R262 to R265) -/

/-- The plan of a matrix word of a claim, with its operand and G register if it has them. -/
def matPlanOf (fn : Nat) : Option (Sel × Nat) → Env → Except LaneErr (MatOp × Option Nat)
  | none => matBare fn
  | some (a, n) => matPlan fn a n

/-- The G registers that such a word reads. -/
def matRegs (fn : Nat) : Option (Sel × Nat) → List Nat
  | none => []
  | some (a, n) => selRegs a 1 ++ if fn = fnMstream then if n = 31 then [31] else [n, n + 1] else [n]

/-- A word of the matrix rules is the shared meaning with its function, token and operands. -/
theorem exec_of_matrixRule {w : Instr} {fn k : Nat} {x : Option (Sel × Nat)} (h : matrixRule w = some (fn, k, x)) :
    fn ≠ fnMclaim ∧ exec w = matWord k (matRegs fn x) (matPlanOf fn x) := by
  unfold matrixRule at h
  split at h <;> cases h
  case h_1 => exact ⟨by decide, rfl⟩
  case h_2 => exact ⟨by decide, rfl⟩
  case h_3 => exact ⟨by decide, rfl⟩
  case h_4 => exact ⟨by decide, rfl⟩
  case h_5 => exact ⟨by decide, rfl⟩
  case h_6 => exact ⟨by decide, rfl⟩

/-- The operation of a word without operands. -/
def bareOp (fn : Nat) : MatOp := ⟨fn, false, false, false, 0, 0, 0⟩

/-- MCLAIM passes its check where the crew has no claim (R265). -/
theorem matBare_mclaim {e : Env} (h : e.crew.hasClaim = false) : matBare fnMclaim e = .ok (bareOp fnMclaim, none) := by
  simp [matBare, bareOp, h]

/-- A word without operands that passes its check is an operation of its function (R265). -/
theorem matBare_fn {fn : Nat} {e : Env} {m : MatOp} {bar : Option Nat} (h : matBare fn e = .ok (m, bar)) : m.fn = fn := by
  unfold matBare at h
  split at h
  · cases h
  · split at h <;> cases h
    rfl

/-- A word with operands that passes its checks is an operation of its function, and its register pair exists (R265). -/
theorem matPlan_fn {fn n : Nat} {a : Sel} {e : Env} {m : MatOp} {bar : Option Nat} (h : matPlan fn a n e = .ok (m, bar)) :
    m.fn = fn ∧ ¬ (fn = fnMstream ∧ n = 31) := by
  unfold matPlan at h
  split at h
  · cases h
  · split at h
    · cases h
    · rename_i hpair
      split at h
      · cases h
      · cases h
      · dsimp only at h
        split at h <;> cases h
        exact ⟨rfl, hpair⟩

/-- The registers read where a register pair exists. -/
theorem matRegs_some {fn n : Nat} (a : Sel) (h : ¬ (fn = fnMstream ∧ n = 31)) :
    matRegs fn (some (a, n)) = selRegs a 1 ++ if fn = 4 then [n, n + 1] else [n] := by
  change selRegs a 1 ++ (if fn = 4 then if n = 31 then [31] else [n, n + 1] else [n]) = _
  by_cases hfn : fn = 4
  · rw [if_pos hfn, if_pos hfn, if_neg fun hn => h ⟨hfn, hn⟩]
  · rw [if_neg hfn, if_neg hfn]

/-- A matrix word that passes its checks: its operation is launched for every fibre of the group. -/
theorem matWord_next {k : Nat} {regs : List Nat} {plan : Env → Except LaneErr (MatOp × Option Nat)} {s : State} {i : Issue} {c : Crew} {m : MatOp}
    {bar : Option Nat} (hI : Issues s i c) (hcount : CanCount c k i.grp.fids) (hsplit : (envAt s i).splitRead regs = false)
    (hplan : plan (envAt s i) = .ok (m, bar)) :
    ∃ u d, CrewStep (taken s) u i.crew d ∧ CountedUp c d k i.grp.fids ∧
      matWord k regs plan s = .next ((u.launchMat i k m bar i.grp.fids).endWord i i.grp.latches false []) :=
  engineWord_next (regs := fun _ => regs) (a := (m, bar)) hI hcount hsplit hplan

theorem Env.splitRead_nil (e : Env) : e.splitRead [] = false := Bool.and_false _

/-- A word that joins the queue of its crew's claim (R260). -/
theorem matWord_joins {w : Instr} {fn k : Nat} {regs : List Nat} {plan : Env → Except LaneErr (MatOp × Option Nat)} {s : State} {i : Issue}
    {c : Crew} {m : MatOp} {bar : Option Nat} (hI : Issues s i c) (hcount : CanCount c k i.grp.fids) (hexec : exec w = matWord k regs plan)
    (hsplit : (envAt s i).splitRead regs = false) (hplan : plan (envAt s i) = .ok (m, bar)) (hm : m.fn = fn) (hfn : fn ≠ fnMclaim) :
    EngineStep w s i c k i.grp.fids fun _ c' id o => o.kind = .matrix m none ∧ o.bar = bar ∧
      c'.claims = c.claims.map fun q => if q.mrel then q else { q with queue := q.queue ++ [id], mrel := decide (fn = 1) } := by
  subst hm
  obtain ⟨u, d, step, counted, hword⟩ := matWord_next hI hcount hsplit hplan
  have ⟨_, _, hd⟩ := step
  refine engineStep_of hI step counted (State.launchMat_joins hd hfn k bar i.grp.fids) rfl rfl rfl ((congrFun hexec s).trans hword) ?_
  intro t y _ same
  refine ⟨rfl, rfl, ?_⟩
  rw [same, ← show d.claims = c.claims by rw [counted.same]]
  exact d.joinClaim_claims m.fn u.nextId

/-- The operation of an MSTAT on token K[k] for G[n]. -/
def mstatOp (k n : Nat) : MatOp := ⟨fnMstat, false, false, false, 0, n, k⟩

/-- MSTAT, where the register that it will write is free (R86, R138). -/
theorem execMstat_next {k : Fin 16} {n : Fin 32} {s : State} {i : Issue} {c : Crew} (hI : Issues s i c) (hcount : CanCount c k.val i.grp.fids)
    (hwrite : MayWriteG s i c n.val) :
    ∃ u d, CrewStep (taken s) u i.crew d ∧ CountedUp c d k.val i.grp.fids ∧
      exec (.mstat k n) s = .next (((u.recordOp (matRecord i k.val (mstatOp k.val n.val) none i.grp.fids)).modCrew i.crew
        fun x => x.markG i.strict u.nextId [n.val] i.grp.fids k.val).endWord i i.grp.latches false []) := by
  have hfree : (envAt s i).strictGs [n.val] = none := by
    have hnone : (envAt s i).crew.strictG (envAt s i).iss.strict n.val (envAt s i).iss.grp.fids (envAt s i).cycle = none := by
      rw [envAt_crew hI]
      exact hwrite
    simp [Env.strictGs, hnone]
  change ∃ u d, _ ∧ _ ∧ execMstat k n s = _
  unfold execMstat
  exact engineWord_next (a := ()) hI hcount (Env.splitRead_nil _) (by rw [hfree])

end Sys2Proof.Machine

namespace Sys2Proof.Proofs

open Sys2Proof.Machine Sys2Proof.Terms

/-- Settles O31: each matrix word counts on its token; MCLAIM begins a claim and is pending at its cluster, a word of the rules joins the claim
whose MREL has not been issued, and MSTAT marks its register at most. -/
theorem matrixWords : Obligations.MatrixWords := by
  unfold Obligations.MatrixWords
  refine ⟨?mclaim, ?joins, ?mstat⟩
  case mclaim =>
    intro k s i c hI hcount hnone
    have hplan := matBare_mclaim (e := envAt s i) (by rw [envAt_crew hI]; exact hnone)
    obtain ⟨u, d, step, counted, hexec⟩ := matWord_next hI hcount (Env.splitRead_nil _) hplan
    have ⟨hu, _, hd⟩ := step
    obtain ⟨launch, hpending⟩ := State.launchMat_mclaim hd (m := bareOp fnMclaim) rfl k.val none i.grp.fids
    refine engineStep_of hI step counted launch rfl rfl rfl hexec ?_
    intro t y hstate same
    refine ⟨?_, ?_⟩
    · rw [same, counted.same]
      rfl
    · rw [hstate]
      exact hpending.trans (by rw [hu]; rfl)
  case joins =>
    intro w fn k x s i c m bar hrule hI hcount hops
    obtain ⟨hfn, hexec⟩ := exec_of_matrixRule hrule
    match x, hops with
    | none, hplan => exact matWord_joins hI hcount hexec (Env.splitRead_nil _) hplan (matBare_fn hplan) hfn
    | some (a, n), ⟨hplan, hsplit⟩ =>
      obtain ⟨hm, hpair⟩ := matPlan_fn hplan
      exact matWord_joins hI hcount hexec (by rw [matRegs_some a hpair]; exact hsplit) hplan hm hfn
  case mstat =>
    intro k n s i c hI hcount hwrite
    obtain ⟨u, d, step, counted, hexec⟩ := execMstat_next hI hcount hwrite
    have ⟨_, _, hd⟩ := step
    have marked := d.markG_eq i.strict u.nextId [n.val] i.grp.fids k.val
    refine engineStep_of hI step counted (State.recordOp_launch hd _ (fun x => x.markG i.strict u.nextId [n.val] i.grp.fids k.val)
      (by rw [marked]) (by rw [marked])) rfl rfl rfl hexec ?_
    intro t y _ same
    refine ⟨rfl, ?_⟩
    rw [same, marked, counted.same]

end Sys2Proof.Proofs
end

section
/-! PROOF. Memories in canonical form: what the operations of the state, of the caches and of the engines' records leave of them. -/

-- Theorems one after another, not at once: this bounds the memory that a compile of the whole text takes.
set_option Elab.async false

namespace Sys2Proof.Machine

theorem State.memWf.parts {s : State} (h : s.memWf) : Memory.wf s.dev = true ∧ Memory.wf s.host = true ∧ Memory.wf s.scratch = true := h

theorem State.memWf.of_parts {s : State} (hd : Memory.wf s.dev = true) (hh : Memory.wf s.host = true) (hs : Memory.wf s.scratch = true) : s.memWf :=
  ⟨hd, hh, hs⟩

theorem foldl_memWf {α : Type} {f : State → α → State} (hf : ∀ t x, t.memWf → (f t x).memWf) (l : List α) :
    ∀ {s : State}, s.memWf → (l.foldl f s).memWf := by
  induction l with
  | nil => exact fun h => h
  | cons x l ih => exact fun h => ih (hf _ x h)

theorem foldl_fst_memWf {α β : Type} {f : State × β → α → State × β} (hf : ∀ r x, r.1.memWf → (f r x).1.memWf) (l : List α) :
    ∀ {r : State × β}, r.1.memWf → (l.foldl f r).1.memWf := by
  induction l with
  | nil => exact fun h => h
  | cons x l ih => exact fun h => ih (hf _ x h)

theorem fst_memWf {α : Type} {r : State × α} {t : State} {a : α} (h : r.1.memWf) (hr : r = (t, a)) : t.memWf := by
  subst hr
  exact h

/-! ## The state -/

theorem State.wake_memWf {s : State} (h : s.memWf) (u : GateUnit) : (s.wake u).memWf := by
  cases u with
  | scratchBank cluster bank => exact ⟨h.1, h.2.1, memFilter_wf h.2.2 _⟩
  | l1Way _ _ | l2Way _ _ => exact h

theorem State.wakeRange_memWf {s : State} (h : s.memWf) (cluster addr n : Nat) : (s.wakeRange cluster addr n).memWf := by
  grind [State.wakeRange, foldl_memWf, State.wake_memWf]

theorem State.modCore_memWf {s : State} (h : s.memWf) (c : Nat) (f : Core → Core) : (s.modCore c f).memWf := h

theorem State.modCluster_memWf {s : State} (h : s.memWf) (c : Nat) (f : Cluster → Cluster) : (s.modCluster c f).memWf := h

theorem State.modDie_memWf {s : State} (h : s.memWf) (d : Nat) (f : Die → Die) : (s.modDie d f).memWf := h

theorem State.modCrew_memWf {s : State} (h : s.memWf) (c : Nat) (f : Crew → Crew) : (s.modCrew c f).memWf := h

theorem State.modFibre_memWf {s : State} (h : s.memWf) (crew fid : Nat) (f : Fibre → Fibre) : (s.modFibre crew fid f).memWf := h

theorem State.bump_memWf {s : State} (h : s.memWf) : s.bump.memWf := h

theorem State.fresh_memWf {s : State} (h : s.memWf) : s.fresh.2.memWf := h

/-! ## Links (R217) -/

theorem State.sendFrames_memWf {s : State} (h : s.memWf) (chip n : Nat) : (s.sendFrames chip n).memWf := by
  grind [→ State.memWf.parts, ← State.memWf.of_parts, State.sendFrames]

theorem State.tellChip_memWf {s : State} (h : s.memWf) (chip : Nat) (m : LinkMsg) : (s.tellChip chip m).memWf := by
  grind [→ State.memWf.parts, ← State.memWf.of_parts, State.tellChip, State.sendFrames_memWf]

/-! ## Caches, homes and lines -/

theorem State.modAgent_memWf {s : State} (h : s.memWf) (a : Nat) (f : Agent → Agent) : (s.modAgent a f).memWf := h

theorem State.modHome_memWf {s : State} (h : s.memWf) (line : Nat) (f : HomeLine → HomeLine) : (s.modHome line f).memWf := h

theorem State.tryAll_memWf {α : Type} {f : State → α → Tried} (hf : ∀ t x, t.memWf → (f t x).1.memWf) {s : State} (h : s.memWf) (l : List α) :
    (s.tryAll l f).1.memWf := by
  unfold State.tryAll
  refine foldl_fst_memWf (fun r x hr => ?_) l (r := (s, none)) h
  exact hf r.1 x hr

theorem Tried.andThen_memWf {r : Tried} {f : State → Tried} (h : r.1.memWf) (hf : ∀ t, t.memWf → (f t).1.memWf) : (r.andThen f).1.memWf := by
  unfold Tried.andThen
  split
  · exact hf _ h
  · exact h

theorem State.dropCounter_memWf {s : State} (h : s.memWf) (pa : Nat) : (s.dropCounter pa).memWf := by
  grind [→ State.memWf.parts, ← State.memWf.of_parts, State.dropCounter]

theorem State.claimLine_memWf {s : State} (h : s.memWf) (line : Nat) : (s.claimLine line).memWf := by
  grind [→ State.memWf.parts, ← State.memWf.of_parts, State.claimLine]

theorem State.placeByte_memWf {s : State} (h : s.memWf) (pa : Nat) (b : L1Byte) : (s.placeByte pa b).memWf := by
  grind [→ State.memWf.parts, ← State.memWf.of_parts, State.placeByte, State.dropCounter_memWf, State.modHome_memWf, State.writePa_memWf]

theorem State.applyByte_memWf {s : State} (h : s.memWf) (pa : Nat) (b : L1Byte) : (s.applyByte pa b).memWf := by
  grind [State.applyByte, State.claimLine_memWf, State.placeByte_memWf]

theorem State.applyBytes_memWf {s : State} (h : s.memWf) (pa : Nat) (l : List L1Byte) : (s.applyBytes pa l).memWf := by
  grind [State.applyBytes, foldl_fst_memWf, State.applyByte_memWf]

theorem State.writeHome_memWf {s : State} (h : s.memWf) (pa : Nat) (bs : List Byte) : (s.writeHome pa bs).memWf := by
  grind [→ State.memWf.parts, ← State.memWf.of_parts, State.writeHome, foldl_memWf, State.claimLine_memWf, State.writePas_memWf]

theorem State.proxyRoom_memWf {s : State} (h : s.memWf) (line : Nat) : (s.proxyRoom line).memWf := by
  grind [State.proxyRoom, State.modHome_memWf]

theorem State.refuse_memWf {s : State} (h : s.memWf) (line : Nat) (c : Cause) : (s.refuse line c).1.memWf := by
  grind [State.refuse, State.modHome_memWf]

theorem State.raceEvent_memWf {s : State} (h : s.memWf) (a : Nat) (crew : Option Nat) (line va other : Nat) (l : List Nat) (c : Cause) :
    (s.raceEvent a crew line va other l c).memWf := by
  cases crew <;> grind [State.raceEvent, State.modCrew_memWf, State.tellChip_memWf]

theorem State.tellMerge_memWf {s : State} (h : s.memWf) (a line : Nat) (bs : KMap L1Byte) : (s.tellMerge a line bs).memWf := by
  grind [State.tellMerge, State.tellChip_memWf]

theorem State.merge_memWf {s : State} (h : s.memWf) (a : Nat) (crew : Option Nat) (line va : Nat) (bs : KMap L1Byte) :
    (s.merge a crew line va bs).1.memWf := by
  grind [State.merge, foldl_memWf, State.applyByte_memWf, State.modHome_memWf, State.proxyRoom_memWf, State.raceEvent_memWf, State.refuse_memWf,
    State.tellMerge_memWf]

theorem State.mergeLine_memWf {s : State} (h : s.memWf) (a line : Nat) : (s.mergeLine a line).1.memWf := by
  grind [State.mergeLine, Tried.andThen_memWf, State.merge_memWf, State.modAgent_memWf]

theorem State.mergeWc_memWf {s : State} (h : s.memWf) (a line : Nat) : (s.mergeWc a line).1.memWf := by
  grind [State.mergeWc, Tried.andThen_memWf, State.merge_memWf, State.modAgent_memWf]

theorem State.drain_memWf {s : State} (h : s.memWf) (a : Nat) : (s.drain a).1.memWf := by
  grind [→ State.memWf.parts, ← State.memWf.of_parts, State.drain, State.tryAll_memWf, Tried.andThen_memWf, State.mergeLine_memWf,
    State.mergeWc_memWf]

theorem State.invalidate_memWf {s : State} (h : s.memWf) (a : Nat) : (s.invalidate a).memWf := h

theorem State.makeRoom_memWf {s : State} (h : s.memWf) (a line : Nat) : (s.makeRoom a line).1.memWf := by
  grind [State.makeRoom, Tried.andThen_memWf, State.mergeLine_memWf, State.modAgent_memWf]

theorem State.readLine_memWf {s : State} (h : s.memWf) (a pa n : Nat) (atHome alloc : Bool) : (s.readLine a pa n atHome alloc).1.memWf := by
  grind [State.readLine, State.makeRoom_memWf, State.modAgent_memWf]

theorem State.handOver_memWf {s : State} (h : s.memWf) (a : Nat) (crew : Option Nat) (line : Nat) : (s.handOver a crew line).1.memWf := by
  grind [State.handOver, Tried.andThen_memWf, State.mergeLine_memWf, State.mergeWc_memWf]

theorem State.storeL1_memWf {s : State} (h : s.memWf) (a crew pa va : Nat) (bs : List Byte) (tags : List RelTag) :
    (s.storeL1 a crew pa va bs tags).1.memWf := by
  grind [State.storeL1, Tried.andThen_memWf, State.handOver_memWf, State.makeRoom_memWf, State.modAgent_memWf]

theorem State.storeHome_memWf {s : State} (h : s.memWf) (a : Nat) (crew : Option Nat) (pa va : Nat) (bs : List Byte) (tags : List RelTag) :
    (s.storeHome a crew pa va bs tags).1.memWf := by
  grind [State.storeHome, Tried.andThen_memWf, State.handOver_memWf, State.merge_memWf, State.modAgent_memWf]

theorem State.storeWc_memWf {s : State} (h : s.memWf) (a crew pa va : Nat) (bs : List Byte) (tags : List RelTag) :
    (s.storeWc a crew pa va bs tags).1.memWf := by
  grind [State.storeWc, Tried.andThen_memWf, State.handOver_memWf, State.modAgent_memWf]

theorem State.engineWrite_memWf {s : State} (h : s.memWf) (a : Nat) (crew : Option Nat) (pa va : Nat) (bs : List Byte) :
    (s.engineWrite a crew pa va bs).1.memWf := by
  grind [State.engineWrite, State.tryAll_memWf, State.merge_memWf]

theorem State.atomicWrite_memWf {s : State} (h : s.memWf) (a pa : Nat) (bs : List Byte) (tags : List RelTag) :
    (s.atomicWrite a pa bs tags).memWf := by
  grind [State.atomicWrite, State.applyBytes_memWf, State.modAgent_memWf, State.modHome_memWf, State.proxyRoom_memWf, State.tellMerge_memWf]

theorem State.release_memWf {s : State} (h : s.memWf) (core : Nat) (sc : Scope) (chips : List Nat := []) : (s.release core sc chips).1.memWf := h

theorem State.closeEntries_memWf {s : State} (h : s.memWf) (a num : Nat) : (s.closeEntries a num).memWf := h

theorem State.synchronise_memWf {s : State} (h : s.memWf) (core : Nat) (sc : Scope) (chips : List Nat) (tags : List RelTag) :
    (s.synchronise core sc chips tags).memWf := by
  grind [State.synchronise, foldl_memWf, State.closeEntries_memWf]

theorem State.acquire_memWf {s : State} (h : s.memWf) (core : Nat) (sc : Scope) (observed : List RelEntry) :
    (s.acquire core sc observed).1.memWf := by
  cases sc <;> grind [State.acquire, State.invalidate_memWf, State.tryAll_memWf, State.drain_memWf]

theorem State.recordRelease_memWf {s : State} (h : s.memWf) (core line : Nat) (sc : Scope) : (s.recordRelease core line sc).memWf := h

theorem State.expireClean_memWf {s : State} (h : s.memWf) (a : Nat) : (s.expireClean a).memWf := h

theorem State.sendSnoop_memWf {s : State} (h : s.memWf) (m : HostOut) : (s.sendSnoop m).memWf := by
  cases m <;> grind [State.sendSnoop, State.modHome_memWf, → State.memWf.parts, ← State.memWf.of_parts]

theorem State.orSnoop_memWf {s t : State} (h : s.memWf) (h1 : t.memWf) : (s.orSnoop t).memWf := by
  grind [State.orSnoop, foldl_memWf, State.sendSnoop_memWf]

/-! ## Translation -/

theorem State.walk_memWf {s : State} (h : s.memWf) (walker pasid va : Nat) (acc : Acc) : (s.walk walker pasid va acc).1.memWf := by
  grind [State.walk, State.atomicWrite_memWf, State.refuse_memWf]

theorem State.engineXl_memWf {s : State} (h : s.memWf) (pasid va : Nat) (acc : Acc) : (s.engineXl pasid va acc).1.memWf := by
  grind [State.engineXl, State.walk_memWf]

theorem State.coreXl_memWf {s : State} (h : s.memWf) (core pasid va : Nat) (acc : Acc) : (s.coreXl core pasid va acc).1.memWf := by
  grind [→ State.memWf.parts, ← State.memWf.of_parts, State.coreXl, State.modCore_memWf, State.modDie_memWf, State.walk_memWf]

/-! ## Records of messages -/

theorem State.tellSource_memWf {s : State} (h : s.memWf) (id : MsgId) (m : LinkMsg) : (s.tellSource id m).memWf := by
  grind [State.tellSource, State.tellChip_memWf]

theorem State.tellDest_memWf {s : State} (h : s.memWf) (id : MsgId) (m : LinkMsg) : (s.tellDest id m).memWf := by
  grind [State.tellDest, State.tellChip_memWf]

theorem State.lastRecord_memWf {s : State} (h : s.memWf) (pasid : Nat) (r : Recv) (e : RecvEnd) : (s.lastRecord pasid r e).memWf := by
  grind [State.lastRecord, State.engineWrite_memWf, State.engineXl_memWf]

theorem State.cancelRecv_memWf {s : State} (h : s.memWf) (x : Nat × Recv) : (s.cancelRecv x).memWf := by
  grind [→ State.memWf.parts, ← State.memWf.of_parts, State.cancelRecv, State.lastRecord_memWf, State.tellSource_memWf]

theorem State.answerCancels_memWf {s : State} (h : s.memWf) (x : Send) (val : Word) : (s.answerCancels x val).memWf := h

theorem State.cancelSend_memWf {s : State} (h : s.memWf) (x : Nat × Send) : (s.cancelSend x).memWf := by
  grind [→ State.memWf.parts, ← State.memWf.of_parts, State.cancelSend, State.answerCancels_memWf, State.tellDest_memWf]

theorem State.cancelBulk_memWf {s : State} (h : s.memWf) (crew : Nat) : (s.cancelBulk crew).memWf := by
  grind [State.cancelBulk, foldl_memWf, State.cancelRecv_memWf, State.cancelSend_memWf]

/-! ## Frames -/

theorem frThen_memWf {α β : Type} {r : FrRes α} {k : State → α → FrRes β} (h : r.1.memWf) (hk : ∀ t a, t.memWf → (k t a).1.memWf) :
    (frThen r k).1.memWf := by
  unfold frThen
  split
  · exact hk _ _ h
  · exact h

theorem State.frameXl_memWf {s : State} (h : s.memWf) (crew va : Nat) (acc : Acc) : (s.frameXl crew va acc).1.memWf := by
  grind [State.frameXl, State.coreXl_memWf]

theorem State.mergeSeg_memWf {s : State} (h : s.memWf) (core key pa : Nat) : (s.mergeSeg core key pa).memWf := by
  grind [State.mergeSeg, foldl_memWf, State.applyByte_memWf, State.modCore_memWf]

theorem State.dropSeg_memWf {s : State} (h : s.memWf) (core key : Nat) : (s.dropSeg core key).memWf := by
  grind [State.dropSeg, State.mergeSeg_memWf]

theorem State.writeBack_memWf {s : State} (h : s.memWf) (core key : Nat) : (s.writeBack core key).1.memWf := by
  grind [State.writeBack, State.dropSeg_memWf, State.frameXl_memWf, State.mergeSeg_memWf, State.modCore_memWf, State.modCrew_memWf]

theorem State.saddleFill_memWf {s : State} (h : s.memWf) (core crew va pa : Nat) : (s.saddleFill core crew va pa).1.memWf := by
  grind [State.saddleFill, frThen_memWf, State.modCore_memWf, State.writeBack_memWf]

theorem State.frameRead_memWf {s : State} (h : s.memWf) (crew va n : Nat) : (s.frameRead crew va n).1.memWf := by
  grind [State.frameRead, frThen_memWf, State.frameXl_memWf, State.saddleFill_memWf]

theorem State.saddleWrite_memWf {s : State} (h : s.memWf) (core crew va pa : Nat) (bs : List Byte) :
    (s.saddleWrite core crew va pa bs).1.memWf := by
  grind [State.saddleWrite, frThen_memWf, State.modCore_memWf, State.saddleFill_memWf]

theorem State.frameWrite_memWf {s : State} (h : s.memWf) (crew va : Nat) (bs : List Byte) : (s.frameWrite crew va bs).1.memWf := by
  grind [State.frameWrite, frThen_memWf, State.frameXl_memWf, State.saddleWrite_memWf]

theorem State.segHead_memWf {s : State} (h : s.memWf) (crew va : Nat) : (s.segHead crew va).1.memWf := by
  grind [State.segHead, frThen_memWf, State.frameRead_memWf]

theorem State.searchDown_memWf {s : State} (h : s.memWf) (crew : Nat) (test : SegHead → Bool) (n : Nat) (va : Nat) (above : List SegHead) :
    (s.searchDown crew test n va above).1.memWf := by
  induction n generalizing s va above with
  | zero => exact h
  | succ n ih => grind [State.searchDown, State.segHead_memWf]

theorem State.allocSeg_memWf {s : State} (h : s.memWf) (crew : Nat) (rec : Bool) : (s.allocSeg crew rec).1.memWf := by
  grind [→ State.memWf.parts, ← State.memWf.of_parts, State.allocSeg, State.bump_memWf, State.modCrew_memWf]

theorem State.allocSegs_memWf {s : State} (h : s.memWf) (crew n : Nat) : ∀ r, s.allocSegs crew n = some r → r.1.memWf := by
  induction n generalizing s with
  | zero => grind [State.allocSegs]
  | succ n ih =>
    intro r hr
    have ha := State.allocSeg_memWf h crew false
    rw [State.allocSegs] at hr
    split at hr
    · next t va ht =>
      obtain ⟨x, hx, rfl⟩ := Option.map_eq_some_iff.mp hr
      rw [ht] at ha
      exact ih ha x hx
    · cases hr

theorem State.allocRecord_memWf {s : State} (h : s.memWf) (crew n : Nat) : ∀ r, s.allocRecord crew n = some r → r.1.memWf := by
  intro r hr
  have ha := State.allocSeg_memWf h crew true
  rw [State.allocRecord] at hr
  split at hr
  · next t va ht =>
    obtain ⟨x, hx, rfl⟩ := Option.map_eq_some_iff.mp hr
    rw [ht] at ha
    exact State.allocSegs_memWf ha crew n x hx
  · cases hr

theorem State.unuseSeg_memWf {s : State} (h : s.memWf) (gang va : Nat) : (s.unuseSeg gang va).memWf := by
  grind [→ State.memWf.parts, ← State.memWf.of_parts, State.unuseSeg, State.modCrew_memWf]

theorem State.freeSeg_memWf {s : State} (h : s.memWf) (crew va : Nat) : (s.freeSeg crew va).1.memWf := by
  grind [State.freeSeg, frThen_memWf, State.frameXl_memWf, State.mergeSeg_memWf, State.saddleWrite_memWf, State.unuseSeg_memWf]

theorem State.setCurrent_memWf {s : State} (h : s.memWf) (crew fid va : Nat) : (s.setCurrent crew fid va).1.memWf := by
  grind [State.setCurrent, frThen_memWf, State.frameWrite_memWf, State.modFibre_memWf]

theorem State.pushSeg_memWf {s : State} (h : s.memWf) (crew fid kind rpc : Nat) (valid : Bool) (frame : List Byte) :
    (s.pushSeg crew fid kind rpc valid frame).1.memWf := by
  grind [State.pushSeg, State.allocSeg_memWf, State.frameWrite_memWf, State.modFibre_memWf]

theorem State.popSeg_memWf {s : State} (h : s.memWf) (crew fid : Nat) (h : SegHead) : (s.popSeg crew fid h).1.memWf := by
  grind [State.popSeg, frThen_memWf, State.freeSeg_memWf, State.modFibre_memWf, State.setCurrent_memWf]

theorem State.firstSeg_memWf {s : State} (h : s.memWf) (crew fid : Nat) : (s.firstSeg crew fid).1.memWf := by
  grind [State.firstSeg, State.allocSeg_memWf, State.frameWrite_memWf]

theorem State.freeStack_memWf {s : State} (h : s.memWf) (crew n : Nat) (va : Nat) : (s.freeStack crew n va).1.memWf := by
  induction n generalizing s va with
  | zero => exact h
  | succ n ih =>
    refine frThen_memWf (State.segHead_memWf h crew va) fun t hd ht => frThen_memWf (State.freeSeg_memWf ht crew va) fun u _ hu => ?_
    split
    · exact hu
    · exact ih hu _

theorem State.initEmergency_memWf {s : State} (h : s.memWf) (crew : Nat) : (s.initEmergency crew).1.memWf := by
  grind [State.initEmergency, frThen_memWf, State.frameXl_memWf, State.writeHome_memWf]

theorem State.flushSaddle_memWf {s : State} (h : s.memWf) (core : Nat) (crew : Nat) : (s.flushSaddle core crew).memWf := by
  grind [State.flushSaddle, foldl_memWf, State.dropSeg_memWf]

theorem State.saveSaddle_memWf {s : State} (h : s.memWf) (core : Nat) (crew : Nat) : (s.saveSaddle core crew).1.memWf := by
  grind [State.saveSaddle, foldl_fst_memWf, frThen_memWf, State.writeBack_memWf]

/-! ## Reports -/

theorem State.modHead_memWf {s : State} (h : s.memWf) (h : Nat) (f : Head → Head) : (s.modHead h f).memWf := by
  grind [→ State.memWf.parts, ← State.memWf.of_parts, State.modHead]

theorem State.sendVector_memWf {s : State} (h : s.memWf) (v : Nat) : (s.sendVector v).memWf := by
  grind [→ State.memWf.parts, ← State.memWf.of_parts, State.sendVector]

theorem State.vectorEvent_memWf {s : State} (h : s.memWf) (v head : Nat) : (s.vectorEvent v head).memWf := by
  grind [→ State.memWf.parts, ← State.memWf.of_parts, State.vectorEvent, State.sendVector_memWf]

theorem State.toHost_memWf {s : State} (h : s.memWf) (r : Report) : (s.toHost r).memWf := by
  obtain ⟨hd, hh, hs⟩ := State.release_memWf h (serviceAgent r.head) .system []
  dsimp only [State.toHost]
  split
  · apply State.vectorEvent_memWf
    apply State.modHead_memWf
    refine ⟨hd, ?_, hs⟩
    apply memWrites_wf hh
  · exact h

theorem State.report_memWf {s : State} (h : s.memWf) (r : Report) : (s.report r).memWf := by
  grind [→ State.memWf.parts, ← State.memWf.of_parts, State.report, State.toHost_memWf]

theorem State.gangReport_memWf {s : State} (h : s.memWf) (gang : Nat) (c : Cause) (fid pc : Nat) : (s.gangReport gang c fid pc).memWf := by
  grind [State.gangReport, State.report_memWf]

theorem State.clearCrew_memWf {s : State} (h : s.memWf) (crew : Nat) (life : Life) (keep : Bool) : (s.clearCrew crew life keep).memWf := by
  grind [→ State.memWf.parts, ← State.memWf.of_parts, State.clearCrew, State.modCluster_memWf, State.modCore_memWf, State.modCrew_memWf]

theorem State.reportRaces_memWf {s : State} (h : s.memWf) (crew : Nat) : (s.reportRaces crew).memWf := by
  grind [State.reportRaces, foldl_memWf, State.gangReport_memWf, State.modCrew_memWf]

theorem State.poolHeap_memWf {s : State} (h : s.memWf) (crew : Nat) : (s.poolHeap crew).memWf := h

theorem State.releaseGang_memWf {s : State} (h : s.memWf) (gang : Nat) : (s.releaseGang gang).memWf := by
  grind [→ State.memWf.parts, ← State.memWf.of_parts, State.releaseGang, State.tellChip_memWf]

theorem State.countEnded_memWf {s : State} (h : s.memWf) (gang : Nat) : (s.countEnded gang).memWf := by
  grind [→ State.memWf.parts, ← State.memWf.of_parts, State.countEnded, State.releaseGang_memWf]

theorem State.noteEnd_memWf {s : State} (h : s.memWf) (gang : Nat) (tag : RelTag) : (s.noteEnd gang tag).memWf := h

theorem State.endCrew_memWf {s : State} (h : s.memWf) (crew : Nat) : (s.endCrew crew).memWf := by
  grind [→ State.memWf.parts, ← State.memWf.of_parts, State.endCrew, State.clearCrew_memWf, State.countEnded_memWf, State.drain_memWf,
    State.flushSaddle_memWf, State.noteEnd_memWf, State.poolHeap_memWf, State.release_memWf, State.reportRaces_memWf]

theorem State.killCrew_memWf {s : State} (h : s.memWf) (crew : Nat) : (s.killCrew crew).memWf := by
  grind [State.killCrew, State.cancelBulk_memWf, State.clearCrew_memWf, State.countEnded_memWf, State.drain_memWf, State.flushSaddle_memWf,
    State.noteEnd_memWf, State.release_memWf, State.reportRaces_memWf]

theorem State.killGang_memWf {s : State} (h : s.memWf) (gang : Nat) (c : Cause) : (s.killGang gang c).memWf := by
  grind [→ State.memWf.parts, ← State.memWf.of_parts, State.killGang, foldl_memWf, State.gangReport_memWf, State.killCrew_memWf,
    State.tellChip_memWf]

theorem State.terminate_memWf {s : State} (h : s.memWf) (crew : Nat) (c : Cause) (fid pc : Nat) : (s.terminate crew c fid pc).memWf := by
  grind [State.terminate, State.gangReport_memWf, State.killGang_memWf]

/-! ## Operations of engines -/

theorem State.enter_memWf {s : State} (h : s.memWf) (crew fid : Nat) : (s.enter crew fid).memWf := by
  grind [State.enter, State.modCore_memWf, State.modFibre_memWf]

theorem State.settle_memWf {s : State} (h : s.memWf) (core n : Nat) : (s.settle core n).memWf := by
  induction n generalizing s with
  | zero => exact h
  | succ n ih =>
    unfold State.settle
    split
    · exact h
    · dsimp only
      split
      · exact h
      · exact ih (foldl_memWf (fun t e ht => State.modFibre_memWf ht _ _ _) _ (State.modCore_memWf h _ _))

theorem State.park_memWf {s : State} (h : s.memWf) (crew fid : Nat) (p : Park) : (s.park crew fid p).memWf := h

theorem State.dissolve_memWf {s : State} (h : s.memWf) (crew gid : Nat) : (s.dissolve crew gid).memWf := by
  grind [State.dissolve, foldl_memWf, State.enter_memWf, State.modCrew_memWf, State.settle_memWf]

theorem State.leaveGroup_memWf {s : State} (h : s.memWf) (crew fid : Nat) : (s.leaveGroup crew fid).memWf := by
  grind [State.leaveGroup, State.dissolve_memWf]

theorem State.pageRequest_memWf {s : State} (h : s.memWf) (pasid page : Nat) (write : Bool) (w : PageWaiter) :
    (s.pageRequest pasid page write w).memWf := by
  grind [→ State.memWf.parts, ← State.memWf.of_parts, State.pageRequest, State.fresh_memWf]

theorem State.goOn_memWf {s : State} (h : s.memWf) (crew fid : Nat) (e : Eff) : (s.goOn crew fid e).memWf := by
  grind [State.goOn, State.enter_memWf, State.modFibre_memWf]

theorem State.writeSegHome_memWf {s : State} (h : s.memWf) (crew va : Nat) (bs : List Byte) : (s.writeSegHome crew va bs).1.memWf := by
  grind [State.writeSegHome, frThen_memWf, State.frameXl_memWf, State.modCore_memWf, State.writeHome_memWf]

theorem State.writeReplay_memWf {s : State} (h : s.memWf) (crew : Nat) (vas : List Nat) (cs : List (List (List Byte))) :
    (s.writeReplay crew vas cs).1.memWf := by
  induction vas generalizing s cs with
  | nil => cases cs <;> exact h
  | cons va more ih =>
    cases cs with
    | nil => exact h
    | cons c cs => exact frThen_memWf (State.writeSegHome_memWf h _ _ _) fun t _ ht => ih ht cs

theorem State.unlinkSegs_memWf {s : State} (h : s.memWf) (crew : Nat) (l : List SegHead) : (s.unlinkSegs crew l).1.memWf := by
  induction l generalizing s with
  | nil => exact h
  | cons hd hs ih =>
    refine frThen_memWf (State.frameWrite_memWf h _ _ _) fun t _ ht => ?_
    split
    · exact State.frameWrite_memWf ht _ _ _
    · exact ih ht

theorem State.homeSegs_memWf {s : State} (h : s.memWf) (crew : Nat) (l : List SegHead) : (s.homeSegs crew l).1.memWf := by
  induction l generalizing s with
  | nil => exact h
  | cons hd hs ih => exact frThen_memWf (State.frameXl_memWf h _ _ _) fun t _ ht => ih (State.dropSeg_memWf ht _ _)

theorem State.nextGen_memWf {s : State} (h : s.memWf) (crew va : Nat) (before : Bool) : (s.nextGen crew va before).1.memWf := by
  grind [State.nextGen, frThen_memWf, State.frameRead_memWf]

theorem State.trackOps_memWf {s : State} (h : s.memWf) (crew fid rec : Nat) (first : Nat) : (s.trackOps crew fid rec first).memWf := h

theorem State.setContTags_memWf {s : State} (h : s.memWf) (pa : Nat) (tag : RelTag) (f : Fibre) : (s.setContTags pa tag f).memWf := by
  grind [→ State.memWf.parts, ← State.memWf.of_parts, State.setContTags]

theorem State.captureInto_memWf {s : State} (h : s.memWf) (crew fid : Nat) (e : Eff) (above : List SegHead) (hd : SegHead) (rec : Nat)
    (reps : List Nat) (emerg before : Bool) : (s.captureInto crew fid e above hd rec reps emerg before).1.memWf := by
  refine frThen_memWf (State.nextGen_memWf h _ _ _) fun s1 gen h1 => frThen_memWf (State.unlinkSegs_memWf h1 _ _) fun s2 _ h2 =>
    frThen_memWf (State.homeSegs_memWf h2 _ _) fun s3 _ h3 => frThen_memWf (State.writeReplay_memWf h3 _ _ _) fun s4 _ h4 =>
    frThen_memWf (State.writeSegHome_memWf h4 _ _ _) fun s5 pa h5 => frThen_memWf (State.frameWrite_memWf h5 _ _ _) fun s6 _ h6 =>
    frThen_memWf ?_ fun s7 _ h7 => ?_
  · split
    · exact h6
    · exact State.frameWrite_memWf h6 _ _ _
  · exact State.enter_memWf (State.modFibre_memWf (State.modCrew_memWf (State.leaveGroup_memWf (State.trackOps_memWf (State.setContTags_memWf
      (State.release_memWf (State.drain_memWf h7 _) _ _ _) _ _ _) _ _ _ _) _ _) _ _) _ _ _) _ _

theorem State.hingeFor_memWf {s : State} (h : s.memWf) (crew fid label : Nat) : (s.hingeFor crew fid label).1.memWf := by
  grind [State.hingeFor, State.searchDown_memWf]

theorem State.hardBlocked_memWf {s : State} (h : s.memWf) (crew fid : Nat) (e : Eff) (x : FrErr) : (s.hardBlocked crew fid e x).memWf := by
  cases x with
  | page va w => exact State.pageRequest_memWf (State.park_memWf (State.leaveGroup_memWf h _ _) _ _ _) _ _ _ _
  | effect l c => exact State.terminate_memWf h _ _ _ _

theorem State.emergencyCapture_memWf {s : State} {blocked : FrErr → State} (h : s.memWf) (hb : ∀ x, (blocked x).memWf) (crew fid : Nat) (e : Eff) :
    (s.emergencyCapture blocked crew fid e).memWf := by
  grind [State.emergencyCapture, State.terminate_memWf, State.hingeFor_memWf, State.modCrew_memWf, State.captureInto_memWf]

theorem State.capture_memWf {s : State} {blocked : FrErr → State} (h : s.memWf) (hb : ∀ x, (blocked x).memWf) (crew fid : Nat) (e : Eff)
    (above : List SegHead) (hd : SegHead) : (s.capture blocked crew fid e above hd).memWf := by
  dsimp only [State.capture]
  split
  · exact State.park_memWf (State.leaveGroup_memWf h crew fid) crew fid _
  · split
    · next t rec reps hr =>
      have hc := fun before : Bool => State.captureInto_memWf (State.allocRecord_memWf h _ _ _ hr) crew fid e above hd rec reps false before
      split
      · exact hb _
      · next hu => exact fst_memWf (hc _) hu
    · exact State.emergencyCapture_memWf h hb crew fid e

theorem State.faultTo_memWf {s : State} {blocked : FrErr → State} (h : s.memWf) (hb : ∀ x, (blocked x).memWf) (crew fid : Nat) (e : Eff) :
    (s.faultTo blocked crew fid e).memWf := by
  grind [State.faultTo, State.hingeFor_memWf, State.terminate_memWf, State.capture_memWf]

theorem State.hardTo_memWf {s : State} {blocked : FrErr → State} (h : s.memWf) (hb : ∀ x, (blocked x).memWf) (crew fid : Nat) (e : Eff) :
    (s.hardTo blocked crew fid e).memWf := by
  grind [State.hardTo, State.hingeFor_memWf, State.faultTo_memWf, State.capture_memWf]

theorem State.effectBlocked_memWf {s : State} (h : s.memWf) (crew fid : Nat) (e : Eff) (x : FrErr) : (s.effectBlocked crew fid e x).memWf := by
  cases x with
  | page va w => exact State.hardBlocked_memWf h _ _ _ _
  | effect l c => exact State.hardTo_memWf h (fun x => State.hardBlocked_memWf h _ _ _ x) _ _ _

theorem State.deliverFault_memWf {s : State} (h : s.memWf) (crew fid : Nat) (e : Eff) : (s.deliverFault crew fid e).memWf :=
  State.faultTo_memWf h (fun x => State.effectBlocked_memWf h crew fid e x) crew fid e

theorem State.requestPages_memWf {s : State} (h : s.memWf) (crew fid rpc : Nat) (stay : Bool) (pages : List (Nat × Bool)) :
    (s.requestPages crew fid rpc stay pages).memWf := by
  grind [State.requestPages, foldl_memWf, State.leaveGroup_memWf, State.pageRequest_memWf, State.park_memWf]

theorem State.reissue_memWf {s : State} (h : s.memWf) (crew fid : Nat) : (s.reissue crew fid).memWf := by
  grind [→ State.memWf.parts, ← State.memWf.of_parts, State.reissue, foldl_memWf, State.fresh_memWf, State.modFibre_memWf]

theorem State.deliverHard_memWf {s : State} (h : s.memWf) (crew fid : Nat) (e : Eff) : (s.deliverHard crew fid e).memWf :=
  State.hardTo_memWf h (fun x => State.effectBlocked_memWf h crew fid e x) crew fid e

theorem State.contSegs_memWf {s : State} (h : s.memWf) (crew n : Nat) (va : Nat) : (s.contSegs crew n va).1.memWf := by
  induction n generalizing s va with
  | zero => exact h
  | succ n ih => exact frThen_memWf (State.segHead_memWf h _ _) fun t hd ht => frThen_memWf (ih ht hd.link) fun u l hu => hu

theorem State.rewrite_memWf {s : State} (h : s.memWf) (pa n : Nat) : (s.rewrite pa n).memWf := by
  grind [State.rewrite, State.writeHome_memWf]

theorem State.rewriteSegs_memWf {s : State} (h : s.memWf) (crew : Nat) (l : List SegHead) : (s.rewriteSegs crew l).1.memWf := by
  induction l generalizing s with
  | nil => exact h
  | cons hd hs ih =>
    refine frThen_memWf (State.frameXl_memWf h _ _ _) fun t pa ht => ih ?_
    grind [State.dropSeg_memWf, State.rewrite_memWf]

theorem State.translateCont_memWf {s : State} (h : s.memWf) (crew pa : Nat) : (s.translateCont crew pa).1.memWf := by
  grind [State.translateCont, frThen_memWf, State.bump_memWf, State.contSegs_memWf, State.rewrite_memWf, State.rewriteSegs_memWf,
    State.writeHome_memWf]

theorem State.tamob_memWf {s : State} (h : s.memWf) (crew fid : Nat) (e : Eff) : (s.tamob crew fid e).memWf := by
  grind [State.tamob, State.deliverFault_memWf, State.enter_memWf, State.leaveGroup_memWf, State.modFibre_memWf, State.translateCont_memWf]

theorem State.pageDefault_memWf {s : State} (h : s.memWf) (crew fid : Nat) (e : Eff) : (s.pageDefault crew fid e).memWf := by
  grind [State.pageDefault, State.deliverHard_memWf, State.enter_memWf, State.leaveGroup_memWf, State.modFibre_memWf, State.park_memWf,
    State.reissue_memWf, State.requestPages_memWf]

theorem State.haltCrew_memWf {s : State} (h : s.memWf) (crew fid pc : Nat) : (s.haltCrew crew fid pc).memWf := by
  grind [State.haltCrew, State.gangReport_memWf, State.modCrew_memWf]

theorem State.defaultOf_memWf {s : State} (h : s.memWf) (crew fid : Nat) (e : Eff) : (s.defaultOf crew fid e).memWf := by
  grind [→ State.memWf.parts, ← State.memWf.of_parts, State.defaultOf, State.deliverFault_memWf, State.goOn_memWf, State.haltCrew_memWf,
    State.leaveGroup_memWf, State.modFibre_memWf, State.pageDefault_memWf, State.tamob_memWf, State.terminate_memWf]

theorem State.deliver_memWf {s : State} (h : s.memWf) (crew fid : Nat) (e : Eff) : (s.deliver crew fid e).memWf := by
  have hb := fun x => State.effectBlocked_memWf h crew fid e x
  have hh := State.hingeFor_memWf h crew fid e.label
  unfold State.deliver
  split
  · split
    · exact hb _
    · next hr => rw [hr] at hh; exact State.defaultOf_memWf hh crew fid e
    · next hr => rw [hr] at hh; exact State.capture_memWf hh hb crew fid e _ _
  · exact h

theorem State.deliverAll_memWf {s : State} (h : s.memWf) (crew : Nat) (l : List (Nat × Eff)) : (s.deliverAll crew l).memWf := by
  grind [State.deliverAll, foldl_memWf, State.deliver_memWf]

theorem State.tokenError_memWf {s : State} (h : s.memWf) (crew fid k pc : Nat) (here : Bool) : (s.tokenError crew fid k pc here).memWf := by
  grind [State.tokenError, State.deliver_memWf, State.modFibre_memWf]

end Sys2Proof.Machine

end

section
/-! PROOF. Memories in canonical form after the parts of a word: operands, fetch, the end of a word, and control. -/

-- Theorems one after another, not at once: this bounds the memory that a compile of the whole text takes.
set_option Elab.async false

namespace Sys2Proof.Machine

/-! ## Operands -/

theorem State.setPcs_memWf {s : State} (h : s.memWf) (crew : Nat) (fids : List Nat) (pc : Nat) : (s.setPcs crew fids pc).memWf := by
  grind [State.setPcs, foldl_memWf, State.modFibre_memWf]

theorem State.leaveOverflow_memWf {s : State} (h : s.memWf) (crew fid : Nat) : (s.leaveOverflow crew fid).memWf := by
  grind [State.leaveOverflow, State.modCore_memWf]

theorem State.preemptFibre_memWf {s : State} (h : s.memWf) (crew fid : Nat) : (s.preemptFibre crew fid).memWf := by
  grind [State.preemptFibre, State.deliver_memWf, State.leaveOverflow_memWf, State.modFibre_memWf]

theorem State.preemptNotice_memWf {s : State} (h : s.memWf) (crew : Nat) (fids : List Nat) : (s.preemptNotice crew fids).memWf := by
  grind [State.preemptNotice, foldl_memWf, State.preemptFibre_memWf]

theorem State.preemptLate_memWf {s : State} (h : s.memWf) : s.preemptLate.memWf := by
  grind [State.preemptLate, foldl_memWf, State.preemptFibre_memWf]

theorem State.endSwitch_memWf {s : State} (h : s.memWf) (i : Issue) : (s.endSwitch i).memWf := by
  grind [State.endSwitch, State.dissolve_memWf, State.preemptNotice_memWf]

theorem State.endWord_memWf {s : State} (h : s.memWf) (i : Issue) (latches : List Latch) (switch : Bool) (bad : List (Nat × Eff)) :
    (s.endWord i latches switch bad).memWf := by
  grind [State.endWord, State.deliverAll_memWf, State.dissolve_memWf, State.endSwitch_memWf, State.modCrew_memWf, State.setPcs_memWf]

theorem State.groupEffect_memWf {s : State} (h : s.memWf) (i : Issue) (e : LaneErr) : (s.groupEffect i e).memWf := by
  grind [State.groupEffect, State.endWord_memWf]

theorem State.parkHeld_memWf {s : State} (h : s.memWf) (i : Issue) (instr : Instr) (sel : List Nat) (why : HoldFor) (waited : List Nat) :
    (s.parkHeld i instr sel why waited).2.memWf := by
  grind [State.parkHeld, foldl_memWf, State.fresh_memWf, State.modCrew_memWf, State.park_memWf, State.setPcs_memWf]

theorem State.holdWord_memWf {s : State} (h : s.memWf) (i : Issue) (instr : Instr) (sel : List Nat) (why : HoldFor) :
    (s.holdWord i instr sel why).memWf := by
  grind [State.holdWord, State.endSwitch_memWf, State.parkHeld_memWf, State.setPcs_memWf]

theorem State.holdPage_memWf {s : State} (h : s.memWf) (i : Issue) (instr : Instr) (fid va : Nat) (w : Bool) :
    (s.holdPage i instr fid va w).memWf := by
  grind [State.holdPage, State.pageRequest_memWf, State.parkHeld_memWf]

/-! ## Fetch -/

theorem State.codeWord_memWf {s : State} (h : s.memWf) (core key pa : Nat) : (s.codeWord core key pa).1.memWf := by
  grind [State.codeWord, State.modCore_memWf, State.modDie_memWf]

theorem State.fetchWord_memWf {s : State} (h : s.memWf) (core pasid va : Nat) : (s.fetchWord core pasid va).1.memWf := by
  grind [State.fetchWord, State.codeWord_memWf, State.coreXl_memWf]

/-! ## The end of a word -/

theorem State.countOn_memWf {s : State} (h : s.memWf) (i : Issue) (k : Nat) (fids : List Nat) : (s.countOn i k fids).1.memWf := by
  grind [State.countOn, foldl_memWf, State.modFibre_memWf]

theorem State.openBuf_memWf {s : State} (h : s.memWf) (crew : Nat) (b : ResBuf) : (s.openBuf crew b).memWf := by
  grind [State.openBuf, State.wakeRange_memWf, State.writeScratch_memWf]

theorem State.openBufs_memWf {s : State} (h : s.memWf) (crew : Nat) (test : ResBuf → Bool) : (s.openBufs crew test).memWf := by
  grind [State.openBufs, foldl_memWf, State.modCrew_memWf, State.openBuf_memWf]

theorem State.waitReturn_memWf {s : State} (h : s.memWf) (crew fid k : Nat) : (s.waitReturn crew fid k).memWf := by
  grind [State.waitReturn, State.acquire_memWf, State.modCrew_memWf, State.modFibre_memWf, State.openBufs_memWf, State.synchronise_memWf]

theorem State.finishWait_memWf {s : State} (h : s.memWf) (crew fid k : Nat) (stay : Bool) : (s.finishWait crew fid k stay).memWf := by
  grind [State.finishWait, State.enter_memWf, State.modFibre_memWf, State.tokenError_memWf, State.waitReturn_memWf]

theorem State.recheck_memWf {s : State} (h : s.memWf) (crew fid : Nat) : (s.recheck crew fid).memWf := by
  grind [State.recheck, State.deliver_memWf, State.finishWait_memWf]

theorem State.loseRecord_memWf {s : State} (h : s.memWf) (rec : Nat) : (s.loseRecord rec).memWf := by
  grind [State.loseRecord, State.gangReport_memWf, State.killGang_memWf]

theorem State.setDone_memWf {s : State} (h : s.memWf) (rec entry : Nat) : (s.setDone rec entry).memWf := by
  grind [State.setDone, State.loseRecord_memWf, State.pageRequest_memWf, State.writeHome_memWf]

theorem State.completeCont_memWf {s : State} (h : s.memWf) (rec k entry : Nat) (c : Option Cause) (eng : List RelTag) (reg : Nat) (vals :
    List Word) : (s.completeCont rec k entry c eng reg vals).memWf := by
  grind [→ State.memWf.parts, ← State.memWf.of_parts, State.completeCont, foldl_fst_memWf, State.setDone_memWf, State.writeHome_memWf]

theorem State.completeFor_memWf {s : State} (h : s.memWf) (w : Owner) (c : Option Cause) (eng : List RelTag) (regs : List Nat) (pos : Nat)
    (vals : List Word) : (s.completeFor w c eng regs pos vals).memWf := by
  cases w with
  | fibre crew fid k =>
    dsimp only [State.completeFor]
    split
    · exact State.modCrew_memWf h _ _
    · exact State.recheck_memWf (State.modFibre_memWf (State.bump_memWf h) _ _ _) _ _
  | cont rec k entry => exact State.completeCont_memWf h _ _ _ _ _ _ _

theorem State.completeAll_memWf {s : State} (h : s.memWf) (o : Op) (c : Option Cause) (eng : List RelTag) : (s.completeAll o c eng).memWf := by
  grind [State.completeAll, foldl_memWf, State.completeFor_memWf]

theorem State.barAcquire_memWf {s : State} (h : s.memWf) (crew fid n : Nat) : (s.barAcquire crew fid n).1.memWf := by
  grind [State.barAcquire, State.acquire_memWf, State.modFibre_memWf, State.synchronise_memWf]

theorem State.barRelease_memWf {s : State} (h : s.memWf) (crew fid n : Nat) : (s.barRelease crew fid n).memWf := by
  grind [State.barRelease, State.barAcquire_memWf, State.deliver_memWf, State.enter_memWf]

theorem State.modBar_memWf {s : State} (h : s.memWf) (crew n : Nat) (k : Barrier → Barrier) : (s.modBar crew n k).memWf := h

theorem State.completePhase_memWf {s : State} (h : s.memWf) (crew n : Nat) : (s.completePhase crew n).memWf := by
  grind [State.completePhase, foldl_memWf, State.barRelease_memWf, State.modBar_memWf]

theorem State.countArrival_memWf {s : State} (h : s.memWf) (crew n : Nat) : (s.countArrival crew n).memWf := by
  grind [State.countArrival, State.completePhase_memWf, State.modBar_memWf]

theorem State.arriveFibre_memWf {s : State} (h : s.memWf) (crew n : Nat) : (s.arriveFibre crew n).memWf := by
  grind [State.arriveFibre, State.countArrival_memWf, State.modBar_memWf, State.release_memWf]

theorem State.arriveEngine_memWf {s : State} (h : s.memWf) (crew n : Nat) (agent : Option Nat) : (s.arriveEngine crew n agent).memWf := by
  cases agent <;> grind [State.arriveEngine, State.modBar_memWf, State.countArrival_memWf, State.release_memWf]

theorem State.arriveOp_memWf {s : State} (h : s.memWf) (crew : Nat) (bar agent : Option Nat) : (s.arriveOp crew bar agent).memWf := by
  cases bar with
  | none => exact h
  | some n => exact State.arriveEngine_memWf h crew n agent

/-! ## Lane words -/

theorem State.withPops_memWf {s : State} (h : s.memWf) (i : Issue) (instr : Instr) (l : Lanes) (qs : List Nat)
    {run : State → KMap (List Word) → State} (hr : ∀ t p, t.memWf → (run t p).memWf) : (s.withPops i instr l qs run).memWf := by
  grind [State.withPops, State.endWord_memWf, State.holdWord_memWf, State.deliverAll_memWf, State.modCrew_memWf]

theorem LaneOp.run_memWf {s : State} (h : s.memWf) (o : LaneOp) (i : Issue) (e : Env) (l : Lanes) (switch : Bool) (pops : KMap (List Word)) :
    (LaneOp.run o i e l switch s pops).memWf := by
  grind [LaneOp.run, State.endWord_memWf, State.modCrew_memWf]

/-! ## Words across lanes -/

theorem State.uniformWrite_memWf {s : State} (h : s.memWf) (i : Issue) (e : Env) (lat n : Nat) (val : Word) (switch : Bool) (bad : List
    (Nat × Eff)) : (s.uniformWrite i e lat n val switch bad).memWf := by
  grind [State.uniformWrite, State.endWord_memWf, State.groupEffect_memWf, State.modCrew_memWf]

/-! ## Control words -/

theorem State.endControl_memWf {s : State} (h : s.memWf) (i : Issue) (bad : List (Nat × Eff)) : (s.endControl i bad).memWf := by
  grind [State.endControl, State.deliverAll_memWf, State.endSwitch_memWf]

theorem State.control_memWf {s : State} (h : s.memWf) (i : Issue) (l : Lanes) {act : FibreAct} (ha : ∀ t f, t.memWf → (act t f).1.memWf) :
    (s.control i l act).memWf := by
  have hp := State.setPcs_memWf h i.crew i.grp.fids (i.pc + 4)
  unfold State.control
  refine State.endControl_memWf (foldl_fst_memWf (fun r fid hr => ?_) l.sel hp) i _
  exact ha r.1 fid hr

theorem State.goTo_memWf {s : State} (h : s.memWf) (crew fid pc : Nat) : (s.goTo crew fid pc).memWf := h

theorem State.transfer_memWf {s : State} (h : s.memWf) (i : Issue) (fid target : Nat) (indirect : Bool) :
    (s.transfer i fid target indirect).1.memWf := by
  grind [State.transfer, State.goTo_memWf]

theorem frameAct_memWf {α : Type} {s : State} (h : s.memWf) (i : Issue) (instr : Instr) (fid : Nat) {r : FrRes α} (hr : r.1.memWf)
    {k : State → α → State × Option Eff} (hk : ∀ t a, t.memWf → (k t a).1.memWf) : (frameAct s i instr fid r k).1.memWf := by
  unfold frameAct
  split
  · exact hk _ _ hr
  · exact State.holdPage_memWf h i instr fid _ _
  · exact h

theorem State.checkHeader_memWf {s : State} (h : s.memWf) (i : Issue) (target : Nat) : (s.checkHeader i target).1.memWf := by
  grind [State.checkHeader, State.fetchWord_memWf]

theorem State.callFibre_memWf {s : State} (h : s.memWf) (i : Issue) (instr : Instr) (fid target : Nat) (indirect : Bool) :
    (s.callFibre i instr fid target indirect).1.memWf := by
  have hc := State.checkHeader_memWf h i target
  unfold State.callFibre
  split
  · exact h
  · split
    · exact h
    · split
      · next hr => rwa [hr] at hc
      · next hr =>
        rw [hr] at hc
        exact frameAct_memWf hc i instr fid (State.pushSeg_memWf hc _ _ _ _ _ _) fun u _ hu => State.goTo_memWf hu _ _ _

theorem State.formGroup_memWf {s : State} (h : s.memWf) (crew pc : Nat) (fids : List Nat) : (s.formGroup crew pc fids).memWf := by
  grind [State.formGroup, foldl_memWf, State.fresh_memWf, State.modCrew_memWf, State.modFibre_memWf]

theorem State.releaseAt_memWf {s : State} (h : s.memWf) (crew pc : Nat) (fids : List Nat) : (s.releaseAt crew pc fids).memWf := by
  grind [State.releaseAt, foldl_memWf, State.enter_memWf, State.formGroup_memWf, State.goTo_memWf, State.modCrew_memWf]

theorem State.releaseJoin_memWf {s : State} (h : s.memWf) (crew j : Nat) : (s.releaseJoin crew j).memWf := by
  grind [State.releaseJoin, foldl_memWf, State.modCrew_memWf, State.releaseAt_memWf]

theorem State.checkJoin_memWf {s : State} (h : s.memWf) (crew j : Nat) : (s.checkJoin crew j).memWf := by
  grind [State.checkJoin, State.releaseJoin_memWf]

theorem State.retire_memWf {s : State} (h : s.memWf) (crew fid : Nat) : (s.retire crew fid).memWf := by
  grind [State.retire, foldl_memWf, State.checkJoin_memWf, State.endCrew_memWf, State.modCrew_memWf, State.openBufs_memWf]

theorem State.waitTokens_memWf {s : State} (h : s.memWf) (i : Issue) (instr : Instr) (fid : Nat)
    {k : State → State × Option Eff} (hk : ∀ t, t.memWf → (k t).1.memWf) : (s.waitTokens i instr fid k).1.memWf := by
  grind [State.waitTokens, State.parkHeld_memWf, State.waitReturn_memWf, State.modFibre_memWf, foldl_memWf]

theorem State.exitFibre_memWf {s : State} (h : s.memWf) (i : Issue) (instr : Instr) (fid : Nat) : (s.exitFibre i instr fid).1.memWf := by
  unfold State.exitFibre
  refine State.waitTokens_memWf h i instr fid fun t ht => frameAct_memWf ht i instr fid (State.freeStack_memWf ht i.crew 256 _) fun u _ hu => ?_
  dsimp only
  exact State.retire_memWf hu i.crew fid

theorem barFibre_memWf {s : State} (h : s.memWf) (n : Nat) (parks : Bool) (i : Issue) (fid : Nat) : (barFibre n parks i s fid).1.memWf := by
  grind [barFibre, State.arriveFibre_memWf, State.barAcquire_memWf, State.park_memWf]

end Sys2Proof.Machine

end

section
/-! PROOF. Memories in canonical form after memory requests, copies, matrix work and messages. -/

-- Theorems one after another, not at once: this bounds the memory that a compile of the whole text takes.
set_option Elab.async false

namespace Sys2Proof.Machine

/-! ## Memory requests -/

theorem State.frameIssue_memWf {s : State} (h : s.memWf) (i : Issue) (fid : Nat) (r : MemReq) : (s.frameIssue i fid r).1.memWf := by
  grind [State.frameIssue, State.coreXl_memWf]

theorem State.launchMem_memWf {s : State} (h : s.memWf) (i : Issue) (fid : Nat) (r : MemReq) : (s.launchMem i fid r).memWf := h

theorem State.memLane_memWf {s : State} (h : s.memWf) (e : Env) (m : MemShape) (seq fid : Nat) : (s.memLane e m seq fid).1.memWf := by
  grind [State.memLane, State.frameIssue_memWf, State.launchMem_memWf]

/-! ## Accesses at their homes -/

theorem State.reqXl_memWf {s : State} (h : s.memWf) (o : Op) (r : MemReq) : (s.reqXl o r).1.memWf := by
  grind [State.reqXl, State.coreXl_memWf]

theorem State.fibreAcquire_memWf {s : State} (h : s.memWf) (core crew fid : Nat) (sc : Scope) (tags : List RelTag) :
    (s.fibreAcquire core crew fid sc tags).1.memWf := by
  cases sc with
  | core => exact State.synchronise_memWf h _ _ _ _
  | cluster | die | package | system =>
    exact Tried.andThen_memWf (State.acquire_memWf h _ _ _) fun t ht => State.modFibre_memWf (State.synchronise_memWf ht _ _ _ _) _ _ _

theorem State.noteRead_memWf {s : State} (h : s.memWf) (crew fid : Nat) (r : ReadRes) : (s.noteRead crew fid r).memWf := h

theorem State.eager_memWf {s : State} (h : s.memWf) (core : Nat) (sc : Scope) : (s.eager core sc).1.memWf := by
  cases sc with
  | package | system => exact State.drain_memWf h _
  | core | cluster | die => exact h

theorem State.leaveRelease_memWf {s : State} (h : s.memWf) (core line : Nat) (sc : Scope) (chips : List Nat) :
    (s.leaveRelease core line sc chips).memWf := by
  cases sc <;> grind [State.leaveRelease, State.recordRelease_memWf, State.release_memWf]

theorem Tried.done_memWf {r : Tried} (h : r.1.memWf) (vals : List Word) : (r.done vals).1.memWf := by
  unfold Tried.done
  split <;> exact h

theorem State.loadAt_memWf {s : State} (h : s.memWf) (core crew fid : Nat) (r : MemReq) (sz : Size) (pa : Nat) (cacheable : Bool) :
    (s.loadAt core crew fid r sz pa cacheable).1.memWf := by
  grind [State.loadAt, Tried.done_memWf, State.fibreAcquire_memWf, State.noteRead_memWf, State.readLine_memWf, State.tellChip_memWf]

theorem State.putStore_memWf {s : State} (h : s.memWf) (a crew : Nat) (r : MemReq) (pa : Nat) (cacheable home : Bool) (bs : List Byte) (tags :
    List RelTag) : (s.putStore a crew r pa cacheable home bs tags).1.memWf := by
  grind [State.putStore, State.storeHome_memWf, State.storeL1_memWf, State.storeWc_memWf]

theorem State.storeAt_memWf {s : State} (h : s.memWf) (core crew fid : Nat) (r : MemReq) (sz : Size) (pa : Nat) (cacheable : Bool) :
    (s.storeAt core crew fid r sz pa cacheable).1.memWf := by
  grind [State.storeAt, Tried.andThen_memWf, Tried.done_memWf, State.eager_memWf, State.leaveRelease_memWf, State.putStore_memWf]

theorem State.loadScratch_memWf {s : State} (h : s.memWf) (core crew fid : Nat) (r : MemReq) (sz : Size) :
    (s.loadScratch core crew fid r sz).1.memWf := by
  grind [State.loadScratch, State.invalidate_memWf, State.modFibre_memWf, State.synchronise_memWf]

theorem State.tagScratch_memWf {s : State} (h : s.memWf) (cluster addr n : Nat) (tags : List RelTag) :
    (s.tagScratch cluster addr n tags).memWf := by
  grind [→ State.memWf.parts, ← State.memWf.of_parts, State.tagScratch]

theorem State.storeScratch_memWf {s : State} (h : s.memWf) (core crew fid : Nat) (r : MemReq) (sz : Size) :
    (s.storeScratch core crew fid r sz).1.memWf := by
  grind [State.storeScratch, Tried.andThen_memWf, Tried.done_memWf, State.drain_memWf, State.release_memWf, State.tagScratch_memWf,
    State.writeScratch_memWf]

theorem State.frameAt_memWf {s : State} (h : s.memWf) (core crew : Nat) (r : MemReq) (pa : Nat) (cacheable : Bool) :
    (s.frameAt core crew r pa cacheable).1.memWf := by
  grind [State.frameAt, frThen_memWf, State.saddleFill_memWf, State.saddleWrite_memWf]

theorem State.ownBytes_memWf {s : State} (h : s.memWf) (a pa n : Nat) : (s.ownBytes a pa n).1.memWf := by
  grind [State.ownBytes, Tried.andThen_memWf, State.mergeLine_memWf, State.mergeWc_memWf]

theorem State.atomicKeep_memWf {s : State} (h : s.memWf) (a pa n : Nat) : (s.atomicKeep a pa n).memWf := by
  grind [State.atomicKeep, State.claimLine_memWf, State.modAgent_memWf, State.modHome_memWf]

theorem State.atomAt_memWf {s : State} (h : s.memWf) (core crew fid : Nat) (r : MemReq) (af : AtomFn) (result : Bool) (pa : Nat) :
    (s.atomAt core crew fid r af result pa).1.memWf := by
  grind +splitImp [State.atomAt, Tried.andThen_memWf, State.atomicKeep_memWf, State.atomicWrite_memWf, State.eager_memWf,
    State.fibreAcquire_memWf, State.leaveRelease_memWf, State.noteRead_memWf, State.ownBytes_memWf, State.refuse_memWf]

theorem State.fenceAt_memWf {s : State} (h : s.memWf) (core crew fid : Nat) (o : Order) (scope : Scope) :
    (s.fenceAt core crew fid o scope).1.memWf := by
  grind [State.fenceAt, Tried.andThen_memWf, Tried.done_memWf, State.drain_memWf, State.fibreAcquire_memWf, State.modFibre_memWf,
    State.release_memWf]

theorem State.ifenceAt_memWf {s : State} (h : s.memWf) (core crew fid : Nat) (scope : Scope) : (s.ifenceAt core crew fid scope).1.memWf := by
  grind [State.ifenceAt, Tried.done_memWf, State.fibreAcquire_memWf, State.modCore_memWf, State.modDie_memWf]

theorem State.xlPieces_memWf {s : State} (h : s.memWf) (core pasid : Nat) (acc : Acc) (ps : List (Nat × Nat)) :
    (s.xlPieces core pasid acc ps).1.memWf := by
  grind [State.xlPieces, foldl_fst_memWf, State.coreXl_memWf]

theorem State.dropLine_memWf {s : State} (h : s.memWf) (a line : Nat) : (s.dropLine a line).memWf := h

theorem State.cachePiece_memWf {s : State} (h : s.memWf) (a : Nat) (f : CacheFn) (nt : Bool) (pa n : Nat) (cacheable : Bool) :
    (s.cachePiece a f nt pa n cacheable).1.memWf := by
  grind [State.cachePiece, State.tryAll_memWf, Tried.andThen_memWf, State.dropLine_memWf, State.mergeLine_memWf, State.mergeWc_memWf,
    State.readLine_memWf]

theorem State.icinv_memWf {s : State} (h : s.memWf) (pasid ea len : Nat) : (s.icinv pasid ea len).memWf := h

theorem State.cacheAt_memWf {s : State} (h : s.memWf) (core crew : Nat) (r : MemReq) (f : CacheFn) : (s.cacheAt core crew r f).1.memWf := by
  grind [State.cacheAt, State.tryAll_memWf, Tried.done_memWf, State.cachePiece_memWf, State.icinv_memWf, State.xlPieces_memWf]

theorem State.setSlot_memWf {s : State} (h : s.memWf) (core addr units : Nat) : (s.setSlot core addr units).memWf := h

theorem State.freeSlot_memWf {s : State} (h : s.memWf) (core addr : Nat) : (s.freeSlot core addr).memWf := h

theorem State.writeImage_memWf {s : State} (h : s.memWf) (addr : Nat) (bs : List Byte) : (s.writeImage addr bs).memWf := by
  grind [State.writeImage, State.writeHome_memWf]

theorem State.setHolders_memWf {s : State} (h : s.memWf) (addr : Nat) (l : List Nat) : (s.setHolders addr l).memWf := by
  grind [→ State.memWf.parts, ← State.memWf.of_parts, State.setHolders, State.writeImage_memWf]

theorem State.setHome_memWf {s : State} (h : s.memWf) (addr v : Nat) : (s.setHome addr v).memWf := by
  grind [State.setHome, State.writeImage_memWf]

theorem State.reportHome_memWf {s : State} (h : s.memWf) (core addr : Nat) : (s.reportHome core addr).memWf := h

theorem State.returnSlot_memWf {s : State} (h : s.memWf) (core addr : Nat) : (s.returnSlot core addr).memWf := by
  grind [State.returnSlot, State.freeSlot_memWf, State.setHolders_memWf, State.setHome_memWf]

theorem State.roomForSlot_memWf {s : State} (h : s.memWf) (core addr : Nat) : (s.roomForSlot core addr).memWf := by
  grind [State.roomForSlot, State.returnSlot_memWf]

theorem State.recall_memWf {s : State} (h : s.memWf) (addr : Nat) : (s.recall addr).memWf := by
  grind [State.recall, foldl_memWf, State.returnSlot_memWf, State.setHolders_memWf, State.writeImage_memWf]

theorem State.recallPeer_memWf {s : State} (h : s.memWf) (addr : Nat) : (s.recallPeer addr).memWf := by
  grind [State.recallPeer, State.bump_memWf, State.setHome_memWf, State.writeImage_memWf]

theorem State.recallAny_memWf {s : State} (h : s.memWf) (addr : Nat) : (s.recallAny addr).memWf := by
  grind [State.recallAny, State.recall_memWf, State.recallPeer_memWf]

theorem State.joinHolders_memWf {s : State} (h : s.memWf) (core addr : Nat) : (s.joinHolders core addr).memWf := by
  grind [State.joinHolders, State.setHolders_memWf]

theorem State.takeAtHome_memWf {s : State} (h : s.memWf) (core addr n : Nat) : (s.takeAtHome core addr n).1.memWf := by
  grind [State.takeAtHome, State.joinHolders_memWf, State.recall_memWf, State.roomForSlot_memWf, State.setHome_memWf, State.setSlot_memWf]

theorem State.giveAtHome_memWf {s : State} (h : s.memWf) (core addr n : Nat) : (s.giveAtHome core addr n).1.memWf := by
  grind [State.giveAtHome, State.setHome_memWf, State.setSlot_memWf]

theorem State.initCounter_memWf {s : State} (h : s.memWf) (addr v : Nat) : (s.initCounter addr v).memWf := by
  grind [→ State.memWf.parts, ← State.memWf.of_parts, State.initCounter, State.recallAny_memWf, State.writeImage_memWf]

theorem State.takeBare_memWf {s : State} (h : s.memWf) (addr n : Nat) : (s.takeBare addr n).1.memWf := by
  grind [State.takeBare, State.recallAny_memWf, State.setHome_memWf]

theorem State.giveBare_memWf {s : State} (h : s.memWf) (addr n : Nat) : (s.giveBare addr n).1.memWf := by
  grind [State.giveBare, State.setHome_memWf]

theorem State.probeHome_memWf {s : State} (h : s.memWf) (core addr : Nat) : (s.probeHome core addr).1.memWf := h

theorem State.allowPeer_memWf {s : State} (h : s.memWf) (core addr n : Nat) (f : AllowFn) : (s.allowPeer core addr n f).1.memWf := by
  cases f <;> grind [State.allowPeer, State.initCounter_memWf, State.takeBare_memWf, State.giveBare_memWf, State.recallAny_memWf,
      State.tellChip_memWf]

theorem State.allowAtHome_memWf {s : State} (h : s.memWf) (core : Nat) (r : MemReq) (f : AllowFn) (addr : Nat) :
    (s.allowAtHome core r f addr).1.memWf := by
  cases f <;> grind [State.allowAtHome, State.allowPeer_memWf, State.initCounter_memWf, State.reportHome_memWf, State.takeAtHome_memWf,
    State.giveAtHome_memWf, State.recall_memWf, State.probeHome_memWf]

theorem State.joinAtHome_memWf {s : State} (h : s.memWf) (core : Nat) (r : MemReq) (addr : Nat) : (s.joinAtHome core r addr).1.memWf := by
  grind [State.joinAtHome, State.joinHolders_memWf, State.reportHome_memWf, State.roomForSlot_memWf, State.setSlot_memWf]

theorem State.allowLocal_memWf {s : State} (h : s.memWf) (core : Nat) (r : MemReq) (f : AllowFn) (addr : Nat) :
    ∀ x, s.allowLocal core r f addr = some x → x.1.memWf := by
  have hp := State.allowAtHome_memWf h core r .probe addr
  have hs := fun u => State.setSlot_memWf h core addr u
  cases f <;> cases hslot : s.slot core addr <;> simp only [State.allowLocal, hslot] <;> grind

theorem State.finishMem_memWf {s : State} (h : s.memWf) (id crew fid : Nat) (r : MemReq) (d : Done) : (s.finishMem id crew fid r d).memWf := by
  grind [→ State.memWf.parts, ← State.memWf.of_parts, State.finishMem, State.completeFor_memWf, State.modFibre_memWf]

theorem State.holdResult_memWf {s : State} (h : s.memWf) (id crew fid : Nat) (r : MemReq) (d : Done) : (s.holdResult id crew fid r d).memWf := h

theorem State.reqHome_memWf {s : State} (h : s.memWf) (o : Op) (crew fid : Nat) (r : MemReq) : (s.reqHome o crew fid r).1.memWf := by
  grind [State.reqHome, State.reqXl_memWf]

theorem State.performMem_memWf {s : State} (h : s.memWf) (o : Op) (crew fid : Nat) (r : MemReq) : (s.performMem o crew fid r).1.memWf := by
  have hh := State.reqHome_memWf h o crew fid r
  unfold State.performMem
  cases r.fn with
  | load sz | store sz =>
    cases r.space <;> grind [State.loadScratch_memWf, State.frameAt_memWf, State.loadAt_memWf, State.storeScratch_memWf, State.storeAt_memWf]
  | allow a =>
    have hl := fun t ht pa => State.allowLocal_memWf (s := t) ht o.core r a pa
    grind
  | _ => grind [State.fenceAt_memWf, State.ifenceAt_memWf, State.cacheAt_memWf]

theorem State.completeMem_memWf {s : State} (h : s.memWf) (id : Nat) (o : Op) (r : MemReq) (crew fid : Nat) :
    (s.completeMem id o r crew fid).memWf := by
  grind [State.completeMem, State.finishMem_memWf, State.performMem_memWf]

theorem State.waitRead_memWf {s : State} (h : s.memWf) (core crew fid : Nat) (r : MemReq) : (s.waitRead core crew fid r).1.memWf := by
  grind [State.waitRead, State.coreXl_memWf, State.fibreAcquire_memWf, State.noteRead_memWf, State.readLine_memWf]

theorem State.waitFibre_memWf {s : State} (h : s.memWf) (core crew fid pc : Nat) (r : MemReq) (wide : Bool) :
    (s.waitFibre core crew fid pc r wide).1.memWf := by
  grind [State.waitFibre, State.modFibre_memWf, State.park_memWf, State.waitRead_memWf]

theorem State.waitAgain_memWf {s : State} (h : s.memWf) (crew fid : Nat) (r : MemReq) (wide : Bool) : (s.waitAgain crew fid r wide).memWf := by
  grind [State.waitAgain, State.deliver_memWf, State.enter_memWf, State.waitFibre_memWf]

theorem State.wakeFibre_memWf {s : State} (h : s.memWf) (crew fid : Nat) : (s.wakeFibre crew fid).memWf := by
  grind [State.wakeFibre, State.orSnoop_memWf, State.waitAgain_memWf]

theorem State.wakeMonitors_memWf {s : State} (h : s.memWf) : s.wakeMonitors.memWf := by
  grind [State.wakeMonitors, foldl_memWf, State.wakeFibre_memWf]

/-! ## Accesses of the engines -/

theorem State.pagePa_memWf {s : State} (h : s.memWf) (pasid va : Nat) (write : Bool) : (s.pagePa pasid va write).1.memWf := by
  grind [State.pagePa, State.engineXl_memWf]

theorem State.engineRead_memWf {s : State} (h : s.memWf) (pasid va n : Nat) : (s.engineRead pasid va n).1.memWf := by
  grind [State.engineRead, foldl_fst_memWf, State.pagePa_memWf]

theorem State.placePieces_memWf {s : State} (h : s.memWf) (pasid : Nat) (l : List (Nat × List Byte)) : (s.placePieces pasid l).1.memWf := by
  induction l generalizing s with
  | nil => exact h
  | cons p ps ih => grind [State.placePieces, State.pagePa_memWf]

theorem State.engineWrites_memWf {s : State} (h : s.memWf) (agent : Nat) (crew : Option Nat) (pasid : Nat) (l : List (Nat × List Byte)) :
    (s.engineWrites agent crew pasid l).1.memWf := by
  grind [State.engineWrites, State.tryAll_memWf, State.engineWrite_memWf, State.placePieces_memWf]

/-! ## Copies -/

theorem State.launchCopy_memWf {s : State} (h : s.memWf) (i : Issue) (k : Nat) (c : CopyOp) (bar : Option Nat) (parts : List Nat) :
    (s.launchCopy i k c bar parts).memWf := by
  grind [→ State.memWf.parts, ← State.memWf.of_parts, State.launchCopy, State.fresh_memWf, State.modCrew_memWf, State.synchronise_memWf]

theorem State.setCopy_memWf {s : State} (h : s.memWf) (id : Nat) (c : CopyOp) (st : OpStage) : (s.setCopy id c st).memWf := h

theorem State.claimStaging_memWf {s : State} (h : s.memWf) (id : Nat) (o : Op) (c : CopyOp) (n : Nat) : (s.claimStaging id o c n).memWf := by
  grind [State.claimStaging, State.setCopy_memWf]

theorem State.takeLfsr_memWf {s : State} (h : s.memWf) (id crew : Nat) (c : CopyOp) : (s.takeLfsr id crew c).memWf := by
  grind [State.takeLfsr, State.modCrew_memWf, State.setCopy_memWf]

theorem State.startRecord_memWf {s : State} (h : s.memWf) (id : Nat) (o : Op) (c : CopyOp) : (s.startRecord id o c).memWf := by
  grind [State.startRecord, State.claimStaging_memWf, State.setCopy_memWf, State.takeLfsr_memWf]

theorem State.startCopy_memWf {s : State} (h : s.memWf) (crew : Nat) : (s.startCopy crew).memWf := by
  dsimp only [State.startCopy]
  split
  · exact h
  · split
    · exact h
    · next o _ => cases o.kind <;> grind [State.setCopy_memWf, State.claimStaging_memWf, State.startRecord_memWf]

theorem State.loadRow_memWf {s : State} (h : s.memWf) (pasid : Nat) (c : CopyOp) (r : Shape) (k : Nat) : (s.loadRow pasid c r k).1.memWf := by
  grind [State.loadRow, State.engineRead_memWf]

theorem State.gatherRow_memWf {s : State} (h : s.memWf) (pasid : Nat) (c : CopyOp) (r : Shape) (k : Nat) :
    (s.gatherRow pasid c r k).1.memWf := by
  grind [State.gatherRow, State.engineRead_memWf]

theorem rowsM_memWf {α : Type} {f : State → Nat → State × Except EngErr α} (hf : ∀ t k, t.memWf → (f t k).1.memWf) (l : List Nat) :
    ∀ {s : State}, s.memWf → (rowsM f l s).1.memWf := by
  induction l with
  | nil => exact fun h => h
  | cons k ks ih =>
    intro s h
    have hk := hf s k h
    unfold rowsM
    split
    · next hr => rwa [hr] at hk
    · next t a hr =>
      rw [hr] at hk
      have ht := ih hk
      split <;> (next hu => rwa [hu] at ht)

theorem State.copyTile_memWf {s : State} (h : s.memWf) (o : Op) (c : CopyOp) : (s.copyTile o c).1.memWf := by
  have hr := rowsM_memWf (f := fun t k => if c.fn = fnXgather then t.gatherRow (s.crew o.issuer).pasid c c.shape k
    else t.loadRow (s.crew o.issuer).pasid c c.shape k) (fun t k ht => by grind [State.gatherRow_memWf, State.loadRow_memWf]) (List.range c.recRows) h
  grind [State.copyTile]

theorem State.copyStore_memWf {s : State} (h : s.memWf) (o : Op) (c : CopyOp) : (s.copyStore o c).1.memWf := by
  grind [State.copyStore, State.engineWrites_memWf]

theorem State.dropCopy_memWf {s : State} (h : s.memWf) (id crew : Nat) : (s.dropCopy id crew).memWf := h

theorem State.arriveCopy_memWf {s : State} (h : s.memWf) (o : Op) (bar : Option Nat) : (s.arriveCopy o bar).memWf := by
  grind [State.arriveCopy, State.arriveOp_memWf]

theorem State.failCopy_memWf {s : State} (h : s.memWf) (id : Nat) (o : Op) (c : Cause) : (s.failCopy id o c).memWf := by
  grind [State.failCopy, State.arriveCopy_memWf, State.completeAll_memWf, State.dropCopy_memWf]

theorem State.copyError_memWf {s : State} (h : s.memWf) (id : Nat) (o : Op) (x : EngErr) : (s.copyError id o x).memWf := by
  cases x with
  | page va w => refine State.pageRequest_memWf ?_ _ _ _ _; exact h
  | walk _ | data _ | refused => exact State.failCopy_memWf h _ _ _

theorem State.openShutter_memWf {s : State} (h : s.memWf) (cluster : Nat) (h : Shutter) : (s.openShutter cluster h).memWf := by
  grind [→ State.memWf.parts, ← State.memWf.of_parts, State.openShutter, State.writeScratch_memWf]

theorem State.openShutters_memWf {s : State} (h : s.memWf) (crew core : Nat) : (s.openShutters crew core).memWf := by
  grind [State.openShutters, foldl_memWf, State.modCrew_memWf, State.openShutter_memWf]

theorem State.completePub_memWf {s : State} (h : s.memWf) (id : Nat) (o : Op) : (s.completePub id o).memWf := by
  grind [State.completePub, foldl_memWf, State.arriveCopy_memWf, State.completeAll_memWf, State.dropCopy_memWf, State.openShutters_memWf]

theorem State.completeCopy_memWf {s : State} (h : s.memWf) (id : Nat) (o : Op) (c : CopyOp) : (s.completeCopy id o c).memWf := by
  grind [State.completeCopy, State.arriveCopy_memWf, State.completeAll_memWf, State.completePub_memWf, State.copyError_memWf,
    State.copyStore_memWf, State.copyTile_memWf, State.dropCopy_memWf, State.failCopy_memWf, State.modCrew_memWf, State.release_memWf,
    State.writeScratch_memWf]

/-! ## The matrix engine -/

theorem State.launchMat_memWf {s : State} (h : s.memWf) (i : Issue) (k : Nat) (m : MatOp) (bar : Option Nat) (parts : List Nat) :
    (s.launchMat i k m bar parts).memWf := by
  grind [→ State.memWf.parts, ← State.memWf.of_parts, State.launchMat, State.fresh_memWf, State.modCluster_memWf, State.modCrew_memWf]

theorem State.openClaim_memWf {s : State} (h : s.memWf) (crew pair : Nat) (test : ResBuf → Bool) : (s.openClaim crew pair test).memWf := by
  grind [State.openClaim, foldl_memWf, State.modCrew_memWf, State.openBuf_memWf]

theorem State.finishMat_memWf {s : State} (h : s.memWf) (id : Nat) (o : Op) (c : Option Cause) : (s.finishMat id o c).memWf := by
  grind [→ State.memWf.parts, ← State.memWf.of_parts, State.finishMat, State.arriveOp_memWf, State.completeAll_memWf]

theorem State.releasePair_memWf {s : State} (h : s.memWf) (cluster crew pair : Nat) : (s.releasePair cluster crew pair).memWf := by
  grind [State.releasePair, State.modCluster_memWf, State.modCrew_memWf, State.openClaim_memWf]

theorem State.runMat_memWf {s : State} (h : s.memWf) (cluster pair crew : Nat) (k : Claim) (id : Nat) (o : Op) (m : MatOp) :
    (s.runMat cluster pair crew k id o m).memWf := by
  grind [State.runMat, State.finishMat_memWf, State.modCrew_memWf, State.openClaim_memWf, State.releasePair_memWf]

theorem State.startMat_memWf {s : State} (h : s.memWf) (cluster : Nat) (u : MatrixUnit) : (s.startMat cluster u).memWf := by
  grind [State.startMat, State.modCluster_memWf, State.runMat_memWf]

theorem State.grantClaim_memWf {s : State} (h : s.memWf) (cluster : Nat) : (s.grantClaim cluster).memWf := by
  grind [State.grantClaim, State.finishMat_memWf, State.modCluster_memWf, State.modCrew_memWf]

theorem State.finishUniform_memWf {s : State} (h : s.memWf) (id : Nat) (o : Op) (k c n : Nat) (cause : Option Cause) (vals : List Word) :
    (s.finishUniform id o k c n cause vals).memWf := by
  grind [→ State.memWf.parts, ← State.memWf.of_parts, State.finishUniform, State.bump_memWf, State.completeAll_memWf, State.modCrew_memWf]

theorem State.completeMstat_memWf {s : State} (h : s.memWf) (id : Nat) (o : Op) (m : MatOp) : (s.completeMstat id o m).memWf := by
  grind [State.completeMstat, State.finishUniform_memWf]

/-! ## Messages -/

theorem State.finishBulk_memWf {s : State} (h : s.memWf) (id : Nat) (c : Option Cause) (eng : List RelTag) (agent : Option Nat) :
    (s.finishBulk id c eng agent).memWf := by
  grind [→ State.memWf.parts, ← State.memWf.of_parts, State.finishBulk, State.arriveOp_memWf, State.completeAll_memWf, State.modCrew_memWf]

theorem State.bulkPage_memWf {s : State} (h : s.memWf) (id crew va : Nat) (w : Bool) : (s.bulkPage id crew va w).memWf := by
  grind [State.bulkPage, State.pageRequest_memWf]

theorem State.endSend_memWf {s : State} (h : s.memWf) (id : Nat) (c : Option Cause) : (s.endSend id c).memWf := by
  grind [→ State.memWf.parts, ← State.memWf.of_parts, State.endSend, State.answerCancels_memWf, State.finishBulk_memWf, State.release_memWf]

theorem State.failSend_memWf {s : State} (h : s.memWf) (id : Nat) (c : Cause) : (s.failSend id c).memWf := by
  grind [State.failSend, State.endSend_memWf, State.tellDest_memWf]

theorem State.sendError_memWf {s : State} (h : s.memWf) (id : Nat) (x : Send) (e : EngErr) : (s.sendError id x e).memWf := by
  cases e with
  | page va w => exact State.bulkPage_memWf h _ _ _ _
  | walk _ | data _ | refused => exact State.failSend_memWf h _ _

theorem State.progress_memWf {s : State} (h : s.memWf) (id : Nat) : (s.progress id).memWf := h

theorem State.sendRequest_memWf {s : State} (h : s.memWf) (id : Nat) (x : Send) : (s.sendRequest id x).memWf := by
  grind [→ State.memWf.parts, ← State.memWf.of_parts, State.sendRequest, State.endSend_memWf, State.engineRead_memWf, State.progress_memWf,
    State.sendError_memWf, State.tellDest_memWf]

theorem State.kickSends_memWf {s : State} (h : s.memWf) (n : Nat) : (s.kickSends n).memWf := by
  induction n generalizing s with
  | zero => exact h
  | succ n ih => grind [State.kickSends, State.sendRequest_memWf]

theorem State.startSends_memWf {s : State} (h : s.memWf) : s.startSends.memWf := by
  grind [State.startSends, State.kickSends_memWf]

theorem State.closeSend_memWf {s : State} (h : s.memWf) (id : Nat) (c : Option Cause) : (s.closeSend id c).memWf := by
  grind [State.closeSend, State.endSend_memWf, State.startSends_memWf]

theorem State.serveGrant_memWf {s : State} (h : s.memWf) (id : Nat) (x : Send) (r : GrantRange) : (s.serveGrant id x r).memWf := by
  grind [→ State.memWf.parts, ← State.memWf.of_parts, State.serveGrant, State.engineRead_memWf, State.progress_memWf, State.sendError_memWf,
    State.tellDest_memWf]

theorem State.serveGrants_memWf {s : State} (h : s.memWf) (id n : Nat) : (s.serveGrants id n).memWf := by
  induction n generalizing s with
  | zero => exact h
  | succ n ih => grind [State.serveGrants, State.serveGrant_memWf]

theorem State.takeGrant_memWf {s : State} (h : s.memWf) (id : Nat) (r : GrantRange) : (s.takeGrant id r).memWf := by
  grind [→ State.memWf.parts, ← State.memWf.of_parts, State.takeGrant, State.serveGrants_memWf, State.startSends_memWf, State.tellDest_memWf]

theorem State.retryRequest_memWf {s : State} (h : s.memWf) (id : Nat) : (s.retryRequest id).memWf := by
  grind [→ State.memWf.parts, ← State.memWf.of_parts, State.retryRequest, State.closeSend_memWf, State.sendRequest_memWf, State.startSends_memWf]

theorem State.noteRefusal_memWf {s : State} (h : s.memWf) (id : Nat) : (s.noteRefusal id).memWf := by
  grind [→ State.memWf.parts, ← State.memWf.of_parts, State.noteRefusal, State.closeSend_memWf]

theorem State.endRecv_memWf {s : State} (h : s.memWf) (id : Nat) (e : RecvEnd) (c : Option Cause) : (s.endRecv id e c).memWf := by
  grind [→ State.memWf.parts, ← State.memWf.of_parts, State.endRecv, State.finishBulk_memWf, State.release_memWf, State.tellSource_memWf]

theorem State.closeRecv_memWf {s : State} (h : s.memWf) (id : Nat) (r : Recv) (e : RecvEnd) : (s.closeRecv id r e).memWf := by
  grind [→ State.memWf.parts, ← State.memWf.of_parts, State.closeRecv, State.bulkPage_memWf, State.endRecv_memWf, State.engineWrites_memWf]

theorem State.endMsg_memWf {s : State} (h : s.memWf) (mid : Nat) (status : Nat) (tell : Bool) : (s.endMsg mid status tell).memWf := by
  grind [→ State.memWf.parts, ← State.memWf.of_parts, State.endMsg, State.closeRecv_memWf, State.tellSource_memWf]

theorem State.failMsg_memWf {s : State} (h : s.memWf) (mid : Nat) (c : Cause) : (s.failMsg mid c).memWf := by
  grind [→ State.memWf.parts, ← State.memWf.of_parts, State.failMsg, State.endRecv_memWf, State.tellSource_memWf]

theorem State.modMsg_memWf {s : State} (h : s.memWf) (mid : Nat) (f : Msg → Msg) : (s.modMsg mid f).memWf := h

theorem State.checkComplete_memWf {s : State} (h : s.memWf) (mid : Nat) : (s.checkComplete mid).memWf := by
  grind [State.checkComplete, State.endMsg_memWf]

theorem State.writeWait_memWf {s : State} (h : s.memWf) (mid n : Nat) : (s.writeWait mid n).memWf := by
  induction n generalizing s with
  | zero => exact h
  | succ n ih => grind [State.writeWait, State.engineWrites_memWf, State.progress_memWf, State.modMsg_memWf, State.bulkPage_memWf,
      State.failMsg_memWf]

theorem State.settleMsg_memWf {s : State} (h : s.memWf) (mid : Nat) : (s.settleMsg mid).memWf := by
  grind [State.settleMsg, State.checkComplete_memWf, State.writeWait_memWf]

theorem State.bindMsg_memWf {s : State} (h : s.memWf) (mid rid : Nat) : (s.bindMsg mid rid).memWf := by
  grind [→ State.memWf.parts, ← State.memWf.of_parts, State.bindMsg, State.settleMsg_memWf]

theorem State.wicketRequest_memWf {s : State} (h : s.memWf) (id : MsgId) (len pri port : Nat) (bytes : List Byte) :
    (s.wicketRequest id len pri port bytes).memWf := by
  grind [→ State.memWf.parts, ← State.memWf.of_parts, State.wicketRequest, State.bindMsg_memWf, State.fresh_memWf, State.tellSource_memWf]

theorem State.wicketData_memWf {s : State} (h : s.memWf) (id : MsgId) (off epoch : Nat) (bytes : List Byte) :
    (s.wicketData id off epoch bytes).memWf := by
  grind [State.wicketData, State.modMsg_memWf, State.settleMsg_memWf]

theorem State.giveGrant_memWf {s : State} (h : s.memWf) (mid : Nat) (m : Msg) (lo size : Nat) : (s.giveGrant mid m lo size).memWf := by
  grind [→ State.memWf.parts, ← State.memWf.of_parts, State.giveGrant, State.fresh_memWf, State.tellSource_memWf]

theorem State.wicketGrant_memWf {s : State} (h : s.memWf) (port : Nat) : (s.wicketGrant port).memWf := by
  grind [State.wicketGrant, State.bulkPage_memWf, State.failMsg_memWf, State.giveGrant_memWf, State.modMsg_memWf]

theorem State.wicketExpiry_memWf {s : State} (h : s.memWf) (mid gid : Nat) : (s.wicketExpiry mid gid).memWf := by
  grind [→ State.memWf.parts, ← State.memWf.of_parts, State.wicketExpiry, State.endMsg_memWf]

theorem State.wicketPause_memWf {s : State} (h : s.memWf) (id : MsgId) : (s.wicketPause id).memWf := by
  grind [→ State.memWf.parts, ← State.memWf.of_parts, State.wicketPause]

theorem State.wicketResume_memWf {s : State} (h : s.memWf) (id : MsgId) (off : Nat) : (s.wicketResume id off).memWf := by
  grind [→ State.memWf.parts, ← State.memWf.of_parts, State.wicketResume, State.checkComplete_memWf]

theorem State.bulkRetry_memWf {s : State} (h : s.memWf) (id : Nat) : (s.bulkRetry id).memWf := by
  grind [State.bulkRetry, State.closeRecv_memWf, State.modMsg_memWf, State.serveGrants_memWf, State.settleMsg_memWf, State.startSends_memWf]

theorem State.bulkDenied_memWf {s : State} (h : s.memWf) (id : Nat) : (s.bulkDenied id).memWf := by
  grind [State.bulkDenied, State.endRecv_memWf, State.failMsg_memWf, State.failSend_memWf, State.startSends_memWf]

theorem State.endQuery_memWf {s : State} (h : s.memWf) (id : Nat) (o : Op) (q : BulkQuery) (c : Option Cause) (vals : List Word) :
    (s.endQuery id o q c vals).memWf := by
  grind [State.endQuery, State.arriveOp_memWf, State.finishUniform_memWf]

theorem State.finishQuery_memWf {s : State} (h : s.memWf) (id : Nat) (o : Op) (q : BulkQuery) (vals : List Word) :
    (s.finishQuery id o q vals).memWf := by
  grind [State.finishQuery, State.endQuery_memWf]

theorem State.applyCancel_memWf {s : State} (h : s.memWf) (id : Nat) (o : Op) (q : BulkQuery) : (s.applyCancel id o q).memWf := by
  grind [→ State.memWf.parts, ← State.memWf.of_parts, State.applyCancel, State.closeRecv_memWf, State.closeSend_memWf, State.endMsg_memWf,
    State.finishQuery_memWf, State.tellDest_memWf]

theorem State.completeQuery_memWf {s : State} (h : s.memWf) (id : Nat) (o : Op) (q : BulkQuery) : (s.completeQuery id o q).memWf := by
  grind [State.completeQuery, State.applyCancel_memWf, State.finishQuery_memWf]

theorem State.bulkOp_memWf {s : State} (h : s.memWf) (i : Issue) (k : Nat) (kind : OpKind) (bar : Option Nat) (parts : List Nat) :
    (s.bulkOp i k kind bar parts).2.memWf := by
  grind [→ State.memWf.parts, ← State.memWf.of_parts, State.bulkOp, State.fresh_memWf, State.synchronise_memWf]

theorem launchSend_memWf {s : State} (h : s.memWf) (k : Nat) (p : BulkPlan) (parts : List Nat) (i : Issue) :
    (launchSend k p parts i s).memWf := by
  grind [→ State.memWf.parts, ← State.memWf.of_parts, launchSend, State.bulkOp_memWf, State.startSends_memWf]

theorem launchRecv_memWf {s : State} (h : s.memWf) (k : Nat) (p : BulkPlan) (parts : List Nat) (i : Issue) :
    (launchRecv k p parts i s).memWf := by
  grind [→ State.memWf.parts, ← State.memWf.of_parts, launchRecv, State.bindMsg_memWf, State.bulkOp_memWf, State.finishBulk_memWf]

theorem launchQuery_memWf {s : State} (h : s.memWf) (k c : Nat) (p : BulkPlan) (parts : List Nat) (i : Issue) :
    (launchQuery k c p parts i s).memWf := by
  grind [launchQuery, State.bulkOp_memWf, State.modCrew_memWf]

end Sys2Proof.Machine

end

section
/-! PROOF. Memories in canonical form after the work of the frame engine and of the command engine. -/

-- Theorems one after another, not at once: this bounds the memory that a compile of the whole text takes.
set_option Elab.async false

namespace Sys2Proof.Machine

/-! ## Words of the frame engine -/

theorem laneStop_memWf {s : State} (h : s.memWf) (x : LaneErr) (i : Issue) : (laneStop s x i).1.memWf := h

theorem State.hinst_memWf {s : State} (h : s.memWf) (i : Issue) (instr : Instr) (fid mask hpc : Nat) : (s.hinst i instr fid mask hpc).1.memWf := by
  unfold State.hinst
  split
  · exact h
  · split
    · exact h
    · exact frameAct_memWf h i instr fid (State.pushSeg_memWf h _ _ _ _ _ _) fun t _ ht => State.modFibre_memWf ht _ _ _

theorem State.findCont_memWf {s : State} (h : s.memWf) (crew handle : Nat) : (s.findCont crew handle).1.memWf := by
  grind [State.findCont, frThen_memWf, State.frameXl_memWf]

theorem State.chainEntries_memWf {s : State} (h : s.memWf) (crew k : Nat) (n : Nat) (va : Nat) : (s.chainEntries crew k n va).1.memWf := by
  induction k generalizing s n va with
  | zero => exact h
  | succ k ih =>
    unfold State.chainEntries
    split
    · exact h
    · exact frThen_memWf (State.frameXl_memWf h _ _ _) fun t pa ht => frThen_memWf (ih ht _ _) fun u l hu => hu

theorem State.contEntries_memWf {s : State} (h : s.memWf) (crew va pa : Nat) (h : ContHead) : (s.contEntries crew va pa h).1.memWf := by
  grind [State.contEntries, State.chainEntries_memWf]

theorem State.clearActive_memWf {s : State} (h : s.memWf) (crew seg : Nat) : (s.clearActive crew seg).1.memWf := by
  grind [State.clearActive, frThen_memWf, State.frameWrite_memWf, State.searchDown_memWf]

theorem State.relink_memWf {s : State} (h : s.memWf) (crew fid : Nat) (l : List SegHead) (link : Nat) (mask : Word64) :
    (s.relink crew fid link mask l).1.memWf := by
  induction l generalizing s link mask with
  | nil => exact h
  | cons hd hs ih =>
    refine frThen_memWf (State.frameWrite_memWf h _ _ _) fun t _ ht => frThen_memWf ?_ fun u _ hu => ?_
    · split
      · exact ht
      · exact State.frameWrite_memWf ht _ _ _
    · split
      · exact frThen_memWf (State.frameWrite_memWf hu _ _ _) fun v _ hv => ih hv _ _
      · exact ih hu _ _

theorem State.adoptTracked_memWf {s : State} (h : s.memWf) (pa crew fid : Nat) : (s.adoptTracked pa crew fid).memWf := h

theorem State.freeRecord_memWf {s : State} (h : s.memWf) (gang va : Nat) (reps : List Nat) : (s.freeRecord gang va reps).memWf := by
  grind [State.freeRecord, foldl_memWf, State.unuseSeg_memWf]

theorem State.takeResume_memWf {s : State} (h : s.memWf) (crew fid va pa : Nat) (h : ContHead) (lo hi : Word) :
    (s.takeResume crew fid va pa h lo hi).1.memWf := by
  grind [→ State.memWf.parts, ← State.memWf.of_parts, State.takeResume, frThen_memWf, State.acquire_memWf, State.adoptTracked_memWf,
    State.clearActive_memWf, State.contEntries_memWf, State.contSegs_memWf, State.freeRecord_memWf, State.modFibre_memWf, State.reissue_memWf,
    State.relink_memWf, State.setCurrent_memWf, State.synchronise_memWf, State.writeHome_memWf]

theorem State.resumeFibre_memWf {s : State} (h : s.memWf) (i : Issue) (instr : Instr) (fid handle : Nat) (lo hi : Word) :
    (s.resumeFibre i instr fid handle lo hi).1.memWf := by
  refine State.waitTokens_memWf h i instr fid fun t ht => frameAct_memWf ht i instr fid (State.findCont_memWf ht _ _) fun u r hu => ?_
  cases r with
  | error c => exact hu
  | ok x =>
    dsimp only
    repeat' split
    iterate 4 exact hu
    exact frameAct_memWf hu i instr fid (State.takeResume_memWf hu _ _ _ _ _ _ _) fun v _ hv => hv

theorem State.launchFrame_memWf {s : State} (h : s.memWf) (i : Issue) (fid k : Nat) (o : FrameOp) (regs : List Nat) :
    (s.launchFrame i fid k o regs).memWf := h

theorem frameLane_memWf {s : State} (h : s.memWf) (fn k b : Nat) (a : Sel) (regs : List Nat) (i : Issue) (e : Env) (fid : Nat) :
    (frameLane fn k b a regs i e s fid).1.memWf := by
  grind [frameLane, laneStop_memWf, State.launchFrame_memWf]

theorem State.finishFrame_memWf {s : State} (h : s.memWf) (id : Nat) (o : Op) (f : FrameOp) (c : Option Cause) (eng : List RelTag) (vals :
    List Word) : (s.finishFrame id o f c eng vals).memWf := by
  grind [→ State.memWf.parts, ← State.memWf.of_parts, State.finishFrame, foldl_memWf, State.completeFor_memWf]

theorem State.framePage_memWf {s : State} (h : s.memWf) (id : Nat) (o : Op) (f : FrameOp) (fid va : Nat) (w heap : Bool) :
    (s.framePage id o f fid va w heap).memWf := by
  grind [→ State.memWf.parts, ← State.memWf.of_parts, State.framePage, State.pageRequest_memWf]

theorem State.untake_memWf {s : State} (h : s.memWf) (pa : Nat) : (s.untake pa).memWf := by
  grind [State.untake, State.writeHome_memWf]

theorem State.giveBack_memWf {s : State} (h : s.memWf) (f : FrameOp) : (s.giveBack f).memWf := by
  grind [State.giveBack, State.untake_memWf]

theorem State.frameFail_memWf {s : State} (h : s.memWf) (id : Nat) (o : Op) (f : FrameOp) (fid : Nat) (x : FrErr) :
    (s.frameFail id o f fid x).memWf := by
  cases x with
  | page va w => exact State.framePage_memWf h _ _ _ _ _ _ _
  | effect l c => exact State.finishFrame_memWf (State.giveBack_memWf h _) _ _ _ _ _ _

theorem State.imageFail_memWf {s : State} (h : s.memWf) (id : Nat) (o : Op) (f : FrameOp) (fid : Nat) (x : EngErr) :
    (s.imageFail id o f fid x).memWf := by
  cases x with
  | page va w => exact State.framePage_memWf h _ _ _ _ _ _ _
  | walk _ | data _ | refused => exact State.finishFrame_memWf h _ _ _ _ _ _

theorem State.frameOpThen_memWf {α : Type} {s : State} (h : s.memWf) (id : Nat) (o : Op) (f : FrameOp) (fid : Nat) {r : FrRes α} (hr : r.1.memWf)
    {k : State → α → State} (hk : ∀ t a, t.memWf → (k t a).memWf) : (s.frameOpThen id o f fid r k).memWf := by
  unfold State.frameOpThen
  split
  · exact hk _ _ hr
  · exact State.frameFail_memWf h id o f fid _

theorem State.freeSegs_memWf {s : State} (h : s.memWf) (gang : Nat) (segs : List SegHead) : (s.freeSegs gang segs).memWf := by
  grind [State.freeSegs, foldl_memWf, State.unuseSeg_memWf]

theorem State.completeDrop_memWf {s : State} (h : s.memWf) (id : Nat) (o : Op) (f : FrameOp) (fid : Nat) : (s.completeDrop id o f fid).memWf := by
  refine State.frameOpThen_memWf h id o f fid (State.findCont_memWf h _ _) fun t r ht => ?_
  cases r with
  | error x => exact State.finishFrame_memWf ht _ _ _ _ _ _
  | ok x =>
    have last : ∀ (u : State) (o : Op) (g : FrameOp) (va pa : Nat) (hd : ContHead), u.memWf → (if u.tracks pa then u
        else u.frameOpThen id { o with stage := .running } g fid (u.contEntries o.issuer va pa hd) fun v er =>
          (((v.freeRecord (s.crew o.issuer).gang va er.2).release o.core .package).1.finishFrame id o f none
            [((v.freeRecord (s.crew o.issuer).gang va er.2).release o.core .package).2] [])).memWf := by
      intro u o g va pa hd hu
      split
      · exact hu
      · exact State.frameOpThen_memWf hu _ _ _ _ (State.contEntries_memWf hu _ _ _ _) fun v er hv =>
          State.finishFrame_memWf (State.release_memWf (State.freeRecord_memWf hv _ _ _) _ _ _) _ _ _ _ _ _
    dsimp only
    split
    · exact last _ _ _ _ _ _ ht
    · split
      · exact State.finishFrame_memWf ht _ _ _ _ _ _
      · exact State.frameOpThen_memWf ht id o f fid (State.contSegs_memWf ht _ _ _) fun u segs hu =>
          last _ _ _ _ _ _ (State.freeSegs_memWf (State.writeHome_memWf hu _ _) _ _)

theorem State.completeKstat_memWf {s : State} (h : s.memWf) (id : Nat) (o : Op) (f : FrameOp) (fid : Nat) : (s.completeKstat id o f fid).memWf := by
  refine State.frameOpThen_memWf h id o f fid (State.findCont_memWf h _ _) fun t r ht => ?_
  cases r <;> grind [State.finishFrame_memWf]

theorem State.packSegs_memWf {s : State} (h : s.memWf) (crew : Nat) (l : List SegHead) : (s.packSegs crew l).1.memWf := by
  induction l generalizing s with
  | nil => exact h
  | cons hd hs ih => exact frThen_memWf (State.frameRead_memWf h _ _ _) fun t bs ht => frThen_memWf (ih ht) fun u more hu => hu

theorem State.packImage_memWf {s : State} (h : s.memWf) (crew va pa : Nat) (h : ContHead) : (s.packImage crew va pa h).1.memWf := by
  grind [State.packImage, frThen_memWf, State.contEntries_memWf, State.contSegs_memWf, State.packSegs_memWf]

theorem State.kpackWrite_memWf {s : State} (h : s.memWf) (id : Nat) (o : Op) (f : FrameOp) (fid va pa : Nat) :
    (s.kpackWrite id o f fid va pa).memWf := by
  refine State.frameOpThen_memWf h id o f fid (State.packImage_memWf h _ _ _ _) fun t x ht => ?_
  have hu : (((t.writeHome (contAt pa 0) [contTaken]).acquire o.core .package []).1.synchronise o.core .package [] (t.contTags pa)).memWf :=
    State.synchronise_memWf (State.acquire_memWf (State.writeHome_memWf ht _ _) _ _ _) _ _ _ _
  grind [State.engineWrites_memWf, State.imageFail_memWf, State.untake_memWf, State.freeSegs_memWf, State.freeRecord_memWf, State.release_memWf,
    State.finishFrame_memWf]

theorem State.completeKpack_memWf {s : State} (h : s.memWf) (id : Nat) (o : Op) (f : FrameOp) (fid : Nat) : (s.completeKpack id o f fid).memWf := by
  refine State.frameOpThen_memWf h id o f fid (State.findCont_memWf h _ _) fun t r ht => ?_
  cases r <;> grind [State.finishFrame_memWf, State.kpackWrite_memWf]

theorem State.unpackSegs_memWf {s : State} (h : s.memWf) (crew link : Nat) (l : List (Nat × List Byte)) :
    (s.unpackSegs crew link l).1.memWf := by
  induction l generalizing s link with
  | nil => exact h
  | cons x l ih => exact frThen_memWf (State.writeSegHome_memWf h _ _ _) fun t _ ht => ih ht _

theorem State.unpackInto_memWf {s : State} (h : s.memWf) (crew rec : Nat) (before : Bool) (reps vas : List Nat) (head : List Byte)
    (entries segs : List (List Byte)) : (s.unpackInto crew rec before reps vas head entries segs).1.memWf := by
  grind [State.unpackInto, frThen_memWf, State.nextGen_memWf, State.release_memWf, State.setContTags_memWf, State.unpackSegs_memWf,
    State.writeReplay_memWf, State.writeSegHome_memWf]

theorem State.unpackBody_memWf {s : State} (h : s.memWf) (id : Nat) (o : Op) (f : FrameOp) (fid : Nat) (head : List Byte) :
    (s.unpackBody id o f fid head).memWf := by
  have hr := State.engineRead_memWf h (s.crew o.issuer).pasid (f.image + contBytes) (32 * fieldLe head 100 4 + 1024 * fieldLe head 6 2)
  dsimp only [State.unpackBody]
  split
  · exact State.finishFrame_memWf h _ _ _ _ _ _
  · split
    · next hx => exact State.imageFail_memWf (fst_memWf hr hx) _ _ _ _ _
    · next t bs hx =>
      have ht := fst_memWf hr hx
      split
      · exact State.finishFrame_memWf ht _ _ _ _ _ _
      · split
        · exact State.finishFrame_memWf ht _ _ _ _ _ _
        · split
          · next u rec reps hu =>
            have hu : u.memWf := State.allocRecord_memWf ht _ _ _ hu
            split
            · exact State.finishFrame_memWf ht _ _ _ _ _ _
            · next v vas hv =>
              have hv : v.memWf := State.allocSegs_memWf hu _ _ _ hv
              exact State.frameOpThen_memWf ht id o f fid (State.unpackInto_memWf hv _ _ _ _ _ _ _ _) fun w hd hw =>
                State.finishFrame_memWf hw _ _ _ _ _ _
          · exact State.finishFrame_memWf ht _ _ _ _ _ _

theorem State.completeKunpack_memWf {s : State} (h : s.memWf) (id : Nat) (o : Op) (f : FrameOp) (fid : Nat) :
    (s.completeKunpack id o f fid).memWf := by
  grind [State.completeKunpack, State.engineRead_memWf, State.imageFail_memWf, State.unpackBody_memWf]

theorem State.completeFrame_memWf {s : State} (h : s.memWf) (id : Nat) (o : Op) (f : FrameOp) (fid : Nat) :
    (s.completeFrame id o f fid).memWf := by
  grind [State.completeFrame, State.completeDrop_memWf, State.completeKpack_memWf, State.completeKstat_memWf, State.completeKunpack_memWf]

theorem State.frameDenied_memWf {s : State} (h : s.memWf) (id : Nat) (o : Op) (f : FrameOp) (c : Cause) : (s.frameDenied id o f c).memWf := by
  grind [State.frameDenied, State.finishFrame_memWf, State.giveBack_memWf, State.terminate_memWf]

theorem State.pushSpawn_memWf {s : State} (h : s.memWf) (e : Env) (fid : Nat) (r : Bool) : (s.pushSpawn e fid r).1.memWf := h

theorem State.spawnFibre_memWf {s : State} (h : s.memWf) (i : Issue) (e : Env) (instr : Instr) (fid start : Nat) (lo hi : Word) :
    (s.spawnFibre i e instr fid start lo hi).1.memWf := by
  have hc := State.checkHeader_memWf h i start
  unfold State.spawnFibre
  split
  · exact h
  · split
    · next hr => rwa [hr] at hc
    · next t hr =>
      have ht := fst_memWf hc hr
      split
      · exact ht
      · split
        · exact State.pushSpawn_memWf ht _ _ _
        · next new hn =>
          have hs := State.firstSeg_memWf ht i.crew new
          split
          · exact State.pushSpawn_memWf ht _ _ _
          · next u seg hu =>
            rw [hu] at hs
            exact State.pushSpawn_memWf (State.enter_memWf (State.modCrew_memWf hs _ _) _ _) _ _ _
          · exact State.holdPage_memWf ht _ _ _ _ _
          · exact ht

/-! ## Registers of the management space -/

theorem State.writeThr_memWf {s : State} (h : s.memWf) (off : Nat) (bs : List Byte) : (s.writeThr off bs).memWf := by
  grind [State.writeThr, State.writePas_memWf]

theorem State.setQueue_memWf {s : State} (h : s.memWf) (q : Nat) (x : Queue) : (s.setQueue q x).memWf := by
  grind [→ State.memWf.parts, ← State.memWf.of_parts, State.setQueue, State.writeThr_memWf]

theorem State.modQueue_memWf {s : State} (h : s.memWf) (q : Nat) (f : Queue → Queue) : (s.modQueue q f).memWf := by
  grind [State.modQueue, State.setQueue_memWf]

theorem State.writeThrHead_memWf {s : State} (h : s.memWf) : s.writeThrHead.memWf := by
  grind [State.writeThrHead, State.writeThr_memWf]

theorem State.plainReport_memWf {s : State} (h : s.memWf) (c : Cause) (q head addr : Nat) : (s.plainReport c q head addr).memWf := by
  grind [State.plainReport, State.report_memWf]

theorem State.heartbeat_memWf {s : State} (h : s.memWf) (head : Nat) : (s.heartbeat head).memWf := by
  grind [State.heartbeat, State.modHead_memWf, State.writeThrHead_memWf]

theorem State.failHead_memWf {s : State} (h : s.memWf) (head : Nat) : (s.failHead head).memWf := by
  grind [→ State.memWf.parts, ← State.memWf.of_parts, State.failHead, State.modHead_memWf, State.plainReport_memWf, State.writeThrHead_memWf]

theorem State.moveVectors_memWf {s : State} (h : s.memWf) (head : Nat) : (s.moveVectors head).memWf := by
  grind [→ State.memWf.parts, ← State.memWf.of_parts, State.moveVectors, foldl_memWf, State.sendVector_memWf]

theorem State.moveReports_memWf {s : State} (h : s.memWf) (head : Nat) : (s.moveReports head).memWf := by
  grind [→ State.memWf.parts, ← State.memWf.of_parts, State.moveReports, foldl_memWf, State.toHost_memWf]

theorem State.claimQueues_memWf {s : State} (h : s.memWf) (head val : Nat) : (s.claimQueues head val).memWf := by
  grind [→ State.memWf.parts, ← State.memWf.of_parts, State.claimQueues, foldl_memWf, State.modQueue_memWf, State.moveReports_memWf,
    State.moveVectors_memWf, State.plainReport_memWf, State.writeThrHead_memWf]

theorem State.startFlush_memWf {s : State} (h : s.memWf) (all : Bool) (pasid : Nat) : (s.startFlush all pasid).memWf := by
  grind [→ State.memWf.parts, ← State.memWf.of_parts, State.startFlush]

theorem State.readOcc_memWf {s : State} (h : s.memWf) (core phase kind : Nat) : (s.readOcc core phase kind).1.memWf := h

theorem State.notReady_memWf {s : State} (h : s.memWf) (head off : Nat) : (s.notReady head off).memWf := by
  grind [State.notReady, State.modHead_memWf, State.plainReport_memWf]

theorem State.hostAccess_memWf {s : State} (h : s.memWf) (head off : Nat) {k : State → State} (hk : (k s).memWf) :
    (s.hostAccess head off k).memWf := by
  grind [State.hostAccess, State.notReady_memWf]

theorem State.readCommand_memWf {s : State} (h : s.memWf) (off : Nat) : (s.readCommand off).1.memWf := by
  grind [State.readCommand, State.readOcc_memWf]

theorem State.readReg_memWf {s : State} (h : s.memWf) (head off : Nat) : (s.readReg head off).1.memWf := by
  grind [State.readReg, State.notReady_memWf, State.readCommand_memWf]

theorem State.queueError_memWf {s : State} (h : s.memWf) (q : Nat) (c : Cause) (idx : Nat) : (s.queueError q c idx).memWf := by
  grind [State.queueError, State.modQueue_memWf, State.plainReport_memWf]

theorem State.notifyQueue_memWf {s : State} (h : s.memWf) (head q wptr : Nat) : (s.notifyQueue head q wptr).memWf := by
  grind [State.notifyQueue, State.modQueue_memWf, State.queueError_memWf]

theorem State.writeReg_memWf {s : State} (h : s.memWf) (head off val : Nat) : (s.writeReg head off val).memWf := by
  grind [→ State.memWf.parts, ← State.memWf.of_parts, State.writeReg, State.claimQueues_memWf, State.heartbeat_memWf, State.modHead_memWf,
    State.notReady_memWf, State.notifyQueue_memWf, State.startFlush_memWf]

/-! ## Packets and launches -/

theorem State.cmdWrite_memWf {s : State} (h : s.memWf) (pasid va : Nat) (bs : List Byte) : (s.cmdWrite pasid va bs).1.memWf := by
  grind [State.cmdWrite, foldl_memWf, State.applyBytes_memWf, State.placePieces_memWf]

theorem State.cmdAtomic_memWf {s : State} (h : s.memWf) (pasid va : Nat) (f : Nat → Nat) : (s.cmdAtomic pasid va f).1.memWf := by
  grind [State.cmdAtomic, State.applyBytes_memWf, State.engineXl_memWf]

theorem State.runSignal_memWf {s : State} (h : s.memWf) (q pasid : Nat) (bs : List Byte) : (s.runSignal q pasid bs).memWf := by
  grind [State.runSignal, State.cmdAtomic_memWf, State.plainReport_memWf]

theorem State.checkBlock_memWf {s : State} (h : s.memWf) (pasid : Nat) (bs blk : List Byte) (chips : List Nat) :
    (s.checkBlock pasid bs blk chips).1.memWf := by
  have read : ∀ {t : State}, t.memWf → ∀ va n, (t.engineRead pasid va n).1.memWf := fun ht va n => State.engineRead_memWf ht pasid va n
  obtain ⟨E, hE⟩ : ∃ E, E = State.engineRead := ⟨_, rfl⟩
  dsimp only [State.checkBlock]
  rw [← hE] at read ⊢
  split
  · exact h
  · split
    · exact h
    · split
      · next hx => exact fst_memWf (read h _ _) hx
      · next hx =>
        have ht := fst_memWf (read h _ _) hx
        split
        · next hy => exact fst_memWf (read ht _ _) hy
        · next hy =>
          have hu := fst_memWf (read ht _ _) hy
          repeat' split
          all_goals exact hu

theorem State.checkReads_memWf {s : State} (h : s.memWf) (pasid : Nat) (bs : List Byte) : (s.checkReads pasid bs).1.memWf := by
  grind [State.checkReads, State.checkBlock_memWf, State.engineRead_memWf]

theorem State.checkLaunch_memWf {s : State} (h : s.memWf) (pasid : Nat) (bs : List Byte) : (s.checkLaunch pasid bs).1.memWf := by
  grind [State.checkLaunch, State.checkReads_memWf]

theorem State.checkPacket_memWf {s : State} (h : s.memWf) (q : Queue) (bs : List Byte) : (s.checkPacket q bs).1.memWf := by
  grind [State.checkPacket, State.checkReads_memWf, State.engineRead_memWf]

theorem State.modPacket_memWf {s : State} (h : s.memWf) (q idx : Nat) (f : Packet → Packet) : (s.modPacket q idx f).memWf := h

theorem State.rejectPacket_memWf {s : State} (h : s.memWf) (q idx : Nat) (c : Cause) : (s.rejectPacket q idx c).memWf := by
  grind [State.rejectPacket, State.modPacket_memWf, State.queueError_memWf]

theorem State.checkAccepted_memWf {s : State} (h : s.memWf) (q idx : Nat) (p : Packet) : (s.checkAccepted q idx p).memWf := by
  grind [State.checkAccepted, State.checkPacket_memWf, State.modPacket_memWf, State.pageRequest_memWf, State.rejectPacket_memWf]

theorem State.launchGang_memWf {s : State} (h : s.memWf) (src : GangSrc) (q pasid : Nat) (l : Launch) (chips : List Nat) :
    (s.launchGang src q pasid l chips).2.memWf := by
  grind [→ State.memWf.parts, ← State.memWf.of_parts, State.launchGang, foldl_memWf, State.tellChip_memWf]

theorem State.joinGang_memWf {s : State} (h : s.memWf) (id chip q pasid : Nat) (l : Launch) (chips : List Nat) :
    (s.joinGang id chip q pasid l chips).memWf := by
  grind [→ State.memWf.parts, ← State.memWf.of_parts, State.joinGang, State.tellChip_memWf]

theorem State.takeCore_memWf {s : State} (h : s.memWf) (crew : Nat) (place : Nat × Nat) : (s.takeCore crew place).memWf := h

theorem State.placeCrew_memWf {s : State} (h : s.memWf) (id : Nat) (g : Gang) (xyz : Nat × Nat × Nat) (stage : Nat) (place :
    (Nat × Nat) × Nat) : (s.placeCrew id g xyz stage place).memWf := h

theorem State.placePipe_memWf {s : State} (h : s.memWf) (id : Nat) (g : Gang) (p die x0 y0 : Nat) : (s.placePipe id g p die x0 y0).memWf := by
  grind [State.placePipe, foldl_memWf, State.placeCrew_memWf]

theorem State.loadWindow_memWf {s : State} (h : s.memWf) (crew : Nat) : (s.loadWindow crew).1.memWf := by
  grind [State.loadWindow, State.engineRead_memWf]

theorem State.firstFibre_memWf {s : State} (h : s.memWf) (crew fid : Nat) : (s.firstFibre crew fid).1.memWf := by
  grind [State.firstFibre, frThen_memWf, State.firstSeg_memWf, State.modCrew_memWf]

theorem State.firstFibres_memWf {s : State} (h : s.memWf) (crew : Nat) (l : List Nat) : (s.firstFibres crew l).1.memWf := by
  induction l generalizing s with
  | nil => exact h
  | cons fid l ih => exact frThen_memWf (State.firstFibre_memWf h _ _) fun t _ ht => ih ht

theorem State.startFence_memWf {s : State} (h : s.memWf) (core : Nat) : (s.startFence core).memWf := h

theorem State.crewPage_memWf {s : State} (h : s.memWf) (crew va : Nat) (w : Bool) (c : Cause) : (s.crewPage crew va w c).memWf := by
  grind [State.crewPage, State.pageRequest_memWf]

theorem State.startCrew_memWf {s : State} (h : s.memWf) (crew : Nat) : (s.startCrew crew).memWf := by
  grind [→ State.memWf.parts, ← State.memWf.of_parts, State.startCrew, foldl_memWf, frThen_memWf, State.crewPage_memWf, State.enter_memWf,
    State.firstFibres_memWf, State.initEmergency_memWf, State.loadWindow_memWf, State.modCrew_memWf, State.startFence_memWf,
    State.terminate_memWf]

theorem State.startGang_memWf {s : State} (h : s.memWf) (id : Nat) : (s.startGang id).memWf := by
  grind [State.startGang, foldl_memWf, State.startCrew_memWf]

/-! ## Command graphs -/

theorem State.nodeSuccs_memWf {s : State} (h : s.memWf) (pasid : Nat) (bs : List Byte) : (s.nodeSuccs pasid bs).1.memWf := by
  grind [State.nodeSuccs, State.engineRead_memWf]

theorem State.checkNode_memWf {s : State} (h : s.memWf) (pasid addr nnode i : Nat) : (s.checkNode pasid addr nnode i).1.memWf := by
  grind [State.checkNode, State.engineRead_memWf, State.nodeSuccs_memWf]

theorem State.checkNodes_memWf {s : State} (h : s.memWf) (pasid addr nnode : Nat) (l : List Nat) : (s.checkNodes pasid addr nnode l).1.memWf := by
  induction l generalizing s with
  | nil => exact h
  | cons i l ih => grind [State.checkNodes, State.checkNode_memWf]

theorem State.resetNode_memWf {s : State} (h : s.memWf) (pasid addr i : Nat) : (s.resetNode pasid addr i).1.memWf := by
  grind [State.resetNode, State.cmdWrite_memWf, State.engineRead_memWf]

theorem State.resetNodes_memWf {s : State} (h : s.memWf) (pasid addr : Nat) (l : List Nat) : (s.resetNodes pasid addr l).1.memWf := by
  induction l generalizing s with
  | nil => exact h
  | cons i l ih => grind [State.resetNodes, State.resetNode_memWf]

theorem State.enterPool_memWf {s : State} (h : s.memWf) (graph node : Nat) : (s.enterPool graph node).memWf := by
  grind [→ State.memWf.parts, ← State.memWf.of_parts, State.enterPool]

theorem State.modGraph_memWf {s : State} (h : s.memWf) (graph : Nat) (f : GraphRun → GraphRun) : (s.modGraph graph f).memWf := h

theorem State.stopGraph_memWf {s : State} (h : s.memWf) (graph : Nat) : (s.stopGraph graph).memWf := h

theorem State.failNode_memWf {s : State} (h : s.memWf) (graph node : Nat) (c : Cause) : (s.failNode graph node c).memWf := by
  grind [State.failNode, State.modGraph_memWf, State.plainReport_memWf, State.stopGraph_memWf]

theorem State.finishNode_memWf {s : State} (h : s.memWf) (graph node : Nat) (tags : List RelTag) : (s.finishNode graph node tags).memWf := h

theorem State.runNode_memWf {s : State} (h : s.memWf) (graph node : Nat) : (s.runNode graph node).memWf := h

theorem State.nodePage_memWf {s : State} (h : s.memWf) (graph node : Nat) (fail : Option Cause) (va : Nat) (w : Bool) :
    (s.nodePage graph node fail va w).memWf := by
  grind [State.nodePage, State.pageRequest_memWf]

theorem State.failGraph_memWf {s : State} (h : s.memWf) (graph node : Nat) : (s.failGraph graph node).memWf := by
  grind [State.failGraph, State.modGraph_memWf, State.rejectPacket_memWf, State.stopGraph_memWf]

theorem State.objectFails_memWf {s : State} (h : s.memWf) (graph node : Nat) (x : EngErr) : (s.objectFails graph node x).memWf := by
  cases x with
  | page va w => exact State.nodePage_memWf h _ _ _ _ _
  | walk _ | data _ | refused => exact State.failGraph_memWf h _ _

theorem State.dispatch_memWf {s : State} (h : s.memWf) (graph node kind : Nat) {k : State → GraphRun → List Byte → State}
    (hk : ∀ t g bs, t.memWf → (k t g bs).memWf) : (s.dispatch graph node kind k).memWf := by
  grind [State.dispatch, State.engineRead_memWf, State.objectFails_memWf]

theorem State.startGraph_memWf {s : State} (h : s.memWf) (q idx : Nat) (p : Packet) : (s.startGraph q idx p).memWf := by
  grind [→ State.memWf.parts, ← State.memWf.of_parts, State.startGraph, foldl_memWf, State.checkNodes_memWf, State.engineRead_memWf,
    State.enterPool_memWf, State.fresh_memWf, State.modPacket_memWf, State.pageRequest_memWf, State.rejectPacket_memWf, State.resetNodes_memWf]

theorem State.kernelNode_memWf {s : State} (h : s.memWf) (graph node : Nat) : (s.kernelNode graph node).memWf := by
  refine State.dispatch_memWf h graph node kindKernel fun t g bs ht => ?_
  grind [State.checkLaunch_memWf, State.nodePage_memWf, State.failNode_memWf, State.runNode_memWf, State.launchGang_memWf, State.modGraph_memWf]

theorem State.rearmNodes_memWf {s : State} (h : s.memWf) (pasid addr : Nat) (l : List Nat) : (s.rearmNodes pasid addr l).1.memWf := by
  induction l generalizing s with
  | nil => exact h
  | cons i l ih => grind [State.rearmNodes, State.engineRead_memWf, State.cmdWrite_memWf]

theorem State.armCond_memWf {s : State} (h : s.memWf) (graph node : Nat) (g : GraphRun) (bs : List Byte) :
    (s.armCond graph node g bs).memWf := by
  grind [State.armCond, State.cmdWrite_memWf, State.enterPool_memWf, State.modGraph_memWf, State.objectFails_memWf, State.rearmNodes_memWf]

theorem State.condNode_memWf {s : State} (h : s.memWf) (graph node : Nat) : (s.condNode graph node).memWf := by
  unfold State.condNode
  split
  · grind [State.engineRead_memWf, State.armCond_memWf, State.objectFails_memWf]
  · refine State.dispatch_memWf h graph node kindCond fun t g bs ht => ?_
    grind [State.engineRead_memWf, State.nodePage_memWf, State.failNode_memWf, State.runNode_memWf, State.modGraph_memWf, State.armCond_memWf,
      State.finishNode_memWf]

theorem State.signalNode_memWf {s : State} (h : s.memWf) (graph node : Nat) : (s.signalNode graph node).memWf :=
  State.dispatch_memWf h graph node kindSignal fun _ _ _ ht => State.finishNode_memWf (State.runSignal_memWf (State.runNode_memWf ht _ _) _ _ _) _ _ _

theorem State.copyNode_memWf {s : State} (h : s.memWf) (graph node : Nat) (g : GraphRun) (bs : List Byte) :
    (s.copyNode graph node g bs).memWf := by
  grind [State.copyNode, State.engineRead_memWf, State.engineWrites_memWf, State.failNode_memWf, State.finishNode_memWf, State.nodePage_memWf,
    State.release_memWf]

theorem State.xferNode_memWf {s : State} (h : s.memWf) (graph node : Nat) : (s.xferNode graph node).memWf := by
  unfold State.xferNode
  split
  · grind [State.engineRead_memWf, State.copyNode_memWf, State.objectFails_memWf]
  · exact State.dispatch_memWf h graph node kindXfer fun _ _ _ ht => State.copyNode_memWf (State.runNode_memWf ht _ _) _ _ _ _

theorem State.loopCount_memWf {s : State} (h : s.memWf) (pasid addr node : Nat) (l : List Nat) : (s.loopCount pasid addr node l).1.memWf := by
  induction l generalizing s with
  | nil => exact h
  | cons i l ih => grind [State.loopCount, State.engineRead_memWf]

theorem State.noteValue_memWf {s : State} (h : s.memWf) (graph node : Nat) (g : GraphRun) (bs : List Byte) :
    (s.noteValue graph node g bs).1.memWf := by
  grind [State.noteValue, State.engineRead_memWf, State.plainReport_memWf]

theorem State.noteNode_memWf {s : State} (h : s.memWf) (graph node : Nat) : (s.noteNode graph node).memWf := by
  refine State.dispatch_memWf h graph node kindNote fun t g bs ht => ?_
  grind [State.runNode_memWf, State.loopCount_memWf, State.objectFails_memWf, State.noteValue_memWf, State.nodePage_memWf, State.cmdWrite_memWf,
    State.plainReport_memWf, State.modGraph_memWf, State.vectorEvent_memWf, State.finishNode_memWf]

theorem State.closeTags_memWf {s : State} (h : s.memWf) (l : List RelTag) : (s.closeTags l).memWf := by
  grind [State.closeTags, foldl_memWf, State.closeEntries_memWf]

theorem State.releaseNodes_memWf {s : State} (h : s.memWf) (graph pasid addr : Nat) (l : List Nat) : (s.releaseNodes graph pasid addr l).1.memWf := by
  induction l generalizing s with
  | nil => exact h
  | cons k l ih => grind [State.releaseNodes, State.engineRead_memWf, State.cmdWrite_memWf, State.enterPool_memWf]

theorem State.releaseSuccs_memWf {s : State} (h : s.memWf) (graph node : Nat) (g : GraphRun) : (s.releaseSuccs graph node g).1.memWf := by
  grind [State.releaseSuccs, State.engineRead_memWf, State.nodeSuccs_memWf, State.releaseNodes_memWf]

theorem State.nodeDone_memWf {s : State} (h : s.memWf) (graph node : Nat) (g : GraphRun) (tags : List RelTag) :
    (s.nodeDone graph node g tags).memWf := by
  grind [State.nodeDone, State.closeTags_memWf, State.modGraph_memWf, State.objectFails_memWf, State.releaseSuccs_memWf]

theorem State.completeNode_memWf {s : State} (h : s.memWf) (graph node : Nat) : (s.completeNode graph node).memWf := by
  grind [State.completeNode, State.nodeDone_memWf, State.stopGraph_memWf]

/-! ## Saves of crews -/

theorem State.noteParked_memWf {s : State} (h : s.memWf) : s.noteParked.memWf := h

theorem State.saveMemOp_memWf {s : State} (h : s.memWf) (crew : Nat) (x : Nat × Op) : (s.saveMemOp crew x).memWf := by
  grind [→ State.memWf.parts, ← State.memWf.of_parts, State.saveMemOp, State.completeMem_memWf, State.modFibre_memWf]

theorem State.saveFrameOp_memWf {s : State} (h : s.memWf) (crew : Nat) (x : Nat × Op) : (s.saveFrameOp crew x).memWf := by
  grind [State.saveFrameOp, State.completeFrame_memWf]

theorem State.saveReader_memWf {s : State} (h : s.memWf) (crew : Nat) (x : Nat × Op) : (s.saveReader crew x).memWf := by
  grind [State.saveReader, State.completeMstat_memWf, State.completeQuery_memWf]

theorem State.pauseSend_memWf {s : State} (h : s.memWf) (x : Nat × Send) : (s.pauseSend x).memWf := by
  grind [→ State.memWf.parts, ← State.memWf.of_parts, State.pauseSend, State.tellDest_memWf]

theorem State.saveEngines_memWf {s : State} (h : s.memWf) (crew : Nat) : (s.saveEngines crew).memWf := by
  grind [→ State.memWf.parts, ← State.memWf.of_parts, State.saveEngines, foldl_memWf, State.modCluster_memWf, State.modCrew_memWf,
    State.pauseSend_memWf]

theorem State.saveBody_memWf {s : State} (h : s.memWf) (crew : Nat) (tag : RelTag) : (s.saveBody crew tag).memWf := by
  grind [State.saveBody, State.modCore_memWf, State.modCrew_memWf, State.wakeRange_memWf]

theorem State.saveChain_memWf {s : State} (h : s.memWf) (crew fid : Nat) : (s.saveChain crew fid).1.memWf := by
  unfold State.saveChain
  dsimp only
  split
  · exact h
  · next t vas hr =>
    exact frThen_memWf (State.writeReplay_memWf (State.allocSegs_memWf h _ _ _ (Option.filter_eq_some_iff.mp hr).1) _ _ _) fun u _ hu =>
      State.modFibre_memWf hu _ _ _

theorem State.saveChains_memWf {s : State} (h : s.memWf) (crew : Nat) : (s.saveChains crew).1.memWf := by
  grind [State.saveChains, foldl_fst_memWf, frThen_memWf, State.saveChain_memWf]

theorem State.freeChains_memWf {s : State} (h : s.memWf) (crew : Nat) : (s.freeChains crew).memWf := by
  grind [State.freeChains, foldl_memWf, State.modCrew_memWf, State.unuseSeg_memWf]

theorem State.saveCrew_memWf {s : State} (h : s.memWf) (crew : Nat) : (s.saveCrew crew).memWf := by
  have h1 : (s.ops.foldl (fun (t : State) x => t.saveFrameOp crew x) s).memWf := foldl_memWf (fun t x ht => State.saveFrameOp_memWf ht _ _) _ h
  have h2 := foldl_memWf (f := fun (t : State) x => (t.saveReader crew x).saveMemOp crew x)
    (fun t x ht => State.saveMemOp_memWf (State.saveReader_memWf ht _ _) _ _) (s.ops.foldl (fun (t : State) x => t.saveFrameOp crew x) s).ops h1
  grind [State.saveCrew, State.saveSaddle_memWf, State.crewPage_memWf, State.drain_memWf, State.saveChains_memWf, State.modCrew_memWf,
    State.release_memWf, State.saveEngines_memWf, State.saveBody_memWf]

theorem State.resumeSend_memWf {s : State} (h : s.memWf) (x : Nat × Send) : (s.resumeSend x).memWf := by
  grind [→ State.memWf.parts, ← State.memWf.of_parts, State.resumeSend, State.tellDest_memWf]

theorem State.applyDeferred_memWf {s : State} (h : s.memWf) (x : Nat × Cause × List RelTag) : (s.applyDeferred x).memWf := by
  grind [→ State.memWf.parts, ← State.memWf.of_parts, State.applyDeferred, State.arriveOp_memWf, State.completeAll_memWf]

theorem State.applyCancelled_memWf {s : State} (h : s.memWf) (crew : Nat) (x : Nat × Op) : (s.applyCancelled crew x).memWf := by
  grind [State.applyCancelled, State.finishQuery_memWf]

theorem State.applyLate_memWf {s : State} (h : s.memWf) (crew : Nat) (l : List LateDone) : (s.applyLate crew l).memWf := by
  grind [State.applyLate, foldl_memWf, State.completeFor_memWf]

theorem State.wakeRestored_memWf {s : State} (h : s.memWf) (crew fid : Nat) : (s.wakeRestored crew fid).memWf := by
  grind [State.wakeRestored, State.enter_memWf, State.recheck_memWf, State.waitAgain_memWf]

theorem State.restoreEngines_memWf {s : State} (h : s.memWf) (crew core : Nat) : (s.restoreEngines crew core).memWf := by
  grind [→ State.memWf.parts, ← State.memWf.of_parts, State.restoreEngines, foldl_memWf, State.modCluster_memWf, State.resumeSend_memWf,
    State.startSends_memWf]

theorem State.loadCrew_memWf {s : State} (h : s.memWf) (crew : Nat) : (s.loadCrew crew).memWf := by
  grind [State.loadCrew, foldl_memWf, State.applyCancelled_memWf, State.applyDeferred_memWf, State.applyLate_memWf, State.checkJoin_memWf,
    State.closeEntries_memWf, State.crewPage_memWf, State.freeChains_memWf, State.loadWindow_memWf, State.modCrew_memWf, State.reissue_memWf,
    State.restoreEngines_memWf, State.startFence_memWf, State.terminate_memWf, State.wakeRange_memWf, State.wakeRestored_memWf,
    State.writeScratch_memWf]

theorem State.restorePipe_memWf {s : State} (h : s.memWf) (crew die x0 y0 : Nat) : (s.restorePipe crew die x0 y0).memWf := by
  grind [State.restorePipe, foldl_memWf, State.loadCrew_memWf, State.takeCore_memWf]

theorem State.flushCrew_memWf {s : State} (h : s.memWf) (crew : Nat) : (s.flushCrew crew).memWf := by
  grind [State.flushCrew, State.cancelBulk_memWf, State.clearCrew_memWf, State.closeTags_memWf, State.drain_memWf, State.modCore_memWf,
    State.modCrew_memWf, State.release_memWf, State.reportRaces_memWf]

theorem State.savePipe_memWf {s : State} (h : s.memWf) (c : Crew) (draining : Bool) : (s.savePipe c draining).memWf := by
  grind [State.savePipe, foldl_memWf, State.modCrew_memWf]

theorem State.drainCrew_memWf {s : State} (h : s.memWf) (crew : Nat) : (s.drainCrew crew).memWf := h

theorem State.preempt_memWf {s : State} (h : s.memWf) (crew : Nat) : (s.preempt crew).memWf := by
  grind [State.preempt, foldl_memWf, State.drainCrew_memWf, State.flushCrew_memWf, State.savePipe_memWf]

theorem State.drainTimeout_memWf {s : State} (h : s.memWf) (crew : Nat) : (s.drainTimeout crew).memWf := by
  grind [State.drainTimeout, State.savePipe_memWf]

theorem State.round_memWf {s : State} (h : s.memWf) (die : Nat) : (s.round die).memWf := by
  grind [State.round, foldl_memWf, State.modDie_memWf, State.savePipe_memWf]

/-! ## SYS words -/

theorem State.sysFence_memWf {s : State} (h : s.memWf) (i : Issue) (fids : List Nat) : (s.sysFence i fids).memWf := by
  grind [State.sysFence, foldl_memWf, State.fenceAt_memWf]

theorem State.readWindow_memWf {s : State} (h : s.memWf) (pasid base limit : Nat) : (s.readWindow pasid base limit).1.memWf := by
  grind [State.readWindow, State.engineRead_memWf]

theorem State.segWrite_memWf {s : State} (h : s.memWf) (i : Issue) (instr : Instr) (n base limit : Nat) (bad : List (Nat × Eff)) :
    (s.segWrite i instr n base limit bad).memWf := by
  grind [State.segWrite, State.endSwitch_memWf, State.endWord_memWf, State.modCrew_memWf, State.pageRequest_memWf, State.parkHeld_memWf,
    State.readWindow_memWf]

theorem State.writeGs_memWf {s : State} (h : s.memWf) (i : Issue) (e : Env) (c : Nat) (vals : List Word) (bad : List (Nat × Eff)) :
    (s.writeGs i e c vals bad).memWf := by
  grind [State.writeGs, foldl_fst_memWf, State.endWord_memWf, State.modCrew_memWf]

end Sys2Proof.Machine

end

section
/-! PROOF. Memories in canonical form after what the events do, the mailbox, issue, and internal steps. -/

-- Theorems one after another, not at once: this bounds the memory that a compile of the whole text takes.
set_option Elab.async false

namespace Sys2Proof.Machine

/-! ## Events of memory -/

theorem State.completeOp_memWf {s : State} (h : s.memWf) (id : Nat) (o : Op) : (s.completeOp id o).memWf := by
  grind [State.completeOp, State.completeCopy_memWf, State.completeFrame_memWf, State.completeMem_memWf, State.completeMstat_memWf,
    State.completeQuery_memWf]

theorem State.exhaustOp_memWf {s : State} (h : s.memWf) (id : Nat) (o : Op) : (s.exhaustOp id o).memWf := by
  grind [State.exhaustOp, State.endQuery_memWf, State.endRecv_memWf, State.failCopy_memWf, State.failMsg_memWf, State.failSend_memWf,
    State.finishFrame_memWf, State.finishMat_memWf, State.finishMem_memWf, State.finishUniform_memWf, State.giveBack_memWf, State.modCrew_memWf,
    State.startSends_memWf]

theorem State.poisonPlane_memWf {s : State} (h : s.memWf) (cluster pair : Nat) (shadow : Bool) : (s.poisonPlane cluster pair shadow).memWf := by
  grind [State.poisonPlane, State.modCrew_memWf]

theorem State.poisonStaging_memWf {s : State} (h : s.memWf) (crew op off len : Nat) : (s.poisonStaging crew op off len).memWf := h

theorem State.toHomeNow_memWf {s : State} (h : s.memWf) (id : Nat) (o : Op) {k : State → Nat → Nat → Nat → MemReq → State}
    (hk : ∀ t crew fid pa r, t.memWf → (k t crew fid pa r).memWf) : (s.toHomeNow id o k).memWf := by
  grind [State.toHomeNow, State.reqHome_memWf]

theorem State.pageFibre_memWf {s : State} (h : s.memWf) (crew fid : Nat) : (s.pageFibre crew fid).memWf := by
  grind [State.pageFibre, State.enter_memWf, State.recheck_memWf, State.reissue_memWf, State.waitAgain_memWf]

theorem State.pageThere_memWf {s : State} (h : s.memWf) (w : PageWaiter) : (s.pageThere w).memWf := by
  cases w <;> grind [State.pageThere, State.pageFibre_memWf, State.bulkRetry_memWf, State.setDone_memWf]

theorem State.dropWaiter_memWf {s : State} (h : s.memWf) (w : PageWaiter) : (s.dropWaiter w).memWf := h

theorem State.denyFibre_memWf {s0 : State} (h : s0.memWf) (crew fid : Nat) (c : Cause) : (s0.denyFibre crew fid c).memWf := by
  grind [State.denyFibre, State.deliver_memWf, State.dropWaiter_memWf, State.terminate_memWf]

theorem State.denyOp_memWf {s : State} (h : s.memWf) (id : Nat) (c : Cause) : (s.denyOp id c).memWf := by
  grind [State.denyOp, State.bulkDenied_memWf, State.failCopy_memWf, State.frameDenied_memWf]

theorem State.denyHeld_memWf {s : State} (h : s.memWf) (crew id : Nat) : (s.denyHeld crew id).memWf := by
  grind [State.denyHeld, State.deliverAll_memWf, State.modCrew_memWf, State.terminate_memWf]

theorem State.pageDenied_memWf {s : State} (h : s.memWf) (c : Cause) (w : PageWaiter) : (s.pageDenied c w).memWf := by
  cases w with
  | node g n x => cases x <;> grind [State.pageDenied, State.modGraph_memWf, State.failNode_memWf, State.failGraph_memWf]
  | _ => grind [State.pageDenied, State.denyFibre_memWf, State.denyOp_memWf, State.denyHeld_memWf, State.queueError_memWf, State.rejectPacket_memWf,
      State.terminate_memWf, State.loseRecord_memWf]

theorem State.returnSlots_memWf {s : State} (h : s.memWf) (core : Nat) : (s.returnSlots core).memWf := by
  grind [State.returnSlots, foldl_memWf, State.returnSlot_memWf]

theorem State.hostByte_memWf {s : State} (h : s.memWf) (pa : Nat) (b : Byte) (tags : List RelTag) : (s.hostByte pa b tags).memWf := by
  grind [State.hostByte, State.modHome_memWf, State.placeByte_memWf]

theorem State.hostStore_memWf {s : State} (h : s.memWf) (head at_ : Nat) (bytes : List Byte) (release : Bool) :
    (s.hostStore head at_ bytes release).memWf := by
  grind [State.hostStore, foldl_fst_memWf, State.hostByte_memWf, State.release_memWf]

theorem State.hostLoad_memWf {s : State} (h : s.memWf) (head at_ n : Nat) (acquire : Bool) : (s.hostLoad head at_ n acquire).memWf := by
  grind [State.hostLoad, foldl_memWf, State.modHome_memWf, State.synchronise_memWf]

/-! ## Events of messages -/

theorem State.noticeSend_memWf {s : State} (h : s.memWf) (send : Nat) (c : Option Cause) : (s.noticeSend send c).memWf := by
  grind [State.noticeSend, State.closeSend_memWf]

theorem State.cancelMsg_memWf {s : State} (h : s.memWf) (id : MsgId) (tell : Bool) : (s.cancelMsg id tell).memWf := by
  grind [State.cancelMsg, State.endMsg_memWf]

theorem State.portDown_memWf {s : State} (h : s.memWf) (port : Nat) (p : Port) : (s.portDown port p).memWf := by
  grind [→ State.memWf.parts, ← State.memWf.of_parts, State.portDown, foldl_memWf, State.sendFrames_memWf]

theorem State.replayPort_memWf {s : State} (h : s.memWf) (port : Nat) (p : Port) : (s.replayPort port p).memWf := by
  grind [→ State.memWf.parts, ← State.memWf.of_parts, State.replayPort, State.portDown_memWf]

theorem State.peerWrite_memWf {s : State} (h : s.memWf) (a pa : Nat) (bs : List Byte) (bad : List Nat) (o : Order) (chips : List Nat) :
    (s.peerWrite a pa bs bad o chips).memWf := by
  grind [State.peerWrite, foldl_memWf, State.merge_memWf, State.release_memWf]

theorem State.peerRead_memWf {s : State} (h : s.memWf) (chip unit pa n : Nat) (o : Order) (chips : List Nat) :
    (s.peerRead chip unit pa n o chips).memWf := by
  grind [State.peerRead, State.synchronise_memWf, State.tellChip_memWf]

theorem State.peerAtomic_memWf {s : State} (h : s.memWf) (chip unit pa : Nat) (af : AtomFn) (v c : Nat) (o : Order) (chips : List Nat) :
    (s.peerAtomic chip unit pa af v c o chips).memWf := by
  grind [State.peerAtomic, State.atomicKeep_memWf, State.atomicWrite_memWf, State.refuse_memWf, State.release_memWf, State.synchronise_memWf,
    State.tellChip_memWf]

theorem State.peerAccess_memWf {s : State} (h : s.memWf) (b : LinkBody) : (s.peerAccess b).memWf := by
  cases b <;> grind [State.peerAccess, State.peerWrite_memWf, State.peerRead_memWf, State.peerAtomic_memWf, State.takeBare_memWf,
      State.giveBare_memWf,
    State.recall_memWf, State.tellChip_memWf]

/-! ## Events of the command engine -/

theorem State.acceptPacket_memWf {s : State} (h : s.memWf) (q va : Nat) (bs : List Byte) : (s.acceptPacket q va bs).memWf := by
  grind [→ State.memWf.parts, ← State.memWf.of_parts, State.acceptPacket, State.checkAccepted_memWf, State.cmdWrite_memWf, State.modQueue_memWf,
    State.pageRequest_memWf, State.queueError_memWf]

theorem State.readSlot_memWf {s : State} (h : s.memWf) (q : Nat) : (s.readSlot q).memWf := by
  grind [State.readSlot, State.acceptPacket_memWf, State.engineRead_memWf, State.pageRequest_memWf, State.queueError_memWf]

theorem State.endPacket_memWf {s : State} (h : s.memWf) (q idx : Nat) : (s.endPacket q idx).memWf := h

theorem State.signalsZero_memWf {s : State} (h : s.memWf) (pasid : Nat) (l : List Nat) : (s.signalsZero pasid l).1.memWf := by
  induction l generalizing s with
  | nil => exact h
  | cons a l ih => grind [State.signalsZero, State.engineRead_memWf]

theorem State.dropSignal_memWf {s : State} (h : s.memWf) (q addr : Nat) : (s.dropSignal q addr).memWf := by
  grind [State.dropSignal, State.cmdAtomic_memWf, State.plainReport_memWf]

theorem State.completePacket_memWf {s : State} (h : s.memWf) (q idx : Nat) (p : Packet) : (s.completePacket q idx p).memWf := by
  grind [→ State.memWf.parts, ← State.memWf.of_parts, State.completePacket, State.closeTags_memWf, State.dropSignal_memWf,
    State.modPacket_memWf, State.modQueue_memWf, State.vectorEvent_memWf]

theorem State.propose_memWf {s : State} (h : s.memWf) (gang : Nat) (g : Gang) (chip tick : Nat) : (s.propose gang g chip tick).memWf := by
  grind [→ State.memWf.parts, ← State.memWf.of_parts, State.propose, foldl_memWf, State.tellChip_memWf]

theorem State.agreeTick_memWf {s : State} (h : s.memWf) (gang : Nat) (g : Gang) (tick : Nat) : (s.agreeTick gang g tick).memWf := by
  grind [→ State.memWf.parts, ← State.memWf.of_parts, State.agreeTick, State.releaseGang_memWf]

/-! ## The mailbox -/

theorem State.mailEnd_memWf {s : State} (h : s.memWf) (head status : Nat) : (s.mailEnd head status).memWf := h

theorem State.mailPut_memWf {s : State} (h : s.memWf) (head off : Nat) (bs : List Byte) : (s.mailPut head off bs).memWf := h

theorem State.mailRun_memWf {s : State} (h : s.memWf) (head func : Nat) (named : Mailbox → List (Nat × Nat)) {k : Mailbox → State × Nat}
    (hk : ∀ m, (k m).1.memWf) : (s.mailRun head func named k).memWf := by
  grind [State.mailRun, State.mailEnd_memWf]

theorem State.mailVersion_memWf {s : State} (h : s.memWf) (head : Nat) (m : Mailbox) : (s.mailVersion head m).1.memWf := by
  grind [State.mailVersion, State.mailPut_memWf, State.modHead_memWf, State.plainReport_memWf]

theorem State.putQueue_memWf {s : State} (h : s.memWf) (head q : Nat) (m : Mailbox) (d : List Byte) : (s.putQueue head q m d).1.memWf := by
  grind [State.putQueue, State.mailPut_memWf, State.plainReport_memWf, State.setQueue_memWf]

theorem State.mailQueue_memWf {s : State} (h : s.memWf) (head : Nat) (m : Mailbox) : (s.mailQueue head m).1.memWf := by
  grind [State.mailQueue, State.putQueue_memWf]

theorem State.discardPackets_memWf {s : State} (h : s.memWf) (q : Nat) : (s.discardPackets q).memWf := h

theorem State.disableQueue_memWf {s : State} (h : s.memWf) (q : Nat) (c : Cause) : (s.disableQueue q c).memWf := by
  grind [State.disableQueue, foldl_memWf, State.discardPackets_memWf, State.killGang_memWf, State.modQueue_memWf]

theorem State.mailPasid_memWf {s : State} (h : s.memWf) (head : Nat) (m : Mailbox) : (s.mailPasid head m).1.memWf := by
  grind [→ State.memWf.parts, ← State.memWf.of_parts, State.mailPasid]

theorem State.mailCode_memWf {s : State} (h : s.memWf) (head : Nat) (m : Mailbox) : (s.mailCode head m).1.memWf := by
  grind [State.mailCode, State.cmdWrite_memWf, State.icinv_memWf]

theorem State.mailImage_memWf {s : State} (h : s.memWf) (head : Nat) (signed : Bool) (m : Mailbox) : (s.mailImage head signed m).1.memWf := by
  grind [→ State.memWf.parts, ← State.memWf.of_parts, State.mailImage, State.plainReport_memWf]

theorem State.mailRing_memWf {s : State} (h : s.memWf) (head : Nat) (m : Mailbox) : (s.mailRing head m).1.memWf := by
  grind [→ State.memWf.parts, ← State.memWf.of_parts, State.mailRing, foldl_memWf, State.modHead_memWf, State.toHost_memWf]

theorem State.mailTdi_memWf {s : State} (h : s.memWf) (head : Nat) (m : Mailbox) : (s.mailTdi head m).1.memWf := by
  grind [→ State.memWf.parts, ← State.memWf.of_parts, State.mailTdi]

theorem State.mailHalt_memWf {s : State} (h : s.memWf) (head : Nat) (m : Mailbox) : (s.mailHalt head m).memWf := by
  grind [State.mailHalt, State.mailEnd_memWf, State.modCrew_memWf]

theorem State.mailRead_memWf {s : State} (h : s.memWf) (head : Nat) (m : Mailbox) : (s.mailRead head m).1.memWf := by
  unfold State.mailRead
  split
  · exact h
  · dsimp only
    repeat' split
    iterate 3 exact h
    refine State.mailPut_memWf ?_ _ _ _
    exact ⟨h.1, memWrites_wf h.2.1 _ _, h.2.2⟩

theorem State.mailResume_memWf {s : State} (h : s.memWf) (m : Mailbox) : (s.mailResume m).1.memWf := by
  grind [State.mailResume, State.modCrew_memWf]

/-! ## Events of the system -/

theorem State.hostReads_memWf {s : State} (h : s.memWf) (head off : Nat) : (s.hostReads head off).memWf := by
  grind [→ State.memWf.parts, ← State.memWf.of_parts, State.hostReads, State.readReg_memWf]

theorem State.spdm_memWf {s : State} (h : s.memWf) (head : Nat) (a : SpdmAnswer) : (s.spdm head a).memWf := h

theorem State.tdisp_memWf {s : State} (h : s.memWf) (head tdi : Nat) (ok : Bool) : (s.tdisp head tdi ok).memWf := by
  grind [→ State.memWf.parts, ← State.memWf.of_parts, State.tdisp]

theorem State.openSession_memWf {s : State} (h : s.memWf) (head session : Nat) (tdi : Option Nat) : (s.openSession head session tdi).memWf := by
  grind [→ State.memWf.parts, ← State.memWf.of_parts, State.openSession, State.spdm_memWf]

theorem State.setKeys_memWf {s : State} (h : s.memWf) (head session stream : Nat) : (s.setKeys head session stream).memWf := by
  grind [→ State.memWf.parts, ← State.memWf.of_parts, State.setKeys, State.spdm_memWf]

theorem State.dropWrites_memWf {s : State} (h : s.memWf) (crew : Nat) : (s.dropWrites crew).memWf := h

theorem State.zeroPa_memWf {s : State} (h : s.memWf) (pa n : Nat) : (s.zeroPa pa n).memWf :=
  ⟨memFilter_wf h.1 _, memFilter_wf h.2.1 _, h.2.2⟩

theorem State.zeroHeap_memWf {s : State} (h : s.memWf) (pasid base len : Nat) : (s.zeroHeap pasid base len).memWf := by
  grind [State.zeroHeap, foldl_memWf, State.engineXl_memWf, State.zeroPa_memWf]

theorem State.wipeCrew_memWf {s : State} (h : s.memWf) (crew : Nat) : (s.wipeCrew crew).memWf := by
  grind [State.wipeCrew, State.dropWrites_memWf, State.modCore_memWf, State.wakeRange_memWf, State.writeScratch_memWf, State.zeroHeap_memWf]

theorem State.stopQueue_memWf {s : State} (h : s.memWf) (q : Nat) : (s.stopQueue q).memWf := by
  grind [State.stopQueue, foldl_memWf, State.disableQueue_memWf, State.wipeCrew_memWf]

theorem State.leaveRun_memWf {s : State} (h : s.memWf) (key : Nat) (t : Tdi) (to_ : TdiState) : (s.leaveRun key t to_).memWf := by
  grind [→ State.memWf.parts, ← State.memWf.of_parts, State.leaveRun, foldl_memWf, State.stopQueue_memWf]

theorem State.failTdi_memWf {s : State} (h : s.memWf) (x : Nat × Tdi) : (s.failTdi x).memWf := by
  grind [State.failTdi, State.leaveRun_memWf]

theorem State.configured_memWf {s : State} (h : s.memWf) : s.configured.memWf := by
  grind [→ State.memWf.parts, ← State.memWf.of_parts, State.configured]

theorem State.restart_memWf {s : State} (h : s.memWf) : s.restart.memWf :=
  State.configured_memWf ⟨rfl, h.2.1, rfl⟩

theorem State.nextStage_memWf {s : State} (h : s.memWf) : s.nextStage.memWf := by
  have hz : ∀ (u : State), u.memWf → (if u.stage = stageReady then ({ u with thr := Config.thresholdArea } : State).writeThrHead else u).memWf := by
    intro u hu
    split
    · exact State.writeThrHead_memWf hu
    · exact hu
  refine hz _ ?_
  split
  · exact ⟨rfl, h.2⟩
  · exact h

theorem State.rejectImage_memWf {s : State} (h : s.memWf) (c : Cause) : (s.rejectImage c).memWf := by
  grind [→ State.memWf.parts, ← State.memWf.of_parts, State.rejectImage, State.plainReport_memWf]

/-! ## Issue -/

theorem State.advance_memWf {s : State} (h : s.memWf) (core crew gid n : Nat) : (s.advance core crew gid n).memWf := h

theorem State.fetchFault_memWf {s : State} (h : s.memWf) (crew gid : Nat) (g : Group) (c : Cause) : (s.fetchFault crew gid g c).memWf := by
  grind [State.fetchFault, State.deliverAll_memWf, State.dissolve_memWf]

theorem State.poisonWord_memWf {s : State} (h : s.memWf) (crew gid : Nat) (g : Group) (bad : List Nat) :
    (s.poisonWord crew gid g bad).memWf := by
  grind [State.poisonWord, State.deliverAll_memWf, State.dissolve_memWf, State.modCrew_memWf, State.setPcs_memWf]

theorem State.raceAt_memWf {s : State} (h : s.memWf) (i : Issue) (g : Guard) : (s.raceAt i g).1.memWf := by
  grind [→ State.memWf.parts, ← State.memWf.of_parts, State.raceAt, State.deliver_memWf, State.hingeFor_memWf]

theorem State.withCur_memWf {s : State} (h : s.memWf) (i : Issue) (instr : Instr) : (s.withCur i instr).1.memWf := h

theorem State.consume_memWf {s : State} (h : s.memWf) (core crew gid w : Nat) (g : Group) : (s.consume core crew gid w g).1.memWf := by
  grind [State.consume, State.groupEffect_memWf, State.modCore_memWf, State.modCrew_memWf, State.raceAt_memWf, State.withCur_memWf]

theorem State.issueWord_memWf {s : State} (h : s.memWf) (core crew gid w : Nat) (g : Group) : (s.issueWord core crew gid w g).1.memWf := by
  grind [State.issueWord, State.advance_memWf, State.consume_memWf, State.groupEffect_memWf, State.poisonWord_memWf, State.withCur_memWf]

theorem State.issue_memWf {s : State} (h : s.memWf) (core : Nat) (x : Cand) : (s.issue core x).1.memWf := by
  grind [State.issue, State.fetchFault_memWf, State.fetchWord_memWf, State.formGroup_memWf, State.issueWord_memWf, State.modCore_memWf,
    State.modCrew_memWf]

theorem State.again_memWf {s : State} (h : s.memWf) (crew id : Nat) (h : Held) : (s.again crew id h).1.memWf := by
  grind [State.again, State.fresh_memWf, State.modCrew_memWf, State.withCur_memWf]

/-! ## Internal steps -/

theorem State.takeOwn_memWf {s : State} (h : s.memWf) (m : LinkMsg) : (s.takeOwn m).memWf := by
  have hc : ∀ (id : MsgId) (c : Option Cause), (match s.sendOf id with | some (k, _) => s.closeSend k c | none => s).memWf := by
    intro id c
    split
    · exact State.closeSend_memWf h _ _
    · exact h
  cases m with
  | done | truncated | orphaned => exact hc _ _
  | cancelled id b | peerFault id b =>
    cases b
    · exact State.cancelMsg_memWf h _ _
    · exact hc _ _
  | _ => grind [State.takeOwn, State.wicketRequest_memWf, State.wicketData_memWf, State.takeGrant_memWf, State.noteRefusal_memWf,
      State.wicketPause_memWf,
      State.wicketResume_memWf]

theorem State.deliverOwn_memWf {s : State} (h : s.memWf) : ∀ t, s.deliverOwn = some t → t.memWf := by
  grind [→ State.memWf.parts, ← State.memWf.of_parts, State.deliverOwn, State.orSnoop_memWf, State.takeOwn_memWf]

theorem State.holdBack_memWf {s : State} (h : s.memWf) (core : Nat) (l : List HostOut) : (s.holdBack core l).memWf := by
  grind [State.holdBack, foldl_memWf, State.modCore_memWf, State.sendSnoop_memWf]

theorem State.reportLate_memWf {s : State} (h : s.memWf) : s.reportLate.memWf := by
  grind [State.reportLate, foldl_memWf, State.reportRaces_memWf]

theorem State.settleTables_memWf {s : State} (h : s.memWf) : s.settleTables.memWf := by
  grind [State.settleTables, foldl_memWf, State.settle_memWf]

theorem State.stopGraphs_memWf {s : State} (h : s.memWf) : s.stopGraphs.memWf := by
  grind [→ State.memWf.parts, ← State.memWf.of_parts, State.stopGraphs, foldl_memWf, State.stopGraph_memWf]

theorem State.keepPromises_memWf {s : State} (h : s.memWf) : s.keepPromises.memWf := by
  grind [State.keepPromises, foldl_memWf, State.modDie_memWf]

theorem State.giveUpLines_memWf {s : State} (h : s.memWf) : s.giveUpLines.memWf := h

theorem State.endLost_memWf {s : State} (h : s.memWf) : s.endLost.memWf := by
  grind [State.endLost, foldl_memWf, State.modCrew_memWf, State.terminate_memWf]

theorem State.settleStep_memWf {s : State} (h : s.memWf) : s.settleStep.memWf := by
  grind [State.settleStep, State.endLost_memWf, State.giveUpLines_memWf, State.keepPromises_memWf, State.noteParked_memWf,
    State.preemptLate_memWf, State.reportLate_memWf, State.settleTables_memWf, State.startSends_memWf, State.stopGraphs_memWf,
    State.wakeMonitors_memWf]

/-- A state that an outcome leads to has its memories in canonical form. -/
def NextMemWf (o : Host.Outcome State Fault Refusal) : Prop := ∀ t, o = .next t → t.memWf

theorem nextMemWf_next {s : State} (h : s.memWf) : NextMemWf (.next s) := fun _ ht => Host.Outcome.next.inj ht ▸ h

theorem withIssue_nextMemWf {s : State} (h : s.memWf) {k : Issue → State → State} (hk : ∀ i t, t.memWf → (k i t).memWf) :
    NextMemWf (withIssue s k) := by
  unfold withIssue
  split
  · exact fun _ ht => nomatch ht
  · exact nextMemWf_next (hk _ _ h)

end Sys2Proof.Machine

end

section
/-! PROOF. Memories in canonical form after every instruction, and after a step. -/

-- Theorems one after another, not at once: this bounds the memory that a compile of the whole text takes.
set_option Elab.async false

namespace Sys2Proof.Machine

/-! ## Lane words -/

theorem LaneOp.exec_nextMemWf {s : State} (h : s.memWf) (o : LaneOp) : NextMemWf (o.exec s) := by
  refine withIssue_nextMemWf h fun i t ht => ?_
  dsimp only
  split
  · exact State.groupEffect_memWf ht _ _
  · exact State.withPops_memWf ht _ _ _ _ fun u pops hu => LaneOp.run_memWf hu _ _ _ _ _ _

theorem amountOr_nextMemWf {s : State} (h : s.memWf) (imm : BitVec 7) (o : LaneOp) : NextMemWf (amountOr imm o s) := by
  unfold amountOr
  split
  · exact LaneOp.exec_nextMemWf h o
  · exact withIssue_nextMemWf h fun i t ht => State.groupEffect_memWf ht _ _

theorem execCompare_nextMemWf {s : State} (h : s.memWf) (instr : Instr) (hd : CmpHdr) (a b : Sel) (rel : Word → Word → Bool × Word) :
    NextMemWf (execCompare instr hd a b rel s) := by
  refine withIssue_nextMemWf h fun i t ht => ?_
  dsimp only
  split
  · exact State.groupEffect_memWf ht _ _
  · exact State.withPops_memWf (State.modCrew_memWf ht _ _) _ _ _ _ fun u pops hu => State.endWord_memWf (State.modCrew_memWf hu _ _) _ _ _ _

theorem execPstk_nextMemWf {s : State} (h : s.memWf) (g : Guard) (k : BitVec 7 → BitVec 7) : NextMemWf (execPstk g k s) :=
  withIssue_nextMemWf h fun _ _ ht => State.endWord_memWf (State.modCrew_memWf ht _ _) _ _ _ _

theorem execXchg_nextMemWf {s : State} (h : s.memWf) (instr : Instr) (g : Guard) (d : Nat) (a : Sel) (v : Xchg) :
    NextMemWf (execXchg instr g d a v s) := by
  refine withIssue_nextMemWf h fun i t ht => ?_
  dsimp only
  split
  · exact State.groupEffect_memWf ht _ _
  · exact State.withPops_memWf (State.modCrew_memWf ht _ _) _ _ _ _ fun u pops hu => State.endWord_memWf (State.modCrew_memWf hu _ _) _ _ _ _

theorem execVoteP_nextMemWf {s : State} (h : s.memWf) (g : Guard) (d : Nat) (depth : BitVec 7) (k : List Bool → Nat) :
    NextMemWf (execVoteP g d depth k s) := by
  refine withIssue_nextMemWf h fun i t ht => ?_
  dsimp only
  split
  · exact State.groupEffect_memWf ht _ _
  · split
    · exact State.uniformWrite_memWf ht _ _ _ _ _ _ _
    · exact State.endWord_memWf ht _ _ _ _

theorem execVoteAll_nextMemWf {s : State} (h : s.memWf) (g : Guard) (d : Fin 32) (depth : BitVec 7) :
    NextMemWf (execVoteAll g d depth s) := by
  unfold execVoteAll
  exact execVoteP_nextMemWf h _ _ _ _

theorem execVoteAny_nextMemWf {s : State} (h : s.memWf) (g : Guard) (d : Fin 32) (depth : BitVec 7) :
    NextMemWf (execVoteAny g d depth s) := by
  unfold execVoteAny
  exact execVoteP_nextMemWf h _ _ _ _

theorem execVoteBal_nextMemWf {s : State} (h : s.memWf) (g : Guard) (d : Fin 32) (depth : BitVec 7) :
    NextMemWf (execVoteBal g d depth s) := by
  unfold execVoteBal
  exact execVoteP_nextMemWf h _ _ _ _

theorem execVoteEq_nextMemWf {s : State} (h : s.memWf) (g : Guard) (d : Fin 32) (a : Sel) : NextMemWf (execVoteEq g d a s) := by
  refine withIssue_nextMemWf h fun i t ht => ?_
  dsimp only
  split
  · exact State.groupEffect_memWf ht _ _
  · refine State.withPops_memWf ht _ _ _ _ fun u pops hu => ?_
    split
    · exact State.endWord_memWf hu _ _ _ _
    · exact State.uniformWrite_memWf hu _ _ _ _ _ _ _

theorem execRfl_nextMemWf {s : State} (h : s.memWf) (hd : LaneHdr) (a : Sel) : NextMemWf (execRfl hd a s) := by
  refine withIssue_nextMemWf h fun i t ht => ?_
  dsimp only
  split
  · exact State.groupEffect_memWf ht _ _
  · exact State.withPops_memWf ht _ _ _ _ fun u pops hu => State.endWord_memWf (State.modCrew_memWf hu _ _) _ _ _ _

theorem execIndex_nextMemWf {s : State} (h : s.memWf) (instr : Instr) (g : Guard) (x : Fin 4) (a : Sel) (reads : Bool)
    (k : Nat → XReg → Word → Except LaneErr XReg) : NextMemWf (execIndex instr g x a reads k s) := by
  refine withIssue_nextMemWf h fun i t ht => ?_
  dsimp only
  split
  · exact State.groupEffect_memWf ht _ _
  · exact State.withPops_memWf ht _ _ _ _ fun u pops hu => State.endWord_memWf (State.modCrew_memWf hu _ _) _ _ _ _

/-! ## Uniform words -/

theorem execUni_nextMemWf {s : State} (h : s.memWf) (d : Fin 32) (a b : Sel) (third : Bool) (k : Env → Word → Word → Word → Except LaneErr Word) :
    NextMemWf (execUni d a b third k s) := by
  refine withIssue_nextMemWf h fun i t ht => ?_
  dsimp only
  generalize (envOf i t).splitRead _ = refused, (envOf i t).readU a 0 = x, (envOf i t).readU b 1 = y
  generalize (if third = true then _ else _) = z
  cases refused with
  | true => exact State.groupEffect_memWf ht _ _
  | false =>
    cases x with
    | error x => exact State.groupEffect_memWf ht _ _
    | ok x =>
      cases y with
      | error y => exact State.groupEffect_memWf ht _ _
      | ok y =>
        cases z with
        | error z => exact State.groupEffect_memWf ht _ _
        | ok z =>
          simp only [Bool.false_eq_true, if_false]
          split
          · exact State.groupEffect_memWf ht _ _
          · exact State.uniformWrite_memWf ht _ _ _ _ _ _ _

theorem execUcmp_nextMemWf {s : State} (h : s.memWf) (pm : PushMode) (a b : Sel) (rel : Word → Word → Bool) :
    NextMemWf (execUcmp pm a b rel s) := by
  refine withIssue_nextMemWf h fun i t ht => ?_
  dsimp only
  split
  · exact State.groupEffect_memWf ht _ _
  · split
    iterate 2 exact State.groupEffect_memWf ht _ _
    exact State.endWord_memWf (State.modCrew_memWf ht _ _) _ _ _ _

theorem hintWord_nextMemWf {s : State} (h : s.memWf) (pending : Hints → Bool) (join : Hints → Hints) : NextMemWf (hintWord pending join s) := by
  refine withIssue_nextMemWf h fun i t ht => ?_
  dsimp only
  split
  · exact State.groupEffect_memWf ht _ _
  · split
    · exact State.modCrew_memWf (State.endWord_memWf ht _ _ _ _) _ _
    · exact State.endWord_memWf ht _ _ _ _

/-! ## Control words -/

theorem execControl_nextMemWf {s : State} (h : s.memWf) (g : Guard) {act : Issue → FibreAct} (ha : ∀ i t f, t.memWf → (act i t f).1.memWf) :
    NextMemWf (execControl g act s) :=
  withIssue_nextMemWf h fun i _ ht => State.control_memWf ht i _ (ha i)

theorem execPair_nextMemWf {s : State} (h : s.memWf) (g : Guard) (a : Sel) {act : Issue → Env → Word64 → FibreAct}
    (ha : ∀ i e p t f, t.memWf → (act i e p t f).1.memWf) : NextMemWf (execPair g a act s) := by
  refine withIssue_nextMemWf h fun i t ht => ?_
  dsimp only
  split
  · exact State.groupEffect_memWf ht _ _
  · refine State.control_memWf ht _ _ fun u f hu => ?_
    split
    · exact hu
    · exact ha _ _ _ _ _ hu

theorem execSplit_nextMemWf {s : State} (h : s.memWf) (g : Guard) (j : Fin 8) : NextMemWf (execSplit g j s) :=
  withIssue_nextMemWf h fun _ _ ht => State.control_memWf (State.modCrew_memWf (State.releaseJoin_memWf ht _ _) _ _) _ _ fun _ _ hu => hu

theorem execJoin_nextMemWf {s : State} (h : s.memWf) (g : Guard) (j : Fin 8) : NextMemWf (execJoin g j s) := by
  refine execControl_nextMemWf h g fun i t f ht => ?_
  dsimp only
  split
  · exact ht
  · split
    · exact ht
    · exact State.checkJoin_memWf (State.park_memWf (State.goTo_memWf (State.modCrew_memWf ht _ _) _ _ _) _ _ _) _ _

theorem execRet_nextMemWf {s : State} (h : s.memWf) (g : Guard) : NextMemWf (execRet g s) := by
  refine execControl_nextMemWf h g fun i t f ht => ?_
  dsimp only
  split
  · exact ht
  · refine frameAct_memWf ht _ _ _ (State.segHead_memWf ht _ _) fun u hd hu => ?_
    split
    · exact hu
    · split
      · exact State.exitFibre_memWf hu _ _ _
      · split
        · exact hu
        · exact frameAct_memWf hu _ _ _ (State.popSeg_memWf hu _ _ _) fun v _ hv => State.goTo_memWf hv _ _ _

theorem execWait_nextMemWf {s : State} (h : s.memWf) (g : Guard) (k : Fin 16) (n : Fin 64) : NextMemWf (execWait g k n s) := by
  refine execControl_nextMemWf h g fun i t f ht => ?_
  dsimp only
  split
  · split
    · exact ht
    · exact State.park_memWf (State.goTo_memWf ht _ _ _) _ _ _
  · split
    · exact State.modFibre_memWf ht _ _ _
    · exact State.waitReturn_memWf ht _ _ _

theorem execBari_nextMemWf {s : State} (h : s.memWf) (g : Guard) (n : Fin 16) (a : Sel) : NextMemWf (execBari g n a s) := by
  refine withIssue_nextMemWf h fun i t ht => ?_
  have hu := State.setPcs_memWf ht i.crew i.grp.fids (i.pc + 4)
  dsimp only
  split
  · exact State.groupEffect_memWf ht _ _
  · split
    · exact State.endControl_memWf hu _ _
    · split
      · exact State.endControl_memWf hu _ _
      · split
        · exact State.endControl_memWf hu _ _
        · exact State.endControl_memWf (State.modBar_memWf hu _ _ _) _ _

theorem execBarrd_nextMemWf {s : State} (h : s.memWf) (g : Guard) (n : Fin 16) (d : Fin 32) : NextMemWf (execBarrd g n d s) := by
  refine withIssue_nextMemWf h fun i t ht => ?_
  dsimp only
  split
  · exact State.endControl_memWf (State.setPcs_memWf ht _ _ _) _ _
  · split
    · exact State.groupEffect_memWf ht _ _
    · refine State.uniformWrite_memWf (foldl_fst_memWf (fun r f hr => ?_) _ ht) _ _ _ _ _ _ _
      exact State.barAcquire_memWf hr _ _ _

theorem execQput_nextMemWf {s : State} (h : s.memWf) (g : Guard) (q : Fin 4) (a : Sel) : NextMemWf (execQput g q a s) := by
  refine withIssue_nextMemWf h fun i t ht => ?_
  have stop := fun bad => State.endWord_memWf ht i [] true bad
  have hold := fun l bad => State.deliverAll_memWf (State.holdWord_memWf ht i (.qput g q a) l .queue) i.crew bad
  dsimp only
  repeat' split
  · exact State.groupEffect_memWf ht _ _
  · exact stop _
  · exact stop _
  · exact stop _
  · exact hold _ _
  · exact hold _ _
  · exact hold _ _
  · exact State.endWord_memWf (State.modCrew_memWf (State.modCrew_memWf ht _ _) _ _) _ _ _ _
  · exact State.endWord_memWf (State.modCrew_memWf ht _ _) _ _ _ _

theorem execNop_nextMemWf {s : State} (h : s.memWf) : NextMemWf (execNop s) :=
  withIssue_nextMemWf h fun _ _ ht => State.endWord_memWf ht _ _ _ _

/-! ## Memory words -/

theorem memExec_nextMemWf {s : State} (h : s.memWf) (m : MemShape) : NextMemWf (memExec m s) := by
  refine withIssue_nextMemWf h fun i t ht => ?_
  dsimp only
  split
  · exact State.groupEffect_memWf ht _ _
  · refine State.endWord_memWf (foldl_fst_memWf (fun r f hr => ?_) _ (State.fresh_memWf ht)) _ _ _ _
    exact State.memLane_memWf hr _ _ _ _

theorem fenceExec_nextMemWf {s : State} (h : s.memWf) (g : Guard) (fn : MemFn) (o : Order) (sc : Scope) : NextMemWf (fenceExec g fn o sc s) := by
  refine withIssue_nextMemWf h fun i t ht => State.endWord_memWf (foldl_fst_memWf (fun r f hr => ?_) _ (State.fresh_memWf ht)) _ _ _ _
  dsimp only
  split
  · exact hr
  · exact State.launchMem_memWf hr _ _ _

theorem execWaitmem_nextMemWf {s : State} (h : s.memWf) (g : Guard) (d : Fin 64) (ab : Sel) (wide : Bool) :
    NextMemWf (execWaitmem g d ab wide s) := by
  refine withIssue_nextMemWf h fun i t ht => ?_
  dsimp only
  split
  · exact State.groupEffect_memWf ht _ _
  · refine State.control_memWf (State.fresh_memWf ht) _ _ fun u f hu => ?_
    split
    · exact hu
    · exact State.waitFibre_memWf hu _ _ _ _ _ _

/-! ## Engine words -/

theorem engineWord_nextMemWf {α : Type} {s : State} (h : s.memWf) (k : Nat) (regs : Env → List Nat) (plan : Env → Except LaneErr α)
    {launch : α → List Nat → Issue → State → State} (hl : ∀ a parts i t, t.memWf → (launch a parts i t).memWf) :
    NextMemWf (engineWord k regs plan launch s) := by
  refine withIssue_nextMemWf h fun i t ht => ?_
  have hc := State.countOn_memWf ht i k i.grp.fids
  dsimp only
  split
  · exact State.groupEffect_memWf ht _ _
  · split
    · exact State.groupEffect_memWf ht _ _
    · refine State.endWord_memWf ?_ _ _ _ _
      split
      · exact hc
      · exact hl _ _ _ _ hc

theorem copyWord_nextMemWf {s : State} (h : s.memWf) (fn k : Nat) (a : Option Sel) (c : Nat) (pair : Env → Bool) :
    NextMemWf (copyWord fn k a c pair s) :=
  engineWord_nextMemWf h _ _ _ fun _ _ _ _ ht => State.launchCopy_memWf ht _ _ _ _ _

theorem execXgather_nextMemWf {s : State} (h : s.memWf) (hd : GEngHdr) : NextMemWf (execXgather hd s) := by
  refine withIssue_nextMemWf h fun i t ht => ?_
  dsimp only
  split
  · exact State.groupEffect_memWf ht _ _
  · split
    · exact State.groupEffect_memWf ht _ _
    · refine State.endWord_memWf ?_ _ _ _ _
      split
      · exact State.countOn_memWf ht _ _ _
      · exact State.launchCopy_memWf (State.countOn_memWf ht _ _ _) _ _ _ _ _

theorem matWord_nextMemWf {s : State} (h : s.memWf) (k : Nat) (regs : List Nat) (plan : Env → Except LaneErr (MatOp × Option Nat)) :
    NextMemWf (matWord k regs plan s) :=
  engineWord_nextMemWf h _ _ _ fun _ _ _ _ ht => State.launchMat_memWf ht _ _ _ _ _

theorem execMstat_nextMemWf {s : State} (h : s.memWf) (k : Fin 16) (c : Fin 32) : NextMemWf (execMstat k c s) :=
  engineWord_nextMemWf h _ _ _ fun _ _ _ _ ht => ht

theorem execBxsend_nextMemWf {s : State} (h : s.memWf) (hd : EngHdr) : NextMemWf (execBxsend hd s) := by
  unfold execBxsend bulkWord
  exact engineWord_nextMemWf h _ _ _ fun _ _ _ _ ht => launchSend_memWf ht _ _ _ _

theorem execBxrecv_nextMemWf {s : State} (h : s.memWf) (hd : EngHdr) : NextMemWf (execBxrecv hd s) := by
  unfold execBxrecv bulkWord
  exact engineWord_nextMemWf h _ _ _ fun _ _ _ _ ht => launchRecv_memWf ht _ _ _ _

theorem execBxcancel_nextMemWf {s : State} (h : s.memWf) (hd : EngHdr) : NextMemWf (execBxcancel hd s) := by
  unfold execBxcancel bulkWord
  exact engineWord_nextMemWf h _ _ _ fun _ _ _ _ ht => launchQuery_memWf ht _ _ _ _ _

theorem execBxstat_nextMemWf {s : State} (h : s.memWf) (hd : EngHdr) : NextMemWf (execBxstat hd s) := by
  unfold execBxstat bulkWord
  exact engineWord_nextMemWf h _ _ _ fun _ _ _ _ ht => launchQuery_memWf ht _ _ _ _ _

/-! ## Words of the frame engine -/

theorem frameWord_nextMemWf {s : State} (h : s.memWf) (g : Guard) (srcs : List (Sel × Nat)) (d width k : Nat) {act : FrameAct}
    (ha : ∀ i e t f, t.memWf → (act i e t f).1.memWf) : NextMemWf (frameWord g srcs d width k act s) := by
  refine withIssue_nextMemWf h fun i t ht => ?_
  dsimp only
  split
  · exact State.groupEffect_memWf ht _ _
  · refine State.control_memWf ht _ _ fun u f hu => ?_
    split
    · exact hu
    · exact ha _ _ _ _ hu

theorem execHinst_nextMemWf {s : State} (h : s.memWf) (hd : EffHdr) : NextMemWf (execHinst hd s) := by
  refine frameWord_nextMemWf h _ _ _ _ _ fun i e t f ht => ?_
  split
  · exact State.hinst_memWf ht _ _ _ _ _
  all_goals exact ht

theorem execHpop_nextMemWf {s : State} (h : s.memWf) (g : Guard) : NextMemWf (execHpop g s) := by
  refine frameWord_nextMemWf h _ _ _ _ _ fun i e t f ht => frameAct_memWf ht _ _ _ (State.segHead_memWf ht _ _) fun u hd hu => ?_
  split
  · exact hu
  · exact frameAct_memWf hu _ _ _ (State.popSeg_memWf hu _ _ _) fun v _ hv => State.modFibre_memWf hv _ _ _

theorem execPerform_nextMemWf {s : State} (h : s.memWf) (hd : EffHdr) : NextMemWf (execPerform hd s) := by
  refine frameWord_nextMemWf h _ _ _ _ _ fun i e t f ht => ?_
  dsimp only
  split
  · split <;> exact ht
  all_goals exact ht

theorem execResume_nextMemWf {s : State} (h : s.memWf) (hd : EffHdr) : NextMemWf (execResume hd s) := by
  refine frameWord_nextMemWf h _ _ _ _ _ fun i e t f ht => ?_
  split
  · exact State.resumeFibre_memWf ht _ _ _ _ _ _
  all_goals exact ht

theorem execSpawn_nextMemWf {s : State} (h : s.memWf) (hd : EffHdr) : NextMemWf (execSpawn hd s) := by
  refine withIssue_nextMemWf h fun i t ht => ?_
  dsimp only
  split
  · exact State.groupEffect_memWf ht _ _
  · refine State.control_memWf (State.modCrew_memWf ht _ _) _ _ fun u f hu => ?_
    split
    · exact hu
    · split
      · exact State.spawnFibre_memWf hu _ _ _ _ _ _ _
      all_goals exact hu

/-! ## SYS words -/

theorem sysWord_nextMemWf {α : Type} {s : State} (h : s.memWf) (user : Bool) (regs : List Nat) (plan : Env → Except LaneErr α)
    {act : α → Issue → Env → List (Nat × Eff) → State → State} (ha : ∀ a i e bad t, t.memWf → (act a i e bad t).memWf) :
    NextMemWf (sysWord user regs plan act s) := by
  refine withIssue_nextMemWf h fun i t ht => ?_
  dsimp only
  split
  · exact State.groupEffect_memWf ht _ _
  · split
    · exact State.groupEffect_memWf ht _ _
    · split
      · exact State.groupEffect_memWf ht _ _
      · split
        · exact State.endWord_memWf ht _ _ _ _
        · exact ha _ _ _ _ _ (State.sysFence_memWf ht _ _)

theorem execSegw_nextMemWf {s : State} (h : s.memWf) (a : Sel) (c : Fin 32) : NextMemWf (execSegw a c s) := by
  refine sysWord_nextMemWf h _ _ _ fun x i e bad t ht => ?_
  split
  · exact ht
  · exact State.segWrite_memWf ht _ _ _ _ _ _

theorem execSegr_nextMemWf {s : State} (h : s.memWf) (a : Sel) (c : Fin 32) : NextMemWf (execSegr a c s) :=
  sysWord_nextMemWf h _ _ _ fun _ _ _ _ _ ht => State.writeGs_memWf ht _ _ _ _ _

theorem execCsrr_nextMemWf {s : State} (h : s.memWf) (a : Sel) (c : Fin 32) : NextMemWf (execCsrr a c s) :=
  sysWord_nextMemWf h _ _ _ fun _ _ _ _ _ ht => State.writeGs_memWf (State.readReg_memWf ht _ _) _ _ _ _ _

theorem execCsrw_nextMemWf {s : State} (h : s.memWf) (a : Sel) (c : Fin 32) : NextMemWf (execCsrw a c s) :=
  sysWord_nextMemWf h _ _ _ fun _ _ _ _ _ ht => State.endWord_memWf (State.writeReg_memWf ht _ _ _) _ _ _ _

theorem execEret_nextMemWf {s : State} (h : s.memWf) (c : Fin 32) : NextMemWf (execEret c s) :=
  sysWord_nextMemWf h _ _ _ fun _ _ _ _ _ ht => State.endControl_memWf (State.setPcs_memWf (State.modCrew_memWf ht _ _) _ _ _) _ _

theorem execTrap_nextMemWf {s : State} (h : s.memWf) (a : Sel) : NextMemWf (execTrap a s) :=
  sysWord_nextMemWf h _ _ _ fun _ _ _ _ _ ht => State.endWord_memWf ht _ _ _ _

theorem execIntr_nextMemWf {s : State} (h : s.memWf) (a : Sel) : NextMemWf (execIntr a s) :=
  sysWord_nextMemWf h _ _ _ fun _ _ _ _ _ ht => State.endWord_memWf (State.vectorEvent_memWf ht _ _) _ _ _ _

theorem execHalt_nextMemWf {s : State} (h : s.memWf) : NextMemWf (execHalt s) :=
  sysWord_nextMemWf h _ _ _ fun _ _ _ _ _ ht => State.haltCrew_memWf (State.endWord_memWf ht _ _ _ _) _ _ _

/-! ## Events -/

theorem execCompletion_nextMemWf {s : State} (h : s.memWf) (op : Nat) : NextMemWf (execCompletion op s) := by
  grind [NextMemWf, execCompletion, State.completeOp_memWf, State.orSnoop_memWf]

theorem execTransientFault_nextMemWf {s : State} (h : s.memWf) (op : Nat) : NextMemWf (execTransientFault op s) := by
  grind [→ State.memWf.parts, ← State.memWf.of_parts, NextMemWf, execTransientFault, State.exhaustOp_memWf]

theorem execUncorrectableError_nextMemWf {s : State} (h : s.memWf) (site : PoisonSite) : NextMemWf (execUncorrectableError site s) := by
  refine nextMemWf_next ?_
  cases site with
  | staging _ _ _ _ => exact State.poisonStaging_memWf h _ _ _ _
  | plane _ _ _ => exact State.poisonPlane_memWf h _ _ _
  | _ => exact h

theorem execMergeAtHome_nextMemWf {s : State} (h : s.memWf) (agent line : Nat) : NextMemWf (execMergeAtHome agent line s) := by
  grind [NextMemWf, execMergeAtHome, State.mergeLine_memWf, State.mergeWc_memWf, State.orSnoop_memWf]

theorem execAtomicAtHome_nextMemWf {s : State} (h : s.memWf) (op : Nat) : NextMemWf (execAtomicAtHome op s) := by
  grind [NextMemWf, execAtomicAtHome, State.toHomeNow_memWf, State.atomAt_memWf, State.holdResult_memWf, State.orSnoop_memWf]

theorem execDrainRequest_nextMemWf {s : State} (h : s.memWf) (agent : Nat) : NextMemWf (execDrainRequest agent s) := by
  grind [NextMemWf, execDrainRequest, State.drain_memWf, State.orSnoop_memWf]

theorem execCleanByteExpiry_nextMemWf {s : State} (h : s.memWf) (agent : Nat) : NextMemWf (execCleanByteExpiry agent s) := by
  grind [NextMemWf, execCleanByteExpiry, State.expireClean_memWf]

theorem execLeaseExpiry_nextMemWf {s : State} (h : s.memWf) : NextMemWf (execLeaseExpiry s) := by
  grind [→ State.memWf.parts, ← State.memWf.of_parts, NextMemWf, execLeaseExpiry]

theorem execWalkDone_nextMemWf {s : State} (h : s.memWf) (op : Nat) : NextMemWf (execWalkDone op s) := by
  grind [→ State.memWf.parts, ← State.memWf.of_parts, NextMemWf, execWalkDone, State.coreXl_memWf]

theorem execXlFlush_nextMemWf {s : State} (h : s.memWf) (w : FlushWrite) (pasid : Nat) : NextMemWf (execXlFlush w pasid s) := by
  grind [NextMemWf, execXlFlush, State.hostAccess_memWf, State.startFlush_memWf]

theorem execFlushDone_nextMemWf {s : State} (h : s.memWf) : NextMemWf (execFlushDone s) := by
  grind [→ State.memWf.parts, ← State.memWf.of_parts, NextMemWf, execFlushDone]

theorem execPageRequestResponse_nextMemWf {s : State} (h : s.memWf) (req : Nat) (reply : PageReply) : NextMemWf
    (execPageRequestResponse req reply s) := by
  grind [→ State.memWf.parts, ← State.memWf.of_parts, NextMemWf, execPageRequestResponse, foldl_memWf, State.pageDenied_memWf,
    State.pageThere_memWf]

theorem execPageRequestTimeout_nextMemWf {s : State} (h : s.memWf) (req : Nat) : NextMemWf (execPageRequestTimeout req s) := by
  grind [→ State.memWf.parts, ← State.memWf.of_parts, NextMemWf, execPageRequestTimeout, foldl_memWf, State.pageDenied_memWf]

theorem execPowerGate_nextMemWf {s : State} (h : s.memWf) (u : GateUnit) : NextMemWf (execPowerGate u s) := by
  refine nextMemWf_next ?_
  cases u with
  | l1Way core way =>
    grind [State.drain_memWf, State.orSnoop_memWf, State.invalidate_memWf, State.returnSlots_memWf, → State.memWf.parts, ← State.memWf.of_parts]
  | scratchBank cluster bank | l2Way cluster bank => grind [→ State.memWf.parts, ← State.memWf.of_parts]

theorem execUnitWake_nextMemWf {s : State} (h : s.memWf) (u : GateUnit) : NextMemWf (execUnitWake u s) := by
  grind [NextMemWf, execUnitWake, State.wake_memWf]

theorem execAllowHomeRequest_nextMemWf {s : State} (h : s.memWf) (op : Nat) : NextMemWf (execAllowHomeRequest op s) := by
  grind [NextMemWf, execAllowHomeRequest, State.toHomeNow_memWf, State.allowAtHome_memWf, State.holdResult_memWf, State.orSnoop_memWf]

theorem execSlotReturn_nextMemWf {s : State} (h : s.memWf) (core addr : Nat) : NextMemWf (execSlotReturn core addr s) := by
  grind [NextMemWf, execSlotReturn, State.orSnoop_memWf, State.returnSlot_memWf]

theorem execJoinNotice_nextMemWf {s : State} (h : s.memWf) (op : Nat) : NextMemWf (execJoinNotice op s) := by
  grind [NextMemWf, execJoinNotice, State.toHomeNow_memWf, State.holdResult_memWf, State.joinAtHome_memWf, State.orSnoop_memWf]

theorem execHostSnoop_nextMemWf {s : State} (h : s.memWf) (line : Nat) : NextMemWf (execHostSnoop line s) := by
  grind [NextMemWf, execHostSnoop, State.modHome_memWf]

theorem execOwnershipResponse_nextMemWf {s : State} (h : s.memWf) (line : Nat) (granted : Bool) : NextMemWf
    (execOwnershipResponse line granted s) := by
  grind [NextMemWf, execOwnershipResponse, State.modHome_memWf]

theorem execBackInvalidateDone_nextMemWf {s : State} (h : s.memWf) (line : Nat) : NextMemWf (execBackInvalidateDone line s) := by
  grind [NextMemWf, execBackInvalidateDone, State.modHome_memWf]

theorem execHostWrite_nextMemWf {s : State} (h : s.memWf) (head : Fin 2) (addr : Nat) (act : HostAct) (order : Bool) : NextMemWf
    (execHostWrite head addr act order s) := by
  grind [→ State.memWf.parts, ← State.memWf.of_parts, NextMemWf, execHostWrite, State.hostLoad_memWf, State.hostStore_memWf]

theorem execCopyStart_nextMemWf {s : State} (h : s.memWf) (crew : Nat) : NextMemWf (execCopyStart crew s) := by
  grind [NextMemWf, execCopyStart, State.startCopy_memWf]

theorem execClaimGrant_nextMemWf {s : State} (h : s.memWf) (cluster : Nat) : NextMemWf (execClaimGrant cluster s) := by
  grind [NextMemWf, execClaimGrant, State.grantClaim_memWf]

theorem execMatrixOpStart_nextMemWf {s : State} (h : s.memWf) (cluster : Nat) (u : MatrixUnit) : NextMemWf (execMatrixOpStart cluster u s) := by
  grind [NextMemWf, execMatrixOpStart, State.orSnoop_memWf, State.startMat_memWf]

theorem execBulkRequest_nextMemWf {s : State} (h : s.memWf) (id : MsgId) (len pri port : Nat) (bytes : List Byte) : NextMemWf
    (execBulkRequest id len pri port bytes s) := by
  grind [NextMemWf, execBulkRequest, State.orSnoop_memWf, State.wicketRequest_memWf]

theorem execRequestRetry_nextMemWf {s : State} (h : s.memWf) (send : Nat) : NextMemWf (execRequestRetry send s) := by
  grind [NextMemWf, execRequestRetry, State.retryRequest_memWf]

theorem execGrantIssue_nextMemWf {s : State} (h : s.memWf) (port : Nat) : NextMemWf (execGrantIssue port s) := by
  grind [NextMemWf, execGrantIssue, State.wicketGrant_memWf]

theorem execGrantArrival_nextMemWf {s : State} (h : s.memWf) (send : Nat) (r : GrantRange) : NextMemWf (execGrantArrival send r s) := by
  grind [NextMemWf, execGrantArrival, State.takeGrant_memWf]

theorem execBulkData_nextMemWf {s : State} (h : s.memWf) (id : MsgId) (off epoch : Nat) (bytes : List Byte) : NextMemWf
    (execBulkData id off epoch bytes s) := by
  grind [NextMemWf, execBulkData, State.orSnoop_memWf, State.wicketData_memWf]

theorem execGrantExpiry_nextMemWf {s : State} (h : s.memWf) (msg grant : Nat) : NextMemWf (execGrantExpiry msg grant s) := by
  grind [NextMemWf, execGrantExpiry, State.wicketExpiry_memWf]

theorem execPause_nextMemWf {s : State} (h : s.memWf) (id : MsgId) : NextMemWf (execPause id s) := by
  grind [NextMemWf, execPause, State.wicketPause_memWf]

theorem execBulkResume_nextMemWf {s : State} (h : s.memWf) (id : MsgId) (off : Nat) : NextMemWf (execBulkResume id off s) := by
  grind [NextMemWf, execBulkResume, State.wicketResume_memWf]

theorem execDoneNotice_nextMemWf {s : State} (h : s.memWf) (send : Nat) : NextMemWf (execDoneNotice send s) := by
  grind [NextMemWf, execDoneNotice, State.noticeSend_memWf]

theorem execTruncatedNotice_nextMemWf {s : State} (h : s.memWf) (send : Nat) : NextMemWf (execTruncatedNotice send s) := by
  grind [NextMemWf, execTruncatedNotice, State.noticeSend_memWf]

theorem execOrphanedNotice_nextMemWf {s : State} (h : s.memWf) (send : Nat) : NextMemWf (execOrphanedNotice send s) := by
  grind [NextMemWf, execOrphanedNotice, State.noticeSend_memWf]

theorem execCancelledNotice_nextMemWf {s : State} (h : s.memWf) (id : MsgId) (toSender : Bool) : NextMemWf
    (execCancelledNotice id toSender s) := by
  grind [NextMemWf, execCancelledNotice, State.cancelMsg_memWf, State.noticeSend_memWf]

theorem execPeerFaultNotice_nextMemWf {s : State} (h : s.memWf) (id : MsgId) (toSender : Bool) : NextMemWf
    (execPeerFaultNotice id toSender s) := by
  grind [NextMemWf, execPeerFaultNotice, State.cancelMsg_memWf, State.noticeSend_memWf]

theorem execSourcePathLoss_nextMemWf {s : State} (h : s.memWf) (msg : Nat) : NextMemWf (execSourcePathLoss msg s) := by
  grind [NextMemWf, execSourcePathLoss, State.endMsg_memWf, State.orSnoop_memWf]

theorem execSendUnreachable_nextMemWf {s : State} (h : s.memWf) (send : Nat) : NextMemWf (execSendUnreachable send s) := by
  grind [NextMemWf, execSendUnreachable, State.closeSend_memWf]

theorem execLinkFrame_nextMemWf {s : State} (h : s.memWf) (port seq ack : Nat) (body : LinkBody) : NextMemWf
    (execLinkFrame port seq ack body s) := by
  grind [→ State.memWf.parts, ← State.memWf.of_parts, NextMemWf, execLinkFrame, State.orSnoop_memWf, State.peerAccess_memWf,
    State.replayPort_memWf]

theorem execAckTimeout_nextMemWf {s : State} (h : s.memWf) (port : Nat) : NextMemWf (execAckTimeout port s) := by
  grind [NextMemWf, execAckTimeout, State.replayPort_memWf]

theorem execLinkUpRetry_nextMemWf {s : State} (h : s.memWf) (port : Nat) : NextMemWf (execLinkUpRetry port s) := by
  grind [→ State.memWf.parts, ← State.memWf.of_parts, NextMemWf, execLinkUpRetry]

theorem execLinkUp_nextMemWf {s : State} (h : s.memWf) (port maj min lowMaj rtt : Nat) : NextMemWf (execLinkUp port maj min lowMaj rtt s) := by
  grind [→ State.memWf.parts, ← State.memWf.of_parts, NextMemWf, execLinkUp, State.plainReport_memWf]

theorem execNotify_nextMemWf {s : State} (h : s.memWf) (head : Fin 2) (q wptr : Nat) : NextMemWf (execNotify head q wptr s) := by
  grind [NextMemWf, execNotify, State.hostAccess_memWf, State.notifyQueue_memWf]

theorem execSlotRead_nextMemWf {s : State} (h : s.memWf) (q : Nat) : NextMemWf (execSlotRead q s) := by
  grind [NextMemWf, execSlotRead, State.checkAccepted_memWf, State.orSnoop_memWf, State.readSlot_memWf]

theorem execPacketStart_nextMemWf {s : State} (h : s.memWf) (q idx : Nat) : NextMemWf (execPacketStart q idx s) := by
  grind [NextMemWf, execPacketStart, State.modPacket_memWf]

theorem execNopPacket_nextMemWf {s : State} (h : s.memWf) (q idx : Nat) : NextMemWf (execNopPacket q idx s) := by
  grind [NextMemWf, execNopPacket, State.endPacket_memWf]

theorem execLaunch_nextMemWf {s : State} (h : s.memWf) (q idx : Nat) : NextMemWf (execLaunch q idx s) := by
  grind [NextMemWf, execLaunch, State.launchGang_memWf, State.modPacket_memWf]

theorem execGraph_nextMemWf {s : State} (h : s.memWf) (q idx : Nat) : NextMemWf (execGraph q idx s) := by
  grind [NextMemWf, execGraph, State.orSnoop_memWf, State.startGraph_memWf]

theorem execBarrierPacket_nextMemWf {s : State} (h : s.memWf) (q idx : Nat) : NextMemWf (execBarrierPacket q idx s) := by
  grind [NextMemWf, execBarrierPacket, State.endPacket_memWf, State.pageRequest_memWf, State.rejectPacket_memWf, State.signalsZero_memWf]

theorem execSignalPacket_nextMemWf {s : State} (h : s.memWf) (q idx : Nat) : NextMemWf (execSignalPacket q idx s) := by
  grind [NextMemWf, execSignalPacket, State.endPacket_memWf, State.orSnoop_memWf, State.runSignal_memWf]

theorem execPacketComplete_nextMemWf {s : State} (h : s.memWf) (q idx : Nat) : NextMemWf (execPacketComplete q idx s) := by
  grind [NextMemWf, execPacketComplete, State.completePacket_memWf, State.orSnoop_memWf]

theorem execTickProposal_nextMemWf {s : State} (h : s.memWf) (gang : Nat) (m : TickMsg) : NextMemWf (execTickProposal gang m s) := by
  refine nextMemWf_next ?_
  split
  · split
    · exact h
    · exact State.joinGang_memWf h _ _ _ _ _ _
  · split
    · exact h
    · exact State.propose_memWf h _ _ _ _
  · split
    · exact h
    · exact State.agreeTick_memWf h _ _ _
  all_goals exact h

theorem execStartTick_nextMemWf {s : State} (h : s.memWf) (gang : Nat) : NextMemWf (execStartTick gang s) := by
  grind [NextMemWf, execStartTick, State.orSnoop_memWf, State.startGang_memWf]

theorem execChipsetTimeout_nextMemWf {s : State} (h : s.memWf) (gang : Nat) : NextMemWf (execChipsetTimeout gang s) := by
  grind [→ State.memWf.parts, ← State.memWf.of_parts, NextMemWf, execChipsetTimeout, foldl_memWf, State.gangReport_memWf, State.tellChip_memWf]

theorem execCrewPlacement_nextMemWf {s : State} (h : s.memWf) (gang pipe die x0 y0 : Nat) : NextMemWf
    (execCrewPlacement gang pipe die x0 y0 s) := by
  grind [NextMemWf, execCrewPlacement, State.placePipe_memWf]

theorem execGangTermination_nextMemWf {s : State} (h : s.memWf) (gang chip : Nat) (ended : Bool) : NextMemWf
    (execGangTermination gang chip ended s) := by
  grind [→ State.memWf.parts, ← State.memWf.of_parts, NextMemWf, execGangTermination, State.killGang_memWf, State.orSnoop_memWf,
    State.releaseGang_memWf]

theorem execKernelNode_nextMemWf {s : State} (h : s.memWf) (graph node : Nat) : NextMemWf (execKernelNode graph node s) := by
  grind [NextMemWf, execKernelNode, State.kernelNode_memWf]

theorem execCondNode_nextMemWf {s : State} (h : s.memWf) (graph node : Nat) : NextMemWf (execCondNode graph node s) := by
  grind [NextMemWf, execCondNode, State.condNode_memWf, State.orSnoop_memWf]

theorem execSignalNode_nextMemWf {s : State} (h : s.memWf) (graph node : Nat) : NextMemWf (execSignalNode graph node s) := by
  grind [NextMemWf, execSignalNode, State.orSnoop_memWf, State.signalNode_memWf]

theorem execXferNode_nextMemWf {s : State} (h : s.memWf) (graph node : Nat) : NextMemWf (execXferNode graph node s) := by
  grind [NextMemWf, execXferNode, State.orSnoop_memWf, State.xferNode_memWf]

theorem execNoteNode_nextMemWf {s : State} (h : s.memWf) (graph node : Nat) : NextMemWf (execNoteNode graph node s) := by
  grind [NextMemWf, execNoteNode, State.noteNode_memWf, State.orSnoop_memWf]

theorem execNodeComplete_nextMemWf {s : State} (h : s.memWf) (graph node : Nat) : NextMemWf (execNodeComplete graph node s) := by
  grind [NextMemWf, execNodeComplete, State.completeNode_memWf, State.orSnoop_memWf]

theorem execPreemptDecision_nextMemWf {s : State} (h : s.memWf) (crew : Nat) : NextMemWf (execPreemptDecision crew s) := by
  grind [NextMemWf, execPreemptDecision, State.orSnoop_memWf, State.preempt_memWf]

theorem execDrainTimeout_nextMemWf {s : State} (h : s.memWf) (crew : Nat) : NextMemWf (execDrainTimeout crew s) := by
  grind [NextMemWf, execDrainTimeout, State.drainTimeout_memWf]

theorem execSaveComplete_nextMemWf {s : State} (h : s.memWf) (crew : Nat) : NextMemWf (execSaveComplete crew s) := by
  grind [NextMemWf, execSaveComplete, State.orSnoop_memWf, State.saveCrew_memWf]

theorem execRestore_nextMemWf {s : State} (h : s.memWf) (crew die x0 y0 : Nat) : NextMemWf (execRestore crew die x0 y0 s) := by
  grind [NextMemWf, execRestore, State.orSnoop_memWf, State.restorePipe_memWf]

theorem execSchedulingRound_nextMemWf {s : State} (h : s.memWf) (die : Nat) : NextMemWf (execSchedulingRound die s) := by
  grind [NextMemWf, execSchedulingRound, State.round_memWf]

theorem execOccRead_nextMemWf {s : State} (h : s.memWf) (core phase : Nat) (k : OccRead) : NextMemWf (execOccRead core phase k s) := by
  grind [NextMemWf, execOccRead, State.hostAccess_memWf, State.readOcc_memWf]

theorem execVectorTimer_nextMemWf {s : State} (h : s.memWf) (v : Nat) : NextMemWf (execVectorTimer v s) := by
  grind [NextMemWf, execVectorTimer, State.sendVector_memWf]

theorem execVectorUnmask_nextMemWf {s : State} (h : s.memWf) (v : Nat) : NextMemWf (execVectorUnmask v s) := by
  grind [→ State.memWf.parts, ← State.memWf.of_parts, NextMemWf, execVectorUnmask, State.sendVector_memWf]

theorem execHeartbeat_nextMemWf {s : State} (h : s.memWf) (head : Fin 2) : NextMemWf (execHeartbeat head s) := by
  grind [NextMemWf, execHeartbeat, State.hostAccess_memWf, State.heartbeat_memWf]

theorem execHeartbeatTimeout_nextMemWf {s : State} (h : s.memWf) (head : Fin 2) : NextMemWf (execHeartbeatTimeout head s) := by
  grind [NextMemWf, execHeartbeatTimeout, State.failHead_memWf]

theorem execHeadLinkDown_nextMemWf {s : State} (h : s.memWf) (head : Fin 2) : NextMemWf (execHeadLinkDown head s) := by
  grind [→ State.memWf.parts, ← State.memWf.of_parts, NextMemWf, execHeadLinkDown, State.failHead_memWf, State.modHead_memWf]

theorem execCeAdopt_nextMemWf {s : State} (h : s.memWf) (head : Fin 2) (epoch : Nat) : NextMemWf (execCeAdopt head epoch s) := by
  grind [NextMemWf, execCeAdopt, State.hostAccess_memWf, State.claimQueues_memWf]

theorem execVersion_nextMemWf {s : State} (h : s.memWf) (head : Fin 2) : NextMemWf (execVersion head s) := by
  grind [NextMemWf, execVersion, State.mailRun_memWf, State.mailVersion_memWf]

theorem execQueueCreate_nextMemWf {s : State} (h : s.memWf) (head : Fin 2) : NextMemWf (execQueueCreate head s) := by
  grind [NextMemWf, execQueueCreate, State.mailRun_memWf, State.mailQueue_memWf]

theorem execQueueDisable_nextMemWf {s : State} (h : s.memWf) (head : Fin 2) : NextMemWf (execQueueDisable head s) := by
  grind [NextMemWf, execQueueDisable, State.mailRun_memWf, State.disableQueue_memWf, State.mailEnd_memWf, State.orSnoop_memWf]

theorem execPasidRegister_nextMemWf {s : State} (h : s.memWf) (head : Fin 2) : NextMemWf (execPasidRegister head s) := by
  grind [NextMemWf, execPasidRegister, State.mailRun_memWf, State.mailPasid_memWf]

theorem execCodeLoad_nextMemWf {s : State} (h : s.memWf) (head : Fin 2) : NextMemWf (execCodeLoad head s) := by
  grind [NextMemWf, execCodeLoad, State.mailRun_memWf, State.mailCode_memWf, State.orSnoop_memWf]

theorem execImageStage_nextMemWf {s : State} (h : s.memWf) (head : Fin 2) (signed : Bool) : NextMemWf (execImageStage head signed s) := by
  grind [NextMemWf, execImageStage, State.mailRun_memWf, State.mailImage_memWf]

theorem execEvring_nextMemWf {s : State} (h : s.memWf) (head : Fin 2) : NextMemWf (execEvring head s) := by
  grind [NextMemWf, execEvring, State.mailRun_memWf, State.mailRing_memWf]

theorem execTdiDefine_nextMemWf {s : State} (h : s.memWf) (head : Fin 2) : NextMemWf (execTdiDefine head s) := by
  grind [NextMemWf, execTdiDefine, State.mailRun_memWf, State.mailTdi_memWf]

theorem execDbgHalt_nextMemWf {s : State} (h : s.memWf) (head : Fin 2) : NextMemWf (execDbgHalt head s) := by
  grind [NextMemWf, execDbgHalt, State.mailRun_memWf, State.mailHalt_memWf]

theorem execDbgRead_nextMemWf {s : State} (h : s.memWf) (head : Fin 2) : NextMemWf (execDbgRead head s) := by
  grind [NextMemWf, execDbgRead, State.mailRun_memWf, State.mailRead_memWf]

theorem execDbgResume_nextMemWf {s : State} (h : s.memWf) (head : Fin 2) : NextMemWf (execDbgResume head s) := by
  grind [NextMemWf, execDbgResume, State.mailRun_memWf, State.mailResume_memWf]

theorem execRegisterWrite_nextMemWf {s : State} (h : s.memWf) (head : Fin 2) (off : Nat) (act : RegAct) : NextMemWf
    (execRegisterWrite head off act s) := by
  refine nextMemWf_next ?_
  split
  · exact h
  · cases act with
    | write val => exact State.orSnoop_memWf h (State.writeReg_memWf h _ _ _)
    | read => exact State.hostReads_memWf h _ _

theorem execReportAnswerTimeout_nextMemWf {s : State} (h : s.memWf) (n : Nat) : NextMemWf (execReportAnswerTimeout n s) := by
  grind [→ State.memWf.parts, ← State.memWf.of_parts, NextMemWf, execReportAnswerTimeout, State.toHost_memWf]

theorem execSpdmRequest_nextMemWf {s : State} (h : s.memWf) (head : Fin 2) (k : SpdmKind) : NextMemWf (execSpdmRequest head k s) := by
  refine nextMemWf_next ?_
  split
  · exact h
  · cases k with
    | openSession session tdi =>
      dsimp only
      split
      · exact State.openSession_memWf h _ _ _
      · exact State.spdm_memWf h _ _
    | keySetup session stream =>
      dsimp only
      split
      · exact State.setKeys_memWf h _ _ _
      · exact State.spdm_memWf h _ _
    | _ => exact State.spdm_memWf h _ _

theorem execTdiStop_nextMemWf {s : State} (h : s.memWf) (head : Fin 2) (tdi : Nat) : NextMemWf (execTdiStop head tdi s) := by
  grind [NextMemWf, execTdiStop, State.leaveRun_memWf, State.orSnoop_memWf, State.tdisp_memWf]

theorem execTdispRequest_nextMemWf {s : State} (h : s.memWf) (head : Fin 2) (tdi : Nat) (k : TdispKind) : NextMemWf
    (execTdispRequest head tdi k s) := by
  grind [→ State.memWf.parts, ← State.memWf.of_parts, NextMemWf, execTdispRequest, State.leaveRun_memWf, State.orSnoop_memWf, State.tdisp_memWf]

theorem execSessionExpiry_nextMemWf {s : State} (h : s.memWf) (head : Fin 2) (session : Nat) : NextMemWf (execSessionExpiry head session s) := by
  grind [→ State.memWf.parts, ← State.memWf.of_parts, NextMemWf, execSessionExpiry, foldl_memWf, State.failTdi_memWf, State.orSnoop_memWf,
    State.plainReport_memWf]

theorem execIdeIntegrityFailure_nextMemWf {s : State} (h : s.memWf) (head : Fin 2) (stream : Nat) : NextMemWf
    (execIdeIntegrityFailure head stream s) := by
  grind [→ State.memWf.parts, ← State.memWf.of_parts, NextMemWf, execIdeIntegrityFailure, foldl_memWf, State.failTdi_memWf, State.orSnoop_memWf,
    State.plainReport_memWf]

theorem execReset_nextMemWf {s : State} (h : s.memWf) : NextMemWf (execReset s) := by
  grind [NextMemWf, execReset, State.restart_memWf]

theorem execBringupStageDone_nextMemWf {s : State} (h : s.memWf) (e : StageEnd) : NextMemWf (execBringupStageDone e s) := by
  refine nextMemWf_next ?_
  split
  · exact h
  · cases e with
    | done => exact State.nextStage_memWf h
    | failed => exact h
    | badSignature | badFormat => exact State.rejectImage_memWf h _

theorem execPowerLimit_nextMemWf {s : State} (h : s.memWf) (millivolts : Nat) : NextMemWf (execPowerLimit millivolts s) := by
  grind [→ State.memWf.parts, ← State.memWf.of_parts, NextMemWf, execPowerLimit]

theorem execThermalThrottle_nextMemWf {s : State} (h : s.memWf) : NextMemWf (execThermalThrottle s) := by
  grind [→ State.memWf.parts, ← State.memWf.of_parts, NextMemWf, execThermalThrottle]

theorem execThermalTrip_nextMemWf {s : State} (h : s.memWf) : NextMemWf (execThermalTrip s) := by
  grind [→ State.memWf.parts, ← State.memWf.of_parts, NextMemWf, execThermalTrip, State.plainReport_memWf, State.restart_memWf]

theorem execPatrolScrub_nextMemWf {s : State} (h : s.memWf) (stack : Nat) : NextMemWf (execPatrolScrub stack s) := by
  grind [→ State.memWf.parts, ← State.memWf.of_parts, NextMemWf, execPatrolScrub]

theorem execServiceCoreFailure_nextMemWf {s : State} (h : s.memWf) (core : Nat) : NextMemWf (execServiceCoreFailure core s) := by
  grind [→ State.memWf.parts, ← State.memWf.of_parts, NextMemWf, execServiceCoreFailure, State.plainReport_memWf]

theorem execCycle_nextMemWf {s : State} (h : s.memWf) (ticks : Nat) : NextMemWf (execCycle ticks s) := by
  grind [→ State.memWf.parts, ← State.memWf.of_parts, NextMemWf, execCycle]

theorem execHostUnreachableTimeout_nextMemWf {s : State} (h : s.memWf) : NextMemWf (execHostUnreachableTimeout s) := by
  grind [NextMemWf, execHostUnreachableTimeout, foldl_memWf, State.completeOp_memWf, State.orSnoop_memWf]

/-! ## Every instruction -/

theorem exec_nextMemWf {s : State} (h : s.memWf) (i : Instr) : NextMemWf (exec i s) := by
  cases i with
  | iadd | isub | imul | imulhs | imulhz | imad | imins | imaxs | iminz | imaxz | iabs | andL | orL | xorL | andn | shl | shr | sar | rol
    | bfxz | bfxs | bfi | popc | clz | brev | sel | mov | iaddi | fadd | fsub | fmul | ffma | fmin | fmax | fabs | fneg | frcp | frsq | fsqrt
    | fdiv | fex2 | flg2 | fsin | fcos | frnd | fcpys | hadd2 | hmul2 | hfma2 | hmin2 | hmax2 | badd2 | bmul2 | bfma2 | bmin2 | bmax2 | cvt
    | cvtFswap | pack | prm | movi | sread | tkrd => exact LaneOp.exec_nextMemWf h _
  | shli | shri | sari => exact amountOr_nextMemWf h _ _
  | icmps | icmpz | fcmp | itst => exact execCompare_nextMemWf h _ _ _ _ _
  | pdup | pdrop | pnot | pand | por | pxor | pswap | pset0 | pset1 => exact execPstk_nextMemWf h _ _
  | xchgIdx | xchgUp | xchgDown | xchgBfly => exact execXchg_nextMemWf h _ _ _ _ _
  | voteAll => exact execVoteAll_nextMemWf h _ _ _
  | voteAny => exact execVoteAny_nextMemWf h _ _ _
  | voteBal => exact execVoteBal_nextMemWf h _ _ _
  | voteEq => exact execVoteEq_nextMemWf h _ _ _
  | rfl => exact execRfl_nextMemWf h _ _
  | xdef | xset | xadd =>
    simp only [exec, execXdef, execXset, execXadd]
    exact execIndex_nextMemWf h _ _ _ _ _ _
  | uadd | usub | umul | umad | uand | uor | uxor | ushl | ushr | usar | umov | uaddi | usel | uld =>
    simp only [exec, execUadd, execUsub, execUmul, execUmad, execUand, execUor, execUxor, execUshl, execUshr, execUsar, execUmov, execUaddi,
        execUsel, execUld]
    exact execUni_nextMemWf h _ _ _ _ _
  | ucmps | ucmpz => exact execUcmp_nextMemWf h _ _ _ _
  | bra => exact execControl_nextMemWf h _ fun _ _ _ ht => State.transfer_memWf ht _ _ _ _
  | brx =>
    simp only [exec, execBrx]
    exact execPair_nextMemWf h _ _ fun _ _ _ _ _ ht => State.transfer_memWf ht _ _ _ _
  | call => exact execControl_nextMemWf h _ fun _ _ _ ht => State.callFibre_memWf ht _ _ _ _ _
  | callx =>
    simp only [exec, execCallx]
    exact execPair_nextMemWf h _ _ fun _ _ _ _ _ ht => State.callFibre_memWf ht _ _ _ _ _
  | ret => exact execRet_nextMemWf h _
  | exit => exact execControl_nextMemWf h _ fun _ _ _ ht => State.exitFibre_memWf ht _ _ _
  | split => exact execSplit_nextMemWf h _ _
  | join => exact execJoin_nextMemWf h _ _
  | wait => exact execWait_nextMemWf h _ _ _
  | waitmem => exact execWaitmem_nextMemWf h _ _ _ _
  | bari => exact execBari_nextMemWf h _ _ _
  | bara | barw => exact execControl_nextMemWf h _ fun _ _ _ ht => barFibre_memWf ht _ _ _ _
  | barrd => exact execBarrd_nextMemWf h _ _ _
  | qput => exact execQput_nextMemWf h _ _ _
  | nop => exact execNop_nextMemWf h
  | ldg | stg | ldx | stx | ldf | stf | ldc | atom | atomn | allowInit | allowTake | allowGive | allowExact | allowProbe | cachePref
    | cacheClean | cacheDiscard | cacheIcinv => exact memExec_nextMemWf h _
  | fence | ifence => exact fenceExec_nextMemWf h _ _ _ _
  | xload | xstore | xmove | xfill | xpub =>
    simp only [exec, execXload, execXstore, execXmove, execXfill, execXpub]
    exact copyWord_nextMemWf h _ _ _ _ _
  | xgather => exact execXgather_nextMemWf h _
  | mclaim | mrel | mldw | mswap | mstream | mzero | mstore => exact matWord_nextMemWf h _ _ _
  | mstat => exact execMstat_nextMemWf h _ _
  | bxsend => exact execBxsend_nextMemWf h _
  | bxrecv => exact execBxrecv_nextMemWf h _
  | bxcancel => exact execBxcancel_nextMemWf h _
  | bxstat => exact execBxstat_nextMemWf h _
  | hinst => exact execHinst_nextMemWf h _
  | hpop => exact execHpop_nextMemWf h _
  | perform => exact execPerform_nextMemWf h _
  | resume => exact execResume_nextMemWf h _
  | drop | kstat | kpack | kunpack => exact frameWord_nextMemWf h _ _ _ _ _ fun _ _ _ _ ht => frameLane_memWf ht _ _ _ _ _ _ _ _
  | spawn => exact execSpawn_nextMemWf h _
  | segw => exact execSegw_nextMemWf h _ _
  | segr => exact execSegr_nextMemWf h _ _
  | csrr => exact execCsrr_nextMemWf h _ _
  | csrw => exact execCsrw_nextMemWf h _ _
  | eret => exact execEret_nextMemWf h _
  | trap => exact execTrap_nextMemWf h _
  | intr => exact execIntr_nextMemWf h _
  | halt => exact execHalt_nextMemWf h
  | hintImm | hintImmx | hintMod | hintSched | hintDly =>
    simp only [exec, execHintImm, execHintImmx, execHintMod, execHintSched, execHintDly]
    exact hintWord_nextMemWf h _ _
  | completion => exact execCompletion_nextMemWf h _
  | transientFault => exact execTransientFault_nextMemWf h _
  | uncorrectableError => exact execUncorrectableError_nextMemWf h _
  | mergeAtHome => exact execMergeAtHome_nextMemWf h _ _
  | atomicAtHome => exact execAtomicAtHome_nextMemWf h _
  | drainRequest => exact execDrainRequest_nextMemWf h _
  | cleanByteExpiry => exact execCleanByteExpiry_nextMemWf h _
  | leaseExpiry => exact execLeaseExpiry_nextMemWf h
  | walkDone => exact execWalkDone_nextMemWf h _
  | pageRequestResponse => exact execPageRequestResponse_nextMemWf h _ _
  | pageRequestTimeout => exact execPageRequestTimeout_nextMemWf h _
  | xlFlush => exact execXlFlush_nextMemWf h _ _
  | flushDone => exact execFlushDone_nextMemWf h
  | powerGate => exact execPowerGate_nextMemWf h _
  | unitWake => exact execUnitWake_nextMemWf h _
  | allowHomeRequest => exact execAllowHomeRequest_nextMemWf h _
  | slotReturn => exact execSlotReturn_nextMemWf h _ _
  | joinNotice => exact execJoinNotice_nextMemWf h _
  | hostSnoop => exact execHostSnoop_nextMemWf h _
  | ownershipResponse => exact execOwnershipResponse_nextMemWf h _ _
  | backInvalidateDone => exact execBackInvalidateDone_nextMemWf h _
  | hostWrite => exact execHostWrite_nextMemWf h _ _ _ _
  | schedulingRound => exact execSchedulingRound_nextMemWf h _
  | copyStart => exact execCopyStart_nextMemWf h _
  | claimGrant => exact execClaimGrant_nextMemWf h _
  | matrixOpStart => exact execMatrixOpStart_nextMemWf h _ _
  | bulkRequest => exact execBulkRequest_nextMemWf h _ _ _ _ _
  | requestRetry => exact execRequestRetry_nextMemWf h _
  | grantIssue => exact execGrantIssue_nextMemWf h _
  | grantArrival => exact execGrantArrival_nextMemWf h _ _
  | bulkData => exact execBulkData_nextMemWf h _ _ _ _
  | grantExpiry => exact execGrantExpiry_nextMemWf h _ _
  | pause => exact execPause_nextMemWf h _
  | bulkResume => exact execBulkResume_nextMemWf h _ _
  | doneNotice => exact execDoneNotice_nextMemWf h _
  | truncatedNotice => exact execTruncatedNotice_nextMemWf h _
  | orphanedNotice => exact execOrphanedNotice_nextMemWf h _
  | cancelledNotice => exact execCancelledNotice_nextMemWf h _ _
  | peerFaultNotice => exact execPeerFaultNotice_nextMemWf h _ _
  | sourcePathLoss => exact execSourcePathLoss_nextMemWf h _
  | sendUnreachable => exact execSendUnreachable_nextMemWf h _
  | linkFrame => exact execLinkFrame_nextMemWf h _ _ _ _
  | ackTimeout => exact execAckTimeout_nextMemWf h _
  | linkUpRetry => exact execLinkUpRetry_nextMemWf h _
  | linkUp => exact execLinkUp_nextMemWf h _ _ _ _ _
  | notify => exact execNotify_nextMemWf h _ _ _
  | slotRead => exact execSlotRead_nextMemWf h _
  | packetStart => exact execPacketStart_nextMemWf h _ _
  | nopPacket => exact execNopPacket_nextMemWf h _ _
  | launch => exact execLaunch_nextMemWf h _ _
  | graph => exact execGraph_nextMemWf h _ _
  | barrierPacket => exact execBarrierPacket_nextMemWf h _ _
  | signalPacket => exact execSignalPacket_nextMemWf h _ _
  | packetComplete => exact execPacketComplete_nextMemWf h _ _
  | tickProposal => exact execTickProposal_nextMemWf h _ _
  | startTick => exact execStartTick_nextMemWf h _
  | chipsetTimeout => exact execChipsetTimeout_nextMemWf h _
  | crewPlacement => exact execCrewPlacement_nextMemWf h _ _ _ _ _
  | kernelNode => exact execKernelNode_nextMemWf h _ _
  | condNode => exact execCondNode_nextMemWf h _ _
  | signalNode => exact execSignalNode_nextMemWf h _ _
  | xferNode => exact execXferNode_nextMemWf h _ _
  | noteNode => exact execNoteNode_nextMemWf h _ _
  | nodeComplete => exact execNodeComplete_nextMemWf h _ _
  | preemptDecision => exact execPreemptDecision_nextMemWf h _
  | drainTimeout => exact execDrainTimeout_nextMemWf h _
  | saveComplete => exact execSaveComplete_nextMemWf h _
  | restore => exact execRestore_nextMemWf h _ _ _ _
  | occRead => exact execOccRead_nextMemWf h _ _ _
  | vectorTimer => exact execVectorTimer_nextMemWf h _
  | vectorUnmask => exact execVectorUnmask_nextMemWf h _
  | heartbeat => exact execHeartbeat_nextMemWf h _
  | heartbeatTimeout => exact execHeartbeatTimeout_nextMemWf h _
  | headLinkDown => exact execHeadLinkDown_nextMemWf h _
  | ceAdopt => exact execCeAdopt_nextMemWf h _ _
  | version => exact execVersion_nextMemWf h _
  | queueCreate => exact execQueueCreate_nextMemWf h _
  | queueDisable => exact execQueueDisable_nextMemWf h _
  | pasidRegister => exact execPasidRegister_nextMemWf h _
  | codeLoad => exact execCodeLoad_nextMemWf h _
  | imageStage => exact execImageStage_nextMemWf h _ _
  | evring => exact execEvring_nextMemWf h _
  | tdiDefine => exact execTdiDefine_nextMemWf h _
  | dbgHalt => exact execDbgHalt_nextMemWf h _
  | dbgRead => exact execDbgRead_nextMemWf h _
  | dbgResume => exact execDbgResume_nextMemWf h _
  | registerWrite => exact execRegisterWrite_nextMemWf h _ _ _
  | reportAnswerTimeout => exact execReportAnswerTimeout_nextMemWf h _
  | spdmRequest => exact execSpdmRequest_nextMemWf h _ _
  | tdiStop => exact execTdiStop_nextMemWf h _ _
  | sessionExpiry => exact execSessionExpiry_nextMemWf h _ _
  | ideIntegrityFailure => exact execIdeIntegrityFailure_nextMemWf h _ _
  | reset => exact execReset_nextMemWf h
  | bringupStageDone => exact execBringupStageDone_nextMemWf h _
  | powerLimit => exact execPowerLimit_nextMemWf h _
  | thermalThrottle => exact execThermalThrottle_nextMemWf h
  | thermalTrip => exact execThermalTrip_nextMemWf h
  | patrolScrub => exact execPatrolScrub_nextMemWf h _
  | serviceCoreFailure => exact execServiceCoreFailure_nextMemWf h _
  | cycle => exact execCycle_nextMemWf h _
  | tdispRequest => exact execTdispRequest_nextMemWf h _ _ _
  | hostUnreachableTimeout => exact execHostUnreachableTimeout_nextMemWf h
  | gangTermination => exact execGangTermination_nextMemWf h _ _ _

/-! ## Internal events -/

theorem opMoves_nextMemWf {s : State} (h : s.memWf) (x : Nat × Op) : ∀ m ∈ opMoves x, NextMemWf (m s) := by
  unfold opMoves
  split <;> simp [execCompletion_nextMemWf h, execAtomicAtHome_nextMemWf h, execAllowHomeRequest_nextMemWf h, execJoinNotice_nextMemWf h]

theorem State.engineMoves_nextMemWf {s : State} (h : s.memWf) : ∀ m ∈ s.engineMoves, NextMemWf (m s) := by
  simp only [State.engineMoves, List.forall_mem_append, List.forall_mem_map, List.mem_flatMap, forall_exists_index, and_imp]
  refine ⟨⟨⟨⟨⟨⟨fun c _ => execCopyStart_nextMemWf h _, fun m c _ hm => ?_⟩, fun x _ => execRequestRetry_nextMemWf h _⟩,
    fun x _ => execSendUnreachable_nextMemWf h _⟩, fun m _ => execSourcePathLoss_nextMemWf h _⟩, fun p _ => execGrantIssue_nextMemWf h _⟩,
    fun m x _ hm => ?_⟩
  · have hc := execClaimGrant_nextMemWf h c
    have hx := execMatrixOpStart_nextMemWf h c
    simp only [List.mem_cons, List.not_mem_nil, or_false] at hm
    rcases hm with rfl | rfl | rfl | rfl
    exacts [hc, hx _, hx _, hx _]
  · obtain ⟨g, -, rfl⟩ := List.mem_map.mp hm
    exact execGrantExpiry_nextMemWf h _ _

theorem packetMoves_nextMemWf {s : State} (h : s.memWf) (q : Nat) (p : Nat × Packet) : ∀ m ∈ packetMoves q p, NextMemWf (m s) := by
  unfold packetMoves
  split <;> simp [execPacketStart_nextMemWf h, execNopPacket_nextMemWf h, execLaunch_nextMemWf h, execGraph_nextMemWf h,
      execBarrierPacket_nextMemWf h,
    execSignalPacket_nextMemWf h, execPacketComplete_nextMemWf h]

theorem State.gangMoves_nextMemWf {s : State} (h : s.memWf) (g : Nat × Gang) : ∀ m ∈ s.gangMoves g, NextMemWf (m s) := by
  simp only [State.gangMoves, List.forall_mem_append]
  refine ⟨?_, by simp [execStartTick_nextMemWf h, execChipsetTimeout_nextMemWf h]⟩
  repeat' split
  all_goals simp [execCrewPlacement_nextMemWf h]

theorem State.graphMoves_nextMemWf {s : State} (h : s.memWf) : ∀ m ∈ s.graphMoves, NextMemWf (m s) := by
  simp only [State.graphMoves, List.forall_mem_append]
  refine ⟨?_, fun m hm => ?_⟩
  · split <;> simp [execKernelNode_nextMemWf h, execCondNode_nextMemWf h, execSignalNode_nextMemWf h, execXferNode_nextMemWf h,
      execNoteNode_nextMemWf h]
  · obtain ⟨g, -, hm⟩ := List.mem_flatMap.mp hm
    simp only [List.mem_append, List.mem_map, List.mem_flatMap, List.mem_cons, List.not_mem_nil, or_false] at hm
    rcases hm with (⟨n, -, rfl⟩ | ⟨n, -, rfl | rfl⟩) | ⟨d, -, rfl⟩
    exacts [execCondNode_nextMemWf h _ _, execNodeComplete_nextMemWf h _ _, execXferNode_nextMemWf h _ _, execNodeComplete_nextMemWf h _ _]

theorem State.lifeMoves_nextMemWf {s : State} (h : s.memWf) (c : Nat × Crew) : ∀ m ∈ s.lifeMoves c, NextMemWf (m s) := by
  unfold State.lifeMoves
  repeat' split
  all_goals simp [execSaveComplete_nextMemWf h, execRestore_nextMemWf h, execDrainTimeout_nextMemWf h, execPreemptDecision_nextMemWf h]

theorem State.timeMoves_nextMemWf {s : State} (h : s.memWf) : ∀ m ∈ s.timeMoves, NextMemWf (m s) := by
  simp only [State.timeMoves, List.forall_mem_append, List.forall_mem_map]
  refine ⟨⟨⟨⟨⟨⟨?_, ?_⟩, fun p _ => execPageRequestTimeout_nextMemWf h _⟩, fun v _ => execVectorTimer_nextMemWf h _⟩,
    fun n _ => execReportAnswerTimeout_nextMemWf h _⟩, by simp [execHeartbeatTimeout_nextMemWf h, execHostUnreachableTimeout_nextMemWf h]⟩, ?_⟩
  · split <;> simp [execBringupStageDone_nextMemWf h]
  · split <;> simp [execFlushDone_nextMemWf h]
  · split <;> simp [execSchedulingRound_nextMemWf h]

/-- No internal event leaves the memories out of their canonical form. -/
theorem State.moves_nextMemWf {s : State} (h : s.memWf) : ∀ m ∈ s.moves, NextMemWf (m s) := by
  simp only [State.moves, List.forall_mem_append, State.wakeMoves, List.forall_mem_map]
  refine ⟨⟨⟨⟨⟨⟨⟨s.timeMoves_nextMemWf h, fun u _ => execUnitWake_nextMemWf h u⟩, ?_⟩, s.engineMoves_nextMemWf h⟩, ?_⟩, ?_⟩,
      s.graphMoves_nextMemWf h⟩, ?_⟩
  all_goals
    intro m hm
    obtain ⟨x, -, hm⟩ := List.mem_flatMap.mp hm
  · exact opMoves_nextMemWf h x m hm
  · rcases List.mem_cons.mp hm with rfl | hm
    · exact execSlotRead_nextMemWf h _
    · obtain ⟨p, -, hm⟩ := List.mem_flatMap.mp hm
      exact packetMoves_nextMemWf h _ p m hm
  · exact s.gangMoves_nextMemWf h x m hm
  · exact s.lifeMoves_nextMemWf h x m hm

theorem Move.try_memWf {s t : State} (h : s.memWf) {m : Move} (hm : NextMemWf (m s)) (ht : m.try s = some t) : t.memWf := by
  unfold Move.try at ht
  split at ht
  · next u hu =>
    dsimp only at ht
    split at ht
    · cases ht
    · exact Option.some.inj ht ▸ State.orSnoop_memWf h (hm u hu)
  all_goals cases ht

theorem State.idle_memWf {s : State} (h : s.memWf) : s.idle.memWf := by
  unfold State.idle
  split
  · next t ht => exact State.deliverOwn_memWf h t ht
  · split
    · next t ht =>
      obtain ⟨m, hm, hmt⟩ := List.exists_of_findSome?_eq_some ht
      exact Move.try_memWf h (s.moves_nextMemWf h m hm) hmt
    · split
      · next t ht => exact execCycle_nextMemWf h 1 t ht
      all_goals exact h

/-! ## A step -/

theorem State.commit_memWf {s t u : State} (h : s.memWf) (ht : t.memWf) (hu : u.memWf) (core : Option Nat) : (s.commit core t u).memWf := by
  unfold State.commit
  split
  · exact State.orSnoop_memWf ht hu
  · exact hu
  · exact State.holdBack_memWf h _ _

/-- The state in which a step executes what it has chosen. -/
theorem State.choose_memWf {s : State} (h : s.memWf) : s.choose.2.1.memWf := by
  unfold State.choose
  split
  · split <;> exact h
  · split
    · exact State.again_memWf h _ _ _
    · split
      · exact State.issue_memWf h _ _
      · exact State.idle_memWf h

theorem step_nextMemWf {s : State} (h : s.memWf) : NextMemWf (step s) := by
  have ht := s.choose_memWf h
  unfold step
  split
  · next core t i hc =>
    rw [hc] at ht
    split
    · next u hu => exact nextMemWf_next (State.settleStep_memWf (State.commit_memWf h ht (exec_nextMemWf ht i u hu) core))
    all_goals exact fun _ hn => nomatch hn
  · next core t hc =>
    rw [hc] at ht
    exact nextMemWf_next (State.settleStep_memWf (State.commit_memWf h ht ht core))

end Sys2Proof.Machine

end

section
/-! PROOF. Every step keeps the three memories in canonical form (O8). -/

-- Theorems one after another, not at once: this bounds the memory that a compile of the whole text takes.
set_option Elab.async false

namespace Sys2Proof.Proofs

open Sys2Proof.Machine

/-- Settles O8: the event of the step and the settled internal steps each keep the form, function by function of the model. -/
theorem stepKeepsMemWf : Obligations.StepKeepsMemWf := by
  unfold Obligations.StepKeepsMemWf
  exact fun _ t h ht => step_nextMemWf h t ht

end Sys2Proof.Proofs
end

section
/-! PROOF. What the frame engine's own work leaves of crews (R315 to R320, R333 to R339): segments read, written, taken and freed, and
continuations found. -/

-- Theorems one after another, not at once: this bounds the memory that a compile of the whole text takes.
set_option Elab.async false

namespace Sys2Proof.Machine

/-- From a crew to its later state only logs, the lists of its segments, and the owners of its claims' buffers have changed. -/
structure Listed (c d : Crew) : Prop where
  eq : d = { c with bars := d.bars, raceLog := d.raceLog, raceLost := d.raceLost, lost := d.lost, used := d.used, records := d.records
                    emergency := d.emergency, claims := d.claims }

theorem Listed.refl (c : Crew) : Listed c c := ⟨rfl⟩

theorem Listed.trans {c d e : Crew} (h : Listed c d) (g : Listed d e) : Listed c e := ⟨by rw [g.eq, h.eq]⟩

theorem Logged.lists {c d : Crew} (h : Logged c d) : Listed c d := ⟨by rw [h.eq]⟩

/-- Work of the frame engine that leaves crews as they are but for logs and the lists of their segments. -/
abbrev ListsWork : State → State → Prop := CrewWork Listed

theorem LogWork.lists {s t : State} (h : LogWork s t) : ListsWork s t := h.mono fun _ _ => Logged.lists

theorem ListsWork.refl (s : State) : ListsWork s s := (LogWork.refl s).lists

theorem ListsWork.trans {s t u : State} (h : ListsWork s t) (g : ListsWork t u) : ListsWork s u :=
  CrewWork.trans_of (fun _ _ _ => Listed.trans) h g

theorem frThen_lists {α β : Type} {s : State} {r : FrRes α} {f : State → α → FrRes β} (hr : ListsWork s r.1)
    (hf : ∀ t x, ListsWork t (f t x).1) : ListsWork s (frThen r f).1 := frThen_work (R := Listed) (fun _ _ _ => Listed.trans) hr hf

theorem frThen_log {α β : Type} {s : State} {r : FrRes α} {f : State → α → FrRes β} (hr : LogWork s r.1)
    (hf : ∀ t x, LogWork t (f t x).1) : LogWork s (frThen r f).1 := frThen_work (R := Logged) (fun _ _ _ => Logged.trans) hr hf

/-! ## Reads and writes of frames -/

theorem State.saddleFill_log (s : State) (core crew va pa : Nat) : LogWork s (s.saddleFill core crew va pa).1 := by
  unfold State.saddleFill
  dsimp only
  split
  · exact .of_crews rfl rfl rfl rfl rfl
  · refine frThen_log ?_ fun t _ => .of_crews rfl rfl rfl rfl rfl
    split
    · split
      · exact s.writeBack_log core _
      · exact .refl s
    · exact .refl s

theorem State.frameWrite_log (s : State) (crew va : Nat) (bs : List Byte) : LogWork s (s.frameWrite crew va bs).1 :=
  frThen_log (s.frameXl_work crew va .store).log fun t pa =>
    frThen_log (t.saddleFill_log (t.crew crew).core crew va pa) fun _ _ => .of_crews rfl rfl rfl rfl rfl

theorem State.frameRead_log (s : State) (crew va n : Nat) : LogWork s (s.frameRead crew va n).1 := by
  refine frThen_log (s.frameXl_work crew va .load).log fun t pa => ?_
  split
  · exact .refl t
  · exact frThen_log (t.saddleFill_log _ _ _ _) fun u _ => .refl u

theorem State.segHead_log (s : State) (crew va : Nat) : LogWork s (s.segHead crew va).1 :=
  frThen_log (s.frameRead_log crew va 57) fun t _ => .refl t

theorem State.searchDown_log (crew : Nat) (test : SegHead → Bool) (n : Nat) : ∀ (s : State) (va : Nat) (above : List SegHead),
    LogWork s (s.searchDown crew test n va above).1 := by
  induction n with
  | zero => exact fun s _ _ => .refl s
  | succ n ih =>
    intro s va above
    have read := s.segHead_log crew va
    unfold State.searchDown
    split
    · next h => rwa [h] at read
    · next h =>
      rw [h] at read
      split
      · exact read
      · split
        · exact read
        · exact read.trans (ih _ _ _)

/-! ## Segments taken, freed, and current -/

theorem State.allocSeg_lists (s : State) (crew : Nat) (rec : Bool) : ListsWork s (s.allocSeg crew rec).1 := by
  have bumped : LogWork s s.bump := .of_crews rfl rfl rfl rfl rfl
  unfold State.allocSeg
  dsimp only
  split
  · exact bumped.lists.trans (State.modCrew_work Listed.refl _ _ fun _ => ⟨rfl⟩)
  · split
    · exact LogWork.lists (.of_crews rfl rfl rfl rfl rfl)
    · exact .refl s

theorem State.unuseSeg_lists (s : State) (gang va : Nat) : ListsWork s (s.unuseSeg gang va) := by
  unfold State.unuseSeg
  split
  · exact State.modCrew_work Listed.refl _ _ fun _ => ⟨rfl⟩
  · exact LogWork.lists (.of_crews rfl rfl rfl rfl rfl)

theorem State.freeSeg_lists (s : State) (crew va : Nat) : ListsWork s (s.freeSeg crew va).1 := by
  refine frThen_lists (s.frameXl_work crew va .store).log.lists fun t pa => frThen_lists ?_ fun u _ => ?_
  · exact (frThen_log (t.saddleFill_log _ _ _ _) fun _ _ => .of_crews rfl rfl rfl rfl rfl).lists
  · exact (u.mergeSeg_work _ _ _).log.lists.trans (State.unuseSeg_lists _ _ _)

theorem ListsWork.foldl {β : Type} {f : State → β → State} (hf : ∀ s x, ListsWork s (f s x)) (l : List β) (s : State) :
    ListsWork s (l.foldl f s) := by
  induction l generalizing s with
  | nil => exact .refl s
  | cons x l ih => exact (hf s x).trans (ih (f s x))

theorem State.freeRecord_lists (s : State) (gang va : Nat) (reps : List Nat) : ListsWork s (s.freeRecord gang va reps) :=
  ListsWork.foldl (fun t a => t.unuseSeg_lists gang a) _ s

/-! ## Continuations -/

theorem State.findCont_log (s : State) (crew handle : Nat) : LogWork s (s.findCont crew handle).1 := by
  unfold State.findCont
  dsimp only
  split
  · exact .refl s
  · refine frThen_log (s.frameXl_work _ _ _).log fun t pa => ?_
    repeat' split
    all_goals exact .refl t

theorem State.contSegs_log (crew n : Nat) : ∀ (s : State) (va : Nat), LogWork s (s.contSegs crew n va).1 := by
  induction n with
  | zero => exact fun s _ => .refl s
  | succ n ih =>
    intro s va
    exact frThen_log (s.segHead_log crew va) fun t h => frThen_log (ih t h.link) fun u _ => .refl u

theorem State.chainEntries_log (crew k : Nat) : ∀ (s : State) (n va : Nat), LogWork s (s.chainEntries crew k n va).1 := by
  induction k with
  | zero => exact fun s _ _ => .refl s
  | succ k ih =>
    intro s n va
    unfold State.chainEntries
    split
    · exact .refl s
    · exact frThen_log (s.frameXl_work crew va .load).log fun t _ => frThen_log (ih t _ _) fun u _ => .refl u

theorem State.contEntries_log (s : State) (crew va pa : Nat) (h : ContHead) : LogWork s (s.contEntries crew va pa h).1 := by
  unfold State.contEntries
  split
  · exact .refl s
  · split
    · exact .refl s
    · exact State.chainEntries_log _ _ _ _ _

theorem State.clearActive_log (s : State) (crew seg : Nat) : LogWork s (s.clearActive crew seg).1 := by
  refine frThen_log (State.searchDown_log _ _ _ _ _ _) fun t r => ?_
  cases r with
  | none => exact .refl t
  | some r => exact t.frameWrite_log _ _ _

theorem State.relink_log (crew fid : Nat) (l : List SegHead) : ∀ (s : State) (link : Nat) (mask : Word64),
    LogWork s (s.relink crew fid link mask l).1 := by
  induction l with
  | nil => exact fun s _ _ => .refl s
  | cons h l ih =>
    intro s link mask
    refine frThen_log (s.frameWrite_log _ _ _) fun t _ => frThen_log ?_ fun u _ => ?_
    · split
      · exact .refl t
      · exact t.frameWrite_log _ _ _
    · split
      · exact frThen_log (u.frameWrite_log _ _ _) fun v _ => ih v _ _
      · exact ih u _ _

theorem State.adoptTracked_lists (s : State) (pa crew fid : Nat) : ListsWork s (s.adoptTracked pa crew fid) :=
  ⟨rfl, rfl, rfl, rfl, fun k c hc => ⟨_, by rw [State.adoptTracked, kget_kmap, hc]; rfl, ⟨rfl⟩⟩⟩

/-! ## Acquires -/

theorem State.acquire_log (s : State) (core : Nat) (sc : Scope) (l : List RelEntry) : LogWork s (s.acquire core sc l).1 := by
  have invalidated : ∀ (t : State) (a : Nat), LogWork t (t.invalidate a) := fun t a => (t.modAgent_work a _).log
  unfold State.acquire
  split
  · exact .refl s
  · exact invalidated s _
  · exact invalidated s _
  all_goals exact .trans (State.tryAll_related (R := LogWork) .trans .refl (fun t a => t.drain_log a) s _) (invalidated _ _)

theorem State.synchronise_log (s : State) (core : Nat) (sc : Scope) (chips : List Nat) (tags : List RelTag) :
    LogWork s (s.synchronise core sc chips tags) := HomeWork.log ⟨by rw [(s.synchronise_closed core sc chips tags).eq]⟩

end Sys2Proof.Machine
end

section
/-! PROOF. Words that the spec prints, the state after reset, and the event that a step executes (R33, R66 to R80). -/

-- Theorems one after another, not at once: this bounds the memory that a compile of the whole text takes.
set_option Elab.async false

namespace Sys2Proof.Machine

open Sys2Proof.Terms

/-- A step whose agenda begins with an event executes it. -/
theorem step_event {s : State} {i : Instr} {rest : List Instr} (ha : s.agenda = i :: rest) (hi : isEvent i = true) :
    step s = afterEvent { s with agenda := rest } (exec i { s with agenda := rest }) := by
  have chosen : s.choose = (none, { s with agenda := rest }, some i) := by simp only [State.choose, ha, hi, if_true]
  rw [step, chosen]
  dsimp only
  cases exec i { s with agenda := rest } <;> rfl

end Sys2Proof.Machine

namespace Sys2Proof.Proofs

open Sys2Proof.Machine Sys2Proof.Terms

/-- Settles O3: each word is decoded. -/
theorem printedWords : Obligations.PrintedWords := by
  unfold Obligations.PrintedWords
  iterate 34 refine ⟨by rfl, ?_⟩
  rfl

/-- Settles O7: the three memories are empty after reset. -/
theorem resetMemWf : Obligations.ResetMemWf := by
  unfold Obligations.ResetMemWf
  exact ⟨rfl, rfl, rfl⟩

/-- Settles O5: a step whose agenda begins with an event executes it, and sends the snoops and requests of what it changes. -/
theorem stepRunsEvent : Obligations.StepRunsEvent := by
  unfold Obligations.StepRunsEvent
  exact fun _ _ _ ha hi => step_event ha hi

end Sys2Proof.Proofs
end

section
/-! PROOF. The words of system level, and ERET, TRAP, INTR and HALT (R396, R397, R410): a word of system level stops at user level, and what
the fence and the end of a SYS word leave. -/

-- Theorems one after another, not at once: this bounds the memory that a compile of the whole text takes.
set_option Elab.async false

namespace Sys2Proof.Machine

open Sys2Proof.Terms

/-- A SYS word of system level at user level (R396). -/
theorem sysWord_user {α : Type} {s : State} {i : Issue} {c : Crew} (hI : Issues s i c) (hsys : c.system = false) (regs : List Nat)
    (plan : Env → Except LaneErr α) (act : α → Issue → Env → List (Nat × Eff) → State → State) :
    sysWord false regs plan act s = .next ((taken s).endWord i i.grp.latches false
      (i.grp.fids.map fun f => (f, { label := 0, cause := 0x18, payload := 0x18, rpc := i.pc + 4 }))) := by
  have level : (envOf i (taken s)).crew.system = false := by rw [← hsys, ← envAt_crew hI, envAt]
  obtain ⟨hcur, -⟩ := hI
  rw [sysWord, withIssue_next hcur]
  simp only [level, Bool.not_false, Bool.and_self, if_true]
  rfl

/-- A SYS word that either level may execute, whose operands are good, and whose fibres can all count: its effect after the fence. -/
theorem sysWord_any_next {α : Type} {regs : List Nat} {plan : Env → Except LaneErr α}
    {act : α → Issue → Env → List (Nat × Eff) → State → State} {s : State} {i : Issue} {c : Crew} {a : α} (hI : Issues s i c)
    (hcount : CanCount c 0 i.grp.fids) (hsplit : (envAt s i).splitRead regs = false) (hplan : plan (envAt s i) = .ok a) :
    sysWord true regs plan act s = .next (act a i (envAt s i) [] ((taken s).sysFence i i.grp.fids)) := by
  have hcrew := envAt_crew hI
  obtain ⟨hcur, -⟩ := hI
  obtain ⟨hne, hfree⟩ := hcount
  have full : (i.grp.fids.filter fun fid => decide (63 ≤ (((envAt s i).crew.fibre fid).tok 0).count)) = [] :=
    List.filter_eq_nil_iff.mpr fun f hf => by simpa [hcrew] using hfree f hf
  have env : envOf i (taken s) = envAt s i := rfl
  rw [sysWord, withIssue_next hcur]
  simp only [env, hsplit, hplan, full]
  simp [hne]

/-! ## A fence leaves the V registers -/

/-- A crew has the fibres of another with their V registers. -/
def SameV (c d : Crew) : Prop := ∀ f, (kget d.fibres f).map Fibre.v = (kget c.fibres f).map Fibre.v

theorem SameV.refl (c : Crew) : SameV c c := fun _ => rfl

theorem Logged.sameV {c d : Crew} (h : Logged c d) : SameV c d := fun f => by rw [h.eq]

theorem Crew.modFibre_sameV (c : Crew) (fid : Nat) {k : Fibre → Fibre} (hk : ∀ f, (k f).v = f.v) : SameV c (c.modFibre fid k) := by
  intro f
  rw [Crew.modFibre, kget_kmod]
  split
  · next h => subst h; rw [Option.map_map]; exact congrArg (Option.map · _) (funext hk)
  · rfl

/-- From s to t every crew keeps its fibres' V registers. -/
abbrev SameVWork : State → State → Prop := CrewWork SameV

namespace SameVWork

variable {s t u : State}

theorem trans (h : SameVWork s t) (g : SameVWork t u) : SameVWork s u :=
  CrewWork.trans_of (fun _ _ _ h g f => (g f).trans (h f)) h g

theorem of_log (h : LogWork s t) : SameVWork s t := h.mono fun _ _ => Logged.sameV

theorem refl (s : State) : SameVWork s s := of_log (.refl s)

theorem modFibre (s : State) (crew fid : Nat) {k : Fibre → Fibre} (hk : ∀ f, (k f).v = f.v) : SameVWork s (s.modFibre crew fid k) :=
  State.modCrew_work SameV.refl s crew fun c => c.modFibre_sameV fid hk

theorem fibreAcquire (s : State) (core crew fid : Nat) (sc : Scope) (tags : List RelTag) :
    SameVWork s (s.fibreAcquire core crew fid sc tags).1 := by
  unfold State.fibreAcquire
  dsimp only
  split
  · exact of_log (s.synchronise_log _ _ _ _)
  all_goals
    refine Tried.andThen_related (R := SameVWork) trans (of_log (s.acquire_log _ _ _)) fun t => ?_
    refine (of_log (t.synchronise_log _ _ _ _)).trans (SameVWork.modFibre _ _ _ ?_)
    exact fun _ => rfl

theorem fenceAt (s : State) (core crew fid : Nat) (o : Order) (sc : Scope) : SameVWork s (s.fenceAt core crew fid o sc).1 := by
  have state : ∀ r : Tried, (r.done []).1 = r.1 := fun r => by obtain ⟨t, _ | c⟩ := r <;> rfl
  unfold State.fenceAt
  rw [state]
  refine Tried.andThen_related (R := SameVWork) trans ?_ fun t => ?_
  · split
    · exact of_log (s.drain_log _)
    · exact refl s
  · have acquired : ∀ u : State, SameVWork t u → SameVWork t (if o = .acq ∨ o = .ar then
        u.fibreAcquire core crew fid (s.effScope core sc) ((u.crew crew).fibre fid).read else (u, none)).1 := by
      intro u hu
      split
      · exact hu.trans (SameVWork.fibreAcquire _ _ _ _ _ _)
      · exact hu
    refine acquired _ ?_
    split
    · have released := of_log (t.release_work core (s.effScope core sc) (s.gangChips crew)).log
      exact released.trans (SameVWork.modFibre _ _ _ fun _ => rfl)
    · exact refl t

end SameVWork

/-- The fence of a SYS word leaves the V registers. -/
theorem State.sysFence_sameV (i : Issue) (fids : List Nat) : ∀ s : State, SameVWork s (s.sysFence i fids) := by
  induction fids with
  | nil => exact .refl
  | cons f l ih => exact fun s => (SameVWork.fenceAt s i.core i.crew f .ar .system).trans (ih _)

/-- The crew of a SYS word once its fence has been made: only logs, barriers and fibres have changed, and no V register. -/
theorem sysFence_crewV {s : State} {i : Issue} {c : Crew} (h : Issues s i c) (fids : List Nat) :
    ∃ d, kget ((taken s).sysFence i fids).crews i.crew = some d ∧ Fenced c d ∧ SameV c d := by
  obtain ⟨d, hd, hfenced⟩ := sysFence_crew h fids
  obtain ⟨-, hcrew, -⟩ := h
  obtain ⟨d', hd', hv⟩ := ((taken s).sysFence_sameV i fids).crews i.crew c hcrew
  rw [hd] at hd'
  exact ⟨d, hd, hfenced, Option.some_inj.mp hd' ▸ hv⟩

/-! ## The end of a control word -/

/-- At the end of a control word of a running crew its group is dissolved, if the fibres were a group's. -/
theorem State.endControl_running {s : State} {i : Issue} {c : Crew} (hc : kget s.crews i.crew = some c) (hlife : c.life = .running) :
    s.endControl i [] = match i.gid with | some g => s.dissolve i.crew g | none => s := by
  have hnil : (i.grp.fids.flatMap fun f => ([] : List (Nat × Eff)).filter fun x => x.1 == f) = [] := by simp
  rw [State.endControl, hnil]
  change s.endSwitch i = _
  unfold State.endSwitch
  cases i.gid with
  | none => exact State.preemptNotice_running (by rw [State.crew_of_kget hc, hlife])
  | some g => exact State.preemptNotice_running (((s.dissolve_keeps i.crew g).life_eq hc).trans hlife)

/-- The crew at the end of a control word: only the places of its fibres, and its groups, have changed. -/
theorem State.endControl_crew {s : State} {i : Issue} {c : Crew} (hc : kget s.crews i.crew = some c) (hlife : c.life = .running) :
    ∃ d, kget (s.endControl i []).crews i.crew = some d ∧ Regrouped c d ∧
      ∀ n, (kget d.fibres n).map Fibre.unplaced = (kget c.fibres n).map Fibre.unplaced := by
  obtain ⟨d, hd, -, hfib⟩ := (State.endControl_keeps (i := i) hc hlife).crew i.crew c hc
  have moved : RegroupStep s (s.endControl i []) := by
    rw [State.endControl_running hc hlife]
    split
    · exact RegroupStep.dissolve _ _ _
    · exact .refl s
  obtain ⟨d', hd', hcd⟩ := moved.crew hc
  rw [hd] at hd'
  exact ⟨d, hd, Option.some_inj.mp hd' ▸ hcd, hfib⟩

/-! ## HALT -/

/-- The crew of a halt that begins (R410). -/
theorem State.haltCrew_life {s : State} {crew : Nat} {c : Crew} (hc : kget s.crews crew = some c) (hlife : c.life = .running)
    (fid pc : Nat) : ((s.haltCrew crew fid pc).crew crew).life = .halting := by
  have alive : (s.crew crew).alive = true := by rw [State.crew_of_kget hc, Crew.alive, hlife]; rfl
  have reported := (s.modCrew crew fun c => { c with life := .halting }).gangReport_log (s.crew crew).gang 0xBC fid pc
  obtain ⟨d, hd, hlog⟩ := reported.crews crew { c with life := .halting } ((kget_kmod_self _ _ _).trans (congrArg _ hc))
  have run : s.haltCrew crew fid pc =
      (s.modCrew crew fun c => { c with life := .halting }).gangReport (s.crew crew).gang 0xBC fid pc := by
    rw [State.haltCrew, alive]
    rfl
  rw [run, State.crew_of_kget hd, hlog.eq]

end Sys2Proof.Machine

namespace Sys2Proof.Proofs

open Sys2Proof.Machine Sys2Proof.Terms

/-- ERET. -/
theorem eret_ok {n : Fin 32} {s : State} {i : Issue} {c : Crew} {p : Word × Word} (hI : Issues s i c) (hlife : c.life = .running)
    (hsys : c.system = true) (hcount : CanCount c 0 i.grp.fids) (hn : n.val ≤ 30)
    (hsplit : (envAt s i).splitRead [n.val, n.val + 1] = false) (hgs : (envAt s i).readGs [n.val, n.val + 1] = .ok [p.1, p.2])
    (halign : pairNat p % 4 = 0) (hcan : Canonical (pairNat p)) :
    ∃ t c', exec (.eret n) s = .next t ∧ kget t.crews i.crew = some c' ∧ c'.system = false ∧ c'.g = c.g ∧
      ∀ f ∈ i.grp.fids, ∃ x, kget c'.fibres f = some x ∧ x.pc = pairNat p ∧ x.v = (c.fibre f).v := by
  have inside : ¬31 < n.val + 2 - 1 := by omega
  have target : targetCause (pairNat p) true = none := targetCause_none halign hcan
  have hexec : exec (.eret n) s = .next (((((taken s).sysFence i i.grp.fids).modCrew i.crew fun x =>
      { x with system := false }).setPcs i.crew i.grp.fids (pairNat p)).endControl i []) := by
    change execEret n s = _
    rw [execEret, sysWord_next (a := pairNat p) hI hsys hcount hsplit]
    rw [sysRegs, if_neg inside, hgs]
    simp only [List.headD_cons, List.getD_cons_succ, List.getD_cons_zero, pairOf_toNat, target]
  obtain ⟨d, hd, hfenced, hv⟩ := sysFence_crewV hI i.grp.fids
  generalize (taken s).sysFence i i.grp.fids = t at hexec hd
  have hu : kget (t.modCrew i.crew fun x => { x with system := false }).crews i.crew = some { d with system := false } :=
    (kget_kmod_self _ _ _).trans (congrArg _ hd)
  obtain ⟨e, hstep, he, hpcs⟩ := State.setPcs_step hu i.grp.fids (pairNat p)
  have hrun : e.life = .running := by rw [he]; exact (congrArg Crew.life hfenced.eq).trans hlife
  obtain ⟨c', hc', hmoved, hplace⟩ := State.endControl_crew (i := i) hstep.2.2 hrun
  refine ⟨_, c', hexec, hc', ?_, ?_, fun f hf => ?_⟩
  · rw [hmoved, he]
  · rw [hmoved, he, hfenced.eq]
  · obtain ⟨-, -, -, hsome⟩ := hI
    obtain ⟨x, hx⟩ := Option.isSome_iff_exists.mp (hsome f hf)
    have hxv := hv f
    rw [hx] at hxv
    obtain ⟨y, hy, hyv⟩ := Option.map_eq_some_iff.mp hxv
    have hz := hplace f
    rw [hpcs, if_pos hf, hy] at hz
    obtain ⟨z, hz, hzy⟩ := Option.map_eq_some_iff.mp hz
    have same := Fibre.eq_of_unplaced hzy
    refine ⟨z, hz, ?_, ?_⟩
    · rw [same]; rfl
    · rw [same, Crew.fibre, kgetD, hx]
      exact hyv

/-- TRAP. -/
theorem trap_ok {a : Sel} {s : State} {i : Issue} {c : Crew} {w : Word} (hI : Issues s i c) (hsys : c.system = true)
    (hcount : CanCount c 0 i.grp.fids) (hsplit : (envAt s i).splitRead (selRegs a 1) = false) (hw : (envAt s i).readU a 0 = .ok w)
    (hmax : w.toNat ≤ 0xBF) :
    ∃ e : Eff, e.cause.toNat = w.toNat ∧ e.label = labelOf e.cause ∧ e.payload = w ∧ e.dst = 0xFF ∧ e.rpc = i.pc + 4 ∧
      exec (.trap a) s = .next (((taken s).sysFence i i.grp.fids).endWord i i.grp.latches false (i.grp.fids.map fun f => (f, e))) := by
  let l := labelOf (w.setWidth 8)
  have cause : (w.setWidth 8).toNat = w.toNat := by rw [BitVec.toNat_setWidth]; omega
  have all : (i.grp.fids.filter fun f => !(([] : List (Nat × Eff)).any fun x => x.1 == f)) = i.grp.fids := by simp
  refine ⟨{ causeEff (w.setWidth 8) (i.pc + 4) with prog := l == 2 || l == 3 || l == 11 }, cause, rfl, ?_, rfl, rfl, ?_⟩
  · refine BitVec.eq_of_toNat_eq ?_
    change ((w.setWidth 8).setWidth 32).toNat = _
    rw [BitVec.toNat_setWidth, cause]
    omega
  · change execTrap a s = _
    rw [execTrap, sysWord_next (a := w.setWidth 8) hI hsys hcount hsplit]
    · rw [all]
      rfl
    · rw [hw]
      exact if_neg (by omega)

/-- INTR. -/
theorem intr_ok {a : Sel} {s : State} {i : Issue} {c : Crew} {w : Word} (hI : Issues s i c) (hcount : CanCount c 0 i.grp.fids)
    (hsplit : (envAt s i).splitRead (selRegs a 1) = false) (hw : (envAt s i).readU a 0 = .ok w) (hmax : w.toNat < c.intLen) :
    let b := (taken s).sysFence i i.grp.fids
    exec (.intr a) s = .next ((b.vectorEvent (c.intFirst + w.toNat) (b.crewHead i.crew)).endWord i i.grp.latches false []) := by
  intro b
  have inside : ¬(envAt s i).crew.intLen ≤ w.toNat := by rw [envAt_crew hI]; omega
  change execIntr a s = _
  rw [execIntr, sysWord_any_next (a := w.toNat) hI hcount hsplit, envAt_crew hI]
  rw [hw]
  exact if_neg inside

/-- HALT. -/
theorem halt_ok {s : State} {i : Issue} {c : Crew} (hI : Issues s i c) (hsys : c.system = true) (hlife : c.life = .running)
    (hcount : CanCount c 0 i.grp.fids) : ∃ t, exec .halt s = .next t ∧ (t.crew i.crew).life = .halting := by
  have hexec : exec .halt s = .next ((((taken s).sysFence i i.grp.fids).endWord i i.grp.latches false []).haltCrew i.crew
      (i.grp.fids.headD noFibre) i.pc) := by
    change execHalt s = _
    rw [execHalt, sysWord_next (a := ()) hI hsys hcount (by simp [Env.splitRead]) rfl]
  obtain ⟨d, hd, hfenced⟩ := sysFence_crew hI i.grp.fids
  obtain ⟨e, hstep, he, -⟩ := State.endWord_step hd i.grp.latches
  refine ⟨_, hexec, State.haltCrew_life hstep.2.2 ?_ _ _⟩
  rw [he, hfenced.eq]
  exact hlife

/-- Settles O38: the test of the level comes first in every SYS word of system level. -/
theorem systemLevelOnly : Obligations.SystemLevelOnly := by
  unfold Obligations.SystemLevelOnly
  intro w a n s i c hI hsys hw
  simp only [List.mem_cons, List.not_mem_nil, or_false] at hw
  have user {α : Type} := sysWord_user (α := α) hI hsys
  rcases hw with rfl | rfl | rfl | rfl | rfl | rfl | rfl
  · exact (show exec (.segw a n) s = execSegw a n s from rfl).trans (user _ _ _)
  · exact (show exec (.segr a n) s = execSegr a n s from rfl).trans (user _ _ _)
  · exact (show exec (.csrr a n) s = execCsrr a n s from rfl).trans (user _ _ _)
  · exact (show exec (.csrw a n) s = execCsrw a n s from rfl).trans (user _ _ _)
  · exact (show exec (.eret n) s = execEret n s from rfl).trans (user _ _ _)
  · exact (show exec (.trap a) s = execTrap a s from rfl).trans (user _ _ _)
  · exact (show exec .halt s = execHalt s from rfl).trans (user _ _ _)

/-- Settles O40: each word is its effect after the fence. -/
theorem systemControl : Obligations.SystemControl := by
  unfold Obligations.SystemControl
  refine ⟨?_, ?_, ?_, ?_⟩
  · intro n s i c p hI hlife hsys hcount hn hsplit hgs halign hcan
    exact eret_ok hI hlife hsys hcount hn hsplit hgs halign hcan
  · intro a s i c w hI hsys hcount hsplit hw hmax
    exact trap_ok hI hsys hcount hsplit hw hmax
  · intro a s i c w hI hcount hsplit hw hmax
    exact intr_ok hI hcount hsplit hw hmax
  · intro s i c hI hsys hlife hcount
    exact halt_ok hI hsys hlife hcount

end Sys2Proof.Proofs
end

section
/-! PROOF. The words of the frame engine (R322 to R343): the selected fibres of a group act one after another on the fibres of their crew,
and the crew's group ends at a switch point. -/

-- Theorems one after another, not at once: this bounds the memory that a compile of the whole text takes.
set_option Elab.async false

namespace Sys2Proof.Machine

open Sys2Proof.Terms

/-! ## The fibres of a running crew, but for their places -/

/-- A crew runs with a budget and has these fibres. -/
def Rolls (s : State) (crew b : Nat) (V : Nat → Option Fibre) : Prop :=
  ∃ c, kget s.crews crew = some c ∧ c.life = .running ∧ c.b = b ∧ c.roll = V

section

variable {s t : State} {crew b n : Nat} {V : Nat → Option Fibre} {y : Fibre}

theorem Rolls.lists (hs : Rolls s crew b V) (h : ListsWork s t) : Rolls t crew b V := by
  obtain ⟨c, hc, hlife, hb, hroll⟩ := hs
  obtain ⟨d, hd, hcd⟩ := h.crews crew c hc
  have same : d.roll = c.roll := funext fun n => by rw [Crew.roll, hcd.eq]; rfl
  exact ⟨d, hd, by rw [hcd.eq]; exact hlife, by rw [hcd.eq]; exact hb, same.trans hroll⟩

theorem Rolls.log (hs : Rolls s crew b V) (h : LogWork s t) : Rolls t crew b V := hs.lists h.lists

/-- Fibres have changed their places, and the crew its groups. -/
theorem Rolls.moved (hs : Rolls s crew b V) (h : KeepsFibres s t) (g : RegroupStep s t) : Rolls t crew b V := by
  obtain ⟨c, hc, hlife, hb, hroll⟩ := hs
  obtain ⟨d, hd, -, hfib⟩ := h.crew crew c hc
  obtain ⟨d', hd', hcd⟩ := g.crew hc
  obtain rfl : d = d' := Option.some_inj.mp (hd.symm.trans hd')
  exact ⟨d, hd, by rw [hcd]; exact hlife, by rw [hcd]; exact hb, (funext hfib).trans hroll⟩

/-- The fibre at a position. -/
theorem Rolls.fibre (hs : Rolls s crew b V) (hV : V n = some y) : ((s.crew crew).fibre n).unplaced = y := by
  obtain ⟨c, hc, -, -, rfl⟩ := hs
  rw [State.crew_of_kget hc]
  exact fibre_unplaced hV

theorem Rolls.budget (hs : Rolls s crew b V) : (s.crew crew).b = b := by
  obtain ⟨c, hc, -, hb, -⟩ := hs
  rw [State.crew_of_kget hc, hb]

theorem Rolls.alive (hs : Rolls s crew b V) : (s.crew crew).alive = true := by
  obtain ⟨c, hc, hlife, -, -⟩ := hs
  rw [State.crew_of_kget hc, Crew.alive, hlife]
  rfl

/-- A fibre changes, but not its place. -/
theorem Rolls.modFibre (hs : Rolls s crew b V) (hV : V n = some y) {k : Fibre → Fibre} (hk : ∀ x, (k x).unplaced = k x.unplaced) :
    Rolls (s.modFibre crew n k) crew b (Function.update V n (some (k y))) := by
  obtain ⟨c, hc, hlife, hb, rfl⟩ := hs
  refine ⟨c.modFibre n k, (kget_kmod_self _ _ _).trans (congrArg _ hc), hlife, hb, funext fun m => ?_⟩
  rw [Crew.roll, Crew.modFibre, kget_kmod, Function.update_apply]
  split
  · obtain ⟨x, hx, rfl⟩ := Option.map_eq_some_iff.mp hV
    rw [hx]
    exact congrArg some (hk x)
  · rfl

/-- A push of a segment makes it the fibre's current one (R317). -/
theorem Rolls.pushSeg {u : State} {kind rpc : Nat} {valid : Bool} {frame : List Byte} (hs : Rolls s crew b V) (hV : V n = some y)
    (hp : s.pushSeg crew n kind rpc valid frame = (u, .ok ())) :
    ∃ va, Rolls u crew b (Function.update V n (some { y with seg := va, depth := y.depth + 1 })) := by
  have alloc := s.allocSeg_lists crew false
  unfold State.pushSeg at hp
  dsimp only at hp
  split at hp
  · cases hp
  · split at hp
    · cases hp
    · next t va ht =>
      rw [ht] at alloc
      split at hp
      · cases hp
      · next w hw =>
        have write := congrArg Prod.fst hw ▸ t.frameWrite_log crew va _
        cases hp
        exact ⟨va, Rolls.modFibre ((hs.lists alloc).log write) hV fun _ => rfl⟩

/-- A pop of a segment makes the one below it the fibre's current one (R317). -/
theorem Rolls.popSeg {u : State} {h : SegHead} (hs : Rolls s crew b V) (hV : V n = some y) (hp : s.popSeg crew n h = (u, .ok ())) :
    Rolls u crew b (Function.update V n (some { y with seg := h.link, depth := y.depth - 1 })) := by
  have write := s.frameWrite_log crew (h.link + 28) (leBytes 4 s.age)
  unfold State.popSeg State.setCurrent at hp
  generalize s.frameWrite crew (h.link + 28) (leBytes 4 s.age) = r at hp write
  obtain ⟨t, e | ⟨⟩⟩ := r
  · cases hp
  · have current := Rolls.modFibre (k := fun f => { f with seg := h.link }) (hs.log write) hV fun _ => rfl
    simp only [frThen] at hp
    have freed := (t.modFibre crew n fun f => { f with seg := h.link }).freeSeg_lists crew h.va
    generalize (t.modFibre crew n fun f => { f with seg := h.link }).freeSeg crew h.va = r at hp freed
    obtain ⟨v, e | ⟨⟩⟩ := r
    · cases hp
    · cases hp
      have below := Rolls.modFibre (k := fun f => { f with depth := f.depth - 1 }) (current.lists freed) (Function.update_self _ _ _)
        fun _ => rfl
      rwa [Function.update_idem] at below

/-- A fibre leaves its group (R31). -/
theorem Rolls.leaveGroup (hs : Rolls s crew b V) (fid : Nat) : Rolls (s.leaveGroup crew fid) crew b V := by
  unfold State.leaveGroup
  split
  · exact hs.moved (s.dissolve_keeps crew _) (RegroupStep.dissolve s crew _)
  · exact hs

end

/-! ## The selected fibres of a group, one after another -/

/-- The fibres of a group while the selected ones act: those that have acted are as after says, and the others stand at the next word. -/
def Acted (i : Issue) (c : Crew) (after : Nat → Fibre → Prop) (done : List Nat) (V : Nat → Option Fibre) : Prop :=
  ∀ f ∈ i.grp.fids, ∃ y, V f = some y ∧ if f ∈ done then after f y else y = (passed i (c.fibre f)).unplaced

/-- An action on a fibre of a group that stands at the next word: it has no effect, and leaves that fibre as after says. -/
def Acts (i : Issue) (c : Crew) (act : FibreAct) (R : State → Nat → State → Prop) (after : Nat → Fibre → Prop) (f : Nat) : Prop :=
  ∀ a b V, Rolls a i.crew c.b V → V f = some (passed i (c.fibre f)).unplaced → R a f b →
    act a f = (b, none) ∧ ∃ y, after f y ∧ Rolls b i.crew c.b (Function.update V f (some y))

section

variable {i : Issue} {c : Crew} {act : FibreAct} {R : State → Nat → State → Prop} {after : Nat → Fibre → Prop}

theorem OneByOne.acted : ∀ (l done : List Nat) (a z : State) (V : Nat → Option Fibre), Rolls a i.crew c.b V → Acted i c after done V →
    (∀ f ∈ l, f ∈ i.grp.fids ∧ Acts i c act R after f) → (done ++ l).Nodup → OneByOne R l a z →
    l.foldl (fun (r : State × List (Nat × Eff)) fid =>
        let x := act r.1 fid
        (x.1, r.2 ++ (x.2.map fun e => (fid, e)).toList)) (a, []) = (z, []) ∧
      ∃ V', Rolls z i.crew c.b V' ∧ Acted i c after (done ++ l) V' := by
  intro l
  induction l with
  | nil =>
    rintro done a z V ha hV - - rfl
    exact ⟨rfl, V, ha, by rwa [List.append_nil]⟩
  | cons f l ih =>
    rintro done a z V ha hV hl hn ⟨b, hb, hz⟩
    obtain ⟨hf, hact⟩ := hl f List.mem_cons_self
    have hd : f ∉ done := fun hd => (List.nodup_append.mp hn).2.2 f hd f List.mem_cons_self rfl
    obtain ⟨x, hx, hpassed⟩ := hV f hf
    rw [if_neg hd] at hpassed
    obtain ⟨hstep, y, hy, hroll⟩ := hact a b V ha (hpassed ▸ hx) hb
    have acted : Acted i c after (done ++ [f]) (Function.update V f (some y)) := by
      intro g hg
      by_cases hgf : g = f
      · subst hgf
        exact ⟨y, Function.update_self .., by rw [if_pos (List.mem_append_right _ (List.mem_singleton.mpr rfl))]; exact hy⟩
      · obtain ⟨w, hw, hafter⟩ := hV g hg
        refine ⟨w, (Function.update_of_ne hgf ..).trans hw, ?_⟩
        simpa [hgf] using hafter
    rw [List.append_cons] at hn ⊢
    rw [List.foldl_cons]
    simp only [hstep]
    exact ih (done ++ [f]) b z _ hroll acted (fun g hg => hl g (List.mem_cons_of_mem f hg)) hn hz

end

/-- The state in which the selected fibres act. -/
theorem acting_rolls {s : State} {i : Issue} {c : Crew} (hI : Issues s i c) (hlife : c.life = .running) (after : Nat → Fibre → Prop) :
    ∃ V, Rolls (acting s i) i.crew c.b V ∧ Acted i c after [] V := by
  obtain ⟨-, hcrew, -, hsome⟩ := hI
  obtain ⟨d, hd, he, hf⟩ := State.setPcs_step (s := taken s) hcrew i.grp.fids (i.pc + 4)
  refine ⟨d.roll, ⟨d, hd.2.2, by rw [he]; exact hlife, by rw [he], rfl⟩, fun f hg => ?_⟩
  obtain ⟨x, hx⟩ := Option.isSome_iff_exists.mp (hsome f hg)
  refine ⟨(passed i (c.fibre f)).unplaced, ?_, by simp⟩
  rw [Crew.roll, hf, if_pos hg, Crew.fibre, kgetD, hx]
  rfl

/-- The selected lanes are listed once. -/
theorem lanes_sel_nodup {s : State} {i : Issue} {c : Crew} (h : Issues s i c) {g : Guard} (hb : ((envAt s i).lanes g).bad = []) :
    ((envAt s i).lanes g).sel.Nodup := (Env.lanes_spec (envAt s i) g h.2.2.1 hb).1

/-- The end of a word whose fibres have acted. -/
theorem GroupEnds.of_acted {w : Instr} {s z : State} {i : Issue} {c : Crew} {g : Guard} {after : Nat → Fibre → Prop} {V : Nat → Option Fibre}
    (hexec : exec w s = .next (z.endControl i [])) (hz : Rolls z i.crew c.b V) (hV : Acted i c after ((envAt s i).lanes g).sel V) :
    GroupEnds w s i c g fun f x => after f x.unplaced := by
  obtain ⟨d, hd, hlife, -, rfl⟩ := hz
  obtain ⟨c', hc', -, hplace⟩ := State.endControl_crew (i := i) hd hlife
  refine ⟨_, c', hexec, hc', fun f hf => ?_⟩
  obtain ⟨y, hy, hafter⟩ := hV f hf
  obtain ⟨x, hx, rfl⟩ := Option.map_eq_some_iff.mp ((hplace f).trans hy)
  refine ⟨x, hx, ?_⟩
  split
  · next hsel => rwa [if_pos hsel] at hafter
  · next hsel =>
    rw [if_neg hsel] at hafter
    exact Fibre.eq_of_unplaced hafter

/-- A control word whose selected fibres act one after another. -/
theorem GroupEnds.of_acts {w : Instr} {s z : State} {i : Issue} {c : Crew} {g : Guard} {act : FibreAct}
    {R : State → Nat → State → Prop} {after : Nat → Fibre → Prop} (hR : Ready s i c g)
    (hexec : exec w s = .next ((taken s).control i ((envAt s i).lanes g) act))
    (hact : ∀ f ∈ ((envAt s i).lanes g).sel, Acts i c act R after f) (hz : OneByOne R ((envAt s i).lanes g).sel (acting s i) z) :
    GroupEnds w s i c g fun f x => after f x.unplaced := by
  obtain ⟨hI, hlife, hbad⟩ := hR
  obtain ⟨V, hV, hacted⟩ := acting_rolls hI hlife after
  obtain ⟨hfold, V', hV', hacted'⟩ := OneByOne.acted _ [] _ _ V hV hacted (fun f hf => ⟨lanes_sel_mem hI hbad hf, hact f hf⟩)
    (lanes_sel_nodup hI hbad) hz
  refine GroupEnds.of_acted ?_ hV' hacted'
  rw [hexec, State.control, hbad]
  dsimp only
  rw [show (taken s).setPcs i.crew i.grp.fids (i.pc + 4) = acting s i from rfl, hfold]

theorem GroupEnds.mono {w : Instr} {s : State} {i : Issue} {c : Crew} {g : Guard} {p q : Nat → Fibre → Prop} (h : GroupEnds w s i c g p)
    (hpq : ∀ f x, p f x → q f x) : GroupEnds w s i c g q := by
  obtain ⟨t, c', ht, hc', hfib⟩ := h
  refine ⟨t, c', ht, hc', fun f hf => ?_⟩
  obtain ⟨x, hx, hafter⟩ := hfib f hf
  refine ⟨x, hx, ?_⟩
  split
  · next hsel =>
    rw [if_pos hsel] at hafter
    exact hpq f x hafter
  · next hsel => rwa [if_neg hsel] at hafter

/-- A frame-engine word whose operands can be read: each selected fibre counts and acts. -/
theorem frameWord_next {g : Guard} {srcs : List (Sel × Nat)} {d width k : Nat} {act : FrameAct} {s : State} {i : Issue} {c : Crew}
    (hI : Issues s i c) (hcheck : groupCheck (envAt s i) srcs d width = none) :
    frameWord g srcs d width k act s = .next ((taken s).control i ((envAt s i).lanes g) fun u fid =>
      if !i.again && decide (63 ≤ ((c.fibre fid).tok k).count) then (u, some (laneEff (9, 0x30) i.pc)) else act i (envAt s i) u fid) := by
  have env : envOf i (taken s) = envAt s i := rfl
  have crew := envAt_crew hI
  obtain ⟨hcur, -⟩ := hI
  rw [frameWord, withIssue_next hcur]
  simp only [env, hcheck, crew]

/-- A fibre whose token can count acts. -/
theorem counting_act {again : Bool} {n : Nat} (h : n < 63) (x y : State × Option Eff) :
    (if !again && decide (63 ≤ n) then x else y) = y := by
  rw [decide_eq_false (Nat.not_le.mpr h), Bool.and_false, if_neg Bool.false_ne_true]

/-- A frame-engine word whose selected fibres count and act one after another. -/
theorem GroupEnds.of_frameWord {w : Instr} {s z : State} {i : Issue} {c : Crew} {g : Guard} {srcs : List (Sel × Nat)} {d width k : Nat}
    {act : FrameAct} {R : State → Nat → State → Prop} {after : Nat → Fibre → Prop} (hexec : exec w s = frameWord g srcs d width k act s)
    (hR : Ready s i c g) (hcheck : groupCheck (envAt s i) srcs d width = none)
    (hcount : ∀ f ∈ ((envAt s i).lanes g).sel, ((c.fibre f).tok k).count < 63)
    (hact : ∀ f ∈ ((envAt s i).lanes g).sel, Acts i c (act i (envAt s i)) R after f)
    (hz : OneByOne R ((envAt s i).lanes g).sel (acting s i) z) : GroupEnds w s i c g fun f x => after f x.unplaced := by
  refine GroupEnds.of_acts hR (hexec.trans (frameWord_next hR.1 hcheck)) (fun f hf a b V ha hV hab => ?_) hz
  obtain ⟨hact, hafter⟩ := hact f hf a b V ha hV hab
  exact ⟨(counting_act (hcount f hf) _ _).trans hact, hafter⟩

/-! ## Effects of selected fibres -/

/-- The selected lanes stand in the group's order. -/
theorem Env.lanes_sel_sublist (e : Env) (g : Guard) : (e.lanes g).sel.Sublist e.iss.grp.fids := by
  cases ha : e.iss.again with
  | true =>
    rw [Env.lanes, ha, if_pos rfl]
  | false =>
    rw [Env.lanes_eq e g ha]
    exact List.filter_sublist

/-- Effects of some fibres of a group, in the group's order. -/
theorem flatMap_filter_sublist (E : Nat → Eff) {l m : List Nat} (h : m.Sublist l) (hl : l.Nodup) :
    (l.flatMap fun f => (m.map fun g => (g, E g)).filter fun x => x.1 == f) = m.map fun g => (g, E g) := by
  have absent : ∀ (m : List Nat) (a : Nat), a ∉ m → ((m.map fun g => (g, E g)).filter fun x => x.1 == a) = [] := fun m a ha =>
    List.filter_eq_nil_iff.mpr fun x hx => by
      obtain ⟨g, hg, rfl⟩ := List.mem_map.mp hx
      simpa using fun he : g = a => ha (he ▸ hg)
  induction h with
  | slnil => rfl
  | @cons m l a h ih =>
    obtain ⟨ha, hl⟩ := List.nodup_cons.mp hl
    rw [List.flatMap_cons, absent m a fun hm => ha (h.subset hm), List.nil_append, ih hl]
  | @cons_cons m l a h ih =>
    obtain ⟨ha, hl⟩ := List.nodup_cons.mp hl
    have others : (l.flatMap fun f => ((a :: m).map fun g => (g, E g)).filter fun x => x.1 == f) =
        l.flatMap fun f => (m.map fun g => (g, E g)).filter fun x => x.1 == f := by
      refine List.flatMap_congr fun f hf => ?_
      have hne : ¬a = f := fun he => ha (he ▸ hf)
      simp [hne]
    rw [List.flatMap_cons, others, ih hl, List.map_cons, List.filter_cons_of_pos (by simp),
      absent m a fun hm => ha (h.subset hm), List.singleton_append]

/-- Selected fibres that change nothing and have an effect each. -/
theorem foldl_effects {act : FibreAct} {E : Nat → Eff} {a : State} {l : List Nat} (hl : ∀ f ∈ l, act a f = (a, some (E f)))
    (acc : List (Nat × Eff)) :
    l.foldl (fun (r : State × List (Nat × Eff)) fid =>
      let x := act r.1 fid
      (x.1, r.2 ++ (x.2.map fun e => (fid, e)).toList)) (a, acc) = (a, acc ++ l.map fun f => (f, E f)) := by
  induction l generalizing acc with
  | nil => simp
  | cons f l ih =>
    rw [List.foldl_cons, hl f List.mem_cons_self]
    exact (ih (fun g hg => hl g (List.mem_cons_of_mem f hg)) _).trans (by simp)

/-- A control word whose selected fibres have an effect each: they are delivered one after another. -/
theorem State.control_effects {s : State} {i : Issue} {c : Crew} {g : Guard} {act : FibreAct} {E : Nat → Eff} (hR : Ready s i c g)
    (hact : ∀ f ∈ ((envAt s i).lanes g).sel, act (acting s i) f = (acting s i, some (E f))) :
    (taken s).control i ((envAt s i).lanes g) act =
      (((envAt s i).lanes g).sel.foldl (fun (t : State) f => t.deliver i.crew f (E f)) (acting s i)).endSwitch i := by
  obtain ⟨⟨-, -, hnodup, -⟩, -, hbad⟩ := hR
  have order := flatMap_filter_sublist E ((envAt s i).lanes_sel_sublist g) hnodup
  rw [State.control, hbad, show (taken s).setPcs i.crew i.grp.fids (i.pc + 4) = acting s i from rfl, foldl_effects hact]
  rw [State.endControl, List.nil_append]
  rw [show (envAt s i).iss.grp.fids = i.grp.fids from rfl] at order
  rw [order, State.deliverAll, List.foldl_map]

/-- Fibres one after another, each as a function says. -/
theorem oneByOne_foldl (k : State → Nat → State) (l : List Nat) : ∀ a : State, OneByOne (fun a f b => b = k a f) l a (l.foldl k a) := by
  induction l with
  | nil => exact fun _ => rfl
  | cons f l ih => exact fun a => ⟨_, rfl, ih _⟩

/-- An effect with no hinge for it, at a fibre that goes on after it (R331). -/
theorem State.deliver_yield {s : State} {crew fid b : Nat} {V : Nat → Option Fibre} {y : Fibre} (hs : Rolls s crew b V) (hV : V fid = some y)
    (hmask : y.effmask.getLsbD 1 = false) {e : Eff} (he : e.label = 1) :
    Rolls (s.deliver crew fid e) crew b (Function.update V fid (some { y.deliverTo e.dst 0 0 with pc := e.rpc })) := by
  have nohinge : s.hingeFor crew fid e.label = (s, .ok none) := by
    have bit : ((s.crew crew).fibre fid).effmask.getLsbD 1 = false := by
      rw [show ((s.crew crew).fibre fid).effmask = ((s.crew crew).fibre fid).unplaced.effmask from rfl, hs.fibre hV, hmask]
    rw [State.hingeFor, he, bit]
    rfl
  have goes : s.deliver crew fid e = (s.leaveGroup crew fid).goOn crew fid e := by
    rw [State.deliver, if_pos hs.alive, nohinge]
    simp only [State.defaultOf, he]
  have wrote := (hs.leaveGroup fid).modFibre (k := fun f => { f.deliverTo e.dst 0 0 with pc := e.rpc }) hV fun x => by
    unfold Fibre.deliverTo
    split
    · rfl
    · split <;> rfl
  rw [goes, State.goOn]
  exact wrote.moved (State.enter_keeps _ _ _) (RegroupStep.enter _ _ _)

/-! ## The end of a group leaves all but crews and cores -/

/-- From s to t only crews and cores have changed. -/
def CrewsAndCores (s t : State) : Prop := t = { s with crews := t.crews, cores := t.cores }

namespace CrewsAndCores

variable {s t u : State}

theorem refl (s : State) : CrewsAndCores s s := rfl

theorem trans (h : CrewsAndCores s t) (g : CrewsAndCores t u) : CrewsAndCores s u := by rw [CrewsAndCores, g, h]

theorem foldl {β : Type} {f : State → β → State} (hf : ∀ s x, CrewsAndCores s (f s x)) (l : List β) (s : State) :
    CrewsAndCores s (l.foldl f s) := by
  induction l generalizing s with
  | nil => exact refl s
  | cons x l ih => exact (hf s x).trans (ih _)

theorem enter (s : State) (crew fid : Nat) : CrewsAndCores s (s.enter crew fid) := by
  unfold State.enter
  dsimp only
  split <;> rfl

theorem settle (core n : Nat) : ∀ s : State, CrewsAndCores s (s.settle core n) := by
  induction n with
  | zero => exact refl
  | succ n ih =>
    intro s
    unfold State.settle
    split
    · exact refl s
    · dsimp only
      split
      · exact refl s
      · refine .trans (.trans (t := s.modCore core _) rfl (.foldl (fun t e => ?_) _ _)) (ih _)
        exact rfl

theorem dissolve (s : State) (crew gid : Nat) : CrewsAndCores s (s.dissolve crew gid) := by
  unfold State.dissolve
  split
  · exact refl s
  · refine .trans (.trans (t := s.modCrew crew _) rfl (settle _ _ _)) (.foldl (fun t fid => ?_) _ _)
    split
    · exact enter t crew fid
    · exact refl t

end CrewsAndCores

/-- The operations in flight at the end of a control word of a running crew. -/
theorem State.endControl_ops {s : State} {i : Issue} {c : Crew} (hc : kget s.crews i.crew = some c) (hlife : c.life = .running) :
    (s.endControl i []).ops = s.ops := by
  rw [State.endControl_running hc hlife]
  split
  · rw [CrewsAndCores.dissolve s i.crew _]
  · rfl

/-! ## Operations launched one after another (R340 to R343) -/

/-- The operation of a continuation word of a fibre. -/
def frameOp (fn b : Nat) (A : Nat → Nat) (B : Nat → Word × Word) (c : Crew) (f : Nat) : FrameOp :=
  { fn := fn, addr := A f, image := if fn = 7 then A f else pairNat (B f), b := b, pos := (c.fibre f).pos }

/-- The record of an operation of the frame engine put into flight. -/
def frameRecord (i : Issue) (k : Nat) (o : FrameOp) (f : Nat) : Op :=
  { kind := .frame o f, issuer := i.crew, core := i.core, word := i.word, modw := i.modw, owners := [.fibre i.crew f k] }

/-- A launch counts on the fibre's token and marks its destinations, and nothing else of the crew changes. -/
theorem Rolls.launchFrame {s : State} {i : Issue} {b n k : Nat} {V : Nat → Option Fibre} {y : Fibre} (hs : Rolls s i.crew b V)
    (hV : V n = some y) (o : FrameOp) (regs : List Nat) :
    Rolls (s.launchFrame i n k o regs) i.crew b
      (Function.update V n (some (if i.strict then (y.countUp k).markPend k regs else y.countUp k))) := by
  have fresh : Rolls s.fresh.2 i.crew b V := hs.log (.of_crews rfl rfl rfl rfl rfl)
  have counted := fresh.modFibre (k := fun f => if i.strict then (f.countUp k).markPend k regs else f.countUp k) hV fun x => by
    cases i.strict <;> rfl
  exact counted.log (.of_crews rfl rfl rfl rfl rfl)

/-- Launches one after another: each fibre's operation is in flight under a number of its own. -/
theorem launchFrame_chain (i : Issue) (k : Nat) (O : Nat → FrameOp) (regs : List Nat) : ∀ (l : List Nat) (a : State),
    let launch := fun (t : State) f => t.launchFrame i f k (O f) regs
    OneByOne (fun u f v => u.pasids = a.pasids ∧ v = launch u f) l a (l.foldl launch a) ∧
      (∀ id, id < a.nextId → kget (l.foldl launch a).ops id = kget a.ops id) ∧
      ∀ f ∈ l, ∃ id, kget (l.foldl launch a).ops id = some (frameRecord i k (O f) f) := by
  intro l
  induction l with
  | nil => exact fun a => ⟨rfl, fun _ _ => rfl, fun f hf => nomatch hf⟩
  | cons f l ih =>
    intro a launch
    obtain ⟨hchain, hold, hnew⟩ := ih (launch a f)
    have ops : (launch a f).ops = kset a.ops a.nextId (frameRecord i k (O f) f) := rfl
    refine ⟨⟨_, ⟨rfl, rfl⟩, hchain⟩, fun id hid => ?_, fun g hg => ?_⟩
    · rw [List.foldl_cons, hold id (Nat.lt_succ_of_lt hid), ops, kget_kset_ne _ _ (Nat.ne_of_lt hid)]
    · rcases List.mem_cons.mp hg with rfl | hg
      · exact ⟨a.nextId, by rw [List.foldl_cons, hold a.nextId (Nat.lt_succ_self _), ops, kget_kset_self]⟩
      · exact hnew g hg

end Sys2Proof.Machine

namespace Sys2Proof.Proofs

open Sys2Proof.Machine Sys2Proof.Terms

/-! ## HINST and HPOP -/

/-- HINST. -/
theorem hinst_ok {h : EffHdr} {s z : State} {i : Issue} {c : Crew} {M : Nat → Nat} {P : Nat → Word × Word} (hR : Ready s i c h.g)
    (hcheck : groupCheck (envAt s i) [(h.a, 2)] h.b.val 2 = none)
    (hsel : ∀ f ∈ ((envAt s i).lanes h.g).sel, ((c.fibre f).tok 0).count < 63 ∧ (envAt s i).pairAt f h.a = .ok (M f) ∧
      (envAt s i).pairV f h.b.val = .ok (P f) ∧ M f / 2 ^ 14 % 2 ^ 18 = 0 ∧ pairNat (P f) % 4 = 0 ∧ Canonical (pairNat (P f)))
    (hz : OneByOne (fun a f b => ∃ u,
      a.pushSeg i.crew f 1 0 false (hingeRecord (M f) (pairNat (P f)) (c.fibre f).effmask.toNat) = (u, .ok ()) ∧
      b = u.modFibre i.crew f fun x => { x with effmask := x.effmask ||| BitVec.ofNat 64 (M f) }) ((envAt s i).lanes h.g).sel (acting s i) z) :
    GroupEnds (.hinst h) s i c h.g fun f x =>
      x = { c.fibre f with pc := i.pc + 4, seg := x.seg, depth := (c.fibre f).depth + 1,
                           effmask := (c.fibre f).effmask ||| BitVec.ofNat 64 (M f), st := x.st } := by
  have hexec : exec (.hinst h) s = execHinst h s := rfl
  unfold execHinst at hexec
  refine GroupEnds.mono (GroupEnds.of_frameWord hexec hR hcheck (fun f hf => (hsel f hf).1)
    (after := fun f x => x = { c.fibre f with pc := i.pc + 4, seg := x.seg, depth := (c.fibre f).depth + 1,
                                              effmask := (c.fibre f).effmask ||| BitVec.ofNat 64 (M f), st := .loose 0 })
    (fun f hf => ?_) hz)
    fun f x hx => congrArg (fun y : Fibre => { y with st := x.st }) hx
  obtain ⟨-, hM, hP, hmask, halign, hcan⟩ := hsel f hf
  rintro a b V ha hV ⟨u, hpush, rfl⟩
  obtain ⟨va, pushed⟩ := ha.pushSeg hV hpush
  have masked := pushed.modFibre (k := fun x => { x with effmask := x.effmask ||| BitVec.ofNat 64 (M f) }) (Function.update_self _ _ _)
    fun _ => rfl
  rw [Function.update_idem] at masked
  have effmask : ((a.crew i.crew).fibre f).effmask = (c.fibre f).effmask :=
    show ((a.crew i.crew).fibre f).unplaced.effmask = _ by rw [ha.fibre hV]; rfl
  refine ⟨?_, _, ?_, masked⟩
  · simp only [hM, hP, pairOf_toNat, State.hinst, hmask, targetCause_none halign hcan, effmask, hpush, frameAct, ne_eq,
      not_true_eq_false, if_false]
  · rfl

/-- HPOP. -/
theorem hpop_ok {g : Guard} {s z : State} {i : Issue} {c : Crew} {H : Nat → SegHead} (hR : Ready s i c g) (hb : 0 < c.b)
    (hsel : ∀ f ∈ ((envAt s i).lanes g).sel, ((c.fibre f).tok 0).count < 63 ∧ (H f).kind = 1)
    (hz : OneByOne (fun a f b => ∃ u v, a.segHead i.crew ((a.crew i.crew).fibre f).seg = (u, .ok (H f)) ∧
      u.popSeg i.crew f (H f) = (v, .ok ()) ∧ b = v.modFibre i.crew f fun x => { x with effmask := BitVec.ofNat 64 (H f).saved })
      ((envAt s i).lanes g).sel (acting s i) z) :
    GroupEnds (.hpop g) s i c g fun f x =>
      x = { c.fibre f with pc := i.pc + 4, seg := (H f).link, depth := (c.fibre f).depth - 1,
                           effmask := BitVec.ofNat 64 (H f).saved, st := x.st } := by
  have fits : vFits (envAt s i).crew.b 0 1 = true := by rw [envAt_crew hR.1]; exact decide_eq_true hb
  have hcheck : groupCheck (envAt s i) [] 0 1 = none := by simp [groupCheck, fits, Env.splitRead]
  have hexec : exec (.hpop g) s = execHpop g s := rfl
  unfold execHpop at hexec
  refine GroupEnds.mono (GroupEnds.of_frameWord hexec hR hcheck (fun f hf => (hsel f hf).1)
    (after := fun f x => x = { c.fibre f with pc := i.pc + 4, seg := (H f).link, depth := (c.fibre f).depth - 1,
                                              effmask := BitVec.ofNat 64 (H f).saved, st := .loose 0 }) (fun f hf => ?_) hz)
    fun f x hx => congrArg (fun y : Fibre => { y with st := x.st }) hx
  obtain ⟨-, hkind⟩ := hsel f hf
  rintro a b V ha hV ⟨u, v, hhead, hpop, rfl⟩
  have read := a.segHead_log i.crew ((a.crew i.crew).fibre f).seg
  rw [hhead] at read
  have popped := (ha.log read).popSeg hV hpop
  have unmasked := popped.modFibre (k := fun x => { x with effmask := BitVec.ofNat 64 (H f).saved }) (Function.update_self _ _ _)
    fun _ => rfl
  rw [Function.update_idem] at unmasked
  refine ⟨?_, _, ?_, unmasked⟩
  · simp only [hhead, frameAct, hkind, ne_eq, not_true_eq_false, if_false, hpop]
  · rfl

/-- Settles O33: the pushes and pops of segments change nothing of a fibre but its current segment and its depth. -/
theorem hingeWords : Obligations.HingeWords := by
  unfold Obligations.HingeWords
  refine ⟨?_, ?_⟩
  · intro h s z i c M P hR hcheck hsel hz
    exact hinst_ok hR hcheck hsel hz
  · intro g s z i c H hR hb hsel hz
    exact hpop_ok hR hb hsel hz

/-! ## PERFORM -/

/-- The effect of PERFORM. -/
def performed (i : Issue) (label payload : Word) : Eff :=
  { label := label.toNat, cause := 0, payload := payload, dst := 0x40, rpc := i.pc + 4, prog := true }

/-- PERFORM. -/
theorem perform_ok {h : EffHdr} {s : State} {i : Issue} {c : Crew} {L P : Nat → Word} (hR : Ready s i c h.g)
    (hcheck : groupCheck (envAt s i) [(h.a, 1)] h.b.val 1 = none)
    (hsel : ∀ f ∈ ((envAt s i).lanes h.g).sel, ((c.fibre f).tok 0).count < 63 ∧ (envAt s i).read (c.fibre f) f h.a 0 0 = .ok (L f) ∧
      (envAt s i).readV (c.fibre f) f h.b.val 1 = .ok (P f) ∧ ((L f).toNat < 14 ∨ 32 ≤ (L f).toNat ∧ (L f).toNat < 64)) :
    exec (.perform h) s = .next ((((envAt s i).lanes h.g).sel.foldl (fun (t : State) f =>
      t.deliver i.crew f (performed i (L f) (P f))) (acting s i)).endSwitch i) := by
  have hexec : exec (.perform h) s = execPerform h s := rfl
  unfold execPerform at hexec
  rw [hexec, frameWord_next hR.1 hcheck]
  refine congrArg _ (State.control_effects hR fun f hf => ?_)
  obtain ⟨hcount, hL, hP, hlabel⟩ := hsel f hf
  have allowed : ¬((14 ≤ (L f).toNat ∧ (L f).toNat ≤ 31) ∨ 63 < (L f).toNat) := by omega
  refine (counting_act hcount _ _).trans ?_
  simp only [envAt_crew hR.1, hL, hP, allowed, if_false]
  rfl

/-- PERFORM of YIELD by fibres that have no hinge for it. -/
theorem perform_yield {h : EffHdr} {s : State} {i : Issue} {c : Crew} {L P : Nat → Word} (hR : Ready s i c h.g)
    (hexec : exec (.perform h) s = .next ((((envAt s i).lanes h.g).sel.foldl (fun (t : State) f =>
      t.deliver i.crew f (performed i (L f) (P f))) (acting s i)).endSwitch i))
    (hyield : ∀ f ∈ ((envAt s i).lanes h.g).sel, L f = 1 ∧ (c.fibre f).effmask.getLsbD 1 = false) :
    GroupEnds (.perform h) s i c h.g fun f x => x.pc = i.pc + 4 ∧ x.getV 0 = 0 ∧ x.getV 1 = 0 ∧ x.k = (c.fibre f).k := by
  obtain ⟨hI, hlife, hbad⟩ := hR
  let deliver := fun (t : State) f => t.deliver i.crew f (performed i (L f) (P f))
  let after := fun (f : Nat) (x : Fibre) => x.pc = i.pc + 4 ∧ x.getV 0 = 0 ∧ x.getV 1 = 0 ∧ x.k = (c.fibre f).k
  obtain ⟨V, hV, hacted⟩ := acting_rolls hI hlife after
  have acts : ∀ f ∈ ((envAt s i).lanes h.g).sel, Acts i c (fun t f => (deliver t f, none)) (fun a f b => b = deliver a f) after f := by
    rintro f hf a b V ha hV rfl
    obtain ⟨hL, hmask⟩ := hyield f hf
    refine ⟨rfl, _, ?_, State.deliver_yield ha hV hmask (by rw [performed, hL]; rfl)⟩
    refine ⟨rfl, ?_, ?_, rfl⟩
    · exact (kgetD_kset_ne _ _ _ (by decide)).trans (kgetD_kset_self _ _ _ _)
    · exact kgetD_kset_self _ _ _ _
  obtain ⟨-, V', hV', hacted'⟩ := OneByOne.acted _ [] _ _ V hV hacted (fun f hf => ⟨lanes_sel_mem hI hbad hf, acts f hf⟩)
    (lanes_sel_nodup hI hbad) (oneByOne_foldl deliver _ (acting s i))
  have hnil : (i.grp.fids.flatMap fun f => ([] : List (Nat × Eff)).filter fun x => x.1 == f) = [] := by simp
  refine GroupEnds.of_acted (after := after) ?_ hV' hacted'
  rw [hexec, State.endControl, hnil]
  rfl

/-- Settles O34: each selected fibre has its effect, and an effect of YIELD without a hinge writes V0 and V1. -/
theorem performWord : Obligations.PerformWord := by
  unfold Obligations.PerformWord
  intro h s i c L P hR hcheck _ hsel
  have hexec := perform_ok hR hcheck hsel
  exact ⟨hexec, perform_yield hR hexec⟩

/-! ## DROP, KSTAT, KPACK and KUNPACK -/

/-- The launch of a continuation word by a fibre whose operands are good. -/
theorem frameLane_ok {fn k b f : Nat} {a : Sel} {regs : List Nat} {s u : State} {i : Issue} {c : Crew} {A : Nat → Nat} {B : Nat → Word × Word}
    (hcrew : (envAt s i).crew = c) (hpasids : u.pasids = s.pasids) (hA : (envAt s i).pairAt f a = .ok (A f))
    (hB : if fn = 6 then (envAt s i).pairV f b = .ok (B f) else B f = (0, 0))
    (h6 : fn = 6 → canonical (s.levels c.pasid) (pairNat (B f)) = true ∧ pairNat (B f) % 16 = 0)
    (h7 : fn = 7 → canonical (s.levels c.pasid) (A f) = true ∧ A f % 16 = 0) (hstrict : ∀ n, (c.fibre f).strictV i.strict n = none) :
    frameLane fn k b a regs i (envAt s i) u f = (u.launchFrame i f k (frameOp fn b A B c f) regs, none) := by
  have operand : (if fn = fnKpack then (envAt s i).pairV f b else .ok (0, 0)) = .ok (B f) := by
    change (if fn = 6 then (envAt s i).pairV f b else .ok (0, 0)) = _
    by_cases h : fn = 6
    · rw [if_pos h] at hB
      rw [if_pos h, hB]
    · rw [if_neg h] at hB
      rw [if_neg h, hB]
  have levels : u.levels c.pasid = s.levels c.pasid := by rw [State.levels, State.levels, hpasids]
  have image : (fn = fnKpack ∨ fn = fnKunpack) → canonical (s.levels c.pasid) (if fn = fnKunpack then A f else pairNat (B f)) = true ∧
      (if fn = fnKunpack then A f else pairNat (B f)) % 16 = 0 := by
    rintro (h | h)
    · have other : ¬fn = fnKunpack := by rw [h]; decide
      rw [if_neg other]
      exact h6 h
    · rw [if_pos h]
      exact h7 h
  have good : (regs.filterMap fun n => (c.fibre f).strictV i.strict n).head? = none := by simp [hstrict]
  have canon : ¬((fn = fnKpack ∨ fn = fnKunpack) ∧ canonical (s.levels c.pasid) (if fn = fnKunpack then A f else pairNat (B f)) = false) :=
    fun ⟨h, hc⟩ => by rw [(image h).1] at hc; cases hc
  have aligned : ¬((fn = fnKpack ∨ fn = fnKunpack) ∧ (if fn = fnKunpack then A f else pairNat (B f)) % 16 ≠ 0) :=
    fun ⟨h, hc⟩ => hc (image h).2
  simp only [frameLane, hA, operand, hcrew, levels, pairOf_toNat, if_neg canon, if_neg aligned, good]
  rfl

/-- A continuation word: each selected fibre counts, and its operation is in flight. -/
theorem continuationWord {w : Instr} {g : Guard} {k : Fin 16} {a : Sel} {fn b width : Nat} {regs : List Nat} {s : State} {i : Issue} {c : Crew}
    {A : Nat → Nat} {B : Nat → Word × Word} (hexec : exec w s = frameWord g [(a, 2)] b width k.val (frameLane fn k.val b a regs) s)
    (hR : Ready s i c g) (hcheck : groupCheck (envAt s i) [(a, 2)] b width = none)
    (hsel : ∀ f ∈ ((envAt s i).lanes g).sel, ((c.fibre f).tok k.val).count < 63 ∧ (envAt s i).pairAt f a = .ok (A f) ∧
      (if fn = 6 then (envAt s i).pairV f b = .ok (B f) else B f = (0, 0)) ∧
      (fn = 6 → canonical (s.levels c.pasid) (pairNat (B f)) = true ∧ pairNat (B f) % 16 = 0) ∧
      (fn = 7 → canonical (s.levels c.pasid) (A f) = true ∧ A f % 16 = 0) ∧ ∀ n, (c.fibre f).strictV i.strict n = none) :
    ∃ t c', exec w s = .next t ∧ kget t.crews i.crew = some c' ∧ ∀ f ∈ i.grp.fids, ∃ x, kget c'.fibres f = some x ∧ x.pc = i.pc + 4 ∧
      x.v = (c.fibre f).v ∧ x.p = (c.fibre f).p ∧
      if f ∈ ((envAt s i).lanes g).sel then
        x.tok k.val = { (c.fibre f).tok k.val with count := ((c.fibre f).tok k.val).count + 1 } ∧
          ∃ id, kget t.ops id = some (frameRecord i k.val (frameOp fn b A B c f) f)
      else x.k = (c.fibre f).k := by
  have hready := hR
  obtain ⟨hI, hlife, hbad⟩ := hready
  let launch := fun (t : State) f => t.launchFrame i f k.val (frameOp fn b A B c f) regs
  let after := fun (f : Nat) (x : Fibre) => x.pc = i.pc + 4 ∧ x.v = (c.fibre f).v ∧ x.p = (c.fibre f).p ∧
    x.tok k.val = { (c.fibre f).tok k.val with count := ((c.fibre f).tok k.val).count + 1 }
  obtain ⟨hchain, -, hops⟩ := launchFrame_chain i k.val (frameOp fn b A B c) regs ((envAt s i).lanes g).sel (acting s i)
  have hpasids : (acting s i).pasids = s.pasids := by
    obtain ⟨-, hcrew, -⟩ := hI
    obtain ⟨d, hd, -, -⟩ := State.setPcs_step (s := taken s) hcrew i.grp.fids (i.pc + 4)
    have same := congrArg State.pasids hd.1
    exact same
  have acts : ∀ f ∈ ((envAt s i).lanes g).sel, Acts i c (fun u fid =>
      if !i.again && decide (63 ≤ ((c.fibre fid).tok k.val).count) then (u, some (laneEff (9, 0x30) i.pc))
      else frameLane fn k.val b a regs i (envAt s i) u fid) (fun u f v => u.pasids = (acting s i).pasids ∧ v = launch u f) after f := by
    rintro f hf u v V hu hV ⟨hsame, rfl⟩
    obtain ⟨hcount, hA, hB, h6, h7, hstrict⟩ := hsel f hf
    refine ⟨(counting_act hcount _ _).trans (frameLane_ok (envAt_crew hI) (hsame.trans hpasids) hA hB h6 h7 hstrict), _, ?_,
      hu.launchFrame hV _ regs⟩
    split
    all_goals exact ⟨rfl, rfl, rfl, Fibre.countUp_tok_self _ _⟩
  obtain ⟨V, hV, hacted⟩ := acting_rolls hI hlife after
  obtain ⟨hfold, V', hV', hacted'⟩ := OneByOne.acted _ [] _ _ V hV hacted (fun f hf => ⟨lanes_sel_mem hI hbad hf, acts f hf⟩)
    (lanes_sel_nodup hI hbad) hchain
  have hnext : exec w s = .next ((((envAt s i).lanes g).sel.foldl launch (acting s i)).endControl i []) := by
    rw [hexec, frameWord_next hI hcheck, State.control, hbad]
    dsimp only
    rw [show (taken s).setPcs i.crew i.grp.fids (i.pc + 4) = acting s i from rfl, hfold]
  obtain ⟨t, c', ht, hc', hfib⟩ := GroupEnds.of_acted (after := after) hnext hV' hacted'
  have htops : t.ops = (((envAt s i).lanes g).sel.foldl launch (acting s i)).ops := by
    obtain ⟨d, hd, hrun, -, -⟩ := hV'
    rw [← State.endControl_ops (i := i) hd hrun, Host.Outcome.next.inj (ht.symm.trans hnext)]
  refine ⟨t, c', ht, hc', fun f hf => ?_⟩
  obtain ⟨x, hx, hafter⟩ := hfib f hf
  refine ⟨x, hx, ?_⟩
  split
  · next hs =>
    rw [if_pos hs] at hafter
    obtain ⟨hpc, hv, hp, htok⟩ := hafter
    exact ⟨hpc, hv, hp, htok, htops ▸ hops f hs⟩
  · next hs =>
    rw [if_neg hs] at hafter
    rw [hafter]
    exact ⟨rfl, rfl, rfl, rfl⟩

/-- Settles O36: the four words launch an operation for each selected fibre. -/
theorem continuationWords : Obligations.ContinuationWords := by
  unfold Obligations.ContinuationWords
  rintro w g k a fn b width s i c A B
    (⟨rfl, rfl, rfl, rfl⟩ | ⟨r, ⟨rfl, rfl, rfl⟩ | ⟨rfl, rfl, rfl⟩ | ⟨rfl, rfl, rfl⟩, rfl⟩) hR hcheck hsel
  · exact continuationWord (show exec (.drop g k a) s = execDrop g k a s from rfl) hR hcheck hsel
  · exact continuationWord (show exec (.kstat ⟨g, k, a, r⟩) s = execKstat ⟨g, k, a, r⟩ s from rfl) hR hcheck hsel
  · exact continuationWord (show exec (.kpack ⟨g, k, a, r⟩) s = execKpack ⟨g, k, a, r⟩ s from rfl) hR hcheck hsel
  · exact continuationWord (show exec (.kunpack ⟨g, k, a, r⟩) s = execKunpack ⟨g, k, a, r⟩ s from rfl) hR hcheck hsel

end Sys2Proof.Proofs
end

section
/-! PROOF. RESUME (R339) of a continuation whose destination is V100, in a crew whose budget is 128: the value given to RESUME is written to no
register. No budget of R3 is above 64, but the statement bounds the destination by the budget alone. -/

-- Theorems one after another, not at once: this bounds the memory that a compile of the whole text takes.
set_option Elab.async false

namespace Sys2Proof.Proofs

open Sys2Proof.Machine Sys2Proof.Terms

/-- The fibre that resumes, with the handle in V0 and V1 and a value in V4. -/
def widest : Fibre := { v := [(0, 0x400800), (4, 0x21)], seg := 0x400000, pc := 0x1000, st := .formed 7 }

/-- The group of that fibre. -/
def widestGroup : Group := { fids := [0], pc := 0x1000, fpc := 0x1000, fcycle := 0 }

/-- A running crew of that fibre, whose budget is 128. -/
def widestCrew : Crew :=
  { gang := 1, life := .running, home := some 0, b := 128, n := 1, pasid := 1, fibres := [(0, widest)], groups := [(7, widestGroup)]
    segFrame := ⟨0x400000, 3072⟩, used := [0x400000, 0x400800], records := [0x400800] }

/-- The word RESUME of that group. -/
def widestIssue : Issue :=
  { crew := 1, gid := some 7, grp := widestGroup, core := 0, pc := 0x1000, word := 0, imm := none, mod := {}, modw := 0, strict := false }

/-- The word: the handle in V0 and V1, the value in V4 and V5. -/
def widestHdr : EffHdr := ⟨.all, .v 0, 4⟩

/-- The state before the word: core 0 translates the first gibibyte to itself, and the record at 0x400800 is live, of revision 1 and a budget
of 8, without segments and requests, and has destination 100. -/
def widestState : State :=
  ((({ cur := some widestIssue, crews := [(1, widestCrew)], pasids := [(1, ⟨1, 4, true, 0x400000, 0x400000, 0⟩)], tick := 5
       cores := [(0, { tlb := [⟨1, 0, 2, 0, true, true, true, true, true, 1000⟩] })] } : State).writePa 0x400801 2).writePas
    0x400820 [1, 0, 1]).writePa (0x400820 + 26) 100

/-- The record's place, with the state in which it is found. -/
def widestFound : FrRes (Except Cause (Nat × Nat)) := (acting widestState widestIssue).findCont 1 0x400800

/-- The record's header. -/
def widestHead : ContHead := widestFound.1.contHead 0x400800

/-- The state after the resumption. -/
def widestDone : FrRes Unit := widestFound.1.takeResume 1 0 0x400800 0x400800 widestHead 0x21 0

/-- V100 of the fibre in the state after an outcome. -/
def v100 : Host.Outcome State Fault Refusal → Option Word
  | .next t => (kget (t.crew 1).fibres 0).map fun x => x.getV 100
  | .fault _ | .refused _ => none

theorem widest_ready : Ready widestState widestIssue widestCrew .all :=
  ⟨⟨rfl, rfl, by decide, by decide⟩, rfl, rfl⟩

/-- A search has found a place. -/
def hasFound (v : Nat × Nat) : FrRes (Except Cause (Nat × Nat)) → Bool
  | (_, .ok (.ok w)) => w == v
  | _ => false

theorem eq_of_hasFound {v : Nat × Nat} {r : FrRes (Except Cause (Nat × Nat))} (h : hasFound v r = true) : r = (r.1, .ok (.ok v)) := by
  obtain ⟨u, e | e | w⟩ := r
  · cases h
  · cases h
  · rw [beq_iff_eq.mp h]

theorem eq_of_isOk {r : FrRes Unit} (h : r.2.isOk = true) : r = (r.1, .ok ()) := by
  obtain ⟨u, e | ⟨⟩⟩ := r
  · cases h
  · rfl

theorem widest_found : widestFound = (widestFound.1, .ok (.ok (0x400800, 0x400800))) := eq_of_hasFound (by decide +kernel)

theorem widest_done : widestDone = (widestDone.1, .ok ()) := eq_of_isOk (by decide +kernel)

/-- Refutes O35: the continuation's destination is V100, which the budget of the crew allows; after RESUME of the value 0x21, V100 holds 0. -/
theorem not_resumeWord : ¬ Obligations.ResumeWord := by
  unfold Obligations.ResumeWord
  intro h
  have sel : ((envAt widestState widestIssue).lanes .all).sel = [0] := rfl
  have one : OneByOne (fun a f b => ∃ u va pa, a.findCont 1 0x400800 = (u, .ok (.ok (va, pa))) ∧ u.contHead pa = widestHead ∧
      u.takeResume 1 f va pa widestHead 0x21 0 = (b, .ok ())) [0] (acting widestState widestIssue) widestDone.1 :=
    ⟨_, ⟨_, _, _, widest_found, rfl, widest_done⟩, rfl⟩
  obtain ⟨t, c', ht, hc', hfib⟩ := h widestHdr widestState widestDone.1 widestIssue widestCrew (fun _ => 0x400800) (fun _ => (0x21, 0))
    (fun _ => widestHead) widest_ready rfl (by decide +kernel)
    (fun f hf => by
      rw [show widestHdr.g = .all from rfl, sel, List.mem_singleton] at hf
      subst hf
      have head : widestHead.rev = true ∧ widestHead.budget ≤ 128 ∧ 1 + widestHead.nseg ≤ 256 ∧ widestHead.live = true := by decide +kernel
      obtain ⟨hrev, hbudget, hdepth, hlive⟩ := head
      exact ⟨rfl, rfl, fun k _ => ⟨rfl, rfl⟩, hrev, hbudget, hdepth, hlive⟩)
    (by rw [show widestHdr.g = .all from rfl, sel]; exact one)
  obtain ⟨x, hx, hafter⟩ := hfib 0 (by decide)
  rw [show widestHdr.g = .all from rfl, sel, if_pos (List.mem_singleton.mpr rfl)] at hafter
  obtain ⟨-, -, -, -, hV⟩ := hafter
  have wrote := hV 100 (by decide)
  have dest : widestHead.dest = 100 := by decide +kernel
  rw [if_pos (.inl dest.symm)] at wrote
  have holds : v100 (exec (.resume widestHdr) widestState) = some 0 := by decide +kernel
  rw [ht] at holds
  have read : v100 (.next t) = some (x.getV 100) := by
    rw [v100, State.crew_of_kget (show kget t.crews 1 = some c' from hc'), hx]
    rfl
  rw [read, wrote] at holds
  exact absurd holds (by decide)

end Sys2Proof.Proofs
end

section
/-! PROOF. FAULT without a hinge (R329, R331) where two crews are listed under one number: the end of the gang takes the first away, and the
number stands for the second, a live crew of another gang. The statement asks nothing of the crews' numbers. -/

-- Theorems one after another, not at once: this bounds the memory that a compile of the whole text takes.
set_option Elab.async false

namespace Sys2Proof.Proofs

open Sys2Proof.Machine Sys2Proof.Terms

/-- A running crew of a gang. -/
def runningCrew (gang : Nat) : Crew := { gang := gang, life := .running, home := none }

/-- Two crews under the number 1; the gang of the first has no other crew. -/
def sharedNumber : State := { crews := [(1, runningCrew 1), (1, runningCrew 2)], gangs := [(1, placeGang 1 1)] }

/-- A FAULT that the machine performs. -/
def plainFault : Eff := { label := 0, cause := 0, payload := 0, rpc := 4 }

/-- Refutes O60 at its last clause: after the FAULT of crew 1 the crew under the number 1 is alive. -/
theorem not_effectEntry : ¬ Obligations.EffectEntry := by
  unfold Obligations.EffectEntry
  intro h
  have dead := (h.2 sharedNumber 1 0 plainFault (runningCrew 1) (placeGang 1 1) rfl rfl rfl rfl (by decide) rfl rfl (by decide)).2 1 (by decide)
  have second : kget (sharedNumber.deliver 1 0 plainFault).crews 1 = some (runningCrew 2) := by decide +kernel
  exact absurd (dead _ second) (by decide)

end Sys2Proof.Proofs
end

section
/-! PROOF. Bulk words (R288 to R293, R305, R306): a send that is ready makes its request with its first bytes, a receive is posted, and a query
is in flight. -/

-- Theorems one after another, not at once: this bounds the memory that a compile of the whole text takes.
set_option Elab.async false

namespace Sys2Proof.Machine

open Sys2Proof.Terms

/-! ## Bulk operations in flight -/

/-- The record of a bulk operation put into flight. -/
def bulkRecord (i : Issue) (k : Nat) (kind : OpKind) (bar : Option Nat) (fids : List Nat) : Op :=
  { kind := kind, issuer := i.crew, core := i.core, word := i.word, modw := i.modw, owners := ownersOf i.crew k fids, bar := bar }

/-- The state in which a bulk operation has its record. -/
def State.holdBulk (u : State) (i : Issue) (k : Nat) (kind : OpKind) (bar : Option Nat) (fids : List Nat) : State :=
  { u.fresh.2 with ops := kset u.ops u.nextId (bulkRecord i k kind bar fids) }

theorem Closed.trans {s t u : State} (h : Closed s t) (g : Closed t u) : Closed s u :=
  ⟨by rw [g.eq, h.eq], fun line => (g.shared line).trans (h.shared line)⟩

/-- A bulk operation follows the fences of its fibres (R173, R219), which closes open entries alone. -/
theorem State.bulkOp_closed (u : State) (i : Issue) (k : Nat) (kind : OpKind) (bar : Option Nat) (fids : List Nat) :
    (u.bulkOp i k kind bar fids).1 = u.nextId ∧ Closed (u.holdBulk i k kind bar fids) (u.bulkOp i k kind bar fids).2 := by
  refine ⟨rfl, ?_⟩
  unfold State.bulkOp
  exact (State.synchronise_closed _ _ _ _ _).trans (State.synchronise_closed _ _ _ _ _)

theorem State.bulkOp_launch {u : State} {i : Issue} {d : Crew} (hd : kget u.crews i.crew = some d) (k : Nat) (kind : OpKind) (bar : Option Nat)
    (fids : List Nat) : EngineLaunch u (u.bulkOp i k kind bar fids).2 i d d u.nextId (bulkRecord i k kind bar fids) := by
  have held : EngineLaunch u (u.holdBulk i k kind bar fids) i d d u.nextId (bulkRecord i k kind bar fids) :=
    ⟨hd, rfl, rfl, kget_kset_self .., rfl, rfl, rfl⟩
  exact held.closed (u.bulkOp_closed i k kind bar fids).2

/-- A mark of G registers in strict mode changes neither them nor the fibres. -/
theorem EngineLaunch.markG {u v : State} {i : Issue} {d e : Crew} {id : Nat} {o : Op} (h : EngineLaunch u v i d e id o) (strict : Bool)
    (n : Nat) (regs fids : List Nat) (k : Nat) :
    EngineLaunch u (v.modCrew i.crew fun y => y.markG strict n regs fids k) i d (e.markG strict n regs fids k) id o where
  crew := (kget_kmod_self _ _ _).trans (congrArg _ h.crew)
  fibres := by rw [← h.fibres, Crew.markG]; split <;> rfl
  g := by rw [← h.g, Crew.markG]; split <;> rfl
  op := h.op
  dev := h.dev
  host := h.host
  scratch := h.scratch

/-- A bulk plan names the function it was made for. -/
theorem bulkPlan_fn {s : State} {fn : Nat} {h : EngHdr} {e : Env} {p : BulkPlan} (hp : bulkPlan s fn h e = .ok p) : p.fn = fn := by
  unfold bulkPlan at hp
  dsimp only at hp
  split at hp
  · cases hp
  · split at hp
    · cases hp
    · cases hp
    · split at hp
      · cases hp
      · split at hp
        · cases hp
        · cases hp
          rfl

/-- A bulk word whose operands pass its checks is launched for every fibre of its group. -/
theorem bulkWord_next {fn : Nat} {h : EngHdr} {launch : BulkPlan → List Nat → Issue → State → State} {s : State} {i : Issue} {c : Crew}
    {p : BulkPlan} (hI : Issues s i c) (hcount : CanCount c h.k.val i.grp.fids)
    (hsplit : (envAt s i).splitRead (selRegs h.a 1 ++ blockRegs fn h.c.val) = false) (hplan : bulkPlan s fn h (envAt s i) = .ok p) :
    ∃ d, CrewStep (taken s) ((taken s).countOn i h.k.val i.grp.fids).1 i.crew d ∧ CountedUp c d h.k.val i.grp.fids ∧
      bulkWord fn h launch s =
        .next ((launch p i.grp.fids i ((taken s).countOn i h.k.val i.grp.fids).1).endWord i i.grp.latches false []) := by
  have ⟨hcur, _, hnodup, _⟩ := hI
  have ⟨hne, _⟩ := hcount
  obtain ⟨u, d, hon, step, counted⟩ := countOn_taken hI hnodup hcount
  have env : envOf i (taken s) = envAt s i := rfl
  rw [hon]
  refine ⟨d, step, counted, ?_⟩
  rw [bulkWord, engineWord, withIssue_next hcur]
  simp only [env, hsplit, hplan, hon, List.isEmpty_eq_false_iff.mpr hne, Bool.false_eq_true, if_false]

/-! ## Sends -/

/-- A key above all others goes to the end. -/
theorem kset_of_lt {α : Type} {m : KMap α} {k : Nat} (h : ∀ x ∈ m, x.1 < k) (a : α) : kset m k a = m ++ [(k, a)] := by
  induction m with
  | nil => rfl
  | cons x m ih =>
    have below := h x List.mem_cons_self
    rw [kset, if_neg (Nat.lt_asymm below), if_neg (Nat.ne_of_gt below), ih fun y hy => h y (List.mem_cons_of_mem _ hy)]
    rfl

/-- The last of keys that rise is replaced where it stands. -/
theorem kset_append_last {α : Type} {m : KMap α} {k : Nat} (h : ∀ x ∈ m, x.1 < k) (a b : α) : kset (m ++ [(k, a)]) k b = m ++ [(k, b)] := by
  induction m with
  | nil => simp [kset]
  | cons x m ih =>
    have below := h x List.mem_cons_self
    rw [List.cons_append, kset, if_neg (Nat.lt_asymm below), if_neg (Nat.ne_of_gt below), ih fun y hy => h y (List.mem_cons_of_mem _ hy)]
    rfl

/-- No send of a list is ready to make its request. -/
def NoneReady (s : State) (l : KMap Send) : Prop := ∀ x ∈ l, s.sendReady x.1 x.2 = false

/-- Where no send of the table is ready, none makes its request. -/
theorem State.kickSends_idle {s : State} (h : NoneReady s s.sendTable) (n : Nat) : s.kickSends n = s := by
  have none : kfind s.sendTable (fun id x => s.sendReady id x) = none := List.find?_eq_none.mpr fun x hx => by simp [h x hx]
  cases n with
  | zero => rfl
  | succ n => rw [State.kickSends, none]

/-- A send that has made its request, was refused or paused is not ready. -/
theorem State.sendReady_of_started {s : State} {id : Nat} {x : Send}
    (h : x.requested = true ∨ x.refused.isSome = true ∨ x.paused = true) : s.sendReady id x = false := by
  rcases h with h | h | h
  · simp [State.sendReady, h]
  · simp [State.sendReady, Option.isSome_iff_ne_none.mp h]
  · simp [State.sendReady, h]

/-- The record of a send once its request has left. -/
def Send.asked (x : Send) (sent : Nat) : Send := { x with requested := true, refused := none, sent := max x.sent sent }

/-- The state in which the request of a send has left with its first bytes (R291). -/
def State.askedWith (v : State) (id : Nat) (x : Send) (n : Nat) (bs : List Byte) : State :=
  ({ v with sends := kset v.sends id (x.asked n) }.progress id).tellDest x.id (.request x.id x.len x.pri bs)

/-- What the request of a send leaves: the send's record, its message, and the crews. -/
theorem State.askedWith_frame (v : State) (id : Nat) (x : Send) (n : Nat) (bs : List Byte) :
    (v.askedWith id x n bs).sends = kset v.sends id (x.asked n) ∧ (v.askedWith id x n bs).crews = v.crews ∧
      (v.askedWith id x n bs).linkOut = v.linkOut ++ [(v.chipId x.id.gang x.id.dst, .request x.id x.len x.pri bs)] := by
  unfold State.askedWith State.tellDest
  obtain ⟨ports, h⟩ := State.tellChip_frame ({ v with sends := kset v.sends id (x.asked n) }.progress id)
    (State.chipId ({ v with sends := kset v.sends id (x.asked n) }.progress id) x.id.gang x.id.dst) (.request x.id x.len x.pri bs)
  rw [h]
  exact ⟨rfl, rfl, rfl⟩

/-- The request of a send beside which there is none to the same destination, whose first bytes can be read. -/
theorem State.sendRequest_asked {s v : State} {id : Nat} {x : Send} {bs : List Byte}
    (hother : ∀ y ∈ s.sends, y.1 < id → s.sameSend y.2.id x.id = false)
    (hread : s.engineRead (s.crew x.crew).pasid x.addr (min x.len (grantBytes * s.prefixUnits)) = (v, .ok bs)) :
    s.sendRequest id x = v.askedWith id x (min x.len (grantBytes * s.prefixUnits)) bs := by
  have alone : ¬(s.sendTable.any fun y => decide (y.1 < id) && s.sameSend y.2.id x.id) = true := by
    rw [List.any_eq_true]
    rintro ⟨y, hy, hsame⟩
    obtain ⟨hlt, hsame⟩ := Bool.and_eq_true_iff.mp hsame
    rw [hother y (List.mem_of_mem_take hy) (of_decide_eq_true hlt)] at hsame
    cases hsame
  rw [State.sendRequest, if_neg alone]
  simp only [hread]
  rfl

/-- A new send beside others that have no request to make: its request leaves with its first bytes. -/
theorem State.startSends_new {s v : State} {id : Nat} {x : Send} {l : KMap Send} {bs : List Byte} (hsends : s.sends = l ++ [(id, x)])
    (hl : ∀ y ∈ l, y.1 < id ∧ (y.2.requested = true ∨ y.2.refused.isSome = true ∨ y.2.paused = true) ∧ s.sameSend y.2.id x.id = false)
    (hroom : l.length < bulkTable) (hready : s.sendReady id x = true)
    (hread : s.engineRead (s.crew x.crew).pasid x.addr (min x.len (grantBytes * s.prefixUnits)) = (v, .ok bs)) :
    s.startSends = v.askedWith id x (min x.len (grantBytes * s.prefixUnits)) bs := by
  have started : ∀ (t : State), NoneReady t l := fun t y hy => State.sendReady_of_started (hl y hy).2.1
  have table : s.sendTable = l ++ [(id, x)] := by
    rw [State.sendTable, hsends, List.take_of_length_le]
    simpa using hroom
  have found : kfind s.sendTable (fun id x => s.sendReady id x) = some (id, x) := by
    rw [table, kfind, List.find?_append, List.find?_eq_none.mpr fun y hy => by simp [started s y hy]]
    simp [hready]
  have asked := State.sendRequest_asked (id := id) (fun y hy hlt => by
    rw [hsends] at hy
    rcases List.mem_append.mp hy with hy | hy
    · exact (hl y hy).2.2
    · rw [List.mem_singleton.mp hy] at hlt
      exact absurd hlt (Nat.lt_irrefl _)) hread
  have read := s.engineRead_work (s.crew x.crew).pasid x.addr (min x.len (grantBytes * s.prefixUnits))
  rw [hread] at read
  have after : NoneReady (v.askedWith id x (min x.len (grantBytes * s.prefixUnits)) bs)
      (v.askedWith id x (min x.len (grantBytes * s.prefixUnits)) bs).sendTable := by
    intro y hy
    obtain ⟨hkept, -⟩ := v.askedWith_frame id x (min x.len (grantBytes * s.prefixUnits)) bs
    have hmem := List.mem_of_mem_take hy
    have replaced : kset v.sends id (x.asked (min x.len (grantBytes * s.prefixUnits))) =
        l ++ [(id, x.asked (min x.len (grantBytes * s.prefixUnits)))] := by
      rw [read.sends, hsends, kset_append_last fun y hy => (hl y hy).1]
    rw [hkept, replaced] at hmem
    rcases List.mem_append.mp hmem with hmem | hmem
    · exact started _ y hmem
    · rw [List.mem_singleton.mp hmem]
      exact State.sendReady_of_started (.inl rfl)
  rw [State.startSends, State.kickSends, found]
  simp only [asked]
  exact State.kickSends_idle after _

/-! ## The state in which a BXSEND makes its request -/

section

variable {s : State} {i : Issue} {c d : Crew} {gang : Gang} {k : Nat} {p : BulkPlan}

/-- What the launch of a BXSEND has changed when its request is made: its count, its operation and its record, and open entries. -/
theorem sendState_frame (step : CrewStep (taken s) ((taken s).countOn i k i.grp.fids).1 i.crew d) :
    (sendState s i c gang k p).sends = kset s.sends s.nextId (sendOf s i c gang p) ∧ (sendState s i c gang k p).pages = s.pages ∧
      (sendState s i c gang k p).gangs = s.gangs ∧ (sendState s i c gang k p).sysId = s.sysId ∧
      (sendState s i c gang k p).prefixUnits = s.prefixUnits ∧ kget (sendState s i c gang k p).crews i.crew = some d ∧
      (sendState s i c gang k p).linkOut = s.linkOut := by
  obtain ⟨hu, -, hd⟩ := step
  obtain ⟨-, closed⟩ := ((taken s).countOn i k i.grp.fids).1.bulkOp_closed i k .send p.bar i.grp.fids
  unfold sendState
  rw [closed.eq, State.holdBulk]
  refine ⟨?_, ?_, ?_, ?_, ?_, hd, ?_⟩
  all_goals
    rw [hu]
    rfl

/-- The launch of a BXSEND begins with its record. -/
theorem launchSend_eq (step : CrewStep (taken s) ((taken s).countOn i k i.grp.fids).1 i.crew d) (hgang : d.gang = c.gang)
    (hg : kget s.gangs c.gang = some gang) :
    launchSend k p i.grp.fids i ((taken s).countOn i k i.grp.fids).1 = (sendState s i c gang k p).startSends := by
  obtain ⟨hu, -, hd⟩ := step
  obtain ⟨hid, closed⟩ := ((taken s).countOn i k i.grp.fids).1.bulkOp_closed i k .send p.bar i.grp.fids
  have next : ((taken s).countOn i k i.grp.fids).1.nextId = s.nextId := by rw [hu]; rfl
  have tick : (((taken s).countOn i k i.grp.fids).1.bulkOp i k .send p.bar i.grp.fids).2.tick = s.tick := by
    rw [closed.eq, State.holdBulk, hu]; rfl
  have crew : (((taken s).countOn i k i.grp.fids).1.bulkOp i k .send p.bar i.grp.fids).2.crew i.crew = d :=
    State.crew_of_kget (by rw [closed.eq]; exact hd)
  have gangs : (((taken s).countOn i k i.grp.fids).1.bulkOp i k .send p.bar i.grp.fids).2.gangs = s.gangs := by
    rw [closed.eq, State.holdBulk, hu]; rfl
  unfold launchSend sendState sendOf
  dsimp only
  rw [hid, next, tick, crew, gangs, hgang, hg]
  rfl

end

end Sys2Proof.Machine

namespace Sys2Proof.Proofs

open Sys2Proof.Machine Sys2Proof.Terms

/-! ## BXSEND -/

/-- A BXSEND: its record is made, and the sends start. -/
theorem bxsend_next {h : EngHdr} {s : State} {i : Issue} {c : Crew} {p : BulkPlan} {gang : Gang} (hI : Issues s i c)
    (hcount : CanCount c h.k.val i.grp.fids) (hsplit : (envAt s i).splitRead (selRegs h.a 1 ++ blockRegs 0 h.c.val) = false)
    (hplan : bulkPlan s 0 h (envAt s i) = .ok p) (hg : kget s.gangs c.gang = some gang) :
    ∃ d, CrewStep (taken s) ((taken s).countOn i h.k.val i.grp.fids).1 i.crew d ∧ CountedUp c d h.k.val i.grp.fids ∧
      exec (.bxsend h) s = .next ((sendState s i c gang h.k.val p).startSends.endWord i i.grp.latches false []) := by
  obtain ⟨d, step, counted, hword⟩ := bulkWord_next (launch := launchSend h.k.val) hI hcount hsplit hplan
  have gangs : d.gang = c.gang := by rw [counted.same]
  rw [launchSend_eq step gangs hg] at hword
  have hexec : exec (.bxsend h) s = execBxsend h s := rfl
  exact ⟨d, step, counted, hexec.trans hword⟩

section

variable {h : EngHdr} {s v : State} {i : Issue} {c : Crew} {p : BulkPlan} {gang : Gang} {bs : List Byte} (hI : Issues s i c)
  (hcount : CanCount c h.k.val i.grp.fids) (hsplit : (envAt s i).splitRead (selRegs h.a 1 ++ blockRegs 0 h.c.val) = false)
  (hplan : bulkPlan s 0 h (envAt s i) = .ok p) (hg : kget s.gangs c.gang = some gang)
  (hsends : ∀ x ∈ s.sends, x.1 < s.nextId ∧ (x.2.requested = true ∨ x.2.refused.isSome = true ∨ x.2.paused = true) ∧
    s.sameSend x.2.id (p.msgId c.gang gang.mine) = false)

include hI hcount hsplit hplan hg hsends

/-- A BXSEND that has a send record. -/
theorem bxsend_asks (hpages : ∀ x ∈ s.pages, .op s.nextId ∉ x.2.waiters) (hroom : s.sends.length < 16384)
    (hread : (sendState s i c gang h.k.val p).engineRead c.pasid p.addr (min p.len (16384 * s.prefixUnits)) = (v, .ok bs)) :
    ∃ t c', exec (.bxsend h) s = .next t ∧ kget t.crews i.crew = some c' ∧ Counted i c c' h.k.val i.grp.fids ∧
      kget t.sends s.nextId = some { sendOf s i c gang p with requested := true, sent := min p.len (16384 * s.prefixUnits) } ∧
      (s.chipId c.gang p.chip, .request (p.msgId c.gang gang.mine) p.len p.pri bs) ∈ t.linkOut := by
  obtain ⟨d, step, counted, hexec⟩ := bxsend_next hI hcount hsplit hplan hg
  obtain ⟨sends, pages, gangs, sysId, units, crew, -⟩ := sendState_frame (c := c) (gang := gang) (p := p) step
  have below : ∀ x ∈ s.sends, x.1 < s.nextId := fun x hx => (hsends x hx).1
  rw [kset_of_lt below] at sends
  have chip : ∀ g n, (sendState s i c gang h.k.val p).chipId g n = s.chipId g n := fun g n => by
    rw [State.chipId, State.chipId, gangs, sysId]
  have waits : (sendState s i c gang h.k.val p).pageWaits (.op s.nextId) = false := by
    rw [State.pageWaits, pages, List.any_eq_false]
    exact fun x hx => by simpa using hpages x hx
  have pasid : ((sendState s i c gang h.k.val p).crew i.crew).pasid = c.pasid := by
    rw [State.crew_of_kget crew, counted.same]
  have same : ∀ a b, (sendState s i c gang h.k.val p).sameSend a b = s.sameSend a b := fun a b => by simp only [State.sameSend, chip]
  have started : (sendState s i c gang h.k.val p).startSends =
      v.askedWith s.nextId (sendOf s i c gang p) (min p.len (grantBytes * s.prefixUnits)) bs := by
    rw [← units]
    refine State.startSends_new sends (fun y hy => ⟨below y hy, (hsends y hy).2.1, (same _ _).trans (hsends y hy).2.2⟩) hroom
      (by rw [State.sendReady, waits]; rfl) ?_
    rw [units, show (sendOf s i c gang p).crew = i.crew from rfl, pasid]
    exact hread
  have read : HomeWork (sendState s i c gang h.k.val p) v := by
    have work := (sendState s i c gang h.k.val p).engineRead_work c.pasid p.addr (min p.len (16384 * s.prefixUnits))
    rwa [hread] at work
  have hchip : v.chipId c.gang p.chip = s.chipId c.gang p.chip := by
    rw [← chip, State.chipId, State.chipId, read.eq]
  obtain ⟨hkept, hcrews, hout⟩ := v.askedWith_frame s.nextId (sendOf s i c gang p) (min p.len (grantBytes * s.prefixUnits)) bs
  rw [started] at hexec
  generalize v.askedWith s.nextId (sendOf s i c gang p) (min p.len (grantBytes * s.prefixUnits)) bs = u at hexec hkept hcrews hout
  have hcrew : kget u.crews i.crew = some d := by rw [hcrews, read.crews]; exact crew
  obtain ⟨y, ⟨hstate, -, hy⟩, -, hcounted⟩ := counted.endWord hI.2.2.2 hcrew rfl
  refine ⟨_, y, hexec, hy, hcounted, ?_, ?_⟩
  · rw [hstate]
    change kget u.sends s.nextId = _
    rw [hkept, kget_kset_self]
    exact congrArg (fun n => some { sendOf s i c gang p with requested := true, sent := n }) (Nat.zero_max _)
  · rw [hstate]
    change _ ∈ u.linkOut
    rw [hout, ← hchip]
    exact List.mem_append_right _ (List.mem_singleton.mpr rfl)

/-- A BXSEND that finds every record taken waits. -/
theorem bxsend_waits (hfull : 16384 ≤ s.sends.length) :
    ∃ t c', exec (.bxsend h) s = .next t ∧ kget t.crews i.crew = some c' ∧ Counted i c c' h.k.val i.grp.fids ∧
      kget t.sends s.nextId = some (sendOf s i c gang p) ∧ t.linkOut = s.linkOut := by
  obtain ⟨d, step, counted, hexec⟩ := bxsend_next hI hcount hsplit hplan hg
  obtain ⟨sends, -, -, -, -, crew, hout⟩ := sendState_frame (c := c) (gang := gang) (p := p) step
  have idle : NoneReady (sendState s i c gang h.k.val p) (sendState s i c gang h.k.val p).sendTable := by
    intro y hy
    rw [State.sendTable, sends, kset_of_lt fun x hx => (hsends x hx).1,
      List.take_append_of_le_length (show bulkTable ≤ s.sends.length from hfull)] at hy
    exact State.sendReady_of_started (hsends y (List.mem_of_mem_take hy)).2.1
  rw [State.startSends, State.kickSends_idle idle] at hexec
  obtain ⟨y, ⟨hstate, -, hy⟩, -, hcounted⟩ := counted.endWord hI.2.2.2 crew rfl
  refine ⟨_, y, hexec, hy, hcounted, ?_, ?_⟩
  · rw [hstate]
    change kget (sendState s i c gang h.k.val p).sends s.nextId = _
    rw [sends, kget_kset_self]
  · rw [hstate]
    exact hout

end

/-! ## BXRECV, BXCANCEL and BXSTAT -/

/-- A BXRECV that no message matches is posted. -/
theorem bxrecv_ok {h : EngHdr} {s : State} {i : Issue} {c : Crew} {p : BulkPlan} (hI : Issues s i c) (hcount : CanCount c h.k.val i.grp.fids)
    (hsplit : (envAt s i).splitRead (selRegs h.a 1 ++ blockRegs 1 h.c.val) = false) (hplan : bulkPlan s 1 h (envAt s i) = .ok p)
    (hroom : (s.recvs.filter fun r => r.2.ending.isNone).length < 16384)
    (hmsgs : ∀ m ∈ s.msgs, m.2.recv.isSome = true ∨ ¬ (m.2.id.ep = p.ep ∧ (p.any = true ∨ m.2.id.tag = p.tag))) :
    EngineStep (.bxrecv h) s i c h.k.val i.grp.fids fun t _ id o => o.kind = .recv ∧ o.bar = p.bar ∧
      kget t.recvs id = some { crew := i.crew, ep := p.ep, addr := p.addr, len := p.len, tag := p.tag, any := p.any, record := p.record } := by
  obtain ⟨d, step, counted, hword⟩ := bulkWord_next (launch := launchRecv h.k.val) hI hcount hsplit hplan
  have ⟨hu, _, hd⟩ := step
  generalize ((taken s).countOn i h.k.val i.grp.fids).1 = u at step hword hu hd
  let r : Recv := { crew := i.crew, ep := p.ep, addr := p.addr, len := p.len, tag := p.tag, any := p.any, record := p.record }
  have launch := State.bulkOp_launch (i := i) hd h.k.val .recv p.bar i.grp.fids
  obtain ⟨hid, closed⟩ := u.bulkOp_closed i h.k.val .recv p.bar i.grp.fids
  have recvs : (u.bulkOp i h.k.val .recv p.bar i.grp.fids).2.recvs = s.recvs := by rw [closed.eq, State.holdBulk, hu]; rfl
  have msgs : (u.bulkOp i h.k.val .recv p.bar i.grp.fids).2.msgs = s.msgs := by rw [closed.eq, State.holdBulk, hu]; rfl
  have nomatch_ : kfind s.msgs (fun _ m => m.recv.isNone && r.takes m.id) = none := List.find?_eq_none.mpr fun m hm => by
    rcases hmsgs m hm with hbound | hother
    · simp [Option.isSome_iff_ne_none.mp hbound]
    · intro htakes
      obtain ⟨-, htakes⟩ := Bool.and_eq_true_iff.mp htakes
      obtain ⟨hep, htag⟩ := Bool.and_eq_true_iff.mp htakes
      refine hother ⟨(beq_iff_eq.mp hep).symm, ?_⟩
      rcases Bool.or_eq_true_iff.mp htag with hany | htag
      · exact .inl hany
      · exact .inr (beq_iff_eq.mp htag).symm
  have posted : launchRecv h.k.val p i.grp.fids i u =
      { (u.bulkOp i h.k.val .recv p.bar i.grp.fids).2 with recvs := kset s.recvs u.nextId r } := by
    unfold launchRecv
    dsimp only
    rw [recvs, if_neg (Nat.not_le.mpr (show _ < bulkTable from hroom)), hid, msgs, nomatch_]
  rw [posted] at hword
  have hexec : exec (.bxrecv h) s = execBxrecv h s := rfl
  have launched : EngineLaunch u { (u.bulkOp i h.k.val .recv p.bar i.grp.fids).2 with recvs := kset s.recvs u.nextId r } i d d u.nextId
      (bulkRecord i h.k.val .recv p.bar i.grp.fids) :=
    ⟨launch.crew, launch.fibres, launch.g, launch.op, launch.dev, launch.host, launch.scratch⟩
  refine engineStep_of hI step counted launched rfl rfl rfl (hexec.trans hword) ?_
  intro t y ht _
  refine ⟨rfl, rfl, ?_⟩
  rw [ht]
  exact kget_kset_self _ _ _

/-- BXCANCEL and BXSTAT. -/
theorem bxquery_ok {w : Instr} {fn : Nat} {h : EngHdr} {s : State} {i : Issue} {c : Crew} {p : BulkPlan} {gang : Gang}
    (hexec : exec w s = bulkWord fn h (launchQuery h.k.val h.c.val) s) (hI : Issues s i c) (hcount : CanCount c h.k.val i.grp.fids)
    (hsplit : (envAt s i).splitRead (selRegs h.a 1 ++ blockRegs fn h.c.val) = false) (hplan : bulkPlan s fn h (envAt s i) = .ok p)
    (hg : kget s.gangs c.gang = some gang) :
    EngineStep w s i c h.k.val i.grp.fids fun _ _ _ o => o.bar = p.bar ∧ o.kind = .query
      { stat := fn == fnBxstat, side := p.side, id := p.msgId c.gang gang.mine, any := p.any, k := h.k.val, c := h.c.val } := by
  obtain ⟨d, step, counted, hword⟩ := bulkWord_next (launch := launchQuery h.k.val h.c.val) hI hcount hsplit hplan
  have ⟨hu, _, hd⟩ := step
  generalize ((taken s).countOn i h.k.val i.grp.fids).1 = u at step hword hu hd
  let q : BulkQuery :=
    { stat := fn == fnBxstat, side := p.side, id := p.msgId c.gang gang.mine, any := p.any, k := h.k.val, c := h.c.val }
  have launch := State.bulkOp_launch (i := i) hd h.k.val (.query q) p.bar i.grp.fids
  have crew : u.crew i.crew = d := State.crew_of_kget hd
  have gangs : u.gangs = s.gangs := by rw [hu]; rfl
  have asked : launchQuery h.k.val h.c.val p i.grp.fids i u = ((u.bulkOp i h.k.val (.query q) p.bar i.grp.fids).2).modCrew i.crew fun y =>
      y.markG i.strict u.nextId (if p.fn = fnBxstat then [h.c.val, h.c.val + 1] else [h.c.val]) i.grp.fids h.k.val := by
    unfold launchQuery
    dsimp only
    rw [crew, gangs, show d.gang = c.gang by rw [counted.same], hg, bulkPlan_fn hplan]
    rfl
  rw [asked] at hword
  exact engineStep_of hI step counted (launch.markG _ _ _ _ _) rfl rfl rfl (hexec.trans hword) fun _ _ _ _ => ⟨rfl, rfl⟩

/-- Settles O32: each word launches its operation, and a send that is ready leaves with its first bytes. -/
theorem bulkWords : Obligations.BulkWords := by
  unfold Obligations.BulkWords
  refine ⟨?_, ?_, ?_⟩
  · intro h s v i c p gang bs hI hcount hsplit hplan hg hsends hpages
    exact ⟨bxsend_asks hI hcount hsplit hplan hg hsends hpages, bxsend_waits hI hcount hsplit hplan hg hsends⟩
  · intro h s i c p hI hcount hsplit hplan hroom hmsgs
    exact bxrecv_ok hI hcount hsplit hplan hroom hmsgs
  · rintro w stat h s i c p gang (⟨rfl, rfl⟩ | ⟨rfl, rfl⟩) hI hcount hsplit hplan hg
    · exact bxquery_ok (show exec (.bxcancel h) s = execBxcancel h s from rfl) hI hcount hsplit hplan hg
    · exact bxquery_ok (show exec (.bxstat h) s = execBxstat h s from rfl) hI hcount hsplit hplan hg

end Sys2Proof.Proofs
end

section
/-! PROOF. Messages to and from another chip (R291 to R305): the Wicket's answers to the events of a message, and the events of a send. -/

-- Theorems one after another, not at once: this bounds the memory that a compile of the whole text takes.
set_option Elab.async false

namespace Sys2Proof.Machine

open Sys2Proof.Terms

/-! ## Writes of an engine (R219) -/

/-- From s to t only memories, caches, records of homes, TLBs, links, messages to hosts and the logs of crews have changed. -/
structure MergeWork (s t : State) : Prop where
  eq : t = { s with
    dev := t.dev, host := t.host, poisonDev := t.poisonDev, tags := t.tags, homes := t.homes, holders := t.holders, agents := t.agents
    cores := t.cores, dies := t.dies, xlHorizon := t.xlHorizon, linkOut := t.linkOut, ports := t.ports, hostOut := t.hostOut
    crews := t.crews }

namespace MergeWork

variable {s t u : State}

theorem refl (s : State) : MergeWork s s := ⟨rfl⟩

theorem trans (h : MergeWork s t) (g : MergeWork t u) : MergeWork s u := ⟨by rw [g.eq, h.eq]⟩

theorem ofHome (h : HomeWork s t) : MergeWork s t := ⟨by rw [h.eq]⟩

theorem ops (h : MergeWork s t) : t.ops = s.ops := by rw [h.eq]
theorem msgs (h : MergeWork s t) : t.msgs = s.msgs := by rw [h.eq]
theorem recvs (h : MergeWork s t) : t.recvs = s.recvs := by rw [h.eq]

end MergeWork

theorem State.raceEvent_merge (s : State) (a : Nat) (crew : Option Nat) (line va other : Nat) (l : List Nat) (c : Cause) :
    MergeWork s (s.raceEvent a crew line va other l c) := by
  unfold State.raceEvent
  split
  · exact .refl s
  · split
    · exact ⟨rfl⟩
    · split
      · exact .refl s
      · exact .ofHome (s.tellChip_work _ _)

theorem State.merge_merge (s : State) (a : Nat) (crew : Option Nat) (line va : Nat) (bs : KMap L1Byte) :
    MergeWork s (s.merge a crew line va bs).1 := by
  unfold State.merge
  split
  · exact .refl s
  · split
    · exact .ofHome (s.refuse_work _ _)
    · dsimp only
      refine .trans ?_ (State.raceEvent_merge _ _ _ _ _ _ _ _)
      refine .trans ?_ (State.raceEvent_merge _ _ _ _ _ _ _ _)
      refine .ofHome (.trans ?_ (State.tellMerge_work _ _ _ _))
      refine .trans ?_ (State.modHome_work _ _ _)
      exact (s.proxyRoom_work _).trans (HomeWork.foldl (fun t b => State.applyByte_work t _ _) _ _)

theorem State.tryAll_merge {α : Type} {f : State → α → Tried} (hf : ∀ t x, MergeWork t (f t x).1) (s : State) (l : List α) :
    MergeWork s (s.tryAll l f).1 := by
  have fold : ∀ (l : List α) (r : Tried), MergeWork s r.1 → MergeWork s (l.foldl (fun (r : Tried) x =>
      let u := f r.1 x; (u.1, match r.2 with | some c => some c | none => u.2)) r).1 := by
    intro l
    induction l with
    | nil => exact fun r h => h
    | cons x l ih => exact fun r h => ih _ (h.trans (hf r.1 x))
  exact fold l (s, none) (.refl s)

theorem State.engineWrite_merge (s : State) (a : Nat) (crew : Option Nat) (pa va : Nat) (bs : List Byte) :
    MergeWork s (s.engineWrite a crew pa va bs).1 := State.tryAll_merge (fun t _ => t.merge_merge _ _ _ _ _) s _

theorem State.placePieces_work (pasid : Nat) (l : List (Nat × List Byte)) (s : State) : HomeWork s (s.placePieces pasid l).1 := by
  induction l generalizing s with
  | nil => exact .refl s
  | cons p l ih =>
    have first := s.pagePa_work pasid p.1 true
    unfold State.placePieces
    split
    · next hx => rw [hx] at first; exact first
    · next t pa hx =>
      rw [hx] at first
      have rest := first.trans (ih t)
      split
      · exact first
      · split
        all_goals
          next hy => rw [hy] at rest; exact rest

theorem State.engineWrites_merge (s : State) (a : Nat) (crew : Option Nat) (pasid : Nat) (l : List (Nat × List Byte)) :
    MergeWork s (s.engineWrites a crew pasid l).1 := by
  have placed := State.placePieces_work pasid (l.flatMap fun x => bytePieces (x.2.length / 4096 + 2) x.1 x.2) s
  unfold State.engineWrites
  split
  · next hx => rw [hx] at placed; exact .ofHome placed
  · next t ps hx =>
    rw [hx] at placed
    have written := State.tryAll_merge (f := fun (u : State) (p : Nat × Nat × List Byte) => u.engineWrite a crew p.1 p.2.1 p.2.2)
      (fun (u : State) p => u.engineWrite_merge a crew p.1 p.2.1 p.2.2) t ps
    split
    all_goals
      next hy => rw [hy] at written; exact (MergeWork.ofHome placed).trans written

/-! ## Ranges of bytes -/

/-- Bytes that are all missing are one part of what is missing within their range. -/
theorem rangeIn_single {lo hi : Nat} (h : lo < hi) : rangeIn [(lo, hi)] lo hi = [(lo, hi)] := by simp [rangeIn, h]

theorem rangeOut_single (lo hi : Nat) : rangeOut [(lo, hi)] lo hi = [] := by simp [rangeOut]

/-- What a message becomes when bytes that it misses arrive. -/
def Msg.arrived (m : Msg) (off : Nat) (bytes : List Byte) (grants : KMap Grant) (ign : Nat) : Msg :=
  { m with missing := rangeOut m.missing off (off + bytes.length), u := rangeOut m.u off (off + bytes.length)
           wait := m.wait ++ [(off, bytes)], grants := grants, ign := ign }

/-! ## A message without a receive, and one with more to come -/

variable {s : State} {mid : Nat} {m : Msg}

/-- A message that no receive is bound to has nothing to be written. -/
theorem State.writeWait_unbound (hm : kget s.msgs mid = some m) (hr : m.recv = none) (n : Nat) : s.writeWait mid n = s := by
  cases n with
  | zero => rfl
  | succ n =>
    rw [State.writeWait]
    simp only [hm, hr, Option.bind_none]
    cases m.wait <;> rfl

/-- A message whose bytes are all written stays so. -/
theorem State.writeWait_written (hm : kget s.msgs mid = some m) (hw : m.wait = []) (n : Nat) : s.writeWait mid n = s := by
  cases n with
  | zero => rfl
  | succ n =>
    rw [State.writeWait]
    simp only [hm, hw]

/-- A message is not complete while it is unbound or has bytes to be granted. -/
theorem State.checkComplete_of_open (hm : kget s.msgs mid = some m) (h : m.recv = none ∨ m.u ≠ []) : s.checkComplete mid = s := by
  rw [State.checkComplete]
  simp only [hm]
  rcases h with h | h
  · simp only [h, Option.bind_none]
  · split
    · rfl
    · simp [List.isEmpty_eq_false_iff.mpr h]

theorem State.settleMsg_unbound (hm : kget s.msgs mid = some m) (hr : m.recv = none) : s.settleMsg mid = s := by
  rw [State.settleMsg, State.writeWait_unbound hm hr, State.checkComplete_of_open hm (.inl hr)]

/-- The one part of a bound message that waits is written into its buffer, and the message has more to come. -/
theorem State.settleMsg_one {rid off : Nat} {r : Recv} {bs : List Byte} {v : State} (hm : kget s.msgs mid = some m) (hrid : m.recv = some rid)
    (hr : kget s.recvs rid = some r) (hwait : m.wait = [(off, bs)]) (hpage : s.pageWaits (.op rid) = false) (hbs : bs ≠ [])
    (hlen : bs.length ≤ r.len - off) (hu : m.u ≠ [])
    (hwrite : s.engineWrites (bulkAgent (ioOf m.port)) (some r.crew) (s.crew r.crew).pasid [(r.addr + off, bs)] = (v, .ok ())) :
    s.settleMsg mid = (v.progress rid).modMsg mid fun x => { x with wait := [] } := by
  have work := s.engineWrites_merge (bulkAgent (ioOf m.port)) (some r.crew) (s.crew r.crew).pasid [(r.addr + off, bs)]
  rw [hwrite] at work
  have after : kget ((v.progress rid).modMsg mid fun x => { x with wait := [] }).msgs mid = some { m with wait := [] } := by
    change kget (kmod v.msgs mid fun x => { x with wait := [] }) mid = _
    rw [kget_kmod_self, work.msgs, hm]
    rfl
  have fuel : ((((kget s.msgs mid).map fun m => m.wait.length).getD 0) + 1) = 2 := by simp [hm, hwait]
  have written : s.writeWait mid 2 = (v.progress rid).modMsg mid fun x => { x with wait := [] } := by
    rw [State.writeWait]
    simp only [hm, hwait, hrid, hr, Option.bind_some, Option.map_some, hpage, Bool.false_eq_true, if_false,
      List.take_of_length_le hlen, List.isEmpty_eq_false_iff.mpr hbs, hwrite]
    exact State.writeWait_written after rfl 1
  rw [State.settleMsg, fuel, written]
  exact State.checkComplete_of_open after (.inr hu)

/-! ## Grants -/

/-- Grants of a message that expire leave their bytes in U. -/
theorem Msg.expire_fold (l : KMap Grant) (m : Msg) :
    ∃ u, l.foldl (fun (x : Msg) g => x.expire g.1 g.2) m = { m with grants := l.foldl (fun gs g => kdel gs g.1) m.grants, u := u } := by
  induction l generalizing m with
  | nil => exact ⟨m.u, rfl⟩
  | cons g l ih =>
    obtain ⟨u, hu⟩ := ih (m.expire g.1 g.2)
    exact ⟨u, hu⟩

/-- Keys taken out of a map, one after another. -/
theorem kget_kdel_fold {α β : Type} (l : KMap β) (m : KMap α) (k : Nat) :
    kget (l.foldl (fun gs g => kdel gs g.1) m) k = if k ∈ kkeys l then none else kget m k := by
  induction l generalizing m with
  | nil => rfl
  | cons g l ih =>
    rw [List.foldl_cons, ih]
    by_cases hk : k = g.1
    · rw [hk, kget_kdel_self, if_pos (show g.1 ∈ kkeys (g :: l) from List.mem_cons_self), ite_self]
    · have same : k ∈ kkeys (g :: l) ↔ k ∈ kkeys l := by
        rw [kkeys, List.map_cons, List.mem_cons]
        exact or_iff_right hk
      simp only [kget_kdel_ne _ hk, same]

end Sys2Proof.Machine

namespace Sys2Proof.Proofs

open Sys2Proof.Machine Sys2Proof.Terms

/-! ## The events of a message at its receiver -/

/-- A change that sends nothing to a host waits for none. -/
theorem exec_of_quiet {e : Instr} {s t : State} (h : exec e s = .next (s.orSnoop t)) (hout : t.hostOut = s.hostOut) :
    exec e s = .next t := h.trans (congrArg _ (State.orSnoop_of_noSnoop (noSnoop_of_hostOut hout)))

theorem bulkRequest_exec (id : MsgId) (len pri port : Nat) (bytes : List Byte) (s : State) (hpeer : s.peerGang id.gang id.src = true)
    (hdst : s.chipId id.gang id.dst = s.sysId) (hup : (kgetD s.ports port {}).up = true) :
    exec (.bulkRequest id len pri port bytes) s = .next (s.orSnoop (s.wicketRequest id len pri port bytes)) := by
  change execBulkRequest id len pri port bytes s = _
  simp [execBulkRequest, hpeer, hdst, hup]

theorem tellChip_noSnoop (s : State) (chip : Nat) (m : LinkMsg) : NoSnoop s (s.tellChip chip m) := by
  obtain ⟨ports, h⟩ := s.tellChip_frame chip m
  exact noSnoop_of_hostOut (by rw [h])

/-- A request that is new and of a right length. -/
theorem wicketRequest_new {s : State} {id : MsgId} {len : Nat} {bytes : List Byte} (hnew : ∀ m ∈ s.msgs, m.2.id ≠ id) (hlen : 0 < len)
    (hbytes : bytes.length ≤ len) : ¬((kfind s.msgs fun _ m => m.id == id).isSome || len == 0 || decide (len < bytes.length)) = true := by
  have none : kfind s.msgs (fun _ m => m.id == id) = none := List.find?_eq_none.mpr fun m hm => by simpa using hnew m hm
  simp [none, Nat.ne_of_gt hlen, hbytes]

/-- A request that finds the Wicket's table full is refused. -/
theorem bulkRequest_full {s : State} {id : MsgId} {len pri port : Nat} {bytes : List Byte}
    (hexec : exec (.bulkRequest id len pri port bytes) s = .next (s.orSnoop (s.wicketRequest id len pri port bytes)))
    (hnew : ∀ m ∈ s.msgs, m.2.id ≠ id) (hlen : 0 < len) (hbytes : bytes.length ≤ len) (hfull : 16384 ≤ s.msgs.length) :
    exec (.bulkRequest id len pri port bytes) s = .next (s.tellChip (s.chipId id.gang id.src) (.refuse id)) := by
  rw [hexec, State.wicketRequest, if_neg (wicketRequest_new hnew hlen hbytes), if_pos (show bulkTable ≤ s.msgs.length from hfull)]
  exact congrArg _ (State.orSnoop_of_noSnoop (tellChip_noSnoop _ _ _))

/-- A request that no receive takes is kept with its first bytes. -/
theorem bulkRequest_entered {s : State} {id : MsgId} {len pri port : Nat} {bytes : List Byte} (hpeer : s.peerGang id.gang id.src = true)
    (hexec : exec (.bulkRequest id len pri port bytes) s = .next (s.orSnoop (s.wicketRequest id len pri port bytes)))
    (hnew : ∀ m ∈ s.msgs, m.2.id ≠ id) (hlen : 0 < len) (hbytes : bytes.length ≤ len) (hroom : s.msgs.length < 16384)
    (hrecvs : ∀ r ∈ s.recvs, r.2.bound = none → r.2.ending = none → ¬(r.2.ep = id.ep ∧ (r.2.any = true ∨ r.2.tag = id.tag)))
    (hstore : s.stored + bytes.length ≤ 67108864) :
    exec (.bulkRequest id len pri port bytes) s = .next { s with
      nextId := s.nextId + 1
      msgs := kset s.msgs s.nextId
        { id := id, len := len, pri := pri, port := port, pre := bytes.length, recv := none, u := rangeOf bytes.length len
          missing := rangeOf bytes.length len, wait := if bytes.length = 0 then [] else [(0, bytes)], since := s.tick
          state := .unmatched } } := by
  have dest : kfind s.recvs (fun _ r => r.free && r.takes id) = none := List.find?_eq_none.mpr fun r hr => by
    intro htakes
    obtain ⟨hfree, htakes⟩ := Bool.and_eq_true_iff.mp htakes
    obtain ⟨hbound, hending⟩ := Bool.and_eq_true_iff.mp hfree
    obtain ⟨hep, htag⟩ := Bool.and_eq_true_iff.mp htakes
    refine hrecvs r hr (Option.isNone_iff_eq_none.mp hbound) (Option.isNone_iff_eq_none.mp hending) ⟨beq_iff_eq.mp hep, ?_⟩
    simpa using htag
  have away : ¬(s.chipId id.gang id.src = s.sysId ∧ s.chipId id.gang id.dst = s.sysId) := fun h => by
    obtain ⟨-, hpeer⟩ := Bool.and_eq_true_iff.mp hpeer
    simp [h.1] at hpeer
  have fits : ¬67108864 < s.stored + bytes.length := Nat.not_lt.mpr hstore
  have entered : ¬bulkTable ≤ s.msgs.length := Nat.not_le.mpr hroom
  rw [hexec, State.wicketRequest, if_neg (wicketRequest_new hnew hlen hbytes), if_neg entered]
  simp only [dest, Option.isNone_none, storeBytes64, fits, decide_false, Bool.and_false, Bool.false_eq_true, if_false, if_neg away]
  exact congrArg _ (State.orSnoop_of_noSnoop (noSnoop_of_hostOut rfl))

/-- A grant to the one eligible message of a port. -/
theorem grantIssue_ok {s : State} {port mid lo hi rid : Nat} {rest : List (Nat × Nat)} {m : Msg} {r : Recv}
    (hone : s.eligible port = [(mid, m)]) (hroom : s.windowRoom port = true) (hu : m.u = (lo, hi) :: rest) (hrid : m.recv = some rid)
    (hr : kget s.recvs rid = some r) (hpages : s.pagesReady (s.crew r.crew).pasid (r.addr + lo) (min 16384 (hi - lo)) = none) :
    Becomes (.grantIssue port) s fun t => t.bxGrants = s.bxGrants + 1 ∧
      t.linkOut = s.linkOut ++ [(s.chipId m.id.gang m.id.src, .grant m.id ⟨lo, min 16384 (hi - lo), m.epoch⟩)] ∧
      ∃ x, kget t.msgs mid = some x ∧ x.u = rangeOut m.u lo (lo + min 16384 (hi - lo)) ∧ x.missing = m.missing ∧
        (kget x.grants s.nextId).map (fun g => (g.off, g.size, g.epoch, g.issued, g.begun)) =
          some (lo, min 16384 (hi - lo), m.epoch, s.tick, false) := by
  have granted : s.wicketGrant port = s.giveGrant mid m lo (min 16384 (hi - lo)) := by
    rw [State.wicketGrant]
    simp only [hone, hroom, Bool.not_true, Bool.false_eq_true, if_false, List.foldl_nil, hu, hrid, hr, Option.bind_some, Option.map_some,
      grantBytes, hpages]
  obtain ⟨u, hgive, hcount, hout, hmsgs⟩ : ∃ u : State,
      s.giveGrant mid m lo (min 16384 (hi - lo)) =
        u.tellChip (s.chipId m.id.gang m.id.src) (.grant m.id ⟨lo, min 16384 (hi - lo), m.epoch⟩) ∧
      u.bxGrants = s.bxGrants + 1 ∧ u.linkOut = s.linkOut ∧ u.msgs = kset s.msgs mid { m with
        u := rangeOut m.u lo (lo + min 16384 (hi - lo))
        grants := kset m.grants s.nextId
          ⟨lo, min 16384 (hi - lo), m.epoch, s.tick, false, rangeOf lo (lo + min 16384 (hi - lo))⟩
        since := s.tick
        state := if (rangeOut m.u lo (lo + min 16384 (hi - lo))).isEmpty then .flight else .ready } := ⟨_, rfl, rfl, rfl, rfl⟩
  obtain ⟨ports, htold⟩ := u.tellChip_frame (s.chipId m.id.gang m.id.src) (.grant m.id ⟨lo, min 16384 (hi - lo), m.epoch⟩)
  rw [htold] at hgive
  refine ⟨_, show execGrantIssue port s = _ from congrArg Host.Outcome.next (granted.trans hgive), hcount, ?_, _,
    (congrArg (kget · mid) hmsgs).trans (kget_kset_self ..), rfl, rfl, ?_⟩
  · exact congrArg (· ++ _) hout
  · rw [kget_kset_self]; rfl

/-- Data that a message misses, and no other, is kept, and settled. -/
theorem wicketData_missing {s : State} {id : MsgId} {off mid : Nat} {bytes : List Byte} {m : Msg} (hid : s.msgOf id = some (mid, m))
    (hm : kget s.msgs mid = some m) (hmiss : rangeIn m.missing off (off + bytes.length) = [(off, off + bytes.length)]) :
    s.wicketData id off m.epoch bytes = ({ s with msgs := kset s.msgs mid (m.arrived off bytes
      ((kmap m.grants fun _ g => if !(rangeIn g.left off (off + bytes.length)).isEmpty then
          { g with begun := true, left := rangeOut g.left off (off + bytes.length) } else g).filter fun g => !g.2.left.isEmpty)
      (if m.grants.any fun g => !(rangeIn g.2.left off (off + bytes.length)).isEmpty && !g.2.begun then 0 else m.ign)) } : State).settleMsg
        mid := by
  rw [State.wicketData]
  simp only [hid, ne_eq, not_true_eq_false, if_false, hmiss, List.isEmpty_cons, Bool.false_eq_true, List.map_cons, List.map_nil,
    Nat.sub_self, List.drop_zero, Nat.add_sub_cancel_left, List.take_length, State.modMsg, kmod, hm]
  rfl

theorem bulkData_exec {s : State} {id : MsgId} (hpeer : s.peerGang id.gang id.src = true) (off epoch : Nat) (bytes : List Byte) :
    exec (.bulkData id off epoch bytes) s = .next (s.orSnoop (s.wicketData id off epoch bytes)) := by
  change execBulkData id off epoch bytes s = _
  simp [execBulkData, hpeer]

section

variable {s : State} {id : MsgId} {off mid : Nat} {bytes : List Byte} {m : Msg} (hpeer : s.peerGang id.gang id.src = true)
  (hid : s.msgOf id = some (mid, m)) (hm : kget s.msgs mid = some m)
  (hmiss : rangeIn m.missing off (off + bytes.length) = [(off, off + bytes.length)])

include hpeer hid

/-- Data of another epoch is discarded. -/
theorem bulkData_stale {epoch : Nat} (hepoch : epoch ≠ m.epoch) : exec (.bulkData id off epoch bytes) s = .next s := by
  have same : s.wicketData id off epoch bytes = s := by
    rw [State.wicketData]
    simp only [hid, ne_eq, hepoch, not_false_eq_true, if_true]
  rw [bulkData_exec hpeer, same, State.orSnoop_of_noSnoop (noSnoop_of_hostOut rfl)]

include hm hmiss

/-- Data of a message that no receive is bound to is kept. -/
theorem bulkData_kept (hr : m.recv = none) :
    Becomes (.bulkData id off m.epoch bytes) s fun t => t = { s with msgs := t.msgs } ∧ ∃ x, kget t.msgs mid = some x ∧
      x.wait = m.wait ++ [(off, bytes)] ∧ x.missing = rangeOut m.missing off (off + bytes.length) ∧
      x.u = rangeOut m.u off (off + bytes.length) := by
  have data := wicketData_missing hid hm hmiss
  rw [State.settleMsg_unbound (kget_kset_self _ _ _) (by exact hr)] at data
  have hexec := bulkData_exec hpeer off m.epoch bytes
  rw [data] at hexec
  exact ⟨_, exec_of_quiet hexec rfl, rfl, _, kget_kset_self _ _ _, rfl, rfl, rfl⟩

/-- Data of a message with one grant, all of whose bytes it brings, is written into the buffer. -/
theorem bulkData_written {rid gid : Nat} {g : Grant} {r : Recv} {v : State} {x : Msg} (hbytes : bytes ≠ []) (hrid : m.recv = some rid)
    (hr : kget s.recvs rid = some r) (hwait : m.wait = []) (hpage : s.pageWaits (.op rid) = false) (hlen : bytes.length ≤ r.len - off)
    (hgrants : m.grants = [(gid, g)]) (hleft : g.left = [(off, off + bytes.length)]) (hu : rangeOut m.u off (off + bytes.length) ≠ [])
    (hx : x = m.arrived off bytes [] (if g.begun then m.ign else 0))
    (hwrite : ({ s with msgs := kset s.msgs mid x } : State).engineWrites (bulkAgent (ioOf m.port)) (some r.crew) (s.crew r.crew).pasid
      [(r.addr + off, bytes)] = (v, .ok ()))
    (hsnoop : NoSnoop s v) :
    Becomes (.bulkData id off m.epoch bytes) s fun t => t = { v with msgs := t.msgs, ops := t.ops } ∧
      kget t.msgs mid = some { x with wait := [] } := by
  have some_ : off < off + bytes.length := by have := List.length_pos_iff.mpr hbytes; omega
  have grants : ((kmap m.grants fun _ g => if !(rangeIn g.left off (off + bytes.length)).isEmpty then
      { g with begun := true, left := rangeOut g.left off (off + bytes.length) } else g).filter fun g => !g.2.left.isEmpty) = [] := by
    simp [hgrants, kmap, hleft, rangeIn_single some_, rangeOut_single]
  have ign : (if m.grants.any fun g => !(rangeIn g.2.left off (off + bytes.length)).isEmpty && !g.2.begun then 0 else m.ign) =
      if g.begun then m.ign else 0 := by
    cases hb : g.begun <;> simp [hgrants, hleft, rangeIn_single some_, hb]
  have data := wicketData_missing hid hm hmiss
  have hxwait : x.wait = [(off, bytes)] := by rw [hx, Msg.arrived, hwait]; rfl
  have hxrecv : x.recv = some rid := by rw [hx, Msg.arrived, hrid]
  have hxu : x.u ≠ [] := by rw [hx]; exact hu
  have hxport : x.port = m.port := by rw [hx]; rfl
  rw [grants, ign, ← hx] at data
  rw [← hxport] at hwrite
  have settled := State.settleMsg_one (s := { s with msgs := kset s.msgs mid x }) (kget_kset_self _ _ _) hxrecv hr hxwait hpage hbytes hlen hxu
    hwrite
  have work := State.engineWrites_merge { s with msgs := kset s.msgs mid x } (bulkAgent (ioOf x.port)) (some r.crew) (s.crew r.crew).pasid
    [(r.addr + off, bytes)]
  rw [hwrite] at work
  have quiet : NoSnoop s ((v.progress rid).modMsg mid fun x => { x with wait := [] }) := (newSnoops_congr rfl).trans hsnoop
  refine ⟨(v.progress rid).modMsg mid fun x => { x with wait := [] }, ?_, rfl, ?_⟩
  · rw [bulkData_exec hpeer, data, settled, State.orSnoop_of_noSnoop quiet]
  · change kget (kmod v.msgs mid fun x => { x with wait := [] }) mid = _
    rw [kget_kmod_self, work.msgs, kget_kset_self]
    rfl

end

/-- A grant that is not begun expires. -/
theorem grantExpiry_ok {s : State} {mid gid : Nat} {m : Msg} {g : Grant} (hm : kget s.msgs mid = some m) (hg : kget m.grants gid = some g)
    (hbegun : g.begun = false) (hold : g.issued + 40000 < s.tick) (hstate : m.state = .ready) (hign : m.ign + 1 < 4) :
    exec (.grantExpiry mid gid) s = .next { s with
      msgs := kset s.msgs mid { m with grants := kdel m.grants gid, u := rangeAdds m.u g.left, ign := m.ign + 1 }
      bxExpired := s.bxExpired + 1 } := by
  change execGrantExpiry mid gid s = _
  rw [execGrantExpiry, State.wicketExpiry]
  simp only [hm, hg, hbegun, Nat.not_le.mpr hold, hstate, Msg.expire, Nat.not_le.mpr hign, decide_false]
  simp

/-- A pause: the grants that are not begun expire. -/
theorem pause_ok {s : State} {id : MsgId} {mid : Nat} {m : Msg} (hpeer : s.peerGang id.gang id.src = true)
    (hid : s.msgOf id = some (mid, m)) (hstate : m.state ≠ .paused) (hrising : Rising m.grants) :
    Becomes (.pause id) s fun t => t = { s with msgs := t.msgs, bxExpired := t.bxExpired } ∧
      ∃ x, kget t.msgs mid = some x ∧ x.state = .paused ∧ x.ign = 0 ∧ x.epoch = m.epoch ∧ x.missing = m.missing ∧
        ∀ g, kget x.grants g = (kget m.grants g).filter fun y => y.begun := by
  obtain ⟨u, hgone⟩ := Msg.expire_fold (m.grants.filter fun g => !g.2.begun) m
  have exec_pause : exec (.pause id) s = .next (s.wicketPause id) := by
    change execPause id s = _
    simp [execPause, hpeer]
  rw [State.wicketPause] at exec_pause
  simp only [hid, beq_iff_eq, hstate, if_false, hgone] at exec_pause
  refine ⟨_, exec_pause, rfl, _, kget_kset_self _ _ _, rfl, rfl, rfl, rfl, fun k => ?_⟩
  change kget ((m.grants.filter fun g => !g.2.begun).foldl (fun gs g => kdel gs g.1) m.grants) k = _
  rw [kget_kdel_fold]
  have gone : k ∈ kkeys (m.grants.filter fun g => !g.2.begun) ↔ ∃ y, kget m.grants k = some y ∧ y.begun = false := by
    constructor
    · intro hk
      obtain ⟨⟨j, y⟩, hy, rfl⟩ := List.mem_map.mp hk
      obtain ⟨hy, hbegun⟩ := List.mem_filter.mp hy
      exact ⟨y, kget_of_rising hrising hy, by simpa using hbegun⟩
    · rintro ⟨y, hy, hbegun⟩
      exact List.mem_map.mpr ⟨(k, y), List.mem_filter.mpr ⟨mem_of_kget hy, by simp [hbegun]⟩, rfl⟩
  cases hk : kget m.grants k with
  | none => simp
  | some y => cases hy : y.begun <;> simp [gone, hk, hy, Option.filter]

/-- A resume of a paused message that has more to come. -/
theorem bulkResume_ok {s : State} {id : MsgId} {mid off : Nat} {m : Msg} (hpeer : s.peerGang id.gang id.src = true)
    (hid : s.msgOf id = some (mid, m)) (hstate : m.state = .paused) (hmore : m.recv = none ∨ rangeIn m.missing off m.len ≠ []) :
    exec (.bulkResume id off) s = .next { s with
      msgs := kset s.msgs mid { m with u := rangeIn m.missing off m.len, epoch := m.epoch + 1, since := s.tick
                                       state := if m.recv.isSome then .ready else .unmatched } } := by
  change execBulkResume id off s = _
  rw [execBulkResume, if_pos hpeer, State.wicketResume]
  simp only [hid, hstate, bne_self_eq_false, Bool.false_eq_true, if_false]
  exact congrArg _ (State.checkComplete_of_open (kget_kset_self _ _ _) hmore)

/-- A message without a path to its source leaves, and its source is told. -/
theorem sourcePathLoss_ok {s : State} {mid : Nat} {m : Msg} (hm : kget s.msgs mid = some m)
    (hpeer : s.peerGang m.id.gang m.id.src = true) (hgone : s.pathGone (s.chipId m.id.gang m.id.src) = true) (hr : m.recv = none) :
    Becomes (.sourcePathLoss mid) s fun t => t.msgs = kdel s.msgs mid ∧ t.bxOrphaned = s.bxOrphaned + 1 ∧
      t.linkOut = s.linkOut ++ [(s.chipId m.id.gang m.id.src, .orphaned m.id)] ∧ t.recvs = s.recvs ∧ t.crews = s.crews := by
  have ended : s.endMsg mid stOrphaned true = ({ s with msgs := kdel s.msgs mid, bxOrphaned := s.bxOrphaned + 1 } : State).tellChip
      (s.chipId m.id.gang m.id.src) (.orphaned m.id) := by
    rw [State.endMsg]
    simp only [hm, hr, Option.bind_none]
    rfl
  obtain ⟨ports, htold⟩ := State.tellChip_frame { s with msgs := kdel s.msgs mid, bxOrphaned := s.bxOrphaned + 1 }
    (s.chipId m.id.gang m.id.src) (.orphaned m.id)
  rw [htold] at ended
  have hexec : exec (.sourcePathLoss mid) s = .next (s.orSnoop (s.endMsg mid stOrphaned true)) := by
    change execSourcePathLoss mid s = _
    rw [execSourcePathLoss]
    simp only [hm, hpeer, hgone, Bool.and_self, if_true]
  rw [ended] at hexec
  exact ⟨_, exec_of_quiet hexec rfl, rfl, rfl, rfl, rfl, rfl⟩

/-- Settles O48: each event of a message changes the message alone, and writes of an engine leave the Wicket as it is. -/
theorem wicketEvents : Obligations.WicketEvents := by
  unfold Obligations.WicketEvents
  refine ⟨?_, ?_, ?_, ?_, ?_, ?_⟩
  · intro s id len pri port bytes hpeer hdst hup hnew hlen hbytes
    have hexec := bulkRequest_exec id len pri port bytes s hpeer hdst hup
    exact ⟨bulkRequest_full hexec hnew hlen hbytes, fun hroom hrecvs hstore =>
      bulkRequest_entered hpeer hexec hnew hlen hbytes hroom hrecvs hstore⟩
  · intro s port mid lo hi rid rest m r hone hroom hu hrid hr hpages
    exact grantIssue_ok hone hroom hu hrid hr hpages
  · intro s id off mid bytes m hpeer hid hm hbytes hmiss
    refine ⟨fun epoch => bulkData_stale hpeer hid, bulkData_kept hpeer hid hm hmiss, ?_⟩
    intro rid gid g r v hrid hr hwait hpage hlen hgrants hleft hu x hwrite hsnoop
    have hx : x = m.arrived off bytes [] (if g.begun then m.ign else 0) := by rw [Msg.arrived, hwait]; rfl
    exact bulkData_written hpeer hid hm hmiss hbytes hrid hr hwait hpage hlen hgrants hleft hu hx hwrite hsnoop
  · intro s mid gid m g hm hg hbegun hold hstate hign
    exact grantExpiry_ok hm hg hbegun hold hstate hign
  · intro s id mid off m hpeer hid
    exact ⟨pause_ok hpeer hid, bulkResume_ok hpeer hid⟩
  · intro s mid m hm hpeer hgone hr
    exact sourcePathLoss_ok hm hpeer hgone hr

end Sys2Proof.Proofs
end

section
/-! PROOF. The sender's side of a message to another chip (R291, R292, R294, R299, R304, R305): the one send of a chip asks again, answers a
grant, and ends. -/

-- Theorems one after another, not at once: this bounds the memory that a compile of the whole text takes.
set_option Elab.async false

namespace Sys2Proof.Machine

open Sys2Proof.Terms

/-! ## Bytes of a send, sent to its receiver -/

/-- The state in which a grant of a send has been answered with its bytes (R291). -/
def State.servedWith (v : State) (id : Nat) (x : Send) (r : GrantRange) (bs : List Byte) : State :=
  ({ v with sends := kset v.sends id { x with grants := x.grants.drop 1, sent := max x.sent (r.off + r.size) } }.progress id).tellDest x.id
    (.data x.id r.off r.epoch bs)

theorem State.servedWith_frame (v : State) (id : Nat) (x : Send) (r : GrantRange) (bs : List Byte) :
    (v.servedWith id x r bs).sends = kset v.sends id { x with grants := x.grants.drop 1, sent := max x.sent (r.off + r.size) } ∧
      (v.servedWith id x r bs).crews = v.crews ∧
      (v.servedWith id x r bs).linkOut = v.linkOut ++ [(v.chipId x.id.gang x.id.dst, .data x.id r.off r.epoch bs)] := by
  obtain ⟨u, htold, hsends, hcrews, hout, hchip⟩ : ∃ u : State,
      v.servedWith id x r bs = u.tellChip (v.chipId x.id.gang x.id.dst) (.data x.id r.off r.epoch bs) ∧
      u.sends = kset v.sends id { x with grants := x.grants.drop 1, sent := max x.sent (r.off + r.size) } ∧ u.crews = v.crews ∧
      u.linkOut = v.linkOut ∧ u.sysId = v.sysId := ⟨_, rfl, rfl, rfl, rfl, rfl⟩
  obtain ⟨ports, h⟩ := u.tellChip_frame (v.chipId x.id.gang x.id.dst) (.data x.id r.off r.epoch bs)
  rw [htold, h]
  exact ⟨hsends, hcrews, congrArg (· ++ _) hout⟩

/-- A send with one grant serves it, where its bytes can be read. -/
theorem State.serveGrants_one {t u : State} {id : Nat} {x : Send} {r : GrantRange} {bs : List Byte} (hx : kget t.sends id = some x)
    (hpaused : x.paused = false) (hpage : t.pageWaits (.op id) = false) (hgrants : x.grants = [r])
    (hread : t.engineRead (t.crew x.crew).pasid (x.addr + r.off) r.size = (u, .ok bs)) :
    t.serveGrants id 1 = u.servedWith id x r bs := by
  rw [State.serveGrants]
  simp only [hx, hpaused, hpage, Bool.or_self, Bool.false_eq_true, if_false, hgrants, State.serveGrants, State.serveGrant, hread]
  rw [State.servedWith, hgrants, hpaused]

/-- Where the one send of a chip has nothing to ask, no send does. -/
theorem State.startSends_of_one {t : State} {id : Nat} {x : Send} (hsends : t.sends = [(id, x)])
    (hx : x.requested = true ∨ x.refused.isSome = true ∨ x.paused = true) : t.startSends = t := by
  refine State.kickSends_idle (fun y hy => ?_) _
  rw [State.sendTable, hsends] at hy
  rw [List.mem_singleton.mp (List.mem_of_mem_take hy)]
  exact State.sendReady_of_started hx

theorem State.startSends_of_none {t : State} (hsends : t.sends = []) : t.startSends = t :=
  State.kickSends_idle (fun y hy => by rw [State.sendTable, hsends] at hy; cases List.mem_of_mem_take hy) _

/-! ## The end of a send -/

/-- Any change of home data is a new start of the end of a send. -/
theorem State.chipId_of_home {s t : State} (h : HomeWork s t) (gang n : Nat) : t.chipId gang n = s.chipId gang n := by
  rw [State.chipId, State.chipId, h.eq]

/-- The one send of a chip ends: its token falls and holds the cause. -/
theorem State.closeSend_one {s : State} {id crew fid k : Nat} {x : Send} {o : Op} {c : Crew} {f : Fibre} (hsends : s.sends = [(id, x)])
    (hcancels : x.cancels = []) (hop : kget s.ops id = some o) (howners : o.owners = [.fibre crew fid k]) (hissuer : o.issuer = crew)
    (hbar : o.bar = none) (hlife : c.life = .running) (hawake : Awake s crew fid c f) (cause : Option Cause) :
    ∃ (t : State) (eng : List RelTag), s.closeSend id cause = t.bump.modFibre crew fid (fun f => f.counted k cause eng) ∧ t.sends = [] ∧
      kget t.ops id = none ∧
      t.crews = s.crews ∧ t.dev = s.dev ∧ t.host = s.host ∧ t.scratch = s.scratch := by
  have gone : kdel s.sends id = [] := by rw [hsends]; simp [kdel]
  have hx : kget s.sends id = some x := by rw [hsends]; exact if_pos rfl
  have finish : ∀ (t : State) (eng : List RelTag), t.sends = [] → t.ops = s.ops → t.crews = s.crews →
      t.finishBulk id cause eng none = ({ t with ops := kdel t.ops id } : State).bump.modFibre crew fid fun f => f.counted k cause eng := by
    intro t eng _ hops hcrews
    have home : (t.crew o.issuer).away = false := by
      rw [hissuer, State.crew_of_kget (by rw [hcrews]; exact hawake.1), Crew.away, hlife]; rfl
    rw [State.finishBulk]
    simp only [hops, hop, home, Bool.false_eq_true, if_false, hbar, State.arriveOp_none]
    refine State.completeAll_awake (c := c) (f := f) ?_ howners cause eng
    obtain ⟨hc, hrest⟩ := hawake
    exact ⟨hcrews ▸ hc, hrest⟩
  have ended : ∃ (t : State) (eng : List RelTag), s.endSend id cause = t.finishBulk id cause eng none ∧ t.sends = [] ∧ t.ops = s.ops ∧
      t.crews = s.crews ∧ t.dev = s.dev ∧ t.host = s.host ∧ t.scratch = s.scratch := by
    rw [State.endSend]
    simp only [hx, State.answerCancels, hcancels, List.foldl_nil]
    cases cause with
    | none => exact ⟨_, _, rfl, gone, rfl, rfl, rfl, rfl, rfl⟩
    | some e => exact ⟨_, _, rfl, gone, rfl, rfl, rfl, rfl, rfl⟩
  obtain ⟨t, eng, hend, hsends', hops, hcrews, hdev, hhost, hscratch⟩ := ended
  rw [finish t eng hsends' hops hcrews] at hend
  refine ⟨{ t with ops := kdel t.ops id }, eng, ?_, hsends', kget_kdel_self _ _, hcrews, hdev, hhost, hscratch⟩
  rw [State.closeSend, hend]
  exact State.startSends_of_none hsends'

end Sys2Proof.Machine

namespace Sys2Proof.Proofs

open Sys2Proof.Machine Sys2Proof.Terms

/-! ## The events of a send -/

/-- A refused request is sent again. -/
theorem requestRetry_ok {s u : State} {id t0 : Nat} {x : Send} {bs : List Byte} (hsends : s.sends = [(id, x)])
    (hrequested : x.requested = false) (hrefused : x.refused = some t0) (htick : t0 + 10000 ≤ s.tick)
    (haccepted : x.accepted = false) (hcancels : x.cancels = [])
    (hpaused : x.paused = false) {y : Send} (hy : y = { x with refused := none, sent := 0, epoch := 0 })
    (hread : ({ s with sends := [(id, y)] } : State).engineRead (s.crew x.crew).pasid x.addr (min x.len (16384 * s.prefixUnits)) =
      (u, .ok bs)) :
    Becomes (.requestRetry id) s fun t =>
      t.linkOut = u.linkOut ++ [(s.chipId x.id.gang x.id.dst, .request x.id x.len x.pri bs)] ∧
      t.sends = [(id, { y with requested := true, sent := min x.len (16384 * s.prefixUnits) })] ∧ t.crews = u.crews := by
  have hx : kget s.sends id = some x := by rw [hsends]; exact if_pos rfl
  have late : ¬s.tick < t0 + 10000 := Nat.not_lt.mpr htick
  have retried : s.retryRequest id = (({ s with sends := [(id, y)] } : State).sendRequest id y).startSends := by
    rw [State.retryRequest]
    simp only [hx, hrefused, Option.map_some, Option.getD_some, late, haccepted, hcancels, hpaused]
    rw [hsends, hy]
    simp [kset, hrequested, haccepted, hcancels, hpaused]
  have read := State.engineRead_work { s with sends := [(id, y)] } (s.crew x.crew).pasid x.addr (min x.len (16384 * s.prefixUnits))
  rw [hread] at read
  have asked := State.sendRequest_asked (s := { s with sends := [(id, y)] }) (v := u) (id := id) (x := y) (bs := bs)
    (fun z hz hlt => by rw [List.mem_singleton.mp hz] at hlt; exact absurd hlt (Nat.lt_irrefl _)) (by rw [hy] at hread ⊢; exact hread)
  obtain ⟨hkept, hcrews, hout⟩ := u.askedWith_frame id y (min y.len (grantBytes * s.prefixUnits)) bs
  have sends : (u.askedWith id y (min y.len (grantBytes * s.prefixUnits)) bs).sends =
      [(id, y.asked (min y.len (grantBytes * s.prefixUnits)))] := by
    rw [hkept, read.sends]
    simp [kset]
  rw [asked, State.startSends_of_one sends (.inl rfl)] at retried
  refine ⟨_, show execRequestRetry id s = _ from congrArg Host.Outcome.next retried, ?_, ?_, hcrews⟩
  · rw [hout, State.chipId_of_home read, hy]
    rfl
  · rw [sends, hy, Send.asked, Nat.zero_max]
    rfl

/-- A grant is answered with its bytes. -/
theorem grantArrival_ok {s u : State} {id : Nat} {x : Send} {r : GrantRange} {bs : List Byte} (hsends : s.sends = [(id, x)])
    (hremote : s.remoteSend id = true) (hpaused : x.paused = false) (hcancels : x.cancels = []) (hgrants : x.grants = [])
    (hepoch : r.epoch = x.epoch) (hlen : r.off + r.size ≤ x.len) (hpage : s.pageWaits (.op id) = false)
    (hread : ({ s with sends := [(id, { x with accepted := true, grants := [r] })] } : State).engineRead (s.crew x.crew).pasid
      (x.addr + r.off) r.size = (u, .ok bs)) :
    Becomes (.grantArrival id r) s fun t =>
      t.linkOut = u.linkOut ++ [(s.chipId x.id.gang x.id.dst, .data x.id r.off r.epoch bs)] ∧
      t.sends = [(id, { x with accepted := true, sent := max x.sent (r.off + r.size) })] ∧ t.crews = u.crews := by
  have hx : kget s.sends id = some x := by rw [hsends]; exact if_pos rfl
  have requested : x.requested = true := by
    rw [State.remoteSend] at hremote
    simp only [hx, Bool.and_eq_true] at hremote
    exact hremote.1
  have fits : ¬x.len < r.off + r.size := Nat.not_lt.mpr hlen
  have taken : s.takeGrant id r = (({ s with sends := [(id, { x with accepted := true, grants := [r] })] } : State).serveGrants id
      1).startSends := by
    rw [State.takeGrant]
    simp only [hx, hpaused, requested, hepoch, fits, hcancels, hgrants]
    rw [hsends]
    simp [kset]
  have served : ({ s with sends := [(id, { x with accepted := true, grants := [r] })] } : State).serveGrants id 1 =
      u.servedWith id { x with accepted := true, grants := [r] } r bs :=
    State.serveGrants_one (if_pos rfl) hpaused hpage rfl hread
  have read := State.engineRead_work { s with sends := [(id, { x with accepted := true, grants := [r] })] } (s.crew x.crew).pasid
    (x.addr + r.off) r.size
  rw [hread] at read
  obtain ⟨hkept, hcrews, hout⟩ := u.servedWith_frame id { x with accepted := true, grants := [r] } r bs
  have sends : (u.servedWith id { x with accepted := true, grants := [r] } r bs).sends =
      [(id, { x with accepted := true, sent := max x.sent (r.off + r.size) })] := by
    rw [hkept, read.sends]
    simp [kset, hgrants]
  rw [served, State.startSends_of_one sends (.inl requested)] at taken
  have hexec : exec (.grantArrival id r) s = .next (s.takeGrant id r) := by
    change execGrantArrival id r s = _
    simp [execGrantArrival, hremote]
  rw [taken] at hexec
  exact ⟨_, hexec, by rw [hout, State.chipId_of_home read]; rfl, sends, hcrews⟩

/-- The notices of a receiver end the send that they name. -/
theorem notice_exec {e : Instr} {cause : Option Cause} {s : State} {id : Nat} {x : Send}
    (he : e = .doneNotice id ∧ cause = none ∨ e = .truncatedNotice id ∧ cause = some 0x8B ∨ e = .orphanedNotice id ∧ cause = some 0x8A ∨
      e = .cancelledNotice x.id true ∧ cause = some 0x8C ∨ e = .peerFaultNotice x.id true ∧ cause = some 0x8F ∨
      e = .sendUnreachable id ∧ cause = some 0x8D ∧ x.accepted = false ∧ s.pathGone (s.chipId x.id.gang x.id.dst) = true ∧
        x.since + 2000000 ≤ s.tick)
    (hsends : s.sends = [(id, x)]) (hremote : s.remoteSend id = true) : exec e s = .next (s.closeSend id cause) := by
  have hx : kget s.sends id = some x := by rw [hsends]; exact if_pos rfl
  have named : s.sendOf x.id = some (id, x) := by
    rw [State.sendOf, State.sendTable, hsends, kfind]
    simp [bulkTable]
  have noticed : ∀ c, s.noticeSend id c = s.closeSend id c := fun c => by rw [State.noticeSend, if_pos hremote]
  rcases he with ⟨rfl, rfl⟩ | ⟨rfl, rfl⟩ | ⟨rfl, rfl⟩ | ⟨rfl, rfl⟩ | ⟨rfl, rfl⟩ | ⟨rfl, rfl, haccepted, hgone, hsince⟩
  · exact congrArg Host.Outcome.next (noticed _)
  · exact congrArg Host.Outcome.next (noticed _)
  · exact congrArg Host.Outcome.next (noticed _)
  · change execCancelledNotice x.id true s = _
    rw [execCancelledNotice, if_pos rfl, named, ← noticed]
  · change execPeerFaultNotice x.id true s = _
    rw [execPeerFaultNotice, if_pos rfl, named, ← noticed]
  · have away : (s.chipId x.id.gang x.id.dst != s.sysId) = true := by
      rw [State.remoteSend] at hremote
      simp only [hx, Bool.and_eq_true] at hremote
      exact hremote.2
    change execSendUnreachable id s = _
    rw [execSendUnreachable]
    simp only [hx, haccepted, away, hgone, hsince, Bool.not_false, Bool.and_self, decide_true, if_true]

/-- Settles O49: a send asks or answers with the bytes that it reads, and a notice completes its operation. -/
theorem sendEvents : Obligations.SendEvents := by
  unfold Obligations.SendEvents
  refine ⟨?_, ?_, ?_⟩
  · intro s u id t0 x bs hsends hrequested hrefused htick haccepted hcancels hpaused y n hread
    exact requestRetry_ok hsends hrequested hrefused htick haccepted hcancels hpaused (y := y) rfl hread
  · intro s u id x r bs hsends hremote hpaused hcancels hgrants hepoch hlen hpage hread
    exact grantArrival_ok hsends hremote hpaused hcancels hgrants hepoch hlen hpage hread
  · intro e cause s id crew fid k x o c f he hsends hremote hcancels hop howners hissuer hbar hlife hawake
    obtain ⟨t, eng, hclose, hsends', hop', hcrews, hdev, hhost, hscratch⟩ :=
      State.closeSend_one hsends hcancels hop howners hissuer hbar hlife hawake cause
    obtain ⟨hc, hf, -⟩ := hawake
    have counts := tokenCounts_counted (s := t) (id := id) (k := k) (by rw [hcrews]; exact hc) hf hop' (cause := cause) eng
      (more := fun _ => True) trivial
    obtain ⟨hgone, c', y, hc', -, hy, hsame, hcount, herr, hcause, hother⟩ := counts
    refine ⟨_, (notice_exec he hsends hremote).trans (congrArg _ hclose), hsends', hgone, hdev, hhost, hscratch, c', y, hc', hy, hsame,
      hcount, herr, hcause, hother⟩

end Sys2Proof.Proofs
end

section
/-! PROOF. Packets of the command engine (R354, R356, R358 to R360): what its reads and writes leave, and the life of a packet. -/

-- Theorems one after another, not at once: this bounds the memory that a compile of the whole text takes.
set_option Elab.async false

namespace Sys2Proof.Machine

open Sys2Proof.Terms

/-! ## Reads and writes of the command engine (R356) -/

namespace HomeWork

variable {s t : State}

theorem queues (h : HomeWork s t) : t.queues = s.queues := by rw [h.eq]
theorem graphs (h : HomeWork s t) : t.graphs = s.graphs := by rw [h.eq]
theorem pool (h : HomeWork s t) : t.pool = s.pool := by rw [h.eq]
theorem poolWait (h : HomeWork s t) : t.poolWait = s.poolWait := by rw [h.eq]

end HomeWork

/-- A second step of an engine after a first that is home work. -/
theorem homeWork_then {α : Type} {s t : State} {r : State × α} {x : α} (h : HomeWork s r.1) (hr : r = (t, x)) : HomeWork s t := by
  rw [hr] at h
  exact h

theorem State.cmdWrite_work (s : State) (pasid va : Nat) (bs : List Byte) : HomeWork s (s.cmdWrite pasid va bs).1 := by
  have placed := State.placePieces_work pasid (bytePieces (bs.length / 4096 + 2) va bs) s
  unfold State.cmdWrite
  split
  · next hx => exact homeWork_then placed hx
  · next t ps hx =>
    have placed := homeWork_then placed hx
    split
    · exact placed
    · exact placed.trans (HomeWork.foldl (fun u p => u.applyBytes_work _ _) ps t)

theorem State.nodeSuccs_work (s : State) (pasid : Nat) (bs : List Byte) : HomeWork s (s.nodeSuccs pasid bs).1 := by
  have read : HomeWork s (if fieldLe bs 6 2 = 0 then (s, .ok []) else s.engineRead pasid (fieldLe bs 8 8) (4 * fieldLe bs 6 2)).1 := by
    split
    · exact .refl s
    · exact s.engineRead_work _ _ _
  unfold State.nodeSuccs
  dsimp only
  split
  all_goals
    next hx => exact homeWork_then read hx

/-! ## The checks of packets and launches (R357, R363) -/

/-- The read is named, so that the kernel does not compute how many pages the 4,096 bytes of a window meet. -/
theorem State.checkBlock_work (s : State) (pasid : Nat) (bs blk : List Byte) (chips : List Nat) :
    HomeWork s (s.checkBlock pasid bs blk chips).1 := by
  have read : ∀ (t : State) va n, HomeWork t (t.engineRead pasid va n).1 := fun t va n => t.engineRead_work pasid va n
  obtain ⟨E, hE⟩ : ∃ E, E = State.engineRead := ⟨_, rfl⟩
  dsimp only [State.checkBlock]
  rw [← hE] at read ⊢
  split
  · exact .refl s
  split
  · exact .refl s
  split
  · next hx => exact homeWork_then (read s _ _) hx
  · next t _ hx =>
    have window := homeWork_then (read s _ _) hx
    split
    · next hy => exact window.trans (homeWork_then (read t _ _) hy)
    · next u _ hy =>
      have both := window.trans (homeWork_then (read t _ _) hy)
      split
      · exact both
      split
      · exact both
      split <;> exact both

theorem State.checkReads_work (s : State) (pasid : Nat) (bs : List Byte) : HomeWork s (s.checkReads pasid bs).1 := by
  have block := s.engineRead_work pasid (fieldLe bs 24 8) 128
  unfold State.checkReads
  split
  · next hx => exact homeWork_then block hx
  · next t blk hx =>
    have block := homeWork_then block hx
    dsimp only
    split
    · exact block.trans (t.checkBlock_work _ _ _ _)
    · have table := t.engineRead_work pasid (fieldLe bs 56 8) (4 * fieldLe bs 46 2)
      split
      · next hy => exact block.trans (homeWork_then table hy)
      · next u _ hy => exact (block.trans (homeWork_then table hy)).trans (u.checkBlock_work _ _ _ _)

theorem State.checkLaunch_work (s : State) (pasid : Nat) (bs : List Byte) : HomeWork s (s.checkLaunch pasid bs).1 := by
  unfold State.checkLaunch
  split
  · exact .refl s
  split
  · exact .refl s
  · exact s.checkReads_work pasid bs

theorem State.checkPacket_work (s : State) (q : Queue) (bs : List Byte) : HomeWork s (s.checkPacket q bs).1 := by
  unfold State.checkPacket
  dsimp only
  split
  · exact .refl s
  split
  · exact .refl s
  split
  · exact .refl s
  split
  · exact .refl s
  split
  · split
    all_goals
      next hx => exact homeWork_then (s.checkReads_work _ _) hx
  · split
    · split
      all_goals
        next hx => exact homeWork_then (s.engineRead_work _ _ _) hx
    · exact .refl s

/-! ## Signals and graph objects (R360, R366, R367) -/

theorem State.signalsZero_work (pasid : Nat) (l : List Nat) (s : State) : HomeWork s (s.signalsZero pasid l).1 := by
  induction l generalizing s with
  | nil => exact .refl s
  | cons a l ih =>
    unfold State.signalsZero
    split
    · next hx => exact homeWork_then (s.engineRead_work _ _ _) hx
    · next t _ hx =>
      have read := homeWork_then (s.engineRead_work _ _ _) hx
      split
      all_goals
        next hy => exact read.trans (homeWork_then (ih t) hy)

theorem State.resetNode_work (s : State) (pasid addr i : Nat) : HomeWork s (s.resetNode pasid addr i).1 := by
  unfold State.resetNode
  split
  · next hx => exact homeWork_then (s.engineRead_work _ _ _) hx
  · next t bs hx =>
    have read := homeWork_then (s.engineRead_work _ _ _) hx
    dsimp only
    generalize (if fieldLe bs 0 1 = kindCond then _ else _) = b
    split
    all_goals
      next hy => exact read.trans (homeWork_then (t.cmdWrite_work _ _ _) hy)

theorem State.resetNodes_work (pasid addr : Nat) (l : List Nat) (s : State) : HomeWork s (s.resetNodes pasid addr l).1 := by
  induction l generalizing s with
  | nil => exact .refl s
  | cons i l ih =>
    unfold State.resetNodes
    split
    · next hx => exact homeWork_then (s.resetNode_work _ _ _) hx
    · next t _ hx =>
      have first := homeWork_then (s.resetNode_work _ _ _) hx
      split
      all_goals
        next hy => exact first.trans (homeWork_then (ih t) hy)

theorem State.checkNode_work (s : State) (pasid addr nnode i : Nat) : HomeWork s (s.checkNode pasid addr nnode i).1 := by
  unfold State.checkNode
  split
  · next hx => exact homeWork_then (s.engineRead_work _ _ _) hx
  · next t bs hx =>
    have read := homeWork_then (s.engineRead_work _ _ _) hx
    split
    · exact read
    · split
      all_goals
        next hy => exact read.trans (homeWork_then (t.nodeSuccs_work _ _) hy)

theorem State.checkNodes_work (pasid addr nnode : Nat) (l : List Nat) (s : State) : HomeWork s (s.checkNodes pasid addr nnode l).1 := by
  induction l generalizing s with
  | nil => exact .refl s
  | cons i l ih =>
    have first := s.checkNode_work pasid addr nnode i
    unfold State.checkNodes
    split
    · next t hx => exact (homeWork_then first hx).trans (ih t)
    · exact first

/-! ## Queues -/

theorem State.setQueue_frame (s : State) (q : Nat) (x : Queue) :
    ∃ d h, s.setQueue q x = { s with queues := kset s.queues q x, dev := d, host := h } := by
  unfold State.setQueue State.writeThr
  split
  · obtain ⟨d, h, hw⟩ := State.writePas_frame { s with queues := kset s.queues q x }
      (Config.hdmBase + ({ s with queues := kset s.queues q x } : State).thr + (0x1000 + 48 * q))
      (x.descriptor ++ leBytes 8 x.rptr ++ leBytes 8 x.done)
    exact ⟨d, h, hw⟩
  · exact ⟨s.dev, s.host, rfl⟩

/-- A queue with its indexes and packets changed, and the two memories, is all that NOTIFY and the completion of a packet touch. -/
theorem State.modQueue_frame (s : State) (q : Nat) (f : Queue → Queue) :
    ∃ d h, s.modQueue q f = { s with queues := kset s.queues q (f (s.queue q)), dev := d, host := h } := s.setQueue_frame q _

theorem queue_kset_self {s t : State} {q : Nat} {x : Queue} (h : t.queues = kset s.queues q x) : t.queue q = x := by
  rw [State.queue, h, kgetD, kget_kset_self, Option.getD_some]

theorem queue_kset_ne {s t : State} {q k : Nat} {x : Queue} (h : t.queues = kset s.queues q x) (hk : k ≠ q) : t.queue k = s.queue k := by
  rw [State.queue, h, kgetD, kget_kset_ne _ _ hk]
  rfl

theorem State.queue_of_kget {s : State} {q : Nat} {x : Queue} (h : kget s.queues q = some x) : s.queue q = x := by
  rw [State.queue, kgetD, h, Option.getD_some]

/-! ## Packets -/

/-- The queue of a packet exists. -/
theorem kget_queue_of_packet {s : State} {q idx : Nat} {p : Packet} (h : s.packet q idx = some p) :
    kget s.queues q = some (s.queue q) := by
  cases hx : kget s.queues q with
  | some x => rw [State.queue_of_kget hx]
  | none =>
    rw [State.packet, State.queue, kgetD, hx] at h
    cases h

/-- A packet changed by a step that keeps the other packets of its queue. -/
theorem packetIs_of_kmod {s u : State} {q idx : Nat} {p : Packet} {f : Packet → Packet} {x : Queue} (hp : s.packet q idx = some p)
    (hu : kget u.queues q = some x) (hx : x.packets = kmod (s.queue q).packets idx f) : PacketIs s u q idx (f p) := by
  have packet : ∀ k, u.packet q k = kget (kmod (s.queue q).packets idx f) k := fun k => by
    rw [State.packet, State.queue_of_kget hu, hx]
  refine ⟨?_, fun k hk => ?_⟩
  · rw [packet, kget_kmod_self, show kget (s.queue q).packets idx = some p from hp, Option.map_some]
  · rw [packet, kget_kmod_ne _ _ hk]
    rfl

/-- A packet changed over a state with the same queues. -/
theorem packetIs_modPacket {s u : State} {q idx : Nat} {p : Packet} (hp : s.packet q idx = some p) (hu : u.queues = s.queues)
    (f : Packet → Packet) : PacketIs s (u.modPacket q idx f) q idx (f p) := by
  refine packetIs_of_kmod hp (x := { s.queue q with packets := kmod (s.queue q).packets idx f }) ?_ rfl
  change kget (kmod u.queues q _) q = _
  rw [hu, kget_kmod_self, kget_queue_of_packet hp]
  rfl

theorem State.begins_of {s : State} {q idx ty : Nat} {p : Packet} (hp : s.packet q idx = some p) (hrun : p.state = .running)
    (hend : p.ended = false) (hgang : p.gang = none) (hgraph : p.graph = none) (hty : fieldLe p.bytes 1 1 = ty) :
    s.begins q idx ty = some p := by
  rw [State.begins, hp]
  simp [Option.filter, hrun, hend, hgang, hgraph, hty]

/-- A node enters a pool with room. -/
theorem State.enterPool_room {s : State} (hroom : s.pool.length < poolSize) (hwait : s.poolWait = []) (graph node : Nat) :
    s.enterPool graph node = { s with pool := s.pool ++ [(graph, node)] } := if_pos ⟨hroom, hwait⟩

/-! ## Atomics and launches -/

/-- An atomic of the command engine on a device line that no host may cache (R359, R360). -/
theorem State.cmdAtomic_placed {s u : State} {pasid va pa : Nat} (hx : s.engineXl pasid va .store = (u, .ok pa true)) (hm : u.memWf)
    (hcause : u.dataCause pa 8 = none) (hdev : isDevice pa = true) (hpa : pa % 128 ≤ 120) (hshared : (u.home (pa / 128)).shared = false)
    (f : Nat → Nat) :
    ∃ t, s.cmdAtomic pasid va f = (t, true) ∧ Placed u t (bytesAt pa (leBytes 8 (f (u.readNat pa 8) % 2 ^ 64))) := by
  have line : isDevice (pa / 128 * 128) = true := by rw [isDevice_line]; exact hdev
  have placed := Unshared.applyBytes_placed ⟨line, hshared⟩ hm (pa := pa)
    ((leBytes 8 (f (u.readNat pa 8) % 2 ^ 64)).zipIdx.map fun b => ⟨b.1, false, 0, kgetD u.tags (pa + b.2) [], u.tick, false⟩) rfl
    (by rw [List.length_map, List.length_zipIdx, leBytes_length]; omega)
  rw [List.map_map, show (L1Byte.val ∘ fun b : Byte × Nat => (⟨b.1, false, 0, kgetD u.tags (pa + b.2) [], u.tick, false⟩ : L1Byte)) = Prod.fst
    from rfl, List.zipIdx_map_fst] at placed
  refine ⟨_, ?_, placed⟩
  rw [State.cmdAtomic, hx]
  dsimp only
  rw [hcause, u.mergeCause_of_isDevice line]
  rfl

/-- A launch raises a gang under a new identifier, and tells the other chips of its set (R363, R364). -/
theorem State.launchGang_spec (s : State) (src : GangSrc) (q pasid : Nat) (l : Launch) (chips : List Nat) :
    ∃ g t, s.launchGang src q pasid l chips = (s.sysId * 2 ^ 32 + (s.launches + 1) % 2 ^ 32, t) ∧
      HomeWork { s with launches := (s.launches + 1) % 2 ^ 32, gangs := kset s.gangs (s.sysId * 2 ^ 32 + (s.launches + 1) % 2 ^ 32) g } t ∧
      g.launch = l ∧ g.src = src ∧ g.queue = q ∧ g.pasid = pasid ∧ g.chips = chips ∧ g.crews = [] ∧
      g.start = if chips.length = 1 then some l.tick else none :=
  ⟨_, _, rfl, HomeWork.foldl (fun u _ => u.tellChip_work _ _) _ _, rfl, rfl, rfl, rfl, rfl, rfl, rfl⟩

end Sys2Proof.Machine

namespace Sys2Proof.Proofs

open Sys2Proof.Machine Sys2Proof.Terms

/-! ## The events of a packet -/

/-- NOTIFY within the ring raises WPTR. -/
theorem notify_ok {s : State} {head : Fin 2} {q wptr : Nat} (hstage : s.stage = stageReady) (hq : q < 1024)
    (hhead : (s.queue q).head = head.val) (hstate : (s.queue q).state ≠ .disabled) (hup : (s.queue q).wptr ≤ wptr % 2 ^ 64)
    (hroom : wptr % 2 ^ 64 ≤ (s.queue q).rptr + 2 ^ (s.queue q).logsz) :
    Becomes (.notify head q wptr) s fun t => t = { s with queues := t.queues, dev := t.dev, host := t.host } ∧
      t.queue q = { s.queue q with wptr := wptr % 2 ^ 64 } ∧ ∀ k, k ≠ q → t.queue k = s.queue k := by
  have raised : s.notifyQueue head.val q (wptr % 2 ^ 64) = s.modQueue q fun x => { x with wptr := wptr % 2 ^ 64 } := by
    rw [State.notifyQueue]
    rw [if_neg (by
      rintro (h | h | h)
      · exact h hhead
      · exact hstate h
      · exact Nat.not_lt.mpr hup h), if_neg (Nat.not_lt.mpr hroom)]
  have hexec : exec (.notify head q wptr) s = .next (s.notifyQueue head.val q (wptr % 2 ^ 64)) := by
    change execNotify head q wptr s = _
    rw [execNotify, if_pos hq, State.hostAccess, if_pos hstage]
  obtain ⟨d, h, hw⟩ := s.modQueue_frame q fun x => { x with wptr := wptr % 2 ^ 64 }
  rw [raised, hw] at hexec
  exact ⟨_, hexec, rfl, queue_kset_self rfl, fun k hk => queue_kset_ne rfl hk⟩

/-- A published packet whose checks pass is accepted. -/
theorem slotRead_ok {s t u v : State} {q : Nat} {x : Queue} {bs : List Byte} {l : Option (Launch × List Nat)} {p : Packet} {w : State}
    (hx : kget s.queues q = some x) (hnone : ∀ p ∈ x.packets, p.2.state ≠ .accepted) (hstate : x.state = .active) (hrptr : x.rptr < x.wptr)
    (hpage : s.pageWaits (.queue q) = false) (hread : s.engineRead x.pasid (x.ring + 64 * (x.rptr % 2 ^ x.logsz)) 64 = (t, .ok bs))
    (hvalid : fieldLe bs 0 1 % 2 = 1)
    (hwrite : (t.modQueue q fun y => { y with rptr := y.rptr + 1 }).cmdWrite x.pasid (x.ring + 64 * (x.rptr % 2 ^ x.logsz)) [0] = (u, .ok ()))
    (hp : p = { bytes := bs, state := .accepted, seq := u.accepts })
    (hw : w = { u with accepts := u.accepts + 1, queues := kmod u.queues q fun y => { y with packets := kset y.packets x.rptr p } })
    (hcheck : w.checkPacket (w.queue q) bs = (v, .ok l)) (hsnoop : NoSnoop s v) :
    Becomes (.slotRead q) s fun t => (t.queue q).rptr = x.rptr + 1 ∧ t.accepts = u.accepts + 1 ∧
      PacketIs s t q x.rptr { p with state := .waiting, launch := l } := by
  have hq : s.queue q = x := State.queue_of_kget hx
  have read := homeWork_then (s.engineRead_work _ _ _) hread
  have htq : t.queue q = x := State.queue_of_kget (by rw [read.queues]; exact hx)
  obtain ⟨d, h, hmod⟩ := t.modQueue_frame q fun y => { y with rptr := y.rptr + 1 }
  have written := homeWork_then (State.cmdWrite_work _ _ _ _) hwrite
  have huq : kget u.queues q = some { x with rptr := x.rptr + 1 } := by rw [written.queues, hmod, ← htq]; exact kget_kset_self ..
  have hwq : kget w.queues q = some { x with rptr := x.rptr + 1, packets := kset x.packets x.rptr p } := by
    rw [hw]
    change kget (kmod u.queues q _) q = _
    rw [kget_kmod_self, huq]
    rfl
  have checked := homeWork_then (w.checkPacket_work (w.queue q) bs) hcheck
  have slot : s.readSlot q = v.modPacket q x.rptr fun p => { p with state := .waiting, launch := l } := by
    have valid : bitOf (fieldLe bs 0 1) 0 = true := by simp [bitOf, hvalid]
    rw [State.readSlot]
    simp only [hq, hread, valid, if_true]
    rw [State.acceptPacket]
    simp only [htq, hwrite]
    rw [← hp, ← hw, State.checkAccepted, show p.bytes = bs by rw [hp], hcheck]
  have none : (s.queue q).packets.find? (fun p => p.2.state == .accepted) = none := List.find?_eq_none.mpr fun p hp => by
    rw [hq] at hp
    simpa using hnone p hp
  have hexec : exec (.slotRead q) s = .next (s.orSnoop (s.readSlot q)) := by
    change execSlotRead q s = _
    rw [execSlotRead, none]
    dsimp only
    rw [hq, if_neg (by
      rintro (h | h | h)
      · exact h hstate
      · exact Nat.not_le.mpr hrptr h
      · rw [hpage] at h; cases h)]
  have quiet : NoSnoop s (v.modPacket q x.rptr fun p => { p with state := .waiting, launch := l }) := (newSnoops_congr rfl).trans hsnoop
  rw [slot, State.orSnoop_of_noSnoop quiet] at hexec
  have final : kget (v.modPacket q x.rptr fun p => { p with state := .waiting, launch := l }).queues q =
      some { x with rptr := x.rptr + 1, packets := kmod (kset x.packets x.rptr p) x.rptr fun p => { p with state := .waiting, launch := l } } := by
    change kget (kmod v.queues q _) q = _
    rw [kget_kmod_self, checked.queues, hwq]
    rfl
  refine ⟨_, hexec, by rw [State.queue_of_kget final], ?_, ?_, fun k hk => ?_⟩
  · change v.accepts = _
    rw [checked.eq, hw]
  · rw [State.packet, State.queue_of_kget final, kget_kmod_self, kget_kset_self]
    rfl
  · rw [State.packet, State.queue_of_kget final, kget_kmod_ne _ _ hk, kget_kset_ne _ _ hk, State.packet, hq]

section

variable {s : State} {q idx : Nat} {p : Packet} (hp : s.packet q idx = some p)

include hp

/-- A packet that may start runs. -/
theorem packetStart_ok (hstart : (s.queue q).mayStart idx p = true) :
    Becomes (.packetStart q idx) s fun t => t = { s with queues := t.queues } ∧ PacketIs s t q idx { p with state := .running } := by
  have hexec : exec (.packetStart q idx) s = .next (s.modPacket q idx fun p => { p with state := .running }) := by
    change execPacketStart q idx s = _
    rw [execPacketStart, hp]
    dsimp only
    rw [if_pos hstart]
  exact ⟨_, hexec, rfl, packetIs_modPacket hp rfl fun p => { p with state := .running }⟩

variable (hbegins : ∀ ty, fieldLe p.bytes 1 1 = ty → s.begins q idx ty = some p)

include hbegins

/-- A NOP packet ends at once. -/
theorem nopPacket_ok (hty : fieldLe p.bytes 1 1 = 0) :
    Becomes (.nopPacket q idx) s fun t => t = { s with queues := t.queues } ∧ PacketIs s t q idx { p with ended := true } := by
  have hexec : exec (.nopPacket q idx) s = .next (s.endPacket q idx) := by
    change execNopPacket q idx s = _
    rw [execNopPacket, hbegins 0 hty, Option.isSome_some, if_pos rfl]
  exact ⟨_, hexec, rfl, packetIs_modPacket hp rfl fun p => { p with ended := true }⟩

/-- A LAUNCH packet raises its gang. -/
theorem launchPacket_ok {l : Launch} {chips : List Nat} (hty : fieldLe p.bytes 1 1 = 1) (hl : p.launch = some (l, chips)) :
    Becomes (.launch q idx) s fun t =>
      let id := s.sysId * 2 ^ 32 + (s.launches + 1) % 2 ^ 32
      PacketIs s t q idx { p with gang := some id } ∧ ∃ g, kget t.gangs id = some g ∧ g.launch = l ∧ g.src = .packet q idx ∧
        g.queue = q ∧ g.pasid = (s.queue q).pasid ∧ g.chips = chips ∧ g.crews = [] ∧
        g.start = if chips.length = 1 then some l.tick else none := by
  obtain ⟨g, t, hraise, work, hlaunch, hsrc, hqueue, hpasid, hchips, hcrews, hstart⟩ :=
    s.launchGang_spec (.packet q idx) q (s.queue q).pasid l chips
  have hexec : exec (.launch q idx) s = .next (t.modPacket q idx fun p =>
      { p with gang := some (s.sysId * 2 ^ 32 + (s.launches + 1) % 2 ^ 32) }) := by
    change execLaunch q idx s = _
    rw [execLaunch, hbegins 1 hty, Option.bind_some, hl]
    dsimp only
    rw [hraise]
  refine ⟨_, hexec, packetIs_modPacket hp work.queues fun p => { p with gang := some (s.sysId * 2 ^ 32 + (s.launches + 1) % 2 ^ 32) }, g, ?_,
    hlaunch, hsrc, hqueue, hpasid, hchips, hcrews, hstart⟩
  change kget t.gangs _ = _
  rw [work.eq]
  exact kget_kset_self ..

/-- A BARRIER packet ends when its signals are all 0. -/
theorem barrierPacket_ok {t : State} {b : Bool} (hended : p.ended = false) (hty : fieldLe p.bytes 1 1 = 3)
    (hpage : s.pageWaits (.packet q idx) = false) (hzero : s.signalsZero (s.queue q).pasid (barrierAddrs p.bytes) = (t, .ok b)) :
    Becomes (.barrierPacket q idx) s fun u => u = { t with queues := u.queues } ∧ PacketIs s u q idx { p with ended := b } := by
  have work := homeWork_then (State.signalsZero_work _ _ _) hzero
  have hexec : exec (.barrierPacket q idx) s = .next (if b then t.endPacket q idx else t) := by
    change execBarrierPacket q idx s = _
    rw [execBarrierPacket, hbegins 3 hty]
    simp only [hpage, Bool.false_eq_true, if_false, hzero]
  cases b with
  | true => exact ⟨_, hexec, rfl, packetIs_modPacket hp work.queues fun p => { p with ended := true }⟩
  | false =>
    have same : ∀ k, t.packet q k = s.packet q k := fun k => by rw [State.packet, State.queue, work.queues]; rfl
    exact ⟨_, hexec, rfl, (same idx).trans (by rw [hp, ← hended]), fun k _ => same k⟩

/-- A SIGNAL packet performs its atomic and ends. -/
theorem signalPacket_ok {u : State} {pa : Nat} (hty : fieldLe p.bytes 1 1 = 4)
    (hx : s.engineXl (s.queue q).pasid (fieldLe p.bytes 16 8) .store = (u, .ok pa true)) (hm : u.memWf) (hcause : u.dataCause pa 8 = none)
    (hdev : isDevice pa = true) (hpa : pa % 128 ≤ 120) (hshared : (u.home (pa / 128)).shared = false) (hsnoop : NoSnoop s u) :
    Becomes (.signalPacket q idx) s fun t => PacketIs s t q idx { p with ended := true } ∧
      Stored u.readPa t.readPa pa (leBytes 8 (signalFn (fieldLe p.bytes 32 1) (fieldLe p.bytes 24 8) (u.readNat pa 8) % 2 ^ 64)) := by
  obtain ⟨t, hatom, placed⟩ := State.cmdAtomic_placed hx hm hcause hdev hpa hshared (signalFn (fieldLe p.bytes 32 1) (fieldLe p.bytes 24 8))
  have run : s.runSignal q (s.queue q).pasid p.bytes = t := by rw [State.runSignal, hatom]
  have hexec : exec (.signalPacket q idx) s = .next (s.orSnoop (t.endPacket q idx)) := by
    change execSignalPacket q idx s = _
    rw [execSignalPacket, hbegins 4 hty]
    dsimp only
    rw [run]
  have quiet : NoSnoop s (t.endPacket q idx) := (newSnoops_congr placed.hostOut).trans hsnoop
  rw [State.orSnoop_of_noSnoop quiet] at hexec
  have work := (homeWork_then (s.engineXl_work _ _ _) hx).trans placed.work
  exact ⟨_, hexec, packetIs_modPacket hp work.queues fun p => { p with ended := true }, placed.stored⟩

end

/-- The completion of a packet without a signal and an interrupt counts it. -/
theorem packetComplete_ok {s : State} {q idx : Nat} {p : Packet} (hp : s.packet q idx = some p) (hrun : p.state = .running)
    (hended : p.ended = true) (hgang : p.gang = none) (hgraph : p.graph = none) (hsignal : fieldLe p.bytes 8 8 = 0)
    (hflag : fieldLe p.bytes 4 2 / 2 % 2 = 0) :
    Becomes (.packetComplete q idx) s fun t => (t.queue q).done = (s.queue q).done + 1 ∧ PacketIs s t q idx { p with state := .complete } := by
  have complete : s.workOver p = true := by simp [State.workOver, hrun, hended]
  have still : bitOf (fieldLe p.bytes 4 2) 1 = false := by simp [bitOf, hflag]
  have done : s.completePacket q idx p = (s.modQueue q fun x => { x with done := x.done + 1 }).modPacket q idx fun p =>
      { p with state := .complete } := by
    rw [State.completePacket]
    simp only [hgang, hgraph, hsignal, still, Option.bind_none, Option.map_none, Option.getD_none, State.closeTags, List.foldl_nil,
      State.dropSignal, if_true, Bool.false_eq_true, if_false]
  obtain ⟨d, h, hw⟩ := s.modQueue_frame q fun x => { x with done := x.done + 1 }
  have hexec : exec (.packetComplete q idx) s = .next (s.orSnoop (s.completePacket q idx p)) := by
    change execPacketComplete q idx s = _
    rw [execPacketComplete, hp]
    dsimp only
    rw [if_pos complete]
  obtain ⟨t, ht, hout, hqueues⟩ : ∃ t : State, s.completePacket q idx p = t ∧ t.hostOut = s.hostOut ∧
      t.queues = kmod (kset s.queues q { s.queue q with done := (s.queue q).done + 1 }) q fun x =>
        { x with packets := kmod x.packets idx fun p => { p with state := .complete } } := by
    rw [done, hw]
    exact ⟨_, rfl, rfl, rfl⟩
  have final : kget t.queues q = some { s.queue q with
      done := (s.queue q).done + 1, packets := kmod (s.queue q).packets idx fun p => { p with state := .complete } } := by
    rw [hqueues, kget_kmod_self, kget_kset_self]
    rfl
  rw [ht] at hexec
  exact ⟨t, exec_of_quiet hexec hout, by rw [State.queue_of_kget final],
    packetIs_of_kmod hp (f := fun p => { p with state := .complete }) final rfl⟩

/-- A GRAPH packet whose object is good begins its graph, and its one root enters the pool. -/
theorem graphPacket_ok {s t u v : State} {q idx r : Nat} {p : Packet} {h : List Byte} (hp : s.packet q idx = some p)
    (hbegins : s.begins q idx 2 = some p) (hgraphs : s.graphs = []) (hpage : s.pageWaits (.packet q idx) = false)
    (hread : s.engineRead (s.queue q).pasid (fieldLe p.bytes 16 8) 64 = (t, .ok h)) (hpos : 0 < fieldLe h 0 4)
    (hmax : fieldLe h 0 4 ≤ 65536) (hzeros : zeros h 4 64 = true)
    (hcheck : t.checkNodes (s.queue q).pasid (fieldLe p.bytes 16 8) (fieldLe h 0 4) (List.range (fieldLe h 0 4)) = (u, .ok))
    (hreset : u.resetNodes (s.queue q).pasid (fieldLe p.bytes 16 8) (List.range (fieldLe h 0 4)) = (v, .ok [r]))
    (hpool : s.pool.length < 4096) (hwait : s.poolWait = []) (hsnoop : NoSnoop s v) :
    Becomes (.graph q idx) s fun t => ∃ id g, PacketIs s t q idx { p with graph := some id } ∧
      kget t.graphs id = some g ∧ g.q = q ∧ g.idx = idx ∧ g.addr = fieldLe p.bytes 16 8 ∧ g.nnode = fieldLe h 0 4 ∧
      t.pool = s.pool ++ [(id, r)] := by
  have work := ((homeWork_then (s.engineRead_work _ _ _) hread).trans (homeWork_then (t.checkNodes_work _ _ _ _) hcheck)).trans
    (homeWork_then (u.resetNodes_work _ _ _) hreset)
  have good : ¬(fieldLe h 0 4 = 0 ∨ 65536 < fieldLe h 0 4 ∨ zeros h 4 64 = false) := by
    rintro (h | h | h)
    · omega
    · omega
    · rw [hzeros] at h; cases h
  have alone : ((s.graphs.any fun g => g.2.addr == fieldLe p.bytes 16 8 && s.graphPasid g.2 == (s.queue q).pasid) ||
      s.pageWaits (.packet q idx)) = false := by rw [hgraphs, hpage]; rfl
  obtain ⟨w, hstart, hqueues, hpools, hgraph, hout⟩ : ∃ w : State, s.startGraph q idx p = w ∧
      w.queues = (v.modPacket q idx fun p => { p with graph := some v.nextId }).queues ∧ w.pool = v.pool ++ [(v.nextId, r)] ∧
      kget w.graphs v.nextId = some { q := q, idx := idx, addr := fieldLe p.bytes 16 8, nnode := fieldLe h 0 4 } ∧
      w.hostOut = v.hostOut := by
    refine ⟨({ v.fresh.2 with
        graphs := kset v.fresh.2.graphs v.nextId
          { q := q, idx := idx, addr := fieldLe p.bytes 16 8, nnode := fieldLe h 0 4 } }.modPacket q idx fun p =>
          { p with graph := some v.nextId }).enterPool v.nextId r, ?_, ?_⟩
    · rw [State.startGraph]
      simp only [alone, Bool.false_eq_true, if_false, hread, if_neg good, hcheck, hreset]
      rfl
    · have room : v.pool.length < poolSize ∧ v.poolWait = [] := by rw [work.pool, work.poolWait]; exact ⟨hpool, hwait⟩
      rw [State.enterPool_room (by exact room.1) (by exact room.2)]
      exact ⟨rfl, rfl, kget_kset_self _ _ _, rfl⟩
  have hexec : exec (.graph q idx) s = .next (s.orSnoop (s.startGraph q idx p)) := by
    change execGraph q idx s = _
    rw [execGraph, hbegins]
  rw [hstart, State.orSnoop_of_noSnoop ((newSnoops_congr hout).trans hsnoop)] at hexec
  have is := packetIs_modPacket hp work.queues fun p => { p with graph := some v.nextId }
  have packet : ∀ k, w.packet q k = (v.modPacket q idx fun p => { p with graph := some v.nextId }).packet q k := fun k => by
    rw [State.packet, State.queue, hqueues]
    rfl
  refine ⟨w, hexec, v.nextId, _, ⟨(packet idx).trans is.1, fun k hk => (packet k).trans (is.2 k hk)⟩, hgraph, rfl, rfl, rfl, rfl, ?_⟩
  rw [hpools, work.pool]

/-- Settles O52: a packet's events change its queue, and what its work reads and writes is home work. -/
theorem packetEvents : Obligations.PacketEvents := by
  unfold Obligations.PacketEvents
  refine ⟨?_, ?_, ?_, ?_⟩
  · intro s head q wptr hstage hq hhead hstate hup hroom
    exact notify_ok hstage hq hhead hstate hup hroom
  · intro s t u v q x bs l hx hnone hstate hrptr hpage hread hvalid hwrite p w hcheck hsnoop
    exact slotRead_ok hx hnone hstate hrptr hpage hread hvalid hwrite rfl rfl hcheck hsnoop
  · intro s q idx p hp
    refine ⟨packetStart_ok hp, fun hrun hended hgang hgraph => ?_, fun hrun hended hgang hgraph hsignal hflag =>
      packetComplete_ok hp hrun hended hgang hgraph hsignal hflag⟩
    have begins := fun ty => State.begins_of (ty := ty) hp hrun hended hgang hgraph
    exact ⟨nopPacket_ok hp begins, fun l chips => launchPacket_ok hp begins, fun t b hty => barrierPacket_ok hp begins hended hty,
      fun u pa hty => signalPacket_ok hp begins hty⟩
  · intro s t u v q idx r p h hp hrun hended hgang hgraph hty hgraphs hpage hread hpos hmax hzeros hcheck hreset hpool hwait hsnoop
    exact graphPacket_ok hp (State.begins_of hp hrun hended hgang hgraph hty) hgraphs hpage hread hpos hmax hzeros hcheck hreset hpool hwait
      hsnoop

end Sys2Proof.Proofs
end

section
/-! PROOF. Command graphs (R360, R367 to R369): a node leaves the pool as it runs, its work is home work, and its completion releases a successor. -/

-- Theorems one after another, not at once: this bounds the memory that a compile of the whole text takes.
set_option Elab.async false

namespace Sys2Proof.Machine

open Sys2Proof.Terms

/-! ## The ready pool (R367) -/

/-- A node that leaves the pool leaves it and its queue together as they were, but for itself. -/
theorem mem_leavePool (s : State) (graph node : Nat) (x : Nat × Nat) :
    (x ∈ (s.leavePool graph node).pool ∨ x ∈ (s.leavePool graph node).poolWait) ↔ (x ∈ s.pool ∧ x ≠ (graph, node)) ∨ x ∈ s.poolWait := by
  change (x ∈ (s.pool.filter fun x => x != (graph, node)) ++ s.poolWait.take _ ∨ x ∈ s.poolWait.drop _) ↔ _
  rw [List.mem_append, or_assoc, ← List.mem_append, List.take_append_drop, List.mem_filter, bne_iff_ne]

/-- Where no node waits to enter, the pool loses the node alone. -/
theorem leavePool_of_noWait {s : State} (h : s.poolWait = []) (graph node : Nat) :
    (s.leavePool graph node).pool = (s.pool.filter fun x => x != (graph, node)) ∧ (s.leavePool graph node).poolWait = [] := by
  constructor
  · change (s.pool.filter fun x => x != (graph, node)) ++ s.poolWait.take _ = _
    rw [h, List.take_nil, List.append_nil]
  · change s.poolWait.drop _ = _
    rw [h, List.drop_nil]

theorem State.runNode_hostOut (s : State) (graph node : Nat) : (s.runNode graph node).hostOut = s.hostOut := rfl

theorem State.finishNode_hostOut (s : State) (graph node : Nat) (tags : List RelTag) :
    (s.finishNode graph node tags).hostOut = s.hostOut := rfl

/-! ## Dispatch -/

section

variable {s t u : State} {graph node kind : Nat} {g : GraphRun} {bs : List Byte}

/-- The read of a node that is dispatched changes nothing but at homes. -/
theorem dispatches_work (h : Dispatches s t graph node kind g bs) : HomeWork s t := by
  obtain ⟨-, -, -, -, -, -, -, hread, -⟩ := h
  exact homeWork_then (s.engineRead_work _ _ _) hread

/-- A node that is first in the pool goes to its engine. -/
theorem dispatch_of (h : Dispatches s t graph node kind g bs) (k : State → GraphRun → List Byte → State) :
    s.dispatch graph node kind k = k t g bs := by
  obtain ⟨hg, hhead, -, -, -, hwaits, hdead, hread, hkind⟩ := h
  rw [State.dispatch]
  simp only [hg, hhead, bne_self_eq_false, hwaits, hdead, Bool.or_self, Bool.false_eq_true, if_false, hread, hkind, if_true]

/-- A node that runs, over home work. -/
theorem runNode_graph (h : Dispatches s t graph node kind g bs) (hu : HomeWork s u) :
    kget (u.runNode graph node).graphs graph = some { g with running := insertNew node g.running } := by
  obtain ⟨hg, -⟩ := h
  change kget (kmod u.graphs graph _) graph = _
  rw [kget_kmod_self, hu.graphs, hg]
  rfl

/-- A node that runs has left the pool. -/
theorem runNode_pool (h : Dispatches s t graph node kind g bs) (hu : HomeWork s u) : (graph, node) ∉ (u.runNode graph node).pool := by
  obtain ⟨-, -, hwait, -⟩ := h
  intro hmem
  rcases (mem_leavePool u graph node (graph, node)).mp (.inl hmem) with ⟨-, hne⟩ | hmem
  · exact hne rfl
  · rw [hu.poolWait] at hmem
    exact hwait hmem

end

/-- A node that has ended its work. -/
theorem nodeEnded_finish {v : State} {graph node : Nat} {g : GraphRun} (hg : kget v.graphs graph = some g) (hpool : (graph, node) ∉ v.pool)
    (tags : List RelTag) : NodeEnded (v.finishNode graph node tags) graph node := by
  refine ⟨hpool, { g with running := g.running.filter fun n => n != node, done := g.done ++ [(node, tags)] }, tags, ?_, ?_, ?_⟩
  · change kget (kmod v.graphs graph _) graph = _
    rw [kget_kmod_self, hg]
    rfl
  · simp
  · exact List.mem_append_right _ List.mem_cons_self

/-! ## COND nodes (R368) -/

theorem State.rearmNodes_work (pasid addr : Nat) (l : List Nat) (s : State) : HomeWork s (s.rearmNodes pasid addr l).1 := by
  induction l generalizing s with
  | nil => exact .refl s
  | cons i l ih =>
    unfold State.rearmNodes
    split
    · next hx => exact homeWork_then (s.engineRead_work _ _ _) hx
    · next t n hx =>
      have read := homeWork_then (s.engineRead_work _ _ _) hx
      split
      · next hy => exact read.trans (homeWork_then (t.cmdWrite_work _ _ _) hy)
      · next u hy => exact (read.trans (homeWork_then (t.cmdWrite_work _ _ _) hy)).trans (ih u)

/-- The nodes that a COND node re-arms. -/
def condRange (bs : List Byte) : List Nat := (List.range (fieldLe bs 32 4 + 1 - fieldLe bs 28 4)).map fun i => fieldLe bs 28 4 + i

section

variable {s v z : State} {graph node : Nat} {g : GraphRun} {bs : List Byte}

/-- A COND node waits while another node of its range is busy. -/
theorem armCond_busy (h : ∃ n ∈ condRange bs, n ≠ node ∧ s.nodeBusy graph g n = true) : s.armCond graph node g bs = s := by
  obtain ⟨n, hn, hne, hbusy⟩ := h
  refine if_pos (List.any_eq_true.mpr ⟨n, hn, ?_⟩)
  rw [hbusy, bne_iff_ne.mpr hne, Bool.and_self]

/-- A COND node of whose range no other node is busy counts, re-arms the range and puts START in the pool. -/
theorem armCond_free {x : GraphRun} (h : ∀ n ∈ condRange bs, n = node ∨ s.nodeBusy graph g n = false)
    (hx : kget s.graphs graph = some x) (hroom : s.pool.length < poolSize) (hwait : s.poolWait = [])
    (hwrite : s.cmdWrite (s.graphPasid g) (nodeVa g.addr node + 40) (leBytes 4 (fieldLe bs 40 4 + 1)) = (v, .ok ()))
    (hrearm : v.rearmNodes (s.graphPasid g) g.addr (condRange bs) = (z, .ok ())) :
    ∃ w, s.armCond graph node g bs = w ∧ w.hostOut = z.hostOut ∧ w.dev = z.dev ∧ w.host = z.host ∧
      w.pool = s.pool ++ [(graph, fieldLe bs 24 4)] ∧ ∃ y, kget w.graphs graph = some y ∧ node ∉ y.running ∧ node ∉ y.rearm := by
  have work := (homeWork_then (s.cmdWrite_work _ _ _) hwrite).trans (homeWork_then (v.rearmNodes_work _ _ _) hrearm)
  have free : ((condRange bs).any fun n => n != node && s.nodeBusy graph g n) = false := by
    rw [List.any_eq_false]
    intro n hn
    rcases h n hn with rfl | hfree
    · simp
    · simp [hfree]
  have armed : s.armCond graph node g bs = (z.modGraph graph fun g =>
      { g with running := g.running.filter fun n => n != node, rearm := g.rearm.filter fun n => n != node }).enterPool graph
        (fieldLe bs 24 4) := by
    rw [condRange] at free hrearm
    rw [State.armCond]
    simp only [free, Bool.false_eq_true, if_false, hwrite, hrearm]
  have room : z.pool.length < poolSize ∧ z.poolWait = [] := by rw [work.pool, work.poolWait]; exact ⟨hroom, hwait⟩
  rw [armed, State.enterPool_room (by exact room.1) (by exact room.2)]
  refine ⟨_, rfl, rfl, rfl, rfl, congrArg (· ++ _) work.pool,
    { x with running := x.running.filter fun n => n != node, rearm := x.rearm.filter fun n => n != node }, ?_, by simp, by simp⟩
  change kget (kmod z.graphs graph _) graph = _
  rw [kget_kmod_self, work.graphs, hx]
  rfl

end

theorem mem_insertNew {x y : Nat} {l : List Nat} (h : x ≠ y) : x ∈ insertNew y l ↔ x ∈ l := by
  unfold insertNew
  split
  · rfl
  · simp [h]

/-- A COND node that has read its word and is to re-arm its range. -/
def State.condWaits (u : State) (graph node : Nat) : State :=
  (u.runNode graph node).modGraph graph fun g => { g with rearm := insertNew node g.rearm }

theorem State.condWaits_hostOut (s : State) (graph node : Nat) : (s.condWaits graph node).hostOut = s.hostOut := rfl

section

variable {s t u : State} {graph node kind : Nat} {g : GraphRun} {bs : List Byte}

theorem condWaits_graph (h : Dispatches s t graph node kind g bs) (hu : HomeWork s u) :
    kget (u.condWaits graph node).graphs graph =
      some { g with running := insertNew node g.running, rearm := insertNew node g.rearm } := by
  change kget (kmod (u.runNode graph node).graphs graph _) graph = _
  rw [kget_kmod_self, runNode_graph h hu]
  rfl

/-- Another node of the graph is as busy as it was. -/
theorem condWaits_busy (hu : HomeWork s u) {n : Nat} (hn : n ≠ node) :
    (u.condWaits graph node).nodeBusy graph { g with running := insertNew node g.running, rearm := insertNew node g.rearm } n =
      s.nodeBusy graph g n := by
  have pools := mem_leavePool u graph node (graph, n)
  rw [hu.pool, hu.poolWait] at pools
  have ne : (graph, n) ≠ (graph, node) := fun h => hn (Prod.mk.inj h).2
  rw [Bool.eq_iff_iff]
  simp only [State.nodeBusy, Bool.or_eq_true, List.contains_iff_mem, mem_insertNew hn, List.any_eq_true]
  exact or_congr_left (or_congr_left (pools.trans (by simp [ne])))

end

/-! ## Interrupts (R374) -/

/-- A message to a host that is no snoop or request is nothing that a change waits for. -/
theorem noSnoop_append {s v w : State} (h : NoSnoop s v) {m : HostOut} (hm : ∀ l, m ≠ .backInvalidate l ∧ m ≠ .ownRequest l)
    (hout : w.hostOut = v.hostOut ++ [m]) : NoSnoop s w := by
  have none : ∀ l : List HostOut, l.eraseDups = [] ↔ l = [] := fun l => by cases l <;> simp [List.eraseDups_cons]
  unfold NoSnoop newSnoops at h ⊢
  rw [none] at h ⊢
  rw [hout, List.drop_append, List.filter_append, h, List.nil_append, List.filter_eq_nil_iff]
  intro x hx
  rw [List.mem_singleton.mp (List.mem_of_mem_drop hx)]
  cases m with
  | backInvalidate l => exact absurd rfl (hm l).1
  | ownRequest l => exact absurd rfl (hm l).2
  | _ => simp

/-- An interrupt event sends no snoop and no request. -/
theorem noSnoop_vectorEvent {s v : State} (h : NoSnoop s v) (vec head : Nat) : NoSnoop s (v.vectorEvent vec head) := by
  have sent : ∀ u : State, u.hostOut = v.hostOut → NoSnoop s (u.sendVector vec) := fun u hu => by
    rw [State.sendVector]
    split
    · exact (newSnoops_congr hu).trans h
    · exact noSnoop_append h (m := .msix (u.vector vec).head vec) (fun _ => ⟨by simp, by simp⟩) (congrArg (· ++ _) hu)
  rw [State.vectorEvent]
  dsimp only
  split
  · exact sent _ rfl
  · exact (newSnoops_congr rfl).trans h

end Sys2Proof.Machine

namespace Sys2Proof.Proofs

open Sys2Proof.Machine Sys2Proof.Terms

/-! ## The events of a graph's nodes -/

/-- A change that adds nothing to what a part of it sends to hosts, where that part waits for none. -/
theorem exec_of_part {e : Instr} {s u v : State} (h : exec e s = .next (s.orSnoop v)) (hout : v.hostOut = u.hostOut) (hu : NoSnoop s u) :
    exec e s = .next v := h.trans (congrArg _ (State.orSnoop_of_noSnoop ((newSnoops_congr hout).trans hu)))

section

variable {s t u : State} {graph node : Nat} {g : GraphRun} {bs : List Byte}

/-- A KERNEL node becomes a gang. -/
theorem kernelNode_ok {l : Launch} {chips : List Nat} (h : Dispatches s t graph node 0 g bs)
    (hcheck : t.checkLaunch (t.graphPasid g) bs = (u, .ok l chips)) :
    Becomes (.kernelNode graph node) s fun v => (graph, node) ∉ v.pool ∧
      let id := s.sysId * 2 ^ 32 + (s.launches + 1) % 2 ^ 32
      ∃ x y, kget v.graphs graph = some x ∧ node ∈ x.running ∧ kget x.gangs node = some id ∧ kget v.gangs id = some y ∧
        y.launch = l ∧ y.src = .node graph node ∧ y.queue = g.q ∧ y.chips = chips := by
  have work := (dispatches_work h).trans (homeWork_then (t.checkLaunch_work _ _) hcheck)
  obtain ⟨y, v, hraise, raised, hlaunch, hsrc, hqueue, -, hchips, -⟩ :=
    (u.runNode graph node).launchGang_spec (.node graph node) g.q (t.graphPasid g) l chips
  have idEq : (u.runNode graph node).sysId * 2 ^ 32 + ((u.runNode graph node).launches + 1) % 2 ^ 32 =
      s.sysId * 2 ^ 32 + (s.launches + 1) % 2 ^ 32 := by
    change u.sysId * 2 ^ 32 + (u.launches + 1) % 2 ^ 32 = _
    rw [work.eq]
  rw [idEq] at hraise raised
  generalize s.sysId * 2 ^ 32 + (s.launches + 1) % 2 ^ 32 = id at hraise raised ⊢
  have node_ : s.kernelNode graph node = v.modGraph graph fun g => { g with gangs := kset g.gangs node id } := by
    rw [State.kernelNode, show kindKernel = 0 from rfl, dispatch_of h]
    dsimp only
    rw [hcheck]
    dsimp only
    rw [hraise]
  refine ⟨_, show execKernelNode graph node s = _ from congrArg Host.Outcome.next node_, ?_,
    { g with running := insertNew node g.running, gangs := kset g.gangs node id }, y, ?_, ?_, kget_kset_self _ _ _, ?_, hlaunch, hsrc, hqueue,
    hchips⟩
  · change (graph, node) ∉ v.pool
    rw [raised.pool]
    exact runNode_pool h work
  · change kget (kmod v.graphs graph _) graph = _
    rw [kget_kmod_self, raised.graphs]
    change Option.map _ (kget (u.runNode graph node).graphs graph) = _
    rw [runNode_graph h work]
    rfl
  · unfold insertNew
    split
    · next hmem => exact List.contains_iff_mem.mp hmem
    · exact List.mem_append_right _ List.mem_cons_self
  · change kget v.gangs id = _
    rw [raised.eq]
    exact kget_kset_self ..

/-- A COND node that has read its word. -/
theorem condNode_read {w : List Byte} (h : Dispatches s t graph node 1 g bs)
    (hread : t.engineRead (t.graphPasid g) (fieldLe bs 16 8) 4 = (u, .ok w)) :
    HomeWork s u ∧ exec (.condNode graph node) s = .next (s.orSnoop (
      if leNat w ≠ 0 ∧ (fieldLe bs 36 4 = 0 ∨ fieldLe bs 40 4 < fieldLe bs 36 4) then (u.condWaits graph node).armCond graph node
        { g with running := insertNew node g.running, rearm := insertNew node g.rearm } bs
      else (u.runNode graph node).finishNode graph node [])) := by
  have work := (dispatches_work h).trans (homeWork_then (t.engineRead_work _ _ _) hread)
  have ⟨hg, _, _, _, hrearm, _⟩ := h
  refine ⟨work, ?_⟩
  have fresh : (kget s.graphs graph).filter (fun g => g.rearm.contains node) = none := by
    rw [hg, Option.filter]
    simp [hrearm]
  change execCondNode graph node s = _
  rw [execCondNode, State.condNode, fresh]
  dsimp only
  rw [show kindCond = 1 from rfl, dispatch_of h]
  simp only [hread]
  rw [show (u.runNode graph node).modGraph graph (fun g => { g with rearm := insertNew node g.rearm }) = u.condWaits graph node from rfl,
    condWaits_graph h work]

/-- A COND node: it ends, waits for its range, or re-arms it. -/
theorem condNode_ok {w : List Byte} (h : Dispatches s t graph node 1 g bs)
    (hread : t.engineRead (t.graphPasid g) (fieldLe bs 16 8) 4 = (u, .ok w)) (hsnoop : NoSnoop s u) {more : Prop}
    (hmore : more ↔ leNat w ≠ 0 ∧ (fieldLe bs 36 4 = 0 ∨ fieldLe bs 40 4 < fieldLe bs 36 4)) :
    (¬more → Becomes (.condNode graph node) s fun v => NodeEnded v graph node) ∧
    (more → (∃ n ∈ condRange bs, n ≠ node ∧ s.nodeBusy graph g n = true) → exec (.condNode graph node) s = .next (u.condWaits graph node)) ∧
    ∀ (v z : State), more → (∀ n ∈ condRange bs, n = node ∨ s.nodeBusy graph g n = false) → s.pool.length ≤ 4096 → s.poolWait = [] →
      (u.condWaits graph node).cmdWrite (t.graphPasid g) (nodeVa g.addr node + 40) (leBytes 4 (fieldLe bs 40 4 + 1)) = (v, .ok ()) →
      v.rearmNodes (t.graphPasid g) g.addr (condRange bs) = (z, .ok ()) → NoSnoop s z →
      Becomes (.condNode graph node) s fun w => w.dev = z.dev ∧ w.host = z.host ∧
        w.pool = (s.pool.filter fun y => y != (graph, node)) ++ [(graph, fieldLe bs 24 4)] ∧
        ∃ y, kget w.graphs graph = some y ∧ node ∉ y.running ∧ node ∉ y.rearm := by
  obtain ⟨work, hexec⟩ := condNode_read h hread
  have pasid : (u.condWaits graph node).graphPasid
      { g with running := insertNew node g.running, rearm := insertNew node g.rearm } = t.graphPasid g := by
    change (u.queue g.q).pasid = (t.queue g.q).pasid
    rw [State.queue, State.queue, (homeWork_then (t.engineRead_work _ _ _) hread).queues]
  refine ⟨fun hno => ?_, fun hyes hbusy => ?_, fun v z hyes hfree hlen hwait hwrite hrearm hquiet => ?_⟩
  · rw [if_neg (fun hc => hno (hmore.mpr hc))] at hexec
    exact ⟨_, exec_of_part hexec (u.runNode_hostOut graph node) hsnoop, nodeEnded_finish (runNode_graph h work) (runNode_pool h work) []⟩
  · obtain ⟨n, hn, hne, hb⟩ := hbusy
    rw [if_pos (hmore.mp hyes), armCond_busy ⟨n, hn, hne, (condWaits_busy work hne).trans hb⟩] at hexec
    exact exec_of_part hexec (u.condWaits_hostOut graph node) hsnoop
  · obtain ⟨hpool, hwaits⟩ := leavePool_of_noWait (work.poolWait.trans hwait) graph node
    rw [work.pool] at hpool
    have ⟨_, hhead, _⟩ := h
    have room : (s.pool.filter fun y => y != (graph, node)).length < poolSize := by
      have : (s.pool.filter fun y => y != (graph, node)).length < s.pool.length := by
        rw [List.length_filter_lt_length_iff_exists]
        exact ⟨(graph, node), List.mem_of_mem_head? hhead, by simp⟩
      exact Nat.lt_of_lt_of_le this hlen
    rw [← pasid] at hwrite hrearm
    obtain ⟨w, hw, hout, hdev, hhost, hwpool, hwgraph⟩ := armCond_free (s := u.condWaits graph node) (v := v) (z := z)
      (fun n hn => or_iff_not_imp_left.mpr fun hne => (condWaits_busy work hne).trans ((hfree n hn).resolve_left hne))
      (condWaits_graph h work) (by rw [show (u.condWaits graph node).pool = _ from hpool]; exact room) hwaits hwrite hrearm
    rw [if_pos (hmore.mp hyes), hw] at hexec
    exact ⟨w, exec_of_part hexec hout hquiet, hdev, hhost, hwpool.trans (congrArg (· ++ _) hpool), hwgraph⟩

/-- A COND node that waits to re-arm its range does so when its other nodes are free. -/
theorem condNode_again {v z : State} (hg : kget s.graphs graph = some g) (hnode : node ∈ g.rearm) (hwaits : s.nodeWaits graph node = false)
    (hread : s.engineRead (s.graphPasid g) (nodeVa g.addr node) 64 = (t, .ok bs))
    (hfree : ∀ n ∈ condRange bs, n = node ∨ s.nodeBusy graph g n = false) (hroom : s.pool.length < 4096) (hwait : s.poolWait = [])
    (hwrite : t.cmdWrite (t.graphPasid g) (nodeVa g.addr node + 40) (leBytes 4 (fieldLe bs 40 4 + 1)) = (v, .ok ()))
    (hrearm : v.rearmNodes (t.graphPasid g) g.addr (condRange bs) = (z, .ok ())) (hsnoop : NoSnoop s z) :
    Becomes (.condNode graph node) s fun w => w.dev = z.dev ∧ w.host = z.host ∧ w.pool = s.pool ++ [(graph, fieldLe bs 24 4)] ∧
      ∃ y, kget w.graphs graph = some y ∧ node ∉ y.running ∧ node ∉ y.rearm := by
  have work := homeWork_then (s.engineRead_work _ _ _) hread
  have busy : ∀ n, t.nodeBusy graph g n = s.nodeBusy graph g n := fun n => by rw [State.nodeBusy, State.nodeBusy, work.pool, work.poolWait]
  obtain ⟨w, hw, hout, hdev, hhost, hpool, hgraph⟩ := armCond_free (fun n hn => (hfree n hn).imp_right fun hb => (busy n).trans hb)
    (work.graphs ▸ hg) (by rw [work.pool]; exact hroom) (work.poolWait.trans hwait) hwrite hrearm
  have waiting : (kget s.graphs graph).filter (fun g => g.rearm.contains node) = some g := by
    rw [hg, Option.filter]
    simp [hnode]
  have hexec : exec (.condNode graph node) s = .next (s.orSnoop w) := by
    change execCondNode graph node s = _
    rw [execCondNode, State.condNode, waiting]
    simp only [hwaits, Bool.false_eq_true, if_false, hread, hw]
  exact ⟨w, exec_of_part hexec hout hsnoop, hdev, hhost, hpool.trans (congrArg (· ++ _) work.pool), hgraph⟩

/-- A SIGNAL node performs its atomic. -/
theorem signalNode_ok {pa : Nat} (h : Dispatches s t graph node 2 g bs)
    (hx : (t.runNode graph node).engineXl (t.graphPasid g) (fieldLe bs 16 8) .store = (u, .ok pa true)) (hm : u.memWf)
    (hcause : u.dataCause pa 8 = none) (hdev : isDevice pa = true) (hpa : pa % 128 ≤ 120) (hshared : (u.home (pa / 128)).shared = false)
    (hsnoop : NoSnoop s u) :
    Becomes (.signalNode graph node) s fun v => NodeEnded v graph node ∧
      Stored u.readPa v.readPa pa (leBytes 8 (signalFn (fieldLe bs 32 1) (fieldLe bs 24 8) (u.readNat pa 8) % 2 ^ 64)) := by
  obtain ⟨v, hatom, placed⟩ := State.cmdAtomic_placed hx hm hcause hdev hpa hshared (signalFn (fieldLe bs 32 1) (fieldLe bs 24 8))
  have work := (homeWork_then (State.engineXl_work _ _ _ _) hx).trans placed.work
  have hexec : exec (.signalNode graph node) s = .next (s.orSnoop (v.finishNode graph node [])) := by
    change execSignalNode graph node s = _
    rw [execSignalNode, State.signalNode, show kindSignal = 2 from rfl, dispatch_of h, State.runSignal, hatom]
  refine ⟨_, exec_of_part hexec placed.hostOut hsnoop, nodeEnded_finish (g := { g with running := insertNew node g.running }) ?_ ?_ [], ?_⟩
  · rw [work.graphs]; exact runNode_graph h (dispatches_work h)
  · rw [work.pool]; exact runNode_pool h (dispatches_work h)
  · exact placed.stored

/-- An XFER node copies its bytes. -/
theorem xferNode_ok {v : State} {data : List Byte} (h : Dispatches s t graph node 3 g bs)
    (hread : (t.runNode graph node).engineRead (t.graphPasid g) (fieldLe bs 16 8) (fieldLe bs 32 4) = (u, .ok data))
    (hwrite : u.engineWrites (bulkAgent (t.queueHead g.q)) none (t.graphPasid g) [(fieldLe bs 24 8, data)] = (v, .ok ()))
    (hsnoop : NoSnoop s v) :
    Becomes (.xferNode graph node) s fun w => NodeEnded w graph node ∧ w.dev = v.dev ∧ w.host = v.host := by
  have ⟨hg, _, _, hrunning, _⟩ := h
  have read := homeWork_then (State.engineRead_work _ _ _ _) hread
  have written := State.engineWrites_merge u (bulkAgent (t.queueHead g.q)) none (t.graphPasid g) [(fieldLe bs 24 8, data)]
  rw [hwrite] at written
  have work : MergeWork (t.runNode graph node) v := (MergeWork.ofHome read).trans written
  have fresh : (kget s.graphs graph).filter (fun g => g.running.contains node && (kget g.gangs node).isNone && !g.rearm.contains node) =
      none := by
    rw [hg, Option.filter]
    simp [hrunning]
  have hexec : exec (.xferNode graph node) s = .next (s.orSnoop ((v.release (bulkAgent (t.queueHead g.q)) .system).1.finishNode graph node
      [(v.release (bulkAgent (t.queueHead g.q)) .system).2])) := by
    change execXferNode graph node s = _
    rw [execXferNode, State.xferNode, fresh]
    dsimp only
    rw [show kindXfer = 3 from rfl, dispatch_of h, State.copyNode]
    rw [show (t.runNode graph node).graphPasid g = t.graphPasid g from rfl, show (t.runNode graph node).queueHead g.q = t.queueHead g.q from rfl]
    simp only [hread, hwrite]
  refine ⟨_, exec_of_part (u := v) hexec rfl hsnoop, nodeEnded_finish (g := { g with running := insertNew node g.running }) ?_ ?_ _, rfl, rfl⟩
  · change kget v.graphs graph = _
    rw [work.eq]
    exact runNode_graph h (dispatches_work h)
  · change (graph, node) ∉ v.pool
    rw [work.eq]
    exact runNode_pool h (dispatches_work h)

theorem loopCount_work (pasid addr node : Nat) (l : List Nat) (s : State) : HomeWork s (s.loopCount pasid addr node l).1 := by
  induction l generalizing s with
  | nil => exact .refl s
  | cons i l ih =>
    unfold State.loopCount
    split
    · next t bs hx =>
      have read := homeWork_then (s.engineRead_work _ _ _) hx
      split
      · exact read
      · exact read.trans (ih t)
    · next hx => exact homeWork_then (s.engineRead_work _ _ _) hx

end

/-- The vectors after an event depend on the vectors and the tick alone, and the heads. -/
theorem vectorEvent_vectors {u v : State} (hv : u.vectors = v.vectors) (ht : u.tick = v.tick) (hh : u.heads = v.heads) (vec head : Nat) :
    (u.vectorEvent vec head).vectors = (v.vectorEvent vec head).vectors := by
  have same : u.vector vec = v.vector vec := by rw [State.vector, State.vector, hv]
  have sent : ∀ a b : State, a.vectors = b.vectors → a.heads = b.heads → (a.sendVector vec).vectors = (b.sendVector vec).vectors := by
    intro a b hab hheads
    rw [State.sendVector, State.sendVector, State.vector, State.vector, State.head, State.head, hab, hheads]
    split <;> simp [hab]
  rw [State.vectorEvent, State.vectorEvent, same, ht, hv]
  dsimp only
  split
  · exact sent _ _ rfl hh
  · rfl

/-- The state in which a NOTE node's value is not denied any more. -/
def noteRead (s : State) (graph node : Nat) : State := s.modGraph graph fun g => { g with unread := g.unread.filter fun n => n != node }

/-- A NOTE node writes its entry and adds its interrupt event. -/
theorem noteNode_ok {s t t1 u v : State} {graph node count : Nat} {g : GraphRun} {bs : List Byte} (h : Dispatches s t graph node 4 g bs)
    (hva : fieldLe bs 24 8 = 0)
    (hcount : (t.runNode graph node).loopCount (t.graphPasid g) g.addr node (List.range g.nnode) = (t1, .ok count))
    (hwrite : t1.cmdWrite (t.graphPasid g) (fieldLe bs 16 8 + 32 * (fieldLe bs 40 8 % 2 ^ fieldLe bs 32 1))
      (leBytes 8 0 ++ leBytes 8 s.tick ++ leBytes 4 node ++ leBytes 4 count ++ leBytes 8 (fieldLe bs 40 8)) = (u, .ok ()))
    (hwidx : u.cmdWrite (t.graphPasid g) (nodeVa g.addr node + 40) (leBytes 8 (fieldLe bs 40 8 + 1)) = (v, .ok ()))
    (hsnoop : NoSnoop s v) :
    Becomes (.noteNode graph node) s fun w => NodeEnded w graph node ∧ w.dev = v.dev ∧ w.host = v.host ∧
      w.vectors = (v.vectorEvent (fieldLe bs 34 2) (t.queueHead g.q)).vectors := by
  have counted := homeWork_then (loopCount_work _ _ _ _ _) hcount
  have tick : t1.tick = s.tick := counted.tick.trans (dispatches_work h).tick
  have work := (counted.trans (homeWork_then (t1.cmdWrite_work _ _ _) hwrite)).trans (homeWork_then (u.cmdWrite_work _ _ _) hwidx)
  have value : t1.noteValue graph node g bs = (t1, .ok (leBytes 8 0)) := if_pos hva
  rw [← tick] at hwrite
  have noted : s.noteNode graph node =
      ((noteRead v graph node).vectorEvent (fieldLe bs 34 2) (t.queueHead g.q)).finishNode graph node [] := by
    rw [State.noteNode, show kindNote = 4 from rfl, dispatch_of h]
    simp only [hcount, value, hwrite, hwidx]
    rfl
  obtain ⟨vectors, out, hvec⟩ := (noteRead v graph node).vectorEvent_frame (fieldLe bs 34 2) (t.queueHead g.q)
  have quiet : NoSnoop s ((noteRead v graph node).vectorEvent (fieldLe bs 34 2) (t.queueHead g.q)) :=
    noSnoop_vectorEvent (v := noteRead v graph node) ((newSnoops_congr rfl).trans hsnoop) _ _
  have hexec : exec (.noteNode graph node) s = .next (s.orSnoop (s.noteNode graph node)) := rfl
  rw [noted] at hexec
  have hvectors : ((noteRead v graph node).vectorEvent (fieldLe bs 34 2) (t.queueHead g.q)).vectors =
      (v.vectorEvent (fieldLe bs 34 2) (t.queueHead g.q)).vectors := vectorEvent_vectors (u := noteRead v graph node) (v := v) rfl rfl rfl _ _
  refine ⟨_, exec_of_part hexec (State.finishNode_hostOut ..) quiet, nodeEnded_finish
    (g := { g with running := insertNew node g.running, unread := g.unread.filter fun n => n != node }) ?_ ?_ [], ?_, ?_, hvectors⟩
  · rw [hvec]
    change kget (kmod v.graphs graph _) graph = _
    rw [kget_kmod_self, work.graphs, runNode_graph h (dispatches_work h)]
    rfl
  · rw [hvec]
    change (graph, node) ∉ v.pool
    rw [work.pool]
    exact runNode_pool h (dispatches_work h)
  · rw [hvec]; rfl
  · rw [hvec]; rfl

/-- The graph without a node that has completed. -/
def nodeGone (node : Nat) (g : GraphRun) : GraphRun :=
  { g with done := g.done.filter fun d => d.1 != node, running := g.running.filter fun n => n != node, gangs := kdel g.gangs node }

/-- A node completes: its one successor, whose PCNT falls to 0, enters the pool. -/
theorem nodeComplete_ok {s u v w x : State} {graph node k : Nat} {g : GraphRun} {bs n : List Byte} (hg : kget s.graphs graph = some g)
    (hstopped : g.stopped = false) (hdead : s.graphDead g = false) (hwaits : s.nodeWaits graph node = false)
    (hdone : g.done.find? (fun d => d.1 == node) = some (node, [])) (hroom : s.pool.length < 4096) (hwait : s.poolWait = [])
    (hread : (s.modGraph graph (nodeGone node)).engineRead (s.graphPasid g) (nodeVa g.addr node) 64 = (u, .ok bs))
    (hsuccs : u.nodeSuccs (s.graphPasid g) bs = (v, .ok [k])) (hk : k < g.nnode)
    (hpcnt : v.engineRead (s.graphPasid g) (nodeVa g.addr k + 4) 2 = (w, .ok n)) (hn : leNat n = 1)
    (hwrite : w.cmdWrite (s.graphPasid g) (nodeVa g.addr k + 4) (leBytes 2 0) = (x, .ok ())) (hsnoop : NoSnoop s x) :
    Becomes (.nodeComplete graph node) s fun z => z.pool = s.pool ++ [(graph, k)] ∧ z.dev = x.dev ∧ z.host = x.host ∧
      ∃ y, kget z.graphs graph = some y ∧ y.gangs = kdel g.gangs node ∧ ∀ d ∈ y.done, d.1 ≠ node := by
  have work := (((homeWork_then (State.engineRead_work _ _ _ _) hread).trans (homeWork_then (u.nodeSuccs_work _ _) hsuccs)).trans
    (homeWork_then (v.engineRead_work _ _ _) hpcnt)).trans (homeWork_then (w.cmdWrite_work _ _ _) hwrite)
  have room : x.pool.length < poolSize ∧ x.poolWait = [] := by rw [work.pool, work.poolWait]; exact ⟨hroom, hwait⟩
  have released : (s.modGraph graph (nodeGone node)).releaseSuccs graph node g = ({ x with pool := x.pool ++ [(graph, k)] }, .ok ()) := by
    rw [State.releaseSuccs, show (s.modGraph graph (nodeGone node)).graphPasid g = s.graphPasid g from rfl]
    simp only [hread, hsuccs, hk, decide_true, List.filter_cons_of_pos, List.filter_nil, State.releaseNodes, hpcnt, hn, hwrite, one_ne_zero,
      if_false, Nat.sub_self, if_true]
    rw [State.enterPool_room room.1 room.2]
  have completed : s.completeNode graph node = { x with pool := x.pool ++ [(graph, k)] } := by
    have dead : ¬(g.stopped || s.graphDead g) = true := by rw [hstopped, hdead]; exact Bool.false_ne_true
    rw [State.completeNode]
    simp only [hg, hwaits, Bool.false_eq_true, if_false, hdone]
    rw [State.nodeDone, if_neg dead, State.closeTags, List.foldl_nil]
    unfold nodeGone at released
    rw [released]
  have hexec : exec (.nodeComplete graph node) s = .next (s.orSnoop (s.completeNode graph node)) := rfl
  rw [completed] at hexec
  refine ⟨_, exec_of_part (u := x) hexec rfl hsnoop, congrArg (· ++ _) work.pool, rfl, rfl, nodeGone node g, ?_, rfl, fun d hd => ?_⟩
  · rw [work.graphs]
    change kget (kmod s.graphs graph _) graph = _
    rw [kget_kmod_self, hg]
    rfl
  · simpa using (List.mem_filter.mp hd).2

/-- Settles O54: the work of a node is home work over the state in which it has left the pool. -/
theorem graphEvents : Obligations.GraphEvents := by
  unfold Obligations.GraphEvents
  refine ⟨?_, ?_, ?_, ?_, ?_, ?_, ?_⟩
  · intro s t u graph node g bs l chips h hcheck
    exact kernelNode_ok h hcheck
  · intro s t u graph node g bs w h hread hsnoop
    exact condNode_ok h hread hsnoop Iff.rfl
  · intro s t v z graph node g bs hg hnode hwaits hread range hfree hroom hwait hwrite hrearm hsnoop
    exact condNode_again hg hnode hwaits hread hfree hroom hwait hwrite hrearm hsnoop
  · intro s t u graph node pa g bs h hx hm hcause hdev hpa hshared hsnoop
    exact signalNode_ok h hx hm hcause hdev hpa hshared hsnoop
  · intro s t u v graph node g bs data h hread hwrite hsnoop
    exact xferNode_ok h hread hwrite hsnoop
  · intro s t t1 u v graph node count g bs h hva hcount hwrite hwidx hsnoop
    exact noteNode_ok h hva hcount hwrite hwidx hsnoop
  · intro s u v w x graph node k g bs n hg hstopped hdead hwaits hdone _ hroom hwait t hread hsuccs hk hpcnt hn hwrite hsnoop
    exact nodeComplete_ok hg hstopped hdead hwaits hdone hroom hwait hread hsuccs hk hpcnt hn hwrite hsnoop

end Sys2Proof.Proofs
end

section
/-! PROOF. Heads (R373, R374, R376, R407): what reports and interrupts leave, counters of occupancy, vectors, heartbeats and adoption. -/

-- Theorems one after another, not at once: this bounds the memory that a compile of the whole text takes.
set_option Elab.async false

namespace Sys2Proof.Machine

open Sys2Proof.Terms

/-! ## Reports (R398, R399) -/

/-- From s to t only a report has been kept or written: in the log of the service, in a host's memory with its counts and interrupts, or
among those held. -/
structure ReportWork (s t : State) : Prop where
  eq : t = { s with
    host := t.host, tags := t.tags, agents := t.agents, heads := t.heads, vectors := t.vectors, hostOut := t.hostOut, held := t.held
    asking := t.asking, svcLog := t.svcLog }
  head : ∀ k, t.head k = { s.head k with evw := (t.head k).evw }
  quiet : ∀ z, NoSnoop z s → NoSnoop z t

namespace ReportWork

variable {s t u : State}

theorem refl (s : State) : ReportWork s s := ⟨rfl, fun _ => rfl, fun _ h => h⟩

theorem trans (h : ReportWork s t) (g : ReportWork t u) : ReportWork s u :=
  ⟨by rw [g.eq, h.eq], fun k => by rw [g.head, h.head], fun z hz => g.quiet z (h.quiet z hz)⟩

end ReportWork

theorem head_modHead (s : State) (h k : Nat) (f : Head → Head) : (s.modHead h f).head k = if k = h then f (s.head h) else s.head k := by
  unfold State.head State.modHead kgetD
  rw [kget_kset]
  split <;> rfl

/-- A report is held, or written and counted in the ring of its head, with an interrupt event. -/
theorem State.toHost_cases (s : State) (r : Report) :
    (∃ held, s.toHost r = { s with held := held }) ∨ ∃ (agents : KMap Agent) (host : Mem) (tags : KMap (List RelTag)) (vec : Nat), s.toHost r =
      (({ s with agents := agents, host := host, tags := tags } : State).modHead r.head fun h => { h with evw := h.evw + 1 }).vectorEvent vec
        r.head := by
  unfold State.toHost
  split
  · next base logsz vec _ => exact .inr ⟨_, _, _, vec, rfl⟩
  · exact .inl ⟨_, rfl⟩

theorem State.toHost_work (s : State) (r : Report) : ReportWork s (s.toHost r) := by
  rcases s.toHost_cases r with ⟨held, h⟩ | ⟨agents, host, tags, vec, h⟩
  · rw [h]; exact ⟨rfl, fun _ => rfl, fun z hz => (newSnoops_congr rfl).trans hz⟩
  · rw [h]
    have counted : ReportWork s (({ s with agents := agents, host := host, tags := tags } : State).modHead r.head fun h =>
        { h with evw := h.evw + 1 }) := by
      refine ⟨rfl, fun k => ?_, fun z hz => (newSnoops_congr rfl).trans hz⟩
      rw [head_modHead]
      split
      · next hk => rw [hk]; rfl
      · rfl
    generalize (({ s with agents := agents, host := host, tags := tags } : State).modHead r.head fun h =>
        { h with evw := h.evw + 1 }) = u at counted ⊢
    obtain ⟨vectors, out, hv⟩ := u.vectorEvent_frame vec r.head
    exact counted.trans ⟨by rw [hv], fun k => by rw [hv]; rfl, fun z hz => noSnoop_vectorEvent hz _ _⟩

theorem State.report_work (s : State) (r : Report) : ReportWork s (s.report r) := by
  have logged : ∀ (log : List Report) (asking : List (Nat × Report)), ReportWork s { s with svcLog := log, asking := asking } :=
    fun log asking => ⟨rfl, fun _ => rfl, fun z hz => (newSnoops_congr rfl).trans hz⟩
  obtain ⟨log, waiting, h | h⟩ := s.report_cases r
  · rw [h]; exact logged log waiting
  · rw [h]; exact (logged log s.asking).trans (State.toHost_work _ _)

theorem State.plainReport_work (s : State) (c : Cause) (q head addr : Nat) : ReportWork s (s.plainReport c q head addr) := s.report_work _

/-! ## Heads -/

/-- A head that fails: the mark, the failover flag, the threshold area and a report, and nothing else. -/
theorem State.failHead_spec {s : State} {head : Nat} (h : (s.head head).failed = false) :
    (s.failHead head).failover = true ∧ (s.failHead head).crews = s.crews ∧ (s.failHead head).hostDown = s.hostDown ∧
      (s.failHead head).tick = s.tick ∧
      ∀ k, (s.failHead head).head k = { s.head k with failed := (s.head k).failed || k == head, evw := ((s.failHead head).head k).evw } := by
  obtain ⟨d, m, hw⟩ := State.writeThrHead_frame { s.modHead head fun h => { h with failed := true } with failover := true }
  have failed : s.failHead head = ({ s.modHead head fun h => { h with failed := true } with failover := true, dev := d, host := m } :
      State).plainReport 0xBE 0 (otherHead head) head := by
    rw [State.failHead, if_neg (by rw [h]; exact Bool.false_ne_true), hw]
  have work := State.plainReport_work { s.modHead head fun h => { h with failed := true } with failover := true, dev := d, host := m } 0xBE 0
    (otherHead head) head
  rw [← failed] at work
  refine ⟨by rw [work.eq], by rw [work.eq]; rfl, by rw [work.eq]; rfl, by rw [work.eq]; rfl, fun k => ?_⟩
  have before : ({ s.modHead head fun h => { h with failed := true } with failover := true, dev := d, host := m } : State).head k =
      { s.head k with failed := (s.head k).failed || k == head } := by
    refine Eq.trans (head_modHead s head k fun h => { h with failed := true }) ?_
    split
    · next hk => subst hk; simp
    · next hk => rw [beq_false_of_ne hk, Bool.or_false]
  rw [work.head k, before]

namespace ReportWork

variable {s t : State}

theorem foldl {β : Type} {f : State → β → State} (hf : ∀ u x, ReportWork u (f u x)) (l : List β) (s : State) : ReportWork s (l.foldl f s) := by
  induction l generalizing s with
  | nil => exact .refl s
  | cons x l ih => exact (hf s x).trans (ih _)

theorem sendVector (s : State) (v : Nat) : ReportWork s (s.sendVector v) := by
  unfold State.sendVector
  dsimp only
  split
  · exact .refl s
  · exact ⟨rfl, fun _ => rfl, fun z hz => noSnoop_append hz (m := .msix (s.vector v).head v) (fun _ => ⟨by simp, by simp⟩) rfl⟩

theorem queues (h : ReportWork s t) : t.queues = s.queues := by rw [h.eq]

end ReportWork

/-- The vectors and the reports of a failed head move to the other. -/
theorem State.moveVectors_work (s : State) (head : Nat) : ReportWork s (s.moveVectors head) := by
  have moved : ReportWork s { s with
      vectors := kmap s.vectors fun _ v => if v.head = otherHead head then { v with head := head } else v } :=
    ⟨rfl, fun _ => rfl, fun z hz => (newSnoops_congr rfl).trans hz⟩
  refine moved.trans (.foldl (fun u v => ?_) _ _)
  split
  · exact .sendVector u v
  · exact .refl u

theorem State.moveReports_work (s : State) (head : Nat) : ReportWork s (s.moveReports head) := by
  have kept : ReportWork s { s with
      held := s.held.filter fun r => r.head != otherHead head } :=
    ⟨rfl, fun _ => rfl, fun z hz => (newSnoops_congr rfl).trans hz⟩
  exact kept.trans (.foldl (fun (u : State) (r : Report) => u.toHost_work { r with head := head }) _ _)

/-- A change that is the same made twice, of the queues of a list. -/
theorem State.queue_foldl_modQueue {f : Queue → Queue} (hf : ∀ x, f (f x) = f x) (l : List Nat) (s : State) (k : Nat) :
    (l.foldl (fun (t : State) q => t.modQueue q f) s).queue k = if k ∈ l then f (s.queue k) else s.queue k := by
  induction l generalizing s with
  | nil => rfl
  | cons q l ih =>
    obtain ⟨d, h, hq⟩ := s.modQueue_frame q f
    rw [List.foldl_cons, ih, hq]
    by_cases hk : k = q
    · subst hk
      rw [queue_kset_self rfl, hf]
      simp
    · rw [queue_kset_ne rfl hk]
      simp [hk]

end Sys2Proof.Machine

namespace Sys2Proof.Proofs

open Sys2Proof.Machine Sys2Proof.Terms

/-! ## Occupancy and interrupts -/

/-- Below READY an access to a register is reported. -/
theorem hostAccess_of_notReady {s : State} (h : s.stage ≠ stageReady) (head off : Nat) (k : State → State) :
    s.hostAccess head off k = s.notReady head off := if_neg h

/-- OCC_READ clears its counter. -/
theorem occRead_ok {s : State} {core phase : Nat} {k : OccRead} (hstage : s.stage = stageReady) (hcore : core < 768) (hphase : phase < 16) :
    Becomes (.occRead core phase k) s fun t => t = { s with cores := t.cores } ∧ (∀ c, c ≠ core → t.core c = s.core c) ∧
      t.core core = { s.core core with occ := (t.core core).occ } ∧
      ∀ n, kget (t.core core).occ n = if n = 3 * phase + occPlace k.kind then none else kget (s.core core).occ n := by
  have hexec : exec (.occRead core phase k) s =
      .next (s.modCore core fun c => { c with occ := kdel c.occ (occKey phase (occPlace k.kind)) }) := by
    change execOccRead core phase k s = _
    rw [execOccRead, if_pos (show core < Config.cores ∧ phase < 16 from ⟨hcore, hphase⟩), State.hostAccess, if_pos hstage]
    rfl
  have here : (s.modCore core fun c => { c with occ := kdel c.occ (occKey phase (occPlace k.kind)) }).core core =
      { s.core core with occ := kdel (s.core core).occ (occKey phase (occPlace k.kind)) } := kgetD_kset_self _ _ _ _
  refine ⟨_, hexec, rfl, fun c hc => kgetD_kset_ne _ _ _ hc, by rw [here], fun n => ?_⟩
  rw [here]
  split
  · next hn => rw [show n = occKey phase (occPlace k.kind) from hn]; exact kget_kdel_self _ _
  · next hn => exact kget_kdel_ne _ (show n ≠ occKey phase (occPlace k.kind) from hn)

section

variable {s : State} {v : Nat} (hpend : (s.vector v).pend ≠ 0) (hup : (s.head (s.vector v).head).linkUp = true)

include hpend hup

/-- VECTOR_TIMER sends the message of a vector. -/
theorem vectorTimer_ok (hmask : (s.vector v).masked = false) (htime : (s.vector v).time ≠ 0)
    (hfirst : (s.vector v).first + 1000 * (s.vector v).time ≤ s.tick) :
    exec (.vectorTimer v) s = .next { s with vectors := kset s.vectors v { s.vector v with pend := 0 }
                                             hostOut := s.hostOut ++ [.msix (s.vector v).head v] } := by
  change execVectorTimer v s = _
  rw [execVectorTimer, if_pos ⟨htime, hfirst⟩, State.sendVector]
  simp [hmask, hpend, hup]

/-- VECTOR_UNMASK sends the message of a vector. -/
theorem vectorUnmask_ok (hmask : (s.vector v).masked = true) :
    Becomes (.vectorUnmask v) s fun t => t = { s with vectors := t.vectors, hostOut := t.hostOut } ∧
      t.vector v = { s.vector v with pend := 0, masked := false } ∧ t.hostOut = s.hostOut ++ [.msix (s.vector v).head v] := by
  have open_ : ({ s with vectors := kset s.vectors v { s.vector v with masked := false } } : State).vector v =
      { s.vector v with masked := false } := kgetD_kset_self _ _ _ _
  have sent : ({ s with vectors := kset s.vectors v { s.vector v with masked := false } } : State).sendVector v =
      { s with vectors := kset (kset s.vectors v { s.vector v with masked := false }) v { s.vector v with pend := 0, masked := false }
               hostOut := s.hostOut ++ [.msix (s.vector v).head v] } := by
    rw [State.sendVector, open_]
    refine if_neg ?_
    change ¬(false || (s.vector v).pend == 0 || !(s.head (s.vector v).head).linkUp) = true
    simp [hpend, hup]
  have hexec : exec (.vectorUnmask v) s =
      .next (({ s with vectors := kset s.vectors v { s.vector v with masked := false } } : State).sendVector v) := by
    change execVectorUnmask v s = _
    rw [execVectorUnmask, if_pos hmask]
  rw [sent] at hexec
  exact ⟨_, hexec, rfl, kgetD_kset_self _ _ _ _, rfl⟩

end

/-! ## Heartbeats and adoption -/

section

variable {s : State} {head : Fin 2}

/-- A heartbeat is noted. -/
theorem heartbeat_ok (hstage : s.stage = stageReady) :
    Becomes (.heartbeat head) s fun t => t = { s with heads := t.heads, dev := t.dev, host := t.host } ∧
      t.head head.val = { s.head head.val with hb := s.tick, failed := (s.head head.val).failed && !(s.head head.val).linkUp } := by
  have hexec : exec (.heartbeat head) s = .next (s.heartbeat head.val) := by
    change execHeartbeat head s = _
    rw [execHeartbeat, State.hostAccess, if_pos hstage]
  obtain ⟨d, h, hw⟩ := (s.modHead head.val fun h => { h with hb := s.tick, failed := h.failed && !h.linkUp }).writeThrHead_frame
  rw [State.heartbeat, hw] at hexec
  exact ⟨_, hexec, rfl, kgetD_kset_self _ _ _ _⟩

/-- A head without a heartbeat for 10 ms fails. -/
theorem heartbeatTimeout_ok (hstage : s.stage = stageReady) (hlate : (s.head head.val).hb + 10000000 ≤ s.tick)
    (hfailed : (s.head head.val).failed = false) :
    Becomes (.heartbeatTimeout head) s fun t => (t.head head.val).failed = true ∧ t.failover = true ∧ t.crews = s.crews := by
  obtain ⟨hover, hcrews, -, -, hhead⟩ := State.failHead_spec hfailed
  have hexec : exec (.heartbeatTimeout head) s = .next (s.failHead head.val) := by
    change execHeartbeatTimeout head s = _
    rw [execHeartbeatTimeout, if_pos ⟨hstage, hlate⟩]
  exact ⟨_, hexec, by rw [hhead]; simp, hover, hcrews⟩

/-- The loss of a head's link fails it. -/
theorem headLinkDown_ok (hfailed : (s.head head.val).failed = false) :
    Becomes (.headLinkDown head) s fun t =>
      (t.head head.val).failed = true ∧ (t.head head.val).linkUp = false ∧ t.failover = true ∧ t.crews = s.crews ∧
      t.hostDown = if (s.head (1 - head.val)).linkUp || s.hostDown.isSome then s.hostDown else some s.tick := by
  have here : (s.modHead head.val fun h => { h with linkUp := false }).head head.val = { s.head head.val with linkUp := false } := by
    rw [head_modHead, if_pos rfl]
  have other : 1 - head.val ≠ head.val := by omega
  obtain ⟨hover, hcrews, hdown, htick, hhead⟩ := State.failHead_spec (s := s.modHead head.val fun h => { h with linkUp := false })
    (head := head.val) (by rw [here]; exact hfailed)
  have hexec : exec (.headLinkDown head) s = .next (
      let t := (s.modHead head.val fun h => { h with linkUp := false }).failHead head.val
      if (t.head (otherHead head.val)).linkUp || t.hostDown.isSome then t else { t with hostDown := some t.tick }) := rfl
  have up : (((s.modHead head.val fun h => { h with linkUp := false }).failHead head.val).head (otherHead head.val)).linkUp =
      (s.head (1 - head.val)).linkUp := by
    rw [hhead, otherHead, head_modHead, if_neg other]
  dsimp only at hexec
  rw [up, hdown] at hexec
  have fields := hhead head.val
  rw [here] at fields
  refine ⟨_, hexec, ?_⟩
  split
  · next h => exact ⟨by rw [fields]; simp, by rw [fields], hover, hcrews, hdown.trans (if_pos h).symm⟩
  · next h =>
    refine ⟨(congrArg Head.failed fields).trans (by simp), congrArg Head.linkUp fields, hover, hcrews, ?_⟩
    exact (congrArg some htick).trans (if_neg h).symm

end

/-- Adoption binds the queues of the failed head to the other one, and moves its vectors and its reports. -/
theorem ceAdopt_ok {s : State} {head : Fin 2} (hstage : s.stage = stageReady) (hfailed : (s.head (1 - head.val)).failed = true)
    (hepoch : s.epoch + 1 < 2 ^ 32) (hrising : Rising s.queues) :
    Becomes (.ceAdopt head (s.epoch + 1)) s fun t => t.epoch = s.epoch + 1 ∧ t.primary = head.val ∧ ∀ q x, kget s.queues q = some x →
      t.queue q = if x.head = 1 - head.val then { x with head := head.val, state := .adopting } else x := by
  let mine := (s.queues.filter fun q => q.2.head == otherHead head.val).map Prod.fst
  let claimed := mine.foldl (fun (t : State) q => t.modQueue q fun x => x.adopted head.val) s
  let marked : State := { claimed with epoch := s.epoch + 1, primary := head.val }
  obtain ⟨d, h, hthr⟩ := marked.writeThrHead_frame
  have work : ReportWork marked.writeThrHead ((marked.writeThrHead.moveVectors head.val).moveReports head.val) :=
    (State.moveVectors_work _ _).trans (State.moveReports_work _ _)
  have hexec : exec (.ceAdopt head (s.epoch + 1)) s = .next ((marked.writeThrHead.moveVectors head.val).moveReports head.val) := by
    change execCeAdopt head (s.epoch + 1) s = _
    rw [execCeAdopt, State.hostAccess, if_pos hstage, State.claimQueues, Nat.mod_eq_of_lt hepoch, otherHead, hfailed, if_pos (by simp)]
    rfl
  refine ⟨_, hexec, by rw [work.eq, hthr], by rw [work.eq, hthr], fun q x hx => ?_⟩
  have bound : q ∈ mine ↔ x.head = 1 - head.val := by
    constructor
    · intro hm
      obtain ⟨⟨k, y⟩, hy, rfl⟩ := List.mem_map.mp hm
      obtain ⟨hmem, hhead⟩ := List.mem_filter.mp hy
      obtain rfl : y = x := Option.some.inj ((kget_of_rising hrising hmem).symm.trans hx)
      exact beq_iff_eq.mp hhead
    · exact fun hh => List.mem_map.mpr ⟨(q, x), List.mem_filter.mpr ⟨mem_of_kget hx, beq_iff_eq.mpr hh⟩, rfl⟩
  have here : ((marked.writeThrHead.moveVectors head.val).moveReports head.val).queue q = claimed.queue q := by
    rw [State.queue, work.queues, hthr]
    rfl
  rw [here, State.queue_foldl_modQueue (f := fun y => y.adopted head.val) (fun _ => rfl), State.queue_of_kget hx]
  simp only [bound]
  rfl

/-- Settles O56: each event is a change of one counter, vector or head, and adoption is one change for each queue of the failed head. -/
theorem headEvents : Obligations.HeadEvents := by
  unfold Obligations.HeadEvents
  refine ⟨fun s core phase epoch k head hstage hcore hphase => ⟨?_, ?_, ?_⟩, fun s core phase k => occRead_ok,
    fun s v hpend hup => ⟨vectorTimer_ok hpend hup, vectorUnmask_ok hpend hup⟩,
    fun s head hstage => ⟨heartbeat_ok hstage, heartbeatTimeout_ok hstage, headLinkDown_ok⟩, fun s head => ceAdopt_ok⟩
  · change execOccRead core phase k s = _
    rw [execOccRead, if_pos (show core < Config.cores ∧ phase < 16 from ⟨hcore, hphase⟩), hostAccess_of_notReady hstage]
  · exact congrArg Host.Outcome.next (hostAccess_of_notReady hstage ..)
  · exact congrArg Host.Outcome.next (hostAccess_of_notReady hstage ..)

end Sys2Proof.Proofs
end

section
/-! PROOF. Security (R398, R400 to R402): what the stop of a TDI's queues leaves, and the events of reports, SPDM, TDISP and IDE. -/

-- Theorems one after another, not at once: this bounds the memory that a compile of the whole text takes.
set_option Elab.async false

namespace Sys2Proof.Machine

open Sys2Proof.Terms

/-! ## Crews and gangs taken down -/

/-- From s to t the service's own lists stay: queues, TDIs, sessions, streams, and of each head all but its count of reports. -/
structure KeepsService (s t : State) : Prop where
  queues : t.queues = s.queues
  tdis : t.tdis = s.tdis
  sessions : t.sessions = s.sessions
  streams : t.streams = s.streams
  head : ∀ k, t.head k = { s.head k with evw := (t.head k).evw }

namespace KeepsService

variable {s t u : State}

theorem of_heads (hqueues : t.queues = s.queues) (htdis : t.tdis = s.tdis) (hsessions : t.sessions = s.sessions)
    (hstreams : t.streams = s.streams) (hheads : t.heads = s.heads) : KeepsService s t :=
  ⟨hqueues, htdis, hsessions, hstreams, fun k => by rw [State.head, hheads]; rfl⟩

theorem refl (s : State) : KeepsService s s := of_heads rfl rfl rfl rfl rfl

theorem trans (h : KeepsService s t) (g : KeepsService t u) : KeepsService s u :=
  ⟨g.queues.trans h.queues, g.tdis.trans h.tdis, g.sessions.trans h.sessions, g.streams.trans h.streams, fun k => by rw [g.head, h.head]⟩

/-- A further change of other fields. -/
theorem update (h : KeepsService s t) (hqueues : u.queues = t.queues) (htdis : u.tdis = t.tdis) (hsessions : u.sessions = t.sessions)
    (hstreams : u.streams = t.streams) (hheads : u.heads = t.heads) : KeepsService s u :=
  h.trans (of_heads hqueues htdis hsessions hstreams hheads)

theorem foldl {β : Type} {f : State → β → State} (hf : ∀ u x, KeepsService u (f u x)) (l : List β) (s : State) : KeepsService s (l.foldl f s) := by
  induction l generalizing s with
  | nil => exact .refl s
  | cons x l ih => exact (hf s x).trans (ih _)

theorem ofMerge (h : MergeWork s t) : KeepsService s t := of_heads (by rw [h.eq]) (by rw [h.eq]) (by rw [h.eq]) (by rw [h.eq]) (by rw [h.eq])

theorem ofHome (h : HomeWork s t) : KeepsService s t := ofMerge (.ofHome h)

theorem ofReport (h : ReportWork s t) : KeepsService s t := ⟨by rw [h.eq], by rw [h.eq], by rw [h.eq], by rw [h.eq], h.head⟩

end KeepsService

theorem State.gangReport_keeps (s : State) (gang : Nat) (c : Cause) (fid pc : Nat) : KeepsService s (s.gangReport gang c fid pc) :=
  .ofReport (s.report_work _)

theorem Tried.andThen_merge {s : State} {r : Tried} {f : State → Tried} (hr : MergeWork s r.1) (hf : ∀ t, MergeWork t (f t).1) :
    MergeWork s (r.andThen f).1 := by
  obtain ⟨t, _ | c⟩ := r
  · exact hr.trans (hf t)
  · exact hr

theorem State.mergeLine_merge (s : State) (a line : Nat) : MergeWork s (s.mergeLine a line).1 := by
  unfold State.mergeLine
  split
  · exact .refl s
  · split
    · exact .refl s
    · exact Tried.andThen_merge (s.merge_merge ..) fun t => ⟨rfl⟩

theorem State.mergeWc_merge (s : State) (a line : Nat) : MergeWork s (s.mergeWc a line).1 := by
  unfold State.mergeWc
  split
  · exact .refl s
  · exact Tried.andThen_merge (s.merge_merge ..) fun t => ⟨rfl⟩

theorem State.drain_merge (s : State) (a : Nat) : MergeWork s (s.drain a).1 :=
  Tried.andThen_merge (Tried.andThen_merge (State.tryAll_merge (fun t _ => t.mergeLine_merge _ _) _ _) fun _ =>
    State.tryAll_merge (fun u _ => u.mergeWc_merge _ _) _ _) fun _ => ⟨rfl⟩

theorem State.flushSaddle_work (s : State) (core crew : Nat) : HomeWork s (s.flushSaddle core crew) :=
  HomeWork.foldl (fun t _ => t.mergeSeg_work _ _ _) _ s

theorem State.reportRaces_keeps (s : State) (crew : Nat) : KeepsService s (s.reportRaces crew) := by
  have entries := KeepsService.foldl (fun t (e : RaceEntry) => t.gangReport_keeps (s.crew crew).gang e.cause noFibre e.va) (s.crew crew).raceLog s
  unfold State.reportRaces
  dsimp only
  split
  · exact (entries.trans (State.gangReport_keeps _ (s.crew crew).gang 0x59 noFibre 0)).update rfl rfl rfl rfl rfl
  · exact entries.update rfl rfl rfl rfl rfl

theorem State.lastRecord_merge (s : State) (pasid : Nat) (r : Recv) (e : RecvEnd) : MergeWork s (s.lastRecord pasid r e) := by
  have located := s.engineXl_work pasid r.record .store
  unfold State.lastRecord
  split
  · exact .refl s
  · split
    · next hx => rw [hx] at located; exact .trans (.ofHome located) (State.engineWrite_merge ..)
    · exact .refl s

/-- The end of a receive as it is written and told, where it is cancelled. -/
def State.cancelEnd (s : State) (r : Recv) : RecvEnd :=
  match r.ending, r.bound.bind fun b => kget s.msgs b with
  | some e, _ => e
  | none, some m => m.ending r stCancelled true
  | none, none => r.unbound

/-- A receive cancelled: its record written, and its sender told where it has one. -/
theorem State.cancelRecv_eq (s : State) (x : Nat × Recv) : s.cancelRecv x =
    let e := s.cancelEnd x.2
    let t := { (s.lastRecord (s.crew x.2.crew).pasid x.2 e) with
      recvs := kdel s.recvs x.1, msgs := match x.2.bound with | some b => kdel s.msgs b | none => s.msgs }
    match e.msg with
    | some id => if e.tell then t.tellSource id (endNotice id e.status) else t
    | none => t := rfl

theorem State.cancelRecv_keeps (s : State) (x : Nat × Recv) : KeepsService s (s.cancelRecv x) := by
  have recorded : KeepsService s (s.lastRecord (s.crew x.2.crew).pasid x.2 (s.cancelEnd x.2)) := .ofMerge (s.lastRecord_merge ..)
  have ended := fun recvs msgs => recorded.update
    (u := { s.lastRecord (s.crew x.2.crew).pasid x.2 (s.cancelEnd x.2) with recvs := recvs, msgs := msgs }) rfl rfl rfl rfl rfl
  rw [State.cancelRecv_eq]
  dsimp only
  split
  · split
    · exact (ended _ _).trans (.ofHome (State.tellChip_work ..))
    · exact ended _ _
  · exact ended _ _

theorem State.cancelSend_keeps (s : State) (x : Nat × Send) : KeepsService s (s.cancelSend x) := by
  obtain ⟨ops, out, ports, h⟩ := s.cancelSend_frame x
  rw [h]
  exact .of_heads rfl rfl rfl rfl rfl

theorem State.cancelBulk_keeps (s : State) (crew : Nat) : KeepsService s (s.cancelBulk crew) :=
  (KeepsService.foldl State.cancelSend_keeps _ s).trans (.foldl State.cancelRecv_keeps _ _)

theorem State.clearCrew_keeps (s : State) (crew : Nat) (life : Life) (keep : Bool) : KeepsService s (s.clearCrew crew life keep) := by
  unfold State.clearCrew
  dsimp only
  split <;> exact .of_heads rfl rfl rfl rfl rfl

theorem State.countEnded_keeps (s : State) (gang : Nat) : KeepsService s (s.countEnded gang) := by
  have told : ∀ (u : State) (ch : Nat) (m : LinkMsg), KeepsService s u → KeepsService s (u.tellChip ch m) :=
    fun u ch m hu => hu.trans (.ofHome (u.tellChip_work ch m))
  unfold State.countEnded State.releaseGang
  dsimp only
  split
  · split
    · next c _ => exact told _ _ _ (.of_heads rfl rfl rfl rfl rfl)
    · exact .of_heads rfl rfl rfl rfl rfl
  · exact .of_heads rfl rfl rfl rfl rfl

theorem State.drainCore_keeps (s : State) (core crew a : Nat) : KeepsService s (((s.flushSaddle core crew).drain a).1.release core .system).1 :=
  ((KeepsService.ofHome (s.flushSaddle_work core crew)).trans (.ofMerge (State.drain_merge _ a))).trans (.ofHome (State.release_work ..))

theorem State.noteEnd_keeps (s : State) (gang : Nat) (tag : RelTag) : KeepsService s (s.noteEnd gang tag) := .of_heads rfl rfl rfl rfl rfl

/-- A crew killed (R383): its core drained, its races reported, its transfers cancelled and its work cleared. -/
theorem State.killCrew_keeps (s : State) (crew : Nat) : KeepsService s (s.killCrew crew) := by
  unfold State.killCrew
  dsimp only
  split
  · exact .refl s
  · have rest : ∀ u, KeepsService s u →
        KeepsService s ((((u.reportRaces crew).cancelBulk crew).clearCrew crew .terminated false).countEnded (s.crew crew).gang) := fun u hu =>
      (((hu.trans (u.reportRaces_keeps crew)).trans (State.cancelBulk_keeps _ _)).trans (State.clearCrew_keeps _ _ _ _)).trans
        (State.countEnded_keeps _ _)
    split
    · exact rest _ ((s.drainCore_keeps ..).trans (State.noteEnd_keeps ..))
    · exact rest s (.refl s)

theorem State.killGang_keeps (s : State) (gang : Nat) (c : Cause) : KeepsService s (s.killGang gang c) := by
  unfold State.killGang
  split
  · exact .refl s
  · split
    · exact .refl s
    · dsimp only
      have marked : KeepsService s { s with gangs := kmod s.gangs gang fun g => { g with terminated := true } } := .of_heads rfl rfl rfl rfl rfl
      have told := fun l => marked.trans (.foldl (fun (r : State) ch => .ofHome (r.tellChip_work ch (.gangTerminated gang))) l _)
      refine .trans ?_ (.foldl State.killCrew_keeps _ _)
      split
      · exact told _
      · exact (told _).trans (State.gangReport_keeps ..)

theorem State.zeroHeap_keeps (s : State) (pasid base len : Nat) : KeepsService s (s.zeroHeap pasid base len) := by
  refine .foldl (fun u i => ?_) _ _
  have located := u.engineXl_work pasid (base + 4096 * i) .store
  split
  · next hx => rw [hx] at located; exact (KeepsService.ofHome located).trans (.of_heads rfl rfl rfl rfl rfl)
  · next hx => rw [hx] at located; exact .ofHome located

theorem State.wake_keeps (s : State) (u : GateUnit) : KeepsService s (s.wake u) := by
  cases u <;> exact .of_heads rfl rfl rfl rfl rfl

/-- A crew wiped (R402): its writes dropped, its scratchpad and its heap zero. -/
theorem State.wipeCrew_keeps (s : State) (crew : Nat) : KeepsService s (s.wipeCrew crew) := by
  unfold State.wipeCrew
  dsimp only
  refine .trans ?_ (State.zeroHeap_keeps ..)
  have dropped : KeepsService s ((s.dropWrites crew).modCore (s.crew crew).core fun k =>
      { k with saddle := k.saddle.filter fun g => g.2.crew != crew }) := .of_heads rfl rfl rfl rfl rfl
  split
  · exact dropped
  · have written : ∀ (u : State) (cluster addr : Nat) (bs : List Byte), KeepsService s u → KeepsService s (u.writeScratch cluster addr bs) :=
      fun u cluster addr bs hu => hu.update rfl rfl rfl rfl rfl
    exact written _ _ _ _ (dropped.trans (.foldl State.wake_keeps _ _))

/-! ## Queues stopped -/

/-- A queue is DISABLED and no packet of it goes on. -/
def Stopped (t : State) (q : Nat) : Prop :=
  (t.queue q).state = .disabled ∧ ∀ idx p, t.packet q idx = some p → p.state ≠ .accepted ∧ p.state ≠ .waiting ∧ p.state ≠ .running

/-- From s to t queues have been stopped: a stopped one stays so, and TDIs, sessions, streams and heads stay. -/
structure StopWork (s t : State) : Prop where
  stopped : ∀ q, Stopped s q → Stopped t q
  tdis : t.tdis = s.tdis
  sessions : t.sessions = s.sessions
  streams : t.streams = s.streams
  head : ∀ k, t.head k = { s.head k with evw := (t.head k).evw }

namespace StopWork

variable {s t u : State}

theorem refl (s : State) : StopWork s s := ⟨fun _ h => h, rfl, rfl, rfl, fun _ => rfl⟩

theorem trans (h : StopWork s t) (g : StopWork t u) : StopWork s u :=
  ⟨fun q hq => g.stopped q (h.stopped q hq), g.tdis.trans h.tdis, g.sessions.trans h.sessions, g.streams.trans h.streams,
    fun k => by rw [g.head, h.head]⟩

end StopWork

theorem Packet.discard_state (p : Packet) :
    p.discard.state ≠ .accepted ∧ p.discard.state ≠ .waiting ∧ p.discard.state ≠ .running := by
  unfold Packet.discard
  split
  · simp
  · next h => simpa [not_or, and_assoc] using h

theorem packet_congr {s t : State} {q : Nat} (h : t.queue q = s.queue q) (idx : Nat) : t.packet q idx = s.packet q idx := by
  rw [State.packet, h]
  rfl

theorem Stopped.congr {s t : State} {q : Nat} (h : t.queue q = s.queue q) (hs : Stopped s q) : Stopped t q :=
  ⟨by rw [h]; exact hs.1, fun idx p hp => hs.2 idx p ((packet_congr h idx).symm.trans hp)⟩

/-- The packets of a queue discarded: the other queues stay, and no packet of it goes on. -/
theorem State.discardPackets_spec (s : State) (q : Nat) :
    (∀ k, k ≠ q → (s.discardPackets q).queue k = s.queue k) ∧ ∀ idx p, (s.discardPackets q).packet q idx = some p →
      p.state ≠ .accepted ∧ p.state ≠ .waiting ∧ p.state ≠ .running := by
  have queues : (s.discardPackets q).queues = kmod s.queues q fun x => { x with packets := kmap x.packets fun _ p => p.discard } := rfl
  refine ⟨fun k hk => by rw [State.queue, queues, kgetD, kget_kmod_ne _ _ hk]; rfl, fun idx p hp => ?_⟩
  cases hx : kget s.queues q with
  | none =>
    rw [State.packet, State.queue, queues, kgetD, kget_kmod_self, hx] at hp
    cases hp
  | some x =>
    have here : (s.discardPackets q).queue q = { x with packets := kmap x.packets fun _ p => p.discard } :=
      State.queue_of_kget (by rw [queues, kget_kmod_self, hx]; rfl)
    rw [State.packet, here, kget_kmap] at hp
    obtain ⟨p0, -, rfl⟩ := Option.map_eq_some_iff.mp hp
    exact p0.discard_state

/-- A queue disabled is stopped, and the others stay. -/
theorem State.disableQueue_spec (s : State) (q : Nat) (c : Cause) : StopWork s (s.disableQueue q c) ∧ Stopped (s.disableQueue q c) q := by
  obtain ⟨others, discarded⟩ := s.discardPackets_spec q
  have killed : KeepsService (s.discardPackets q) ((s.gangsOf q).foldl (fun (u : State) g => u.killGang g c) (s.discardPackets q)) :=
    .foldl (fun u g => u.killGang_keeps g c) _ _
  have hdis : s.disableQueue q c = ((s.gangsOf q).foldl (fun (u : State) g => u.killGang g c) (s.discardPackets q)).modQueue q fun x =>
      { x with state := .disabled, errc := 0, erridx := 0 } := rfl
  generalize (s.gangsOf q).foldl (fun (u : State) g => u.killGang g c) (s.discardPackets q) = t at killed hdis
  obtain ⟨d, h, hmod⟩ := t.modQueue_frame q fun x => { x with state := .disabled, errc := 0, erridx := 0 }
  have same : ∀ k, t.queue k = (s.discardPackets q).queue k := fun k => by rw [State.queue, killed.queues]; rfl
  rw [hdis, hmod]
  have here : Stopped { t with
      queues := kset t.queues q { t.queue q with state := .disabled, errc := 0, erridx := 0 }, dev := d, host := h } q := by
    refine ⟨by rw [queue_kset_self rfl], fun idx p hp => discarded idx p ?_⟩
    rw [State.packet, queue_kset_self rfl] at hp
    exact (packet_congr (same q) idx).symm.trans hp
  refine ⟨⟨fun k hk => ?_, killed.tdis, killed.sessions, killed.streams, killed.head⟩, here⟩
  by_cases hkq : k = q
  · rw [hkq]; exact here
  · exact .congr ((queue_kset_ne rfl hkq).trans ((same k).trans (others k hkq))) hk

theorem State.stopQueue_spec (s : State) (q : Nat) : StopWork s (s.stopQueue q) ∧ Stopped (s.stopQueue q) q := by
  unfold State.stopQueue
  dsimp only
  generalize hl : List.filter _ _ = l
  have wiped : KeepsService s (l.foldl State.wipeCrew s) := .foldl State.wipeCrew_keeps _ _
  obtain ⟨work, here⟩ := (l.foldl State.wipeCrew s).disableQueue_spec q 0xB3
  refine ⟨.trans ⟨fun k hk => ?_, wiped.tdis, wiped.sessions, wiped.streams, wiped.head⟩ work, here⟩
  exact .congr (by rw [State.queue, wiped.queues]; rfl) hk

/-- The queues of a list stopped. -/
theorem State.stopQueues_spec (l : List Nat) (s : State) :
    StopWork s (l.foldl State.stopQueue s) ∧ ∀ q ∈ l, Stopped (l.foldl State.stopQueue s) q := by
  induction l generalizing s with
  | nil => exact ⟨.refl s, nofun⟩
  | cons q l ih =>
    obtain ⟨first, here⟩ := s.stopQueue_spec q
    obtain ⟨rest, all⟩ := ih (s.stopQueue q)
    exact ⟨first.trans rest, fun k hk => (List.mem_cons.mp hk).elim (fun h => rest.stopped k (h ▸ here)) (all k)⟩

end Sys2Proof.Machine

namespace Sys2Proof.Proofs

open Sys2Proof.Machine Sys2Proof.Terms

/-! ## TDIs that leave RUN (R402) -/

/-- From s to t TDIs have left RUN: stopped queues stay so, and so do sessions and streams. -/
structure FailWork (s t : State) : Prop where
  stopped : ∀ q, Stopped s q → Stopped t q
  sessions : t.sessions = s.sessions
  streams : t.streams = s.streams

/-- A TDI that leaves RUN does so alone, with its queues. -/
theorem leaveRun_spec (s : State) (key : Nat) (x : Tdi) (to_ : TdiState) :
    FailWork s (s.leaveRun key x to_) ∧ LeftRun (s.leaveRun key x to_) key { x with state := to_ } ∧
      (∀ k, k ≠ key → kget (s.leaveRun key x to_).tdis k = kget s.tdis k) ∧ ∀ k, (s.leaveRun key x to_).headUp k = s.headUp k := by
  obtain ⟨work, here⟩ := State.stopQueues_spec x.queues s
  refine ⟨⟨fun q hq => .congr rfl (work.stopped q hq), work.sessions, work.streams⟩,
    ⟨kget_kset_self _ _ _, fun q hq => Stopped.congr (s := x.queues.foldl State.stopQueue s) rfl (here q hq)⟩, fun k hk => ?_, fun k => ?_⟩
  · exact (kget_kset_ne _ _ hk).trans (by rw [work.tdis])
  · have kept : ((x.queues.foldl State.stopQueue s).head k).linkUp = (s.head k).linkUp := by rw [work.head k]
    exact kept

/-- A TDI that fails does so alone. -/
theorem failTdi_spec (s : State) (key : Nat) (x : Tdi) :
    FailWork s (s.failTdi (key, x)) ∧ (∀ k, k ≠ key → kget (s.failTdi (key, x)).tdis k = kget s.tdis k) ∧
      (x.state = .run ∨ x.state = .locked → LeftRun (s.failTdi (key, x)) key { x with state := .error }) ∧
      (¬(x.state = .run ∨ x.state = .locked) → s.failTdi (key, x) = s) := by
  unfold State.failTdi
  split
  · next h =>
    obtain ⟨work, left, others, -⟩ := leaveRun_spec s key x .error
    exact ⟨work, others, fun _ => left, fun hn => absurd h hn⟩
  · next h => exact ⟨⟨fun _ hq => hq, rfl, rfl⟩, fun _ _ => rfl, fun h' => absurd h' h, fun _ => rfl⟩

/-- The TDIs of a list fail one after another, each as it stood. -/
theorem foldl_failTdi_spec {l : List (Nat × Tdi)} (hl : Rising l) (s : State) :
    FailWork s (l.foldl State.failTdi s) ∧ (∀ k, (∀ y ∈ l, y.1 ≠ k) → kget (l.foldl State.failTdi s).tdis k = kget s.tdis k) ∧
      ∀ key x, (key, x) ∈ l →
        (x.state = .run ∨ x.state = .locked → LeftRun (l.foldl State.failTdi s) key { x with state := .error }) ∧
        (¬(x.state = .run ∨ x.state = .locked) → kget (l.foldl State.failTdi s).tdis key = kget s.tdis key) := by
  induction l generalizing s with
  | nil => exact ⟨⟨fun _ hq => hq, rfl, rfl⟩, fun _ _ => rfl, nofun⟩
  | cons y l ih =>
    obtain ⟨key, x⟩ := y
    obtain ⟨later, hl⟩ := List.pairwise_cons.mp hl
    have others : ∀ z ∈ l, z.1 ≠ key := fun z hz => Nat.ne_of_gt (later z hz)
    obtain ⟨first, firstOthers, firstLeft, firstKept⟩ := failTdi_spec s key x
    obtain ⟨rest, restOthers, restAll⟩ := ih hl (s.failTdi (key, x))
    refine ⟨⟨fun q hq => rest.stopped q (first.stopped q hq), rest.sessions.trans first.sessions, rest.streams.trans first.streams⟩,
      fun k hk => ?_, fun k z hz => ?_⟩
    · rw [List.foldl_cons, restOthers k fun z hz => hk z (List.mem_cons_of_mem _ hz), firstOthers k (hk (key, x) List.mem_cons_self).symm]
    rcases List.mem_cons.mp hz with h | hz
    · obtain ⟨rfl, rfl⟩ := Prod.mk.inj h
      refine ⟨fun hrun => ?_, fun hrun => ?_⟩
      · obtain ⟨hkey, hqueues⟩ := firstLeft hrun
        exact ⟨(restOthers k others).trans hkey, fun q hq => rest.stopped q (hqueues q hq)⟩
      · rw [List.foldl_cons, restOthers k others, firstKept hrun]
    · refine ⟨(restAll k z hz).1, fun hrun => ?_⟩
      rw [List.foldl_cons, (restAll k z hz).2 hrun, firstOthers k (others _ hz)]

/-- What a TDI of the device is, among those of it that a condition picks. -/
theorem mem_filter_of_kget {s : State} {p : Nat × Tdi → Bool} (hrising : Rising s.tdis) {key : Nat} {x : Tdi} (hx : kget s.tdis key = some x) :
    (p (key, x) = true → (key, x) ∈ s.tdis.filter p) ∧ (p (key, x) = false → ∀ y ∈ s.tdis.filter p, y.1 ≠ key) := by
  refine ⟨fun h => List.mem_filter.mpr ⟨mem_of_kget hx, h⟩, fun h y hy hk => ?_⟩
  obtain ⟨hmem, hp⟩ := List.mem_filter.mp hy
  obtain ⟨k, z⟩ := y
  obtain rfl : k = key := hk
  obtain rfl : z = x := Option.some.inj ((kget_of_rising hrising hmem).symm.trans hx)
  rw [h] at hp
  cases hp

/-! ## Reports and SPDM -/

/-- The first report about a gang without an answer goes to the host after 1 ms. -/
theorem reportAnswerTimeout_ok {s : State} {n t0 : Nat} {r : Report} (hn : s.asking[n]? = some (t0, r)) (hlate : t0 + 1000000 ≤ s.tick)
    (hfirst : ∀ x ∈ s.asking.take n, x.2.gang ≠ r.gang) :
    exec (.reportAnswerTimeout n) s = .next (({ s with asking := s.asking.eraseIdx n } : State).toHost r) := by
  change execReportAnswerTimeout n s = _
  have none : (s.asking.take n).any (fun e => e.2.gang == r.gang) = false := List.any_eq_false.mpr fun x hx => by simpa using hfirst x hx
  rw [execReportAnswerTimeout, hn]
  dsimp only
  rw [none, if_neg (by simp; omega)]

section

variable {s : State} {head : Fin 2}

/-- A session is refused, or opened and bound to a TDI. -/
theorem spdmOpen_ok (hup : s.headUp head.val = true) (hstage : s.stage = stageReady) (n : Nat) (tdi : Option Nat) :
    ((head.val, n) ∈ s.sessions ∨ 4 ≤ (s.sessions.filter fun x => x.1 == head.val).length →
      exec (.spdmRequest head (.openSession n tdi)) s = .next { s with hostOut := s.hostOut ++ [.spdm head.val .refused] }) ∧
    ((head.val, n) ∉ s.sessions → (s.sessions.filter fun x => x.1 == head.val).length < 4 →
      exec (.spdmRequest head (.openSession n tdi)) s = .next { s with
        sessions := s.sessions ++ [(head.val, n)], hostOut := s.hostOut ++ [.spdm head.val (.session n)]
        tdis := match tdi with | some i => kmod s.tdis (64 * head.val + i) fun x => { x with session := some n } | none => s.tdis }) := by
  have hexec : exec (.spdmRequest head (.openSession n tdi)) s = .next (s.openSession head.val n tdi) := by
    change execSpdmRequest head (.openSession n tdi) s = _
    simp [execSpdmRequest, hup, hstage]
  have refused : (s.sessions.contains (head.val, n) || decide (spdmSessions ≤ (s.sessions.filter fun x => x.1 == head.val).length)) = true ↔
      (head.val, n) ∈ s.sessions ∨ 4 ≤ (s.sessions.filter fun x => x.1 == head.val).length := by
    simp only [Bool.or_eq_true, List.contains_eq_mem, decide_eq_true_eq]
    rfl
  rw [hexec, State.openSession]
  refine ⟨fun h => ?_, fun hnew hroom => ?_⟩
  · rw [if_pos (refused.mpr h)]
    rfl
  · rw [if_neg (mt refused.mp (not_or.mpr ⟨hnew, Nat.not_le.mpr hroom⟩))]
    cases tdi <;> rfl

/-- The keys of a stream are refused, or set. -/
theorem spdmKeys_ok (hup : s.headUp head.val = true) (hstage : s.stage = stageReady) (n i : Nat) :
    ((head.val, n) ∉ s.sessions ∨ 9 ≤ i ∨ (head.val, i) ∈ s.streams →
      exec (.spdmRequest head (.keySetup n i)) s = .next { s with hostOut := s.hostOut ++ [.spdm head.val .refused] }) ∧
    ((head.val, n) ∈ s.sessions → i < 9 → (head.val, i) ∉ s.streams → exec (.spdmRequest head (.keySetup n i)) s = .next { s with
      ideKeys := if (head.val, i) ∈ s.ideKeys then s.ideKeys else s.ideKeys ++ [(head.val, i)]
      hostOut := s.hostOut ++ [.spdm head.val (.keySetup i)] }) := by
  have hexec : exec (.spdmRequest head (.keySetup n i)) s = .next (s.setKeys head.val n i) := by
    change execSpdmRequest head (.keySetup n i) s = _
    simp [execSpdmRequest, hup, hstage]
  have taken : (s.sessions.contains (head.val, n) && decide (i < ideStreams) && !s.streams.contains (head.val, i)) = true ↔
      ((head.val, n) ∈ s.sessions ∧ i < 9) ∧ (head.val, i) ∉ s.streams := by
    simp only [Bool.and_eq_true, List.contains_eq_mem, decide_eq_true_eq, Bool.not_eq_true', decide_eq_false_iff_not]
    rfl
  rw [hexec, State.setKeys]
  refine ⟨fun h => ?_, fun hsession hi hstream => ?_⟩
  · rw [if_neg (mt taken.mp (by rintro ⟨⟨hs, hi⟩, hn⟩; rcases h with h | h | h; exacts [h hs, Nat.not_lt.mpr h hi, hn h]))]
    rfl
  · rw [if_pos (taken.mpr ⟨⟨hsession, hi⟩, hstream⟩)]
    simp [State.spdm]

/-- Each SPDM request is answered. -/
theorem spdmRequest_ok (hup : s.headUp head.val = true) :
    let answers := fun k a => exec (.spdmRequest head k) s = .next { s with hostOut := s.hostOut ++ [.spdm head.val a] }
    answers .version (.version 1 3) ∧ answers .capabilities (.capabilities 4 9) ∧ answers .algorithms .algorithms ∧
    answers .digests (.digests (Config.sha384 s.chain.flatten)) ∧ answers .certificate (.certificate s.chain) ∧
    answers .measurements (.measurements s.measures) ∧ (∀ nonce, answers (.challenge nonce) (.challenge (Config.sign s.aliasOf nonce))) ∧
    (s.stage ≠ stageReady → answers .other .notReady ∧ (∀ n tdi, answers (.openSession n tdi) .notReady) ∧
      ∀ n i, answers (.keySetup n i) .notReady) ∧
    (s.stage = stageReady → answers .other .other) := by
  have hexec : ∀ k, exec (.spdmRequest head k) s = execSpdmRequest head k s := fun _ => rfl
  have hdown : (!s.headUp head.val) = false := by rw [hup]; rfl
  simp only [hexec, execSpdmRequest, hdown, Bool.false_eq_true, if_false]
  refine ⟨rfl, rfl, rfl, rfl, rfl, rfl, fun _ => rfl, fun hstage => ?_, fun hstage => ?_⟩
  · simp only [if_neg hstage]
    exact ⟨rfl, fun _ _ => rfl, fun _ _ => rfl⟩
  · rw [if_pos hstage]
    rfl

end

/-! ## TDISP -/

section

variable {s : State} {head : Fin 2} {n : Nat}

/-- A TDI of a head whose link is up takes no request where there is none of its number. -/
theorem tdispRequest_none (hup : s.headUp head.val = true) (hx : kget s.tdis (64 * head.val + n) = none) (k : TdispKind) :
    exec (.tdispRequest head n k) s = .next { s with hostOut := s.hostOut ++ [.tdisp head.val n false] } := by
  change execTdispRequest head n k s = _
  rw [execTdispRequest, tdiKey]
  dsimp only
  rw [hx]
  dsimp only
  rw [State.tdisp, if_pos hup]

/-- A TDI that runs stops with its queues. -/
theorem tdiStop_run {x : Tdi} (hup : s.headUp head.val = true) (hx : kget s.tdis (64 * head.val + n) = some x) (hrun : x.state = .run)
    (hquiet : NoSnoop s (x.queues.foldl State.stopQueue s)) {e : Instr} (he : e = .tdiStop head n ∨ e = .tdispRequest head n .stop) :
    Becomes e s fun t => LeftRun t (64 * head.val + n) { x with state := .unlocked } ∧ t.hostOut.getLast? = some (.tdisp head.val n true) := by
  obtain ⟨-, left, -, up⟩ := leaveRun_spec s (64 * head.val + n) x .unlocked
  have told : (s.leaveRun (64 * head.val + n) x .unlocked).tdisp head.val n true = { s.leaveRun (64 * head.val + n) x .unlocked with
      hostOut := (s.leaveRun (64 * head.val + n) x .unlocked).hostOut ++ [.tdisp head.val n true] } := if_pos ((up head.val).trans hup)
  have hexec : exec e s = .next (s.orSnoop ((s.leaveRun (64 * head.val + n) x .unlocked).tdisp head.val n true)) := by
    rcases he with rfl | rfl
    · change execTdiStop head n s = _
      rw [execTdiStop, tdiKey, hx]
      exact congrArg _ (if_pos hrun)
    · change execTdispRequest head n .stop s = _
      rw [execTdispRequest, tdiKey]
      dsimp only
      rw [hx]
      dsimp only
      rw [hrun]
  rw [told, State.orSnoop_of_noSnoop (noSnoop_append hquiet (m := .tdisp head.val n true) (fun _ => ⟨by simp, by simp⟩) rfl)] at hexec
  exact ⟨_, hexec, left, List.getLast?_concat⟩

/-- The requests to a TDI that take it from one state to another, or are refused. -/
theorem tdispRequest_some {x : Tdi} (hup : s.headUp head.val = true) (hx : kget s.tdis (64 * head.val + n) = some x) :
    let goes := fun k y => exec (.tdispRequest head n k) s = .next { s with
      tdis := kset s.tdis (64 * head.val + n) { x with state := y }, hostOut := s.hostOut ++ [.tdisp head.val n true] }
    let refuses := fun k => exec (.tdispRequest head n k) s = .next { s with hostOut := s.hostOut ++ [.tdisp head.val n false] }
    (x.state = .unlocked → goes .lock .locked) ∧ (x.state = .locked → goes .start .run) ∧ (x.state ≠ .unlocked → refuses .lock) ∧
      (x.state ≠ .locked → refuses .start) ∧ (x.state ≠ .run → goes .stop .unlocked ∧ exec (.tdiStop head n) s = .next s) := by
  have hexec : ∀ k, exec (.tdispRequest head n k) s = execTdispRequest head n k s := fun _ => rfl
  have hgo : ∀ y, ({ s with tdis := kset s.tdis (64 * head.val + n) { x with state := y } } : State).tdisp head.val n true = { s with
      tdis := kset s.tdis (64 * head.val + n) { x with state := y }, hostOut := s.hostOut ++ [.tdisp head.val n true] } := fun y => if_pos hup
  have hno : s.tdisp head.val n false = { s with hostOut := s.hostOut ++ [.tdisp head.val n false] } := if_pos hup
  have hstop : exec (.tdiStop head n) s = execTdiStop head n s := rfl
  simp only [hexec, hstop, execTdispRequest, execTdiStop, tdiKey, hx, hgo, hno]
  cases hst : x.state <;> simp

/-! ## Ends of sessions and streams -/

/-- The end of a session that bound no TDI is reported. -/
theorem sessionExpiry_unbound (hsession : (head.val, n) ∈ s.sessions)
    (hnone : s.tdis.filter (fun x => x.1 / 64 == head.val && x.2.session == some n) = []) :
    exec (.sessionExpiry head n) s =
      .next (({ s with sessions := s.sessions.filter fun x => x != (head.val, n) } : State).plainReport 0xB4 0 head.val n) := by
  change execSessionExpiry head n s = _
  rw [execSessionExpiry, if_neg (by simp [hsession])]
  dsimp only
  rw [hnone]
  rfl

/-- The end of a session fails the TDIs that it bound. -/
theorem sessionExpiry_bound (hsession : (head.val, n) ∈ s.sessions) :
    let t0 : State := { s with sessions := s.sessions.filter fun x => x != (head.val, n) }
    let binds := fun (x : Nat × Tdi) => x.1 / 64 == head.val && x.2.session == some n
    s.tdis.filter binds ≠ [] → Rising s.tdis → NoSnoop s ((s.tdis.filter binds).foldl State.failTdi t0) →
      Becomes (.sessionExpiry head n) s fun t => t.sessions = t0.sessions ∧ ∀ key x, kget s.tdis key = some x →
        (binds (key, x) = false → kget t.tdis key = some x) ∧
        (binds (key, x) = true → x.state = .unlocked ∨ x.state = .error → kget t.tdis key = some { x with session := none }) ∧
        (binds (key, x) = true → x.state = .run ∨ x.state = .locked → LeftRun t key { x with state := .error, session := none }) := by
  intro t0 binds hsome hrising hquiet
  obtain ⟨work, others, failed⟩ := foldl_failTdi_spec (List.Pairwise.filter binds hrising) t0
  have hexec : exec (.sessionExpiry head n) s = .next (s.orSnoop { (s.tdis.filter binds).foldl State.failTdi t0 with
      tdis := kmap ((s.tdis.filter binds).foldl State.failTdi t0).tdis fun k x =>
        if k / 64 = head.val ∧ x.session = some n then { x with session := none } else x }) := by
    change execSessionExpiry head n s = _
    rw [execSessionExpiry, if_neg (by simp [hsession])]
    exact congrArg _ (if_neg fun h => hsome (List.isEmpty_iff.mp h))
  generalize (s.tdis.filter binds).foldl State.failTdi t0 = u at work others failed hexec hquiet
  refine ⟨_, exec_of_part hexec rfl hquiet, work.sessions, fun key x hx => ?_⟩
  obtain ⟨picked, left⟩ := mem_filter_of_kget (p := binds) hrising hx
  have bound : binds (key, x) = true ↔ key / 64 = head.val ∧ x.session = some n := by simp [binds]
  refine ⟨fun h => ?_, fun h hstate => ?_, fun h hstate => ⟨?_, fun q hq => ?_⟩⟩
  · have here : kget u.tdis key = some x := (others key (left h)).trans hx
    rw [kget_kmap, here, Option.map_some, if_neg (mt bound.mpr (by simp [h]))]
  · have here : kget u.tdis key = some x := ((failed key x (picked h)).2 (by rcases hstate with h | h <;> simp [h])).trans hx
    rw [kget_kmap, here, Option.map_some, if_pos (bound.mp h)]
  · have here := ((failed key x (picked h)).1 hstate).1
    rw [kget_kmap, here, Option.map_some, if_pos (bound.mp h)]
  · exact Stopped.congr (s := u) rfl (((failed key x (picked h)).1 hstate).2 q hq)

/-- The failure of a stream's integrity is reported, and fails the TDIs in RUN that use it. -/
theorem ideIntegrityFailure_ok (hn : n < 9) (hnew : (head.val, n) ∉ s.streams) (hrising : Rising s.tdis) :
    let t0 := ({ s with streams := s.streams ++ [(head.val, n)] } : State).plainReport 0xBD 0 head.val n
    let uses := fun (x : Nat × Tdi) => x.1 / 64 == head.val && Config.tdiStream head.val (x.1 % 64) n && x.2.state == .run
    NoSnoop s ((s.tdis.filter uses).foldl State.failTdi t0) →
    Becomes (.ideIntegrityFailure head n) s fun t => t.streams = s.streams ++ [(head.val, n)] ∧
      (s.tdis.filter uses = [] → t = t0) ∧ ∀ key x, kget s.tdis key = some x →
        (uses (key, x) = false → kget t.tdis key = some x) ∧ (uses (key, x) = true → LeftRun t key { x with state := .error }) := by
  intro t0 uses hquiet
  have reported := State.plainReport_work { s with streams := s.streams ++ [(head.val, n)] } 0xBD 0 head.val n
  have htdis : t0.tdis = s.tdis := by rw [show t0 = _ from reported.eq]
  obtain ⟨work, others, failed⟩ := foldl_failTdi_spec (List.Pairwise.filter uses hrising) t0
  have hexec : exec (.ideIntegrityFailure head n) s = .next (s.orSnoop ((s.tdis.filter uses).foldl State.failTdi t0)) := by
    change execIdeIntegrityFailure head n s = _
    rw [execIdeIntegrityFailure, if_neg (by simp [hnew, Nat.not_le.mpr hn])]
    change Host.Outcome.next (s.orSnoop ((t0.tdis.filter uses).foldl State.failTdi t0)) = _
    rw [htdis]
  refine ⟨_, exec_of_part hexec rfl hquiet, ?_, fun h => by rw [h]; rfl, fun key x hx => ?_⟩
  · rw [work.streams, show t0 = _ from reported.eq]
  obtain ⟨picked, left⟩ := mem_filter_of_kget (p := uses) hrising hx
  refine ⟨fun h => by rw [others key (left h), htdis, hx], fun h => (failed key x (picked h)).1 (Or.inl ?_)⟩
  exact eq_of_beq (Bool.and_eq_true_iff.mp h).2

end

/-- Settles O58: answers by their cases; and what stops a TDI touches only the queues it stops, each of which stays stopped. -/
theorem securityEvents : Obligations.SecurityEvents := by
  unfold Obligations.SecurityEvents
  refine ⟨fun s n t0 r => reportAnswerTimeout_ok, fun s head hup => ?_, fun s head n hup => ?_, fun s head n hsession => ?_,
    fun s head n => ideIntegrityFailure_ok⟩
  · obtain ⟨h1, h2, h3, h4, h5, h6, h7, h8, h9⟩ := spdmRequest_ok (s := s) (head := head) hup
    exact ⟨h1, h2, h3, h4, h5, h6, h7, h8, fun hstage => ⟨h9 hstage, fun n tdi =>
      ⟨(spdmOpen_ok hup hstage n tdi).1, (spdmOpen_ok hup hstage n tdi).2, spdmKeys_ok hup hstage n⟩⟩⟩
  · refine ⟨tdispRequest_none hup, fun x hx => ?_⟩
    obtain ⟨lock, start, noLock, noStart, stop⟩ := tdispRequest_some hup hx
    exact ⟨lock, start, noLock, noStart, stop, fun hrun hquiet e he => tdiStop_run hup hx hrun hquiet he⟩
  · exact ⟨sessionExpiry_unbound hsession, sessionExpiry_bound hsession⟩

end Sys2Proof.Proofs
end

section
/-! PROOF. The mailbox (R353, R389 to R394, R399, R401, R410, R414): a function whose GO waits, its payload, and registers below READY. -/

-- Theorems one after another, not at once: this bounds the memory that a compile of the whole text takes.
set_option Elab.async false

namespace Sys2Proof.Machine

open Sys2Proof.Terms

/-! ## The payload (R392) -/

/-- Bytes put one after another into a map. -/
theorem kget_foldl_put (bs : List Byte) (p : KMap Byte) (off k : Nat) :
    kget (bs.foldl (fun (p : KMap Byte × Nat) b => (kset p.1 p.2 b, p.2 + 1)) (p, off)).1 k = (kget (bytesAt off bs) k).or (kget p k) := by
  induction bs generalizing p off with
  | nil => rfl
  | cons b bs ih =>
    rw [List.foldl_cons, ih, bytesAt, kget]
    by_cases hk : k = off
    · subst hk
      rw [kget_bytesAt_of_lt (Nat.lt_succ_self k), if_pos rfl, kget_kset_self]
      rfl
    · rw [if_neg hk, kget_kset_ne _ _ hk]

/-- Bytes put into a payload are read there. -/
theorem Mailbox.bytes_put (m : Mailbox) (off : Nat) (bs : List Byte) : (m.put off bs).bytes off bs.length = bs := by
  refine List.ext_getElem (by simp [Mailbox.bytes]) fun i _ hi => ?_
  have here : kgetD (m.put off bs).payload (off + i) 0 = bs[i] := by
    rw [kgetD, Mailbox.put, kget_foldl_put, kget_bytesAt_add, List.getElem?_eq_getElem hi]
    rfl
  simpa [Mailbox.bytes] using here

/-! ## The end of a function -/

theorem State.mailEnd_head (s : State) (head status : Nat) :
    (s.mailEnd head status).head head = { s.head head with mail := { (s.head head).mail with busy := false, status := status } } :=
  kgetD_kset_self _ _ _ _

/-- A function that ends with its mailbox as it was, but for its payload, has answered. -/
theorem answers_mailEnd {s : State} {head : Nat} {m : Mailbox} {payload : KMap Byte} (h : (s.head head).mail = { m with payload := payload })
    (status : Nat) : Answers (s.mailEnd head status) head status m := by
  rw [Answers, State.mailEnd_head, h]

/-- A function whose GO waits runs and ends with its status. -/
theorem State.mailRun_of_goWaits {s : State} {head func : Nat} {named : Mailbox → List (Nat × Nat)} {m : Mailbox}
    (h : GoWaits s head func named m) (k : Mailbox → State × Nat) : s.mailRun head func named k = (k m).1.mailEnd head (k m).2 := by
  obtain ⟨hmail, hbusy, hfunc, hturn, hagreed, hzeros⟩ := h
  rw [State.mailRun, hmail]
  dsimp only
  rw [hbusy, hfunc, hturn, hagreed, hzeros]
  simp

/-- A function before the version is agreed answers VERSION. -/
theorem State.mailRun_of_unagreed {s : State} {head func : Nat} {named : Mailbox → List (Nat × Nat)} {m : Mailbox} (hmail : (s.head head).mail = m)
    (hbusy : m.busy = true) (hfunc : m.func = func) (hturn : s.mailTurn head = true) (hone : func ≠ 1) (hagreed : m.agreed = false)
    (k : Mailbox → State × Nat) : s.mailRun head func named k = s.mailEnd head 6 := by
  rw [State.mailRun, hmail]
  dsimp only
  rw [hbusy, hfunc, hturn, hagreed, if_neg (by simp), if_pos (by simp [hone])]
  rfl

/-- A descriptor of a queue that asks for its disabling, where its GO waits. -/
theorem State.asksDisable_of_goWaits {s : State} {head : Nat} {m : Mailbox} (h : GoWaits s head 0x10 queueFields m) (hq : m.field 0x100 2 < 1024)
    (hdesc : descOk (m.bytes 0x120 32) = true) (hlocked : s.locked (fun t => t.queues.contains (m.field 0x100 2)) = false)
    (hwant : fieldLe (m.bytes 0x120 32) 18 1 = 0) :
    s.asksDisable m = ((s.queue (m.field 0x100 2)).state == .active || (s.queue (m.field 0x100 2)).state == .error) := by
  obtain ⟨-, hbusy, hfunc, -, hagreed, hzeros⟩ := h
  rw [State.asksDisable]
  rw [hlocked]
  simp [hbusy, hfunc, hagreed, hzeros, hq, hdesc, hwant]

theorem State.asksDisable_of_unagreed {s : State} {m : Mailbox} (h : m.agreed = false) : s.asksDisable m = false := by
  simp [State.asksDisable, h]

end Sys2Proof.Machine

namespace Sys2Proof.Proofs

open Sys2Proof.Machine Sys2Proof.Terms

section

variable {s : State} {head : Fin 2} {m : Mailbox}

/-! ## VERSION (R22, R393) -/

/-- VERSION agrees on the version 1.0. -/
theorem version_ok (hmail : (s.head head.val).mail = m) (hbusy : m.busy = true) (hfunc : m.func = 1)
    (hzeros : m.zerosBut [(0x100, 4), (0x108, 2)] = true) (hlow : m.field 0x103 1 ≤ 1) (hhigh : 1 ≤ m.field 0x101 1) :
    Becomes (.version head) s fun t => (t.head head.val).mail.busy = false ∧ (t.head head.val).mail.status = 0 ∧
      (t.head head.val).mail.agreed = true ∧ (t.head head.val).mail.bytes 0x108 2 = [0, 1] := by
  have hturn : s.mailTurn head.val = true := by
    simp [State.mailTurn, hmail, Mailbox.object, hfunc]
  have shares : sharesMajor (m.field 0x101 1) (m.field 0x103 1) = true := by simp [sharesMajor, hlow, hhigh]
  have hexec : exec (.version head) s = .next (((s.mailPut head.val 0x108 [0, 1]).modHead head.val fun h =>
      { h with mail := { h.mail with agreed := true } }).mailEnd head.val 0) := by
    change execVersion head s = _
    rw [execVersion, State.mailRun, hmail]
    dsimp only
    rw [hbusy, hfunc, hturn, hzeros, if_neg (by simp), if_neg (by simp), if_neg (by simp), State.mailVersion, if_pos shares]
    rfl
  have here : (((s.mailPut head.val 0x108 [0, 1]).modHead head.val fun h =>
      { h with mail := { h.mail with agreed := true } }).mailEnd head.val 0).head head.val = { s.head head.val with
        mail := { m.put 0x108 [0, 1] with agreed := true, busy := false, status := 0 } } := by
    rw [State.mailEnd_head, head_modHead, if_pos rfl, State.mailPut, head_modHead, if_pos rfl, hmail]
  exact ⟨_, hexec, by rw [here], by rw [here], by rw [here], by rw [here]; exact m.bytes_put 0x108 [0, 1]⟩

/-- Until the version is agreed every other function answers VERSION. -/
theorem unagreed_ok (hmail : (s.head head.val).mail = m) (hbusy : m.busy = true) (hagreed : m.agreed = false)
    (hturn : s.mailTurn head.val = true) (hup : s.headUp head.val = true) {e : Instr} {func : Nat}
    (he : (e, func) ∈ [(.queueCreate head, 0x10), (.queueDisable head, 0x10), (.pasidRegister head, 0x20), (.codeLoad head, 0x30),
      (.imageStage head true, 0x40), (.evring head, 0x50), (.tdiDefine head, 0x60), (.dbgHalt head, 0x70), (.dbgRead head, 0x71),
      (.dbgResume head, 0x72)]) (hfunc : m.func = func) :
    Becomes e s fun t => t = { s with heads := t.heads } ∧ Answers t head.val 6 m := by
  have answers : Answers (s.mailEnd head.val 6) head.val 6 m := answers_mailEnd (payload := m.payload) hmail 6
  have run : ∀ {func : Nat} {named : Mailbox → List (Nat × Nat)} (k : Mailbox → State × Nat), m.func = func → func ≠ 1 →
      s.mailRun head.val func named k = s.mailEnd head.val 6 :=
    fun k hf hone => State.mailRun_of_unagreed hmail hbusy hf hturn hone hagreed k
  have asks : s.asksDisable (s.head head.val).mail = false := State.asksDisable_of_unagreed (by rw [hmail, hagreed])
  have linked : (!s.headUp head.val) = false := by rw [hup]; rfl
  suffices exec e s = .next (s.mailEnd head.val 6) from ⟨_, this, rfl, answers⟩
  simp only [List.mem_cons, Prod.mk.injEq, List.not_mem_nil, or_false] at he
  rcases he with ⟨rfl, rfl⟩ | ⟨rfl, rfl⟩ | ⟨rfl, rfl⟩ | ⟨rfl, rfl⟩ | ⟨rfl, rfl⟩ | ⟨rfl, rfl⟩ | ⟨rfl, rfl⟩ | ⟨rfl, rfl⟩ | ⟨rfl, rfl⟩ | ⟨rfl, rfl⟩
  · change execQueueCreate head s = _
    rw [execQueueCreate, asks, if_neg Bool.false_ne_true, run _ hfunc (by decide)]
  · change execQueueDisable head s = _
    rw [execQueueDisable]
    dsimp only
    rw [asks, hmail, hagreed, if_neg (by simp), if_neg (by simp), run _ hfunc (by decide)]
  · exact congrArg _ (run _ hfunc (by decide))
  · refine exec_of_quiet ?_ rfl
    change execCodeLoad head s = _
    rw [execCodeLoad, linked, if_neg Bool.false_ne_true, run _ hfunc (by decide)]
  · change execImageStage head true s = _
    rw [execImageStage, linked, if_neg Bool.false_ne_true, run _ hfunc (by decide)]
  · exact congrArg _ (run _ hfunc (by decide))
  · exact congrArg _ (run _ hfunc (by decide))
  · change execDbgHalt head s = _
    rw [execDbgHalt, State.mailReady]
    rw [hmail, hagreed, if_neg (by simp), run _ hfunc (by decide)]
  · change execDbgRead head s = _
    rw [execDbgRead, linked, if_neg Bool.false_ne_true, run _ hfunc (by decide)]
  · exact congrArg _ (run _ hfunc (by decide))

/-! ## QUEUE_CREATE (R353) -/

section

variable (hgo : GoWaits s head.val 0x10 queueFields m) (hq : m.field 0x100 2 < 1024) (hdesc : descOk (m.bytes 0x120 32) = true)
  (hlocked : s.locked (fun t => t.queues.contains (m.field 0x100 2)) = false) (hwant : fieldLe (m.bytes 0x120 32) 18 1 = 0)

include hgo hq hdesc hlocked hwant

/-- A queue is created with its descriptor. -/
theorem queueCreate_ok (hstate : (s.queue (m.field 0x100 2)).state = .disabled) (hlow : m.field 0x103 1 ≤ 1)
    (hhigh : 1 ≤ fieldLe (m.bytes 0x120 32) 11 1) :
    Becomes (.queueCreate head) s fun t => Answers t head.val 0 m ∧ t.queue (m.field 0x100 2) =
      { ring := fieldLe (m.bytes 0x120 32) 0 8, logsz := fieldLe (m.bytes 0x120 32) 8 1, pri := fieldLe (m.bytes 0x120 32) 9 1 % 8
        head := fieldLe (m.bytes 0x120 32) 9 1 / 128, vermin := 0, vermaj := 1, pasid := fieldLe (m.bytes 0x120 32) 12 4
        vec := fieldLe (m.bytes 0x120 32) 16 2, state := .active } := by
  have shares : sharesMajor (fieldLe (m.bytes 0x120 32) 11 1) (m.field 0x103 1) = true := by simp [sharesMajor, hlow, hhigh]
  obtain ⟨d, h, hset⟩ := s.setQueue_frame (m.field 0x100 2) (queueOf {} (m.bytes 0x120 32))
  have made : s.mailQueue head.val m = ((s.setQueue (m.field 0x100 2) (queueOf {} (m.bytes 0x120 32))).mailPut head.val 0x12A [0, 1], 0) := by
    rw [State.mailQueue]
    rw [hdesc, hlocked, hstate, if_neg (by simp [Nat.not_le.mpr hq]), if_neg Bool.false_ne_true]
    dsimp only
    rw [State.putQueue, if_neg (by simp [hwant]), if_neg (by simp [shares]), hstate]
    rfl
  have hexec : exec (.queueCreate head) s =
      .next (((s.setQueue (m.field 0x100 2) (queueOf {} (m.bytes 0x120 32))).mailPut head.val 0x12A [0, 1]).mailEnd head.val 0) := by
    change execQueueCreate head s = _
    rw [execQueueCreate, hgo.1, State.asksDisable_of_goWaits hgo hq hdesc hlocked hwant, hstate, if_neg (by decide),
      State.mailRun_of_goWaits hgo, made]
  rw [hset] at hexec
  refine ⟨_, hexec, answers_mailEnd (payload := (m.put 0x12A [0, 1]).payload) ?_ 0, queue_kset_self rfl⟩
  have mail : (({ s with queues := kset s.queues (m.field 0x100 2) (queueOf {} (m.bytes 0x120 32)), dev := d, host := h } : State).head
      head.val).mail = m := hgo.1
  rw [State.mailPut, head_modHead, if_pos rfl, mail]
  rfl

/-- A queue that runs is disabled. -/
theorem queueDisable_ok (hstate : (s.queue (m.field 0x100 2)).state = .active ∨ (s.queue (m.field 0x100 2)).state = .error)
    (hquiet : NoSnoop s (s.disableQueue (m.field 0x100 2) 0xAF)) :
    Becomes (.queueDisable head) s fun t => Answers t head.val 0 m ∧ (t.queue (m.field 0x100 2)).state = .disabled := by
  obtain ⟨work, stopped⟩ := s.disableQueue_spec (m.field 0x100 2) 0xAF
  have asks : s.asksDisable m = true := by
    rw [State.asksDisable_of_goWaits hgo hq hdesc hlocked hwant]
    rcases hstate with h | h <;> rw [h] <;> rfl
  have hexec : exec (.queueDisable head) s = .next (s.orSnoop ((s.disableQueue (m.field 0x100 2) 0xAF).mailEnd head.val 0)) := by
    obtain ⟨hmail, -, -, hturn, -, -⟩ := hgo
    change execQueueDisable head s = _
    rw [execQueueDisable]
    dsimp only
    rw [hmail, asks, hturn]
    rfl
  refine ⟨_, exec_of_part hexec rfl hquiet, answers_mailEnd (payload := m.payload) ?_ 0, stopped.1⟩
  rw [work.head head.val]
  exact hgo.1

end

/-! ## PASID_REGISTER, CODE_LOAD, IMAGE_STAGE, EVRING, TDI_DEFINE -/

/-- A PASID is registered. -/
theorem pasidRegister_ok (hgo : GoWaits s head.val 0x20 pasidFields m) (hpasid : m.field 0x100 4 < 2 ^ 20) (hflags : m.field 0x104 1 < 4)
    (hroot : m.field 0x108 8 < 2 ^ 44) (hbase : m.field 0x110 8 % 65536 = 0) (hsize : m.field 0x118 8 % 65536 = 0)
    (hleast : 4194304 ≤ m.field 0x118 8) (hmost : m.field 0x118 8 ≤ 2 ^ 40)
    (hlocked : s.locked (fun t => t.pasids.contains (m.field 0x100 4)) = false)
    (hidle : ∀ c ∈ s.crews, c.2.pasid = m.field 0x100 4 → c.2.alive = false) :
    Becomes (.pasidRegister head) s fun t => Answers t head.val 0 m ∧ t = { s with heads := t.heads, pasids := t.pasids } ∧
      kget t.pasids (m.field 0x100 4) = some ⟨m.field 0x108 8, if m.field 0x104 1 / 2 % 2 = 1 then 5 else 4,
        decide (m.field 0x104 1 % 2 = 1), m.field 0x110 8, m.field 0x118 8, head.val⟩ := by
  have idle : (s.crews.any fun c => c.2.pasid == m.field 0x100 4 && c.2.alive) = false :=
    List.any_eq_false.mpr fun c hc => by
      by_cases h : c.2.pasid = m.field 0x100 4
      · simp [hidle c hc h]
      · simp [h]
  have registered : s.mailPasid head.val m = ({ s with pasids := kset s.pasids (m.field 0x100 4) ⟨m.field 0x108 8,
      if m.field 0x104 1 / 2 % 2 = 1 then 5 else 4, decide (m.field 0x104 1 % 2 = 1), m.field 0x110 8, m.field 0x118 8, head.val⟩ }, 0) := by
    rw [State.mailPasid]
    dsimp only
    rw [hlocked, idle, Bool.and_false, if_neg (by omega), if_neg Bool.false_ne_true, if_neg Bool.false_ne_true]
    simp [bitOf, mbOk, beq_eq_decide]
  have hexec : exec (.pasidRegister head) s = .next (s.mailRun head.val 0x20 pasidFields fun m => s.mailPasid head.val m) := rfl
  rw [State.mailRun_of_goWaits hgo, registered] at hexec
  exact ⟨_, hexec, answers_mailEnd (payload := m.payload) hgo.1 0, rfl, kget_kset_self _ _ _⟩

/-- Code is loaded, and no instruction store keeps what was there. -/
theorem codeLoad_ok {u : State} (hgo : GoWaits s head.val 0x30 codeFields m) (hsrc : m.field 0x100 8 % 4 = 0) (hdst : m.field 0x108 8 % 4 = 0)
    (hpasid : m.field 0x110 4 < 2 ^ 20) (hlen : m.field 0x114 4 % 4 = 0) (hleast : 4 ≤ m.field 0x114 4) (hmost : m.field 0x114 4 ≤ 2 ^ 30)
    (hup : s.headUp head.val = true)
    (hwrite : s.cmdWrite (m.field 0x110 4) (m.field 0x108 8) (memBytes s.host (hostPa head.val (m.field 0x100 8)) (m.field 0x114 4)) =
      (u, .ok ())) (hquiet : NoSnoop s u) :
    Becomes (.codeLoad head) s fun t => Answers t head.val 0 m ∧ t.dev = u.dev ∧ t.host = u.host ∧ t.crews = u.crews := by
  have work := s.cmdWrite_work (m.field 0x110 4) (m.field 0x108 8) (memBytes s.host (hostPa head.val (m.field 0x100 8)) (m.field 0x114 4))
  rw [hwrite] at work
  change HomeWork s u at work
  have loaded : s.mailCode head.val m = (u.icinv (m.field 0x110 4) (m.field 0x108 8) (m.field 0x114 4), 0) := by
    rw [State.mailCode]
    rw [if_neg (by omega), hwrite]
    rfl
  have hexec : exec (.codeLoad head) s =
      .next (s.orSnoop ((u.icinv (m.field 0x110 4) (m.field 0x108 8) (m.field 0x114 4)).mailEnd head.val 0)) := by
    change execCodeLoad head s = _
    rw [execCodeLoad, hup, State.mailRun_of_goWaits hgo, loaded]
    rfl
  refine ⟨_, exec_of_part hexec rfl hquiet, answers_mailEnd (payload := m.payload) ?_ 0, rfl, rfl, rfl⟩
  have kept : u.head head.val = s.head head.val := by rw [State.head, work.eq]; rfl
  exact (congrArg Head.mail kept).trans hgo.1

/-- An image is staged, or rejected with its cause. -/
theorem imageStage_ok (hgo : GoWaits s head.val 0x40 imageFields m) (hsrc : m.field 0x100 8 % 4096 = 0) (hleast : 256 ≤ m.field 0x108 4)
    (hmost : m.field 0x108 4 ≤ 2 ^ 26) (hup : s.headUp head.val = true) :
    let bs := memBytes s.host (hostPa head.val (m.field 0x100 8)) (m.field 0x108 4)
    let good := imageHeadWell (m.field 0x108 4) (bs.take 256)
    (good = true → digestOk bs = true → Becomes (.imageStage head true) s fun t => Answers t head.val 0 m ∧
        t = { s with heads := t.heads, staged := some (imageOf bs) }) ∧
    ∀ signed, (good = false →
        exec (.imageStage head signed) s = .next ((s.plainReport 0xBA 0 head.val (m.field 0x100 8)).mailEnd head.val 5)) ∧
      (good = true → (signed && digestOk bs) = false →
        exec (.imageStage head signed) s = .next ((s.plainReport 0xB9 0 head.val (m.field 0x100 8)).mailEnd head.val 5)) := by
  intro bs good
  have hexec : ∀ signed, exec (.imageStage head signed) s =
      .next ((s.mailImage head.val signed m).1.mailEnd head.val (s.mailImage head.val signed m).2) := fun signed => by
    change execImageStage head signed s = _
    rw [execImageStage, hup, State.mailRun_of_goWaits hgo]
    rfl
  have image : ∀ signed, s.mailImage head.val signed m =
      if !good then (s.plainReport 0xBA 0 head.val (m.field 0x100 8), mbSignature)
      else if signed && digestOk bs then ({ s with staged := some (imageOf bs) }, mbOk)
      else (s.plainReport 0xB9 0 head.val (m.field 0x100 8), mbSignature) := fun signed => by
    rw [State.mailImage]
    exact if_neg (by omega)
  refine ⟨fun hgood hdigest => ?_, fun signed => ⟨fun hgood => ?_, fun hgood hsigned => ?_⟩⟩
  · have here := hexec true
    rw [image, hgood, hdigest] at here
    exact ⟨_, here, answers_mailEnd (payload := m.payload) hgo.1 0, rfl⟩
  · rw [hexec, image, hgood]
    rfl
  · rw [hexec, image, hgood, hsigned]
    rfl

/-- A ring of reports is given to a head for which none is held. -/
theorem evring_ok (hgo : GoWaits s head.val 0x50 ringFields m) (hbase : m.field 0x100 8 % 4096 = 0) (hleast : 4 ≤ m.field 0x108 1)
    (hmost : m.field 0x108 1 ≤ 16) (hvec : m.field 0x10A 2 < 2 ^ 11) (hheld : ∀ r ∈ s.held, r.head ≠ head.val) :
    Becomes (.evring head) s fun t => Answers t head.val 0 m ∧ t = { s with heads := t.heads } ∧
      (t.head head.val).ring = some (m.field 0x100 8, m.field 0x108 1, m.field 0x10A 2) ∧ (t.head head.val).evw = 0 := by
  have none : (s.held.filter fun r => r.head == head.val) = [] := List.filter_eq_nil_iff.mpr fun r hr => by simpa using hheld r hr
  have all : (s.held.filter fun r => r.head != head.val) = s.held := List.filter_eq_self.mpr fun r hr => by simpa using hheld r hr
  have ringed : s.mailRing head.val m = (s.modHead head.val fun h =>
      { h with ring := some (m.field 0x100 8, m.field 0x108 1, m.field 0x10A 2), evw := 0 }, 0) := by
    rw [State.mailRing]
    dsimp only
    rw [if_neg (by omega), none, all]
    rfl
  have hexec : exec (.evring head) s = .next (s.mailRun head.val 0x50 ringFields fun m => s.mailRing head.val m) := rfl
  rw [State.mailRun_of_goWaits hgo, ringed] at hexec
  have here := head_modHead s head.val head.val fun h =>
    { h with ring := some (m.field 0x100 8, m.field 0x108 1, m.field 0x10A 2), evw := 0 }
  rw [if_pos rfl] at here
  refine ⟨_, hexec, answers_mailEnd (payload := m.payload) ?_ 0, rfl, ?_, ?_⟩
  · rw [here]; exact hgo.1
  · rw [State.mailEnd_head, here]
  · rw [State.mailEnd_head, here]

/-- A TDI is defined. -/
theorem tdiDefine_ok (hgo : GoWaits s head.val 0x60 tdiFields m) :
    let qs := (List.range (m.field 0x102 2)).map fun i => m.field (0x110 + 2 * i) 2
    let ps := (List.range (m.field 0x104 2)).map fun i => m.field (0x110 + 4 * ((m.field 0x102 2 + 1) / 2) + 4 * i) 4
    let key := 64 * head.val + m.field 0x100 1
    m.field 0x100 1 < 64 → 0 < m.field 0x102 2 → m.field 0x102 2 ≤ 1024 → m.field 0x104 2 ≤ 64 → (∀ p ∈ ps, p < 2 ^ 20) →
    (∀ q ∈ qs, s.badQueue head.val key q = false) → (∀ t, kget s.tdis key = some t → t.state = .unlocked) →
    Becomes (.tdiDefine head) s fun t => Answers t head.val 0 m ∧ t = { s with heads := t.heads, tdis := t.tdis } ∧
      kget t.tdis key = some ⟨qs, ps, .unlocked, none⟩ := by
  intro qs ps key htdi hsome hqueues hpasids hps hqs hfree
  have noPasid : (ps.any fun p => decide (2 ^ 20 ≤ p)) = false := List.any_eq_false.mpr fun p hp => by simpa using hps p hp
  have noQueue : (qs.any fun q => s.badQueue head.val key q) = false := List.any_eq_false.mpr fun q hq => by simp [hqs q hq]
  have unlocked : ((kget s.tdis key).map fun t => t.state != .unlocked).getD false = false := by
    cases hk : kget s.tdis key with
    | none => rfl
    | some t => simp [hfree t hk]
  have inRange : (decide (64 ≤ m.field 0x100 1) || m.field 0x102 2 == 0 || decide (1024 < m.field 0x102 2) ||
      decide (64 < m.field 0x104 2)) = false := by
    simp only [Bool.or_eq_false_iff, decide_eq_false_iff_not, beq_eq_false_iff_ne]
    omega
  have defined : s.mailTdi head.val m =
      ({ s with tdis := kset s.tdis key { queues := qs, pasids := ps, state := .unlocked, session := none } }, 0) := by
    change (if decide (64 ≤ m.field 0x100 1) || m.field 0x102 2 == 0 || decide (1024 < m.field 0x102 2) || decide (64 < m.field 0x104 2) ||
        (ps.any fun p => decide (2 ^ 20 ≤ p)) || qs.any fun q => s.badQueue head.val key q then (s, mbBad)
      else if ((kget s.tdis key).map fun t => t.state != .unlocked).getD false then (s, mbRefused)
      else ({ s with tdis := kset s.tdis key { queues := qs, pasids := ps, state := .unlocked, session := none } }, mbOk)) = _
    rw [inRange, noPasid, noQueue, unlocked]
    rfl
  have hexec : exec (.tdiDefine head) s = .next (s.mailRun head.val 0x60 tdiFields fun m => s.mailTdi head.val m) := rfl
  rw [State.mailRun_of_goWaits hgo, defined] at hexec
  exact ⟨_, hexec, answers_mailEnd (payload := m.payload) hgo.1 0, rfl, kget_kset_self _ _ _⟩

/-! ## The debugger (R410) -/

section

variable {id : Nat} {c : Crew}

/-- A running crew begins to be saved for a halt. -/
theorem dbgHalt_ok (hc : kget s.crews id = some c) (hcrew : s.dbgCrew m = some (id, c)) (hgo : GoWaits s head.val 0x70 dbgFields m)
    (hlife : c.life = .running) :
    Becomes (.dbgHalt head) s fun t => Answers t head.val 0 m ∧ t = { s with heads := t.heads, crews := t.crews } ∧
      kget t.crews id = some { c with life := .halting } := by
  have ready : s.mailReady head.val 0x70 = true := by
    obtain ⟨hmail, hbusy, hfunc, hturn, hagreed, hzeros⟩ := hgo
    simp [State.mailReady, hmail, hbusy, hfunc, hturn, hagreed, hzeros]
  have hexec : exec (.dbgHalt head) s = .next ((s.modCrew id fun c => { c with life := .halting }).mailEnd head.val 0) := by
    change execDbgHalt head s = _
    rw [execDbgHalt, ready, if_pos rfl, hgo.1, State.mailHalt, hcrew]
    dsimp only
    rw [hlife]
    rfl
  refine ⟨_, hexec, answers_mailEnd (payload := m.payload) hgo.1 0, rfl, ?_⟩
  change kget (kmod s.crews id _) id = _
  rw [kget_kmod_self, hc]
  rfl

/-- The image of a halted crew is written to host memory. -/
theorem dbgRead_ok (hcrew : s.dbgCrew m = some (id, c)) (hgo : GoWaits s head.val 0x71 dbgReadFields m) (hup : s.headUp head.val = true)
    (hlife : c.life = .halted) (hplace : m.field 0x110 8 % 64 = 0) (hroom : (s.imageBytes id c).length ≤ m.field 0x118 4) (hwf : s.memWf) :
    Becomes (.dbgRead head) s fun t => Answers t head.val 0 m ∧ t = { s with heads := t.heads, host := t.host } ∧
      (t.head head.val).mail.bytes 0x11C 4 = leBytes 4 (s.imageBytes id c).length ∧
      Stored (memRead s.host) (memRead t.host) (hostPa head.val (m.field 0x110 8)) (s.imageBytes id c) := by
  obtain ⟨-, hhost, -⟩ := hwf
  have read : s.mailRead head.val m = (({ s with host := memWrites s.host (hostPa head.val (m.field 0x110 8)) (s.imageBytes id c) } : State).mailPut
      head.val 0x11C (leBytes 4 (s.imageBytes id c).length), 0) := by
    rw [State.mailRead, hcrew]
    dsimp only
    rw [if_neg (by omega), if_neg (by simp [hlife]), if_neg (by omega)]
    rfl
  have hexec : exec (.dbgRead head) s = .next ((({ s with
      host := memWrites s.host (hostPa head.val (m.field 0x110 8)) (s.imageBytes id c) } : State).mailPut
      head.val 0x11C (leBytes 4 (s.imageBytes id c).length)).mailEnd head.val 0) := by
    change execDbgRead head s = _
    rw [execDbgRead, hup, State.mailRun_of_goWaits hgo, read]
    rfl
  have here : ((({ s with host := memWrites s.host (hostPa head.val (m.field 0x110 8)) (s.imageBytes id c) } : State).mailPut
      head.val 0x11C (leBytes 4 (s.imageBytes id c).length)).head head.val).mail = m.put 0x11C (leBytes 4 (s.imageBytes id c).length) := by
    have mail : (({ s with host := memWrites s.host (hostPa head.val (m.field 0x110 8)) (s.imageBytes id c) } : State).head
        head.val).mail = m := hgo.1
    rw [State.mailPut, head_modHead, if_pos rfl, mail]
  refine ⟨_, hexec, answers_mailEnd (payload := (m.put 0x11C (leBytes 4 (s.imageBytes id c).length)).payload) ?_ 0, rfl, ?_,
    stored_of_reads fun x => memRead_memWrites hhost _ _ x⟩
  · rw [here]; rfl
  · rw [State.mailEnd_head, here]
    have put := m.bytes_put 0x11C (leBytes 4 (s.imageBytes id c).length)
    rwa [leBytes_length] at put

/-- A halted crew is a saved one again. -/
theorem dbgResume_ok (hc : kget s.crews id = some c) (hcrew : s.dbgCrew m = some (id, c)) (hgo : GoWaits s head.val 0x72 dbgFields m)
    (hlife : c.life = .halted) :
    Becomes (.dbgResume head) s fun t => Answers t head.val 0 m ∧ t = { s with heads := t.heads, crews := t.crews } ∧
      kget t.crews id = some { c with life := .saved } := by
  have resumed : s.mailResume m = (s.modCrew id fun c => { c with life := .saved }, 0) := by
    rw [State.mailResume, hcrew]
    exact if_neg (by simp [hlife])
  have hexec : exec (.dbgResume head) s = .next (s.mailRun head.val 0x72 dbgFields fun m => s.mailResume m) := rfl
  rw [State.mailRun_of_goWaits hgo, resumed] at hexec
  refine ⟨_, hexec, answers_mailEnd (payload := m.payload) hgo.1 0, rfl, ?_⟩
  change kget (kmod s.crews id _) id = _
  rw [kget_kmod_self, hc]
  rfl

end

/-! ## Registers (R389, R391, R407) -/

/-- A report of an access below READY sends no snoop. -/
theorem notReady_quiet (s : State) (head off : Nat) : NoSnoop s (s.notReady head off) :=
  (State.plainReport_work _ _ _ _ _).quiet s (noSnoop_of_hostOut rfl)

/-- The registers of the management space that are read and written in each stage. -/
theorem registerWrite_ok (off : Nat) (val : Word64) (halign : off % 8 = 0) :
    (s.stage = stageReady → off = 0x20000 → 1 ≤ val.toNat % 128 → val.toNat % 128 ≤ 64 →
      exec (.registerWrite head off (.write val)) s = .next { s with xlLease := val.toNat % 128 }) ∧
    (s.stage ≠ stageReady → off ≠ 0 → off ≠ 8 →
      ((off = 0x10000 → val.toNat / 2 ^ 63 % 2 = 0) → exec (.registerWrite head off (.write val)) s = .next (s.notReady head.val off)) ∧
      Becomes (.registerWrite head off .read) s fun t => t = { s.notReady head.val off with hostOut := t.hostOut } ∧
        t.hostOut = (s.notReady head.val off).hostOut ++ [.value head.val off 0]) ∧
    exec (.registerWrite head 0 .read) s = .next { s with
      hostOut := s.hostOut ++ [.value head.val 0 (16 * s.stage + if (s.head head.val).nr then 8 else 0)] } ∧
    exec (.registerWrite head 8 .read) s = .next { s with hostOut := s.hostOut ++ [.value head.val 8 (s.tick % 2 ^ 64)] } := by
  have write : exec (.registerWrite head off (.write val)) s = .next (s.orSnoop (s.writeReg head.val off val.toNat)) := by
    change execRegisterWrite head off (.write val) s = _
    rw [execRegisterWrite, if_neg (not_not.mpr halign)]
  have read : ∀ o, o % 8 = 0 → exec (.registerWrite head o .read) s = .next (s.hostReads head.val o) := fun o ho => by
    change execRegisterWrite head o .read s = _
    rw [execRegisterWrite, if_neg (not_not.mpr ho)]
  refine ⟨fun hready hoff hlow hhigh => ?_, fun hstage hzero height => ⟨fun hgo => ?_, ?_⟩, ?_, ?_⟩
  · subst hoff
    have written : s.writeReg head.val 0x20000 val.toNat = { s with xlLease := val.toNat % 128 } := by
      rw [State.writeReg, if_neg fun h => h.1 hready]
      change (if val.toNat % 128 = 0 ∨ 64 < val.toNat % 128 then s else { s with xlLease := val.toNat % 128 }) = _
      rw [if_neg (by omega)]
    rw [written] at write
    exact exec_of_quiet write rfl
  · have written : s.writeReg head.val off val.toNat = s.notReady head.val off := by
      have unset : ¬(off = 0x10000 ∧ bitOf val.toNat 63 = true) := fun ⟨hoff, hbit⟩ => by rw [bitOf, hgo hoff] at hbit; cases hbit
      rw [State.writeReg, if_pos ⟨hstage, hzero, height, unset⟩]
    rw [written, State.orSnoop_of_noSnoop (notReady_quiet ..)] at write
    exact write
  · have value : s.readReg head.val off = (s.notReady head.val off, 0) := by rw [State.readReg, if_pos ⟨hstage, hzero, height⟩]
    have hexec := read off halign
    rw [State.hostReads, value] at hexec
    exact ⟨_, hexec, rfl, rfl⟩
  · rw [read 0 rfl, State.hostReads, State.readReg, if_neg (by simp)]
    change Host.Outcome.next { s with hostOut := s.hostOut ++ [HostOut.value head.val 0 (s.stage * 16 + if (s.head head.val).nr then 8 else 0)] } = _
    rw [Nat.mul_comm]
  · rw [read 8 rfl, State.hostReads, State.readReg, if_neg (by simp)]
    rfl

end

/-- Settles O57: a function whose GO waits runs on its mailbox alone, so each one's effect is read off its own definition. -/
theorem mailboxEvents : Obligations.MailboxEvents := by
  unfold Obligations.MailboxEvents
  refine ⟨fun s head m hmail hbusy => ⟨version_ok hmail hbusy,
      fun e func he hfunc hagreed hturn hup => unagreed_ok hmail hbusy hagreed hturn hup he hfunc⟩,
    fun s head m hgo hq hdesc hlocked hwant => ⟨queueCreate_ok hgo hq hdesc hlocked hwant, queueDisable_ok hgo hq hdesc hlocked hwant⟩,
    fun s head m => pasidRegister_ok, fun s u head m => codeLoad_ok, fun s head m => imageStage_ok, fun s head m => evring_ok,
    fun s head m => tdiDefine_ok, fun s head m id c hc hcrew => ⟨dbgHalt_ok hc hcrew, dbgRead_ok hcrew, dbgResume_ok hc hcrew⟩,
    fun s head off val => registerWrite_ok off val⟩

end Sys2Proof.Proofs
end
